-- ==== Sys2Proof/Word.lean ====
section
/-! DEFINITION. The word types and the operand types of the block's commands. The table of operations
(spec/opcode_table.json) gives its rows no operand bits; each operand type below holds what the rule named
in its docstring lets the outside of the block decide: a field the host writes, a reading of a sensor, an
outcome of an analogue part, or the answer of a unit program that the spec leaves to the Ingot. -/

namespace Sys2Proof

abbrev Byte := BitVec 8
abbrev Word16 := BitVec 16
abbrev Word32 := BitVec 32
abbrev Word64 := BitVec 64
/-- FP32 bit pattern (Table 5-1, code 0x0). -/
abbrev F32 := BitVec 32
/-- BF16 bit pattern (Table 5-1, code 0x1). -/
abbrev BF16 := BitVec 16

abbrev Ctrl := Fin 2
abbrev EngineId := Fin 48
abbrev BenchId := Fin 512
abbrev QuarterId := Fin 4
abbrev DieId := Fin 32
abbrev StackId := Fin 24

/-- The name of a host command: controller, submission queue and command identifier (R210, R390). -/
structure Key where
  ctrl : Ctrl
  sqid : Nat
  cid : Word16
  deriving DecidableEq, Repr

/-- One SGL descriptor: its type and the bytes it describes (Table 15-6 SGLS, R385).
Types 0 = Data Block, 2 = Segment, 3 = Last Segment. -/
structure SglDesc where
  type : BitVec 4
  len : Nat
  deriving DecidableEq, Repr

/-- A submission entry as the Hub holds it after the fetch (R385, R389). -/
structure Sqe where
  key : Key
  opcode : Byte
  fuse : BitVec 2
  psdt : BitVec 2
  nsid : Word32
  cdw10 : Word32
  cdw11 : Word32
  cdw12 : Word32
  cdw13 : Word32
  cdw14 : Word32
  cdw15 : Word32
  sgl : List SglDesc
  deriving DecidableEq, Repr

/-- Where an SPDM request arrives: the DOE mailbox of a function, or MCTP on the BMC port (R361). -/
inductive SpdmPort where
  | doe (c : Ctrl)
  | mctp
  deriving DecidableEq, Repr

/-- The key slot an IDE_KM message names (R374, R375): stream, key set, direction and sub-stream. -/
structure IdeSel where
  stream : BitVec 2
  keySet : Bool
  tx : Bool
  sub : BitVec 4
  deriving DecidableEq, Repr

/-- The three arrays of the Pewter array that work independently (R295), the option area counted apart as its
checker is (Table 13-5A). -/
inductive PwtArray where
  | bank0 | bank1 | vault | option
  deriving DecidableEq, Repr

/-- What an Assay check names (Table 13-5, Table 13-5A). -/
inductive AssayPart where
  | tile (e : EngineId) (t : Fin 16)
  | operandStore (e : EngineId)
  | accStore (e : EngineId)
  | engineAux (e : EngineId)
  | quarterStore (q : QuarterId)
  | benchSram (b : BenchId)
  | stack (k : StackId)
  | pewter (a : PwtArray)
  | mcSram
  deriving DecidableEq, Repr

/-- The sources of Table 17-4. -/
inductive Source where
  | scheduler | powerManager | pewter | sterling | mgmt
  | hostPort (c : Ctrl)
  | engine (e : EngineId)
  | quarterStore (q : QuarterId)
  | stack (k : StackId)
  | modelCache (q : QuarterId)
  | bench (b : BenchId)
  | link (d : DieId)
  deriving DecidableEq, Repr

/-- Table 17-2. -/
inductive Severity where
  | informational | corrected | degraded | failed
  deriving DecidableEq, Repr

/-- A report on its way to a ring: severity, KIND, the granule it names (for R330), and body bytes 17 to 63. -/
structure Report where
  sev : Severity
  kind : Byte
  granule : Option Nat
  body : List Byte
  deriving DecidableEq, Repr

/-- A memory space of R170, with its unit. Stacked memory is one space (R170) whose unit is 0. -/
inductive Space where
  | operand (e : EngineId)
  | acc (e : EngineId)
  | quarter (q : QuarterId)
  | sram (b : BenchId)
  | stacked
  deriving DecidableEq, Repr

/-- A byte address in a memory space (the tier address of R170 taken apart). -/
structure TierAddr where
  space : Space
  off : Nat
  deriving DecidableEq, Repr

/-- A named cache object: a segment of an Ingot (R182, R193). -/
structure CacheId where
  ingot : Word32
  segment : Nat
  deriving DecidableEq, Repr

/-- What a job fault was: its status code (Table 17-1), the Engine reason (Table 4-10) or the Bench reason
(R263) and the part it was met on. -/
inductive FaultCause where
  | engine (e : EngineId) (reason : Byte) (op : Byte)
  | bench (b : BenchId) (reason : Byte)
  | memory (s : Space)
  | status (sc : Byte)
  deriving DecidableEq, Repr

/-- Measured power of one interval (R401, R404): demand of each domain (its draw plus the draw of the work it
withheld), the draw of FIXED, the mean and peak input power, and whether the 10 µs average of the input exceeded
the cap with all C1 to C3 work withheld (R405). -/
structure PowerObs where
  engineDemand : Nat
  memoryDemand : Nat
  flashDemand : Nat
  fixedDraw : Nat
  avgW : Nat
  peakW : Nat
  energyMj : Nat
  engineMj : Nat
  memoryMj : Nat
  flashMj : Nat
  c0Withheld : Bool
  deriving DecidableEq, Repr

/-- What the outside fixes at a Stroke boundary: the reference time of the module's boundary in ns, the length of the Stroke
that ends in ns, whether it was lengthened or shortened (R70), the time by which work planned for earlier Strokes still occupies each
resource (R86: Engine e is resource e, Bench b is 48 + b), and the power measurements. -/
structure BoundaryObs where
  refTime : Nat
  lengthNs : Nat
  slewed : Bool
  late : List (Nat × Nat)
  power : PowerObs
  deriving DecidableEq, Repr

/-- One reading of every sensor of Table 16-8, °C for temperatures (signed), mL/min for flow, half degrees for the
coolant as PWR_COOLANT reports it, and the input of J2 (10 mV and 10 mA units). -/
structure SensorReadings where
  quarter : List Int
  stack : List Int
  die : List Int
  nand : List Int
  hub : Int
  bank : Int
  inletHalf : Nat
  outletHalf : Nat
  flowMl : Nat
  volts : Nat
  amps : Nat
  deriving DecidableEq, Repr

/-- What the cells show a Burnish pass (R323, Table 13-4), in the order of its summary: errors beyond the words left poisoned.
The granules it withheld (`newWithheld`) and returned (`returned`) are 64 KiB granule numbers of the space burnished. -/
structure BurnishFindings where
  ceFixed : Nat
  ueFound : Nat
  firstUe : Option Nat
  tested : Nat
  returned : List Nat
  newWithheld : List Nat
  deriving DecidableEq, Repr

/-- Elementwise operations of Table 4-7A. -/
inductive VopKind where
  | add | mul | fma | min | max | cmp | select
  | exp2 | log2 | recip | rsqrt | sqrt | tanh | erf | sigmoid
  deriving DecidableEq, Repr

/-- A vector operand: accumulator store or operand store, as a byte offset. -/
structure VecLoc where
  acc : Bool
  off : Nat
  deriving DecidableEq, Repr

/-- VOP operands (Table 4-9): operation, up to three FP32 source runs, destination run, length in values. -/
structure VopArgs where
  kind : VopKind
  srcA : VecLoc
  srcB : VecLoc
  srcC : VecLoc
  dst : VecLoc
  len : Nat
  deriving DecidableEq, Repr

/-- VRED operands (Table 4-9, Table 6-2): OP value, source, row length, rows, destination. -/
structure VredArgs where
  op : BitVec 4
  src : VecLoc
  rowLen : Nat
  rows : Nat
  dst : VecLoc
  deriving DecidableEq, Repr

/-- XFER operands (Table 4-9, R141): 64-bit tier addresses of source and destination, length, block tag. -/
structure XferArgs where
  src : Word64
  dst : Word64
  len : Nat
  tag : Word16
  deriving DecidableEq, Repr

/-- BR conditions (Table 4-9). -/
inductive BrCond where
  | always | loop | semBroken | overflow
  deriving DecidableEq, Repr

/-- Target of a register access: the BAR2 window, a function's BAR0 registers, the PWT block at 0xE000_0000 of the
Management Controller (R296), a function's MSI-X Message Control word (R432), controller 0's PTM Control register (R377), or an
address of the Management Controller outside its PWT block, fetched as an instruction or not (R295, R309). -/
inductive RegTarget where
  | bar2 (off : Nat)
  | bar0 (c : Ctrl) (off : Nat)
  | pwt (off : Nat)
  | msixControl (c : Ctrl)
  | ptmControl
  | array (addr : Nat) (fetch : Bool)
  deriving DecidableEq, Repr

/-- A NAND block of a Bench: die, plane, block within the plane (Table 11-1). -/
structure BlockId where
  die : Fin 8
  plane : Fin 4
  block : Nat
  deriving DecidableEq, Repr

/-- A physical NAND page of a Bench. -/
structure PhysPage where
  blk : BlockId
  row : Nat
  deriving DecidableEq, Repr

/-- How a page read went (R274, Table 11-7): the step at which it completed, in step 2 with the sets it tried before the
last, in step 3 with the set it completed at; or the codewords still failing after step 3. -/
inductive ReadOutcome where
  | step1
  | retry (before : Fin 16)
  | soft (set : Fin 17)
  | uncorrectable (codewords : List Nat)
  deriving DecidableEq, Repr

/-- What a MOLD_LOAD finds on the media: flush-log blocks whose erase fails (R277), and Collections of whose lost metadata it
finds a readable copy (Table 11-8). -/
structure MountFindings where
  eraseFails : List (BenchId × BlockId)
  readable : List Nat
  deriving DecidableEq, Repr

/-- A Mold image in the order of its bytes, and what its mount will find on the media (R34). -/
structure MoldUpload where
  bytes : List Byte
  findings : MountFindings
  deriving DecidableEq, Repr

/-- An operand with the time in µs for which the row's work occupied its Bench or Engine (R73, log 4). -/
structure Timed (α : Type) where
  what : α
  us : Nat
  deriving DecidableEq, Repr

/-- A frame of a Channel link: the key it goes under, in the order of R244, and that key's 64-bit frame counter. -/
structure LinkFrame where
  key : Fin 4
  counter : Nat
  deriving DecidableEq, Repr

/-- A Channel link and those of its eight lanes that have trained (R244). -/
structure LinkLanes where
  die : DieId
  trained : BitVec 8
  deriving DecidableEq, Repr

/-- A Channel link and its frames without an acknowledgement, in their order (R247). -/
structure LinkUnacked where
  die : DieId
  frames : List LinkFrame
  deriving DecidableEq, Repr

/-- A stacked granule that has been reloaded, and the commands that waited for it (Table 13-3). -/
structure Reload where
  granule : Nat
  waiters : List Key
  deriving DecidableEq, Repr

/-- Who reads a page, by the suspension rule of R284 and the outcome rule of Table 11-8. -/
inductive Reader where
  | c0 | refetch (o : CacheId) | flush | objGet (k : Key) | ingest | sweep | patrol | burnish | metadata (copyOk : Bool) | other
  deriving DecidableEq, Repr

/-- One fragment of a Custodian message (Table 14-3), with the frame's EtherType and source address. -/
structure CustFrame where
  fcsOk : Bool
  etherType : Word16
  source : BitVec 48
  magic : Word16
  version : Byte
  last : Bool
  msgId : Word32
  off : Nat
  len : Nat
  bytes : List Byte
  deriving DecidableEq, Repr

/-- The rails of Table 16-4, with the instance where a row has several. -/
inductive Rail where
  | hubCore | pewter
  | nandVcc (g : DieId) | nandVccq (g : DieId)
  | quarterCore (q : QuarterId) | stack (k : StackId) | channelDie (d : DieId)
  deriving DecidableEq, Repr

/-- Which Burnish ends: a host slot or the automatic one of a memory unit (R324, R325). -/
inductive BurnishRef where
  | slot (s : Fin 4)
  | auto (u : Nat)
  deriving DecidableEq, Repr

/-- One hit on its way to the gate (R220, R224, Table 8-9): its object, passage and FP32 score. -/
structure Hit where
  object : Nat
  passage : Nat
  score : F32
  deriving DecidableEq, Repr

/-- What a unit execution reports at its end, which its Ingot code decides and the spec does not (R162, R209):
progress, the candidates and hits it offers, whether it was the job's last, and the time the module measured for each
of its parts, that on the Quarter fabric apart (R19). -/
structure UnitResult where
  engineUs : Nat
  benchUs : Nat
  fabricUs : Nat
  candidates : Nat
  progress : Nat
  hits : List Hit
  last : Bool
  deriving DecidableEq, Repr

/-- A record that the Quarter made of a vector, on its way to its list's Bench (R260, Tables 9-4 and 9-5): its
passage, its body and code, the escapes, and the norm. -/
structure BatchRec where
  object : Nat
  passage : Nat
  wide : Bool
  code : List Byte
  body : List Byte
  escapes : List Word16
  norm2 : F32
  /-- its append waits for a mark (09 R232) -/
  markWait : Bool
  deriving DecidableEq, Repr

end Sys2Proof
end

