-- ==== Sys2Proof/Syntax.lean ====
section
/-! DEFINITION. The commands of the block: one constructor for each row of spec/opcode_table.json, in the table's
order, with the operands that the rule of the row lets the outside decide. -/

namespace Sys2Proof

inductive Instr where
  /-- INPUT_GOOD (R398). -/
  | inputGood (portSplit : Bool) (slotId : BitVec 3)
  /-- STANDBY_BOOT_DONE (R412). -/
  | standbyBootDone
  /-- INPUT_POWER_LOST (R398). -/
  | inputPowerLost (overV : Bool) (committed : Bool)
  /-- MODULE_RESET (R29). -/
  | moduleReset
  /-- PERST_A_DEASSERT (R395). -/
  | perstADeassert (assay : List AssayPart) (untrained : List (BenchId × Fin 8))
  /-- LINK_TRAINING_COMPLETE (R244). -/
  | linkTrainingComplete (d : LinkLanes)
  /-- INTERNAL_BOOT_END (R395). -/
  | internalBootEnd (bootMs : Nat)
  /-- PERST_B_ASSERT (R373). -/
  | perstBAssert
  /-- FUNCTION_LEVEL_RESET (R29). -/
  | functionLevelReset (c : Ctrl)
  /-- CONTROLLER_ENABLE (R381). -/
  | controllerEnable (c : Ctrl) (css : BitVec 3) (iosqes : BitVec 4) (iocqes : BitVec 4)
  /-- CONTROLLER_READY (R395). -/
  | controllerReady (c : Ctrl)
  /-- CONTROLLER_RESET (R384). -/
  | controllerReset (c : Ctrl)
  /-- CONTROLLER_SHUTDOWN (R384). -/
  | controllerShutdown (c : Ctrl) (shn : BitVec 2)
  /-- SQ_TAIL_DOORBELL (R388). -/
  | sqTailDoorbell (c : Ctrl) (qid : Nat) (tail : Nat)
  /-- CQ_HEAD_DOORBELL (R378). -/
  | cqHeadDoorbell (c : Ctrl) (qid : Nat) (head : Nat)
  /-- SUBMISSION_ENTRY_FETCHED (R389). -/
  | submissionEntryFetched (e : Sqe)
  /-- FETCH_SLOTS_FREED (R388). -/
  | fetchSlotsFreed (c : Ctrl)
  /-- HOST_READ_POISONED (R376). -/
  | hostReadPoisoned (k : Key)
  /-- HOST_READ_TIMEOUT (R376). -/
  | hostReadTimeout (k : Key)
  /-- SCHEDULER_ARRIVAL (R79). -/
  | schedulerArrival (k : Key)
  /-- MSIX_VECTOR_UNMASK (R432). -/
  | msixVectorUnmask (c : Ctrl) (vector : Option (Fin 2048))
  /-- PTM_DIALOG_ISSUE (R377). -/
  | ptmDialogIssue
  /-- PTM_DIALOG_COMPLETE (R377). -/
  | ptmDialogComplete (master : Nat) (delayNs : Nat)
  /-- SPDM_GET_VERSION (R361). -/
  | spdmGetVersion (p : SpdmPort)
  /-- SPDM_GET_CAPABILITIES (R361). -/
  | spdmGetCapabilities (p : SpdmPort)
  /-- SPDM_NEGOTIATE_ALGORITHMS (R361). -/
  | spdmNegotiateAlgorithms (p : SpdmPort)
  /-- SPDM_CHALLENGE (R361). -/
  | spdmChallenge (p : SpdmPort) (slot : Byte) (nonce : List Byte)
  /-- SPDM_GET_MEASUREMENTS (R361). -/
  | spdmGetMeasurements (p : SpdmPort) (index : Byte) (sign : Bool) (nonce : List Byte)
  /-- SPDM_UNSUPPORTED_REQUEST (R361). -/
  | spdmUnsupportedRequest (p : SpdmPort) (code : Byte)
  /-- IDE_KM_QUERY (R375). -/
  | ideKmQuery (c : Ctrl) (port : Byte)
  /-- IDE_KM_KEY_PROG (R375). -/
  | ideKmKeyProg (c : Ctrl) (sel : IdeSel) (key : BitVec 256)
  /-- IDE_KM_K_SET_GO (R375). -/
  | ideKmKSetGo (c : Ctrl) (sel : IdeSel)
  /-- IDE_KM_K_SET_STOP (R375). -/
  | ideKmKSetStop (c : Ctrl) (sel : IdeSel)
  /-- IDENTIFY (R380). -/
  | identify (e : Sqe)
  /-- GET_LOG_PAGE (R425). -/
  | getLogPage (e : Sqe) (poison : Option Nat)
  /-- SET_FEATURES (R381). -/
  | setFeatures (e : Sqe) (data : List Byte)
  /-- GET_FEATURES (R381). -/
  | getFeatures (e : Sqe)
  /-- ABORT (R383). -/
  | abort (e : Sqe)
  /-- CREATE_IO_SQ (R43). -/
  | createIoSq (e : Sqe)
  /-- CREATE_IO_CQ (R43). -/
  | createIoCq (e : Sqe)
  /-- DELETE_IO_SQ (R43). -/
  | deleteIoSq (e : Sqe)
  /-- DELETE_IO_CQ (R43). -/
  | deleteIoCq (e : Sqe)
  /-- ASYNC_EVENT_REQUEST (R426). -/
  | asyncEventRequest (e : Sqe)
  /-- FIRMWARE_IMAGE_DOWNLOAD (R382). -/
  | firmwareImageDownload (e : Sqe) (piece : List Byte)
  /-- FIRMWARE_COMMIT (R382). -/
  | firmwareCommit (e : Sqe)
  /-- MOLD_LOAD (R32). -/
  | moldLoad (e : Sqe) (image : MoldUpload)
  /-- MOLD_LOAD_VALIDATED (R34). -/
  | moldLoadValidated
  /-- RECAST (R58). -/
  | recast (e : Sqe) (image : List Byte)
  /-- RECAST_VALIDATED (R61). -/
  | recastValidated
  /-- RECAST_DRAIN_COMPLETE (R61). -/
  | recastDrainComplete
  /-- HALLMARK_GET_STATUS (R360). -/
  | hallmarkGetStatus (e : Sqe)
  /-- HALLMARK_GET_ROOTS (R360). -/
  | hallmarkGetRoots (e : Sqe)
  /-- HALLMARK_GET_ATTEST (R360). -/
  | hallmarkGetAttest (e : Sqe)
  /-- LIFECYCLE (R365). -/
  | lifecycle (e : Sqe)
  /-- BURNISH (R322). -/
  | burnish (e : Sqe)
  /-- BURNISH_COMPLETE (R324). -/
  | burnishComplete (r : BurnishRef) (f : BurnishFindings)
  /-- QUENCH (R390). -/
  | quench (e : Sqe)
  /-- SCH_QUENCH_WRITE (R390). -/
  | schQuenchWrite (v : Word64)
  /-- JOB_QUENCH_STOP (R91). -/
  | jobQuenchStop (k : Key)
  /-- OBJ_PUT (R250). -/
  | objPut (e : Sqe) (envelope : List Byte)
  /-- OBJ_PUT_DURABLE (R278). -/
  | objPutDurable (k : Timed Key)
  /-- OBJ_GET (R386). -/
  | objGet (e : Sqe) (lost : Timed (Option Nat)) (poison : Option Nat)
  /-- OBJ_DELETE (R229). -/
  | objDelete (e : Sqe)
  /-- OBJ_DELETE_DURABLE (R229). -/
  | objDeleteDurable (k : Key)
  /-- OBJ_STAT (R252). -/
  | objStat (e : Sqe)
  /-- JOB_SUBMIT (R201). -/
  | jobSubmit (e : Sqe) (desc : List Byte)
  /-- JOB_STATUS (R210). -/
  | jobStatus (e : Sqe)
  /-- QUERY (R218). -/
  | query (e : Sqe) (input : List Byte)
  /-- INGOT_LOAD (R195). -/
  | ingotLoad (e : Sqe) (piece : Timed (List Byte))
  /-- INGOT_VALIDATION_DONE (R196). -/
  | ingotValidationDone (id : Word32)
  /-- INGOT_LOAD_TIMEOUT (R195). -/
  | ingotLoadTimeout (id : Word32)
  /-- INGOT_DROP (R187). -/
  | ingotDrop (e : Sqe)
  /-- INGOT_REMOVED (R199). -/
  | ingotRemoved (id : Word32)
  /-- STROKE_BOUNDARY (R24). -/
  | strokeBoundary (o : BoundaryObs)
  /-- REFERENCE_PRESENT (R68). -/
  | referencePresent
  /-- REFERENCE_LOST (R68). -/
  | referenceLost
  /-- GRID_LOCK_ACQUIRED (R67). -/
  | gridLockAcquired
  /-- HOLDOVER_EXPIRY (R67). -/
  | holdoverExpiry
  /-- POWER_TICK (R402). -/
  | powerTick (o : PowerObs)
  /-- UNIT_PLACEMENT (R206). -/
  | unitPlacement (k : Key) (unit : Nat)
  /-- UNIT_COMPLETE (R162). -/
  | unitComplete (k : Key) (unit : Nat) (r : UnitResult)
  /-- ENGINE_PREEMPT (R118). -/
  | enginePreempt (e : EngineId)
  /-- CONTEXT_SAVE_DONE (R117). -/
  | contextSaveDone (e : EngineId)
  /-- CONTEXT_RESTORE_DONE (R118). -/
  | contextRestoreDone (e : EngineId)
  /-- BENCH_PREEMPT (R89). -/
  | benchPreempt (b : BenchId)
  /-- JOB_FAULT (R90). -/
  | jobFault (k : Key) (cause : FaultCause)
  /-- NONPRE_OVERRUN (R87). -/
  | nonpreOverrun (e : EngineId) (ranUs : Nat)
  /-- SEM_OVERRUN (R88). -/
  | semOverrun (shop : Fin 8) (sem : Fin 64)
  /-- JOB_TIME_CAP (R205). -/
  | jobTimeCap (k : Key)
  /-- RELEASE_GATE_ANSWER (R342). -/
  | releaseGateAnswer (poison : Option Nat)
  /-- MMA_WS (R102). -/
  | mmaWs (e : EngineId) (w : BitVec 128)
  /-- MMA_OS (R103). -/
  | mmaOs (e : EngineId) (w : BitVec 128)
  /-- FEEDER_SLOT_FILL (R99). -/
  | feederSlotFill (e : EngineId) (w : BitVec 128)
  /-- ARRAY_LAST_WRITE (R100). -/
  | arrayLastWrite (e : EngineId)
  /-- SETMASK (R114). -/
  | setmask (e : EngineId) (maskAddr : Nat) (sideAddr : Nat) (rows : Nat)
  /-- VOP (R112). -/
  | vop (e : EngineId) (a : VopArgs)
  /-- VRED (R153). -/
  | vred (e : EngineId) (a : VredArgs)
  /-- VCVT (R149). -/
  | vcvt (e : EngineId) (w : BitVec 128)
  /-- XFER (R114). -/
  | xfer (e : EngineId) (a : XferArgs)
  /-- XFER_COMPLETE (R99). -/
  | xferComplete (e : EngineId)
  /-- BR (R114). -/
  | br (e : EngineId) (cond : BrCond) (off : BitVec 16)
  /-- SEM_ACQ (R207). -/
  | semAcq (e : EngineId) (n : Nat)
  /-- SEM_ACQUIRED (R207). -/
  | semAcquired (e : EngineId) (n : Nat)
  /-- SEM_REL (R114). -/
  | semRel (e : EngineId) (n : Nat)
  /-- NP_BEGIN (R87). -/
  | npBegin (e : EngineId) (us : Nat)
  /-- NP_END (R114). -/
  | npEnd (e : EngineId)
  /-- FENCE (R114). -/
  | fence (e : EngineId)
  /-- ILLEGAL_OPCODE (R114). -/
  | illegalOpcode (e : EngineId) (op : Byte)
  /-- TOUCHSTONE_SAMPLE_DONE (R168). -/
  | touchstoneSampleDone (e : EngineId) (r : Nat)
  /-- REFETCH_COMPLETE (R188). -/
  | refetchComplete (q : QuarterId) (o : CacheId) (blk : Nat) (bad : Word64) (fromFlash : Bool) (lost : Bool) (hashOk : Bool)
  /-- GRANULE_RELOAD_DONE (R319). -/
  | granuleReloadDone (q : QuarterId) (granule : Reload)
  /-- CACHE_STAGING_REQUEST (R183). -/
  | cacheStagingRequest (q : QuarterId) (o : CacheId)
  /-- STAGING_COMPLETE (R183). -/
  | stagingComplete (q : QuarterId) (o : CacheId) (bytes : List Byte)
  /-- PROMOTION_REQUEST (R184). -/
  | promotionRequest (q : QuarterId) (o : CacheId) (k : Key) (unit : Nat)
  /-- PROMOTION_COMPLETE (R183). -/
  | promotionComplete (q : QuarterId) (o : CacheId)
  /-- PIN_RELEASE (R184). -/
  | pinRelease (q : QuarterId) (o : CacheId) (k : Key) (unit : Nat)
  /-- PROMOTION_WAIT_RESUME (R186). -/
  | promotionWaitResume (q : QuarterId) (o : CacheId)
  /-- WRITE_BACK_GRANULE (R174). -/
  | writeBackGranule (q : QuarterId) (granule : Timed Nat)
  /-- DIRTY_WRITE_RESUME (R176). -/
  | dirtyWriteResume (q : QuarterId)
  /-- CE_WINDOW_START (R325). -/
  | ceWindowStart
  /-- AUTO_BURNISH_START (R325). -/
  | autoBurnishStart (u : Nat)
  /-- OBJECT_READ_START (R251). -/
  | objectReadStart (b : Timed BenchId)
  /-- TOKEN_BATCH_HANDOFF (R260). -/
  | tokenBatchHandoff (b : BenchId) (e : EngineId) (entries : List (Nat × Nat × Nat))
  /-- BATCH_VECTORS_RETURN (R260). -/
  | batchVectorsReturn (b : BenchId) (vectors : Timed (List (List F32)))
  /-- RECORD_APPEND (R215). -/
  | recordAppend (n : Timed Nat)
  /-- MARK_WAIT_RESUME (R232). -/
  | markWaitResume (b : Timed BenchId)
  /-- GRAPH_WALK_COMPLETE (R216). -/
  | graphWalkComplete (k : Key) (us : Nat)
  /-- CODE_PHASE_COMPLETE (R223). -/
  | codePhaseComplete (list : Nat) (us : Nat) (lost : List Nat)
  /-- FETCH_PHASE_COMPLETE (R224). -/
  | fetchPhaseComplete (b : BenchId) (k : Key) (us : Nat) (lost : List (Nat × Nat))
  /-- HIT_MERGE (R225). -/
  | hitMerge (k : Key)
  /-- MEND_START (R235). -/
  | mendStart (list : Nat)
  /-- GRAPH_REPAIR (R236). -/
  | graphRepair (list : Nat)
  /-- LINK_FRAME_TAG_FAIL (R21). -/
  | linkFrameTagFail (d : DieId) (frame : LinkFrame)
  /-- LINK_RETRAIN (R247). -/
  | linkRetrain (d : LinkUnacked)
  /-- LINK_RETRAIN_COMPLETE (R247). -/
  | linkRetrainComplete (d : LinkLanes)
  /-- LINK_REKEY (R246). -/
  | linkRekey (d : DieId) (key : LinkFrame)
  /-- CHANNEL_DIE_FAILED (R248). -/
  | channelDieFailed (d : DieId)
  /-- PAGE_READ (R274). -/
  | pageRead (b : BenchId) (page : PhysPage) (reader : Reader) (outcome : ReadOutcome)
  /-- NAND_PROGRAM_COMPLETE (R286). -/
  | nandProgramComplete (b : BenchId) (page : PhysPage) (pass : Bool) (pagesLost : Nat)
  /-- BLOCK_ERASE_START (R282). -/
  | blockEraseStart (b : BenchId) (blk : BlockId)
  /-- NAND_ERASE_COMPLETE (R283). -/
  | nandEraseComplete (b : BenchId) (blk : BlockId) (pass : Bool) (pagesLost : Nat)
  /-- NAND_SUSPEND (R284). -/
  | nandSuspend (b : BenchId) (die : Fin 8) (reader : Reader)
  /-- NAND_RESUME (R284). -/
  | nandResume (b : BenchId) (die : Fin 8)
  /-- STREAM_PAGE_PROGRAM (R279). -/
  | streamPageProgram (b : BenchId) (list : Nat) (stream : Fin 5)
  /-- APPEND_WAIT_RESUME (R279). -/
  | appendWaitResume (b : Timed BenchId)
  /-- FOLD (R280). -/
  | fold (b : BenchId)
  /-- CONSOLIDATION (R280). -/
  | consolidation (b : BenchId) (list : Nat) (stream : Fin 5)
  /-- GARBAGE_COLLECTION (R281). -/
  | garbageCollection (b : BenchId)
  /-- WEAR_LEVEL_MOVE (R281). -/
  | wearLevelMove (b : BenchId) (die : Fin 8)
  /-- BLOCK_REFRESH (R288). -/
  | blockRefresh (b : BenchId) (blk : BlockId)
  /-- PATROL_READ (R289). -/
  | patrolRead (b : BenchId) (page : PhysPage)
  /-- ZQ_CALIBRATION (R273). -/
  | zqCalibration (b : BenchId) (die : Fin 8)
  /-- DQ_TRAINING (R273). -/
  | dqTraining (b : BenchId) (die : Fin 8) (pass : Bool)
  /-- NAND_BROWNOUT (R291). -/
  | nandBrownout (g : DieId)
  /-- NAND_SUPPLY_RESTORED (R291). -/
  | nandSupplyRestored (g : DieId) (bad : List (BenchId × BlockId))
  /-- RAW_READ_START (R293). -/
  | rawReadStart (b : BenchId)
  /-- RAW_READ_DONE (R293). -/
  | rawReadDone (b : BenchId) (hardFail : Fin 34) (data : List Byte)
  /-- PWT_UNLOCK_WRITE (R298). -/
  | pwtUnlockWrite (key : Word16)
  /-- PWT_ADDR_WRITE (R298). -/
  | pwtAddrWrite (addr : BitVec 26) (fetchBank : Option Bool)
  /-- PWT_DATA_WRITE (R298). -/
  | pwtDataWrite (data : Word64) (fetchBank : Option Bool)
  /-- PWT_BAD_CMD (R298). -/
  | pwtBadCmd (opcode : Byte) (len : BitVec 6)
  /-- PAGE_PROGRAM (R301). -/
  | pageProgram
  /-- SECTOR_ERASE (R302). -/
  | sectorErase
  /-- VAULT_PROGRAM (R304). -/
  | vaultProgram
  /-- VAULT_ZEROISE (R306). -/
  | vaultZeroise
  /-- OPT_PROGRAM (R307). -/
  | optProgram
  /-- OPT_ERASE (R307). -/
  | optErase
  /-- ERASE_SUSPEND (R309). -/
  | eraseSuspend
  /-- ERASE_SUSPEND_COMPLETE (R309). -/
  | eraseSuspendComplete
  /-- ERASE_RESUME (R309). -/
  | eraseResume
  /-- PWT_OPERATION_END (R301). -/
  | pwtOperationEnd (failed : List Nat)
  /-- PWT_SEQUENCE_TIMEOUT (R298). -/
  | pwtSequenceTimeout
  /-- PWT_LOCKOUT_EXPIRY (R298). -/
  | pwtLockoutExpiry
  /-- PEWTER_BROWNOUT (R303). -/
  | pewterBrownout
  /-- SECURITY_EVENT_LOG_PROGRAM (R305). -/
  | securityEventLogProgram
  /-- HALLMARK_REBUILD_DONE (R357). -/
  | hallmarkRebuildDone
  /-- ERROR_REPORT (R329). -/
  | errorReport (src : Source) (r : Report)
  /-- ERROR_RECORD_WRITE (R329). -/
  | errorRecordWrite (ring : Fin 37)
  /-- ERR_RING_ACK_WRITE (R332). -/
  | errRingAckWrite (ring : Fin 37) (v : Word32)
  /-- SCH_CTRL_WRITE (R94). -/
  | schCtrlWrite (v : Word32)
  /-- QTR_MC_CTRL_WRITE (R192). -/
  | qtrMcCtrlWrite (q : QuarterId) (v : Word32)
  /-- BRN_CTRL_WRITE (R335). -/
  | brnCtrlWrite (v : Word32)
  /-- PWR_CTRL_WRITE (R418). -/
  | pwrCtrlWrite (v : Word32)
  /-- ME_COUNT_CLEAR (R120). -/
  | meCountClear (e : EngineId)
  /-- BN_COUNT_CLEAR (R264). -/
  | bnCountClear (b : BenchId)
  /-- FM_COUNT_CLEAR (R293). -/
  | fmCountClear (b : BenchId)
  /-- REGISTER_WRITE (R11). -/
  | registerWrite (t : RegTarget) (size8 : Bool) (v : Word64)
  /-- RC_REGISTER_READ (R9). -/
  | rcRegisterRead (off : RegTarget) (size8 : Bool)
  /-- SPLIT_64BIT_READ (R379). -/
  | split64bitRead (off : Nat)
  /-- BAR2_BAD_ACCESS (R379). -/
  | bar2BadAccess (write : Bool) (off : Nat) (size : Nat)
  /-- POWER_CAP (R402). -/
  | powerCap (dw0 : Word32)
  /-- PWR_BRAKE_ASSERT (R407). -/
  | pwrBrakeAssert
  /-- PWR_BRAKE_DEASSERT (R407). -/
  | pwrBrakeDeassert
  /-- THERMAL_SENSOR_READ (R408). -/
  | thermalSensorRead (r : SensorReadings)
  /-- THERMAL_EMERGENCY_END (R410). -/
  | thermalEmergencyEnd
  /-- THERM_TRIP_RELEASE (R411). -/
  | thermTripRelease
  /-- RAIL_BROWNOUT (R400). -/
  | railBrownout (r : Rail)
  /-- HOLDUP_CAPACITANCE_CHECK (R399). -/
  | holdupCapacitanceCheck (uf : Nat)
  /-- HOLDUP_OK_CHANGE (R399). -/
  | holdupOkChange (bankV : Nat)
  /-- APST_IDLE_EXPIRY (R394). -/
  | apstIdleExpiry
  /-- POWER_STATE_EXIT_DONE (R393). -/
  | powerStateExitDone
  /-- I3C_SETDASA (R414). -/
  | i3cSetdasa (addr : BitVec 7)
  /-- I3C_ENTDAA (R414). -/
  | i3cEntdaa (addr : BitVec 7)
  /-- SET_ENDPOINT_ID (R414). -/
  | setEndpointId (eid : Byte)
  /-- MI_READ_DATA_STRUCTURE (R415). -/
  | miReadDataStructure (type : Byte) (ctrl : Byte)
  /-- MI_SUBSYSTEM_HEALTH_POLL (R415). -/
  | miSubsystemHealthPoll (clear : Bool)
  /-- MI_CONTROLLER_HEALTH_POLL (R415). -/
  | miControllerHealthPoll (id : Word16)
  /-- MI_CONFIGURATION_GET (R415). -/
  | miConfigurationGet (id : Byte)
  /-- MI_CONFIGURATION_SET (R415). -/
  | miConfigurationSet (id : Byte) (size : Word16)
  /-- MI_VPD_READ (R415). -/
  | miVpdRead (off : Word16) (len : Word16)
  /-- MI_VPD_WRITE (R415). -/
  | miVpdWrite
  /-- MI_ADMIN_COMMAND (R415). -/
  | miAdminCommand (e : Sqe)
  /-- TELEMETRY (R415). -/
  | telemetry
  /-- MI_QUENCH (R390). -/
  | miQuench (d0 : Word32)
  /-- MI_UNSUPPORTED_COMMAND (R415). -/
  | miUnsupportedCommand (op : Byte)
  /-- CUSTODIAN_FRAME (R349). -/
  | custodianFrame (f : CustFrame)
  /-- MESSAGE_REASSEMBLY_TIMEOUT (R349). -/
  | messageReassemblyTimeout
  /-- SESSION_INIT (R354). -/
  | sessionInit
  /-- SESSION_INIT_RESEND (R354). -/
  | sessionInitResend
  /-- SESSION_ACCEPT (R352). -/
  | sessionAccept (body : List Byte)
  /-- SESSION_REJECT (R354). -/
  | sessionReject (reason : Word32)
  /-- KEY_DELIVER (R347). -/
  | keyDeliver (label : Word64) (key : BitVec 256)
  /-- KEY_REVOKE (R348). -/
  | keyRevoke (label : Word64)
  /-- PING (R353). -/
  | ping
  /-- PONG (R353). -/
  | pong
  /-- CLOSE (R354). -/
  | close (reason : Byte)
  /-- SESSION_IDLE_PING (R354). -/
  | sessionIdlePing
  /-- SESSION_TIMEOUT (R354). -/
  | sessionTimeout
  /-- SESSION_BACKOFF_EXPIRY (R354). -/
  | sessionBackoffExpiry
  /-- DBG_TOKEN (R369). -/
  | dbgToken (token : List Byte)
  /-- PERST_B_DEASSERT (R373). -/
  | perstBDeassert
  /-- VECTOR_INSTRUCTION_COMPLETE (R108). -/
  | vectorInstructionComplete (e : EngineId)
  /-- MANAGEMENT_CONTROLLER_RESTART (R319). -/
  | managementControllerRestart
  /-- MCTP_MESSAGE_DISCARD (R414). -/
  | mctpMessageDiscard (type : Byte)
  deriving DecidableEq, Repr

end Sys2Proof
end

