-- ==== Sys2Proof/Decode.lean ====
section
/-! DEFINITION. The decoder over the rows of spec/opcode_table.json that give bits. No row gives any: the table's
commands are writes, protocol messages and events, not words, so no word spells a command (log 1). -/

namespace Sys2Proof

/-- The command that a word spells: none, since every row of the table has an empty list of fields. -/
def decodeTableWord (_nbits _w : Nat) : Option Instr := none

end Sys2Proof
end

