-- ==== Sys2Proof/Config.lean ====
section
/-! DEFINITION. What an implementation fixes and what the spec leaves open, as constants without a body: nothing in
Lean can evaluate them, so a claim holds whatever they are. Functions of other standards (FIPS 202, FIPS 203, SP 800-208,
SP 800-38D, RFC 8878 and the like) stand here too, uninterpreted (log 8). -/

namespace Sys2Proof.Config

/-- A value the spec leaves open, one for each reading of the counter State.free (log 9). -/
opaque freeWord : Nat → Word64

/-- SHAKE256 of FIPS 202: input and output length in bytes (R36, R196, R344). -/
opaque shake256 : List Byte → Nat → List Byte

/-- XMSS-SHAKE256_20_256 verification: root slot (96 bytes), message, signature (R359). -/
opaque xmssVerify : List Byte → List Byte → List Byte → Bool

/-- XMSS signature by a tree seed (64 bytes) at an index over a message: 2,820 bytes (R355). -/
opaque xmssSign : List Byte → Nat → List Byte → List Byte

/-- The XMSS root and public seed of a tree seed (R368). -/
opaque xmssRoot : List Byte → List Byte

/-- XTS-AES-256 of a data unit under a 64-byte key and a 16-byte tweak (R269). -/
opaque xts : List Byte → List Byte → List Byte → List Byte

/-- The 56 LDPC parity bytes of a codeword (R267). -/
opaque parity : List Byte → List Byte

/-- Data of a page whose layout inside the page the spec does not give: kind, stream, content, position, ORIGIN_SEQ. -/
opaque pageData : Nat → Nat → Nat → Nat → Nat → List Byte

/-- ML-KEM-1024 encapsulation key of a 64-byte seed (R344, R351). -/
opaque kemKey : List Byte → List Byte

/-- Four link keys encapsulated under an ML-KEM-1024 encapsulation key (R244, R245). -/
opaque encapsulate : List Byte → List (BitVec 256) → List Byte

/-- ML-KEM-1024 decapsulation under the key pair of a seed (R352). -/
opaque kemDecaps : List Byte → List Byte → List Byte

/-- AES-256-GCM opening: key, nonce, additional data, ciphertext, tag (R249, R352). -/
opaque gcmOpen : BitVec 256 → List Byte → List Byte → List Byte → List Byte → Option (List Byte)

/-- AES-256-GCM sealing: key, nonce, additional data, plaintext; ciphertext followed by the tag (R352). -/
opaque gcmSeal : BitVec 256 → List Byte → List Byte → List Byte → List Byte

/-- A Zstandard frame at the start of some bytes: what it decodes to, and the bytes it takes; none where it does not end in them
or fails, its checksum included (RFC 8878; R180, R254). -/
opaque zstdFrame : List Byte → List Byte × Option Nat

/-- An LZ4 frame at the start of some bytes, likewise (R254). -/
opaque lz4Frame : List Byte → List Byte × Option Nat

/-- A DEFLATE stream at the start of some bytes: what it inflates to, and the bytes it takes; none where it fails (RFC 1951;
R254). -/
opaque inflate : List Byte → Option (List Byte × Nat)

/-- The tokeniser of an Ingot, its unit given by number (its first of KIND 3): the token identifiers of a text, each with the
UTF-8 bytes it came from (R218, R258). -/
opaque tokenise : Nat → Nat → List Byte → List (Nat × Nat)

/-- Chunk and offset at which a passage starts: Ingot, payload, passage tokens, passage index (R258). -/
opaque locator : Nat → List Byte → Nat → Nat → Nat × Nat

/-- exp2, log2, reciprocal, rsqrt, sqrt, tanh, erf and sigmoid within 2 ulp (Table 4-7A, log 10). -/
opaque approx : VopKind → F32 → F32

/-- The uncovered granules the module takes for a fixed range (R437): number of the range (0 = directory, 1 = answer pool,
2 + i = Collection i), the stacks it is striped over as a mask, the granules it takes at least, and the granules taken already
(stack, first, count); none where they do not fit. -/
opaque placeRange : Nat → Nat → Nat → List (Nat × Nat × Nat) → Option (List (Nat × Nat × Nat))

/-- The granules that the module takes for a copy: how many, a free word, the first granule and their number, the granules
taken already (R182, R188; log 129). -/
opaque pickGranules : Nat → Word64 → Nat → Nat → List Nat → List Nat

/-- Where the KV pages of a job start: their lengths in bytes, the byte ranges taken already; none where they do not fit
(R191, log 130). -/
opaque placePages : List Nat → Word64 → List (Nat × Nat) → Option (List Nat)

/-- Values of the whole tensor that the legacy conversions of a layer cover in one step: Ingot, unit, step (R138, log 139). -/
opaque tensorValues : Nat → Nat → Nat → Nat

/-- K of an array layer, which its kernel code holds and no table of an Ingot: Ingot, unit (R155, log 72). -/
opaque layerK : Nat → Nat → Nat

/-- A key (false) or value (true) row that a generation job computes: Ingot, prompt, context, layer, KV head, position
(R190). -/
opaque kvRow : Nat → List Byte → List (Nat × Nat) → Nat → Nat → Nat → Bool → List F32

/-- A value the query vector or a passage embedding takes: the Ingot's output for a text (R219). -/
opaque embed : Nat → List Byte → List F32

/-- Firmware revision string FR of a running image digest, 8 bytes (Table 15-6). -/
opaque firmwareRevision : List Byte → List Byte

/-- Simple case folding of a code point (R259, R262). -/
opaque foldPoint : Nat → Nat

/-- A code point of Unicode general category L or N (R259). -/
opaque termPoint : Nat → Bool

/-- A text term of HASH_MATCH names this hash: R262 does not give the term's form (log 26). -/
opaque hashNamed : List Byte → List Byte → Bool

/-- The member that a random draw picks by the weights of k-means++ (R237, log 27). -/
opaque seedIndex : Word64 → List F32 → Nat

/-- What GENERATE wrote, by the Ingot, the prompt and the context (R203). -/
opaque generated : Nat → List Byte → List (Nat × Nat) → Nat → List Byte

/-- The image a TUNE writes, before its digest and signature: base image, training items, steps completed, rank and learning
rate (R161, R204). -/
opaque tuned : List Byte → List (Nat × Nat) → Nat → Nat → Nat → List Byte

/-- Vendor events are enabled by a value of Feature 0x0B: R426 names no bit of it (log 11). -/
opaque vendorEvents : Word32 → Bool

/-- A vault word programmed by the Sterling core itself verifies, by word index (R304, R357). -/
opaque vaultVerifies : Nat → Bool

/-- The message SPDM 1.3 defines for a signed response: the response and what was exchanged (R356, log 8). -/
opaque spdmMessage : List Byte → List Byte

end Sys2Proof.Config
end

