-- ==== Sys2Proof/Machine/Bytes.lean ====
section
/-! DEFINITION. Little-endian byte strings (R6, R7), saturating counters and list updates. -/

namespace Sys2Proof.Machine

/-- n bytes of v, least significant first (R6). -/
def le : Nat → Nat → List Byte
  | 0, _ => []
  | n + 1, v => BitVec.ofNat 8 v :: le n (v / 256)

/-- The number that bytes spell, least significant first (R6). -/
def unle : List Byte → Nat
  | [] => 0
  | b :: bs => b.toNat + 256 * unle bs

/-- The field of length n at offset o of a structure (R7). -/
def field (bs : List Byte) (o n : Nat) : Nat := unle ((bs.drop o).take n)

/-- The bytes of the field of length n at offset o. -/
def fieldBytes (bs : List Byte) (o n : Nat) : List Byte := (bs.drop o).take n

def allZero (bs : List Byte) : Bool := bs.all (· == 0)

/-- Bits [hi:lo] of a word. -/
def bits (v : Nat) (hi lo : Nat) : Nat := v / 2 ^ lo % 2 ^ (hi + 1 - lo)

def bit (v i : Nat) : Bool := v / 2 ^ i % 2 == 1

/-- A value lies in a range. -/
def within (v lo hi : Nat) : Bool := lo ≤ v && v ≤ hi

/-- A number from a flag. -/
def b2n (b : Bool) : Nat := if b then 1 else 0

/-- Padding with zeros to n bytes, longer strings cut. -/
def padTo (n : Nat) (bs : List Byte) : List Byte := (bs ++ List.replicate (n - bs.length) 0).take n

/-- ASCII bytes of a string. -/
def ascii (t : String) : List Byte := t.toList.map fun c => BitVec.ofNat 8 c.toNat

/-- A counter of w bits that saturates. -/
def satAdd (w c n : Nat) : Nat := min (c + n) (2 ^ w - 1)

/-- Value of a key in an association list, or a default. -/
def lookupD {α β : Type} [BEq α] (l : List (α × β)) (k : α) (d : β) : β :=
  match l.find? (fun p => p.1 == k) with
  | some p => p.2
  | none => d

/-- The list with one key's value replaced; a new key goes to the end. -/
def assocSet {α β : Type} [BEq α] (l : List (α × β)) (k : α) (v : β) : List (α × β) :=
  l.filter (fun p => !(p.1 == k)) ++ [(k, v)]

/-- Add to a list without repeats. -/
def insertNew {α : Type} [BEq α] (l : List α) (x : α) : List α := if l.contains x then l else l ++ [x]

/-- Replace the elements a test picks. -/
def updWhere {α : Type} (l : List α) (p : α → Bool) (f : α → α) : List α := l.map fun x => if p x then f x else x

/-- Replace the first element a test picks. -/
def updFirst {α : Type} (l : List α) (p : α → Bool) (f : α → α) : List α :=
  match l with
  | [] => []
  | x :: xs => if p x then f x :: xs else x :: updFirst xs p f

/-- Ceiling division. -/
def cdiv (a b : Nat) : Nat := (a + b - 1) / b

/-- Insert into a strictly rising list of numbers. -/
def insertRising (n : Nat) : List Nat → List Nat
  | [] => [n]
  | m :: ms => if n < m then n :: m :: ms else if n == m then m :: ms else m :: insertRising n ms

/-- Insert before the first element that does not come earlier. -/
def insertBy {α : Type} (lt : α → α → Bool) (x : α) : List α → List α
  | [] => [x]
  | y :: ys => if lt y x then y :: insertBy lt x ys else x :: y :: ys

/-- Insertion sort; equal elements keep their order. -/
def sortBy {α : Type} (lt : α → α → Bool) (l : List α) : List α := l.foldr (fun x acc => insertBy lt x acc) []

end Sys2Proof.Machine
end

