-- ==== Sys2Proof/Machine/State.lean ====
section
/-! DEFINITION. State as plain data, one record for each subsystem of the manual, and State.reset. Every field's
docstring ends with (width; file and rule of spec/; reset value), from which INVENTORY.md lists it. -/

namespace Sys2Proof.Machine

/-- No meaning of this model ends in a fault: every row of the table has an effect or a stated refusal on the
wire (log 3). The one constructor is raised by nobody and stands for the closed reason type. Safe. -/
inductive Fault where
  | unreachable
  deriving DecidableEq, Repr

/-- Reasons to have no meaning for a command. `notModelled` is raised by the dispatch for a row that has no meaning
yet (safe: a run stops there). -/
inductive Refusal where
  | notModelled (mnemonic : String)
  deriving DecidableEq, Repr

/-- A memory of one unit: bytes (strictly rising addresses, no zero byte listed) and its valid lines or granules. An
unlisted byte reads 0, because a read of an invalid line is zero and the first write fills with zero (R171, R172). -/
structure Store where
  cells : List Host.Cell
  valid : List Nat
  deriving DecidableEq, Repr

def Store.empty : Store := { cells := [], valid := [] }

/-! ### Host port -/

/-- A completion entry with the data the module wrote to the host buffer before it (R208, R419). -/
structure Completion where
  key : Key
  sct : Nat
  sc : Nat
  dnr : Bool
  dw0 : Word32
  dw1 : Word32
  data : List Byte
  deriving DecidableEq, Repr

/-- An I/O or admin submission queue (R381, R388). -/
structure SubQueue where
  /-- queue identifier (16; 15 R381; none: DESIGN CHOICE absent, log 5) -/
  id : Nat
  /-- entries (17; 15 R381; as created) -/
  size : Nat
  /-- completion queue (16; 15 R381; as created) -/
  cqid : Nat
  /-- next entry to fetch (16; 15 R388; 0) -/
  head : Nat
  /-- tail the doorbell gave (16; 15 R378; 0) -/
  tail : Nat
  deriving DecidableEq, Repr

/-- A completion queue: entries posted and not yet released by the head doorbell, and completions waiting for room. -/
structure CompQueue where
  /-- queue identifier (16; 15 R381; as created) -/
  id : Nat
  /-- entries (17; 15 R381; as created) -/
  size : Nat
  /-- interrupt vector (16; 15 R381; as created) -/
  vector : Nat
  /-- interrupts enabled (1; 15 R381; as created) -/
  ien : Bool
  /-- head the doorbell gave (16; 15 R378; 0) -/
  head : Nat
  /-- tail, the next slot to post (16; 15 R378; 0) -/
  tail : Nat
  /-- every entry posted, oldest first (list; 15 R208; empty) -/
  posted : List Completion
  /-- completions that wait for a free slot (list; 15 R378; empty) -/
  waiting : List Completion
  deriving DecidableEq, Repr

/-- A programmed IDE key slot (R374, R375). -/
structure IdeKey where
  sel : IdeSel
  key : BitVec 256
  go : Bool
  deriving DecidableEq, Repr

/-- One controller and its PCIe function (R372). -/
structure Controller where
  /-- host link usable (1; 15 R395; 0) -/
  linkUp : Bool
  /-- CC.EN (1; 15 R381; 0) -/
  en : Bool
  /-- CC.CSS (3; 15 R381; 0) -/
  css : BitVec 3
  /-- CC.IOSQES (4; 15 R381; 0) -/
  iosqes : BitVec 4
  /-- CC.IOCQES (4; 15 R381; 0) -/
  iocqes : BitVec 4
  /-- CC.SHN (2; 15 R384; 0) -/
  shn : BitVec 2
  /-- CSTS.RDY, mirrored in DEV_STATUS (1; 15 R381; 0) -/
  rdy : Bool
  /-- CSTS.CFS (1; 15 R381; 0) -/
  cfs : Bool
  /-- CSTS.SHST (2; 15 R384; 0) -/
  shst : BitVec 2
  /-- AQA (32; 15 R378; none: DESIGN CHOICE 0, log 5) -/
  aqa : Word32
  /-- ASQ (64; 15 R378; none: DESIGN CHOICE 0, log 5) -/
  asq : Word64
  /-- ACQ (64; 15 R378; none: DESIGN CHOICE 0, log 5) -/
  acq : Word64
  /-- INTMS, cleared through INTMC (32; 15 R378; none: DESIGN CHOICE 0, log 5) -/
  intms : Word32
  /-- submission queues, the admin queue as id 0 (list; 15 R381; empty) -/
  sqs : List SubQueue
  /-- completion queues, the admin queue as id 0 (list; 15 R381; empty) -/
  cqs : List CompQueue
  /-- commands fetched and not completed (list, at most 65,535; 15 R388; empty) -/
  inflight : List Sqe
  /-- queues outside the C0 Shop whose doorbells wait for slots (list; 15 R388; empty) -/
  paused : List Nat
  /-- last queue served round robin (16; 15 R388; none: DESIGN CHOICE 0, log 5) -/
  turn : Nat
  /-- outstanding Asynchronous Event Requests, oldest first (list, at most 8; 15 R380, 17 R426; empty) -/
  aers : List Key
  /-- events reported and not yet read with RAE = 0, as their Dword 0 (list; 17 R426; empty) -/
  aerSent : List Nat
  /-- events that wait for an Asynchronous Event Request, as their Dword 0 (list; 17 R426; empty) -/
  aerQueued : List Nat
  /-- Feature 0x02, power state this controller requested (5; 15 R381 R392; 0) -/
  pmState : Nat
  /-- Feature 0x07, queues allocated (32; 15 R381; none: DESIGN CHOICE 0, log 5) -/
  numQueues : Word32
  /-- Feature 0x08 (32; 15 R381; none: DESIGN CHOICE 0, log 5) -/
  coalescing : Word32
  /-- Feature 0x09, coalescing disable per vector (list; 15 R381; empty) -/
  vectorConfig : List (Nat × Bool)
  /-- Feature 0x0B (32; 15 R381; none: DESIGN CHOICE 0, log 5) -/
  asyncConfig : Word32
  /-- Feature 0x0C enable (1; 15 R394; 0) -/
  apstEnable : Bool
  /-- Feature 0x0C entries: idle state and idle time in ms for states 0 to 4 (list; 15 R394; empty) -/
  apstTable : List (Nat × Nat)
  /-- Feature 0x0E value set (64; 15 R381; none: DESIGN CHOICE 0, log 5) -/
  timestamp : Word64
  /-- clock when the timestamp was set (µs; 15 R381; 0) -/
  timestampAt : Nat
  /-- MSI-X Enable (1; 15 R432; 0) -/
  msixEnable : Bool
  /-- MSI-X function mask (1; 15 R432; 0) -/
  msixMask : Bool
  /-- entries whose mask bit is clear (list; 15 R432; empty: entries are masked at reset) -/
  unmasked : List Nat
  /-- PBA bits set (list; 15 R432; empty) -/
  pba : List Nat
  /-- MSI-X table words written, by byte offset in the table (list; 15 R378; empty) -/
  msixTable : List (Nat × Word32)
  /-- PTM Enable, controller 0 (1; 15 R377; 0) -/
  ptmEnable : Bool
  /-- IDE key slots (list; 15 R375; empty) -/
  ide : List IdeKey
  /-- events the AER log took (count; 15 R376; 0) -/
  aerLogged : Nat
  deriving DecidableEq, Repr

def Controller.reset : Controller :=
  { linkUp := false, en := false, css := 0, iosqes := 0, iocqes := 0, shn := 0, rdy := false, cfs := false, shst := 0,
    aqa := 0, asq := 0, acq := 0, intms := 0, sqs := [], cqs := [], inflight := [], paused := [], turn := 0, aers := [],
    aerSent := [], aerQueued := [], pmState := 0, numQueues := 0, coalescing := 0, vectorConfig := [], asyncConfig := 0,
    apstEnable := false, apstTable := [], timestamp := 0, timestampAt := 0, msixEnable := false, msixMask := false,
    unmasked := [], pba := [], msixTable := [], ptmEnable := false, ide := [], aerLogged := 0 }

/-! ### The Mold (chapter 2) -/

structure WorldEntry where
  block : Bool
  sterling : Bool
  space : Nat
  unit : Nat
  first : Nat
  count : Nat
  deriving DecidableEq, Repr

structure Shop where
  id : Nat
  c0 : Bool
  ctrl : Nat
  firstQ : Nat
  qCount : Nat
  meMap : BitVec 64
  stackMap : BitVec 32
  semHold : Nat
  nonpre : Nat
  benchMap : BitVec 512
  deriving DecidableEq, Repr

structure ClassEntry where
  defaultW : Nat
  minW : Nat
  maxW : Nat
  guarantee : Nat
  deriving DecidableEq, Repr

structure Envelope where
  maxQueries : Nat
  maxLists : Nat
  maxK : Nat
  maxTokens : Nat
  bound : Nat
  deriving DecidableEq, Repr

/-- Collection entry of the Mold (Table 2-10). -/
structure CollEntry where
  id : Nat
  dims : Nat
  metric : Nat
  recordClass : Nat
  passageTokens : Nat
  listShare : Nat
  embedIngot : Nat
  schema : Nat
  ingestShop : Nat
  queryShop : Nat
  label : Word64
  deriving DecidableEq, Repr

structure FieldDesc where
  kind : Nat
  maxLen : Nat
  name : List Byte
  deriving DecidableEq, Repr

structure Schema where
  id : Nat
  scores : Bool
  passages : Bool
  maxHit : Nat
  fields : List FieldDesc
  deriving DecidableEq, Repr

/-- Quantisation defaults (Table 2-9). -/
structure Quant where
  act : Nat
  weight : Nat
  legacy : Bool
  window : Nat
  margin : BF16
  outlierMax : Nat
  tsLog2 : Nat
  tsTol : BF16
  replay : Bool
  deriving DecidableEq, Repr

/-- The structure a Mold sets (Tables 2-4 to 2-10). -/
structure Mold where
  world : List WorldEntry
  shops : List Shop
  classes : List ClassEntry
  env : Envelope
  period : Nat
  strikeRef : Bool
  phase : Nat
  holdover : Nat
  capW : Nat
  c0FloorW : Nat
  engineFloor : Nat
  memoryFloor : Nat
  flashFloor : Nat
  modes : List Nat
  quant : Quant
  colls : List CollEntry
  schemas : List Schema
  ceBurnish : Nat
  tsAct : Nat
  faultScope : Nat
  eventVector : Nat
  deriving DecidableEq, Repr

/-- MOLD_STATUS.STATE (Table 2-13). -/
inductive MoldState where
  | blank | loading | molded | recastValidating | recastDraining | recastApplyWait
  deriving DecidableEq, Repr

/-- A Recast between its arrival and its apply boundary (R61). -/
structure RecastCtx where
  sqe : Sqe
  image : List Byte
  merged : Option Mold
  digest : List Byte
  receivedUs : Nat
  boundaries : Nat
  drained : Bool
  engines : List EngineId
  benches : List BenchId
  discard : Bool
  /-- fixed ranges its new Collections take at the apply boundary (R437) -/
  ranges : List WorldEntry
  deriving DecidableEq, Repr

structure MoldBlock where
  /-- MOLD_STATUS.STATE (3; 02 R64; BLANK) -/
  state : MoldState
  /-- CFG_BUSY (1; 02 R64 Table 2-15; 0) -/
  cfgBusy : Bool
  /-- LOAD_FAIL (1; 02 R33 Table 2-15; 0) -/
  loadFail : Bool
  /-- MOLD_GEN (64; 02 R58; 0) -/
  gen : Word64
  /-- MOLD_DIGEST, 64 bytes (512; 02 R65; 0) -/
  digest : List Byte
  /-- MOLD_ERROR.OFFSET (32; 02 R33; 0) -/
  errOffset : Nat
  /-- MOLD_ERROR.REASON (8; 02 R33; 0) -/
  errReason : Nat
  /-- MOLD_ERROR.SECTION (8; 02 R33; 0) -/
  errSection : Nat
  /-- MOLD_ERROR.IN_RECAST (1; 02 R33; 0) -/
  errRecast : Bool
  /-- MOLD_COUNT.LOAD_FAILS (16; 02 Table 2-16; 0) -/
  loadFails : Nat
  /-- MOLD_COUNT.RECAST_FAILS (16; 02 Table 2-16; 0) -/
  recastFails : Nat
  /-- MOLD_RECAST_TIME.DRAIN_US (16; 02 Table 2-16; 0) -/
  drainUs : Nat
  /-- MOLD_RECAST_TIME.APPLY_STROKES (16; 02 Table 2-16; 0) -/
  applyStrokes : Nat
  /-- MOLD_LOAD command and image being validated (list; 02 R32; none) -/
  loading : Option (Sqe × MoldUpload)
  /-- Mold in force (Tables 2-4 to 2-10; 02 R34; none) -/
  mold : Option Mold
  /-- fixed ranges placed (list; 02 R437; empty) -/
  fixedRanges : List WorldEntry
  /-- Recast in progress (record; 02 R61; none) -/
  recast : Option RecastCtx
  /-- the C0 bound is suspended by a Recast (1; 02 R62; 0) -/
  c0Suspended : Bool
  /-- a MOLD_LOAD has succeeded since power-up with the flush log checked (1; 07 R178; 0) -/
  flushChecked : Bool
  deriving DecidableEq, Repr

/-! ### The Stroke grid (chapter 3) -/

inductive LockState where
  | idle | acquiring | locked | holdover | freeRun
  deriving DecidableEq, Repr

structure Grid where
  /-- STK_STATUS.LOCK_STATE (3; 03 R67; IDLE) -/
  lock : LockState
  /-- STK_STATUS.REF_PRESENT (1; 03 R68; 0) -/
  refPresent : Bool
  /-- LOCK_LOST (1; 03 R67; 0) -/
  lockLost : Bool
  /-- FREE_RUN_ENTERED (1; 03 R67; 0) -/
  freeRunEntered : Bool
  /-- SLEWING (1; 03 R70; 0) -/
  slewing : Bool
  /-- consecutive predicted boundaries within 1 µs (5; 03 R67; 0) -/
  good : Nat
  /-- clock when acquisition began or restarted (µs; 03 R66; 0) -/
  acqUs : Nat
  /-- Strokes spent in HOLDOVER (17; 03 R67; 0) -/
  heldFor : Nat
  /-- origin edge of STRIKE_IN, µs of the clock (none until chosen; 03 R66; none) -/
  origin : Option Nat
  /-- the grid has locked under the Mold in force (1; 03 R66; 0) -/
  everLocked : Bool
  /-- STK_STROKE (64; 03 R66; 0) -/
  stroke : Nat
  /-- STK_REF_TIME, ns (64; 03 Table 3-6; 0) -/
  refTime : Nat
  /-- length of the last Stroke in LOCKED, ns (24; 03 R70; 0) -/
  lockedNs : Nat
  /-- clock at the last boundary in LOCKED (µs; 03 R70; 0) -/
  lockedUs : Nat
  /-- STK_PHASE_ERR, signed ns (32; 03 Table 3-6; 0) -/
  phaseErr : Int
  /-- STK_LAG.MAX_LAG_US (16; 03 Table 3-6; 0) -/
  maxLag : Nat
  /-- STK_LAG.LAGGING_UNITS (16; 03 Table 3-6; 0) -/
  laggingUnits : Nat
  /-- STK_EVENTS.LOCK_LOSSES (16; 03 Table 3-6; 0) -/
  lockLosses : Nat
  /-- STK_EVENTS.SLEW_STROKES (16; 03 Table 3-6; 0) -/
  slewStrokes : Nat
  /-- STK_IRQ.LOCK_LOSS_EN (1; 03 Table 3-6; 0) -/
  lockIrq : Bool
  /-- STK_IRQ.FREE_RUN_EN (1; 03 Table 3-6; 0) -/
  freeRunIrq : Bool
  /-- clock at the last boundary (µs; 03 R79; 0) -/
  lastBoundaryUs : Nat
  /-- a PTM dialog is under way (1; 15 R377; 0) -/
  ptmOut : Bool
  /-- clock of the last PTM dialog issued (µs; 15 R377; none) -/
  ptmIssueUs : Option Nat
  /-- clock at the last PTM response that counts (µs, none before the first; 15 R377, 03 R68; none) -/
  ptmLastUs : Option Nat
  /-- reference time of the last dialog, ns (64; 15 R377; 0) -/
  ptmTime : Nat
  deriving DecidableEq, Repr

/-! ### Scheduler, jobs and queries (chapters 3, 8, 9) -/

/-- Table 8-10. -/
inductive JobState where
  | waiting | admitted | running | suspended | releasing | teardown
  deriving DecidableEq, Repr

/-- What a job is: a QUERY, an operator, or the media reads of an OBJ_GET. -/
inductive JobKind where
  | query | operator (code : Nat) | objGet (object : Nat)
  deriving DecidableEq, Repr

/-- A part of a unit: its number, the parts of the execution, and the K range of the layer it covers (R155). -/
structure Part where
  index : Nat
  of_ : Nat
  kFirst : Nat
  kCount : Nat
  deriving DecidableEq, Repr

/-- A unit that is not split. -/
def Part.whole : Part := { index := 0, of_ := 1, kFirst := 0, kCount := 0 }

/-- A placed unit: unit index, the Engine or Bench that runs it, and its part (R19, R206). -/
structure Placed where
  unit : Nat
  engine : Option EngineId
  bench : Option BenchId
  part : Part
  /-- its placement hint took it away from the Quarter beside its data -/
  hinted : Bool
  deriving DecidableEq, Repr

/-- A part of a split unit whose tiles have joined part 0: the flag, the time and the granules it leaves
for the unit (R156, R162, R165, Table 6-6). -/
structure PartEnd where
  unit : Nat
  part : Part
  causes : BitVec 8
  events : Nat
  firstWord : Nat
  us : Nat
  written : List (Space × Nat)
  deriving DecidableEq, Repr

/-- A legacy tensor history of one layer (R138): the maxima of the steps before, newest first, and the step in
progress: its maximum so far and its scale. -/
structure LegacyHist where
  layer : Nat
  maxima : List F32
  step : Option (F32 × BF16)
  deriving DecidableEq, Repr

/-- One entry of a job's page table, with the page it names (R190, R191). -/
structure KvPage where
  layer : Nat
  group : Nat
  /-- KV heads of the page, 1 to 8 -/
  heads : Nat
  /-- HEAD_DIM_32 -/
  dim32 : Nat
  /-- PAGE_INDEX: first position / 256 -/
  index : Nat
  /-- first line in stacked memory, tier offset / 512 -/
  line : Nat
  tokens : Nat
  valid : Bool
  deriving DecidableEq, Repr

structure Job where
  /-- command that owns it (43; 08 R210; as accepted) -/
  key : Key
  kind : JobKind
  /-- class 0 to 3 (2; 03 R73; as accepted) -/
  cls : Nat
  /-- requested weight (16; 03 R76; as accepted) -/
  weight : Nat
  /-- factor f in eighths, 4 to 16 (5; 03 R76; 8) -/
  f8 : Nat
  /-- effective weight (16; 03 R76; as admitted) -/
  effWeight : Nat
  /-- Table 8-10 (3; 08 R209; WAITING) -/
  state : JobState
  shop : Nat
  coll : Option Nat
  ingot : Nat
  k : Nat
  lists : Nat
  depth : Nat
  tokens : Nat
  answerBytes : Nat
  tJobUs : Nat
  nonpreUs : Nat
  semMask : Word64
  placeMask : BitVec 4
  placeStrict : Bool
  newIngot : Nat
  input : List Byte
  items : List (Nat × Nat)
  /-- items visible at its snapshot (list; 08 R202, 09 R233; empty) -/
  visible : List (Nat × Nat)
  /-- NEW_TOKENS, MAX_TOKENS, STEPS, RANK and PARAM of the descriptor (08 Table 8-6; as accepted) -/
  newTokens : Nat
  maxTokens : Nat
  steps : Nat
  rank : Nat
  param : Word32
  /-- bytes of KV pages reserved (64; 07 R191; 0) -/
  kvBytes : Nat
  /-- page table of its sequence (list of 8-byte entries; 07 R191; reserved pages, not VALID) -/
  kv : List KvPage
  /-- variants chosen for layers marked FMT_DEFAULT: unit and the unit that runs (list; 08 R200; empty) -/
  variants : List (Nat × Nat)
  /-- query vector: the supplied one, and normalised or embedded once the front work has ended (list; 09 R219; empty) -/
  vector : List F32
  /-- Engine that runs its front work (6, none; 03 R80; none) -/
  front : Option EngineId
  /-- its front work has ended (1; 03 R81; 0) -/
  walked : Bool
  /-- sweep boundary M projected at admission (64; 03 Table 3-3; 0) -/
  sweepBy : Nat
  /-- clock when it reached the scheduler (none before; 03 R79; none) -/
  arrivedUs : Option Nat
  /-- boundaries it was deferred at (4; 03 R80; 0) -/
  deferrals : Nat
  /-- STK_STROKE at admission (64; 08 Table 8-11; 0) -/
  admitStroke : Nat
  /-- snapshot epoch (48; 03 R24, 08 R202; 0) -/
  snapshot : Nat
  placed : List Placed
  /-- parts of units in progress that have joined part 0 (list; 06 R156 R162; empty) -/
  partEnds : List PartEnd
  /-- legacy histories of its layers (list; 05 R138; empty) -/
  legacy : List LegacyHist
  /-- quantisation defaults at admission (record, none before; 02 Table 2-11; none) -/
  quant : Option Quant
  /-- units completed with their flags examined (list; 08 R194; empty) -/
  unitsDone : List Nat
  /-- UNITS_DONE (32; 08 Table 8-11; 0) -/
  execs : Nat
  /-- units of the execution in progress replayed so far (list; 06 R164; empty) -/
  replays : List (Nat × Nat)
  /-- OVERFLOWS (32; 06 R164; 0) -/
  overflows : Nat
  /-- LEGACY_SAT (32; 05 R139; 0) -/
  legacySat : Nat
  /-- BROKEN_SEMS (16; 08 R207; 0) -/
  brokenSems : Nat
  /-- ENGINE_US (64; 03 R77; 0) -/
  engineUs : Nat
  /-- BENCH_US (64; 03 R77; 0) -/
  benchUs : Nat
  /-- engine- and bench-µs of the Stroke in progress, not yet charged (64, 64; 03 R77; 0) -/
  pendEngineUs : Nat
  pendBenchUs : Nat
  /-- received time and weighted share over the window, newest Stroke first, at most 64 (list; 03 R76; empty) -/
  window : List (Nat × Rat)
  /-- operators pre-empted on a Bench: Bench, unit, and the bench time charged for it already (list; 03 R77 R89; empty) -/
  benchSaved : List (BenchId × Nat × Nat)
  /-- PROGRESS (64; 08 Table 8-11; 0) -/
  progress : Nat
  candidates : Nat
  skipped : Nat
  hits : List Hit
  /-- a query's lists once its walk ended (list; 09 R216; empty) -/
  targets : List Nat
  /-- sweep boundary it joins (none before the walk ends; 03 R81; none) -/
  sweepAt : Option Nat
  /-- Benches whose fetch phase still runs (list; 09 R224; empty) -/
  benchesLeft : List BenchId
  /-- Benches whose hits are merged (list; 09 R225; empty) -/
  benchesDone : List BenchId
  /-- a page was UNCORRECTABLE (1; 09 R226; 0) -/
  partialMedia : Bool
  /-- SCH_C0_UNBOUND already counts it (1; 03 R83; 0) -/
  unbound : Bool
  /-- status it ends with other than success (11; 03 R90 R91; none) -/
  ending : Option Nat
  /-- a Quench waits for its next pre-emption point (1; 03 R91; 0) -/
  quenching : Bool
  /-- scratch granules of 64 KiB it has written, by space (list; 08 R173, 03 R90; empty) -/
  scratch : List (Space × Nat)
  /-- its slot in the order in which last merges completed (none; 14 R342; none) -/
  gateOrder : Option Nat
  /-- new object or Ingot it releases (64; 08 R208; 0) -/
  output : Nat
  /-- passes of its layer units that have ended: prefill chunks, then decode steps (32; 03 R93; 0) -/
  passes : Nat
  /-- decode steps begun in the Stroke in progress (4; 03 R93; 0) -/
  decoded : Nat
  deriving DecidableEq, Repr

/-- A semaphore of a Shop (R88, R207). -/
structure Sem where
  shop : Nat
  num : Nat
  holder : Option Key
  broken : Bool
  waiters : List (Key × EngineId)
  deriving DecidableEq, Repr

/-- Time that work has occupied one resource in the Stroke in progress: Engines are resources 0 to 47, Bench b is 48 + b.
Reading and the writes of OBJ_PUT have a class and a Shop and no job. -/
structure Use where
  key : Option Key
  cls : Nat
  shop : Nat
  /-- effective weight of the job, 0 for work of none -/
  weight : Nat
  res : Nat
  us : Nat
  deriving DecidableEq, Repr

/-- A Channel link or fabric credit that a job holds on a resource while a transfer or a Bench operator of it runs (R89). -/
structure Credit where
  key : Key
  res : Nat
  deriving DecidableEq, Repr

structure Sched where
  /-- SCH_CTRL.C0_DEFER_MAX in force (4; 03 R94; 2) -/
  deferMax : Nat
  /-- SCH_CTRL.DECODE_PER_STROKE in force (4; 03 R94; 1) -/
  decodePerStroke : Nat
  /-- SCH_CTRL.PREEMPT_ON_ARRIVAL in force (1; 03 R82; 1) -/
  preemptOnArrival : Bool
  /-- CFG_BUSY (1; 03 R94; 0) -/
  cfgBusy : Bool
  /-- C0_BOUND_HELD (1; 03 R84; 0) -/
  boundHeld : Bool
  /-- GRID_COND (1; 03 R84; 0) -/
  gridCond : Bool
  /-- POWER_COND (1; 03 R84; 0) -/
  powerCond : Bool
  /-- THERMAL_COND (1; 03 R84; 0) -/
  thermalCond : Bool
  /-- RECAST_COND (1; 03 R84; 0) -/
  recastCond : Bool
  /-- SCH_C0_ADMITTED (32; 03 R80; 0) -/
  admitted : Nat
  /-- SCH_C0_DEFERRED (32; 03 R80; 0) -/
  deferred : Nat
  /-- SCH_C0_REFUSED (32; 03 R78; 0) -/
  refused : Nat
  /-- SCH_C0_LATE (32; 03 R85; 0) -/
  late : Nat
  /-- SCH_C0_UNBOUND (32; 03 R83; 0) -/
  unbound : Nat
  /-- SCH_LATE_STROKES (32; 03 R86; 0) -/
  lateStrokes : Nat
  /-- SCH_OVERRUNS (32; 03 R87; 0) -/
  overruns : Nat
  /-- SCH_PREEMPTIONS (32; 03 R89; 0) -/
  preemptions : Nat
  /-- SCH_QUENCH_MISS (32; 03 R91; 0) -/
  quenchMiss : Nat
  /-- SCH_C0_WORST (8; 03 Table 3-8; 0) -/
  worst : Nat
  /-- SCH_ACCOUNT engine-µs, index 4s + c (32 × 64; 03 R77; 0) -/
  acctEngine : Vector Nat 32
  /-- SCH_ACCOUNT bench-µs, index 4s + c (32 × 64; 03 R77; 0) -/
  acctBench : Vector Nat 32
  /-- lag of each Engine, µs (48; 03 R86; 0) -/
  lagEngine : Vector Nat 48
  /-- lag of each Bench, µs (512; 03 R86; 0) -/
  lagBench : Vector Nat 512
  /-- class budgets of each resource for the Stroke, C0 to C3, µs (list; 03 R436; empty) -/
  budgets : List (Nat × List Rat)
  /-- lag that each resource's shrunk budgets take off in the Stroke, µs (list; 03 R86; empty) -/
  lagTaken : List (Nat × Nat)
  /-- time each job occupied each resource in the Stroke in progress (list; 03 R77 R436; empty) -/
  usage : List Use
  /-- waiting and running work in arrival order (list; 08 R209; empty) -/
  jobs : List Job
  /-- semaphores not in their free, unbroken state (list; 03 R88; empty) -/
  sems : List Sem
  /-- Engines held for a C0 candidate that pre-empted on arrival (list; 03 R82; empty) -/
  arrivalHolds : List (Key × EngineId)
  /-- Benches kept free of lower-class work, with the sweep boundary (list; 03 R438; empty) -/
  benchHolds : List (BenchId × Nat)
  /-- Shops that admit nothing at the next boundary (list; 03 R90; empty) -/
  noAdmit : List Nat
  /-- merges completed so far, which orders the gate (count; 14 R342; 0) -/
  merges : Nat
  /-- link and fabric credits held (list; 03 R89; empty) -/
  credits : List Credit
  deriving DecidableEq, Repr

/-! ### Matrix Engines (chapters 4 to 6) -/

/-- Scale record of one 16 KiB scoreboard unit (R136). -/
structure ScaleRec where
  unit : Nat
  rows : List BF16
  cols : List BF16
  tags : List Word16
  deriving DecidableEq, Repr

/-- One row of A as staged: its packed codes, its scales (one, or one for each MX block) and its marked channels. -/
structure StagedRow where
  codes : List Byte
  scales : List Word16
  outliers : List BF16
  deriving DecidableEq, Repr

/-- The first pair of block tags that disagree (R143): operand (0 = A, 1 = B), block, tag expected and tag found. -/
structure Skew where
  operand : Nat
  block : Nat
  expected : Nat
  found : Nat
  deriving DecidableEq, Repr

/-- The weights of the Cells by K index and column, as codes (R102, R104). -/
abbrev CellGrid := List (List Nat)

/-- A staged operand slot (R98, R99, R133): the instruction word, the rows of A, the codes and scales of B, the mask and
side weights in force for it, the tags that disagree, its A tag for each block, and conversions that set the flag. -/
structure Slot where
  word : BitVec 128
  rows : List StagedRow
  b : CellGrid
  bScales : List Word16
  mask : BitVec 256
  side : List BF16
  skew : Option Skew
  tags : List Word16
  /-- the 128 row scales of each A scale block of an INT32 pair, in order (list; 05 R136; as the record) -/
  recRows : List BF16
  saturated : Nat
  deriving DecidableEq, Repr

/-- An issued array instruction awaiting its last write: word, FP32 or INT32 contribution of each row (R151 steps 1 and
2 done), its row and column scales, the tag of each A scale block, and its code-region word. -/
structure DrainEntry where
  word : BitVec 128
  rows : List (List Word32)
  rowScales : List BF16
  colScales : List BF16
  tags : List Word16
  at_ : Nat
  deriving DecidableEq, Repr

/-- A vector instruction in the queue (R112): the accumulator units it reads and those it writes, and the 64 KiB
granules of the operand store it writes. -/
structure VecEntry where
  reads : List Nat
  writes : List Nat
  granules : List Nat
  deriving DecidableEq, Repr

/-- A sampled output block in the Touchstone buffer (R167): its unit, formats and depth, the scaled contribution, the wide
values of A by row and of B by column that the reference uses, and the operand granules that it reads. -/
structure Sample where
  unit : Nat
  /-- code-region word of its instruction -/
  word : Nat
  aFmt : Nat
  bFmt : Nat
  k : Nat
  y : List (List F32)
  a : List (List F32)
  b : List (List F32)
  granules : List Nat
  deriving DecidableEq, Repr

/-- What a job keeps on an Engine from its first unit there to its end: the states of the vector lanes (R160) and its
Touchstone sample counter (R166). -/
structure JobLocal where
  key : Key
  rng : List Word64
  samples : Nat
  deriving DecidableEq, Repr

/-- The part of an Engine that a context save keeps (R118, R136, R162). -/
structure EngineCtx where
  /-- operand store, 24 MiB (bytes and 512-byte lines; 04 R95, 07 R171; invalid) -/
  operand : Store
  /-- accumulator store, 4 MiB (bytes and 512-byte lines; 04 R95, 07 R171; invalid) -/
  acc : Store
  /-- block tags other than 0 by 512-byte unit (16 each; 05 R141; 0) -/
  tags : List (Nat × Word16)
  /-- scale records (list; 05 R136; scales 1.0 and tag 0) -/
  scales : List ScaleRec
  /-- active SHADOW weight registers, codes of the Cells (grid; 04 R102; none: DESIGN CHOICE empty, log 5) -/
  active : CellGrid
  /-- shadow SHADOW weight registers (grid; 04 R102; none: DESIGN CHOICE empty, log 5) -/
  shadow : CellGrid
  /-- side-path weight register, 16 KiB (list; 04 R111; none: DESIGN CHOICE empty, log 5) -/
  side : List BF16
  /-- mask in force, one bit per K row (256; 04 R105; none: DESIGN CHOICE 0, log 5) -/
  mask : BitVec 256
  /-- feeder slots staged, program order (at most 2; 04 R99; empty) -/
  slots : List Slot
  /-- loop counter (32; 04 R118; none: DESIGN CHOICE 0, log 5) -/
  loop : Nat
  /-- overflow cause bits (8; 06 R162; 0) -/
  causes : BitVec 8
  /-- flag-setting events (32; 06 Table 6-6; 0) -/
  flagEvents : Nat
  /-- code-region word of the first flag-setting instruction (32; 06 Table 6-6; 0) -/
  firstWord : Nat
  /-- code-region word of the next instruction (32; 04 R97; 0) -/
  pc : Nat
  /-- SEM_BROKEN flag (1; 08 R207; 0) -/
  semBroken : Bool
  /-- declared length of the open non-preemptible command (12, none; 04 R114; none) -/
  npOpen : Option Nat
  /-- clock when the open non-preemptible command began (µs; 03 R80; 0) -/
  npStart : Nat
  /-- time of the open non-preemptible command spent waiting on a refetch (µs; 03 R87; 0) -/
  npWait : Nat
  /-- Engine time of the execution in progress that is charged already (µs; 03 R77; 0) -/
  ran : Nat
  /-- granules of 64 KiB written by the execution in progress, by space (list; 06 R165; empty) -/
  written : List (Space × Nat)
  /-- scoreboard units of the tiles that its array instructions wrote (list; 06 R156; empty) -/
  tiles : List Nat
  deriving DecidableEq, Repr

def EngineCtx.fresh : EngineCtx :=
  { operand := Store.empty, acc := Store.empty, tags := [], scales := [], active := [], shadow := [], side := [],
    mask := 0, slots := [], loop := 0, causes := 0, flagEvents := 0, firstWord := 0, pc := 0, semBroken := false,
    npOpen := none, npStart := 0, npWait := 0, ran := 0, written := [], tiles := [] }

/-- Table 4-11. -/
inductive EngineState where
  | off | idle | running | saving | restoring | failed
  deriving DecidableEq, Repr

/-- An asynchronous transfer in progress (R114). -/
structure XferOp where
  src : TierAddr
  dst : TierAddr
  len : Nat
  tag : Word16
  deriving DecidableEq, Repr

/-- A saved context, or what a job left on an Engine between two of its units (unit number 2^32), and the objects it had
pinned. -/
structure SavedCtx where
  key : Key
  unit : Nat
  part : Part
  /-- it holds granules of Sterling stores -/
  sterling : Bool
  ctx : EngineCtx
  pins : List CacheId
  deriving DecidableEq, Repr

structure Engine where
  /-- ME_STATUS.STATE (3; 04 R117; OFF) -/
  state : EngineState
  /-- ME_STATUS.MODE, true = BROADCAST (1; 04 Table 4-15; 0) -/
  broadcast : Bool
  /-- ME_STATUS.WORLD (1; 04 Table 4-15; 1) -/
  sterling : Bool
  /-- ME_STATUS.BOUND and SHOP_ID (1 + 3; 04 Table 4-15; 0) -/
  shop : Option Nat
  /-- ME_STATUS.FAULT (1; 04 Table 4-15; 0) -/
  fault : Bool
  /-- ME_CTRL.COUNT_EN (1; 04 Table 4-15; 1) -/
  countEn : Bool
  /-- ME_CTRL.FAULT_IRQ_EN (1; 04 Table 4-15; 0) -/
  faultIrq : Bool
  /-- ME_FAULT.REASON (8; 04 R116; 0) -/
  reason : Byte
  /-- ME_FAULT.OPCODE (8; 04 R116; 0) -/
  opcode : Byte
  /-- ME_FAULT.FAULTS (16; 04 Table 4-15; 0) -/
  faults : Nat
  /-- ME_CTX.LAST_SAVE_US (16; 04 Table 4-15; 0) -/
  lastSave : Nat
  /-- ME_CTX.LAST_LOAD_US (16; 04 Table 4-15; 0) -/
  lastLoad : Nat
  /-- ME_BUSY (64; 04 Table 4-15; 0) -/
  busy : Nat
  /-- ME_FEED_STALL (64; 04 R98; 0) -/
  feedStall : Nat
  /-- ME_DRAIN_STALL (64; 04 R98; 0) -/
  drainStall : Nat
  /-- ME_SB_STALL (64; 04 R98; 0) -/
  sbStall : Nat
  /-- array MACs by fed Cells, ME_MAC_256 × 256 (72; 04 Table 4-15; 0) -/
  macs : Nat
  /-- side-path MACs, ME_SIDE_MAC_256 × 256 (72; 04 Table 4-15; 0) -/
  sideMacs : Nat
  /-- ME_VEC_CYCLES (64; 04 Table 4-15; 0) -/
  vecCycles : Nat
  /-- ME_SWAPS (64; 04 Table 4-15; 0) -/
  swaps : Nat
  /-- job and unit that run (record; 04 R117; none) -/
  job : Option (Key × Nat)
  /-- running context (record; 04 R118; fresh) -/
  ctx : EngineCtx
  /-- job whose stores the idle Engine still holds between two of its units (record, none; 08 R206; none) -/
  resident : Option Key
  /-- issued array instructions, oldest first (at most 4; 04 R100; empty) -/
  drain : List DrainEntry
  /-- vector queue, oldest first (at most 4; 04 R112; empty) -/
  vec : List VecEntry
  /-- transfers in progress (list; 04 R114; empty) -/
  xfers : List XferOp
  /-- saved contexts (list; 04 R118; empty) -/
  saved : List SavedCtx
  /-- clock when the save or load in progress began (µs; 04 Table 4-15; 0) -/
  switchUs : Nat
  /-- clock up to which its running job is charged (µs; 03 R77; 0) -/
  since : Nat
  /-- job whose pre-emption of the running one waits for the end of a command or the release of a semaphore (command, none;
  03 R87 R88; none) -/
  wanted : Option Key
  /-- Touchstone record written in this Stroke (1; 06 R169; 0) -/
  tsThisStroke : Bool
  /-- disagreeing samples not recorded (16; 06 Table 6-7; 0) -/
  tsSuppressed : Nat
  /-- samples since the previous Touchstone record (32; 06 Table 6-7; 0) -/
  tsSamples : Nat
  /-- samples in the Touchstone buffer, oldest first (list; 06 R167; empty) -/
  tsBuffer : List Sample
  /-- lane states (512 × 64 bits) and sample counter (16) of each job that has run here (list; 06 R160 R166; empty) -/
  locals : List JobLocal
  deriving DecidableEq, Repr

def Engine.reset : Engine :=
  { state := .off, broadcast := false, sterling := true, shop := none, fault := false, countEn := true,
    faultIrq := false, reason := 0, opcode := 0, faults := 0, lastSave := 0, lastLoad := 0, busy := 0, feedStall := 0,
    drainStall := 0, sbStall := 0, macs := 0, sideMacs := 0, vecCycles := 0, swaps := 0, job := none,
    ctx := EngineCtx.fresh, resident := none, drain := [], vec := [], xfers := [], saved := [], switchUs := 0, since := 0, wanted := none, tsThisStroke := false,
    tsSuppressed := 0, tsSamples := 0, tsBuffer := [], locals := [] }

/-! ### Memory tiers and model cache (chapter 7) -/

/-- A dirty flash-backed granule: Quarter, 64 KiB granule name, write-back class (Table 7-2). -/
structure DirtyGranule where
  quarter : QuarterId
  granule : Nat
  cls : Nat
  mirror : Nat
  deriving DecidableEq, Repr

/-- A resident stream tail (R215, R243): list, stream and its place among the 48 of the cache. -/
structure Tail where
  list : Nat
  stream : Nat
  slot : Nat
  deriving DecidableEq, Repr

/-- The segment record of a Quarter's flush: the Bench that holds it, its log extents and their pages (Table 7-3). -/
structure FlushSegment where
  quarter : QuarterId
  home : BenchId
  extents : List (BenchId × Nat)
  deriving DecidableEq, Repr

/-- What the pages of a power-fail flush hold (R177, R178): the dirty granules, the tails in those of Bench SRAM, the epoch, the
segment records, and the Benches with a commit record. The pages themselves stand in the flush-log blocks. -/
structure FlushLog where
  granules : List DirtyGranule
  tails : List (BenchId × Tail)
  epoch : Nat
  segments : List FlushSegment
  commits : List BenchId
  deriving DecidableEq, Repr

structure Memory where
  /-- stacked memory, 1,728 GiB (bytes and 64 KiB granules; 07 R170 R171; invalid) -/
  stacked : Store
  /-- Quarter Stores, 96 MiB each (bytes and 512-byte lines; 07 R171; invalid) -/
  quarter : Vector Store 4
  /-- Bench SRAMs, 2 MiB each (bytes and 512-byte lines; 07 R171; invalid) -/
  sram : Vector Store 512
  /-- dirty flash-backed granules (list, one dirty bit each; 07 R174; empty) -/
  dirty : List DirtyGranule
  /-- last write-back of each granule: granule and clock (list; 13 R321; empty) -/
  writtenBack : List (Nat × Nat)
  /-- stacked granules withheld (list; 07 R188; empty) -/
  withheld : List Nat
  /-- stacked granules to withhold when their holder releases them (list; 13 R319; empty) -/
  toWithhold : List Nat
  /-- poisoned words by tier address (list; 13 R317; empty) -/
  poisoned : List TierAddr
  /-- granules whose reload is awaited, with the clock since when (list; 13 R319; empty) -/
  reloading : List (Nat × Nat)
  /-- ERR_STACK_FAILED (24; 13 Table 13-9; 0) -/
  stackFailed : BitVec 24
  /-- stacks that Assay excluded from allocation until the next module reset (24, one bit each; 13 R326; 0) -/
  excluded : BitVec 24
  /-- LAST_FLUSH (2; 07 Table 7-8; 0) -/
  lastFlush : Nat
  /-- flush log on flash (record; 07 R177; none) -/
  flushLog : Option FlushLog
  deriving DecidableEq, Repr

inductive CacheState where
  | staged | hot
  deriving DecidableEq, Repr

/-- A cache object that is not ABSENT (R182, R184). The list that holds it is in least recently used order. -/
structure CacheObj where
  id : CacheId
  state : CacheState
  stored : Nat
  decoded : Nat
  /-- units that pin it, once for each pin (list; 07 R184; empty) -/
  pins : List (Key × Nat)
  promoting : Bool
  /-- granules of its STAGED copy: by which it is named, and which holds it since its last refetch (list; 07 R182 R188) -/
  stagedAt : List (Nat × Nat)
  /-- Quarter Store granules of its decoded copy, likewise (list; 07 R182 R188; empty) -/
  hotAt : List (Nat × Nat)
  deriving DecidableEq, Repr

/-- A staging in progress and the granules it takes (R183). -/
structure Staging where
  id : CacheId
  stored : Nat
  granules : List Nat
  deriving DecidableEq, Repr

/-- A promotion that waits for a staging or a pin release, and whether QTR_MC_PIN_WAIT has counted it (R186). -/
structure CacheWait where
  id : CacheId
  key : Key
  unit : Nat
  counted : Bool
  deriving DecidableEq, Repr

/-- A refetch in progress: a block of a HOT or STAGED copy, the Engines whose transfer waits for it, and when it began
(R188). -/
structure Refetch where
  id : CacheId
  block : Nat
  hot : Bool
  /-- Engines that wait for it, with the clock since which each waits -/
  waiters : List (EngineId × Nat)
  deriving DecidableEq, Repr

structure ModelCache where
  /-- HOT_LIMIT in force (11; 07 R192; 768) -/
  hotLimit : Nat
  /-- STAGED_LIMIT in force, GiB (9; 07 R192; 64) -/
  stagedLimit : Nat
  /-- CFG_BUSY (1; 07 R192; 0) -/
  cfgBusy : Bool
  /-- QTR_WB_STALL (32; 07 R176; 0) -/
  wbStall : Nat
  /-- QTR_MC_PROMOTIONS (64; 07 R183; 0) -/
  promotions : Nat
  /-- QTR_MC_EVICTIONS (64; 07 R183; 0) -/
  evictions : Nat
  /-- QTR_MC_PIN_DEFER (64; 07 R185; 0) -/
  pinDefer : Nat
  /-- QTR_MC_PIN_WAIT (64; 07 R186; 0) -/
  pinWait : Nat
  /-- QTR_MC_REFETCH.REFETCHES (16; 07 R188; 0) -/
  refetches : Nat
  /-- QTR_MC_REFETCH.POISONED (16; 07 R189; 0) -/
  poisoned : Nat
  /-- QTR_DECODE_BYTES (64; 07 Table 7-8; 0) -/
  decodeBytes : Nat
  /-- STAGED and HOT objects, least recently used first (list; 07 R182; empty) -/
  objs : List CacheObj
  /-- stagings in progress (list; 07 R183; empty) -/
  staging : List Staging
  /-- refetches in progress by block (list; 07 R188; empty) -/
  refetching : List Refetch
  /-- promotions that wait for a staging or a pin release (list; 07 R183 R186; empty) -/
  waiting : List CacheWait
  /-- dirtying writes that wait at the limit: granule and class (list; 07 R176; empty) -/
  dirtyWait : List (Nat × Nat)
  deriving DecidableEq, Repr

def ModelCache.reset : ModelCache :=
  { hotLimit := 768, stagedLimit := 64, cfgBusy := false, wbStall := 0, promotions := 0, evictions := 0, pinDefer := 0,
    pinWait := 0, refetches := 0, poisoned := 0, decodeBytes := 0, objs := [], staging := [], refetching := [],
    waiting := [], dirtyWait := [] }

/-! ### Ingots (chapter 8) -/

/-- Unit entry (Table 8-2). -/
structure UnitEntry where
  kind : Nat
  mode : Nat
  splittable : Bool
  inPlace : Bool
  fmtDefault : Bool
  rung : Nat
  aFmt : Nat
  bFmt : Nat
  outliers : Nat
  codeSegment : Nat
  firstSegment : Nat
  segmentSpan : Nat
  nonpreUs : Nat
  pinned : Nat
  worstUs : Nat
  preds : List Nat
  wider : Option Nat
  variantNext : Option Nat
  deriving DecidableEq, Repr

structure SegmentEntry where
  offset : Nat
  stored : Nat
  decoded : Nat
  hash : List Byte
  deriving DecidableEq, Repr

/-- Table 8-5A; an Ingot not listed is removed or was never present. -/
inductive IngotState where
  | loading | ready | poisoned | dropping
  deriving DecidableEq, Repr

structure Ingot where
  /-- INGOT_ID (32; 08 Table 8-1; as loaded) -/
  id : Nat
  /-- Table 8-5A (2; 08 R199; none present) -/
  state : IngotState
  signed : Bool
  derived : Bool
  base : Nat
  opKind : Nat
  tokenNs : Nat
  outDims : Nat
  maxContext : Nat
  layers : Nat
  kvHeads : Nat
  headDim : Nat
  scaleMode : Nat
  legacyWindow : Nat
  legacyMargin : BF16
  units : List UnitEntry
  segments : List SegmentEntry
  /-- image received so far (bytes; 08 R195; empty) -/
  image : List Byte
  /-- clock of the last piece (µs; 08 R195; 0) -/
  lastPieceUs : Nat
  /-- Bench time of a page, as the newest piece showed it (µs; 08 R195; 0) -/
  pageUs : Nat
  /-- FINAL piece under validation (command; 08 R196; none) -/
  finalPiece : Option Key
  /-- Mold generation of the last unsigned record (64, none; 08 R197; none) -/
  unsignedGen : Option Word64
  deriving DecidableEq, Repr

/-! ### Objects, Collections and lists (chapters 9 and 10) -/

/-- Table 10-5. -/
inductive ReadState where
  | pending | deferred | reading | indexed | partRead | notRead
  deriving DecidableEq, Repr

/-- A passage of an object: its hash, locator, token count and sketch number (R258, R259). -/
structure Passage where
  hash : List Byte
  chunk : Nat
  offset : Nat
  tokens : Nat
  sketches : List (List Byte)
  deriving DecidableEq, Repr

structure Obj where
  /-- OBJECT_ID (64; 15 R386; as assigned) -/
  id : Nat
  coll : Nat
  bench : BenchId
  /-- envelope as stored (bytes; 10 R249; as stored) -/
  envelope : List Byte
  /-- READ_STATE (3; 10 R252; PENDING) -/
  state : ReadState
  /-- READ_REASON (4; 10 R252; 0) -/
  reason : Nat
  /-- READ_STATE that the home object map on flash holds (3; 07 R178; PENDING) -/
  home : ReadState
  /-- READ_REASON that the home object map on flash holds (4; 07 R178; 0) -/
  homeReason : Nat
  /-- reason with which its reading will end, 0 = none (4; 10 R252; 0) -/
  stop : Nat
  /-- passages handed to an Engine in a batch (list; 10 R260; empty) -/
  handed : List Nat
  /-- PASSAGES (32; 10 R252; 0) -/
  passages : List Passage
  /-- NOT_INDEXED (32; 10 R252; 0) -/
  notIndexed : Nat
  /-- MEMBERS_SKIPPED (32; 10 R252; 0) -/
  membersSkipped : Nat
  /-- passages appended (list; 10 R260; empty) -/
  appended : List Nat
  storeEpoch : Nat
  /-- delete epoch (48, none; 09 R229; none) -/
  deleted : Option Nat
  cipherHash : List Byte
  contentHash : Option (List Byte)
  /-- field record: descriptor (kind, name) and value (list; 10 R257; empty) -/
  fields : List ((Nat × List Byte) × List Byte)
  /-- first lost envelope byte (64, none; 11 Table 11-8; none) -/
  lost : Option Nat
  /-- clock when its reading last ended (µs; 13 R321; 0) -/
  readEndUs : Nat
  deriving DecidableEq, Repr

/-- An OBJ_PUT or OBJ_DELETE whose journal entry is not yet durable (R278, R229). -/
structure PendingPut where
  key : Key
  coll : Nat
  bench : BenchId
  envelope : List Byte
  deriving DecidableEq, Repr

/-- A calibration awaiting its boundary (R237). -/
structure Calibration where
  offsets : List F32
  scales : List F32
  deriving DecidableEq, Repr

/-- Table 9-1. -/
inductive CollState where
  | uncalibrated | calibrating | ready
  deriving DecidableEq, Repr

/-- A Collection's descriptor on media (R51, R211) with the counters of its record (R240). -/
structure Coll where
  /-- COLLECTION_ID (12; 02 R51; as created) -/
  id : Nat
  dims : Nat
  metric : Nat
  recordClass : Nat
  listShare : Nat
  /-- first of the List Directory entries reserved for it (24; 09 R212; as created) -/
  firstList : Nat
  label : Word64
  /-- KCV (128, none; 14 R347; none) -/
  kcv : Option (List Byte)
  /-- Table 9-1 (2; 09 R211; UNCALIBRATED) -/
  state : CollState
  cal : Calibration
  entryList : Option Nat
  /-- NOT_INDEXED (32; 09 Table 9-10; 0) -/
  notIndexed : Nat
  /-- MARK_STALLS (32; 09 Table 9-10; 0) -/
  markStalls : Nat
  /-- MEDIA_PARTIAL (32; 09 Table 9-10; 0) -/
  mediaPartial : Nat
  /-- both copies of a metadata page lost (1; 11 Table 11-8; 0) -/
  unavailable : Bool
  deriving DecidableEq, Repr

/-- A stored record with its tag (Tables 9-4, 9-5). -/
structure Rec where
  object : Nat
  passage : Nat
  /-- INSERT_EPOCH of the tag (48; 09 Table 9-5; as stamped at its first insertion) -/
  epoch : Nat
  wide : Bool
  movedIn : Bool
  code : List Byte
  body : List Byte
  escapes : List Word16
  norm2 : F32
  /-- BODY_INDEX of the tag (32; 09 R214; as placed) -/
  bodyIndex : Nat
  /-- SIDE_INDEX of the tag (32; 09 R214; as placed) -/
  sideIndex : Nat
  deriving DecidableEq, Repr

/-- Visibility-log entry kinds (Table 9-9). -/
inductive LogKind where
  | delete (epoch : Nat)
  | movedIn (token : Nat)
  | movedOut (token : Nat)
  deriving DecidableEq, Repr

structure LogEntry where
  record : Nat
  kind : LogKind
  deriving DecidableEq, Repr

/-- A list: its Directory entry (Table 9-2), graph node, records, visibility log, marks and extents. -/
structure Lst where
  /-- list number (24; 09 R212; as allocated) -/
  num : Nat
  coll : Nat
  bench : BenchId
  lastEpoch : Nat
  /-- RETIRE_EPOCH (48, none = live; 09 Table 9-2; live) -/
  retire : Option Nat
  /-- MENDING (1; 09 R235; 0) -/
  mending : Bool
  /-- MEND_GEN (8; 09 R235; 0) -/
  mendGen : Nat
  /-- centroid, DIMS FP16 values (list; 09 R216; as published) -/
  centroid : List Word16
  /-- edge list, at most 32 (list; 09 R216; as published) -/
  edges : List Nat
  records : List Rec
  log : List LogEntry
  /-- marks, newest first: epoch and count (list; 09 R231; empty) -/
  marks : List (Nat × Nat)
  /-- count at the last boundary (32; 09 R231; 0) -/
  countAt : Nat
  /-- pages of the streams on flash: stream code and pages (list; 09 R213; empty) -/
  pages : List (Nat × Nat)
  /-- a mend's copy is complete and switches at the next boundary (1; 09 R235; 0) -/
  mended : Bool
  /-- records that its pages on flash held when its tails were last clean (32; 07 R178; 0) -/
  homeCount : Nat
  /-- queries whose walk was in flight at the last repair around this retired list (list; 09 R236; empty) -/
  walkers : List Key
  deriving DecidableEq, Repr

structure Token where
  num : Nat
  owner : Key
  epoch : Option Nat
  abandoned : Bool
  deriving DecidableEq, Repr

/-- A sweep in progress (R222): its list, Bench, queries, and whether its code phase has ended. -/
structure Sweep where
  list : Nat
  bench : BenchId
  queries : List Key
  survivors : List (Key × List Nat)
  counts : List (Key × Nat × Nat)
  coded : Bool
  /-- the list on its old extents, once a mend has switched it under the sweep (record; 09 R235; none) -/
  old : Option Lst
  deriving DecidableEq, Repr

/-- What a CALIBRATE or KMEANS puts into force at a boundary (R237, R239): its job, its Collection, its calibration or
its token and snapshot, the records it moves (object, passage, old list, new list), new lists, the centroid and edges of
each list, and the entry list. -/
structure Publication where
  key : Key
  coll : Nat
  cal : Option Calibration
  token : Option Nat
  snapshot : Nat
  moves : List (Nat × Nat × Nat × Nat)
  lists : List Lst
  centroids : List (Nat × List Word16)
  edges : List (Nat × List Nat)
  entry : Option Nat
  /-- appends of copies counted in MARK_STALLS, by their place in `moves` (count; 09 R232; 0) -/
  stalled : Nat := 0
  deriving DecidableEq, Repr

structure Search where
  /-- Collections on media (list; 02 R51; empty: DESIGN CHOICE, log 6) -/
  colls : List Coll
  /-- allocated lists (list, at most 16,777,216; 09 R212; empty: DESIGN CHOICE, log 6) -/
  lists : List Lst
  /-- epoch counter, the newest published epoch (48; 09 R228; 0: DESIGN CHOICE, log 6) -/
  epoch : Nat
  /-- publication tokens in use (list; 09 R239; empty) -/
  tokens : List Token
  /-- sweeps formed and not ended (list; 09 R222; empty) -/
  sweeps : List Sweep
  /-- marks in use of the pool of 4,194,304 (23; 09 R232; 0) -/
  marksUsed : Nat
  /-- appends that wait for a mark or an append block (list; 09 R232, 11 R279; empty) -/
  appendWait : List (Nat × BatchRec)
  /-- records made by a Quarter on their way to their list's Bench: list and record (list; 10 R260; empty) -/
  transit : List (Nat × BatchRec)
  /-- publications that wait for the next boundary (list; 09 R237 R239; empty) -/
  publications : List Publication
  /-- objects (list; 10 R252; empty: DESIGN CHOICE, log 6) -/
  objs : List Obj
  /-- OBJECT_ID counter, the next identifier (64; 15 R386; 1) -/
  nextId : Nat
  /-- OBJ_PUTs not yet durable (list; 11 R278; empty) -/
  puts : List PendingPut
  /-- OBJ_DELETEs not yet durable: command and object (list; 09 R229; empty) -/
  deletes : List (Key × Nat)
  /-- Collections whose EMBED_INGOT was not READY when the Mold took force or has ceased to be since (list; 08 R199; empty) -/
  embedOff : List Nat
  /-- lists as their home copies on flash hold them (list; 07 R175 R178; empty) -/
  homeLists : List Lst
  /-- Collection descriptors as their home copies on flash hold them (list; 07 R175 R178; empty) -/
  homeColls : List Coll
  /-- generation in which the PLATE_BENCH_WAIT record of a Bench was written (list; 10 R251; empty) -/
  plateWarned : List (BenchId × Word64)
  deriving DecidableEq, Repr

/-! ### Benches and flash media (chapters 10 and 11) -/

inductive BenchState where
  | off | idle | running | saving | restoring | failed
  deriving DecidableEq, Repr

/-- A token batch awaiting its vectors (R260): object, passage and token count of each entry, and its Engine. -/
structure Batch where
  entries : List (Nat × Nat × Nat)
  engine : Option EngineId
  deriving DecidableEq, Repr

structure Bench where
  /-- BN_STATUS.STATE (3; 10 R264; OFF) -/
  state : BenchState
  /-- BN_STATUS.WORLD (1; 10 Table 10-10; 1) -/
  sterling : Bool
  /-- BN_STATUS.BOUND and SHOP_ID (1 + 3; 10 Table 10-10; 0) -/
  shop : Option Nat
  /-- BN_STATUS.FAULT (1; 10 Table 10-10; 0) -/
  fault : Bool
  /-- BN_CTRL.COUNT_EN (1; 10 Table 10-10; 1) -/
  countEn : Bool
  /-- BN_CTRL.FAULT_IRQ_EN (1; 10 Table 10-10; 0) -/
  faultIrq : Bool
  /-- BN_CTRL.LINK_IRQ_EN (1; 10 Table 10-10; 0) -/
  linkIrq : Bool
  /-- BN_FAULT.REASON (8; 10 R263; 0) -/
  reason : Byte
  /-- BN_FAULT.OPERATOR (8; 10 Table 10-10; 0) -/
  operator : Byte
  /-- BN_FAULT.FAULTS (16; 10 Table 10-10; 0) -/
  faults : Nat
  /-- BN_STORED_BYTES (64; 10 Table 10-10; 0) -/
  storedBytes : Nat
  /-- BN_GET_BYTES (64; 10 Table 10-10; 0) -/
  getBytes : Nat
  /-- BN_READ_OBJECTS (64; 10 Table 10-10; 0) -/
  readObjects : Nat
  /-- BN_NOT_READ (64; 10 Table 10-10; 0) -/
  notRead : Nat
  /-- BN_TEXT_BYTES (64; 10 Table 10-10; 0) -/
  textBytes : Nat
  /-- BN_TOKENS (64; 10 Table 10-10; 0) -/
  tokens : Nat
  /-- BN_PASSAGES (64; 10 Table 10-10; 0) -/
  passages : Nat
  /-- BN_RECORDS_IN (64; 10 Table 10-10; 0) -/
  recordsIn : Nat
  /-- BN_BATCH_STALL, µs (64; 10 R260; 0) -/
  batchStall : Nat
  /-- BN_TAIL_REWRITES (64; 10 R243; 0) -/
  tailRewrites : Nat
  /-- BN_SWEEPS (64; 10 Table 10-10; 0) -/
  sweeps : Nat
  /-- BN_PAIRS (64; 10 Table 10-10; 0) -/
  pairs : Nat
  /-- object being read (64, none; 10 R251; none) -/
  reading : Option Nat
  /-- resident tails, least recently used first (at most 48; 10 R243; empty) -/
  tails : List Tail
  /-- batches awaiting vectors (at most 7; 10 R260; empty) -/
  batches : List Batch
  /-- clock since reading is paused on a full batch buffer (µs, none; 10 R260; none) -/
  stalledAt : Option Nat
  /-- job whose Bench operator runs (command, none; 10 R262; none) -/
  job : Option Key
  /-- clock up to which its operator's job is charged (µs; 03 R77; 0) -/
  since : Nat
  /-- bench time of the operator in progress that is charged already (µs; 03 R77; 0) -/
  ran : Nat
  deriving DecidableEq, Repr

def Bench.reset : Bench :=
  { state := .off, sterling := true, shop := none, fault := false, countEn := true, faultIrq := false, linkIrq := false,
    reason := 0, operator := 0, faults := 0, storedBytes := 0, getBytes := 0, readObjects := 0, notRead := 0,
    textBytes := 0, tokens := 0, passages := 0, recordsIn := 0, batchStall := 0, tailRewrites := 0, sweeps := 0,
    pairs := 0, reading := none, tails := [], batches := [], stalledAt := none, job := none, since := 0, ran := 0 }

/-- BN_BATCH_STALL with the pause in progress (10 R260). -/
def Bench.stallUs (x : Bench) (now : Nat) : Nat :=
  match x.stalledAt with
  | some t => if x.countEn then satAdd 64 x.batchStall (now - t) else x.batchStall
  | none => x.batchStall

/-- A pause of the reading ends. -/
def Bench.endStall (x : Bench) (now : Nat) : Bench := { x with batchStall := x.stallUs now, stalledAt := none }

/-- The object that a Bench reads leaves READING: counted, and the Bench is free for the next (10 Table 10-10). -/
def Bench.leaveReading (x : Bench) (now : Nat) : Bench :=
  let x := x.endStall now
  { x with reading := none, readObjects := if x.reading.isSome && x.countEn then satAdd 64 x.readObjects 1 else x.readObjects }

/-- Table 11-10. -/
inductive BlockState where
  | free | open | full | erasing | suspended | eraseIncomplete | retired
  deriving DecidableEq, Repr

/-- A block other than a FREE block with no history (R265, R283). -/
structure Block where
  id : BlockId
  state : BlockState
  slc : Bool
  erases : Nat
  reads : Nat
  /-- index g of the last good threshold set (5; 11 R274; 0) -/
  good : Nat
  /-- next row to program (11; 11 R270; 0) -/
  next : Nat
  /-- role of an SLC block: 1 flush log, 2 journal, 3 append, 4 staging; 0 for QLC (3; 11 R276; 0) -/
  role : Nat
  /-- a read needed step 3 or tried more than 8 sets since its last program (1; 11 R288; 0) -/
  worn : Bool
  deriving DecidableEq, Repr

/-- A page identity as programmed (Table 11-3). -/
structure PageIdent where
  page : PhysPage
  kind : Nat
  stream : Nat
  content : Nat
  index : Nat
  originSeq : Nat
  seq : Nat
  epoch : Nat
  /-- DETAIL of KIND 5: flush segment and page number; otherwise (0, 0) -/
  detail : Nat × Nat
  deriving DecidableEq, Repr

/-- Filler pages, KIND 7: consecutive rows of a block, the SEQ of the first and the epoch (R268, R271). -/
structure Filler where
  blk : BlockId
  row : Nat
  rows : Nat
  seq : Nat
  epoch : Nat
  deriving DecidableEq, Repr

/-- A program (of the page identified) or an erase (none) in progress on a die (R284). -/
structure NandOp where
  block : BlockId
  ident : Option PageIdent
  resumedUs : Nat
  suspended : Bool
  deriving DecidableEq, Repr

/-- An entry of the stripe table: its number, its blocks, and the next row to program (R270, R271). -/
structure Stripe where
  num : Nat
  blocks : List BlockId
  next : Nat
  deriving DecidableEq, Repr

structure Flash where
  /-- FM_STATUS.CFG_BUSY (1; 11 R294; 0) -/
  cfgBusy : Bool
  /-- FM_STATUS.BROWNOUT (1; 11 R291; 0) -/
  brownout : Bool
  /-- FM_CTRL.PATROL_EN (1; 11 R289; 1) -/
  patrolEn : Bool
  /-- FM_CTRL.PATROL_DAYS in force (7; 11 R294; 14) -/
  patrolDays : Nat
  /-- FM_CTRL.MEDIA_IRQ_EN (1; 11 Table 11-13; 0) -/
  mediaIrq : Bool
  /-- FM_RAW_ADDR (32; 11 Table 11-13; 0) -/
  rawAddr : Word32
  /-- FM_RAW.BUSY (1; 11 Table 11-13; 0) -/
  rawBusy : Bool
  /-- FM_RAW.RESULT (3; 11 Table 11-13; 0) -/
  rawResult : Nat
  /-- FM_RAW.HARD_FAIL (6; 11 Table 11-13; 0) -/
  hardFail : Nat
  /-- result of the last DONE raw read, 18,432 bytes (list; 11 R293; empty) -/
  rawPage : List Byte
  /-- FM_USER_BLOCKS (20; 11 Table 11-13; 76,448) -/
  userBlocks : Nat
  /-- FM_USED_BLOCKS (20; 11 Table 11-13; 0) -/
  usedBlocks : Nat
  /-- FM_RETIRED.BLOCKS (16; 11 Table 11-13; 0) -/
  retired : Nat
  /-- FM_RETIRED.PAGES_LOST (16; 11 Table 11-13; 0) -/
  pagesLost : Nat
  /-- FM_PAGES_READ (64; 11 Table 11-13; 0) -/
  pagesRead : Nat
  /-- FM_PAGES_PROG (64; 11 Table 11-13; 0) -/
  pagesProg : Nat
  /-- FM_ERASES (64; 11 Table 11-13; 0) -/
  erases : Nat
  /-- FM_RETRY_READS (64; 11 R274; 0) -/
  retryReads : Nat
  /-- FM_SOFT_READS (64; 11 R274; 0) -/
  softReads : Nat
  /-- FM_PATROL_PAGES (64; 11 R289; 0) -/
  patrolPages : Nat
  /-- FM_UNCORR (32; 11 Table 11-13; 0) -/
  uncorr : Nat
  /-- FM_SUSPENDS (32; 11 R284; 0) -/
  suspends : Nat
  /-- FM_ERASING_REFUSED (32; 11 R285; 0) -/
  erasingRefused : Nat
  /-- FM_REFRESHES (32; 11 R288; 0) -/
  refreshes : Nat
  /-- blocks with a history; an unlisted block is FREE with erase count 0 (list; 11 R283; empty: DESIGN CHOICE, log 6) -/
  blocks : List Block
  /-- programs and erases in progress (list; 11 R284; empty) -/
  ops : List NandOp
  /-- identities of the pages that a map names, newest first (list; 11 R268; empty: DESIGN CHOICE, log 6) -/
  idents : List PageIdent
  /-- filler pages on the media (list; 11 R271; empty: DESIGN CHOICE, log 6) -/
  fillers : List Filler
  /-- reads queued that suspended an operation: die and reader (list; 11 R284; empty) -/
  readQueue : List (Fin 8 × Reader)
  /-- clock at which the patrol pass began (µs; 11 R289; 0) -/
  patrolFrom : Nat
  /-- pages read in the patrol pass (list; 11 R289; empty) -/
  patrolSeen : List PhysPage
  /-- stripe table (list; 11 R270; empty: DESIGN CHOICE, log 6) -/
  stripes : List Stripe
  /-- SEQ counter (64; 11 R268; 0: DESIGN CHOICE, log 6) -/
  seq : Nat
  /-- the channel has trained since the module reset (1; 11 R273; 0) -/
  trained : Bool
  /-- dies declared failed (list; 11 R273; empty) -/
  failedDies : List (Fin 8)
  /-- training failures in a row of each die (8 × 2; 11 R273; 0) -/
  trainFails : Vector Nat 8
  /-- clock of the last ZQ calibration of each die (µs; 11 R273; 0) -/
  lastZq : Vector Nat 8
  /-- clock of the last DQ training of each die (µs; 11 R273; 0) -/
  lastDq : Vector Nat 8
  /-- the CAPACITY record was written (1; 11 Table 11-11; 0) -/
  capacityTold : Bool
  deriving DecidableEq, Repr

def Flash.reset : Flash :=
  { cfgBusy := false, brownout := false, patrolEn := true, patrolDays := 14, mediaIrq := false, rawAddr := 0,
    rawBusy := false, rawResult := 0, hardFail := 0, rawPage := [], userBlocks := 76448, usedBlocks := 0, retired := 0,
    pagesLost := 0, pagesRead := 0, pagesProg := 0, erases := 0, retryReads := 0, softReads := 0, patrolPages := 0,
    uncorr := 0, suspends := 0, erasingRefused := 0, refreshes := 0, blocks := [], ops := [], idents := [], fillers := [],
    readQueue := [], patrolFrom := 0, patrolSeen := [], stripes := [],
    seq := 0, trained := false, failedDies := [],
    trainFails := Vector.replicate 8 0, lastZq := Vector.replicate 8 0, lastDq := Vector.replicate 8 0,
    capacityTold := false }

inductive LinkState where
  | down | training | up | failed
  deriving DecidableEq, Repr

structure Link where
  /-- BN_LINK.LINK_STATE (2; 10 R244; DOWN) -/
  state : LinkState
  /-- BN_LINK.KEY_GEN (8; 10 R244; 0) -/
  keyGen : Nat
  /-- BN_LINK.LANES_UP (8; 10 R244; 0) -/
  lanes : BitVec 8
  /-- the four link keys (4 × 256; 10 R244; none: DESIGN CHOICE empty, log 5) -/
  keys : List (BitVec 256)
  /-- frame counters per key (4 × 64; 10 R244; 0) -/
  frames : List Nat
  /-- BN_LINK_TAG_FAIL (32; 10 Table 10-10; 0) -/
  tagFail : Nat
  /-- BN_LINK_RETRY (32; 10 Table 10-10; 0) -/
  retry : Nat
  /-- BN_LINK_RETRAIN (32; 10 Table 10-10; 0) -/
  retrain : Nat
  /-- BN_LINK_REKEY (32; 10 Table 10-10; 0) -/
  rekey : Nat
  /-- seed of the die's ephemeral ML-KEM pair in Raw and Melted (256, none; 10 R245; none) -/
  ephemeral : Option (BitVec 256)
  /-- the link keys as delivered, encapsulated to the die (bytes; 10 R244, R245; empty) -/
  delivered : List Byte
  /-- tag failures of a frame not yet delivered: frame and count (list; 10 R247; empty) -/
  failing : List (LinkFrame × Nat)
  /-- frames unacknowledged when a retrain began, in order (list; 10 R247; empty) -/
  unacked : List LinkFrame
  /-- clocks of the retrains of the last second (list; 10 R248; empty) -/
  retrainTimes : List Nat
  deriving DecidableEq, Repr

def Link.reset : Link :=
  { state := .down, keyGen := 0, lanes := 0, keys := [], frames := [0, 0, 0, 0], tagFail := 0, retry := 0, retrain := 0,
    rekey := 0, ephemeral := none, delivered := [], failing := [], unacked := [], retrainTimes := [] }

/-! ### Pewter array (chapter 12) -/

/-- Table 12-8 SEQ_STATE. -/
inductive SeqState where
  | idle | key1 | unlocked | cmdSet | data | busy | lockout
  deriving DecidableEq, Repr

/-- A programmed word: its byte address, its data (the low 64 bits for the vault) and whether a pulse tore it. -/
structure PwtWord where
  addr : Nat
  data : BitVec 128
  torn : Bool
  deriving DecidableEq, Repr

/-- What waits for the array: a read for the operation on its part (R310), namely the roots of HALLMARK_GET, the image check of a
Firmware Commit, the measurements of a GET_MEASUREMENTS, a read or fetch by the Management Controller; and a write of firmware, a
piece of an image or a Commit, for the sequencer (R296, R298). -/
inductive PwtRead where
  | roots (e : Sqe)
  | commit (e : Sqe)
  | download (e : Sqe) (piece : List Byte)
  | measure (p : SpdmPort) (index : Byte) (sign : Bool) (nonce : List Byte)
  | array (addr : Nat) (fetch size8 : Bool)
  deriving DecidableEq, Repr

/-- An armed or running operation (R298, R300): opcode, LEN, address, data writes and the bank its start was fetched from. -/
structure PwtOp where
  opcode : Nat
  len : Nat
  addr : Nat
  data : List Word64
  fetchBank : Option Bool
  pulsing : Bool
  deriving DecidableEq, Repr

structure Pewter where
  /-- programmed words, rising addresses; an unlisted word is erased (list; 12 R297; empty: DESIGN CHOICE, log 6) -/
  words : List PwtWord
  /-- sectors left undefined by an interrupted erase, by base address (list; 12 R303; empty) -/
  undefined : List Nat
  /-- PWT_STATUS.SEQ_STATE (3; 12 R298; IDLE) -/
  seq : SeqState
  /-- PWT_STATUS.DONE (1; 12 Table 12-8; 0) -/
  done : Bool
  /-- PWT_STATUS.RESULT (4; 12 Table 12-8; 0) -/
  result : Nat
  /-- PWT_STATUS.SUSP_HIT (1; 12 R309; 0) -/
  suspHit : Bool
  /-- operation being assembled (record; 12 R298; none) -/
  cmd : Option PwtOp
  /-- operation armed or running (record; 12 R298; none) -/
  op : Option PwtOp
  /-- erase suspended (record; 12 R309; none) -/
  susp : Option PwtOp
  /-- ERASE_SUSPEND written and not yet effective (1; 12 R309; 0) -/
  suspending : Bool
  /-- clock of the last write of the sequence (µs; 12 R298; 0) -/
  lastWriteUs : Nat
  /-- clock at which the lockout began (µs; 12 R298; 0) -/
  lockoutAt : Nat
  /-- PWT_ADDR (26; 12 Table 12-8; 0) -/
  addr : Nat
  /-- PWT_COUNT.LOCKOUTS (8; 12 R298; 0) -/
  lockouts : Nat
  /-- PWT_COUNT.PROG_AGAIN (8; 12 R301; 0) -/
  progAgain : Nat
  /-- PWT_COUNT.SELF_BANK (8; 12 R302; 0) -/
  selfBank : Nat
  /-- PWT_COUNT.BROWNOUT_ABORTS (8; 12 R303; 0) -/
  aborts : Nat
  /-- PWT_SEC.SEC_EVENT (1; 12 R305; 0) -/
  secEvent : Bool
  /-- PWT_SEC.KIND (3; 12 R305; 0) -/
  secKind : Nat
  /-- PWT_SEC.WORD (15; 12 R305; 0) -/
  secWord : Nat
  /-- events awaiting the event log: kind and word (list; 12 R305; empty) -/
  secQueue : List (Nat × Nat)
  /-- PWT_OPT.LC_STATE (3; 12 R308; option) -/
  lcState : Nat
  /-- PWT_OPT.OPT_BAD (1; 12 R312; option) -/
  optBad : Bool
  /-- PWT_OPT.ACTIVE_BANK (1; 12 R313; boot) -/
  activeBank : Bool
  /-- PWT_OPT.VENDOR_ROOTS (2; 12 R307; option) -/
  vendorRoots : BitVec 2
  /-- PWT_OPT.HALLMARK_ROOTS (4; 12 R307; option) -/
  hallmarkRoots : BitVec 4
  /-- PWT_OPT.INGOT_ROOTS (8; 12 R307; option) -/
  ingotRoots : BitVec 8
  /-- Ingot root slots whose words were all erased at the option load (8; 12 R307; option) -/
  openSlots : BitVec 8
  /-- reads that wait for an operation (list; 12 R310; empty) -/
  waiting : List PwtRead
  /-- PWT_VAULT0.LEAF_BATCHES (13; 12 R304; scan) -/
  leafBatches : Nat
  /-- PWT_VAULT0.ROLLBACK (10; 12 R304; scan) -/
  rollback : Nat
  /-- PWT_VAULT1.SEC_LOGGED (11; 12 R305; scan) -/
  secLogged : Nat
  /-- the Sterling core's melt permission (1; 12 R306; 0) -/
  meltPermit : Bool
  /-- a rail of the array is below its brown-out threshold (1; 12 R303; 0) -/
  brownout : Bool
  deriving DecidableEq, Repr

/-! ### Errors and Burnish (chapters 13 and 17) -/

/-- A record in a ring (R328, Table 17-3). -/
structure RingRec where
  index : Nat
  sev : Severity
  escalated : Bool
  repeats : Nat
  source : Source
  uptimeMs : Nat
  kind : Byte
  granule : Option Nat
  body : List Byte
  deriving DecidableEq, Repr

structure Ring where
  /-- ERR_RING_HEAD (32; 13 R328; 0) -/
  head : Word32
  /-- ERR_RING_ACK (32; 13 R332; 0) -/
  ack : Word32
  /-- ERR_RING_LOST.COUNT (16; 13 R331; 0) -/
  lostCount : Nat
  /-- ERR_RING_LOST.LOST (1; 13 R331; 0) -/
  lost : Bool
  /-- unacknowledged records, oldest first (at most SIZE; 13 R328; empty) -/
  recs : List RingRec
  deriving DecidableEq, Repr

def Ring.reset : Ring := { head := 0, ack := 0, lostCount := 0, lost := false, recs := [] }

structure Errors where
  /-- ERR_STATUS.UE_SEEN (1; 13 Table 13-9; 0) -/
  ueSeen : Bool
  /-- ERR_STATUS.CFG_BUSY (1; 13 R332; 0) -/
  cfgBusy : Bool
  /-- ERR_CTRL.IRQ_EN (1; 13 Table 13-9; 0) -/
  irqEn : Bool
  /-- ERR_CTRL.IRQ_MIN (2; 13 Table 13-9; 2) -/
  irqMin : Nat
  /-- ERR_ASSAY.CHECKERS_FAILED (8; 13 R439; 0) -/
  checkersFailed : Nat
  /-- ERR_ASSAY.TILES_FAILED (8; 13 R439; 0) -/
  tilesFailed : Nat
  /-- the Pewter array or the Management Controller SRAM failed its Assay (1; 13 Table 13-5; 0) -/
  hubFailed : Bool
  /-- ERR_CE_TOTAL (64; 13 Table 13-9; 0) -/
  ceTotal : Nat
  /-- ERR_UE_TOTAL (64; 13 Table 13-9; 0) -/
  ueTotal : Nat
  /-- ERR_UNIT.CE and UE by unit index, nonzero only (638 × 32; 13 R334; 0) -/
  units : List (Nat × Nat × Nat)
  /-- CEs of the window of 1,000 Strokes by unit, nonzero only (list; 13 R325; 0) -/
  window : List (Nat × Nat)
  /-- units whose count has reached CE_BURNISH and whose automatic Burnish has not started (list; 13 R325; empty) -/
  burnDue : List Nat
  /-- the rings (37 × record; 13 R328; empty) -/
  rings : Vector Ring 37
  /-- reports awaiting their writer with the clock of their arrival, at most four a source (list; 13 R329; empty) -/
  queue : List (Source × Nat × Report)
  /-- source a ring's writer served last (list; 13 R329; none: DESIGN CHOICE empty, log 5) -/
  served : List (Nat × Source)
  deriving DecidableEq, Repr

/-- A Burnish in a host slot (Table 13-11). -/
structure BurnSlot where
  sqe : Sqe
  space : Nat
  unit : Nat
  offset : Nat
  length : Nat
  progress : Nat
  startUs : Nat
  deriving DecidableEq, Repr

structure Burnish where
  /-- BRN_CTRL.AUTO_EN (1; 13 R325; 1) -/
  autoEn : Bool
  /-- BRN_CTRL.RATE in force (4; 13 R335; 4) -/
  rate : Nat
  /-- BRN_STATUS.CFG_BUSY (1; 13 R322; 0) -/
  cfgBusy : Bool
  /-- host Burnish slots (4; 13 Table 13-11; empty) -/
  slots : Vector (Option BurnSlot) 4
  /-- automatic Burnishes: unit index and start (list; 13 R325; empty) -/
  autos : List (Nat × Nat)
  /-- BRN_PASSES (64; 13 Table 13-11; 0) -/
  passes : Nat
  /-- BRN_CE_FIXED (64; 13 Table 13-11; 0) -/
  ceFixed : Nat
  /-- BRN_UE_FOUND (64; 13 Table 13-11; 0) -/
  ueFound : Nat
  /-- BRN_RETURNED (32; 13 Table 13-11; 0) -/
  returned : Nat
  deriving DecidableEq, Repr

/-! ### Sterling, Custodian and life-cycle (chapter 14) -/

inductive KeyEvent where
  | deliver (label : Word64) (key : BitVec 256)
  | revoke (label : Word64)
  deriving DecidableEq, Repr

inductive SessionState where
  | none | initSent | established
  deriving DecidableEq, Repr

/-- A message under reassembly (R349). -/
structure Reassembly where
  msgId : Word32
  length : Nat
  frags : List (Nat × List Byte)
  sawLast : Bool
  startUs : Nat
  deriving DecidableEq, Repr

/-- SPDM responder progress of one port (R361): requests answered so far. -/
structure SpdmConn where
  port : SpdmPort
  version : Bool
  caps : Bool
  algs : Bool
  deriving DecidableEq, Repr

/-- What waits for a Hallmark (R357). -/
inductive HallmarkUse where
  | attest (s : Sqe)
  | challenge (p : SpdmPort) (content : List Byte)
  | measure (p : SpdmPort) (content : List Byte)
  | tune (k : Key) (quenched : Bool)
  deriving DecidableEq, Repr

structure Security where
  /-- Collection keys held: label and key (at most 4,096; 14 R346; empty) -/
  keys : List (Word64 × BitVec 256)
  /-- deliveries and revocations that take effect at the next boundary, in session order (list; 14 R346 R348; empty) -/
  keyEvents : List KeyEvent
  /-- Table 14-7 (2; 14 R354; NONE) -/
  session : SessionState
  /-- session key module to Custodian, Custodian to module (2 × 256; 14 R352; none: DESIGN CHOICE 0, log 5) -/
  keyOut : BitVec 256
  keyIn : BitVec 256
  /-- next SEQ sent (64; 14 R352; 0) -/
  seqOut : Nat
  /-- next SEQ expected (64; 14 R352; 0) -/
  seqIn : Nat
  /-- discards of the session (2; 14 R352; 0) -/
  discards : Nat
  /-- backoff before a new SESSION_INIT, s (12; 14 R354; 10) -/
  backoffS : Nat
  /-- a backoff runs (1; 14 R354; 0) -/
  backingOff : Bool
  /-- clock at which the backoff ends (µs; 14 R354; 0) -/
  readyUs : Nat
  /-- clock of the last SESSION_INIT sent (µs; 14 R354; 0) -/
  initUs : Nat
  /-- clock of the last record received (µs; 14 R354; 0) -/
  lastRecordUs : Nat
  /-- seed of the ephemeral key pair, destroyed at the accept (64 bytes; 14 R352; empty) -/
  kemSeed : List Byte
  /-- SESSION_INIT body in use (bytes; 14 R351; empty) -/
  initBody : List Byte
  /-- TAG_FAILS (32; 14 R350; 0) -/
  tagFails : Nat
  /-- KCV_MISMATCHES (32; 14 R347; 0) -/
  kcvMismatches : Nat
  /-- SESSIONS (16; 14 Table 14-10; 0) -/
  sessions : Nat
  /-- HALLMARKS (32; 14 Table 14-10; 0) -/
  hallmarks : Nat
  /-- Hallmarks for ATTEST and SPDM in this power cycle (9; 14 R358; 0) -/
  quotaUsed : Nat
  /-- next leaf (23; 14 R357; scan) -/
  nextLeaf : Nat
  /-- the batch of the next leaf is reserved (1; 14 R357; 0) -/
  batchOpen : Bool
  /-- traversal state rebuilt (1; 14 R357; 0) -/
  rebuilt : Bool
  /-- Hallmarks requested before the rebuild, in order (list; 14 R357; empty) -/
  waiting : List HallmarkUse
  /-- the LEAVES_LOW record was written (1; 14 R358; 0) -/
  leavesLow : Bool
  /-- STRIKE_FAILED (1; 14 R368; 0) -/
  strikeFailed : Bool
  /-- MEDIA_KEYS_ZERO (1; 14 R367; 0) -/
  mediaKeysZero : Bool
  /-- seeds fused in the channel dies (32 × 512, none; 14 R344; none) -/
  dieSeeds : List (List Byte)
  /-- Benches whose media key failed in the key loader (list; 13 Table 13-3; empty) -/
  badMediaKeys : List BenchId
  /-- Hallmark trees removed from use (list; 13 Table 13-3; empty) -/
  badTrees : List Nat
  /-- debug challenge (256; 14 R369; none: DESIGN CHOICE 0, log 5) -/
  challenge : BitVec 256
  /-- debug unlocked (1; 14 R369; 0) -/
  unlocked : Bool
  /-- rejected tokens since reset (2; 14 R369; 0) -/
  rejected : Nat
  /-- address the module sends frames to (48; 14 R349; broadcast) -/
  peer : BitVec 48
  /-- next MSG_ID sent (32; 14 R349; none: DESIGN CHOICE 0, log 5) -/
  msgId : Word32
  /-- message under reassembly (record; 14 R349; none) -/
  reassembly : Option Reassembly
  /-- messages accepted and not yet acted on: type and body (list; 14 R350; empty) -/
  inbox : List (Byte × List Byte)
  /-- SPDM connections (list; 14 R361; empty) -/
  spdm : List SpdmConn
  deriving DecidableEq, Repr

/-! ### Firmware, management and device registers (chapters 13 to 16) -/

structure Firmware where
  /-- image bytes 0 to 63 held in Management Controller SRAM (64 bytes; 15 R382; empty) -/
  header : List Byte
  /-- byte ranges received of the current image: offset and length (list; 15 R382; empty) -/
  pieces : List (Nat × Nat)
  /-- sectors of the inactive bank erased for the current image (list; 15 R382; empty) -/
  erased : List Nat
  /-- SECURITY_VERSION of the running image (16; 14 R362; boot) -/
  version : Nat
  /-- IMAGE_DIGEST of the running image (32 bytes; 14 Table 14-10; boot) -/
  digest : List Byte
  /-- the Management Controller runs (1; 13 Table 13-3; 0) -/
  mcRuns : Bool
  /-- the Management Controller is held until the next module reset (1; 13 Table 13-3; 0) -/
  mcHeld : Bool
  deriving DecidableEq, Repr

structure Bmc where
  /-- I3C dynamic address (7, none; 16 R414; none) -/
  dynAddr : Option (BitVec 7)
  /-- MCTP endpoint identifier (8; 16 R414; 0) -/
  eid : Byte
  /-- MCTP transmission unit (9; 16 R415; none: PRESUMED 64, log 16) -/
  mtu : Nat
  /-- the port answers (1; 16 R412 R413; 0) -/
  answers : Bool
  deriving DecidableEq, Repr

/-- Where the module stands between power-up and operation (R395, R412, R411). -/
inductive Phase where
  | off | standbyBoot | standby | booting | running | tripped
  deriving DecidableEq, Repr

structure Power where
  /-- PWR_STATUS.INPUT_GOOD (1; 16 R398; 0) -/
  inputGood : Bool
  /-- DEV_STATUS.SPLIT, PORT_SPLIT as sampled (1; 15 R371; 0) -/
  split : Bool
  /-- SLOT_ID pins (3; 16 R414; 0) -/
  slotId : BitVec 3
  /-- phase (3; 16 R412; off) -/
  phase : Phase
  /-- PERST_A# asserted (1; 16 R396; 1) -/
  perstA : Bool
  /-- PERST_B# asserted (1; 16 R396; 1) -/
  perstB : Bool
  /-- a deassertion held during the standby boot with the outcome of its Assay and training (list; 16 R412; none) -/
  heldDeassert : Option (List AssayPart × List (BenchId × Fin 8))
  /-- the module is disconnected from J2 after an over-voltage (1; 16 R398; 0) -/
  disconnected : Bool
  /-- PWR_HOLDUP.BANK_V, 100 mV (10; 16 R434; 0) -/
  bankV : Nat
  /-- capacitance last measured, µF (none before the first charge settles; 16 R434; none) -/
  capUf : Option Nat
  /-- PWR_HOLDUP.USABLE_J (10; 16 R434; 0) -/
  usableJ : Nat
  /-- PWR_STATUS.HOLDUP_OK and the pin (1; 16 R399; 0) -/
  holdupOk : Bool
  /-- the usable energy at full charge is below 90 J in this power cycle (1; 16 R399; 0) -/
  holdupLow : Bool
  /-- PWR_CAP.BMC_CAP_W (11; 16 R402; 0 at input power good) -/
  bmcCap : Nat
  /-- PWR_CTRL.HOST_CAP_W (11; 16 R418; 1,800) -/
  hostCap : Nat
  /-- PWR_CTRL.BRAKE_W (11; 16 R418; 600) -/
  brakeW : Nat
  /-- PWR_CTRL.THERM_IRQ_EN (1; 16 Table 16-12; 0) -/
  thermIrq : Bool
  /-- PWR_CTRL.BRAKE_IRQ_EN (1; 16 Table 16-12; 0) -/
  brakeIrq : Bool
  /-- PWR_CTRL.HOLDUP_IRQ_EN (1; 16 Table 16-12; 0) -/
  holdupIrq : Bool
  /-- PWR_STATUS.BRAKE, the filtered pin (1; 16 R407; 0) -/
  brake : Bool
  /-- power state in force (3; 15 R392; 0) -/
  state : Nat
  /-- last operational state requested (2; 15 R393; 0) -/
  lastOp : Nat
  /-- an exit from PS3 or PS4 runs (1; 15 R393; 0) -/
  exiting : Bool
  /-- PWR_CAP.CAP_EFF_W (11; 16 R402; 1,800) -/
  capEff : Nat
  /-- PWR_STATUS.CAP_SOURCE (3; 16 R402; 3) -/
  capSource : Nat
  /-- PWR_FLOOR_SCALE.SCALE (13; 16 R403; 4,096) -/
  scale : Nat
  /-- PWR_STATUS.FLOORS_SCALED (1; 16 R403; 0) -/
  floorsScaled : Bool
  /-- PWR_ALLOC0.ENGINE_W (11; 16 R404; 0) -/
  engineW : Nat
  /-- PWR_ALLOC0.MEMORY_W (11; 16 R404; 0) -/
  memoryW : Nat
  /-- PWR_ALLOC1.FLASH_W (11; 16 R404; 0) -/
  flashW : Nat
  /-- PWR_ALLOC1.FIXED_W (11; 16 R403; 0) -/
  fixedW : Nat
  /-- last measured demands of ENGINE, MEMORY and FLASH, W (3 × 11; 16 R404; 0) -/
  demands : Nat × Nat × Nat
  /-- THROTTLE_ENGINE, THROTTLE_MEMORY, THROTTLE_FLASH (3; 16 R409; 0) -/
  throttleE : Bool
  throttleM : Bool
  throttleF : Bool
  /-- boundaries each domain's allocation has been lowered at (3 counts; 16 R409; 0) -/
  lowered : Nat × Nat × Nat
  /-- PWR_STATUS.THERMAL_EMERGENCY (1; 16 R410; 0) -/
  emergency : Bool
  /-- EMERG_SEEN (1; 16 R410; 0) -/
  emergSeen : Bool
  /-- BRAKE_SEEN (1; 16 R407; 0) -/
  brakeSeen : Bool
  /-- CFG_BUSY (1; 16 R418; 0) -/
  cfgBusy : Bool
  /-- THROTTLE_STROKES (16; 16 R409; 0) -/
  throttleStrokes : Nat
  /-- EMERGENCIES (8; 16 R410; 0) -/
  emergencies : Nat
  /-- BRAKES (8; 16 R407; 0) -/
  brakes : Nat
  /-- PWR_INPUT.VOLTS, 10 mV (16; 16 Table 16-12; 0) -/
  volts : Nat
  /-- PWR_INPUT.AMPS, 10 mA (16; 16 Table 16-12; 0) -/
  amps : Nat
  /-- PWR_INPUT_W.AVG_W (12; 16 Table 16-12; 0) -/
  avgW : Nat
  /-- PWR_INPUT_W.PEAK_W (12; 16 Table 16-12; 0) -/
  peakW : Nat
  /-- PWR_ENERGY, mJ (64; 16 R418; 0) -/
  energy : Nat
  /-- PWR_ENERGY_ENGINE, mJ (64; 16 R418; 0) -/
  energyE : Nat
  /-- PWR_ENERGY_MEMORY, mJ (64; 16 R418; 0) -/
  energyM : Nat
  /-- PWR_ENERGY_FLASH, mJ (64; 16 R418; 0) -/
  energyF : Nat
  /-- last sensor readings (Table 16-8; 16 R408; none: DESIGN CHOICE 0, log 5) -/
  sensors : SensorReadings
  /-- clock of the last reading with a sensor at its throttle level (µs; 16 R410; 0) -/
  lastHotUs : Nat
  /-- clock since which the flow has read below 0.5 L/min (µs, none; 16 Table 16-8; none) -/
  flowLowSince : Option Nat
  /-- clock at which a tripped module lost its input (µs, none; 16 R411; none) -/
  lostAt : Option Nat
  /-- THERM_TRIP_N asserted (1; 16 R411; 0) -/
  tripped : Bool
  /-- rails below their thresholds (list; 16 R400; empty) -/
  rails : List Rail
  deriving DecidableEq, Repr

/-- A latched-class field with its shadow (R11). -/
inductive LField where
  | deferMax | decodePerStroke | preemptOnArrival
  | hotLimit (q : QuarterId) | stagedLimit (q : QuarterId)
  | burnRate
  | patrolDays (b : BenchId)
  deriving DecidableEq, Repr

structure Device where
  /-- DEV_STATUS.BAD_ACCESS (1; 15 R379; 0) -/
  badAccess : Bool
  /-- DEV_BAD_ACCESS (32; 15 R379; 0) -/
  badCount : Nat
  /-- DEV_BOOT.BOOT_MS (16; 15 R395; 0) -/
  bootMs : Nat
  /-- high halves latched by low-half reads, by register offset (list; 15 R379; empty) -/
  latches : List (Nat × Word32)
  /-- shadow values awaiting a boundary, in order of their last writes (list; 00 R11, 01 R24; empty) -/
  shadows : List (LField × Nat)
  deriving DecidableEq, Repr

/-- What the module sends out of itself, other than completions (which stand in their queues). -/
inductive Output where
  | msix (c : Ctrl) (vector : Nat)
  | readData (value : Word64)
  | mi (status : Nat) (data : List Word32)
  | miData (data : List Byte)
  | spdm (p : SpdmPort) (code : Byte) (data : List Byte)
  | ideKm (c : Ctrl) (code : Byte)
  | custodian (destination source : BitVec 48) (payload : List Byte)
  | ptmRequest
  | poisonedTlp (c : Ctrl)
  | mcBusError
  | mcFetchFault
  | debug (accepted : Bool)
  deriving DecidableEq, Repr

/-! ### State -/

/-- The block's whole state. -/
structure State where
  power : Power
  ctrls : Vector Controller 2
  mold : MoldBlock
  grid : Grid
  sched : Sched
  engines : Vector Engine 48
  mem : Memory
  cache : Vector ModelCache 4
  ingots : List Ingot
  search : Search
  benches : Vector Bench 512
  flash : Vector Flash 512
  links : Vector Link 32
  pewter : Pewter
  errors : Errors
  burnish : Burnish
  sec : Security
  fw : Firmware
  bmc : Bmc
  dev : Device
  /-- everything sent, oldest first (list; the model's own; empty) -/
  out : List Output
  /-- microseconds since input power good (the model's clock; 17 Table 17-3 UPTIME_MS; 0) -/
  clockUs : Nat
  /-- the MODEL's own counter for free values (log 9; reset DESIGN CHOICE 0) -/
  free : Nat
  /-- commands waiting, first in first out (the host's queue; empty) -/
  pending : List Instr
  deriving DecidableEq, Repr

def SensorReadings.zero : SensorReadings :=
  { quarter := [], stack := [], die := [], nand := [], hub := 0, bank := 0, inletHalf := 0, outletHalf := 0,
    flowMl := 0, volts := 0, amps := 0 }

def Power.reset : Power :=
  { inputGood := false, split := false, slotId := 0, phase := .off, perstA := true, perstB := true,
    heldDeassert := none, disconnected := false, bankV := 0, capUf := none, usableJ := 0, holdupOk := false,
    holdupLow := false, bmcCap := 0, hostCap := 1800, brakeW := 600, thermIrq := false, brakeIrq := false,
    holdupIrq := false, brake := false, state := 0, lastOp := 0, exiting := false, capEff := 1800, capSource := 3,
    scale := 4096, floorsScaled := false, engineW := 0, memoryW := 0, flashW := 0, fixedW := 0, demands := (0, 0, 0),
    throttleE := false, throttleM := false, throttleF := false, lowered := (0, 0, 0), emergency := false,
    emergSeen := false, brakeSeen := false, cfgBusy := false, throttleStrokes := 0, emergencies := 0, brakes := 0,
    volts := 0, amps := 0, avgW := 0, peakW := 0, energy := 0, energyE := 0, energyM := 0, energyF := 0,
    sensors := SensorReadings.zero, lastHotUs := 0, flowLowSince := none, lostAt := none, tripped := false, rails := [] }

def MoldBlock.reset : MoldBlock :=
  { state := .blank, cfgBusy := false, loadFail := false, gen := 0, digest := List.replicate 64 0, errOffset := 0,
    errReason := 0, errSection := 0, errRecast := false, loadFails := 0, recastFails := 0, drainUs := 0,
    applyStrokes := 0, loading := none, mold := none, fixedRanges := [], recast := none, c0Suspended := false,
    flushChecked := false }

def Grid.reset : Grid :=
  { lock := .idle, refPresent := false, lockLost := false, freeRunEntered := false, slewing := false, good := 0, acqUs := 0,
    heldFor := 0, origin := none, everLocked := false, stroke := 0, refTime := 0, lockedNs := 0, lockedUs := 0, phaseErr := 0, maxLag := 0,
    laggingUnits := 0, lockLosses := 0, slewStrokes := 0, lockIrq := false, freeRunIrq := false, lastBoundaryUs := 0,
    ptmOut := false, ptmIssueUs := none, ptmLastUs := none, ptmTime := 0 }

def Sched.reset : Sched :=
  { deferMax := 2, decodePerStroke := 1, preemptOnArrival := true, cfgBusy := false, boundHeld := false,
    gridCond := false, powerCond := false, thermalCond := false, recastCond := false, admitted := 0, deferred := 0,
    refused := 0, late := 0, unbound := 0, lateStrokes := 0, overruns := 0, preemptions := 0, quenchMiss := 0,
    worst := 0, acctEngine := Vector.replicate 32 0, acctBench := Vector.replicate 32 0,
    lagEngine := Vector.replicate 48 0, lagBench := Vector.replicate 512 0, budgets := [], lagTaken := [], usage := [], jobs := [], sems := [],
    arrivalHolds := [], benchHolds := [], noAdmit := [], merges := 0, credits := [] }

def Memory.reset : Memory :=
  { stacked := Store.empty, quarter := Vector.replicate 4 Store.empty, sram := Vector.replicate 512 Store.empty,
    dirty := [], writtenBack := [], withheld := [], toWithhold := [], poisoned := [], reloading := [], stackFailed := 0, excluded := 0, lastFlush := 0,
    flushLog := none }

def Search.reset : Search :=
  { colls := [], lists := [], epoch := 0, tokens := [], sweeps := [], marksUsed := 0, appendWait := [], transit := [], publications := [], objs := [],
    nextId := 1, puts := [], deletes := [], embedOff := [], homeLists := [], homeColls := [], plateWarned := [] }

def Pewter.reset : Pewter :=
  { words := [], undefined := [], seq := .idle, done := false, result := 0, suspHit := false, cmd := none, op := none,
    susp := none, suspending := false, lastWriteUs := 0, lockoutAt := 0, addr := 0, lockouts := 0, progAgain := 0, selfBank := 0,
    aborts := 0, secEvent := false, secKind := 0, secWord := 0, secQueue := [], lcState := 0, optBad := false,
    activeBank := false, vendorRoots := 0, hallmarkRoots := 0, ingotRoots := 0, openSlots := 0, waiting := [], leafBatches := 0, rollback := 0,
    secLogged := 0, meltPermit := false, brownout := false }

def Errors.reset : Errors :=
  { ueSeen := false, cfgBusy := false, irqEn := false, irqMin := 2, checkersFailed := 0, tilesFailed := 0,
    hubFailed := false, ceTotal := 0, ueTotal := 0, units := [], window := [], burnDue := [], rings := Vector.replicate 37 Ring.reset,
    queue := [], served := [] }

def Burnish.reset : Burnish :=
  { autoEn := true, rate := 4, cfgBusy := false, slots := Vector.replicate 4 none, autos := [], passes := 0,
    ceFixed := 0, ueFound := 0, returned := 0 }

def Security.reset : Security :=
  { keys := [], keyEvents := [], session := .none, keyOut := 0, keyIn := 0, seqOut := 0, seqIn := 0, discards := 0,
    backoffS := 10, backingOff := false, readyUs := 0, initUs := 0, lastRecordUs := 0, kemSeed := [], initBody := [], tagFails := 0, kcvMismatches := 0,
    sessions := 0, hallmarks := 0, quotaUsed := 0, nextLeaf := 0, batchOpen := false, rebuilt := false, waiting := [],
    leavesLow := false, strikeFailed := false, mediaKeysZero := false, dieSeeds := [], badMediaKeys := [],
    badTrees := [], challenge := 0, unlocked := false, rejected := 0, peer := 0xFFFFFFFFFFFF, msgId := 0,
    reassembly := none, inbox := [], spdm := [] }

def Firmware.reset : Firmware :=
  { header := [], pieces := [], erased := [], version := 0, digest := [], mcRuns := false, mcHeld := false }

def Bmc.reset : Bmc := { dynAddr := none, eid := 0, mtu := 64, answers := false }

def Device.reset : Device := { badAccess := false, badCount := 0, bootMs := 0, latches := [], shadows := [] }

/-- The block before its first command: no input power, every register at its Reset column value, nothing on media
(log 1, log 6). -/
def State.reset : State :=
  { power := Power.reset, ctrls := Vector.replicate 2 Controller.reset, mold := MoldBlock.reset, grid := Grid.reset,
    sched := Sched.reset, engines := Vector.replicate 48 Engine.reset, mem := Memory.reset,
    cache := Vector.replicate 4 ModelCache.reset, ingots := [], search := Search.reset,
    benches := Vector.replicate 512 Bench.reset, flash := Vector.replicate 512 Flash.reset,
    links := Vector.replicate 32 Link.reset, pewter := Pewter.reset, errors := Errors.reset,
    burnish := Burnish.reset, sec := Security.reset, fw := Firmware.reset, bmc := Bmc.reset, dev := Device.reset,
    out := [], clockUs := 0, free := 0, pending := [] }

end Sys2Proof.Machine
end

