-- ==== Sys2Proof/Machine/TextOps.lean ====
section
/-! DEFINITION. From a payload to passages: decompression, archives, text extraction, field records, tokens, passages and
sketches (R180, R254 to R259). Where R254 to R256 name a format and no more, its own standard is followed (log 150). -/

namespace Sys2Proof.Machine

/-! ### Unicode text (R256) -/

/-- UTF-8 bytes of a code point. -/
def utf8Of (c : Nat) : List Byte :=
  (if c < 0x80 then [c]
   else if c < 0x800 then [0xC0 + c / 64, 0x80 + c % 64]
   else if c < 0x10000 then [0xE0 + c / 4096, 0x80 + c / 64 % 64, 0x80 + c % 64]
   else [0xF0 + c / 262144, 0x80 + c / 4096 % 64, 0x80 + c / 64 % 64, 0x80 + c % 64]).map (BitVec.ofNat 8)

/-- An ill-formed sequence among decoded code points; text shows U+FFFD in its place. -/
def badPoint : Nat := 0x110000

/-- Bounds of the second byte of a sequence, by its first (RFC 3629). -/
def utf8Second (b : Nat) : Nat × Nat :=
  if b == 0xE0 then (0xA0, 0xBF) else if b == 0xED then (0x80, 0x9F) else if b == 0xF0 then (0x90, 0xBF)
  else if b == 0xF4 then (0x80, 0x8F) else (0x80, 0xBF)

/-- Length of a sequence by its first byte; 0 where none begins so. -/
def utf8Length (b : Nat) : Nat :=
  if b < 0x80 then 1 else if within b 0xC2 0xDF then 2 else if within b 0xE0 0xEF then 3 else if within b 0xF0 0xF4 then 4 else 0

/-- One code point and the bytes it takes; an ill-formed sequence takes the bytes that could begin a well-formed one. -/
def utf8Next (b : Nat) (rest : List Byte) : Nat × Nat :=
  let n := utf8Length b
  let tail (p : Byte × Nat) : Bool :=
    let r := if p.2 == 0 then utf8Second b else (0x80, 0xBF)
    within p.1.toNat r.1 r.2
  let good := ((rest.take (n - 1)).zipIdx.takeWhile tail).map fun p => p.1.toNat
  if n == 0 || good.length != n - 1 then (badPoint, 1 + good.length)
  else
    let lead := if n == 1 then b else b % 2 ^ (7 - n)
    (good.foldl (fun v c => 64 * v + c % 64) lead, n)

/-- Code points of UTF-8 bytes, the first so many left out. -/
def decodeUtf8 : Nat → List Byte → List Nat
  | _, [] => []
  | n + 1, _ :: bs => decodeUtf8 n bs
  | 0, b :: bs =>
    let r := utf8Next b.toNat bs
    r.1 :: decodeUtf8 (r.2 - 1) bs

/-- 16-bit units of UTF-16 bytes; a byte left over is ill-formed. -/
def units16 (big : Bool) : List Byte → List Nat
  | a :: b :: bs => (if big then 256 * a.toNat + b.toNat else a.toNat + 256 * b.toNat) :: units16 big bs
  | [_] => [badPoint]
  | [] => []

def isHigh (u : Nat) : Bool := within u 0xD800 0xDBFF
def isLow (u : Nat) : Bool := within u 0xDC00 0xDFFF

/-- The code point of a surrogate pair. -/
def pairPoint (u v : Nat) : Nat := 0x10000 + 1024 * (u - 0xD800) + (v - 0xDC00)

/-- Code points of UTF-16 units; `done` where the first was the second half of a pair. -/
def decodeUtf16 : Bool → List Nat → List Nat
  | _, [] => []
  | true, _ :: us => decodeUtf16 false us
  | false, u :: us =>
    if isHigh u && isLow (us.headD 0) then pairPoint u (us.headD 0) :: decodeUtf16 true us
    else (if isHigh u || isLow u then badPoint else u) :: decodeUtf16 false us

/-- Code points of a text: UTF-16 after its byte-order mark, else UTF-8 with its mark dropped. -/
def pointsOf (bs : List Byte) : List Nat :=
  if bs.take 2 == [0xFF, 0xFE] then decodeUtf16 false (units16 false (bs.drop 2))
  else if bs.take 2 == [0xFE, 0xFF] then decodeUtf16 false (units16 true (bs.drop 2))
  else if bs.take 3 == [0xEF, 0xBB, 0xBF] then decodeUtf8 0 (bs.drop 3)
  else decodeUtf8 0 bs

def textOf (ps : List Nat) : List Byte := ps.flatMap fun c => utf8Of (if c == badPoint then 0xFFFD else c)

/-- Replacement characters are more than 1 % of the code points (Table 10-7). -/
def garbled (ps : List Nat) : Bool := 100 * (ps.filter fun c => c == badPoint).length > ps.length

/-! ### JSON (R255 to R257, Table 10-7) -/

/-- What a JSON value yields: its string values in order, itself where it is a string, and the string values of its keys. -/
structure JsonOut where
  strs : List (List Nat)
  self : Option (List Nat)
  keys : List (List Nat × List Nat)
  deriving DecidableEq, Repr

def JsonOut.empty : JsonOut := { strs := [], self := none, keys := [] }

/-- White space of JSON. -/
def jsonSkip (l : List Nat) : List Nat := l.dropWhile fun c => c == 0x20 || c == 0x09 || c == 0x0A || c == 0x0D

def hexDigit (c : Nat) : Option Nat :=
  if within c 0x30 0x39 then some (c - 0x30) else if within c 0x41 0x46 then some (c - 55)
  else if within c 0x61 0x66 then some (c - 87) else none

/-- The value of four hexadecimal digits. -/
def hex4 (l : List Nat) : Option Nat :=
  if (l.take 4).length != 4 then none
  else (l.take 4).foldl (fun acc c => acc.bind fun v => (hexDigit c).map fun d => 16 * v + d) (some 0)

/-- The character that an escape stands for. -/
def jsonEscape (c : Nat) : Option Nat :=
  if c == 0x22 || c == 0x5C || c == 0x2F then some c
  else if c == 0x62 then some 8 else if c == 0x66 then some 12 else if c == 0x6E then some 10 else if c == 0x72 then some 13
  else if c == 0x74 then some 9 else none

/-- A string after its opening quote, and what follows its closing one. -/
def jsonString : Nat → List Nat → List Nat → Option (List Nat × List Nat)
  | 0, _, _ => none
  | _, _, [] => none
  | n + 1, acc, c :: r =>
    if c == 0x22 then some (acc.reverse, r)
    else if c < 0x20 then none
    else if c != 0x5C then jsonString n (c :: acc) r
    else if r.headD 0 != 0x75 then
      match jsonEscape (r.headD 0) with
      | some v => jsonString n (v :: acc) (r.drop 1)
      | none => none
    else
      match hex4 (r.drop 1) with
      | none => none
      | some u =>
        let low := if isHigh u && (r.drop 5).take 2 == [0x5C, 0x75] then hex4 (r.drop 7) else none
        match low.filter isLow with
        | some v => jsonString n (pairPoint u v :: acc) (r.drop 11)
        | none => jsonString n ((if isHigh u || isLow u then badPoint else u) :: acc) (r.drop 5)

def isDigit (c : Nat) : Bool := within c 0x30 0x39

/-- A number, and what follows it. -/
def jsonNumber (l : List Nat) : Option (List Nat) :=
  let l := if l.headD 0 == 0x2D then l.drop 1 else l
  let whole := if l.headD 0 == 0x30 then some (l.drop 1) else if isDigit (l.headD 0) then some (l.dropWhile isDigit) else none
  let part (l : List Nat) : Option (List Nat) := if isDigit (l.headD 0) then some (l.dropWhile isDigit) else none
  let frac := whole.bind fun l => if l.headD 0 == 0x2E then part (l.drop 1) else some l
  frac.bind fun l =>
    if l.headD 0 == 0x65 || l.headD 0 == 0x45 then
      let l := l.drop 1
      part (if l.headD 0 == 0x2B || l.headD 0 == 0x2D then l.drop 1 else l)
    else some l

/-- true, false, null or a number, and what follows it. -/
def jsonWord (l : List Nat) : Option (List Nat) :=
  if l.take 4 == [0x74, 0x72, 0x75, 0x65] || l.take 4 == [0x6E, 0x75, 0x6C, 0x6C] then some (l.drop 4)
  else if l.take 5 == [0x66, 0x61, 0x6C, 0x73, 0x65] then some (l.drop 5)
  else jsonNumber l

/-- What is parsed next: a value, the members of an object, the items of an array. -/
inductive JsonPart where
  | value | members | items
  deriving DecidableEq, Repr

/-- A JSON value within `d` open containers, at most 64 of them, and what follows it. -/
def json : Nat → JsonPart → Nat → List Nat → Option (JsonOut × List Nat)
  | 0, _, _, _ => none
  | n + 1, .value, d, l =>
    let l := jsonSkip l
    let r := jsonSkip (l.drop 1)
    let inside (close : Nat) (p : JsonPart) : Option (JsonOut × List Nat) :=
      if d ≥ 64 then none else if r.headD 0 == close then some (.empty, r.drop 1) else json n p (d + 1) r
    if l.headD 0 == 0x7B then inside 0x7D .members
    else if l.headD 0 == 0x5B then inside 0x5D .items
    else if l.headD 0 == 0x22 then
      (jsonString (l.length + 1) [] (l.drop 1)).map fun p => ({ strs := [p.1], self := some p.1, keys := [] }, p.2)
    else (jsonWord l).map fun r => (.empty, r)
  | n + 1, .members, d, l =>
    let l := jsonSkip l
    if l.headD 0 != 0x22 then none
    else
      match jsonString (l.length + 1) [] (l.drop 1) with
      | none => none
      | some (k, r) =>
        let r := jsonSkip r
        if r.headD 0 != 0x3A then none
        else
          match json n .value d (r.drop 1) with
          | none => none
          | some (v, r) =>
            let here : JsonOut := { strs := v.strs, self := none, keys := v.self.toList.map fun x => (k, x) }
            let r := jsonSkip r
            if r.headD 0 == 0x7D then some (here, r.drop 1)
            else if r.headD 0 != 0x2C then none
            else (json n .members d (r.drop 1)).map fun p =>
              ({ strs := here.strs ++ p.1.strs, self := none, keys := here.keys ++ p.1.keys }, p.2)
  | n + 1, .items, d, l =>
    match json n .value d l with
    | none => none
    | some (v, r) =>
      let r := jsonSkip r
      if r.headD 0 == 0x5D then some ({ v with self := none, keys := [] }, r.drop 1)
      else if r.headD 0 != 0x2C then none
      else (json n .items d (r.drop 1)).map fun p => ({ strs := v.strs ++ p.1.strs, self := none, keys := [] }, p.2)

/-- A line that is one JSON value within the limits of Table 10-7. -/
def jsonLine (l : List Nat) : Option JsonOut :=
  if (textOf l).length > 1048576 then none
  else
    match json (2 * l.length + 2) .value 0 l with
    | some (o, r) => if (jsonSkip r).isEmpty then some o else none
    | none => none

/-! ### CSV (R256, Table 10-7) -/

/-- Rows of fields: whether a quote is open (0 no, 1 yes, 2 a quote has just ended it), the field and the row so far. -/
def csvRows : Nat → List Nat → List (List Nat) → List Nat → List (List (List Nat))
  | _, field, row, [] => if field.isEmpty && row.isEmpty then [] else [row ++ [field.reverse]]
  | q, field, row, c :: cs =>
    if c == 0x22 then
      if q == 1 then csvRows 2 field row cs
      else if q == 2 then csvRows 1 (c :: field) row cs
      else if field.isEmpty then csvRows 1 field row cs
      else csvRows 0 (c :: field) row cs
    else if q == 1 then csvRows 1 (c :: field) row cs
    else if c == 0x2C then csvRows 0 [] (row ++ [field.reverse]) cs
    else if c == 0x0A then
      if field.isEmpty && row.isEmpty then csvRows 0 [] [] cs else (row ++ [field.reverse]) :: csvRows 0 [] [] cs
    else if c == 0x0D && cs.headD 0x0A == 0x0A then csvRows q field row cs
    else csvRows 0 (c :: field) row cs

/-- A row within the limits of Table 10-7. -/
def csvOk (row : List (List Nat)) : Bool := row.length ≤ 1024 && row.all fun f => (textOf f).length ≤ 65536

/-! ### What a walk gathers -/

/-- The text gathered so far, what was skipped, and the candidates for the field record (R254 to R257). -/
structure Gathered where
  text : List Byte
  /-- members, lines and rows skipped (MEMBERS_SKIPPED) -/
  skipped : Nat
  /-- archive members met -/
  members : Nat
  /-- texts read, and texts that exceeded the replacement limit -/
  texts : Nat
  broken : Nat
  /-- string values of top-level JSON keys, in walk order -/
  keys : List (List Byte × List Byte)
  /-- columns of CSV texts with the value of their first data row -/
  columns : List (List Byte × List Byte)
  firstName : Option (List Byte)
  /-- the number of members has reached its limit -/
  full : Bool
  deriving DecidableEq, Repr

def Gathered.empty : Gathered :=
  { text := [], skipped := 0, members := 0, texts := 0, broken := 0, keys := [], columns := [], firstName := none, full := false }

def Gathered.skip (g : Gathered) : Gathered := { g with skipped := g.skipped + 1 }

/-- Lists between single separators. -/
def splitOn {α : Type} [BEq α] (sep : α) : List α → List (List α)
  | [] => [[]]
  | b :: bs =>
    if b == sep then [] :: splitOn sep bs
    else
      match splitOn sep bs with
      | [] => [[b]]
      | t :: ts => (b :: t) :: ts

/-- JSON lines: the string values of each line, each followed by a line feed; a line that is no JSON value is skipped. -/
def Gathered.addJson (g : Gathered) (ps : List Nat) : Gathered :=
  ((splitOn 0x0A ps).filter fun l => !(jsonSkip l).isEmpty).foldl (fun g l =>
    match jsonLine l with
    | none => g.skip
    | some o =>
      { g with
        text := g.text ++ o.strs.flatMap (fun t => textOf t ++ [0x0A])
        keys := g.keys ++ o.keys.map fun p => (textOf p.1, textOf p.2) }) g

/-- CSV: the fields of each row but the first, separated by spaces and ended by a line feed. -/
def Gathered.addCsv (g : Gathered) (ps : List Nat) : Gathered :=
  let rows := csvRows 0 [] [] ps
  let names := (rows.headD []).map textOf
  let data := rows.drop 1
  let g := { g with columns := g.columns ++ names.zip ((data.headD []).map textOf) }
  data.foldl (fun g row =>
    if csvOk row then { g with text := g.text ++ ((row.map textOf).intersperse [0x20]).flatten ++ [0x0A] } else g.skip) g

/-- One text, JSON or CSV member; one over the replacement limit is skipped. -/
def Gathered.addLeaf (g : Gathered) (kind : Nat) (bs : List Byte) : Gathered :=
  let ps := pointsOf bs
  if garbled ps then { g.skip with broken := g.broken + 1 }
  else
    let g := { g with texts := g.texts + 1 }
    if kind == 2 then g.addJson ps else if kind == 3 then g.addCsv ps else { g with text := g.text ++ textOf ps }

/-! ### Archives (R254) -/

/-- A member of an archive; without data where its type, method or encryption has it skipped. -/
structure Member where
  name : List Byte
  data : Option (List Byte)
  deriving DecidableEq, Repr

/-- The number that leading octal digits spell. -/
def octal (l : List Byte) : Nat :=
  ((l.dropWhile fun b => b == 0x20).takeWhile fun b => 0x30 ≤ b && b ≤ 0x37).foldl (fun v b => 8 * v + (b.toNat - 0x30)) 0

def decimal (l : List Byte) : Nat := (l.takeWhile fun b => 0x30 ≤ b && b ≤ 0x39).foldl (fun v b => 10 * v + (b.toNat - 0x30)) 0

/-- Bytes up to the first zero. -/
def cString (l : List Byte) : List Byte := l.takeWhile fun b => b != 0

/-- Records of a pax header: keyword and value. -/
def paxRecords : Nat → List Byte → List (List Byte × List Byte)
  | 0, _ => []
  | n + 1, bs =>
    let len := decimal bs
    let body := (bs.take (len - 1)).dropWhile fun b => b != 0x20
    if len == 0 || body.isEmpty then []
    else
      let kv := body.drop 1
      let key := kv.takeWhile fun b => b != 0x3D
      (key, kv.drop (key.length + 1)) :: paxRecords n (bs.drop len)

/-- A tar header. -/
def tarHeader (bs : List Byte) : Bool := fieldBytes bs 257 5 == ascii "ustar"

/-- Members of a tar archive: regular files with their data, with the path and size records that precede them. -/
def tarMembers : Nat → List (List Byte × List Byte) → List Byte → List Member
  | 0, _, _ => []
  | n + 1, pax, bs =>
    if !tarHeader bs then []
    else
      let find (k : String) : Option (List Byte) := (pax.find? fun p => p.1 == ascii k).map fun p => p.2
      let size := match find "size" with
        | some v => decimal v
        | none => octal (fieldBytes bs 124 12)
      let pre := cString (fieldBytes bs 345 155)
      let base := cString (fieldBytes bs 0 100)
      let name := (find "path").getD (if pre.isEmpty then base else pre ++ [0x2F] ++ base)
      let data := fieldBytes bs 512 size
      let rest := bs.drop (512 + cdiv size 512 * 512)
      let kind := field bs 156 1
      if kind == 0x78 then tarMembers n (paxRecords size data) rest
      else if kind == 0x67 then tarMembers n pax rest
      else { name := name, data := if kind == 0x30 || kind == 0 then some data else none } :: tarMembers n [] rest

/-- The ZIP64 sizes of an extra field: plain and stored. -/
def zip64 : Nat → List Byte → Option (Nat × Nat)
  | 0, _ => none
  | n + 1, bs =>
    if bs.length < 4 then none
    else if field bs 0 2 == 1 then some (field bs 4 8, field bs 12 8)
    else zip64 n (bs.drop (4 + field bs 2 2))

/-- A ZIP local header. -/
def zipHeader (bs : List Byte) : Bool := field bs 0 4 == 0x04034B50

/-- A data descriptor that gives n as both sizes begins here. -/
def zipDescriptor (big : Bool) (n : Nat) (bs : List Byte) : Bool :=
  let at_ := if field bs 0 4 == 0x08074B50 then 8 else 4
  let w := if big then 8 else 4
  at_ + 2 * w ≤ bs.length && field bs at_ w == n && field bs (at_ + w) w == n

/-- Length of a stored member whose size only its data descriptor gives: the bytes before the first place that is its own
descriptor. -/
def storedLength (big : Bool) : Nat → List Byte → Nat
  | n, [] => n
  | n, b :: bs => if zipDescriptor big n (b :: bs) then n else storedLength big (n + 1) bs

/-- Members of a ZIP archive by their local headers, in file order. -/
def zipMembers : Nat → List Byte → List Member
  | 0, _ => []
  | n + 1, bs =>
    if !zipHeader bs then []
    else
      let flags := field bs 6 2
      let method := field bs 8 2
      let nameLen := field bs 26 2
      let extraLen := field bs 28 2
      let big := zip64 extraLen (fieldBytes bs (30 + nameLen) extraLen)
      let stored := if field bs 18 4 == 0xFFFFFFFF then (big.map fun p => p.2).getD 0 else field bs 18 4
      let later := bit flags 3
      let body := bs.drop (30 + nameLen + extraLen)
      let known := !(later && stored == 0)
      let plain : Option (List Byte) × Nat :=
        if method == 0 && known then (some (body.take stored), stored)
        else if method == 8 then
          match Config.inflate (if known then body.take stored else body) with
          | some (d, used) => (some d, if known then stored else used)
          | none => (none, if known then stored else body.length)
        else if method == 0 then
          let n := storedLength big.isSome 0 body
          (some (body.take n), n)
        else (none, if known then stored else body.length)
      let tail := body.drop plain.2
      let descriptor := if !later then 0
        else (if field tail 0 4 == 0x08074B50 then 4 else 0) + (if big.isSome then 20 else 12)
      { name := fieldBytes bs 30 nameLen, data := if bit flags 0 then none else plain.1 } :: zipMembers n (tail.drop descriptor)

/-- Members of an archive of a content type. -/
def membersOf (kind : Nat) (bs : List Byte) : List Member :=
  if kind == 5 then zipMembers (bs.length / 30 + 1) bs else tarMembers (bs.length / 512 + 1) [] bs

/-! ### The walk (R254, R255) -/

/-- The first byte that is not white space is "{", and the first line parses as a JSON object (R255). -/
def jsonFirst (bs : List Byte) : Bool :=
  let from_ := bs.dropWhile fun b => b == 0x20 || b == 0x09 || b == 0x0A || b == 0x0D
  let l := from_.takeWhile fun b => b != 0x0A
  l.headD 0 == 0x7B && (jsonLine (decodeUtf8 0 l)).isSome

/-- A UTF-16 byte-order mark, or UTF-8 within the replacement limit (R255). -/
def textFirst (bs : List Byte) : Bool :=
  bs.take 2 == [0xFF, 0xFE] || bs.take 2 == [0xFE, 0xFF] || !garbled (pointsOf bs)

/-- Content type of a payload or a member that declares none: the first test of R255 that succeeds, 0 where none does. -/
def contentType (name : Option (List Byte)) (bs : List Byte) : Nat :=
  if zipHeader bs then 5
  else if tarHeader bs then 4
  else if jsonFirst bs then 2
  else if name.any fun n => n.drop (n.length - 4) == ascii ".csv" then 3
  else if textFirst bs then 1
  else 0

/-- An archive with at most so many levels in it: each member in walk order, within the limits of Table 10-7. -/
def walkArchive : Nat → Nat → List Byte → Gathered → Gathered
  | 0, _, _, g => g.skip
  | d + 1, kind, bs, g =>
    (membersOf kind bs).foldl (fun (g : Gathered) m =>
      if g.full then g
      else if g.members ≥ 1048576 then { g with full := true }
      else
        let g := { g with members := g.members + 1, firstName := g.firstName.or (some m.name) }
        match m.data with
        | none => g.skip
        | some data =>
          let k := contentType (some m.name) data
          if m.name.length > 1024 || k == 0 then g.skip
          else if k ≥ 4 then walkArchive d k data g
          else g.addLeaf k data) g

/-- The text of a payload: archives of at most four levels, or a single text; none of a payload that no test identifies. -/
def extractText (kind : Nat) (bs : List Byte) : Gathered :=
  if kind ≥ 4 then walkArchive 4 kind bs .empty else if kind == 0 then .empty else Gathered.empty.addLeaf kind bs

/-- A field value of an object (R257). -/
def Gathered.value (g : Gathered) (d : FieldDesc) : Option (List Byte) :=
  let named (l : List (List Byte × List Byte)) : Option (List Byte) := (l.find? fun p => p.1 == d.name).map fun p => p.2
  (if d.kind == 0 then named g.keys else if d.kind == 1 then named g.columns else g.firstName).map fun v => v.take 255

/-! ### Decompression (R180, R254) -/

/-- The header of a Zstandard frame with a window of at most some bytes and no dictionary; `sized` asks for a content size
(RFC 8878, 3.1.1.1). -/
def zstdOk (maxWindow : Nat) (sized : Bool) (f : List Byte) : Bool :=
  let d := field f 4 1
  let single := bit d 5
  let size := bits d 7 6
  let dictBytes := [0, 1, 2, 4].getD (bits d 1 0) 0
  let at_ := if single then 5 else 6
  let wd := field f 5 1
  let base := 2 ^ (10 + wd / 8)
  let sizeAt := at_ + dictBytes
  let content := match size with
    | 0 => field f sizeAt 1
    | 1 => field f sizeAt 2 + 256
    | 2 => field f sizeAt 4
    | _ => field f sizeAt 8
  let window := if single then content else base + base / 8 * (wd % 8)
  field f 0 4 == 0xFD2FB528 && !bit d 3 && (!sized || size != 0 || single) && window ≤ maxWindow && field f at_ dictBytes == 0

/-- A skippable Zstandard frame (RFC 8878, 3.1.2). -/
def zstdSkippable (f : List Byte) : Bool := field f 0 4 / 16 == 0x184D2A5

/-- The header of an LZ4 frame: version 1, a block maximum of at most 1 MB. -/
def lz4Ok (f : List Byte) : Bool :=
  let flg := field f 4 1
  field f 0 4 == 0x184D2204 && bits flg 7 6 == 1 && within (bits (field f 5 1) 6 4) 4 6

/-- Frames of a payload one after another: what they decode to, and whether they end with the payload. -/
def decodeFrames (code : Nat) : Nat → List Byte → List Byte × Bool
  | 0, bs => ([], bs.isEmpty)
  | n + 1, bs =>
    if bs.isEmpty then ([], true)
    else if code == 1 && zstdSkippable bs then decodeFrames code n (bs.drop (8 + field bs 4 4))
    else if !(if code == 1 then zstdOk 1048576 false bs else lz4Ok bs) then ([], false)
    else
      match (if code == 1 then Config.zstdFrame bs else Config.lz4Frame bs) with
      | (out, none) => (out, false)
      | (out, some used) =>
        let r := decodeFrames code n (bs.drop (max used 1))
        (out ++ r.1, r.2)

/-- The decompressed payload, and whether the stream is whole. -/
def decompress (code : Nat) (bs : List Byte) : List Byte × Bool :=
  if code == 0 then (bs, true) else decodeFrames code bs.length bs

/-! ### Tokens, passages and sketches (R258, R259) -/

/-- The tokeniser of an Ingot: its first unit of KIND 3. -/
def State.tokeniser (s : State) (i : Nat) : Nat × Nat :=
  (i, match s.ingots.find? fun g => g.id == i with
    | some g => g.units.findIdx fun u => u.kind == 3
    | none => 0)

/-- Tokens of a text under a tokeniser: 32-bit identifiers, each with the number of UTF-8 bytes it came from. -/
def tokensOf (t : Nat × Nat) (text : List Byte) : List (Nat × Nat) :=
  (Config.tokenise t.1 t.2 text).map fun p => (p.1 % 2 ^ 32, p.2)

def State.tokenCount (s : State) (ingot : Nat) (text : List Byte) : Nat := (tokensOf (s.tokeniser ingot) text).length

/-- UTF-8 bytes from which n tokens from a first one came. -/
def tokenBytes (text : List Byte) (toks : List (Nat × Nat)) (first n : Nat) : List Byte :=
  let len (l : List (Nat × Nat)) : Nat := (l.map fun t => t.2).sum
  (text.drop (len (toks.take first))).take (len ((toks.drop first).take n))

/-- A text after simple case folding. -/
def foldText (bs : List Byte) : List Byte := textOf ((pointsOf bs).map Config.foldPoint)

/-- Terms of folded code points: maximal runs of categories L and N. -/
def termsOf (ps : List Nat) : List (List Byte) :=
  ((splitOn 0 (ps.map fun c => if Config.termPoint c then c + 1 else 0)).filter fun t => !t.isEmpty).map fun t =>
    textOf (t.map fun c => c - 1)

/-- The four bits of a folded term in a sketch. -/
def sketchBits (term : List Byte) : List Nat :=
  let v := unle (Config.shake256 term 6)
  [v % 4096, v / 2 ^ 12 % 4096, v / 2 ^ 24 % 4096, v / 2 ^ 36 % 4096]

/-- The sketch of the text of at most 512 tokens. -/
def sketchOf (text : List Byte) : List Byte :=
  let on := (termsOf ((pointsOf text).map Config.foldPoint)).eraseDups.flatMap sketchBits
  (List.range 512).map fun k => BitVec.ofNat 8 (((List.range 8).filter fun i => on.contains (8 * k + i)).map fun i => 2 ^ i).sum

/-- Where a text stands unchanged in its payload: at its start, or behind a UTF-8 byte-order mark. -/
def plainAt (payload text : List Byte) : Option Nat :=
  if text == payload then some 0 else if text == payload.drop 3 then some 3 else none

/-- Chunk and offset at which a passage starts: by its place in a plain payload; elsewhere the chunk of text that came through
decompression or a container is not stated (log 150). -/
def locatorOf (ingot : Nat) (plain : Bool) (payload text : List Byte) (toks : List (Nat × Nat)) (per i : Nat) : Nat × Nat :=
  match if plain then plainAt payload text else none with
  | some at_ =>
    let p := at_ + ((toks.take (per * i)).map fun t => t.2).sum
    (p / 65536, p % 65536)
  | none => Config.locator ingot payload per i

/-- Passage i of a text cut into passages of `per` tokens. -/
def passageOf (ingot : Nat) (plain : Bool) (payload text : List Byte) (toks : List (Nat × Nat)) (per i : Nat) : Passage :=
  let n := min per (toks.length - per * i)
  let l := locatorOf ingot plain payload text toks per i
  { hash := Config.shake256 (tokenBytes text toks (per * i) n) 32, chunk := l.1, offset := l.2, tokens := n
    sketches := (List.range (cdiv n 512)).map fun k => sketchOf (tokenBytes text toks (per * i + 512 * k) (min 512 (n - 512 * k))) }

end Sys2Proof.Machine
end

