-- ==== Sys2Proof/Machine/Memory.lean ====
section
/-! DEFINITION. Memory of a unit with valid bits (R171 to R173): reads of invalid lines give zeros, a first write
fills its line with zeros, and Anneal clears valid bits. One canonical list form. -/

namespace Sys2Proof.Machine

/-- Strictly rising addresses and no zero byte listed. -/
def cellsWf : List Host.Cell → Bool
  | [] => true
  | [c] => c.2 != 0
  | c :: d :: cs => c.2 != 0 && c.1 < d.1 && cellsWf (d :: cs)

def rising : List Nat → Bool
  | [] => true
  | [_] => true
  | a :: b :: l => a < b && rising (b :: l)

/-- Canonical form of a store with lines of `line` bytes: cells canonical, valid lines rising, every cell in a valid line. -/
def Store.wf (line : Nat) (m : Store) : Bool :=
  cellsWf m.cells && rising m.valid && m.cells.all (fun c => m.valid.contains (c.1 / line))

/-- One byte: zero where nothing is listed (R171). -/
def cellRead : List Host.Cell → Nat → Byte
  | [], _ => 0
  | c :: cs, a => if c.1 == a then c.2 else cellRead cs a

/-- One byte written in canonical form: a zero removes the entry. -/
def cellWrite (a : Nat) (v : Byte) : List Host.Cell → List Host.Cell
  | [] => if v == 0 then [] else [(a, v)]
  | c :: cs =>
    if a < c.1 then (if v == 0 then c :: cs else (a, v) :: c :: cs)
    else if a == c.1 then (if v == 0 then cs else (a, v) :: cs)
    else c :: cellWrite a v cs

def Store.read (m : Store) (a : Nat) : Byte := cellRead m.cells a

def Store.write (line : Nat) (m : Store) (a : Nat) (v : Byte) : Store :=
  { cells := cellWrite a v m.cells, valid := insertRising (a / line) m.valid }

/-- n bytes from address a. -/
def Store.readBytes (m : Store) (a : Nat) : Nat → List Byte
  | 0 => []
  | n + 1 => m.read a :: Store.readBytes m (a + 1) n

/-- Bytes written from address a upward (R172). -/
def Store.writeBytes (line : Nat) (m : Store) (a : Nat) : List Byte → Store
  | [] => m
  | b :: bs => Store.writeBytes line (m.write line a b) (a + 1) bs

/-- Clear the valid bits of the lines a test picks, and with them their contents (R173). -/
def Store.invalidate (line : Nat) (m : Store) (p : Nat → Bool) : Store :=
  { cells := m.cells.filter (fun c => !p (c.1 / line)), valid := m.valid.filter (fun l => !p l) }

/-- Line size of SRAM and granule size of stacked memory (Table 7-1). -/
def sramLine : Nat := 512
def stackGranule : Nat := 65536

/-- Every store of the machine in canonical form. -/
def State.memWf (s : State) : Bool :=
  s.mem.stacked.wf stackGranule && s.mem.quarter.toList.all (Store.wf sramLine) &&
    s.mem.sram.toList.all (Store.wf sramLine) &&
    s.engines.toList.all fun e => e.ctx.operand.wf sramLine && e.ctx.acc.wf sramLine &&
      e.saved.all fun c => c.ctx.operand.wf sramLine && c.ctx.acc.wf sramLine

/-- Capacity of a unit of each space in bytes (R170, Table 2-6). -/
def spaceCapacity : Space → Nat
  | .operand _ => 25165824
  | .acc _ => 4194304
  | .quarter _ => 100663296
  | .sram _ => 2097152
  | .stacked => 1855425871872

/-- The store of a memory space. -/
def State.store (s : State) : Space → Store
  | .operand e => s.engines[e].ctx.operand
  | .acc e => s.engines[e].ctx.acc
  | .quarter q => s.mem.quarter[q]
  | .sram b => s.mem.sram[b]
  | .stacked => s.mem.stacked

def spaceLine : Space → Nat
  | .stacked => stackGranule
  | _ => sramLine

/-- The state with the store of a memory space replaced. -/
def State.setStore (s : State) (sp : Space) (m : Store) : State :=
  match sp with
  | .operand e =>
    { s with engines := s.engines.set e { s.engines[e] with ctx := { s.engines[e].ctx with operand := m } } }
  | .acc e => { s with engines := s.engines.set e { s.engines[e] with ctx := { s.engines[e].ctx with acc := m } } }
  | .quarter q => { s with mem := { s.mem with quarter := s.mem.quarter.set q m } }
  | .sram b => { s with mem := { s.mem with sram := s.mem.sram.set b m } }
  | .stacked => { s with mem := { s.mem with stacked := m } }

/-- Bytes read at a tier address. -/
def State.readAt (s : State) (a : TierAddr) (n : Nat) : List Byte := (s.store a.space).readBytes a.off n

/-- A place lies in a valid line or granule. -/
def State.validAt (s : State) (a : TierAddr) : Bool := (s.store a.space).valid.contains (a.off / spaceLine a.space)

/-- Bytes written at a tier address. A word wholly written, and every word of a line that the write fills first, has correct
check bits afterwards (R172, R317). -/
def State.writeAt (s : State) (a : TierAddr) (bs : List Byte) : State :=
  let line := spaceLine a.space
  let n := bs.length
  let healed (p : TierAddr) : Bool :=
    p.space == a.space && ((a.off ≤ p.off && p.off + 8 ≤ a.off + n) ||
      (n != 0 && a.off / line ≤ p.off / line && p.off / line ≤ (a.off + n - 1) / line && !s.validAt p))
  let t := s.setStore a.space ((s.store a.space).writeBytes line a.off bs)
  { t with mem := { t.mem with poisoned := t.mem.poisoned.filter fun p => !healed p } }

/-- The first poisoned word of a range that a reader meets: an invalid line reads zero through no checker (R171). -/
def State.poisonIn (s : State) (a : TierAddr) (n : Nat) : Option TierAddr :=
  s.mem.poisoned.find? fun p => p.space == a.space && a.off < p.off + 8 && p.off < a.off + n && s.validAt p

/-- Granules of 64 KiB of a range. -/
def granulesOf (a : TierAddr) (n : Nat) : List Nat := (List.range (cdiv (a.off % 65536 + n) 65536)).map fun i => a.off / 65536 + i

/-- A tier address taken apart (R170); none for a reserved space, a unit above its range or an offset past the unit. -/
def tierAddr (w : Word64) : Option TierAddr :=
  let u := bits w.toNat 59 48
  let o := bits w.toNat 47 0
  let sp : Option Space :=
    match bits w.toNat 63 60 with
    | 0 => if h : u < 48 then some (.operand ⟨u, h⟩) else none
    | 1 => if h : u < 48 then some (.acc ⟨u, h⟩) else none
    | 2 => if h : u < 4 then some (.quarter ⟨u, h⟩) else none
    | 3 => if h : u < 512 then some (.sram ⟨u, h⟩) else none
    | 4 => if u = 0 then some .stacked else none
    | _ => none
  match sp with
  | none => none
  | some x => if o < spaceCapacity x then some { space := x, off := o } else none

/-- The 64-bit tier address of a place (R170). -/
def tierWord (a : TierAddr) : Nat :=
  match a.space with
  | .operand e => e.val * 2 ^ 48 + a.off
  | .acc e => 2 ^ 60 + e.val * 2 ^ 48 + a.off
  | .quarter q => 2 * 2 ^ 60 + q.val * 2 ^ 48 + a.off
  | .sram b => 3 * 2 ^ 60 + b.val * 2 ^ 48 + a.off
  | .stacked => 4 * 2 ^ 60 + a.off

end Sys2Proof.Machine
end

