-- ==== Sys2Proof/Machine/Ops.lean ====
section
/-! DEFINITION. The named operations every family shares: updates of one part, free values, interrupts, completions and
refusals, reports to the rings, latched writes, lookups in the Mold and among the jobs. -/

namespace Sys2Proof.Machine

abbrev Out := Host.Outcome State Fault Refusal

/-! ### Updates of one part -/

def State.modEngine (s : State) (e : EngineId) (f : Engine → Engine) : State :=
  { s with engines := s.engines.set e (f s.engines[e]) }

def State.modBench (s : State) (b : BenchId) (f : Bench → Bench) : State :=
  { s with benches := s.benches.set b (f s.benches[b]) }

def State.modFlash (s : State) (b : BenchId) (f : Flash → Flash) : State :=
  { s with flash := s.flash.set b (f s.flash[b]) }

def State.modLink (s : State) (d : DieId) (f : Link → Link) : State := { s with links := s.links.set d (f s.links[d]) }

def State.modCtrl (s : State) (c : Ctrl) (f : Controller → Controller) : State :=
  { s with ctrls := s.ctrls.set c (f s.ctrls[c]) }

def State.modCache (s : State) (q : QuarterId) (f : ModelCache → ModelCache) : State :=
  { s with cache := s.cache.set q (f s.cache[q]) }

def State.modJob (s : State) (k : Key) (f : Job → Job) : State :=
  { s with sched := { s.sched with jobs := updWhere s.sched.jobs (fun j => j.key == k) f } }

def State.dropJob (s : State) (k : Key) : State :=
  { s with sched := { s.sched with jobs := s.sched.jobs.filter fun j => !(j.key == k) } }

def State.job (s : State) (k : Key) : Option Job := s.sched.jobs.find? fun j => j.key == k

def State.modIngot (s : State) (i : Nat) (f : Ingot → Ingot) : State :=
  { s with ingots := updWhere s.ingots (fun g => g.id == i) f }

def State.ingot (s : State) (i : Nat) : Option Ingot := s.ingots.find? fun g => g.id == i

def State.modObj (s : State) (i : Nat) (f : Obj → Obj) : State :=
  { s with search := { s.search with objs := updWhere s.search.objs (fun o => o.id == i) f } }

def State.obj (s : State) (i : Nat) : Option Obj := s.search.objs.find? fun o => o.id == i

def State.modColl (s : State) (i : Nat) (f : Coll → Coll) : State :=
  { s with search := { s.search with colls := updWhere s.search.colls (fun c => c.id == i) f } }

def State.coll (s : State) (i : Nat) : Option Coll := s.search.colls.find? fun c => c.id == i

def State.modList (s : State) (n : Nat) (f : Lst → Lst) : State :=
  { s with search := { s.search with lists := updWhere s.search.lists (fun l => l.num == n) f } }

def State.lst (s : State) (n : Nat) : Option Lst := s.search.lists.find? fun l => l.num == n

/-- Something sent out of the module. -/
def State.emit (s : State) (o : Output) : State := { s with out := s.out ++ [o] }

/-- A free value: the next word of the model's own stream (log 9). -/
def State.fresh (s : State) : Word64 × State := (Config.freeWord s.free, { s with free := s.free + 1 })

/-- n free words. -/
def State.freshN (s : State) (n : Nat) : List Word64 × State :=
  ((List.range n).map fun i => Config.freeWord (s.free + i), { s with free := s.free + n })

/-- 256 free bits. -/
def State.fresh256 (s : State) : BitVec 256 × State :=
  (Config.freeWord s.free ++ Config.freeWord (s.free + 1) ++ Config.freeWord (s.free + 2) ++ Config.freeWord (s.free + 3),
    { s with free := s.free + 4 })

/-- Index of the first element that a test picks. -/
def firstIndex {α : Type} (p : α → Bool) : List α → Option Nat
  | [] => none
  | x :: xs => if p x then some 0 else (firstIndex p xs).map (· + 1)

/-- The first element with the least measure. -/
def leastBy {α : Type} (f : α → Nat) : List α → Option α
  | [] => none
  | x :: xs =>
    match leastBy f xs with
    | none => some x
    | some y => if f x ≤ f y then some x else some y

/-! ### Places (R15) -/

def quarterOfEngine (e : EngineId) : QuarterId := ⟨e.val / 12, by omega⟩
def quarterOfBench (b : BenchId) : QuarterId := ⟨b.val / 128, by omega⟩
def quarterOfStack (k : StackId) : QuarterId := ⟨k.val / 6, by omega⟩
def dieOfBench (b : BenchId) : DieId := ⟨b.val / 16, by omega⟩
def quarterOfDie (d : DieId) : QuarterId := ⟨d.val / 8, by omega⟩
/-- Bench c of a channel die. -/
def benchOfDie (d : DieId) (c : Fin 16) : BenchId := ⟨16 * d.val + c.val, by omega⟩
def enginesOf (q : QuarterId) : List EngineId := (List.finRange 48).filter fun e => e.val / 12 == q.val
def benchesOf (d : DieId) : List BenchId := (List.finRange 512).filter fun b => b.val / 16 == d.val

/-! ### The Mold in force -/

def State.theMold (s : State) : Option Mold := s.mold.mold

/-- EVENT_VECTOR of the Mold in force, 0 while there is none (R432). -/
def State.eventVector (s : State) : Nat :=
  match s.mold.mold with
  | some m => m.eventVector
  | none => 0

/-- A Stroke grid runs: LOCKED, HOLDOVER or FREE_RUN (R67). -/
def State.gridRuns (s : State) : Bool :=
  match s.grid.lock with
  | .locked | .holdover | .freeRun => true
  | .idle | .acquiring => false

/-- Onant commands wait in their queues: from MOLD_LOAD to the first boundary after the grid locks (R34, R69), and in PS3 and
PS4 until the exit from the state (R393). -/
def State.ioWaits (s : State) : Bool := s.mold.mold.isSome && !s.grid.everLocked || s.power.state ≥ 3

/-- MOLD_STATUS.GRID_LOCKED (R71). -/
def State.gridLocked (s : State) : Bool :=
  match s.grid.lock with
  | .locked | .holdover => true
  | .idle | .acquiring | .freeRun => false

/-- The Stroke period in force, µs (Table 2-9). -/
def Mold.periodUs (m : Mold) : Nat := 10 * (if m.period = 0 then 50 else m.period)

def Mold.shopOfQueue (m : Mold) (c : Ctrl) (q : Nat) : Option Shop :=
  m.shops.find? fun h => h.ctrl == c.val && h.firstQ ≤ q && q < h.firstQ + h.qCount

def Mold.c0Shop (m : Mold) : Option Shop := m.shops.find? fun h => h.c0

def Mold.shop (m : Mold) (i : Nat) : Option Shop := m.shops.find? fun h => h.id == i

def Mold.coll (m : Mold) (i : Nat) : Option CollEntry := m.colls.find? fun c => c.id == i

def Mold.cls (m : Mold) (c : Nat) : ClassEntry :=
  m.classes.getD c { defaultW := 100, minW := 1, maxW := 65535, guarantee := 0 }

/-- C0 ceiling on the Engines of the C0 Shop, in µs × 256 (R74). -/
def Mold.c0Ceiling256 (m : Mold) : Nat :=
  m.periodUs * (256 - (m.cls 1).guarantee - (m.cls 2).guarantee - (m.cls 3).guarantee)

/-- A queue of the C0 Shop (R388). -/
def State.isC0Queue (s : State) (c : Ctrl) (q : Nat) : Bool :=
  match s.mold.mold with
  | some m => match m.shopOfQueue c q with
    | some h => h.c0
    | none => false
  | none => false

def Shop.holdsEngine (h : Shop) (e : EngineId) : Bool := h.meMap.getLsbD e.val
def Shop.holdsBench (h : Shop) (b : BenchId) : Bool := h.benchMap.getLsbD b.val
def Shop.engines (h : Shop) : List EngineId := (List.finRange 48).filter h.holdsEngine
def Shop.benches (h : Shop) : List BenchId := (List.finRange 512).filter h.holdsBench

/-- A Collection key is held for a label (R346). -/
def State.keyHeld (s : State) (label : Word64) : Bool := s.sec.keys.any fun k => k.1 == label

/-! ### Interrupts (R432) -/

/-- A controller is present: controller 0, and controller 1 in the split form (R372). -/
def State.present (s : State) (c : Ctrl) : Bool := c.val == 0 || s.power.split

/-- One MSI-X vector of one function: nothing while MSI-X Enable is clear, the PBA bit while masked, else a message. -/
def State.msix (s : State) (c : Ctrl) (v : Nat) : State :=
  let f := s.ctrls[c]
  if !f.msixEnable then s
  else if f.msixMask || !f.unmasked.contains v then s.modCtrl c fun f => { f with pba := insertNew f.pba v }
  else s.emit (.msix c v)

/-- EVENT_VECTOR on the function of every present controller (R432). -/
def State.signal (s : State) : State :=
  let s := s.msix 0 s.eventVector
  if s.power.split then s.msix 1 s.eventVector else s

/-! ### Completions (R208, R419) -/

/-- Status codes of Table 17-1. -/
def scInvalidField := 0x01
def scCfgBusy := 0x02
def scMoldAbsent := 0x03
def scMoldPresent := 0x04
def scMoldInvalid := 0x05
def scRecastPending := 0x06
def scShopUnbound := 0x07
def scEnvelopeExceeded := 0x08
def scKeyAbsent := 0x09
def scQuenched := 0x0A
def scLifecycleDenied := 0x0B
def scHallmarkUnavailable := 0x0C
def scEngineFault := 0x10
def scScaleSkew := 0x11
def scNumericOverflow := 0x12
def scTouchstoneFail := 0x13
def scNonpreOverrun := 0x14
def scSemOverrun := 0x15
def scBenchFault := 0x16
def scMemoryFault := 0x17
def scCacheFull := 0x18
def scIngotAbsent := 0x20
def scIngotExists := 0x21
def scIngotInvalid := 0x22
def scSignatureInvalid := 0x23
def scIngotPoisoned := 0x24
def scIngotBusy := 0x25
def scEnvelopeInvalid := 0x30
def scObjectAbsent := 0x31
def scMediaFull := 0x32
def scUncorrectable := 0x33
def scMediaPartial := 0x34
def scMediaUnavailable := 0x35
def scDataPoisoned := 0x36

/-- DNR of a status of Table 17-1; ENVELOPE_EXCEEDED is settled by R420 where it arises. -/
def dnrOf (sc : Nat) : Bool :=
  !(sc == scCfgBusy || sc == scRecastPending || sc == scKeyAbsent || sc == scMemoryFault || sc == scCacheFull ||
    sc == scDataPoisoned)

/-- Room in a completion queue: one slot stays empty, as in any NVMe circular queue. -/
def CompQueue.full (q : CompQueue) : Bool := (q.tail + 1) % q.size == q.head

/-- Post an entry: into the queue, with its interrupt, or waiting while the queue is full. -/
def State.post (s : State) (c : Completion) : State :=
  let f := s.ctrls[c.key.ctrl]
  let f := { f with inflight := f.inflight.filter fun e => !(e.key == c.key) }
  let s := { s with ctrls := s.ctrls.set c.key.ctrl f }
  match f.sqs.find? (fun q => q.id == c.key.sqid) with
  | none => s
  | some sq =>
    match f.cqs.find? (fun q => q.id == sq.cqid) with
    | none => s
    | some cq =>
      if cq.full then
        s.modCtrl c.key.ctrl fun f =>
          { f with cqs := updWhere f.cqs (fun q => q.id == sq.cqid) fun q => { q with waiting := q.waiting ++ [c] } }
      else
        let s := s.modCtrl c.key.ctrl fun f =>
          { f with cqs := updWhere f.cqs (fun q => q.id == sq.cqid) fun q =>
              { q with posted := q.posted ++ [c], tail := (q.tail + 1) % q.size } }
        if cq.ien then s.msix c.key.ctrl cq.vector else s

/-- A completion with generic status (SCT 0). -/
def State.completeGeneric (s : State) (k : Key) (sc : Nat) (dnr : Bool) : State :=
  s.post { key := k, sct := 0, sc := sc, dnr := dnr, dw0 := 0, dw1 := 0, data := [] }

/-- Success, with Dwords 0 and 1 and the data written to the host (R208). -/
def State.success (s : State) (k : Key) (dw0 dw1 : Nat) (data : List Byte) : State :=
  s.post { key := k, sct := 0, sc := 0, dnr := false, dw0 := BitVec.ofNat 32 dw0, dw1 := BitVec.ofNat 32 dw1, data := data }

/-- A completion with an Iczant status and values in Dwords 0 and 1. -/
def State.status (s : State) (k : Key) (sc dw0 dw1 : Nat) (data : List Byte) : State :=
  s.post { key := k, sct := 7, sc := sc, dnr := dnrOf sc, dw0 := BitVec.ofNat 32 dw0, dw1 := BitVec.ofNat 32 dw1,
           data := data }

/-- Success with data moved to the host; where a word of the data is poisoned, the affected writes carry EP = 1 and the
command completes with DATA_POISONED and the offset of the first such 64 bytes (Table 13-3). -/
def State.sendData (s : State) (k : Key) (dw0 dw1 : Nat) (data : List Byte) (poison : Option Nat) : State :=
  match poison with
  | some p =>
    if p < data.length then (s.emit (.poisonedTlp k.ctrl)).status k scDataPoisoned (p / 64 * 64) 0 data
    else s.success k dw0 dw1 data
  | none => s.success k dw0 dw1 data

/-- A refusal: the completion status and nothing else (R3). -/
def State.refuse (s : State) (k : Key) (sc : Nat) : State := s.status k sc 0 0 []

/-- ENVELOPE_EXCEEDED with its DNR (R420). -/
def State.refuseEnvelope (s : State) (k : Key) (dnr : Bool) : State :=
  s.post { key := k, sct := 7, sc := scEnvelopeExceeded, dnr := dnr, dw0 := 0, dw1 := 0, data := [] }

/-- Generic NVMe statuses with the DNR of Table 17-1A (R428), by Status Code Type and Status Code. -/
def State.nvme (s : State) (k : Key) (sct sc : Nat) (dnr : Bool) : State :=
  s.post { key := k, sct := sct, sc := sc, dnr := dnr, dw0 := 0, dw1 := 0, data := [] }

def State.invalidOpcode (s : State) (k : Key) : State := s.nvme k 0 0x01 true
/-- Invalid Field in Command (R428). -/
def State.nvmeInvalidField (s : State) (k : Key) : State := s.nvme k 0 0x02 true
def State.transferError (s : State) (k : Key) : State := s.nvme k 0 0x04 false
def State.abortLimit (s : State) (k : Key) : State := s.nvme k 1 0x03 false
def State.cqInvalid (s : State) (k : Key) : State := s.nvme k 1 0x00 true
def State.queueIdInvalid (s : State) (k : Key) : State := s.nvme k 1 0x01 true
def State.queueSizeInvalid (s : State) (k : Key) : State := s.nvme k 1 0x02 true
def State.vectorInvalid (s : State) (k : Key) : State := s.nvme k 1 0x08 true
def State.imageInvalid (s : State) (k : Key) : State := s.nvme k 1 0x07 true
def State.activationNeedsReset (s : State) (k : Key) : State := s.nvme k 1 0x0B true
def State.queueDeletionInvalid (s : State) (k : Key) : State := s.nvme k 1 0x0C true

/-! ### Reports to the rings (R328, R329, R423) -/

/-- The ring a source writes (Table 17-4). -/
def ringOf : Source → Fin 37
  | .scheduler | .powerManager | .pewter | .sterling | .mgmt | .hostPort _ => 0
  | .engine e => ⟨1 + e.val / 12, by omega⟩
  | .quarterStore q => ⟨1 + q.val, by omega⟩
  | .stack k => ⟨1 + k.val / 6, by omega⟩
  | .modelCache q => ⟨1 + q.val, by omega⟩
  | .bench b => ⟨5 + b.val / 16, by omega⟩
  | .link d => ⟨5 + d.val, by omega⟩

def State.modRing (s : State) (r : Fin 37) (f : Ring → Ring) : State :=
  { s with errors := { s.errors with rings := s.errors.rings.set r (f s.errors.rings[r]) } }

/-- A report that finds no room: LOST, its count, and the event while IRQ_EN is 1 (R331, R334). -/
def State.ringLost (s : State) (r : Fin 37) : State :=
  let s := s.modRing r fun g => { g with lostCount := satAdd 16 g.lostCount 1, lost := true }
  if s.errors.irqEn then s.signal else s

/-- A report joins its source's queue; a fifth is dropped (R329). -/
def State.report (s : State) (src : Source) (r : Report) : State :=
  if (s.errors.queue.filter fun p => p.1 == src).length ≥ 4 then s.ringLost (ringOf src)
  else { s with errors := { s.errors with queue := s.errors.queue ++ [(src, s.clockUs, r)] } }

/-- STK_STROKE for a record: 0 while no grid runs (Table 17-6). -/
def State.strokeNow (s : State) : Nat := if s.gridRuns then s.grid.stroke else 0

/-- Bytes 17 to 63 of the general body (Table 17-6). -/
def State.generalBody (s : State) (detail number value : Nat) (k : Option Key) (id : Nat) : List Byte :=
  le 1 detail ++ le 2 number ++ le 4 value ++
    (match k with
     | some k => le 2 k.cid.toNat ++ le 2 k.sqid ++ le 1 k.ctrl.val
     | none => le 5 0) ++
    le 3 0 ++ le 8 id ++ le 8 s.strokeNow ++ le 16 0

/-- A record of a kind with the general body (R424). -/
def State.reportGeneral (s : State) (src : Source) (sev : Severity) (kind detail number value : Nat) (k : Option Key)
    (id : Nat) : State :=
  s.report src { sev := sev, kind := BitVec.ofNat 8 kind, granule := none,
                 body := s.generalBody detail number value k id }

/-- A security record (Table 14-15). -/
def State.reportSecurity (s : State) (sev : Severity) (kind detail : Nat) (label : Word64) (value : Nat) : State :=
  s.report .sterling
    { sev := sev, kind := BitVec.ofNat 8 kind, granule := none,
      body := le 1 detail ++ le 6 0 ++ le 8 label.toNat ++ le 4 value ++ le 4 0 ++ le 8 s.strokeNow ++ le 16 0 }

/-- A media record of a Bench (Table 11-11). -/
def State.reportMedia (s : State) (b : BenchId) (sev : Severity) (kind cause phys content index ident lost : Nat) :
    State :=
  s.report (.bench b)
    { sev := sev, kind := BitVec.ofNat 8 kind, granule := none,
      body := le 1 cause ++ le 2 b.val ++ le 4 phys ++ le 8 content ++ le 4 index ++ le 1 ident ++ le 1 0 ++
        le 2 (min lost 65535) ++ le 4 s.flash[b].userBlocks ++ le 4 0 ++ le 8 s.strokeNow ++ le 8 0 }

/-- A memory record (Table 13-7): source, severity, kind, space, unit, requester, outcome, syndrome, address, job, data
class, Assay part and Tile. -/
def State.reportMemory (s : State) (src : Source) (sev : Severity) (kind space unit requester outcome syndrome addr : Nat)
    (k : Option Key) (dataClass part tile : Nat) : State :=
  s.report src
    { sev := sev, kind := BitVec.ofNat 8 kind, granule := if kind == 0x22 then none else some (addr / 65536),
      body := le 1 space ++ le 2 unit ++ le 1 requester ++ le 1 outcome ++ le 2 syndrome ++ le 8 addr ++
        (match k with
         | some k => le 2 k.cid.toNat ++ le 2 k.sqid ++ le 1 k.ctrl.val
         | none => le 5 0) ++
        le 1 dataClass ++ le 2 0 ++ le 8 s.strokeNow ++ le 1 part ++ le 1 tile ++ le 14 0 }

/-! ### Latched writes (R11 to R13) -/

/-- Put a latched field's value in force. -/
def State.latchApply (s : State) : LField × Nat → State
  | (.deferMax, v) => { s with sched := { s.sched with deferMax := v } }
  | (.decodePerStroke, v) => { s with sched := { s.sched with decodePerStroke := v } }
  | (.preemptOnArrival, v) => { s with sched := { s.sched with preemptOnArrival := v != 0 } }
  | (.hotLimit q, v) => s.modCache q fun c => { c with hotLimit := v }
  | (.stagedLimit q, v) => s.modCache q fun c => { c with stagedLimit := v }
  | (.burnRate, v) => { s with burnish := { s.burnish with rate := v } }
  | (.patrolDays b, v) => s.modFlash b fun f => { f with patrolDays := v }

/-- An L-class write: shadowed while a grid runs, the last write of a field alone and in the order of its arrival;
at once while none runs. -/
def State.latchWrite (s : State) (f : LField) (v : Nat) : State :=
  if s.gridRuns then { s with dev := { s.dev with shadows := assocSet s.dev.shadows f v } }
  else s.latchApply (f, v)

/-- Apply every shadow in order (R24 step 1). -/
def State.applyShadows (s : State) : State :=
  let s' := s.dev.shadows.foldl State.latchApply s
  { s' with dev := { s'.dev with shadows := [] } }

end Sys2Proof.Machine
end

