-- ==== Sys2Proof/Machine/HomeOps.lean ====
section
/-! DEFINITION. The names of flash-backed granules, what the home copies on flash hold of lists, objects and Collection
descriptors, and the return to them (R175, R178, R321). -/

namespace Sys2Proof.Machine

/-- Names of dirty granules (log 17): a stream tail's granule of Bench SRAM, a list's visibility log, a Collection's
centroids, a part of the List Directory, a part of the object map, the descriptor of a Collection, a Bench's stripe table. -/
def tailGranule (b : BenchId) (slot : Nat) : Nat := 2 ^ 40 + 32 * b.val + 16 + slot / 4
def logGranule (list : Nat) : Nat := 2 ^ 41 + list
def centroidGranule (coll : Nat) : Nat := 2 ^ 42 + coll
def directoryGranule (list : Nat) : Nat := 2 ^ 43 + list / 2048
def objectMapGranule (object : Nat) : Nat := 2 ^ 44 + object / 1024
def descriptorGranule (coll : Nat) : Nat := 2 ^ 45 + coll
def stripeGranule (b : BenchId) : Nat := 2 ^ 46 + b.val

/-- Full pages of a stream that are on flash. -/
def Lst.fullOf (l : Lst) (stream : Nat) : Nat := lookupD l.pages stream 0

/-- No tail of a list is dirty. -/
def State.tailsClean (s : State) (l : Lst) : Bool :=
  !(s.benches[l.bench].tails.any fun t => t.list == l.num && s.mem.dirty.any fun d => d.granule == tailGranule l.bench t.slot)

/-- The home copies after a granule has gone home: pages of tails, a list's visibility log, a Collection's centroids and edges,
entries of the List Directory, read states of the object map, a descriptor (Table 7-2). -/
def State.copyHome (s : State) (g : Nat) : State :=
  let x := s.search
  let put (p : Lst → Bool) (f : Lst → Lst → Lst) : List Lst := x.homeLists.map fun h =>
    match x.lists.find? fun l => l.num == h.num with
    | some l => if p l then f h l else h
    | none => h
  let x :=
    if g < 2 ^ 41 then
      { x with lists := x.lists.map fun l => if s.tailsClean l then { l with homeCount := l.records.length } else l }
    else if g < 2 ^ 42 then { x with homeLists := put (fun l => logGranule l.num == g) fun h l => { h with log := l.log } }
    else if g < 2 ^ 43 then { x with
      homeLists := put (fun l => centroidGranule l.coll == g) fun h l => { h with centroid := l.centroid, edges := l.edges } }
    else if g < 2 ^ 44 then { x with
      homeLists := x.homeLists.filter (fun h => directoryGranule h.num != g) ++ x.lists.filter fun l => directoryGranule l.num == g }
    else if g < 2 ^ 45 then { x with
      objs := updWhere x.objs (fun o => objectMapGranule o.id == g) fun o => { o with home := o.state, homeReason := o.reason } }
    else if g < 2 ^ 46 then { x with
      homeColls := x.homeColls.filter (fun c => descriptorGranule c.id != g) ++ x.colls.filter fun c => descriptorGranule c.id == g }
    else x
  { s with search := x }

/-- Records of a list that pages on flash hold. -/
def State.pagedRecords (s : State) (l : Lst) : Nat :=
  let dims := match s.coll l.coll with
    | some c => c.dims
    | none => 8
  max l.homeCount (l.fullOf 0 * 16384 / (dims / 8))

/-- Records and their marks up to a count. -/
def Lst.cut (l : Lst) (n : Nat) : Lst :=
  { l with
    records := l.records.take n, log := l.log.filter fun e => e.record < n
    marks := l.marks.map fun m => (m.1, min m.2 n), countAt := min l.countAt n }

/-- A list as it stands once the changes in some dirty granules are gone; none where only they held it. Records that its pages
hold beyond the COUNT at home stay, but for those a publication has moved in (R178). -/
def State.homeOf (s : State) (dirty : Nat → Bool) (tails : Bool) (l : Lst) : Option Lst :=
  let h := s.search.homeLists.find? fun h => h.num == l.num
  let n := if tails then s.pagedRecords l else l.records.length
  if dirty (directoryGranule l.num) then
    h.map fun h =>
      if h.mendGen == l.mendGen then
        let more := ((l.records.take n).drop h.records.length).takeWhile fun r => !r.movedIn
        { h with records := h.records ++ more, marks := l.marks, countAt := l.countAt, homeCount := l.homeCount, pages := l.pages }
      else h
  else
    let l := match h with
      | some h =>
        { l with
          log := if dirty (logGranule l.num) then h.log else l.log
          centroid := if dirty (centroidGranule l.coll) then h.centroid else l.centroid
          edges := if dirty (centroidGranule l.coll) then h.edges else l.edges }
      | none => l
    some (l.cut n)

/-- The journal's deletes stand (R178): every record of a deleted object has its entry. -/
def State.reapplyDeletes (s : State) (l : Lst) : Lst :=
  let due : List LogEntry := l.records.zipIdx.filterMap fun p =>
    match (s.obj p.1.object).bind Obj.deleted with
    | some e => if l.log.any fun x => x.record == p.2 && x.kind == .delete e then none else some { record := p.2, kind := .delete e }
    | none => none
  { l with log := l.log ++ due }

/-- A Collection as its home descriptor holds it; its counters stand. -/
def State.homeColl (s : State) (c : Coll) : Option Coll :=
  (s.search.homeColls.find? fun h => h.id == c.id).map fun h =>
    { h with
      state := if h.state == .calibrating then .uncalibrated else h.state
      notIndexed := c.notIndexed, markStalls := c.markStalls, mediaPartial := c.mediaPartial, unavailable := c.unavailable }

/-- The changes that only some dirty granules held are gone: lists and descriptors are as at home, with the deletes of the
journal. -/
def State.goBack (s : State) (gs : List DirtyGranule) (tails : List (BenchId × Tail)) : State :=
  let dirty (g : Nat) : Bool := gs.any fun d => d.granule == g
  let now := s.search.lists.filterMap fun l => s.homeOf dirty (tails.any fun t => t.2.list == l.num) l
  let freed := s.search.homeLists.filter fun h => dirty (directoryGranule h.num) && !(s.search.lists.any fun l => l.num == h.num)
  let colls := s.search.colls.filterMap fun c => if dirty (descriptorGranule c.id) then s.homeColl c else some c
  { s with search := { s.search with lists := (now ++ freed).map s.reapplyDeletes, colls := colls } }

/-- Passages of an object that records of the lists hold. -/
def State.heldOf (s : State) (i : Nat) : List Nat :=
  (((s.search.lists.flatMap Lst.records).filter fun r => r.object == i).map Rec.passage).eraseDups

end Sys2Proof.Machine
end

