-- ==== Sys2Proof/Machine/ErrorOps.lean ====
section
/-! DEFINITION. Asynchronous events, the record rings with coalescing and escalation, the accounting of CE and UE, and
Burnish (chapters 13 and 17). -/

namespace Sys2Proof.Machine

/-! ### Asynchronous events (R426) -/

/-- One event at one controller: reported on the oldest request outstanding, else held for the next request; an event
reported and not yet read with RAE = 0 is not reported again. -/
def State.aerEvent (s : State) (c : Ctrl) (ev : Nat) : State :=
  let f := s.ctrls[c]
  if !f.en || f.aerSent.contains ev || f.aerQueued.contains ev then s
  else
    match f.aers with
    | k :: rest => (s.modCtrl c fun f => { f with aers := rest, aerSent := f.aerSent ++ [ev] }).success k ev 0 []
    | [] => s.modCtrl c fun f => { f with aerQueued := f.aerQueued ++ [ev] }

/-- Dword 0 of the vendor event of a ring: type 7, the ring, LID 0xC0. -/
def ringEvent (r : Nat) : Nat := 7 + 2 ^ 8 * r + 2 ^ 16 * 0xC0

def State.vendorEvent (s : State) (r : Nat) : State :=
  let one (s : State) (c : Ctrl) : State :=
    if Config.vendorEvents s.ctrls[c].asyncConfig then s.aerEvent c (ringEvent r) else s
  one (one s 0) 1

/-! ### Sources -/

/-- SOURCE_TYPE and SOURCE_NUMBER (Table 17-4). -/
def sourceCode : Source → Nat × Nat
  | .scheduler => (0x01, 0)
  | .powerManager => (0x02, 0)
  | .pewter => (0x03, 0)
  | .sterling => (0x04, 0)
  | .mgmt => (0x05, 0)
  | .hostPort c => (0x06, c.val)
  | .engine e => (0x10, e.val)
  | .quarterStore q => (0x11, q.val)
  | .stack k => (0x12, k.val)
  | .modelCache q => (0x13, q.val)
  | .bench b => (0x20, b.val)
  | .link d => (0x21, d.val)

def sevCode : Severity → Nat
  | .informational => 0
  | .corrected => 1
  | .degraded => 2
  | .failed => 3

def ringSize (r : Fin 37) : Nat := if r.val < 5 then 64 else 16

/-! ### The writer of a ring (R329 to R331) -/

/-- The order in which a writer takes the sources in turn. -/
def sourceRank (x : Source) : Nat := 65536 * (sourceCode x).1 + (sourceCode x).2

/-- The report a ring's writer takes next: the oldest of severity Failed, else the oldest of the next source in turn. -/
def State.nextReport (s : State) (r : Fin 37) : Option (Source × Nat × Report) :=
  let q := s.errors.queue.filter fun p => ringOf p.1 == r
  match q.find? fun p => p.2.2.sev == .failed with
  | some p => some p
  | none =>
    let after := match s.errors.served.find? fun p => p.1 == r.val with
      | some p => q.filter fun x => sourceRank x.1 > sourceRank p.2
      | none => []
    let cand := if after.isEmpty then q else after
    match (cand.map fun x => sourceRank x.1).min? with
    | none => none
    | some m => cand.find? fun x => sourceRank x.1 == m

/-- A report matches a record (R330). An Assay report never does, since each failing part writes its own record (R439). -/
def matchesRec (src : Source) (p : Report) (r : RingRec) : Bool :=
  r.source == src && p.kind != 0x22 &&
    match p.granule, r.granule with
    | some a, some b => a == b
    | none, none => p.kind == r.kind
    | _, _ => false

/-- Update the newest record that matches. -/
def updNewest (f : RingRec → RingRec) (m : RingRec → Bool) (l : List RingRec) : List RingRec :=
  (updFirst l.reverse m f).reverse

/-- EVENT_VECTOR and the asynchronous event of a record written or escalated (R334, R426). -/
def State.recordSignals (s : State) (r : Fin 37) (sev : Severity) : State :=
  let s := if s.errors.irqEn && s.errors.irqMin ≤ sevCode sev then s.signal else s
  if 2 ≤ sevCode sev then s.vendorEvent r.val else s

/-- One report reaches its ring: coalesced, escalated, written in a new slot, or lost. -/
def State.writeRecord (s : State) (r : Fin 37) (src : Source) (atUs : Nat) (p : Report) : State :=
  let g := s.errors.rings[r]
  match g.recs.reverse.find? (matchesRec src p) with
  | some old =>
    if sevCode p.sev ≤ sevCode old.sev then
      s.modRing r fun g =>
        { g with recs := updNewest (fun x => { x with repeats := satAdd 16 x.repeats 1 }) (matchesRec src p) g.recs }
    else
      let f (x : RingRec) : RingRec :=
        { x with sev := p.sev, escalated := true, repeats := satAdd 16 x.repeats 1, kind := p.kind,
                 granule := p.granule, body := p.body }
      (s.modRing r fun g => { g with recs := updNewest f (matchesRec src p) g.recs }).recordSignals r p.sev
  | none =>
    if (g.head - g.ack).toNat ≥ ringSize r then s.ringLost r
    else
      let x : RingRec :=
        { index := g.head.toNat, sev := p.sev, escalated := false, repeats := 0, source := src,
          uptimeMs := min (atUs / 1000) (2 ^ 32 - 1), kind := p.kind, granule := p.granule, body := p.body }
      (s.modRing r fun g => { g with head := g.head + 1, recs := g.recs ++ [x] }).recordSignals r p.sev

/-- Remove the first queued report equal to one. -/
def removeFirst {α : Type} [BEq α] (l : List α) (x : α) : List α :=
  match l with
  | [] => []
  | y :: ys => if y == x then ys else y :: removeFirst ys x

/-- The ring's writer takes one report (R329). -/
def doRecordWrite (ring : Fin 37) (s : State) : State :=
  match s.nextReport ring with
  | none => s
  | some p =>
    let q := removeFirst s.errors.queue p
    let s := { s with errors := { s.errors with queue := q, served := assocSet s.errors.served ring.val p.1 } }
    s.writeRecord ring p.1 p.2.1 p.2.2

def execErrorRecordWrite (ring : Fin 37) (s : State) : Out := .next (doRecordWrite ring s)

/-- A host write to ERR_RING_ACK (R332). -/
def doRingAck (ring : Fin 37) (v : Word32) (s : State) : State :=
  let g := s.errors.rings[ring]
  if (v - g.ack).toNat ≤ (g.head - g.ack).toNat then
    s.modRing ring fun g => { g with ack := v, recs := g.recs.drop (v - g.ack).toNat }
  else { s with errors := { s.errors with cfgBusy := true } }

def execErrRingAckWrite (ring : Fin 37) (v : Word32) (s : State) : Out := .next (doRingAck ring v s)

/-! ### CE and UE (R316, R319, R334) -/

/-- A space code of R170 with its unit. -/
def spaceOf (code unit : Nat) : Option Space :=
  match code with
  | 0 => if h : unit < 48 then some (.operand ⟨unit, h⟩) else none
  | 1 => if h : unit < 48 then some (.acc ⟨unit, h⟩) else none
  | 2 => if h : unit < 4 then some (.quarter ⟨unit, h⟩) else none
  | 3 => if h : unit < 512 then some (.sram ⟨unit, h⟩) else none
  | 4 => if unit == 0 then some .stacked else none
  | _ => none

def stackBytes : Nat := 77309411328

/-- The unit index u of a memory place; none for a space that has none (R334). -/
def unitIndex (space unit addr : Nat) : Option Nat :=
  if space == 0 && unit < 48 then some (28 + unit)
  else if space == 1 && unit < 48 then some (76 + unit)
  else if space == 2 && unit < 4 then some (24 + unit)
  else if space == 3 && unit < 512 then some (124 + unit)
  else if space == 4 && addr % 2 ^ 48 / stackBytes < 24 then some (addr % 2 ^ 48 / stackBytes)
  else if space == 8 then some 636
  else if space == 9 then some 637
  else none

/-- Count a CE and a UE against a unit, saturating (R334, R325). -/
def Errors.count (e : Errors) (u ce ue : Nat) : Errors :=
  let old := match e.units.find? fun p => p.1 == u with
    | some p => p.2
    | none => (0, 0)
  { e with
    units := assocSet e.units u (satAdd 16 old.1 ce, satAdd 16 old.2 ue), ceTotal := (e.ceTotal + ce) % 2 ^ 64,
    ueTotal := (e.ueTotal + ue) % 2 ^ 64, ueSeen := e.ueSeen || ue != 0,
    window := if ce == 0 then e.window else assocSet e.window u (lookupD e.window u 0 + ce) }

/-- CE_BURNISH of the Mold in force, 0 without one. -/
def State.ceBurnish (s : State) : Nat :=
  match s.theMold with
  | some m => m.ceBurnish
  | none => 0

/-- A unit whose count in the window has just reached CE_BURNISH is due for an automatic Burnish, with AUTO_EN at 1 (R325). -/
def Errors.reach (e : Errors) (n u : Nat) : Errors :=
  if n != 0 && lookupD e.window u 0 == n then { e with burnDue := insertNew e.burnDue u } else e

/-- A stacked granule is to be withheld: at once when nothing holds it, else when its holder releases it (R319). -/
def State.withhold (s : State) (g : Nat) : State :=
  if s.mem.stacked.valid.contains g then
    { s with mem := { s.mem with toWithhold := insertNew s.mem.toWithhold g } }
  else { s with mem := { s.mem with withheld := insertNew s.mem.withheld g } }

/-- Both copies of a dirty granule failed (R321): the home copy is reloaded, the changes are discarded, and for classes
1, 3 and 4 the objects of the Quarter whose reading ended after the last write-back return to PENDING. -/
def State.rebuildGranule (s : State) (g : Nat) : State :=
  match s.mem.dirty.find? fun d => d.granule == g with
  | none => s
  | some d =>
    let tails : List (BenchId × Tail) := (List.finRange 512).flatMap fun b =>
      (s.benches[b].tails.filter fun t => tailGranule b t.slot == g).map fun t => (b, t)
    let s := { s with mem := { s.mem with dirty := s.mem.dirty.filter fun x => x.granule != g } }.goBack [d] tails
    if d.cls == 2 || d.cls == 5 then s
    else
      let t := lookupD s.mem.writtenBack g 0
      let hit (o : Obj) : Bool :=
        quarterOfBench o.bench == d.quarter && o.readEndUs > t &&
          (o.state == .indexed || o.state == .partRead || o.state == .notRead)
      let s0 := s
      let objs := updWhere s.search.objs hit fun o => { o with state := .pending, handed := [], appended := s0.heldOf o.id }
      { s with search := { s.search with objs := objs } }

/-- A host MMIO read that meets a UE completes with EP = 1 and data of all ones (Table 13-3). -/
def State.poisonedRead (s : State) (r : Report) : State :=
  if r.kind == 0x21 && field r.body 3 1 == 8 then
    (s.emit (.readData (BitVec.allOnes 64))).emit (.poisonedTlp (if field r.body 19 1 == 1 then 1 else 0))
  else s

/-- A memory error met by a checker: counters, the poison a word keeps, the withholding of a stacked granule, a
rebuild, or the wait for a reload (R316 to R321). -/
def State.memoryError (s : State) (r : Report) : State :=
  if r.kind == 0x20 || r.kind == 0x21 then
    let space := field r.body 0 1
    let addr := field r.body 7 8
    match unitIndex space (field r.body 1 2) addr with
    | none => s
    | some u =>
      let ue := r.kind == 0x21
      let s := { s with errors := (s.errors.count u (if ue then 0 else 1) (if ue then 1 else 0)).reach (if ue || !s.burnish.autoEn then 0 else s.ceBurnish) u }
      let s := match spaceOf space (field r.body 1 2), field r.body 4 1 with
        | some sp, 10 => { s with mem := { s.mem with
            poisoned := insertNew s.mem.poisoned { space := sp, off := addr % 2 ^ 48 - addr % 8 } } }
        | _, _ => s
      if ue && space == 4 then
        let g := addr % 2 ^ 48 / stackGranule
        let s := s.withhold g
        if field r.body 4 1 == 5 then s.rebuildGranule g
        else if field r.body 4 1 == 3 then { s with mem := { s.mem with
            reloading := if s.mem.reloading.any fun p => p.1 == g then s.mem.reloading else s.mem.reloading ++ [(g, s.clockUs)] } }
        else s
      else s
  else s

/-- A source reports (R329); a memory error is counted first. -/
def execErrorReport (src : Source) (r : Report) (s : State) : Out := .next (((s.memoryError r).poisonedRead r).report src r)

/-! ### Burnish (R322 to R325) -/

/-- Space, unit, offset and length that a BURNISH names; none where R322 refuses it. -/
def burnRange (e : Sqe) : Option (Nat × Nat × Nat × Nat) :=
  let d := e.cdw10.toNat
  let off := e.cdw11.toNat + 2 ^ 32 * e.cdw12.toNat
  let len := e.cdw13.toNat + 2 ^ 32 * e.cdw14.toNat
  let sp := bits d 3 0
  let u := bits d 19 8
  if bits d 7 4 != 0 || bits d 31 20 != 0 || e.cdw15 != 0 || off % 65536 != 0 || len % 65536 != 0 then none
  else
    match spaceOf sp u with
    | none => none
    | some x =>
      if off + len > spaceCapacity x || off ≥ spaceCapacity x then none
      else some (sp, u, off, if len == 0 then spaceCapacity x - off else len)

/-- The lowest free host slot. -/
def State.freeBurnSlot (s : State) : Option (Fin 4) := (List.finRange 4).find? fun i => s.burnish.slots[i].isNone

/-- BURNISH (R322). -/
def doBurnish (e : Sqe) (s : State) : State :=
  match burnRange e with
  | none => s.refuse e.key scInvalidField
  | some (sp, u, off, len) =>
    match s.freeBurnSlot with
    | none => ({ s with burnish := { s.burnish with cfgBusy := true } }).refuse e.key scCfgBusy
    | some i =>
      let b : BurnSlot :=
        { sqe := e, space := sp, unit := u, offset := off, length := len, progress := 0, startUs := s.clockUs }
      { s with burnish := { s.burnish with slots := s.burnish.slots.set i (some b) } }

def execBurnish (e : Sqe) (s : State) : Out := .next (doBurnish e s)

/-- Granules of a range that hold a valid line or granule. -/
def validGranules (m : Store) (line off len : Nat) : Nat :=
  ((m.valid.filter fun l => off ≤ l * line && l * line < off + len).map fun l => l * line / 65536).eraseDups.length

/-- Valid granules that a Burnish of a range reads. -/
def State.burnRead (s : State) (sp u off len : Nat) : Nat :=
  match spaceOf sp u with
  | some x => validGranules (s.store x) (spaceLine x) off len
  | none => 0

/-- Withheld granules of a range. -/
def State.withheldIn (s : State) (sp off len : Nat) : List Nat :=
  if sp == 4 then s.mem.withheld.filter fun g => off ≤ 65536 * g && 65536 * g < off + len else []

/-- Poisoned words of a range that a Burnish reads. -/
def State.poisonedIn (s : State) (sp u off len : Nat) : List TierAddr :=
  match spaceOf sp u with
  | some x => s.mem.poisoned.filter fun p => p.space == x && s.validAt p && off ≤ p.off && p.off < off + len
  | none => []

/-- The first of two places, where there is one. -/
def leastOf : Option Nat → Option Nat → Option Nat
  | some a, some b => some (min a b)
  | some a, none => some a
  | none, b => b

/-- What a Burnish of a range finds: no error where no granule is valid, as all are in the Blank state (R30, R171); else the
errors of its cells and the words that were left poisoned. It tests the withheld granules of the range, and returns or
withholds none outside it (R323). -/
def State.burnFound (s : State) (sp u off len : Nat) (f : BurnishFindings) : BurnishFindings :=
  let w := s.withheldIn sp off len
  let f := { f with
    tested := w.length, returned := f.returned.filter w.contains
    newWithheld := if sp == 4 then f.newWithheld.filter fun g => off ≤ 65536 * g && 65536 * g < off + len else [] }
  if s.burnRead sp u off len == 0 then { f with ceFixed := 0, ueFound := 0, firstUe := none }
  else
    let known := s.poisonedIn sp u off len
    let unit := if sp == 4 then 0 else u
    let first := ((known.map fun p => p.off).min?).map fun o => 2 ^ 60 * sp + 2 ^ 48 * unit + o
    { f with ueFound := f.ueFound + known.length, firstUe := leastOf first f.firstUe }

/-- Burnish summary (Table 13-4). -/
def State.burnSummary (s : State) (auto : Bool) (sp u off len startUs : Nat) (f : BurnishFindings) : List Byte :=
  let rd := s.burnRead sp u off len
  le 1 0x23 ++ le 1 sp ++ le 2 u ++ le 1 (b2n auto) ++ le 3 0 ++ le 4 rd ++ le 4 (cdiv len 65536 - rd) ++
    le 4 f.ceFixed ++ le 4 f.ueFound ++ le 8 (f.firstUe.getD (2 ^ 64 - 1)) ++ le 2 f.tested ++
    le 2 f.returned.length ++ le 2 f.newWithheld.length ++ le 2 0 ++ le 4 (s.clockUs - startUs) ++ le 4 0 ++ le 8 off ++
    le 8 len

/-- Counters and withheld granules after a pass; a granule that is held is withheld once it is released (R319, R323). -/
def State.burnEffects (s : State) (f : BurnishFindings) : State :=
  let ret := f.returned.filter s.mem.withheld.contains
  let s := { s with mem := { s.mem with withheld := s.mem.withheld.filter fun g => !ret.contains g } }
  let s := f.newWithheld.foldl State.withhold s
  { s with
    burnish := { s.burnish with
      passes := (s.burnish.passes + 1) % 2 ^ 64, ceFixed := (s.burnish.ceFixed + f.ceFixed) % 2 ^ 64,
      ueFound := (s.burnish.ueFound + f.ueFound) % 2 ^ 64, returned := satAdd 32 s.burnish.returned ret.length } }

/-- Space, unit, offset, length and source of a memory unit that an automatic Burnish covers. -/
def burnUnit (u : Nat) : Option (Nat × Nat × Nat × Nat × Source) :=
  if h : u < 24 then some (4, 0, stackBytes * u, stackBytes, .stack ⟨u, h⟩)
  else if h : u - 24 < 4 then some (2, u - 24, 0, 100663296, .quarterStore ⟨u - 24, h⟩)
  else if h : u - 28 < 48 then some (0, u - 28, 0, 25165824, .engine ⟨u - 28, h⟩)
  else if h : u - 76 < 48 then some (1, u - 76, 0, 4194304, .engine ⟨u - 76, h⟩)
  else if h : u - 124 < 512 then some (3, u - 124, 0, 2097152, .bench ⟨u - 124, h⟩)
  else none

/-- The Bench SRAM of a unit is held for C0 sweeps: a Burnish there, C3 work, waits (R323, R438). -/
def State.burnHeld (s : State) (sp u : Nat) : Bool := sp == 3 && s.sched.benchHolds.any fun h => h.1.val == u

/-- A Burnish ends: its summary to the host, or its record (R324, R325). -/
def doBurnishComplete (r : BurnishRef) (f : BurnishFindings) (s : State) : State :=
  match r with
  | .slot i =>
    match s.burnish.slots[i] with
    | none => s
    | some b =>
      if s.burnHeld b.space b.unit then s else
      let f := s.burnFound b.space b.unit b.offset b.length f
      let sum := s.burnSummary false b.space b.unit b.offset b.length b.startUs f
      let s := s.burnEffects f
      let s := { s with burnish := { s.burnish with slots := s.burnish.slots.set i none } }
      s.success b.sqe.key 0 0 sum
  | .auto u =>
    match s.burnish.autos.find? (fun p => p.1 == u), burnUnit u with
    | some p, some (sp, n, off, len, src) =>
      if s.burnHeld sp n then s else
      let f := s.burnFound sp n off len f
      let sum := s.burnSummary true sp n off len p.2 f
      let s := s.burnEffects f
      let s := { s with burnish := { s.burnish with autos := s.burnish.autos.filter fun q => q.1 != u } }
      s.report src { sev := if f.ueFound == 0 then .informational else .degraded, kind := 0x23, granule := none,
                     body := (sum.take 48).drop 1 }
    | _, _ => s

def execBurnishComplete (r : BurnishRef) (f : BurnishFindings) (s : State) : Out := .next (doBurnishComplete r f s)

/-- A window of 1,000 Strokes begins at a multiple of 1,000 (R325). -/
def doCeWindowStart (s : State) : State :=
  if s.gridRuns && s.grid.stroke % 1000 == 0 then { s with errors := { s.errors with window := [] } } else s

def execCeWindowStart (s : State) : Out := .next (doCeWindowStart s)

/-- An automatic Burnish of a whole unit starts (R325). -/
def doAutoBurnishStart (u : Nat) (s : State) : State :=
  match s.theMold with
  | none => s
  | some m =>
    if s.burnish.autoEn && s.gridRuns && m.ceBurnish != 0 && s.errors.burnDue.contains u &&
        (burnUnit u).isSome then
      let s := { s with errors := { s.errors with burnDue := s.errors.burnDue.filter fun x => x != u } }
      if s.burnish.autos.any fun p => p.1 == u then s
      else { s with burnish := { s.burnish with autos := s.burnish.autos ++ [(u, s.clockUs)] } }
    else s

def execAutoBurnishStart (u : Nat) (s : State) : Out := .next (doAutoBurnishStart u s)

end Sys2Proof.Machine
end

