-- ==== Sys2Proof/Machine/JobOps.lean ====
section
/-! DEFINITION. What jobs share: pins, scratch, semaphores, teardown, faults, Quench, and the answer head
(chapters 3, 7 and 8). -/

namespace Sys2Proof.Machine

/-! ### Classes of work, charging and credits (R77, R89, R93) -/

def benchRes (b : BenchId) : Nat := 48 + b.val

/-- A generation job has prefill chunks of 8,192 tokens left (R93). -/
def Job.prefilling (j : Job) : Bool := j.kind == .operator 0x03 && j.passes < cdiv j.tokens 8192

/-- A generation job whose passes are decode steps. -/
def Job.decoding (j : Job) : Bool := j.kind == .operator 0x03 && !j.prefilling

/-- Class of the work that a job has ready: prefill chunks are C2, decode steps C1 (R93). -/
def Job.workCls (j : Job) : Nat := if j.prefilling then 2 else j.cls

/-- Nearest integer to n/8, ties to even. -/
def eighths (n : Nat) : Nat :=
  let q := n / 8
  let r := n % 8
  if r < 4 || (r == 4 && q % 2 == 0) then q else q + 1

/-- Effective weight of a job (R76). -/
def effective (m : Mold) (j : Job) : Nat :=
  let c := m.cls j.cls
  max c.minW (min c.maxW (eighths (j.weight * j.f8)))

/-- Time a job has occupied a resource in the Stroke in progress. -/
def State.charge (s : State) (k : Key) (res us : Nat) : State :=
  match s.job k with
  | none => s
  | some j =>
    if us == 0 then s
    else
      let u : Use := { key := some k, cls := j.workCls, shop := j.shop, weight := j.effWeight, res := res, us := us }
      let s := { s with sched := { s.sched with usage := s.sched.usage ++ [u] } }
      s.modJob k fun j =>
        if res < 48 then { j with pendEngineUs := j.pendEngineUs + us } else { j with pendBenchUs := j.pendBenchUs + us }

/-- The number that stands for no Shop: C3 media work and write-back belong to none, and no account takes their time. -/
def moduleShop : Nat := 8

/-- A QUERY, a JOB_SUBMIT or none: the media reads of an OBJ_GET are no job that JOB_STATUS names. -/
def Job.isJob (j : Job) : Bool :=
  match j.kind with
  | .objGet _ => false
  | .query | .operator _ => true

/-- Time that work of a class and a Shop, of no job, has occupied a resource (R73). -/
def State.chargeWork (s : State) (cls shop res us : Nat) : State :=
  if us == 0 then s
  else { s with sched := { s.sched with
    usage := s.sched.usage ++ [{ key := none, cls := cls, shop := shop, weight := 0, res := res, us := us }] } }

/-- The job of an Engine is charged up to now, for its run and for the save or the load of its context (R77). -/
def State.chargeRun (s : State) (e : EngineId) : State :=
  match s.engines[e].job with
  | none => s
  | some (k, _) =>
    let x := s.engines[e]
    let runs := x.state == .running
    if !runs && x.state != .saving && x.state != .restoring then s
    else
      let now := s.clockUs
      let us := now - x.since
      (s.charge k e.val us).modEngine e fun x =>
        { x with since := now, ctx := { x.ctx with ran := x.ctx.ran + if runs then us else 0 } }

/-- The job whose operator runs on a Bench is charged up to now. -/
def State.chargeBench (s : State) (b : BenchId) : State :=
  match s.benches[b].job with
  | none => s
  | some k =>
    let now := s.clockUs
    let us := now - s.benches[b].since
    (s.charge k (benchRes b) us).modBench b fun x => { x with since := now, ran := x.ran + us }

/-- What a job occupies is charged up to now. -/
def State.chargeJob (s : State) (k : Key) : State :=
  let es := (List.finRange 48).filter fun e => (s.engines[e].job.map fun p => p.1) == some k
  let bs := (List.finRange 512).filter fun b => s.benches[b].job == some k
  bs.foldl State.chargeBench (es.foldl State.chargeRun s)

/-- A job takes a link or fabric credit. -/
def State.takeCredit (s : State) (k : Key) (res : Nat) : State :=
  { s with sched := { s.sched with credits := s.sched.credits ++ [{ key := k, res := res }] } }

/-- One credit goes back to the pool. -/
def State.returnCredit (s : State) (k : Key) (res : Nat) : State :=
  { s with sched := { s.sched with credits := s.sched.credits.erase { key := k, res := res } } }

/-- Every credit that a test picks goes back to the pool. -/
def State.returnCredits (s : State) (p : Credit → Bool) : State :=
  { s with sched := { s.sched with credits := s.sched.credits.filter fun c => !p c } }

/-- A C0 command that completes without the promise is counted once (R83, R84). -/
def State.markUnbound (s : State) (k : Key) : State :=
  match s.job k with
  | none => s
  | some j =>
    if j.cls != 0 || j.unbound then s
    else { s with sched := { s.sched with unbound := satAdd 32 s.sched.unbound 1 } }.modJob k fun j => { j with unbound := true }

/-- A Bench takes no lower-class work: it is kept free until its C0 sweeps have begun (R438), or the module is in PS4, where C2
and C3 work stop (Table 15-13). -/
def State.benchKept (s : State) (b : BenchId) : Bool := s.power.state == 4 || s.sched.benchHolds.any fun h => h.1 == b

/-- Time for which an open command has waited on refetches and reloads, the wait in progress too (R87). -/
def State.npWaited (s : State) (e : EngineId) : Nat :=
  let since := s.cache.toList.flatMap fun c => c.refetching.flatMap fun r => (r.waiters.filter fun w => w.1 == e).map Prod.snd
  s.engines[e].ctx.npWait + (since.map fun t => s.clockUs - max t s.engines[e].ctx.npStart).foldl max 0

/-! ### KV pages (R190, R191) -/

/-- Fixed ranges in force, or with those that a Recast on its way adds at its apply boundary (R437). -/
def MoldBlock.ranges (b : MoldBlock) : List WorldEntry :=
  match b.recast with
  | some r => if r.ranges.isEmpty then b.fixedRanges else r.ranges
  | none => b.fixedRanges

/-- Length of a page in bytes (R190). -/
def KvPage.bytes (p : KvPage) : Nat := 512 + 1024 * p.heads + 2 * (p.heads * 256 * (32 * p.dim32))

/-- Byte ranges of the pages that jobs hold: start and length. -/
def State.kvSpans (s : State) : List (Nat × Nat) := s.sched.jobs.flatMap fun j => j.kv.map fun p => (512 * p.line, p.bytes)

/-- World granules of stacked memory that hold a KV page, as (stack, first, count) (R40, R437). -/
def State.kvRanges (s : State) : List (Nat × Nat × Nat) :=
  s.kvSpans.flatMap fun p =>
    (List.range (cdiv (p.1 % 2097152 + p.2) 2097152)).map fun i =>
      let g := p.1 / 2097152 + i
      (g / 36864, g % 36864, 1)

/-! ### Scratch and Anneal (R173) -/

/-- Clear the valid bits of one 64 KiB granule of a space. -/
def State.clearGranule (s : State) (sp : Space) (g : Nat) : State :=
  s.setStore sp ((s.store sp).invalidate (spaceLine sp) fun l => l * spaceLine sp / 65536 == g)

/-- Stacked granules that wait for their holder go out of allocation once it releases them (R319). -/
def State.releaseGranules (s : State) (gs : List Nat) : State :=
  let out := s.mem.toWithhold.filter gs.contains
  { s with mem := { s.mem with
      toWithhold := s.mem.toWithhold.filter fun g => !gs.contains g
      withheld := s.mem.withheld ++ out.filter fun g => !s.mem.withheld.contains g } }

/-- The stacked granules among a list of scratch granules. -/
def stackedOf (l : List (Space × Nat)) : List Nat := (l.filter fun p => p.1 == Space.stacked).map fun p => p.2

/-- Anneal of a job's scratch granules. -/
def State.annealScratch (s : State) (l : List (Space × Nat)) : State :=
  (l.foldl (fun s p => s.clearGranule p.1 p.2) s).releaseGranules (stackedOf l)

/-- Anneal of the whole module: every valid and dirty bit, every cache object. A poisoned word in an invalid line reads
zero through no checker (R316), so its poison ends with it. -/
def State.annealAll (s : State) : State :=
  { s with
    mem := { s.mem with
      stacked := Store.empty, quarter := Vector.replicate 4 Store.empty, sram := Vector.replicate 512 Store.empty,
      dirty := [], poisoned := [], reloading := [], withheld := [], toWithhold := [] }
    engines := s.engines.map fun e =>
      { e with ctx := EngineCtx.fresh, resident := none, drain := [], vec := [], xfers := [], saved := [], tsBuffer := [], locals := [] }
    cache := s.cache.map fun c => { c with objs := [], staging := [], refetching := [], waiting := [], dirtyWait := [] } }

/-! ### Pins (R184, R187) -/

def CacheObj.pinned (o : CacheObj) : Bool := !o.pins.isEmpty || o.promoting

/-- Granules that hold decoded copies of a Quarter. -/
def ModelCache.hotGranules (c : ModelCache) : List Nat := c.objs.flatMap fun o => o.hotAt.map fun p => p.2

/-- Stacked granules that hold STAGED copies of a Quarter. -/
def ModelCache.stagedGranules (c : ModelCache) : List Nat :=
  c.objs.flatMap (fun o => o.stagedAt.map fun p => p.2) ++ c.staging.flatMap Staging.granules

/-- A Quarter's model cache changes: the lines of decoded copies it no longer holds become invalid (Table 7-5), and stacked
granules it gives up go out of allocation where they wait for it (R319). -/
def State.recache (s : State) (q : QuarterId) (f : ModelCache → ModelCache) : State :=
  let c := s.cache[q]
  let d := f c
  let hot := c.hotGranules.filter fun g => !d.hotGranules.contains g
  let staged := c.stagedGranules.filter fun g => !d.stagedGranules.contains g
  let s := s.modCache q fun _ => d
  (hot.foldl (fun s g => s.clearGranule (.quarter q) g) s).releaseGranules staged

/-- Objects of an Ingot that is being dropped become ABSENT once nothing pins them (R187). -/
def State.dropUnpinned (s : State) (dead : Nat → Bool) : State :=
  let f (c : ModelCache) : ModelCache :=
    { c with objs := c.objs.filter fun o => !(dead o.id.ingot.toNat && !o.pinned) }
  (List.finRange 4).foldl (fun s q => s.recache q f) s

/-- Ingots in DROPPING. -/
def State.dropping (s : State) (i : Nat) : Bool := s.ingots.any fun g => g.id == i && g.state == .dropping

/-- Release the pins a test picks, in every Quarter. -/
def State.unpin (s : State) (p : Key × Nat → Bool) : State :=
  let f (c : ModelCache) : ModelCache :=
    { c with
      objs := c.objs.map fun o => { o with pins := o.pins.filter fun x => !p x }
      waiting := c.waiting.filter fun x => !p (x.key, x.unit) }
  ({ s with cache := s.cache.map f }).dropUnpinned s.dropping

/-! ### Semaphores (R88, R207) -/

/-- A semaphore's record; one not listed is free and not broken. -/
def State.sem (s : State) (shop num : Nat) : Sem :=
  match s.sched.sems.find? fun x => x.shop == shop && x.num == num with
  | some x => x
  | none => { shop := shop, num := num, holder := none, broken := false, waiters := [] }

def State.setSem (s : State) (x : Sem) : State :=
  { s with sched := { s.sched with
      sems := (s.sched.sems.filter fun y => !(y.shop == x.shop && y.num == x.num)) ++ [x] } }

/-- Every semaphore of a job is released marked broken, and the job waits for none (R90). -/
def State.breakSems (s : State) (k : Key) : State :=
  let f (x : Sem) : Sem :=
    let x := { x with waiters := x.waiters.filter fun w => w.1 != k }
    if x.holder == some k then { x with holder := none, broken := true } else x
  { s with sched := { s.sched with sems := s.sched.sems.map f } }

/-! ### Teardown (R90) -/

/-- A job leaves an Engine: its active and saved contexts go, a save in progress is discarded. -/
def Engine.dropJob (k : Key) (e : Engine) : Engine :=
  let e := { e with saved := e.saved.filter fun c => c.key != k, locals := e.locals.filter fun l => l.key != k }
  let e := if e.resident == some k then { e with ctx := EngineCtx.fresh, resident := none } else e
  match e.job with
  | some (k', _) =>
    if k' == k then
      { e with job := none, ctx := EngineCtx.fresh, drain := [], vec := [], xfers := [], tsBuffer := [],
               wanted := none, state := if e.state == .failed || e.state == .off then e.state else .idle }
    else e
  | none => e

def Bench.dropJob (k : Key) (b : Bench) : Bench :=
  if b.job == some k then
    { b with job := none, state := if b.state == .failed || b.state == .off then b.state else .idle }
  else b

/-- Cache objects that a unit of a job pins or waits for, once for each pin (R184). -/
def State.pinsOf (s : State) (k : Key) (u : Nat) : List CacheId :=
  s.cache.toList.flatMap fun c =>
    c.objs.flatMap (fun o => (o.pins.filter fun p => p == (k, u)).map fun _ => o.id) ++
      (c.waiting.filter fun w => w.key == k && w.unit == u && !(c.objs.any fun o => o.id == w.id)).map CacheWait.id

/-- The part of a unit that an Engine runs. -/
def State.partOn (s : State) (e : EngineId) (k : Key) (u : Nat) : Part :=
  match s.job k with
  | none => Part.whole
  | some j => match j.placed.find? fun p => p.unit == u && p.engine == some e with
    | some p => p.part
    | none => Part.whole

/-- A job's context leaves an Engine and is saved (R118): its pins go, and the job is suspended once it runs nowhere. -/
def State.saveEngine (s : State) (e : EngineId) : State :=
  match s.engines[e].job with
  | none => s
  | some (k, u) =>
    let pins := s.pinsOf k u
    let part := s.partOn e k u
    let s := (s.chargeRun e).returnCredits fun c => c.key == k && c.res == e.val
    let s := s.modEngine e fun x =>
      { x with saved := x.saved ++ [{ key := k, unit := u, part := part, sterling := x.sterling, ctx := x.ctx, pins := pins }]
               job := none
               ctx := EngineCtx.fresh, drain := [], vec := [], xfers := [], tsBuffer := [], state := .idle, wanted := none }
    let s := s.unpin fun p => p == (k, u)
    let runs := s.engines.toList.any (fun x => match x.job with
      | some (k', _) => k' == k
      | none => false) || s.benches.toList.any fun x => x.job == some k
    s.modJob k fun j =>
      { j with placed := j.placed.filter fun p => !(p.unit == u && p.engine == some e)
               state := if j.state == .running && !runs then .suspended else j.state }

/-- A job's part in the sweeps ends. -/
def State.leaveSweeps (s : State) (k : Key) : State :=
  let f (w : Sweep) : Sweep :=
    { w with queries := w.queries.filter fun q => q != k, survivors := w.survivors.filter fun q => q.1 != k
             counts := w.counts.filter fun q => q.1 != k }
  { s with search := { s.search with sweeps := (s.search.sweeps.map f).filter fun w => !w.queries.isEmpty } }

/-- A job that ends without publishing abandons its token, and a CALIBRATE returns its Collection to UNCALIBRATED
(R211, R239). -/
def State.abandonTokens (s : State) (k : Key) : State :=
  let f (t : Token) : Token := if t.owner == k && t.epoch.isNone then { t with abandoned := true } else t
  let s := { s with search := { s.search with tokens := s.search.tokens.map f } }
  match s.job k with
  | none => s
  | some j =>
    match j.kind, j.coll with
    | .operator 0x06, some c => s.modColl c fun x =>
        if x.state == CollState.calibrating then { x with state := .uncalibrated } else x
    | _, _ => s

/-- Everything a teardown does; the job stays in TEARDOWN until its completion is posted. -/
def State.teardown (s : State) (k : Key) : State :=
  match s.job k with
  | none => s
  | some j =>
    let s := (s.chargeJob k).returnCredits fun c => c.key == k
    let s := { s with engines := s.engines.map (Engine.dropJob k), benches := s.benches.map (Bench.dropJob k) }
    let s := ((s.unpin fun p => p.1 == k).breakSems k).annealScratch j.scratch
    let s := (s.leaveSweeps k).abandonTokens k
    let s := { s with sched := { s.sched with arrivalHolds := s.sched.arrivalHolds.filter fun h => h.1 != k } }
    s.modJob k fun j =>
      { j with
        state := .teardown, placed := [], partEnds := [], quenching := false, scratch := [], benchesLeft := [], benchSaved := [] }

/-- A job that no longer exists: its pins go, and the granules it held are released. -/
def State.endJob (s : State) (k : Key) : State :=
  match s.job k with
  | none => s
  | some j =>
    let s := s.returnCredits fun c => c.key == k
    let s := { s with engines := s.engines.map (Engine.dropJob k), benches := s.benches.map (Bench.dropJob k) }
    ((s.unpin fun p => p.1 == k).releaseGranules (stackedOf j.scratch)).dropJob k

/-! ### The answer (R208, Table 8-8) -/

/-- HIT_STRIDE of a job's answer: from the release schema of its Collection, 16 without one. -/
def State.hitStride (s : State) (j : Job) : Nat :=
  match s.theMold, j.coll with
  | some m, some c =>
    match m.coll c with
    | some e =>
      match m.schemas.find? fun x => x.id == e.schema with
      | some x => cdiv x.maxHit 8 * 8
      | none => 16
    | none => 16
  | _, _ => 16

def opCode : JobKind → Nat
  | .query => 0
  | .operator c => c
  | .objGet _ => 0

/-- The 64-byte answer head. -/
def State.answerHead (s : State) (j : Job) (sct sc : Nat) (partialAnswer truncated cut : Bool) (hits : Nat) : List Byte :=
  le 2 (sc + 256 * sct) ++ le 1 (opCode j.kind) ++
    le 1 (b2n partialAnswer + 2 * b2n truncated + 4 * b2n cut) ++ le 4 hits ++ le 2 (s.hitStride j) ++ le 2 0 ++
    le 4 j.candidates ++ le 4 j.skipped ++ le 4 j.overflows ++ le 8 j.snapshot ++ le 8 j.output ++ le 8 (j.engineUs + j.pendEngineUs) ++
    le 8 (j.benchUs + j.pendBenchUs) ++ le 4 j.legacySat ++ le 2 j.brokenSems ++ le 2 0

/-! ### The bound of a C0 command (R85) -/

/-- A C0 command completes: the boundaries since its admission; late after its bound while every condition held. -/
def State.c0Finish (s : State) (j : Job) : State :=
  if j.cls != 0 || j.state == .waiting then s
  else
    let n := s.grid.stroke - j.admitStroke
    let s := { s with sched := { s.sched with worst := max s.sched.worst (min n 255) } }
    match s.theMold with
    | some m =>
      if !j.unbound && m.env.bound ≤ n then
        { s with sched := { s.sched with late := satAdd 32 s.sched.late 1 } }.reportGeneral .scheduler .degraded 0x41 0 0 n
          (some j.key) 0
      else s
    | none => s

/-! ### Faults (R90) -/

/-- What the record of a fault says beside its status: the Engine's reason (Table 4-10), and the tags of a skew. -/
structure FaultNote where
  reason : Nat
  skew : Option Skew
  deriving DecidableEq, Repr

def FaultNote.none : FaultNote := { reason := 0, skew := Option.none }

/-- Body of a JOB_FAULT record (Tables 17-5 and 17-6): DETAIL is the reason of an Engine fault; a skew has the tags expected
and found in VALUE and its operand and block index in the first two reserved bytes (R116, R143, log 132). -/
def State.faultBody (s : State) (k : Key) (sc : Nat) (n : FaultNote) : List Byte :=
  let (v, o, b) := match n.skew with
    | some x => (x.expected + 65536 * x.found, x.operand, x.block)
    | none => (0, 0, 0)
  le 1 n.reason ++ le 2 sc ++ le 4 v ++ le 2 k.cid.toNat ++ le 2 k.sqid ++ le 1 k.ctrl.val ++ le 1 o ++ le 1 b ++ le 1 0 ++
    le 8 0 ++ le 8 s.strokeNow ++ le 16 0

/-- A job faults with a status: teardown, the record of the source, the completion with the head alone. -/
def State.faultJobNoted (s : State) (k : Key) (sc : Nat) (src : Source) (n : FaultNote) : State :=
  match s.job k with
  | none => s
  | some j =>
    let s := (s.teardown k).c0Finish j
    let s := s.report src { sev := .degraded, kind := 0x40, granule := none, body := s.faultBody k sc n }
    let s := match s.theMold with
      | some m =>
        if m.faultScope == 1 then { s with sched := { s.sched with noAdmit := insertNew s.sched.noAdmit j.shop } } else s
      | none => s
    let s := match j.kind with
      | .objGet _ => s.refuse k sc
      | .query | .operator _ => s.status k sc 64 0 (s.answerHead j 7 sc false false false 0)
    s.dropJob k

/-- A job faults where the record names no reason of an Engine. -/
def State.faultJob (s : State) (k : Key) (sc : Nat) (src : Source) : State := s.faultJobNoted k sc src FaultNote.none

/-! ### Reasons of reading that is put off (Table 10-5) -/

/-- READ_REASON of an absent key. -/
def reasonKeyAbsent : Nat := 1

/-- READ_REASON of an Ingot that is not READY, poisoned or unsigned. -/
def reasonIngot : Nat := 3

/-- READ_REASON of a Plate Bench. -/
def reasonPlateBench : Nat := 4

/-! ### Quench (R91, R390) -/

/-- A job that a Quench may stop: not in RELEASING or TEARDOWN, where its completion wins (R25, R209). -/
def Job.quenchable (j : Job) : Bool := !(j.state == .releasing || j.state == .teardown)

/-- The jobs that the fields of SCH_QUENCH [31:0] name. -/
def State.quenchTargets (s : State) (v : Nat) : List Key :=
  let js := s.sched.jobs.filter fun j => j.quenchable &&
    (if bit v 28 then j.shop == bits v 31 29
     else j.key.cid.toNat == bits v 15 0 && j.key.sqid == bits v 26 16 && j.key.ctrl.val == bits v 27 27)
  js.map fun j => j.key

/-- A Quench is taken: the jobs it names stop at their next pre-emption points; one that names none counts a miss. -/
def State.takeQuench (s : State) (v : Nat) : State :=
  let ks := s.quenchTargets v
  if ks.isEmpty then { s with sched := { s.sched with quenchMiss := satAdd 32 s.sched.quenchMiss 1 } }
  else ks.foldl (fun s k => s.modJob k fun j => { j with quenching := true }) s

/-- Every job of a controller is quenched (R29, R384). -/
def State.quenchController (s : State) (c : Ctrl) : State :=
  { s with sched := { s.sched with
      jobs := updWhere s.sched.jobs (fun j => j.key.ctrl == c && j.quenchable) fun j => { j with quenching := true } } }

/-- SCH_QUENCH by posted write (R390). -/
def execSchQuenchWrite (v : Word64) (s : State) : Out := .next (s.takeQuench (v.toNat % 2 ^ 32))

/-- The admin command QUENCH (R390): refused while no Mold is in force, else completed with the commands matched. -/
def doQuench (e : Sqe) (s : State) : State :=
  if s.theMold.isNone then s.refuse e.key scInvalidField
  else
    let n := (s.quenchTargets e.cdw10.toNat).length
    (s.takeQuench e.cdw10.toNat).success e.key n 0 []

def execQuench (e : Sqe) (s : State) : Out := .next (doQuench e s)

end Sys2Proof.Machine
end

