-- ==== Sys2Proof/Machine/MediaOps.lean ====
section
/-! DEFINITION. The blocks of a Bench's NAND, the pages that its maps name, and how a page reaches flash: SLC roles,
stripes, rounds, and the taking of erased blocks (R265 to R271, R276, R279 to R283). -/

namespace Sys2Proof.Machine

/-! ### Blocks (R265, R266, R283) -/

/-- Blocks of a plane that belong to the SLC region at start of life (Table 11-2); which numbers they are is the model's
choice (log 28). -/
def slcPerPlane : Nat := 96
def blocksPerPlane : Nat := 2731

/-- A block without a history: FREE and never erased. -/
def freshBlock (i : BlockId) : Block :=
  { id := i, state := .free, slc := i.block < slcPerPlane, erases := 0, reads := 0, good := 0, next := 0, role := 0,
    worn := false }

def Flash.dieDead (f : Flash) (die : Nat) : Bool := f.failedDies.any fun d => d.val == die

/-- A block by its place; every block of a failed die is retired (R273). -/
def Flash.blk (f : Flash) (i : BlockId) : Block :=
  match f.blocks.find? fun b => b.id == i with
  | some b => b
  | none => if f.dieDead i.die.val then { freshBlock i with state := .retired } else freshBlock i

def Flash.setBlk (f : Flash) (b : Block) : Flash :=
  { f with blocks := (f.blocks.filter fun x => x.id != b.id) ++ [b] }

def Flash.modBlk (f : Flash) (i : BlockId) (g : Block → Block) : Flash := f.setBlk (g (f.blk i))

/-- Rows of a block in its mode (Table 11-1). -/
def Block.rows (b : Block) : Nat := if b.slc then 384 else 1536

def onPlane (die plane : Nat) (b : Block) : Bool := b.id.die.val == die && b.id.plane.val == plane

/-- FREE of a die-plane: its erased QLC blocks (R281). -/
def Flash.freeOn (f : Flash) (die plane : Nat) : Nat :=
  if f.dieDead die then 0
  else
    blocksPerPlane - slcPerPlane -
      (f.blocks.filter fun b => onPlane die plane b && (if b.slc then b.state == .retired else b.state != .free)).length

/-- The least FREE over the die-planes of the dies that have not failed. -/
def Flash.minFree (f : Flash) : Nat :=
  let live := (List.range 32).filter fun σ => !f.dieDead (σ % 8)
  ((live.map fun σ => f.freeOn (σ % 8) (σ / 8)).min?).getD 0

/-- Roles of Table 11-9. -/
def roleFlush : Nat := 1
def roleJournal : Nat := 2
def roleAppend : Nat := 3
def roleStaging : Nat := 4

/-- Blocks of a role per die-plane (Table 11-9). -/
def rolePerPlane (role : Nat) : Nat := if role == roleAppend then 16 else if role == roleStaging then 76 else 2

/-- Blocks of a role that are not erased. -/
def Flash.roleUsed (f : Flash) (role : Nat) (p : Block → Bool) : Nat :=
  (f.blocks.filter fun b => b.role == role && b.state != .free && b.state != .retired && p b).length

/-- Erased blocks of a role left to the Bench; the dies that have failed have none. -/
def Flash.roleFree (f : Flash) (role : Nat) : Nat :=
  (32 - 4 * f.failedDies.length) * rolePerPlane role - f.roleUsed role fun b => !f.dieDead b.id.die.val

/-- FM_FREE.STAGING_FREE. -/
def Flash.stagingFree (f : Flash) : Nat := if f.trained then f.roleFree roleStaging else 0

/-- The erased block of a die-plane with the lowest erase count; among equals the lowest number (log 28). -/
def Flash.leastErased (f : Flash) (die : Fin 8) (plane : Fin 4) (slc : Bool) : Option Block :=
  let listed := f.blocks.filter fun b => onPlane die.val plane.val b && b.state == .free && b.slc == slc
  let lo := if slc then 0 else slcPerPlane
  let n := if slc then slcPerPlane else blocksPerPlane - slcPerPlane
  let known := (f.blocks.filter (onPlane die.val plane.val)).map fun b => b.id.block
  let new := ((List.range n).find? fun i => !known.contains (lo + i)).map fun i =>
    freshBlock { die := die, plane := plane, block := lo + i }
  let better (x y : Block) : Block :=
    if y.erases < x.erases || (y.erases == x.erases && y.id.block < x.id.block) then y else x
  match new with
  | some b => some (listed.foldl better b)
  | none =>
    match listed with
    | [] => none
    | b :: bs => some (bs.foldl better b)

/-! ### Pages that a map names -/

/-- Maps stop naming the pages that a test picks (R282). -/
def Flash.release (f : Flash) (p : PageIdent → Bool) : Flash := { f with idents := f.idents.filter fun x => !p x }

/-- Valid pages of a block. -/
def Flash.validIn (f : Flash) (i : BlockId) : List PageIdent := f.idents.filter fun x => x.page.blk == i

def Flash.ident (f : Flash) (p : PhysPage) : Option PageIdent := f.idents.find? fun x => x.page == p

/-- What a page is to hold: kind, stream, content, position, and its ORIGIN_SEQ where it is a copy. -/
structure PageWork where
  kind : Nat
  stream : Nat
  content : Nat
  index : Nat
  origin : Option Nat
  detail : Nat × Nat := (0, 0)
  deriving DecidableEq, Repr

/-- The work that copies a page. -/
def PageIdent.copy (x : PageIdent) : PageWork :=
  { kind := x.kind, stream := x.stream, content := x.content, index := x.index, origin := some x.originSeq,
    detail := x.detail }

/-- The identity a page takes with SEQ n (Table 11-3). -/
def PageWork.stamp (w : PageWork) (p : PhysPage) (n epoch : Nat) : PageIdent :=
  { page := p, kind := w.kind, stream := w.stream, content := w.content, index := w.index
    originSeq := w.origin.getD (n % 2 ^ 32), seq := n, epoch := epoch, detail := w.detail }

/-- n pages have been programmed (R268). -/
def Flash.countProgs (f : Flash) (n : Nat) : Flash :=
  { f with pagesProg := (f.pagesProg + n) % 2 ^ 64, seq := (f.seq + n) % 2 ^ 64 }

/-- A row of a block is programmed; its reads count from here (R288). -/
def Block.advance (row : Nat) (b : Block) : Block :=
  { b with next := row + 1, reads := 0, state := if row + 1 ≥ b.rows then .full else .open }

def slotDie (σ : Nat) : Fin 8 := ⟨σ % 8, by omega⟩
def slotPlane (σ : Nat) : Fin 4 := ⟨σ / 8 % 4, by omega⟩

/-! ### SLC pages (R278, R279) -/

/-- The open block of a role in a slot's die-plane, or an erased one that it takes; none where the role has none left. -/
def Flash.roleBlock (f : Flash) (role σ : Nat) : Option Block :=
  let d := slotDie σ
  let p := slotPlane σ
  if f.dieDead d.val then none
  else
    match f.blocks.find? fun b => onPlane d.val p.val b && b.role == role && b.state == .open with
    | some b => some b
    | none =>
      if f.roleUsed role (onPlane d.val p.val) ≥ rolePerPlane role then none
      else
        match f.leastErased d p true with
        | some b => some { b with role := role }
        | none => (f.leastErased d p false).map fun b => { b with role := role, slc := true }

/-- The page to which a role's next program of a slot goes. -/
def Flash.rolePage (f : Flash) (role σ : Nat) : Option PhysPage :=
  (f.roleBlock role σ).map fun b => { blk := b.id, row := b.next }

/-- The slot of a position. -/
def slotOf (index : Nat) : Nat := index % 32

/-- One page goes to the next free row of its slot's block of a role; the version it replaces is released. -/
def Flash.putSlc (f : Flash) (role epoch : Nat) (w : PageWork) : Option Flash :=
  match f.roleBlock role (slotOf w.index) with
  | none => none
  | some b =>
    let x := w.stamp { blk := b.id, row := b.next } f.seq epoch
    let f := f.release fun y => y.kind == w.kind && y.stream == w.stream && y.content == w.content && y.index == w.index
    let f := (f.setBlk (b.advance b.next)).countProgs 1
    some { f with idents := x :: f.idents }

/-- A block's erase has passed (Table 11-10). -/
def Flash.erased (f : Flash) (i : BlockId) : Flash :=
  { f with erases := (f.erases + 1) % 2 ^ 64, fillers := f.fillers.filter fun x => x.blk != i }.modBlk i fun k =>
    { k with state := .free, erases := k.erases + 1, reads := 0, next := 0, role := 0, worn := false }

/-- Whether the append region can take a page of a slot (R279). -/
def Flash.appendRoom (f : Flash) (σ : Nat) : Bool := (f.roleBlock roleAppend σ).isSome

/-- Whether staging can take a page of a slot (R278). -/
def Flash.stagingRoom (f : Flash) (σ : Nat) : Bool := (f.roleBlock roleStaging σ).isSome

/-! ### Stripes (R270, R271) -/

/-- The stripe still being filled. -/
def Flash.openStripe (f : Flash) : Option Stripe := f.stripes.find? fun t => t.next < 1536

def Flash.setStripe (f : Flash) (t : Stripe) : Flash :=
  { f with stripes := (f.stripes.filter fun x => x.num != t.num) ++ [t] }

/-- The lowest stripe number not in use. -/
def Flash.stripeNumber (f : Flash) : Option Nat :=
  (List.range 4096).find? fun n => !(f.stripes.any fun t => t.num == n)

/-- A new stripe of one erased block from each die-plane, least erased first; none where one has none left. -/
def Flash.newStripe (f : Flash) : Option (Stripe × Flash) :=
  let slots := (List.range 32).filter fun σ => !f.dieDead (σ % 8)
  let picks := slots.map fun σ => f.leastErased (slotDie σ) (slotPlane σ) false
  match f.stripeNumber with
  | none => none
  | some n =>
    if slots.isEmpty || picks.any Option.isNone then none
    else
      let bs := picks.filterMap id
      let t : Stripe := { num := n, blocks := bs.map Block.id, next := 0 }
      let f := bs.foldl (fun (f : Flash) (b : Block) => f.setBlk { b with state := .open, next := 0 }) f
      some (t, f.setStripe t)

/-- The block of a stripe in a slot. -/
def Stripe.blockAt (t : Stripe) (σ : Nat) : Option BlockId :=
  t.blocks.find? fun i => i.die == slotDie σ && i.plane == slotPlane σ

/-- The slot a page takes in a row: its own, while the row's pages stand below it, so that an extent never wraps inside a row
(R270); on a Bench with a failed die the next slot that is free (log 142). -/
def Stripe.slotFor (t : Stripe) (taken : List Nat) (whole : Bool) (σ : Nat) : Option Nat :=
  if whole then (if taken.all (· < σ) then some σ else none)
  else
    (List.range 32).findSome? fun k =>
      let τ := (σ + k) % 32
      if !taken.contains τ && (t.blockAt τ).isSome then some τ else none

/-- Where a run of pages stands: the stripe and the slots taken in its row. -/
structure Filling where
  stripe : Stripe
  taken : List Nat
  deriving DecidableEq, Repr

/-- The rows of an open block that are left are programmed with filler pages: it is FULL (R271, R283). -/
def Flash.fillBlock (epoch : Nat) (f : Flash) (i : BlockId) : Flash :=
  let b := f.blk i
  if b.state != .open then f
  else
    let n := b.rows - b.next
    let x : Filler := { blk := i, row := b.next, rows := n, seq := f.seq, epoch := epoch }
    ({ f with fillers := x :: f.fillers }.setBlk { b with state := .full, next := b.rows, reads := 0 }).countProgs n

/-- A stripe takes no more rows: those left are filled. -/
def Flash.closeStripe (f : Flash) (epoch : Nat) (t : Stripe) : Flash :=
  if t.next ≥ 1536 then f else (t.blocks.foldl (Flash.fillBlock epoch) f).setStripe { t with next := 1536 }

/-- Row r of the stripe is programmed. -/
def Flash.fillRow (f : Flash) (t : Stripe) (r : Nat) : Flash :=
  (t.blocks.foldl (fun (f : Flash) i => f.modBlk i (Block.advance r)) f).setStripe { t with next := r + 1 }

/-- Begin the next row: of the open stripe, or of a new one. -/
def Flash.nextRow (f : Flash) : Option (Stripe × Flash) :=
  match f.openStripe with
  | some t => some (t, f.fillRow t t.next)
  | none =>
    match f.newStripe with
    | some (t, f) => some (t, f.fillRow t 0)
    | none => none

/-- The page of the row begun at which a position stands. -/
def Filling.page (c : Filling) (f : Flash) (σ : Nat) : Option (Nat × PhysPage) :=
  match c.stripe.slotFor c.taken (f.failedDies.isEmpty) σ with
  | some τ => (c.stripe.blockAt τ).map fun i => (τ, { blk := i, row := c.stripe.next })
  | none => none

/-- Pages placed in stripe rows, each in its slot; a row ends when a page finds no place in it. -/
def Flash.placeQlc (epoch : Nat) : List PageWork → Option Filling → Flash → Option Flash
  | [], _, f => some f
  | w :: ws, c, f =>
    let here := match c with
      | some c => (c.page f (slotOf w.index)).map fun p => (c, p, f)
      | none => none
    let there := match here with
      | some h => some h
      | none =>
        match f.nextRow with
        | none => none
        | some (t, f) =>
          let c' : Filling := { stripe := t, taken := [] }
          (c'.page f (slotOf w.index)).map fun p => (c', p, f)
    match there with
    | none => none
    | some (c, (τ, p), f) =>
      let x := w.stamp p f.seq epoch
      Flash.placeQlc epoch ws (some { c with taken := τ :: c.taken }) ({ f with idents := x :: f.idents }.countProgs 1)

/-- Rows up to the end of the word line are begun (R271). -/
def Flash.fillRound (f : Flash) : Nat → Flash
  | 0 => f
  | n + 1 =>
    match f.openStripe with
    | some t => if t.next % 4 == 0 then f else Flash.fillRound (f.fillRow t t.next) n
    | none => f

/-- Pages of the rows begun since an earlier state that no extent uses. -/
def Flash.gaps (f0 f : Flash) : List PhysPage :=
  f.stripes.flatMap fun t =>
    let from_ := match f0.stripes.find? fun u => u.num == t.num && u.blocks == t.blocks with
      | some u => u.next
      | none => 0
    ((List.range (t.next - from_)).flatMap fun r => t.blocks.map fun i => ({ blk := i, row := from_ + r } : PhysPage)).filter
      fun p => !(f.idents.any fun x => x.page == p)

/-- One filler page. -/
def Flash.fillPage (epoch : Nat) (f : Flash) (p : PhysPage) : Flash :=
  { f with fillers := { blk := p.blk, row := p.row, rows := 1, seq := f.seq, epoch := epoch } :: f.fillers }.countProgs 1

/-- Pages written to stripes in whole rounds, with filler pages in the slots that no extent uses; `urgent` work goes on below 8
erased blocks (R271, R281). None where it must wait. -/
def Flash.putQlc (f : Flash) (urgent : Bool) (epoch : Nat) (ws : List PageWork) : Option Flash :=
  if ws.isEmpty then some f
  else if !urgent && f.minFree < 8 then none
  else
    (Flash.placeQlc epoch ws none f).map fun g =>
      let g := g.fillRound 3
      (f.gaps g).foldl (Flash.fillPage epoch) g

/-- Pages in the order of their contents, streams and positions. -/
def PageIdent.before (x y : PageIdent) : Bool :=
  x.kind < y.kind || (x.kind == y.kind && (x.content < y.content || (x.content == y.content &&
    (x.stream < y.stream || (x.stream == y.stream && x.index < y.index)))))

/-- The pages of a content that a test picks move to stripes: programmed first, the map switched then (R280). -/
def Flash.moveQlc (f : Flash) (urgent : Bool) (epoch : Nat) (p : PageIdent → Bool) : Option Flash :=
  let ws := (sortBy PageIdent.before (f.idents.filter p)).map PageIdent.copy
  ({ f with idents := f.idents.filter fun x => !p x }).putQlc urgent epoch ws

/-- A page is a filler page. -/
def Flash.fillerAt (f : Flash) (p : PhysPage) : Option Filler :=
  f.fillers.find? fun x => x.blk == p.blk && x.row ≤ p.row && p.row < x.row + x.rows

/-- The identity of a page: of the content that a map names there, or of a filler page (Table 11-3). -/
def Flash.identAt (f : Flash) (p : PhysPage) : Option PageIdent :=
  match f.ident p, f.fillerAt p with
  | some x, _ => some x
  | none, some x =>
    let n := x.seq + (p.row - x.row)
    some { page := p, kind := 7, stream := 0, content := 0, index := 0, originSeq := n % 2 ^ 32, seq := n, epoch := x.epoch
           detail := (0, 0) }
  | none, none => none

/-- Pages of SLC blocks of a role. -/
def Flash.inRole (f : Flash) (role : Nat) (x : PageIdent) : Bool := (f.blk x.page.blk).slc && (f.blk x.page.blk).role == role

/-! ### What a Bench holds (R266) -/

/-- Whole pages of n bytes. -/
def pagesOf (n : Nat) : Nat := cdiv n 16384

/-- Pages of content a Bench holds: envelopes of objects not deleted, full pages of list streams, metadata homes, passage tables
and pages of Ingots (R266). -/
def State.heldPages (s : State) (b : BenchId) : Nat :=
  ((s.search.objs.filter fun o => o.bench == b && o.deleted.isNone).map fun o => pagesOf o.envelope.length).sum +
    ((s.search.lists.filter fun l => l.bench == b).map fun l => (l.pages.map fun p => p.2).sum).sum +
    (s.flash[b].idents.filter fun x => x.kind == 2 || x.kind == 3 || x.kind == 6).length

/-- FM_USED_BLOCKS follows what the Bench holds. -/
def State.recountUsed (s : State) (b : BenchId) : State :=
  let n := cdiv (s.heldPages b) 1536
  s.modFlash b fun f => { f with usedBlocks := n }

end Sys2Proof.Machine
end

