-- ==== Sys2Proof/Machine/WriteBackOps.lean ====
section
/-! DEFINITION. Write-back of flash-backed granules and the dirty limit (R174 to R176, R179), and reading that is put off, which
changes the object map (R199, R348, Table 10-5). -/

namespace Sys2Proof.Machine

/-! ### Write-back (R174 to R176) -/

def State.dirtyCount (s : State) (q : QuarterId) : Nat := (s.mem.dirty.filter fun d => d.quarter == q).length

/-- The dirty limit of a Quarter: 65,536 granules, 0 while HOLDUP_OK is deasserted. -/
def State.dirtyLimit (s : State) : Nat := if s.power.holdupOk then 65536 else 0

/-- A write to a flash-backed granule: the granule is dirty already, becomes dirty, or the write waits. While the limit is 0
every such write waits until it is durable (R176). -/
def State.dirtyWrite (s : State) (q : QuarterId) (g cls : Nat) : State × Bool :=
  if s.power.holdupOk && s.mem.dirty.any fun d => d.quarter == q && d.granule == g then (s, true)
  else if s.dirtyCount q < s.dirtyLimit then
    ({ s with mem := { s.mem with dirty := s.mem.dirty ++ [{ quarter := q, granule := g, cls := cls, mirror := g }] } },
      true)
  else
    (s.modCache q fun c => { c with wbStall := satAdd 32 c.wbStall 1, dirtyWait := c.dirtyWait ++ [(g, cls)] }, false)

/-- The home of a granule in classes 2 to 5, the model's choice (log 142): four metadata pages on one Bench of its Quarter and
on the Bench of the same place in the next Quarter (R275); a page tail's is its own Bench. -/
def homeBench (q : QuarterId) (g : Nat) : BenchId :=
  if g < 2 ^ 41 then ⟨(g - 2 ^ 40) / 32 % 512, by omega⟩ else ⟨(128 * q.val + g % 128) % 512, by omega⟩

def mateBench (b : BenchId) : BenchId := ⟨(b.val + 128) % 512, by omega⟩

/-- PAGE_INDEX of a granule's first metadata page: its kind and number. -/
def homeIndex (g : Nat) : Nat := (Nat.log2 g - 41) * 2 ^ 29 + 4 * ((g - 2 ^ Nat.log2 g) % 2 ^ 27)

/-- The four metadata pages of a granule go to stripes, in place of the version before. -/
def Flash.putHome (f : Flash) (epoch g : Nat) : Option Flash :=
  let n := homeIndex g
  let ws := (List.range 4).map fun i =>
    ({ kind := 3, stream := 0, content := 0, index := n + i, origin := none } : PageWork)
  (f.release fun x => x.kind == 3 && n ≤ x.index && x.index < n + 4).putQlc false epoch ws

/-- The page at which a tail stands. -/
def State.tailPage (s : State) (t : Tail) : PageWork :=
  let j := match s.lst t.list with
    | some l => l.fullOf t.stream
    | none => 0
  { kind := 1, stream := t.stream, content := t.list, index := j, origin := none }

/-- The tails of a granule are programmed as single-form pages (R174, R279). -/
def State.putTails (s : State) (b : BenchId) (g : Nat) : Option Flash :=
  ((s.benches[b].tails.filter fun t => tailGranule b t.slot == g).map s.tailPage).foldl
    (fun acc w => acc.bind fun (f : Flash) => f.putSlc roleAppend s.search.epoch w) (some s.flash[b])

/-- The pages of a granule at its home; none where there is no page to take one. -/
def State.programHome (s : State) (q : QuarterId) (g : Nat) : Option State :=
  let b := homeBench q g
  if g < 2 ^ 41 then (s.putTails b g).map fun f => s.modFlash b fun _ => f
  else
    match s.flash[b].putHome s.search.epoch g, s.flash[mateBench b].putHome s.search.epoch g with
    | some f, some h => some ((s.modFlash b fun _ => f).modFlash (mateBench b) fun _ => h)
    | _, _ => none

/-- The object map at home needs the journal entries of its objects no more. -/
def Flash.endJournal (g : Nat) (f : Flash) : Flash := f.release fun x => x.kind == 4 && objectMapGranule x.content == g

/-- The stripe table of a Bench, of class 1, is dirty where a stripe has come or gone since an earlier state (R270); what the
Bench holds is counted again (R266). -/
def State.noteStripes (old : State) (s : State) (b : BenchId) : State :=
  (if old.flash[b].stripes.map Stripe.blocks == s.flash[b].stripes.map Stripe.blocks then s
   else (s.dirtyWrite (quarterOfBench b) (stripeGranule b) 1).1).recountUsed b

/-- A granule is durable at its home: its dirty bit and its mirror go, and the home copies follow (R174, R178). One that finds no
page stays as it is. -/
def State.granuleHome (s : State) (q : QuarterId) (g : Nat) : State :=
  match s.programHome q g with
  | none => s
  | some t =>
    let u := ({ t with
      flash := if 2 ^ 44 ≤ g && g < 2 ^ 45 then t.flash.map (Flash.endJournal g) else t.flash
      mem := { t.mem with
        dirty := t.mem.dirty.filter fun x => !(x.quarter == q && x.granule == g)
        writtenBack := assocSet t.mem.writtenBack g t.clockUs } }).copyHome g
    State.noteStripes s (State.noteStripes s u (homeBench q g)) (mateBench (homeBench q g))

/-- No data of a lower class is dirty or waits to be (R175, log 12). -/
def State.lowerClean (s : State) (cls : Nat) : Bool :=
  !(s.mem.dirty.any fun x => x.cls < cls) && s.cache.toList.all fun c => !(c.dirtyWait.any fun w => w.2 < cls)

/-- A write to a flash-backed granule that completes in the step: dirty already, made dirty below the limit, or, while the
limit is 0, durable at its home after everything of a lower class; else it waits (R175, R176). -/
def State.dirtyThrough (s : State) (q : QuarterId) (g cls : Nat) : State × Bool :=
  let known := s.mem.dirty.any fun d => d.quarter == q && d.granule == g
  if s.power.holdupOk && known || s.dirtyCount q < s.dirtyLimit then s.dirtyWrite q g cls
  else if !s.power.holdupOk && s.lowerClean cls && (s.programHome q g).isSome then
    ((s.modCache q fun c => { c with wbStall := satAdd 32 c.wbStall 1 }).granuleHome q g, true)
  else if s.cache[q].dirtyWait.contains (g, cls) then (s, false)
  else s.dirtyWrite q g cls

/-- Whether dirtyThrough completes in the step. -/
def State.canDirty (s : State) (q : QuarterId) (g cls : Nat) : Bool := (s.dirtyThrough q g cls).2

/-- Several writes to flash-backed granules, of which none counts as done unless all are. -/
def State.dirtyAll (s : State) : List (QuarterId × Nat × Nat) → State × Bool
  | [] => (s, true)
  | (q, g, cls) :: rest =>
    match s.dirtyThrough q g cls with
    | (s, true) => s.dirtyAll rest
    | (s, false) => (s, false)

/-- The object map has changed for an object (R174, class 5 of Table 7-2). -/
def State.dirtyMap (s : State) (b : BenchId) (i : Nat) : State := (s.dirtyThrough (quarterOfBench b) (objectMapGranule i) 5).1

/-- Class of a Quarter's write-back: C3, and C2 from the high water of 3 GiB on (R174, R176). -/
def State.writeBackCls (s : State) (q : QuarterId) : Nat := if 49152 ≤ s.dirtyCount q then 2 else 3

/-- A granule of the object map refers to a granule that a write waits for: the visibility log of a list with a record of an
object of it (R175). -/
def State.refersWaiting (s : State) (g : Nat) : Bool :=
  2 ^ 44 ≤ g && g < 2 ^ 45 && s.cache.toList.any fun c => c.dirtyWait.any fun w =>
    w.2 == 2 && s.search.lists.any fun l => logGranule l.num == w.1 && l.records.any fun r => objectMapGranule r.object == g

/-- A granule is written home once nothing of a lower class is dirty (R175, log 12). The Bench time it takes is work of the
module in the class of the Quarter's write-back, so none starts on a Bench kept for C0 sweeps (R438). -/
def doWriteBackGranule (q : QuarterId) (g benchUs : Nat) (s : State) : State :=
  let b := homeBench q g
  match s.mem.dirty.find? fun d => d.quarter == q && d.granule == g with
  | none => s
  | some d =>
    if s.mem.dirty.any (fun x => x.cls < d.cls) || s.refersWaiting g || s.benchKept b || (s.programHome q g).isNone then s
    else (s.chargeWork (s.writeBackCls q) moduleShop (benchRes b) benchUs).granuleHome q g

def execWriteBackGranule (q : QuarterId) (granule : Timed Nat) (s : State) : Out :=
  .next (doWriteBackGranule q granule.what granule.us s)

/-- A dirtying write that waits goes on: below the limit it dirties its granule; with the limit at 0 it completes when
it is durable on flash, after everything of a lower class (R175, R176). -/
def doDirtyWriteResume (q : QuarterId) (s : State) : State :=
  match s.cache[q].dirtyWait with
  | [] => s
  | (g, cls) :: rest =>
    let t := s.modCache q fun c => { c with dirtyWait := rest }
    if !s.power.holdupOk then if t.lowerClean cls && (t.programHome q g).isSome then t.granuleHome q g else s
    else if s.dirtyCount q < 65536 then (t.dirtyWrite q g cls).1
    else s

def execDirtyWriteResume (q : QuarterId) (s : State) : Out := .next (doDirtyWriteResume q s)

/-- Every dirty granule goes home, class by class (R175). -/
def State.writeBackPass (s : State) : State :=
  ((List.range 6).flatMap fun c => s.mem.dirty.filter fun d => d.cls == c).foldl (fun s d => s.granuleHome d.quarter d.granule) s

/-- Orderly write-back of every dirty granule, and of the stripe tables that the first pass has changed (R175, R179, R270). -/
def State.writeBackAll (s : State) : State := s.writeBackPass.writeBackPass

/-! ### Reading that is put off (R199, R348, Table 10-5) -/

/-- Objects of some Collections that are being read or wait for it are DEFERRED; their Benches drop their token batches and are
free for the next object. -/
def State.deferColls (s : State) (colls : List Nat) (reason : Nat) : State :=
  let hit (o : Obj) : Bool := colls.contains o.coll && (o.state == .reading || o.state == .pending) && o.deleted.isNone
  let ids := (s.search.objs.filter hit).map Obj.id
  let now := s.clockUs
  let free (b : Bench) : Bench :=
    if b.reading.any ids.contains then
      { (b.leaveReading now) with
        batches := b.batches.filter fun x => !(x.entries.any fun e => ids.contains e.1) }
    else b
  let t : State := { s with
    benches := s.benches.map free
    search := { s.search with objs := updWhere s.search.objs hit fun o => { o with state := .deferred, reason := reason } } }
  (s.search.objs.filter hit).foldl (fun s o => s.dirtyMap o.bench o.id) t

/-- An Ingot has ceased to be READY: the Collections it embeds are not read until a Recast names a READY one (R199). -/
def State.stopEmbedding (s : State) (i : Nat) : State :=
  match s.theMold with
  | none => s
  | some m =>
    let colls := (m.colls.filter fun c => c.embedIngot == i).map CollEntry.id
    let s := { s with search := { s.search with embedOff := colls.foldl insertNew s.search.embedOff } }
    s.deferColls colls reasonIngot

/-- An Ingot is poisoned in every Quarter: a later bind is refused, its jobs fault (R189, R198). One that is being dropped
stays DROPPING (Table 8-5A). -/
def State.poisonIngot (s : State) (q : QuarterId) (i : Nat) : State :=
  match s.ingot i with
  | none => s
  | some g =>
    if g.state == .poisoned then s
    else
      let s := (s.modIngot i fun g => if g.state == .ready then { g with state := .poisoned } else g).stopEmbedding i
      let s := s.modCache q fun c => { c with poisoned := satAdd 16 c.poisoned 1 }
      let keys := (s.sched.jobs.filter fun j => j.ingot == i).map fun j => j.key
      keys.foldl (fun s k => s.faultJob k scIngotPoisoned (.modelCache q)) s

end Sys2Proof.Machine
end

