-- ==== Sys2Proof/Machine/CacheOps.lean ====
section
/-! DEFINITION. The model cache: staging, promotion, eviction, pins, refetch and reload (chapter 7). -/

namespace Sys2Proof.Machine

/-! ### Room, eviction and pins (R183 to R187) -/

/-- 64 KiB granules of an object's decoded copy. -/
def CacheObj.granules (o : CacheObj) : Nat := cdiv o.decoded 65536

def CacheObj.usesHot (o : CacheObj) : Bool := o.state == .hot || o.promoting

/-- Quarter Store granules taken by HOT objects and by promotions in progress. -/
def ModelCache.hotTaken (c : ModelCache) : Nat := ((c.objs.filter CacheObj.usesHot).map CacheObj.granules).sum

/-- QTR_MC_STATUS.HOT_USED. -/
def ModelCache.hotUsed (c : ModelCache) : Nat :=
  ((c.objs.filter fun o => o.state == .hot).map CacheObj.granules).sum

/-- Bytes of STAGED copies held or on their way (a HOT object keeps its STAGED copy). -/
def ModelCache.stagedTaken (c : ModelCache) : Nat := (c.objs.map CacheObj.stored).sum + (c.staging.map Staging.stored).sum

/-- Evict HOT objects to STAGED, least recently used first, until the cache fits; a pinned victim is deferred. -/
def evictHot (fits : ModelCache → Bool) : List CacheObj → ModelCache → ModelCache
  | [], c => c
  | o :: os, c =>
    if fits c then c
    else if o.state != .hot then evictHot fits os c
    else if o.pinned then evictHot fits os { c with pinDefer := (c.pinDefer + 1) % 2 ^ 64 }
    else
      evictHot fits os
        { c with objs := updWhere c.objs (fun x => x.id == o.id) (fun x => { x with state := .staged, hotAt := [] }),
                 evictions := (c.evictions + 1) % 2 ^ 64 }

/-- Evict STAGED objects to ABSENT, least recently used first, until the cache fits; a pinned or HOT victim is deferred. -/
def evictStaged (fits : ModelCache → Bool) : List CacheObj → ModelCache → ModelCache
  | [], c => c
  | o :: os, c =>
    if fits c then c
    else if o.pinned || o.state == .hot then
      evictStaged fits os { c with pinDefer := (c.pinDefer + 1) % 2 ^ 64 }
    else
      evictStaged fits os
        { c with objs := c.objs.filter (fun x => x.id != o.id), evictions := (c.evictions + 1) % 2 ^ 64 }

/-- An object used goes to the end of the least recently used order. A use is a transfer that reads its decoded copy, or the
promotion that reads its STAGED copy (DESIGN CHOICE, log 131). -/
def touch (id : CacheId) (f : CacheObj → CacheObj) (l : List CacheObj) : List CacheObj :=
  match l.find? fun o => o.id == id with
  | some o => (l.filter fun x => x.id != id) ++ [f o]
  | none => l

/-- STAGED_LIMIT of a Quarter in bytes. -/
def ModelCache.stagedBytes (c : ModelCache) : Nat := c.stagedLimit * 2 ^ 30

/-- Limits lowered below what is held: unpinned objects are evicted until it fits (R182, R187). -/
def ModelCache.fitLimits (c : ModelCache) : ModelCache :=
  let c := evictHot (fun c => c.hotUsed ≤ c.hotLimit) c.objs c
  evictStaged (fun c => c.stagedTaken ≤ c.stagedBytes) c.objs c

/-- Every Quarter's model cache is brought within its limits. -/
def State.fitCaches (s : State) : State := (List.finRange 4).foldl (fun s q => s.recache q ModelCache.fitLimits) s

/-- The segment entry a cache object is. -/
def State.segment (s : State) (o : CacheId) : Option SegmentEntry :=
  match s.ingot o.ingot.toNat with
  | some g => g.segments[o.segment]?
  | none => none

def State.ingotReady (s : State) (i : Nat) : Bool := s.ingots.any fun g => g.id == i && g.state == .ready

/-! ### Places of the copies (R182, R188) -/

/-- n granules among count of them from lo on that nothing has taken: those the module picks, or the first where its pick is
none; none where there are not so many (log 129). -/
def chooseGranules (n : Nat) (w : Word64) (lo count : Nat) (taken : List Nat) : Option (List Nat) :=
  let free (g : Nat) : Bool := lo ≤ g && g < lo + count && !taken.contains g
  let pick := Config.pickGranules n w lo count taken
  if pick.length == n && pick.all free && pick.eraseDups == pick then some pick
  else
    let l := (((List.range count).map (lo + ·)).filter free).take n
    if l.length == n then some l else none

/-- Stacks excluded from allocation (Table 13-5). -/
def State.excludedStacks (s : State) : List Nat := (List.range 24).filter fun k => s.mem.excluded.getLsbD k

/-- Granules of 64 KiB of the excluded stacks. -/
def State.excludedGranules (s : State) : List Nat :=
  s.excludedStacks.flatMap fun k => (List.range (stackBytes / 65536)).map fun i => k * (stackBytes / 65536) + i

/-- Granules of 64 KiB that hold stacked data of the module's own choice or take none: fixed ranges, KV pages, scratch, withheld
granules, STAGED copies and excluded stacks. -/
def State.stackedTaken (s : State) : List Nat :=
  let world := s.mold.ranges.flatMap fun w =>
    (List.range (32 * w.count)).map fun i => 32 * (36864 * w.unit + w.first) + i
  let kv := s.kvSpans.flatMap fun p => granulesOf { space := .stacked, off := p.1 } p.2
  world ++ kv ++ s.sched.jobs.flatMap (fun j => stackedOf j.scratch) ++ s.mem.withheld ++ s.mem.toWithhold ++
    s.cache.toList.flatMap ModelCache.stagedGranules ++ s.excludedGranules

/-- n free granules of the stacks beside a Quarter. -/
def State.takeStacked (s : State) (q : QuarterId) (n : Nat) : Option (List Nat) × State :=
  let (w, s) := s.fresh
  (chooseGranules n w (q.val * 6 * (stackBytes / 65536)) (6 * (stackBytes / 65536)) s.stackedTaken, s)

/-- n free granules of a Quarter Store. -/
def State.takeQuarter (s : State) (q : QuarterId) (n : Nat) : Option (List Nat) × State :=
  let (w, s) := s.fresh
  let scratch := s.sched.jobs.flatMap fun j => (j.scratch.filter fun p => p.1 == Space.quarter q).map fun p => p.2
  (chooseGranules n w 0 1536 (s.cache[q].hotGranules ++ scratch), s)

/-- Bytes written over granules, 64 KiB in each. -/
def State.writeGranules (s : State) (sp : Space) : List Nat → List Byte → State
  | [], _ => s
  | g :: gs, bs => State.writeGranules (s.writeAt { space := sp, off := 65536 * g } (bs.take 65536)) sp gs (bs.drop 65536)

/-- The stored bytes of an object, from the granules of its STAGED copy. -/
def State.storedBytes (s : State) (x : CacheObj) : List Byte :=
  (x.stagedAt.flatMap fun p => s.readAt { space := .stacked, off := 65536 * p.2 } 65536).take x.stored

/-! ### Compressed blocks (R180, R181) -/

/-- A frame that R180 admits decodes to these bytes: a content size, a window of at most 65,536 bytes, no dictionary, no
skippable frame, nothing after its end. -/
def decodeFrame (frame : List Byte) : Option (List Byte) :=
  match zstdOk 65536 true frame, Config.zstdFrame frame with
  | true, (out, some used) => if used == frame.length then some out else none
  | _, _ => none

/-- One block of an object by its index entry: the decoded bytes, none where the frame breaks R180 or fails. -/
def decodeOne (bs : List Byte) (i want : Nat) : Option (List Byte) :=
  let off := field bs (8 * i) 4
  let len := field bs (8 * i + 4) 3
  let raw := bit (field bs (8 * i + 7) 1) 0
  let frame := fieldBytes bs off len
  let out := if raw then some frame else decodeFrame frame
  match out with
  | some b => if b.length == want then some b else none
  | none => none

/-- An object decoded block by block: its bytes, or the first block that fails. -/
def decodeBlocks (bs : List Byte) (decoded : Nat) : Nat → Nat → Except Nat (List Byte)
  | 0, _ => .ok []
  | n + 1, i =>
    match decodeOne bs i (min 65536 (decoded - 65536 * i)) with
    | none => .error i
    | some b =>
      match decodeBlocks bs decoded n (i + 1) with
      | .ok l => .ok (b ++ l)
      | .error e => .error e

/-! ### Staging and promotion (R183 to R187) -/

/-- A staging starts: room is made and the flash read begins (R183, R185). -/
def State.startStaging (s : State) (q : QuarterId) (o : CacheId) : State :=
  match s.segment o with
  | none => s
  | some g =>
    let c := s.cache[q]
    if !s.ingotReady o.ingot.toNat || c.objs.any (fun x => x.id == o) || c.staging.any (fun x => x.id == o) then s
    else
      let fits (c : ModelCache) : Bool := c.stagedTaken + g.stored ≤ c.stagedBytes
      let s := s.recache q fun c => evictStaged fits c.objs c
      if !fits s.cache[q] then s
      else
        match s.takeStacked q (cdiv g.stored 65536) with
        | (some gs, s) => s.modCache q fun c => { c with staging := c.staging ++ [{ id := o, stored := g.stored, granules := gs }] }
        | (none, s) => s

def execCacheStagingRequest (q : QuarterId) (o : CacheId) (s : State) : Out := .next (s.startStaging q o)

/-- The record of a segment whose hash fails, in the Hub ring (R198). -/
def State.hashMismatch (s : State) (q : QuarterId) (o : CacheId) : State :=
  (s.poisonIngot q o.ingot.toNat).reportGeneral .scheduler .degraded 0x48 1 o.segment 0 none o.ingot.toNat

/-- The Ingot of a cache object is being dropped, or is gone: no copy of it is kept (R187). -/
def State.goes (s : State) (o : CacheId) : Bool :=
  match s.ingot o.ingot.toNat with
  | some g => g.state == .dropping
  | none => true

/-- A staging ends: the hash is checked over the stored bytes, and the object is STAGED with the pins of the promotions that
wait for it (R183, R184, R198), or ABSENT where its Ingot is dropped. -/
def doStagingComplete (q : QuarterId) (o : CacheId) (bytes : List Byte) (s : State) : State :=
  match s.segment o, s.cache[q].staging.find? fun x => x.id == o with
  | some g, some st =>
    let s := s.modCache q fun c => { c with staging := c.staging.filter fun x => x.id != o }
    if s.goes o then s
    else if bytes.length == g.stored && Config.shake256 bytes 32 == g.hash then
      let s := s.writeGranules .stacked st.granules bytes
      s.modCache q fun c =>
        { c with objs := c.objs ++
            [{ id := o, state := .staged, stored := g.stored, decoded := g.decoded, promoting := false
               pins := (c.waiting.filter fun w => w.id == o).map fun w => (w.key, w.unit)
               stagedAt := st.granules.map fun g => (g, g), hotAt := [] }] }
    else s.hashMismatch q o
  | _, _ => s

def execStagingComplete (q : QuarterId) (o : CacheId) (bytes : List Byte) (s : State) : Out :=
  .next (doStagingComplete q o bytes s)

/-- A promotion that pins keep from starting is counted once (R186). -/
def ModelCache.block (c : ModelCache) (w : CacheWait) : ModelCache :=
  match c.waiting.find? fun x => x.id == w.id && x.key == w.key && x.unit == w.unit with
  | some x =>
    if x.counted then c
    else
      { c with pinWait := (c.pinWait + 1) % 2 ^ 64
               waiting := updFirst c.waiting (fun y => y == x) fun y => { y with counted := true } }
  | none => { c with pinWait := (c.pinWait + 1) % 2 ^ 64, waiting := c.waiting ++ [{ w with counted := true }] }

/-- Start the promotion of a STAGED object, or let it wait for a pin release (R185, R186). No promotion starts while
HOT_USED exceeds HOT_LIMIT (R187). -/
def State.promote (s : State) (q : QuarterId) (o : CacheObj) (w : CacheWait) : State :=
  let fits (c : ModelCache) : Bool := c.hotTaken + o.granules ≤ c.hotLimit
  let s := s.recache q fun c => evictHot fits c.objs c
  let wait (s : State) : State := s.modCache q fun c => c.block w
  if !fits s.cache[q] then wait s
  else
    match s.takeQuarter q o.granules with
    | (some gs, s) => s.modCache q fun c =>
        { c with
          objs := updWhere c.objs (fun x => x.id == o.id) fun x => { x with promoting := true, hotAt := gs.map fun g => (g, g) }
          waiting := c.waiting.filter fun x => x.id != o.id }
    | (none, s) => wait s

/-- A unit asks for an object: the request pins it, and promotes it where it is not HOT (R183, R184, Table 7-9). -/
def doPromotionRequest (q : QuarterId) (o : CacheId) (k : Key) (u : Nat) (s : State) : State :=
  if !s.ingotReady o.ingot.toNat then s
  else
    let w : CacheWait := { id := o, key := k, unit := u, counted := false }
    match s.cache[q].objs.find? fun x => x.id == o with
    | none =>
      let s := s.startStaging q o
      if s.cache[q].staging.any fun x => x.id == o then s.modCache q fun c => { c with waiting := c.waiting ++ [w] }
      else s.modCache q fun c => c.block w
    | some x =>
      let s := s.modCache q fun c =>
        { c with objs := updWhere c.objs (fun x => x.id == o) fun x => { x with pins := x.pins ++ [(k, u)] } }
      if x.usesHot then s else s.promote q x w

def execPromotionRequest (q : QuarterId) (o : CacheId) (k : Key) (unit : Nat) (s : State) : Out :=
  .next (doPromotionRequest q o k unit s)

/-- An Engine joins those that wait for a refetch. -/
def Refetch.join (now : Nat) (e : Option EngineId) (r : Refetch) : Refetch :=
  match e with
  | some e => if r.waiters.any fun w => w.1 == e then r else { r with waiters := r.waiters ++ [(e, now)] }
  | none => r

/-- A refetch of a block begins, or a request joins the one in progress (R188); C0 commands among the jobs that wait for it
complete without the promise (R83). -/
def State.startRefetch (s : State) (q : QuarterId) (o : CacheId) (blk : Nat) (hot : Bool) (e : Option EngineId) (ks : List Key) :
    State :=
  let now := s.clockUs
  let same (r : Refetch) : Bool := r.id == o && r.block == blk && r.hot == hot
  let s := s.modCache q fun c =>
    if c.refetching.any same then { c with refetching := updFirst c.refetching same (Refetch.join now e) }
    else { c with refetching := c.refetching ++
      [Refetch.join now e { id := o, block := blk, hot := hot, waiters := [] }] }
  ks.foldl State.markUnbound s

/-- The block whose frame holds a byte of the stored bytes, 0 where the index itself holds it. -/
def frameAt (bs : List Byte) (blocks at_ : Nat) : Nat :=
  (((List.range blocks).filter fun i =>
    field bs (8 * i) 4 ≤ at_ && at_ < field bs (8 * i) 4 + field bs (8 * i + 4) 3).head?).getD 0

/-- The first granule of a STAGED copy with a word that cannot be corrected. -/
def State.stagedUe (s : State) (x : CacheObj) : Option Nat :=
  firstIndex (fun (p : Nat × Nat) => (s.poisonIn { space := .stacked, off := 65536 * p.2 } 65536).isSome) x.stagedAt

/-- A promotion ends: the frames are decoded into the Quarter Store and the object is HOT (R180, R183). A STAGED copy that
meets an uncorrectable word, or a frame that fails, is refetched first and the promotion waits (R181, R188). An Ingot that
is dropped leaves it ABSENT once nothing pins it (R187). -/
def doPromotionComplete (q : QuarterId) (o : CacheId) (s : State) : State :=
  match s.cache[q].objs.find? fun x => x.id == o with
  | none => s
  | some x =>
    let bs := s.storedBytes x
    let waits := s.cache[q].refetching.any fun r => r.id == o && !r.hot
    let ks := x.pins.map Prod.fst
    if !x.promoting then s
    else if waits then ks.foldl State.markUnbound s
    else
      match s.stagedUe x with
      | some i => s.startRefetch q o (frameAt bs x.granules (65536 * i)) false none ks
      | none =>
        match decodeBlocks bs x.decoded x.granules 0 with
        | .error i => s.startRefetch q o i false none ks
        | .ok out =>
          let s := s.writeGranules (.quarter q) (x.hotAt.map fun p => p.2) out
          let s := s.modCache q fun c =>
            { c with
              objs := touch o (fun x => { x with promoting := false, state := .hot }) c.objs
              promotions := (c.promotions + 1) % 2 ^ 64, decodeBytes := (c.decodeBytes + x.decoded) % 2 ^ 64 }
          s.dropUnpinned s.dropping

def execPromotionComplete (q : QuarterId) (o : CacheId) (s : State) : Out := .next (doPromotionComplete q o s)

/-- One pin of a unit on an object ends (R184); an object of a dropped Ingot becomes ABSENT with its last pin (R187). -/
def doPinRelease (q : QuarterId) (o : CacheId) (k : Key) (u : Nat) (s : State) : State :=
  let s := s.modCache q fun c =>
    { c with objs := updWhere c.objs (fun x => x.id == o) fun x => { x with pins := removeFirst x.pins (k, u) } }
  s.dropUnpinned s.dropping

def execPinRelease (q : QuarterId) (o : CacheId) (k : Key) (unit : Nat) (s : State) : Out :=
  .next (doPinRelease q o k unit s)

/-- A promotion that waits is tried again, its staging first where it has none (R186). -/
def doPromotionWaitResume (q : QuarterId) (o : CacheId) (s : State) : State :=
  match s.cache[q].waiting.find? (fun w => w.id == o) with
  | none => s
  | some w =>
    if !s.ingotReady o.ingot.toNat then s
    else
      match s.cache[q].objs.find? (fun x => x.id == o) with
      | some x =>
        if x.usesHot then s.modCache q fun c => { c with waiting := c.waiting.filter fun w => w.id != o }
        else s.promote q x w
      | none =>
        let s := s.startStaging q o
        if s.cache[q].staging.any fun x => x.id == o then s else s.modCache q fun c => c.block w

def execPromotionWaitResume (q : QuarterId) (o : CacheId) (s : State) : Out := .next (doPromotionWaitResume q o s)

/-! ### Reads through the model cache (R184, R188) -/

/-- The copy that a granule names: its Quarter, its object and the block; decoded copies in the Quarter Store, STAGED ones in
stacked memory. -/
def State.cacheBlock (s : State) (sp : Space) (g : Nat) : Option (QuarterId × CacheObj × Nat) :=
  let find (q : QuarterId) (at_ : CacheObj → List (Nat × Nat)) : Option (QuarterId × CacheObj × Nat) :=
    match s.cache[q].objs.find? fun o => (at_ o).any fun p => p.1 == g with
    | some o => some (q, o, ((at_ o).takeWhile fun p => p.1 != g).length)
    | none => none
  match sp with
  | .quarter q => find q CacheObj.hotAt
  | .stacked => ((List.finRange 4).filterMap fun q => find q CacheObj.stagedAt).head?
  | _ => none

/-- The granule that holds what a granule names. -/
def State.holder (s : State) (sp : Space) (g : Nat) : Nat :=
  match s.cacheBlock sp g with
  | some (_, o, i) => ((if sp == Space.stacked then o.stagedAt else o.hotAt).getD i (g, g)).2
  | none => g

/-- The parts of a range by granule: the granule that is named, and the place and length that hold the part. -/
def State.spans (s : State) (a : TierAddr) (n : Nat) : List (Nat × TierAddr × Nat) :=
  (granulesOf a n).map fun g =>
    let lo := max a.off (65536 * g)
    let hi := min (a.off + n) (65536 * (g + 1))
    (g, { space := a.space, off := 65536 * s.holder a.space g + lo % 65536 }, hi - lo)

/-- Bytes that a range names, read where they are held. -/
def State.readThrough (s : State) (a : TierAddr) (n : Nat) : List Byte := (s.spans a n).flatMap fun p => s.readAt p.2.1 p.2.2

/-- A read of a range waits: a decoded copy in it is not ready, or a block of it is being refetched (R184, R188). -/
def State.readWaits (s : State) (a : TierAddr) (n : Nat) : Bool :=
  let hot := a.space != Space.stacked
  (granulesOf a n).any fun g => match s.cacheBlock a.space g with
    | some (q, o, i) =>
      (hot && o.promoting) || s.cache[q].refetching.any fun r => r.id == o.id && r.hot == hot && (!hot || r.block == i)
    | none => false

/-- The first word of a range that cannot be corrected, with the granule that names it. -/
def State.poisonThrough (s : State) (a : TierAddr) (n : Nat) : Option (Nat × TierAddr) :=
  ((s.spans a n).filterMap fun p => (s.poisonIn p.2.1 p.2.2).map fun x => (p.1, x)).head?

/-- A read of a range has used the decoded copies in it (R185). -/
def State.touchRange (s : State) (a : TierAddr) (n : Nat) : State :=
  if a.space == Space.stacked then s
  else
    (granulesOf a n).foldl (fun s g => match s.cacheBlock a.space g with
      | some (q, o, _) => s.modCache q fun c => { c with objs := touch o.id (fun x => x) c.objs }
      | none => s) s

/-! ### Refetch and reload (R188, R189, R319) -/

/-- A memory record that also counts its error and withholds its granule. -/
def State.memoryReport (s : State) (src : Source) (sev : Severity) (kind space unit requester outcome syndrome addr : Nat)
    (k : Option Key) (dataClass : Nat) : State :=
  let r : Report :=
    { sev := sev, kind := BitVec.ofNat 8 kind, granule := some (addr / 65536),
      body := le 1 space ++ le 2 unit ++ le 1 requester ++ le 1 outcome ++ le 2 syndrome ++ le 8 addr ++
        (match k with
         | some k => le 2 k.cid.toNat ++ le 2 k.sqid ++ le 1 k.ctrl.val
         | none => le 5 0) ++
        le 1 dataClass ++ le 2 0 ++ le 8 s.strokeNow ++ le 1 0 ++ le 1 0 ++ le 14 0 }
  (s.memoryError r).report src r

/-- The failed granule of a copy is replaced by another one of its tier (R188 step 3): a decoded block comes from the STAGED
copy or from flash, a STAGED granule from flash. -/
def State.replaceGranule (s : State) (q : QuarterId) (o : CacheId) (bad : Word64) : State :=
  match s.cache[q].objs.find? (fun x => x.id == o), tierAddr bad, s.ingot o.ingot.toNat, s.segment o with
  | some x, some a, some g, some e =>
    let old := a.off / 65536
    let image := fieldBytes g.image e.offset e.stored
    let put (l : List (Nat × Nat)) (n : Nat) : List (Nat × Nat) := updWhere l (fun p => p.2 == old) fun p => (p.1, n)
    match a.space with
    | .quarter r =>
      match firstIndex (fun (p : Nat × Nat) => p.2 == old) x.hotAt, s.takeQuarter q 1 with
      | some i, (some [n], s) =>
        if r != q then s
        else
          let want := min 65536 (x.decoded - 65536 * i)
          let out := match decodeOne (s.storedBytes x) i want with
            | some b => b
            | none => (decodeOne image i want).getD []
          (s.writeGranules (.quarter q) [n] out).recache q fun c =>
            { c with objs := updWhere c.objs (fun y => y.id == o) fun y => { y with hotAt := put y.hotAt n } }
      | _, _ => s
    | .stacked =>
      match firstIndex (fun (p : Nat × Nat) => p.2 == old) x.stagedAt, s.takeStacked q 1 with
      | some i, (some [n], s) =>
        (s.writeGranules .stacked [n] (fieldBytes image (65536 * i) (min 65536 (x.stored - 65536 * i)))).recache q fun c =>
          { c with objs := updWhere c.objs (fun y => y.id == o) fun y => { y with stagedAt := put y.stagedAt n } }
      | _, _ => s
    | _ => s
  | _, _, _, _ => s

/-- An Engine has waited on a refetch or a reload: the wait counts toward no declared length of its open command (R87). -/
def State.waitedNp (s : State) (e : EngineId) (us : Nat) : State :=
  s.modEngine e fun x =>
    if x.ctx.npOpen.isSome then
      { x with ctx := { x.ctx with npWait := x.ctx.npWait + min us (s.clockUs - x.ctx.npStart) } }
    else x

/-- A transfer waits for the refetches of its source in progress, and joins them; a C0 command among their waiters completes
without the promise (R83, R188). -/
def State.joinRefetch (s : State) (e : EngineId) (k : Key) (a : TierAddr) (n : Nat) : State :=
  let hot := a.space != Space.stacked
  let now := s.clockUs
  (granulesOf a n).foldl (fun s g => match s.cacheBlock a.space g with
    | some (q, o, i) =>
      let mine (r : Refetch) : Bool := r.id == o.id && ((r.hot == hot && (!hot || r.block == i)) || (hot && o.promoting && !r.hot))
      if s.cache[q].refetching.any mine then
        (s.modCache q fun c => { c with refetching := updWhere c.refetching mine (Refetch.join now (some e)) }).markUnbound k
      else s
    | none => s) s

/-- The Engines that waited for a refetch go on; the wait counts toward no declared length of an open command (R87). -/
def State.endRefetch (s : State) (q : QuarterId) (o : CacheId) (blk : Nat) (hot : Bool) : State :=
  let now := s.clockUs
  let mine (r : Refetch) : Bool := r.id == o && r.block == blk && r.hot == hot
  let one (s : State) (r : Refetch) : State :=
    r.waiters.foldl (fun s w => s.waitedNp w.1 (now - w.2)) s
  let s := (s.cache[q].refetching.filter mine).foldl one s
  s.modCache q fun c => { c with refetching := c.refetching.filter fun r => !mine r }

/-- A refetch ends (R188): counted, the failed granule withheld, a Corrected record, the block in another granule, and its
waiters resume; a flash read that is UNCORRECTABLE poisons the Ingot (R189), a flash read whose hash fails too (R198), and neither
replaces anything. -/
def doRefetchComplete (q : QuarterId) (o : CacheId) (blk : Nat) (bad : Word64) (fromFlash lost hashOk : Bool)
    (s : State) : State :=
  let s := s.endRefetch q o blk (bits bad.toNat 63 60 == 2)
  let s := s.modCache q fun c => { c with refetches := satAdd 16 c.refetches 1 }
  let poison := fromFlash && (lost || !hashOk)
  let s := s.memoryReport (.modelCache q) (if poison then .degraded else .corrected) 0x21 (bits bad.toNat 63 60)
    (bits bad.toNat 59 48) 4 2 0 bad.toNat none 1
  if !poison then s.replaceGranule q o bad
  else if lost then s.poisonIngot q o.ingot.toNat
  else s.hashMismatch q o

def execRefetchComplete (q : QuarterId) (o : CacheId) (blk : Nat) (bad : Word64) (fromFlash lost hashOk : Bool)
    (s : State) : Out := .next (doRefetchComplete q o blk bad fromFlash lost hashOk s)

/-- The stack that holds a stacked granule. -/
def stackOfGranule (g : Nat) : StackId := ⟨g * stackGranule / stackBytes % 24, by omega⟩

/-- A clean granule has been reloaded into another granule, and its waiters resume (Table 13-3); C0 commands among them
complete without the promise (R83), and the wait counts toward no declared length (R87). The error is reported here where no report has begun the reload (log 143). -/
def doGranuleReloadDone (q : QuarterId) (g : Nat) (waiters : List Key) (s : State) : State :=
  let begun := (s.mem.reloading.find? fun p => p.1 == g).map Prod.snd
  let now := s.clockUs
  let s := { s with mem := { s.mem with reloading := s.mem.reloading.filter fun x => x.1 != g } }
  let s := waiters.foldl State.markUnbound s
  let at_ (e : EngineId) : Bool := s.engines[e].job.any fun p => waiters.contains p.1
  let s := match begun with
    | some t => ((List.finRange 48).filter at_).foldl (fun s e => s.waitedNp e (now - t)) s
    | none => s
  if begun.isSome then s
  else
    let s := s.memoryReport (.stack (stackOfGranule g)) .corrected 0x21 4 0 4 3 q.val (4 * 2 ^ 60 + g * stackGranule) none 2
    { s with mem := { s.mem with reloading := s.mem.reloading.filter fun x => x.1 != g } }

def execGranuleReloadDone (q : QuarterId) (granule : Reload) (s : State) : Out :=
  .next (doGranuleReloadDone q granule.granule granule.waiters s)

end Sys2Proof.Machine
end

