-- ==== Sys2Proof/Machine/PewterOps.lean ====
section
/-! DEFINITION. The Pewter array: its words, the command sequence, the operations and the security events (chapter 12). -/

namespace Sys2Proof.Machine

/-! ### Words and sectors (R295, R297) -/

def pwtVaultBase : Nat := 0x02000000
def pwtOptBase : Nat := 0x02040000
def pwtOptEnd : Nat := 0x02044000

def Pewter.word (p : Pewter) (a : Nat) : Option PwtWord := p.words.find? fun w => w.addr == a

/-- A word counts as programmed unless every bit of it reads 1 (R297). -/
def Pewter.programmed (p : Pewter) (a : Nat) : Bool := p.words.any fun w => w.addr == a

/-- Words with rising addresses, one replaced or added. -/
def putWord (w : PwtWord) : List PwtWord → List PwtWord
  | [] => [w]
  | x :: xs => if w.addr < x.addr then w :: x :: xs else if w.addr == x.addr then w :: xs else x :: putWord w xs

def Pewter.program (p : Pewter) (a : Nat) (d : BitVec 128) (torn : Bool) : Pewter :=
  { p with words := putWord { addr := a, data := d, torn := torn } p.words }

/-- Base and size of the sector that holds an address (Table 12-1). -/
def pwtSector (a : Nat) : Nat × Nat :=
  if a < pwtVaultBase then
    if a % 0x1000000 < 0x10000 then (a - a % 0x2000, 0x2000) else (a - a % 0x10000, 0x10000)
  else (a - a % 0x2000, 0x2000)

def Pewter.eraseSector (p : Pewter) (a : Nat) : Pewter :=
  let (b, n) := pwtSector a
  { p with words := p.words.filter fun w => !(b ≤ w.addr && w.addr < b + n), undefined := p.undefined.filter (· != b) }

/-- LC_STATE: the number of programmed LC_WORDS (R308). -/
def Pewter.lcCount (p : Pewter) : Nat :=
  ((List.range 4).filter fun i => p.programmed (pwtOptBase + 0x10 + 16 * i)).length

/-- Programmed words of an ordered vault region (R311). -/
def Pewter.vaultCount (p : Pewter) (first n : Nat) : Nat :=
  (p.words.filter fun w => pwtVaultBase + 8 * first ≤ w.addr && w.addr < pwtVaultBase + 8 * (first + n)).length

/-- A byte of the option area: all ones where erased. -/
def Pewter.optByte (p : Pewter) (off : Nat) : Byte :=
  match p.word (pwtOptBase + off - off % 16) with
  | none => 0xFF
  | some w => BitVec.ofNat 8 (w.data.toNat / 2 ^ (8 * (off % 16)))

def Pewter.optBytes (p : Pewter) (off n : Nat) : List Byte := (List.range n).map fun i => p.optByte (off + i)

/-- Threshold set n of 1 to 16 that read-retry uses on a die, 15 signed offsets: of the parameter set that DIE_MAP names for the
die (Table 12-5, R274). -/
def Pewter.thresholdSet (p : Pewter) (die n : Nat) : List Byte :=
  let v := (p.optByte (0x2400 + die / 2)).toNat
  p.optBytes (0x2C00 + 256 * (if die % 2 == 0 then v % 16 else v / 16) + 16 * (n - 1)) 15

/-! ### The sequence (R298 to R300) -/

/-- A latched security event: PWT_SEC keeps the first, each is recorded and awaits the event log (R305). -/
def State.secLatch (s : State) (kind word : Nat) : State :=
  let p := s.pewter
  let p := if p.secEvent then p else { p with secEvent := true, secKind := kind, secWord := word }
  let s := { s with pewter := { p with secQueue := p.secQueue ++ [(kind, word)] } }
  s.reportGeneral .pewter .degraded 0x60 1 kind word none 0

/-- The sequence ends with a lockout (R298); the sixteenth lasts until reset and latches an event (R299). -/
def State.pwtLockout (s : State) (result : Nat) : State :=
  let n := satAdd 8 s.pewter.lockouts 1
  let s := { s with pewter := { s.pewter with seq := .lockout, cmd := none, result := result, lockouts := n, lockoutAt := s.clockUs } }
  if n == 16 then s.secLatch 2 0 else s

/-- A refusal without pulse or lockout: RESULT, and the sequence IDLE (R300). -/
def State.pwtRefuse (s : State) (result : Nat) : State :=
  { s with pewter := { s.pewter with seq := .idle, cmd := none, result := result } }

/-- A gap longer than 64 µs ended the sequence before this write (R298). -/
def State.pwtGap (s : State) : Bool :=
  (s.pewter.seq == .key1 || s.pewter.seq == .unlocked || s.pewter.seq == .cmdSet || s.pewter.seq == .data) &&
    s.clockUs > s.pewter.lastWriteUs + 64

/-- The common head of a sequence write: ignored in a lockout, TIMEOUT after a gap, BUSY while an operation runs. -/
def State.pwtWrite (s : State) (k : State → State) : State :=
  if s.pewter.seq == .lockout then s
  else if s.pwtGap then s.pwtLockout 5
  else if s.pewter.op.isSome then s.pwtRefuse 11
  else k { s with pewter := { s.pewter with lastWriteUs := s.clockUs } }

def State.pwtSeq (s : State) (q : SeqState) : State := { s with pewter := { s.pewter with seq := q } }

/-- The operation starts at the last write. -/
def State.pwtArm (s : State) (o : PwtOp) : State :=
  { s with pewter := { s.pewter with op := some o, cmd := none, seq := .busy } }

def doPwtUnlock (key : Word16) (s : State) : State :=
  s.pwtWrite fun s =>
    match s.pewter.seq with
    | .idle | .busy => if key == 0x5A17 then s.pwtSeq .key1 else s.pwtLockout 4
    | .key1 => if key == 0xC3E8 then s.pwtSeq .unlocked else s.pwtLockout 4
    | .unlocked | .cmdSet | .data | .lockout => s.pwtLockout 4

/-- The further data writes a command takes: none for the erases and the zeroise. -/
def pwtDataWrites (opcode len : Nat) : Nat := if opcode == 2 || opcode == 4 || opcode == 6 then 0 else len

def doEraseSuspend (s : State) : State :=
  if s.pewter.seq == .lockout then s
  else
    match s.pewter.op with
    | some o =>
      if o.pulsing && (o.opcode == 2 || o.opcode == 6) then { s with pewter := { s.pewter with suspending := true } }
      else s.pwtRefuse 7
    | none => s.pwtRefuse 7

def doEraseResume (s : State) : State :=
  if s.pewter.seq == .lockout then s
  else if s.pewter.op.isSome then s.pwtRefuse 11
  else
    match s.pewter.susp with
    | some o => { s with pewter := { s.pewter with op := some o, susp := none, seq := .busy, cmd := none } }
    | none => s.pwtRefuse 7

/-- A write to PWT_CMD (R298, R300, Table 12-3). -/
def doPwtCmd (opcode len : Nat) (s : State) : State :=
  if opcode == 8 then doEraseSuspend s
  else if opcode == 9 then doEraseResume s
  else
    s.pwtWrite fun s =>
      if opcode == 0 || opcode > 6 then s.pwtRefuse 7
      else if s.pewter.seq == .unlocked then
        let c : PwtOp := { opcode := opcode, len := len, addr := 0, data := [], fetchBank := none, pulsing := false }
        { s with pewter := { s.pewter with seq := .cmdSet, cmd := some c } }
      else s.pwtLockout 4

/-- A write to PWT_ADDR. One out of order ends the sequence and, the model's choice, leaves ADDRESS as it was (log 145). -/
def doPwtAddr (a : BitVec 26) (fetch : Option Bool) (s : State) : State :=
  s.pwtWrite fun s =>
    match s.pewter.seq, s.pewter.cmd with
    | .cmdSet, some c =>
      let c := { c with addr := a.toNat, fetchBank := fetch }
      let s := { s with pewter := { s.pewter with addr := a.toNat } }
      if pwtDataWrites c.opcode c.len == 0 then s.pwtArm c
      else { s with pewter := { s.pewter with seq := .data, cmd := some c } }
    | _, _ => s.pwtLockout 4

def doPwtData (d : Word64) (fetch : Option Bool) (s : State) : State :=
  s.pwtWrite fun s =>
    match s.pewter.seq, s.pewter.cmd with
    | .data, some c =>
      let c := { c with data := c.data ++ [d], fetchBank := fetch }
      if c.data.length ≥ pwtDataWrites c.opcode c.len then s.pwtArm c
      else { s with pewter := { s.pewter with cmd := some c } }
    | _, _ => s.pwtLockout 4

def execPwtUnlockWrite (key : Word16) (s : State) : Out := .next (doPwtUnlock key s)
def execPwtAddrWrite (addr : BitVec 26) (fetchBank : Option Bool) (s : State) : Out := .next (doPwtAddr addr fetchBank s)
def execPwtDataWrite (data : Word64) (fetchBank : Option Bool) (s : State) : Out := .next (doPwtData data fetchBank s)
def execPwtBadCmd (opcode : Byte) (len : BitVec 6) (s : State) : Out := .next (doPwtCmd opcode.toNat len.toNat s)
def execEraseSuspend (s : State) : Out := .next (doEraseSuspend s)
def execEraseResume (s : State) : Out := .next (doEraseResume s)

/-- The running erase has stopped (R309). -/
def doEraseSuspendComplete (s : State) : State :=
  if s.pewter.suspending then
    { s with pewter := { s.pewter with susp := s.pewter.op, op := none, suspending := false, seq := .idle } }
  else s

def execPwtSequenceTimeout (s : State) : Out := .next (if s.pwtGap then s.pwtLockout 5 else s)

/-! ### Operations -/

/-- An operation ends: RESULT and DONE, whatever the RESULT; a lockout goes on (R298, R299). -/
def State.pwtEnd (s : State) (result : Nat) : State :=
  { s with pewter := { s.pewter with
      op := none, suspending := false, seq := if s.pewter.seq == .lockout then .lockout else .idle, result := result
      done := true } }

def State.pwtPulse (s : State) (o : PwtOp) : State :=
  { s with pewter := { s.pewter with op := some { o with pulsing := true } } }

/-- The armed operation of an opcode, with BROWNOUT refused before any pulse (R303). -/
def State.pwtStart (s : State) (opcode : Nat) (k : PwtOp → State) : State :=
  match s.pewter.op with
  | some o =>
    if o.opcode == opcode && !o.pulsing then
      if s.pewter.brownout then s.pwtEnd 8 else k o
    else s
  | none => s

/-- Word addresses an operation programs. -/
def PwtOp.targets (o : PwtOp) : List Nat :=
  if o.opcode == 3 || o.opcode == 4 then [o.addr] else (List.range (o.len / 2)).map fun i => o.addr + 16 * i

/-- Bank of an address below the vault. -/
def pwtBank (a : Nat) : Bool := a ≥ 0x1000000

def State.pwtSelfBank (s : State) : State :=
  let s := { s with pewter := { s.pewter with selfBank := satAdd 8 s.pewter.selfBank 1 } }
  s.pwtEnd 3

def State.pwtAgain (s : State) : State :=
  let s := { s with pewter := { s.pewter with progAgain := satAdd 8 s.pewter.progAgain 1 } }
  s.pwtEnd 2

def doPageProgram (s : State) : State :=
  s.pwtStart 1 fun o =>
    if o.len < 2 || o.len > 32 || o.len % 2 == 1 || o.addr % 16 != 0 || o.addr ≥ pwtVaultBase ||
        o.addr % 256 + 8 * o.len > 256 then s.pwtEnd 6
    else if s.pewter.susp.any fun u => pwtSector u.addr == pwtSector o.addr then s.pwtEnd 12
    else if o.fetchBank == some (pwtBank o.addr) then s.pwtSelfBank
    else if o.targets.any s.pewter.programmed then s.pwtAgain
    else s.pwtPulse o

def doSectorErase (s : State) : State :=
  s.pwtStart 2 fun o =>
    if o.len != 0 || o.addr ≥ pwtVaultBase then s.pwtEnd 6
    else if s.pewter.susp.isSome then s.pwtEnd 11
    else if o.fetchBank == some (pwtBank o.addr) then s.pwtSelfBank
    else s.pwtPulse o

/-- The word a vault address names. -/
def vaultWord (a : Nat) : Nat := (a - pwtVaultBase) / 8

def doVaultProgram (s : State) : State :=
  s.pwtStart 3 fun o =>
    let w := vaultWord o.addr
    if o.len != 1 || o.addr < pwtVaultBase || o.addr ≥ pwtOptBase || o.addr % 8 != 0 then s.pwtEnd 6
    else if s.pewter.programmed o.addr then (s.secLatch 1 w).pwtEnd 2
    else if (w < 4096 && w == s.pewter.leafBatches) || (4096 ≤ w && w < 4608 && w == 4096 + s.pewter.rollback) ||
        (4608 ≤ w && w < 6688) then s.pwtPulse o
    else s.pwtEnd 6

def doVaultZeroise (s : State) : State :=
  s.pwtStart 4 fun o =>
    let w := vaultWord o.addr
    if o.len != 0 || o.addr < pwtVaultBase || o.addr % 8 != 0 || w < 4608 || w ≥ 6688 then s.pwtEnd 6
    else if !s.pewter.meltPermit then s.pwtEnd 10
    else s.pwtPulse o

/-- No word of an Ingot root slot is programmed. -/
def Pewter.slotErased (p : Pewter) (i : Nat) : Bool :=
  (List.range 6).all fun j => !p.programmed (pwtOptBase + 0x2C0 + 96 * i + 16 * j)

/-- An erased word of an Ingot root slot whose words were all erased when the option area was last loaded (R307, log 144). -/
def Pewter.freeIngotSlot (p : Pewter) (off : Nat) : Bool :=
  0x2C0 ≤ off && off < 0x5C0 && bit p.openSlots.toNat ((off - 0x2C0) / 96) && !p.programmed (pwtOptBase + off)

def doOptProgram (s : State) : State :=
  s.pwtStart 5 fun o =>
    let off := o.addr - pwtOptBase
    if o.len != 2 || o.addr < pwtOptBase || o.addr ≥ pwtOptEnd || o.addr % 16 != 0 then s.pwtEnd 6
    else if s.pewter.susp.any fun u => pwtSector u.addr == pwtSector o.addr then s.pwtEnd 12
    else if s.pewter.lcState == 0 then if s.pewter.programmed o.addr then s.pwtAgain else s.pwtPulse o
    else if 0x10 ≤ off && off < 0x50 then
      let i := (off - 0x10) / 16
      if i == s.pewter.lcState then s.pwtPulse o else if i > s.pewter.lcState then s.pwtEnd 6 else s.pwtEnd 10
    else if s.pewter.freeIngotSlot off then s.pwtPulse o
    else s.pwtEnd 10

def doOptErase (s : State) : State :=
  s.pwtStart 6 fun o =>
    if o.len != 0 || o.addr < pwtOptBase || o.addr ≥ pwtOptEnd then s.pwtEnd 6
    else if s.pewter.lcState != 0 then s.pwtEnd 10
    else if s.pewter.susp.isSome then s.pwtEnd 11
    else s.pwtPulse o

def execPageProgram (s : State) : Out := .next (doPageProgram s)
def execSectorErase (s : State) : Out := .next (doSectorErase s)
def execVaultProgram (s : State) : Out := .next (doVaultProgram s)
def execVaultZeroise (s : State) : Out := .next (doVaultZeroise s)
def execOptProgram (s : State) : Out := .next (doOptProgram s)
def execOptErase (s : State) : Out := .next (doOptErase s)

/-- The data of target i of a program. -/
def PwtOp.dataOf (o : PwtOp) (i : Nat) : BitVec 128 :=
  if o.opcode == 3 then BitVec.zeroExtend 128 (o.data.getD 0 0)
  else (o.data.getD (2 * i + 1) 0) ++ (o.data.getD (2 * i) 0)

/-- Counters and life-cycle follow the words programmed (R304, R308). -/
def Pewter.recount (p : Pewter) : Pewter :=
  { p with lcState := p.lcCount, leafBatches := p.vaultCount 0 4096, rollback := p.vaultCount 4096 512 }

/-- Program the targets of an operation; `torn` where a pulse was cut or the word failed to verify. -/
def Pewter.programTargets (p : Pewter) (o : PwtOp) (torn : Nat → Bool) : Pewter :=
  ((List.range o.targets.length).foldl
    (fun p i => p.program (o.targets.getD i 0) (if o.opcode == 4 then 0 else o.dataOf i) (torn i)) p).recount

/-- The pulses end and each word is verified; `failed` holds the targets that do not verify (R301, R304). -/
def doPwtOperationEnd (failed : List Nat) (s : State) : State :=
  match s.pewter.op with
  | none => s
  | some o =>
    if !o.pulsing || s.pewter.suspending then s
    else if o.opcode == 2 || o.opcode == 6 then
      let p := s.pewter.eraseSector o.addr
      let p := if o.opcode == 6 then p.recount else p
      ({ s with pewter := p }).pwtEnd 1
    else
      let s := { s with pewter := s.pewter.programTargets o fun i => failed.contains i }
      if failed.isEmpty || o.opcode == 4 then s.pwtEnd 1
      else
        let s := s.pwtEnd 9
        if o.opcode == 3 then s.reportGeneral .pewter .degraded 0x60 0 0 0 none 0 else s

/-- An operation cut by a brown-out: a program's targets count as programmed, an erase leaves its sector undefined. -/
def Pewter.cut (p : Pewter) (o : PwtOp) : Pewter :=
  if !o.pulsing then p
  else if o.opcode == 2 || o.opcode == 6 then { p with undefined := insertNew p.undefined (pwtSector o.addr).1 }
  else p.programTargets o fun _ => true

/-- The Hub supply falls below its threshold (R303): the operation in progress and a suspended erase end with BROWNOUT. -/
def doPewterBrownout (s : State) : State :=
  let s := { s with pewter := { s.pewter with brownout := true } }
  let cutOne (s : State) (o : PwtOp) : State :=
    let p := s.pewter.cut o
    ({ s with pewter := { p with aborts := satAdd 8 p.aborts 1 } }).pwtEnd 8
  let s := match s.pewter.op with
    | some o => if o.pulsing then cutOne s o else s
    | none => s
  match s.pewter.susp with
  | some o => let s := cutOne s o
    { s with pewter := { s.pewter with susp := none } }
  | none => s

/-- A part of the array that works alone (R295): a bank, or the vault with the option area. -/
inductive PwtPart where
  | bank (one : Bool)
  | vault
  deriving DecidableEq, Repr

/-- The part that an address lies in. -/
def pwtPart (a : Nat) : PwtPart := if a < pwtVaultBase then .bank (pwtBank a) else .vault

/-- A read of a part waits: a program runs there, or an erase that is not suspended (R310). -/
def Pewter.readWaits (p : Pewter) (x : PwtPart) : Bool := p.op.any fun o => o.pulsing && pwtPart o.addr == x

/-- A write of firmware waits: the sequencer is locked out, an operation runs or an erase is suspended, or the supply is low (R298,
R303). -/
def Pewter.writeWaits (p : Pewter) : Bool :=
  (p.op.any fun o => o.pulsing) || p.susp.isSome || p.seq == .lockout || p.brownout

/-- A read, or a write of firmware, joins those that wait. -/
def State.waitRead (s : State) (r : PwtRead) : State :=
  { s with pewter := { s.pewter with waiting := s.pewter.waiting ++ [r] } }

/-! ### The Management Controller's own reads (R295 to R297, R309, R310) -/

/-- A byte of the array as the Management Controller reads it: ones where erased, 0 in the key regions of the vault. -/
def Pewter.mcByte (p : Pewter) (a : Nat) : Byte :=
  if pwtVaultBase + 8 * 4608 ≤ a && a < pwtVaultBase + 8 * 6688 then 0
  else
    let n := if pwtVaultBase ≤ a && a < pwtOptBase then 8 else 16
    match p.word (a - a % n) with
    | none => 0xFF
    | some w => BitVec.ofNat 8 (w.data.toNat / 2 ^ (8 * (a % n)))

/-- No value is defined at an address: a torn word, or a sector that an erase left undefined (R297, R303). -/
def Pewter.mcOpen (p : Pewter) (a : Nat) : Bool :=
  p.undefined.contains (pwtSector a).1 || p.words.any fun w => w.torn && w.addr == a - a % (if pwtVaultBase ≤ a && a < pwtOptBase then 8 else 16)

/-- A read of the array by the Management Controller: a bus error outside the ranges of Table 12-1; all ones and SUSP_HIT in a
sector under a suspended erase, with a fetch fault where it is a fetch; it waits for an operation on its part. A torn word reads
as a free value (log 178). -/
def doArrayRead (a : Nat) (fetch size8 : Bool) (s : State) : State :=
  let p := s.pewter
  let n := if size8 then 8 else 4
  if a ≥ pwtOptEnd then s.emit .mcBusError
  else if p.readWaits (pwtPart a) then s.waitRead (.array a fetch size8)
  else if p.susp.any fun o => pwtSector o.addr == pwtSector a then
    let s := { s with pewter := { p with suspHit := true } }.emit (.readData (BitVec.ofNat 64 (2 ^ (8 * n) - 1)))
    if fetch then s.emit .mcFetchFault else s
  else if p.mcOpen a then
    let (v, s) := s.fresh
    s.emit (.readData (BitVec.ofNat 64 (v.toNat % 2 ^ (8 * n))))
  else s.emit (.readData (BitVec.ofNat 64 (unle ((List.range n).map fun i => p.mcByte (a + i)))))

/-- The next word of the event log is programmed while the sequencer is idle (R305). -/
def doSecurityEventLogProgram (s : State) : State :=
  match s.pewter.secQueue with
  | [] => s
  | (k, w) :: rest =>
    let p := { s.pewter with secQueue := rest }
    if s.pewter.seq != .idle || s.pewter.op.isSome || s.pewter.brownout then s
    else if s.pewter.secLogged ≥ 1504 then { s with pewter := p }
    else
      let d := BitVec.ofNat 128 (k + 2 ^ 8 * w + 2 ^ 32 * (s.strokeNow % 2 ^ 32))
      let p := p.program (pwtVaultBase + 8 * (6688 + p.secLogged)) d false
      { s with pewter := { p with secLogged := p.secLogged + 1 } }

def execSecurityEventLogProgram (s : State) : Out := .next (doSecurityEventLogProgram s)

end Sys2Proof.Machine
end

