-- ==== Sys2Proof/Machine/SecurityOps.lean ====
section
/-! DEFINITION. Keys, the Custodian protocol, Hallmarks, SPDM and debug access (chapter 14). -/

namespace Sys2Proof.Machine

/-- 8 n bytes from the Sterling random source, free values (log 9). -/
def State.freshBytes (s : State) (n : Nat) : List Byte × State :=
  let (ws, s) := s.freshN n
  (ws.flatMap fun w => le 8 w.toNat, s)

/-! ### What the life-cycle permits (Table 14-12) -/

def State.lc (s : State) : Nat := s.pewter.lcState

/-- A Custodian session is permitted: Struck and In Service. -/
def State.lcSession (s : State) : Bool := s.lc == 1 || s.lc == 2

/-- DEBUG_STATE of Table 14-10. -/
def State.debugState (s : State) : Nat :=
  match s.lc with
  | 0 | 1 => 2
  | 2 => 0
  | 3 => if s.sec.unlocked && s.sec.rejected < 3 then 3 else 0
  | _ => 1

/-- SERIAL of OPT0 (Table 12-4). -/
def State.serial (s : State) : List Byte := s.pewter.optBytes 0x50 32

/-! ### The vault and the roots -/

/-- Bytes of n vault words as the key loader reads them; an erased word reads ones. -/
def Pewter.vaultBytes (p : Pewter) (first n : Nat) : List Byte :=
  (List.range n).flatMap fun i =>
    match p.word (pwtVaultBase + 8 * (first + i)) with
    | some w => le 8 (w.data.toNat % 2 ^ 64)
    | none => List.replicate 8 0xFF

/-- Media key material of a Bench is there to derive from: drawn at the strike, not zeroised (R345, R367, Table 13-3). -/
def State.mediaKeyed (s : State) (b : BenchId) : Bool :=
  1 ≤ s.lc && s.lc ≤ 3 && !s.sec.badMediaKeys.contains b

/-- The two XTS keys of a Bench, which the Hub delivers over the sideband once the link of its die is up (R344); none in Raw
and Melted, where Benches hold no media key (R245). -/
def State.mediaKeys (s : State) (b : BenchId) : Option (List Byte × List Byte) :=
  if s.mediaKeyed b && s.links[dieOfBench b].state == .up then
    let k := Config.shake256 (ascii "ICZANT-MEDIA-1" ++ s.pewter.vaultBytes (4640 + 4 * b.val) 4) 64
    some (k.take 32, k.drop 32)
  else none

/-- The seed of a channel die, derived from the material of its first Bench (R344). -/
def State.dieSeed (s : State) (n : Nat) : List Byte :=
  Config.shake256 (ascii "ICZANT-CDKEY-1" ++ s.pewter.vaultBytes (4640 + 64 * n) 4) 64

/-- The encapsulation key of a channel die as the Hub recomputes it at each reset; none in Raw and Melted (R245, R344). -/
def State.dieKey (s : State) (n : Nat) : Option (List Byte) :=
  if 1 ≤ s.lc && s.lc ≤ 3 then some (Config.kemKey (s.dieSeed n)) else none

/-- Program a vault word from the Sterling core. -/
def State.programVault (s : State) (w : Nat) (d : Nat) : State :=
  { s with pewter := (s.pewter.program (pwtVaultBase + 8 * w) (BitVec.ofNat 128 d) (!Config.vaultVerifies w)).recount }

/-- The 96 bytes of a root slot at an option offset. -/
def State.rootSlot (s : State) (off : Nat) : List Byte := s.pewter.optBytes off 96

/-- Slots present among n from an option offset, by a register of present bits. -/
def presentSlots (n : Nat) (p : Nat) : List Nat := (List.range n).filter fun i => bit p i

def State.vendorSlots (s : State) : List (List Byte) :=
  (presentSlots 2 s.pewter.vendorRoots.toNat).map fun i => s.rootSlot (0x80 + 96 * i)

def State.hallmarkSlots (s : State) : List (List Byte) :=
  (presentSlots 4 s.pewter.hallmarkRoots.toNat).map fun i => s.rootSlot (0x140 + 96 * i)

def State.ingotSlots (s : State) : List (List Byte) :=
  (presentSlots 8 s.pewter.ingotRoots.toNat).map fun i => s.rootSlot (0x2C0 + 96 * i)

/-- A signature is accepted when one present root verifies it (R359). -/
def verifies (roots : List (List Byte)) (msg sig : List Byte) : Bool := roots.any fun r => Config.xmssVerify r msg sig

/-! ### Hallmarks (R355 to R358) -/

/-- The record of LEAF_BATCHES reaching 3,892, which it does once (R358). -/
def State.leavesCheck (s : State) : State :=
  if s.pewter.leafBatches == 3892 && !s.sec.leavesLow then
    ({ s with sec := { s.sec with leavesLow := true } }).reportSecurity .degraded 0x34 0 0 s.pewter.leafBatches
  else s

/-- Reserve the next batch, taking the one after it where the program of its word fails verification (R357) or its tree
is out of use (Table 13-3). -/
def State.reserveBatch (s : State) : Nat → State
  | 0 => s
  | fuel + 1 =>
    let w := s.pewter.leafBatches
    if w ≥ 4096 then s
    else
      let s := (s.programVault w 0).leavesCheck
      if Config.vaultVerifies w && !s.sec.badTrees.contains (w / 1024) then { s with sec := { s.sec with nextLeaf := 1024 * w, batchOpen := true } }
      else State.reserveBatch s fuel

/-- A leaf can be had: the open batch, or a word left to reserve one. -/
def State.leafLeft (s : State) : Bool := s.sec.batchOpen || s.pewter.leafBatches < 4096

/-- Sign a message with the next leaf; none where no leaf is left. The 2,828 bytes of Table 14-8. -/
def State.sign (s : State) (msg : List Byte) : Option (List Byte) × State :=
  let s := if s.sec.batchOpen then s else s.reserveBatch 4096
  if !s.sec.batchOpen then (none, s)
  else
    let l := s.sec.nextLeaf
    let t := l / 1048576
    let sig := Config.xmssSign (s.pewter.vaultBytes (4608 + 8 * t) 8) (l % 1048576) msg
    let sec := { s.sec with
      nextLeaf := l + 1, batchOpen := (l + 1) % 1024 != 0, hallmarks := (s.sec.hallmarks + 1) % 2 ^ 32 }
    (some (le 1 1 ++ le 1 t ++ le 2 0 ++ le 4 l ++ sig), { s with sec := sec })

/-- The message of a domain over a content (R356). -/
def domainMessage (domain : String) (content : List Byte) : List Byte :=
  Config.shake256 (ascii domain ++ content) 64

/-- A Hallmark counted against the quota of 256 in a power cycle (R358). -/
def State.quotaSign (s : State) (msg : List Byte) : Option (List Byte) × State :=
  if s.sec.quotaUsed ≥ 256 then (none, s)
  else
    let (h, s) := s.sign msg
    match h with
    | none => (none, s)
    | some _ => (h, { s with sec := { s.sec with quotaUsed := s.sec.quotaUsed + 1 } })

/-- Labels whose key the module holds: in force, or accepted for the next boundary (R346; Table 14-16 counts a key at its
acceptance). -/
def State.heldLabels (s : State) : List Word64 :=
  let pend := s.sec.keyEvents.filterMap fun e =>
    match e with
    | .deliver l _ => some l
    | .revoke _ => none
  ((s.sec.keys.map fun k => k.1) ++ pend).eraseDups

/-! ### HALLMARK_GET (R360) -/

def SessionState.code : SessionState → Nat
  | .none => 0
  | .initSent => 1
  | .established => 2

/-- Bytes 0 to 127 of Table 14-10. -/
def State.statusBytes (s : State) : List Byte :=
  le 1 s.lc ++ le 1 s.debugState ++ le 1 (if s.lcSession then s.sec.session.code else 3) ++
    le 1 (b2n s.pewter.activeBank + 2 * b2n s.sec.mediaKeysZero + 4 * b2n s.sec.strikeFailed) ++
    le 2 s.fw.version ++ le 2 s.pewter.rollback ++ le 4 s.pewter.leafBatches ++ le 4 s.sec.hallmarks ++
    le 2 s.heldLabels.length ++ le 2 s.sec.sessions ++ le 4 s.sec.tagFails ++ le 4 s.sec.kcvMismatches ++ le 4 0 ++
    s.serial ++ padTo 32 s.fw.digest ++ List.replicate 32 0

/-- Bytes 0 to 223 of Table 14-10. -/
def State.attestBytes (s : State) (e : Sqe) : List Byte :=
  s.statusBytes ++
    (le 4 e.cdw12.toNat ++ le 4 e.cdw13.toNat ++ le 4 e.cdw14.toNat ++ le 4 e.cdw15.toNat) ++
    le 8 s.mold.gen.toNat ++ padTo 64 s.mold.digest ++ le 8 s.strokeNow

/-- The checks every HALLMARK_GET meets: its function, reserved bits and buffer length. -/
def hallmarkFieldsOk (e : Sqe) (fn len : Nat) : Bool := e.cdw10.toNat == fn && e.cdw11.toNat ≥ len

/-- STATUS; a reserved function or bit is refused here too, since every such word comes to this row. -/
def doHallmarkStatus (e : Sqe) (s : State) : State :=
  if hallmarkFieldsOk e 0 128 then s.success e.key 0 0 s.statusBytes else s.refuse e.key scInvalidField

def execHallmarkGetStatus (e : Sqe) (s : State) : Out := .next (doHallmarkStatus e s)

/-- ROOTS, which waits for an operation on the vault or the option area (R310). -/
def doHallmarkRoots (e : Sqe) (s : State) : State :=
  if !hallmarkFieldsOk e 1 1344 then s.refuse e.key scInvalidField
  else if s.pewter.readWaits .vault then s.waitRead (.roots e)
  else s.success e.key 0 0 (s.pewter.optBytes 0x80 1344)

def execHallmarkGetRoots (e : Sqe) (s : State) : Out := .next (doHallmarkRoots e s)

/-- The attestation, once the traversal state is rebuilt. -/
def State.makeAttest (s : State) (e : Sqe) : State :=
  let body := s.attestBytes e
  match s.quotaSign (domainMessage "ICZANT-ATTEST-1" body) with
  | (none, s) => s.refuse e.key scHallmarkUnavailable
  | (some h, s) => s.success e.key 0 0 (body ++ h)

/-- ATTEST: not permitted in Raw; it waits for the rebuild of R357. -/
def doHallmarkAttest (e : Sqe) (s : State) : State :=
  if !hallmarkFieldsOk e 2 3052 then s.refuse e.key scInvalidField
  else if s.lc == 0 then s.refuse e.key scLifecycleDenied
  else if s.sec.rebuilt then s.makeAttest e
  else { s with sec := { s.sec with waiting := s.sec.waiting ++ [.attest e] } }

def execHallmarkGetAttest (e : Sqe) (s : State) : Out := .next (doHallmarkAttest e s)

/-! ### The Custodian session (R349 to R354) -/

/-- A message of a type with its 8-byte header (R350). -/
def custodianMessage (type : Nat) (body : List Byte) : List Byte :=
  le 1 type ++ le 3 0 ++ le 4 (8 + body.length) ++ body

/-- An Ethernet address by its six bytes, the first on the wire the highest. -/
def macOf (bs : List Byte) : BitVec 48 := BitVec.ofNat 48 (field (bs.take 6).reverse 0 6)

/-- The module's source address: 0x02 and bytes 0 to 4 of SHAKE256(SERIAL) (R349). -/
def State.ownMac (s : State) : BitVec 48 := macOf (le 1 2 ++ (Config.shake256 s.serial 32).take 5)

/-- The payloads of the frames that carry a message: fragment headers (Table 14-3) with up to 1,472 bytes each. -/
def fragments (id : Word32) (msg : List Byte) : List (List Byte) :=
  (List.range (cdiv msg.length 1472)).map fun i =>
    le 2 0x5543 ++ le 1 1 ++ le 1 (b2n (msg.length ≤ 1472 * (i + 1))) ++ le 4 id.toNat ++ le 4 (1472 * i) ++
      le 4 msg.length ++ (msg.drop (1472 * i)).take 1472

/-- Send a message in frames of EtherType 0x88B5 to the source of the last frame received, or to all before one was
received (R349). -/
def State.sendMessage (s : State) (type : Nat) (body : List Byte) : State :=
  let frames := (fragments s.sec.msgId (custodianMessage type body)).map fun p => Output.custodian s.sec.peer s.ownMac p
  { s with out := s.out ++ frames, sec := { s.sec with msgId := s.sec.msgId + 1 } }

/-- Nonce of a record: direction and SEQ (R352). -/
def recordNonce (dir seq : Nat) : List Byte := le 4 dir ++ le 8 seq

/-- Send an inner message as a record, while a session is established. -/
def State.sendRecord (s : State) (inner : List Byte) : State :=
  if s.sec.session != .established then s
  else
    let seq := le 8 s.sec.seqOut
    let aad := le 1 0x10 ++ le 3 0 ++ le 4 (32 + inner.length) ++ seq
    let body := seq ++ Config.gcmSeal s.sec.keyOut (recordNonce 0 s.sec.seqOut) aad inner
    let s := s.sendMessage 0x10 body
    { s with sec := { s.sec with seqOut := s.sec.seqOut + 1 } }

/-- Labels of the Mold in force whose key is not held, ascending. -/
def State.missingLabels (s : State) : List Nat :=
  match s.theMold with
  | none => []
  | some m =>
    (m.colls.filter fun c => !s.heldLabels.contains c.label).foldl (fun l c => insertRising c.label.toNat l) []

/-- KEY_REQUESTs for the labels missing, at most 1,024 in each (R353). -/
def State.sendKeyRequests (s : State) : State :=
  let ls := s.missingLabels
  (List.range (cdiv ls.length 1024)).foldl
    (fun s i =>
      let part := (ls.drop (1024 * i)).take 1024
      s.sendRecord (le 1 0x11 ++ le 1 0 ++ le 2 part.length ++ le 4 0 ++ part.flatMap (le 8)))
    s

/-- The session is lost after a failure or a CLOSE: a backoff runs before the next SESSION_INIT, and the one after it is twice
as long (R354). -/
def State.sessionLost (s : State) : State :=
  { s with sec := { s.sec with
      session := .none, backingOff := true, readyUs := s.clockUs + 1000000 * s.sec.backoffS
      backoffS := min (2 * s.sec.backoffS) 3600, kemSeed := [], initBody := [], seqOut := 0, seqIn := 0, discards := 0 } }

/-- A record or a whole message is discarded and counted (R350). -/
def State.tagFail (s : State) : State :=
  let s := { s with sec := { s.sec with tagFails := satAdd 32 s.sec.tagFails 1 } }
  s.reportSecurity .informational 0x30 0 0 0

/-- The SESSION_INIT body of Table 14-5 with its Hallmark; none where no leaf is left. -/
def State.buildInit (s : State) : Option State :=
  let (seed, s) := s.freshBytes 8
  let (nonce, s) := s.freshBytes 4
  let head := le 2 1 ++ le 1 s.lc ++ le 5 0 ++ s.serial ++ nonce ++ le 8 0 ++ padTo 1568 (Config.kemKey seed)
  match s.sign (domainMessage "ICZANT-SESSION-1" head) with
  | (none, _) => none
  | (some h, s) =>
    let sec := { s.sec with session := .initSent, kemSeed := seed, initBody := head ++ h, initUs := s.clockUs }
    some (({ s with sec := sec }).sendMessage 0x01 (head ++ h))

/-- SESSION_INIT is sent from NONE where a session is permitted, no backoff runs and a leaf is ready. -/
def doSessionInit (s : State) : State :=
  if s.sec.session == .none && s.lcSession && !s.sec.backingOff && s.sec.rebuilt && s.leafLeft then
    match s.buildInit with
    | some t => t
    | none => s
  else s

def execSessionInit (s : State) : Out := .next (doSessionInit s)

/-- SESSION_INIT resent unchanged, 1 s after it was last sent; its message has a number of its own (log 151). -/
def execSessionInitResend (s : State) : Out :=
  .next (if s.sec.session == .initSent && s.clockUs ≥ s.sec.initUs + 1000000 then
    ({ s with sec := { s.sec with initUs := s.clockUs } }).sendMessage 0x01 s.sec.initBody
  else s)

/-- The accepted message at the head of the inbox, if it is the one the row acts on, is taken. -/
def State.takeInbox (s : State) (type : Byte) : State :=
  match s.sec.inbox with
  | (t, _) :: rest => if t == type then { s with sec := { s.sec with inbox := rest } } else s
  | [] => s

/-- The keys of a session, from its shared secret and both bodies (R352). -/
def sessionKeys (ss init accept : List Byte) : BitVec 256 × BitVec 256 :=
  let th := Config.shake256 (init ++ accept) 64
  let k := Config.shake256 (ss ++ th ++ ascii "ICZANT-CUSTODIAN-1") 64
  (BitVec.ofNat 256 (field k 0 32), BitVec.ofNat 256 (field k 32 32))

/-- SESSION_ACCEPT (R352): the keys, the established session, the first KEY_REQUESTs. -/
def doSessionAccept (body : List Byte) (s : State) : State :=
  let s := s.takeInbox 0x02
  if s.sec.session != .initSent then s.tagFail
  else
    let ss := Config.kemDecaps s.sec.kemSeed (fieldBytes body 40 1568)
    let (ko, ki) := sessionKeys ss s.sec.initBody body
    let s := { s with sec := { s.sec with
      session := .established, keyOut := ko, keyIn := ki, seqOut := 0, seqIn := 0, discards := 0, backoffS := 10,
      backingOff := false, kemSeed := [], initBody := [], lastRecordUs := s.clockUs,
      sessions := (s.sec.sessions + 1) % 2 ^ 16 } }
    s.sendKeyRequests

def execSessionAccept (body : List Byte) (s : State) : Out := .next (doSessionAccept body s)

/-- SESSION_REJECT (R354). -/
def doSessionReject (reason : Word32) (s : State) : State :=
  let s := s.takeInbox 0x03
  if s.sec.session != .initSent then s.tagFail
  else s.sessionLost.reportSecurity .degraded 0x32 (reason.toNat % 256) 0 0

def execSessionReject (reason : Word32) (s : State) : Out := .next (doSessionReject reason s)

/-- The backoff has run. -/
def execSessionBackoffExpiry (s : State) : Out :=
  .next (if s.clockUs ≥ s.sec.readyUs then { s with sec := { s.sec with backingOff := false } } else s)

/-- 5 s without a record: PING. -/
def execSessionIdlePing (s : State) : Out :=
  .next (if s.clockUs ≥ s.sec.lastRecordUs + 5000000 then s.sendRecord (le 1 0x15 ++ le 7 0) else s)

/-- 15 s without a record: the session is lost. -/
def execSessionTimeout (s : State) : Out :=
  .next (if s.sec.session == .established && s.clockUs ≥ s.sec.lastRecordUs + 15000000 then s.sessionLost else s)

/-- An inner message is acted on only in an established session. -/
def State.inner (s : State) (type : Byte) (k : State → State) : State :=
  let s := s.takeInbox type
  if s.sec.session != .established then s
  else k { s with sec := { s.sec with lastRecordUs := s.clockUs } }

def execPing (s : State) : Out := .next (s.inner 0x15 fun s => s.sendRecord (le 1 0x16 ++ le 7 0))
def execPong (s : State) : Out := .next (s.inner 0x16 fun s => s)
def execClose (_reason : Byte) (s : State) : Out := .next (s.inner 0x17 fun s => s.sessionLost)

/-! ### Frames and messages (R349, R350) -/

/-- Record a complete message is split into: accepted, discarded, or counted. -/
def State.acceptMessage (s : State) (m : List Byte) : State :=
  let type := field m 0 1
  let body := m.drop 8
  if field m 1 3 != 0 || field m 4 4 != m.length then s.tagFail
  else if (type == 0x02 && m.length == 1616 || type == 0x03 && m.length == 16) && s.sec.session == .initSent then
    { s with sec := { s.sec with inbox := s.sec.inbox ++ [(BitVec.ofNat 8 type, body)] } }
  else if type == 0x10 && m.length ≥ 33 && s.sec.session == .established then
    let seq := field body 0 8
    let ct := (body.drop 8).take (body.length - 24)
    let plain := Config.gcmOpen s.sec.keyIn (recordNonce 1 seq) (m.take 16) ct (body.drop (body.length - 16))
    match (if seq == s.sec.seqIn then plain else none) with
    | some inner =>
      { s with sec := { s.sec with
          seqIn := seq + 1, lastRecordUs := s.clockUs, inbox := s.sec.inbox ++ [(inner.getD 0 0, inner)] } }
    | none =>
      let s := s.tagFail
      let s := { s with sec := { s.sec with discards := s.sec.discards + 1 } }
      if s.sec.discards ≥ 3 then s.sessionLost else s
  else s.tagFail

/-- Bytes of a message assembled from its fragments, a later fragment over an earlier one; none while bytes are missing. -/
def assemble (length : Nat) (frags : List (Nat × List Byte)) : Option (List Byte) :=
  (List.range length).mapM fun i =>
    match frags.reverse.find? fun f => f.1 ≤ i && i < f.1 + f.2.length with
    | some f => some (f.2.getD (i - f.1) 0)
    | none => none

/-- One received frame: discarded with a bad frame check sequence (R416) or another EtherType (R349); none is answered while
the Management Controller is held (Table 13-3). -/
def doCustodianFrame (f : CustFrame) (s : State) : State :=
  if !f.fcsOk || f.etherType != 0x88B5 || s.fw.mcHeld then s
  else
    let s := { s with sec := { s.sec with peer := f.source } }
    if f.magic != 0x5543 || f.version != 1 || f.len < 8 || f.len > 16384 then s
    else
      let fresh : Reassembly := { msgId := f.msgId, length := f.len, frags := [], sawLast := false, startUs := s.clockUs }
      let r := match s.sec.reassembly with
        | some r => if r.msgId == f.msgId && r.length == f.len then r else fresh
        | none => fresh
      let r := { r with frags := r.frags ++ [(f.off, f.bytes)], sawLast := r.sawLast || f.last }
      match (if r.sawLast then assemble r.length r.frags else none) with
      | some m => ({ s with sec := { s.sec with reassembly := none } }).acceptMessage m
      | none => { s with sec := { s.sec with reassembly := some r } }

def execCustodianFrame (f : CustFrame) (s : State) : Out := .next (doCustodianFrame f s)

/-- A message incomplete 100 ms after its first fragment is discarded (R349). -/
def execMessageReassemblyTimeout (s : State) : Out :=
  .next (match s.sec.reassembly with
    | some r => if s.clockUs ≥ r.startUs + 100000 then { s with sec := { s.sec with reassembly := none } } else s
    | none => s)

/-! ### Collection keys (R346 to R348) -/

def kcvOf (key : BitVec 256) : List Byte := (Config.shake256 (ascii "ICZANT-KCV" ++ le 32 key.toNat) 32).take 16

/-- Declared Collections of a label. -/
def State.declaredOf (s : State) (label : Word64) : List Nat :=
  match s.theMold with
  | none => []
  | some m => (m.colls.filter fun c => c.label == label).map fun c => c.id

/-- The delivered key disagrees with the KCV of a declared Collection. -/
def State.kcvBad (s : State) (label : Word64) (key : BitVec 256) : Bool :=
  (s.declaredOf label).any fun i =>
    match s.coll i with
    | some c =>
      match c.kcv with
      | some v => v != kcvOf key
      | none => false
    | none => false

/-- The KCV of every declared Collection of the label that has none is set, in its descriptor on media. -/
def State.setKcv (s : State) (label : Word64) (key : BitVec 256) : State :=
  let bare (s : State) (i : Nat) : Bool := match s.coll i with
    | some c => c.kcv.isNone
    | none => false
  (s.declaredOf label).foldl
    (fun s i =>
      if bare s i then ((s.modColl i fun c => { c with kcv := some (kcvOf key) }).dirtyThrough 0 (descriptorGranule i) 5).1
      else s) s

/-- Labels held, other than one. -/
def State.labelsHeld (s : State) (label : Word64) : Nat := (s.heldLabels.filter fun l => l != label).length

def allLabels : Word64 := 0xFFFFFFFFFFFFFFFF

/-- A key event reaches the key stores. -/
def applyKeyEvent (keys : List (Word64 × BitVec 256)) : KeyEvent → List (Word64 × BitVec 256)
  | .deliver l k => assocSet keys l k
  | .revoke l => keys.filter fun p => !(l == allLabels || p.1 == l)

/-- Objects deferred for a key return to PENDING once it is held (R253). -/
def State.keysArrived (s : State) : State :=
  let ok (o : Obj) : Bool :=
    o.state == .deferred && o.reason == reasonKeyAbsent &&
      match s.coll o.coll with
      | some c => s.keyHeld c.label
      | none => false
  { s with search := { s.search with
      objs := updWhere s.search.objs ok fun o => { o with state := .pending, reason := 0 } } }

/-- A Collection that has become key-absent (R348): its work in flight is quenched, what waits is refused, and its
objects being read or waiting are deferred. -/
def State.keyGone (s : State) (i : Nat) : State :=
  let mine := s.sched.jobs.filter fun j => j.coll == some i
  let waiting := (mine.filter fun j => j.state == .waiting).map fun j => j.key
  let s := waiting.foldl (fun s k => (s.refuse k scKeyAbsent).dropJob k) s
  let s := { s with sched := { s.sched with
    jobs := updWhere s.sched.jobs (fun j => j.coll == some i && j.quenchable) fun j => { j with quenching := true } } }
  s.deferColls [i] reasonKeyAbsent

/-- Keys held for Collections declared only now, those accepted for the next boundary among them, are checked against their
KCV (R347): a key that disagrees is erased, a first key sets it. -/
def State.checkKcvs (s : State) : State :=
  let pend := s.sec.keyEvents.filterMap fun e =>
    match e with
    | .deliver l k => some (l, k)
    | .revoke _ => none
  (s.sec.keys ++ pend).foldl
    (fun s p =>
      if s.kcvBad p.1 p.2 then
        let s := { s with sec := { s.sec with
          keys := s.sec.keys.filter fun q => q != p, keyEvents := s.sec.keyEvents.filter fun e => e != KeyEvent.deliver p.1 p.2
          kcvMismatches := satAdd 32 s.sec.kcvMismatches 1 } }
        s.reportSecurity .degraded 0x31 0 p.1 0
      else s.setKcv p.1 p.2)
    s

/-- The key events take effect, in session order (R346, R348). -/
def State.applyKeys (s : State) : State :=
  let before := s.sec.keys
  let keys := s.sec.keyEvents.foldl applyKeyEvent s.sec.keys
  let s := { s with sec := { s.sec with keys := keys, keyEvents := [] } }
  let lost (c : CollEntry) : Bool := before.any (fun k => k.1 == c.label) && !s.keyHeld c.label
  let gone : List Nat := match s.theMold with
    | some m => (m.colls.filter lost).map fun c => c.id
    | none => []
  (gone.foldl State.keyGone s).keysArrived

/-- A key event waits for the next boundary, or takes effect at once while no grid runs (R346). -/
def State.keyEvent (s : State) (e : KeyEvent) : State :=
  let s := { s with sec := { s.sec with keyEvents := s.sec.keyEvents ++ [e] } }
  if s.gridRuns then s else s.applyKeys

def State.sendKeyAck (s : State) (result : Nat) (label : Word64) : State :=
  s.sendRecord (le 1 0x13 ++ le 1 result ++ le 6 0 ++ le 8 label.toNat)

/-- KEY_DELIVER (R347): FULL, KCV_MISMATCH, or accepted. -/
def doKeyDeliver (label : Word64) (key : BitVec 256) (s : State) : State :=
  s.inner 0x12 fun s =>
    if !s.lcSession then s.sendKeyAck 3 label
    else if s.labelsHeld label ≥ 4096 then s.sendKeyAck 1 label
    else if s.kcvBad label key then
      let s := { s with sec := { s.sec with kcvMismatches := satAdd 32 s.sec.kcvMismatches 1 } }
      (s.reportSecurity .degraded 0x31 0 label 0).sendKeyAck 2 label
    else ((s.setKcv label key).keyEvent (.deliver label key)).sendKeyAck 0 label

def execKeyDeliver (label : Word64) (key : BitVec 256) (s : State) : Out := .next (doKeyDeliver label key s)

/-- KEY_REVOKE (R348). -/
def doKeyRevoke (label : Word64) (s : State) : State :=
  s.inner 0x14 fun s => (s.reportSecurity .informational 0x33 0 label 0).keyEvent (.revoke label)

def execKeyRevoke (label : Word64) (s : State) : Out := .next (doKeyRevoke label s)

/-! ### SPDM (R361); request and response codes are those of SPDM 1.3 (log 18) -/

def State.conn (s : State) (p : SpdmPort) : SpdmConn :=
  match s.sec.spdm.find? fun c => c.port == p with
  | some c => c
  | none => { port := p, version := false, caps := false, algs := false }

def State.setConn (s : State) (c : SpdmConn) : State :=
  { s with sec := { s.sec with spdm := (s.sec.spdm.filter fun x => x.port != c.port) ++ [c] } }

/-- A request reaches the responder: the BMC port answers (R413), or the function is present (R372). -/
def State.atPort (s : State) (p : SpdmPort) (k : State → State) : State :=
  match p with
  | .mctp => if s.bmc.answers then k s else s
  | .doe c => if s.present c then k s else s

def State.spdmError (s : State) (p : SpdmPort) (code : Byte) : State := s.emit (.spdm p 0x7F [code])

/-- A measurement block of an index (R361). -/
def State.measurement (s : State) : Nat → List Byte
  | 1 => padTo 32 s.fw.digest
  | 2 => le 2 s.fw.version ++ le 2 s.pewter.rollback
  | 3 => le 1 s.lc
  | 4 => le 8 s.mold.gen.toNat ++ padTo 64 s.mold.digest
  | 5 => s.pewter.optBytes 0x3FE0 32
  | _ => []

def execSpdmGetVersion (p : SpdmPort) (s : State) : Out :=
  .next (s.atPort p fun s =>
    (s.setConn { port := p, version := true, caps := false, algs := false }).emit (.spdm p 0x04 (le 2 0x1300)))

/-- CHAL_CAP, MEAS_CAP = 2 and PUB_KEY_ID_CAP. -/
def execSpdmGetCapabilities (p : SpdmPort) (s : State) : Out :=
  .next (s.atPort p fun s =>
    if (s.conn p).version then (s.setConn { s.conn p with caps := true }).emit (.spdm p 0x61 (le 4 0x10014))
    else s.spdmError p 0x04)

/-- BaseAsymAlgo 0, BaseHashAlgo SHA3_512, one extended algorithm with registry 0x03 and identifier 0x1C01. -/
def execSpdmNegotiateAlgorithms (p : SpdmPort) (s : State) : Out :=
  .next (s.atPort p fun s =>
    if (s.conn p).caps then
      (s.setConn { s.conn p with algs := true }).emit (.spdm p 0x63 (le 4 0 ++ le 4 0x20 ++ le 1 1 ++ [0x03, 0x00] ++ le 2 0x1C01))
    else s.spdmError p 0x04)

/-- A signed response: the content and the Hallmark over SPDM's own message. -/
def State.spdmSigned (s : State) (p : SpdmPort) (code : Byte) (content : List Byte) : State :=
  match s.quotaSign (Config.spdmMessage content) with
  | (none, s) => s.spdmError p 0x05
  | (some h, s) => s.emit (.spdm p code (content ++ h))

/-- CHALLENGE: SlotID 0xFF; the answer waits for the rebuild. -/
def doSpdmChallenge (p : SpdmPort) (slot : Byte) (nonce : List Byte) (s : State) : State :=
  if !(s.conn p).algs then s.spdmError p 0x04
  else if slot != 0xFF || s.lc == 0 then s.spdmError p 0x01
  else
    let (mine, s) := s.freshBytes 4
    let content := le 1 0xFF ++ nonce ++ mine
    if s.sec.rebuilt then s.spdmSigned p 0x03 content
    else { s with sec := { s.sec with waiting := s.sec.waiting ++ [.challenge p content] } }

def execSpdmChallenge (p : SpdmPort) (slot : Byte) (nonce : List Byte) (s : State) : Out :=
  .next (s.atPort p (doSpdmChallenge p slot nonce))

/-- Blocks of a GET_MEASUREMENTS: index 0 asks for their number, 0xFF for all. -/
def State.measurementBlocks (s : State) (index : Nat) : Option (List Byte) :=
  if index == 0 then some (le 1 5)
  else if index == 255 then some ([1, 2, 3, 4, 5].flatMap fun i => le 1 i ++ s.measurement i)
  else if index ≤ 5 then some (le 1 index ++ s.measurement index)
  else none

/-- GET_MEASUREMENTS; block 5 reads the option area, and waits for an operation on it (R310). -/
def doSpdmMeasurements (p : SpdmPort) (index : Byte) (sign : Bool) (nonce : List Byte) (s : State) : State :=
  if !(s.conn p).algs then s.spdmError p 0x04
  else if (index == 5 || index == 255) && s.pewter.readWaits .vault then s.waitRead (.measure p index sign nonce)
  else
    match s.measurementBlocks index.toNat with
    | none => s.spdmError p 0x01
    | some b =>
      if !sign then s.emit (.spdm p 0x60 b)
      else if s.lc == 0 then s.spdmError p 0x01
      else
        let (mine, s) := s.freshBytes 4
        let content := b ++ nonce ++ mine
        if s.sec.rebuilt then s.spdmSigned p 0x60 content
        else { s with sec := { s.sec with waiting := s.sec.waiting ++ [.measure p content] } }

def execSpdmGetMeasurements (p : SpdmPort) (index : Byte) (sign : Bool) (nonce : List Byte) (s : State) : Out :=
  .next (s.atPort p (doSpdmMeasurements p index sign nonce))

/-- Any other request: ERROR with code UnsupportedRequest. -/
def execSpdmUnsupportedRequest (p : SpdmPort) (code : Byte) (s : State) : Out :=
  .next (s.atPort p fun s => s.emit (.spdm p 0x7F [0x07, code]))

/-! ### Debug access (R369) -/

/-- IDCODE of the TAP (R417). -/
def tapIdcode : Word32 := 0x01024E2D

/-- What the debug port can reach (Table 14-12, R369, R417). -/
inductive DebugUse where
  | bypass
  | idcode
  | challenge
  | token
  | boundaryScan
  | plate
  | sterling
  deriving DecidableEq, Repr

/-- The port is open for a use: BYPASS and IDCODE always, the unlock registers in Returned until the third rejection, boundary
scan in Raw, Struck and Melted, Plate debug and trace in Raw, in Struck and from an accepted token to a third rejection,
Sterling in Raw alone.
Trace outputs are low while Plate debug is shut. -/
def State.debugOpen (s : State) : DebugUse → Bool
  | .bypass | .idcode => true
  | .challenge | .token => s.lc == 3 && s.sec.rejected < 3
  | .boundaryScan => s.lc == 0 || s.lc == 1 || s.lc == 4
  | .plate => s.lc == 0 || s.lc == 1 || (s.lc == 3 && s.sec.unlocked && s.sec.rejected < 3)
  | .sterling => s.lc == 0

/-- A token's fields and signature hold. -/
def State.tokenOk (s : State) (t : List Byte) : Bool :=
  let slot := field t 5 1
  t.length == 2892 && field t 0 4 == 0x47424455 && field t 4 1 == 1 && slot ≤ 1 && field t 6 2 == 0 && fieldBytes t 8 32 == s.serial &&
    field t 40 32 == s.sec.challenge.toNat && bit s.pewter.vendorRoots.toNat slot &&
    Config.xmssVerify (s.rootSlot (0x80 + 96 * slot))
      (Config.shake256 (ascii "ICZANT-DEBUG-1" ++ t.take 72) 64) (t.drop 72)

/-- A token: in Returned, until the third rejection. -/
def doDbgToken (t : List Byte) (s : State) : State :=
  if s.lc != 3 || s.sec.rejected ≥ 3 then s.emit (.debug false)
  else if s.tokenOk t then
    let s := { s with sec := { s.sec with unlocked := true } }
    (s.reportSecurity .degraded 0x36 1 0 0).emit (.debug true)
  else
    let (c, s) := s.fresh256
    let s := { s with sec := { s.sec with rejected := s.sec.rejected + 1, challenge := c } }
    (s.reportSecurity .degraded 0x36 0 0 0).emit (.debug false)

def execDbgToken (token : List Byte) (s : State) : Out := .next (doDbgToken token s)

end Sys2Proof.Machine
end

