-- ==== Sys2Proof/Machine/PowerOps.lean ====
section
/-! DEFINITION. Caps, allocations, the conditions of the C0 bound, thermal limits, the hold-up bank and the power
states (chapter 16; R84, R392 to R394). -/

namespace Sys2Proof.Machine

def State.modPower (s : State) (f : Power → Power) : State := { s with power := f s.power }

/-! ### Critical warnings (R427) -/

/-- User blocks as a percentage of start of life (Table 16-10). -/
def State.sparePercent (s : State) : Nat := 100 * (s.flash.toList.map Flash.userBlocks).sum / (512 * 76448)

/-- Some part is FAILED. -/
def State.anyFailed (s : State) : Bool :=
  s.engines.toList.any (fun e => e.state == .failed) || s.benches.toList.any (fun b => b.state == .failed) ||
    s.links.toList.any (fun l => l.state == .failed) || s.mem.excluded != 0 || s.errors.hubFailed

/-- Critical Warning bits. -/
def State.criticalWarning (s : State) : Nat :=
  b2n (s.sparePercent < 95) + 2 * b2n s.power.emergency + 4 * b2n s.anyFailed +
    16 * b2n (s.power.inputGood && !s.power.holdupOk)

/-- The standard SMART / Health event of a warning bit that has risen; its information field and enable bits are
NVMe's (log 19). -/
def State.smartCheck (s : State) (before : Nat) : State :=
  let now := s.criticalWarning
  let rose := [0, 1, 2, 4].filter fun i => bit now i && !bit before i
  match rose.head? with
  | none => s
  | some i =>
    let ev := 1 + 2 ^ 8 * (if i == 0 then 2 else if i == 1 then 1 else 0) + 2 ^ 16 * 2
    let one (s : State) (c : Ctrl) : State :=
      if rose.any fun j => bit s.ctrls[c].asyncConfig.toNat j then s.aerEvent c ev else s
    one (one s 0) 1

def State.withSmart (s : State) (f : State → State) : State := (f s).smartCheck s.criticalWarning

/-! ### The conditions of the C0 bound (R83, R84) -/

/-- C0 commands in flight complete without the promise and are counted once each. -/
def State.countUnbound (s : State) : State :=
  let hit (j : Job) : Bool := j.cls == 0 && j.state != .waiting && !j.unbound
  let n := (s.sched.jobs.filter hit).length
  { s with sched := { s.sched with
      jobs := updWhere s.sched.jobs hit fun j => { j with unbound := true }, unbound := satAdd 32 s.sched.unbound n } }

/-- Evaluate the four conditions. Within a Stroke a condition only falls; it rises at a boundary. -/
def State.evalC0 (s : State) (atBoundary : Bool) : State :=
  let floor := match s.theMold with
    | some m => m.c0FloorW
    | none => 0
  let keep (old new : Bool) : Bool := if atBoundary then new else old && new
  let g := keep s.sched.gridCond s.gridLocked
  let p := keep s.sched.powerCond (s.power.state ≤ 1 && floor ≤ s.power.capEff && s.theMold.isSome)
  let t := keep s.sched.thermalCond !s.power.emergency
  let r := keep s.sched.recastCond !s.mold.c0Suspended
  let shop := match s.theMold with
    | some m => m.c0Shop.isSome
    | none => false
  let s := { s with sched := { s.sched with
    gridCond := g, powerCond := p, thermalCond := t, recastCond := r, boundHeld := shop && g && p && t && r } }
  if g && p && t && r then s else s.countUnbound

/-! ### Caps (R402) -/

/-- Power of a state, W (Table 15-13). -/
def stateWatts (n : Nat) : Nat := [1800, 1200, 800, 350, 90].getD n 1800

/-- Caps in the order of Table 16-6: value and source code. -/
def State.caps (s : State) : List (Nat × Nat) :=
  let p := s.power
  (if p.emergency then [(800, 5)] else []) ++ (if p.brake then [(p.brakeW, 4)] else []) ++
    [(stateWatts p.state, 3)] ++ (if p.bmcCap == 0 then [] else [(p.bmcCap, 2)]) ++ [(p.hostCap, 1)] ++
    [match s.theMold with
     | some m => (m.capW, 0)
     | none => (1800, 6)]

/-- The least cap and its source; the first listed among equals. -/
def leastCap : List (Nat × Nat) → Nat × Nat
  | [] => (1800, 6)
  | [c] => c
  | c :: cs => let d := leastCap cs
    if c.1 ≤ d.1 then c else d

def State.capTarget (s : State) : Nat × Nat := leastCap s.caps

/-! ### Allocation (R403, R404, R409) -/

/-- Nearest whole number, ties to even (R131). -/
def roundWatts (x : Rat) : Nat :=
  let f := x.floor.toNat
  if x - x.floor < 1 / 2 then f else if x - x.floor > 1 / 2 then f + 1 else f + f % 2

/-- Exact allocations of ENGINE, MEMORY and FLASH from the watts available, the (scaled) floors and the demands. -/
def shares (avail : Rat) (floors demands : List Rat) : List Rat :=
  let grants := List.zipWith min floors demands
  let rest := avail - grants.sum
  let excess := List.zipWith (fun f d => max 0 (d - f)) floors demands
  let e := excess.sum
  let more := if e == 0 then excess.map fun _ => 0 else if rest ≤ e then excess.map fun x => rest * x / e else excess
  let head := if rest ≤ e then 0 else rest - e
  let fsum := floors.sum
  let tail := floors.map fun f => if fsum == 0 then head / 3 else head * f / fsum
  List.zipWith (· + ·) (List.zipWith (· + ·) grants more) tail

/-- A throttled domain's allocation, 5 % less at each boundary counted, not below its floor (R409). -/
def throttled (a floor : Rat) (on : Bool) (n : Nat) : Rat := if on then max (min a floor) (a * (19 / 20) ^ n) else a

/-- The allocation in force (R403, R404). -/
def State.allocate (s : State) : State :=
  let p := s.power
  let fl : List Nat := match s.theMold with
    | some m => [m.engineFloor, m.memoryFloor, m.flashFloor]
    | none => [0, 0, 0]
  let f := fl.sum
  if p.capEff ≤ p.fixedW then
    s.modPower fun p => { p with scale := 0, floorsScaled := true, engineW := 0, memoryW := 0, flashW := 0 }
  else
    let avail := p.capEff - p.fixedW
    let cut := f > avail
    let factor : Rat := if cut then (avail : Rat) / f else 1
    let floors := fl.map fun x => (x : Rat) * factor
    let xs := shares avail floors [(p.demands.1 : Rat), (p.demands.2.1 : Rat), (p.demands.2.2 : Rat)]
    let m := roundWatts (xs.getD 1 0)
    let h := roundWatts (xs.getD 2 0)
    let e := avail - m - h
    let te := roundWatts (throttled e (floors.getD 0 0) p.throttleE p.lowered.1)
    let tm := roundWatts (throttled m (floors.getD 1 0) p.throttleM p.lowered.2.1)
    let tf := roundWatts (throttled h (floors.getD 2 0) p.throttleF p.lowered.2.2)
    s.modPower fun p =>
      { p with scale := if cut then 4096 * avail / f else 4096, floorsScaled := cut, engineW := te, memoryW := tm, flashW := tf }

/-- A cap may fall at any moment: it takes effect at once, with a new allocation and the C0 conditions (R402). -/
def State.capFall (s : State) : State :=
  let (w, src) := s.capTarget
  if w < s.power.capEff then
    ((s.modPower fun p => { p with capEff := w, capSource := src }).allocate).evalC0 false
  else if w == s.power.capEff then s.modPower fun p => { p with capSource := src }
  else s

/-- At a boundary, a tick or a reset the cap takes its value either way. -/
def State.capSettle (s : State) : State :=
  let (w, src) := s.capTarget
  (s.modPower fun p => { p with capEff := w, capSource := src }).allocate

/-- The measurements of an interval (R401, R418). -/
def State.measure (s : State) (o : PowerObs) : State :=
  s.modPower fun p =>
    { p with
      demands := (o.engineDemand, o.memoryDemand, o.flashDemand), fixedW := min o.fixedDraw 130,
      avgW := min o.avgW 4095, peakW := min o.peakW 4095, energy := (p.energy + o.energyMj) % 2 ^ 64,
      energyE := (p.energyE + o.engineMj) % 2 ^ 64, energyM := (p.energyM + o.memoryMj) % 2 ^ 64,
      energyF := (p.energyF + o.flashMj) % 2 ^ 64 }

/-- C0 work was withheld with all other work withheld already: POWER_COND reads 0 until the next boundary (R405). -/
def State.c0Withheld (s : State) (o : PowerObs) : State :=
  if o.c0Withheld then
    ({ s with sched := { s.sched with powerCond := false, boundHeld := false } }).countUnbound
  else s

/-- The 500 µs tick of the always-on domain: while no grid runs it measures and applies a cap that rises (R402). -/
def doPowerTick (o : PowerObs) (s : State) : State :=
  if s.gridRuns then s.c0Withheld o else (s.measure o).capSettle

def execPowerTick (o : PowerObs) (s : State) : Out := .next (doPowerTick o s)

/-! ### Writes, the BMC cap and the brake -/

def wattsOk (w : Nat) : Bool := 350 ≤ w && w ≤ 1800

/-- PWR_CTRL (R418). -/
def doPwrCtrl (v : Word32) (s : State) : State :=
  let h := bits v.toNat 10 0
  let b := bits v.toNat 26 16
  let s := s.modPower fun p =>
    { p with
      hostCap := if wattsOk h then h else p.hostCap, brakeW := if wattsOk b then b else p.brakeW,
      thermIrq := bit v.toNat 27, brakeIrq := bit v.toNat 28, holdupIrq := bit v.toNat 29,
      cfgBusy := p.cfgBusy || !wattsOk h || !wattsOk b }
  s.capFall

def execPwrCtrlWrite (v : Word32) (s : State) : Out := .next (doPwrCtrl v s)

/-- The answer to POWER_CAP: CAP_EFF, CAP_SOURCE and the BMC cap. -/
def State.capAnswer (s : State) : Word32 :=
  BitVec.ofNat 32 (s.power.capEff + 2 ^ 12 * s.power.capSource + 2 ^ 16 * s.power.bmcCap)

/-- NVMe-MI status values (log 18). -/
def miSuccess : Nat := 0
def miInvalidOpcode : Nat := 3
def miInvalidParameter : Nat := 4

/-- POWER_CAP (R415, Table 16-10). -/
def doPowerCap (dw0 : Word32) (s : State) : State :=
  let w := bits dw0.toNat 10 0
  if !s.bmc.answers then s
  else if bits dw0.toNat 30 11 != 0 || !(w == 0 || wattsOk w) then s.emit (.mi miInvalidParameter [])
  else
    let s := if bit dw0.toNat 31 then (s.modPower fun p => { p with bmcCap := w }).capFall else s
    s.emit (.mi miSuccess [s.capAnswer])

def execPowerCap (dw0 : Word32) (s : State) : Out := .next (doPowerCap dw0 s)

/-- PWR_BRAKE_N low for 1 µs (R407). -/
def doBrakeAssert (s : State) : State :=
  if s.power.brake then s
  else
    let s := s.modPower fun p => { p with brake := true, brakeSeen := true, brakes := satAdd 8 p.brakes 1 }
    let s := s.capFall.evalC0 false
    if s.power.brakeIrq then s.signal else s

def execPwrBrakeAssert (s : State) : Out := .next (doBrakeAssert s)

/-- Deassertion: the cap rises at the next boundary or tick. -/
def execPwrBrakeDeassert (s : State) : Out := .next (s.modPower fun p => { p with brake := false })

/-! ### Thermal limits (R408 to R411) -/

/-- Sensors of Table 16-8 as (row, reading, throttle, emergency, trip, domains E, M, F), temperatures in half degrees. -/
structure SensorLevel where
  row : Nat
  value : Int
  throttle : Option Int
  emergency : Int
  trip : Option Int
  domains : Bool × Bool × Bool
  deriving DecidableEq, Repr

def sensorLevels (r : SensorReadings) : List SensorLevel :=
  let one (row : Nat) (t e p : Int) (d : Bool × Bool × Bool) (v : Int) : SensorLevel :=
    { row := row, value := 2 * v, throttle := some (2 * t), emergency := 2 * e, trip := some (2 * p), domains := d }
  r.quarter.map (one 0 95 105 115 (true, false, false)) ++ r.stack.map (one 1 85 95 105 (false, true, false)) ++
    r.die.map (one 2 95 105 115 (false, false, true)) ++ r.nand.map (one 3 70 80 90 (false, false, true)) ++
    [one 4 95 105 115 (true, true, true) r.hub,
     { row := 5, value := 2 * r.bank, throttle := none, emergency := 150, trip := some 170, domains := (false, false, false) },
     { row := 6, value := r.inletHalf, throttle := some 90, emergency := 100, trip := none, domains := (true, true, true) }]

/-- A temperature is at its throttle level. -/
def SensorLevel.hot (x : SensorLevel) : Bool :=
  match x.throttle with
  | some t => x.value > t
  | none => false

/-- A temperature reads 3 °C below its throttle level. -/
def SensorLevel.cool (x : SensorLevel) : Bool :=
  match x.throttle with
  | some t => x.value ≤ t - 6
  | none => true

def SensorLevel.inE (x : SensorLevel) : Bool := x.domains.1
def SensorLevel.inM (x : SensorLevel) : Bool := x.domains.2.1
def SensorLevel.inF (x : SensorLevel) : Bool := x.domains.2.2

/-- The throttle flag of a domain after a reading: set by a sensor at its level, kept until every such sensor is cool. -/
def throttleFlag (old : Bool) (r : SensorReadings) (dom : SensorLevel → Bool) : Bool :=
  let xs := (sensorLevels r).filter dom
  if xs.any SensorLevel.hot || r.flowMl < 1200 then true
  else old && !(xs.all SensorLevel.cool && r.flowMl ≥ 1300)

/-- The first sensor at its emergency level: its row and reading. -/
def emergencyOf (r : SensorReadings) : Option (Nat × Nat) :=
  match (sensorLevels r).find? fun x => x.value > x.emergency with
  | some x => some (x.row, (x.value / 2).toNat)
  | none => if r.flowMl < 1000 then some (7, r.flowMl) else none

/-- The first sensor at its trip level; the flow trips after 2 s below 0.5 L/min. -/
def tripOf (r : SensorReadings) (lowSince : Option Nat) (now : Nat) : Option (Nat × Nat) :=
  match (sensorLevels r).find? fun x => match x.trip with
      | some t => x.value > t
      | none => false with
  | some x => some (x.row, (x.value / 2).toNat)
  | none =>
    match lowSince with
    | some t => if now ≥ t + 2000000 then some (7, r.flowMl) else none
    | none => none

/-- The readings, the throttle flags and the emergency of one reading of the sensors. -/
def State.readSensors (s : State) (r : SensorReadings) : State :=
  let hot := (sensorLevels r).any SensorLevel.hot || r.flowMl < 1200
  let s0 := s
  let s := s.modPower fun p =>
    { p with
      sensors := r, volts := min r.volts 65535, amps := min r.amps 65535
      throttleE := throttleFlag p.throttleE r SensorLevel.inE, throttleM := throttleFlag p.throttleM r SensorLevel.inM
      throttleF := throttleFlag p.throttleF r SensorLevel.inF, lastHotUs := if hot then s.clockUs else p.lastHotUs
      flowLowSince := if r.flowMl < 500 then some (p.flowLowSince.getD s.clockUs) else none }
  let rose := s.power.throttleE && !s0.power.throttleE || s.power.throttleM && !s0.power.throttleM ||
    s.power.throttleF && !s0.power.throttleF
  let s := if rose && s.power.thermIrq then s.signal else s
  match emergencyOf r with
  | some (row, v) =>
    if s.power.emergency then s
    else
      let s := s.modPower fun p =>
        { p with emergency := true, emergSeen := true, emergencies := satAdd 8 p.emergencies 1 }
      let s := s.reportGeneral .powerManager .degraded 0x52 0 row v none 0
      let s := s.capFall.evalC0 false
      if s.power.thermIrq then s.signal else s
  | none => s

/-- The emergency ends once no sensor has been at its throttle level for 1 s; R83 holds again from the next boundary. -/
def doEmergencyEnd (s : State) : State :=
  if s.power.emergency && s.clockUs ≥ s.power.lastHotUs + 1000000 then
    s.modPower fun p => { p with emergency := false }
  else s

def execThermalEmergencyEnd (s : State) : Out := .next (doEmergencyEnd s)

/-! ### The hold-up bank (R399, R434) -/

/-- Usable joules at a bank voltage in 100 mV units, with a capacitance in µF. -/
def usableAt (uf v : Nat) : Nat := uf * (v * v - 350 * 350) / 200000000

/-- USABLE_J, HOLDUP_OK and the pin follow the bank's measurements. -/
def State.holdupUpdate (s : State) : State :=
  let p := s.power
  let u := if p.bankV ≤ 350 then 0 else match p.capUf with
    | some c => usableAt c p.bankV
    | none => 0
  let ok := p.inputGood && u ≥ 90 && !p.holdupLow
  let s := s.modPower fun p => { p with usableJ := min u 1023, holdupOk := ok }
  if ok != p.holdupOk && p.holdupIrq then s.signal else s

/-- A measurement of the capacitance: below 90 J at full charge HOLDUP_OK stays low for the power cycle (R399). -/
def doCapacitanceCheck (uf : Nat) (s : State) : State :=
  s.withSmart fun s =>
    let s := s.modPower fun p => { p with capUf := some uf }
    let s := if usableAt uf 800 < 90 && !s.power.holdupLow then
        (s.modPower fun p => { p with holdupLow := true }).reportGeneral .powerManager .degraded 0x51 0 0
          (usableAt uf 800) none 0
      else s
    s.holdupUpdate

def execHoldupCapacitanceCheck (uf : Nat) (s : State) : Out := .next (doCapacitanceCheck uf s)

def doHoldupChange (bankV : Nat) (s : State) : State :=
  s.withSmart fun s => (s.modPower fun p => { p with bankV := min bankV 1023 }).holdupUpdate

def execHoldupOkChange (bankV : Nat) (s : State) : Out := .next (doHoldupChange bankV s)

/-! ### Power states (R392 to R394) -/

/-- The lowest-numbered state that a present controller has requested. -/
def State.requestedState (s : State) : Nat :=
  if s.power.split then min s.ctrls[(0 : Ctrl)].pmState s.ctrls[(1 : Ctrl)].pmState else s.ctrls[(0 : Ctrl)].pmState

/-- Idle Engines power down in PS3 and PS4, idle Benches in PS4, and come back with an operational state. -/
def State.gateParts (s : State) : State :=
  let n := s.power.state
  let eng (e : Engine) : Engine :=
    if n ≥ 3 && e.state == .idle then { e with state := .off }
    else if n < 3 && e.state == .off && e.shop.isSome then { e with state := .idle }
    else e
  let ben (b : Bench) : Bench :=
    let b := if n == 4 then { b with tails := [] } else b
    if n == 4 && b.state == .idle then { b with state := .off }
    else if n < 4 && b.state == .off && !s.pewter.optBad then { b with state := .idle }
    else b
  { s with engines := s.engines.map eng, benches := s.benches.map ben }

/-- Dirty page tails are programmed, as at the entry to PS4 (Table 15-13). -/
def State.programTails (s : State) : State :=
  (s.mem.dirty.filter fun d => 2 ^ 40 ≤ d.granule && d.granule < 2 ^ 41).foldl
    (fun s d => s.granuleHome d.quarter d.granule) s

/-- A power state is entered: its power acts as a cap (R392). -/
def State.enterPower (s : State) (n : Nat) : State :=
  let s := if n == 4 then s.programTails else s
  let s := s.modPower fun p => { p with state := n, lastOp := if n ≤ 2 then n else p.lastOp, exiting := false }
  s.gateParts.capFall

/-- The state requested takes effect; an exit from PS3 or PS4 takes its latency (R393). -/
def State.followRequest (s : State) : State :=
  let n := s.requestedState
  if n == s.power.state then s
  else if s.power.state ≥ 3 && n ≤ 2 then s.modPower fun p => { p with lastOp := n, exiting := true }
  else s.enterPower n

/-- An I/O command arrives in PS3 or PS4 (R393). -/
def State.wakeForIo (s : State) : State :=
  if s.power.state ≥ 3 then s.modPower fun p => { p with exiting := true } else s

def execPowerStateExitDone (s : State) : Out :=
  .next (if s.power.exiting then s.enterPower s.power.lastOp else s)

/-- No controller has an outstanding I/O command and no job exists (R394). -/
def State.idleNow (s : State) : Bool :=
  s.sched.jobs.isEmpty && s.ctrls.toList.all fun c => c.inflight.all fun e => e.key.sqid == 0

/-- The state the APST of a controller names for the state in force; the state in force without APST. -/
def State.apstTarget (s : State) (c : Ctrl) : Nat :=
  let f := s.ctrls[c]
  if f.apstEnable then
    match f.apstTable[s.power.state]? with
    | some (n, ms) => if ms == 0 then s.power.state else n
    | none => s.power.state
  else s.power.state

/-- The idle time of the APST entry has elapsed; in the split form the lower-numbered state of the two. -/
def doApstExpiry (s : State) : State :=
  let n := if s.power.split then min (s.apstTarget 0) (s.apstTarget 1) else s.apstTarget 0
  if s.idleNow && n > s.power.state && n ≤ 4 then s.enterPower n else s

def execApstIdleExpiry (s : State) : Out := .next (doApstExpiry s)

end Sys2Proof.Machine
end

