-- ==== Sys2Proof/Machine/AdminOps.lean ====
section
/-! DEFINITION. Identify and the log pages (R380, R425 to R427, R240). Byte places of the NVMe structures are NVMe 2.1's
(log 21). -/

namespace Sys2Proof.Machine

/-! ### Identify (R380) -/

/-- A structure of n bytes from its fields at their offsets. -/
def layout (n : Nat) (fs : List (Nat × List Byte)) : List Byte :=
  (List.range n).map fun i =>
    match fs.find? fun f => f.1 ≤ i && i < f.1 + f.2.length with
    | some f => f.2.getD (i - f.1) 0
    | none => 0

def spaces (n : Nat) (bs : List Byte) : List Byte := (bs ++ List.replicate (n - bs.length) 0x20).take n

def modelNumber : List Byte := spaces 40 (ascii "HX-1024-LQ54")

def State.fr (s : State) : List Byte := padTo 8 (Config.firmwareRevision s.fw.digest)

/-- Identify Controller (Table 15-6); MP of PS3 and PS4 in hundredths of a watt. -/
def State.identifyController (s : State) (c : Nat) : List Byte :=
  layout 4096
    [(0, le 2 0x1F6C), (2, le 2 0x1F6C), (4, s.serial.take 20), (24, modelNumber), (64, s.fr), (78, le 2 c),
     (80, le 4 0x20100), (84, le 4 1500000), (88, le 4 100000), (256, le 2 4), (258, le 1 3), (259, le 1 7),
     (260, le 1 2), (263, le 1 4), (265, le 1 1), (319, le 1 1), (512, le 1 0x66), (513, le 1 0x44),
     (514, le 2 65535), (536, le 4 1), (2048, le 2 0xFFFF), (2080, le 2 0xFFFF), (2112, le 2 0xFFFF),
     (2144, le 2 35000), (2176, le 2 9000)]

/-- A World map entry in the form of Table 2-5. -/
def worldBytes (w : WorldEntry) : List Byte :=
  le 1 (b2n !w.block) ++ le 1 (b2n w.sterling) ++ le 1 w.space ++ le 1 0 ++ le 2 w.unit ++ le 2 0 ++ le 4 w.first ++
    le 4 w.count

/-- The Haldem page (Table 15-9): the fixed ranges while a Mold is in force. -/
def State.identifyHaldem (s : State) : List Byte :=
  let ws := (if s.theMold.isSome then s.mold.fixedRanges else []).take 254
  padTo 4096 (le 2 1 ++ le 2 ws.length ++ [0, 1, 2, 3, 4].flatMap (fun n => le 2 (stateWatts n)) ++ le 18 0 ++
    ws.flatMap worldBytes)

/-- The page of a CNS value; none for a CNS the module does not serve. -/
def State.identifyPage (s : State) (c cns : Nat) : Option (List Byte) :=
  match cns with
  | 0x01 => some (s.identifyController c)
  | 0x02 => some (List.replicate 4096 0)
  | 0xC0 => some s.identifyHaldem
  | _ => none

def doIdentify (e : Sqe) (s : State) : State :=
  match s.identifyPage e.key.ctrl.val (bits e.cdw10.toNat 7 0) with
  | some p => s.success e.key 0 0 p
  | none => s.nvmeInvalidField e.key

def execIdentify (e : Sqe) (s : State) : Out := .next (doIdentify e s)

/-! ### Health (R427, Table 16-10) -/

/-- The highest die junction reading, °C: Quarter, channel and Hub dies. -/
def State.compositeC (s : State) : Int := (s.power.sensors.quarter ++ s.power.sensors.die).foldl max s.power.sensors.hub

/-- Mean erase count of the QLC blocks in use. -/
def Flash.avgPe (f : Flash) : Nat :=
  let use := f.blocks.filter fun b => !b.slc && (b.state == .open || b.state == .full)
  if use.isEmpty then 0 else (use.map Block.erases).sum / use.length

/-- Largest erase count of the QLC blocks in use. -/
def Flash.maxPe (f : Flash) : Nat :=
  ((f.blocks.filter fun b => !b.slc && (b.state == .open || b.state == .full)).map Block.erases).foldl max 0

def State.percentUsed (s : State) : Nat := min 255 (100 * (s.flash.toList.map Flash.avgPe).foldl max 0 / 1500)

/-- SMART / Health: temperature in kelvins, data units rounded up, as NVMe has them (log 21). -/
def State.smartPage (s : State) : List Byte :=
  let get := (s.benches.toList.map Bench.getBytes).sum
  let put := (s.benches.toList.map Bench.storedBytes).sum
  padTo 512 (le 1 s.criticalWarning ++ le 2 (s.compositeC + 273).toNat ++ le 1 (min 100 s.sparePercent) ++ le 1 95 ++
    le 1 s.percentUsed ++ le 26 0 ++ le 16 (cdiv get 512000) ++ le 16 (cdiv put 512000))

/-! ### Rings and Collections -/

/-- The 64 bytes of a record (Table 17-3). -/
def RingRec.bytes (x : RingRec) (ring : Nat) : List Byte :=
  le 4 x.index ++ le 1 (sevCode x.sev) ++ le 1 (b2n x.escalated) ++ le 2 x.repeats ++ le 1 (sourceCode x.source).1 ++
    le 1 ring ++ le 2 (sourceCode x.source).2 ++ le 4 x.uptimeMs ++ [x.kind] ++ padTo 47 x.body

/-- Table 17-8. -/
def State.ringPage (s : State) (r : Fin 37) : List Byte :=
  let g := s.errors.rings[r]
  le 4 g.head.toNat ++ le 4 g.ack.toNat ++ le 2 g.lostCount ++ le 1 (ringSize r) ++ le 1 r.val ++ le 1 (b2n g.lost) ++
    le 3 0 ++ g.recs.flatMap fun x => x.bytes r.val

/-- The floor of a Collection (R232): the oldest snapshot admitted on it, else the newest published epoch. -/
def State.floorOf (s : State) (c : Nat) : Nat :=
  let js := s.sched.jobs.filter fun j => j.coll == some c && j.state != .waiting && j.isJob
  match (js.map Job.snapshot).min? with
  | some e => e
  | none => s.search.epoch

/-- MARKED: the records of a list that have an entry in its visibility log. -/
def Lst.marked (l : Lst) : Nat := (l.log.map LogEntry.record).eraseDups.length

def CollState.code : CollState → Nat
  | .uncalibrated => 0
  | .calibrating => 1
  | .ready => 2

/-- A Collection record (Table 9-10). -/
def State.collRecord (s : State) (c : Coll) : List Byte :=
  let ls := s.search.lists.filter fun l => l.coll == c.id
  let kmeans := s.sched.jobs.any fun j => j.coll == some c.id && j.kind == .operator 0x05 && j.state != .waiting
  let flags := b2n (s.keyHeld c.label) + 2 * b2n kmeans + 4 * b2n (ls.any Lst.mending)
  le 2 c.id ++ le 1 c.state.code ++ le 1 flags ++ le 4 (ls.filter fun l => l.retire.isNone).length ++
    le 4 (ls.filter fun l => l.retire.isSome).length ++ le 4 c.notIndexed ++
    le 8 (ls.map fun l => l.records.length).sum ++ le 8 (ls.map Lst.marked).sum ++ le 8 s.search.epoch ++
    le 8 (s.floorOf c.id) ++ le 4 c.markStalls ++ le 4 c.mediaPartial ++ le 8 0

/-- LID 0xC1: declared Collections, ascending. -/
def State.collPage (s : State) : List Byte :=
  let ids : List Nat := match s.theMold with
    | some m => m.colls.foldl (fun l c => insertRising c.id l) []
    | none => []
  ids.flatMap fun i => match s.coll i with
    | some c => s.collRecord c
    | none => []

/-- LID 0xC3: the event log words of the vault. -/
def State.securityLog (s : State) : List Byte := s.pewter.vaultBytes 6688 s.pewter.secLogged

/-! ### Get Log Page (R425) -/

def logIds : List Nat := [0x00, 0x01, 0x02, 0x03, 0xC0, 0xC1, 0xC2, 0xC3]

inductive LogAnswer where
  | page (bytes : List Byte)
  | invalid
  | busy

/-- A log page by identifier and LSI. -/
def State.logPage (s : State) (lid lsi : Nat) : LogAnswer :=
  match lid with
  | 0x00 => .page (layout 1024 (logIds.map fun l => (4 * l, le 4 1)))
  | 0x01 => .page (List.replicate 4096 0)
  | 0x02 => .page s.smartPage
  | 0x03 => .page (layout 512 [(0, le 1 1), (8, s.fr)])
  | 0xC0 => if h : lsi < 37 then .page (s.ringPage ⟨lsi, h⟩) else .invalid
  | 0xC1 => .page s.collPage
  | 0xC2 =>
    if h : lsi < 512 then
      if s.flash[lsi].rawBusy then .busy else .page (padTo 18432 s.flash[lsi].rawPage)
    else .invalid
  | 0xC3 => .page s.securityLog
  | _ => .invalid

/-- Bytes of a page from an offset, zeros beyond its end. -/
def pageSlice (bs : List Byte) (off n : Nat) : List Byte := padTo n (bs.drop off)

/-- The events that a read of a page with RAE = 0 releases (R426). -/
def eventRead (lid lsi ev : Nat) : Bool := bits ev 23 16 == lid && (lid != 0xC0 || bits ev 15 8 == lsi)

def doGetLogPage (e : Sqe) (poison : Option Nat) (s : State) : State :=
  let d := e.cdw10.toNat
  let lid := bits d 7 0
  let lsi := bits e.cdw11.toNat 31 16
  let n := 4 * (bits d 31 16 + 65536 * bits e.cdw11.toNat 15 0 + 1)
  let off := e.cdw12.toNat + 2 ^ 32 * e.cdw13.toNat
  if off % 4 != 0 then s.nvmeInvalidField e.key
  else
    match s.logPage lid lsi with
    | .invalid => s.nvmeInvalidField e.key
    | .busy => s.refuse e.key scCfgBusy
    | .page p =>
      let s := if bit d 15 then s
        else s.modCtrl e.key.ctrl fun f => { f with aerSent := f.aerSent.filter fun ev => !eventRead lid lsi ev }
      s.sendData e.key 0 0 (pageSlice p off n) poison

def execGetLogPage (e : Sqe) (poison : Option Nat) (s : State) : Out := .next (doGetLogPage e poison s)

end Sys2Proof.Machine
end

