-- ==== Sys2Proof/Machine/Float.lean ====
section
/-! DEFINITION. Floating-point formats and their arithmetic (R121 to R132): a value is a sign, a mantissa and a power of
two; every rounding is to nearest, ties to even (R131). -/

namespace Sys2Proof.Machine

/-- A floating-point format: fraction bits, exponent bits, bias, code of the largest finite magnitude, and whether the
next code is an infinity (Table 5-2). -/
structure FloatFmt where
  frac : Nat
  expo : Nat
  bias : Nat
  maxMag : Nat
  hasInf : Bool
  deriving DecidableEq, Repr

def fmtFp32 : FloatFmt := { frac := 23, expo := 8, bias := 127, maxMag := 0x7F7FFFFF, hasInf := true }
def fmtBf16 : FloatFmt := { frac := 7, expo := 8, bias := 127, maxMag := 0x7F7F, hasInf := true }
def fmtFp16 : FloatFmt := { frac := 10, expo := 5, bias := 15, maxMag := 0x7BFF, hasInf := true }
def fmtE4m3 : FloatFmt := { frac := 3, expo := 4, bias := 7, maxMag := 0x7E, hasInf := false }
def fmtE5m2 : FloatFmt := { frac := 2, expo := 5, bias := 15, maxMag := 0x7B, hasInf := true }
def fmtE2m1 : FloatFmt := { frac := 1, expo := 2, bias := 1, maxMag := 7, hasInf := false }

/-- A value: not a number, an infinity with its sign, or (-1)^neg · m · 2^e. -/
inductive FloatVal where
  | nan
  | inf (neg : Bool)
  | num (neg : Bool) (m : Nat) (e : Int)
  deriving DecidableEq, Repr

/-- Exponent of the unit of a format's subnormals. -/
def FloatFmt.unit (f : FloatFmt) : Int := 1 - (f.bias : Int) - (f.frac : Int)

/-- Bit position of the sign. -/
def FloatFmt.signAt (f : FloatFmt) : Nat := f.frac + f.expo

/-- The value of an encoding; subnormals are honoured (R123). -/
def FloatFmt.decode (f : FloatFmt) (w : Nat) : FloatVal :=
  let neg := bit w f.signAt
  let mag := w % 2 ^ f.signAt
  if mag > f.maxMag then (if f.hasInf && mag == f.maxMag + 1 then .inf neg else .nan)
  else if mag / 2 ^ f.frac == 0 then .num neg mag f.unit
  else .num neg (2 ^ f.frac + mag % 2 ^ f.frac) (f.unit + (mag / 2 ^ f.frac : Nat) - 1)

/-- m / 2^n rounded half to even; `sticky` says that the exact value lies above m by less than one unit. -/
def roundShift (m n : Nat) (sticky : Bool) : Nat :=
  let q := m / 2 ^ n
  let rem := m % 2 ^ n
  if n == 0 then m
  else
    let half := 2 ^ (n - 1)
    if rem > half || (rem == half && (sticky || q % 2 == 1)) then q + 1 else q

/-- Magnitude code of m · 2^e rounded once, without an upper limit. -/
def FloatFmt.roundMag (f : FloatFmt) (m : Nat) (e : Int) (sticky : Bool) : Nat :=
  if m == 0 then 0
  else
    let q := max f.unit ((Nat.log2 m : Int) + e - (f.frac : Int))
    let base := (q - f.unit).toNat * 2 ^ f.frac
    if q ≤ e then base + m * 2 ^ (e - q).toNat else base + roundShift m (q - e).toNat sticky

/-- A code with its sign. -/
def FloatFmt.signed (f : FloatFmt) (neg : Bool) (mag : Nat) : Nat := mag + (if neg then 2 ^ f.signAt else 0)

/-- Canonical NaN (Table 5-2). -/
def FloatFmt.nanCode (f : FloatFmt) : Nat := f.maxMag + 1 + 2 ^ (f.frac - 1)

/-- Encoding with infinities: an overflow becomes an infinity of the same sign (R124). The flag marks it. -/
def FloatFmt.encode (f : FloatFmt) (v : FloatVal) (sticky : Bool) : Nat × Bool :=
  match v with
  | .nan => (f.nanCode, false)
  | .inf neg => (f.signed neg (f.maxMag + 1), false)
  | .num neg m e =>
    let mag := f.roundMag m e sticky
    if mag > f.maxMag then (f.signed neg (f.maxMag + 1), true) else (f.signed neg mag, false)

/-- A magnitude m · 2^e, or one a little above it, lies beyond the largest finite value. -/
def FloatFmt.beyond (f : FloatFmt) (m : Nat) (e : Int) (sticky : Bool) : Bool :=
  match f.decode f.maxMag with
  | .num _ n g =>
    let u := min e g
    let x := m * 2 ^ (e - u).toNat
    let y := n * 2 ^ (g - u).toNat
    y < x || (sticky && y == x)
  | _ => false

/-- Saturating encoding (R125). The flag marks a saturation: every value beyond the largest finite one, also one that
rounding would bring back to it. -/
def FloatFmt.encodeSat (f : FloatFmt) (v : FloatVal) (sticky : Bool) : Nat × Bool :=
  match v with
  | .nan => (0, true)
  | .inf neg => (f.signed neg f.maxMag, true)
  | .num neg m e =>
    if f.beyond m e sticky then (f.signed neg f.maxMag, true) else (f.signed neg (f.roundMag m e sticky), false)

def FloatVal.isNan : FloatVal → Bool
  | .nan => true
  | _ => false

def FloatVal.isZero : FloatVal → Bool
  | .num _ 0 _ => true
  | _ => false

/-- The sign, of a zero too. -/
def FloatVal.signBit : FloatVal → Bool
  | .nan => false
  | .inf s => s
  | .num s _ _ => s

def FloatVal.zero : FloatVal := .num false 0 0
def FloatVal.one : FloatVal := .num false 1 0

def FloatVal.neg : FloatVal → FloatVal
  | .nan => .nan
  | .inf s => .inf (!s)
  | .num s m e => .num (!s) m e

def FloatVal.abs : FloatVal → FloatVal
  | .nan => .nan
  | .inf _ => .inf false
  | .num _ m e => .num false m e

def FloatVal.finite : FloatVal → Bool
  | .num _ _ _ => true
  | _ => false

def FloatVal.negative : FloatVal → Bool
  | .num s m _ => s && m != 0
  | .inf s => s
  | .nan => false

/-- Exact product. -/
def FloatVal.mul : FloatVal → FloatVal → FloatVal
  | .nan, _ => .nan
  | _, .nan => .nan
  | .inf s, .inf t => .inf (s != t)
  | .inf s, .num t m _ => if m == 0 then .nan else .inf (s != t)
  | .num s m _, .inf t => if m == 0 then .nan else .inf (s != t)
  | .num s m e, .num t n f => .num (s != t) (m * n) (e + f)

def signedMant (s : Bool) (m : Nat) : Int := if s then -(m : Int) else (m : Int)

/-- Exact sum; an exact zero is +0 unless both terms are −0. -/
def FloatVal.add : FloatVal → FloatVal → FloatVal
  | .nan, _ => .nan
  | _, .nan => .nan
  | .inf s, .inf t => if s == t then .inf s else .nan
  | .inf s, .num _ _ _ => .inf s
  | .num _ _ _, .inf t => .inf t
  | .num s m e, .num t n f =>
    let g := min e f
    let x := signedMant s m * 2 ^ (e - g).toNat + signedMant t n * 2 ^ (f - g).toNat
    if x == 0 then .num (s && t) 0 g else .num (x < 0) x.natAbs g

/-- Quotient with enough bits to round once, and whether bits remain. -/
def FloatVal.div : FloatVal → FloatVal → FloatVal × Bool
  | .nan, _ => (.nan, false)
  | _, .nan => (.nan, false)
  | .inf _, .inf _ => (.nan, false)
  | .inf s, .num t _ _ => (.inf (s != t), false)
  | .num s _ _, .inf t => (.num (s != t) 0 0, false)
  | .num s m e, .num t n f =>
    if n == 0 then (if m == 0 then (.nan, false) else (.inf (s != t), false))
    else
      let k := Nat.log2 n + 66
      (.num (s != t) (m * 2 ^ k / n) (e - f - (k : Int)), m * 2 ^ k % n != 0)

/-- a < b for values that are not NaN (false with a NaN). -/
def FloatVal.lt : FloatVal → FloatVal → Bool
  | .nan, _ => false
  | _, .nan => false
  | .inf s, .inf t => s && !t
  | .inf s, .num _ _ _ => s
  | .num _ _ _, .inf t => !t
  | .num s m e, .num t n f =>
    let g := min e f
    signedMant s m * 2 ^ (e - g).toNat < signedMant t n * 2 ^ (f - g).toNat

def FloatVal.le (a b : FloatVal) : Bool := !a.isNan && !b.isNan && !b.lt a

/-- Integer nearest to a value, half to even; none for an infinity or a NaN (R131). -/
def FloatVal.round (v : FloatVal) (sticky : Bool) : Option Int :=
  match v with
  | .num s m e =>
    if 0 ≤ e then some (signedMant s (m * 2 ^ e.toNat)) else some (signedMant s (roundShift m (-e).toNat sticky))
  | _ => none

/-! ### FP32 arithmetic of the vector unit (R124) -/

def f32v (w : F32) : FloatVal := fmtFp32.decode w.toNat
def bf16v (w : Word16) : FloatVal := fmtBf16.decode w.toNat
def fp16v (w : Word16) : FloatVal := fmtFp16.decode w.toNat

/-- FP32 result of an operation and whether it sets the flag of R124: an overflow, or a NaN from operands none of which
is a NaN. -/
def f32done (args : List FloatVal) (r : FloatVal) (sticky : Bool) : F32 × Bool :=
  let (w, o) := fmtFp32.encode r sticky
  (BitVec.ofNat 32 w, o || (r.isNan && !args.any FloatVal.isNan))

def f32add (a b : F32) : F32 × Bool := f32done [f32v a, f32v b] ((f32v a).add (f32v b)) false
def f32mul (a b : F32) : F32 × Bool := f32done [f32v a, f32v b] ((f32v a).mul (f32v b)) false
def f32fma (a b c : F32) : F32 × Bool :=
  f32done [f32v a, f32v b, f32v c] (((f32v a).mul (f32v b)).add (f32v c)) false
def f32div (a b : F32) : F32 × Bool :=
  let (q, st) := (f32v a).div (f32v b)
  f32done [f32v a, f32v b] q st
def f32neg (a : F32) : F32 := a ^^^ 0x80000000
def f32sub (a b : F32) : F32 × Bool := f32add a (f32neg b)
def f32lt (a b : F32) : Bool := (f32v a).lt (f32v b)
/-- A NaN operand propagates as canonical NaN (R124). -/
def f32max (a b : F32) : F32 :=
  if (f32v a).isNan || (f32v b).isNan then 0x7FC00000 else if f32lt a b then b else a
def f32min (a b : F32) : F32 :=
  if (f32v a).isNan || (f32v b).isNan then 0x7FC00000 else if f32lt b a then b else a
def f32ofNat (n : Nat) : F32 := BitVec.ofNat 32 (fmtFp32.encode (.num false n 0) false).1
/-- A value rounded once to FP32. -/
def f32of (v : FloatVal) (sticky : Bool) : F32 := BitVec.ofNat 32 (fmtFp32.encode v sticky).1
def bf16of (v : FloatVal) (sticky : Bool) : Word16 := BitVec.ofNat 16 (fmtBf16.encode v sticky).1
def fp16of (v : FloatVal) (sticky : Bool) : Word16 := BitVec.ofNat 16 (fmtFp16.encode v sticky).1

/-! ### Sums -/

/-- One level of a balanced tree: neighbours added, the lower index on the left. -/
def pairUp {α : Type} (add : α → α → α) : List α → List α
  | a :: b :: l => add a b :: pairUp add l
  | l => l

/-- A balanced binary tree of n levels. -/
def treeSum {α : Type} (add : α → α → α) (zero : α) : Nat → List α → α
  | 0, l => l.headD zero
  | n + 1, l => treeSum add zero n (pairUp add l)

/-- Lane l of the vector unit takes elements l, l + 512 and so on (R153). -/
def laneElems {α : Type} (l : Nat) (xs : List α) : List α := ((xs.drop l).zipIdx.filter fun p => p.2 % 512 == 0).map fun p => p.1

/-- Exact sum of values. -/
def exactSum (l : List FloatVal) : FloatVal := l.foldl FloatVal.add (.num false 0 0)

end Sys2Proof.Machine
end

