-- ==== Sys2Proof/Machine/Operands.lean ====
section
/-! DEFINITION. The operand forms of an Engine: the array instruction word and the VCVT word (Tables 4-8 and 5-7), format
pairs and shapes (Table 4-3), packed elements (R128), scales (R132), stream blocks (Table 5-6) and quantise-on-feed
(R133). -/

namespace Sys2Proof.Machine

/-! ### The array instruction word (Table 4-8) -/

structure ArrayOp where
  op : Nat
  aFmt : Nat
  bFmt : Nat
  accFmt : Nat
  tile : Nat
  shape : Nat
  clear : Bool
  reuseB : Bool
  aAddr : Nat
  bAddr : Nat
  m : Nat
  k : Nat
  n : Nat
  qf : Bool
  outlier : Bool
  reserved : Nat
  scaleAddr : Nat
  tag : Nat
  deriving DecidableEq, Repr

/-- The fields of a word. REUSE_B has a meaning on MMA_WS alone (log 133). -/
def arrayOp (w : BitVec 128) : ArrayOp :=
  let v := w.toNat
  { op := bits v 7 0, aFmt := bits v 11 8, bFmt := bits v 15 12, accFmt := bits v 19 16, tile := bits v 27 20,
    shape := bits v 29 28, clear := bit v 30, reuseB := bit v 31 && bits v 7 0 == 1, aAddr := bits v 47 32, bAddr := bits v 63 48,
    m := bits v 73 64 + 1, k := bits v 84 74 + 1, n := bits v 91 85 + 1, qf := bit v 92, outlier := bit v 93,
    reserved := bits v 95 94, scaleAddr := bits v 111 96, tag := bits v 127 112 }

/-- Rate classes of Table 4-3. -/
inductive RateClass where
  | eight | four | sixteen
  deriving DecidableEq, Repr

/-- The accumulator format and rate class of a format pair; none for a pair that Table 4-3 does not list. -/
def formatPair (a b : Nat) : Option (Nat × RateClass) :=
  if (a == 3 || a == 4) && (b == 3 || b == 4 || b == 8) then some (0, .eight)
  else if (a == 5 || a == 6) && (b == 5 || b == 6 || b == 7) then some (9, .eight)
  else if a == 0xC && (b == 0xC || b == 0xD) then some (0, .eight)
  else if a == 8 && b == 8 then some (0, .four)
  else if a == 7 && b == 7 then some (9, .four)
  else if a == 0xD && b == 0xD then some (0, .four)
  else if (a == 1 && b == 1) || (a == 2 && b == 2) then some (0, .sixteen)
  else none

def isMx (f : Nat) : Bool := f == 0xC || f == 0xD

/-- Shape limits of Table 4-3 by mode and rate class (M, K and N are at least 1 and N at most 128 by their fields). -/
def shapeOk (broadcast : Bool) (c : RateClass) (o : ArrayOp) : Bool :=
  let mxOk := !isMx o.aFmt || o.k % 32 == 0
  let ok := match broadcast, c with
    | false, .eight => o.m ≤ 1024 && o.k ≤ 128
    | false, .four => o.m ≤ 1024 && o.k ≤ 256
    | false, .sixteen => o.m ≤ 512 && o.k ≤ 128
    | true, .eight => o.m ≤ 128 && o.k ≤ 1024
    | true, .four => o.m ≤ 128 && o.k ≤ 2048 && o.k % 2 == 0
    | true, .sixteen => o.m ≤ 128 && o.k ≤ 512
  ok && mxOk && o.shape != 3 && o.reserved == 0

/-- Stream length S of Table 4-3. -/
def streamCycles (broadcast : Bool) (c : RateClass) (o : ArrayOp) : Nat :=
  match broadcast, c with
  | false, .eight => o.m
  | false, .four => o.m
  | false, .sixteen => 2 * o.m
  | true, .eight => o.k
  | true, .four => o.k / 2
  | true, .sixteen => 2 * o.k

/-! ### Accumulator tiles (Table 4-5) -/

/-- Columns of a tile of a shape. -/
def tileCols (shape : Nat) : Nat := if shape == 0 then 128 else if shape == 1 then 64 else 32

def tileBytes (shape : Nat) : Nat := 512 * tileCols shape

def tilesInStore (shape : Nat) : Nat := 4194304 / tileBytes shape

/-- Tiles an array instruction names: one for each 128 output rows. -/
def ArrayOp.tiles (o : ArrayOp) : Nat := cdiv o.m 128

/-- Byte offset of value (row, col) of a tile: 16 KiB units of 128 rows by 32 columns, each row-major (R106, R108, R136). -/
def accOffset (shape tile row col : Nat) : Nat :=
  (tile + row / 128) * tileBytes shape + col / 32 * 16384 + row % 128 * 128 + col % 32 * 4

/-- Scoreboard units of 16 KiB that n tiles from one cover (R108). -/
def tileUnits (shape tile n : Nat) : List Nat :=
  (List.range (n * (tileBytes shape / 16384))).map fun i => tile * (tileBytes shape / 16384) + i

/-! ### Packed elements (R121, R128) -/

/-- Bits of a value of a format. -/
def fmtBits (f : Nat) : Nat :=
  if f == 0 || f == 9 then 32 else if f == 1 || f == 2 then 16 else if f == 7 || f == 8 || f == 0xD then 4 else 8

/-- Bytes of a row of n values: each row starts on a byte. -/
def rowBytes (f n : Nat) : Nat := cdiv (fmtBits f * n) 8

/-- Code i of a row. -/
def codeAt (f : Nat) (row : List Byte) (i : Nat) : Nat :=
  if fmtBits f == 4 then (row.getD (i / 2) 0).toNat / (if i % 2 == 0 then 1 else 16) % 16
  else field row (i * (fmtBits f / 8)) (fmtBits f / 8)

/-- Two's complement of w bits. -/
def signedOf (w c : Nat) : Int := if c < 2 ^ (w - 1) then (c : Int) else (c : Int) - 2 ^ w

def intVal (i : Int) : FloatVal := .num (i < 0) i.natAbs 0

/-- Value of a code of formats 0x0 to 0x9, 0xC and 0xD (the block scale apart). -/
def codeVal (f c : Nat) : FloatVal :=
  match f with
  | 0 => fmtFp32.decode c
  | 1 => fmtBf16.decode c
  | 2 => fmtFp16.decode c
  | 3 | 0xC => fmtE4m3.decode c
  | 4 => fmtE5m2.decode c
  | 5 => intVal (signedOf 8 c)
  | 6 => intVal c
  | 7 => intVal (signedOf 4 c)
  | 8 | 0xD => fmtE2m1.decode c
  | 9 => intVal (signedOf 32 c)
  | _ => .nan

/-- A narrow input as the array reads it: what is not finite reads as 0 and is flagged (R126). -/
def arrayInput (f c : Nat) : FloatVal × Bool :=
  let v := codeVal f c
  if (f == 3 || f == 4 || isMx f) && !v.finite then (.zero, true) else (v, false)

/-- Codes packed into the bytes of a row; an odd 4-bit row ends with a zero half (R128). -/
def packRow (f : Nat) (codes : List Nat) : List Byte :=
  if fmtBits f == 4 then
    (List.range (cdiv codes.length 2)).map fun i =>
      BitVec.ofNat 8 (codes.getD (2 * i) 0 % 16 + 16 * (codes.getD (2 * i + 1) 0 % 16))
  else codes.flatMap fun c => le (fmtBits f / 8) c

/-! ### Scales (R129, R132, R133) -/

/-- A scale read from a stream: one that is not positive, finite and normal reads as 0 (R132). -/
def scaleRead (w : Word16) : FloatVal × Bool :=
  if 0x0080 ≤ w.toNat && w.toNat ≤ 0x7F7F then (bf16v w, false) else (.zero, true)

/-- The factor of an E8M0 scale (R129); NaN reads its block as 0 (R126). -/
def mxScale (c : Nat) : FloatVal × Bool :=
  if c == 0xFF then (.zero, true) else (.num false 1 ((c : Int) - 127), false)

/-- Qmax of a target format (Table 5-5). -/
def qmax (f : Nat) : Nat :=
  match f with
  | 3 => 448
  | 4 => 57344
  | 5 => 127
  | 6 => 255
  | 7 => 7
  | 8 => 6
  | _ => 1

/-- The larger of two finite magnitudes. -/
def maxAbs (l : List FloatVal) : FloatVal :=
  l.foldl (fun a v => if v.finite && a.lt v.abs then v.abs else a) .zero

/-- s = max(rne_bf16(a / qmax), 2^−126), or 1.0 where a is 0 (R133, R138). -/
def rowScale (a : FloatVal) (f : Nat) : Word16 :=
  if a.isZero then 0x3F80
  else
    let (q, st) := a.div (.num false (qmax f) 0)
    let w := bf16of q st
    if w.toNat < 0x0080 then 0x0080 else w

/-- The E8M0 code of a block: X = floor(log2 amax) − emax, clamped; 0 for amax = 0 (R129). -/
def mxBlockScale (f : Nat) (vals : List FloatVal) : Nat :=
  match maxAbs vals with
  | .num _ m e =>
    if m == 0 then 0
    else
      let x := (Nat.log2 m : Int) + e - (if f == 0xC then 8 else 2)
      (min (max x (-127)) 127 + 127).toNat
  | _ => 0

/-- Saturating conversion of v / s to a narrow format (R125, R127): the code, and whether it saturated. -/
def narrow (f : Nat) (v s : FloatVal) : Nat × Bool :=
  let (q, st) := v.div s
  let int (lo hi : Int) (w : Nat) : Nat × Bool :=
    match q with
    | .nan => (0, true)
    | .inf neg => (((if neg then lo else hi) % 2 ^ w).toNat, true)
    | _ =>
      let i := (q.round st).getD 0
      if i < lo then ((lo % 2 ^ w).toNat, true)
      else if i > hi then ((hi % 2 ^ w).toNat, true)
      else ((i % 2 ^ w).toNat, false)
  match f with
  | 3 | 0xC => fmtE4m3.encodeSat q st
  | 4 => fmtE5m2.encodeSat q st
  | 8 | 0xD => fmtE2m1.encodeSat q st
  | 5 => int (-127) 127 8
  | 6 => if q.negative then (0, true) else int 0 255 8
  | 7 => int (-7) 7 4
  | _ => (0, false)

/-- One MX element of a block with scale code x, and whether its saturation counts: a magnitude below
2^(emax + 1) · 2^X clamps quietly (R129). -/
def mxElem (f x : Nat) (v : FloatVal) : Nat × Bool :=
  let s := FloatVal.num false 1 ((x : Int) - 127)
  let (c, sat) := narrow f v s
  let lim := FloatVal.num false 1 ((x : Int) - 127 + (if f == 0xC then 9 else 3))
  (c, sat && !(v.finite && v.abs.lt lim))

/-- A row converted to an MX format: its codes, its block scales, and the saturations that count. Masked positions take
no part and give code 0. -/
def mxRow (f : Nat) (vals : List (FloatVal × Bool)) : List Nat × List Nat × Nat :=
  let blocks := vals.zipIdx.map fun p => (p.1, p.2 / 32)
  let n := cdiv vals.length 32
  let sc := (List.range n).map fun i =>
    mxBlockScale f ((blocks.filter fun p => p.2 == i && !p.1.2).map fun p => p.1.1)
  let out := blocks.map fun p => if p.1.2 then (0, false) else mxElem f (sc.getD p.2 0) p.1.1
  (out.map fun p => p.1, sc, (out.filter fun p => p.2).length)

/-- A row quantised on feed to E4M3 or E5M2: codes, its scale, and the conversions that set the flag. A finite value
saturates quietly (R133, R134). -/
def feedRow (f : Nat) (vals : List (FloatVal × Bool)) : List Nat × Word16 × Nat :=
  let s := rowScale (maxAbs ((vals.filter fun p => !p.2).map fun p => p.1)) f
  let out := vals.map fun p => if p.2 then (0, false) else (let c := narrow f p.1 (bf16v s); (c.1, c.2 && !p.1.finite))
  (out.map fun p => p.1, s, (out.filter fun p => p.2).length)

/-! ### Streams in the operand store (R142, R143) -/

def unitBytes : Nat := 512

/-- Units that n bytes from a unit-aligned address cover. -/
def unitsOf (addr n : Nat) : List Nat := (List.range (cdiv n unitBytes)).map fun i => addr / unitBytes + i

/-- The tag of a unit: an invalid unit reads with tag 0 (R141). -/
def EngineCtx.tag (c : EngineCtx) (u : Nat) : Word16 :=
  if c.operand.valid.contains u then lookupD c.tags u 0 else 0

/-- Stamp units with a tag; 0 is not listed. -/
def EngineCtx.stamp (c : EngineCtx) (us : List Nat) (t : Word16) : EngineCtx :=
  let rest := c.tags.filter fun p => !us.contains p.1
  { c with tags := if t == 0 then rest else rest ++ us.map fun u => (u, t) }

/-- Bytes of A as stored: BF16 rows with QF = 1. -/
def ArrayOp.aRow (o : ArrayOp) : Nat := rowBytes (if o.qf then 1 else o.aFmt) o.k

/-- Rows of A block j. -/
def ArrayOp.blockRows (o : ArrayOp) (j : Nat) : Nat := min 128 (o.m - 128 * j)

/-- First byte of A data block j: every block starts on a unit. -/
def ArrayOp.aBlock (o : ArrayOp) (j : Nat) : Nat := o.aAddr * unitBytes + j * (cdiv (128 * o.aRow) unitBytes * unitBytes)

def ArrayOp.aEnd (o : ArrayOp) : Nat :=
  let j := o.tiles - 1
  o.aBlock j + cdiv (o.blockRows j * o.aRow) unitBytes * unitBytes

/-- Bytes of one A scale block. -/
def ArrayOp.aScaleBytes (o : ArrayOp) : Nat := if isMx o.aFmt then 128 * (o.k / 32) else 256

def ArrayOp.scaledA (o : ArrayOp) : Bool := !o.qf && !(o.aFmt == 1 || o.aFmt == 2)

def ArrayOp.scaledB (o : ArrayOp) : Bool := !(o.aFmt == 1 || o.aFmt == 2)

/-- First byte of A scale block j. -/
def ArrayOp.aScaleBlock (o : ArrayOp) (j : Nat) : Nat := o.aEnd + j * (cdiv o.aScaleBytes unitBytes * unitBytes)

/-- Addresses of the row scales of A scale block j: 128, whatever M is (Table 5-6). -/
def ArrayOp.blockScales (o : ArrayOp) (j : Nat) : List Nat := (List.range 128).map fun r => o.aScaleBlock j + 2 * r

def ArrayOp.bBytes (o : ArrayOp) : Nat := o.k * rowBytes o.bFmt o.n

def ArrayOp.bScaleBytes (o : ArrayOp) : Nat := if isMx o.bFmt then o.k / 32 * o.n else 2 * o.n

/-- Every operand begins at an address up to 49,151 and ends within the store (R113). -/
def ArrayOp.inRange (o : ArrayOp) : Bool :=
  let cap := spaceCapacity (.operand 0)
  let aTop := if o.scaledA then o.aScaleBlock (o.tiles - 1) + o.aScaleBytes else o.aBlock (o.tiles - 1) +
    o.blockRows (o.tiles - 1) * o.aRow
  o.aAddr ≤ 49151 && aTop ≤ cap &&
    (o.reuseB || (o.bAddr ≤ 49151 && o.bAddr * unitBytes + o.bBytes ≤ cap)) &&
    (!o.scaledB || (o.scaleAddr ≤ 49151 && o.scaleAddr * unitBytes + o.bScaleBytes ≤ cap))

/-- The first tag mismatch of an instruction (R143). -/
def skewOf (c : EngineCtx) (o : ArrayOp) : Option Skew :=
  if !o.scaledB then none
  else
    let aBlock (j : Nat) : Option Skew :=
      let us := unitsOf (o.aBlock j) (o.blockRows j * o.aRow) ++ unitsOf (o.aScaleBlock j) o.aScaleBytes
      let t := c.tag (us.headD 0)
      match us.find? fun u => c.tag u != t with
      | some u => some { operand := 0, block := j, expected := t.toNat, found := (c.tag u).toNat }
      | none => none
    let a := if o.scaledA then ((List.range o.tiles).filterMap aBlock).head? else none
    match a with
    | some x => some x
    | none =>
      let us := (if o.reuseB then [] else unitsOf (o.bAddr * unitBytes) o.bBytes) ++
        unitsOf (o.scaleAddr * unitBytes) o.bScaleBytes
      match us.find? fun u => (c.tag u).toNat != o.tag with
      | some u => some { operand := 1, block := 0, expected := o.tag, found := (c.tag u).toNat }
      | none => none

/-- Granules of 64 KiB of the operand store that an instruction's operands lie in. -/
def ArrayOp.granules (o : ArrayOp) : List Nat :=
  let span (a n : Nat) : List Nat := (List.range (cdiv (a % 65536 + n) 65536)).map fun i => a / 65536 + i
  let a := span (o.aAddr * unitBytes)
    ((if o.scaledA then o.aScaleBlock (o.tiles - 1) + o.aScaleBytes else o.aEnd) - o.aAddr * unitBytes)
  let b := if o.reuseB then [] else span (o.bAddr * unitBytes) o.bBytes
  let s := if o.scaledB then span (o.scaleAddr * unitBytes) o.bScaleBytes else []
  a ++ b ++ s

/-! ### Staging a slot (R99, R133) -/

/-- Mask bit k: the K row is an outlier channel. -/
def ArrayOp.masked (o : ArrayOp) (mask : BitVec 256) (k : Nat) : Bool := o.outlier && k < o.k && mask.getLsbD k

/-- Marked channels below K (R111). -/
def ArrayOp.marked (o : ArrayOp) (mask : BitVec 256) : List Nat := (List.range (min o.k 256)).filter fun k => o.masked mask k

/-- Row m of A as stored. -/
def ArrayOp.aRowBytes (o : ArrayOp) (c : EngineCtx) (m : Nat) : List Byte :=
  c.operand.readBytes (o.aBlock (m / 128) + m % 128 * o.aRow) o.aRow

/-- What the feeder stages for one row: codes packed, its scales, its marked channels in BF16, and conversions that set
the flag. -/
def ArrayOp.stageRow (o : ArrayOp) (c : EngineCtx) (m : Nat) : List Byte × List Word16 × List BF16 × Nat :=
  let raw := o.aRowBytes c m
  if !o.qf then
    let sc := if !o.scaledA then []
      else if isMx o.aFmt then
        (c.operand.readBytes (o.aScaleBlock (m / 128) + m % 128 * (o.k / 32)) (o.k / 32)).map fun b => b.setWidth 16
      else [BitVec.ofNat 16 (unle (c.operand.readBytes (o.aScaleBlock (m / 128) + m % 128 * 2) 2))]
    (raw, sc, [], 0)
  else
    let vals := (List.range o.k).map fun k => (codeVal 1 (codeAt 1 raw k), o.masked c.mask k)
    let out := (o.marked c.mask).map fun k => BitVec.ofNat 16 (codeAt 1 raw k)
    if o.aFmt == 0xC then
      let (codes, sc, n) := mxRow o.aFmt vals
      (packRow o.aFmt codes, sc.map fun x => BitVec.ofNat 16 x, out, n)
    else
      let (codes, s, n) := feedRow o.aFmt vals
      (packRow o.aFmt codes, [s], out, n)

/-- The weights of B by K index and column. -/
def ArrayOp.bGrid (o : ArrayOp) (raw : List Byte) : CellGrid :=
  let row := rowBytes o.bFmt o.n
  (List.range o.k).map fun k => (List.range o.n).map fun n => codeAt o.bFmt ((raw.drop (k * row)).take row) n

/-- A load writes the Cells that a block covers; the others keep what their registers hold (log 134). -/
def loadCells (old new : CellGrid) : CellGrid :=
  (List.range (max old.length new.length)).map fun k =>
    let row := new.getD k []
    row ++ (old.getD k []).drop row.length

/-- B scales as stored: N BF16 values, or the E8M0 bytes of each block row. -/
def ArrayOp.bScaleVals (o : ArrayOp) (c : EngineCtx) : List Word16 :=
  let raw := c.operand.readBytes (o.scaleAddr * unitBytes) o.bScaleBytes
  if !o.scaledB then []
  else if isMx o.bFmt then raw.map fun b => b.setWidth 16
  else (List.range o.n).map fun n => BitVec.ofNat 16 (field raw (2 * n) 2)

/-! ### Conversion word (Table 5-7) -/

structure CvtOp where
  src : Nat
  dst : Nat
  round : Nat
  scaleSrc : Nat
  srcAcc : Bool
  shape : Nat
  srcAddr : Nat
  dstAddr : Nat
  rows : Nat
  len : Nat
  scaleAddr : Nat
  tag : Word16
  reserved : Bool
  deriving DecidableEq, Repr

def cvtOp (w : BitVec 128) : CvtOp :=
  let v := w.toNat
  { src := bits v 11 8, dst := bits v 15 12, round := bits v 17 16, scaleSrc := bits v 19 18, srcAcc := bit v 20,
    shape := bits v 29 28, srcAddr := bits v 47 32, dstAddr := bits v 63 48, rows := bits v 73 64 + 1,
    len := bits v 85 74 + 1, scaleAddr := bits v 111 96, tag := BitVec.ofNat 16 (bits v 127 112),
    reserved := bits v 27 21 != 0 || bits v 31 30 != 0 || bits v 95 86 != 0 || 2 ≤ bits v 17 16 }

/-- The combinations of Table 5-8. -/
def CvtOp.allowed (o : CvtOp) : Bool :=
  let wide := o.src == 0 || o.src == 1 || o.src == 2
  let narrowDst := o.dst == 3 || o.dst == 4 || o.dst == 5 || o.dst == 7 || o.dst == 8
  !o.reserved && o.shape != 3 &&
    ((wide && (o.dst == 1 || o.dst == 2) && o.scaleSrc == 0) ||
     (wide && narrowDst && (o.round == 0 || o.scaleSrc == 0 || o.scaleSrc == 2)) ||
     (wide && o.dst == 6 && o.round == 0) ||
     (wide && isMx o.dst && o.scaleSrc == 1 && o.round == 0) ||
     ((1 ≤ o.src && o.src ≤ 8 || isMx o.src) && o.dst == 0 &&
       (o.scaleSrc == 0 || o.scaleSrc == 2) && o.round == 0) ||
     (o.src == 9 && o.srcAcc && (o.dst == 0 || o.dst == 1) && o.scaleSrc == 0 && o.round == 0))

end Sys2Proof.Machine
end

