-- ==== Sys2Proof/Machine/Flags.lean ====
section
/-! DEFINITION. The overflow flag of a unit execution with its causes (R162, Table 6-4), the scoreboard (R108), the
stall and work counters of an Engine page, and the Engine fault (R116). -/

namespace Sys2Proof.Machine

/-! ### Causes (Table 6-4) -/

def causeIntSat : Nat := 0
def causeAccInf : Nat := 1
def causeVecOvf : Nat := 2
def causeConvSat : Nat := 3
def causeBadInput : Nat := 4
def causeBadScale : Nat := 5
def causeTouchstone : Nat := 6

/-- n events of one cause set the flag; the first of them leaves the word of its instruction (Table 6-6). -/
def EngineCtx.flagBy (c : EngineCtx) (cause n word : Nat) : EngineCtx :=
  if n == 0 then c
  else
    { c with
      causes := c.causes ||| BitVec.ofNat 8 (2 ^ cause)
      flagEvents := satAdd 32 c.flagEvents n
      firstWord := if c.flagEvents == 0 then word else c.firstWord }

/-! ### Counters (Table 4-15, R120) -/

def Engine.count (e : Engine) (f : Engine → Engine) : Engine := if e.countEn then f e else e

/-! ### The scoreboard (R108, Table 4-6) -/

/-- Units a queued vector instruction reads or writes. -/
def VecEntry.units (v : VecEntry) : List Nat := v.reads ++ v.writes

def meets (a b : List Nat) : Bool := a.any b.contains

/-- Units of the array instructions not yet written. -/
def Engine.drainUnits (e : Engine) : List Nat :=
  e.drain.flatMap fun d => let o := arrayOp d.word; tileUnits o.shape o.tile o.tiles

/-- Scoreboard units of a range of the accumulator store. -/
def accUnits (off n : Nat) : List Nat := (List.range (cdiv (off % 16384 + n) 16384)).map fun i => off / 16384 + i

/-- Units that a transfer in progress reads or writes in the Engine's own accumulator store. -/
def Engine.xferUnits (e : Engine) (me : EngineId) : List Nat :=
  e.xfers.flatMap fun x =>
    (if x.src.space == Space.acc me then accUnits x.src.off x.len else []) ++
      (if x.dst.space == Space.acc me then accUnits x.dst.off x.len else [])

/-- An array instruction on these units waits for a vector instruction or transfer that uses one of them; behind another
array instruction it does not wait. -/
def Engine.arrayHazard (e : Engine) (me : EngineId) (us : List Nat) : Bool :=
  meets us (e.vec.flatMap VecEntry.units) || meets us (e.xferUnits me)

/-- A vector instruction or transfer on these units waits for array instructions, for transfers, and for queued vector
instructions unless both only read or the vector queue itself orders them. -/
def Engine.vectorHazard (e : Engine) (me : EngineId) (us : List Nat) : Bool :=
  meets us e.drainUnits || meets us (e.xferUnits me)

/-- A transfer also waits for a queued vector instruction that writes what it uses, or reads what it writes. -/
def Engine.xferHazard (e : Engine) (me : EngineId) (reads writes : List Nat) : Bool :=
  e.vectorHazard me (reads ++ writes) || meets (reads ++ writes) (e.vec.flatMap fun v => v.writes) ||
    meets writes (e.vec.flatMap fun v => v.reads)

/-- Granules of the operand store that a transfer in flight still writes (R99). -/
def Engine.writingGranules (e : Engine) (me : EngineId) : List Nat :=
  e.xfers.flatMap fun x =>
    if x.dst.space == Space.operand me then
      (List.range (cdiv (x.dst.off % 65536 + x.len) 65536)).map fun i => x.dst.off / 65536 + i
    else []

/-- Every earlier instruction has completed, the recomputation of a sample too. -/
def Engine.quiet (x : Engine) : Bool := x.drain.isEmpty && x.vec.isEmpty && x.xfers.isEmpty && x.tsBuffer.isEmpty

/-- Operand granules that a sample in the Touchstone buffer still reads: writes to them wait (R167). -/
def Engine.sampled (e : Engine) : List Nat := e.tsBuffer.flatMap Sample.granules

/-- Those granules and the ones that queued vector instructions write. -/
def Engine.busyGranules (e : Engine) (me : EngineId) : List Nat :=
  e.writingGranules me ++ e.vec.flatMap fun v => v.granules

/-! ### The Engine fault (R116, Table 4-10) -/

def erIllegalOpcode : Nat := 0x01
def erModeMismatch : Nat := 0x02
def erFormatPair : Nat := 0x03
def erShapeRange : Nat := 0x04
def erAccRange : Nat := 0x05
def erOperandRange : Nat := 0x06
def erWorld : Nat := 0x07
def erOutlierRange : Nat := 0x08
def erSemRange : Nat := 0x09
def erNpRange : Nat := 0x0A
def erAccFormat : Nat := 0x0B
def erScaleSkew : Nat := 0x0C

/-- The Engine executes code of a job: RUNNING with a unit placed. -/
def State.executes (s : State) (e : EngineId) : Option Key :=
  match s.engines[e].state, s.engines[e].job with
  | .running, some (k, _) => some k
  | _, _ => none

/-- An Engine records a fault of the instruction it met: ME_FAULT, the FAULT bit and its event (Table 4-15). -/
def State.engineReason (s : State) (e : EngineId) (reason op : Nat) : State :=
  let s := s.modEngine e fun x =>
    { x with reason := BitVec.ofNat 8 reason, opcode := BitVec.ofNat 8 op, faults := satAdd 16 x.faults 1, fault := true }
  if s.engines[e].faultIrq then s.signal else s

/-- The job of an Engine faults with a reason; the faulting instruction changes no store. -/
def State.engineFault (s : State) (e : EngineId) (k : Key) (reason op : Nat) : State :=
  (s.engineReason e reason op).faultJobNoted k (if reason == erScaleSkew then scScaleSkew else scEngineFault) (.engine e)
    { reason := reason, skew := none }

/-- Block tags disagree: SCALE_SKEW, and the record names them (R143). -/
def State.skewFault (s : State) (e : EngineId) (k : Key) (op : Nat) (x : Skew) : State :=
  (s.engineReason e erScaleSkew op).faultJobNoted k scScaleSkew (.engine e) { reason := erScaleSkew, skew := some x }

/-- The instruction at an Engine has issued: the next word. -/
def Engine.next (e : Engine) : Engine := { e with ctx := { e.ctx with pc := e.ctx.pc + 1 } }

def State.nextWord (s : State) (e : EngineId) : State := s.modEngine e Engine.next

end Sys2Proof.Machine
end

