-- ==== Sys2Proof/Machine/HostOps.lean ====
section
/-! DEFINITION. The host port: controllers, queues, doorbells, fetching, features, interrupts, PTM and IDE
(chapter 15). -/

namespace Sys2Proof.Machine

/-! ### Controllers (R372, R381, R384, R29) -/

/-- CC.EN set, from 0 to 1 (R381): an unsupported setting raises CSTS.CFS, else the admin queues of AQA stand. -/
def doControllerEnable (c : Ctrl) (css : BitVec 3) (iosqes iocqes : BitVec 4) (s : State) : State :=
  if !s.present c || s.ctrls[c].en then s
  else
    s.modCtrl c fun f =>
      let f := { f with en := true, css := css, iosqes := iosqes, iocqes := iocqes }
      if css != 0 || iosqes != 6 || iocqes != 4 then { f with cfs := true }
      else
        { f with
          sqs := [{ id := 0, size := bits f.aqa.toNat 11 0 + 1, cqid := 0, head := 0, tail := 0 }]
          cqs := [{ id := 0, size := bits f.aqa.toNat 27 16 + 1, vector := 0, ien := true, head := 0, tail := 0,
                    posted := [], waiting := [] }] }

def execControllerEnable (c : Ctrl) (css : BitVec 3) (iosqes iocqes : BitVec 4) (s : State) : Out :=
  .next (doControllerEnable c css iosqes iocqes s)

/-- CSTS.RDY: enabled without CFS, and not before internal boot ends (R395). -/
def doControllerReady (c : Ctrl) (s : State) : State :=
  if s.ctrls[c].en && !s.ctrls[c].cfs && s.power.phase == .running then s.modCtrl c fun f => { f with rdy := true }
  else s

def execControllerReady (c : Ctrl) (s : State) : Out := .next (doControllerReady c s)

/-- The queues of a controller go, its jobs are quenched, and the commands in flight have no completion (R29); a Recast
it issued goes on, and its completion is discarded (R63). -/
def State.dropController (s : State) (c : Ctrl) (f : Controller → Controller) : State :=
  let r := match s.mold.recast with
    | some r => some (if r.sqe.key.ctrl == c then { r with discard := true } else r)
    | none => none
  let s := { s with mold := { s.mold with recast := r } }
  ((s.quenchController c).modCtrl c f).followRequest

/-- CC.EN cleared: what CC, the admin queue registers and the PCIe function hold beyond the controller stays. -/
def doControllerReset (c : Ctrl) (s : State) : State :=
  s.dropController c fun f =>
    { Controller.reset with
      linkUp := f.linkUp, aqa := f.aqa, asq := f.asq, acq := f.acq, css := f.css, iosqes := f.iosqes, iocqes := f.iocqes
      intms := f.intms, msixEnable := f.msixEnable, msixMask := f.msixMask, unmasked := f.unmasked, pba := f.pba
      msixTable := f.msixTable, ptmEnable := f.ptmEnable, ide := f.ide, aerLogged := f.aerLogged }

def execControllerReset (c : Ctrl) (s : State) : Out := .next (doControllerReset c s)

/-- A Function Level Reset: the function's registers too; the link and its IDE keys stay. -/
def doFlr (c : Ctrl) (s : State) : State :=
  s.dropController c fun f => { Controller.reset with linkUp := f.linkUp, ide := f.ide }

def execFunctionLevelReset (c : Ctrl) (s : State) : Out := .next (doFlr c s)

/-- Host B's PERST# (R373): controller 1 and its link; ignored in the ×16 form. -/
def doPerstBAssert (s : State) : State :=
  let s := s.modPower fun p => { p with perstB := true }
  if s.power.split then s.dropController 1 fun _ => Controller.reset else s

def execPerstBAssert (s : State) : Out := .next (doPerstBAssert s)

def doPerstBDeassert (s : State) : State :=
  let s := s.modPower fun p => { p with perstB := false }
  if s.power.split && s.power.phase == .running then s.modCtrl 1 fun f => { f with linkUp := true } else s

def execPerstBDeassert (s : State) : Out := .next (doPerstBDeassert s)

/-! ### Doorbells and fetching (R378, R388, R389) -/

/-- I/O commands held of queues outside the C0 Shop. -/
def State.unreserved (s : State) (c : Ctrl) : Nat :=
  (s.ctrls[c].inflight.filter fun e => e.key.sqid != 0 && !s.isC0Queue c e.key.sqid).length

/-- I/O commands held. -/
def State.ioHeld (s : State) (c : Ctrl) : Nat := (s.ctrls[c].inflight.filter fun e => e.key.sqid != 0).length

/-- A queue outside the C0 Shop finds the 49,151 unreserved slots full. -/
def State.slotsFull (s : State) (c : Ctrl) (q : Nat) : Bool :=
  q != 0 && !s.isC0Queue c q && s.unreserved c ≥ 49151

/-- A submission doorbell: the tail; an I/O command wakes the module (R393); with the slots full only recorded. -/
def doSqDoorbell (c : Ctrl) (q t : Nat) (s : State) : State :=
  match s.ctrls[c].sqs.find? fun x => x.id == q with
  | none => s
  | some x =>
    if t ≥ x.size then s
    else
      let s := s.modCtrl c fun f => { f with sqs := updWhere f.sqs (fun x => x.id == q) fun x => { x with tail := t } }
      let s := if s.slotsFull c q then s.modCtrl c fun f => { f with paused := insertNew f.paused q } else s
      if q == 0 then s else s.wakeForIo

def execSqTailDoorbell (c : Ctrl) (qid tail : Nat) (s : State) : Out := .next (doSqDoorbell c qid tail s)

/-- Post waiting completions of a queue while it has room. -/
def State.drainCq (s : State) (c : Ctrl) (q : Nat) : Nat → State
  | 0 => s
  | fuel + 1 =>
    match s.ctrls[c].cqs.find? fun x => x.id == q with
    | none => s
    | some x =>
      match x.waiting with
      | [] => s
      | e :: rest =>
        if x.full then s
        else
          let g (x : CompQueue) : CompQueue :=
            { x with posted := x.posted ++ [e], waiting := rest, tail := (x.tail + 1) % x.size }
          let s := s.modCtrl c fun f => { f with cqs := updWhere f.cqs (fun x => x.id == q) g }
          let s := if x.ien then s.msix c x.vector else s
          State.drainCq s c q fuel

/-- A completion doorbell releases entries up to the new head. -/
def doCqDoorbell (c : Ctrl) (q h : Nat) (s : State) : State :=
  match s.ctrls[c].cqs.find? fun x => x.id == q with
  | none => s
  | some x =>
    if h ≥ x.size then s
    else
      let s := s.modCtrl c fun f => { f with cqs := updWhere f.cqs (fun x => x.id == q) fun x => { x with head := h } }
      s.drainCq c q x.waiting.length

def execCqHeadDoorbell (c : Ctrl) (qid head : Nat) (s : State) : Out := .next (doCqDoorbell c qid head s)

/-- Opcodes of Table 15-8, and admin opcodes of Table 15-7. -/
def ioOpcodes : List Nat := [0x81, 0x82, 0x84, 0x85, 0x89, 0x8A, 0x8D, 0x91, 0x92]
def adminOpcodes : List Nat :=
  [0x00, 0x01, 0x02, 0x04, 0x05, 0x06, 0x08, 0x09, 0x0A, 0x0C, 0x10, 0x11, 0xC1, 0xC2, 0xC5, 0xC6, 0xC9, 0xCA]

def opcodeOk (e : Sqe) : Bool :=
  if e.key.sqid == 0 then adminOpcodes.contains e.opcode.toNat else ioOpcodes.contains e.opcode.toNat

/-- An entry of a queue reaches the Hub: held in a slot; an opcode of neither table completes at once (R381). I/O queues wait
while R34 or R393 has them wait; the 65,535 slots are those of I/O commands, the admin queue is fetched from at once (R388; in
which order entries of several queues arrive is the sender's, log 153). -/
def doFetched (e : Sqe) (s : State) : State :=
  let c := e.key.ctrl
  let q := e.key.sqid
  match s.ctrls[c].sqs.find? fun x => x.id == q with
  | none => s
  | some x =>
    if q != 0 && s.ioWaits then s.wakeForIo
    else if x.head == x.tail || s.ctrls[c].shn != 0 || s.slotsFull c q || (q != 0 && s.ioHeld c ≥ 65535) then s
    else
      let s := s.modCtrl c fun f =>
        { f with
          sqs := updWhere f.sqs (fun x => x.id == q) fun x => { x with head := (x.head + 1) % x.size }
          inflight := f.inflight ++ [e], turn := if q == 0 then f.turn else q }
      if opcodeOk e then s else s.invalidOpcode e.key

def execSubmissionEntryFetched (e : Sqe) (s : State) : Out := .next (doFetched e s)

/-- The next paused queue in round-robin order after the last one served. -/
def nextPaused (l : List Nat) (turn : Nat) : Option Nat :=
  let later := l.filter fun q => q > turn
  (if later.isEmpty then l else later).min?

/-- A slot has come free: the next paused queue is fetched from again (R388). -/
def doSlotsFreed (c : Ctrl) (s : State) : State :=
  let f := s.ctrls[c]
  match nextPaused f.paused f.turn with
  | none => s
  | some q =>
    if s.unreserved c ≥ 49151 then s
    else s.modCtrl c fun f => { f with paused := f.paused.filter fun x => x != q, turn := q }

def execFetchSlotsFreed (c : Ctrl) (s : State) : Out := .next (doSlotsFreed c s)

/-- A failed read of host memory: logged, the command's bytes discarded, the command completed (R376, R32). -/
def State.hostReadFailed (s : State) (k : Key) (fin : State → State) : State :=
  if s.ctrls[k.ctrl].inflight.any fun e => e.key == k then
    let s := s.modCtrl k.ctrl fun f => { f with aerLogged := f.aerLogged + 1 }
    let s := { s with search := { s.search with puts := s.search.puts.filter fun p => p.key != k } }
    let s := match s.mold.loading with
      | some (e, _) =>
        if e.key == k then { s with mold := { s.mold with state := .blank, loading := none } } else s
      | none => s
    fin s
  else s

def execHostReadPoisoned (k : Key) (s : State) : Out :=
  .next (s.hostReadFailed k fun s => s.refuse k scDataPoisoned)

def execHostReadTimeout (k : Key) (s : State) : Out := .next (s.hostReadFailed k fun s => s.transferError k)

/-! ### MSI-X (R432) -/

/-- Send what is pending and no longer masked, one message for each vector. -/
def State.msixFlush (s : State) (c : Ctrl) : State :=
  let f := s.ctrls[c]
  if !f.msixEnable || f.msixMask then s
  else
    let go := f.pba.filter f.unmasked.contains
    let s := s.modCtrl c fun f => { f with pba := f.pba.filter fun v => !f.unmasked.contains v }
    go.foldl (fun s v => s.emit (.msix c v)) s

/-- The mask of an entry, or of the whole function, clears. -/
def doMsixUnmask (c : Ctrl) (v : Option (Fin 2048)) (s : State) : State :=
  let s := s.modCtrl c fun f =>
    match v with
    | some v => { f with unmasked := insertNew f.unmasked v.val }
    | none => { f with msixMask := false }
  s.msixFlush c

def execMsixVectorUnmask (c : Ctrl) (vector : Option (Fin 2048)) (s : State) : Out :=
  .next (doMsixUnmask c vector s)

/-! ### PTM and IDE (R375, R377) -/

/-- Time between PTM dialogs, µs: 1 ms while LOCK_STATE is ACQUIRING, 10 ms otherwise. -/
def State.ptmEvery (s : State) : Nat := if s.grid.lock == .acquiring then 1000 else 10000

/-- A PTM dialog is due: none has been issued, or the last one was long enough ago. -/
def State.ptmDue (s : State) : Bool :=
  match s.grid.ptmIssueUs with
  | some t => t + s.ptmEvery ≤ s.clockUs
  | none => true

/-- A PTM dialog is issued when it is due, while PTM is enabled and the link is up. -/
def doPtmIssue (s : State) : State :=
  if s.ctrls[(0 : Ctrl)].ptmEnable && s.ctrls[(0 : Ctrl)].linkUp && s.ptmDue then
    ({ s with grid := { s.grid with ptmOut := true, ptmIssueUs := some s.clockUs } }).emit .ptmRequest
  else s

def execPtmDialogIssue (s : State) : Out := .next (doPtmIssue s)

/-- A dialog answers: t is the master time corrected by the delay; a delay above 10 µs discards it. -/
def doPtmComplete (master delayNs : Nat) (s : State) : State :=
  if !s.grid.ptmOut || !s.ctrls[(0 : Ctrl)].ptmEnable || !s.ctrls[(0 : Ctrl)].linkUp then s
  else if delayNs > 10000 then { s with grid := { s.grid with ptmOut := false } }
  else { s with grid := { s.grid with ptmOut := false, ptmTime := master + delayNs, ptmLastUs := some s.clockUs } }

def execPtmDialogComplete (master delayNs : Nat) (s : State) : Out := .next (doPtmComplete master delayNs s)

/-- IDE_KM answers; the object codes are those of the PCIe specification (log 18). -/
def execIdeKmQuery (c : Ctrl) (_port : Byte) (s : State) : Out := .next (s.emit (.ideKm c 0x01))

def execIdeKmKeyProg (c : Ctrl) (sel : IdeSel) (key : BitVec 256) (s : State) : Out :=
  .next ((s.modCtrl c fun f =>
    { f with ide := f.ide.filter (fun k => k.sel != sel) ++ [{ sel := sel, key := key, go := false }] }).emit
      (.ideKm c 0x03))

def State.ideGo (s : State) (c : Ctrl) (sel : IdeSel) (go : Bool) : State :=
  (s.modCtrl c fun f => { f with ide := updWhere f.ide (fun k => k.sel == sel) fun k => { k with go := go } }).emit
    (.ideKm c 0x06)

def execIdeKmKSetGo (c : Ctrl) (sel : IdeSel) (s : State) : Out := .next (s.ideGo c sel true)
def execIdeKmKSetStop (c : Ctrl) (sel : IdeSel) (s : State) : Out := .next (s.ideGo c sel false)

/-! ### Features (R381, Table 15-7) -/

def bytesNat (bs : List Byte) (o n : Nat) : Nat := field bs o n

/-- The APST table: idle state and idle time of states 0 to 4, from its 8-byte entries. -/
def apstEntries (data : List Byte) : List (Nat × Nat) :=
  (List.range 5).map fun i => (bits (field data (8 * i) 8) 7 3, bits (field data (8 * i) 8) 31 8)

def apstBytes (t : List (Nat × Nat)) : List Byte := padTo 256 (t.flatMap fun p => le 8 (8 * p.1 + 256 * p.2))

/-- The Timestamp now: the value set and the milliseconds since. -/
def Controller.stamp (f : Controller) (clockUs : Nat) : Nat := f.timestamp.toNat + (clockUs - f.timestampAt) / 1000

def doSetFeatures (e : Sqe) (data : List Byte) (s : State) : State :=
  let c := e.key.ctrl
  let k := e.key
  let v := e.cdw11.toNat
  let set (f : Controller → Controller) : State := (s.modCtrl c f).success k 0 0 []
  match bits e.cdw10.toNat 7 0 with
  | 0x02 =>
    if bits v 4 0 ≤ 4 then ((s.modCtrl c fun f => { f with pmState := bits v 4 0 }).followRequest).success k 0 0 []
    else s.nvmeInvalidField k
  | 0x07 =>
    if bits v 15 0 == 65535 || bits v 31 16 == 65535 then s.nvmeInvalidField k
    else
      let n := min (bits v 15 0) 1023 + 65536 * min (bits v 31 16) 1023
      (s.modCtrl c fun f => { f with numQueues := BitVec.ofNat 32 n }).success k n 0 []
  | 0x08 => set fun f => { f with coalescing := e.cdw11 }
  | 0x09 =>
    if bits v 15 0 > 2047 then s.nvmeInvalidField k
    else set fun f => { f with vectorConfig := assocSet f.vectorConfig (bits v 15 0) (bit v 16) }
  | 0x0B => set fun f => { f with asyncConfig := e.cdw11 }
  | 0x0C => set fun f => { f with apstEnable := bit v 0, apstTable := apstEntries data }
  | 0x0E => set fun f => { f with timestamp := BitVec.ofNat 64 (field data 0 6), timestampAt := s.clockUs }
  | _ => s.nvmeInvalidField k

def execSetFeatures (e : Sqe) (data : List Byte) (s : State) : Out := .next (doSetFeatures e data s)

/-- A feature's value: Dword 0 and data; none where the feature is not in Table 15-7. -/
def State.feature (s : State) (c : Ctrl) (fid v : Nat) : Option (Nat × List Byte) :=
  let f := s.ctrls[c]
  match fid with
  | 0x01 => some (0, [])
  | 0x02 => some (f.pmState, [])
  | 0x07 => some (f.numQueues.toNat, [])
  | 0x08 => some (f.coalescing.toNat, [])
  | 0x09 => some (bits v 15 0 + 65536 * b2n (lookupD f.vectorConfig (bits v 15 0) false), [])
  | 0x0B => some (f.asyncConfig.toNat, [])
  | 0x0C => some (b2n f.apstEnable, apstBytes f.apstTable)
  | 0x0E => some (0, le 6 (f.stamp s.clockUs) ++ le 2 0)
  | _ => none

def doGetFeatures (e : Sqe) (s : State) : State :=
  match s.feature e.key.ctrl (bits e.cdw10.toNat 7 0) e.cdw11.toNat with
  | some (v, d) => s.success e.key v 0 d
  | none => s.nvmeInvalidField e.key

def execGetFeatures (e : Sqe) (s : State) : Out := .next (doGetFeatures e s)

/-! ### Abort, queues and event requests (R383, Table 15-7) -/

/-- Abort commands outstanding besides one. -/
def State.aborts (s : State) (k : Key) : Nat :=
  (s.ctrls[k.ctrl].inflight.filter fun e => e.key.sqid == 0 && e.opcode == 0x08 && e.key != k).length

def doAbort (e : Sqe) (s : State) : State :=
  if s.aborts e.key ≥ 4 then s.abortLimit e.key else s.success e.key 1 0 []

def execAbort (e : Sqe) (s : State) : Out := .next (doAbort e s)

def doCreateIoCq (e : Sqe) (s : State) : State :=
  let q := bits e.cdw10.toNat 15 0
  let n := bits e.cdw10.toNat 31 16 + 1
  let v := bits e.cdw11.toNat 31 16
  if q == 0 || q > 1024 || s.ctrls[e.key.ctrl].cqs.any fun x => x.id == q then s.queueIdInvalid e.key
  else if n < 2 then s.queueSizeInvalid e.key
  else if v > 2047 then s.vectorInvalid e.key
  else if !bit e.cdw11.toNat 0 then s.nvmeInvalidField e.key
  else
    let x : CompQueue :=
      { id := q, size := n, vector := v, ien := bit e.cdw11.toNat 1, head := 0, tail := 0, posted := [], waiting := [] }
    (s.modCtrl e.key.ctrl fun f => { f with cqs := f.cqs ++ [x] }).success e.key 0 0 []

def execCreateIoCq (e : Sqe) (s : State) : Out := .next (doCreateIoCq e s)

def doCreateIoSq (e : Sqe) (s : State) : State :=
  let q := bits e.cdw10.toNat 15 0
  let n := bits e.cdw10.toNat 31 16 + 1
  let cq := bits e.cdw11.toNat 31 16
  let f := s.ctrls[e.key.ctrl]
  if q == 0 || q > 1024 || f.sqs.any fun x => x.id == q then s.queueIdInvalid e.key
  else if n < 2 then s.queueSizeInvalid e.key
  else if cq == 0 || !(f.cqs.any fun x => x.id == cq) then s.cqInvalid e.key
  else if !bit e.cdw11.toNat 0 then s.nvmeInvalidField e.key
  else
    let x : SubQueue := { id := q, size := n, cqid := cq, head := 0, tail := 0 }
    (s.modCtrl e.key.ctrl fun f => { f with sqs := f.sqs ++ [x] }).success e.key 0 0 []

def execCreateIoSq (e : Sqe) (s : State) : Out := .next (doCreateIoSq e s)

/-- A queue and the commands still held of it go. -/
def doDeleteIoSq (e : Sqe) (s : State) : State :=
  let q := bits e.cdw10.toNat 15 0
  if q == 0 || !(s.ctrls[e.key.ctrl].sqs.any fun x => x.id == q) then s.queueIdInvalid e.key
  else
    (s.modCtrl e.key.ctrl fun f =>
      { f with
        sqs := f.sqs.filter fun x => x.id != q
        inflight := f.inflight.filter fun x => x.key.sqid != q
        paused := f.paused.filter fun x => x != q }).success e.key 0 0 []

def execDeleteIoSq (e : Sqe) (s : State) : Out := .next (doDeleteIoSq e s)

def doDeleteIoCq (e : Sqe) (s : State) : State :=
  let q := bits e.cdw10.toNat 15 0
  let f := s.ctrls[e.key.ctrl]
  if q == 0 || !(f.cqs.any fun x => x.id == q) then s.queueIdInvalid e.key
  else if f.sqs.any fun x => x.cqid == q then s.queueDeletionInvalid e.key
  else (s.modCtrl e.key.ctrl fun f => { f with cqs := f.cqs.filter fun x => x.id != q }).success e.key 0 0 []

def execDeleteIoCq (e : Sqe) (s : State) : Out := .next (doDeleteIoCq e s)

/-- Asynchronous Event Request: AERL is 7, so eight may be outstanding; an event that waits is reported at once. -/
def doAer (e : Sqe) (s : State) : State :=
  let f := s.ctrls[e.key.ctrl]
  match f.aerQueued with
  | ev :: rest =>
    (s.modCtrl e.key.ctrl fun f => { f with aerQueued := rest, aerSent := f.aerSent ++ [ev] }).success e.key ev 0 []
  | [] =>
    if f.aers.length ≥ 8 then s.nvme e.key 1 0x05 true
    else s.modCtrl e.key.ctrl fun f => { f with aers := f.aers ++ [e.key] }

def execAsyncEventRequest (e : Sqe) (s : State) : Out := .next (doAer e s)

end Sys2Proof.Machine
end

