-- ==== Sys2Proof/Machine/MoldParse.lean ====
section
/-! DEFINITION. Mold and Recast images: reading entries and the checks of the first three phases of R430
(chapter 2). -/

namespace Sys2Proof.Machine

/-! ### Failures (R33, Table 2-2) -/

/-- Where a validation stopped: byte offset, reason code, section index. -/
structure MoldErr where
  off : Nat
  reason : Nat
  sec : Nat
  deriving DecidableEq, Repr

def mrBadMagic := 0x01
def mrBadVersion := 0x02
def mrBadLength := 0x03
def mrBadDigest := 0x04
def mrSectionOrder := 0x05
def mrSectionMissing := 0x06
def mrFieldRange := 0x07
def mrResourceRange := 0x08
def mrDoubleBinding := 0x09
def mrWorldFixed := 0x0A
def mrRegionLimit := 0x0B
def mrEnvelope := 0x0C
def mrCollectionMismatch := 0x0D
def mrDirectoryFull := 0x0E
def mrStaticField := 0x0F
def mrGeneration := 0x10
def mrShopBusy := 0x11
def mrNoController := 0x12

/-- One check: offset, reason, and whether it fails. -/
abbrev Check := Nat × Nat × Bool

/-- The first failing check of a list, in a section. -/
def firstFail (sec : Nat) (cs : List Check) : Option MoldErr :=
  match cs.find? fun c => c.2.2 with
  | some c => some { off := c.1, reason := c.2.1, sec := sec }
  | none => none

/-- A field outside its stated range. -/
def range (o : Nat) (bad : Bool) : Check := (o, mrFieldRange, bad)

/-- A reserved field that is not 0. -/
def reserved (bs : List Byte) (o n : Nat) : Check := (o, mrFieldRange, !allZero (fieldBytes bs o n))

def outside (v lo hi : Nat) : Bool := v < lo || hi < v

/-! ### Entries and their own checks (phase 3) -/

/-- Units and granules of a unit by region space (Table 2-6). -/
def regionUnits (sp : Nat) : Nat := [48, 48, 4, 512, 24].getD sp 0
def regionGranules (sp : Nat) : Nat := [384, 64, 1536, 32, 36864].getD sp 0

/-- World map entry (Table 2-5). -/
def readWorld (bs : List Byte) (o : Nat) : WorldEntry :=
  { block := field bs o 1 == 0, sterling := field bs (o + 1) 1 == 1, space := field bs (o + 2) 1,
    unit := field bs (o + 4) 2, first := field bs (o + 8) 4, count := field bs (o + 12) 4 }

/-- The world of the cores of a Bench by the first block entry that names it, else Sterling (R39). -/
def benchWorld (ws : List WorldEntry) (b : Nat) : Bool :=
  match ws.find? fun w => w.block && w.space == 1 && w.unit == b with
  | some w => w.sterling
  | none => true

/-- An entry that breaks R242: a Bench SRAM region that is not the whole SRAM in the world of its Bench, or a block entry
against a region in force that the image does not name. -/
def breaksSram (base image : List WorldEntry) (w : WorldEntry) : Bool :=
  if w.block then
    w.space == 1 && base.any fun v => !v.block && v.space == 3 && v.unit == w.unit && v.sterling != w.sterling &&
      !(image.any fun x => !x.block && x.space == 3 && x.unit == w.unit)
  else w.space == 3 && !(w.first == 0 && w.count == 32 && w.sterling == benchWorld (image ++ base) w.unit)

/-- Checks of a World map entry alone; R242, on the worlds the image leaves, is the last of them (log 128). -/
def worldChecks (base image : List WorldEntry) (bs : List Byte) (o : Nat) : List Check :=
  let w := readWorld bs o
  let units := if w.block then (if w.space == 0 then 48 else 512) else regionUnits w.space
  let cap := regionGranules w.space
  [range o (field bs o 1 > 1), range (o + 1) (field bs (o + 1) 1 > 1),
   range (o + 2) (w.space > if w.block then 1 else 4), reserved bs (o + 3) 1,
   (o + 4, mrResourceRange, w.unit ≥ units), reserved bs (o + 6) 2,
   range (o + 8) (w.block && w.first != 0), (o + 8, mrResourceRange, !w.block && w.first ≥ cap),
   range (o + 12) (if w.block then w.count != 0 else w.count == 0),
   (o + 12, mrResourceRange, !w.block && w.first + w.count > cap),
   (o, mrWorldFixed, breaksSram base image w)]

/-- Shop entry (Table 2-7). -/
def readShop (bs : List Byte) (o : Nat) : Shop :=
  { id := field bs o 1, c0 := bit (field bs (o + 1) 1) 0, ctrl := field bs (o + 2) 1, firstQ := field bs (o + 4) 2,
    qCount := field bs (o + 6) 2, meMap := BitVec.ofNat 64 (field bs (o + 8) 8),
    stackMap := BitVec.ofNat 32 (field bs (o + 16) 4), semHold := field bs (o + 20) 2, nonpre := field bs (o + 22) 2,
    benchMap := BitVec.ofNat 512 (field bs (o + 24) 64) }

/-- DELETE of a Shop entry. -/
def shopDelete (bs : List Byte) (o : Nat) : Bool := bit (field bs (o + 1) 1) 1

/-- Checks of a Shop entry alone; with DELETE set only SHOP_ID, SHOP_FLAGS and the reserved byte count, and in a full Mold
DELETE is refused at the entry (R57). A Shop that names neither an Engine nor a Bench (R43) is refused with FIELD_RANGE at
BENCH_MAP (DESIGN CHOICE, log 55). -/
def shopChecks (isRecast split : Bool) (bs : List Byte) (o : Nat) : List Check :=
  let h := readShop bs o
  let live := !shopDelete bs o
  [range o (h.id > 7), range (o + 1) (field bs (o + 1) 1 > 3), range o (!live && !isRecast),
   range (o + 2) (live && h.ctrl > 1), (o + 2, mrNoController, live && h.ctrl == 1 && !split), reserved bs (o + 3) 1,
   range (o + 4) (live && outside h.firstQ 1 1024),
   range (o + 6) (live && (outside h.qCount 1 1024 || h.firstQ + h.qCount > 1025)),
   (o + 8, mrResourceRange, live && h.meMap.toNat ≥ 2 ^ 48),
   (o + 16, mrResourceRange, live && h.stackMap.toNat ≥ 2 ^ 24), range (o + 20) (live && outside h.semHold 10 3000),
   range (o + 22) (live && outside h.nonpre 10 3000), range (o + 24) (live && h.benchMap == 0 && h.meMap == 0)]

def readClass (bs : List Byte) (o : Nat) : ClassEntry :=
  { defaultW := field bs (o + 2) 2, minW := field bs (o + 4) 2, maxW := field bs (o + 6) 2,
    guarantee := field bs (o + 8) 2 }

/-- Checks of a class entry in position n (R46). -/
def classChecks (bs : List Byte) (o n : Nat) : List Check :=
  let c := readClass bs o
  [range o (field bs o 1 != n), reserved bs (o + 1) 1,
   range (o + 2) (c.defaultW == 0 || c.defaultW < c.minW || c.maxW < c.defaultW), range (o + 4) (c.minW == 0),
   range (o + 6) (c.maxW == 0), reserved bs (o + 10) 6]

def readEnvelope (bs : List Byte) (o : Nat) : Envelope :=
  { maxQueries := field bs o 2, maxLists := field bs (o + 2) 2, maxK := field bs (o + 4) 2,
    maxTokens := field bs (o + 6) 2, bound := field bs (o + 8) 1 }

def envelopeChecks (bs : List Byte) (o : Nat) : List Check :=
  let e := readEnvelope bs o
  [range o (outside e.maxQueries 1 16384), range (o + 2) (outside e.maxLists 1 4096),
   range (o + 4) (outside e.maxK 1 4096), range (o + 6) (outside e.maxTokens 1 8192),
   range (o + 8) (outside e.bound 2 16), reserved bs (o + 9) 7]

/-- The sum of the four GUARANTEE values, reported at the later entry concerned (R430). -/
def guaranteeCheck (bs : List Byte) (o : Nat) : Check :=
  range (o + 48) ((((List.range 4).map fun i => (readClass bs (o + 16 * i)).guarantee)).sum > 256)

/-- Checks of the Stroke entry (Table 2-9). -/
def strokeChecks (bs : List Byte) (o : Nat) : List Check :=
  let p := field bs o 2
  [range o (p != 0 && outside p 10 1000), range (o + 2) (field bs (o + 2) 1 > 1), reserved bs (o + 3) 1,
   range (o + 4) (field bs (o + 4) 4 ≥ 10000 * if p == 0 then 50 else p), range (o + 8) (field bs (o + 8) 4 > 65535),
   reserved bs (o + 12) 4]

/-- Checks of the Power caps entry. -/
def powerChecks (bs : List Byte) (o : Nat) : List Check :=
  [range o (outside (field bs o 2) 350 1800), range (o + 2) (outside (field bs (o + 2) 2) 350 (field bs o 2)),
   reserved bs (o + 10) 6]

/-- Checks of the Stationary-operand mode entry. -/
def modeChecks (bs : List Byte) (o : Nat) : List Check := (List.range 48).map fun n => range (o + n) (field bs (o + n) 1 > 1)

/-- Formats of Table 2-9 for activations and weights. -/
def actFormats : List Nat := [1, 2, 3, 4, 5, 0xC]
def weightFormats : List Nat := [1, 2, 3, 4, 5, 6, 7, 8, 0xC, 0xD]

def readQuant (bs : List Byte) (o : Nat) : Quant :=
  { act := field bs o 1, weight := field bs (o + 1) 1, legacy := field bs (o + 2) 1 == 1, window := field bs (o + 3) 1,
    margin := BitVec.ofNat 16 (field bs (o + 4) 2), outlierMax := field bs (o + 6) 1, tsLog2 := field bs (o + 7) 1,
    tsTol := BitVec.ofNat 16 (field bs (o + 8) 2), replay := field bs (o + 10) 1 == 1 }

/-- Checks of the Quantisation defaults: a BF16 pattern from 1.0 to 4.0 lies from 0x3F80 to 0x4080, and a positive
number from 0x0001 to 0x7F7F. -/
def quantChecks (bs : List Byte) (o : Nat) : List Check :=
  [range o (!actFormats.contains (field bs o 1)), range (o + 1) (!weightFormats.contains (field bs (o + 1) 1)),
   range (o + 2) (field bs (o + 2) 1 > 1), range (o + 3) (outside (field bs (o + 3) 1) 1 16),
   range (o + 4) (outside (field bs (o + 4) 2) 0x3F80 0x4080), range (o + 6) (field bs (o + 6) 1 > 64),
   range (o + 7) (outside (field bs (o + 7) 1) 6 16), range (o + 8) (outside (field bs (o + 8) 2) 1 0x7F7F),
   range (o + 10) (field bs (o + 10) 1 > 1), reserved bs (o + 11) 5]

/-- Collection entry (Table 2-10). -/
def readColl (bs : List Byte) (o : Nat) : CollEntry :=
  { id := field bs o 2, dims := field bs (o + 2) 2, metric := field bs (o + 4) 1, recordClass := field bs (o + 5) 1,
    passageTokens := field bs (o + 6) 2, listShare := field bs (o + 8) 4, embedIngot := field bs (o + 12) 4,
    schema := field bs (o + 16) 2, ingestShop := field bs (o + 18) 1, queryShop := field bs (o + 19) 1,
    label := BitVec.ofNat 64 (field bs (o + 20) 8) }

def collChecks (bs : List Byte) (o : Nat) : List Check :=
  let c := readColl bs o
  [range o (c.id > 4095), range (o + 2) (outside c.dims 32 4096 || c.dims % 32 != 0), range (o + 4) (c.metric > 6),
   range (o + 5) (c.recordClass > 1), range (o + 6) (outside c.passageTokens 64 8192),
   range (o + 8) (outside c.listShare 1 16777216), range (o + 16) (c.schema > 255), range (o + 18) (c.ingestShop > 7),
   range (o + 19) (c.queryShop > 7), reserved bs (o + 28) 20]

/-- Well-formed UTF-8. -/
def utf8Ok : List Byte → Nat → Bool
  | _, 0 => true
  | [], _ => true
  | b :: bs, fuel + 1 =>
    let v := b.toNat
    let n := if v < 0x80 then some 0 else if 0xC2 ≤ v && v ≤ 0xDF then some 1 else if 0xE0 ≤ v && v ≤ 0xEF then some 2
      else if 0xF0 ≤ v && v ≤ 0xF4 then some 3 else none
    match n with
    | none => false
    | some n =>
      let c0 := (bs.getD 0 0).toNat
      let first := if v == 0xE0 then c0 ≥ 0xA0 else if v == 0xED then c0 < 0xA0 else if v == 0xF0 then c0 ≥ 0x90
        else if v == 0xF4 then c0 < 0x90 else true
      bs.length ≥ n && first && (bs.take n).all (fun c => c.toNat / 64 == 2) && utf8Ok (bs.drop n) fuel

/-- Field descriptor of a schema (R54). -/
def readDesc (bs : List Byte) (o : Nat) : FieldDesc :=
  { kind := field bs o 1, maxLen := field bs (o + 1) 1, name := fieldBytes bs (o + 4) (field bs (o + 2) 1) }

def descChecks (bs : List Byte) (o : Nat) : List Check :=
  let n := field bs (o + 2) 1
  [range o (field bs o 1 > 2), range (o + 1) (field bs (o + 1) 1 == 0), range (o + 2) (outside n 1 32),
   reserved bs (o + 3) 1,
   range (o + 4) (!utf8Ok (fieldBytes bs (o + 4) n) 32 || !allZero (fieldBytes bs (o + 4 + n) (32 - n))),
   reserved bs (o + 36) 4]

/-- A release schema (R54). -/
def readSchema (bs : List Byte) (o : Nat) : Schema :=
  { id := field bs o 1, scores := bit (field bs (o + 2) 1) 0, passages := bit (field bs (o + 2) 1) 1,
    maxHit := field bs (o + 4) 2,
    fields := (List.range (field bs (o + 1) 1)).map fun i => readDesc bs (o + 8 + 40 * i) }

def schemaChecks (bs : List Byte) (o : Nat) : List Check :=
  [range (o + 1) (field bs (o + 1) 1 > 16), range (o + 2) (field bs (o + 2) 1 > 3), reserved bs (o + 3) 1,
   range (o + 4) (outside (field bs (o + 4) 2) 16 4096), reserved bs (o + 6) 2] ++
    (List.range (field bs (o + 1) 1)).flatMap fun i => descChecks bs (o + 8 + 40 * i)

/-- Checks of the Error policy entry. -/
def errorChecks (bs : List Byte) (o : Nat) : List Check :=
  [range (o + 2) (field bs (o + 2) 1 > 2), range (o + 3) (field bs (o + 3) 1 > 1),
   range (o + 4) (field bs (o + 4) 2 > 2047), reserved bs (o + 6) 10]

/-! ### Sections (R37, Table 2-4) -/

structure Section where
  type : Nat
  /-- offset of the section header -/
  off : Nat
  len : Nat
  index : Nat
  deriving DecidableEq, Repr

/-- Offsets of the entries of a fixed size. -/
def Section.offs (x : Section) (size : Nat) : List Nat := (List.range ((x.len - 8) / size)).map fun i => x.off + 8 + size * i

/-- Offsets of the schemas from a position, and where they end. -/
def schemaOffs (bs : List Byte) (stop : Nat) : Nat → Nat → List Nat × Nat
  | o, 0 => ([], o)
  | o, fuel + 1 =>
    if o + 8 > stop then ([], o)
    else
      let (l, e) := schemaOffs bs stop (o + 8 + 40 * field bs (o + 1) 1) fuel
      (o :: l, e)

def Section.schemas (x : Section) (bs : List Byte) : List Nat := (schemaOffs bs (x.off + x.len) (x.off + 8) x.len).1

/-- The body holds whole entries, within the Entries column. -/
def Section.bodyOk (x : Section) (bs : List Byte) : Bool :=
  let n := x.len - 8
  let entries (size lo hi : Nat) : Bool := n % size == 0 && lo ≤ n / size && n / size ≤ hi
  match x.type with
  | 1 => entries 16 0 4656 &&
      let ks := (x.offs 16).map fun o => field bs o 1
      (ks.filter (· == 0)).length ≤ 560 && (ks.filter (· == 1)).length ≤ 4096
  | 2 => entries 88 1 8
  | 3 => n == 80
  | 6 => n == 48
  | 8 => entries 48 0 4096
  | 9 =>
    let (l, e) := schemaOffs bs (x.off + x.len) (x.off + 8) x.len
    e == x.off + x.len && l.length ≤ 256
  | _ => n == 16

/-- The section whose header stands at an offset. -/
def readSection (bs : List Byte) (o i : Nat) : Section := { type := field bs o 2, off := o, len := field bs (o + 4) 4, index := i }

/-- Required types (Table 2-4). -/
def requiredTypes : List Nat := [1, 2, 3, 4, 5, 6]

/-- Checks of a section's header: order, length, STATIC_FIELD, a missing type before it. Where R430 and R33 place no
check, the model chooses (DESIGN CHOICE, log 53): a header that passes LENGTH is BAD_LENGTH before SECTION_ORDER, and the
reserved field comes between SECTION_ORDER and the length. -/
def sectionChecks (isRecast : Bool) (bs : List Byte) (total last : Nat) (x : Section) : List Check :=
  [(x.off, mrBadLength, x.off + 8 > total), (x.off, mrSectionOrder, x.type == 0 || x.type > 10 || x.type ≤ last),
   reserved bs (x.off + 2) 2,
   (x.off + 4, mrBadLength, x.len < 8 || x.len % 8 != 0 || x.off + x.len > total || !x.bodyOk bs),
   (x.off, mrStaticField, isRecast && x.type == 4),
   (x.off, mrSectionMissing, !isRecast && requiredTypes.any fun t => last < t && t < x.type)]

/-- Checks of each entry alone, in order. -/
def Section.entryChecks (x : Section) (isRecast split : Bool) (base : List WorldEntry) (bs : List Byte) : List Check :=
  let b := x.off + 8
  match x.type with
  | 1 => (x.offs 16).flatMap (worldChecks base ((x.offs 16).map (readWorld bs)) bs)
  | 2 => (x.offs 88).flatMap (shopChecks isRecast split bs)
  | 3 => (List.range 4).flatMap (fun i => classChecks bs (b + 16 * i) i) ++ envelopeChecks bs (b + 64)
  | 4 => strokeChecks bs b
  | 5 => powerChecks bs b
  | 6 => modeChecks bs b
  | 7 => quantChecks bs b
  | 8 => (x.offs 48).flatMap (collChecks bs)
  | 9 => (x.schemas bs).flatMap (schemaChecks bs)
  | _ => errorChecks bs b

/-- Two region entries name common granules, or two block entries one part. -/
def worldClash (a b : WorldEntry) : Bool :=
  a.block == b.block && a.space == b.space && a.unit == b.unit &&
    (a.block || (a.first < b.first + b.count && b.first < a.first + a.count))

/-- Two Shops share a part or a queue of one controller. -/
def shopClash (a b : Shop) : Bool :=
  a.meMap &&& b.meMap != 0 || a.stackMap &&& b.stackMap != 0 || a.benchMap &&& b.benchMap != 0 ||
    (a.ctrl == b.ctrl && a.firstQ < b.firstQ + b.qCount && b.firstQ < a.firstQ + a.qCount)

/-- The first entry that clashes with an earlier one. -/
def laterClash {α : Type} (clash : α → α → Bool) : List α → List (Nat × α) → Option Nat
  | _, [] => none
  | seen, x :: xs => if seen.any fun y => clash y x.2 then some x.1 else laterClash clash (seen ++ [x.2]) xs

/-- A DOUBLE_BINDING at an offset, if any. -/
def bindingCheck (o : Option Nat) : List Check :=
  match o with
  | some o => [(o, mrDoubleBinding, true)]
  | none => []

/-- Checks among the entries of a section: repeated keys, overlapping ranges, the GUARANTEE sum. -/
def Section.amongChecks (x : Section) (bs : List Byte) : List Check :=
  match x.type with
  | 1 => bindingCheck (laterClash worldClash [] ((x.offs 16).map fun o => (o, readWorld bs o)))
  | 2 =>
    let l := (x.offs 88).map fun o => (o, (readShop bs o, shopDelete bs o))
    bindingCheck (laterClash (fun a b => a.1.id == b.1.id || (!a.2 && !b.2 && shopClash a.1 b.1)) [] l)
  | 3 => [guaranteeCheck bs (x.off + 8)]
  | 8 => bindingCheck (laterClash (fun a b => a == b) [] ((x.offs 48).map fun o => (o, field bs o 2)))
  | 9 => bindingCheck (laterClash (fun a b => a == b) [] ((x.schemas bs).map fun o => (o, field bs o 1)))
  | _ => []

/-! ### The image -/

/-- An image that passed its first three phases. -/
structure MoldImage where
  isRecast : Bool
  force : Bool
  gen : Nat
  base : Nat
  sections : List Section
  deriving DecidableEq, Repr

/-- Header checks (phase 1): the command's length, its kind, and the generation in force of a Recast. -/
def headerChecks (isRecast : Bool) (cdw10 : Nat) (inForce : Nat) (bs : List Byte) : List Check :=
  let fl := field bs 6 2
  let len := field bs 8 4
  [(0, mrBadMagic, field bs 0 4 != 0x4C4F4D49), (4, mrBadVersion, field bs 4 2 != 1),
   range 6 (bit fl 0 != isRecast || (bit fl 1 && !isRecast) || fl > 3),
   range 8 (outside len 96 4194304 || len % 8 != 0), (8, mrBadLength, len != cdw10),
   range 12 (outside (field bs 12 2) 1 10), reserved bs 14 2, range 16 (isRecast && field bs 16 8 != 0),
   range 24 (!isRecast && field bs 24 8 != 0), (24, mrGeneration, isRecast && field bs 24 8 != inForce)]

/-- The digest over an image (R36). -/
def imageDigest (bs : List Byte) : List Byte := Config.shake256 (bs.take 32 ++ List.replicate 64 0 ++ bs.drop 96) 64

/-- The sections from an offset on, each checked before the next is read. -/
def readSections (isRecast split : Bool) (base : List WorldEntry) (bs : List Byte) (total : Nat) :
    Nat → Nat → Nat → Nat → Except MoldErr (List Section × Nat × Nat)
  | 0, o, _, last => .ok ([], o, last)
  | n + 1, o, i, last =>
    let x := readSection bs o i
    match firstFail i (sectionChecks isRecast bs total last x) with
    | some e => .error e
    | none =>
      match firstFail i (x.entryChecks isRecast split base bs ++ x.amongChecks bs) with
      | some e => .error e
      | none =>
        match readSections isRecast split base bs total n (o + x.len) (i + 1) x.type with
        | .error e => .error e
        | .ok (l, o', last') => .ok (x :: l, o', last')

/-- Phases 1 to 3 of R430; base is the World map in force, empty for a full Mold. -/
def readImage (isRecast split : Bool) (cdw10 inForce : Nat) (base : List WorldEntry) (bs : List Byte) : Except MoldErr MoldImage :=
  match firstFail 0xFF (headerChecks isRecast cdw10 inForce bs) with
  | some e => .error e
  | none =>
    if imageDigest bs != fieldBytes bs 32 64 then .error { off := 32, reason := mrBadDigest, sec := 0xFF }
    else
      let total := field bs 8 4
      let n := field bs 12 2
      match readSections isRecast split base bs total n 96 0 0 with
      | .error e => .error e
      | .ok (l, o, last) =>
        if o < total then .error { off := o, reason := mrBadLength, sec := 0xFF }
        else if !isRecast && last < 6 then .error { off := total, reason := mrSectionMissing, sec := n }
        else
          .ok { isRecast := isRecast, force := bit (field bs 6 2) 1, gen := field bs 16 8, base := field bs 24 8,
                sections := l }

/-! ### The result (R38, R57) -/

/-- A Mold before its sections: the reset values of Table 2-9 for what an image may omit. -/
def Mold.blank : Mold :=
  { world := [], shops := [], classes := [], env := { maxQueries := 1, maxLists := 1, maxK := 1, maxTokens := 1, bound := 2 },
    period := 0, strikeRef := false, phase := 0, holdover := 0, capW := 1800, c0FloorW := 350, engineFloor := 0,
    memoryFloor := 0, flashFloor := 0, modes := List.replicate 48 0,
    quant := { act := 3, weight := 3, legacy := false, window := 4, margin := 0x3F90, outlierMax := 64, tsLog2 := 10,
               tsTol := 0x3C00, replay := true },
    colls := [], schemas := [], ceBurnish := 64, tsAct := 0, faultScope := 0, eventVector := 0 }

/-- An entry replaces the one with its key, or joins. -/
def replaceBy {α : Type} (same : α → α → Bool) (l : List α) (x : α) : List α :=
  if l.any (same x) then l.map fun y => if same x y then x else y else l ++ [x]

/-- The key of a World map entry: the unit of a block, the granules of a region (R57). -/
def sameWorld (a b : WorldEntry) : Bool :=
  a.block == b.block && a.space == b.space && a.unit == b.unit && a.first == b.first && a.count == b.count

/-- One section merged into a Mold. -/
def Mold.merge (bs : List Byte) (m : Mold) (x : Section) : Mold :=
  let b := x.off + 8
  match x.type with
  | 1 => { m with world := ((x.offs 16).map (readWorld bs)).foldl (replaceBy sameWorld) m.world }
  | 2 =>
    let one (l : List Shop) (o : Nat) : List Shop :=
      if shopDelete bs o then l.filter fun h => h.id != field bs o 1
      else replaceBy (fun a c => a.id == c.id) l (readShop bs o)
    { m with shops := (x.offs 88).foldl one m.shops }
  | 3 => { m with classes := (List.range 4).map fun i => readClass bs (b + 16 * i), env := readEnvelope bs (b + 64) }
  | 4 =>
    { m with period := field bs b 2, strikeRef := field bs (b + 2) 1 == 1, phase := field bs (b + 4) 4,
             holdover := field bs (b + 8) 4 }
  | 5 =>
    { m with capW := field bs b 2, c0FloorW := field bs (b + 2) 2, engineFloor := field bs (b + 4) 2,
             memoryFloor := field bs (b + 6) 2, flashFloor := field bs (b + 8) 2 }
  | 6 => { m with modes := (List.range 48).map fun n => field bs (b + n) 1 }
  | 7 => { m with quant := readQuant bs b }
  | 8 => { m with colls := ((x.offs 48).map (readColl bs)).foldl (replaceBy fun a c => a.id == c.id) m.colls }
  | 9 => { m with schemas := ((x.schemas bs).map (readSchema bs)).foldl (replaceBy fun a c => a.id == c.id) m.schemas }
  | _ =>
    { m with ceBurnish := field bs b 2, tsAct := field bs (b + 2) 1, faultScope := field bs (b + 3) 1,
             eventVector := field bs (b + 4) 2 }

/-- The merged result of an image. -/
def MoldImage.result (i : MoldImage) (bs : List Byte) (base : Mold) : Mold := i.sections.foldl (Mold.merge bs) base

/-- The section of a type. -/
def MoldImage.sec (i : MoldImage) (t : Nat) : Option Section := i.sections.find? fun x => x.type == t

/-- Entries of a type with their offsets. -/
def MoldImage.worlds (i : MoldImage) (bs : List Byte) : List (Nat × WorldEntry) :=
  match i.sec 1 with
  | some x => (x.offs 16).map fun o => (o, readWorld bs o)
  | none => []

/-- Shop entries with their offsets and DELETE. -/
def MoldImage.shopEntries (i : MoldImage) (bs : List Byte) : List (Nat × Shop × Bool) :=
  match i.sec 2 with
  | some x => (x.offs 88).map fun o => (o, readShop bs o, shopDelete bs o)
  | none => []

def MoldImage.collEntries (i : MoldImage) (bs : List Byte) : List (Nat × CollEntry) :=
  match i.sec 8 with
  | some x => (x.offs 48).map fun o => (o, readColl bs o)
  | none => []

end Sys2Proof.Machine
end

