-- ==== Sys2Proof/Machine/RetireOps.lean ====
section
/-! DEFINITION. Media records, the retirement of blocks, and the power-fail flush: the flush log written to the SLC region,
found at the next MOLD_LOAD, and erased (R177, R178, R277, R286, R290, R292). -/

namespace Sys2Proof.Machine

/-- A NAND supply of the Bench's channel die is below its threshold (R291). -/
def State.nandLow (s : State) (b : BenchId) : Bool :=
  s.power.rails.contains (.nandVcc (dieOfBench b)) || s.power.rails.contains (.nandVccq (dieOfBench b))

/-- NAND commands are issued: the Bench runs, its channel has trained and its supplies are good (R291). -/
def State.nandPowered (s : State) (b : BenchId) : Bool :=
  s.benches[b].state != .off && s.benches[b].state != .failed && s.flash[b].trained && !s.nandLow b

/-- A Bench works on its media: in Raw and Melted it runs Assay, training and raw reads only (R245). -/
def State.nandOk (s : State) (b : BenchId) : Bool := s.nandPowered b && 1 ≤ s.lc && s.lc ≤ 3

/-! ### Records (R292) -/

/-- FM_RAW_ADDR form of a page. -/
def physWord (p : PhysPage) (slc : Bool) : Nat :=
  p.blk.die.val + 8 * p.blk.plane.val + 32 * p.blk.block + 2 ^ 17 * p.row + 2 ^ 28 * b2n slc

/-- A media record, with the interrupt that MEDIA_IRQ_EN asks for. -/
def State.mediaRecord (s : State) (b : BenchId) (sev : Severity) (kind cause phys : Nat) (x : Option PageIdent) (lost : Nat) :
    State :=
  let s := match x with
    | some x => s.reportMedia b sev kind cause phys x.content x.index x.kind lost
    | none => s.reportMedia b sev kind cause phys 0 0 0 lost
  if s.flash[b].mediaIrq then s.signal else s

/-- CAPACITY: user blocks below 95 % of start of life, once. -/
def State.capacityCheck (s : State) (b : BenchId) : State :=
  if 100 * s.flash[b].userBlocks < 95 * 76448 && !s.flash[b].capacityTold then
    (s.modFlash b fun f => { f with capacityTold := true }).mediaRecord b .degraded 0x14 0 0 none 0
  else s

/-! ### Lost pages and retirement (R273, R275, R286) -/

/-- An envelope byte is lost for good: the first one counts. -/
def State.markLost (s : State) (id off : Nat) : State :=
  s.modObj id fun o =>
    if off < o.envelope.length then
      { o with lost := some (match o.lost with
        | some y => min y off
        | none => off) }
    else o

/-- A page whose content is gone: for object ciphertext its object has lost bytes from that page on. -/
def State.losePage (s : State) (x : PageIdent) : State :=
  if x.kind == 0 then s.markLost x.content (16384 * x.index) else s

/-- A stripe that loses a block: the entry names it no more, and takes no more rows. -/
def Flash.unstripe (f : Flash) (epoch : Nat) (i : BlockId) : Flash :=
  match f.stripes.find? fun t => t.blocks.contains i with
  | none => f
  | some t =>
    let t := { t with blocks := t.blocks.filter fun x => x != i }
    (f.closeStripe epoch t).setStripe { t with next := 1536 }

/-- Valid pages move to the place their form goes to: SLC pages to their role, QLC pages to a stripe. The pages for which
there is no room are lost. -/
def Flash.relocate (urgent : Bool) (epoch : Nat) (slc : Bool) (role : Nat) : List PageIdent → Flash → Flash × List PageIdent
  | [], f => (f, [])
  | x :: xs, f =>
    let r := if slc then f.putSlc role epoch x.copy else f.putQlc urgent epoch [x.copy]
    match r with
    | some f => Flash.relocate urgent epoch slc role xs f
    | none =>
      let (f, l) := Flash.relocate urgent epoch slc role xs f
      (f, x :: l)

/-- The valid pages of a block, but for some that are lost, move away, together where that is possible; the maps name nothing in
the block any more. -/
def Flash.vacate (f : Flash) (urgent : Bool) (epoch : Nat) (i : BlockId) (lost : List PageIdent) : Flash × List PageIdent :=
  let k := f.blk i
  let keep := sortBy PageIdent.before ((f.validIn i).filter fun x => !lost.contains x)
  let f := f.release fun x => x.page.blk == i
  let one :=
    let (f, l) := Flash.relocate urgent epoch k.slc k.role keep f
    (f, lost ++ l)
  if k.slc then one
  else
    match f.putQlc urgent epoch (keep.map PageIdent.copy) with
    | some f => (f, lost)
    | none => one

/-- The map that names a page, with its class: the object map for an object's page, the directory for a list's (R270, R280). -/
def PageIdent.mapOf (x : PageIdent) : Option (Nat × Nat) :=
  if x.kind == 0 then some (objectMapGranule x.content, 5)
  else if x.kind == 1 then some (directoryGranule x.content, 4)
  else none

/-- Pages of a Bench have moved: its stripe table, of class 1, is dirty where a stripe came or went, and so are the maps of the
pages that moved (R174, R270). -/
def State.moveTo (s : State) (b : BenchId) (g : Flash) : State :=
  let f := s.flash[b]
  let maps := ((f.idents.filter fun x => !g.idents.contains x).filterMap PageIdent.mapOf).eraseDups
  let s := s.modFlash b fun _ => g
  let s := if f.stripes.map Stripe.blocks == g.stripes.map Stripe.blocks then s
    else (s.dirtyThrough (quarterOfBench b) (stripeGranule b) 1).1
  maps.foldl (fun s m => (s.dirtyThrough (quarterOfBench b) m.1 m.2).1) s

/-- A block is retired (R286): readable valid pages first move away, the block's own place in its role given up; capacity
shrinks by one user block. The record names the page at fault where its identity is known, and what of it was lost the reader
has marked (R274, R292). -/
def State.retireBlock (s : State) (b : BenchId) (i : BlockId) (cause row : Nat) (x : Option PageIdent) (lost : List PageIdent) :
    State :=
  if (s.flash[b].blk i).state == .retired then s
  else
    s.withSmart fun s =>
      let slc := (s.flash[b].blk i).slc
      let f := (s.flash[b].unstripe s.search.epoch i).modBlk i fun k => { k with state := .retired }
      let (f, gone) := f.vacate true s.search.epoch i lost
      let f := { f with
        userBlocks := f.userBlocks - 1, retired := satAdd 16 f.retired 1, pagesLost := satAdd 16 f.pagesLost gone.length
        ops := f.ops.filter fun o => o.block != i }
      let s := (if cause == 2 then gone.filter fun y => !lost.contains y else gone).foldl State.losePage (s.moveTo b f)
      (s.mediaRecord b .degraded 0x11 cause (physWord { blk := i, row := row } slc) x gone.length).capacityCheck b

/-! ### The flush log (R177, R290) -/

/-- The granule of Bench SRAM page tails. -/
def DirtyGranule.isTail (d : DirtyGranule) : Bool := 2 ^ 40 ≤ d.granule && d.granule < 2 ^ 41

/-- Dirty granules of a Quarter in the order of step 4 of Table 7-3: page tails first, then by class. -/
def State.flushOrder (s : State) (q : QuarterId) : List DirtyGranule :=
  let mine := s.mem.dirty.filter fun d => d.quarter == q
  (mine.filter DirtyGranule.isTail) ++
    (List.range 6).flatMap fun c => mine.filter fun d => !d.isTail && d.cls == c

/-- Position of the n-th page that a Bench programs to its log: page by page in the order of the slots that take pages
(R290). -/
def Flash.logIndex (f : Flash) (n : Nat) : Nat :=
  let live := (List.range 32).filter fun σ => !f.dieDead (σ % 8)
  n / live.length * 32 + live.getD (n % live.length) 0

/-- One page of the flush log: DETAIL names the segment and the page number (Table 11-3). -/
def Flash.logPage (f : Flash) (epoch segment page : Nat) : Option Flash :=
  let n := (f.idents.filter fun x => x.kind == 5).length
  f.putSlc roleFlush epoch
    { kind := 5, stream := 0, content := 0, index := f.logIndex n, origin := none, detail := (segment, page) }

def State.flushPage (s : State) (b : BenchId) (segment page : Nat) : Option State :=
  (s.flash[b].logPage s.search.epoch segment page).map fun f => s.modFlash b fun _ => f

/-- Pages of a segment, spread evenly over Benches: page p goes to the Bench at place p mod their number. -/
def State.logPages (s : State) (segment : Nat) (bs : List BenchId) : List Nat → Option State
  | [] => some s
  | p :: ps =>
    match bs[p % bs.length]? with
    | none => none
    | some b =>
      match s.flushPage b segment p with
      | none => none
      | some s => s.logPages segment bs ps

/-- Benches of a Quarter that can program their log. -/
def State.logBenches (s : State) (q : QuarterId) : List BenchId :=
  (List.finRange 512).filter fun b => b.val / 128 == q.val && s.nandOk b

/-- Steps 4 and 5 of Table 7-3 for one Quarter: four pages for each granule of 64 KiB, then the segment record (log 141). -/
def State.logQuarter (s : State) (q : QuarterId) : Option (FlushSegment × State) :=
  let bs := s.logBenches q
  let n := 4 * (s.flushOrder q).length
  let extents := bs.zipIdx.map fun p => (p.1, ((List.range n).filter fun i => i % bs.length == p.2).length)
  match s.logPages q.val bs (List.range n), bs[n % bs.length]? with
  | some t, some b => (t.flushPage b q.val n).map fun t => ({ quarter := q, home := b, extents := extents }, t)
  | _, _ => none

/-- Every Quarter's segment; the pages go as far as there is room. -/
def State.logAll (s : State) : Option (List FlushSegment × State) :=
  (List.finRange 4).foldl (fun acc q =>
    match acc with
    | none => none
    | some (l, t) => (t.logQuarter q).map fun r => (l ++ [r.1], r.2)) (some ([], s))

/-- Segment number of the module commit record. -/
def commitSegment : Nat := 4

/-- Step 6: the commit record twice, on the first Benches of two different Quarters that can take it. -/
def State.logCommit (s : State) : Option (List BenchId × State) :=
  match (List.finRange 4).filterMap fun q => (s.logBenches q).head? with
  | a :: b :: _ =>
    match s.flushPage a commitSegment 0 with
    | none => none
    | some t => (t.flushPage b commitSegment 0).map fun t => ([a, b], t)
  | _ => none

/-- Tails in the dirty granules of Bench SRAM. -/
def State.tailsDirty (s : State) : List (BenchId × Tail) :=
  (List.finRange 512).flatMap fun b =>
    (s.benches[b].tails.filter fun t => s.mem.dirty.any fun d => d.granule == tailGranule b t.slot).map fun t => (b, t)

/-- The power-fail flush: the dirty granules go to the flush log, with segment and commit records. A log found at power-up and
not yet checked stays as it is; before internal boot has ended nothing is dirty. `committed`: no NAND supply failed before
the commit record (R291). -/
def State.flush (s : State) (committed : Bool) : State :=
  if s.mem.flushLog.isSome || s.power.phase != .running then s
  else
    let (segs, commits, t) : List FlushSegment × List BenchId × State := match s.logAll with
      | none => ([], [], s)
      | some (l, t) =>
        match if committed then t.logCommit else none with
        | some (c, u) => (l, c, u)
        | none => (l, [], t)
    { t with mem := { t.mem with
        flushLog := some { granules := s.mem.dirty, tails := s.tailsDirty, epoch := s.search.epoch, segments := segs
                           commits := commits } } }

/-! ### The check at the first MOLD_LOAD (R178, R277) -/

/-- A commit record stands on flash: on one of its two Benches at least. -/
def State.logCommitted (s : State) (f : FlushLog) : Bool :=
  f.commits.any fun b => s.flash[b].idents.any fun x => x.kind == 5 && x.detail.1 == commitSegment

/-- What stood only in a discarded log is gone (R178): lists and descriptors are as their home copies hold them, an object whose
home read state is PENDING or READING is read again from chunk 0, and the others have their home read state. -/
def State.dropUnflushed (s : State) (f : FlushLog) : State :=
  let s := s.goBack f.granules f.tails
  let back (o : Obj) : Obj :=
    let o := { o with appended := s.heldOf o.id }
    if o.home == .pending || o.home == .reading then { o with state := .pending, reason := 0, stop := 0, handed := [] }
    else { o with state := o.home, reason := o.homeReason }
  let hit (o : Obj) : Bool := f.granules.any fun d => d.granule == objectMapGranule o.id || d.cls == 1
  { s with search := { s.search with objs := s.search.objs.map fun o => if o.home != o.state || hit o then back o else o } }

/-- A replayed log: the dirty granules, and the tails among them in their Benches, from where they go home. -/
def State.replayLog (s : State) (f : FlushLog) : State :=
  let put (i : Fin 512) : Bench := { s.benches[i] with tails := (f.tails.filter fun t => t.1 == i).map Prod.snd }
  { s with
    benches := Vector.ofFn put
    mem := { s.mem with flushLog := none, dirty := f.granules, lastFlush := 1 } }

/-- The flush-log blocks of a Bench are erased, but for those whose erase fails. -/
def Flash.eraseLog (f : Flash) (bad : List BlockId) : Flash :=
  let due := (f.blocks.filter fun k => k.role == roleFlush && k.state != .retired && !bad.contains k.id).map Block.id
  due.foldl Flash.erased (f.release fun x => x.kind == 5)

/-- A flush-log block that fails its erase is retired, and an erased QLC block of its die-plane is converted to SLC mode in its
place (R277). -/
def State.replaceLogBlock (s : State) (x : BenchId × BlockId) : State :=
  if (s.flash[x.1].blk x.2).role != roleFlush then s
  else
    (s.retireBlock x.1 x.2 1 0 none []).modFlash x.1 fun f =>
      match f.leastErased x.2.die x.2.plane false with
      | some k => f.setBlk { k with slc := true }
      | none => f

/-- The flush log is erased before any admission (R277). -/
def State.eraseLog (s : State) (bad : List (BenchId × BlockId)) : State :=
  let one (i : Fin 512) : Flash :=
    s.flash[i].eraseLog ((bad.filter fun x => x.1 == i).map Prod.snd)
  bad.foldl State.replaceLogBlock { s with flash := Vector.ofFn one }

/-- The check for a flush log at the first MOLD_LOAD after power returns: replayed as dirty granules, or discarded, and
erased. -/
def State.checkFlushLog (s : State) (bad : List (BenchId × BlockId)) : State :=
  if s.mold.flushChecked then s
  else
    let s := { s with mold := { s.mold with flushChecked := true } }
    match s.mem.flushLog with
    | none => s
    | some f =>
      let s :=
        if s.logCommitted f then s.replayLog f
        else
          (({ s with mem := { s.mem with flushLog := none, lastFlush := 2 } }).dropUnflushed f).reportGeneral
            .mgmt .degraded 0x50 0 0 0 none 0
      s.eraseLog bad

end Sys2Proof.Machine
end

