-- ==== Sys2Proof/Machine/MoldOps.lean ====
section
/-! DEFINITION. Loading a Mold and Recast: the result phase of R430, the Mold taking force, drain and apply
(chapter 2). -/

namespace Sys2Proof.Machine

/-! ### Worlds and owners -/

/-- The world of a block: Sterling where no entry names it (R39). -/
def Mold.blockSterling (m : Mold) (sp unit : Nat) : Bool :=
  match m.world.find? fun w => w.block && w.space == sp && w.unit == unit with
  | some w => w.sterling
  | none => true

def Mold.engineSterling (m : Mold) (e : EngineId) : Bool := m.blockSterling 0 e.val
def Mold.benchSterling (m : Mold) (b : BenchId) : Bool := m.blockSterling 1 b.val

/-- The Shop that holds a part. -/
def Mold.engineOwner (m : Mold) (e : EngineId) : Option Nat := (m.shops.find? fun h => h.holdsEngine e).map fun h => h.id
def Mold.benchOwner (m : Mold) (b : BenchId) : Option Nat := (m.shops.find? fun h => h.holdsBench b).map fun h => h.id

def Shop.holdsStack (h : Shop) (k : Nat) : Bool := h.stackMap.getLsbD k

/-- Regions of stacked memory as (stack, first, count). -/
def stackedRegions (l : List WorldEntry) : List (Nat × Nat × Nat) :=
  (l.filter fun w => !w.block && w.space == 4).map fun w => (w.unit, w.first, w.count)

def overlaps (a b : Nat × Nat × Nat) : Bool :=
  a.1 == b.1 && a.2.1 < b.2.1 + b.2.2 && b.2.1 < a.2.1 + a.2.2

/-- The granules of a fixed range lie in stacked memory, uncovered and free. -/
def rangeOk (taken : List (Nat × Nat × Nat)) (r : Nat × Nat × Nat) : Bool :=
  r.1 < 24 && r.2.2 > 0 && r.2.1 + r.2.2 ≤ 36864 && !(taken.any (overlaps r))

/-- No two ranges share a granule. -/
def disjointRanges : List (Nat × Nat × Nat) → Bool
  | [] => true
  | r :: rs => !(rs.any (overlaps r)) && disjointRanges rs

/-- Ranges lie on the stacks of a mask only, with a part on each of them. -/
def stripedOver (mask : Nat) (l : List (Nat × Nat × Nat)) : Bool :=
  l.all (fun r => bit mask r.1) && (List.range 24).all fun k => !bit mask k || l.any fun r => r.1 == k

/-- Granules of 2 MiB that the Directory's range takes at least: 512 MiB of entries and the 64 MiB of the mark pool (Table
9-11); its other parts have no stated size. -/
def directoryGranules : Nat := 288

/-- Granules that the answer-buffer pool takes at least: one answer of 16 MiB, the largest that a command may ask for (Table
8-6); its size is not stated. -/
def poolGranules : Nat := 8

/-- Granules of a Collection's centroids and edge lists: 2 × DIMS + 128 bytes for each list of its share (Table 9-11). -/
def CollEntry.rangeGranules (c : CollEntry) : Nat := cdiv (c.listShare * (2 * c.dims + 128)) 2097152

/-- One fixed range of a number and a least size in granules: its entries, none where it does not fit (R437). Those of the
Collections, from number 2 on, are striped over the stacks of the mask. -/
def fixedRange (n mask least : Nat) (sterling : Bool) (taken : List (Nat × Nat × Nat)) : Option (List WorldEntry) :=
  match Config.placeRange n mask least taken with
  | some l =>
    if l.all (rangeOk taken) && disjointRanges l && least ≤ (l.map fun r => r.2.2).sum && (n < 2 || stripedOver mask l) then
      some (l.map fun r => { block := false, sterling := sterling, space := 4, unit := r.1, first := r.2.1, count := r.2.2 })
    else none
  | none => none

/-- Stacks a Collection's range is striped over: those its QUERY_SHOP names, or all, but for those that Assay has excluded from
allocation (Table 13-5). Where every stack of its QUERY_SHOP is excluded, which the spec leaves open, they are all the others
(DESIGN CHOICE, log 60). -/
def Mold.rangeStacks (m : Mold) (out : BitVec 24) (c : CollEntry) : Nat :=
  let named : BitVec 24 := match m.shop c.queryShop with
    | some h => if h.stackMap == 0 then BitVec.allOnes 24 else h.stackMap.setWidth 24
    | none => BitVec.allOnes 24
  ((if named &&& ~~~out == 0 then BitVec.allOnes 24 else named) &&& ~~~out).toNat

/-- The granules of excluded stacks, which no fixed range takes. -/
def excludedRegions (out : BitVec 24) : List (Nat × Nat × Nat) :=
  ((List.range 24).filter fun k => out.getLsbD k).map fun k => (k, 0, 36864)

/-- The ranges of Collections, placed one after another clear of granules in use; none with the first that does not fit. -/
def Mold.placeColls (m : Mold) (out : BitVec 24) (used : List (Nat × Nat × Nat)) :
    List CollEntry → List WorldEntry → Except Nat (List WorldEntry)
  | [], got => .ok got
  | c :: cs, got =>
    match fixedRange (2 + c.id) (m.rangeStacks out c) c.rangeGranules true (stackedRegions (m.world ++ got) ++ excludedRegions out ++ used) with
    | some r => Mold.placeColls m out used cs (got ++ r)
    | none => .error c.id

/-- All fixed ranges of a Mold. -/
def Mold.placeAll (m : Mold) (out : BitVec 24) : Option (List WorldEntry) :=
  match fixedRange 0 (2 ^ 24 - 1) directoryGranules true (stackedRegions m.world ++ excludedRegions out) with
  | none => none
  | some d =>
    match fixedRange 1 (2 ^ 24 - 1) poolGranules false (stackedRegions (m.world ++ d) ++ excludedRegions out) with
    | none => none
    | some p =>
      match m.placeColls out [] m.colls (d ++ p) with
      | .ok l => some l
      | .error _ => none

/-! ### What a Recast drains (R431) -/

def drainedEngines (base m : Mold) (ws : List WorldEntry) : List EngineId :=
  (List.finRange 48).filter fun e =>
    base.engineOwner e != m.engineOwner e || ws.any fun w => w.block && w.space == 0 && w.unit == e.val

def drainedBenches (base m : Mold) (ws : List WorldEntry) : List BenchId :=
  (List.finRange 512).filter fun b =>
    base.benchOwner b != m.benchOwner b || ws.any fun w => w.block && w.space == 1 && w.unit == b.val

/-- A region of a memory unit is drained. -/
def regionDrained (base m : Mold) (es : List EngineId) (bs : List BenchId) (w : WorldEntry) : Bool :=
  match w.space with
  | 0 | 1 => es.any fun e => e.val == w.unit
  | 2 => (List.finRange 48).all fun e =>
      e.val / 12 != w.unit || ((base.engineOwner e).isNone && (m.engineOwner e).isNone) || es.contains e
  | 3 => bs.any fun b => b.val == w.unit
  | _ => (base.shops ++ m.shops).all fun h =>
      !h.holdsStack w.unit || (h.engines.all es.contains && h.benches.all bs.contains)

/-- Intervals (first, end) without the part inside another. -/
def cutInterval (xs : List (Nat × Nat)) (c : Nat × Nat) : List (Nat × Nat) :=
  xs.flatMap fun x => [(x.1, min x.2 c.1), (max x.1 c.2, x.2)].filter fun p => p.1 < p.2

/-- A region entry changes the world of some granule it covers: each is Plate under a Plate entry or range in force, else
Sterling (R39, R437). -/
def regionChanges (base : Mold) (fixed : List WorldEntry) (w : WorldEntry) : Bool :=
  let plate := (base.world ++ fixed).filter fun v => !v.block && !v.sterling && v.space == w.space && v.unit == w.unit
  !w.block &&
    if w.sterling then plate.any (worldClash w)
    else !((plate.map fun v => (v.first, v.first + v.count)).foldl cutInterval [(w.first, w.first + w.count)]).isEmpty

/-- A block entry changes the world of its part. -/
def blockChanges (base : Mold) (w : WorldEntry) : Bool := w.block && base.blockSterling w.space w.unit != w.sterling

/-! ### The result phase (R430 phase 4) -/

/-- The lowest offset among entries; the first section where none is in the image. -/
def lowest : List (Nat × Nat) → Nat × Nat
  | [] => (96, 0)
  | [p] => p
  | p :: ps => let q := lowest ps
    if p.1 ≤ q.1 then p else q

def resultFail (reason : Nat) (ats : List (Nat × Nat)) : Option MoldErr :=
  if ats.isEmpty then none
  else some { off := (lowest ats).1, reason := reason, sec := (lowest ats).2 }

/-- The first of several. -/
def firstSome {α : Type} : List (Option α) → Option α
  | [] => none
  | some a :: _ => some a
  | none :: l => firstSome l

/-- Offsets of entries with the index of their section. -/
def MoldImage.at_ (i : MoldImage) (t : Nat) (offs : List Nat) : List (Nat × Nat) :=
  match i.sec t with
  | some x => offs.map fun o => (o, x.index)
  | none => []

/-- Image entries a failing condition involves; the image's first section where it involves none of them. -/
def involved (bad : Bool) (ats : List (Nat × Nat)) : List (Nat × Nat) :=
  if !bad then [] else if ats.isEmpty then [(96, 0)] else ats

def sum3 (m : Mold) : Nat := m.engineFloor + m.memoryFloor + m.flashFloor

/-- FIELD_RANGE of the result. -/
def fieldResult (i : MoldImage) (bs : List Byte) (base m : Mold) : Option MoldErr :=
  let c0 := (m.shops.filter fun h => h.c0).map fun h => h.id
  let shops := i.shopEntries bs
  let offs (p : Shop → Bool → Bool) : List (Nat × Nat) :=
    i.at_ 2 ((shops.filter fun e => p e.2.1 e.2.2).map fun e => e.1)
  let colls := (i.collEntries bs).filter fun c => !(m.schemas.any fun x => x.id == c.2.schema)
  firstSome
    [resultFail mrFieldRange (involved (c0.length > 1) (offs fun h d => !d && c0.contains h.id)),
     resultFail mrFieldRange (i.at_ 8 (colls.map fun c => c.1)),
     resultFail mrFieldRange (offs fun h d => d && !(base.shops.any fun x => x.id == h.id))]

/-- STATIC_FIELD of regions and modes in a Recast (Table 2-11). Phase 4 of R430 does not name it; where it stands among the
other checks of the phase is the model's choice (DESIGN CHOICE, log 56). -/
def staticResult (i : MoldImage) (bs : List Byte) (base m : Mold) (fixed : List WorldEntry) : Option MoldErr :=
  if !i.isRecast then none
  else
    let ws := i.worlds bs
    let es := drainedEngines base m (ws.map fun w => w.2)
    let ds := drainedBenches base m (ws.map fun w => w.2)
    let bad := ws.filter fun w => regionChanges base fixed w.2 && !regionDrained base m es ds w.2
    let modes : List Nat := match i.sec 6 with
      | some x => ((List.finRange 48).filter fun e =>
          base.modes.getD e.val 0 != m.modes.getD e.val 0 && !es.contains e).map fun e => x.off + 8 + e.val
      | none => []
    firstSome [resultFail mrStaticField (i.at_ 1 (bad.map fun w => w.1)), resultFail mrStaticField (i.at_ 6 modes)]

/-- Elements of a list that clash with another. -/
def clashing {α : Type} [BEq α] (clash : α → α → Bool) (l : List α) : List α :=
  l.filter fun a => l.any fun b => a != b && clash a b

/-- DOUBLE_BINDING of the result. -/
def bindingResult (i : MoldImage) (bs : List Byte) (m : Mold) : Option MoldErr :=
  let ws := clashing worldClash m.world
  let hs := (clashing (fun a b => a.id != b.id && shopClash a b) m.shops).map fun h => h.id
  let wo := i.at_ 1 (((i.worlds bs).filter fun w => ws.any (sameWorld w.2)).map fun w => w.1)
  let ho := i.at_ 2 (((i.shopEntries bs).filter fun e => !e.2.2 && hs.contains e.2.1.id).map fun e => e.1)
  resultFail mrDoubleBinding (involved (!ws.isEmpty || !hs.isEmpty) (wo ++ ho))

/-- WORLD_FIXED of the result: lists on Plate Benches (R42), the fixed ranges of the Mold in force and the granules that
hold a KV page (R40, R437). -/
def worldResult (s : State) (i : MoldImage) (bs : List Byte) : Option MoldErr :=
  let holds (b : Nat) : Bool := s.search.lists.any fun l => l.bench.val == b
  let off (w : WorldEntry) : Bool :=
    if w.block then w.space == 1 && !w.sterling && holds w.unit
    else w.space == 4 && ((if i.isRecast then s.mold.fixedRanges else []).any fun f =>
        f.sterling != w.sterling && overlaps (f.unit, f.first, f.count) (w.unit, w.first, w.count)) ||
      (w.space == 4 && !w.sterling && s.kvRanges.any (overlaps (w.unit, w.first, w.count)))
  resultFail mrWorldFixed (i.at_ 1 (((i.worlds bs).filter fun w => off w.2).map fun w => w.1))

/-- The fixed ranges of the result, or the failure of R437. -/
def rangeResult (s : State) (i : MoldImage) (bs : List Byte) (base m : Mold) : Except MoldErr (List WorldEntry) :=
  if i.isRecast then
    let new := m.colls.filter fun c => !(base.colls.any fun b => b.id == c.id)
    match m.placeColls s.mem.excluded s.kvRanges new s.mold.fixedRanges with
    | .ok l => .ok l
    | .error c =>
      let p := lowest (i.at_ 8 (((i.collEntries bs).filter fun e => e.2.id == c).map fun e => e.1))
      .error { off := p.1, reason := mrWorldFixed, sec := p.2 }
  else
    match m.placeAll s.mem.excluded with
    | some l => .ok l
    | none =>
      match i.sec 1 with
      | some x => .error { off := x.off, reason := mrWorldFixed, sec := x.index }
      | none => .error { off := 96, reason := mrWorldFixed, sec := 0 }

def regionLimitResult (i : MoldImage) (bs : List Byte) (m : Mold) : Option MoldErr :=
  resultFail mrRegionLimit
    (involved ((m.world.filter fun w => !w.block).length > 4096)
      (i.at_ 1 (((i.worlds bs).filter fun w => !w.2.block).map fun w => w.1)))

/-- ENVELOPE (R47, R49); R327 counts only Engines that are not FAILED. -/
def envelopeResult (s : State) (i : MoldImage) (bs : List Byte) (m : Mold) : Option MoldErr :=
  let entry (t o : Nat) : List (Nat × Nat) := match i.sec t with
    | some x => [(x.off + 8 + o, x.index)]
    | none => []
  let env := entry 3 64
  let shop (id : Nat) : List (Nat × Nat) :=
    i.at_ 2 (((i.shopEntries bs).filter fun e => e.2.1.id == id && !e.2.2).map fun e => e.1)
  let c0 : List (Option MoldErr) := match m.c0Shop with
    | none => []
    | some h =>
      let live := (h.engines.filter fun e => s.engines[e].state != .failed).length
      [resultFail mrEnvelope (involved (live * 1024 < m.env.maxQueries) (shop h.id ++ env)),
       resultFail mrEnvelope (involved (m.env.bound * m.periodUs < h.nonpre + 404) (shop h.id ++ env ++ entry 4 0))]
  firstSome ([resultFail mrEnvelope (involved (m.env.maxQueries * m.env.maxLists > 4194304) env)] ++ c0 ++
    [resultFail mrEnvelope (involved (sum3 m > m.c0FloorW) (entry 5 0))])

/-- Attributes fixed on media differ (R52). -/
def collDiffers (d : Coll) (c : CollEntry) : Bool :=
  d.dims != c.dims || d.metric != c.metric || d.recordClass != c.recordClass || d.listShare != c.listShare ||
    d.label != c.label

/-- COLLECTION_MISMATCH and DIRECTORY_FULL, over all Collections on media and declared. -/
def collResult (s : State) (i : MoldImage) (bs : List Byte) (m : Mold) : Option MoldErr :=
  let es := i.collEntries bs
  let bad := es.filter fun c => match s.coll c.2.id with
    | some d => collDiffers d c.2
    | none => false
  let new := m.colls.filter fun c => (s.coll c.id).isNone
  let total := (s.search.colls.map Coll.listShare).sum + (new.map CollEntry.listShare).sum
  firstSome
    [resultFail mrCollectionMismatch (i.at_ 8 (bad.map fun c => c.1)),
     resultFail mrDirectoryFull (involved (total > 16777216) (i.at_ 8 (es.map fun c => c.1)))]

/-- A queue of a Shop that no Shop names any longer (R59; a queue that moves is R60's). -/
def queueRemoved (base m : Mold) (h : Shop) (q : Nat) : Bool :=
  h.firstQ ≤ q && q < h.firstQ + h.qCount && base.shops.any (fun x => x.id == h.id) &&
    !(m.shops.any fun x => x.ctrl == h.ctrl && x.firstQ ≤ q && q < x.firstQ + x.qCount)

/-- The Shops a Recast deletes or takes queues from. -/
def shrunkShops (base m : Mold) : List Shop :=
  base.shops.filter fun h =>
    !(m.shops.any fun x => x.id == h.id) ||
      (List.range h.qCount).any fun n => queueRemoved base m h (h.firstQ + n)

/-- A Shop holds jobs or outstanding commands. -/
def State.shopHolds (s : State) (h : Shop) : Bool :=
  s.sched.jobs.any (fun j => j.shop == h.id) ||
    s.ctrls.toList.any fun f => f.inflight.any fun e =>
      e.key.ctrl.val == h.ctrl && h.firstQ ≤ e.key.sqid && e.key.sqid < h.firstQ + h.qCount

/-- SHOP_BUSY (R59). -/
def busyResult (s : State) (i : MoldImage) (bs : List Byte) (base m : Mold) : Option MoldErr :=
  if !i.isRecast || i.force then none
  else
    let ids := ((shrunkShops base m).filter s.shopHolds).map fun h => h.id
    resultFail mrShopBusy
      (involved (!ids.isEmpty) (i.at_ 2 (((i.shopEntries bs).filter fun e => ids.contains e.2.1.id).map fun e => e.1)))

/-- Phase 4: the fixed ranges, or the first failure. STATIC_FIELD, which the list of the phase does not name, comes after
FIELD_RANGE and before DOUBLE_BINDING (DESIGN CHOICE, log 56). -/
def resultPhase (s : State) (i : MoldImage) (bs : List Byte) (base m : Mold) : Except MoldErr (List WorldEntry) :=
  match firstSome [fieldResult i bs base m, staticResult i bs base m s.mold.fixedRanges, bindingResult i bs m, worldResult s i bs] with
  | some e => .error e
  | none =>
    match rangeResult s i bs base m with
    | .error e => .error e
    | .ok l =>
      match firstSome [regionLimitResult i bs m, envelopeResult s i bs m, collResult s i bs m, busyResult s i bs base m] with
      | some e => .error e
      | none => .ok l

/-! ### MOLD_LOAD (R32 to R34) -/

def State.modMold (s : State) (f : MoldBlock → MoldBlock) : State := { s with mold := f s.mold }

/-- The image of a command as the module holds it. -/
def moldImage (e : Sqe) (image : List Byte) : List Byte := padTo e.cdw10.toNat image

/-- CDW10 to CDW15 of MOLD_LOAD and RECAST. -/
def moldFieldsOk (e : Sqe) : Bool :=
  let n := e.cdw10.toNat
  n != 0 && n ≤ 4194304 && n % 8 == 0 && e.cdw11 == 0 && e.cdw12 == 0 && e.cdw13 == 0 && e.cdw14 == 0 && e.cdw15 == 0

def State.loadRefused (s : State) (k : Key) (sc : Nat) : State :=
  (s.modMold fun m => { m with loadFails := satAdd 16 m.loadFails 1 }).refuse k sc

/-- MOLD_LOAD: refused, or an image under validation. -/
def doMoldLoad (e : Sqe) (image : MoldUpload) (s : State) : State :=
  if !moldFieldsOk e then s.loadRefused e.key scInvalidField
  else if s.mold.state == .loading then
    (s.modMold fun m => { m with cfgBusy := true }).loadRefused e.key scCfgBusy
  else if s.mold.state != .blank then s.loadRefused e.key scMoldPresent
  else if s.lc == 0 then s.loadRefused e.key scLifecycleDenied
  else if s.lc == 4 || s.pewter.optBad || s.errors.hubFailed then s.loadRefused e.key scMediaUnavailable
  else s.modMold fun m => { m with state := .loading, loading := some (e, image) }

def execMoldLoad (e : Sqe) (image : MoldUpload) (s : State) : Out := .next (doMoldLoad e image s)

/-- What MOLD_STATUS, MOLD_ERROR and MOLD_COUNT keep of a refusal with MOLD_INVALID (R33). -/
def State.noteMoldError (s : State) (isRecast : Bool) (x : MoldErr) : State :=
  s.modMold fun m =>
    { m with
      loadFail := true, errOffset := x.off, errReason := x.reason, errSection := x.sec, errRecast := isRecast
      loadFails := if isRecast then m.loadFails else satAdd 16 m.loadFails 1
      recastFails := if isRecast then satAdd 16 m.recastFails 1 else m.recastFails }

/-- A refusal with MOLD_INVALID (R33). -/
def State.moldInvalid (s : State) (k : Key) (isRecast : Bool) (x : MoldErr) : State :=
  (s.noteMoldError isRecast x).status k scMoldInvalid x.off (x.reason + 256 * x.sec) []

/-- The grid begins to acquire once a Mold is in force and the reference is present (Table 3-1). With STRIKE_IN the next
rising edge becomes the origin (R66). -/
def State.gridStart (s : State) : State :=
  if s.grid.lock == .idle && s.theMold.isSome && s.grid.refPresent then
    let now := s.clockUs
    { s with grid := { s.grid with lock := .acquiring, good := 0, acqUs := now, origin := none } }
  else s

/-- Parts take the Shop, world and mode of the Mold in force; with `now` (a boundary, or no grid) bound Engines power up. -/
def State.bindParts (s : State) (now : Bool) : State :=
  match s.theMold with
  | none => s
  | some m =>
    let eng (e : EngineId) (x : Engine) : Engine :=
      let o := m.engineOwner e
      let x := { x with shop := o, sterling := m.engineSterling e, broadcast := m.modes.getD e.val 0 == 1 }
      if o.isNone && x.state == .idle then { x with state := .off }
      else if o.isSome && x.state == .off && now && s.power.state < 3 then { x with state := .idle }
      else x
    let ben (b : BenchId) (x : Bench) : Bench := { x with shop := m.benchOwner b, sterling := m.benchSterling b }
    { s with
      engines := Vector.ofFn fun i => eng i s.engines[i]
      benches := Vector.ofFn fun i => ben i s.benches[i] }

/-- Descriptors of Collections declared for the first time (R51); each reserves the LIST_SHARE entries after those reserved
before, as no Collection is ever deleted (R52, R212, log 148). Which Quarter counts a descriptor's granule the spec does not say;
Quarter 0 does (DESIGN CHOICE, log 17). -/
def State.createColls (s : State) (m : Mold) : State :=
  let new := m.colls.filter fun c => (s.coll c.id).isNone
  let shares (cs : List Coll) : Nat := (cs.map Coll.listShare).sum
  let mk (cs : List Coll) (c : CollEntry) : Coll :=
    { id := c.id, dims := c.dims, metric := c.metric, recordClass := c.recordClass, listShare := c.listShare,
      firstList := shares cs,
      label := c.label, kcv := none, state := .uncalibrated, cal := { offsets := [], scales := [] }, entryList := none,
      notIndexed := 0, markStalls := 0, mediaPartial := 0, unavailable := false }
  let s := { s with search := { s.search with colls := new.foldl (fun cs c => cs ++ [mk cs c]) s.search.colls } }
  new.foldl (fun s c => (s.dirtyThrough 0 (descriptorGranule c.id) 5).1) s

/-- A Mold takes force: Collections whose EMBED_INGOT is not READY are not read under it (R199). -/
def State.noteEmbed (s : State) (m : Mold) : State :=
  let off (c : CollEntry) : Bool := match s.ingot c.embedIngot with
    | some g => g.state != .ready
    | none => true
  { s with search := { s.search with embedOff := (m.colls.filter off).map CollEntry.id } }

/-- The largest epoch recorded on media (R228). -/
def State.mediaEpoch (s : State) : Nat :=
  let recs := s.search.lists.flatMap fun l => l.records.map Rec.epoch ++ [l.lastEpoch] ++ l.retire.toList ++
    l.log.filterMap fun e => match e.kind with
      | .delete q => some q
      | .movedIn _ | .movedOut _ => none
  let objs := s.search.objs.flatMap fun o => o.storeEpoch :: o.deleted.toList
  let toks := s.search.tokens.flatMap fun t => t.epoch.toList
  let ids := s.flash.toList.flatMap fun f => f.idents.map PageIdent.epoch
  let log := match s.mem.flushLog with
    | some f => [f.epoch]
    | none => []
  (recs ++ objs ++ toks ++ ids ++ log).foldl max 0

/-- Every list receives the single mark (0, COUNT) (R231). -/
def State.mountMarks (s : State) : State :=
  let one (l : Lst) : Lst := { l with marks := [(0, l.records.length)], countAt := l.records.length }
  { s with search := { s.search with lists := s.search.lists.map one, marksUsed := s.search.lists.length } }

/-- Thermometer words are programmed until ROLLBACK equals the running image's version (R364). -/
def State.raiseRollback (s : State) : State :=
  if s.fw.version ≤ s.pewter.rollback then s
  else
    let n := s.fw.version - s.pewter.rollback
    let first := 4096 + s.pewter.rollback
    let s := (List.range n).foldl (fun s i => s.programVault (first + i) 0) s
    s.reportSecurity .informational 0x37 0 0 s.pewter.rollback

/-- Collections whose lost metadata a MOLD_LOAD finds readable are named again (Table 11-8). -/
def State.mountMetadata (s : State) (readable : List Nat) : State :=
  let one (c : Coll) : Coll := if readable.contains c.id then { c with unavailable := false } else c
  { s with search := { s.search with colls := s.search.colls.map one } }

/-- The reference of a Mold that takes force (R50, R68): PTM goes on as it was; whether STRIKE_IN and REF10M_IN toggle at that
moment no row reports, and it is free (log 123). -/
def State.takeReference (s : State) (m : Mold) : State :=
  if m.strikeRef then
    let (w, s) := s.fresh
    { s with grid := { s.grid with refPresent := w.getLsbD 0 } }
  else s

/-- A full Mold takes force. -/
def State.takeForce (s : State) (m : Mold) (i : MoldImage) (bs : List Byte) (ranges : List WorldEntry) (media : MountFindings) :
    State :=
  let s := s.takeReference m
  let s := s.modMold fun b =>
    { b with
      state := .molded, loading := none, mold := some m, gen := BitVec.ofNat 64 i.gen, digest := fieldBytes bs 32 64
      fixedRanges := ranges, c0Suspended := false }
  let e := s.mediaEpoch + 1
  let s := (s.checkFlushLog media.eraseFails).mountMetadata media.readable
  let s := { s with
    search := { s.search with epoch := e }
    sched := { s.sched with acctEngine := Vector.replicate 32 0, acctBench := Vector.replicate 32 0 } }
  let s := (((s.createColls m).noteEmbed m).mountMarks).bindParts false
  let s := ((s.checkKcvs).sendKeyRequests).raiseRollback
  (s.capFall.gridStart).evalC0 false

/-- Validation and mount end (R33, R34). -/
def doMoldLoadValidated (s : State) : State :=
  match s.mold.loading with
  | none => s
  | some (e, image) =>
    let bs := moldImage e image.bytes
    let blank (s : State) : State := s.modMold fun m => { m with state := .blank, loading := none }
    match readImage false s.power.split e.cdw10.toNat 0 [] bs with
    | .error x => (blank s).moldInvalid e.key false x
    | .ok i =>
      let m := i.result bs Mold.blank
      match resultPhase s i bs Mold.blank m with
      | .error x => (blank s).moldInvalid e.key false x
      | .ok ranges => (s.takeForce m i bs ranges image.findings).success e.key 0 0 []

def execMoldLoadValidated (s : State) : Out := .next (doMoldLoadValidated s)

/-! ### Drains (R26, R61, R117) -/

/-- What a job left on an Engine between two of its units is saved with its contexts. -/
def Engine.saveResident (x : Engine) : Engine :=
  match x.resident with
  | some k =>
    { x with saved := x.saved ++ [{ key := k, unit := 2 ^ 32, part := Part.whole, sterling := x.sterling, ctx := x.ctx, pins := [] }]
             ctx := EngineCtx.fresh
             resident := none }
  | none => x

def State.quenchingJob (s : State) (k : Key) : Bool := s.sched.jobs.any fun j => j.key == k && j.quenching

/-- A job holds a semaphore, to whose release point a drain waits (Table 2-12 step 3). -/
def State.holdsSem (s : State) (k : Key) : Bool := s.sched.sems.any fun x => x.holder == some k

/-- A switch of contexts is counted (R89). -/
def State.countSwitch (s : State) : State :=
  { s with sched := { s.sched with preemptions := satAdd 32 s.sched.preemptions 1 } }

/-- A drained Engine at a pre-emption point begins its save (Table 2-12 steps 3 and 4, Table 4-11); a job that a Quench stops
is torn down and not saved (R26). -/
def State.startDrain (s : State) (e : EngineId) : State :=
  let x := s.engines[e]
  match x.job with
  | none => s
  | some (k, _) =>
    if x.state != .running || x.ctx.npOpen.isSome || s.holdsSem k then s
    else if s.quenchingJob k then s.modEngine e (Engine.dropJob k)
    else
      let s := s.chargeRun e
      let now := s.clockUs
      (s.modEngine e fun x => { x with state := .saving, switchUs := now, wanted := none }).countSwitch

/-- A drained Engine has no active context left: it is not running, saving or restoring. -/
def State.engineDrained (s : State) (e : EngineId) : Bool := s.engines[e].job.isNone

/-- The operator of a drained Bench holds no semaphore. -/
def State.benchDrained (s : State) (b : BenchId) : Bool :=
  match s.benches[b].job with
  | some k => !s.holdsSem k
  | none => true

/-- What an idle drained Engine still holds of a job is saved, that of a job a Quench stops is not (R26). -/
def State.drainEngine (s : State) (e : EngineId) : State :=
  match s.engines[e].resident with
  | some k =>
    if s.quenchingJob k then s.modEngine e (Engine.dropJob k) else s.modEngine e Engine.saveResident
  | none => s

/-- The save or the load of a Bench context is charged: Table 3-4 gives 135 µs at most, and the time is free (log 164). -/
def State.chargeSwitch (s : State) (k : Key) (b : BenchId) : State :=
  let (w, s) := s.fresh
  s.charge k (benchRes b) (w.toNat % 136)

/-- The unit that a job has on a Bench. -/
def Job.unitOn (j : Job) (b : BenchId) : Nat :=
  match j.placed.find? fun p => p.bench == some b with
  | some p => p.unit
  | none => b.val

/-- A Bench's operator state is saved, its credit returned, its unit waits for a place again, and its job is suspended once no
unit of it runs (R77, R89, Table 8-10). That of a job a Quench stops is not saved (R26). -/
def State.drainBench (s : State) (b : BenchId) : State :=
  match s.benches[b].job with
  | some k =>
    let s := (s.chargeBench b).returnCredits fun c => c.key == k && c.res == benchRes b
    if s.quenchingJob k then s.modBench b (Bench.dropJob k)
    else
      let ran := s.benches[b].ran
      let s := (s.chargeSwitch k b).countSwitch
      let s := s.modBench b fun x => { x with job := none, state := if x.state == .failed then .failed else .idle }
      let runs := s.engines.toList.any (fun x => (x.job.map fun p => p.1) == some k) ||
        s.benches.toList.any fun x => x.job == some k
      s.modJob k fun j =>
        { j with
          placed := j.placed.filter fun p => p.bench != some b, benchSaved := j.benchSaved ++ [(b, j.unitOn b, ran)]
          state := if j.state == .running && !runs then .suspended else j.state }
  | none => s

/-- A drained Bench: its operator's state is saved, or its sweep's, which goes on after the apply boundary (R61, R89). -/
def State.drainWork (s : State) (b : BenchId) : State :=
  if s.benches[b].job.isSome then s.drainBench b
  else if s.search.sweeps.any fun w => w.bench == b then s.countSwitch
  else s

/-- A Recast drains an Engine: no new work starts there until its apply boundary (Table 2-12 step 2). -/
def State.drains (s : State) (e : EngineId) : Bool :=
  match s.mold.recast with
  | some r => (s.mold.state == .recastDraining || s.mold.state == .recastApplyWait) && r.engines.contains e
  | none => false

def State.drainsBench (s : State) (b : BenchId) : Bool :=
  match s.mold.recast with
  | some r => (s.mold.state == .recastDraining || s.mold.state == .recastApplyWait) && r.benches.contains b
  | none => false

/-! ### Pre-emption (R87 to R89) -/

/-- The job that runs on an Engine holds a semaphore that the pre-empting job needs: it runs to its release point (R88). -/
def State.semBlocked (s : State) (victim : Option Key) (by_ : Option Key) : Bool :=
  match victim, by_.bind s.job with
  | some k, some j => s.sched.sems.any fun x => x.holder == some k && x.shop == j.shop && j.semMask.getLsbD x.num
  | _, _ => false

/-- An Engine that runs a unit outside a non-preemptible command begins to save its context (R87, R89, R117). Otherwise the
pre-emption waits for the end of the load, of the command, or for the release of the semaphore. -/
def State.preempt (s : State) (e : EngineId) (by_ : Option Key) : State :=
  let x := s.engines[e]
  if x.state != .running then
    if x.state == .restoring then s.modEngine e fun x => { x with wanted := by_ } else s
  else if x.ctx.npOpen.isNone && !s.semBlocked (x.job.map fun p => p.1) by_ then
    let s := s.chargeRun e
    let now := s.clockUs
    (s.modEngine e fun x => { x with state := .saving, switchUs := now, wanted := none }).countSwitch
  else s.modEngine e fun x => { x with wanted := by_ }

/-- A drain or a pre-emption that waited takes place once nothing stands against it (R61, R87, R88). -/
def State.retryPreempt (s : State) (e : EngineId) : State :=
  if s.drains e then s.startDrain e
  else
    match s.engines[e].wanted with
    | some k => s.preempt e (some k)
    | none => s

/-! ### RECAST (R57 to R63) -/

def State.recastRefused (s : State) (k : Key) (sc : Nat) : State :=
  (s.modMold fun m => { m with recastFails := satAdd 16 m.recastFails 1 }).refuse k sc

/-- RECAST: refused, or an image under validation. -/
def doRecast (e : Sqe) (image : List Byte) (s : State) : State :=
  if s.theMold.isNone then s.recastRefused e.key scMoldAbsent
  else if !moldFieldsOk e then s.recastRefused e.key scInvalidField
  else if s.mold.state != .molded then s.recastRefused e.key scRecastPending
  else
    let r : RecastCtx :=
      { sqe := e, image := image, merged := none, digest := [], receivedUs := s.clockUs, boundaries := 0,
        drained := false, engines := [], benches := [], discard := false, ranges := [] }
    s.modMold fun m => { m with state := .recastValidating, recast := some r }

def execRecast (e : Sqe) (image : List Byte) (s : State) : Out := .next (doRecast e image s)

/-- A Recast suspends the C0 bound (R62). -/
def suspendsC0 (base m : Mold) (es : List EngineId) (bs : List BenchId) (kd : Nat → Bool) : Bool :=
  let part (h : Shop) : Bool := h.engines.any es.contains || h.benches.any bs.contains ||
    (List.range 24).any fun k => h.holdsStack k && kd k
  base.env != m.env || base.c0FloorW != m.c0FloorW ||
    (match base.c0Shop with
     | some h => part h
     | none => false) ||
    match m.c0Shop with
    | some h => part h
    | none => false

/-- Commands not yet admitted on queues that the Recast removes complete with SHOP_UNBOUND (R59). -/
def State.unbindQueues (s : State) (base m : Mold) : State :=
  let gone (k : Key) : Bool := base.shops.any fun h => h.ctrl == k.ctrl.val && queueRemoved base m h k.sqid
  let unadmitted (k : Key) : Bool := match s.job k with
    | some j => j.state == .waiting
    | none => !(s.search.puts.any fun p => p.key == k) && !(s.search.deletes.any fun p => p.1 == k)
  let keys := (s.ctrls.toList.flatMap fun f => f.inflight.map fun e => e.key).filter fun k => gone k && unadmitted k
  keys.foldl (fun s k => (s.refuse k scShopUnbound).dropJob k) s

/-- FORCE: the jobs of the Shops concerned are quenched (R59). -/
def State.forceRecast (s : State) (base m : Mold) : State :=
  let ids := (shrunkShops base m).map fun h => h.id
  let hit (j : Job) : Bool := ids.contains j.shop && j.quenchable && j.state != .waiting
  let jobs := updWhere s.sched.jobs hit fun j => { j with quenching := true }
  let s := { s with sched := { s.sched with jobs := jobs } }
  s.unbindQueues base m

/-- Validation of a Recast ends: a refusal, or the drain begins (R61, R62). The error policy, of class V, is in force at
once (Table 2-11). -/
def doRecastValidated (s : State) : State :=
  match s.mold.recast, s.theMold with
  | some r, some base =>
    if s.mold.state != .recastValidating then s
    else
      let bs := moldImage r.sqe r.image
      let back (s : State) : State := s.modMold fun m => { m with state := .molded, recast := none }
      let fail (x : MoldErr) : State :=
        if r.discard then (back s).noteMoldError true x else (back s).moldInvalid r.sqe.key true x
      match readImage true s.power.split r.sqe.cdw10.toNat s.mold.gen.toNat base.world bs with
      | .error x => fail x
      | .ok i =>
        let m := i.result bs base
        match resultPhase s i bs base m with
        | .error x => fail x
        | .ok ranges =>
          let ws := (i.worlds bs).map fun w => w.2
          let es := drainedEngines base m ws
          let ds := drainedBenches base m ws
          let kd (k : Nat) : Bool :=
            (base.shops ++ m.shops).all fun h => !h.holdsStack k || (h.engines.all es.contains && h.benches.all ds.contains)
          let r := { r with
            merged := some m, digest := fieldBytes bs 32 64, engines := es, benches := ds, ranges := ranges }
          let live := { base with
            ceBurnish := m.ceBurnish, tsAct := m.tsAct, faultScope := m.faultScope, eventVector := m.eventVector }
          let s := s.modMold fun b =>
            { b with state := .recastDraining, recast := some r, mold := some live
                     c0Suspended := suspendsC0 base m es ds kd }
          let s := if i.force then s.forceRecast base m else s
          (es.foldl State.startDrain s).evalC0 false
  | _, _ => s

def execRecastValidated (s : State) : Out := .next (doRecastValidated s)

/-- Cache objects with a copy in granules that a test picks become ABSENT; what they promoted waits for a new staging (R173,
R431: of the Quarters whose Store or stacks hold a granule concerned). -/
def State.dropCopies (s : State) (q : QuarterId) (hit : Space → Nat → Bool) : State :=
  let lost (o : CacheObj) : Bool := o.hotAt.any (fun p => hit (.quarter q) p.2) || o.stagedAt.any fun p => hit .stacked p.2
  let late (o : CacheObj) : List CacheWait :=
    if lost o && o.promoting then o.pins.map fun p => { id := o.id, key := p.1, unit := p.2, counted := false } else []
  s.recache q fun c =>
    { c with objs := c.objs.filter fun o => !lost o, staging := c.staging.filter fun x => !x.granules.any (hit .stacked)
             refetching := c.refetching.filter fun r => !c.objs.any fun o => o.id == r.id && lost o
             waiting := c.waiting ++ c.objs.flatMap late }

/-- Bench SRAM whose world changes keeps no dirty tail (R173). -/
def State.dropTailDirt (s : State) (b : BenchId) : State :=
  let names := (List.range 16).map fun i => tailGranule b (4 * i)
  { s with mem := { s.mem with dirty := s.mem.dirty.filter fun d => !names.contains d.granule } }

/-- Memory that changes world is annealed (R56, R173): the granules concerned, both stores of an Engine concerned, the cache
objects whose copies lie there. -/
def State.annealMove (s : State) (base : Mold) (w : WorldEntry) : State :=
  let wipe (s : State) (sp : Space) (lo n g : Nat) : State :=
    s.setStore sp ((s.store sp).invalidate (spaceLine sp) fun l =>
      let a := l * spaceLine sp / g
      lo ≤ a && a < lo + n)
  let engine (s : State) : State := if h : w.unit < 48 then
      s.modEngine ⟨w.unit, h⟩ fun x => { x with ctx := { x.ctx with operand := Store.empty, acc := Store.empty, tags := [] } }
    else s
  let sram (s : State) : State := if h : w.unit < 512 then
      ({ s with mem := { s.mem with sram := s.mem.sram.set w.unit Store.empty } }).dropTailDirt ⟨w.unit, h⟩ else s
  if blockChanges base w then if w.space == 0 then engine s else sram s
  else if regionChanges base s.mold.fixedRanges w then
    match w.space with
    | 0 | 1 => engine s
    | 2 => if h : w.unit < 4 then
        (wipe s (.quarter ⟨w.unit, h⟩) w.first w.count 65536).dropCopies ⟨w.unit, h⟩ fun sp g =>
          sp != Space.stacked && w.first ≤ g && g < w.first + w.count
      else s
    | 3 => sram s
    | _ =>
      let lo := 32 * (36864 * w.unit + w.first)
      (List.finRange 4).foldl (fun s q => s.dropCopies q fun sp g => sp == Space.stacked && lo ≤ g && g < lo + 32 * w.count)
        (wipe s .stacked (36864 * w.unit + w.first) w.count 2097152)
  else s

/-- Two Molds set the same weights (R76): GUARANTEE is no weight. -/
def sameWeights (a b : Mold) : Bool :=
  (a.classes.map fun c => (c.defaultW, c.minW, c.maxW)) == b.classes.map fun c => (c.defaultW, c.minW, c.maxW)

/-- An admitted job of a queue that moves goes on in the new Shop where the Recast drained a part of the old one that it
used, or deleted it (R60). -/
def State.moveJob (s : State) (r : RecastCtx) (m : Mold) (j : Job) : Job :=
  match j.kind, m.shopOfQueue j.key.ctrl j.key.sqid with
  | .operator _, some h =>
    let used (e : EngineId) : Bool := s.engines[e].saved.any (fun c => c.key == j.key) || j.placed.any fun p => p.engine == some e
    let bench (b : BenchId) : Bool := j.placed.any (fun p => p.bench == some b) || j.benchSaved.any fun p => p.1 == b
    if j.state != .waiting && h.id != j.shop && ((m.shop j.shop).isNone || r.engines.any used || r.benches.any bench) then
      { j with shop := h.id }
    else j
  | _, _ => j

/-- Units that wait on a drained part are placed anew (R60, R206). -/
def Job.dropPlaces (r : RecastCtx) (j : Job) : Job :=
  { j with
    placed := j.placed.filter fun p => !(p.engine.any r.engines.contains) && !(p.bench.any r.benches.contains)
    front := if !j.walked && j.front.any r.engines.contains then none else j.front }

/-- A Bench becomes Plate: the objects that it reads, and those of its token batches, are DEFERRED with PLATE_BENCH (R41, R251,
Table 10-5). -/
def State.stopReading (s : State) (b : BenchId) : State :=
  let x := s.benches[b]
  let ids := x.reading.toList ++ x.batches.flatMap fun p => p.entries.map fun e => e.1
  let hit (o : Obj) : Bool := ids.contains o.id && o.deleted.isNone
  let now := s.clockUs
  let s := s.modBench b fun x => { (x.leaveReading now) with batches := [] }
  { s with search := { s.search with
      objs := updWhere s.search.objs hit fun o => { o with state := .deferred, reason := reasonPlateBench } } }

/-- A drained Recast's bindings take effect and the command completes (R57, R58, R60, R65). A change of the weights starts
every job's factor at 1.0 again (R76). -/
def State.applyRecast (s : State) : State :=
  match s.mold.recast, s.theMold with
  | some r, some base =>
    match r.merged with
    | none => s
    | some m =>
      let s := s.unbindQueues base m
      let s := s.modMold fun b =>
        { b with
          state := .molded, recast := none, mold := some m, gen := b.gen + 1, digest := r.digest, c0Suspended := false
          fixedRanges := r.ranges, applyStrokes := min r.boundaries 65535 }
      let s := (((s.createColls m).noteEmbed m).bindParts true).checkKcvs
      let s0 := s
      let s := { s with sched := { s.sched with jobs := s.sched.jobs.map fun j => (s0.moveJob r m j).dropPlaces r } }
      let s := (r.benches.filter fun b => !m.benchSterling b).foldl State.stopReading s
      let one (j : Job) : Job :=
        let j := { j with f8 := 8 }
        if j.state == .waiting then j else { j with effWeight := effective m j }
      let s := if sameWeights base m then s
        else { s with sched := { s.sched with jobs := s.sched.jobs.map one } }
      let fresh := m.colls.any fun c => base.colls.all fun b => b.label != c.label
      let s := if fresh then s.sendKeyRequests else s
      let s := if s.gridRuns then s else s.capSettle
      if r.discard then s else s.success r.sqe.key 0 0 []
  | _, _ => s

/-- The drain ends: contexts saved, memory annealed; while no grid runs the shadows and the bindings apply at once (R61). -/
def doRecastDrainComplete (s : State) : State :=
  match s.mold.recast, s.theMold with
  | some r, some base =>
    if s.mold.state != .recastDraining || !r.engines.all s.engineDrained || !r.benches.all s.benchDrained then s
    else
      let s := r.engines.foldl State.drainEngine s
      let s := r.benches.foldl State.drainWork s
      let ws := (match r.merged with
        | some m => m.world
        | none => []).filter fun w => regionChanges base s.mold.fixedRanges w || blockChanges base w
      let s := ws.foldl (fun s w => s.annealMove base w) s
      let s := s.modMold fun m =>
        { m with state := .recastApplyWait, recast := some { r with drained := true }
                 drainUs := min (s.clockUs - r.receivedUs) 65535 }
      if s.gridRuns then s else s.applyShadows.applyRecast
  | _, _ => s

def execRecastDrainComplete (s : State) : Out := .next (doRecastDrainComplete s)

end Sys2Proof.Machine
end

