-- ==== Sys2Proof/Machine/StoreOps.lean ====
section
/-! DEFINITION. Accesses of an Engine to the memory spaces: worlds (R115), checked reads (R317, R319), writes with their
fill, poison and scratch (R172, R173, R318), and the vector operands. -/

namespace Sys2Proof.Machine

/-! ### Worlds (R39, R115) -/

/-- Bytes of a granule of the World map (Table 2-6). -/
def worldGranule : Space → Nat
  | .stacked => 2097152
  | _ => 65536

/-- Space code and unit of a place as World map entries name it: stacked memory by stack. -/
def worldPlace (a : TierAddr) : Nat × Nat × Nat :=
  match a.space with
  | .operand e => (0, e.val, a.off / 65536)
  | .acc e => (1, e.val, a.off / 65536)
  | .quarter q => (2, q.val, a.off / 65536)
  | .sram b => (3, b.val, a.off / 65536)
  | .stacked => (4, a.off / stackBytes, a.off % stackBytes / 2097152)

/-- The world of an address: that of the Bench in Bench SRAM (R242); else its region entry or fixed range; else Sterling
(R39, R437). -/
def State.sterlingAt (s : State) (a : TierAddr) : Bool :=
  match s.theMold with
  | none => true
  | some m =>
    let (sp, u, g) := worldPlace a
    let hit (w : WorldEntry) : Bool := !w.block && w.space == sp && w.unit == u && w.first ≤ g && g < w.first + w.count
    match a.space with
    | .sram b => m.benchSterling b
    | _ =>
      match (m.world ++ s.mold.fixedRanges).find? hit with
      | some w => w.sterling
      | none => true

/-- Granule starts of a range of n bytes. -/
def rangePoints (a : TierAddr) (n : Nat) : List TierAddr :=
  let g := worldGranule a.space
  (List.range (cdiv (a.off % g + n) g)).map fun i => { a with off := (a.off / g + i) * g }

/-- An access of n bytes by an Engine breaks R115: a Sterling granule on a Plate Engine, or a Plate granule as the
destination of a Sterling Engine. -/
def State.worldBreak (s : State) (e : EngineId) (a : TierAddr) (n : Nat) (dest : Bool) : Bool :=
  (rangePoints a n).any fun p => if s.engines[e].sterling then dest && !s.sterlingAt p else s.sterlingAt p

/-! ### Checked reads (R317, R319) -/

/-- Space code and unit of a space (R170). -/
def spaceCode : Space → Nat × Nat
  | .operand e => (0, e.val)
  | .acc e => (1, e.val)
  | .quarter q => (2, q.val)
  | .sram b => (3, b.val)
  | .stacked => (4, 0)

/-- The source that reports an error of a place (Table 17-4). -/
def sourceOf (a : TierAddr) : Source :=
  match a.space with
  | .operand e | .acc e => .engine e
  | .quarter q => .quarterStore q
  | .sram b => .bench b
  | .stacked => .stack (stackOfGranule (a.off / stackGranule))

/-- An uncorrectable word of scratch met by an Engine: the record, and the job's MEMORY_FAULT (Table 13-3). -/
def State.scratchUe (s : State) (e : EngineId) (k : Key) (requester : Nat) (a : TierAddr) : State :=
  let (sp, u) := spaceCode a.space
  (s.memoryReport (sourceOf a) .degraded 0x21 sp u requester 10 0xFF (tierWord a) (some k) 0).faultJob k scMemoryFault
    (.engine e)

/-! ### Writes (R172, R173, R318) -/

/-- A word that a write touches in part is poisoned: the merge finds an uncorrectable error (R318). -/
def State.mergeUe (s : State) (a : TierAddr) (n : Nat) : Option TierAddr :=
  s.mem.poisoned.find? fun p =>
    p.space == a.space && a.off < p.off + 8 && p.off < a.off + n && s.validAt p && !(a.off ≤ p.off && p.off + 8 ≤ a.off + n)

/-- An Engine writes bytes for its job: the bytes, the job's scratch (R173) and the granules of
the execution (R165). -/
def State.engineWrite (s : State) (e : EngineId) (k : Key) (a : TierAddr) (bs : List Byte) : State :=
  let gs := granulesOf a bs.length
  let s := s.writeAt a bs
  let s := s.modEngine e fun x =>
    { x with ctx := { x.ctx with written := gs.foldl (fun l g => insertNew l (a.space, g)) x.ctx.written } }
  match a.space with
  | .operand _ | .acc _ => s
  | sp => s.modJob k fun j => { j with scratch := gs.foldl (fun l g => insertNew l (sp, g)) j.scratch }

/-! ### Vector operands -/

/-- The tier address of a vector operand of an Engine. -/
def vecAddr (e : EngineId) (l : VecLoc) : TierAddr := { space := if l.acc then .acc e else .operand e, off := l.off }

/-- A run of n FP32 values lies in its store. -/
def vecInRange (l : VecLoc) (n : Nat) : Bool := l.off + 4 * n ≤ (if l.acc then 4194304 else 25165824)

/-- n FP32 values of a run. -/
def State.vecRead (s : State) (e : EngineId) (l : VecLoc) (n : Nat) : List F32 :=
  let bs := s.readAt (vecAddr e l) (4 * n)
  (List.range n).map fun i => BitVec.ofNat 32 (field bs (4 * i) 4)

/-- Scoreboard units a run uses: none in the operand store. -/
def vecUnits (l : VecLoc) (n : Nat) : List Nat := if l.acc then accUnits l.off (4 * n) else []

/-- A vector result: FP32 values written at a run, units of the operand store stamped with a tag (R141); the job faults where
a word is merged with a poisoned one (R318). -/
def State.vecWrite (s : State) (e : EngineId) (k : Key) (l : VecLoc) (bs : List Byte) (tag : Word16) : State :=
  let merge := s.mergeUe (vecAddr e l) bs.length
  let s := s.engineWrite e k (vecAddr e l) bs
  let s :=
    if l.acc then s
    else s.modEngine e fun x => { x with ctx := x.ctx.stamp (unitsOf l.off (l.off % unitBytes + bs.length)) tag }
  match merge with
  | some a => s.scratchUe e k 2 a
  | none => s

end Sys2Proof.Machine
end

