-- ==== Sys2Proof/Machine/ArrayOps.lean ====
section
/-! DEFINITION. Array instructions (chapter 4): the feeder, the issue rule, the arithmetic of the array and drain (R150,
R151), the outlier side path, and the last write. -/

namespace Sys2Proof.Machine

/-! ### Arithmetic (R135, R150, R151) -/

/-- A value rounded once to FP32, with 1 for an overflow to infinity (R109). -/
def roundAcc (v : FloatVal) : F32 × Nat :=
  let (w, o) := fmtFp32.encode v false
  (BitVec.ofNat 32 w, b2n o)

/-- FP32 addition in the array and drain, overflows counted. -/
def accAdd (a b : F32 × Nat) : F32 × Nat :=
  let (w, o) := roundAcc ((f32v a.1).add (f32v b.1))
  (w, a.2 + b.2 + o)

/-- Sum in ascending order; the first term is taken as it is. -/
def accFold : List (F32 × Nat) → F32 × Nat
  | [] => (0, 0)
  | x :: xs => xs.foldl accAdd x

/-- Groups of n consecutive elements. -/
def chunks {α : Type} (n : Nat) (l : List α) : List (List α) :=
  (List.range (cdiv l.length n)).map fun i => (l.drop (n * i)).take n

/-- The sum of the products of one output value, in the order of its class (R150). -/
def arraySum (broadcast : Bool) (c : RateClass) (ps : List FloatVal) : F32 × Nat :=
  match c with
  | .eight => accFold ((chunks 32 ps).map fun g => roundAcc (exactSum g))
  | .four => accFold ((chunks 64 ps).map fun g => roundAcc (exactSum g))
  | .sixteen =>
    if broadcast then accFold (ps.map roundAcc)
    else accFold ((chunks 32 ps).map fun g => treeSum accAdd (0, 0) 5 (g.map roundAcc))

/-- Exact integer sum of the products of one output value. -/
def intSum (l : List FloatVal) : Int :=
  match exactSum l with
  | .num s m e => signedMant s (m * 2 ^ e.toNat)
  | _ => 0

/-- The scale of element k along K of an MX stream with one code for each block. -/
def mxAt (f : Nat) (scales : List Word16) (block : Nat) : FloatVal × Bool :=
  if isMx f then mxScale (scales.getD block 0).toNat else (.one, false)

/-- Elements of a row of A as the array multiplies them, with the inputs read as 0 (R126); a masked row of Cells is not
fed (R105). -/
def ArrayOp.aVals (o : ArrayOp) (mask : BitVec 256) (r : StagedRow) : List (FloatVal × Bool) :=
  (List.range o.k).map fun k =>
    if o.masked mask k then (.zero, false)
    else
      let (v, bad) := arrayInput o.aFmt (codeAt o.aFmt r.codes k)
      let (x, nan) := mxAt o.aFmt r.scales (k / 32)
      (if nan then .zero else v.mul x, bad || nan)

/-- Column n of B: K elements. -/
def ArrayOp.bVals (o : ArrayOp) (mask : BitVec 256) (b : CellGrid) (scales : List Word16) (n : Nat) :
    List (FloatVal × Bool) :=
  (List.range o.k).map fun k =>
    if o.masked mask k then (.zero, false)
    else
      let (v, bad) := arrayInput o.bFmt ((b.getD k []).getD n 0 % 2 ^ fmtBits o.bFmt)
      let (x, nan) := mxAt o.bFmt (scales.drop (k / 32 * o.n)) n
      (if nan then .zero else v.mul x, bad || nan)

/-- The side path: BF16 products of the marked channels with the named weight rows, in a tree of six levels (R151). -/
def sideSum (outliers : List BF16) (side : List BF16) (n : Nat) : F32 × Nat :=
  treeSum accAdd (0, 0) 6
    (outliers.zipIdx.map fun p => roundAcc ((bf16v p.1).mul (bf16v (side.getD (p.2 * 128 + n) 0))))

/-- What an array instruction hands to the drain, and the events of its causes: FP32 overflows, bad inputs, bad scales. -/
structure ArrayOut where
  rows : List (List Word32)
  inf : Nat
  badInput : Nat
  badScale : Nat
  deriving DecidableEq, Repr

/-- Row and column scales as read: 1 for MX and 16-bit pairs (R135), 0 for an illegal one (R132). -/
def ArrayOp.scaleOf (o : ArrayOp) (f : Nat) (scales : List Word16) (i : Nat) : FloatVal × Bool :=
  if !o.scaledB || isMx f then (.one, false) else scaleRead (scales.getD i 0)

/-- One output value of an FP32 pair after steps 1 and 2 of R151. -/
def arrayValue (broadcast : Bool) (c : RateClass) (a b : List (FloatVal × Bool)) (sa sb : FloatVal)
    (side : Option (F32 × Nat)) : F32 × Nat :=
  let p := arraySum broadcast c (List.zipWith (fun x y => x.1.mul y.1) a b)
  let scaled := roundAcc ((f32v p.1).mul (sa.mul sb))
  let r := (scaled.1, p.2 + scaled.2)
  match side with
  | some x => accAdd r x
  | none => r

/-- The whole instruction on its staged rows and the weights it uses. -/
def ArrayOp.compute (o : ArrayOp) (broadcast : Bool) (c : RateClass) (sl : Slot) (b : CellGrid) : ArrayOut :=
  let cols := (List.range o.n).map fun n => (o.bVals sl.mask b sl.bScales n, o.scaleOf o.bFmt sl.bScales n)
  let rows := sl.rows.map fun r => (o.aVals sl.mask r, o.scaleOf o.aFmt r.scales 0, r.outliers)
  let out := rows.map fun r => cols.zipIdx.map fun q =>
    if o.accFmt == 9 then
      (BitVec.ofInt 32 (intSum (List.zipWith (fun x y => x.1.mul y.1) r.1 q.1.1)), 0)
    else
      arrayValue broadcast c r.1 q.1.1 r.2.1.1 q.1.2.1 (if o.outlier then some (sideSum r.2.2 sl.side q.2) else none)
  let bad (l : List (FloatVal × Bool)) : Nat := (l.filter fun p => p.2).length
  { rows := out.map fun r => r.map fun p => p.1
    inf := ((out.map fun r => (r.map fun p => p.2).sum)).sum
    badInput := (rows.map fun r => bad r.1).sum + (cols.map fun q => bad q.1).sum
    badScale := (rows.filter fun r => r.2.1.2).length + (cols.filter fun q => q.2.2).length }

/-! ### The feeder (R99) -/

/-- The fault a word of an array instruction meets before its operands count (R101, R104, R107, R111, R113, R133). -/
def arrayFault (broadcast : Bool) (o : ArrayOp) (mask : BitVec 256) : Option Nat :=
  match formatPair o.aFmt o.bFmt with
  | none => some (if (o.op == 2) != broadcast then erModeMismatch else erFormatPair)
  | some (acc, c) =>
    if (o.op == 2) != broadcast || (o.outlier && broadcast) then some erModeMismatch
    else if (o.qf && !(o.aFmt == 3 || o.aFmt == 4 || o.aFmt == 0xC)) || (o.outlier && !o.qf) then some erFormatPair
    else if 0xE ≤ o.accFmt then some erFormatPair
    else if o.accFmt != acc then some erAccFormat
    else if !shapeOk broadcast c o then some erShapeRange
    else if o.n > tileCols o.shape || o.tile + o.tiles > tilesInStore o.shape then some erAccRange
    else if !o.inRange then some erOperandRange
    else if (o.marked mask).length > 64 then some erOutlierRange
    else none

/-- The first poisoned word among an instruction's operand bytes. -/
def State.operandUe (s : State) (e : EngineId) (o : ArrayOp) : Option TierAddr :=
  let at_ (off n : Nat) : Option TierAddr := s.poisonIn { space := .operand e, off := off } n
  let a := ((List.range o.tiles).filterMap fun j => at_ (o.aBlock j) (o.blockRows j * o.aRow)).head?
  let sa := if o.scaledA then
    ((List.range o.tiles).filterMap fun j => at_ (o.aScaleBlock j) o.aScaleBytes).head? else none
  let b := if o.reuseB then none else at_ (o.bAddr * unitBytes) o.bBytes
  let sb := if o.scaledB then at_ (o.scaleAddr * unitBytes) o.bScaleBytes else none
  match a, sa, b, sb with
  | some x, _, _, _ => some x
  | _, some x, _, _ => some x
  | _, _, some x, _ => some x
  | _, _, _, some x => some x
  | _, _, _, _ => none

/-- A slot as the feeder fills it from the operand store: QF rows quantised (R133), tags checked (R143). -/
def stageSlot (c : EngineCtx) (w : BitVec 128) : Slot :=
  let o := arrayOp w
  let rows := (List.range o.m).map (o.stageRow c)
  { word := w
    rows := rows.map fun r => { codes := r.1, scales := r.2.1, outliers := r.2.2.1 }
    b := if o.reuseB then [] else o.bGrid (c.operand.readBytes (o.bAddr * unitBytes) o.bBytes)
    bScales := o.bScaleVals c, mask := c.mask, side := c.side, skew := skewOf c o
    tags := if o.scaledA then (List.range o.tiles).map fun j => c.tag (o.aScaleBlock j / unitBytes) else []
    recRows := if o.accFmt == 9 && o.scaledA then (List.range o.tiles).flatMap o.blockScales |>.map fun a =>
      BitVec.ofNat 16 (unle (c.operand.readBytes a 2)) else []
    saturated := (rows.map fun r => r.2.2.2).sum }

/-- The feeder fills its free slot (R99): nothing while both slots are staged, while an operand's granule is still being
written, or for a word that faults at issue. An uncorrectable word faults the job. -/
def doFeederFill (e : EngineId) (w : BitVec 128) (s : State) : State :=
  match s.executes e with
  | none => s
  | some k =>
    let x := s.engines[e]
    let o := arrayOp w
    if x.ctx.slots.length ≥ 2 || !(o.op == 1 || o.op == 2) || (arrayFault x.broadcast o x.ctx.mask).isSome ||
        meets o.granules (x.busyGranules e) then s
    else
      match s.operandUe e o with
      | some a => s.scratchUe e k 0 a
      | none => s.modEngine e fun x => { x with ctx := { x.ctx with slots := x.ctx.slots ++ [stageSlot x.ctx w] } }

def execFeederSlotFill (e : EngineId) (w : BitVec 128) (s : State) : Out := .next (doFeederFill e w s)

/-! ### Issue (R98 to R105, R136, R143) -/

/-- Scale-block tags of scoreboard unit i of an instruction: of its A block and of B. -/
def recordTags (o : ArrayOp) (sl : Slot) (i : Nat) : List Word16 :=
  [sl.tags.getD (i / (tileBytes o.shape / 16384)) 0, BitVec.ofNat 16 o.tag]

/-- The record of a scoreboard unit; a tile never written has scales 1.0 and tag 0 (R136). -/
def EngineCtx.record (c : EngineCtx) (u : Nat) : ScaleRec :=
  match c.scales.find? fun r => r.unit == u with
  | some r => r
  | none => { unit := u, rows := List.replicate 128 0x3F80, cols := List.replicate 32 0x3F80, tags := [0, 0] }

/-- Scale records that a cleared INT32 instruction writes: one for each unit of its tiles, with the unit's 128 row scales of the
A scale block (R136). Columns beyond N, for which the B scale block has no entry, take 1.0 (DESIGN CHOICE, log 169). -/
def EngineCtx.writeRecords (c : EngineCtx) (d : DrainEntry) : EngineCtx :=
  let o := arrayOp d.word
  if o.accFmt == 9 && o.clear then
    let per := tileBytes o.shape / 16384
    let us := tileUnits o.shape o.tile o.tiles
    let recs := us.zipIdx.map fun p =>
      { unit := p.1
        rows := (List.range 128).map fun r => d.rowScales.getD (p.2 / per * 128 + r) 0x3F80
        cols := (List.range 32).map fun n => d.colScales.getD (p.2 % per * 32 + n) 0x3F80
        tags := [d.tags.getD (p.2 / per) 0, BitVec.ofNat 16 o.tag] : ScaleRec }
    { c with scales := (c.scales.filter fun r => !us.contains r.unit) ++ recs }
  else c

/-- An INT32 accumulation whose scale-block tags differ from a record, as the instructions before it in the drain leave the
records: A blocks first, then B (R136, R143). -/
def recordSkew (e : Engine) (o : ArrayOp) (sl : Slot) : Option Skew :=
  if o.accFmt != 9 || o.clear then none
  else
    let c := e.drain.foldl EngineCtx.writeRecords e.ctx
    let us := (tileUnits o.shape o.tile o.tiles).zipIdx
    let one (operand : Nat) (p : Nat × Nat) : Option Skew :=
      let want := (c.record p.1).tags.getD operand 0
      let got := (recordTags o sl p.2).getD operand 0
      if want == got then none
      else some { operand := operand, block := if operand == 0 then p.2 / (tileBytes o.shape / 16384) else 0,
                  expected := want.toNat, found := got.toNat }
    (us.filterMap (one 0) ++ us.filterMap (one 1)).head?

/-- Of two skews the first in the order A blocks, then B; in one block that of the streams themselves (R143). -/
def firstSkew (a b : Option Skew) : Option Skew :=
  match a, b with
  | some x, some y => if y.operand < x.operand || (y.operand == x.operand && y.block < x.block) then some y else some x
  | none, y => y
  | x, none => x

/-- An issued array instruction: weights loaded and swapped (R102), the slot freed, the drain entry, the causes, the
work counters. -/
def Engine.issue (e : Engine) (c : RateClass) (sl : Slot) : Engine :=
  let o := arrayOp sl.word
  let swap := !e.broadcast && !o.reuseB
  let b := if e.broadcast then sl.b else if swap then loadCells e.ctx.shadow sl.b else e.ctx.active
  let r := o.compute e.broadcast c sl b
  let marked := (o.marked sl.mask).length
  let x := e.ctx
  let x := { x with
    slots := x.slots.drop 1
    active := if swap then b else x.active
    shadow := if swap then x.active else x.shadow }
  let x := (((x.flagBy causeConvSat sl.saturated x.pc).flagBy causeBadInput r.badInput x.pc).flagBy causeBadScale
    r.badScale x.pc).flagBy causeAccInf r.inf x.pc
  let d : DrainEntry :=
    { word := sl.word, rows := r.rows, rowScales := sl.recRows, colScales := sl.bScales, tags := sl.tags, at_ := x.pc }
  { e with ctx := { x with pc := x.pc + 1 }, drain := e.drain ++ [d] }.count fun e =>
    { e with
      busy := (e.busy + streamCycles e.broadcast c o + b2n swap) % 2 ^ 64
      macs := (e.macs + o.m * (o.k - marked) * o.n) % 2 ^ 72
      sideMacs := (e.sideMacs + (if o.outlier then o.m * marked * o.n else 0)) % 2 ^ 72
      swaps := (e.swaps + b2n swap) % 2 ^ 64 }

/-- What a job keeps on an Engine. -/
def Engine.localOf (e : Engine) (k : Key) : JobLocal :=
  match e.locals.find? fun l => l.key == k with
  | some l => l
  | none => { key := k, rng := [], samples := 0 }

def Engine.modLocal (e : Engine) (k : Key) (f : JobLocal → JobLocal) : Engine :=
  { e with locals := updWhere e.locals (fun l => l.key == k) f }

/-- Row m of A as the reference of a sample reads it: the BF16 source with QF = 1, else the dequantised values (R167). -/
def ArrayOp.wideA (o : ArrayOp) (c : EngineCtx) (sl : Slot) (m : Nat) : List F32 :=
  if o.qf then
    let raw := o.aRowBytes c m
    (List.range o.k).map fun k => f32of (codeVal 1 (codeAt 1 raw k)) false
  else
    match sl.rows[m]? with
    | some r => (o.aVals sl.mask r).map fun p => f32of (p.1.mul (o.scaleOf o.aFmt r.scales 0).1) false
    | none => []

/-- Column n of B as the reference reads it: dequantised weights, and the side-path weights of masked channels. -/
def ArrayOp.wideB (o : ArrayOp) (sl : Slot) (b : CellGrid) (n : Nat) : List F32 :=
  let marked := o.marked sl.mask
  let sb := (o.scaleOf o.bFmt sl.bScales n).1
  (o.bVals sl.mask b sl.bScales n).zipIdx.map fun p =>
    if o.masked sl.mask p.2 then f32of (bf16v (sl.side.getD (marked.idxOf p.2 * 128 + n) 0)) false
    else f32of (p.1.1.mul sb) false

/-- Operand granules that the reference of block j reads. -/
def ArrayOp.sampleGranules (o : ArrayOp) (j : Nat) : List Nat :=
  let span (a n : Nat) : List Nat := (List.range (cdiv (a % 65536 + n) 65536)).map fun i => a / 65536 + i
  span (o.aBlock j) (o.blockRows j * o.aRow) ++ (if o.scaledA then span (o.aScaleBlock j) o.aScaleBytes else []) ++
    (if o.reuseB then [] else span (o.bAddr * unitBytes) o.bBytes) ++
    (if o.scaledB then span (o.scaleAddr * unitBytes) o.bScaleBytes else [])

/-- Block j of an instruction just issued goes into the Touchstone buffer: its contribution after steps 1 and 2 of R151. -/
def Engine.sampleOf (e : Engine) (u : Nat) (o : ArrayOp) (sl : Slot) (j : Nat) : Sample :=
  let rows := match e.drain.getLast? with
    | some d => d.rows
    | none => []
  let b := if e.broadcast then sl.b else e.ctx.active
  { unit := u, word := e.ctx.pc - 1, aFmt := o.aFmt, bFmt := o.bFmt, k := o.k
    y := (rows.drop (128 * j)).take 128
    a := (List.range (o.blockRows j)).map fun m => o.wideA e.ctx sl (128 * j + m)
    b := (List.range o.n).map fun n => o.wideB sl b n
    granules := o.sampleGranules j }

/-- Touchstone sampling (R166): the job's counter advances by one for each output block; a block is sampled when it reaches
N, and the counter restarts. -/
def Engine.sample (e : Engine) (k : Key) (u n : Nat) (o : ArrayOp) (sl : Slot) : Engine :=
  if o.accFmt == 9 then e
  else
    let c := (e.localOf k).samples
    let hits := (List.range o.tiles).filter fun i => (c + i + 1) % n == 0
    { e with
      tsBuffer := e.tsBuffer ++ hits.map (e.sampleOf u o sl)
      tsSamples := satAdd 32 e.tsSamples hits.length }.modLocal k fun l => { l with samples := (c + o.tiles) % n }

/-- N of a job (R166): 2^TOUCHSTONE_LOG2 at its admission. -/
def State.touchstoneN (s : State) (k : Key) : Nat :=
  match s.job k with
  | some j => match j.quant with
    | some q => 2 ^ q.tsLog2
    | none => 2 ^ 10
  | none => 2 ^ 10

/-- An array instruction at the head of issue (R98): its faults, then the first cause that holds it, then its issue. -/
def doMma (op : Nat) (e : EngineId) (w : BitVec 128) (s : State) : State :=
  match s.executes e with
  | none => s
  | some k =>
    let x := s.engines[e]
    let o := arrayOp w
    match arrayFault x.broadcast o x.ctx.mask, formatPair o.aFmt o.bFmt with
    | some r, _ => s.engineFault e k r op
    | none, none => s.engineFault e k erFormatPair op
    | none, some (_, c) =>
      match x.ctx.slots.head? with
      | none => s.modEngine e fun x => x.count fun x => { x with feedStall := (x.feedStall + 1) % 2 ^ 64 }
      | some sl =>
        if sl.word != w then s.modEngine e fun x => x.count fun x => { x with feedStall := (x.feedStall + 1) % 2 ^ 64 }
        else
        match firstSkew sl.skew (recordSkew x o sl) with
        | some d => s.skewFault e k op d
        | none =>
        if x.drain.length ≥ 4 then
          s.modEngine e fun x => x.count fun x => { x with drainStall := (x.drainStall + 1) % 2 ^ 64 }
        else if x.arrayHazard e (tileUnits o.shape o.tile o.tiles) then
          s.modEngine e fun x => x.count fun x => { x with sbStall := (x.sbStall + 1) % 2 ^ 64 }
        else
          let n := s.touchstoneN k
          let u := match x.job with
            | some p => p.2
            | none => 0
          s.modEngine e fun x => (x.issue c sl).sample k u n o sl

/-- MMA_WS (R102); the word's opcode field is 0x01 by the row. -/
def execMmaWs (e : EngineId) (w : BitVec 128) (s : State) : Out :=
  .next (doMma 1 e (BitVec.ofNat 128 (w.toNat - w.toNat % 256 + 1)) s)

/-- MMA_OS (R103); the word's opcode field is 0x02 by the row. -/
def execMmaOs (e : EngineId) (w : BitVec 128) (s : State) : Out :=
  .next (doMma 2 e (BitVec.ofNat 128 (w.toNat - w.toNat % 256 + 2)) s)

/-! ### The last write (R100, R107, R109, R136, R151) -/

/-- One value into a tile: written, or added with saturation or rounding; its events of INT_SAT and ACC_INF. -/
def drainValue (o : ArrayOp) (old new : Word32) : Word32 × Nat × Nat :=
  if o.clear then (new, 0, 0)
  else if o.accFmt == 9 then
    let v := old.toInt + new.toInt
    if v < -(2 ^ 31) then (0x80000000, 1, 0)
    else if v > 2 ^ 31 - 1 then (0x7FFFFFFF, 1, 0)
    else (BitVec.ofInt 32 v, 0, 0)
  else
    let (w, n) := accAdd (old, 0) (new, 0)
    (w, 0, n)

/-- One row of an instruction into the accumulator store. -/
def drainRow (o : ArrayOp) (st : Store × Nat × Nat) (p : List Word32 × Nat) : Store × Nat × Nat :=
  p.1.zipIdx.foldl
    (fun st q =>
      let a := accOffset o.shape o.tile p.2 q.2
      let (v, i, f) := drainValue o (BitVec.ofNat 32 (unle (st.1.readBytes a 4))) q.1
      (Store.writeBytes sramLine st.1 a (le 4 v.toNat), st.2.1 + i, st.2.2 + f)) st

/-- Offsets in the accumulator store of the values that an instruction writes. -/
def DrainEntry.offsets (d : DrainEntry) : List Nat :=
  let o := arrayOp d.word
  d.rows.zipIdx.flatMap fun p => (List.range p.1.length).map fun c => accOffset o.shape o.tile p.2 c

/-- Poisoned words that an instruction's values lie in. -/
def State.drainUes (s : State) (e : EngineId) (at_ : List Nat) : List TierAddr :=
  s.mem.poisoned.filter fun p =>
    p.space == .acc e && s.validAt p && (at_.contains p.off || at_.contains (p.off + 4))

/-- Words of the accumulator store have correct check bits again: those wholly written, and those of a line that was invalid
(R172, R317). -/
def State.healDrain (t : State) (s : State) (e : EngineId) (at_ : List Nat) : State :=
  let healed (p : TierAddr) : Bool :=
    p.space == .acc e && ((at_.contains p.off && at_.contains (p.off + 4)) || (!s.validAt p && t.validAt p))
  { t with mem := { t.mem with poisoned := t.mem.poisoned.filter fun p => !healed p } }

/-- The oldest array instruction writes its last row and leaves the drain queue. -/
def State.writeLast (s : State) (e : EngineId) (d : DrainEntry) (rest : List DrainEntry) : State :=
  let o := arrayOp d.word
  let c := s.engines[e].ctx
  let (acc, sat, inf) := d.rows.zipIdx.foldl (drainRow o) (c.acc, 0, 0)
  let c := ({ c with acc := acc }.flagBy causeIntSat sat d.at_).flagBy causeAccInf inf d.at_
  let c := c.writeRecords d
  let a : TierAddr := { space := .acc e, off := o.tile * tileBytes o.shape }
  let gs := granulesOf a (o.tiles * tileBytes o.shape)
  let c := { c with
    written := gs.foldl (fun l g => insertNew l (.acc e, g)) c.written
    tiles := (tileUnits o.shape o.tile o.tiles).foldl insertNew c.tiles }
  s.modEngine e fun x => { x with drain := rest, ctx := c }

/-- The last write (R100). An accumulation that meets a poisoned word faults its job and changes no store; a word written
in part keeps its poison, and the writer receives the error (R318, R319). -/
def doArrayLastWrite (e : EngineId) (s : State) : State :=
  match s.engines[e].drain, s.engines[e].job with
  | [], _ => s
  | d :: rest, none => s.writeLast e d rest
  | d :: rest, some (k, _) =>
    let at_ := d.offsets
    let bad := s.drainUes e at_
    match (arrayOp d.word).clear, bad.head?, bad.find? fun p => !(at_.contains p.off && at_.contains (p.off + 4)) with
    | false, some p, _ => s.scratchUe e k 1 p
    | true, _, some p => ((s.writeLast e d rest).healDrain s e at_).scratchUe e k 1 p
    | _, _, _ => (s.writeLast e d rest).healDrain s e at_

def execArrayLastWrite (e : EngineId) (s : State) : Out := .next (doArrayLastWrite e s)

/-! ### SETMASK (R110, R111, R114) -/

/-- SETMASK: the mask of 32 bytes and up to 64 side-weight rows of 128 BF16 values from the operand store, for the
MMA_WS instructions that follow; row counts above 64 are out of the register's range. Array instructions before it have
issued, so a slot staged by now is of a later one: the feeder fills from the first that takes the mask on anew. -/
def doSetmask (e : EngineId) (maskAddr sideAddr rows : Nat) (s : State) : State :=
  match s.executes e with
  | none => s
  | some k =>
    if maskAddr > 49151 || sideAddr > 49151 || maskAddr * unitBytes + 32 > 25165824 ||
        sideAddr * unitBytes + 256 * rows > 25165824 then s.engineFault e k erOperandRange 0x08
    else if rows > 64 then s.engineFault e k erOutlierRange 0x08
    else
      match s.poisonIn { space := .operand e, off := maskAddr * unitBytes } 32,
          s.poisonIn { space := .operand e, off := sideAddr * unitBytes } (256 * rows) with
      | some a, _ => s.scratchUe e k 0 a
      | _, some a => s.scratchUe e k 0 a
      | _, _ =>
        let m := BitVec.ofNat 256 (unle (s.engines[e].ctx.operand.readBytes (maskAddr * unitBytes) 32))
        let raw := s.engines[e].ctx.operand.readBytes (sideAddr * unitBytes) (256 * rows)
        let side := (List.range (128 * rows)).map fun i => BitVec.ofNat 16 (field raw (2 * i) 2)
        s.modEngine e fun x => { x with ctx := { x.ctx with
          mask := m, side := side, pc := x.ctx.pc + 1, slots := x.ctx.slots.takeWhile fun l => !(arrayOp l.word).outlier } }

def execSetmask (e : EngineId) (maskAddr sideAddr rows : Nat) (s : State) : Out :=
  .next (doSetmask e maskAddr sideAddr rows s)

end Sys2Proof.Machine
end

