-- ==== Sys2Proof/Machine/FirmwareOps.lean ====
section
/-! DEFINITION. Firmware images: download, verification and commit (R362, R363, R382). -/

namespace Sys2Proof.Machine

/-- Base of a firmware bank. -/
def bankBase (one : Bool) : Nat := if one then 0x1000000 else 0

def bankSize : Nat := 16777216

/-- Bytes of a bank: all ones where erased. -/
def Pewter.bankBytes (p : Pewter) (one : Bool) (off n : Nat) : List Byte :=
  (List.range n).map fun i =>
    let a := bankBase one + off + i
    match p.word (a - a % 16) with
    | none => 0xFF
    | some w => BitVec.ofNat 8 (w.data.toNat / 2 ^ (8 * (a % 16)))

/-- Header fields in range (Table 14-11A): MAGIC, FORMAT, SECURITY_VERSION to 512, IMAGE_LENGTH, SIG_OFFSET. -/
def headerOk (h : List Byte) : Bool :=
  let n := field h 16 4
  field h 0 4 == 0x57464D48 && field h 4 2 == 1 && field h 8 2 ≤ 512 && 65536 ≤ n && n ≤ bankSize - 2820 && n % 16 == 0 && field h 20 4 == n

/-- An image is valid under R362: its header, then its bytes from 64 on. -/
def State.imageValid (s : State) (header : List Byte) (body : Nat → Nat → List Byte) : Bool :=
  let n := field header 16 4
  headerOk header && field header 8 2 ≥ s.pewter.rollback &&
    Config.shake256 (body 64 (n - 64)) 32 == fieldBytes header 32 32 &&
    verifies s.vendorSlots (Config.shake256 (ascii "ICZANT-FIRMWARE-1" ++ header) 64) (body n 2820)

/-- No torn word or undefined sector lies in the bytes of an image in a bank. -/
def Pewter.bankSound (p : Pewter) (one : Bool) (n : Nat) : Bool :=
  let b := bankBase one
  !(p.words.any fun w => w.torn && b ≤ w.addr && w.addr < b + n) && !(p.undefined.any fun a => b ≤ a && a < b + n)

/-- A bank verifies at boot (R313, R362). -/
def State.bankVerifies (s : State) (one : Bool) : Bool :=
  let h := s.pewter.bankBytes one 0 64
  s.imageValid h (s.pewter.bankBytes one) && s.pewter.bankSound one (field h 16 4 + 2820)

/-- Program bytes into a bank, in whole 16-byte words; a word of ones stays erased (R297). -/
def Pewter.programBank (p : Pewter) (one : Bool) (off : Nat) (bs : List Byte) : Pewter :=
  (List.range (bs.length / 16)).foldl
    (fun p i =>
      let d := field bs (16 * i) 16
      if d == 2 ^ 128 - 1 then p else p.program (bankBase one + off + 16 * i) (BitVec.ofNat 128 d) false)
    p

/-- Sector bases of a byte range of a bank. -/
def bankSectors (one : Bool) (off n : Nat) : List Nat :=
  ((List.range (n / 4096)).map fun i => (pwtSector (bankBase one + off + 4096 * i)).1).eraseDups

/-- A piece that overlaps bytes received, or ends beyond the bank. -/
def pieceBad (got : List (Nat × Nat)) (off n : Nat) : Bool :=
  off + n > bankSize || got.any fun g => g.1 < off + n && off < g.1 + g.2

/-- Firmware Image Download (R382); its writes wait for the sequencer (R296, R298). -/
def doFirmwareDownload (e : Sqe) (piece : List Byte) (s : State) : State :=
  let n := 4 * (e.cdw10.toNat + 1)
  let off := 4 * e.cdw11.toNat
  if s.lc == 4 then s.refuse e.key scLifecycleDenied
  else if n % 4096 != 0 || off % 4096 != 0 then s.nvmeInvalidField e.key
  else
    let got := if off == 0 then [] else s.fw.pieces
    if pieceBad got off n then s.nvmeInvalidField e.key
    else if s.pewter.writeWaits then s.waitRead (.download e piece)
    else
      let one := !s.pewter.activeBank
      let bs := padTo n piece
      let done := if off == 0 then [] else s.fw.erased
      let new := (bankSectors one off n).filter fun b => !done.contains b
      let p := new.foldl Pewter.eraseSector s.pewter
      let p := if off == 0 then p.programBank one 64 (bs.drop 64) else p.programBank one off bs
      let fw := { s.fw with
        header := if off == 0 then bs.take 64 else s.fw.header, pieces := got ++ [(off, n)], erased := done ++ new }
      ({ s with pewter := p, fw := fw }).success e.key 0 0 []

def execFirmwareImageDownload (e : Sqe) (piece : List Byte) (s : State) : Out := .next (doFirmwareDownload e piece s)

/-- Bytes received without a gap from 0. -/
def received (got : List (Nat × Nat)) : Nat → Nat → Nat
  | 0, n => n
  | fuel + 1, n =>
    match got.find? fun g => g.1 == n with
    | some g => received got fuel (n + g.2)
    | none => n

/-- Firmware Commit (R382, R363); the check of the image waits for an operation on its bank (R310), the header for the sequencer
(R296). -/
def doFirmwareCommit (e : Sqe) (s : State) : State :=
  let v := e.cdw10.toNat
  let ca := bits v 5 3
  if s.lc == 4 then s.refuse e.key scLifecycleDenied
  else if ca > 1 || bits v 2 0 > 1 then s.nvmeInvalidField e.key
  else
    let one := !s.pewter.activeBank
    if s.pewter.readWaits (.bank one) || s.pewter.writeWaits then s.waitRead (.commit e)
    else
    let h := s.fw.header
    let whole := field h 16 4 + 2820 ≤ received s.fw.pieces s.fw.pieces.length 0
    if whole && s.imageValid h (s.pewter.bankBytes one) then
      let s := { s with
        pewter := s.pewter.programBank one 0 h, fw := { s.fw with header := [], pieces := [], erased := [] } }
      if ca == 0 then s.success e.key 0 0 [] else s.activationNeedsReset e.key
    else (s.reportSecurity .degraded 0x38 0 0 (field h 8 2)).imageInvalid e.key

def execFirmwareCommit (e : Sqe) (s : State) : Out := .next (doFirmwareCommit e s)

/-! ### What waited for the array (R296, R310) -/

/-- A command is still in flight. -/
def State.inFlight (s : State) (k : Key) : Bool := s.ctrls[k.ctrl].inflight.any fun x => x.key == k

/-- A read goes on, where its command has not ended meanwhile. -/
def State.serveRead (s : State) : PwtRead → State
  | .roots e => if s.inFlight e.key then doHallmarkRoots e s else s
  | .commit e => if s.inFlight e.key then doFirmwareCommit e s else s
  | .download e piece => if s.inFlight e.key then doFirmwareDownload e piece s else s
  | .measure p i sign n => s.atPort p (doSpdmMeasurements p i sign n)
  | .array a fetch size8 => doArrayRead a fetch size8 s

/-- Reads whose part is free go on, in their order; the others wait on. -/
def State.resumeReads (s : State) : State :=
  s.pewter.waiting.foldl State.serveRead { s with pewter := { s.pewter with waiting := [] } }

/-- A lockout of 100 ms ends; the sixteenth does not (R298, R299). -/
def execPwtLockoutExpiry (s : State) : Out :=
  .next (if s.pewter.seq == .lockout && s.pewter.lockouts < 16 && s.pewter.lockoutAt + 100000 ≤ s.clockUs then
      (s.pwtSeq .idle).resumeReads
    else s)

def execPwtOperationEnd (failed : List Nat) (s : State) : Out := .next (doPwtOperationEnd failed s).resumeReads
def execPewterBrownout (s : State) : Out := .next (doPewterBrownout s).resumeReads
def execEraseSuspendComplete (s : State) : Out := .next (doEraseSuspendComplete s).resumeReads

end Sys2Proof.Machine
end

