-- ==== Sys2Proof/Machine/Approx.lean ====
section
/-! DEFINITION. The eight functions of the vector unit whose result Table 4-7A bounds by 2 ulp: an interval of rationals that
holds the exact value (a series and what its tail adds at most), the bound, and the test a result has to pass (R112). -/

namespace Sys2Proof.Machine

/-! ### Intervals and series -/

/-- An exact value lies between two rationals. -/
structure Between where
  lo : Rat
  hi : Rat
  deriving DecidableEq, Repr

/-- The rational of a finite value. -/
def FloatVal.rat : FloatVal → Rat
  | .num s m e => (signedMant s m : Rat) * (if 0 ≤ e then (2 ^ e.toNat : Rat) else 1 / 2 ^ (-e).toNat)
  | _ => 0

def Between.mul (a b : Between) : Between :=
  let ps := [a.lo * b.lo, a.lo * b.hi, a.hi * b.lo, a.hi * b.hi]
  { lo := ps.foldl min (a.lo * b.lo), hi := ps.foldl max (a.lo * b.lo) }

/-- One over an interval of positive numbers. -/
def Between.inv (a : Between) : Between := { lo := 1 / a.hi, hi := 1 / a.lo }

def Between.scale (a : Between) (c : Rat) : Between := if c < 0 then { lo := a.hi * c, hi := a.lo * c } else { lo := a.lo * c, hi := a.hi * c }

def Between.shift (a : Between) (c : Rat) : Between := { lo := a.lo + c, hi := a.hi + c }

/-- 2 to a power, negative ones too. -/
def pow2 (e : Int) : Rat := if 0 ≤ e then 2 ^ e.toNat else 1 / 2 ^ (-e).toNat

/-- Sum of x^i / i! for i below n. -/
def expSum (x : Rat) (n : Nat) : Rat := ((List.range n).foldl (fun p i => (p.1 + p.2, p.2 * x / ((i : Rat) + 1))) ((0 : Rat), (1 : Rat))).1

/-- e^x for |x| ≤ 1: thirty terms leave less than 2^-100 · |x|. -/
def expSmall (x : Rat) : Between :=
  let s := expSum x 30
  let d := |x| / 2 ^ 100
  { lo := s - d, hi := s + d }

/-- e^x − 1 for |x| ≤ 1, its error below 2^-100 · |x|. -/
def expm1Small (x : Rat) : Between := (expSmall x).shift (-1)

/-- e^x for x from −64 to 64: the 64th power of e^(x/64). -/
def expOf (x : Rat) : Between :=
  let a := expSmall (x / 64)
  { lo := a.lo ^ 64, hi := a.hi ^ 64 }

/-- ln 2 within 10^-30. -/
def ln2 : Between :=
  { lo := 693147180559945309417232121458 / 10 ^ 30, hi := 693147180559945309417232121459 / 10 ^ 30 }

/-- 2/√π within 10^-30. -/
def twoOverRootPi : Between :=
  { lo := 1128379167095512573896158903121 / 10 ^ 30, hi := 1128379167095512573896158903122 / 10 ^ 30 }

/-- 2^f for 0 ≤ f < 1. -/
def exp2Frac (f : Rat) : Between := { lo := (expSmall (f * ln2.lo)).lo, hi := (expSmall (f * ln2.hi)).hi }

/-- ln m for 2/3 ≤ m ≤ 4/3: the series of 2·artanh((m − 1)/(m + 1)), whose terms fall by a factor of 25. -/
def lnNear1 (m : Rat) : Between :=
  let z := (m - 1) / (m + 1)
  let s := ((List.range 24).foldl (fun p i => (p.1 + 2 * p.2 / (2 * (i : Rat) + 1), p.2 * z * z)) ((0 : Rat), z)).1
  let d := |z| / 2 ^ 100
  { lo := s - d, hi := s + d }

/-- Sum of the series of the error function without its factor 2/√π, n terms. -/
def erfSum (x : Rat) (n : Nat) : Rat :=
  ((List.range n).foldl (fun p i => (p.1 + p.2 / (2 * (i : Rat) + 1), -(p.2 * x * x) / ((i : Rat) + 1))) ((0 : Rat), x)).1

/-! ### The functions -/

/-- 2^x for x from −160 to 130. -/
def exp2Of (x : Rat) : Between := (exp2Frac (x - ⌊x⌋)).scale (pow2 ⌊x⌋)

/-- log2 of m · 2^e with 1 ≤ m < 2. -/
def log2Of (m : Rat) (e : Int) : Between :=
  let (m, e) := if m > 4 / 3 then (m / 2, e + 1) else (m, e)
  ((lnNear1 m).mul ln2.inv).shift e

/-- tanh x for x > 0: (e^2x − 1)/(e^2x + 1), by the small series below 1/2; 1 within 2^-60 from 22 on. -/
def tanhOf (x : Rat) : Between :=
  if x ≥ 22 then { lo := 1 - 1 / 2 ^ 60, hi := 1 }
  else
    let a := if 2 * x ≤ 1 then expm1Small (2 * x) else (expOf (2 * x)).shift (-1)
    { lo := a.lo / (a.lo + 2), hi := a.hi / (a.hi + 2) }

/-- erf x for x > 0: 170 terms leave less than 2^-100 · x below 6; 1 within 2^-54 from 6 on. -/
def erfOf (x : Rat) : Between :=
  if x ≥ 6 then { lo := 1 - 1 / 2 ^ 54, hi := 1 }
  else
    let s := erfSum x 170
    let d := x / 2 ^ 100
    ({ lo := s - d, hi := s + d } : Between).mul twoOverRootPi

/-- 1/(1 + e^-x): between 0 and e^x below −64 · ln 2, 1 within 2^-60 from 44 on. -/
def sigmoidOf (x : Rat) : Between :=
  if x ≥ 44 then { lo := 1 - 1 / 2 ^ 60, hi := 1 }
  else if x ≥ -44 then ((expOf (-x)).shift 1).inv
  else
    let a := exp2Of (x / ln2.lo)
    let b := exp2Of (x / ln2.hi)
    { lo := a.lo * (1 - 1 / 2 ^ 60), hi := b.hi }

/-- The integer below a square root, by bits. -/
def floorRoot (n : Nat) : Nat :=
  (List.range (Nat.log2 n / 2 + 2)).reverse.foldl (fun r i => if (r + 2 ^ i) ^ 2 ≤ n then r + 2 ^ i else r) 0

/-- √(m · 2^e) for m > 0, with 80 bits below the root of m. -/
def sqrtOf (m : Nat) (e : Int) : Between :=
  let (m, e) := if e % 2 == 0 then (m, e) else (2 * m, e - 1)
  let r := floorRoot (m * 2 ^ 160)
  { lo := (r : Rat) * pow2 (e / 2 - 80), hi := ((r : Rat) + 1) * pow2 (e / 2 - 80) }

/-! ### The bound of 2 ulp -/

/-- The exact value of an operation on a finite operand lies here; none where no real number is the result (a logarithm or a
reciprocal root of what is not positive, a root of a negative number, the reciprocal of zero). -/
def enclosure (k : VopKind) (v : FloatVal) : Option Between :=
  let x := v.rat
  match v with
  | .num s m e =>
    match k with
    | .exp2 =>
      if x ≥ 130 then some { lo := pow2 130, hi := pow2 130 }
      else if x < -160 then some { lo := 0, hi := pow2 (-160) }
      else some (exp2Of x)
    | .log2 => if s || m == 0 then none else some (log2Of ((m : Rat) / 2 ^ Nat.log2 m) (e + Nat.log2 m))
    | .recip => if m == 0 then none else some { lo := 1 / x, hi := 1 / x }
    | .rsqrt => if s || m == 0 then none else some (sqrtOf m e).inv
    | .sqrt => if m == 0 then some { lo := 0, hi := 0 } else if s then none else some (sqrtOf m e)
    | .tanh => if m == 0 then some { lo := 0, hi := 0 } else some ((tanhOf |x|).scale (if s then -1 else 1))
    | .erf => if m == 0 then some { lo := 0, hi := 0 } else some ((erfOf |x|).scale (if s then -1 else 1))
    | .sigmoid =>
      if x < -120 then some { lo := 0, hi := pow2 (-160) } else some (sigmoidOf x)
    | .add | .mul | .fma | .min | .max | .cmp | .select => none
  | _ => none

/-- Exponent of the leading bit of a positive rational. -/
def ratLog2 (q : Rat) : Int :=
  let e : Int := (Nat.log2 q.num.natAbs : Int) - Nat.log2 q.den
  if pow2 e ≤ q then e else e - 1

/-- One unit in the last place of an FP32 value near q. -/
def f32ulp (q : Rat) : Rat := if q = 0 then pow2 (-149) else pow2 (max (-149) (ratLog2 |q| - 23))

/-- A rational rounded once to FP32, and whether it overflows (R124). -/
def f32ofRat (q : Rat) : F32 × Bool :=
  let (v, st) := (FloatVal.num (q < 0) q.num.natAbs 0).div (.num false q.den 0)
  let (w, o) := fmtFp32.encode v st
  (BitVec.ofNat 32 w, o)

/-- A result lies within 2 ulp of every value that an interval leaves possible, widened by the interval. -/
def withinUlps (b : Between) (r : F32) : Bool :=
  match f32v r with
  | .num s m e =>
    let y := (FloatVal.num s m e).rat
    let d := 2 * f32ulp (if |b.lo| < |b.hi| then b.lo else b.hi)
    b.lo - d ≤ y && y ≤ b.hi + d
  | _ => false

/-- What the unit answers where the exact value is known to lie in an interval: the implementation's value where that is
within the bound, else the exact value rounded; an overflow gives the infinity and the flag (R124). -/
def boundedResult (b : Between) (candidate : F32) : F32 × Bool :=
  let exact := f32ofRat ((b.lo + b.hi) / 2)
  if exact.2 then exact else if withinUlps b candidate then (candidate, false) else exact

end Sys2Proof.Machine
end

