-- ==== Sys2Proof/Machine/VectorOps.lean ====
section
/-! DEFINITION. The vector unit (R112): elementwise operations (R124), row reductions (R153, R154), conversions (R125,
R127, R129, R138, R144, R149, R159, R160) and the vector queue (R108). -/

namespace Sys2Proof.Machine

/-! ### Elementwise operations (Table 4-7A) -/

/-- Sources of an operation. -/
def vopArity : VopKind → Nat
  | .add | .mul | .min | .max | .cmp => 2
  | .fma | .select => 3
  | .exp2 | .log2 | .recip | .rsqrt | .sqrt | .tanh | .erf | .sigmoid => 1

/-- Elements per cycle. -/
def vopRate (k : VopKind) : Nat := if vopArity k == 1 then 128 else 512

/-- Operands of which IEEE 754 or a limit gives the result (R124; DEDUCED, log 168): infinities, zeros with an infinite result,
the root of a zero, and operands outside a domain, which give a NaN and so set the flag. The infinity of a division by zero is
no overflow. -/
def specialValue (k : VopKind) (v : FloatVal) : Option (F32 × Bool) :=
  let inf (s : Bool) : F32 × Bool := (if s then 0xFF800000 else 0x7F800000, false)
  let zero (s : Bool) : F32 × Bool := (if s then 0x80000000 else 0, false)
  let one (s : Bool) : F32 × Bool := (if s then 0xBF800000 else 0x3F800000, false)
  let outside : F32 × Bool := (0x7FC00000, true)
  match k, v with
  | .exp2, .inf s => some (if s then zero false else inf false)
  | .log2, .inf s | .sqrt, .inf s => some (if s then outside else inf false)
  | .rsqrt, .inf s => some (if s then outside else zero false)
  | .recip, .inf s => some (zero s)
  | .tanh, .inf s | .erf, .inf s => some (one s)
  | .sigmoid, .inf s => some (if s then zero false else one false)
  | .log2, .num s m _ => if m == 0 then some (inf true) else if s then some outside else none
  | .sqrt, .num s m _ => if m == 0 then some (zero s) else if s then some outside else none
  | .rsqrt, .num s m _ => if m == 0 then some (inf s) else if s then some outside else none
  | .recip, .num s m _ => if m == 0 then some (inf s) else none
  | _, _ => none

/-- A function known within 2 ulp (log 10): a NaN propagates. -/
def vopApprox (k : VopKind) (a : F32) : F32 × Bool :=
  if (f32v a).isNan then (0x7FC00000, false)
  else
    match specialValue k (f32v a), enclosure k (f32v a) with
    | some r, _ => r
    | none, some b => boundedResult b (Config.approx k a)
    | none, none => (Config.approx k a, false)

/-- Cycles that the vector unit gives one instruction at most (R112). -/
def vecMaxCycles : Nat := 1024

/-- A NaN propagates as the canonical one (R124). -/
def canonical (a : F32) : F32 := if (f32v a).isNan then 0x7FC00000 else a

/-- One element. The result of a compare and the side a select takes are free: the manual states neither (log 22). -/
def vopElem (k : VopKind) (a b c : F32) (free : Word64) : F32 × Bool :=
  match k with
  | .add => f32add a b
  | .mul => f32mul a b
  | .fma => f32fma a b c
  | .min => (f32min a b, false)
  | .max => (f32max a b, false)
  | .cmp => (free.setWidth 32, false)
  | .select => (canonical (if free.getLsbD 0 then b else c), false)
  | .exp2 | .log2 | .recip | .rsqrt | .sqrt | .tanh | .erf | .sigmoid => vopApprox k a

def Engine.vecIssue (e : Engine) (v : VecEntry) (cycles : Nat) : Engine :=
  { e with ctx := { e.ctx with pc := e.ctx.pc + 1 }, vec := e.vec ++ [v] }.count fun e =>
    { e with vecCycles := (e.vecCycles + cycles) % 2 ^ 64 }

/-- Granules of the operand store that a vector destination covers. -/
def vecGranules (e : EngineId) (l : VecLoc) (n : Nat) : List Nat := if l.acc then [] else granulesOf (vecAddr e l) n

/-- What stops a vector instruction before it runs: a range, a world, an uncorrectable word; else it may go, or it waits
for the scoreboard or the queue. -/
inductive VecGate where
  | fault (reason : Nat)
  | ue (a : TierAddr)
  | wait
  | go
  deriving DecidableEq, Repr

def State.vecGate (s : State) (e : EngineId) (srcs : List (VecLoc × Nat)) (dst : VecLoc × Nat) : VecGate :=
  let x := s.engines[e]
  if !(srcs.all fun p => vecInRange p.1 p.2) || !vecInRange dst.1 dst.2 then .fault erOperandRange
  else if srcs.any (fun p => s.worldBreak e (vecAddr e p.1) (4 * p.2) false) ||
      s.worldBreak e (vecAddr e dst.1) (4 * dst.2) true then .fault erWorld
  else
    match (srcs.filterMap fun p => s.poisonIn (vecAddr e p.1) (4 * p.2)).head? with
    | some a => .ue a
    | none =>
      let us := srcs.flatMap (fun p => vecUnits p.1 p.2) ++ vecUnits dst.1 dst.2
      if x.vec.length ≥ 4 || x.vectorHazard e us || meets (vecGranules e dst.1 (4 * dst.2)) x.sampled then .wait else .go

/-- VOP. One that would occupy the unit beyond 1,024 cycles faults (log 135). -/
def doVop (e : EngineId) (a : VopArgs) (s : State) : State :=
  match s.executes e with
  | none => s
  | some k =>
    if cdiv a.len (vopRate a.kind) > vecMaxCycles then s.engineFault e k erShapeRange 0x10
    else
    let srcs := ([a.srcA, a.srcB, a.srcC].take (vopArity a.kind)).map fun l => (l, a.len)
    match s.vecGate e srcs (a.dst, a.len) with
    | .fault r => s.engineFault e k r 0x10
    | .ue p => s.scratchUe e k 2 p
    | .wait => s
    | .go =>
      let va := s.vecRead e a.srcA a.len
      let vb := s.vecRead e a.srcB a.len
      let vc := s.vecRead e a.srcC a.len
      let (free, s) := s.freshN (if a.kind == .cmp || a.kind == .select then a.len else 0)
      let out := (List.range a.len).map fun i =>
        vopElem a.kind (va.getD i 0) (vb.getD i 0) (vc.getD i 0) (free.getD i 0)
      let v : VecEntry :=
        { reads := srcs.flatMap fun p => vecUnits p.1 p.2, writes := vecUnits a.dst a.len,
          granules := vecGranules e a.dst (4 * a.len) }
      let n := (out.filter fun r => r.2).length
      let s := s.modEngine e fun x =>
        { x with ctx := x.ctx.flagBy causeVecOvf n x.ctx.pc }.vecIssue v (cdiv a.len (vopRate a.kind))
      s.vecWrite e k a.dst (out.flatMap fun r => le 4 r.1.toNat) 0

def execVop (e : EngineId) (a : VopArgs) (s : State) : Out := .next (doVop e a s)

/-! ### Row reductions (R153, R154) -/

/-- An FP32 value with the flag events behind it. -/
abbrev Flagged := F32 × Nat

def flaggedAdd (a b : Flagged) : Flagged := let r := f32add a.1 b.1; (r.1, a.2 + b.2 + b2n r.2)

/-- One lane of a sum: the first element as it is, one rounding for each further one. -/
def laneSum (l : List F32) : Flagged :=
  match l with
  | [] => (0, 0)
  | x :: xs => xs.foldl (fun a y => flaggedAdd a (y, 0)) (x, 0)

/-- One lane of a sum of squares: one fused multiply-add for each element. -/
def laneSq (l : List F32) : Flagged :=
  l.foldl (fun a y => let r := f32fma y y a.1; (r.1, a.2 + b2n r.2)) (0, 0)

/-- The 512 lanes of a row, combined in a tree of nine levels. -/
def rowTree (f : List F32 → Flagged) (row : List F32) : Flagged :=
  treeSum flaggedAdd (0, 0) 9 ((List.range 512).map fun l => f (laneElems l row))

def rowSum (row : List F32) : Flagged := rowTree laneSum row
def rowSumSq (row : List F32) : Flagged := rowTree laneSq row

/-- The extreme of a row; a NaN propagates as canonical NaN (R124). -/
def rowFold (f : F32 → F32 → F32) (empty : F32) : List F32 → F32
  | [] => empty
  | x :: xs =>
    let r := xs.foldl f x
    if (f32v r).isNan then 0x7FC00000 else r

/-- Mean and variance of one pass (R154). -/
def meanVar (n : Nat) (row : List F32) : List F32 × Nat :=
  let c := f32ofNat n
  let (s, i) := rowSum row
  let (q, j) := rowSumSq row
  let m := f32div s c
  let r := f32div q c
  let v := f32fma (f32neg m.1) m.1 r.1
  ([m.1, if (f32v v.1).negative then 0 else v.1], i + j + b2n m.2 + b2n r.2 + b2n v.2)

/-- Values written per row by an operation; none for a reserved one (Table 6-2). -/
def vredWidth (op : Nat) : Option Nat :=
  if op ≤ 3 then some 1 else if op == 4 then some 3 else if op == 5 then some 2 else none

/-- One row reduced; the extreme of an empty row is free. -/
def vredRow (op : Nat) (row : List F32) (free : F32) : List F32 × Nat :=
  match op with
  | 0 => let r := rowSum row; ([r.1], r.2)
  | 1 => ([rowFold f32max free row], 0)
  | 2 => ([rowFold f32min free row], 0)
  | 3 => let r := rowSumSq row; ([r.1], r.2)
  | 4 =>
    let a := rowSum row
    let b := rowSumSq row
    ([f32ofNat row.length, a.1, b.1], a.2 + b.2)
  | _ => meanVar row.length row

/-- VRED. -/
def doVred (e : EngineId) (a : VredArgs) (s : State) : State :=
  match s.executes e with
  | none => s
  | some k =>
    match vredWidth a.op.toNat with
    | none => s.engineFault e k erIllegalOpcode 0x11
    | some w =>
      if a.rows * (cdiv a.rowLen 512 + 9) > vecMaxCycles then s.engineFault e k erShapeRange 0x11
      else
      let n := a.rowLen * a.rows
      match s.vecGate e [(a.src, n)] (a.dst, w * a.rows) with
      | .fault r => s.engineFault e k r 0x11
      | .ue p => s.scratchUe e k 2 p
      | .wait => s
      | .go =>
        let vals := s.vecRead e a.src n
        let (free, s) := s.fresh
        let out := (List.range a.rows).map fun i =>
          vredRow a.op.toNat ((vals.drop (i * a.rowLen)).take a.rowLen) (free.setWidth 32)
        let v : VecEntry :=
          { reads := vecUnits a.src n, writes := vecUnits a.dst (w * a.rows),
            granules := vecGranules e a.dst (4 * w * a.rows) }
        let flags := (out.map fun r => r.2).sum
        let s := s.modEngine e fun x =>
          { x with ctx := x.ctx.flagBy causeVecOvf flags x.ctx.pc }.vecIssue v (a.rows * (cdiv a.rowLen 512 + 9))
        s.vecWrite e k a.dst (out.flatMap fun r => r.1.flatMap fun x => le 4 x.toNat) 0

def execVred (e : EngineId) (a : VredArgs) (s : State) : Out := .next (doVred e a s)

/-! ### Stochastic rounding (R159, R160) -/

/-- One step of a lane's generator; its 16 random bits are bits [63:48] of the new state. -/
def rngStep (x : Word64) : Word64 :=
  let x := x ^^^ (x <<< 13)
  let x := x ^^^ (x >>> 7)
  x ^^^ (x <<< 17)

/-- Magnitude of a value between two codes of a format: the code below, and the fraction of the step in units of 2^-16,
rounded down, with whether anything remains below it. -/
def FloatFmt.split (f : FloatFmt) (m : Nat) (e : Int) (sticky : Bool) : Nat × Nat × Bool :=
  let q := max f.unit ((Nat.log2 m : Int) + e - (f.frac : Int))
  let base := (q - f.unit).toNat * 2 ^ f.frac
  if m == 0 || q ≤ e then (base + m * 2 ^ (e - q).toNat, 0, false)
  else
    let n := (q - e).toNat
    let rem := m % 2 ^ n
    (base + m / 2 ^ n, rem * 65536 / 2 ^ n, sticky || rem * 65536 % 2 ^ n != 0)

/-- A stochastic conversion of a value that is not exact: `up` in 2^-16 is the chance of the higher value. -/
def stochastic (neg : Bool) (t fr : Nat) (below : Bool) (r : Nat) : Nat :=
  let f16 := if neg then 65536 - fr - b2n below else fr
  if (r < f16) != neg then t + 1 else t

/-- A stochastic conversion to a format (R159): code, saturation, and whether it took random bits. -/
def narrowRandom (f : Nat) (v s : FloatVal) (r : Nat) : Nat × Bool × Bool :=
  let (q, st) := v.div s
  let flt (g : FloatFmt) (sat : Bool) : Nat × Bool × Bool :=
    let plain := if sat then g.encodeSat q st else g.encode q st
    match q with
    | .num neg m e =>
      let (t, fr, below) := g.split m e st
      if t ≥ g.maxMag && (t > g.maxMag || fr != 0 || below || st) then (plain.1, plain.2, false)
      else if fr == 0 && !below && !st then (plain.1, plain.2, false)
      else (g.signed neg (stochastic neg t fr (below || st) r), false, true)
    | _ => (plain.1, plain.2, false)
  let int (hi : Nat) (w : Nat) : Nat × Bool × Bool :=
    let plain := narrow f v s
    match q with
    | .num neg m e =>
      if 0 ≤ e then (plain.1, plain.2, false)
      else
        let n := (-e).toNat
        let t := m / 2 ^ n
        let rem := m % 2 ^ n
        if rem == 0 && !st then (plain.1, plain.2, false)
        else if t ≥ hi then (plain.1, true, false)
        else
          let a := stochastic neg t (rem * 65536 / 2 ^ n) (st || rem * 65536 % 2 ^ n != 0) r
          ((signedMant neg a % 2 ^ w).toNat, false, true)
    | _ => (plain.1, plain.2, false)
  match f with
  | 1 => flt fmtBf16 false
  | 2 => flt fmtFp16 false
  | 3 => flt fmtE4m3 true
  | 4 => flt fmtE5m2 true
  | 8 => flt fmtE2m1 true
  | 5 => int 127 8
  | 7 => int 7 4
  | _ => let p := narrow f v s; (p.1, p.2, false)

/-! ### VCVT (R149) -/

/-- Running result of a conversion: codes in order, lane states, flag events of R124, conversions that saturated. -/
structure CvtAcc where
  codes : List Nat
  rng : List Word64
  ovf : Nat
  sat : Nat
  deriving DecidableEq, Repr

/-- One value converted. -/
def cvtElem (o : CvtOp) (s : FloatVal) (acc : CvtAcc) (p : FloatVal × Nat) : CvtAcc :=
  let lane := p.2 % 512
  if o.dst == 0 || ((o.dst == 1 || o.dst == 2) && o.round == 0) then
    let g := if o.dst == 0 then fmtFp32 else if o.dst == 1 then fmtBf16 else fmtFp16
    let r := g.encode (p.1.mul s) false
    { acc with codes := acc.codes ++ [r.1], ovf := acc.ovf + b2n r.2 }
  else if o.round == 0 then
    let r := narrow o.dst p.1 s
    { acc with codes := acc.codes ++ [r.1], sat := acc.sat + b2n r.2 }
  else
    let x := rngStep (acc.rng.getD lane 0)
    let r := narrowRandom o.dst p.1 s (x.toNat / 2 ^ 48)
    { codes := acc.codes ++ [r.1], rng := if r.2.2 then acc.rng.set lane x else acc.rng
      ovf := acc.ovf + (if o.dst == 1 || o.dst == 2 then b2n r.2.1 else 0)
      sat := acc.sat + (if o.dst == 1 || o.dst == 2 then 0 else b2n r.2.1) }

/-- A zero with the sign of its source; an integer format has one zero (R123). -/
def zeroCode (f : Nat) (v : FloatVal) : Nat :=
  match f with
  | 0 => fmtFp32.signed v.signBit 0
  | 3 => fmtE4m3.signed v.signBit 0
  | 4 => fmtE5m2.signed v.signBit 0
  | 8 => fmtE2m1.signed v.signBit 0
  | _ => 0

/-- Bytes of the source, its scale stream and its destination. -/
def CvtOp.srcBytes (o : CvtOp) : Nat := o.rows * rowBytes o.src o.len
def CvtOp.dstBytes (o : CvtOp) : Nat := o.rows * rowBytes o.dst o.len
/-- Bytes of the scale stream at SCALE_ADDR: read with sources 2 and 3, written with 1 (log 23, log 136). -/
def CvtOp.scaleBytes (o : CvtOp) : Nat :=
  match o.scaleSrc with
  | 0 => 0
  | 1 => if isMx o.dst then o.rows * cdiv o.len 32 else 2 * o.rows
  | 2 => 2 * o.rows
  | _ => 2
/-- Block scales of an MX source: from the first unit after its data (Table 5-6). With SCALE_SRC 2 the stream's row scales stand
in their place (log 160). -/
def CvtOp.mxScaleAt (o : CvtOp) : Nat := (o.srcAddr + cdiv o.srcBytes unitBytes) * unitBytes
def CvtOp.mxScaleBytes (o : CvtOp) : Nat := if isMx o.src && !o.srcAcc && o.scaleSrc != 2 then o.rows * cdiv o.len 32 else 0

/-- The fault of a conversion before its operands count (R149, R129, R107, R113). The last block of an MX source's row may
be part of 32 values (log 137). -/
def CvtOp.fault (o : CvtOp) : Option Nat :=
  if !o.allowed then some erFormatPair
  else if o.rows * o.len > 524288 || o.rows > 1024 || o.len > 4096 || (isMx o.dst && o.len % 32 != 0) then
    some erShapeRange
  else if o.srcAcc && (o.len > tileCols o.shape || o.srcAddr % 256 + cdiv o.rows 128 > tilesInStore o.shape) then
    some erAccRange
  else if (!o.srcAcc && (o.srcAddr > 49151 || o.srcAddr * unitBytes + o.srcBytes > 25165824)) || o.dstAddr > 49151 ||
      o.dstAddr * unitBytes + o.dstBytes > 25165824 ||
      (o.scaleSrc != 0 && (o.scaleAddr > 49151 || o.scaleAddr * unitBytes + o.scaleBytes > 25165824)) ||
      (o.mxScaleBytes != 0 && o.mxScaleAt + o.mxScaleBytes > 25165824) then some erOperandRange
  else none

/-- R144: with a scale stream, every unit of the source and of the stream carries BLOCK_TAG. The record names operand 0 and block
0 for both (DESIGN CHOICE, log 171). -/
def CvtOp.skew (o : CvtOp) (c : EngineCtx) : Option Skew :=
  if o.scaleSrc != 2 then none
  else
    let us := (if o.srcAcc then [] else unitsOf (o.srcAddr * unitBytes) o.srcBytes) ++
      unitsOf (o.scaleAddr * unitBytes) o.scaleBytes
    (us.find? fun u => c.tag u != o.tag).map fun u =>
      { operand := 0, block := 0, expected := o.tag.toNat, found := (c.tag u).toNat }

/-- Column n is a masked channel in a conversion that computes or takes a scale of activations (R138, R140, log 138). -/
def CvtOp.masked (o : CvtOp) (c : EngineCtx) (n : Nat) : Bool :=
  (o.scaleSrc == 1 || o.scaleSrc == 3) && n < 256 && c.mask.getLsbD n

/-- Source values of row r. A tile holds FP32 and INT32 only: other formats read from a tile are free (log 22). -/
def CvtOp.rowVals (o : CvtOp) (c : EngineCtx) (r : Nat) (free : Word64) : List FloatVal :=
  if o.srcAcc then
    (List.range o.len).map fun n =>
      let w := unle (c.acc.readBytes (accOffset o.shape (o.srcAddr % 256) r n) 4)
      if o.src == 0 || o.src == 9 then codeVal o.src w else codeVal o.src (free.toNat % 2 ^ fmtBits o.src)
  else
    let raw := c.operand.readBytes (o.srcAddr * unitBytes + r * rowBytes o.src o.len) (rowBytes o.src o.len)
    (List.range o.len).map fun n =>
      let v := codeVal o.src (codeAt o.src raw n)
      if isMx o.src && o.scaleSrc != 2 then
        let x := (c.operand.read (o.mxScaleAt + r * cdiv o.len 32 + n / 32)).toNat
        if x == 0xFF then .nan else v.mul (.num false 1 ((x : Int) - 127))
      else v

/-- Largest finite magnitude of the source, masked channels apart (R138). -/
def CvtOp.legacyMax (o : CvtOp) (c : EngineCtx) : F32 :=
  let row (r : Nat) : FloatVal :=
    maxAbs (((o.rowVals c r 0).zipIdx.filter fun p => !o.masked c p.2).map fun p => p.1)
  f32of (maxAbs ((List.range o.rows).map row)) false

/-- The legacy scale of a step (R138): from the window before it, or from itself at the first step. -/
def legacyScale (maxima : List F32) (window : Nat) (a : F32) (margin : BF16) (dst : Nat) : Word16 :=
  let h := if maxima.isEmpty then f32v a else maxAbs ((maxima.take window).map f32v)
  rowScale ((bf16v margin).mul h) dst

/-- The history of a layer; empty when the job starts. -/
def Job.hist (j : Job) (layer : Nat) : LegacyHist :=
  match j.legacy.find? fun h => h.layer == layer with
  | some h => h
  | none => { layer := layer, maxima := [], step := none }

/-- The maximum of a whole tensor of which a conversion covers one part: the rest's is free, and finite (log 139). -/
def wholeMax (a rest : F32) : F32 := if (f32v rest).finite then f32max a (rest &&& 0x7FFFFFFF) else a

/-- A legacy conversion takes part in its step: the scale, and the history with the step's maximum over all that is converted
in it (R138). At the first step a conversion of the whole tensor, of `all` values, knows the maximum; one of a part does not
know the rest's. -/
def CvtOp.legacyStep (o : CvtOp) (c : EngineCtx) (h : LegacyHist) (window : Nat) (margin : BF16) (all : Nat) (rest : F32) :
    Word16 × LegacyHist :=
  let a := o.legacyMax c
  match h.step with
  | some (m, sc) => (sc, { h with step := some (f32max m a, sc) })
  | none =>
    let first := if h.maxima.isEmpty && o.rows * o.len < all then wholeMax a rest else a
    let sc := legacyScale h.maxima window first margin o.dst
    (sc, { h with step := some (a, sc) })

/-- The unit that runs is in legacy mode: its Ingot declares legacy scales, or declares none where the Mold at admission does
(R138, R200). -/
def State.unitLegacy (s : State) (k : Key) : Bool :=
  match s.job k with
  | none => false
  | some j =>
    let mold := match j.quant with
      | some q => q.legacy
      | none => false
    match s.ingot j.ingot with
    | some g => g.scaleMode == 2 || (g.scaleMode == 0 && mold)
    | none => mold

/-- Window and margin of the unit that runs: the Ingot's where it declares them, else the Mold's at admission (R138). -/
def State.legacyParams (s : State) (k : Key) : Nat × BF16 :=
  match s.job k with
  | none => (16, 0x3F80)
  | some j =>
    let (w, m) := match j.quant with
      | some q => (q.window, q.margin)
      | none => (16, 0x3F80)
    match s.ingot j.ingot with
    | none => (w, m)
    | some g => (if g.legacyWindow == 0 then w else g.legacyWindow, if g.legacyMargin == 0 then m else g.legacyMargin)

/-- The factor of value (r, n) of an INT32 tile: sa · sb of its record, an illegal scale read as 0 (R132, R136). -/
def CvtOp.recordScale (o : CvtOp) (c : EngineCtx) (r n : Nat) : FloatVal :=
  let rec_ := c.record (accOffset o.shape (o.srcAddr % 256) r n / 16384)
  (scaleRead (rec_.rows.getD (r % 128) 0x3F80)).1.mul (scaleRead (rec_.cols.getD (n % 32) 0x3F80)).1

/-- An illegal scale governs value (r, n) of an INT32 tile. -/
def CvtOp.recordBad (o : CvtOp) (c : EngineCtx) (r n : Nat) : Bool :=
  let rec_ := c.record (accOffset o.shape (o.srcAddr % 256) r n / 16384)
  (scaleRead (rec_.rows.getD (r % 128) 0x3F80)).2 || (scaleRead (rec_.cols.getD (n % 32) 0x3F80)).2

/-- Result of a whole conversion: packed rows, scales it writes, and events. -/
structure CvtOut where
  data : List Byte
  scales : List Byte
  rng : List Word64
  ovf : Nat
  sat : Nat
  badScale : Nat
  deriving DecidableEq, Repr

/-- One row of a conversion; `tensor` is the scale that SCALE_SRC 3 reads. Masked channels take no part in a maximum and are
not quantised: their codes are 0. -/
def CvtOp.row (o : CvtOp) (c : EngineCtx) (tensor : Word16) (free : Word64) (acc : CvtOut) (r : Nat) : CvtOut :=
  let vals := (o.rowVals c r free).zipIdx.map fun p => (p.1, o.masked c p.2)
  let used := (vals.filter fun p => !p.2).map fun p => p.1
  let stream := BitVec.ofNat 16 (unle (c.operand.readBytes (o.scaleAddr * unitBytes + 2 * r) 2))
  if isMx o.dst then
    let (codes, sc, n) := mxRow o.dst vals
    { acc with data := acc.data ++ packRow o.dst codes, scales := acc.scales ++ sc.flatMap fun x => le 1 x,
               sat := acc.sat + n }
  else
    let (s, bad) : FloatVal × Bool :=
      match o.scaleSrc with
      | 1 => (bf16v (rowScale (maxAbs used) o.dst), false)
      | 2 => scaleRead stream
      | 3 => scaleRead tensor
      | _ => (.one, false)
    let start : CvtAcc := { codes := [], rng := acc.rng, ovf := 0, sat := 0 }
    let elem (a : CvtAcc) (p : (FloatVal × Bool) × Nat) : CvtAcc :=
      if p.1.2 then { a with codes := a.codes ++ [0] }
      else if o.src == 9 then cvtElem o (o.recordScale c r p.2) a (p.1.1, p.2)
      else if s.isZero then { a with codes := a.codes ++ [zeroCode o.dst p.1.1] }
      else cvtElem o s a (p.1.1, p.2)
    let out := vals.zipIdx.foldl elem start
    let quiet := if o.scaleSrc == 1 then (used.filter fun v => !v.finite || (o.dst == 6 && v.negative)).length else out.sat
    let badRec := if o.src == 9 then ((List.range o.len).filter (o.recordBad c r)).length else 0
    { data := acc.data ++ packRow o.dst out.codes
      scales := if o.scaleSrc == 1 then acc.scales ++ le 2 (rowScale (maxAbs used) o.dst).toNat else acc.scales
      rng := out.rng, ovf := acc.ovf + out.ovf, sat := acc.sat + quiet, badScale := acc.badScale + b2n bad + badRec }

/-- Ranges of the stores that a conversion reads, and those it writes: in a legacy unit the module writes the tensor's scale at
SCALE_ADDR, elsewhere the conversion reads what stands there (R138, R149). -/
def CvtOp.ranges (o : CvtOp) (e : EngineId) (legacy : Bool) : List (TierAddr × Nat) × List (TierAddr × Nat) :=
  let at_ (off : Nat) : TierAddr := { space := .operand e, off := off }
  let src : TierAddr × Nat :=
    if o.srcAcc then ({ space := .acc e, off := o.srcAddr % 256 * tileBytes o.shape }, cdiv o.rows 128 * tileBytes o.shape)
    else (at_ (o.srcAddr * unitBytes), o.srcBytes)
  let mx := if o.mxScaleBytes == 0 then [] else [(at_ o.mxScaleAt, o.mxScaleBytes)]
  let sc := [(at_ (o.scaleAddr * unitBytes), o.scaleBytes)]
  let scaleRead := o.scaleSrc == 2 || (o.scaleSrc == 3 && !legacy)
  let scaleWritten := o.scaleSrc == 1 || (o.scaleSrc == 3 && legacy)
  (src :: mx ++ (if scaleRead then sc else []),
    (at_ (o.dstAddr * unitBytes), o.dstBytes) :: if scaleWritten then sc else [])

/-- A conversion that issues: the tensor scale, the rows, the events, the queue entry and what it writes. -/
def State.convert (s : State) (e : EngineId) (k : Key) (o : CvtOp) (legacy : Bool) (granules : List Nat) : State :=
  let x := s.engines[e]
  let (free, s) := s.fresh
  let (rest, s) := s.fresh
  let (win, margin) := s.legacyParams k
  let layer := match x.job with
    | some p => p.2
    | none => 0
  let hist := match s.job k with
    | some j => j.hist layer
    | none => { layer := layer, maxima := [], step := none }
  let all := match s.job k with
    | some j => Config.tensorValues j.ingot layer hist.maxima.length
    | none => 0
  let step := o.legacyStep x.ctx hist win margin all (rest.setWidth 32)
  let tensor := if legacy then step.1
    else BitVec.ofNat 16 (unle (x.ctx.operand.readBytes (o.scaleAddr * unitBytes) 2))
  let init : CvtOut := { data := [], scales := [], rng := (x.localOf k).rng, ovf := 0, sat := 0, badScale := 0 }
  let out := (List.range o.rows).foldl (o.row x.ctx tensor free) init
  let ctx := ((x.ctx.flagBy causeVecOvf out.ovf x.ctx.pc).flagBy causeConvSat
    (if o.scaleSrc == 3 then 0 else out.sat) x.ctx.pc).flagBy causeBadScale out.badScale x.ctx.pc
  let scales := if legacy then le 2 tensor.toNat else out.scales
  let v : VecEntry :=
    { reads := if o.srcAcc then tileUnits o.shape (o.srcAddr % 256) (cdiv o.rows 128) else [], writes := []
      granules := granules }
  let s := s.modEngine e fun x =>
    ({ x with ctx := ctx }.modLocal k fun l => { l with rng := out.rng }).vecIssue v (cdiv (o.rows * o.len) 512)
  let s := s.modJob k fun j =>
    { j with
      legacySat := if o.scaleSrc == 3 then satAdd 32 j.legacySat out.sat else j.legacySat
      legacy := if legacy then (j.legacy.filter fun h => h.layer != layer) ++ [step.2] else j.legacy }
  let s := s.vecWrite e k { acc := false, off := o.dstAddr * unitBytes } out.data o.tag
  if scales.isEmpty then s else s.vecWrite e k { acc := false, off := o.scaleAddr * unitBytes } scales o.tag

/-- VCVT. -/
def doVcvt (e : EngineId) (w : BitVec 128) (s : State) : State :=
  match s.executes e with
  | none => s
  | some k =>
    let o := cvtOp w
    let x := s.engines[e]
    match o.fault with
    | some r => s.engineFault e k r 0x12
    | none =>
      let legacy := o.scaleSrc == 3 && s.unitLegacy k
      let (reads, writes) := o.ranges e legacy
      if reads.any (fun p => s.worldBreak e p.1 p.2 false) || writes.any (fun p => s.worldBreak e p.1 p.2 true) then
        s.engineFault e k erWorld 0x12
      else
        match o.skew x.ctx with
        | some d => s.skewFault e k 0x12 d
        | none =>
          match (reads.filterMap fun p => s.poisonIn p.1 p.2).head? with
          | some a => s.scratchUe e k 2 a
          | none =>
            let units := if o.srcAcc then tileUnits o.shape (o.srcAddr % 256) (cdiv o.rows 128) else []
            let granules := writes.flatMap fun p => granulesOf p.1 p.2
            if x.vec.length ≥ 4 || x.vectorHazard e units || meets granules x.sampled then s
            else s.convert e k o legacy granules

def execVcvt (e : EngineId) (w : BitVec 128) (s : State) : Out := .next (doVcvt e w s)

/-- The oldest vector instruction completes: its units and granules are free (R108, R112). -/
def doVectorComplete (e : EngineId) (s : State) : State := s.modEngine e fun x => { x with vec := x.vec.drop 1 }

def execVectorInstructionComplete (e : EngineId) (s : State) : Out := .next (doVectorComplete e s)

end Sys2Proof.Machine
end

