-- ==== Sys2Proof/Machine/SearchMath.lean ====
section
/-! DEFINITION. The arithmetic of vector search: normalisation (R429), stored records (R145 to R148), scores (R220, R221),
hit order, and the walk over the centroid graph (R216). -/

namespace Sys2Proof.Machine

/-! ### Square root -/

/-- Integer square root, bit by bit from 2^(n-1) down. -/
def isqrt (m : Nat) : Nat → Nat → Nat
  | 0, r => r
  | i + 1, r => if (r + 2 ^ i) * (r + 2 ^ i) ≤ m then isqrt m i (r + 2 ^ i) else isqrt m i r

/-- Correctly rounded FP32 square root of a positive finite value (R429). -/
def f32sqrt (a : F32) : F32 :=
  match f32v a with
  | .num _ m e =>
    let m := if e % 2 == 0 then m else 2 * m
    let e := if e % 2 == 0 then e else e - 1
    let big := m * 2 ^ 64
    let r := isqrt big 64 0
    f32of (.num false r (e / 2 - 32)) (r * r != big)
  | _ => a

/-! ### Normalisation (R429) -/

/-- The normalised vector; none where S is 0 or not finite. -/
def normalise (x : List F32) : Option (List F32) :=
  let s := (rowSumSq x).1
  if (f32v s).isZero || !(f32v s).finite then none
  else
    let n := f32sqrt s
    some (x.map fun v => (f32div v n).1)

/-- METRIC names COS (Table 9-7). -/
def isCos (metric : Nat) : Bool := metric == 2 || metric == 5

/-- A vector as R146 and R216 take it: normalised for COS. -/
def direction (metric : Nat) (x : List F32) : Option (List F32) := if isCos metric then normalise x else some x

/-! ### Stored records (R145 to R148) -/

/-- One component encoded to SQ8: its code, and the escape value where there is one (R146). -/
def sq8Elem (x o s : F32) : Byte × Option Word16 :=
  match (f32v (f32div (f32sub x o).1 s).1).round false with
  | some c => if -127 ≤ c && c ≤ 127 then (BitVec.ofInt 8 c, none) else (0x80, some (fp16of (f32v x) false))
  | none => (0x80, some (fp16of (f32v x) false))

/-- Bit of a BIN1 code (R148). -/
def binBit (x o : F32) : Bool :=
  let v := f32v (f32sub x o).1
  !v.isNan && !v.negative

/-- Bytes of a bit string, bit d in byte d / 8 at position d mod 8. -/
def packBits (l : List Bool) : List Byte :=
  (chunks 8 l).map fun g => BitVec.ofNat 8 ((g.zipIdx.map fun p => if p.1 then 2 ^ p.2 else 0).sum)

/-- BIN1 code of a vector. -/
def binCode (x offsets : List F32) : List Byte := packBits (List.zipWith binBit x offsets)

/-- A component that can be stored: finite and at most 65,504 in magnitude (R147). -/
def storable (v : F32) : Bool := (f32v v).finite && !(FloatVal.lt (.num false 65504 0) (f32v v).abs)

/-- Decoded value of an SQ8 code that is no escape (R145). -/
def sq8Decode (o s : F32) (c : Byte) : F32 := (f32fma s (f32of (intVal c.toInt) false) o).1

/-- Values a stored record decodes to, escapes taken in order. -/
def decodeSq8 : List F32 → List F32 → List Byte → List Word16 → List F32
  | o :: os, s :: ss, c :: cs, esc =>
    if c == 0x80 then f32of (fp16v (esc.headD 0)) false :: decodeSq8 os ss cs (esc.drop 1)
    else sq8Decode o s c :: decodeSq8 os ss cs esc
  | _, _, _, _ => []

/-- FP16 values of a wide body. -/
def wideVals (body : List Byte) : List F32 :=
  (List.range (body.length / 2)).map fun i => f32of (fp16v (BitVec.ofNat 16 (field body (2 * i) 2))) false

/-- A vector as a record: SQ8 with at most 31 escapes, or FP16 wide; its code, body, escapes and NORM2 (Table 9-5). None
where a component cannot be stored. -/
def encodeRecord (cls : Nat) (offsets scales x : List F32) (object passage : Nat) : Option BatchRec :=
  if !x.all storable then none
  else
    let es := List.zipWith (fun p s => sq8Elem p.1 p.2 s) (x.zip offsets) scales
    let esc := es.filterMap fun e => e.2
    let code := binCode x offsets
    if cls == 1 || esc.length > 31 then
      let body := x.flatMap fun v => le 2 (fp16of (f32v v) false).toNat
      some { object := object, passage := passage, wide := true, code := code, body := body, escapes := [],
             norm2 := (rowSumSq (wideVals body)).1, markWait := false }
    else
      let body := es.map fun e => e.1
      some { object := object, passage := passage, wide := false, code := code, body := body, escapes := esc,
             norm2 := (rowSumSq (decodeSq8 offsets scales body esc)).1, markWait := false }

/-! ### Scores (R220, R221) -/

def popcount (b : Byte) : Nat := ((List.range 8).filter fun i => b.getLsbD i).length

/-- Hamming distance of two codes. -/
def hamming (a b : List Byte) : Nat := (List.zipWith (fun x y => popcount (x ^^^ y)) a b).sum

/-- base = Σ q_d o_d in ascending d (R221). -/
def queryBase (q o : List F32) : F32 := (q.zip o).foldl (fun b p => (f32fma p.1 p.2 b).1) 0

/-- Eight lanes of fused multiply-adds over terms (dimension, factor, factor), combined in three levels. -/
def eightLanes (terms : List (Nat × F32 × F32)) : F32 :=
  let lane (l : Nat) : F32 := (terms.filter fun t => t.1 % 8 == l).foldl (fun a t => (f32fma t.2.1 t.2.2 a).1) 0
  treeSum (fun a b => (f32add a b).1) 0 3 ((List.range 8).map lane)

/-- Terms of an SQ8 body: codes that are no escapes, and escapes with their values, in ascending d. -/
def sq8Terms : Nat → List Byte → List Word16 → List (Nat × Byte) × List (Nat × Word16)
  | _, [], _ => ([], [])
  | d, c :: cs, esc =>
    if c == 0x80 then
      let r := sq8Terms (d + 1) cs (esc.drop 1)
      (r.1, (d, esc.headD 0) :: r.2)
    else
      let r := sq8Terms (d + 1) cs esc
      ((d, c) :: r.1, r.2)

/-- Inner product of a query and a stored record (R221). -/
def innerProduct (q o s : List F32) (r : Rec) : F32 :=
  if r.wide then eightLanes ((q.zip (wideVals r.body)).zipIdx.map fun p => (p.2, p.1.1, p.1.2))
  else
    let (codes, escs) := sq8Terms 0 r.body r.escapes
    let main := eightLanes (codes.map fun p =>
      (p.1, (f32mul (q.getD p.1 0) (s.getD p.1 0)).1, f32of (intVal p.2.toInt) false))
    let one (e : F32) (p : Nat × Word16) : F32 :=
      let t := (f32mul (q.getD p.1 0) (o.getD p.1 0)).1
      (f32add e (f32fma (q.getD p.1 0) (f32of (fp16v p.2) false) (f32neg t)).1).1
    (f32add (f32add main (escs.foldl one 0)).1 (queryBase q o)).1

/-- Final score of a record (Table 9-7). -/
def score (metric : Nat) (q : List F32) (qcode : List Byte) (o s : List F32) (r : Rec) : F32 :=
  if metric == 0 then f32ofNat (hamming qcode r.code)
  else
    let ip := innerProduct q o s r
    if metric == 3 || metric == 6 then
      let two := (f32mul 0x40000000 ip).1
      let v := (f32add (f32sub (rowSumSq q).1 two).1 r.norm2).1
      if (f32v v).negative then 0 else v
    else ip

/-- A smaller score is better for HAMMING and L2SQ. -/
def smallerBetter (metric : Nat) : Bool := metric == 0 || metric == 3 || metric == 6

/-- Hit order (R220): the better score, then the lower object, then the lower passage. -/
def hitBefore (metric : Nat) (a b : Hit) : Bool :=
  let better (x y : F32) : Bool := if smallerBetter metric then f32lt x y else f32lt y x
  if better a.score b.score then true
  else if better b.score a.score then false
  else a.object < b.object || (a.object == b.object && a.passage < b.passage)

/-- The best k hits in order. -/
def bestHits (metric k : Nat) (l : List Hit) : List Hit := (sortBy (hitBefore metric) l).take k

/-! ### The walk (R216) -/

/-- Distance of two vectors as a walk computes it (Table 9-7, R216). -/
def vectorDistance (metric : Nat) (q c : List F32) : F32 :=
  let pairs := q.zip c
  let l2 := metric == 0 || metric == 3 || metric == 6
  let step (a : F32) (p : F32 × F32) : F32 :=
    if l2 then (let t := (f32sub p.1 p.2).1; (f32fma t t a).1) else (f32fma p.1 p.2 a).1
  let lane (l : Nat) : F32 := (laneElems l pairs).foldl step 0
  let sum := treeSum (fun a b => (f32add a b).1) 0 9 ((List.range 512).map lane)
  if l2 then sum else f32neg sum

/-- A centroid widened exactly to FP32. -/
def widen (centroid : List Word16) : List F32 := centroid.map fun w => f32of (fp16v w) false

/-- Graph distance of a vector and a centroid. -/
def graphDistance (metric : Nat) (q : List F32) (centroid : List Word16) : F32 := vectorDistance metric q (widen centroid)

/-- A node as a walk sees it. -/
structure GraphNode where
  num : Nat
  live : Bool
  centroid : List Word16
  edges : List Nat
  deriving DecidableEq, Repr

/-- A node found by a walk, with its distance. -/
structure Found where
  dist : F32
  num : Nat
  live : Bool
  expanded : Bool
  deriving DecidableEq, Repr

def foundBefore (a b : Found) : Bool := f32lt a.dist b.dist || (!f32lt b.dist a.dist && a.num < b.num)

def foundOf (metric : Nat) (q : List F32) (n : GraphNode) : Found :=
  { dist := graphDistance metric q n.centroid, num := n.num, live := n.live, expanded := false }

/-- EF of a walk. -/
def walkEf (lists : Nat) : Nat := min 8192 (max 64 (2 * lists))

/-- Best-first expansions over nodes kept in order of distance, at most `fuel` of them. -/
def walkFrom (metric : Nat) (q : List F32) (nodes : List GraphNode) (ef : Nat) : Nat → List Found → List Found
  | 0, seen => seen
  | fuel + 1, seen =>
    match seen.find? fun f => !f.expanded with
    | none => seen
    | some c =>
      let far := match (seen.filter fun f => f.live)[ef - 1]? with
        | some w => f32lt w.dist c.dist
        | none => false
      if far then seen
      else
        let seen := updWhere seen (fun f => f.num == c.num) fun f => { f with expanded := true }
        let next : List GraphNode := match nodes.find? fun n => n.num == c.num with
          | some n => n.edges.eraseDups.filterMap fun e => nodes.find? fun m => m.num == e
          | none => []
        let new := (next.filter fun n => !(seen.any fun f => f.num == n.num)).map (foundOf metric q)
        walkFrom metric q nodes ef fuel (new.foldl (fun l f => insertBy foundBefore f l) seen)

/-- The LISTS nearest live nodes a walk from the entry list finds, nearest first. -/
def walk (metric : Nat) (q : List F32) (nodes : List GraphNode) (entry : Option Nat) (lists : Nat) : List Nat :=
  match entry with
  | none => []
  | some e =>
    match nodes.find? fun n => n.num == e with
    | none => []
    | some n =>
      let seen := walkFrom metric q nodes (walkEf lists) (100 + cdiv lists 4) [foundOf metric q n]
      ((seen.filter fun f => f.live).take lists).map fun f => f.num

/-- The graph of a Collection as it stands: a list lives until its RETIRE_EPOCH (R234). -/
def State.graph (s : State) (coll : Nat) : List GraphNode :=
  (s.search.lists.filter fun l => l.coll == coll).map fun l =>
    { num := l.num, centroid := l.centroid, edges := l.edges
      live := match l.retire with
        | some e => s.search.epoch < e
        | none => true }

/-- A walk over a Collection's graph in force. -/
def State.walkColl (s : State) (c : Coll) (q : List F32) (lists : Nat) : List Nat :=
  walk c.metric q (s.graph c.id) c.entryList lists

end Sys2Proof.Machine
end

