-- ==== Sys2Proof/Machine/SubmitOps.lean ====
section
/-! DEFINITION. Onant commands: the common checks in the order of R421, JOB_SUBMIT, JOB_STATUS, QUERY and the arrival at
the scheduler (R78, R79, R82, R201, R210, R218, R385). -/

namespace Sys2Proof.Machine

/-! ### What every Onant command must meet (R385) -/

/-- Bytes that the Data Block descriptors of a command describe. -/
def blockLens (e : Sqe) : List Nat := (e.sgl.filter fun d => d.type == 0).map fun d => d.len

/-- Sums of the first descriptors, one after another. -/
def runningSums : Nat → List Nat → List Nat
  | a, [] => [a]
  | a, x :: xs => a :: runningSums (a + x) xs

/-- The data pointer: descriptor types, enough bytes, and the input ending where a descriptor ends. -/
def transferOk (e : Sqe) (inp out : Nat) : Bool :=
  let both := inp != 0 && out != 0
  if e.psdt == 3 then false
  else if e.psdt == 0 then !both
  else
    e.sgl.all (fun d => d.type == 0 || d.type == 2 || d.type == 3) && inp + out ≤ (blockLens e).sum &&
      (!both || (runningSums 0 (blockLens e)).contains inp)

/-- NSID, FUSE, the bits outside the fields of Table 15-8, and the data pointer. -/
def onantOk (e : Sqe) (masks : List Word32) (inp out : Nat) : Bool :=
  e.nsid == 0 && e.fuse == 0 &&
    (List.zipWith (fun (v m : Word32) => v &&& ~~~m == 0)
      [e.cdw10, e.cdw11, e.cdw12, e.cdw13, e.cdw14, e.cdw15] masks).all id &&
    transferOk e inp out

/-- An Onant command, which waits in its queue until the first boundary (R34): steps 2 to 4 of R421, then what the command does under the Mold in force and its queue's Shop. -/
def State.onant (s : State) (e : Sqe) (masks : List Word32) (inp out : Nat) (fields : Mold → Shop → Bool)
    (k : Mold → Shop → State) : State :=
  match s.theMold with
  | none => s.refuse e.key scMoldAbsent
  | some m =>
    if s.ioWaits then s
    else
    match m.shopOfQueue e.key.ctrl e.key.sqid with
    | none => s.refuse e.key scShopUnbound
    | some h =>
      if onantOk e masks inp out && fields m h then k m h else s.refuse e.key scInvalidField

def wide64 (lo hi : Word32) : Nat := lo.toNat + 2 ^ 32 * hi.toNat

def allOnes : Word32 := 0xFFFFFFFF

/-! ### Engines that work may use (R41, R101, R206) -/

def State.engineOk (s : State) (e : EngineId) : Bool := s.engines[e].state != .failed

/-- Sterling Engines of a Shop that are not FAILED. -/
def State.sterlingEngines (s : State) (m : Mold) (h : Shop) : List EngineId :=
  h.engines.filter fun e => s.engineOk e && m.engineSterling e

/-- Engine MODE of a Mold as a unit entry names it: 0 SHADOW, 1 BROADCAST, 2 any. -/
def modeFits (m : Mold) (mode : Nat) (e : EngineId) : Bool := mode > 1 || m.modes.getD e.val 0 == mode

/-- Modes that the primary units of an Ingot need. -/
def Ingot.modes (g : Ingot) : List Nat := ((g.units.filter fun u => u.mode ≤ 1).map UnitEntry.mode).eraseDups

/-! ### The descriptor (Table 8-6) -/

structure JobDesc where
  op : Nat
  cls : Nat
  weight : Nat
  ingot : Nat
  coll : Nat
  quarters : Nat
  flags : Nat
  tJobUs : Nat
  semMask : Nat
  nonpreUs : Nat
  k : Nat
  maxTokens : Nat
  textBytes : Nat
  itemCount : Nat
  answerBytes : Nat
  newTokens : Nat
  newIngot : Nat
  steps : Nat
  rank : Nat
  param : Nat
  text : List Byte
  items : List (Nat × Nat)
  deriving DecidableEq, Repr

def readJobDesc (bs : List Byte) : JobDesc :=
  let tb := field bs 32 4
  let base := 128 + cdiv tb 8 * 8
  { op := field bs 0 1, cls := field bs 1 1, weight := field bs 2 2, ingot := field bs 4 4, coll := field bs 8 2,
    quarters := field bs 10 1, flags := field bs 11 1, tJobUs := field bs 12 4, semMask := field bs 16 8,
    nonpreUs := field bs 24 2, k := field bs 26 2, maxTokens := field bs 28 4, textBytes := tb,
    itemCount := field bs 36 4, answerBytes := field bs 40 4, newTokens := field bs 44 4, newIngot := field bs 48 4,
    steps := field bs 52 4, rank := field bs 56 2, param := field bs 60 4, text := fieldBytes bs 128 tb,
    items := (List.range (field bs 36 4)).map fun i => (field bs (base + 16 * i) 8, field bs (base + 16 * i + 8) 4) }

/-- Bench operators of Table 10-8. -/
def benchOp (op : Nat) : Bool := within op 0x40 0x43

/-- Classes an operator may name (Table 8-7). -/
def opClasses (op : Nat) : List Nat :=
  if op == 0x02 then [0, 1]
  else if op == 0x03 then [1]
  else if op == 0x01 || op == 0x04 || op == 0x05 || op == 0x06 then [2]
  else if benchOp op then [1, 2, 3]
  else if op == 0x80 then [0, 1, 2, 3]
  else []

/-- Operators that take no Ingot. -/
def noIngot (op : Nat) : Bool := op == 0x05 || op == 0x06 || benchOp op

/-- Operators whose inputs include a Collection. -/
def needsColl (op : Nat) : Bool := op == 0x01 || op == 0x03 || op == 0x05 || op == 0x06 || benchOp op

/-- A field that one operator uses and is 0 otherwise. -/
def onlyFor (on : Bool) (v lo hi : Nat) : Bool := if on then within v lo hi else v == 0

/-- FP32, positive and finite. -/
def positiveF32 (v : Nat) : Bool := v != 0 && v < 0x7F800000

/-- The text of a Bench operator: 1 to 64 terms of 1 to 256 bytes after folding; FIELD_MATCH takes a name, a tab and a
value (R262, Table 10-8). -/
def benchText (op : Nat) (text : List Byte) : Bool :=
  if op == 0x43 then (splitOn 0x09 text).length ≥ 2
  else
    let ts := splitOn 0x0A text
    within ts.length 1 64 && ts.all fun t => within (foldText t).length 1 256

/-- Descriptor checks that need the descriptor alone (Table 8-6, Table 8-7, R201, R262). -/
def JobDesc.ok (d : JobDesc) (bs : List Byte) (n : Nat) : Bool :=
  let base := 128 + cdiv d.textBytes 8 * 8
  let bench := benchOp d.op
  n ≥ 128 && d.textBytes ≤ 1048576 && d.itemCount ≤ 1048576 && n == base + 16 * d.itemCount &&
    (opClasses d.op).contains d.cls && (d.coll ≤ 4095 || d.coll == 0xFFFF) && d.quarters < 16 && d.flags < 2 &&
    (d.nonpreUs == 0 || within d.nonpreUs 10 3000) && d.k ≤ 4096 &&
    within d.answerBytes 64 16777216 && d.answerBytes % 8 == 0 &&
    onlyFor (d.op == 0x03) d.maxTokens 1 2097152 && onlyFor (d.op == 0x03) d.newTokens 1 65536 &&
    onlyFor (d.op == 0x04) d.newIngot 1 0xFFFFFFFE && onlyFor (d.op == 0x04) d.rank 1 256 &&
    (if d.op == 0x04 then within d.steps 1 1048576 else onlyFor (d.op == 0x05) d.steps 1 64) &&
    (if d.op == 0x04 then positiveF32 d.param else if bench then d.param < 2 else d.param == 0) &&
    allZero (fieldBytes bs 58 2) && allZero (fieldBytes bs 64 64) &&
    allZero (fieldBytes bs (128 + d.textBytes) (base - 128 - d.textBytes)) &&
    ((List.range d.itemCount).all fun i => allZero (fieldBytes bs (base + 16 * i + 12) 4)) &&
    (d.cls == 0) == (d.tJobUs != 0) && noIngot d.op == (d.ingot == 0) && (!needsColl d.op || d.coll != 0xFFFF) &&
    (d.op != 0x02 || (d.textBytes != 0 && within d.itemCount 1 4096 && d.k ≤ d.itemCount)) &&
    (!(d.op == 0x01 || d.op == 0x06) || d.itemCount != 0) && (!bench || (d.k != 0 && benchText d.op d.text))

/-- Quarters of the mask that hold an Engine of the Shop (R206). -/
def maskOk (h : Shop) (quarters : Nat) : Bool :=
  quarters == 0 || h.engines.any fun e => bit quarters (e.val / 12)

/-- Descriptor checks against the Mold in force and the Shop of the queue (R41, R73, R87, R201, R206). -/
def JobDesc.fits (d : JobDesc) (m : Mold) (h : Shop) : Bool :=
  let c := m.cls d.cls
  (d.cls != 0 || h.c0) && (d.weight == 0 || within d.weight c.minW c.maxW) &&
    !(d.cls != 0 && h.c0 && d.semMask != 0) && d.nonpreUs ≤ h.nonpre && maskOk h d.quarters &&
    (d.coll == 0xFFFF || (m.coll d.coll).isSome) &&
    (d.op != 0x01 || (match m.coll d.coll with
      | some c => c.embedIngot == d.ingot
      | none => false))

/-- Objects that a Bench operator covers lie on Benches its Shop names (R262). -/
def State.benchesHeld (s : State) (h : Shop) (d : JobDesc) : Bool :=
  if d.itemCount == 0 then s.search.objs.all fun o => o.coll != d.coll || o.deleted.isSome || h.holdsBench o.bench
  else d.items.all fun i => match s.obj i.1 with
    | some o => h.holdsBench o.bench
    | none => true


/-! ### Ingots that a job names (R199, R421 step 5) -/

/-- The status that refuses a command for the state of an Ingot; none where the Ingot is READY. -/
def State.ingotRefusal (s : State) (i : Nat) : Option Nat :=
  match s.ingot i with
  | none => some scIngotAbsent
  | some g =>
    match g.state with
    | .ready => none
    | .poisoned => some scIngotPoisoned
    | .loading | .dropping => some scIngotAbsent

/-! ### Capacity (R266, R287) -/


/-- Pages of user capacity left on a Bench, with what is on its way there; none while used blocks exceed user blocks. -/
def State.freePages (s : State) (b : BenchId) : Nat :=
  if s.flash[b].usedBlocks > s.flash[b].userBlocks then 0
  else s.flash[b].userBlocks * 1536 - s.heldPages b -
    ((s.search.puts.filter fun p => p.bench == b).map fun p => pagesOf p.envelope.length).sum

/-- User bytes left on flash, which the Ingot area shares (chapter 8). -/
def State.userBytesFree (s : State) : Nat := ((List.finRange 512).map s.freePages).sum * 16384

/-- Room for one more Ingot of a length (Table 8-4 SPACE). -/
def State.ingotRoom (s : State) (len : Nat) : Bool := s.ingots.length < 256 && len ≤ s.userBytesFree

/-- Bytes of the image of an Ingot tuned from this one: it ends with a signature (R193, R204). -/
def Ingot.tunedSize (g : Ingot) : Nat := g.image.length + if g.signed then 0 else 2824

/-- The object-dependent refusals of a JOB_SUBMIT (step 5 of R421): status, Dword 0. -/
def State.jobState (s : State) (m : Mold) (d : JobDesc) : Option (Nat × Nat) :=
  let coll := s.coll d.coll
  let embed := (m.coll d.coll).map CollEntry.embedIngot
  let busy := s.sched.jobs.any fun j => j.coll == some d.coll && j.state != .waiting &&
    (j.kind == .operator 0x05 || j.kind == .operator 0x06)
  let ing := if d.ingot != 0 then s.ingotRefusal d.ingot
    else if d.op == 0x06 then match embed with
      | some i => s.ingotRefusal i
      | none => none
    else none
  match ing with
  | some sc => some (sc, 0)
  | none =>
    let room := match s.ingot d.ingot with
      | some g => s.ingotRoom g.tunedSize
      | none => true
    let holds := s.search.lists.any fun l => l.coll == d.coll && !l.records.isEmpty
    if d.op == 0x04 && (s.ingot d.newIngot).isSome then some (scIngotExists, 0)
    else if d.op == 0x04 && !room then some (scIngotInvalid, 0x0A)
    else
      match coll with
      | none => none
      | some c =>
        if c.unavailable then some (scMediaUnavailable, 0)
        else if d.op == 0x05 && (c.state != .ready || busy) then some (scInvalidField, 0)
        else if d.op == 0x06 && (c.state != .uncalibrated || holds) then some (scInvalidField, 0)
        else none

/-! ### The content of a named Ingot (R197, R200, R421 step 6) -/

/-- The chain of format variants of a layer, from its primary unit. -/
def variantChain (us : List UnitEntry) : Nat → Nat → List Nat
  | 0, _ => []
  | fuel + 1, u =>
    match us[u]? with
    | none => []
    | some x => u :: (match x.variantNext with
      | some v => variantChain us fuel v
      | none => [])

/-- The unit that runs for a layer marked FMT_DEFAULT: the variant whose formats are the defaults in force (R200). -/
def chooseVariant (us : List UnitEntry) (q : Quant) (u : Nat) : Option Nat :=
  (variantChain us (us.length + 1) u).find? fun v =>
    match us[v]? with
    | some x => x.aFmt == q.act && x.bFmt == q.weight
    | none => false

/-- Layers marked FMT_DEFAULT, by their primary units. -/
def fmtDefaults (us : List UnitEntry) : List Nat :=
  (us.zipIdx.filter fun p => p.1.fmtDefault && p.1.rung == 0 &&
    !(us.any fun x => x.variantNext == some p.2)).map fun p => p.2

/-- The variants of a job, or none where a layer has no match (R200). -/
def chooseVariants (us : List UnitEntry) (q : Quant) : Option (List (Nat × Nat)) :=
  (fmtDefaults us).foldr (fun u acc => match acc, chooseVariant us q u with
    | some l, some v => some ((u, v) :: l)
    | _, _ => none) (some [])

/-- No unit exceeds OUTLIER_MAX in force. -/
def outliersOk (us : List UnitEntry) (q : Quant) : Bool := us.all fun u => u.outliers ≤ q.outlierMax

/-- Engines of a Shop that a job's units may run on: mask, FAILED, Sterling data, signature. -/
def State.jobEngines (s : State) (m : Mold) (h : Shop) (quarters : Nat) (strict sterlingData signed : Bool) :
    List EngineId :=
  h.engines.filter fun e =>
    s.engineOk e && (!strict || quarters == 0 || bit quarters (e.val / 12)) &&
      (if m.engineSterling e then signed else !sterlingData)

/-- Tokens of a prompt and of the passages that a job names. -/
def State.contextTokens (s : State) (ingot : Nat) (text : List Byte) (items : List (Nat × Nat)) : Nat :=
  s.tokenCount ingot text + (items.map fun i => match s.obj i.1 with
    | some o => if i.2 == 0xFFFFFFFF then (o.passages.map Passage.tokens).sum
      else match o.passages[i.2]? with
        | some p => p.tokens
        | none => 0
    | none => 0).sum

/-- The Ingot a job runs: its own, or the embedding Ingot of the Collection for CALIBRATE. -/
def JobDesc.runs (d : JobDesc) (m : Mold) : Nat :=
  if d.op == 0x06 then match m.coll d.coll with
    | some c => c.embedIngot
    | none => 0
  else d.ingot

/-- The checks of step 6: OPERATOR_KIND, the Bench of a KIND 3 unit, NONPRE_US, variants, outliers, signature and world, MODE, and the limits that
need the tokens. -/
def State.jobContent (s : State) (m : Mold) (h : Shop) (d : JobDesc) : Bool :=
  let data := d.coll != 0xFFFF || d.itemCount != 0
  match s.ingot (d.runs m) with
  | none => benchOp d.op || h.engines.isEmpty ||
      !(s.jobEngines m h d.quarters (d.flags == 1) data true).isEmpty
  | some g =>
    let es := s.jobEngines m h d.quarters (d.flags == 1) data (g.signed && g.state == .ready)
    let kind := if d.op == 0x04 then within g.opKind 1 3 else if d.op == 0x06 then g.opKind == 1 else g.opKind == d.op
    let benchUnits := g.units.any fun u => u.kind == 3
    kind && (!benchUnits || (g.signed && h.benches.any fun b => m.benchSterling b && s.benches[b].state != .failed)) &&
      (g.units.all fun u => u.nonpreUs ≤ d.nonpreUs) && (chooseVariants g.units m.quant).isSome &&
      outliersOk g.units m.quant && !es.isEmpty && (g.modes.all fun w => es.any (modeFits m w)) &&
      (d.op != 0x02 || within (s.tokenCount d.ingot d.text) 1 8192) &&
      (d.op != 0x03 || (s.contextTokens d.ingot d.text d.items + d.newTokens ≤ d.maxTokens &&
        d.maxTokens ≤ 1024 * g.maxContext)) &&
      (d.op != 0x06 || (match m.coll d.coll with
        | some c => g.outDims == c.dims
        | none => false))

/-! ### KV pages (R190, R191) -/

/-- The page table of a sequence of a number of tokens, with no page placed: one page for 256 positions of a layer and a group
of at most 8 KV heads. -/
def Ingot.kvPages (g : Ingot) (tokens : Nat) : List KvPage :=
  (List.range g.layers).flatMap fun l => (List.range (cdiv g.kvHeads 8)).flatMap fun h =>
    (List.range (cdiv tokens 256)).map fun i =>
      { layer := l, group := h, heads := min 8 (g.kvHeads - 8 * h), dim32 := g.headDim, index := i, line := 0
        tokens := 0, valid := false }

/-- Bytes of the pages for a number of tokens. -/
def Ingot.kvBytes (g : Ingot) (tokens : Nat) : Nat := ((g.kvPages tokens).map KvPage.bytes).sum

/-- Bytes of a Shop's stacks, those excluded by Assay apart, that no fixed range, Plate region, withheld granule or other reservation takes. -/
def State.kvRoom (s : State) (m : Mold) (h : Shop) : Nat :=
  let taken := ((s.mold.ranges ++ m.world.filter fun w => !w.block && w.space == 4 && !w.sterling).filter fun w =>
    h.holdsStack w.unit).map fun w => w.count * 2097152
  let held := ((s.sched.jobs.filter fun j => j.shop == h.id).map Job.kvBytes).sum
  let out := (s.mem.withheld.filter fun g => h.holdsStack (stackOfGranule g).val).length * 65536
  ((List.range 24).filter fun k => h.holdsStack k && !s.mem.excluded.getLsbD k).length * stackBytes - taken.sum - held - out

/-- A byte range widened to 64 KiB granules: jobs share none, so that the Anneal of one leaves the pages of another (R173). -/
def wholeGranules (p : Nat × Nat) : Nat × Nat :=
  (p.1 / 65536 * 65536, (cdiv (p.1 + p.2) 65536 - p.1 / 65536) * 65536)

/-- Byte ranges that no new page may touch: fixed ranges, with those of a Recast on its way, Plate regions, pages of other jobs, withheld granules, scratch,
STAGED copies and excluded stacks. -/
def State.kvTaken (s : State) (m : Mold) : List (Nat × Nat) :=
  ((s.mold.ranges ++ m.world.filter fun w => !w.block && w.space == 4 && !w.sterling).map fun w =>
      (2097152 * (36864 * w.unit + w.first), 2097152 * w.count)) ++ s.kvSpans.map wholeGranules ++
    (s.excludedStacks.map fun k => (stackBytes * k, stackBytes)) ++ (s.mem.withheld ++ s.mem.toWithhold ++ s.sched.jobs.flatMap (fun j => stackedOf j.scratch) ++
      s.cache.toList.flatMap ModelCache.stagedGranules).map fun g => (65536 * g, 65536)

def spansClash (a b : Nat × Nat) : Bool := a.1 < b.1 + b.2 && b.1 < a.1 + a.2

/-- Page ranges start on a line, lie in one stack of the Shop each, and touch nothing taken nor one another. -/
def pagesOk (h : Shop) (taken : List (Nat × Nat)) : List (Nat × Nat) → Bool
  | [] => true
  | p :: ps =>
    p.1 % 512 == 0 && h.holdsStack (p.1 / stackBytes) && p.1 % stackBytes + p.2 ≤ stackBytes && !(taken.any (spansClash p)) &&
      pagesOk h (p :: taken) ps

/-- The lowest place for a page on the stacks of a Shop: a stack's start, or the first line after something taken. -/
def lowestPlace (h : Shop) (taken : List (Nat × Nat)) (bytes : Nat) : Option Nat :=
  leastBy id ((((List.range 24).map fun k => stackBytes * k) ++ taken.map fun p => cdiv (p.1 + p.2) 512 * 512).filter fun a =>
    pagesOk h taken [(a, bytes)])

/-- Pages one after another, each at the lowest place left. -/
def lowestPlaces (h : Shop) : List (Nat × Nat) → List Nat → Option (List Nat)
  | _, [] => some []
  | taken, n :: ns => (lowestPlace h taken n).bind fun a => (lowestPlaces h ((a, n) :: taken) ns).map fun l => a :: l

/-- The pages of a sequence, placed where the module chooses on the stacks of the Shop (log 130); none where they do not fit. -/
def State.placePages (s : State) (m : Mold) (h : Shop) (ps : List KvPage) : Option (List KvPage) :=
  if ps.isEmpty then some []
  else
    let sizes := ps.map KvPage.bytes
    let chosen := (Config.placePages sizes s.fresh.1 (s.kvTaken m)).filter fun at_ =>
      at_.length == sizes.length && pagesOk h (s.kvTaken m) (at_.zip sizes)
    (chosen.or (lowestPlaces h (s.kvTaken m) sizes)).map fun at_ => (ps.zip at_).map fun p => { p.1 with line := p.2 / 512 }

/-- World scratch granules that a job's pages lie in; the Anneal of its teardown clears them (R173). -/
def kvScratch (ps : List KvPage) : List (Space × Nat) :=
  ((ps.flatMap fun p => granulesOf { space := .stacked, off := 512 * p.line } p.bytes).map fun g => (Space.stacked, g)).eraseDups

/-! ### JOB_SUBMIT (R201, R209) -/

/-- A job as it is accepted: WAITING, with nothing done; its EFFECTIVE_WEIGHT reads 0 until its admission sets it (DESIGN CHOICE,
log 166). -/
def newJob (k : Key) (kind : JobKind) (cls shop : Nat) : Job :=
  { key := k, kind := kind, cls := cls, weight := 0, f8 := 8, effWeight := 0, state := .waiting, shop := shop,
    coll := none, ingot := 0, k := 0, lists := 0, depth := 0, tokens := 0, answerBytes := 64, tJobUs := 0,
    nonpreUs := 0, semMask := 0, placeMask := 0, placeStrict := false, newIngot := 0, input := [], items := [],
    visible := [], newTokens := 0, maxTokens := 0, steps := 0, rank := 0, param := 0, kvBytes := 0, kv := [], variants := [],
    vector := [], front := none, walked := false, sweepBy := 0, arrivedUs := none, deferrals := 0, admitStroke := 0,
    snapshot := 0, placed := [], benchSaved := [], partEnds := [], legacy := [], quant := none, unitsDone := [], execs := 0, replays := [], overflows := 0,
    legacySat := 0, brokenSems := 0, engineUs := 0, benchUs := 0, pendEngineUs := 0, pendBenchUs := 0, window := [],
    progress := 0, candidates := 0, skipped := 0, hits := [], targets := [], sweepAt := none, benchesLeft := [],
    benchesDone := [], partialMedia := false, unbound := false, ending := none, quenching := false, scratch := [],
    gateOrder := none, output := 0, passes := 0, decoded := 0 }

def State.addJob (s : State) (j : Job) : State :=
  { s with sched := { s.sched with jobs := s.sched.jobs ++ [j] } }

/-- An accepted job waits for its arrival at the scheduler. The granules of its pages are invalid, so that what it has not written
reads zero (R171, R190). -/
def State.acceptJob (s : State) (e : Sqe) (m : Mold) (h : Shop) (d : JobDesc) (kv : List KvPage) : State :=
  let s := (kvScratch kv).foldl (fun s p => s.clearGranule p.1 p.2) s.fresh.2
  s.addJob { newJob e.key (.operator d.op) d.cls h.id with
    weight := if d.weight == 0 then (m.cls d.cls).defaultW else d.weight
    coll := if d.coll == 0xFFFF then none else some d.coll
    ingot := d.runs m, k := d.k, answerBytes := d.answerBytes, tJobUs := d.tJobUs, nonpreUs := d.nonpreUs
    semMask := BitVec.ofNat 64 d.semMask, placeMask := BitVec.ofNat 4 d.quarters, placeStrict := d.flags == 1
    newIngot := d.newIngot, input := d.text, items := d.items, newTokens := d.newTokens, maxTokens := d.maxTokens
    steps := d.steps, rank := d.rank, param := BitVec.ofNat 32 d.param
    kvBytes := (kv.map KvPage.bytes).sum, kv := kv, scratch := kvScratch kv
    tokens := if d.op == 0x02 then s.tokenCount d.ingot d.text
      else if d.op == 0x03 then s.contextTokens d.ingot d.text d.items else 0 }

/-- JOB_SUBMIT under its Mold and Shop: steps 5 to 8 of R421. -/
def State.submitJob (s : State) (e : Sqe) (m : Mold) (h : Shop) (d : JobDesc) : State :=
  match s.jobState m d with
  | some (sc, dw0) => s.status e.key sc dw0 0 []
  | none =>
    let keyOk := match m.coll d.coll with
      | some c => s.keyHeld c.label
      | none => true
    let kv := match s.ingot d.ingot with
      | some g => if d.op == 0x03 then g.kvPages d.maxTokens else []
      | none => []
    if !s.jobContent m h d then s.refuse e.key scInvalidField
    else if !keyOk then s.refuse e.key scKeyAbsent
    else if (kv.map KvPage.bytes).sum > s.kvRoom m h then s.refuse e.key scCacheFull
    else
      match s.placePages m h kv with
      | none => s.refuse e.key scCacheFull
      | some kv =>
        if d.cls == 0 && d.tJobUs > m.env.bound * m.periodUs then s.refuseEnvelope e.key true
        else s.acceptJob e m h d kv

def doJobSubmit (e : Sqe) (desc : List Byte) (s : State) : State :=
  let n := e.cdw10.toNat
  let bs := padTo n desc
  let d := readJobDesc bs
  s.onant e [allOnes, 0, 0, 0, 0, 0] n d.answerBytes
    (fun m h => d.ok bs n && d.fits m h && (!benchOp d.op || s.benchesHeld h d)) (fun m h => s.submitJob e m h d)

def execJobSubmit (e : Sqe) (desc : List Byte) (s : State) : Out := .next (doJobSubmit e desc s)

/-! ### JOB_STATUS (R210) -/

def JobState.code : JobState → Nat
  | .waiting => 0
  | .admitted => 1
  | .running => 2
  | .suspended => 3
  | .releasing => 4
  | .teardown => 5

/-- Table 8-11. -/
def Job.statusBytes (j : Job) : List Byte :=
  le 1 j.state.code ++ le 1 j.cls ++ le 2 j.effWeight ++ le 4 j.execs ++ le 4 j.overflows ++ le 4 j.legacySat ++
    le 8 j.engineUs ++ le 8 j.benchUs ++ le 8 j.admitStroke ++ le 8 j.progress ++ le 2 j.brokenSems ++ le 14 0

def doJobStatus (e : Sqe) (s : State) : State :=
  let v := e.cdw10.toNat
  s.onant e [0x0FFFFFFF, 0, 0, 0, 0, 0] 0 64 (fun _ _ => true) fun _ _ =>
    match s.sched.jobs.find? fun j => j.isJob && j.key.cid.toNat == bits v 15 0 && j.key.sqid == bits v 26 16 &&
        j.key.ctrl.val == bits v 27 27 with
    | some j => s.success e.key 64 0 j.statusBytes
    | none => s.refuse e.key scInvalidField

def execJobStatus (e : Sqe) (s : State) : Out := .next (doJobStatus e s)

/-! ### QUERY (R218) -/

/-- FP32 values of an input. -/
def f32s (bs : List Byte) : List F32 := (List.range (bs.length / 4)).map fun i => BitVec.ofNat 32 (field bs (4 * i) 4)

/-- Survivors kept for each list (R223, Table 9-6). -/
def depthOf (metric k depth : Nat) : Nat := if metric == 0 then k else if depth == 0 then min (2 * k) 4096 else depth

structure QueryArgs where
  coll : Nat
  vector : Bool
  bytes : Nat
  k : Nat
  lists : Nat
  depth : Nat
  answerBytes : Nat
  deriving DecidableEq, Repr

def readQuery (e : Sqe) : QueryArgs :=
  { coll := bits e.cdw10.toNat 11 0, vector := bit e.cdw10.toNat 12, bytes := bits e.cdw11.toNat 16 0,
    k := bits e.cdw12.toNat 12 0, lists := bits e.cdw12.toNat 28 16, depth := bits e.cdw13.toNat 12 0,
    answerBytes := e.cdw14.toNat }

/-- The ranges of Table 9-6, and what a supplied vector must be (R218, R429). -/
def QueryArgs.ok (q : QueryArgs) (m : Mold) (input : List Byte) : Bool :=
  match m.coll q.coll with
  | none => false
  | some c =>
    let x := f32s input
    within q.k 1 4096 && within q.lists 1 4096 && (q.depth == 0 || c.metric == 0 || within q.depth q.k 4096) &&
      within q.answerBytes 64 16777216 && q.answerBytes % 8 == 0 &&
      (if q.vector then
        q.bytes == 4 * c.dims && x.all (fun v => (f32v v).finite) && (direction c.metric x).isSome
       else within q.bytes 1 65536)

/-- QUERY_SHOP with a Sterling Engine that is not FAILED, of the modes its embedding needs (R433). -/
def State.queryShop (s : State) (m : Mold) (c : CollEntry) (modes : List Nat) : Bool :=
  match m.shop c.queryShop with
  | none => false
  | some h =>
    let es := s.sterlingEngines m h
    !es.isEmpty && modes.all fun w => es.any (modeFits m w)

/-- QUERY under its Mold: steps 5 to 8 of R421, then a WAITING job of class 0 or 1 (R72). -/
def State.submitQuery (s : State) (e : Sqe) (m : Mold) (q : QueryArgs) (input : List Byte) : State :=
  match m.coll q.coll with
  | none => s.refuse e.key scInvalidField
  | some c =>
    let ing := if q.vector then none else s.ingotRefusal c.embedIngot
    let g := if q.vector then none else s.ingot c.embedIngot
    let modes := match g with
      | some g => g.modes
      | none => []
    let signed := match g with
      | some g => g.signed
      | none => true
    let dims := match g with
      | some g => g.outDims
      | none => c.dims
    let gone := match s.coll q.coll with
      | some x => x.unavailable
      | none => false
    match ing with
    | some sc => s.refuse e.key sc
    | none =>
      if !s.queryShop m c modes then s.refuse e.key scShopUnbound
      else if gone then s.refuse e.key scMediaUnavailable
      else if dims != c.dims || !signed then s.refuse e.key scInvalidField
      else if !s.keyHeld c.label then s.refuse e.key scKeyAbsent
      else
        match m.c0Shop with
        | none => s.refuseEnvelope e.key true
        | some h0 =>
          let cls := if c.queryShop == h0.id then 0 else 1
          s.addJob { newJob e.key .query cls c.queryShop with
            weight := (m.cls cls).defaultW, coll := some q.coll, k := q.k, lists := q.lists
            depth := depthOf c.metric q.k q.depth, answerBytes := q.answerBytes, input := input
            vector := if q.vector then f32s input else []
            ingot := if q.vector then 0 else c.embedIngot
            tokens := if q.vector then 0 else s.tokenCount c.embedIngot input }

def doQuery (e : Sqe) (input : List Byte) (s : State) : State :=
  let q := readQuery e
  let bs := padTo q.bytes input
  s.onant e [0x1FFF, 0x1FFFF, 0x1FFF1FFF, 0x1FFF, allOnes, 0] q.bytes q.answerBytes (fun m _ => q.ok m bs)
    (fun m _ => s.submitQuery e m q bs)

def execQuery (e : Sqe) (input : List Byte) (s : State) : Out := .next (doQuery e input s)

/-! ### Projection, pre-emption on arrival and the arrival at the scheduler (R78, R79, R82) -/

/-- Time until an Engine is free of lower-class work, ns (t_free of Table 3-3). -/
def State.freeNs (s : State) (m : Mold) (e : EngineId) : Nat :=
  let x := s.engines[e]
  let lower := match x.job with
    | some (k, _) => match s.job k with
      | some j => j.cls != 0
      | none => false
    | none => false
  if !lower then 0
  else
    let cap := match m.c0Shop with
      | some h => h.nonpre
      | none => 0
    let rest := match x.ctx.npOpen with
      | some us => 1000 * (us - (s.clockUs - x.ctx.npStart - s.npWaited e))
      | none => 1500
    min (rest + 404000) (1000 * cap + 404000)

/-- The first element that no later one beats. -/
def bestBy {α : Type} (beats : α → α → Bool) : List α → Option α
  | [] => none
  | x :: xs =>
    match bestBy beats xs with
    | none => some x
    | some y => if beats y x then some y else some x

/-- The Engine of the C0 Shop that R80 picks for a command: the least t_free, then the lower number, among those that the
command's work may use. -/
def State.pickC0 (s : State) (m : Mold) (j : Job) : Option EngineId :=
  match m.c0Shop with
  | none => none
  | some h =>
    let modes := match s.ingot j.ingot with
      | some g => g.modes
      | none => []
    let sterling := j.coll.isSome || !j.items.isEmpty
    let ok (e : EngineId) : Bool :=
      s.engineOk e && !s.drains e && (!sterling || m.engineSterling e) && (modes.isEmpty || modes.any fun w => modeFits m w e)
    leastBy (s.freeNs m) (h.engines.filter ok)

/-- A C0 command exceeds the envelope (R78). -/
def Job.overEnvelope (j : Job) (v : Envelope) : Bool := j.lists > v.maxLists || j.k > v.maxK || j.tokens > v.maxTokens

/-- Pre-emption on arrival (R82): the Engine picked is held and its lower-class work saved. -/
def State.arrivalPreempt (s : State) (m : Mold) (j : Job) : State :=
  if !s.sched.preemptOnArrival then s
  else
    match s.pickC0 m j with
    | none => s
    | some e =>
      let s := { s with sched := { s.sched with arrivalHolds := s.sched.arrivalHolds ++ [(j.key, e)] } }
      if s.freeNs m e == 0 then s else s.preempt e (some j.key)

/-- A command reaches the scheduler. -/
def doSchedulerArrival (k : Key) (s : State) : State :=
  match s.theMold, s.job k with
  | some m, some j =>
    if j.state != .waiting || j.arrivedUs.isSome then s
    else if j.cls == 0 && j.overEnvelope m.env then
      ({ s with sched := { s.sched with refused := satAdd 32 s.sched.refused 1 } }.refuseEnvelope k true).dropJob k
    else
      let now := s.clockUs
      let s := s.modJob k fun j => { j with arrivedUs := some now }
      if j.cls == 0 then s.arrivalPreempt m j else s
  | _, _ => s

def execSchedulerArrival (k : Key) (s : State) : Out := .next (doSchedulerArrival k s)

end Sys2Proof.Machine
end

