-- ==== Sys2Proof/Machine/ObjectOps.lean ====
section
/-! DEFINITION. Objects: the envelope header (R250), placement and capacity (R251, R287), durability (R278), reading back
(R386, R387), deletion (R229) and the read state that waits on a condition (R251 to R253, R433). -/

namespace Sys2Proof.Machine

/-! ### Placement (R251) -/

/-- A Bench that is not FAILED. -/
def State.benchOk (s : State) (b : BenchId) : Bool := s.benches[b].state != .failed

/-- The Bench with the most free capacity, the lower number on a tie (R251). -/
def State.pickBench (s : State) (bs : List BenchId) : Option BenchId :=
  bestBy (fun x y => s.freePages y < s.freePages x) bs

/-- Work on a Bench's die can go on: its link is up, and its NAND supply is good (R247, R291). -/
def State.benchReady (s : State) (b : BenchId) : Bool := s.links[dieOfBench b].state == .up && !s.nandLow b

/-! ### Pages of an envelope (R278) -/

/-- One envelope page goes into staging while its slot has room; else it waits, and the put completes at the rate of the fold
(R278). -/
def Flash.stagePage (epoch id : Nat) (f : Flash) (j : Nat) : Option Flash :=
  f.putSlc roleStaging epoch { kind := 0, stream := 0, content := id, index := j, origin := none }

/-- Every page of an envelope; none where one has to wait. -/
def Flash.stage (f : Flash) (epoch id pages : Nat) : Option Flash :=
  (List.range pages).foldl (fun acc j => acc.bind fun f => f.stagePage epoch id j) (some f)

/-! ### The journal (R178, R275, R278) -/

/-- A journal entry of an object takes a page: its position follows the Bench's SEQ (log 142). -/
def Flash.putJournal (f : Flash) (epoch id : Nat) : Option Flash :=
  f.putSlc roleJournal epoch { kind := 4, stream := 0, content := id, index := f.seq % 2 ^ 32, origin := none }

/-- The Bench of another Quarter that takes the second copy of a journal entry. -/
def State.journalMate (s : State) (b : BenchId) (id : Nat) : Option BenchId :=
  [mateBench b, mateBench (mateBench b), mateBench (mateBench (mateBench b))].find? fun x =>
    s.benchOk x && s.benchReady x && (s.flash[x].putJournal s.search.epoch id).isSome

/-- Both copies of a journal entry are programmed; none while a journal block is awaited. -/
def State.journal (s : State) (b : BenchId) (id : Nat) : Option State :=
  match s.flash[b].putJournal s.search.epoch id, s.journalMate b id with
  | some f, some x =>
    (s.flash[x].putJournal s.search.epoch id).map fun h => (s.modFlash b fun _ => f).modFlash x fun _ => h
  | _, _ => none

/-! ### The conditions of reading (R251, Table 10-5) -/

def rrNone : Nat := 0
def rrUncalibrated : Nat := 2
def rrPlateBench : Nat := reasonPlateBench
def rrWrap : Nat := 5
def rrAuth : Nat := 6
def rrFormat : Nat := 7
def rrEncoding : Nat := 8
def rrLimit : Nat := 9
def rrMedia : Nat := 10
def rrDeleted : Nat := 11
def rrShop : Nat := 12

/-- The embedding Ingot is READY and signed. -/
def State.embedReady (s : State) (i : Nat) : Bool :=
  match s.ingot i with
  | some g => g.state == .ready && g.signed
  | none => false

/-- INGEST_SHOP of a Collection with a Sterling Engine that is not FAILED. -/
def State.ingestShop (s : State) (m : Mold) (c : CollEntry) : Option Shop :=
  match m.shop c.ingestShop with
  | some h => if (s.sterlingEngines m h).isEmpty then none else some h
  | none => none

/-- The reason an object waits, 0 where it may be read. -/
def State.readBlocked (s : State) (o : Obj) : Nat :=
  match s.theMold, s.coll o.coll with
  | some m, some c =>
    if !s.keyHeld c.label then reasonKeyAbsent
    else if c.state != .ready then rrUncalibrated
    else
      match m.coll o.coll with
      | none => rrShop
      | some e =>
        if s.search.embedOff.contains o.coll || !s.embedReady e.embedIngot then reasonIngot
        else if !m.benchSterling o.bench then rrPlateBench
        else if (s.ingestShop m e).isNone then rrShop
        else rrNone
  | _, _ => reasonKeyAbsent

/-- Records written once for each Mold generation while objects wait: an unsigned or unready Ingot, a Plate Bench. -/
def State.warnBlocked (s : State) (o : Obj) (reason : Nat) : State :=
  if reason == rrPlateBench then
    if s.search.plateWarned.contains (o.bench, s.mold.gen) then s
    else
      ({ s with search := { s.search with plateWarned := s.search.plateWarned ++ [(o.bench, s.mold.gen)] } }).reportGeneral
        (.bench o.bench) .degraded 0x55 0 o.bench.val 0 none 0
  else if reason == reasonIngot then
    match s.theMold with
    | none => s
    | some m =>
      match m.coll o.coll with
      | none => s
      | some e =>
        match s.ingot e.embedIngot with
        | none => s
        | some g =>
          if g.signed || g.state != .ready || g.unsignedGen == some s.mold.gen then s
          else
            let gen := s.mold.gen
            (s.modIngot g.id fun g => { g with unsignedGen := some gen }).reportGeneral .scheduler .degraded 0x48 2 0 0 none
              g.id
  else s

/-- The records of a Mold generation for the objects that still wait in it (R197, R251). -/
def State.warnDeferred (s : State) : State :=
  (s.search.objs.filter fun o => o.state == .deferred && o.deleted.isNone).foldl (fun s o => s.warnBlocked o o.reason) s

/-- An object that is to be read: waiting, or deferred with the reason. -/
def State.settleRead (s : State) (o : Obj) : Obj :=
  let r := s.readBlocked o
  { o with state := if r == 0 then .pending else .deferred, reason := r }

/-- Deferred objects whose condition no longer holds return to PENDING in their order (R253, R433). -/
def State.releaseDeferred (s : State) : State :=
  let free (o : Obj) : Bool := o.state == .deferred && o.deleted.isNone && s.readBlocked o == 0
  let t : State := { s with search := { s.search with
    objs := updWhere s.search.objs free fun o => { o with state := .pending, reason := 0 } } }
  (s.search.objs.filter free).foldl (fun s o => s.dirtyMap o.bench o.id) t

/-! ### OBJ_PUT (R28, R250, R251, R278) -/

/-- The offset of the first failing field of an envelope header. -/
def envelopeFault (bs : List Byte) (n : Nat) (label : Word64) : Option Nat :=
  let p := field bs 8 8
  let c := field bs 16 4
  let tests : List (Nat × Bool) :=
    [(0, field bs 0 4 != 0x56454E4F), (4, field bs 4 2 != 1), (6, field bs 6 1 > 2), (7, field bs 7 1 > 5),
     (8, !within p 1 68719476736 || 128 + p + 16 * c != n), (16, c != cdiv p 65536), (20, field bs 20 4 != 0),
     (24, field bs 24 8 != label.toNat), (40, field bs 40 8 != 0), (60, field bs 60 4 != 0), (112, field bs 112 16 != 0)]
  (tests.find? fun t => t.2).map fun t => t.1

/-- OBJ_PUT under its Mold: step 5 of R421, the header, the placement. -/
def State.placeObject (s : State) (e : Sqe) (m : Mold) (coll : Nat) (env : List Byte) : State :=
  match m.coll coll with
  | none => s.refuse e.key scInvalidField
  | some c =>
    let live := match m.shop c.ingestShop with
      | some h => h.benches.filter s.benchOk
      | none => []
    let gone := match s.coll coll with
      | some x => x.unavailable
      | none => false
    if live.isEmpty then s.refuse e.key scShopUnbound
    else if gone then s.refuse e.key scMediaUnavailable
    else
      match envelopeFault env env.length c.label with
      | some off => s.status e.key scEnvelopeInvalid off 0 []
      | none =>
        match s.pickBench (live.filter fun b => pagesOf env.length ≤ s.freePages b) with
        | none => s.refuse e.key scMediaFull
        | some b =>
          let p : PendingPut := { key := e.key, coll := coll, bench := b, envelope := env }
          { s with search := { s.search with puts := s.search.puts ++ [p] } }

def doObjPut (e : Sqe) (envelope : List Byte) (s : State) : State :=
  let n := wide64 e.cdw12 e.cdw13
  let coll := bits e.cdw10.toNat 11 0
  s.onant e [0xFFF, 0, allOnes, allOnes, 0, 0] n 0 (fun m _ => n != 0 && (m.coll coll).isSome)
    (fun m _ => s.placeObject e m coll (padTo n envelope))

def execObjPut (e : Sqe) (envelope : List Byte) (s : State) : Out := .next (doObjPut e envelope s)

/-- A new object of a Collection on a Bench, with its identifier; it waits to be read. -/
def State.storeObject (s : State) (coll : Nat) (b : BenchId) (env : List Byte) : Nat × State :=
  let id := s.search.nextId
  let o : Obj :=
    { id := id, coll := coll, bench := b, envelope := env, state := .pending, reason := 0, home := .pending, homeReason := 0, stop := 0, handed := []
      passages := [], notIndexed := 0, membersSkipped := 0, appended := [], storeEpoch := s.search.epoch
      deleted := none, cipherHash := Config.shake256 env 32, contentHash := none, fields := [], lost := none
      readEndUs := 0 }
  let n := pagesOf env.length
  let s := { s with search := { s.search with objs := s.search.objs ++ [s.settleRead o], nextId := id + 1 } }
  let s := s.warnBlocked o (s.readBlocked o)
  let epoch := s.search.epoch
  let s := s.modFlash b fun f => (f.stage epoch id n).getD f
  let s := (s.journal b id).getD s
  let s := s.modBench b fun x =>
    if x.countEn then { x with storedBytes := satAdd 64 x.storedBytes env.length } else x
  (id, (s.recountUsed b).dirtyMap b id)

/-- The Shop of a command's queue, 0 where none names it any longer. -/
def State.shopNumber (s : State) (k : Key) : Nat :=
  match s.theMold with
  | some m =>
    match m.shopOfQueue k.ctrl k.sqid with
    | some h => h.id
    | none => 0
  | none => 0

/-- An envelope and the journal entry of its object can be programmed on a Bench. -/
def State.canStore (s : State) (b : BenchId) (pages : Nat) : Bool :=
  (s.flash[b].stage s.search.epoch s.search.nextId pages).isSome && (s.journal b s.search.nextId).isSome

/-- Ciphertext and journal entries are durable: the object gets its identifier and the command completes. While no staging
or journal page is left the data waits (R278), as it does on a Bench that has failed or is kept for C0 sweeps (R438), and
while the object map may not become dirty (R176). Its Bench time is charged as class C2 of the queue's Shop (R73). -/
def doObjPutDurable (k : Key) (benchUs : Nat) (s : State) : State :=
  match s.search.puts.find? fun p => p.key == k with
  | none => s
  | some p =>
    let q := quarterOfBench p.bench
    let g := objectMapGranule s.search.nextId
    if !s.canStore p.bench (pagesOf p.envelope.length) || !s.benchOk p.bench || !s.benchReady p.bench ||
        s.benchKept p.bench then s
    else if !s.canDirty q g 5 then (s.dirtyThrough q g 5).1
    else
      let s := s.chargeWork 2 (s.shopNumber k) (benchRes p.bench) benchUs
      let s := { s with search := { s.search with puts := s.search.puts.filter fun q => q.key != k } }
      let (id, s) := s.storeObject p.coll p.bench p.envelope
      s.success k (id % 2 ^ 32) (id / 2 ^ 32) []

def execObjPutDurable (k : Timed Key) (s : State) : Out := .next (doObjPutDurable k.what k.us s)

/-! ### OBJ_GET (R44, R275, R386) -/

/-- The object a command names: assigned and not deleted. -/
def State.liveObj (s : State) (i : Nat) : Option Obj :=
  match s.obj i with
  | some o => if o.deleted.isNone then some o else none
  | none => none

/-- The part of a range of n bytes at an offset that lies before the first lost byte. -/
def beforeLost (off n : Nat) : Option Nat → Nat
  | none => n
  | some x => min n (x - off)

/-- The read of a range of an envelope ends: its bytes, or those before the first lost one. The Bench's time is charged to
the command as class C1 of its Shop (R44, R73). -/
def State.finishGet (s : State) (k : Key) (shop us : Nat) (o : Obj) (off n : Nat) (poison : Option Nat) : State :=
  let s := s.chargeWork 1 shop (benchRes o.bench) us
  let hit : Option Nat := match o.lost with
    | some x => if x < off + n then some x else none
    | none => none
  let t := beforeLost off n hit
  let data := (o.envelope.drop off).take t
  let s := s.modBench o.bench fun x => if x.countEn then { x with getBytes := satAdd 64 x.getBytes t } else x
  match hit with
  | some x => s.status k scUncorrectable x 0 data
  | none => s.sendData k t 0 data poison

/-- Collections that a command may name: declared in the Mold in force, with readable metadata (R52, Table 11-8). -/
def State.named (s : State) (m : Mold) (e : Sqe) (coll : Nat) (k : State) : State :=
  if (m.coll coll).isNone then s.refuse e.key scInvalidField
  else if (match s.coll coll with
      | some c => c.unavailable
      | none => false) then s.refuse e.key scMediaUnavailable
  else k

/-- OBJ_GET. While the die's link retrains, its supply is low or the Bench is kept for C0 sweeps the read waits (R247, R291,
R438), and a Quench can stop it. -/
def State.getObject (s : State) (e : Sqe) (m : Mold) (h : Shop) (us : Nat) (lost poison : Option Nat) : State :=
  let off := wide64 e.cdw12 e.cdw13
  let n := e.cdw14.toNat
  match s.liveObj (wide64 e.cdw10 e.cdw11) with
  | none => s.refuse e.key scObjectAbsent
  | some o =>
    s.named m e o.coll <|
      if off + n > o.envelope.length then s.refuse e.key scInvalidField
      else if !s.benchOk o.bench then s.refuse e.key scMediaUnavailable
      else
        let least : Option Nat := match lost, o.lost with
          | some x, some y => some (min x y)
          | some x, none => some x
          | none, y => y
        let s := s.modObj o.id fun o => { o with lost := least }
        if s.benchReady o.bench && !s.benchKept o.bench then
          s.finishGet e.key h.id us { o with lost := least } off n poison
        else
          s.addJob { newJob e.key (.objGet o.id) 1 h.id with
            state := .running, coll := some o.coll, items := [(off, n)], tJobUs := us }

/-- benchUs is the Bench time that the read takes (log 4). -/
def doObjGet (e : Sqe) (benchUs : Nat) (lost poison : Option Nat) (s : State) : State :=
  s.onant e [allOnes, allOnes, allOnes, allOnes, allOnes, 0] 0 e.cdw14.toNat (fun _ _ => e.cdw14 != 0)
    (fun m h => s.getObject e m h benchUs lost poison)

def execObjGet (e : Sqe) (lost : Timed (Option Nat)) (poison : Option Nat) (s : State) : Out :=
  .next (doObjGet e lost.us lost.what poison s)

/-- OBJ_GETs that waited for a Bench go on. -/
def State.resumeGets (s : State) (ready : BenchId → Bool) : State :=
  let one (s : State) (j : Job) : State :=
    match j.kind, j.items with
    | .objGet i, [(off, n)] =>
      match s.obj i with
      | some o =>
        if ready o.bench && s.benchReady o.bench && !s.benchKept o.bench then
          (s.finishGet j.key j.shop j.tJobUs o off n none).dropJob j.key
        else s
      | none => s
    | _, _ => s
  s.sched.jobs.foldl one s

/-- OBJ_GETs that waited for a Bench that has failed are refused (R248). -/
def State.refuseGets (s : State) (b : BenchId) : State :=
  let one (s : State) (j : Job) : State :=
    match j.kind with
    | .objGet i =>
      match s.obj i with
      | some o => if o.bench == b then (s.refuse j.key scMediaUnavailable).dropJob j.key else s
      | none => s
    | .query | .operator _ => s
  s.sched.jobs.foldl one s

/-! ### OBJ_STAT (R252, Table 15-10) -/

def ReadState.code : ReadState → Nat
  | .pending => 0
  | .deferred => 1
  | .reading => 2
  | .indexed => 3
  | .partRead => 4
  | .notRead => 5

def Obj.statBytes (o : Obj) : List Byte :=
  le 8 o.id ++ le 2 o.coll ++ le 2 o.bench.val ++ le 1 o.state.code ++ le 1 o.reason ++ le 2 0 ++
    le 8 o.envelope.length ++ le 8 (o.storeEpoch % 2 ^ 48) ++ le 4 o.passages.length ++ le 4 o.notIndexed ++
    le 4 o.membersSkipped ++ le 4 0 ++ padTo 32 o.cipherHash

def doObjStat (e : Sqe) (s : State) : State :=
  s.onant e [allOnes, allOnes, 0, 0, 0, 0] 0 80 (fun _ _ => true) fun m _ =>
    match s.liveObj (wide64 e.cdw10 e.cdw11) with
    | none => s.refuse e.key scObjectAbsent
    | some o => s.named m e o.coll (s.success e.key 80 0 o.statBytes)

def execObjStat (e : Sqe) (s : State) : Out := .next (doObjStat e s)

/-! ### OBJ_DELETE (R229, R387) -/

def doObjDelete (e : Sqe) (s : State) : State :=
  s.onant e [allOnes, allOnes, 0, 0, 0, 0] 0 0 (fun _ _ => true) fun m _ =>
    let i := wide64 e.cdw10 e.cdw11
    match s.liveObj i with
    | none => s.refuse e.key scObjectAbsent
    | some o => s.named m e o.coll { s with search := { s.search with deletes := s.search.deletes ++ [(e.key, i)] } }

def execObjDelete (e : Sqe) (s : State) : Out := .next (doObjDelete e s)

/-- DELETE entries of an epoch for every record of an object, in every list. -/
def State.tombstone (s : State) (i e : Nat) : State :=
  let mine (l : Lst) : List LogEntry :=
    (l.records.zipIdx.filter fun p => p.1.object == i).map fun p => { record := p.2, kind := .delete e }
  { s with search := { s.search with lists := s.search.lists.map fun l => { l with log := l.log ++ mine l } } }

/-- Granules that a delete of an object changes: the visibility logs of the lists with its records, and its part of the object
map. -/
def State.deleteWrites (s : State) (o : Obj) : List (QuarterId × Nat × Nat) :=
  ((s.search.lists.filter fun l => l.records.any fun r => r.object == o.id).map fun l =>
    (quarterOfBench l.bench, logGranule l.num, 2)) ++ [(quarterOfBench o.bench, objectMapGranule o.id, 5)]

/-- Pages of an object's passage table: hash, locator and sketches of each passage, 40 bytes and 512 for each sketch (R259, log
175). -/
def Obj.tablePages (o : Obj) : Nat := pagesOf (o.passages.map fun p => 40 + 512 * p.sketches.length).sum

/-- The passage table of an object that has been read goes to its Bench's stripes, once they can take it (R259, R281). -/
def State.storeTable (s : State) (o : Obj) : State :=
  let mine (x : PageIdent) : Bool := x.kind == 2 && x.content == o.id
  if o.deleted.isSome || !(o.state == .indexed || o.state == .partRead) || s.flash[o.bench].idents.any mine then s
  else
    let page (i : Nat) : PageWork := { kind := 2, stream := 0, content := o.id, index := i, origin := none }
    match s.flash[o.bench].putQlc false s.search.epoch ((List.range o.tablePages).map page) with
    | some f => (s.moveTo o.bench f).recountUsed o.bench
    | none => s

/-- The passage tables of a Bench that have waited. -/
def State.storeTables (s : State) (b : BenchId) : State := (s.search.objs.filter fun o => o.bench == b).foldl State.storeTable s

/-- An object leaves READING: its state, the Bench's counters, and the Bench is free for the next (Table 10-5). -/
def State.endReading (s : State) (i : Nat) (st : ReadState) (reason : Nat) : State :=
  match s.obj i with
  | none => s
  | some o =>
    let now := s.clockUs
    let s := (s.modObj i fun o => { o with state := st, reason := reason, readEndUs := now }).dirtyMap o.bench i
    let s := s.modBench o.bench fun x =>
      let x := if x.reading == some i then x.leaveReading now else x
      if x.countEn && st != .indexed then { x with notRead := satAdd 64 x.notRead 1 } else x
    s.storeTables o.bench

/-- The delete's journal entry is durable, which waits for a journal block, and for its writes to the visibility logs and the
object map (R176): its epoch is stamped on every record, indexing stops, the command completes; an object deleted before is
absent. -/
def doObjDeleteDurable (k : Key) (s : State) : State :=
  match s.search.deletes.find? fun d => d.1 == k with
  | none => s
  | some (_, i) =>
    let answered (s : State) : State :=
      { s with search := { s.search with deletes := s.search.deletes.filter fun d => d.1 != k } }
    match s.liveObj i, (s.liveObj i).bind fun o => s.journal o.bench i with
    | none, _ => (answered s).refuse k scObjectAbsent
    | some _, none => s
    | some o, some t =>
      let writes := s.deleteWrites o
      if !(t.dirtyAll writes).2 then (s.dirtyAll writes).1
      else
      let s := answered t
      let e := s.search.epoch + 1
      let s := if o.state == .reading then s.endReading i .partRead rrDeleted else s
      let s := (((s.modObj i fun o => { o with deleted := some e }).tombstone i e).dirtyAll writes).1
      let s := s.modFlash o.bench fun f => f.release fun x => (x.kind == 0 || x.kind == 2) && x.content == i
      (s.recountUsed o.bench).success k (e % 2 ^ 32) (e / 2 ^ 32 % 2 ^ 16) []

def execObjDeleteDurable (k : Key) (s : State) : Out := .next (doObjDeleteDurable k s)

end Sys2Proof.Machine
end

