-- ==== Sys2Proof/Machine/SchedOps.lean ====
section
/-! DEFINITION. Units on Engines and Benches: placement (R206), the order of work on a resource (R436), contexts and
pre-emption (R87 to R89, R117, R118), charging (R77), and the combination of split units (R155, R156). -/

namespace Sys2Proof.Machine

/-- Unit index of the front work of a query. -/
def frontUnit : Nat := 2 ^ 32 + 1

/-- Unit index of what a job left on an Engine between two units. -/
def residueUnit : Nat := 2 ^ 32

def Sched.usedBy (c : Sched) (res cls : Nat) : Nat :=
  ((c.usage.filter fun u => u.res == res && u.cls == cls).map Use.us).sum

def Sched.usedByJob (c : Sched) (res : Nat) (k : Key) : Nat :=
  ((c.usage.filter fun u => u.res == res && u.key == some k).map Use.us).sum

/-- Budget of a class on a resource in the Stroke in progress. -/
def Sched.budget (c : Sched) (res cls : Nat) : Rat := (lookupD c.budgets res []).getD cls 0

/-- C0 ceiling of a resource, µs: 0 on Engines outside the C0 Shop (R74). -/
def State.c0Ceiling (s : State) (res : Nat) : Rat :=
  match s.theMold with
  | none => 0
  | some m =>
    let all : Rat := (m.c0Ceiling256 : Rat) / 256
    if h : res < 48 then (if (m.c0Shop.map fun c => c.holdsEngine ⟨res, h⟩) == some true then all else 0) else all

/-! ### The order of work on a resource (R74, R93, R436) -/

/-- A job that may run work. -/
def Job.active (j : Job) : Bool := !j.quenching && (j.state == .admitted || j.state == .running || j.state == .suspended)

/-- Order of admission: by boundary, there C0 first, then those deferred before, then by arrival (R80). -/
def admittedBefore (a b : Job) : Bool :=
  if a.admitStroke != b.admitStroke then a.admitStroke < b.admitStroke
  else if (a.cls == 0) != (b.cls == 0) then a.cls == 0
  else if (a.deferrals == 0) != (b.deferrals == 0) then a.deferrals != 0
  else a.arrivedUs.getD 0 < b.arrivedUs.getD 0

/-- How far a job lies below its weighted share on a resource, among jobs of its class that are ready there. -/
def Sched.below (c : Sched) (res : Nat) (ready : List (Job × Nat)) (j : Job) : Rat :=
  let total := (ready.map fun p => p.1.effWeight).sum
  let share : Rat := if total == 0 then 0 else c.budget res j.workCls * j.effWeight / total
  share - c.usedByJob res j.key

/-- The ready unit a resource runs next: C0 first up to its ceiling, then decode steps (R93), then the first class within its
budget, else the C1 to C3 work in proportion to the weights; within a class the job furthest below its share, the earlier
admitted on a tie. -/
def Sched.choose (c : Sched) (ceiling : Rat) (res : Nat) (ready : List (Job × Nat)) : Option (Job × Nat) :=
  let ready := sortBy (fun x y => admittedBefore x.1 y.1) ready
  let of (n : Nat) : List (Job × Nat) := ready.filter fun p => p.1.workCls == n
  let far (l : List (Job × Nat)) : Option (Job × Nat) :=
    bestBy (fun x y => c.below res l y.1 < c.below res l x.1) l
  let others := ready.filter fun p => p.1.workCls != 0
  let decode := others.filter fun p => p.1.decoding
  if !(of 0).isEmpty && (c.usedBy res 0 : Rat) < ceiling then far (of 0)
  else if !decode.isEmpty then far decode
  else
    match [1, 2, 3].find? fun n => !(of n).isEmpty && (c.usedBy res n : Rat) < c.budget res n with
    | some n => far (of n)
    | none =>
      bestBy (fun x y => c.usedByJob res x.1.key * y.1.effWeight < c.usedByJob res y.1.key * x.1.effWeight) others

/-- The choice of R436 on a resource. -/
def State.chooseOn (s : State) (res : Nat) (ready : List (Job × Nat)) : Option (Job × Nat) :=
  s.sched.choose (s.c0Ceiling res) res ready

/-! ### Contexts on an Engine (R117, R118, R160, R166) -/

/-- A context in which a new unit starts: no flag, no open command, at the first word of its code. -/
def EngineCtx.newUnit (c : EngineCtx) : EngineCtx :=
  { c with causes := 0, flagEvents := 0, firstWord := 0, pc := 0, npOpen := none, npStart := 0, npWait := 0, ran := 0
           written := [], tiles := [] }

/-- A job first runs on an Engine: its lanes and its sample counter are seeded from the random source (R160, R166). -/
def State.seedLocal (s : State) (e : EngineId) (j : Job) : State :=
  if s.engines[e].locals.any fun l => l.key == j.key then s
  else
    let (ws, s) := s.freshN 512
    let (w, s) := s.fresh
    let n := match j.quant with
      | some q => 2 ^ q.tsLog2
      | none => 1
    s.modEngine e fun x =>
      { x with locals := x.locals ++ [{ key := j.key, rng := ws.map (fun x => if x == 0 then 1 else x), samples := w.toNat % n }] }

/-- What a job keeps on an Engine moves with a context of it that goes on elsewhere, unless it has run there before. -/
def State.moveLocal (s : State) (i e : EngineId) (k : Key) : State :=
  if s.engines[e].locals.any fun l => l.key == k then s
  else s.modEngine e fun x => { x with locals := x.locals ++ s.engines[i].locals.filter fun l => l.key == k }

/-- Where the saved context of a part of a unit lies. -/
def State.savedAt (s : State) (k : Key) (u p : Nat) : Option EngineId :=
  (List.finRange 48).find? fun i => s.engines[i].saved.any fun c => c.key == k && c.unit == u && c.part.index == p

def State.savedCtx (s : State) (e : EngineId) (k : Key) (u p : Nat) : Option SavedCtx :=
  s.engines[e].saved.find? fun c => c.key == k && c.unit == u && c.part.index == p

/-- Parts of a unit whose contexts are saved. -/
def State.savedParts (s : State) (k : Key) (u : Nat) : List Part :=
  s.engines.toList.flatMap fun x => (x.saved.filter fun c => c.key == k && c.unit == u).map SavedCtx.part

/-- The first saved part of a unit that has no place. -/
def State.unplacedPart (s : State) (j : Job) (u : Nat) : Option Part :=
  leastBy Part.index ((s.savedParts j.key u).filter fun p => !(j.placed.any fun q => q.unit == u && q.part.index == p.index))

/-- A context loaded into an Engine rewrites its stores whole: their words have correct check bits (R172). -/
def State.loadHeals (s : State) (e : EngineId) : State :=
  { s with mem := { s.mem with poisoned := s.mem.poisoned.filter fun p => p.space != .operand e && p.space != .acc e } }

/-- Places of a context that moves from one Engine to another. -/
def EngineCtx.moveTo (c : EngineCtx) (i e : EngineId) : EngineCtx :=
  { c with written := c.written.map fun p =>
      (if p.1 == .operand i then .operand e else if p.1 == .acc i then .acc e else p.1, p.2) }

/-- A unit begins on an idle Engine: RESTORING where a context of its part is saved, with what it had pinned asked for again
(R184), else RUNNING. What the job left there in Sterling stores is gone once the Engine is Plate (R56). A job whose unit only waits
for its Engine keeps its state of Table 8-10 until then (DESIGN CHOICE, log 165). -/
def State.beginUnit (s : State) (e : EngineId) (k : Key) (u : Nat) : State :=
  match s.job k with
  | none => s
  | some j =>
    let now := s.clockUs
    let p := (s.partOn e k u).index
    let s := if s.engines[e].resident == some k then s else s.modEngine e Engine.saveResident
    let s := match s.savedAt k u p with
      | some i =>
        match s.savedCtx i k u p with
        | some c =>
          let s := s.moveLocal i e k
          let s := s.modEngine i fun x =>
            { x with saved := x.saved.filter fun c => !(c.key == k && c.unit == u && c.part.index == p) }
          let s := (s.loadHeals e).modEngine e fun x =>
            { x with job := some (k, u), ctx := c.ctx.moveTo i e, resident := none, state := .restoring, switchUs := now, since := now }
          c.pins.foldl (fun s o => doPromotionRequest (quarterOfEngine e) o k u s) s
        | none => s
      | none =>
        if s.engines[e].resident == some k then
          s.modEngine e fun x =>
            { x with job := some (k, u), ctx := x.ctx.newUnit, resident := none, state := .running, since := now }
        else
          match s.savedCtx e k residueUnit 0 with
          | some c =>
            let had := !c.sterling || s.engines[e].sterling
            (s.loadHeals e).modEngine e fun x =>
              { x with job := some (k, u), ctx := if had then c.ctx.newUnit else EngineCtx.fresh
                       state := if had then .restoring else .running, switchUs := now, since := now
                       saved := x.saved.filter fun c => !(c.key == k && c.unit == residueUnit) }
          | none =>
            (s.seedLocal e j).modEngine e fun x =>
              { x with job := some (k, u), ctx := EngineCtx.fresh, state := .running, since := now }
    s.modJob k fun j => { j with state := .running }

/-- An Engine is held for another command's front work (R82), while that command waits as a candidate of class C0. -/
def State.heldFrom (s : State) (e : EngineId) (j : Job) : Bool :=
  j.cls != 0 && s.sched.arrivalHolds.any fun h => h.2 == e && h.1 != j.key &&
    (s.job h.1).any fun x => x.cls == 0 && x.state == .waiting && !x.quenching

/-- Units placed on an Engine that do not run there yet. -/
def State.waitingOn (s : State) (e : EngineId) : List (Job × Nat) :=
  s.sched.jobs.flatMap fun j =>
    if j.active && !s.heldFrom e j then
      (j.placed.filter fun p => p.engine == some e && s.engines[e].job != some (j.key, p.unit)).map fun p => (j, p.unit)
    else []

/-- An idle Engine takes the next unit that waits for it. -/
def State.startNext (s : State) (e : EngineId) : State :=
  if s.engines[e].state != .idle || s.drains e then s
  else
    match s.chooseOn e.val (s.waitingOn e) with
    | some (j, u) => s.beginUnit e j.key u
    | none => s

/-- An Engine's job ends there: its stores stay for the job's next unit, and the Engine is idle. -/
def State.leaveEngine (s : State) (e : EngineId) (k : Key) : State :=
  (s.modEngine e fun x =>
    { x with job := none, resident := some k, drain := [], vec := [], xfers := [], tsBuffer := [], wanted := none
             state := if x.state == .failed || x.state == .off then x.state else .idle }).startNext e

/-- Units placed on a Bench that do not run there yet; lower-class work waits on a Bench held by R438. -/
def State.waitingOnBench (s : State) (b : BenchId) : List (Job × Nat) :=
  let held := s.benchKept b
  s.sched.jobs.flatMap fun j =>
    if j.active && !(held && j.cls != 0) then
      (j.placed.filter fun p => p.bench == some b && s.benches[b].job != some j.key).map fun p => (j, p.unit)
    else []

/-- A free Bench takes the next unit that waits for it; an operator that was pre-empted goes on with its state loaded (R77). -/
def State.startNextBench (s : State) (b : BenchId) : State :=
  if s.benches[b].job.isSome || s.benches[b].state == .failed || s.benches[b].state == .off || s.drainsBench b then s
  else
    match s.chooseOn (benchRes b) (s.waitingOnBench b) with
    | some (j, u) =>
      let now := s.clockUs
      let saved := j.benchSaved.find? fun p => p.2.1 == u
      let ran := match saved with
        | some p => p.2.2
        | none => 0
      let s := if saved.isSome then s.chargeSwitch j.key b else s
      ((s.modBench b fun x => { x with job := some j.key, state := .running, since := now, ran := ran }).takeCredit j.key
        (benchRes b)).modJob j.key fun j =>
          { j with state := .running, benchSaved := j.benchSaved.filter fun p => p.2.1 != u }
    | none => s

/-- Work of a class that belongs to no job may start on a resource: no unit that is ready or runs there goes before it (R436). -/
def State.workMay (s : State) (cls res : Nat) (ready : List (Job × Nat)) : Bool :=
  match s.chooseOn res ready with
  | none => true
  | some (j, _) => cls ≤ j.workCls || (j.workCls != 0 && s.sched.budget res j.workCls ≤ s.sched.usedBy res j.workCls)

/-- Units that run on a Bench or wait for it. -/
def State.readyOnBench (s : State) (b : BenchId) : List (Job × Nat) :=
  ((s.benches[b].job.bind s.job).map fun j => (j, 0)).toList ++ s.waitingOnBench b

/-! ### Placement (R206) -/

/-- The unit that runs for a layer: its replay variant, its format variant, or itself. -/
def Job.runUnit (j : Job) (u : Nat) : Nat :=
  match j.replays.find? fun p => p.1 == u with
  | some p => p.2
  | none => lookupD j.variants u u

/-- The Ingot whose units a job runs. -/
def State.jobIngot (s : State) (j : Job) : Option Ingot := s.ingot j.ingot

/-- The entry of a unit as it runs. -/
def State.unitEntry (s : State) (j : Job) (u : Nat) : Option UnitEntry :=
  match s.jobIngot j with
  | some g => g.units[j.runUnit u]?
  | none => none

/-- A node of the unit graph: a primary unit that no variant chain or ladder names (R194). -/
def graphNode (us : List UnitEntry) (u : Nat) : Bool :=
  match us[u]? with
  | some x => x.rung == 0 && !(us.any fun y => y.variantNext == some u)
  | none => false

/-- A generation job may begin no further decode step in the Stroke (R93). -/
def State.decodeSpent (s : State) (j : Job) : Bool :=
  j.decoding && j.unitsDone.isEmpty && j.placed.isEmpty && s.sched.decodePerStroke ≤ j.decoded

/-- A unit may be placed: a node whose predecessors have completed, not yet run, and not placed but for a saved part
(R194). -/
def State.placeable (s : State) (j : Job) (u : Nat) : Bool :=
  j.active && !s.decodeSpent j && !j.unitsDone.contains u &&
    ((s.unplacedPart j u).isSome || !(j.placed.any fun p => p.unit == u)) &&
    match j.kind with
    | .query | .objGet _ => false
    | .operator op =>
      if benchOp op then u < 512
      else
        match s.jobIngot j with
        | none => j.ingot == 0 && u == 0
        | some g => graphNode g.units u && (match g.units[u]? with
          | some x => x.preds.all j.unitsDone.contains
          | none => false)

/-- No unit of class c, or of a class above it, runs on an Engine. -/
def State.freeFor (s : State) (e : EngineId) (c : Nat) : Bool :=
  match s.engines[e].job with
  | none => true
  | some (k, _) => match s.job k with
    | some j => j.workCls > c
    | none => true

/-- A declared pinned set fits a Quarter (R186). -/
def State.pinsFit (s : State) (q : QuarterId) (pinned : Nat) : Bool := 2 * pinned ≤ s.cache[q].hotLimit

/-- Stacked granules that hold data of a unit: the STAGED copies of its segments, KV pages and scratch of its job. -/
def State.unitGranules (s : State) (j : Job) (x : UnitEntry) : List Nat :=
  let mine (o : CacheObj) : Bool := o.id.ingot.toNat == j.ingot &&
    (o.id.segment == x.codeSegment || (x.firstSegment ≤ o.id.segment && o.id.segment < x.firstSegment + x.segmentSpan))
  (s.cache.toList.flatMap fun c => (c.objs.filter mine).flatMap fun o => o.stagedAt.map fun p => p.2) ++ stackedOf j.scratch

/-- The stack that holds the most of a unit's data, the lower number on a tie (R19, R206). -/
def State.unitStack (s : State) (j : Job) (x : UnitEntry) : Option StackId :=
  let held (k : StackId) : Nat := ((s.unitGranules j x).filter fun g => stackOfGranule g == k).length
  match bestBy (fun a b => held b < held a) (List.finRange 24) with
  | some k => if held k == 0 then none else some k
  | none => none

/-- An Engine lies beside a stack where a unit names one. -/
def besideStack (e : EngineId) (k : Option StackId) : Bool := k.any fun k => quarterOfStack k == quarterOfEngine e

/-- A unit of a job without an Ingot: any mode, nothing pinned. -/
def plainUnit : UnitEntry :=
  { kind := 1, mode := 2, splittable := false, inPlace := false, fmtDefault := false, rung := 0, aFmt := 0, bFmt := 0,
    outliers := 0, codeSegment := 0, firstSegment := 0, segmentSpan := 0, nonpreUs := 0, pinned := 0, worstUs := 0,
    preds := [], wider := none, variantNext := none }

/-- Sterling data reaches a job's units. -/
def Job.sterlingData (j : Job) : Bool := j.coll.isSome || !j.items.isEmpty

def State.jobSigned (s : State) (j : Job) : Bool :=
  match s.jobIngot j with
  | some g => g.signed
  | none => true

/-- Engines a unit may be placed on, before its mask. -/
def State.unitEngines (s : State) (m : Mold) (h : Shop) (j : Job) (x : UnitEntry) : List EngineId :=
  (s.jobEngines m h 0 false j.sterlingData (s.jobSigned j)).filter fun e =>
    s.engines[e].state != .off && !s.drains e && (x.mode > 1 || s.engines[e].broadcast == (x.mode == 1)) &&
      s.pinsFit (quarterOfEngine e) x.pinned && !s.heldFrom e j

/-- The Engines allowed by the mask, with the fallback of PLACE_STRICT = 0. -/
def State.masked (s : State) (j : Job) (es : List EngineId) : List EngineId :=
  if j.placeMask == 0 then es
  else
    let inMask := es.filter fun e => bit j.placeMask.toNat (e.val / 12)
    if j.placeStrict || inMask.any (fun e => s.freeFor e j.workCls) then inMask else es

/-- The Engine of a unit by the keys of R206. -/
def State.pickEngine (s : State) (j : Job) (x : UnitEntry) (es : List EngineId) : Option EngineId :=
  let k := s.unitStack j x
  bestBy (fun a b =>
    let fa := s.freeFor a j.workCls
    let fb := s.freeFor b j.workCls
    (fa && !fb) || (fa == fb && besideStack a k && !besideStack b k)) es

/-- K indices of a group of the array's sums (R150). -/
def UnitEntry.group (x : UnitEntry) : Nat :=
  match formatPair x.aFmt x.bFmt with
  | some (_, .four) => 64
  | _ => 32

/-- The j-th of n contiguous parts of a layer's K (R155). -/
def partOf (k n j : Nat) : Part := { index := j, of_ := n, kFirst := j * (k / n), kCount := k / n }

/-- The Engines of a unit with their parts: a splittable unit takes 1, 2, 4 or 8 free Engines of one Quarter, K/s a whole
number of groups, s a free choice among those R155 allows. -/
def State.parts (s : State) (j : Job) (x : UnitEntry) (u : Nat) (es : List EngineId) (e : EngineId) :
    List (EngineId × Part) × State :=
  if x.splittable && s.freeFor e j.workCls then
    let k := Config.layerK j.ingot (j.runUnit u)
    let free := e :: es.filter fun f => f != e && s.freeFor f j.workCls && quarterOfEngine f == quarterOfEngine e
    let (w, s) := s.fresh
    let opts := [1, 2, 4, 8].filter fun n => n ≤ free.length && (n == 1 || k % (n * x.group) == 0)
    let n := opts.getD (w.toNat % opts.length) 1
    ((free.take n).zipIdx.map fun p => (p.1, partOf k n p.2), s)
  else ([(e, Part.whole)], s)

/-- The order of R436 puts another unit before the one that runs on an Engine. -/
def State.overtaken (s : State) (e : EngineId) : Bool :=
  match s.engines[e].job with
  | none => false
  | some (k, u) => match s.job k with
    | some j => ((s.chooseOn e.val ((j, u) :: s.waitingOn e)).map fun p => p.1.key) != some k
    | none => true

/-- A unit takes its place on an Engine: an idle one takes the next unit by the order of R436, one that runs work of a lower class
is pre-empted where that order puts another unit first, else the unit waits. -/
def State.placeOn (s : State) (e : EngineId) (k : Key) (cls u : Nat) (p : Part) (hinted : Bool) : State :=
  let s := s.modJob k fun j =>
    { j with placed := j.placed ++ [{ unit := u, engine := some e, bench := none, part := p, hinted := hinted }] }
  let s := s.chargeRun e
  if s.engines[e].state == .idle then s.startNext e
  else if s.freeFor e cls && s.overtaken e then s.preempt e (some k)
  else s

/-- Benches a unit of KIND 3 or a built-in operator may be placed on: Sterling ones that are not FAILED, as a Plate Bench
serves OBJ_PUT writes and OBJ_GET reads only (R41); a unit of a signed Ingot only (R197). -/
def State.unitBenches (s : State) (m : Mold) (h : Shop) (j : Job) : List BenchId :=
  let builtin := match j.kind with
    | .operator op => benchOp op
    | .query | .objGet _ => false
  h.benches.filter fun b =>
    s.benches[b].state != .failed && s.benches[b].state != .off && !s.drainsBench b &&
      m.benchSterling b && (s.jobSigned j || builtin)

def State.placeOnBench (s : State) (b : BenchId) (k : Key) (u : Nat) : State :=
  (s.modJob k fun j => { j with placed := j.placed ++
    [{ unit := u, engine := none, bench := some b, part := Part.whole, hinted := false }] }).startNextBench b

/-- A saved context of a part holds granules of Sterling stores, which no Plate Engine loads (R56). -/
def State.ctxSterling (s : State) (k : Key) (u : Nat) (p : Part) : Bool :=
  match s.savedAt k u p.index with
  | some i => (s.savedCtx i k u p.index).any SavedCtx.sterling
  | none => false

/-- A sequence of a Shop has a decode step to place, and an Engine that may take it (R93). -/
def State.decodeDue (s : State) (m : Mold) (h : Shop) : Bool :=
  s.sched.jobs.any fun d => d.shop == h.id && d.decoding && (match s.jobIngot d with
    | some g => g.units.zipIdx.any fun p => s.placeable d p.2 && (s.unitEngines m h d p.1).any fun e => s.freeFor e d.workCls
    | none => false)

/-- A unit's hint takes it away from the Quarter beside its data: without it the unit would lie there (R19). -/
def State.hintMoves (s : State) (m : Mold) (h : Shop) (j : Job) (x : UnitEntry) (e : EngineId) : Bool :=
  let k := s.unitStack j x
  j.placeMask != 0 && !besideStack e k && ((s.pickEngine j x (s.unitEngines m h j x)).any fun f => besideStack f k)

/-- A unit is placed (R206); of a generation job, prefill after the decode steps of the Stroke (R93). -/
def doUnitPlacement (k : Key) (u : Nat) (s : State) : State :=
  match s.theMold, s.job k with
  | some m, some j =>
    match m.shop j.shop with
    | none => s
    | some h =>
      if !s.placeable j u || (j.prefilling && s.decodeDue m h) then s
      else
        let x := (s.unitEntry j u).getD plainUnit
        let builtin := match j.kind with
          | .operator op => benchOp op
          | .query | .objGet _ => false
        if builtin then
          match (s.unitBenches m h j).find? fun b => b.val == u with
          | some b => s.placeOnBench b k u
          | none => s
        else if x.kind == 3 then
          match leastBy (fun b => if s.benches[b].job.isNone then 0 else 1) (s.unitBenches m h j) with
          | some b => s.placeOnBench b k u
          | none => s
        else if !(h.engines.any fun e => s.pinsFit (quarterOfEngine e) x.pinned) then s.faultJob k scCacheFull .scheduler
        else
          let saved := s.unplacedPart j u
          let may (e : EngineId) : Bool := s.engines[e].sterling || !(saved.any (s.ctxSterling k u))
          let es := (s.masked j (s.unitEngines m h j x)).filter may
          match s.pickEngine j x es with
          | none => s
          | some e =>
            let hinted := s.hintMoves m h j x e
            let s := if j.decoding && j.unitsDone.isEmpty && j.placed.isEmpty && saved.isNone then
                s.modJob k fun j => { j with decoded := j.decoded + 1 }
              else s
            match saved with
            | some p => s.placeOn e k j.workCls u p hinted
            | none =>
              let (ps, s) := s.parts j x u es e
              ps.foldl (fun s p => s.placeOn p.1 k j.workCls u p.2 hinted) s
  | _, _ => s

def execUnitPlacement (k : Key) (unit : Nat) (s : State) : Out := .next (doUnitPlacement k unit s)

/-! ### Switches (R87 to R89, R117, R118) -/

/-- The job that ENGINE_PREEMPT makes room for: the one that runs there next (R436). -/
def State.nextThere (s : State) (e : EngineId) : Option Key := (s.chooseOn e.val (s.waitingOn e)).map fun p => p.1.key

def execEnginePreempt (e : EngineId) (s : State) : Out := .next (s.preempt e (s.nextThere e))

/-- A save ends: the context is kept, or discarded where a Quench stops its job (R26, R91), and the Engine takes the next unit
or is idle. What was issued before the pre-emption,
and an open sample, complete first (R118, R167). -/
def doContextSaveDone (e : EngineId) (s : State) : State :=
  if s.engines[e].state != .saving || !s.engines[e].quiet then s
  else
    let us := s.clockUs - s.engines[e].switchUs
    let s := (s.chargeRun e).modEngine e fun x => { x with lastSave := min us 65535 }
    (match s.engines[e].job with
     | some (k, _) => if s.quenchingJob k then s.modEngine e (Engine.dropJob k) else s.saveEngine e
     | none => s).startNext e

def execContextSaveDone (e : EngineId) (s : State) : Out := .next (doContextSaveDone e s)

/-- A context is loaded and the Engine runs; a drain or a pre-emption that waited for the load takes place. -/
def doContextRestoreDone (e : EngineId) (s : State) : State :=
  match s.engines[e].state, s.engines[e].job with
  | .restoring, some _ =>
    let us := s.clockUs - s.engines[e].switchUs
    ((s.chargeRun e).modEngine e fun x => { x with state := .running, lastLoad := min us 65535 }).retryPreempt e
  | _, _ => s

def execContextRestoreDone (e : EngineId) (s : State) : Out := .next (doContextRestoreDone e s)

/-- A Bench pre-empts its operator job: the state is saved and the job suspended; each switch is counted. An operator that
holds a semaphore which the job to run next needs runs to its release point (R88). -/
def doBenchPreempt (b : BenchId) (s : State) : State :=
  match s.benches[b].job with
  | none => s
  | some k =>
    if s.semBlocked (some k) ((s.chooseOn (benchRes b) (s.waitingOnBench b)).map fun p => p.1.key) then s
    else
    (s.drainBench b).startNextBench b

def execBenchPreempt (b : BenchId) (s : State) : Out := .next (doBenchPreempt b s)

/-! ### Split units (R156) -/

/-- Sum of two partial values: saturating INT32, or FP32 rounded once; and whether it sets the flag. -/
def partSum (int : Bool) (a b : Word32) : Word32 × Bool :=
  if int then
    let v := a.toInt + b.toInt
    let c := max (-(2 ^ 31)) (min (2 ^ 31 - 1) v)
    (BitVec.ofInt 32 c, c != v)
  else
    let r := (f32add a b).1
    (r, !(f32v r).finite && (f32v a).finite && (f32v b).finite)

/-- One level of the pairwise tree. -/
def partPairs (int : Bool) : List (Word32 × Bool) → List (Word32 × Bool)
  | a :: b :: rest =>
    let r := partSum int a.1 b.1
    (r.1, r.2 || a.2 || b.2) :: partPairs int rest
  | l => l

/-- Scoreboard units of the tiles that parts have written. -/
def State.partTiles (s : State) (es : List EngineId) : List Nat :=
  es.foldl (fun l x => s.engines[x].ctx.tiles.foldl insertNew l) []

/-- The first uncorrectable word that the combination would read. -/
def State.partsUe (s : State) (es : List EngineId) : Option TierAddr :=
  (es.flatMap fun x => (s.partTiles es).filterMap fun u => s.poisonIn { space := .acc x, off := 16384 * u } 16384).head?

/-- The combined value of one word of the parts' tiles, and whether it sets the flag. -/
def State.partWord (s : State) (int : Bool) (es : List EngineId) (a : Nat) : Word32 × Bool :=
  let vs := es.map fun x => (BitVec.ofNat 32 (unle (s.engines[x].ctx.acc.readBytes a 4)), false)
  (partPairs int (partPairs int (partPairs int vs))).headD (0, false)

/-- The partial tiles of a split unit combine in part order into the accumulator store of part 0. The stores of the other parts
keep their partial tiles, and the flag of a combination names part 0's next word (DESIGN CHOICE, log 172). -/
def State.combineParts (s : State) (int : Bool) : List EngineId → State
  | [] => s
  | [_] => s
  | e :: es =>
    let tile (t : State) (u : Nat) : State :=
      let ws := (List.range 4096).map fun i => s.partWord int (e :: es) (16384 * u + 4 * i)
      let t := t.writeAt { space := .acc e, off := 16384 * u } (ws.flatMap fun w => le 4 w.1.toNat)
      t.modEngine e fun x => { x with
        ctx := x.ctx.flagBy (if int then causeIntSat else causeAccInf) (ws.filter fun w => w.2).length x.ctx.pc }
    (s.partTiles (e :: es)).foldl tile s

end Sys2Proof.Machine
end

