-- ==== Sys2Proof/Machine/IngestOps.lean ====
section
/-! DEFINITION. Ingest: reading an object (R249, R251 to R259), token batches (R260), the choice of a list (R217), and the
append of records with marks and tails (R215, R229 to R232, R243). -/

namespace Sys2Proof.Machine

/-! ### The envelope opened (R249, R253) -/

/-- The data key of an envelope under its Collection key. -/
def unwrapKey (env : List Byte) (key : BitVec 256) : Option (BitVec 256) :=
  (Config.gcmOpen key (fieldBytes env 48 12) (env.take 48) (fieldBytes env 64 32) (fieldBytes env 96 16)).map fun p =>
    BitVec.ofNat 256 (unle (p.take 32))

/-- Plaintext of chunk i. -/
def openChunk (env : List Byte) (key : BitVec 256) (i : Nat) : Option (List Byte) :=
  let count := field env 16 4
  let at_ := 128 + 65552 * i
  let n := min 65536 (field env 8 8 - 65536 * i)
  Config.gcmOpen key (fieldBytes env 32 8 ++ le 4 i) (env.take 48 ++ le 4 i ++ le 1 (b2n (i + 1 == count)))
    (fieldBytes env at_ n) (fieldBytes env (at_ + n) 16)

/-- Chunks from a number on, in order, up to the first that fails; `stopAt` is the first chunk with a lost byte. -/
def openChunks (env : List Byte) (key : BitVec 256) (stopAt : Option Nat) : Nat → Nat → List Byte × Nat
  | 0, _ => ([], rrNone)
  | n + 1, i =>
    if stopAt == some i then ([], rrMedia)
    else
      match openChunk env key i with
      | none => ([], rrAuth)
      | some p =>
        let r := openChunks env key stopAt n (i + 1)
        (p ++ r.1, r.2)

/-- The payload read, and the reason it ends early. -/
def openEnvelope (env : List Byte) (key : BitVec 256) (lost : Option Nat) : List Byte × Nat :=
  match lost with
  | some x =>
    if x < 128 then ([], rrMedia)
    else
      match unwrapKey env key with
      | none => ([], rrWrap)
      | some k => openChunks env k (some ((x - 128) / 65552)) (field env 16 4) 0
  | none =>
    match unwrapKey env key with
    | none => ([], rrWrap)
    | some k => openChunks env k none (field env 16 4) 0

/-! ### From payload to passages (R253 to R259) -/

/-- What the reading of an object comes to. -/
structure Reading where
  passages : List Passage
  stop : Nat
  content : Option (List Byte)
  skipped : Nat
  fields : List ((Nat × List Byte) × List Byte)
  textBytes : Nat
  tokens : Nat
  /-- a chunk has been verified -/
  begun : Bool
  deriving DecidableEq, Repr

/-- A reading that yields no passage. -/
def Reading.none_ (reason : Nat) (content : Option (List Byte)) : Reading :=
  { passages := [], stop := reason, content := content, skipped := 0, fields := [], textBytes := 0, tokens := 0, begun := false }

/-- Why a walk has yielded no text: every text exceeded the replacement limit, or there was none (Table 10-5). -/
def Gathered.whyEmpty (g : Gathered) : Nat := if g.broken != 0 && g.texts == 0 then rrEncoding else rrFormat

/-- The text of a payload cut into passages; `stop` is a reason that ended the payload early, and then a passage that the
missing rest would have completed is not cut. -/
def cutText (tok : Nat × Nat) (per : Nat) (plain : Bool) (declared : Nat) (payload : List Byte) (stop : Nat) (content : Option (List Byte))
    (ds : List FieldDesc) : Reading :=
  let g := extractText (if declared == 0 then contentType none payload else declared) payload
  let fields := ds.filterMap fun d => (g.value d).map fun v => ((d.kind, d.name), v)
  let all := tokensOf tok g.text
  let toks := all.take (2 ^ 32 - 1)
  let stop := if stop == 0 && (g.full || toks.length < all.length) then rrLimit else stop
  let count := if stop == 0 then cdiv toks.length per else toks.length / per
  { passages := (List.range count).map (passageOf tok.1 plain payload g.text toks per)
    stop := if stop == 0 && count == 0 then g.whyEmpty else stop
    content := content, skipped := g.skipped, fields := fields, textBytes := g.text.length, tokens := toks.length
    begun := true }

/-- Steps 2 to 6 of Table 10-4 on an object. -/
def openObject (env : List Byte) (key : BitVec 256) (lost : Option Nat) (tok : Nat × Nat) (per : Nat) (ds : List FieldDesc) :
    Reading :=
  let (cipher, stop) := openEnvelope env key lost
  if cipher.isEmpty then Reading.none_ stop none
  else
    let (p, whole) := decompress (field env 6 1) cipher
    let limit := min 274877906944 (1024 * field env 8 8)
    let content := if stop == 0 && whole && p.length ≤ limit then some (Config.shake256 p 32) else none
    if stop == 0 && p.length ≤ limit && !whole then Reading.none_ rrFormat none
    else if p.length > limit then
      cutText tok per (field env 6 1 == 0) (field env 7 1) (p.take limit) rrLimit none ds
    else cutText tok per (field env 6 1 == 0) (field env 7 1) p stop content ds

/-- The reading of an object under the Mold in force; none where its key or Collection is not at hand. -/
def State.readObject (s : State) (o : Obj) : Option Reading :=
  match s.theMold, s.coll o.coll with
  | some m, some c =>
    match m.coll o.coll, s.sec.keys.find? fun k => k.1 == c.label with
    | some e, some key =>
      let ds := match m.schemas.find? fun x => x.id == e.schema with
        | some x => x.fields
        | none => []
      some (openObject o.envelope key.2 o.lost (s.tokeniser e.embedIngot) e.passageTokens ds)
    | _, _ => none
  | _, _ => none

/-- The text of an object under its key, with the embedding Ingot and the tokens of a passage; none where it is not at
hand. -/
def State.textOf (s : State) (o : Obj) : Option (Nat × Nat × List Byte) :=
  match s.theMold, s.coll o.coll with
  | some m, some c =>
    match m.coll o.coll, s.sec.keys.find? fun k => k.1 == c.label with
    | some e, some key =>
      let p := (decompress (field o.envelope 6 1) (openEnvelope o.envelope key.2 o.lost).1).1
      let kind := field o.envelope 7 1
      let text := (extractText (if kind == 0 then contentType none p else kind) p).text
      if text.isEmpty then none else some (e.embedIngot, e.passageTokens, text)
    | _, _ => none
  | _, _ => none

/-- The text of one passage of an object: as it was cut, or, where the object has not been read, as the Mold in force has it
cut (R258). -/
def State.passageTextOf (s : State) (o : Obj) (p : Nat) : Option (List Byte) :=
  (s.textOf o).map fun t =>
    let toks := tokensOf (s.tokeniser t.1) t.2.2
    let before := if o.passages.isEmpty then t.2.1 * p else ((o.passages.take p).map Passage.tokens).sum
    let n := if o.passages.isEmpty then t.2.1 else (o.passages.map Passage.tokens).getD p 0
    tokenBytes t.2.2 toks before n

/-! ### OBJECT_READ_START (R251) -/

/-- INGEST_SHOP of a Collection under the Mold in force, 0 where it declares none. -/
def State.ingestShopOf (s : State) (coll : Nat) : Nat :=
  match s.theMold.bind fun m => m.coll coll with
  | some c => c.ingestShop
  | none => 0

/-- A Bench takes the first object of its queue: deferred where a condition fails, else read. Reading is work of class C2, which
starts when its turn comes (R436) and the object map may become dirty (R176), on no Bench that a Recast drains (R61); benchUs, the Bench's time for steps 2 to 8, is charged to the INGEST_SHOP (R28, R251). -/
def doObjectReadStart (b : BenchId) (benchUs : Nat) (s : State) : State :=
  if s.benches[b].reading.isSome || !s.benchOk b || s.benches[b].state == .off || !s.benchReady b || s.benchKept b || s.drainsBench b ||
      !s.workMay 2 (benchRes b) (s.readyOnBench b) then s
  else
    match s.search.objs.find? fun o => o.bench == b && o.state == .pending && o.deleted.isNone with
    | none => s
    | some o =>
      let why := s.readBlocked o
      let q := quarterOfBench b
      let g := objectMapGranule o.id
      if !s.canDirty q g 5 then (s.dirtyThrough q g 5).1
      else if why != 0 then
        ((s.modObj o.id fun o => { o with state := .deferred, reason := why }).dirtyMap b o.id).warnBlocked o why
      else
        match s.readObject o with
        | none => s
        | some r =>
          let s := s.chargeWork 2 (s.ingestShopOf o.coll) (benchRes b) benchUs
          let s := (s.modFlash b fun f => f.release fun x => x.kind == 2 && x.content == o.id).recountUsed b
          let s := s.modObj o.id fun o =>
            { o with
              state := .reading, reason := 0, stop := r.stop, handed := o.appended, passages := r.passages
              notIndexed := 0, membersSkipped := r.skipped, fields := r.fields
              contentHash := match r.content with
                | some h => some h
                | none => o.contentHash }
          let s := s.modBench b fun x =>
            let x := { x with reading := some o.id }
            if x.countEn then
              { x with textBytes := satAdd 64 x.textBytes r.textBytes, tokens := satAdd 64 x.tokens r.tokens }
            else x
          if r.passages.isEmpty then s.endReading o.id (if r.stop == rrAuth && r.begun then .partRead else .notRead) r.stop
          else s.dirtyMap b o.id

def execObjectReadStart (b : Timed BenchId) (s : State) : Out := .next (doObjectReadStart b.what b.us s)

/-- An object all of whose passages are appended or counted leaves READING. -/
def State.settleReading (s : State) (i : Nat) : State :=
  match s.obj i with
  | none => s
  | some o =>
    if o.state == .reading && o.passages.length ≤ o.appended.length + o.notIndexed then
      s.endReading i (if o.stop == 0 then .indexed else .partRead) o.stop
    else s

/-- A passage is not inserted: counted against its object and its Collection (R147, R217). -/
def State.notInserted (s : State) (i : Nat) : State :=
  match s.obj i with
  | none => s
  | some o =>
    let s := s.modObj i fun o => { o with notIndexed := o.notIndexed + 1 }
    (s.modColl o.coll fun c => { c with notIndexed := satAdd 32 c.notIndexed 1 }).settleReading i

/-! ### Token batches (R260) -/

/-- The head of a token batch: 64 entries of OBJECT_ID, PASSAGE and token count. -/
def Batch.head (x : Batch) : List Byte :=
  padTo 1024 (x.entries.flatMap fun e => le 8 e.1 ++ le 4 e.2.1 ++ le 4 e.2.2)

/-- The token identifiers of a passage. -/
def State.passageTokens (s : State) (e : Nat × Nat × Nat) : List Nat :=
  match (s.obj e.1).bind fun o => (s.textOf o).map fun t => (o, t) with
  | some (o, t) =>
    let before := ((o.passages.take e.2.1).map Passage.tokens).sum
    (((tokensOf (s.tokeniser t.1) t.2.2).drop before).take e.2.2).map fun p => p.1
  | none => []

/-- A token batch as its Bench keeps and sends it: the head, then the tokens as 32-bit identifiers. -/
def State.batchBytes (s : State) (x : Batch) : List Byte :=
  x.head ++ (x.entries.flatMap s.passageTokens).flatMap fun v => le 4 v

/-- Every entry is a passage, not handed off before, of an object that the Bench reads. -/
def State.entriesOk (s : State) (b : BenchId) (es : List (Nat × Nat × Nat)) : Bool :=
  !es.isEmpty && es.length ≤ 64 && (es.map fun e => e.2.2).sum ≤ 8192 && (es.map fun e => (e.1, e.2.1)).Nodup &&
    es.all fun e => match s.obj e.1 with
      | some o => s.benches[b].reading == some o.id && o.state == .reading && !o.handed.contains e.2.1 &&
          (o.passages.map Passage.tokens)[e.2.1]? == some e.2.2
      | none => false

/-- Engines that a Bench may hand a batch of a Collection to: of its INGEST_SHOP, those of its own Quarter first; none unless
its Ingot is READY and signed (R197, R199). -/
def State.batchEngines (s : State) (b : BenchId) (coll : Nat) : List EngineId :=
  match s.theMold with
  | none => []
  | some m =>
    match m.coll coll with
    | none => []
    | some e =>
      match m.shop e.ingestShop with
      | none => []
      | some h =>
        if s.search.embedOff.contains coll || !s.embedReady e.embedIngot then []
        else
        let es := (s.sterlingEngines m h).filter fun e => s.engines[e].state != .off && !s.drains e
        let own := es.filter fun e => quarterOfEngine e == quarterOfBench b
        if own.isEmpty then es else own

/-- Units that run on an Engine or wait for it. -/
def State.readyOnEngine (s : State) (e : EngineId) : List (Job × Nat) :=
  ((s.engines[e].job.bind fun p => (s.job p.1).map fun j => (j, p.2))).toList ++ s.waitingOn e

/-- A batch goes to an Engine when the turn of class C2 has come there (R28, R436): one whose work faulted again, or a new one
while fewer than seven are outstanding. -/
def doTokenBatchHandoff (b : BenchId) (e : EngineId) (es : List (Nat × Nat × Nat)) (s : State) : State :=
  let coll : Nat := match es.head? with
    | some x => match s.obj x.1 with
      | some o => o.coll
      | none => 4096
    | none => 4096
  if !s.benchReady b || !(s.batchEngines b coll).contains e || !s.workMay 2 e.val (s.readyOnEngine e) then s
  else if s.benches[b].batches.any fun x => x.entries == es && x.engine.isNone then
    s.modBench b fun x =>
      { x with batches := updFirst x.batches (fun y => y.entries == es && y.engine.isNone) fun y => { y with engine := some e } }
  else if s.benches[b].batches.length ≥ 7 || !s.entriesOk b es then s
  else
    let now := s.clockUs
    let give (s : State) (x : Nat × Nat × Nat) : State := s.modObj x.1 fun o => { o with handed := o.handed ++ [x.2.1] }
    let s := es.foldl give s
    s.modBench b fun x =>
      let x := { x with batches := x.batches ++ [({ entries := es, engine := some e } : Batch)] }
      let x := if x.batches.length ≥ 7 then { x with stalledAt := some now } else x
      if x.countEn then { x with passages := satAdd 64 x.passages es.length } else x

def execTokenBatchHandoff (b : BenchId) (e : EngineId) (entries : List (Nat × Nat × Nat)) (s : State) : Out :=
  .next (doTokenBatchHandoff b e entries s)

/-! ### The list of a record (R217) -/

/-- Records of the module: the sum of every COUNT. -/
def State.totalRecords (s : State) : Nat := (s.search.lists.map fun l => l.records.length).sum

/-- A list that can take a record: present and below 2^32 - 1. -/
def State.listTakes (s : State) (n : Nat) : Bool :=
  match s.lst n with
  | some l => l.records.length < 2 ^ 32 - 1
  | none => false

/-- The list a vector goes to: that of a walk with LISTS = 1, or the second of a walk with LISTS = 2 when the first is
full. -/
def State.chooseList (s : State) (c : Coll) (x : List F32) : Option Nat :=
  if s.totalRecords ≥ 2 ^ 36 then none
  else
    match (s.walkColl c x 1).head? with
    | none => none
    | some n =>
      if s.listTakes n then some n
      else
        match (s.walkColl c x 2)[1]? with
        | some n2 => if s.listTakes n2 then some n2 else none
        | none => none

/-- A Bench whose used blocks exceed its user blocks takes no record (R287). -/
def State.listRoom (s : State) (n : Nat) : Bool :=
  match s.lst n with
  | some l => s.flash[l.bench].usedBlocks ≤ s.flash[l.bench].userBlocks
  | none => false

/-- One vector of a batch becomes a record on its way, is dropped with its object, or is counted as not inserted. -/
def State.takeVector (s : State) (i p : Nat) (x : List F32) : State :=
  match s.liveObj i with
  | none => s
  | some o =>
    if o.appended.contains p then s
    else
      match s.coll o.coll with
      | none => s
      | some c =>
        match direction c.metric x with
        | none => s.notInserted i
        | some v =>
          match s.chooseList c v with
          | none => s.notInserted i
          | some n =>
            if !s.listRoom n then s.notInserted i
            else
              match encodeRecord c.recordClass c.cal.offsets c.cal.scales v i p with
              | none => s.notInserted i
              | some r => { s with search := { s.search with transit := s.search.transit ++ [(n, r)] } }

/-- The INGEST_SHOP of a batch: that of the Collection of its objects. -/
def State.batchShop (s : State) (x : Batch) : Nat :=
  match (x.entries.head?.bind fun e => s.obj e.1).map Obj.coll with
  | some c => s.ingestShopOf c
  | none => 0

/-- The vectors of the oldest batch at work return, and the batch leaves the buffer; the paused time is counted. The Engine's
time is charged as class C2 of the INGEST_SHOP (R28). -/
def doBatchVectorsReturn (b : BenchId) (engineUs : Nat) (vectors : List (List F32)) (s : State) : State :=
  match s.benches[b].batches.find? fun x => x.engine.isSome with
  | none => s
  | some x =>
    if vectors.length != x.entries.length || !s.benchReady b then s
    else
      let now := s.clockUs
      let s := match x.engine with
        | some e => s.chargeWork 2 (s.batchShop x) e.val engineUs
        | none => s
      let s := (x.entries.zip vectors).foldl (fun s p => s.takeVector p.1.1 p.1.2.1 p.2) s
      s.modBench b fun y => { (y.endStall now) with batches := removeFirst y.batches x }

def execBatchVectorsReturn (b : BenchId) (vectors : Timed (List (List F32))) (s : State) : Out :=
  .next (doBatchVectorsReturn b vectors.us vectors.what s)

/-! ### Tails (R215, R243) -/

/-- Streams of Table 9-3 that a record adds to. -/
def recStreams (wide esc : Bool) : List Nat := [0, if wide then 2 else 1, 3] ++ if esc then [4] else []

/-- The lowest free slot of the tail cache. -/
def freeTail (l : List Tail) : Option Nat := (List.range 48).find? fun n => !(l.any fun t => t.slot == n)

/-- The last tail of a granule has gone to flash: the granule is clean (R174). -/
def State.cleanTail (s : State) (b : BenchId) (old : Tail) (rest : List Tail) : State :=
  let g := tailGranule b old.slot
  if rest.any fun t => tailGranule b t.slot == g then s
  else { s with mem := { s.mem with dirty := s.mem.dirty.filter fun d => d.granule != g } }

/-- Bring one stream's tail into the cache: the least recently used tail is programmed and evicted when all 48 slots are
taken. None where no append page is left (R279). -/
def State.bringTail (s : State) (b : BenchId) (list stream : Nat) : Option State :=
  let ts := s.benches[b].tails
  match ts.find? fun t => t.list == list && t.stream == stream with
  | some t =>
    some (s.modBench b fun x => { x with tails := (x.tails.filter fun y => !(y.list == list && y.stream == stream)) ++ [t] })
  | none =>
    match freeTail ts with
    | some n => some (s.modBench b fun x => { x with tails := x.tails ++ [{ list := list, stream := stream, slot := n }] })
    | none =>
      match ts with
      | [] => none
      | old :: rest =>
        match s.flash[b].putSlc roleAppend s.search.epoch (s.tailPage old) with
        | none => none
        | some f =>
          let s := (s.modFlash b fun _ => f).cleanTail b old rest
          some ((s.modBench b fun x =>
            { x with
              tails := rest ++ [{ list := list, stream := stream, slot := old.slot }]
              tailRewrites := if x.countEn then satAdd 64 x.tailRewrites 1 else x.tailRewrites }).copyHome 0)

/-- All tails a record needs. -/
def State.bringTails (s : State) (b : BenchId) (list : Nat) : List Nat → Option State
  | [] => some s
  | st :: sts =>
    match s.bringTail b list st with
    | some s => State.bringTails s b list sts
    | none => none

/-- The tail granules of a record's streams take the write. -/
def State.dirtyTails (s : State) (b : BenchId) (list : Nat) : List Nat → State × Bool
  | [] => (s, true)
  | st :: sts =>
    match s.benches[b].tails.find? fun t => t.list == list && t.stream == st with
    | none => (s, false)
    | some t =>
      match s.dirtyThrough (quarterOfBench b) (tailGranule b t.slot) 1 with
      | (s, true) => State.dirtyTails s b list sts
      | (s, false) => (s, false)

/-! ### The append (R214, R229, R231, R232) -/

def markPool : Nat := 4194304

/-- A record as it is appended, stamped with the epoch. -/
def stamped (r : BatchRec) (e : Nat) : Rec :=
  { object := r.object, passage := r.passage, epoch := e, wide := r.wide, movedIn := false, code := r.code,
    body := r.body, escapes := r.escapes, norm2 := r.norm2, bodyIndex := 0, sideIndex := 0 }

/-- A record takes the next place of each stream of its list (R214). -/
def Lst.push (l : Lst) (r : Rec) : Lst :=
  let body := (l.records.filter fun x => x.wide == r.wide).length
  let side := (l.records.map fun x => x.escapes.length).sum
  { l with records := l.records ++ [{ r with bodyIndex := body, sideIndex := side }] }

/-- What an append attempt came to. -/
inductive Appended where
  | done | noMark | noBlock | waits
  deriving DecidableEq, Repr

/-- A record reaches its list's tails: the mark of the list's first append in the Stroke, the tails, the record stamped
with the published epoch + 1, and the counters. -/
def State.append (s : State) (l : Lst) (r : BatchRec) : State × Appended :=
  let first := l.records.length == l.countAt
  if first && s.search.marksUsed ≥ markPool then (s, .noMark)
  else
    let sts := recStreams r.wide !r.escapes.isEmpty
    match s.bringTails l.bench l.num sts with
    | none => (s, .noBlock)
    | some s1 =>
      match s1.dirtyTails l.bench l.num sts with
      | (s2, false) => (s2, .waits)
      | (s2, true) =>
        let (s3, written) := s2.dirtyThrough (quarterOfBench l.bench) (directoryGranule l.num) 4
        if !written then (s3, .waits)
        else
        let e := s.search.epoch + 1
        let s := s3.modList l.num fun l => { l.push (stamped r e) with lastEpoch := e }
        let s := { s with search := { s.search with marksUsed := s.search.marksUsed + b2n first } }
        let s := s.modObj r.object fun o => { o with appended := insertNew o.appended r.passage }
        let s := s.modBench l.bench fun x => if x.countEn then { x with recordsIn := satAdd 64 x.recordsIn 1 } else x
        (s.settleReading r.object, .done)

/-- A record that has nothing left to index: its object is deleted, or its passage is appended already. -/
def State.recordGone (s : State) (r : BatchRec) : Bool :=
  match s.liveObj r.object with
  | some o => o.appended.contains r.passage
  | none => true

/-- A list has retired: it takes no insert (R234). -/
def State.retired (s : State) (l : Lst) : Bool := l.retire.any fun e => e ≤ s.search.epoch

/-- A record whose list has retired before it was appended is made again from its passage. -/
def State.remake (s : State) (r : BatchRec) : State :=
  s.modObj r.object fun o => { o with handed := o.handed.filter fun p => p != r.passage }

/-- An append may go on at its list's Bench: the Bench works, and the turn of class C2 has come there (R28, R436, R438). -/
def State.appendMay (s : State) (b : BenchId) : Bool :=
  s.benchOk b && s.benchReady b && !s.benchKept b && !s.drainsBench b && s.workMay 2 (benchRes b) (s.readyOnBench b)

/-- A record whose list can hold no more when it arrives is not inserted (R217, R241, R287). -/
def State.mayHold (s : State) (n : Nat) : Bool := s.listTakes n && s.totalRecords < 2 ^ 36 && s.listRoom n

/-- The append now waits, for a mark or for something else; the first wait for a mark counts in MARK_STALLS (R232). -/
def State.appendWaits (s : State) (l : Lst) (r : BatchRec) (mark : Bool) : State × BatchRec :=
  (if mark && !r.markWait then s.modColl l.coll fun c => { c with markStalls := satAdd 32 c.markStalls 1 } else s,
    { r with markWait := mark })

/-- Record i on its way reaches its list's Bench; the Bench's time is charged as class C2 of the INGEST_SHOP (R28). -/
def doRecordAppend (i us : Nat) (s : State) : State :=
  match s.search.transit[i]? with
  | none => s
  | some (n, r) =>
    let gone := { s with search := { s.search with transit := s.search.transit.eraseIdx i } }
    let later (l : Lst) (mark : Bool) : State :=
      let (s, r) := gone.appendWaits l r mark
      { s with search := { s.search with appendWait := s.search.appendWait ++ [(n, r)] } }
    if s.recordGone r then gone
    else
      match s.lst n with
      | none => gone
      | some l =>
        if s.retired l then gone.remake r
        else if !s.appendMay l.bench then s
        else if !s.mayHold n then gone.notInserted r.object
        else
          match s.append l r with
          | (s, .done) =>
            ({ s with search := { s.search with transit := s.search.transit.eraseIdx i } }).chargeWork 2 (s.ingestShopOf l.coll)
              (benchRes l.bench) us
          | (s, .waits) => s
          | (_, .noBlock) => later l false
          | (_, .noMark) => later l true

def execRecordAppend (i : Timed Nat) (s : State) : Out := .next (doRecordAppend i.what i.us s)

/-- The oldest append that waits on a Bench goes on where it can, or is dropped with its object (R232). -/
def State.retryAppend (s : State) (b : BenchId) (us : Nat) : State :=
  let here (p : Nat × BatchRec) : Bool := match s.lst p.1 with
    | some l => l.bench == b
    | none => false
  match firstIndex here s.search.appendWait with
  | none => s
  | some i =>
    match s.search.appendWait[i]? with
    | none => s
    | some (n, r) =>
      let drop (s : State) : State := { s with search := { s.search with appendWait := s.search.appendWait.eraseIdx i } }
      if s.recordGone r then drop s
      else
        match s.lst n with
        | none => s
        | some l =>
          let stays (mark : Bool) : State :=
            let (s, r) := s.appendWaits l r mark
            { s with search := { s.search with appendWait := s.search.appendWait.set i (n, r) } }
          if s.retired l then (drop s).remake r
          else if !s.appendMay b then s
          else if !s.mayHold n then (drop s).notInserted r.object
          else
            match s.append l r with
            | (s, .done) => (drop s).chargeWork 2 (s.ingestShopOf l.coll) (benchRes b) us
            | (s, .waits) => s
            | (_, .noBlock) => stays false
            | (_, .noMark) => stays true

def execMarkWaitResume (b : Timed BenchId) (s : State) : Out := .next (s.retryAppend b.what b.us)

end Sys2Proof.Machine
end

