-- ==== Sys2Proof/Machine/SweepOps.lean ====
section
/-! DEFINITION. Queries from the end of their front work to the merge (R216, R222 to R226, R429), visibility (R230, R231),
and mend (R234 to R236). -/

namespace Sys2Proof.Machine

/-! ### Visibility (R230, R231) -/

/-- vis(q): the count of the newest mark at or below a snapshot. -/
def Lst.vis (l : Lst) (q : Nat) : Nat :=
  match l.marks.find? fun m => m.1 ≤ q with
  | some m => m.2
  | none => 0

/-- epoch(t): none while a token is unpublished or abandoned. -/
def State.tokenEpoch (s : State) (t : Nat) : Option Nat :=
  match s.search.tokens.find? fun x => x.num == t with
  | some x => if x.abandoned then none else x.epoch
  | none => none

/-- A visibility-log entry admits a snapshot. -/
def State.admits (s : State) (q : Nat) : LogKind → Bool
  | .delete e => q < e
  | .movedOut t => match s.tokenEpoch t with
    | some e => q < e
    | none => true
  | .movedIn t => match s.tokenEpoch t with
    | some e => e ≤ q
    | none => false

/-- Record i of a list is admitted by every entry of the log. -/
def State.admitted (s : State) (l : Lst) (q i : Nat) : Bool :=
  l.log.all fun e => e.record != i || s.admits q e.kind

/-- Eligible records of a list for a snapshot (R223). -/
def State.eligible (s : State) (l : Lst) (q : Nat) : List Nat :=
  (List.range (l.vis q)).filter fun i => i < l.records.length && s.admitted l q i

/-! ### Completion of what a job did -/

/-- A job's last merge is over: it waits for the gate in the order of merges (R342). -/
def State.toGate (s : State) (k : Key) : State :=
  let n := s.sched.merges
  let s := s.modJob k fun j => { j with state := .releasing, gateOrder := some n, placed := [] }
  { s with sched := { s.sched with merges := n + 1 } }

/-- A job ends with a status, its units stopped; it waits for the gate. -/
def State.endWith (s : State) (k : Key) (sc : Nat) : State :=
  let n := s.sched.merges
  let s := s.teardown k
  let s := s.modJob k fun j => { j with ending := some sc, gateOrder := some n }
  { s with sched := { s.sched with merges := n + 1 } }

/-- A query will complete with MEDIA_PARTIAL: counted in SCH_C0_UNBOUND for class 0 (R83, R226). -/
def State.markPartial (s : State) (k : Key) : State :=
  match s.job k with
  | none => s
  | some _ => (s.modJob k fun j => { j with partialMedia := true }).markUnbound k

/-! ### GRAPH_WALK_COMPLETE (R216, R219, R429) -/

/-- The query vector before normalisation: supplied, or the Ingot's output for the text. -/
def Job.rawVector (j : Job) : List F32 := if j.vector.isEmpty then Config.embed j.ingot j.input else j.vector

/-- A query's front work ends on its Engine: its vector, its lists, and the Engine is free again. A vector without a
direction ends the query with INVALID_FIELD. -/
def doGraphWalkComplete (k : Key) (us : Nat) (s : State) : State :=
  match s.job k with
  | none => s
  | some j =>
    match j.kind, j.front, j.coll with
    | .query, some e, some ci =>
      if j.walked || j.quenching || s.engines[e].job != some (k, frontUnit) || s.engines[e].state != .running then s
      else
        match s.coll ci with
        | none => s
        | some c =>
          let s := s.charge k e.val (us - s.engines[e].ctx.ran)
          let s := (s.modEngine e (Engine.dropJob k)).modJob k fun j => { j with placed := [] }
          let s := s.startNext e
          match direction c.metric j.rawVector with
          | none => s.endWith k scInvalidField
          | some q =>
            let ls := s.walkColl c q j.lists
            s.modJob k fun j => { j with vector := q, targets := ls, walked := true }
    | _, _, _ => s

def execGraphWalkComplete (k : Key) (us : Nat) (s : State) : Out := .next (doGraphWalkComplete k us s)

/-! ### The code phase (R75, R222, R223) -/

/-- Insert a distance with its record: smaller distance, then lower record. -/
def nearer (a b : Nat × Nat) : Bool := a.1 < b.1 || (a.1 == b.1 && a.2 < b.2)

/-- The records of smallest distance. -/
def keepNearest (d : Nat) (l : List (Nat × Nat)) : List Nat := ((sortBy nearer l).take d).map fun p => p.2

/-- The list that a sweep reads: on its old extents once a mend has switched (R235). -/
def State.sweepList (s : State) (w : Sweep) : Option Lst :=
  match w.old with
  | some l => some l
  | none => s.lst w.list

/-- What one query takes from a list: survivors, records compared, records below vis(q) that the log excluded. -/
def State.scan (s : State) (l : Lst) (offsets : List F32) (lost : List Nat) (j : Job) : List Nat × Nat × Nat :=
  let all := s.eligible l j.snapshot
  let seen := all.filter fun i => !lost.contains i
  let code := binCode j.vector offsets
  let far := seen.map fun i => (match l.records[i]? with
    | some r => hamming code r.code
    | none => 0, i)
  (keepNearest j.depth far, seen.length, min (l.vis j.snapshot) l.records.length - all.length)

/-- Part i of n equal parts of a time in whole µs: the parts add up to the time (log 120). -/
def equalPart (us n i : Nat) : Nat := us / n + b2n (i < us % n)

/-- The code phase of the first sweep that a Bench has not scanned, which is over the list named. Records on lost pages are
left out and every query of the sweep becomes partial (R226); the bench time is shared by the queries in equal parts. -/
def doCodePhase (list us : Nat) (lost : List Nat) (s : State) : State :=
  match (s.search.sweeps.find? fun w => w.list == list && !w.coded).bind s.sweepList with
  | none => s
  | some l =>
    match s.search.sweeps.find? fun w => w.bench == l.bench && !w.coded with
    | none => s
    | some w =>
      if w.list != list || !s.benchOk l.bench || !s.benchReady l.bench || s.drainsBench l.bench then s
      else
        let offsets := match s.coll l.coll with
          | some c => c.cal.offsets
          | none => []
        let found := w.queries.filterMap fun q => (s.job q).map fun j => (q, s.scan l offsets lost j)
        let w' := { w with
          coded := true, survivors := found.map fun p => (p.1, p.2.1), counts := found.map fun p => (p.1, p.2.2) }
        let s := { s with search := { s.search with sweeps := updFirst s.search.sweeps (· == w) fun _ => w' } }
        let part (s : State) (q : Key × Nat) : State :=
          let s := s.charge q.1 (benchRes l.bench) (equalPart us w.queries.length q.2)
          if lost.isEmpty then s else s.markPartial q.1
        let s := w.queries.zipIdx.foldl part s
        let pairs := (found.map fun p => p.2.2.1).sum
        s.modBench l.bench fun x =>
          if x.countEn then { x with sweeps := satAdd 64 x.sweeps 1, pairs := satAdd 64 x.pairs pairs } else x

def execCodePhaseComplete (list us : Nat) (lost : List Nat) (s : State) : Out := .next (doCodePhase list us lost s)

/-! ### The fetch phase (R224) -/

/-- Hits of a query among the survivors of a sweep that no lost page held. -/
def State.scoreSweep (s : State) (c : Coll) (j : Job) (lost : List (Nat × Nat)) (w : Sweep) : List Hit :=
  match s.sweepList w with
  | none => []
  | some l =>
    let code := binCode j.vector c.cal.offsets
    ((lookupD w.survivors j.key []).filter fun i => !lost.contains (w.list, i)).filterMap fun i =>
      (l.records[i]?).map fun r =>
        { object := r.object, passage := r.passage, score := score c.metric j.vector code c.cal.offsets c.cal.scales r }

/-- A query is done with a Bench: out of its sweeps there. -/
def State.leaveBench (s : State) (b : BenchId) (k : Key) : State :=
  let f (w : Sweep) : Sweep :=
    if w.bench == b then
      { w with queries := w.queries.filter fun q => q != k, survivors := w.survivors.filter fun q => q.1 != k
               counts := w.counts.filter fun q => q.1 != k }
    else w
  { s with search := { s.search with sweeps := (s.search.sweeps.map f).filter fun w => !w.queries.isEmpty } }

/-- The fetch phase of a query ends on a Bench once every list it visits there is scanned: the K best hits join the
query's. -/
def doFetchPhase (b : BenchId) (k : Key) (us : Nat) (lost : List (Nat × Nat)) (s : State) : State :=
  match s.job k with
  | none => s
  | some j =>
    let ws := s.search.sweeps.filter fun w => w.bench == b && w.queries.contains k
    if j.quenching || !j.benchesLeft.contains b || ws.any (fun w => !w.coded) || !s.benchOk b || !s.benchReady b ||
        s.drainsBench b then s
    else
      match j.coll with
      | none => s
      | some ci =>
        match s.coll ci with
        | none => s
        | some c =>
          let hits := bestHits c.metric j.k (ws.flatMap (s.scoreSweep c j lost))
          let counts := ws.map fun w => lookupD w.counts k (0, 0)
          let hitLost := ws.any fun w => (lookupD w.survivors k []).any fun i => lost.contains (w.list, i)
          let s := s.charge k (benchRes b) us
          let s := if hitLost then s.markPartial k else s
          let s := s.modJob k fun j =>
            { j with
              hits := j.hits ++ hits, candidates := j.candidates + (counts.map fun p => p.1).sum
              skipped := j.skipped + (counts.map fun p => p.2).sum
              benchesLeft := j.benchesLeft.filter fun x => x != b, benchesDone := insertNew j.benchesDone b }
          s.leaveBench b k

def execFetchPhaseComplete (b : BenchId) (k : Key) (us : Nat) (lost : List (Nat × Nat)) (s : State) : Out :=
  .next (doFetchPhase b k us lost s)

/-! ### HIT_MERGE (R225) -/

/-- The hits of a query, or of an operator, in the order of R220, K at most. -/
def State.mergeHits (s : State) (j : Job) : List Hit :=
  let metric := match j.coll with
    | some c => match s.coll c with
      | some x => x.metric
      | none => 1
    | none => 1
  bestHits metric j.k j.hits

/-- Every Bench is done: the hit sets merge and the answer waits for the gate. -/
def doHitMerge (k : Key) (s : State) : State :=
  match s.job k with
  | none => s
  | some j =>
    if j.kind == .query && j.walked && !j.quenching && j.benchesLeft.isEmpty && (j.targets.isEmpty || j.sweepAt.isSome) &&
        j.active then
      let hits := s.mergeHits j
      let sc := if j.partialMedia then some scMediaPartial else none
      (s.modJob k fun j => { j with hits := hits, ending := sc }).toGate k
    else s

def execHitMerge (k : Key) (s : State) : Out := .next (doHitMerge k s)

/-- A Bench's lists are left out of what queries visit there (R226, R247, R248). -/
def State.leaveOut (s : State) (b : BenchId) : State :=
  let ks := (s.sched.jobs.filter fun j => j.benchesLeft.contains b).map Job.key
  let one (s : State) (k : Key) : State :=
    ((s.markPartial k).modJob k fun j => { j with benchesLeft := j.benchesLeft.filter fun x => x != b }).leaveBench b k
  ks.foldl one s

/-! ### Mend (R234 to R236) -/

/-- MEND_START: a list past the threshold is copied; the switch follows at a boundary. -/
def doMendStart (n : Nat) (s : State) : State :=
  match s.lst n with
  | none => s
  | some l =>
    if !l.mending && l.marked != 0 && (l.records.length ≤ 8 * l.marked || 4096 ≤ l.marked) && s.benchOk l.bench &&
        !s.benchKept l.bench then
      s.modList n fun l => { l with mending := true, mended := true }
    else s

def execMendStart (list : Nat) (s : State) : Out := .next (doMendStart list s)

/-- A record is dead: no snapshot at or after the floor can see it (R235). -/
def State.dead (s : State) (floor : Nat) (l : Lst) (i : Nat) : Bool :=
  l.log.any fun e => e.record == i &&
    match e.kind with
    | .delete x => x ≤ floor
    | .movedOut t => match s.tokenEpoch t with
      | some x => x ≤ floor
      | none => false
    | .movedIn t => s.search.tokens.any fun x => x.num == t && x.abandoned

/-- The switch of a mended list: live records in order, entries renumbered, marks rebased. A movedIn entry whose token has
been published is kept with its record. -/
def State.mendSwitch (s : State) (floor : Nat) (l : Lst) : Lst :=
  let gone := (List.range l.records.length).filter (s.dead floor l)
  let below (n : Nat) : Nat := (gone.filter fun i => i < n).length
  let kept := (l.records.zipIdx.filter fun p => !gone.contains p.2).map fun p => p.1
  { l with
    records := (kept.foldl Lst.push { l with records := [] }).records
    log := (l.log.filter fun e => !gone.contains e.record).map fun e => { e with record := e.record - below e.record }
    marks := l.marks.map fun m => (m.1, m.2 - below m.2), countAt := l.countAt - below l.countAt
    pages := [], mending := false, mended := false, mendGen := (l.mendGen + 1) % 256 }

/-- Bytes of a stream of a list (Table 9-4). -/
def Lst.streamBytes (l : Lst) (dims stream : Nat) : Nat :=
  match stream with
  | 0 => l.records.length * (dims / 8)
  | 1 => (l.records.filter fun r => !r.wide).length * dims
  | 2 => (l.records.filter Rec.wide).length * (2 * dims)
  | 3 => l.records.length * 32
  | _ => ((l.records.map fun r => r.escapes.length).sum) * 2

/-- The full pages of a list's streams, as a mend writes them anew. -/
def Lst.fullPages (l : Lst) (dims : Nat) : List (Nat × Nat) :=
  ([0, 1, 2, 3, 4].map fun st => (st, l.streamBytes dims st / 16384)).filter fun p => p.2 != 0

/-! ### Extents and the List Directory (R212, R213, R270, Tables 9-2, 9-3 and 11-4) -/

/-- An extent: a run of pages of one stream. -/
structure Extent where
  pageAddr : Nat
  pages : Nat
  stream : Nat
  streamPage : Nat
  deriving DecidableEq, Repr

/-- The stripe a page lies in, where its slot is that of its stream position: the page has FORM 1. -/
def Flash.stripeOf (f : Flash) (x : PageIdent) : Option Stripe :=
  if x.page.blk.die == slotDie x.index && x.page.blk.plane == slotPlane x.index then
    f.stripes.find? fun t => t.blocks.contains x.page.blk
  else none

/-- PAGE_ADDR of a page (Table 11-4). -/
def Flash.pageAddr (f : Flash) (x : PageIdent) : Nat :=
  match f.stripeOf x with
  | some t => x.page.row + 2 ^ 11 * t.num + 2 ^ 24
  | none => x.page.row + 2 ^ 11 * x.page.blk.block + 2 ^ 23 * b2n (f.blk x.page.blk).slc

/-- A page joins the extent before it where it follows on in the same stripe (R270), else it begins the next. -/
def Flash.joinExtent (f : Flash) (es : List Extent) (x : PageIdent) : List Extent :=
  let one : Extent := { pageAddr := f.pageAddr x, pages := 1, stream := x.stream, streamPage := x.index }
  match es with
  | e :: rest =>
    let follows := (f.stripeOf x).isSome && e.stream == x.stream && x.index == e.streamPage + e.pages && e.pages < 1024 &&
      f.pageAddr x == e.pageAddr + x.index / 32 - e.streamPage / 32
    if follows then { e with pages := e.pages + 1 } :: rest else one :: es
  | [] => [one]

/-- The extents of a list, in the order of its chain: stream by stream, by position. -/
def State.extents (s : State) (l : Lst) : List Extent :=
  let f := s.flash[l.bench]
  let before (x y : PageIdent) : Bool := x.stream < y.stream || (x.stream == y.stream && x.index < y.index)
  ((sortBy before (f.idents.filter fun x => x.kind == 1 && x.content == l.num)).foldl f.joinExtent []).reverse

/-- The extents by which the object map names an object's pages: envelope page and PAGE_ADDR (R270). -/
def State.objectExtents (s : State) (o : Obj) : List Extent :=
  let f := s.flash[o.bench]
  ((sortBy PageIdent.before (f.idents.filter fun x => x.kind == 0 && x.content == o.id)).foldl f.joinExtent []).reverse

/-- The first descriptor number of a list: the chains stand one after another in the order of the list numbers (log 148). -/
def State.chainStart (s : State) (n : Nat) : Nat :=
  ((s.search.lists.filter fun l => l.num < n).map fun l => (s.extents l).length).sum

/-- A link of a chain that ends with all ones. -/
def chainLink (present : Bool) (n : Nat) : Nat := if present then n else 0xFFFFFFFF

/-- The extent descriptors of a list (Table 9-3), from FIRST_EXTENT on. -/
def State.descriptors (s : State) (l : Lst) : List (Nat × List Byte) :=
  let es := s.extents l
  let at_ := s.chainStart l.num
  es.zipIdx.map fun p =>
    (at_ + p.2, le 4 (chainLink (p.2 + 1 < es.length) (at_ + p.2 + 1)) ++ le 4 p.1.pageAddr ++ le 2 p.1.pages ++ le 1 p.1.stream ++
      le 1 0 ++ le 4 p.1.streamPage)

/-- FIRST_EXTENT of a list. -/
def State.firstExtent (s : State) (l : Lst) : Nat := chainLink (!(s.extents l).isEmpty) (s.chainStart l.num)

/-- An entry of the List Directory (Table 9-2). -/
def State.directoryEntry (s : State) (n : Nat) : List Byte :=
  match s.lst n with
  | none => List.replicate 32 0
  | some l =>
    let flags := 1 + 2 * b2n l.mending + 4 * b2n (l.records.any Rec.wide)
    le 4 (s.firstExtent l) ++ le 4 l.records.length ++ le 4 l.marked ++ le 2 l.coll ++ le 2 l.bench.val ++ le 6 l.lastEpoch ++
      le 6 (l.retire.getD (2 ^ 48 - 1)) ++ le 1 flags ++ le 1 l.mendGen ++ le 2 l.edges.length

/-- A tag of the TAG stream (Table 9-5). -/
def Rec.tag (r : Rec) : List Byte :=
  le 8 r.object ++ le 4 r.passage ++ le 6 r.epoch ++ le 1 (b2n r.wide + 2 * b2n r.movedIn) ++ le 1 r.escapes.length ++
    le 4 r.bodyIndex ++ le 4 r.sideIndex ++ le 4 r.norm2.toNat

/-! ### The switch of a mend (R235) -/

/-- The content number under which the pages of a list's old extents stay valid while a sweep reads them. -/
def oldContent (n : Nat) : Nat := 2 ^ 32 + n

/-- The copy of a mended list takes the place of its pages, which are released, or kept for the sweeps that read them (R235);
none where the copy has to wait for erased blocks (R281). -/
def Flash.rewriteList (f : Flash) (epoch : Nat) (l : Lst) (keep : Bool) : Option Flash :=
  let mine (x : PageIdent) : Bool := x.kind == 1 && x.content == l.num
  let f := if keep then { f with idents := updWhere f.idents mine fun x => { x with content := oldContent l.num } }
    else f.release mine
  let page (st j : Nat) : PageWork := { kind := 1, stream := st, content := l.num, index := j, origin := none }
  f.putQlc false epoch (l.pages.flatMap fun p => (List.range p.2).map (page p.1))

/-- Streams of a list whose last page is not full. -/
def Lst.partStreams (l : Lst) (dims : Nat) : List Nat := [0, 1, 2, 3, 4].filter fun st => l.streamBytes dims st % 16384 != 0

/-- A list switches to its copy: full pages in stripes, the last part of each stream in the tail cache, the granules dirty. It
waits while the Bench finds no room for these. -/
def State.switchMend (s : State) (l : Lst) : State :=
  let dims := match s.coll l.coll with
    | some c => c.dims
    | none => 0
  let l' := s.mendSwitch (s.floorOf l.coll) l
  let l' := { l' with pages := l'.fullPages dims }
  let reads (w : Sweep) : Bool := w.list == l.num && w.old.isNone
  let t := { (s.modList l.num fun _ => l') with
    search := { (s.modList l.num fun _ => l').search with
      sweeps := updWhere s.search.sweeps reads fun w => { w with old := some l } } }
  match s.flash[l.bench].rewriteList s.search.epoch l' (s.search.sweeps.any reads) with
  | none => s
  | some f =>
    match (t.moveTo l.bench f).bringTails l.bench l.num (l'.partStreams dims) with
    | none => s
    | some t =>
      match t.dirtyTails l.bench l.num (l'.partStreams dims) with
      | (_, false) => s
      | (t, true) =>
        let q := quarterOfBench l.bench
        let t := (t.dirtyThrough q (logGranule l.num) 2).1
        (t.dirtyThrough q (directoryGranule l.num) 4).1.recountUsed l.bench

/-- Old extents that no sweep reads any longer are released (R235). -/
def State.releaseOld (s : State) : State :=
  let gone (x : PageIdent) : Bool := x.kind == 1 && 2 ^ 32 ≤ x.content &&
    !(s.search.sweeps.any fun w => w.old.isSome && oldContent w.list == x.content)
  (List.finRange 512).foldl (fun s b =>
    if s.flash[b].idents.any gone then (s.modFlash b fun f => f.release gone).recountUsed b else s) s

/-- At a boundary, every list whose copy is complete switches; sweeps in progress go on with its old extents. -/
def State.switchMends (s : State) : State :=
  (s.search.lists.filter fun l => l.mended && s.benchOk l.bench && s.benchReady l.bench).foldl State.switchMend s.releaseOld

/-- Tokens that no entry of any log carries are free again (R239). -/
def State.freeTokens (s : State) : State :=
  let used (t : Nat) : Bool := s.search.lists.any fun l => l.log.any fun e => e.kind == .movedIn t || e.kind == .movedOut t
  { s with search := { s.search with
      tokens := s.search.tokens.filter fun t => used t.num || (t.epoch.isNone && !t.abandoned) } }

/-- The nearest live neighbour of a retired node that a node does not name, by the graph distance from the retired node. -/
def State.repairTo (s : State) (metric : Nat) (r node : Lst) : Option Nat :=
  let rv := r.centroid.map fun w => f32of (fp16v w) false
  let near := (s.search.lists.filter fun x => r.edges.contains x.num && !s.retired x && x.num != node.num &&
    !node.edges.contains x.num).map fun x => foundOf metric rv { num := x.num, live := true, centroid := x.centroid, edges := [] }
  (bestBy foundBefore near).map Found.num

/-- Edge r replaced, or its slot cleared. -/
def replaceEdge (r : Nat) (other : Option Nat) (edges : List Nat) : List Nat :=
  match other with
  | some n => edges.map fun e => if e == r then n else e
  | none => edges.filter fun e => e != r

/-- A walk of a query is in flight, or the query has still to visit what its walk has found. -/
def Job.walking (n : Nat) (j : Job) : Bool :=
  j.kind == .query && (if j.walked then j.targets.contains n && j.state != .releasing else j.state == .running || j.state == .suspended)

/-- A retired list that no walk can reach any more is gone: ALLOCATED is clear, its marks, tails and pages are free. -/
def State.freeList (s : State) (r : Lst) : State :=
  let s := { s with search := { s.search with
    lists := s.search.lists.filter fun l => l.num != r.num, marksUsed := s.search.marksUsed - r.marks.length } }
  let s := s.modBench r.bench fun x => { x with tails := x.tails.filter fun t => t.list != r.num }
  let s := s.modFlash r.bench fun f => f.release fun x => x.kind == 1 && x.content == r.num
  s.freeTokens.recountUsed r.bench

/-- GRAPH_REPAIR: the edges around a retired node; once no live node names it and no walk that began before the last repair is
in flight, its entry is free. The entry list of the Collection moves on like an edge (DESIGN CHOICE, log 83). -/
def doGraphRepair (n : Nat) (s : State) : State :=
  match s.lst n with
  | none => s
  | some r =>
    match s.coll r.coll with
    | none => s
    | some c =>
      if !s.retired r then s
      else
        let names (l : Lst) : Bool := l.coll == r.coll && !s.retired l && l.edges.contains n
        let f (l : Lst) : Lst := if names l then { l with edges := replaceEdge n (s.repairTo c.metric r l) l.edges } else l
        let q := quarterOfBench r.bench
        if s.search.lists.any names then
          let now := (s.sched.jobs.filter fun j => j.coll == some c.id && j.walking n).map Job.key
          let s := { s with search := { s.search with lists := s.search.lists.map f } }
          (s.dirtyThrough q (centroidGranule c.id) 3).1.modList n fun l => { l with walkers := now }
        else if s.sched.jobs.any fun j => r.walkers.contains j.key && j.walking n then s
        else
          let next := if c.entryList == some n then s.repairTo c.metric r r else c.entryList
          let s := (s.modColl c.id fun c => { c with entryList := next }).freeList r
          (s.dirtyThrough q (directoryGranule n) 4).1

def execGraphRepair (list : Nat) (s : State) : Out := .next (doGraphRepair list s)

end Sys2Proof.Machine
end

