-- ==== Sys2Proof/Machine/ControlOps.lean ====
section
/-! DEFINITION. The other Engine instructions (Table 4-9): transfers, branches, semaphores, non-preemptible commands,
fences and illegal opcodes; and the Touchstone check (R167 to R169). -/

namespace Sys2Proof.Machine

/-! ### XFER (R114, R115, R141, R172) -/

/-- The ends of a transfer, each within its unit; Bench SRAM is no end of one (Table 4-9, log 25). -/
def xferEnds (a : XferArgs) : Option XferOp :=
  match tierAddr a.src, tierAddr a.dst with
  | some x, some y =>
    let sram (p : TierAddr) : Bool := (spaceCode p.space).1 == 3
    if sram x || sram y || a.len > 262144 || x.off + a.len > spaceCapacity x.space || y.off + a.len > spaceCapacity y.space
    then none
    else some { src := x, dst := y, len := a.len, tag := a.tag }
  | _, _ => none

/-- Scoreboard units that an end of a transfer uses on its Engine. -/
def endUnits (e : EngineId) (p : TierAddr) (n : Nat) : List Nat :=
  if p.space == Space.acc e then accUnits p.off n else []

/-- XFER: a transfer starts, and issue goes on while it runs. -/
def doXfer (e : EngineId) (a : XferArgs) (s : State) : State :=
  match s.executes e with
  | none => s
  | some k =>
    match xferEnds a with
    | none => s.engineFault e k erOperandRange 0x20
    | some x =>
      if s.worldBreak e x.src x.len false || s.worldBreak e x.dst x.len true then s.engineFault e k erWorld 0x20
      else if s.engines[e].xferHazard e (endUnits e x.src x.len) (endUnits e x.dst x.len) then s
      else
        (s.modEngine e fun y => { y with xfers := y.xfers ++ [x], ctx := { y.ctx with pc := y.ctx.pc + 1 } }).takeCredit k e.val

def execXfer (e : EngineId) (a : XferArgs) (s : State) : Out := .next (doXfer e a s)

/-- A write into an operand store waits while a sample there still reads its granules (R167). -/
def State.writeWaits (s : State) (a : TierAddr) (n : Nat) : Bool :=
  match a.space with
  | .operand d => meets (granulesOf a n) s.engines[d].sampled
  | _ => false

/-- The oldest transfer ends: its bytes are written and every operand-store unit written takes its tag. While a decoded copy
it reads is not ready, or a block is refetched, it waits (R184, R188); a source word of a cache object that cannot be
corrected starts a refetch, any other faults the job before anything is written. -/
def doXferComplete (e : EngineId) (s : State) : State :=
  match s.engines[e].xfers, s.engines[e].job with
  | x :: rest, some (k, _) =>
    if s.readWaits x.src x.len then s.joinRefetch e k x.src x.len
    else if s.writeWaits x.dst x.len then s
    else
    match s.poisonThrough x.src x.len with
    | some (g, a) =>
      match s.cacheBlock x.src.space g with
      | some (q, o, i) =>
        let hot := x.src.space != Space.stacked
        s.startRefetch q o.id (if hot then i else frameAt (s.storedBytes o) o.granules (65536 * i)) hot (some e)
          [k]
      | none => s.scratchUe e k 3 a
    | none =>
      let data := s.readThrough x.src x.len
      let s := ((s.modEngine e fun y => { y with xfers := rest }).returnCredit k e.val).touchRange x.src x.len
      let merge := s.mergeUe x.dst x.len
      let s := s.engineWrite e k x.dst data
      let s := match x.dst.space with
        | .operand d => s.modEngine d fun y =>
            { y with ctx := y.ctx.stamp (unitsOf x.dst.off (x.dst.off % unitBytes + x.len)) x.tag }
        | _ => s
      match merge with
      | some a => s.scratchUe e k 3 a
      | none => s
  | _, _ => s

def execXferComplete (e : EngineId) (s : State) : Out := .next (doXferComplete e s)

/-! ### Branches (R114) -/

/-- Words of the operand store. -/
def codeWords : Nat := 1572864

/-- BR: the offset counts from the branch itself; a branch on the loop counter is free (log 24). -/
def doBr (e : EngineId) (cond : BrCond) (off : BitVec 16) (s : State) : State :=
  match s.executes e with
  | none => s
  | some _ =>
    let c := s.engines[e].ctx
    let (w, s) := match cond with
      | .loop => s.fresh
      | _ => (0, s)
    let taken := match cond with
      | .always => true
      | .loop => w.getLsbD 63
      | .semBroken => c.semBroken
      | .overflow => c.causes != 0
    let pc := if taken then (((c.pc : Int) + off.toInt) % (codeWords : Int)).toNat else c.pc + 1
    s.modEngine e fun x =>
      { x with ctx := { x.ctx with pc := pc, loop := if cond == .loop then w.toNat % 2 ^ 32 else x.ctx.loop } }

def execBr (e : EngineId) (cond : BrCond) (off : BitVec 16) (s : State) : Out := .next (doBr e cond off s)

/-! ### Semaphores (R88, R114, R207) -/

/-- A job takes a free semaphore; a broken one leaves its mark on the job and on its context. -/
def State.takeSem (s : State) (e : EngineId) (k : Key) (x : Sem) : State :=
  let s := s.setSem { x with holder := some k, broken := false, waiters := x.waiters.filter fun w => w != (k, e) }
  let s := if x.broken then
    (s.modJob k fun j => { j with brokenSems := satAdd 16 j.brokenSems 1 }).modEngine e fun y =>
      { y with ctx := { y.ctx with semBroken := true } }
    else s
  s.nextWord e

/-- SEM_ACQ. -/
def doSemAcq (e : EngineId) (n : Nat) (s : State) : State :=
  match s.executes e with
  | none => s
  | some k =>
    match s.job k with
    | none => s
    | some j =>
      if n > 63 || !j.semMask.getLsbD n then s.engineFault e k erSemRange 0x30
      else
        let x := s.sem j.shop n
        if x.holder.isNone then s.takeSem e k x
        else s.setSem { x with waiters := insertNew x.waiters (k, e) }

def execSemAcq (e : EngineId) (n : Nat) (s : State) : Out := .next (doSemAcq e n s)

/-- A SEM_ACQ that waits finds its semaphore free. -/
def doSemAcquired (e : EngineId) (n : Nat) (s : State) : State :=
  match s.executes e with
  | none => s
  | some k =>
    match s.job k with
    | none => s
    | some j =>
      let x := s.sem j.shop n
      if x.holder.isNone && x.waiters.contains (k, e) then s.takeSem e k x else s

def execSemAcquired (e : EngineId) (n : Nat) (s : State) : Out := .next (doSemAcquired e n s)

/-- SEM_REL. -/
def doSemRel (e : EngineId) (n : Nat) (s : State) : State :=
  match s.executes e with
  | none => s
  | some k =>
    match s.job k with
    | none => s
    | some j =>
      let x := s.sem j.shop n
      if n > 63 || x.holder != some k then s.engineFault e k erSemRange 0x31
      else ((s.setSem { x with holder := none }).nextWord e).retryPreempt e

def execSemRel (e : EngineId) (n : Nat) (s : State) : Out := .next (doSemRel e n s)

/-! ### Non-preemptible commands, fences, illegal opcodes (R87, R114) -/

/-- NP_BEGIN: a length above the job's declaration, or a nested one, faults. -/
def doNpBegin (e : EngineId) (us : Nat) (s : State) : State :=
  match s.executes e with
  | none => s
  | some k =>
    match s.job k with
    | none => s
    | some j =>
      if us > j.nonpreUs || s.engines[e].ctx.npOpen.isSome then s.engineFault e k erNpRange 0x38
      else
        let t := s.clockUs
        s.modEngine e fun x => { x with ctx := { x.ctx with npOpen := some us, npStart := t, npWait := 0, pc := x.ctx.pc + 1 } }

def execNpBegin (e : EngineId) (us : Nat) (s : State) : Out := .next (doNpBegin e us s)

/-- NP_END: without an open command it faults. -/
def doNpEnd (e : EngineId) (s : State) : State :=
  match s.executes e with
  | none => s
  | some k =>
    if s.engines[e].ctx.npOpen.isNone then s.engineFault e k erNpRange 0x39
    else
      (s.modEngine e fun x =>
        { x with ctx := { x.ctx with npOpen := none, npStart := 0, npWait := 0, pc := x.ctx.pc + 1 } }).retryPreempt e

def execNpEnd (e : EngineId) (s : State) : Out := .next (doNpEnd e s)

/-- FENCE: issues once every earlier instruction has completed. -/
def doFence (e : EngineId) (s : State) : State :=
  match s.executes e with
  | none => s
  | some _ => if s.engines[e].quiet then s.nextWord e else s

def execFence (e : EngineId) (s : State) : Out := .next (doFence e s)

/-- Opcodes of Tables 4-8 and 4-9. -/
def engineOpcodes : List Nat := [0x01, 0x02, 0x08, 0x10, 0x11, 0x12, 0x20, 0x28, 0x30, 0x31, 0x38, 0x39, 0x3F]

/-- An opcode of neither table faults the job. -/
def doIllegal (e : EngineId) (op : Byte) (s : State) : State :=
  match s.executes e with
  | none => s
  | some k => if engineOpcodes.contains op.toNat then s else s.engineFault e k erIllegalOpcode op.toNat

def execIllegalOpcode (e : EngineId) (op : Byte) (s : State) : Out := .next (doIllegal e op s)

/-! ### Touchstone (R167 to R169) -/

/-- TOUCHSTONE_ACT as it acts for a class (R168): 3 stands for a replay not applied to class 0. -/
def touchAction (act cls : Nat) : Nat := if act == 2 && cls == 0 then 3 else act

/-- The reference of a sample: FP32 fused multiply-adds in ascending k (R167). -/
def Sample.reference (x : Sample) : List (List F32) :=
  x.a.map fun ra => x.b.map fun cb => (List.zip ra cb).foldl (fun acc p => (f32fma p.1 p.2 acc).1) 0

/-- The largest magnitude of a row. -/
def largest (l : List F32) : FloatVal := l.foldl (fun a w => if a.lt (f32v w).abs then (f32v w).abs else a) .zero

/-- |y − w| exceeds a limit. -/
def apart (y w : F32) (lim : FloatVal) : Bool := lim.lt ((f32v y).add (f32v w).neg).abs

/-- Elements of a sample whose difference exceeds n × TOL × r[m]. -/
def Sample.over (x : Sample) (tol : BF16) (n : Nat) : Nat :=
  ((List.zip x.y x.reference).map fun p =>
    let lim := ((bf16v tol).mul (.num false n 0)).mul (largest p.2)
    ((List.zip p.1 p.2).filter fun q => apart q.1 q.2 lim).length).sum

/-- Body of a Touchstone record, bytes 17 to 63 (Table 6-7): counts and identifiers only. -/
def State.touchBody (s : State) (e : EngineId) (k : Key) (action : Nat) (tol : BF16) (r : Sample) : List Byte :=
  let x := s.engines[e]
  le 1 action ++ le 1 r.aFmt ++ le 1 r.bFmt ++ le 2 e.val ++ le 2 r.k ++ le 2 k.cid.toNat ++ le 2 k.sqid ++
    le 1 k.ctrl.val ++ le 1 0 ++ le 2 (r.over tol 1) ++ le 4 r.unit ++ le 2 (r.over tol 2) ++ le 2 (r.over tol 16) ++ le 4 0 ++
    le 2 tol.toNat ++ le 2 x.tsSuppressed ++ le 8 s.strokeNow ++ le 4 x.tsSamples ++ le 4 0

/-- TOUCHSTONE_TOL of a job, of the defaults at its admission. -/
def Job.tol (j : Job) : BF16 :=
  match j.quant with
  | some q => q.tsTol
  | none => 0x3C00

/-- The Engine of part 0 of a unit, in whose Quarter's ring the records of a split unit go (R169). -/
def State.firstPart (s : State) (e : EngineId) (k : Key) (u : Nat) : EngineId :=
  match (s.job k).bind fun j => j.placed.find? fun p => p.unit == u && p.part.index == 0 with
  | some p => p.engine.getD e
  | none => e

/-- The oldest sample completes: 32 × K vector cycles, whose time is charged to the job, at most one record for each Engine and
Stroke, and the action of TOUCHSTONE_ACT. -/
def doTouchstone (e : EngineId) (us : Nat) (s : State) : State :=
  match s.engines[e].job, s.engines[e].tsBuffer with
  | some (k, _), r :: rest =>
    match s.job k with
    | none => s
    | some j =>
      let s := s.modEngine e fun x =>
        { x with tsBuffer := rest }.count fun x => { x with vecCycles := (x.vecCycles + 32 * r.k) % 2 ^ 64 }
      let s := s.charge k e.val us
      if r.over j.tol 1 == 0 then s
      else
        let act := match s.theMold with
          | some m => m.tsAct
          | none => 0
        let action := touchAction act j.cls
        let s := if s.engines[e].tsThisStroke then
            s.modEngine e fun x => { x with tsSuppressed := satAdd 16 x.tsSuppressed 1 }
          else
            (s.report (.engine (s.firstPart e k r.unit))
              { sev := .degraded, kind := 0x02, granule := none, body := s.touchBody e k action j.tol r }).modEngine e
                fun x => { x with tsThisStroke := true, tsSuppressed := 0, tsSamples := 0 }
        if action == 1 then s.faultJob k scTouchstoneFail (.engine e)
        else if action == 2 then
          s.modEngine e fun x => { x with ctx := x.ctx.flagBy causeTouchstone 1 r.word }
        else s
  | _, _ => s

def execTouchstoneSampleDone (e : EngineId) (r : Nat) (s : State) : Out := .next (doTouchstone e r s)

end Sys2Proof.Machine
end

