-- ==== Sys2Proof/Machine/GateOps.lean ====
section
/-! DEFINITION. The Release gate (R208, R225, R339 to R342): hit records, the answer, and the completion. -/

namespace Sys2Proof.Machine

/-- The longest prefix of at most n bytes that ends on a UTF-8 code point boundary (R340). -/
def utf8Prefix (v : List Byte) : Nat → List Byte
  | 0 => []
  | n + 1 =>
    if v.length ≤ n + 1 then v
    else
      match v[n + 1]? with
      | some b => if b &&& 0xC0 == 0x80 then utf8Prefix v n else v.take (n + 1)
      | none => v

/-- The field list of a record in descriptor order: what has been written, and whether a field was left out. `room` is the
record's bytes after the fixed fields. -/
def fieldList (room : Nat) (values : List ((Nat × List Byte) × List Byte)) : Nat → List FieldDesc → List Byte × Bool → List Byte × Bool
  | _, [], acc => acc
  | i, d :: ds, (bs, cut) =>
    match values.find? fun p => p.1 == (d.kind, d.name) with
    | none => fieldList room values (i + 1) ds (bs, cut)
    | some (_, v) =>
      let w := utf8Prefix v d.maxLen
      if bs.length + 2 + w.length + 1 ≤ room then
        fieldList room values (i + 1) ds (bs ++ le 1 i ++ le 1 w.length ++ w, cut)
      else fieldList room values (i + 1) ds (bs, true)

/-- A hit record (Table 8-9) and whether a field was cut. -/
def hitRecord (stride : Nat) (sc : Option Schema) (values : List ((Nat × List Byte) × List Byte)) (h : Hit) : List Byte × Bool :=
  let scores := match sc with
    | some x => x.scores
    | none => true
  let passages := match sc with
    | some x => x.passages
    | none => false
  let fixed := le 8 h.object ++ le 4 (if scores then h.score.toNat else 0) ++ le 4 (if passages then h.passage else 0xFFFFFFFF)
  if stride ≤ 16 then (fixed, false)
  else
    let r := fieldList (stride - 16) values 0 (match sc with
      | some x => x.fields
      | none => []) ([], false)
    (padTo stride (fixed ++ r.1 ++ le 1 0xFF), r.2)

/-- The release schema of a job's Collection in force; none for a job with no Collection. -/
def State.schemaOf (s : State) (j : Job) : Option Schema :=
  match s.theMold, j.coll with
  | some m, some c =>
    match m.coll c with
    | some e => m.schemas.find? fun x => x.id == e.schema
    | none => none
  | _, _ => none

/-- The answer waiting that the gate takes next: C0 first, then in the order of last merges (R342). -/
def State.gateNext (s : State) : Option Job :=
  let waiting := s.sched.jobs.filter fun j => j.gateOrder.isSome
  let first (l : List Job) : Option Job := leastBy (fun j => j.gateOrder.getD 0) l
  match first (waiting.filter fun j => j.cls == 0) with
  | some j => some j
  | none => first waiting

/-- The answer of a job (R208): head and hit records. -/
def State.answer (s : State) (j : Job) : List Byte :=
  let stride := s.hitStride j
  let room := (j.answerBytes - 64) / stride
  let values (h : Hit) : List ((Nat × List Byte) × List Byte) := match s.obj h.object with
    | some o => o.fields
    | none => []
  let recs := (j.hits.take room).map fun h => hitRecord stride (s.schemaOf j) (values h) h
  let sc := j.ending.getD 0
  s.answerHead j (if sc == 0 then 0 else 7) sc (sc == scQuenched) (room < j.hits.length) (recs.any fun r => r.2) recs.length ++
    recs.flatMap fun r => r.1

/-- RELEASE_GATE_ANSWER: the next answer is written, copied to the host and its completion posted; the job is gone. -/
def doReleaseGate (poison : Option Nat) (s : State) : State :=
  match s.gateNext with
  | none => s
  | some j =>
    let bs := s.answer j
    let s := match j.ending, poison with
      | some sc, none => s.status j.key sc bs.length 0 bs
      | some sc, some p => if p < bs.length then s.sendData j.key bs.length 0 bs (some p) else s.status j.key sc bs.length 0 bs
      | none, p => s.sendData j.key bs.length 0 bs p
    let s := s.c0Finish j
    let s := match j.kind == .query && j.ending == some scMediaPartial, j.coll with
      | true, some c => s.modColl c fun c => { c with mediaPartial := satAdd 32 c.mediaPartial 1 }
      | _, _ => s
    s.endJob j.key

def execReleaseGateAnswer (poison : Option Nat) (s : State) : Out := .next (doReleaseGate poison s)

end Sys2Proof.Machine
end

