-- ==== Sys2Proof/Machine/IngotOps.lean ====
section
/-! DEFINITION. Ingots: loading in pieces (R195), validation (R193, R196, R197), removal (R187, R199). -/

namespace Sys2Proof.Machine

/-! ### Validation (R193, R196, Tables 8-1 to 8-4) -/

/-- Reasons of Table 8-4. -/
def irBadMagic : Nat := 0x01
def irBadVersion : Nat := 0x02
def irBadLength : Nat := 0x03
def irBadDigest : Nat := 0x04
def irUnitRange : Nat := 0x05
def irGraph : Nat := 0x06
def irSegmentRange : Nat := 0x07
def irOutlierLimit : Nat := 0x08
def irTirco : Nat := 0x09
def irSpace : Nat := 0x0A

/-- The first check that fails: its reason and the offset of its field. -/
def firstBad (cs : List (Nat × Nat × Bool)) : Option (Nat × Nat) :=
  (cs.find? fun c => c.2.2).map fun c => (c.2.1, c.1)

def maxMargin (v : Nat) : Bool := v == 0 || within v 0x3F80 0x4080

/-- Header checks in order of offset; `space` says that the Ingot area cannot hold the image. -/
def ingotHeader (bs : List Byte) (id : Nat) (space : Bool) : Option (Nat × Nat) :=
  let r (o : Nat) (bad : Bool) : Nat × Nat × Bool := (o, irUnitRange, bad)
  let ver := field bs 4 2
  let mode := field bs 6 1
  let kind := field bs 24 1
  let us := field bs 28 4
  let ss := field bs 32 4
  let ps := field bs 36 4
  let dims := field bs 44 2
  let kv := field bs 50 2
  let hd := field bs 52 1
  let base := field bs 56 4
  let sig := if bit (field bs 7 1) 0 then 2824 else 0
  firstBad
    [(0, irBadMagic, field bs 0 4 != 0x54474E49), (4, irBadVersion, ver != 0x0001 && ver != 0x0101), r 6 (mode > 2),
     (6, irTirco, ver == 0x0101 && mode != 2), r 7 (field bs 7 1 > 3), r 8 (field bs 8 4 != id), r 12 (field bs 12 1 > 16),
     r 13 (field bs 13 1 != 0), r 14 (!maxMargin (field bs 14 2)), (16, irBadLength, field bs 16 8 != bs.length),
     r 16 (!within bs.length 4096 549755813888 || bs.length % 8 != 0), (16, irSpace, space), r 24 (!(within kind 1 3 || kind == 0x80)), r 25 (field bs 25 3 != 0),
     r 28 (!within us 1 16384), r 32 (!within ss 1 65535), r 36 (ps > 262144), r 40 (!within (field bs 40 4) 1 1000000),
     r 44 (if kind == 1 then !within dims 32 4096 || dims % 32 != 0 else dims != 0), r 46 (!within (field bs 46 2) 1 2048),
     r 48 (!within (field bs 48 2) 1 1024), r 50 (kv > 256), r 52 (hd > 8 || (kv != 0 && hd == 0)), r 53 (field bs 53 3 != 0),
     r 56 (!bit (field bs 7 1) 1 && base != 0), r 60 (field bs 60 4 != 0),
     (28, irBadLength, bs.length < 128 + 64 * us + cdiv (4 * ps) 8 * 8 + 48 * ss + sig)]

/-- Bytes of the signature field. -/
def sigBytes (bs : List Byte) : Nat := if bit (field bs 7 1) 0 then 2824 else 0

/-- DIGEST: the image with the DIGEST field and the signature field zero. -/
def ingotDigest (bs : List Byte) : List Byte :=
  let n := bs.length - sigBytes bs
  Config.shake256 (bs.take 64 ++ List.replicate 64 0 ++ (bs.take n).drop 128 ++ List.replicate (sigBytes bs) 0) 64

/-- An index that may be absent. -/
def optIndex (v : Nat) : Option Nat := if v == 0xFFFFFFFF then none else some v

def unitAt (u : Nat) : Nat := 128 + 64 * u
def predBase (bs : List Byte) : Nat := 128 + 64 * field bs 28 4
def segBase (bs : List Byte) : Nat := predBase bs + cdiv (4 * field bs 36 4) 8 * 8

/-- A unit entry (Table 8-2) with its predecessors. -/
def readUnit (bs : List Byte) (u : Nat) : UnitEntry :=
  let o := unitAt u
  let f := field bs (o + 2) 1
  { kind := field bs o 1, mode := field bs (o + 1) 1, splittable := bit f 0, inPlace := bit f 1, fmtDefault := bit f 2
    rung := field bs (o + 3) 1, aFmt := field bs (o + 4) 1, bFmt := field bs (o + 5) 1, outliers := field bs (o + 6) 1
    codeSegment := field bs (o + 8) 4, firstSegment := field bs (o + 12) 4, segmentSpan := field bs (o + 16) 2
    nonpreUs := field bs (o + 18) 2, pinned := field bs (o + 20) 4, worstUs := field bs (o + 24) 4
    preds := (List.range (field bs (o + 32) 2)).map fun i => field bs (predBase bs + 4 * (field bs (o + 28) 4 + i)) 4
    wider := optIndex (field bs (o + 36) 4), variantNext := optIndex (field bs (o + 40) 4) }

def readUnits (bs : List Byte) : List UnitEntry := (List.range (field bs 28 4)).map (readUnit bs)

/-- A segment entry (Table 8-3). -/
def readSegment (bs : List Byte) (i : Nat) : SegmentEntry :=
  let o := segBase bs + 48 * i
  { offset := field bs o 8, stored := field bs (o + 8) 4, decoded := field bs (o + 12) 4, hash := fieldBytes bs (o + 16) 32 }

/-- Units that WIDER_UNIT and VARIANT_NEXT name from some units on. -/
def namedFrom (us : List UnitEntry) (l : List Nat) : List Nat :=
  (l.flatMap fun u => match us[u]? with
    | some x => x.wider.toList ++ x.variantNext.toList
    | none => []).foldl insertNew l

/-- The layers a unit belongs to, by the primary units that lead to it. -/
def layersOf (us : List UnitEntry) (u : Nat) : List Nat :=
  (List.range us.length).filter fun p => graphNode us p && ((us.foldl (fun l _ => namedFrom us l) [p]).contains u)

/-- A unit names a rung or a variant of its own layer (Table 8-4). -/
def sameLayer (us : List UnitEntry) (u v : Nat) : Bool := layersOf us v == layersOf us u && (layersOf us v).length ≤ 1

/-- Checks of one unit entry. -/
def unitChecks (bs : List Byte) (us : List UnitEntry) (maxOutliers : Nat) (u : Nat) : List (Nat × Nat × Bool) :=
  let o := unitAt u
  let x := readUnit bs u
  let segs := field bs 32 4
  let r (d : Nat) (bad : Bool) : Nat × Nat × Bool := (o + d, irUnitRange, bad)
  let array := x.kind == 0 || x.kind == 2
  let rungOf (n : Nat) : Option Nat := us[n]?.map UnitEntry.rung
  let first := field bs (o + 28) 4
  let num := field bs (o + 32) 2
  [r 0 (x.kind > 3), r 1 (if array then x.mode > 1 else x.mode != 2), r 2 (field bs (o + 2) 1 > 7), r 3 (x.rung > 2),
   r 4 (x.aFmt > 0xD || (array && (formatPair x.aFmt x.bFmt).isNone)), r 5 (x.bFmt > 0xD), r 6 (x.outliers > 64),
   (o + 6, irOutlierLimit, x.outliers > maxOutliers), r 7 (field bs (o + 7) 1 != 0), r 8 (x.codeSegment ≥ segs),
   r 12 (x.firstSegment + x.segmentSpan > segs), r 16 (x.segmentSpan > 4096),
   r 18 (!(x.nonpreUs == 0 || within x.nonpreUs 10 3000)), r 28 (first + num > field bs 36 4), r 32 (num > 64),
   r 34 (field bs (o + 34) 2 != 0),
   r 36 (match x.wider with
     | some w => match rungOf w with
       | some n => n ≤ x.rung || !sameLayer us u w
       | none => true
     | none => false),
   r 40 (match x.variantNext with
     | some v => v == u || rungOf v != some x.rung || !sameLayer us u v
     | none => false),
   r 44 (!allZero (fieldBytes bs (o + 44) 20))]

/-- The graph: a predecessor lies below its unit and is no variant (R194). -/
def graphChecks (bs : List Byte) (us : List UnitEntry) (u : Nat) : List (Nat × Nat × Bool) :=
  let o := unitAt u
  (List.range (field bs (o + 32) 2)).map fun i =>
    let at_ := predBase bs + 4 * (field bs (o + 28) 4 + i)
    let p := field bs at_ 4
    (at_, irGraph, p ≥ u || !graphNode us p)

/-- Checks of one segment entry, and of its block index (R180). A segment that begins inside the header or the tables, against
the order of R193, has its OFFSET out of range (log 146). -/
def segmentChecks (bs : List Byte) (i : Nat) : List (Nat × Nat × Bool) :=
  let o := segBase bs + 48 * i
  let x := readSegment bs i
  let n := cdiv x.decoded 65536
  let block (b : Nat) : Nat × Nat × Bool :=
    let p := x.offset + 8 * b
    let len := field bs (p + 4) 3
    (p, irSegmentRange, !within len 1 65536 || field bs p 4 + len > x.stored || field bs (p + 7) 1 > 1)
  let fixed : List (Nat × Nat × Bool) :=
    [(o, irBadLength, x.offset + x.stored > bs.length - sigBytes bs),
     (o, irUnitRange, x.offset < segBase bs + 48 * field bs 32 4), (o + 12, irUnitRange, x.decoded == 0),
     (o + 12, irSegmentRange, x.decoded > 16777216),
     (o + 8, irSegmentRange, x.stored < 8 * n)]
  fixed ++ (List.range (min n 256)).map block

/-! ### Pages of an Ingot (R193, R195, R266) -/

/-- A page of an Ingot in stripes. -/
def Flash.putIngot (f : Flash) (epoch id i : Nat) : Option Flash :=
  f.putQlc false epoch [{ kind := 6, stream := 0, content := id, index := i, origin := none }]

/-- A Bench takes a page of an Ingot: it has room, and the C2 work has its turn there (R195, R281, R436, R438). -/
def State.takesIngot (s : State) (id i : Nat) (b : BenchId) : Bool :=
  s.benchOk b && s.benchReady b && !s.benchKept b && 1 ≤ s.freePages b && s.workMay 2 (benchRes b) (s.readyOnBench b) &&
    (s.flash[b].putIngot s.search.epoch id i).isSome

/-- One page of an Ingot goes to the Bench with the most free capacity, as C2 work of the given time; a page that no Bench takes
yet waits (R195, log 147). -/
def State.storeIngotPage (us id : Nat) (s : State) (i : Nat) : State :=
  match s.pickBench ((List.finRange 512).filter (s.takesIngot id i)) with
  | none => s
  | some b =>
    let f := s.flash[b]
    ((s.moveTo b ((f.putIngot s.search.epoch id i).getD f)).recountUsed b).chargeWork 2 moduleShop (benchRes b) us

/-- A page is one of an Ingot. -/
def PageIdent.ofIngot (id : Nat) (x : PageIdent) : Bool := x.kind == 6 && x.content == id

/-- Pages of an image, up to a count, that are not on flash. -/
def State.ingotWaits (s : State) (id n : Nat) : List Nat :=
  let held := (List.finRange 512).flatMap fun b => (s.flash[b].idents.filter (PageIdent.ofIngot id)).map PageIdent.index
  (List.range n).filter fun i => !held.contains i

/-- The pages of an image up to a count that wait go to flash. -/
def State.storeIngot (s : State) (us id n : Nat) : State := (s.ingotWaits id n).foldl (State.storeIngotPage us id) s

/-- Some Bench has room for a page of an Ingot. -/
def State.roomForIngot (s : State) : Bool := (List.finRange 512).any fun b => s.benchOk b && 1 ≤ s.freePages b

/-- The pages of an Ingot are given up (R199). -/
def State.freeIngot (s : State) (id : Nat) : State :=
  (List.finRange 512).foldl (fun s b =>
    if s.flash[b].idents.any (PageIdent.ofIngot id) then
      (s.modFlash b fun f => f.release (PageIdent.ofIngot id)).recountUsed b
    else s) s

/-- What validation comes to: a status with its Dwords, or none for success (R196). -/
def State.validateIngot (s : State) (g : Ingot) : Option (Nat × Nat × Nat) :=
  let bs := g.image
  let space := (s.ingots.filter fun x => x.id != g.id).length ≥ 256 || !(s.ingotWaits g.id (pagesOf bs.length)).isEmpty
  let bad (x : Nat × Nat) : Nat × Nat × Nat := (scIngotInvalid, x.1, x.2)
  match ingotHeader bs g.id space with
  | some x => some (bad x)
  | none =>
    let digest := fieldBytes bs 64 64
    if ingotDigest bs != digest then some (scIngotInvalid, irBadDigest, 64)
    else
      let sig := bs.drop (bs.length - 2824)
      let derived := bit (field bs 7 1) 1
      let roots := if derived then s.hallmarkSlots else s.ingotSlots
      let msg := if derived then domainMessage "ICZANT-INGOT-1" digest else digest
      let forged := bit (field bs 7 1) 0 && !(verifies roots msg (sig.take 2820) && allZero (sig.drop 2820))
      if forged then some (scSignatureInvalid, 0, 0)
      else
        let us := readUnits bs
        let limit := match s.theMold with
          | some m => m.quant.outlierMax
          | none => 0
        let units := (List.range us.length).flatMap (unitChecks bs us limit)
        let graph := (List.range us.length).flatMap (graphChecks bs us)
        let segs := (List.range (field bs 32 4)).flatMap (segmentChecks bs)
        (firstBad (units ++ graph ++ segs)).map bad

/-- The Ingot of a valid image. -/
def Ingot.parsed (g : Ingot) : Ingot :=
  let bs := g.image
  { g with
    state := .ready, finalPiece := none, signed := bit (field bs 7 1) 0, derived := bit (field bs 7 1) 1
    base := field bs 56 4, opKind := field bs 24 1, tokenNs := field bs 40 4, outDims := field bs 44 2
    maxContext := field bs 46 2, layers := field bs 48 2, kvHeads := field bs 50 2, headDim := field bs 52 1
    scaleMode := field bs 6 1, legacyWindow := field bs 12 1, legacyMargin := BitVec.ofNat 16 (field bs 14 2)
    units := readUnits bs, segments := (List.range (field bs 32 4)).map (readSegment bs) }

/-! ### Loading (R195, R199) -/

/-- An Ingot whose first piece has been accepted. -/
def loadingIngot (id : Nat) : Ingot :=
  { id := id, state := .loading, signed := false, derived := false, base := 0, opKind := 0, tokenNs := 0, outDims := 0
    maxContext := 0, layers := 0, kvHeads := 0, headDim := 0, scaleMode := 0, legacyWindow := 0, legacyMargin := 0
    units := [], segments := [], image := [], lastPieceUs := 0, pageUs := 0, finalPiece := none, unsignedGen := none }

/-- An Ingot is removed, and its space on flash is free again. -/
def State.removeIngot (s : State) (id : Nat) : State := { s with ingots := s.ingots.filter fun g => g.id != id }.freeIngot id

/-- A piece joins the image, whose whole pages go to flash; the final one waits for the validation. -/
def State.takePiece (s : State) (e : Sqe) (id : Nat) (final : Bool) (piece : List Byte) (us : Nat) : State :=
  let now := s.clockUs
  let s := if (s.ingot id).isSome then s else { s with ingots := s.ingots ++ [loadingIngot id] }
  let had := match s.ingot id with
    | some g => g.image.length
    | none => 0
  let s := s.modIngot id fun g =>
    { g with
      image := g.image ++ piece, lastPieceUs := now, pageUs := us, finalPiece := if final then some e.key else none }
  let n := had + piece.length
  let s := s.storeIngot us id (if final then pagesOf n else n / 16384)
  if final then s else s.success e.key 0 0 []

/-- INGOT_LOAD (R195). -/
def doIngotLoad (e : Sqe) (piece : Timed (List Byte)) (s : State) : State :=
  let id := e.cdw10.toNat
  let n := e.cdw14.toNat
  let off := wide64 e.cdw12 e.cdw13
  let final := bit e.cdw11.toNat 0
  s.onant e [allOnes, 1, allOnes, allOnes, allOnes, 0] n 0
    (fun _ _ => within id 1 0xFFFFFFFE && within n 4096 16777216 && (final || n % 4096 == 0))
    fun _ _ =>
      let bs := padTo n piece.what
      match s.ingot id with
      | none => if off == 0 then s.takePiece e id final bs piece.us else s.refuse e.key scInvalidField
      | some g =>
        if off == 0 then s.refuse e.key scIngotExists
        else if g.state == .loading && g.finalPiece.isNone && off == g.image.length then s.takePiece e id final bs piece.us
        else s.refuse e.key scInvalidField

def execIngotLoad (e : Sqe) (piece : Timed (List Byte)) (s : State) : Out := .next (doIngotLoad e piece s)

/-- The validation of a FINAL piece ends: READY, or the image discarded (R196). Pages that still wait for their turn on a Bench
with room go first (R195). -/
def doIngotValidation (id : Word32) (s : State) : State :=
  match s.ingot id.toNat with
  | none => s
  | some g =>
    match g.finalPiece with
    | none => s
    | some k =>
      let n := pagesOf g.image.length
      let s := s.storeIngot g.pageUs g.id n
      if s.roomForIngot && !(s.ingotWaits g.id n).isEmpty then s else
      match s.validateIngot g with
      | some (sc, dw0, dw1) => (s.removeIngot g.id).status k sc dw0 dw1 []
      | none => (s.modIngot g.id Ingot.parsed).success k 0 0 []

def execIngotValidationDone (id : Word32) (s : State) : Out := .next (doIngotValidation id s)

/-- No piece for 10 s: the partial image is discarded, with a record. -/
def doIngotTimeout (id : Word32) (s : State) : State :=
  match s.ingot id.toNat with
  | none => s
  | some g =>
    if g.state == .loading && g.finalPiece.isNone && g.lastPieceUs + 10000000 ≤ s.clockUs then
      (s.removeIngot g.id).reportGeneral .scheduler .informational 0x48 0 0 0 none g.id
    else s

def execIngotLoadTimeout (id : Word32) (s : State) : Out := .next (doIngotTimeout id s)

/-! ### Dropping (R187, R199) -/

/-- INGOT_DROP: refused while a derived Ingot names it; objects not pinned become ABSENT at once. -/
def doIngotDrop (e : Sqe) (s : State) : State :=
  let id := e.cdw10.toNat
  s.onant e [allOnes, 0, 0, 0, 0, 0] 0 0 (fun _ _ => true) fun _ _ =>
    match s.ingot id with
    | none => s.refuse e.key scIngotAbsent
    | some g =>
      if !(g.state == .ready || g.state == .poisoned) then s.refuse e.key scIngotAbsent
      else if s.ingots.any fun x => x.derived && x.base == id then s.refuse e.key scIngotBusy
      else
        let s := ((s.modIngot id fun g => { g with state := .dropping }).stopEmbedding id).dropUnpinned (· == id)
        s.success e.key 0 0 []

def execIngotDrop (e : Sqe) (s : State) : Out := .next (doIngotDrop e s)

/-- A DROPPING Ingot that no job is bound to and none of whose objects is pinned is removed. -/
def doIngotRemoved (id : Word32) (s : State) : State :=
  let i := id.toNat
  let bound := s.sched.jobs.any fun j => j.ingot == i
  let pinned := s.cache.toList.any fun c => c.objs.any fun o => o.id.ingot == id && o.pinned
  if s.dropping i && !bound && !pinned then (s.dropUnpinned (· == i)).removeIngot i else s

def execIngotRemoved (id : Word32) (s : State) : Out := .next (doIngotRemoved id s)

end Sys2Proof.Machine
end

