-- ==== Sys2Proof/Machine/KvOps.lean ====
section
/-! DEFINITION. The KV pages of a generation job: positions written as its passes end (R93, R190), and the page table entries
(R191). -/

namespace Sys2Proof.Machine

/-- Positions whose key and value rows the passes done have written: 8,192 for each prefill chunk, one for each decode
step. -/
def Job.kvPositions (j : Job) : Nat :=
  let chunks := cdiv j.tokens 8192
  min j.maxTokens (if j.passes ≤ chunks then min j.tokens (8192 * j.passes) else j.tokens + (j.passes - chunks))

/-- One row in E4M3 with its BF16 scale, as R133 scales a row with Qmax = 448. -/
def kvQuantise (row : List F32) : List Byte × List Byte :=
  let (codes, s, _) := feedRow 3 (row.map fun x => (f32v x, false))
  (codes.map fun c => BitVec.ofNat 8 c, le 2 s.toNat)

/-- The first 16 bytes of a page (Table 7-6); a full page is SEALED. -/
def KvPage.head (p : KvPage) : List Byte :=
  le 2 p.layer ++ le 1 p.heads ++ le 1 p.dim32 ++ le 2 p.tokens ++ le 1 p.group ++ le 1 (b2n (p.tokens == 256)) ++ le 4 0 ++
    le 4 p.index

/-- The 8-byte page table entry (R191). -/
def KvPage.entry (p : KvPage) : List Byte := le 8 (p.line + 2 ^ 32 * p.tokens + 2 ^ 41 * b2n p.valid)

/-- What the writing of position t of a page for head h stores: offset in the page and bytes. -/
def KvPage.rowWrites (j : Job) (p : KvPage) (h t : Nat) : List (Nat × List Byte) :=
  let dh := 32 * p.dim32
  let d := p.heads * 256 * dh
  let i := h * 256 + t
  let row (v : Bool) : List Byte × List Byte :=
    kvQuantise (padRow dh (Config.kvRow j.ingot j.input j.visible p.layer (8 * p.group + h) (256 * p.index + t) v))
  [(512 + 2 * i, (row false).2), (512 + 512 * p.heads + 2 * i, (row true).2),
   (512 + 1024 * p.heads + i * dh, (row false).1), (512 + 1024 * p.heads + d + i * dh, (row true).1)]
where
  padRow (n : Nat) (l : List F32) : List F32 := (l ++ List.replicate n 0).take n

/-- A page grows to a number of positions: the new rows, then its head. -/
def State.kvFill (s : State) (j : Job) (p : KvPage) (n : Nat) : State :=
  let at_ (o : Nat) : TierAddr := { space := .stacked, off := 512 * p.line + o }
  let new := (List.range n).filter fun t => p.tokens ≤ t
  let ws := new.flatMap fun t => (List.range p.heads).flatMap fun h => p.rowWrites j h t
  let s := ws.foldl (fun s w => s.writeAt (at_ w.1) w.2) s
  s.writeAt (at_ 0) { p with tokens := n }.head

/-- A pass of a generation job has ended: its pages hold the positions written so far (R190). -/
def State.kvExtend (s : State) (k : Key) : State :=
  match s.job k with
  | none => s
  | some j =>
    let n := j.kvPositions
    let upto (p : KvPage) : Nat := min 256 (n - 256 * p.index)
    let s := (j.kv.filter fun p => p.tokens < upto p).foldl (fun s p => s.kvFill j p (upto p)) s
    let grow (p : KvPage) : KvPage := if p.tokens < upto p then { p with tokens := upto p, valid := true } else p
    s.modJob k fun j => { j with kv := j.kv.map grow }

end Sys2Proof.Machine
end

