-- ==== Sys2Proof/Machine/TrainOps.lean ====
section
/-! DEFINITION. CALIBRATE (R237), KMEANS (R238) and the publication of both at a boundary (R239). -/

namespace Sys2Proof.Machine

/-! ### Samples and clusters -/

/-- Passages that the items visible to a job name: object and passage; a passage index of all ones names every passage. -/
def State.itemPassages (s : State) (j : Job) : List (Nat × Nat) :=
  j.visible.flatMap fun i =>
    match s.obj i.1 with
    | none => []
    | some o =>
      let n := if o.passages.isEmpty then match s.readObject o with
          | some r => r.passages.length
          | none => 0
        else o.passages.length
      if i.2 == 0xFFFFFFFF then (List.range n).map fun p => (o.id, p) else if i.2 < n then [(o.id, i.2)] else []

/-- The vector of a passage under an embedding Ingot, as embedded. -/
def State.embedded (s : State) (p : Nat × Nat) : Option (List F32) :=
  match s.obj p.1 with
  | none => none
  | some o =>
    match s.textOf o, s.passageTextOf o p.2 with
    | some t, some x => some (Config.embed t.1 x)
    | _, _ => none

/-- The vector of a passage, normalised for COS (R429); none where it has no direction. -/
def State.passageVector (s : State) (c : Coll) (p : Nat × Nat) : Option (List F32) :=
  (s.embedded p).bind (direction c.metric)

/-- Index of the nearest of some centres by the distance of METRIC, the lower on a tie (DESIGN CHOICE, log 173). -/
def nearestCentre (metric : Nat) (cs : List (List F32)) (x : List F32) : Nat :=
  let ds := cs.map (vectorDistance metric x)
  match bestBy (fun a b => f32lt a.1 b.1) ds.zipIdx with
  | some p => p.2
  | none => 0

/-- The FP32 mean of vectors: in each dimension the row sum of R153 over them in order, divided by their number (R161). -/
def meanOf (xs : List (List F32)) : List F32 :=
  (List.range (xs.headD []).length).map fun d => (f32div (rowSum (xs.map fun x => x.getD d 0)).1 (f32ofNat xs.length)).1

/-- The FP32 mean of vectors, normalised for COS. -/
def centreOf (metric : Nat) (xs : List (List F32)) : List F32 :=
  let m := meanOf xs
  (direction metric m).getD m

/-- One Lloyd iteration: members by the distance of METRIC, a COS centre normalised; a centre without members stays (DESIGN CHOICE,
log 173). -/
def lloyd (metric : Nat) (xs cs : List (List F32)) : List (List F32) :=
  let own := xs.map fun x => (nearestCentre metric cs x, x)
  cs.zipIdx.map fun c =>
    let mine := (own.filter fun p => p.1 == c.2).map fun p => p.2
    if mine.isEmpty then c.1 else centreOf metric mine

/-- The next seed of k-means++: a member of the sample, drawn with its squared distance to the nearest seed so far as its weight;
one of weight 0 only where no other is left. -/
def nextSeed (xs cs : List (List F32)) (w : Word64) : List F32 :=
  let weight (x : List F32) : F32 := (cs.map (vectorDistance 0 x)).foldl f32min 0x7F800000
  let far := xs.filter fun x => !(f32v (weight x)).isZero
  let from_ := if far.isEmpty then xs else far
  from_.getD (Config.seedIndex w (from_.map weight) % from_.length) []

/-- Seeds of k-means++, one for each draw. -/
def seedCentres (xs : List (List F32)) : List Word64 → List (List F32) → List (List F32)
  | [], cs => cs
  | w :: ws, cs => seedCentres xs ws (cs ++ [nextSeed xs cs w])

/-- A vector rounded to FP16. -/
def halves (x : List F32) : List Word16 := x.map fun v => fp16of (f32v v) false

/-! ### The graph (R237) -/

/-- A node enters another's edge list; it replaces the farthest edge of a full list. -/
def enterEdge (metric : Nat) (nodes : List GraphNode) (m : GraphNode) (n : Nat) : GraphNode :=
  if m.edges.length < 32 then { m with edges := m.edges ++ [n] }
  else
    let dist (e : Nat) : F32 := match nodes.find? fun x => x.num == e with
      | some x => graphDistance metric (widen m.centroid) x.centroid
      | none => 0
    match bestBy (fun a b => f32lt (dist b) (dist a)) m.edges with
    | some far => { m with edges := m.edges.map fun e => if e == far then n else e }
    | none => m

/-- Insert a node: edges to the 32 nearest that a walk finds, and each of them takes the new edge. -/
def insertNode (metric : Nat) (entry : Option Nat) (nodes : List GraphNode) (num : Nat) (centroid : List Word16) :
    List GraphNode :=
  let near := walk metric (widen centroid) nodes entry 32
  let node : GraphNode := { num := num, live := true, centroid := centroid, edges := near }
  (nodes.map fun m => if near.contains m.num then enterEdge metric nodes m num else m) ++ [node]

/-- The graph over new lists, inserted in list order. -/
def buildGraph (metric : Nat) (l : List (Nat × List Word16)) : List GraphNode :=
  l.foldl (fun ns p => insertNode metric (l.head?.map fun q => q.1) ns p.1 p.2) []

/-- The live node nearest to a vector. -/
def nearestNode (metric : Nat) (nodes : List GraphNode) (x : List F32) : Option Nat :=
  (bestBy foundBefore ((nodes.filter GraphNode.live).map (foundOf metric x))).map Found.num

/-! ### New lists (R212) -/

/-- The lowest entries reserved for a Collection that are neither allocated nor promised to a publication. -/
def State.freeLists (s : State) (c : Coll) (n : Nat) : List Nat :=
  let used := s.search.lists.map Lst.num ++ s.search.publications.flatMap fun p => p.lists.map Lst.num
  ((List.range (min c.listShare (n + used.length))).filterMap fun i =>
    if used.contains (c.firstList + i) then none else some (c.firstList + i)).take n

/-- The Sterling Bench, not FAILED, that holds the fewest records; the lower number on a tie. -/
def State.newListBench (s : State) (m : Mold) : Option BenchId :=
  leastBy (fun b => ((s.search.lists.filter fun l => l.bench == b).map fun l => l.records.length).sum)
    ((List.finRange 512).filter fun b => m.benchSterling b && s.benchOk b)

def newList (coll num : Nat) (b : BenchId) : Lst :=
  { num := num, coll := coll, bench := b, lastEpoch := 0, retire := none, mending := false, mendGen := 0, centroid := []
    edges := [], records := [], homeCount := 0, walkers := [], log := [], marks := [], countAt := 0, pages := [], mended := false }

/-- A job whose last unit is done and which ends with a status, nothing put into force. -/
def State.endTraining (s : State) (k : Key) (sc : Nat) : State :=
  ((s.abandonTokens k).modJob k fun j => { j with ending := some sc }).toGate k

/-- A job whose last unit is done waits for its publication. -/
def State.awaitPublication (s : State) (p : Publication) : State :=
  let s := s.modJob p.key fun j => { j with state := .releasing, placed := [] }
  { s with search := { s.search with publications := s.search.publications ++ [p] } }

/-! ### CALIBRATE (R237) -/

/-- The value at rank ceil(0.999 × S) of the deviations, ascending. -/
def spreadOf (o : F32) (row : List F32) : F32 :=
  let ds := row.map fun x => (f32sub x o).1 &&& 0x7FFFFFFF
  (sortBy f32lt ds).getD (cdiv (999 * row.length) 1000 - 1) 0

/-- 2 to the −126 in FP32. -/
def tinyScale : F32 := 0x00800000

/-- Offsets and scales of a sample. -/
def calibrationOf (dims : Nat) (xs : List (List F32)) : Calibration :=
  let row (d : Nat) : List F32 := xs.map fun x => x.getD d 0
  let os := (List.range dims).map fun d => ((meanVar xs.length (row d)).1).getD 0 0
  let ss := os.zipIdx.map fun p => f32max (f32div (spreadOf p.1 (row p.2)) (f32ofNat 127)).1 tinyScale
  { offsets := os, scales := ss }

/-- CALIBRATE at the end of its last unit. -/
def State.calibrate (s : State) (j : Job) : State :=
  match s.theMold, j.coll with
  | some m, some ci =>
    match s.coll ci with
    | none => s.endTraining j.key scInvalidField
    | some c =>
      let xs := (s.itemPassages j).filterMap (s.passageVector c)
      let s := s.modJob j.key fun j => { j with candidates := xs.length }
      if xs.length < 128 then s.endTraining j.key scInvalidField
      else
        match s.newListBench m with
        | none => s.endTraining j.key scMediaUnavailable
        | some b =>
          let n := min c.listShare (cdiv xs.length 64)
          let (ws, s) := s.freshN n
          let centres := (List.range 8).foldl (fun cs _ => lloyd c.metric xs cs) (seedCentres xs ws [])
          let named := (s.freeLists c n).zip (centres.map halves)
          let g := buildGraph c.metric named
          s.awaitPublication
            { key := j.key, coll := ci, cal := some (calibrationOf c.dims xs), token := none, snapshot := j.snapshot
              moves := [], lists := named.map fun p => newList ci p.1 b, centroids := named
              edges := g.map fun x => (x.num, x.edges), entry := nearestNode c.metric g (meanOf xs) }
  | _, _ => s.endTraining j.key scInvalidField

/-! ### KMEANS (R238) -/

/-- A record as KMEANS sees it: object, passage, its list, its vector. -/
structure Point where
  object : Nat
  passage : Nat
  old : Nat
  vec : List F32
  deriving DecidableEq, Repr

/-- The vector a stored record decodes to. -/
def recVector (c : Coll) (r : Rec) : List F32 :=
  if r.wide then wideVals r.body else decodeSq8 c.cal.offsets c.cal.scales r.body r.escapes

/-- Records of a Collection eligible at a snapshot, in list order. -/
def State.points (s : State) (c : Coll) (q : Nat) : List Point :=
  (s.search.lists.filter fun l => l.coll == c.id).flatMap fun l =>
    (s.eligible l q).filterMap fun i => (l.records[i]?).map fun r =>
      { object := r.object, passage := r.passage, old := l.num, vec := recVector c r }

/-- The job's own copy: graph, and the list of each record. -/
structure Clusters where
  nodes : List GraphNode
  own : List (Nat × Point)
  deriving DecidableEq, Repr

/-- A split: the live list with the most records gives its farthest member a list of its own, and the members nearer to it
follow. -/
def Clusters.split (metric : Nat) (entry : Option Nat) (k : Clusters) (num : Nat) : Clusters :=
  let count (n : GraphNode) : Nat := (k.own.filter fun p => p.1 == n.num).length
  match bestBy (fun a b => count b < count a) (k.nodes.filter GraphNode.live) with
  | none => k
  | some n =>
    let old := widen n.centroid
    let mine := (k.own.filter fun p => p.1 == n.num).map fun p => p.2
    match bestBy (fun (a b : Point) => f32lt (vectorDistance 0 b.vec old) (vectorDistance 0 a.vec old)) mine with
    | none => { k with nodes := insertNode metric entry k.nodes num n.centroid }
    | some far =>
      let c := halves far.vec
      { nodes := insertNode metric entry k.nodes num c
        own := k.own.map fun p =>
          if p.1 == n.num && f32lt (vectorDistance metric p.2.vec (widen c)) (vectorDistance metric p.2.vec old) then (num, p.2)
          else p }

/-- One iteration: every record by a walk with LISTS = 1, then the centroids anew. -/
def Clusters.iterate (metric : Nat) (entry : Option Nat) (k : Clusters) : Clusters :=
  let own := k.own.map fun p => ((walk metric p.2.vec k.nodes entry 1).headD p.1, p.2)
  let move (n : GraphNode) : GraphNode :=
    let mine := (own.filter fun p => p.1 == n.num).map fun p => p.2.vec
    if !n.live || mine.isEmpty then n else { n with centroid := halves (centreOf metric mine) }
  { nodes := k.nodes.map move, own := own }

/-- KMEANS at the end of its last unit. -/
def State.kmeans (s : State) (j : Job) : State :=
  match s.theMold, j.coll with
  | some m, some ci =>
    match s.coll ci, s.search.tokens.find? fun t => t.owner == j.key with
    | some c, some t =>
      let pts := s.points c j.snapshot
      let g := s.graph ci
      let live := (g.filter GraphNode.live).length
      let want := min c.listShare (max live (cdiv pts.length 1024))
      let nums := s.freeLists c (want - live)
      let bench := if nums.isEmpty then some 0 else s.newListBench m
      match bench with
      | none => s.endTraining j.key scMediaUnavailable
      | some b =>
        let k0 : Clusters := { nodes := g, own := pts.map fun p => (p.old, p) }
        let k1 := nums.foldl (Clusters.split c.metric c.entryList) k0
        let k := (List.range j.steps).foldl (fun k _ => k.iterate c.metric c.entryList) k1
        let moved := k.own.filter fun p => p.1 != p.2.old
        s.awaitPublication
          { key := j.key, coll := ci, cal := none, token := some t.num, snapshot := j.snapshot
            moves := moved.map fun p => (p.2.object, p.2.passage, p.2.old, p.1)
            lists := nums.map fun n => newList ci n b, centroids := k.nodes.map fun n => (n.num, n.centroid)
            edges := k.nodes.map fun n => (n.num, n.edges)
            entry := if pts.isEmpty then c.entryList else nearestNode c.metric k.nodes (meanOf (pts.map Point.vec)) }
    | _, _ => s.endTraining j.key scInvalidField
  | _, _ => s.endTraining j.key scInvalidField

/-! ### Publication (R229, R239) -/

/-- A record's copy in its new list, whose tag keeps INSERT_EPOCH, and the entries of both, with the deletes stamped on the old
record; it waits while the new list finds no mark, no append block or no room for dirty data. A record for which the new list or the module
has no place stays where it is (R241). -/
def State.moveRecord (s : State) (t q : Nat) (mv : Nat × Nat × Nat × Nat) : State × Appended :=
  let (object, passage, old, new) := mv
  match s.lst old, s.lst new with
  | some l, some n =>
    match (s.eligible l q).find? fun i => (l.records[i]?).any fun r => r.object == object && r.passage == passage with
    | none => (s, .done)
    | some i =>
      match l.records[i]? with
      | none => (s, .done)
      | some r =>
        let first := n.records.length == n.countAt
        let sts := recStreams r.wide !r.escapes.isEmpty
        if !s.benchOk l.bench || !s.benchOk n.bench || !s.listTakes new || s.totalRecords ≥ 2 ^ 36 then (s, .done)
        else if first && s.search.marksUsed ≥ markPool then (s, .noMark)
        else
          match s.bringTails n.bench new sts with
          | none => (s, .noBlock)
          | some s1 =>
            match s1.dirtyTails n.bench new sts with
            | (_, false) => (s, .waits)
            | (s, true) =>
              let e := s.search.epoch + 1
              let at_ := n.records.length
              let deletes := l.log.filterMap fun x => match x.kind with
                | .delete d => if x.record == i then some ({ record := at_, kind := .delete d } : LogEntry) else none
                | .movedIn _ | .movedOut _ => none
              let s := s.modList new fun x =>
                { x.push { r with movedIn := true } with
                  log := x.log ++ [{ record := at_, kind := .movedIn t }] ++ deletes, lastEpoch := e }
              let s := s.modList old fun x => { x with log := x.log ++ [{ record := i, kind := .movedOut t }] }
              let s := { s with search := { s.search with marksUsed := s.search.marksUsed + b2n first } }
              let s := (s.dirtyThrough (quarterOfBench n.bench) (logGranule new) 2).1
              ((s.dirtyThrough (quarterOfBench l.bench) (logGranule old) 2).1, .done)
  | _, _ => (s, .done)

/-- The copies of a publication, with the number of those in place and what the next one came to. -/
def State.moveRecords (s : State) (t q : Nat) : List (Nat × Nat × Nat × Nat) → Nat → State × Nat × Appended
  | [], n => (s, n, .done)
  | mv :: mvs, n =>
    match s.moveRecord t q mv with
    | (s, .done) => State.moveRecords s t q mvs (n + 1)
    | (_, w) => (s, n, w)

/-- A publication waits; an append of a copy that waits for a mark for the first time counts in MARK_STALLS (R232). -/
def State.publicationWaits (s : State) (p : Publication) (n : Nat) (w : Appended) : State :=
  if w == .noMark && p.stalled ≤ n then
    { s with search := { s.search with
        publications := updFirst s.search.publications (· == p) fun p => { p with stalled := n + 1 } } }.modColl p.coll fun c =>
          { c with markStalls := satAdd 32 c.markStalls 1 }
  else s

/-- The directory entry of a list has changed (R174, class 4 of Table 7-2). -/
def State.dirtyList (s : State) (l : Lst) : State := (s.dirtyThrough (quarterOfBench l.bench) (directoryGranule l.num) 4).1

/-- One publication is put into force with epoch e, or waits for a later boundary. -/
def State.publish (s0 : State) (e : Nat) (p : Publication) : State :=
  let s := { s0 with search := { s0.search with
    lists := s0.search.lists ++ p.lists, publications := removeFirst s0.search.publications p } }
  if (s.job p.key).isNone then { s0 with search := { s0.search with publications := removeFirst s0.search.publications p } }
  else
    match s.moveRecords (p.token.getD 0) p.snapshot p.moves 0 with
    | (_, n, .noMark) => s0.publicationWaits p n .noMark
    | (_, _, .noBlock) | (_, _, .waits) => s0
    | (s, _, .done) =>
      let set (l : Lst) : Lst :=
        { l with centroid := lookupD p.centroids l.num l.centroid, edges := lookupD p.edges l.num l.edges }
      let tok (t : Token) : Token := if p.token == some t.num then { t with epoch := some e } else t
      let s := { s with search := { s.search with
        lists := s.search.lists.map fun (l : Lst) => if l.coll == p.coll then set l else l, tokens := s.search.tokens.map tok } }
      let s := s.modColl p.coll fun c =>
        match p.cal with
        | some x => { c with cal := x, state := .ready, entryList := p.entry }
        | none => { c with entryList := p.entry }
      let q := match p.lists.head? with
        | some l => quarterOfBench l.bench
        | none => 0
      let s := p.lists.foldl (fun s l => s.dirtyList l) (s.dirtyThrough q (centroidGranule p.coll) 3).1
      ((s.dirtyThrough 0 (descriptorGranule p.coll) 5).1).toGate p.key

/-- Every publication that waits, in order. -/
def State.publishAll (s : State) (e : Nat) : State := s.search.publications.foldl (fun s p => s.publish e p) s

/-- Lists of Collections whose KMEANS has just been published and that hold no record eligible at e retire at e (R234). -/
def State.retireEmpty (s : State) (e : Nat) (colls : List Nat) : State :=
  let gone (l : Lst) : Bool := colls.contains l.coll && l.retire.isNone && (s.eligible l e).isEmpty
  let out := s.search.lists.filter gone
  let s := { s with search := { s.search with lists := updWhere s.search.lists gone fun l => { l with retire := some e } } }
  out.foldl State.dirtyList s

end Sys2Proof.Machine
end

