-- ==== Sys2Proof/Machine/UnitOps.lean ====
section
/-! DEFINITION. The end of a unit execution: overflow flag and replay ladder (R162 to R165), what an operator makes of its
last unit (Table 8-7, R203, R204, R262), and the ways in which a job stops early (R87, R88, R90, R91, R205). -/

namespace Sys2Proof.Machine

/-! ### The replay ladder (R163 to R165) -/

/-- Replays of a unit's execution so far. -/
def Job.replayed (j : Job) (u : Nat) : Nat := (j.replays.filter fun p => p.1 == u).length

/-- Outcome of a flagged execution, by the first row of Table 6-5 that applies, and the unit a replay runs. -/
def replayOutcome (j : Job) (x : UnitEntry) : Nat × Option Nat :=
  let on := match j.quant with
    | some q => q.replay
    | none => false
  if j.quenching then (6, none)
  else if x.inPlace then (3, none)
  else if j.cls == 0 then (2, none)
  else if !on then (1, none)
  else if x.rung == 2 then (5, none)
  else
    match x.wider with
    | some w => (0, some w)
    | none => (4, none)

/-- The Replay record (Table 6-6). -/
def State.replayRecord (s : State) (k : Key) (u : Nat) (e : EngineId)
    (outcome causes split from_ to_ replays events word us : Nat) : State :=
  s.report (.engine e)
    { sev := .informational, kind := 0x01, granule := none
      body := le 1 outcome ++ le 1 causes ++ le 1 split ++ le 1 from_ ++ le 1 to_ ++ le 2 e.val ++ le 2 k.cid.toNat ++
        le 2 k.sqid ++ le 1 k.ctrl.val ++ le 1 replays ++ le 2 0 ++ le 4 u ++ le 4 (min events (2 ^ 32 - 1)) ++
        le 8 s.strokeNow ++ le 4 word ++ le 4 us ++ le 8 0 }

/-- The stores of an Engine have passed to another job, and hold nothing of this one. -/
def State.passedOn (s : State) (k : Key) : Space → Bool
  | .operand e | .acc e =>
    (match s.engines[e].job with
     | some (k', _) => k' != k
     | none => false)
  | _ => false

/-- A replay discards outputs of the execution: the valid bits of granules it wrote. -/
def State.discardOutputs (s : State) (k : Key) (written : List (Space × Nat)) : State :=
  written.foldl (fun s p => if s.passedOn k p.1 then s else s.clearGranule p.1 p.2) s

/-- The step of each legacy history that the unit took part in is over (R138); a replay runs in a step of its own (DESIGN CHOICE,
log 170). -/
def closeLegacy (h : LegacyHist) : LegacyHist :=
  match h.step with
  | some (m, _) => { h with maxima := (m :: h.maxima).take 16, step := none }
  | none => h

/-! ### Bench operators (R259, R262) -/

/-- Bytes a occur in bytes b. -/
def occurs (a : List Byte) : List Byte → Bool
  | [] => a.isEmpty
  | b :: bs => (b :: bs).take a.length == a || occurs a bs

/-- The four bits of a term are set in a sketch. -/
def inSketch (term sketch : List Byte) : Bool :=
  (sketchBits term).all fun n => match sketch[n / 8]? with
    | some b => b.getLsbD (n % 8)
    | none => false

/-- A passage is visible at a snapshot: its tag's epoch, and no delete of its object (R233). -/
def State.passageVisible (s : State) (o : Obj) (p q : Nat) : Bool :=
  !(o.deleted.any fun d => d ≤ q) &&
    s.search.lists.any fun l => l.coll == o.coll && l.records.any fun r => r.object == o.id && r.passage == p && r.epoch ≤ q

/-- An item is visible at a snapshot (R202, R233): a passage by its tag, a whole object by the first of its tags. An object
without a tag is visible from the epoch at which it was stored, as is every item of a CALIBRATE, whose Collection holds no tag
(`untagged`; log 149). -/
def State.itemVisible (s : State) (q : Nat) (untagged : Bool) (i : Nat × Nat) : Bool :=
  match s.obj i.1 with
  | none => false
  | some o =>
    let tags := (s.search.lists.filter fun l => l.coll == o.coll).flatMap fun l => l.records.filter fun r => r.object == o.id
    let live := !(o.deleted.any fun d => d ≤ q)
    if untagged || (i.2 == 0xFFFFFFFF && tags.isEmpty) then live && o.storeEpoch ≤ q
    else if i.2 == 0xFFFFFFFF then live && tags.any fun r => r.epoch ≤ q
    else s.passageVisible o i.2 q

/-- Items a Bench operator covers on a Bench: those it names, or every object of the Collection. -/
def State.benchItems (s : State) (j : Job) (b : BenchId) : List (Obj × Nat) :=
  let items : List (Nat × Nat) :=
    if j.items.isEmpty then
      ((s.search.objs.filter fun o => some o.coll == j.coll).map fun o => (o.id, 0xFFFFFFFF)).filter (s.itemVisible j.snapshot false)
    else j.visible
  items.filterMap fun i => match s.obj i.1 with
    | some o => if o.bench == b then some (o, i.2) else none
    | none => none

/-- Passages of an item that are visible. -/
def State.itemParts (s : State) (j : Job) (o : Obj) (p : Nat) : List Nat :=
  (if p == 0xFFFFFFFF then List.range o.passages.length else [p]).filter fun p =>
    p < o.passages.length && s.passageVisible o p j.snapshot

/-- Score of n matching terms of m: each of them required, or one (PARAM [0]). -/
def termScore (all : Bool) (n m : Nat) : Option F32 := if n == 0 || (all && n != m) then none else some (f32ofNat n)

/-- Hits of a Bench operator on one item, and the passages it scanned. -/
def State.itemHits (s : State) (op : Nat) (j : Job) (o : Obj) (p : Nat) : List Hit × Nat :=
  let all := j.param.getLsbD 0
  let terms := ((splitOn 0x0A j.input).map foldText).eraseDups
  let raw := (splitOn 0x0A j.input).eraseDups
  let parts := s.itemParts j o p
  let perPart (f : Nat → Option F32) : List Hit :=
    parts.filterMap fun i => (f i).map fun v => { object := o.id, passage := i, score := v }
  let one := f32ofNat 1
  if op == 0x40 then
    let f (i : Nat) : Option F32 := match s.passageTextOf o i with
      | some t => termScore all (terms.filter fun w => occurs w (foldText t)).length terms.length
      | none => none
    (perPart f, parts.length)
  else if op == 0x41 then
    let f (i : Nat) : Option F32 := match o.passages[i]? with
      | some x => termScore all (terms.filter fun w => x.sketches.any (inSketch w)).length terms.length
      | none => none
    (perPart f, parts.length)
  else if op == 0x42 then
    let named (h : List Byte) : Option F32 :=
      (termScore all (raw.filter fun w => Config.hashNamed w h).length raw.length).map fun _ => one
    if p == 0xFFFFFFFF && !j.items.isEmpty then
      match o.contentHash with
      | some h => ((named h).toList.map fun v => { object := o.id, passage := 0xFFFFFFFF, score := v }, parts.length)
      | none => ([], parts.length)
    else
      (perPart fun i => match o.passages[i]? with
        | some x => named x.hash
        | none => none, parts.length)
  else
    let name := ((splitOn 0x09 j.input).head?).getD []
    let value := j.input.drop (name.length + 1)
    let named : Option FieldDesc := (s.schemaOf j).bind fun x => x.fields.find? fun d => d.name == name
    match named with
    | some d =>
      if o.fields.contains ((d.kind, d.name), value) then ([{ object := o.id, passage := p, score := one }], parts.length)
      else ([], parts.length)
    | none => ([], parts.length)

/-- What a Bench operator finds on a Bench. -/
def State.benchHits (s : State) (op : Nat) (j : Job) (b : BenchId) : List Hit × Nat :=
  (s.benchItems j b).foldl (fun acc i => let r := s.itemHits op j i.1 i.2; (acc.1 ++ r.1, acc.2 + r.2)) ([], 0)

/-- Benches with an item of a Bench operator. -/
def State.benchUnits (s : State) (j : Job) : List Nat :=
  ((List.finRange 512).filter fun b => !(s.benchItems j b).isEmpty).map fun b => b.val

/-! ### What an operator releases (R203, R204) -/

/-- An Onant envelope of a text: sealed under a fresh data key, that key wrapped under the Collection key (R249). -/
def State.seal (s : State) (label : Word64) (key : BitVec 256) (text : List Byte) : List Byte × State :=
  let (data, s) := s.fresh256
  let (base, s) := s.freshBytes 8
  let (wrap, s) := s.freshBytes 12
  let n := cdiv text.length 65536
  let head := le 4 0x56454E4F ++ le 2 1 ++ le 1 0 ++ le 1 1 ++ le 8 text.length ++ le 4 n ++ le 4 0 ++ le 8 label.toNat ++
    base ++ le 8 0
  let wrapped := Config.gcmSeal key wrap head (le 32 data.toNat)
  let chunk (i : Nat) : List Byte :=
    Config.gcmSeal data (base ++ le 4 i) (head ++ le 4 i ++ le 1 (b2n (i + 1 == n))) ((text.drop (65536 * i)).take 65536)
  (head ++ wrap ++ le 4 0 ++ wrapped ++ le 16 0 ++ (List.range n).flatMap chunk, s)

/-- GENERATE: the tokens written so far become an object of the Collection. The status that stops it, 0 for none. -/
def State.sealOutput (s : State) (j : Job) : State × Nat :=
  match s.theMold, j.coll with
  | some m, some ci =>
    match m.coll ci with
    | none => (s, scInvalidField)
    | some c =>
      let n := min j.newTokens (j.progress - s.contextTokens j.ingot j.input j.visible)
      let text := Config.generated j.ingot j.input j.visible n
      let live := match m.shop c.ingestShop with
        | some h => h.benches.filter s.benchOk
        | none => []
      match s.sec.keys.find? fun k => k.1 == c.label with
      | none => (s, scKeyAbsent)
      | some k =>
        if text.isEmpty then (s, 0)
        else
          let (env, s) := s.seal c.label k.2 text
          match s.pickBench (live.filter fun b => pagesOf env.length ≤ s.freePages b) with
          | none => (s, scMediaFull)
          | some b =>
            let (id, s) := s.storeObject ci b env
            (s.modJob j.key fun j => { j with output := id }, 0)
  | _, _ => (s, 0)

/-- Bytes of a list replaced from an offset on. -/
def overlay (bs : List Byte) (o : Nat) (new : List Byte) : List Byte := bs.take o ++ new ++ bs.drop (o + new.length)

/-- HASH of every segment entry over the payload as it stands. -/
def rehash (bs : List Byte) : List Byte :=
  (List.range (field bs 32 4)).foldl (fun bs i =>
    let x := readSegment bs i
    overlay bs (segBase bs + 48 * i + 16) (Config.shake256 (fieldBytes bs x.offset x.stored) 32)) bs

/-- A derived Ingot but for its signature: the image that TUNE made, SIGNED and DERIVED, with its identifier, its LENGTH, its
base, the hashes of its segments (Table 8-1), and its digest. -/
def derivedImage (tuned : List Byte) (id base : Nat) : List Byte :=
  let n := tuned.length + 2824
  let bs := tuned.take 7 ++ le 1 3 ++ le 4 id ++ fieldBytes tuned 12 4 ++ le 8 n ++ fieldBytes tuned 24 32 ++ le 4 base ++
    fieldBytes tuned 60 4 ++ List.replicate 64 0 ++ tuned.drop 128
  let bs := rehash bs
  bs.take 64 ++ ingotDigest (bs ++ List.replicate 2824 0) ++ bs.drop 128

/-- TUNE: the derived Ingot with the adapter of the steps completed, signed with one leaf over its DIGEST (R204, Table 14-9);
none where a life-cycle transition ends the job before the rebuild of R357 (log 152). -/
def State.writeDerived (s : State) (j : Job) : State × Nat :=
  match s.ingot j.ingot with
  | none => (s, scIngotAbsent)
  | some g =>
    let body := g.image.take (g.image.length - sigBytes g.image)
    let image := derivedImage (Config.tuned body j.visible j.progress j.rank j.param.toNat) j.newIngot j.ingot
    if (s.ingot j.newIngot).isSome then (s, scIngotExists)
    else if !s.ingotRoom (image.length + 2824) then (s, scIngotInvalid)
    else if !s.sec.rebuilt then (s, scHallmarkUnavailable)
    else
      match s.sign (domainMessage "ICZANT-INGOT-1" (fieldBytes image 64 64)) with
      | (none, s) => (s, scHallmarkUnavailable)
      | (some sig, s) =>
        let g' := Ingot.parsed { g with
          id := j.newIngot, image := image ++ sig.drop 8 ++ le 4 0, finalPiece := none, unsignedGen := none }
        let s := { s with ingots := s.ingots ++ [g'] }.storeIngot 0 j.newIngot (pagesOf (image.length + 2824))
        (s.modJob j.key fun j => { j with output := j.newIngot }, 0)

/-- A TUNE whose derived Ingot is to be signed waits for the rebuild of R357. -/
def State.waitsSign (s : State) (j : Job) (quenched : Bool) : Bool :=
  j.kind == .operator 0x04 && !(quenched && j.progress == 0) && !s.sec.rebuilt

def State.waitSign (s : State) (k : Key) (quenched : Bool) : State :=
  { s with sec := { s.sec with waiting := s.sec.waiting ++ [.tune k quenched] } }

/-- A job's output at its end, or at a Quench: the status that stops it. -/
def State.produce (s : State) (j : Job) (quenched : Bool) : State × Nat :=
  match j.kind with
  | .operator 0x03 => s.sealOutput j
  | .operator 0x04 => if quenched && j.progress == 0 then (s, 0) else s.writeDerived j
  | _ => (s, 0)

/-- Hits in the order they leave: by score for RERANK and the Bench operators, by the merge for a query. -/
def State.rankHits (s : State) (j : Job) : List Hit :=
  match j.kind with
  | .query => s.mergeHits j
  | .operator 0x80 => j.hits.take j.k
  | .operator _ => bestHits 1 j.k j.hits
  | .objGet _ => []

/-- The last unit of a job is done, its flag examined: RELEASING (R209). -/
def State.finishJob (s : State) (k : Key) (offered : List Hit) : State :=
  match s.job k with
  | none => s
  | some j =>
    match j.kind with
    | .operator 0x05 => s.kmeans j
    | .operator 0x06 => s.calibrate j
    | _ =>
      let j := if j.kind == .operator 0x80 then { j with hits := offered } else j
      let hits := s.rankHits j
      if s.waitsSign j false then (s.modJob k fun j => { j with state := .releasing, placed := [] }).waitSign k false
      else
      let (s, sc) := s.produce j false
      let s := s.modJob k fun j => { j with hits := hits, ending := if sc == 0 then none else some sc }
      s.toGate k

/-! ### EMBED (Table 8-7) -/

/-- A passage of an indexed object that is neither appended nor on its way is embedded and handed to its list (R260). -/
def State.embedPassage (s : State) (p : Nat × Nat) : State :=
  match s.liveObj p.1 with
  | none => s
  | some o =>
    let going := (s.search.transit ++ s.search.appendWait).any fun t => t.2.object == p.1 && t.2.passage == p.2
    if o.appended.contains p.2 || going || !(o.state == .indexed || o.state == .partRead) then s
    else
      match s.embedded p with
      | none => s
      | some v =>
        let n := s.search.transit.length
        let s' := s.takeVector p.1 p.2 v
        if s'.search.transit.length == n then s
        else s'.modObj p.1 fun o => { o with notIndexed := o.notIndexed - 1 }

/-! ### UNIT_COMPLETE (R162, R164, R165) -/

/-- The parts of a unit run and are at their last instruction: nothing is in flight on their Engines, and no part of it is
saved. -/
def State.partsDone (s : State) (k : Key) (u : Nat) (ps : List Placed) : Bool :=
  !ps.isEmpty && ps.all fun p =>
    (match p.engine with
     | some e => s.engines[e].job == some (k, u) && s.engines[e].state == .running && s.engines[e].quiet &&
         s.engines[e].ctx.npOpen.isNone
     | none => true) && (s.savedParts k u).isEmpty &&
    (match p.bench with
     | some b => s.benches[b].job == some k && s.benches[b].state == .running
     | none => true)

/-- A unit leaves its Engines and Benches. -/
def State.leaveParts (s : State) (k : Key) (u : Nat) (ps : List Placed) : State :=
  let close (h : LegacyHist) : LegacyHist := if h.layer == u then closeLegacy h else h
  let s := s.modJob k fun j =>
    { j with placed := j.placed.filter fun p => p.unit != u, partEnds := j.partEnds.filter fun p => p.unit != u
             legacy := j.legacy.map close }
  let s := s.unpin fun p => p == (k, u)
  let one (s : State) (p : Placed) : State :=
    let s := match p.engine with
      | some e => s.leaveEngine e k
      | none => s
    match p.bench with
    | some b =>
      ((s.modBench b fun x => { x with job := none, state := .idle }).returnCredits fun c =>
        c.key == k && c.res == benchRes b).startNextBench b
    | none => s
  ps.foldl one s

/-- Every unit that a pass of a job runs is done. -/
def State.passDone (s : State) (j : Job) : Bool :=
  match j.kind with
  | .operator op =>
    if benchOp op then (s.benchUnits j).all j.unitsDone.contains
    else
      match s.jobIngot j with
      | some g => (List.range g.units.length).all fun u => !graphNode g.units u || j.unitsDone.contains u
      | none => j.unitsDone.contains 0
  | .query | .objGet _ => false

/-- The results of an execution stand: the unit is done, and the job goes on, starts a new pass, or ends. -/
def State.unitStands (s : State) (k : Key) (u : Nat) (r : UnitResult) (ps : List Placed) : State :=
  match s.job k with
  | none => s
  | some j =>
    let op := opCode j.kind
    let found : List Hit × Nat := match ps.head? with
      | some p => match p.bench with
        | some b => if benchOp op then s.benchHits op j b else (r.hits, 0)
        | none => (r.hits, 0)
      | none => (r.hits, 0)
    let seen (h : Hit) : Bool := op != 0x02 || j.visible.any fun i => i.1 == h.object
    let s := if op == 0x01 then
        ((r.hits.map fun h => (h.object, h.passage)).filter (s.itemPassages j).contains).foldl State.embedPassage s
      else s
    let s := s.modJob k fun j =>
      { j with
        unitsDone := insertNew j.unitsDone u, replays := j.replays.filter fun p => p.1 != u
        progress := r.progress, candidates := if benchOp op then j.candidates + found.2 else r.candidates
        hits := if op == 0x01 || op == 0x05 || op == 0x06 then [] else j.hits ++ found.1.filter seen }
    let s := s.leaveParts k u ps
    match s.job k with
    | none => s
    | some j =>
      let ended := if benchOp op then s.passDone j else r.last
      if ended && !j.quenching then s.finishJob k r.hits
      else if !benchOp op && s.passDone j then (s.modJob k fun j => { j with unitsDone := [], passes := j.passes + 1 }).kvExtend k
      else s

/-- An execution replays at the next rung: its outputs are discarded, and the unit waits for its place again. -/
def State.replayUnit (s : State) (k : Key) (u w : Nat) (ps : List Placed) (ends : List PartEnd) : State :=
  let own := (ps.filterMap Placed.engine).flatMap fun e => s.engines[e].ctx.written
  let s := s.discardOutputs k (own ++ ends.flatMap PartEnd.written)
  let s := s.modJob k fun j => { j with replays := (u, w) :: j.replays }
  s.leaveParts k u ps

/-- Fabric time of a unit that its placement hint took away from the Quarter beside its data (R19). -/
def Job.hintFabric (j : Job) (u : Nat) (e : EngineId) (us : Nat) : Nat :=
  if j.placed.any fun p => p.unit == u && p.engine == some e && p.hinted then us else 0

/-- Engine time of an execution is charged to its job. -/
def State.chargeParts (s : State) (k : Key) (j : Job) (u : Nat) (r : UnitResult) (es : List EngineId) : State :=
  es.foldl (fun s e =>
    (s.charge k e.val (r.engineUs - s.engines[e].ctx.ran + j.hintFabric u e r.fabricUs)).modEngine e fun y =>
      { y with ctx := { y.ctx with ran := max y.ctx.ran r.engineUs } }) s

/-- The parts of a split unit have run their last instructions: their tiles combine into the store of part 0, which goes on with
the layer's vector work; the others leave their flags to the unit and their Engines to other work (R156, R162, log 140). -/
def State.joinParts (s : State) (k : Key) (j : Job) (u : Nat) (x : UnitEntry) (r : UnitResult) (ps : List Placed) : State :=
  let int := match formatPair x.aFmt x.bFmt with
    | some (9, _) => true
    | _ => false
  let ps := sortBy (fun a b => decide (a.part.index < b.part.index)) ps
  let es := ps.filterMap Placed.engine
  let s := s.chargeParts k j u r es
  match s.partsUe es, es.head? with
  | some a, some e => s.scratchUe e k 1 a
  | _, _ =>
  let s := s.combineParts int es
  ps.tail.foldl (fun s p =>
    match p.engine with
    | none => s
    | some e =>
      let c := s.engines[e].ctx
      let d : PartEnd :=
        { unit := u, part := p.part, causes := c.causes, events := c.flagEvents, firstWord := c.firstWord, us := r.engineUs
          written := c.written }
      (s.modJob k fun j => { j with placed := j.placed.erase p, partEnds := j.partEnds ++ [d] }).leaveEngine e k) s

/-- FIRST_WORD of an execution: of the first part, in part order, whose flag is set. -/
def firstFlagWord (parts : List (BitVec 8 × Nat)) : Nat :=
  match parts.find? fun p => p.1 != 0 with
  | some p => p.2
  | none => 0

/-- UNIT_COMPLETE: the parts of a split unit combine; else the time is charged and the flag, the OR over all parts, is
examined. A replay that a Quench ends writes no record (R165). -/
def doUnitComplete (k : Key) (u : Nat) (r : UnitResult) (s : State) : State :=
  match s.job k with
  | none => s
  | some j =>
    let ps := j.placed.filter fun p => p.unit == u
    if u ≥ residueUnit || !s.partsDone k u ps then s
    else
      let es := ps.filterMap Placed.engine
      let x := (s.unitEntry j u).getD plainUnit
      if 1 < es.length then s.joinParts k j u x r ps
      else
        let ends := j.partEnds.filter fun p => p.unit == u
        let s := s.chargeParts k j u r es
        let s := (ps.filterMap Placed.bench).foldl (fun s b => s.charge k (benchRes b) (r.benchUs - s.benches[b].ran)) s
        let s := s.modJob k fun j => { j with execs := (j.execs + 1) % 2 ^ 32 }
        match es with
        | [] => s.unitStands k u r ps
        | e :: _ =>
          let c := s.engines[e].ctx
          let causes := ends.foldl (fun c p => c ||| p.causes) c.causes
          if causes == 0 || (j.quenching && j.replayed u != 0) then s.unitStands k u r ps
          else
            let (outcome, wider) := replayOutcome j x
            let next := match wider, s.jobIngot j with
              | some w, some g => match g.units[w]? with
                | some y => y.aFmt
                | none => x.aFmt
              | _, _ => x.aFmt
            let events := c.flagEvents + (ends.map PartEnd.events).sum
            let word := firstFlagWord ((c.causes, c.firstWord) :: ends.map fun p => (p.causes, p.firstWord))
            let n := j.replayed u + b2n (outcome == 0)
            let us := r.engineUs + (ends.map PartEnd.us).sum
            let s := s.replayRecord k u e outcome causes.toNat (1 + ends.length) x.aFmt next n events word us
            let s := s.modJob k fun j => { j with overflows := satAdd 32 j.overflows 1 }
            match outcome, wider with
            | 0, some w => s.replayUnit k u w ps ends
            | 5, _ => s.faultJob k scNumericOverflow (.engine e)
            | 3, _ => if causes.getLsbD causeVecOvf then s.faultJob k scNumericOverflow (.engine e) else s.unitStands k u r ps
            | _, _ => s.unitStands k u r ps

def execUnitComplete (k : Key) (unit : Nat) (r : UnitResult) (s : State) : Out := .next (doUnitComplete k unit r s)

/-! ### JOB_FAULT (R90, R263) -/

/-- A Bench records a fault: BN_FAULT, the FAULT bit and its event. -/
def State.benchReason (s : State) (b : BenchId) (reason op : Nat) : State :=
  let s := s.modBench b fun x =>
    { x with reason := BitVec.ofNat 8 reason, operator := BitVec.ofNat 8 op, faults := satAdd 16 x.faults 1, fault := true }
  if s.benches[b].faultIrq then s.signal else s

/-- The tokeniser unit of a Bench faults as it reads: the reading ends with the passages before it (R253, R263). -/
def State.tokeniserFault (s : State) (b : BenchId) : State :=
  let s := s.benchReason b 6 0
  match s.benches[b].reading with
  | none => s
  | some i =>
    match s.obj i with
    | none => s
    | some o => s.endReading i (if o.appended.isEmpty && o.handed.isEmpty then .notRead else .partRead) reasonIngot

/-- Ingest meets a UE in scratch: a Bench reads its object again from chunk 0; what is appended already stays (R260, R319). -/
def State.restartReading (s : State) (b : BenchId) : State :=
  match s.benches[b].reading with
  | none => s
  | some i =>
    (s.modObj i fun o => { o with handed := o.appended, notIndexed := 0 }).modBench b fun x =>
      { x with batches := x.batches.filter fun y => !(y.entries.any fun e => e.1 == i) }

/-- The Benches whose ingest works in a memory: the Bench of an SRAM, those with a batch at the Engine of a store. -/
def State.ingestIn (s : State) (sp : Space) : List BenchId :=
  let at_ (e : EngineId) : List BenchId :=
    (List.finRange 512).filter fun b => s.benches[b].batches.any fun x => x.engine == some e
  match sp with
  | .sram b => [b]
  | .operand e | .acc e => at_ e
  | .quarter _ | .stacked => []

/-- Statuses with which a job may fault that names no source of its own (Table 17-1). -/
def faultStatuses : List Nat := [0x10, 0x11, 0x12, 0x13, 0x14, 0x15, 0x16, 0x17, 0x18, 0x24]

/-- JOB_FAULT: the source's registers, its record, and the job's teardown and completion; ingest work, which is no job's, starts
again instead (R319). -/
def doJobFault (k : Key) (cause : FaultCause) (s : State) : State :=
  let there := match s.job k with
    | some j => j.state != .waiting
    | none => false
  match cause with
  | .engine e reason op =>
    let runs := match s.engines[e].job with
      | some (k', _) => k' == k
      | none => false
    if !within reason.toNat 1 12 then s
    else if there && runs then s.engineFault e k reason.toNat op.toNat
    else if s.benches.toList.any fun b => b.batches.any fun x => x.engine == some e then
      let hand (x : Batch) : Batch := if x.engine == some e then { x with engine := none } else x
      let free (b : Bench) : Bench := { b with batches := b.batches.map hand }
      let s := { s with benches := s.benches.map free }
      (s.engineReason e reason.toNat op.toNat).reportGeneral (.engine e) .degraded 0x40 0 scEngineFault 0 none 0
    else s
  | .bench b reason =>
    if !within reason.toNat 1 6 then s
    else if there && s.benches[b].job == some k then
      let op := match s.job k with
        | some j => opCode j.kind
        | none => 0
      (s.benchReason b reason.toNat op).faultJob k scBenchFault (.bench b)
    else if reason == 6 && s.benches[b].reading.isSome then s.tokeniserFault b
    else s
  | .memory sp =>
    if there then s.faultJob k scMemoryFault (sourceOf { space := sp, off := 0 })
    else (s.ingestIn sp).foldl State.restartReading s
  | .status sc => if there && faultStatuses.contains sc.toNat then s.faultJob k sc.toNat .scheduler else s

def execJobFault (k : Key) (cause : FaultCause) (s : State) : Out := .next (doJobFault k cause s)

/-! ### Overruns (R87, R88, R205) -/

def State.overrun (s : State) : State := { s with sched := { s.sched with overruns := satAdd 32 s.sched.overruns 1 } }

/-- A non-preemptible command has run beyond its declared maximum: the C0 Shop, where waits on a refetch do not count, stops
it and its job faults; elsewhere it runs on, charged, and the Engine lags. -/
def doNonpreOverrun (e : EngineId) (ranUs : Nat) (s : State) : State :=
  match s.executes e, s.engines[e].ctx.npOpen with
  | some k, some us =>
    let c0 := match s.theMold, s.job k with
      | some m, some j => match m.shop j.shop with
        | some h => h.c0
        | none => false
      | _, _ => false
    let ranUs := if c0 then ranUs - s.npWaited e else ranUs
    if ranUs ≤ us then s
    else
      let s := s.overrun
      if c0 then s.faultJob k scNonpreOverrun (.engine e)
      else
        let more := ranUs - us
        let s := (s.charge k e.val more).modEngine e fun x => { x with ctx := { x.ctx with ran := x.ctx.ran + more } }
        { s with sched := { s.sched with lagEngine := s.sched.lagEngine.set e (s.sched.lagEngine[e] + more) } }
  | _, _ => s

def execNonpreOverrun (e : EngineId) (ranUs : Nat) (s : State) : Out := .next (doNonpreOverrun e ranUs s)

/-- A holder keeps a semaphore beyond SEM_HOLD_MAX: it faults, and its semaphores are released broken. -/
def doSemOverrun (shop : Fin 8) (n : Fin 64) (s : State) : State :=
  match (s.sem shop.val n.val).holder with
  | some k => s.faultJob k scSemOverrun .scheduler
  | none => s

def execSemOverrun (shop : Fin 8) (sem : Fin 64) (s : State) : Out := .next (doSemOverrun shop sem s)

/-- A class-0 job reaches T_JOB_US of Engine time: it stops as a Quench stops it. -/
def doJobTimeCap (k : Key) (s : State) : State :=
  match s.job k with
  | none => s
  | some j =>
    if j.cls == 0 && j.tJobUs != 0 && j.state != .waiting && j.quenchable && !j.quenching then
      s.overrun.modJob k fun j => { j with quenching := true }
    else s

def execJobTimeCap (k : Key) (s : State) : Out := .next (doJobTimeCap k s)

/-! ### JOB_QUENCH_STOP (R91) -/

/-- A non-preemptible command of the job runs on; in the C0 Shop it runs to its declared maximum at most. -/
def State.npRuns (s : State) (k : Key) : Bool :=
  let c0 := match s.theMold, s.job k with
    | some m, some j => match m.shop j.shop with
      | some h => h.c0
      | none => false
    | _, _ => false
  (List.finRange 48).any fun e =>
    let x := s.engines[e]
    (match x.job with
     | some (k', _) => k' == k && x.state == .running
     | none => false) &&
    (match x.ctx.npOpen with
     | some us => !(c0 && x.ctx.npStart + us + s.npWaited e ≤ s.clockUs)
     | none => false)

/-- A job ends QUENCHED with the hits found and the output of the work done (R91). -/
def State.stopJob (s : State) (j : Job) : State :=
  let hits := s.rankHits j
  let s := (s.produce j true).1
  (s.modJob j.key fun j => { j with hits := hits }).endWith j.key scQuenched

/-- The job of a Quench stops at its pre-emption point with the partial results that its operator defines. -/
def doJobQuenchStop (k : Key) (s : State) : State :=
  match s.job k with
  | none => s
  | some j =>
    if !j.quenching || s.npRuns k then s
    else
      match j.kind with
      | .objGet _ => (s.refuse k scQuenched).dropJob k
      | .query | .operator _ =>
        if j.state == .waiting then
          (s.status k scQuenched 64 0 (s.answerHead j 7 scQuenched true false false 0)).dropJob k
        else
          if s.waitsSign j true then s.waitSign k true else s.stopJob j

def execJobQuenchStop (k : Key) (s : State) : Out := .next (doJobQuenchStop k s)

/-! ### HALLMARK_REBUILD_DONE (R357) -/

/-- A Hallmark that waited for the rebuild is made. -/
def State.serveWaiting (s : State) : HallmarkUse → State
  | .attest e => s.makeAttest e
  | .challenge p c => s.spdmSigned p 0x03 c
  | .measure p c => s.spdmSigned p 0x60 c
  | .tune k quenched =>
    match s.job k with
    | some j => if j.gateOrder.isSome then s else if quenched then s.stopJob j else s.finishJob k []
    | none => s

/-- The traversal state is rebuilt (R357): what waited is served in order. -/
def doHallmarkRebuildDone (s : State) : State :=
  let w := s.sec.waiting
  w.foldl State.serveWaiting { s with sec := { s.sec with rebuilt := true, waiting := [] } }

def execHallmarkRebuildDone (s : State) : Out := .next (doHallmarkRebuildDone s)

end Sys2Proof.Machine
end

