-- ==== Sys2Proof/Machine/LinkOps.lean ====
section
/-! DEFINITION. The Channel links: tag failures, retrains, rekeys, and a channel die that fails (R21, R244 to R248). -/

namespace Sys2Proof.Machine

/-- Bench c = 0 of a die, whose page holds the link's registers (R264). -/
def linkBench (d : DieId) : BenchId := benchOfDie d 0

/-- BN_LINK changes: the interrupt of the die's Bench c = 0 where LINK_STATE differs (Table 10-10). -/
def State.setLink (s : State) (d : DieId) (f : Link → Link) : State :=
  let old := s.links[d].state
  let s := s.modLink d f
  if s.links[d].state != old && s.benches[linkBench d].linkIrq then s.signal else s

/-- The counters of a link count while COUNT_EN of its page is 1. -/
def State.countLink (s : State) (d : DieId) (f : Link → Link) : State :=
  if s.benches[linkBench d].countEn then s.modLink d f else s

/-- Four keys from the Sterling random source (R244). -/
def State.freshKeys (s : State) : List (BitVec 256) × State :=
  let (a, s) := s.fresh256
  let (b, s) := s.fresh256
  let (c, s) := s.fresh256
  let (d, s) := s.fresh256
  ([a, b, c, d], s)

/-- All eight lanes of a link. -/
def allLanes : BitVec 8 := 0xFF

/-- The encapsulation key of a channel die: its device key, or in Raw and Melted that of the ephemeral pair it drew (R244,
R245). -/
def State.linkKem (s : State) (d : DieId) : List Byte :=
  match s.dieKey d.val, s.links[d].ephemeral with
  | some k, _ => k
  | none, some e => Config.kemKey (le 64 e.toNat)
  | none, none => []

/-- The keys of a link are delivered under the die's key; a die without one has drawn an ephemeral pair (R244, R245). -/
def State.deliverKeys (s : State) (d : DieId) : State :=
  let s :=
    if (s.dieKey d.val).isSome then s.modLink d fun l => { l with ephemeral := none }
    else if s.links[d].ephemeral.isSome then s
    else
      let (e, s) := s.fresh256
      s.modLink d fun l => { l with ephemeral := some e }
  let k := s.linkKem d
  s.modLink d fun l => { l with delivered := Config.encapsulate k l.keys }

/-- The nonce of a frame (R244): the place of its key in the order of R244 gives the direction and the sideband flag (log
99). -/
def Link.nonce (l : Link) (f : LinkFrame) : List Byte := le 1 f.key.val ++ le 1 l.keyGen ++ le 2 0 ++ le 8 f.counter

/-- A frame counter has passed a frame. -/
def Link.pass (l : Link) (f : LinkFrame) : Link :=
  { l with frames := l.frames.set f.key.val (max (l.frames.getD f.key.val 0) (f.counter + 1)) }

/-- A frame fails its tag check (R21): it is discarded, counted, and sent again. -/
def doLinkFrameTagFail (d : DieId) (frame : LinkFrame) (s : State) : State :=
  if s.links[d].state != .up then s
  else
    let s := s.countLink d fun l => { l with tagFail := satAdd 32 l.tagFail 1, retry := satAdd 32 l.retry 1 }
    s.modLink d fun l => { l.pass frame with failing := assocSet l.failing frame (lookupD l.failing frame 0 + 1) }

def execLinkFrameTagFail (d : DieId) (frame : LinkFrame) (s : State) : Out := .next (doLinkFrameTagFail d frame s)

/-- Retrains of a link within the second that ends with its newest. -/
def Link.lateRetrains (l : Link) : Nat :=
  match l.retrainTimes.getLast? with
  | some t => (l.retrainTimes.filter fun x => t ≤ x + 1000000).length
  | none => 0

/-- A frame has failed 8 times: the link retrains with four fresh keys (R247), and holds the frames without an
acknowledgement, the failing one among them. -/
def doLinkRetrain (x : LinkUnacked) (s : State) : State :=
  let d := x.die
  if s.links[d].state != .up || !(s.links[d].failing.any fun p => 8 ≤ p.2) then s
  else
    let (ks, s) := s.freshKeys
    let now := s.clockUs
    let s := s.countLink d fun l => { l with retrain := satAdd 32 l.retrain 1 }
    s.setLink d fun l =>
      { l with
        state := .training, keyGen := (l.keyGen + 1) % 256, lanes := 0, keys := ks, frames := [0, 0, 0, 0]
        unacked := ((l.failing.filter fun p => 8 ≤ p.2 && !x.frames.contains p.1).map Prod.fst) ++ x.frames
        failing := [], retrainTimes := (l.retrainTimes.filter fun t => now ≤ t + 1000000) ++ [now] }

def execLinkRetrain (d : LinkUnacked) (s : State) : Out := .next (doLinkRetrain d s)

/-- The frames held are sent again in their order, each counted, under the fresh keys (R247). -/
def State.resendFrames (s : State) (d : DieId) : State :=
  let n := s.links[d].unacked.length
  let s := s.countLink d fun l => { l with retry := satAdd 32 l.retry n }
  s.modLink d fun l =>
    { l with
      unacked := []
      frames := (List.finRange 4).map fun k => l.frames.getD k.val 0 + (l.unacked.filter fun f => f.key == k).length }

/-- Lanes train again. Once all eight have, the retrain ends, the frames held are sent again and the work that waited for the
die goes on, unless it was the fourth retrain within 1 s (R247, R248). -/
def doLinkRetrainComplete (x : LinkLanes) (s : State) : State :=
  let d := x.die
  if s.links[d].state != .training || s.power.phase != .running || s.links[d].lateRetrains ≥ 4 then s
  else
    let lanes := s.links[d].lanes ||| x.trained
    if lanes != allLanes then s.modLink d fun l => { l with lanes := lanes }
    else
      (((s.setLink d fun l => { l with state := .up, lanes := lanes }).deliverKeys d).resendFrames d).resumeGets fun b =>
        dieOfBench b == d

def execLinkRetrainComplete (d : LinkLanes) (s : State) : Out := .next (doLinkRetrainComplete d s)

/-- The frame counter of a key stands at a count; at 2^40 the key is changed at a frame boundary (R244, R246). -/
def doLinkRekey (d : DieId) (key : LinkFrame) (s : State) : State :=
  if s.links[d].state != .up then s
  else
    let n := max (s.links[d].frames.getD key.key.val 0) key.counter
    if n < 2 ^ 40 then s.modLink d fun l => { l with frames := l.frames.set key.key.val n }
    else
      let (k, s) := s.fresh256
      let s := s.countLink d fun l => { l with rekey := satAdd 32 l.rekey 1 }
      s.modLink d fun l =>
        { l with keys := l.keys.set key.key.val k, frames := l.frames.set key.key.val 0, keyGen := (l.keyGen + 1) % 256 }

def execLinkRekey (d : DieId) (key : LinkFrame) (s : State) : Out := .next (doLinkRekey d key s)

/-- The dirty tails of a Bench that fails go to its own NAND, in stripes where no append block takes them, and its tail cache
empties (R248). -/
def State.flushTails (s : State) (b : BenchId) : State :=
  let names := s.benches[b].tails.map fun t => tailGranule b t.slot
  let epoch := s.search.epoch
  let put (f : Flash) (w : PageWork) : Flash := ((f.putSlc roleAppend epoch w).or (f.putQlc true epoch [w])).getD f
  let ws := (s.benches[b].tails.filter fun t => s.mem.dirty.any fun g => g.granule == tailGranule b t.slot).map s.tailPage
  let s := s.modFlash b fun f => ws.foldl put f
  let s := s.modBench b fun x => { x with tails := [] }
  { s with mem := { s.mem with
      dirty := s.mem.dirty.filter fun g => !names.contains g.granule
      writtenBack := names.foldl (fun w g => assocSet w g s.clockUs) s.mem.writtenBack } }

/-- One Bench of a failed channel die: FAILED, its operator faults with reason LINK, its lists are left out of the queries
that visit it, and the OBJ_GETs that wait for it are refused. -/
def State.benchDies (s : State) (b : BenchId) : State :=
  let s := s.flushTails b
  let s := match s.benches[b].job with
    | some k =>
      let op := match s.job k with
        | some j => opCode j.kind
        | none => 0
      (s.benchReason b 5 op).faultJob k scBenchFault (.bench b)
    | none => s
  let now := s.clockUs
  let s := s.modBench b fun x => { (x.endStall now) with state := .failed, batches := [] }
  (s.leaveOut b).refuseGets b

/-- The fourth retrain within 1 s: the channel die and its 16 Benches are FAILED until the next module reset (R248). -/
def doChannelDieFailed (d : DieId) (s : State) : State :=
  if s.links[d].state == .failed || s.links[d].lateRetrains < 4 then s
  else
    s.withSmart fun s =>
      let s := s.setLink d fun l => { l with state := .failed, lanes := 0 }
      let s := (benchesOf d).foldl State.benchDies s
      s.reportGeneral (.link d) .failed 0x54 0 d.val 0 none 0

def execChannelDieFailed (d : DieId) (s : State) : Out := .next (doChannelDieFailed d s)

end Sys2Proof.Machine
end

