-- ==== Sys2Proof/Machine/FlashOps.lean ====
section
/-! DEFINITION. The flash media at work: page reads with retry, programs and erases with suspension, the SLC region, stripes,
retirement, refresh, patrol, training, brown-out and raw reads (chapter 11). -/

namespace Sys2Proof.Machine

/-! ### A failed die (R273, R275) -/

/-- A failed die leaves the stripes: they name its blocks no more, and those that were open take no more rows. -/
def Flash.cutStripe (epoch : Nat) (d : Fin 8) (f : Flash) (t : Stripe) : Flash :=
  if !(t.blocks.any fun i => i.die == d) then f
  else
    let t := { t with blocks := t.blocks.filter fun i => i.die != d }
    (f.closeStripe epoch t).setStripe { t with next := 1536 }

/-- The record of a block that is retired with its die. -/
def State.dieBlockRecord (b : BenchId) (gone : List PageIdent) (s : State) (i : BlockId) : State :=
  s.mediaRecord b .degraded 0x11 3 (physWord { blk := i, row := 0 } (s.flash[b].blk i).slc) none
    (gone.filter fun x => x.page.blk == i).length

/-- A die that fails training three times in a row (R273): its blocks are retired with what they hold, and the pages read as
UNCORRECTABLE. -/
def State.failDie (s : State) (b : BenchId) (d : Fin 8) : State :=
  if s.flash[b].failedDies.contains d then s
  else
    s.withSmart fun s =>
      let f := s.flash[b]
      let gone := f.idents.filter fun x => x.page.blk.die == d
      let all := (List.finRange 4).flatMap fun p => (List.range blocksPerPlane).map fun k => ({ die := d, plane := p, block := k } : BlockId)
      let new := all.filter fun i => (f.blk i).state != .retired
      let shut (k : Block) : Block := if k.id.die == d then { k with state := .retired } else k
      let g := { f with
        failedDies := f.failedDies ++ [d], userBlocks := f.userBlocks - new.length, retired := satAdd 16 f.retired new.length
        pagesLost := satAdd 16 f.pagesLost gone.length, ops := f.ops.filter fun o => o.block.die != d
        idents := f.idents.filter fun x => x.page.blk.die != d, blocks := f.blocks.map shut }
      let s := gone.foldl State.losePage (s.moveTo b (f.stripes.foldl (Flash.cutStripe s.search.epoch d) g))
      let s := s.mediaRecord b .failed 0x12 0 d.val none gone.length
      (new.foldl (State.dieBlockRecord b gone) s).capacityCheck b

/-! ### PAGE_READ (R274, R275, R226) -/

/-- Class-0 queries whose sweep over a list met read-retry complete without the promise (R83, the worked example of
chapter 11). -/
def State.retryUnbound (s : State) (b : BenchId) (list : Nat) : State :=
  let ks := (s.search.sweeps.filter fun w => w.bench == b && w.list == list).flatMap Sweep.queries
  ks.foldl State.markUnbound s

/-- The read of a page for a sweep went past its first step. -/
def State.readSlow (s : State) (b : BenchId) (reader : Reader) (x : Option PageIdent) : State :=
  match reader, x with
  | .c0, some x | .sweep, some x => if x.kind == 1 then s.retryUnbound b x.content else s
  | _, _ => s

/-- A metadata home page belongs to a granule. -/
def PageIdent.homes (x : PageIdent) (g : Nat) : Bool := homeIndex g ≤ x.index && x.index < homeIndex g + 4

/-- Collections of a metadata page: those whose lists, centroids, descriptors or objects lie in its granule, or that of the
object of a journal entry (R275, log 29). -/
def State.metadataColls (s : State) (x : PageIdent) : List Nat :=
  if x.kind == 3 then
    let list (l : Lst) : Bool := x.homes (directoryGranule l.num) || x.homes (logGranule l.num)
    let coll (c : Coll) : Bool := x.homes (descriptorGranule c.id) || x.homes (centroidGranule c.id)
    ((s.search.colls.filter coll).map Coll.id ++ (s.search.lists.filter list).map Lst.coll ++
      (s.search.objs.filter fun o => x.homes (objectMapGranule o.id)).map Obj.coll).eraseDups
  else ((s.obj x.content).map Obj.coll).toList

/-- Some other Bench holds a copy of a page, on a die that has not failed (R275). -/
def State.hasCopy (s : State) (b : BenchId) (x : PageIdent) : Bool :=
  (List.finRange 512).any fun c => c != b && s.benchOk c && s.flash[c].idents.any fun y =>
    y.kind == x.kind && y.content == x.content && (x.kind == 4 || y.index == x.index) && !s.flash[c].dieDead y.page.blk.die.val

/-! The spare area of a page (R267): data codeword i covers the 512 bytes from 512 i on, its parity stands at spare offset 56 i;
the identity and its parity stand at 1,792. -/

/-- The data codewords that hold some bytes of a page, which a column read transfers with their parity (R224, R267). -/
def columnCodewords (off n : Nat) : List Nat := (List.range 32).filter fun i => off < 512 * i + 512 && 512 * i < off + n

/-- Data codewords among those that fail: the identity's own holds no data. -/
def dataCodewords (l : List Nat) : List Nat := l.filter fun c => c < 32

/-- What a reader makes of a page with codewords lost (Table 11-8): of an object, the bytes of those codewords are lost, whoever
reads (R274). -/
def State.readLost (s : State) (reader : Reader) (x : PageIdent) (cws : List Nat) : State :=
  let s := match (dataCodewords cws).min? with
    | some c => if x.kind == 0 then s.markLost x.content (16384 * x.index + 512 * c) else s
    | none => s
  match reader with
  | .metadata false => (s.metadataColls x).foldl (fun s c => s.modColl c fun c => { c with unavailable := true }) s
  | _ => s

/-- The good copy of a metadata home or journal page is written again in place of the lost one (R275). -/
def Flash.rewrite (f : Flash) (x : PageIdent) : Option Flash :=
  if x.kind == 4 then f.putSlc roleJournal x.epoch x.copy
  else { f with idents := f.idents.filter fun y => y != x }.putQlc false x.epoch [x.copy]

/-- An UNCORRECTABLE read: counted, recorded, its outcome, and the block retired; a metadata page with a good copy is
rewritten. -/
def State.readFailed (s : State) (b : BenchId) (p : PhysPage) (reader : Reader) (cws : List Nat) : State :=
  let x := s.flash[b].ident p
  let known := if cws.contains 32 then none else x
  let reader := match reader, x with
    | .metadata ok, some x => .metadata (ok && s.hasCopy b x)
    | r, _ => r
  let s := s.modFlash b fun f => { f with uncorr := satAdd 32 f.uncorr 1 }
  let s := s.mediaRecord b .degraded 0x10 0 (physWord p (s.flash[b].blk p.blk).slc) known 0
  let s := match x with
    | some x => s.readLost reader x cws
    | none => s
  let s := match reader with
    | .metadata true => s.modFlash b fun f => (x.bind f.rewrite).getD f
    | _ => s
  let lost : List PageIdent := match x with
    | some x => [x]
    | none => []
  s.retireBlock b p.blk 2 p.row known lost

/-- A read of a die waits for the program or erase in progress there, unless it has suspended it; no filler page is read (R271,
R284). -/
def Flash.readStops (f : Flash) (p : PhysPage) : Bool :=
  (f.ops.any fun o => o.block.die == p.blk.die && !o.suspended) || (f.fillerAt p).isSome

/-- A page is sensed and decoded under Table 11-7. A read that suspended an operation leaves the queue of its die (R284). -/
def doPageRead (b : BenchId) (p : PhysPage) (reader : Reader) (outcome : ReadOutcome) (s : State) : State :=
  let k := s.flash[b].blk p.blk
  let outcome := if s.flash[b].dieDead p.blk.die.val then .uncorrectable (List.range 33) else outcome
  if !s.nandOk b || k.state == .erasing || k.state == .suspended || p.row ≥ k.rows || s.flash[b].readStops p then s
  else
    let x := s.flash[b].ident p
    let s := s.modFlash b fun f =>
      { f with
        pagesRead := (f.pagesRead + 1) % 2 ^ 64, readQueue := f.readQueue.erase (p.blk.die, reader) }.modBlk p.blk fun k => { k with reads := k.reads + 1 }
    match outcome with
    | .step1 => s
    | .retry before =>
      let s := s.modFlash b fun f =>
        { f with retryReads := (f.retryReads + 1) % 2 ^ 64 }.modBlk p.blk fun k =>
          { k with good := (k.good + before.val + 1) % 17, worn := k.worn || before.val ≥ 8 }
      s.readSlow b reader x
    | .soft g =>
      let s := s.modFlash b fun f =>
        { f with retryReads := (f.retryReads + 1) % 2 ^ 64, softReads := (f.softReads + 1) % 2 ^ 64 }.modBlk p.blk fun k =>
          { k with good := g.val, worn := true }
      s.readSlow b reader x
    | .uncorrectable cws =>
      let s := s.modFlash b fun f =>
        { f with retryReads := (f.retryReads + 1) % 2 ^ 64, softReads := (f.softReads + 1) % 2 ^ 64 }
      (s.readSlow b reader x).readFailed b p reader cws

def execPageRead (b : BenchId) (page : PhysPage) (reader : Reader) (outcome : ReadOutcome) (s : State) : Out :=
  .next (doPageRead b page reader outcome s)

/-! ### Programs (R279, R286) -/

/-- A program or erase runs on a die. -/
def Flash.busy (f : Flash) (d : Fin 8) : Bool := f.ops.any fun o => o.block.die == d

/-- Issue the program of a page into the append block of its slot; none where the append waits. -/
def Flash.issue (f : Flash) (epoch now : Nat) (w : PageWork) : Option Flash :=
  match f.roleBlock roleAppend (slotOf w.index) with
  | none => none
  | some k =>
    if f.busy k.id.die then none
    else
      let x := w.stamp { blk := k.id, row := k.next } f.seq epoch
      let f := f.setBlk (k.advance k.next)
      some { f with
        seq := (f.seq + 1) % 2 ^ 64, ops := f.ops ++ [{ block := k.id, ident := some x, resumedUs := now, suspended := false }] }

/-- A page of a stream that has filled starts its program (R215, R279). -/
def doStreamPageProgram (b : BenchId) (list : Nat) (st : Fin 5) (s : State) : State :=
  match s.lst list with
  | none => s
  | some l =>
    let dims := match s.coll l.coll with
      | some c => c.dims
      | none => 0
    let j := l.fullOf st.val
    let w : PageWork := { kind := 1, stream := st.val, content := list, index := j, origin := none }
    let going := s.flash[b].ops.any fun o => match o.ident with
      | some x => x.kind == 1 && x.stream == st.val && x.content == list && x.index == j
      | none => false
    if l.bench != b || l.streamBytes dims st.val / 16384 ≤ j || going || !s.nandOk b || s.benchKept b then s
    else
      match s.flash[b].issue s.search.epoch s.clockUs w with
      | some f => s.modFlash b fun _ => f
      | none => s

def execStreamPageProgram (b : BenchId) (list : Nat) (stream : Fin 5) (s : State) : Out :=
  .next (doStreamPageProgram b list stream s)

/-- The extent chain of a list gains a page: the stream has one more full page on flash. -/
def State.streamPageDone (s : State) (b : BenchId) (x : PageIdent) : State :=
  let s := s.modFlash b fun f =>
    let f := f.release fun y => y.kind == 1 && y.stream == x.stream && y.content == x.content && y.index == x.index
    { f with idents := x :: f.idents, pagesProg := (f.pagesProg + 1) % 2 ^ 64 }
  let s := s.modList x.content fun l => { l with pages := assocSet l.pages x.stream (max (l.fullOf x.stream) (x.index + 1)) }
  (s.dirtyThrough (quarterOfBench b) (directoryGranule x.content) 4).1.recountUsed b

/-- A program ends. Passed, its page is named by the map; failed, it is repeated at the next free page of its role and the
block is retired, with the pages that could not be moved lost (R286). -/
def doNandProgramComplete (b : BenchId) (p : PhysPage) (pass : Bool) (pagesLost : Nat) (s : State) : State :=
  let op := s.flash[b].ops.find? fun o => o.ident.any fun x => x.page == p
  let bad := (s.flash[b].validIn p.blk).take pagesLost
  match op with
  | some o =>
    if o.suspended then s
    else
      let s := s.modFlash b fun f => { f with ops := f.ops.filter fun y => y != o }
      match o.ident with
      | none => s
      | some x =>
        if pass then s.streamPageDone b x
        else
          let s := s.retireBlock b p.blk 0 p.row (some x) bad
          match s.flash[b].issue s.search.epoch s.clockUs x.copy with
          | some f => s.modFlash b fun _ => f
          | none => s
  | none =>
    let k := s.flash[b].blk p.blk
    if pass || !(k.state == .open || k.state == .full) then s else s.retireBlock b p.blk 0 p.row (s.flash[b].ident p) bad

def execNandProgramComplete (b : BenchId) (page : PhysPage) (pass : Bool) (pagesLost : Nat) (s : State) : Out :=
  .next (doNandProgramComplete b page pass pagesLost s)

/-! ### Erases and suspension (R282 to R284) -/

/-- The block that FM_RAW_ADDR names, and whether the address keeps to Table 11-13. -/
def rawTarget (w : Word32) : Option BlockId :=
  let v := w.toNat
  let k := bits v 16 5
  if k > 2730 || bits v 27 17 > (if bit v 28 then 383 else 1535) then none
  else some { die := ⟨v % 8, by omega⟩, plane := ⟨v / 8 % 4, by omega⟩, block := k }

/-- An erase starts once no map names a page of the block, no raw read of it is in flight, and no sweep that may have begun before
still runs. -/
def doBlockEraseStart (b : BenchId) (i : BlockId) (s : State) : State :=
  let f := s.flash[b]
  let k := f.blk i
  if (k.state == .full || k.state == .eraseIncomplete) && (f.validIn i).isEmpty &&
      !(f.stripes.any fun t => t.blocks.contains i) && !(f.rawBusy && rawTarget f.rawAddr == some i) && !(s.search.sweeps.any fun w => w.bench == b) && !f.busy i.die &&
      s.nandOk b && !s.benchKept b then
    let o : NandOp := { block := i, ident := none, resumedUs := s.clockUs, suspended := false }
    s.modFlash b fun f =>
      { f with ops := f.ops ++ [o] }.modBlk i fun k =>
        { k with state := .erasing }
  else s

def execBlockEraseStart (b : BenchId) (blk : BlockId) (s : State) : Out := .next (doBlockEraseStart b blk s)

/-- An erase ends: FREE, or retired after an erase-status failure. -/
def doNandEraseComplete (b : BenchId) (i : BlockId) (pass : Bool) (pagesLost : Nat) (s : State) : State :=
  match s.flash[b].ops.find? fun o => o.block == i && o.ident.isNone with
  | none => s
  | some o =>
    if o.suspended then s
    else
      let bad := (s.flash[b].validIn i).take pagesLost
      let s := s.modFlash b fun f => { f with ops := f.ops.filter fun y => y != o }
      if pass then
        s.modFlash b fun f => f.erased i
      else s.retireBlock b i 1 0 none bad

def execNandEraseComplete (b : BenchId) (blk : BlockId) (pass : Bool) (pagesLost : Nat) (s : State) : Out :=
  .next (doNandEraseComplete b blk pass pagesLost s)

/-- Readers that suspend at once (R284). -/
def Reader.urgent : Reader → Bool
  | .c0 | .refetch _ | .flush => true
  | .objGet _ | .ingest | .sweep | .patrol | .burnish | .metadata _ | .other => false

/-- The block of an erase moves between ERASING and SUSPENDED with it. -/
def Flash.setOp (f : Flash) (o o' : NandOp) : Flash :=
  let f := { f with ops := updFirst f.ops (· == o) fun _ => o' }
  if o.ident.isNone then f.modBlk o.block fun k => { k with state := if o'.suspended then .suspended else .erasing } else f

/-- A read suspends the operation in progress on its die: at once where the reader is urgent, else after 1 ms. It is queued for
the die until it has been made. -/
def doNandSuspend (b : BenchId) (d : Fin 8) (reader : Reader) (s : State) : State :=
  match s.flash[b].ops.find? fun o => o.block.die == d && !o.suspended with
  | none => s
  | some o =>
    if !s.nandLow b && (Reader.urgent reader || s.clockUs ≥ o.resumedUs + 1000) then
      s.modFlash b fun f =>
        { f with suspends := satAdd 32 f.suspends 1, readQueue := f.readQueue ++ [(d, reader)] }.setOp o { o with suspended := true }
    else s

def execNandSuspend (b : BenchId) (die : Fin 8) (reader : Reader) (s : State) : Out := .next (doNandSuspend b die reader s)

/-- No read that suspended the operation is queued any more: it resumes. -/
def doNandResume (b : BenchId) (d : Fin 8) (s : State) : State :=
  match s.flash[b].ops.find? fun o => o.block.die == d && o.suspended with
  | none => s
  | some o =>
    if s.nandLow b || s.flash[b].readQueue.any (fun r => r.1 == d) then s
    else
      let now := s.clockUs
      s.modFlash b fun f => f.setOp o { o with suspended := false, resumedUs := now }

def execNandResume (b : BenchId) (die : Fin 8) (s : State) : Out := .next (doNandResume b die s)

/-- The oldest append of a Bench that waits for an append block goes on once one is erased (R279). -/
def execAppendWaitResume (b : Timed BenchId) (s : State) : Out := .next (s.retryAppend b.what b.us)

/-! ### Fold, consolidation, garbage collection (R280, R281) -/

/-- C2 and C3 media work may start on a Bench. -/
def State.mediaFree (s : State) (b : BenchId) : Bool := s.nandOk b && !s.benchKept b

/-- The staged pages of the object whose page has waited longest move into stripe extents. -/
def doFold (b : BenchId) (s : State) : State :=
  let f := s.flash[b]
  match f.idents.reverse.find? fun x => x.kind == 0 && f.inRole roleStaging x with
  | none => s
  | some x =>
    if !s.mediaFree b then s
    else
      match f.moveQlc false s.search.epoch fun y => y.kind == 0 && y.content == x.content && f.inRole roleStaging y with
      | some f => s.moveTo b f
      | none => s

def execFold (b : BenchId) (s : State) : Out := .next (doFold b s)

/-- Single-form pages of a list stream, an evicted partial tail among them (R243). -/
def Flash.single (f : Flash) (l : Lst) (st : Nat) (x : PageIdent) : Bool :=
  x.kind == 1 && x.content == l.num && x.stream == st && x.index ≤ l.fullOf st && f.inRole roleAppend x

/-- The open stripe is closed where it has fewer rows left than an extent of some pages needs. -/
def Flash.fitExtent (f : Flash) (epoch : Nat) (xs : List PageIdent) : Flash :=
  let at_ := xs.map PageIdent.index
  match f.openStripe, at_.min?, at_.max? with
  | some t, some i, some j => if 1536 - t.next < j / 32 - i / 32 + 1 then f.closeStripe epoch t else f
  | _, _, _ => f

/-- More than 75 % of the append region is used. -/
def Flash.appendTight (f : Flash) : Bool := 4 * f.roleUsed roleAppend (fun _ => true) > 3 * 512

/-- A stream's single-form pages become one stripe extent. -/
def doConsolidation (b : BenchId) (list : Nat) (st : Fin 5) (s : State) : State :=
  match s.lst list with
  | none => s
  | some l =>
    let f := s.flash[b]
    let n := (f.idents.filter (f.single l st.val)).length
    if l.bench != b || n == 0 || !(n ≥ 32 || f.appendTight) || !s.mediaFree b then s
    else
      let f := f.fitExtent s.search.epoch (f.idents.filter (f.single l st.val))
      match f.moveQlc false s.search.epoch (f.single l st.val) with
      | some g => s.moveTo b g
      | none => s

def execConsolidation (b : BenchId) (list : Nat) (stream : Fin 5) (s : State) : Out :=
  .next (doConsolidation b list stream s)

/-- Valid pages of a stripe. -/
def Flash.validOf (f : Flash) (t : Stripe) : Nat := (f.idents.filter fun x => t.blocks.contains x.page.blk).length

/-- The victim of garbage collection: the full stripe with the fewest valid pages, the lower number on a tie. -/
def Flash.victim (f : Flash) : Option Stripe :=
  bestBy (fun x y => f.validOf x < f.validOf y || (f.validOf x == f.validOf y && x.num < y.num))
    (f.stripes.filter fun t => t.next ≥ 1536)

/-- The valid pages of the victim move away and its entry leaves the stripe table; its blocks wait for their erases. -/
def doGarbageCollection (b : BenchId) (s : State) : State :=
  let f := s.flash[b]
  match f.victim with
  | none => s
  | some t =>
    if f.minFree ≥ 64 || !s.mediaFree b then s
    else
      match f.moveQlc true s.search.epoch fun x => t.blocks.contains x.page.blk with
      | some f => (s.moveTo b { f with stripes := f.stripes.filter fun u => u.num != t.num }).storeTables b
      | none => s

def execGarbageCollection (b : BenchId) (s : State) : Out := .next (doGarbageCollection b s)

/-- Least erase count of a die's blocks: 0 while some block of it has no history. -/
def Flash.leastPe (f : Flash) (d : Fin 8) : Nat :=
  let ks := f.blocks.filter fun k => k.id.die == d && k.state != .retired
  let known := (f.blocks.filter fun k => k.id.die == d).length
  if known < 4 * blocksPerPlane then 0 else ((ks.map Block.erases).min?).getD 0

def Flash.mostPe (f : Flash) (d : Fin 8) : Nat :=
  ((f.blocks.filter fun k => k.id.die == d && k.state != .retired).map Block.erases).foldl max 0

/-- Erase counts of a die differ by more than 200: the data of its least-erased block moves. -/
def doWearLevelMove (b : BenchId) (d : Fin 8) (s : State) : State :=
  let f := s.flash[b]
  let least := f.leastPe d
  let held (k : Block) : Bool := k.id.die == d && k.erases == least && k.state == .full && !(f.validIn k.id).isEmpty
  match f.blocks.find? held with
  | none => s
  | some k =>
    if f.mostPe d ≤ least + 200 || !s.mediaFree b then s
    else
      let (f, gone) := f.vacate false s.search.epoch k.id []
      if gone.isEmpty then s.moveTo b (f.unstripe s.search.epoch k.id) else s

def execWearLevelMove (b : BenchId) (die : Fin 8) (s : State) : Out := .next (doWearLevelMove b die s)

/-! ### Refresh, patrol and training (R273, R288, R289) -/

/-- A block is due for refresh. -/
def Block.due (k : Block) : Bool := k.worn || k.reads ≥ (if k.slc then 5000000 else 500000)

/-- A refresh: the valid pages move, the block becomes a victim. -/
def doBlockRefresh (b : BenchId) (i : BlockId) (s : State) : State :=
  let f := s.flash[b]
  let k := f.blk i
  if !k.due || !(k.state == .open || k.state == .full) || !s.mediaFree b then s
  else
    let f := (f.fillBlock s.search.epoch i).unstripe s.search.epoch i
    let (f, gone) := f.vacate true s.search.epoch i []
    if gone.isEmpty then
      s.moveTo b ({ f with refreshes := satAdd 32 f.refreshes 1 }.modBlk i fun k => { k with worn := false, reads := 0 })
    else s

def execBlockRefresh (b : BenchId) (blk : BlockId) (s : State) : Out := .next (doBlockRefresh b blk s)

/-- A patrol pass that has lasted PATROL_DAYS ends, and the next begins. -/
def Flash.patrolPass (f : Flash) (now : Nat) : Flash :=
  if f.patrolFrom + 86400000000 * f.patrolDays ≤ now then { f with patrolFrom := now, patrolSeen := [] } else f

/-- A patrol read of a programmed page that the pass has not read is issued; PAGE_READ is the read itself. No filler page is
read (R271). -/
def doPatrolRead (b : BenchId) (p : PhysPage) (s : State) : State :=
  let f := s.flash[b].patrolPass s.clockUs
  let k := f.blk p.blk
  if f.patrolEn && (k.state == .open || k.state == .full) && p.row < k.next && s.mediaFree b && (f.fillerAt p).isNone &&
      !f.patrolSeen.contains p then
    s.modFlash b fun _ => { f with patrolPages := (f.patrolPages + 1) % 2 ^ 64, patrolSeen := p :: f.patrolSeen }
  else s

def execPatrolRead (b : BenchId) (page : PhysPage) (s : State) : Out := .next (doPatrolRead b page s)

/-- A retraining is never placed inside a C0 window: none while a Bench is held or runs a sweep of a C0 query (R273). -/
def State.inC0Window (s : State) (b : BenchId) : Bool :=
  s.benchKept b || s.search.sweeps.any fun w => w.bench == b && w.queries.any fun q => match s.job q with
    | some j => j.cls == 0
    | none => false

def doZqCalibration (b : BenchId) (d : Fin 8) (s : State) : State :=
  if s.nandPowered b && !s.inC0Window b && !s.flash[b].failedDies.contains d then
    let now := s.clockUs
    s.modFlash b fun f => { f with lastZq := f.lastZq.set d now }
  else s

def execZqCalibration (b : BenchId) (die : Fin 8) (s : State) : Out := .next (doZqCalibration b die s)

/-- Read DQ training of a die; the third failure in a row declares the die failed. -/
def doDqTraining (b : BenchId) (d : Fin 8) (pass : Bool) (s : State) : State :=
  if !s.nandPowered b || s.inC0Window b || s.flash[b].failedDies.contains d then s
  else if pass then
    let now := s.clockUs
    s.modFlash b fun f => { f with lastDq := f.lastDq.set d now, trainFails := f.trainFails.set d 0 }
  else
    let s := s.modFlash b fun f => { f with trainFails := f.trainFails.set d (f.trainFails[d] + 1) }
    if s.flash[b].trainFails[d] ≥ 3 then s.failDie b d else s

def execDqTraining (b : BenchId) (die : Fin 8) (pass : Bool) (s : State) : Out := .next (doDqTraining b die pass s)

/-! ### NAND brown-out (R291) -/

/-- A NAND supply of a group falls below its threshold: no further NAND command, and the flag and record of each Bench. -/
def State.nandFalls (s : State) (r : Rail) (g : DieId) : State :=
  let s := s.modPower fun p => { p with rails := insertNew p.rails r }
  (benchesOf g).foldl
    (fun s b => (s.modFlash b fun f => { f with brownout := true }).mediaRecord b .degraded 0x13 0 0 none 0) s

def execNandBrownout (g : DieId) (s : State) : Out :=
  .next (if s.power.rails.contains (.nandVcc g) then s else s.nandFalls (.nandVcc g) g)

/-- The channel of a Bench is reset and retrained (R291). -/
def Flash.retrain (now : Nat) (f : Flash) : Flash :=
  { f with lastZq := Vector.replicate 8 now, lastDq := Vector.replicate 8 now, trainFails := Vector.replicate 8 0 }

/-- Pages of the last programmed word line of a block. -/
def Block.lastLine (k : Block) : Nat := if k.next == 0 then 0 else if k.slc then 1 else (k.next - 1) % 4 + 1

/-- The last programmed word line of every OPEN block is read back (R291). -/
def Flash.readBack (f : Flash) : Flash :=
  let due := f.blocks.filter fun k => k.state == .open
  { f with
    pagesRead := (f.pagesRead + (due.map Block.lastLine).sum) % 2 ^ 64
    blocks := updWhere f.blocks (fun k => k.state == .open) fun k => { k with reads := k.reads + k.lastLine } }

/-- The last word line of an OPEN block fails: handled under R274 and R286. -/
def State.lineFailed (g : DieId) (s : State) (x : BenchId × BlockId) : State :=
  let k := s.flash[x.1].blk x.2
  if dieOfBench x.1 == g && k.state == .open then
    let r : Nat := k.next - 1
    let word (y : PageIdent) : Bool := y.page.blk == x.2 && (if k.slc then y.page.row == r else y.page.row / 4 == r / 4)
    let lost := s.flash[x.1].idents.filter word
    let s := s.modFlash x.1 fun f =>
      { f with
        uncorr := satAdd 32 f.uncorr 1, retryReads := (f.retryReads + 1) % 2 ^ 64, softReads := (f.softReads + 1) % 2 ^ 64 }
    let s := s.mediaRecord x.1 .degraded 0x10 0 (physWord { blk := x.2, row := r } k.slc) lost.head? 0
    (lost.foldl State.losePage s).retireBlock x.1 x.2 2 r lost.head? lost
  else s

/-- The supply has been good for 10 ms: the Benches retrain and read back their OPEN blocks; what waited goes on. -/
def doNandSupplyRestored (g : DieId) (bad : List (BenchId × BlockId)) (s : State) : State :=
  if !(s.power.rails.contains (.nandVcc g) || s.power.rails.contains (.nandVccq g)) then s
  else
    let s := s.modPower fun p => { p with rails := p.rails.filter fun r => r != .nandVcc g && r != .nandVccq g }
    let now := s.clockUs
    let s := (benchesOf g).foldl (fun s b => s.modFlash b fun f => (f.retrain now).readBack) s
    (bad.foldl (State.lineFailed g) s).resumeGets fun b => dieOfBench b == g

def execNandSupplyRestored (g : DieId) (bad : List (BenchId × BlockId)) (s : State) : Out :=
  .next (doNandSupplyRestored g bad s)

/-! ### Raw diagnostic reads (R285, R293, R294) -/

/-- START: refused while BUSY; RANGE and ERASING end it at once, with no NAND command. -/
def doRawReadStart (b : BenchId) (s : State) : State :=
  let f := s.flash[b]
  if f.rawBusy then s.modFlash b fun f => { f with cfgBusy := true }
  else
    match rawTarget f.rawAddr with
    | none => s.modFlash b fun f => { f with rawResult := 3 }
    | some i =>
      let k := f.blk i
      if k.state == .erasing || k.state == .suspended then
        s.modFlash b fun f => { f with rawResult := 2, erasingRefused := satAdd 32 f.erasingRefused 1 }
      else s.modFlash b fun f => { f with rawBusy := true, rawResult := 0 }

def execRawReadStart (b : BenchId) (s : State) : Out := .next (doRawReadStart b s)

/-- The 200-byte identity of a page (Table 11-3). -/
def PageIdent.bytes (b : BenchId) (x : PageIdent) : List Byte :=
  le 2 0x5047 ++ le 1 x.kind ++ le 1 x.stream ++ le 2 b.val ++ le 2 0 ++ le 8 x.content ++ le 4 x.index ++ le 4 x.originSeq ++
    le 8 x.seq ++ le 6 x.epoch ++ le 2 0 ++ padTo 160 (le 4 x.detail.1 ++ le 4 x.detail.2)

/-- Tweaks of a page's data area and of its identity (R269). -/
def PageIdent.dataTweak (x : PageIdent) : List Byte := le 8 x.content ++ le 4 x.index ++ le 4 x.originSeq
def identTweak (b : BenchId) (phys : Nat) : List Byte := le 4 phys ++ le 2 b.val ++ List.replicate 10 0xFF

/-- Data of a page: of an envelope or of an image, its part; of another kind, as Config has it (log 176). -/
def State.pageData (s : State) (x : PageIdent) : List Byte :=
  let part (bs : List Byte) : List Byte := padTo 16384 (bs.drop (16384 * x.index))
  match x.kind, s.obj x.content, s.ingot x.content with
  | 0, some o, _ => part o.envelope
  | 6, _, some g => part g.image
  | _, _, _ => padTo 16384 (Config.pageData x.kind x.stream x.content x.index x.originSeq)

/-- The 18,432 bytes of a page as stored: the data area under XTS, the parity of its 32 codewords, and the identity codeword
(R267, R269). -/
def State.storedPage (s : State) (b : BenchId) (key : List Byte) (x : PageIdent) : List Byte :=
  let data := padTo 16384 (Config.xts key x.dataTweak (s.pageData x))
  let ident := padTo 200 (Config.xts key (identTweak b (physWord x.page (s.flash[b].blk x.page.blk).slc)) (x.bytes b))
  let spare := (List.range 32).flatMap fun i => padTo 56 (Config.parity (fieldBytes data (512 * i) 512))
  data ++ spare ++ ident ++ padTo 56 (Config.parity ident)

/-- The row of a raw read's address. -/
def rawRow (w : Word32) : Nat := bits w.toNat 27 17

/-- What FM_RAW_ADDR names as the model knows it: a page with an identity, on a Bench that holds its media key; zeros of any
other, of which the sense alone shows what it holds. -/
def State.rawStored (s : State) (b : BenchId) : List Byte :=
  let f := s.flash[b]
  match rawTarget f.rawAddr, s.mediaKeys b with
  | some i, some (k, l) =>
    match f.identAt { blk := i, row := rawRow f.rawAddr } with
    | some x => s.storedPage b (k ++ l) x
    | none => []
  | _, _ => []

/-- The raw read ends: DONE, the codewords that failed hard decode, and the page as stored, with what the sense shows on top of
it: the bits read wrong, or the whole of a page that no map names (R293, log 176). -/
def doRawReadDone (b : BenchId) (hardFail : Fin 34) (data : List Byte) (s : State) : State :=
  if s.flash[b].rawBusy && s.nandPowered b then
    let page := List.zipWith (· ^^^ ·) (padTo 18432 (s.rawStored b)) (padTo 18432 data)
    s.modFlash b fun f => { f with rawBusy := false, rawResult := 1, hardFail := hardFail.val, rawPage := page }
  else s

def execRawReadDone (b : BenchId) (hardFail : Fin 34) (data : List Byte) (s : State) : Out :=
  .next (doRawReadDone b hardFail data s)

end Sys2Proof.Machine
end

