-- ==== Sys2Proof/Machine/ResetOps.lean ====
section
/-! DEFINITION. Power-up, module reset, boot, power loss, the thermal trip, shutdown and the life-cycle (R29, R177 to
R179, R311 to R313, R326, R365 to R368, R395, R398 to R400, R411 to R413). -/

namespace Sys2Proof.Machine

/-! ### What outlasts a reset -/

/-- Power is lost: erases are left in ERASE_INCOMPLETE (R290, Table 11-10). -/
def Flash.endErases (f : Flash) : Flash :=
  let cut (k : Block) : Block :=
    if k.state == .erasing || k.state == .suspended then { k with state := .eraseIncomplete } else k
  { f with ops := [], blocks := f.blocks.map cut }

/-- Programs in progress or suspended end on their dies, and pass (R290, log 142). -/
def State.endPrograms (s : State) : State :=
  (List.finRange 512).foldl (fun s b =>
    let done := s.flash[b].ops.filterMap NandOp.ident
    if done.isEmpty then s
    else done.foldl (fun s x => s.streamPageDone b x) (s.modFlash b fun f => { f with ops := f.ops.filter fun o => o.ident.isNone })) s

/-- The media of a Bench after a reset: what the NAND holds and an erase in progress stay, every register field has its Reset
value (R10). -/
def Flash.afterReset (g : Flash) : Flash :=
  { Flash.reset with
    ops := g.ops.filter fun o => o.ident.isNone, fillers := g.fillers, userBlocks := g.userBlocks, usedBlocks := g.usedBlocks, retired := g.retired
    blocks := g.blocks, idents := g.idents, stripes := g.stripes, seq := g.seq, failedDies := g.failedDies
    capacityTold := g.capacityTold }

/-- An object whose reading was under way is read again from chunk 0 (Table 10-5, R178). -/
def Obj.unread (o : Obj) : Obj :=
  if o.state == .reading then { o with state := .pending, reason := 0, stop := 0, handed := [] } else o

/-- A list after a reset: its records, log, centroid and edges are on media, a mend under way is not (R235). -/
def Lst.afterReset (l : Lst) : Lst := { l with marks := [], countAt := 0, mending := false, mended := false }

/-- The index after a reset: what media hold. A token without an epoch is abandoned, a calibration under way is undone
(R211, R239), and commands that were not durable leave nothing. -/
def Search.afterReset (x : Search) : Search :=
  let token (t : Token) : Token := if t.epoch.isNone then { t with abandoned := true } else t
  let coll (c : Coll) : Coll := if c.state == .calibrating then { c with state := .uncalibrated } else c
  { Search.reset with
    colls := x.colls.map coll, lists := x.lists.map Lst.afterReset, epoch := x.epoch, tokens := x.tokens.map token
    objs := x.objs.map Obj.unread, nextId := x.nextId, homeLists := x.homeLists, homeColls := x.homeColls }

/-- Ingots after a reset: a load in progress and a drop end, the rest stays in its Ingot area. -/
def ingotsAfterReset (l : List Ingot) : List Ingot := l.filter fun g => g.state == .ready || g.state == .poisoned

/-- The Pewter array after a reset: its words stay, the sequencer and its registers are reset; an operation in progress
was cut. -/
def Pewter.afterReset (p : Pewter) : Pewter :=
  let q := match p.op with
    | some o => p.cut o
    | none => p
  let q := match q.susp with
    | some o => q.cut { o with pulsing := true }
    | none => q
  { Pewter.reset with words := q.words, undefined := q.undefined }

/-! ### Power loss (R177, R290) -/

/-- Every rail but the always-on domain's goes: what stays is the Pewter array's words, the media, and what stands outside
the module. -/
def State.railsOff (s : State) (committed : Bool) : State :=
  let s := s.endPrograms.flush committed
  { State.reset with
    power := s.power, bmc := { s.bmc with answers := false }
    pewter := s.pewter.afterReset
    flash := s.flash.map fun f => { f.endErases.afterReset with trained := false }
    search := s.search.afterReset, ingots := ingotsAfterReset s.ingots
    mem := { Memory.reset with flushLog := s.mem.flushLog }
    sec := { Security.reset with dieSeeds := s.sec.dieSeeds }
    out := s.out, clockUs := s.clockUs, free := s.free, pending := s.pending }

/-- The module is without power, its pins as the outside holds them. -/
def State.powerOff (s : State) (committed overV : Bool) : State :=
  let t := s.railsOff committed
  { t with
    power := { Power.reset with perstB := s.power.perstB, disconnected := overV }, bmc := Bmc.reset }

/-- Input power is lost (R398); a module that is off or tripped has nothing to flush. -/
def doInputPowerLost (overV committed : Bool) (s : State) : State :=
  if s.power.phase == .off then s.modPower fun p => { p with disconnected := p.disconnected || overV }
  else if s.power.phase == .tripped then s.modPower fun p =>
    { p with inputGood := false, disconnected := overV, lostAt := some (p.lostAt.getD s.clockUs) }
  else s.powerOff committed overV

def execInputPowerLost (overV committed : Bool) (s : State) : Out := .next (doInputPowerLost overV committed s)

/-- Input is good (R398, R412): PORT_SPLIT and SLOT_ID are sampled, the clock of UPTIME_MS starts, and the standby boot
runs. A tripped module stays off: its input is no longer removed (R411). -/
def doInputGood (split : Bool) (slot : BitVec 3) (s : State) : State :=
  if s.power.phase == .tripped then s.modPower fun p => { p with inputGood := true, disconnected := false, lostAt := none }
  else if s.power.phase != .off then s
  else
    { s with
      clockUs := 0
      power := { s.power with
        inputGood := true, split := split, slotId := slot, phase := .standbyBoot, disconnected := false } }

def execInputGood (portSplit : Bool) (slotId : BitVec 3) (s : State) : Out := .next (doInputGood portSplit slotId s)

/-- THERM_TRIP_N is released once input power has been away for 1 s (R411). -/
def execThermTripRelease (s : State) : Out :=
  .next (if s.power.phase == .tripped && s.power.lostAt.any (· + 1000000 ≤ s.clockUs) then
      { s with power := { Power.reset with perstB := s.power.perstB }, bmc := Bmc.reset }
    else s)

/-! ### Sensors and rails (R400, R408, R411) -/

/-- A sensor at its trip level: the pin, a Failed record, the flush, and every rail but the always-on domain's off. -/
def State.trip (s : State) (row v : Nat) : State :=
  let s := s.modPower fun p => { p with tripped := true }
  let s := s.reportGeneral .powerManager .failed 0x52 1 row v none 0
  let s := doRecordWrite 0 s
  (s.railsOff true).modPower fun p => { p with phase := .tripped }

/-- The 1 ms reading of the sensors. -/
def doThermalSensorRead (r : SensorReadings) (s : State) : State :=
  if s.power.phase == .off || s.power.phase == .tripped then s
  else
    let s := s.withSmart fun s => s.readSensors r
    match tripOf r s.power.flowLowSince s.clockUs with
    | some (row, v) => s.trip row v
    | none => s

def execThermalSensorRead (r : SensorReadings) (s : State) : Out := .next (doThermalSensorRead r s)

/-- NUMBER of a rail that declares power loss with a Failed record (Table 16-4). -/
def railNumber : Rail → Option Nat
  | .quarterCore _ => some 4
  | .stack _ => some 5
  | .channelDie _ => some 6
  | .hubCore | .pewter | .nandVcc _ | .nandVccq _ => none

/-- A rail stays below its threshold for 5 µs (Table 16-4). Whether the flush that a rail declares commits is open. -/
def doRailBrownout (r : Rail) (s : State) : State :=
  if s.power.phase == .off || s.power.phase == .tripped then s
  else
    match r with
    | .hubCore =>
      let (w, s) := s.fresh
      (doPewterBrownout s).powerOff (w.getLsbD 0) false
    | .pewter => (doPewterBrownout s).resumeReads
    | .nandVcc g => if s.power.rails.contains r then s else s.nandFalls r g
    | .nandVccq g => if s.power.rails.contains r then s else s.nandFalls r g
    | .quarterCore _ | .stack _ | .channelDie _ =>
      let (w, s) := s.fresh
      let s := s.reportGeneral .powerManager .failed 0x53 0 ((railNumber r).getD 0) 0 none 0
      (doRecordWrite 0 s).powerOff (w.getLsbD 0) false

def execRailBrownout (r : Rail) (s : State) : Out := .next (doRailBrownout r s)

/-! ### Module reset (R10, R29, R173, R179, R345) -/

/-- CLOSE goes out in an established session; its REASON is open (R354). -/
def State.sendClose (s : State) : State :=
  if s.sec.session == .established then
    let (w, s) := s.fresh
    s.sendRecord (le 1 0x17 ++ le 1 w.toNat ++ le 6 0)
  else s

/-- The Sterling core with its key stores erased (R345): no Collection key, no session, no SPDM connection. -/
def Security.afterReset (x : Security) : Security :=
  { Security.reset with
    hallmarks := x.hallmarks, quotaUsed := x.quotaUsed, sessions := x.sessions, tagFails := x.tagFails
    kcvMismatches := x.kcvMismatches, leavesLow := x.leavesLow, dieSeeds := x.dieSeeds, backoffS := x.backoffS
    backingOff := x.backingOff, readyUs := x.readyUs, strikeFailed := x.strikeFailed, mediaKeysZero := x.mediaKeysZero
    nextLeaf := x.nextLeaf, batchOpen := x.batchOpen, rebuilt := x.rebuilt, waiting := x.waiting
    badMediaKeys := x.badMediaKeys, badTrees := x.badTrees, challenge := x.challenge, unlocked := x.unlocked
    rejected := x.rejected, peer := x.peer, msgId := x.msgId }

/-- PWR fields with their Reset values; caps of the always-on domain, pins, conditions and measurements stay (R402, Table
16-12), and the cap in force follows at once. -/
def State.resetPower (s : State) : State :=
  let s := s.modPower fun p =>
    { p with
      hostCap := 1800, brakeW := 600, thermIrq := false, brakeIrq := false, holdupIrq := false, state := 0, lastOp := 0
      exiting := false, scale := 4096, floorsScaled := false, engineW := 0, memoryW := 0, flashW := 0
      throttleE := false, throttleM := false, throttleF := false, lowered := (0, 0, 0), emergency := false
      emergSeen := false, brakeSeen := false, cfgBusy := false, throttleStrokes := 0, emergencies := 0, brakes := 0 }
  let (w, src) := s.capTarget
  s.modPower fun p => { p with capEff := w, capSource := src }

/-- What every event that enters Blank does to the blocks of the data plane: register fields take their Reset values, the
Mold, the grid, the jobs and the caches are gone, and the whole module is annealed (R10, R29, R173). Every such event is a
module reset (R13), so a part that failed its Assay is FAILED no longer. -/
def State.blank (s : State) : State :=
  let s := s.annealAll
  ({ s with
    mold := { MoldBlock.reset with flushChecked := s.mold.flushChecked }
    grid := { Grid.reset with ptmOut := s.grid.ptmOut, ptmIssueUs := s.grid.ptmIssueUs, ptmLastUs := s.grid.ptmLastUs, ptmTime := s.grid.ptmTime }
    sched := Sched.reset
    engines := Vector.replicate 48 Engine.reset
    mem := { s.mem with stackFailed := 0, excluded := 0, lastFlush := 0 }
    cache := Vector.replicate 4 ModelCache.reset
    ingots := ingotsAfterReset s.ingots
    search := s.search.afterReset
    burnish := Burnish.reset
    dev := Device.reset
    sec := s.sec.afterReset
    fw := { s.fw with header := [], pieces := [], erased := [] }
    errors := Errors.reset }).resetPower

/-! ### Option load, vault scan and bank selection (R307, R311 to R313) -/

/-- A root slot is present: the OID of XMSS-SHAKE256_20_256 (PRESUMED 0x12) and no word of it torn. -/
def Pewter.rootPresent (p : Pewter) (off : Nat) : Bool :=
  field (p.optBytes off 96) 0 4 == 0x12 &&
    (List.range 6).all fun i => match p.word (pwtOptBase + off + 16 * i) with
      | some w => !w.torn
      | none => true

/-- Present bits of n root slots. -/
def Pewter.rootBits (p : Pewter) (off n : Nat) : Nat :=
  ((List.range n).map fun i => if p.rootPresent (off + 96 * i) then 2 ^ i else 0).sum

/-- OPT1's DIGEST matches (Table 12-5). -/
def Pewter.opt1Ok (p : Pewter) : Bool :=
  Config.shake256 (p.optBytes 0x2000 0x1FE0) 32 == p.optBytes 0x3FE0 32 &&
    !(p.words.any fun w => w.torn && pwtOptBase + 0x2000 ≤ w.addr && w.addr < pwtOptEnd)

/-- Fields marked "option" and "scan" (R311): without OPT0's MAGIC no root is present. -/
def Pewter.loadOptions (p : Pewter) : Pewter :=
  let magic := field (p.optBytes 0 4) 0 4 == 0x54504F31
  let roots (off n : Nat) : Nat := if magic then p.rootBits off n else 0
  { p.recount with
    optBad := !p.opt1Ok, vendorRoots := BitVec.ofNat 2 (roots 0x80 2), hallmarkRoots := BitVec.ofNat 4 (roots 0x140 4)
    ingotRoots := BitVec.ofNat 8 (roots 0x2C0 8)
    openSlots := BitVec.ofNat 8 ((List.range 8).map fun i => if p.slotErased i then 2 ^ i else 0).sum, secLogged := p.vaultCount 6688 1504 }

/-- SEQUENCE of a bank's header. -/
def Pewter.bankSequence (p : Pewter) (one : Bool) : Nat := field (p.bankBytes one 0 64) 12 4

/-- The bank that the boot ROM selects: of those that verify, the one with the highest sequence number (R313). -/
def State.selectBank (s : State) : Option Bool :=
  match s.bankVerifies false, s.bankVerifies true with
  | false, false => none
  | true, false => some false
  | false, true => some true
  | true, true => some (s.pewter.bankSequence false < s.pewter.bankSequence true)

/-- The Management Controller starts from a bank; without one that verifies it does not run. -/
def State.bootBank (s : State) : State :=
  match s.selectBank with
  | none => { s with fw := { s.fw with mcRuns := false, mcHeld := false } }
  | some one =>
    let h := s.pewter.bankBytes one 0 64
    { s with
      pewter := { s.pewter with activeBank := one }
      fw := { s.fw with version := field h 8 2, digest := fieldBytes h 32 32, mcRuns := true, mcHeld := false } }

def State.loadOptions (s : State) : State := { s with pewter := s.pewter.loadOptions }

/-! ### PERST_A# asserted (R413) -/

/-- CLOSE, the write-back of R179, the key stores, the Anneal, then standby with the Management Controller running from the
bank selected. A second assertion while it runs has no effect. -/
def doModuleReset (s : State) : State :=
  let s := s.modPower fun p => { p with perstA := true, heldDeassert := none }
  if s.power.phase != .booting && s.power.phase != .running then s
  else
    let s := s.endPrograms.sendClose.writeBackAll
    let s := s.blank
    let s := { s with
      mem := { s.mem with lastFlush := 3 }
      ctrls := Vector.replicate 2 Controller.reset
      benches := Vector.replicate 512 Bench.reset
      flash := s.flash.map Flash.afterReset
      links := Vector.replicate 32 Link.reset
      pewter := { s.pewter.afterReset.loadOptions with brownout := s.pewter.brownout, secQueue := s.pewter.secQueue }
      sec := { s.sec with waiting := [], batchOpen := false, rebuilt := false, unlocked := false, rejected := 0 }
      power := { s.power with phase := .standby } }
    let s := s.bootBank
    { s with bmc := { s.bmc with answers := s.fw.mcRuns } }

def execModuleReset (s : State) : Out := .next (doModuleReset s)

/-! ### Assay (R326, R439, Table 13-5) -/

/-- Source, space, unit, address, ASSAY_PART and TILE of a failing check (Table 13-7). -/
def assayPlace : AssayPart → Source × Nat × Nat × Nat × Nat × Nat
  | .tile e t => (.engine e, 0, e.val, 2 ^ 48 * e.val, 1, t.val)
  | .operandStore e => (.engine e, 0, e.val, 2 ^ 48 * e.val, 0, 0)
  | .accStore e => (.engine e, 1, e.val, 2 ^ 60 + 2 ^ 48 * e.val, 0, 0)
  | .engineAux e => (.engine e, 0, e.val, 2 ^ 48 * e.val, 0, 0)
  | .quarterStore q => (.quarterStore q, 2, q.val, 2 * 2 ^ 60 + 2 ^ 48 * q.val, 0, 0)
  | .benchSram b => (.bench b, 3, b.val, 3 * 2 ^ 60 + 2 ^ 48 * b.val, 0, 0)
  | .stack k => (.stack k, 4, 0, 4 * 2 ^ 60 + stackBytes * k.val, 0, 0)
  | .pewter _ => (.pewter, 8, 0, 0, 0, 0)
  | .mcSram => (.mgmt, 9, 0, 0, 0, 0)

def failEngine (e : Engine) : Engine := { e with state := .failed }

/-- The part that a failing check puts out of use. -/
def State.assayOutcome (s : State) : AssayPart → State
  | .tile e _ => s.modEngine e failEngine
  | .operandStore e => s.modEngine e failEngine
  | .accStore e => s.modEngine e failEngine
  | .engineAux e => s.modEngine e failEngine
  | .quarterStore q => (enginesOf q).foldl (fun s e => s.modEngine e failEngine) s
  | .benchSram b => s.modBench b fun x => { x with state := .failed }
  | .stack k => { s with mem := { s.mem with
      stackFailed := s.mem.stackFailed ||| (1#24 <<< k.val), excluded := s.mem.excluded ||| (1#24 <<< k.val) } }
  | .pewter _ => { s with errors := { s.errors with hubFailed := true } }
  | .mcSram => { s with errors := { s.errors with hubFailed := true } }

/-- One failing instance or Tile: counted, its part out of use, and its own record of severity Failed. -/
def State.assayFail (s : State) (p : AssayPart) : State :=
  let t := match p with
    | .tile _ _ => true
    | _ => false
  let s := s.assayOutcome p
  let s := { s with errors := { s.errors with
    checkersFailed := if t then s.errors.checkersFailed else satAdd 8 s.errors.checkersFailed 1
    tilesFailed := if t then satAdd 8 s.errors.tilesFailed 1 else s.errors.tilesFailed } }
  let (src, sp, u, a, part, tile) := assayPlace p
  doRecordWrite (ringOf src) (s.reportMemory src .failed 0x22 sp u 13 11 0 a none 0 part tile)

/-! ### The key loader (R344, R345, R367, R368, Table 13-3) -/

/-- A vault word of the key regions reads 0. -/
def Pewter.vaultZero (p : Pewter) (w : Nat) : Bool :=
  match p.word (pwtVaultBase + 8 * w) with
  | some x => x.data == 0 && !x.torn
  | none => false

def mediaWords : List Nat := (List.range 2048).map fun i => 4640 + i

/-- Media key material that does not read 0 is zeroised (R367). -/
def State.zeroiseMedia (s : State) : State :=
  mediaWords.foldl (fun s w => if s.pewter.vaultZero w then s else s.programVault w 0) s

/-- A word of a vault region was torn. -/
def Pewter.vaultTorn (p : Pewter) (first n : Nat) : Bool :=
  p.words.any fun w => w.torn && pwtVaultBase + 8 * first ≤ w.addr && w.addr < pwtVaultBase + 8 * (first + n)

/-- The key loader reads the vault: a media key that fails makes its Bench FAILED, a seed that fails takes its tree from
use, each with a Failed record. -/
def State.loadKeys (s : State) : State :=
  let told (s : State) (outcome w : Nat) : State :=
    doRecordWrite 0 (s.memoryReport .pewter .failed 0x21 8 0 10 outcome 0 (pwtVaultBase + 8 * w) none 5)
  let bench (s : State) (b : BenchId) : State :=
    if s.pewter.vaultTorn (4640 + 4 * b.val) 4 then
      let s := { s with sec := { s.sec with badMediaKeys := s.sec.badMediaKeys ++ [b] } }
      told (s.modBench b fun x => { x with state := .failed }) 11 (4640 + 4 * b.val)
    else s
  let tree (s : State) (t : Nat) : State :=
    if s.pewter.vaultTorn (4608 + 8 * t) 8 then
      told { s with sec := { s.sec with badTrees := s.sec.badTrees ++ [t] } } 9 (4608 + 8 * t)
    else s
  let s := { s with sec := { s.sec with badMediaKeys := [], badTrees := [] } }
  if s.lc == 0 then s
  else
    let s := [0, 1, 2, 3].foldl tree s
    if s.lc == 4 then s else (List.finRange 512).foldl bench s

/-- What the Sterling core settles at a reset: STRIKE_FAILED, the zeroise of Melted, the keys, the next leaf (R357) and
a fresh debug challenge. -/
def State.bootSterling (s : State) : State :=
  let s := { s with sec := { s.sec with strikeFailed := s.lc == 0 && s.pewter.vaultCount 4608 2080 != 0 } }
  let s := if s.lc == 4 then s.zeroiseMedia else s
  let s := { s with sec := { s.sec with mediaKeysZero := mediaWords.all s.pewter.vaultZero } }
  let s := s.loadKeys
  let (c, s) := s.fresh256
  { s with sec := { s.sec with
      challenge := c, unlocked := false, rejected := 0, nextLeaf := 1024 * s.pewter.leafBatches, batchOpen := false
      rebuilt := false } }

/-! ### Boot (R395, R412, Table 15-14) -/

/-- The NAND channels train (R273): a Bench of a trained channel is IDLE, but for those that are FAILED or held by R312. -/
def State.trainChannels (s : State) (untrained : List (BenchId × Fin 8)) : State :=
  let now := s.clockUs
  let s := { s with
    flash := s.flash.map fun f =>
      { f with trained := true, lastZq := Vector.replicate 8 now, lastDq := Vector.replicate 8 now }
    benches := s.benches.map fun b => if b.state == .off && !s.pewter.optBad then { b with state := .idle } else b }
  untrained.foldl (fun s p => s.failDie p.1 p.2) s

/-- The stages from the deassertion to the training of the Channel links. -/
def State.boot (s : State) (assay : List AssayPart) (untrained : List (BenchId × Fin 8)) : State :=
  let s := s.modPower fun p => { p with phase := .booting, perstA := false, heldDeassert := none }
  let s := { s with bmc := { s.bmc with answers := false } }
  let s := s.loadOptions
  let s := if s.pewter.optBad then doRecordWrite 0 (s.reportGeneral .pewter .failed 0x60 2 0 0 none 0) else s
  let s := s.bootSterling.bootBank
  let s := s.withSmart fun s => assay.foldl State.assayFail s
  let s := s.trainChannels untrained
  { s with links := s.links.map fun l => { l with state := .training } }

/-- PERST_A# deasserted: held during the standby boot, else the boot runs. -/
def doPerstADeassert (assay : List AssayPart) (untrained : List (BenchId × Fin 8)) (s : State) : State :=
  if s.power.phase == .standbyBoot then
    s.modPower fun p => { p with perstA := false, heldDeassert := some (assay, untrained) }
  else if s.power.phase == .standby then s.boot assay untrained
  else s

def execPerstADeassert (assay : List AssayPart) (untrained : List (BenchId × Fin 8)) (s : State) : Out :=
  .next (doPerstADeassert assay untrained s)

/-- The standby boot ends: option load, vault scan, image check, and the BMC port answers; a deassertion held runs. -/
def doStandbyBootDone (s : State) : State :=
  if s.power.phase != .standbyBoot then s
  else
    let s := s.loadOptions.bootBank
    let s := { s with bmc := { s.bmc with answers := s.fw.mcRuns } }
    let s := s.modPower fun p => { p with phase := .standby }
    match s.power.heldDeassert with
    | some (a, u) => s.boot a u
    | none => s

def execStandbyBootDone (s : State) : Out := .next (doStandbyBootDone s)

/-- Lanes of a Channel link train, each setting its bit; once all eight have, the link is up under four fresh keys, delivered
under the die's key (R244, R245). -/
def doLinkTrainingComplete (x : LinkLanes) (s : State) : State :=
  let d := x.die
  if s.links[d].state != .training || s.power.phase != .booting then s
  else
    let lanes := s.links[d].lanes ||| x.trained
    if lanes != allLanes then s.modLink d fun l => { l with lanes := lanes }
    else
      let (ks, s) := s.freshKeys
      (s.setLink d fun l =>
        { l with state := .up, keyGen := 0, lanes := lanes, keys := ks, frames := [0, 0, 0, 0] }).deliverKeys d

def execLinkTrainingComplete (d : LinkLanes) (s : State) : Out := .next (doLinkTrainingComplete d s)

/-- Internal boot ends: the image verified, the Channel links up, DEV_BOOT written; the host links are usable. -/
def doInternalBootEnd (bootMs : Nat) (s : State) : State :=
  if s.power.phase != .booting || !s.fw.mcRuns || s.links.toList.any (fun l => l.state != .up) then s
  else
    let s := s.modPower fun p => { p with phase := .running }
    let s := { s with
      dev := { s.dev with bootMs := min bootMs 65535 }, bmc := { s.bmc with answers := true } }
    let s := s.modCtrl 0 fun f => { f with linkUp := true }
    if s.power.split && !s.power.perstB then s.modCtrl 1 fun f => { f with linkUp := true } else s

def execInternalBootEnd (bootMs : Nat) (s : State) : Out := .next (doInternalBootEnd bootMs s)

/-! ### The Management Controller (Table 13-3) -/

/-- A UE on an instruction fetch: restart from the other bank where it verifies, else the controller is held until the
next module reset, and the BMC and Custodian ports do not answer. -/
def doMcRestart (s : State) : State :=
  if !s.fw.mcRuns then s
  else
    let other := !s.pewter.activeBank
    let addr := bankBase s.pewter.activeBank
    if s.bankVerifies other then
      let s := s.memoryReport .pewter .degraded 0x21 8 0 9 8 0 addr none 5
      let h := s.pewter.bankBytes other 0 64
      { s with
        pewter := { s.pewter with activeBank := other }
        fw := { s.fw with version := field h 8 2, digest := fieldBytes h 32 32 } }
    else
      let s := s.memoryReport .pewter .failed 0x21 8 0 9 8 0 addr none 5
      { s with fw := { s.fw with mcRuns := false, mcHeld := true }, bmc := { s.bmc with answers := false } }

def execManagementControllerRestart (s : State) : Out := .next (doMcRestart s)

/-! ### Shutdown (R384) -/

/-- OBJ_PUT and OBJ_DELETE commands of a controller whose data have arrived complete; the Bench time of a write is free
(log 9). -/
def State.finishObjects (s : State) (c : Ctrl) : State :=
  let puts := (s.search.puts.filter fun p => p.key.ctrl == c).map PendingPut.key
  let dels := (s.search.deletes.filter fun d => d.1.ctrl == c).map Prod.fst
  let put (s : State) (k : Key) : State :=
    let (us, s) := s.fresh
    doObjPutDurable k us.toNat s
  dels.foldl (fun s k => doObjDeleteDurable k s) (puts.foldl put s)

/-- Every present controller has shut down. -/
def State.allShut (s : State) : Bool := (List.finRange 2).all fun c => !s.present c || s.ctrls[c].shst == 2

/-- CC.SHN set. -/
def doControllerShutdown (c : Ctrl) (shn : BitVec 2) (s : State) : State :=
  if !s.present c || shn == 0 then s
  else
    let s := (s.quenchController c).finishObjects c
    let s := s.modCtrl c fun f => { f with shn := shn, shst := 2 }
    if s.allShut then s.writeBackAll else s

def execControllerShutdown (c : Ctrl) (shn : BitVec 2) (s : State) : Out := .next (doControllerShutdown c shn s)

/-! ### The life-cycle (R365 to R368) -/

/-- A request of Table 14-11B: the state that it leads to, where its CONFIRM and its condition hold. -/
def State.transition (s : State) (target confirm : Nat) : Option Nat :=
  let p := s.pewter
  let struck := [0, 1].any (fun i => p.rootPresent (0x80 + 96 * i)) && p.programmed (pwtOptBase + 0x50) &&
    p.programmed (pwtOptBase + 0x60) && !s.sec.strikeFailed
  let ok :=
    if target == 1 then s.lc == 0 && confirm == 0x5354524B && struck
    else if target == 2 then s.lc == 1 && confirm == 0x494E5356 && p.rootBits 0x140 4 == 15
    else if target == 3 then s.lc == 2 && confirm == 0x52455452
    else if target == 4 then s.lc < 4 && confirm == 0x4D454C54
    else false
  if ok then some target else none

/-- The strike (R368). -/
def State.strike (s : State) : State :=
  let draw (s : State) (w : Nat) : State :=
    let (x, s) := s.fresh
    s.programVault w x.toNat
  let s := ((List.range 32).map fun i => 4608 + i).foldl draw s
  let root (s : State) (t : Nat) : State :=
    let slot := le 4 0x12 ++ le 12 0 ++ padTo 64 (Config.xmssRoot (s.pewter.vaultBytes (4608 + 8 * t) 8)) ++ le 16 0
    let word (p : Pewter) (i : Nat) : Pewter :=
      p.program (pwtOptBase + 0x140 + 96 * t + 16 * i) (BitVec.ofNat 128 (field slot (16 * i) 16)) false
    { s with pewter := (List.range 6).foldl word s.pewter }
  let s := [0, 1, 2, 3].foldl root s
  let s := mediaWords.foldl draw s
  { s with sec := { s.sec with dieSeeds := (List.range 32).map s.dieSeed, rebuilt := false } }

/-- LC words are programmed up to the new state (R308). -/
def State.programLc (s : State) (target : Nat) : State :=
  let p := (List.range target).foldl
    (fun (p : Pewter) i =>
      if p.programmed (pwtOptBase + 0x10 + 16 * i) then p else p.program (pwtOptBase + 0x10 + 16 * i) 0 false)
    s.pewter
  { s with pewter := p.recount }

/-- A job ends QUENCHED at once, as R91 ends it. -/
def State.quenchNow (s : State) (k : Key) : State :=
  match s.job k with
  | none => s
  | some j =>
    match j.kind with
    | .objGet _ => (s.refuse k scQuenched).dropJob k
    | .query | .operator _ =>
      s.stopJob j

/-- Step 1: answers that wait at the gate go out, admitted commands complete with QUENCHED, and I/O commands that are not
admitted with MOLD_ABSENT. -/
def State.endCommands (s : State) : State :=
  let running := (s.sched.jobs.filter fun j => j.state != .waiting && j.quenchable).map Job.key
  let s := running.foldl State.quenchNow s
  let s := (List.range s.sched.jobs.length).foldl (fun s _ => doReleaseGate none s) s
  let left := s.ctrls.toList.flatMap fun f => (f.inflight.filter fun e => e.key.sqid != 0).map Sqe.key
  left.foldl (fun s k => (s.refuse k scMoldAbsent).dropJob k) s

/-- Admin commands that end with the module's entry to Blank have no completion (R63, R322). -/
def State.dropAdmin (s : State) (keep : Key) : State :=
  let gone (e : Sqe) : Bool :=
    e.key.sqid == 0 && e.key != keep &&
      ((match s.mold.recast with
        | some r => r.sqe.key == e.key
        | none => false) ||
       (match s.mold.loading with
        | some (x, _) => x.key == e.key
        | none => false) ||
       s.burnish.slots.toList.any fun b => match b with
         | some b => b.sqe.key == e.key
         | none => false)
  { s with ctrls := s.ctrls.map fun f => { f with inflight := f.inflight.filter fun e => !gone e } }

/-- Fresh keys for a link that is up (R244, Table 14-13); a FAILED one is DOWN after the module reset (R10, R248). -/
def State.redrawLink (s : State) (d : DieId) : State :=
  if s.links[d].state == .up then
    let (ks, s) := s.freshKeys
    (s.modLink d fun l => { Link.reset with state := l.state, lanes := l.lanes, keys := ks }).deliverKeys d
  else s.modLink d fun l =>
    { Link.reset with state := if l.state == .failed then .down else l.state, lanes := l.lanes, keys := l.keys }

/-- Benches in the Blank state that a transition enters: powered, without a Mold. -/
def Bench.blank (b : Bench) : Bench :=
  { Bench.reset with state := if b.state == .off then .off else .idle }

/-- The media registers of a powered Bench. -/
def Flash.blank (f : Flash) : Flash :=
  { f.afterReset with trained := f.trained, trainFails := f.trainFails, lastZq := f.lastZq, lastDq := f.lastDq }

/-- The Pewter registers after a whole-module Anneal: their Reset values, the sequencer IDLE with its operation cut as at any
module reset, and the fields of the option load and the scan (R10, R13, R311; log 111). What waits for the operation, the events
not yet logged and the bank stay. -/
def Pewter.blank (p : Pewter) : Pewter :=
  { p.afterReset.loadOptions with
    activeBank := p.activeBank, waiting := p.waiting, secQueue := p.secQueue, brownout := p.brownout }

/-- The steps of Table 14-13. -/
def State.runTransition (s : State) (k : Key) (target : Nat) : State :=
  let s := s.endCommands.dropAdmin k |>.endPrograms
  let s := if target == 4 then s else s.writeBackAll
  let s := if target == 1 then s.strike else s
  let s := s.programLc target
  let s := if target == 4 then s.zeroiseMedia else s
  let s := s.sendClose.blank
  let s := { s with
    benches := s.benches.map Bench.blank, flash := s.flash.map Flash.blank, pewter := s.pewter.blank
    mem := { s.mem with lastFlush := if target == 4 then 0 else 3 }
    sec := { s.sec with mediaKeysZero := mediaWords.all s.pewter.vaultZero } }
  let s := ((List.finRange 32).foldl State.redrawLink s).resumeReads
  s.reportSecurity .informational 0x35 target 0 0

/-- LIFECYCLE (R365, R367). -/
def doLifecycle (e : Sqe) (s : State) : State :=
  match s.transition e.cdw10.toNat e.cdw11.toNat with
  | none => (s.reportSecurity .degraded 0x35 0xFF 0 0).refuse e.key scLifecycleDenied
  | some t => (s.runTransition e.key t).success e.key 0 0 []

def execLifecycle (e : Sqe) (s : State) : Out := .next (doLifecycle e s)

end Sys2Proof.Machine
end

