-- ==== Sys2Proof/Machine/Registers.lean ====
section
/-! DEFINITION. The register blocks of BAR2 and BAR0 and the Pewter registers: their layout, reads and writes (R5, R8, R9,
R11, R94, R192, R264, R293, R294, R334, R335, R378, R379, R418; Tables 2-14 to 2-16, 3-5 to 3-8, 4-12 to 4-15, 7-7, 7-8,
10-9, 10-10, 11-12, 11-13, 12-7, 12-8, 13-8 to 13-11, 15-2 to 15-5, 16-11, 16-12). -/

namespace Sys2Proof.Machine

/-! ### Places (Table 1-3, Table 15-3) -/

/-- A block and an offset within it. The Pewter registers lie at 0xE000_0000 of the Management Controller (Table 12-7). -/
inductive Place where
  | dev (o : Nat) | mold (o : Nat) | stk (o : Nat) | sch (o : Nat) | err (o : Nat) | brn (o : Nat) | pwr (o : Nat)
  | qtr (q : QuarterId) (o : Nat) | engine (e : EngineId) (o : Nat)
  | bench (b : BenchId) (o : Nat) | flash (b : BenchId) (o : Nat)
  | pwt (o : Nat)
  | reserved
  deriving DecidableEq, Repr

/-- The place of an offset of a Quarter's block (Table 4-12). -/
def qtrPlace (q : QuarterId) (o : Nat) : Place :=
  if o < 0x10000 then .qtr q o
  else if h : (o - 0x10000) / 0x1000 < 12 then
    .engine ⟨12 * q.val + (o - 0x10000) / 0x1000, by omega⟩ (o % 0x1000)
  else .reserved

/-- The place of a BAR2 offset, or of a Pewter register's address. -/
def placeOf (o : Nat) : Place :=
  if o < 0x10000 then .dev o
  else if o < 0x20000 then .mold (o - 0x10000)
  else if o < 0x30000 then .stk (o - 0x20000)
  else if o < 0x40000 then .sch (o - 0x30000)
  else if o < 0x50000 then .err (o - 0x40000)
  else if o < 0x60000 then .brn (o - 0x50000)
  else if o < 0x70000 then .pwr (o - 0x60000)
  else if 0x100000 ≤ o ∧ o < 0x500000 then
    if h : o / 0x100000 - 1 < 4 then qtrPlace ⟨o / 0x100000 - 1, h⟩ (o % 0x100000) else .reserved
  else if 0x1000000 ≤ o ∧ o < 0x1200000 then
    if h : o / 0x1000 - 0x1000 < 512 then
      let b : BenchId := ⟨o / 0x1000 - 0x1000, h⟩
      if 0x400 ≤ o % 0x1000 ∧ o % 0x1000 < 0x800 then .flash b (o % 0x1000) else .bench b (o % 0x1000)
    else .reserved
  else if 0xE0000000 ≤ o ∧ o < 0xE0001000 then .pwt (o - 0xE0000000)
  else .reserved

/-! ### Fields as read -/

/-- Bits [31:0] of a value. -/
def lo32 (x : Nat) : Nat := x % 2 ^ 32

/-- Bits [63:32]. -/
def hi32 (x : Nat) : Nat := x / 2 ^ 32 % 2 ^ 32

/-- The half of a 64-bit register that an offset names. -/
def half (x : Nat) (high : Bool) : Nat := if high then hi32 x else lo32 x

def State.devWord (s : State) (o : Nat) : Nat :=
  match o with
  | 0x0 => 0x1024
  | 0x4 =>
    b2n s.power.split + 2 * b2n s.ctrls[(0 : Ctrl)].rdy + 4 * b2n s.ctrls[(1 : Ctrl)].rdy + 8 * s.power.state +
      64 * b2n s.dev.badAccess + 128 * b2n s.ctrls[(0 : Ctrl)].ptmEnable
  | 0x8 => s.dev.badCount
  | 0xC => s.dev.bootMs
  | _ => 0

def MoldState.code : MoldState → Nat
  | .blank => 0
  | .loading => 1
  | .molded => 2
  | .recastValidating => 3
  | .recastDraining => 4
  | .recastApplyWait => 5

/-- SHOPS_BOUND. -/
def State.shopsBound (s : State) : Nat :=
  match s.theMold with
  | some m => ((List.range 8).map fun n => if m.shops.any fun h => h.id == n then 2 ^ n else 0).sum
  | none => 0

def State.moldWord (s : State) (o : Nat) : Nat :=
  let m := s.mold
  match o with
  | 0x0 =>
    m.state.code + 8 * b2n s.gridLocked + 16 * b2n s.sched.boundHeld + 32 * b2n m.cfgBusy + 64 * b2n m.loadFail +
      2 ^ 16 * s.shopsBound
  | 0x8 => lo32 m.gen.toNat
  | 0xC => hi32 m.gen.toNat
  | 0x10 => m.errOffset
  | 0x14 => m.errReason + 2 ^ 8 * m.errSection + 2 ^ 16 * b2n m.errRecast
  | 0x18 => m.loadFails + 2 ^ 16 * m.recastFails
  | 0x1C => m.drainUs + 2 ^ 16 * m.applyStrokes
  | o => if 0x40 ≤ o ∧ o < 0x80 then field m.digest (o - 0x40) 4 else 0

def LockState.code : LockState → Nat
  | .idle => 0
  | .acquiring => 1
  | .locked => 2
  | .holdover => 3
  | .freeRun => 4

def State.stkWord (s : State) (o : Nat) : Nat :=
  let g := s.grid
  let ref := match s.theMold with
    | some m => m.strikeRef
    | none => false
  let period := match s.theMold with
    | some m => m.periodUs / 10
    | none => 0
  match o with
  | 0x0 =>
    g.lock.code + 8 * b2n ref + 16 * b2n g.refPresent + 32 * b2n g.lockLost + 64 * b2n g.freeRunEntered +
      128 * b2n g.slewing
  | 0x4 => period
  | 0x8 => lo32 g.stroke
  | 0xC => hi32 g.stroke
  | 0x10 => lo32 g.refTime
  | 0x14 => hi32 g.refTime
  | 0x18 => (g.phaseErr % 2 ^ 32).toNat
  | 0x1C => g.maxLag + 2 ^ 16 * g.laggingUnits
  | 0x20 => g.lockLosses + 2 ^ 16 * g.slewStrokes
  | 0x24 => b2n g.lockIrq + 2 * b2n g.freeRunIrq
  | _ => 0

/-- CATCHUP_ACTIVE: some Engine or Bench carries lag (R86). -/
def State.catchup (s : State) : Bool := s.sched.lagEngine.toList.any (· != 0) || s.sched.lagBench.toList.any (· != 0)

/-- A word of SCH_ACCOUNT: 16 bytes for each Shop and class. -/
def Sched.accountWord (x : Sched) (o : Nat) : Nat :=
  let v := if o % 16 < 8 then x.acctEngine.toList.getD (o / 16) 0 else x.acctBench.toList.getD (o / 16) 0
  half v (o % 8 == 4)

def State.schWord (s : State) (o : Nat) : Nat :=
  let x := s.sched
  let noC0 := match s.theMold with
    | some m => m.c0Shop.isNone
    | none => false
  match o with
  | 0x0 =>
    b2n x.boundHeld + 2 * b2n x.gridCond + 4 * b2n x.powerCond + 8 * b2n x.thermalCond + 16 * b2n x.recastCond +
      32 * b2n s.catchup + 64 * b2n noC0 + 128 * b2n x.cfgBusy
  | 0x4 => x.deferMax + 16 * x.decodePerStroke + 256 * b2n x.preemptOnArrival
  | 0x10 => x.admitted
  | 0x14 => x.deferred
  | 0x18 => x.refused
  | 0x1C => x.late
  | 0x20 => x.unbound
  | 0x24 => x.lateStrokes
  | 0x28 => x.overruns
  | 0x2C => x.preemptions
  | 0x30 => x.quenchMiss
  | 0x34 => x.worst
  | o => if 0x100 ≤ o ∧ o < 0x300 then x.accountWord (o - 0x100) else 0

/-- Ring, SOURCE and NUMBER of ERR_RING_INFO. -/
def ringInfo (r : Fin 37) : Nat :=
  let (src, n) := if r.val == 0 then (0, 0) else if r.val < 5 then (1, r.val - 1) else (2, r.val - 5)
  ringSize r + 2 ^ 8 * src + 2 ^ 16 * n

/-- The ring and the offset within its window (Table 13-6). -/
def ringWindow (o : Nat) : Option (Fin 37 × Nat) :=
  if 0x1000 ≤ o ∧ o < 0x6000 then
    if h : o / 0x1000 - 1 < 37 then some (⟨o / 0x1000 - 1, h⟩, o % 0x1000) else none
  else if 0x6000 ≤ o ∧ o < 0xE000 then
    if h : 5 + (o - 0x6000) / 0x400 < 37 then some (⟨5 + (o - 0x6000) / 0x400, h⟩, o % 0x400) else none
  else none

/-- A word of a ring window: of the unacknowledged record in its slot, else open (log 9). -/
def State.windowWord (s : State) (r : Fin 37) (o : Nat) : Nat :=
  match s.errors.rings[r].recs.find? fun x => x.index % ringSize r == o / 64 with
  | some x => field (x.bytes r.val) (o % 64) 4
  | none => half (Config.freeWord s.free).toNat (o % 8 == 4)

def State.ringWord (s : State) (r : Fin 37) (o : Nat) : Nat :=
  let g := s.errors.rings[r]
  match o with
  | 0x0 => g.head.toNat
  | 0x4 => g.ack.toNat
  | 0x8 => g.lostCount + 2 ^ 16 * b2n g.lost
  | _ => ringInfo r

/-- ERR_UNIT: CE and UE of a unit. -/
def Errors.unitCounts (e : Errors) (u : Nat) : Nat × Nat :=
  match e.units.find? fun p => p.1 == u with
  | some p => p.2
  | none => (0, 0)

def State.errWord (s : State) (o : Nat) : Nat :=
  let e := s.errors
  match o with
  | 0x0 =>
    b2n (e.rings.toList.any Ring.lost) + 2 * b2n (e.checkersFailed != 0 || e.tilesFailed != 0) + 4 * b2n e.ueSeen +
      8 * b2n e.cfgBusy
  | 0x4 => b2n e.irqEn + 2 * e.irqMin
  | 0x8 => e.checkersFailed + 2 ^ 8 * e.tilesFailed
  | 0xC => s.mem.stackFailed.toNat
  | 0x10 => lo32 e.ceTotal
  | 0x14 => hi32 e.ceTotal
  | 0x18 => lo32 e.ueTotal
  | 0x1C => hi32 e.ueTotal
  | o =>
    if h : 0x100 ≤ o ∧ (o - 0x100) / 16 < 37 then s.ringWord ⟨(o - 0x100) / 16, h.2⟩ (o % 16)
    else if 0xE000 ≤ o ∧ o < 0xE000 + 4 * 638 then
      let c := e.unitCounts ((o - 0xE000) / 4)
      c.1 + 2 ^ 16 * c.2
    else
      match ringWindow o with
      | some (r, p) => s.windowWord r p
      | none => 0

def State.brnSlotWord (s : State) (i : Fin 4) (o : Nat) : Nat :=
  match s.burnish.slots[i] with
  | none => 0
  | some b =>
    match o with
    | 0x0 => 1 + 2 * b.sqe.key.ctrl.val + 16 * b.space + 2 ^ 16 * b.unit
    | 0x8 => lo32 b.progress
    | 0xC => hi32 b.progress
    | _ => 0

def State.brnWord (s : State) (o : Nat) : Nat :=
  let b := s.burnish
  match o with
  | 0x0 => (b.slots.toList.filter Option.isSome).length + 8 * b.autos.length + 2 ^ 13 * b2n b.cfgBusy
  | 0x4 => b2n b.autoEn + 16 * b.rate
  | 0x50 => lo32 b.passes
  | 0x54 => hi32 b.passes
  | 0x58 => lo32 b.ceFixed
  | 0x5C => hi32 b.ceFixed
  | 0x60 => lo32 b.ueFound
  | 0x64 => hi32 b.ueFound
  | 0x68 => b.returned
  | o => if h : 0x10 ≤ o ∧ (o - 0x10) / 16 < 4 then s.brnSlotWord ⟨(o - 0x10) / 16, h.2⟩ (o % 16) else 0

/-- A temperature as an 8-bit field. -/
def tempByte (t : Int) : Nat := (t % 256).toNat

/-- The highest of some readings, 0 of none. -/
def hottest (l : List Int) : Int :=
  match l.max? with
  | some t => t
  | none => 0

def State.pwrWord (s : State) (o : Nat) : Nat :=
  let p := s.power
  let r := p.sensors
  match o with
  | 0x0 =>
    p.capSource + 8 * b2n p.brake + 16 * b2n p.emergency + 32 * b2n p.throttleE + 64 * b2n p.throttleM +
      128 * b2n p.throttleF + 256 * b2n p.holdupOk + 512 * b2n p.inputGood + 1024 * b2n p.floorsScaled +
      2048 * b2n p.cfgBusy + 4096 * b2n p.emergSeen + 8192 * b2n p.brakeSeen
  | 0x4 =>
    p.hostCap + 2 ^ 16 * p.brakeW + 2 ^ 27 * b2n p.thermIrq + 2 ^ 28 * b2n p.brakeIrq + 2 ^ 29 * b2n p.holdupIrq
  | 0x8 => p.capEff + 2 ^ 16 * p.bmcCap
  | 0xC => p.scale
  | 0x10 => p.engineW + 2 ^ 16 * p.memoryW
  | 0x14 => p.flashW + 2 ^ 16 * p.fixedW
  | 0x18 => p.volts + 2 ^ 16 * p.amps
  | 0x1C => p.avgW + 2 ^ 16 * p.peakW
  | 0x20 => p.bankV + 2 ^ 16 * p.usableJ
  | 0x24 => ((List.range 4).map fun i => 2 ^ (8 * i) * tempByte (r.quarter.getD i 0)).sum
  | 0x28 =>
    tempByte r.hub + 2 ^ 8 * tempByte (hottest r.stack) + 2 ^ 16 * tempByte (hottest r.die) +
      2 ^ 24 * tempByte (hottest r.nand)
  | 0x2C => tempByte r.inletHalf + 2 ^ 8 * tempByte r.outletHalf + 2 ^ 16 * min r.flowMl 65535
  | 0x30 => p.throttleStrokes + 2 ^ 16 * p.emergencies + 2 ^ 24 * p.brakes
  | 0x40 => lo32 p.energy
  | 0x44 => hi32 p.energy
  | 0x48 => lo32 p.energyE
  | 0x4C => hi32 p.energyE
  | 0x50 => lo32 p.energyM
  | 0x54 => hi32 p.energyM
  | 0x58 => lo32 p.energyF
  | 0x5C => hi32 p.energyF
  | _ => 0

/-- Bits of the Engines of a Quarter that a test picks. -/
def State.engineBits (s : State) (q : QuarterId) (p : Engine → Bool) : Nat :=
  ((enginesOf q).map fun e => if p s.engines[e] then 2 ^ (e.val % 12) else 0).sum

/-- A register of a Quarter's model cache (Table 7-8). WRITE_THROUGH has Reset 0 and reads 0 while the module is not running, when
HOLDUP_OK is low too (DESIGN CHOICE, log 167). -/
def State.qtrWord (s : State) (q : QuarterId) (o : Nat) : Nat :=
  let c := s.cache[q]
  let dirty := s.dirtyCount q
  let held := s.mem.withheld.filter fun g => quarterOfStack (stackOfGranule g) == q
  match o with
  | 0x0 =>
    s.engineBits q (fun e => e.shop.isSome) + 2 ^ 16 * s.engineBits q (fun e => e.state == .failed) + 2 ^ 28 * q.val
  | 0x1000 =>
    c.hotUsed + 2 ^ 16 * s.mem.lastFlush + 2 ^ 18 * b2n c.cfgBusy + 2 ^ 19 * b2n (49152 ≤ dirty) +
      2 ^ 20 * b2n (!c.dirtyWait.isEmpty) + 2 ^ 21 * b2n (s.power.phase == .running && s.dirtyLimit == 0)
  | 0x1004 => c.hotLimit + 2 ^ 16 * c.stagedLimit
  | 0x1008 => dirty
  | 0x100C => c.wbStall
  | 0x1010 => lo32 c.promotions
  | 0x1014 => hi32 c.promotions
  | 0x1018 => lo32 c.evictions
  | 0x101C => hi32 c.evictions
  | 0x1020 => lo32 c.pinDefer
  | 0x1024 => hi32 c.pinDefer
  | 0x1028 => lo32 c.pinWait
  | 0x102C => hi32 c.pinWait
  | 0x1030 => c.refetches + 2 ^ 16 * c.poisoned
  | 0x1034 => held.length
  | 0x1038 => lo32 c.decodeBytes
  | 0x103C => hi32 c.decodeBytes
  | _ => 0

def EngineState.code : EngineState → Nat
  | .off => 0
  | .idle => 1
  | .running => 2
  | .saving => 3
  | .restoring => 4
  | .failed => 5

/-- SHOP_ID and BOUND from bit 5 on. -/
def shopBits : Option Nat → Nat
  | some i => 32 * i + 256
  | none => 0

def State.engineWord (s : State) (e : EngineId) (o : Nat) : Nat :=
  let x := s.engines[e]
  match o with
  | 0x0 =>
    x.state.code + 8 * b2n x.broadcast + 16 * b2n x.sterling + shopBits x.shop + 512 * b2n x.fault + 2 ^ 16 * e.val
  | 0x4 => b2n x.countEn + 4 * b2n x.faultIrq
  | 0x8 => x.reason.toNat + 2 ^ 8 * x.opcode.toNat + 2 ^ 16 * x.faults
  | 0xC => x.lastSave + 2 ^ 16 * x.lastLoad
  | 0x20 => lo32 x.busy
  | 0x24 => hi32 x.busy
  | 0x28 => lo32 x.feedStall
  | 0x2C => hi32 x.feedStall
  | 0x30 => lo32 x.drainStall
  | 0x34 => hi32 x.drainStall
  | 0x38 => lo32 x.sbStall
  | 0x3C => hi32 x.sbStall
  | 0x40 => lo32 (x.macs / 256)
  | 0x44 => hi32 (x.macs / 256)
  | 0x48 => lo32 (x.sideMacs / 256)
  | 0x4C => hi32 (x.sideMacs / 256)
  | 0x50 => lo32 x.vecCycles
  | 0x54 => hi32 x.vecCycles
  | 0x58 => lo32 x.swaps
  | 0x5C => hi32 x.swaps
  | _ => 0

def BenchState.code : BenchState → Nat
  | .off => 0
  | .idle => 1
  | .running => 2
  | .saving => 3
  | .restoring => 4
  | .failed => 5

def LinkState.code : LinkState → Nat
  | .down => 0
  | .training => 1
  | .up => 2
  | .failed => 3

/-- The link registers, which only a Bench with c = 0 has (R264). -/
def State.linkWord (s : State) (b : BenchId) (o : Nat) : Nat :=
  if b.val % 16 != 0 then 0
  else
    let l := s.links[dieOfBench b]
    match o with
    | 0x0C => l.state.code + 2 ^ 8 * l.keyGen + 2 ^ 16 * l.lanes.toNat
    | 0x80 => l.tagFail
    | 0x84 => l.retry
    | 0x88 => l.retrain
    | 0x8C => l.rekey
    | _ => 0

/-- READ_WAIT: objects on the Bench are DEFERRED. -/
def State.readWait (s : State) (b : BenchId) : Bool := s.search.objs.any fun o => o.bench == b && o.state == .deferred

/-- BN_STATUS.STATE: a Bench that reads an object or sweeps is RUNNING too (Table 10-10). -/
def State.benchStateCode (s : State) (b : BenchId) : Nat :=
  let x := s.benches[b]
  if x.state == .idle && (x.reading.isSome || s.search.sweeps.any fun w => w.bench == b) then BenchState.running.code
  else x.state.code

def State.benchWord (s : State) (b : BenchId) (o : Nat) : Nat :=
  let x := s.benches[b]
  match o with
  | 0x0 =>
    s.benchStateCode b + 16 * b2n x.sterling + shopBits x.shop + 512 * b2n x.fault + 1024 * b2n (s.readWait b) + 2 ^ 16 * b.val
  | 0x4 => b2n x.countEn + 4 * b2n x.faultIrq + 8 * b2n x.linkIrq
  | 0x8 => x.reason.toNat + 2 ^ 8 * x.operator.toNat + 2 ^ 16 * x.faults
  | 0x20 => lo32 x.storedBytes
  | 0x24 => hi32 x.storedBytes
  | 0x28 => lo32 x.getBytes
  | 0x2C => hi32 x.getBytes
  | 0x30 => lo32 x.readObjects
  | 0x34 => hi32 x.readObjects
  | 0x38 => lo32 x.notRead
  | 0x3C => hi32 x.notRead
  | 0x40 => lo32 x.textBytes
  | 0x44 => hi32 x.textBytes
  | 0x48 => lo32 x.tokens
  | 0x4C => hi32 x.tokens
  | 0x50 => lo32 x.passages
  | 0x54 => hi32 x.passages
  | 0x58 => lo32 x.recordsIn
  | 0x5C => hi32 x.recordsIn
  | 0x60 => lo32 (x.stallUs s.clockUs)
  | 0x64 => hi32 (x.stallUs s.clockUs)
  | 0x68 => lo32 x.tailRewrites
  | 0x6C => hi32 x.tailRewrites
  | 0x70 => lo32 x.sweeps
  | 0x74 => hi32 x.sweeps
  | 0x78 => lo32 x.pairs
  | 0x7C => hi32 x.pairs
  | o => s.linkWord b o

/-- Least FREE over the die-planes; a channel that has not trained holds the Reset value. -/
def Flash.minFreeField (f : Flash) : Nat := if f.trained then min 255 f.minFree else 0

def State.flashWord (s : State) (b : BenchId) (o : Nat) : Nat :=
  let f := s.flash[b]
  let low (n : Nat) : Bool := f.trained && f.minFree < n
  match o with
  | 0x400 =>
    b2n f.cfgBusy + 2 * b2n (low 24) + 4 * b2n (low 8) + 8 * b2n (f.trained && f.stagingFree == 0) +
      16 * b2n (f.trained && f.roleFree roleAppend == 0) + 32 * b2n f.brownout + 64 * b2n (f.usedBlocks > f.userBlocks)
  | 0x404 => b2n f.patrolEn + 2 * f.patrolDays + 256 * b2n f.mediaIrq
  | 0x408 => f.rawAddr.toNat
  | 0x40C => 2 * b2n f.rawBusy + 4 * f.rawResult + 256 * f.hardFail
  | 0x410 => f.userBlocks
  | 0x414 => f.usedBlocks
  | 0x418 => f.minFreeField + 2 ^ 16 * f.stagingFree
  | 0x41C => f.retired + 2 ^ 16 * f.pagesLost
  | 0x420 => lo32 f.pagesRead
  | 0x424 => hi32 f.pagesRead
  | 0x428 => lo32 f.pagesProg
  | 0x42C => hi32 f.pagesProg
  | 0x430 => lo32 f.erases
  | 0x434 => hi32 f.erases
  | 0x438 => lo32 f.retryReads
  | 0x43C => hi32 f.retryReads
  | 0x440 => lo32 f.softReads
  | 0x444 => hi32 f.softReads
  | 0x448 => lo32 f.patrolPages
  | 0x44C => hi32 f.patrolPages
  | 0x450 => f.uncorr
  | 0x454 => f.suspends
  | 0x458 => f.erasingRefused
  | 0x45C => f.refreshes
  | 0x460 => min 65535 f.maxPe + 2 ^ 16 * min 65535 f.avgPe
  | _ => 0

def SeqState.code : SeqState → Nat
  | .idle => 0
  | .key1 => 1
  | .unlocked => 2
  | .cmdSet => 3
  | .data => 4
  | .busy => 5
  | .lockout => 6

/-- An operation runs in bank 0, in bank 1, or in the vault or the option area. -/
def Pewter.busyIn (p : Pewter) (part : Nat) : Bool :=
  match p.op with
  | some o => o.pulsing && (if o.addr ≥ pwtVaultBase then 2 else if pwtBank o.addr then 1 else 0) == part
  | none => false

def State.pwtWord (s : State) (o : Nat) : Nat :=
  let p := s.pewter
  match o with
  | 0x0 =>
    p.seq.code + 8 * b2n (p.busyIn 0) + 16 * b2n (p.busyIn 1) + 32 * b2n (p.busyIn 2) + 64 * b2n p.susp.isSome +
      128 * b2n p.done + 256 * p.result + 2 ^ 12 * b2n p.suspHit + 2 ^ 13 * b2n (p.seq == .lockout)
  | 0xC => p.addr
  | 0x18 => p.lockouts + 2 ^ 8 * p.progAgain + 2 ^ 16 * p.selfBank + 2 ^ 24 * p.aborts
  | 0x1C => b2n p.secEvent + 2 * p.secKind + 16 * p.secWord
  | 0x20 =>
    p.lcState + 8 * b2n p.optBad + 16 * b2n p.activeBank + 32 * p.vendorRoots.toNat + 128 * p.hallmarkRoots.toNat +
      2 ^ 11 * p.ingotRoots.toNat
  | 0x24 => p.leafBatches + 2 ^ 16 * p.rollback
  | 0x28 => p.secLogged
  | _ => 0

/-- The 32 bits at a 4-byte offset; reserved offsets read 0. -/
def State.readWord (s : State) (o : Nat) : Nat :=
  match placeOf o with
  | .dev o => s.devWord o
  | .mold o => s.moldWord o
  | .stk o => s.stkWord o
  | .sch o => s.schWord o
  | .err o => s.errWord o
  | .brn o => s.brnWord o
  | .pwr o => s.pwrWord o
  | .qtr q o => s.qtrWord q o
  | .engine e o => s.engineWord e o
  | .bench b o => s.benchWord b o
  | .flash b o => s.flashWord b o
  | .pwt o => s.pwtWord o
  | .reserved => 0

/-! ### Reads (R8, R9, R379) -/

def State.schClear (s : State) (o : Nat) : State :=
  let x := s.sched
  let x := match o with
    | 0x10 => { x with admitted := 0 }
    | 0x14 => { x with deferred := 0 }
    | 0x18 => { x with refused := 0 }
    | 0x1C => { x with late := 0 }
    | 0x20 => { x with unbound := 0 }
    | 0x24 => { x with lateStrokes := 0 }
    | 0x28 => { x with overruns := 0 }
    | 0x2C => { x with preemptions := 0 }
    | 0x30 => { x with quenchMiss := 0 }
    | 0x34 => { x with worst := 0 }
    | _ => x
  { s with sched := x }

def State.errClear (s : State) (o : Nat) : State :=
  if h : 0x100 ≤ o ∧ (o - 0x100) / 16 < 37 then
    if o % 16 == 8 then s.modRing ⟨(o - 0x100) / 16, h.2⟩ fun g => { g with lostCount := 0 } else s
  else if 0xE000 ≤ o ∧ o < 0xE000 + 4 * 638 then
    { s with errors := { s.errors with units := s.errors.units.filter fun p => p.1 != (o - 0xE000) / 4 } }
  else s

def State.linkClear (s : State) (b : BenchId) (o : Nat) : State :=
  if b.val % 16 != 0 then s
  else
    s.modLink (dieOfBench b) fun l => match o with
      | 0x80 => { l with tagFail := 0 }
      | 0x84 => { l with retry := 0 }
      | 0x88 => { l with retrain := 0 }
      | 0x8C => { l with rekey := 0 }
      | _ => l

/-- The RC fields of a word clear (Table 0-2). -/
def State.readClears (s : State) (o : Nat) : State :=
  match placeOf o with
  | .dev 0x8 => { s with dev := { s.dev with badCount := 0 } }
  | .mold 0x18 => s.modMold fun m => { m with loadFails := 0, recastFails := 0 }
  | .stk 0x20 => { s with grid := { s.grid with lockLosses := 0, slewStrokes := 0 } }
  | .sch o => s.schClear o
  | .err o => s.errClear o
  | .brn 0x68 => { s with burnish := { s.burnish with returned := 0 } }
  | .pwr 0x30 => s.modPower fun p => { p with throttleStrokes := 0, emergencies := 0, brakes := 0 }
  | .qtr q 0x100C => s.modCache q fun c => { c with wbStall := 0 }
  | .qtr q 0x1030 => s.modCache q fun c => { c with refetches := 0, poisoned := 0 }
  | .engine e 0x8 => s.modEngine e fun x => { x with faults := 0 }
  | .bench b 0x8 => s.modBench b fun x => { x with faults := 0 }
  | .bench b o => s.linkClear b o
  | .flash b 0x450 => s.modFlash b fun f => { f with uncorr := 0 }
  | .flash b 0x454 => s.modFlash b fun f => { f with suspends := 0 }
  | .flash b 0x458 => s.modFlash b fun f => { f with erasingRefused := 0 }
  | .flash b 0x45C => s.modFlash b fun f => { f with refreshes := 0 }
  | .pwt 0x18 => { s with pewter := { s.pewter with progAgain := 0, selfBank := 0, aborts := 0 } }
  | .dev _ | .mold _ | .stk _ | .brn _ | .pwr _ | .qtr _ _ | .engine _ _ | .flash _ _ | .pwt _ | .reserved => s

/-- The low half of a 64-bit register lies at an offset. -/
def isLowHalf (o : Nat) : Bool :=
  match placeOf o with
  | .mold o => [0x8, 0x10].contains o
  | .stk o => [0x8, 0x10].contains o
  | .sch o => o == 0x40 || (0x100 ≤ o && o < 0x300 && o % 8 == 0)
  | .err o => [0x10, 0x18].contains o
  | .brn o => [0x18, 0x28, 0x38, 0x48, 0x50, 0x58, 0x60].contains o
  | .pwr o => [0x40, 0x48, 0x50, 0x58].contains o
  | .qtr _ o => [0x1010, 0x1018, 0x1020, 0x1028, 0x1038].contains o
  | .engine _ o => 0x20 ≤ o && o < 0x60 && o % 8 == 0
  | .bench _ o => 0x20 ≤ o && o < 0x80 && o % 8 == 0
  | .flash _ o => 0x420 ≤ o && o < 0x450 && o % 8 == 0
  | .dev _ | .pwt _ | .reserved => false

/-- A ring window is read: the next read of an open word may differ. -/
def State.passWindow (s : State) (o : Nat) : State :=
  match placeOf o with
  | .err o => if (ringWindow o).isSome then { s with free := s.free + 1 } else s
  | .dev _ | .mold _ | .stk _ | .sch _ | .brn _ | .pwr _ | .qtr _ _ | .engine _ _ | .bench _ _ | .flash _ _ | .pwt _
  | .reserved => s

/-- A Burnish that runs has passed at least what an earlier read showed, and no more than its range (log 163). -/
def BurnSlot.pass (b : BurnSlot) (w : Word64) : BurnSlot :=
  { b with progress := b.progress + w.toNat % (b.length - b.progress + 1) }

/-- BRN_PROGRESS is read: where the passes stand is open (log 163). -/
def State.passBurn (s : State) (o : Nat) : State :=
  match placeOf o with
  | .brn o =>
    if [0x18, 0x28, 0x38, 0x48].contains o then
      let (w, s) := s.fresh
      { s with burnish := { s.burnish with slots := s.burnish.slots.map fun x => x.map fun b => b.pass w } }
    else s
  | .dev _ | .mold _ | .stk _ | .sch _ | .err _ | .pwr _ | .qtr _ _ | .engine _ _ | .bench _ _ | .flash _ _ | .pwt _
  | .reserved => s

def State.sendWord (s : State) (v : Nat) : State := s.emit (.readData (BitVec.ofNat 64 v))

/-- An access of a wrong size or alignment (R379). -/
def State.badAccess (s : State) : State :=
  { s with dev := { s.dev with badAccess := true, badCount := satAdd 32 s.dev.badCount 1 } }

/-- A 4-byte read: the high half latched with the low half, and given once; the fields of class RC clear. -/
def State.read4 (s : State) (o : Nat) : State :=
  match s.dev.latches.find? fun l => l.1 == o with
  | some l =>
    ({ s with dev := { s.dev with latches := s.dev.latches.filter fun x => x.1 != o } }).sendWord l.2.toNat
  | none =>
    let s := s.passBurn o
    let s := s.sendWord (s.readWord o)
    let s := if isLowHalf o then
        let h := BitVec.ofNat 32 (s.readWord (o + 4))
        { s with dev := { s.dev with latches := assocSet s.dev.latches (o + 4) h } }
      else s
    (s.readClears o).passWindow o

/-- An 8-byte read is indivisible. -/
def State.read8 (s : State) (o : Nat) : State :=
  let s := s.passBurn o
  let s := s.sendWord (s.readWord o % 2 ^ 32 + 2 ^ 32 * s.readWord (o + 4))
  ((s.readClears o).readClears (o + 4)).passWindow o

/-- RC_REGISTER_READ. -/
def doRegisterRead (off : Nat) (size8 : Bool) (s : State) : State :=
  if off % (if size8 then 8 else 4) != 0 then s.badAccess.sendWord 0
  else if size8 then s.read8 off
  else s.read4 off

/-! BAR0 (R378, R380): the places of the fields are those of NVMe 2.1 (log 179). -/

/-- CAP of Table 15-6: MQES, CQR and TO in the low half, CSS and MPSMAX in the high half. -/
def capWord (high : Bool) : Nat := if high then 2 ^ 5 + 4 * 2 ^ 20 else 65535 + 2 ^ 16 + 2 * 2 ^ 24

/-- VS: 2.1.0. -/
def vsWord : Nat := 2 * 2 ^ 16 + 2 ^ 8

/-- A word of the MSI-X table as written; an entry never written is masked (R432). -/
def Controller.msixWord (f : Controller) (o : Nat) : Nat :=
  let v := (lookupD f.msixTable o 0).toNat
  if o % 16 == 12 then v - v % 2 + b2n (!f.unmasked.contains (o / 16)) else v

/-- A word of the PBA. -/
def Controller.pbaWord (f : Controller) (o : Nat) : Nat := ((List.range 32).map fun i => if f.pba.contains (8 * o + i) then 2 ^ i else 0).sum

/-- A 4-byte word of BAR0 (Table 15-2). -/
def Controller.bar0Word (f : Controller) (o : Nat) : Nat :=
  if 0x10000 ≤ o ∧ o < 0x18000 then f.msixWord (o - 0x10000)
  else if 0x18000 ≤ o ∧ o < 0x18100 then f.pbaWord (o - 0x18000)
  else
    match o with
    | 0x00 => capWord false
    | 0x04 => capWord true
    | 0x08 => vsWord
    | 0x0C | 0x10 => f.intms.toNat
    | 0x14 => b2n f.en + 16 * f.css.toNat + 2 ^ 14 * f.shn.toNat + 2 ^ 16 * f.iosqes.toNat + 2 ^ 20 * f.iocqes.toNat
    | 0x1C => b2n f.rdy + 2 * b2n f.cfs + 4 * f.shst.toNat
    | 0x24 => f.aqa.toNat
    | 0x28 => half f.asq.toNat false
    | 0x2C => half f.asq.toNat true
    | 0x30 => half f.acq.toNat false
    | 0x34 => half f.acq.toNat true
    | _ => 0

/-- A read of a target of 4 or 8 bytes. -/
def doTargetRead (t : RegTarget) (size8 : Bool) (s : State) : State :=
  match t with
  | .bar2 off => doRegisterRead off size8 s
  | .pwt off => doRegisterRead (0xE0000000 + off) size8 s
  | .bar0 c off =>
    let f := s.ctrls[c]
    if !s.present c then s
    else s.sendWord (f.bar0Word off + if size8 then 2 ^ 32 * f.bar0Word (off + 4) else 0)
  | .msixControl c => s.sendWord (2047 + 2 ^ 14 * b2n s.ctrls[c].msixMask + 2 ^ 15 * b2n s.ctrls[c].msixEnable)
  | .ptmControl => s.sendWord (b2n s.ctrls[(0 : Ctrl)].ptmEnable)
  | .array a fetch => doArrayRead a fetch size8 s

def execRcRegisterRead (off : RegTarget) (size8 : Bool) (s : State) : Out := .next (doTargetRead off size8 s)

/-- SPLIT_64BIT_READ. -/
def execSplit64bitRead (off : Nat) (s : State) : Out := .next (doRegisterRead off false s)

/-- BAR2_BAD_ACCESS: a write is ignored, a read returns 0; an access that keeps the rule is none. -/
def doBadAccess (write : Bool) (off size : Nat) (s : State) : State :=
  if (size == 4 || size == 8) && off % size == 0 then s
  else if write then s.badAccess
  else s.badAccess.sendWord 0

def execBar2BadAccess (write : Bool) (off : Nat) (size : Nat) (s : State) : Out := .next (doBadAccess write off size s)

/-! ### Writes with a row of their own -/

/-- SCH_CTRL (R94). -/
def doSchCtrl (v : Word32) (s : State) : State :=
  let d := bits v.toNat 7 4
  let bad := d == 0 || d > 8
  let s := if bad then { s with sched := { s.sched with cfgBusy := true } } else s.latchWrite .decodePerStroke d
  (s.latchWrite .deferMax (bits v.toNat 3 0)).latchWrite .preemptOnArrival (b2n (bit v.toNat 8))

def execSchCtrlWrite (v : Word32) (s : State) : Out := .next (doSchCtrl v s)

/-- QTR_MC_CTRL (R192); a limit that is in force at once makes the HOT objects fit (R187). -/
def doMcCtrl (q : QuarterId) (v : Word32) (s : State) : State :=
  let h := bits v.toNat 10 0
  let g := bits v.toNat 24 16
  let s := if h > 1536 || g > 432 then s.modCache q fun c => { c with cfgBusy := true } else s
  let s := if h ≤ 1536 then s.latchWrite (.hotLimit q) h else s
  let s := if g ≤ 432 then s.latchWrite (.stagedLimit q) g else s
  if s.gridRuns then s else s.recache q ModelCache.fitLimits

def execQtrMcCtrlWrite (q : QuarterId) (v : Word32) (s : State) : Out := .next (doMcCtrl q v s)

/-- BRN_CTRL (R335). -/
def doBrnCtrl (v : Word32) (s : State) : State :=
  let r := bits v.toNat 7 4
  let s := { s with burnish := { s.burnish with autoEn := bit v.toNat 0, cfgBusy := s.burnish.cfgBusy || r == 0 } }
  if r == 0 then s else s.latchWrite .burnRate r

def execBrnCtrlWrite (v : Word32) (s : State) : Out := .next (doBrnCtrl v s)

/-- ME_CTRL.COUNT_CLEAR. -/
def Engine.clearCounts (x : Engine) : Engine :=
  { x with busy := 0, feedStall := 0, drainStall := 0, sbStall := 0, macs := 0, sideMacs := 0, vecCycles := 0, swaps := 0 }

def execMeCountClear (e : EngineId) (s : State) : Out := .next (s.modEngine e Engine.clearCounts)

/-- BN_CTRL.COUNT_CLEAR: every counter of the page, and, where c = 0, the link's. -/
def doBnCountClear (b : BenchId) (s : State) : State :=
  let now := s.clockUs
  let s := s.modBench b fun x =>
    { x with faults := 0, stalledAt := x.stalledAt.map fun _ => now, storedBytes := 0, getBytes := 0, readObjects := 0, notRead := 0, textBytes := 0, tokens := 0, passages := 0
             recordsIn := 0, batchStall := 0, tailRewrites := 0, sweeps := 0, pairs := 0 }
  if b.val % 16 == 0 then
    s.modLink (dieOfBench b) fun l => { l with tagFail := 0, retry := 0, retrain := 0, rekey := 0 }
  else s

def execBnCountClear (b : BenchId) (s : State) : Out := .next (doBnCountClear b s)

/-- FM_CTRL.COUNT_CLEAR. -/
def Flash.clearCounts (f : Flash) : Flash :=
  { f with pagesRead := 0, pagesProg := 0, erases := 0, retryReads := 0, softReads := 0, patrolPages := 0 }

def execFmCountClear (b : BenchId) (s : State) : Out := .next (s.modFlash b Flash.clearCounts)

/-! ### Other writes (R5, R8, R11) -/

/-- An RW1C bit after a write. -/
def rw1c (old : Bool) (v n : Nat) : Bool := old && !bit v n

def State.writeEngine (s : State) (e : EngineId) (o v : Nat) : State :=
  match o with
  | 0x0 => s.modEngine e fun x => { x with fault := rw1c x.fault v 9 }
  | 0x4 =>
    let s := s.modEngine e fun x => { x with countEn := bit v 0, faultIrq := bit v 2 }
    if bit v 1 then s.modEngine e Engine.clearCounts else s
  | _ => s

def State.writeBench (s : State) (b : BenchId) (o v : Nat) : State :=
  match o with
  | 0x0 => s.modBench b fun x => { x with fault := rw1c x.fault v 9 }
  | 0x4 =>
    let s := s.modBench b fun x =>
      { x with countEn := bit v 0, faultIrq := bit v 2, linkIrq := bit v 3 && b.val % 16 == 0 }
    if bit v 1 then doBnCountClear b s else s
  | _ => s

/-- FM registers (R293, R294). -/
def State.writeFlash (s : State) (b : BenchId) (o v : Nat) : State :=
  match o with
  | 0x400 => s.modFlash b fun f => { f with cfgBusy := rw1c f.cfgBusy v 0, brownout := rw1c f.brownout v 5 }
  | 0x404 =>
    let d := bits v 7 1
    let s := s.modFlash b fun f => { f with patrolEn := bit v 0, mediaIrq := bit v 8 }
    let s := if bit v 9 then s.modFlash b Flash.clearCounts else s
    if d == 0 || d > 90 then s.modFlash b fun f => { f with cfgBusy := true } else s.latchWrite (.patrolDays b) d
  | 0x408 => s.modFlash b fun f => { f with rawAddr := BitVec.ofNat 32 (bits v 28 0) }
  | 0x40C =>
    if !bit v 0 then s
    else if s.flash[b].rawBusy then s.modFlash b fun f => { f with cfgBusy := true }
    else doRawReadStart b s
  | _ => s

def State.writeErr (s : State) (o v : Nat) : State :=
  match o with
  | 0x0 =>
    { s with errors := { s.errors with ueSeen := rw1c s.errors.ueSeen v 2, cfgBusy := rw1c s.errors.cfgBusy v 3 } }
  | 0x4 => { s with errors := { s.errors with irqEn := bit v 0, irqMin := bits v 2 1 } }
  | o =>
    if h : 0x100 ≤ o ∧ (o - 0x100) / 16 < 37 then
      let r : Fin 37 := ⟨(o - 0x100) / 16, h.2⟩
      if o % 16 == 4 then doRingAck r (BitVec.ofNat 32 v) s
      else if o % 16 == 8 then s.modRing r fun g => { g with lost := rw1c g.lost v 16 }
      else s
    else s

/-- A 4-byte write to BAR2; RO and reserved fields ignore it. -/
def State.write4 (s : State) (o v : Nat) : State :=
  match placeOf o with
  | .dev 0x4 => { s with dev := { s.dev with badAccess := rw1c s.dev.badAccess v 6 } }
  | .mold 0x0 => s.modMold fun m => { m with cfgBusy := rw1c m.cfgBusy v 5, loadFail := rw1c m.loadFail v 6 }
  | .stk 0x0 =>
    { s with grid := { s.grid with
        lockLost := rw1c s.grid.lockLost v 5, freeRunEntered := rw1c s.grid.freeRunEntered v 6 } }
  | .stk 0x24 => { s with grid := { s.grid with lockIrq := bit v 0, freeRunIrq := bit v 1 } }
  | .sch 0x0 => { s with sched := { s.sched with cfgBusy := rw1c s.sched.cfgBusy v 7 } }
  | .sch 0x4 => doSchCtrl (BitVec.ofNat 32 v) s
  | .sch 0x40 => s.takeQuench v
  | .err o => s.writeErr o v
  | .brn 0x0 => { s with burnish := { s.burnish with cfgBusy := rw1c s.burnish.cfgBusy v 13 } }
  | .brn 0x4 => doBrnCtrl (BitVec.ofNat 32 v) s
  | .pwr 0x0 => s.modPower fun p =>
      { p with cfgBusy := rw1c p.cfgBusy v 11, emergSeen := rw1c p.emergSeen v 12, brakeSeen := rw1c p.brakeSeen v 13 }
  | .pwr 0x4 => doPwrCtrl (BitVec.ofNat 32 v) s
  | .qtr q 0x1000 => s.modCache q fun c => { c with cfgBusy := rw1c c.cfgBusy v 18 }
  | .qtr q 0x1004 => doMcCtrl q (BitVec.ofNat 32 v) s
  | .engine e o => s.writeEngine e o v
  | .bench b o => s.writeBench b o v
  | .flash b o => s.writeFlash b o v
  | .dev _ | .mold _ | .stk _ | .sch _ | .brn _ | .pwr _ | .qtr _ _ | .pwt _ | .reserved => s

/-- A BAR2 write of 4 or 8 bytes (R379); an 8-byte write to SCH_QUENCH is one Quench (R390). -/
def State.writeBar2 (s : State) (off : Nat) (size8 : Bool) (v : Nat) : State :=
  if off % (if size8 then 8 else 4) != 0 then s.badAccess
  else if size8 && off != 0x30040 then (s.write4 off (lo32 v)).write4 (off + 4) (hi32 v)
  else s.write4 off (lo32 v)

/-- CC (R381, R384): EN set, EN cleared, SHN set. -/
def State.writeCc (s : State) (c : Ctrl) (v : Nat) : State :=
  let f := s.ctrls[c]
  let css := BitVec.ofNat 3 (bits v 6 4)
  let sq := BitVec.ofNat 4 (bits v 19 16)
  let cq := BitVec.ofNat 4 (bits v 23 20)
  let s :=
    if bit v 0 && !f.en then doControllerEnable c css sq cq s
    else if !bit v 0 && f.en then doControllerReset c s
    else s.modCtrl c fun f => { f with css := css, iosqes := sq, iocqes := cq }
  let shn := BitVec.ofNat 2 (bits v 15 14)
  if shn != 0 && shn != s.ctrls[c].shn then doControllerShutdown c shn s else s

/-- A word of the MSI-X table: bit 0 of an entry's fourth word is its mask (R432). -/
def State.writeMsix (s : State) (c : Ctrl) (o v : Nat) : State :=
  let s := s.modCtrl c fun f => { f with msixTable := assocSet f.msixTable o (BitVec.ofNat 32 v) }
  if o % 16 == 12 then
    if h : o / 16 < 2048 then
      if bit v 0 then s.modCtrl c fun f => { f with unmasked := f.unmasked.filter fun x => x != o / 16 }
      else doMsixUnmask c (some ⟨o / 16, h⟩) s
    else s
  else s

/-- The low or the high half of a 64-bit register replaced. -/
def putHalf (x : Word64) (v : Nat) (high : Bool) : Word64 :=
  BitVec.ofNat 64 (if high then lo32 x.toNat + 2 ^ 32 * v else 2 ^ 32 * hi32 x.toNat + v)

/-- A 4-byte write to BAR0 (Table 15-2). -/
def State.writeBar0 (s : State) (c : Ctrl) (o v : Nat) : State :=
  if !s.present c then s
  else if 0x1000 ≤ o ∧ o < 0x3008 then
    let y := (o - 0x1000) / 8
    if o % 8 == 0 then doSqDoorbell c y (bits v 15 0) s else doCqDoorbell c y (bits v 15 0) s
  else if 0x10000 ≤ o ∧ o < 0x18000 then s.writeMsix c (o - 0x10000) v
  else
    match o with
    | 0x0C => s.modCtrl c fun f => { f with intms := f.intms ||| BitVec.ofNat 32 v }
    | 0x10 => s.modCtrl c fun f => { f with intms := f.intms &&& ~~~(BitVec.ofNat 32 v) }
    | 0x14 => s.writeCc c v
    | 0x24 => s.modCtrl c fun f => { f with aqa := BitVec.ofNat 32 (v % 2 ^ 12 + 2 ^ 16 * bits v 27 16) }
    | 0x28 => s.modCtrl c fun f => { f with asq := putHalf f.asq v false }
    | 0x2C => s.modCtrl c fun f => { f with asq := putHalf f.asq v true }
    | 0x30 => s.modCtrl c fun f => { f with acq := putHalf f.acq v false }
    | 0x34 => s.modCtrl c fun f => { f with acq := putHalf f.acq v true }
    | _ => s

/-- A write to a Pewter register by the Management Controller from code outside the array. -/
def State.writePwt (s : State) (o : Nat) (size8 : Bool) (v : Word64) : State :=
  let n := lo32 v.toNat
  match o with
  | 0x0 => { s with pewter := { s.pewter with done := rw1c s.pewter.done n 7, suspHit := rw1c s.pewter.suspHit n 12 } }
  | 0x4 => doPwtUnlock (BitVec.ofNat 16 n) s
  | 0x8 => doPwtCmd (bits n 7 0) (bits n 13 8) s
  | 0xC => doPwtAddr (BitVec.ofNat 26 n) none s
  | 0x10 => if size8 then doPwtData v none s else s
  | _ => s

/-- MSI-X Message Control: Enable in bit 15, Function Mask in bit 14 (R432). -/
def State.writeMsixControl (s : State) (c : Ctrl) (v : Nat) : State :=
  let s := s.modCtrl c fun f =>
    { f with msixEnable := bit v 15, msixMask := bit v 14, pba := if bit v 15 then f.pba else [] }
  if bit v 14 then s else doMsixUnmask c none s

/-- REGISTER_WRITE. -/
def doRegisterWrite (t : RegTarget) (size8 : Bool) (v : Word64) (s : State) : State :=
  match t with
  | .bar2 off => s.writeBar2 off size8 v.toNat
  | .bar0 c off =>
    if size8 then (s.writeBar0 c off (lo32 v.toNat)).writeBar0 c (off + 4) (hi32 v.toNat)
    else s.writeBar0 c off (lo32 v.toNat)
  | .pwt off => s.writePwt off size8 v
  | .msixControl c => s.writeMsixControl c v.toNat
  | .ptmControl => s.modCtrl 0 fun f => { f with ptmEnable := bit v.toNat 0 }
  | .array _ _ => s.emit .mcBusError

def execRegisterWrite (t : RegTarget) (size8 : Bool) (v : Word64) (s : State) : Out :=
  .next (doRegisterWrite t size8 v s)

end Sys2Proof.Machine
end

