-- ==== Sys2Proof/Machine/BmcOps.lean ====
section
/-! DEFINITION. The BMC port: its addresses, and the NVMe-MI commands (R414, R415, Table 16-10). Codes and byte places of
NVMe-MI are PRESUMED (log 18). -/

namespace Sys2Proof.Machine

/-! ### The port (R413, R414) -/

/-- What reaches the port while it answers. -/
def State.atBmc (s : State) (k : State → State) : State := if s.bmc.answers then k s else s

def State.modBmc (s : State) (f : Bmc → Bmc) : State := { s with bmc := f s.bmc }

/-- SETDASA names the static address 0x30 + SLOT_ID. -/
def execI3cSetdasa (addr : BitVec 7) (s : State) : Out :=
  .next (s.atBmc fun s => s.modBmc fun b => { b with dynAddr := some addr })

/-- ENTDAA gives an address to a target that has none. -/
def execI3cEntdaa (addr : BitVec 7) (s : State) : Out :=
  .next (s.atBmc fun s => s.modBmc fun b => { b with dynAddr := some (b.dynAddr.getD addr) })

def execSetEndpointId (eid : Byte) (s : State) : Out := .next (s.atBmc fun s => s.modBmc fun b => { b with eid := eid })

/-- A message of a type other than 0x00, 0x04 and 0x05 is discarded. -/
def execMctpMessageDiscard (_type : Byte) (s : State) : Out := .next s

/-! ### Answers -/

def State.miOk (s : State) (bs : List Byte) : State := (s.emit (.mi miSuccess [])).emit (.miData bs)

def State.miBad (s : State) : State := s.emit (.mi miInvalidParameter [])

/-- Present controllers. -/
def State.controllerIds (s : State) : List Nat := if s.power.split then [0, 1] else [0]

/-- A data structure by its type: subsystem, port, controller list, controller. -/
def State.miStructure (s : State) (type ctrl : Nat) : Option (List Byte) :=
  match type with
  | 0 => some (layout 32 [(1, le 1 1), (2, le 1 2)])
  | 1 => if ctrl == 0 then some (layout 32 [(0, le 1 2), (2, le 2 256)]) else none
  | 2 => some (le 2 s.controllerIds.length ++ s.controllerIds.flatMap (le 2))
  | 3 => if s.controllerIds.contains ctrl then some (layout 32 [(8, le 2 0x1F6C), (10, le 2 0x1024)]) else none
  | _ => none

/-- Read NVMe-MI Data Structure. -/
def doMiReadDataStructure (type ctrl : Byte) (s : State) : State :=
  s.atBmc fun s =>
    match s.miStructure type.toNat ctrl.toNat with
    | some bs => s.miOk bs
    | none => s.miBad

def execMiReadDataStructure (type : Byte) (ctrl : Byte) (s : State) : Out := .next (doMiReadDataStructure type ctrl s)

/-- NVM Subsystem Health Status Poll: the warning inverted, temperature, percentage used, and the spare field. -/
def State.subsystemHealth (s : State) : List Byte :=
  [0, BitVec.ofNat 8 (255 - s.criticalWarning), BitVec.ofNat 8 (tempByte s.compositeC), BitVec.ofNat 8 s.percentUsed,
   0, 0, BitVec.ofNat 8 (min 255 s.sparePercent), 0]

/-- The manual keeps no status that the Clear bit clears. -/
def execMiSubsystemHealthPoll (_clear : Bool) (s : State) : Out :=
  .next (s.atBmc fun s => s.miOk s.subsystemHealth)

/-- Controller Health Status Poll of the named controller. -/
def State.controllerHealth (s : State) (c : Ctrl) : List Byte :=
  layout 16
    [(0, le 2 c.val), (2, le 2 (b2n s.ctrls[c].rdy + 2 * b2n s.ctrls[c].cfs + 4 * s.ctrls[c].shst.toNat)),
     (4, le 2 (s.compositeC + 273).toNat), (6, le 1 s.percentUsed), (7, le 1 (min 255 s.sparePercent)),
     (8, le 1 s.criticalWarning)]

def doMiControllerHealthPoll (id : Word16) (s : State) : State :=
  s.atBmc fun s =>
    if h : id.toNat < 2 then
      if s.present ⟨id.toNat, h⟩ then s.miOk (s.controllerHealth ⟨id.toNat, h⟩) else s.miBad
    else s.miBad

def execMiControllerHealthPoll (id : Word16) (s : State) : Out := .next (doMiControllerHealthPoll id s)

/-- Configuration identifier of the MCTP Transmission Unit Size. -/
def mtuConfig : Byte := 3

def doMiConfigurationGet (id : Byte) (s : State) : State :=
  s.atBmc fun s => if id == mtuConfig then s.emit (.mi miSuccess [BitVec.ofNat 32 s.bmc.mtu]) else s.miBad

def execMiConfigurationGet (id : Byte) (s : State) : Out := .next (doMiConfigurationGet id s)

/-- Units of 64 to 256 bytes (R414). -/
def doMiConfigurationSet (id : Byte) (size : Word16) (s : State) : State :=
  s.atBmc fun s =>
    if id == mtuConfig && 64 ≤ size.toNat && size.toNat ≤ 256 then
      (s.modBmc fun b => { b with mtu := size.toNat }).emit (.mi miSuccess [])
    else s.miBad

def execMiConfigurationSet (id : Byte) (size : Word16) (s : State) : Out := .next (doMiConfigurationSet id size s)

/-- MN and SN of Table 15-6, then zeros. -/
def State.vpd (s : State) : List Byte := padTo 256 (modelNumber ++ s.serial.take 20)

def doMiVpdRead (off len : Word16) (s : State) : State :=
  s.atBmc fun s =>
    if off.toNat + len.toNat ≤ 256 then s.miOk (fieldBytes s.vpd off.toNat len.toNat) else s.miBad

def execMiVpdRead (off : Word16) (len : Word16) (s : State) : Out := .next (doMiVpdRead off len s)

/-- VPD Write is refused; with which status the manual does not say (log 18). -/
def execMiVpdWrite (s : State) : Out := .next (s.atBmc fun s => s.emit (.mi miInvalidOpcode []))

/-- A completion within an NVMe-MI answer: Dwords 0, 1 and 3 and its data. -/
def State.miCompletion (s : State) (sct sc : Nat) (dnr : Bool) (dw0 : Nat) (bs : List Byte) : State :=
  let st := 2 ^ 17 * (sc + 2 ^ 8 * sct + 2 ^ 14 * b2n dnr)
  (s.emit (.mi miSuccess [BitVec.ofNat 32 dw0, 0, BitVec.ofNat 32 st])).emit (.miData bs)

/-- Get Log Page through the port. -/
def State.miLogPage (s : State) (e : Sqe) : State :=
  let d := e.cdw10.toNat
  let n := 4 * (bits d 31 16 + 65536 * bits e.cdw11.toNat 15 0 + 1)
  let off := e.cdw12.toNat + 2 ^ 32 * e.cdw13.toNat
  if off % 4 != 0 then s.miCompletion 0 0x02 true 0 []
  else
    match s.logPage (bits d 7 0) (bits e.cdw11.toNat 31 16) with
    | .invalid => s.miCompletion 0 0x02 true 0 []
    | .busy => s.miCompletion 7 scCfgBusy false 0 []
    | .page p => s.miCompletion 0 0 false 0 (pageSlice p off n)

/-- NVMe Admin Command: Identify, Get Log Page and Get Features only. -/
def doMiAdminCommand (e : Sqe) (s : State) : State :=
  s.atBmc fun s =>
    if e.opcode == 0x06 then
      match s.identifyPage e.key.ctrl.val (bits e.cdw10.toNat 7 0) with
      | some p => s.miCompletion 0 0 false 0 p
      | none => s.miCompletion 0 0x02 true 0 []
    else if e.opcode == 0x02 then s.miLogPage e
    else if e.opcode == 0x0A then
      match s.feature e.key.ctrl (bits e.cdw10.toNat 7 0) e.cdw11.toNat with
      | some (v, bs) => s.miCompletion 0 0 false v bs
      | none => s.miCompletion 0 0x02 true 0 []
    else s.emit (.mi miInvalidOpcode [])

def execMiAdminCommand (e : Sqe) (s : State) : Out := .next (doMiAdminCommand e s)

/-- TELEMETRY: PWR offsets 0x000 to 0x07F as they stand, no field cleared. -/
def State.telemetry (s : State) : List Byte := (List.range 32).flatMap fun i => le 4 (s.pwrWord (4 * i))

def execTelemetry (s : State) : Out := .next (s.atBmc fun s => s.miOk s.telemetry)

/-- QUENCH over NVMe-MI (R390). -/
def doMiQuench (d : Word32) (s : State) : State :=
  s.atBmc fun s =>
    if s.theMold.isNone then s.miBad
    else
      let n := (s.quenchTargets d.toNat).length
      (s.takeQuench d.toNat).emit (.mi miSuccess [BitVec.ofNat 32 n])

def execMiQuench (d0 : Word32) (s : State) : Out := .next (doMiQuench d0 s)

def execMiUnsupportedCommand (_op : Byte) (s : State) : Out :=
  .next (s.atBmc fun s => s.emit (.mi miInvalidOpcode []))

end Sys2Proof.Machine
end

