-- ==== Sys2Proof/Machine/GridOps.lean ====
section
/-! DEFINITION. The states of the Stroke grid and its reference (R66 to R71, Table 3-1). -/

namespace Sys2Proof.Machine

def State.modGrid (s : State) (f : Grid → Grid) : State := { s with grid := f s.grid }

/-- REFERENCE of the Mold in force is STRIKE_IN. -/
def State.strikeRef (s : State) : Bool :=
  match s.theMold with
  | some m => m.strikeRef
  | none => false

/-- HOLDOVER of the Mold in force, Strokes. -/
def State.holdover (s : State) : Nat :=
  match s.theMold with
  | some m => m.holdover
  | none => 0

/-- FREE_RUN is entered, with its event (Table 3-1, Table 3-6). -/
def State.enterFreeRun (s : State) : State :=
  let s := s.modGrid fun g => { g with lock := .freeRun, freeRunEntered := true, good := 0, slewing := false }
  if s.grid.freeRunIrq then s.signal else s

/-- LOCKED is left: HOLDOVER, or FREE_RUN when HOLDOVER is 0; the C0 conditions are evaluated at once (R84). -/
def State.leaveLocked (s : State) : State :=
  let s := s.modGrid fun g => { g with lock := .holdover, heldFor := 0, lockLost := true, lockLosses := satAdd 16 g.lockLosses 1 }
  let s := if s.grid.lockIrq then s.signal else s
  let s := if s.holdover == 0 then s.enterFreeRun else s
  s.evalC0 false

/-- A PTM response that counts came within the last 50 ms (R68, R377). -/
def State.ptmFresh (s : State) : Bool :=
  match s.grid.ptmLastUs with
  | some t => s.clockUs < t + 50000
  | none => false

/-- The reference may become present (R68): a STRIKE_IN rising edge while REF10M_IN has had an edge within 10 µs, which no row
reports and is free (log 123), or with REFERENCE = 0 a PTM response while PTM is enabled. -/
def State.mayPresent (s : State) : Bool × State :=
  if s.strikeRef then
    let (w, s) := s.fresh
    (w.toNat ≤ 10, s)
  else (s.ptmFresh && s.ctrls[(0 : Ctrl)].ptmEnable, s)

/-- The reference becomes present (R68). Acquisition begins or restarts; with STRIKE_IN its rising edge is the origin
while the grid has not locked (R66). -/
def doReferencePresent (s : State) : State :=
  let (present, s) := s.mayPresent
  if !present then s
  else
    let now := s.clockUs
    let strike := s.strikeRef
    let s := s.modGrid fun g => { g with refPresent := true }
    match s.grid.lock, s.theMold with
    | .idle, some _ | .acquiring, some _ =>
      s.modGrid fun g =>
        { g with
          lock := .acquiring, good := 0, acqUs := now
          origin := if g.everLocked then g.origin else if strike then some now else none }
    | _, _ => s

def execReferencePresent (s : State) : Out := .next (doReferencePresent s)

/-- The reference is lost (R68): no PTM response for 50 ms; or, by the time since the last edge, which is free (log 123), no
STRIKE_IN rising edge for 1.1 s or no REF10M_IN edge for 10 µs. -/
def State.mayLose (s : State) : Bool × State :=
  if s.strikeRef then
    let (w, s) := s.fresh
    let (v, s) := s.fresh
    (10 ≤ w.toNat || 1100000 ≤ v.toNat, s)
  else (!s.ptmFresh, s)

/-- The reference is lost (R68, Table 3-1). -/
def doReferenceLost (s : State) : State :=
  let (lost, s) := s.mayLose
  if !lost then s
  else
    let s := s.modGrid fun g => { g with refPresent := false, good := 0, slewing := false }
    match s.grid.lock with
    | .acquiring => s.modGrid fun g => { g with origin := if g.everLocked then g.origin else none }
    | .locked => s.leaveLocked
    | .idle | .holdover | .freeRun => s

def execReferenceLost (s : State) : Out := .next (doReferenceLost s)

/-- P in ns. -/
def Mold.periodNs (m : Mold) : Nat := 1000 * m.periodUs

/-- Sixteen consecutive predicted boundaries lay within 1 µs: the grid locks (Table 3-1). A STRIKE_IN grid without an origin
took the first rising edge after acquisition began (R66), whose time no row reports and is free between then and now. -/
def doGridLock (s : State) : State :=
  if s.grid.lock == .acquiring && s.grid.refPresent then
    let (origin, s) := if s.strikeRef && s.grid.origin.isNone then
        let (w, s) := s.fresh
        (some (s.grid.acqUs + w.toNat % (s.clockUs - s.grid.acqUs + 1)), s)
      else (s.grid.origin, s)
    let p := match s.theMold with
      | some m => m.periodNs
      | none => 0
    let now := s.clockUs
    s.modGrid fun g => { g with lock := .locked, good := 0, origin := origin, lockedNs := p, lockedUs := now }
  else s

def execGridLockAcquired (s : State) : Out := .next (doGridLock s)

/-- HOLDOVER Strokes have elapsed (Table 3-1): the grid no longer counts as locked (R71, R84). -/
def doHoldoverExpiry (s : State) : State :=
  if s.grid.lock == .holdover && s.holdover ≤ s.grid.heldFor then s.enterFreeRun.evalC0 false else s

def execHoldoverExpiry (s : State) : Out := .next (doHoldoverExpiry s)

/-- Phase error of a boundary at reference time t: its distance from the nearest time at which (t − PHASE) mod P is 0
(R66), positive where the boundary lies after it (Table 3-6). -/
def Mold.phaseOf (m : Mold) (t : Nat) : Int :=
  let p := m.periodNs
  let d := (t + p - m.phase % p) % p
  if 2 * d ≤ p then d else (d : Int) - p

/-- Distance of two lengths. -/
def gapOf (a b : Nat) : Nat := max (a - b) (b - a)

/-- A Stroke may end (R70): it is no shorter than 63P/64 and no longer than 65P/64; in LOCKED it lies within 10 ppm of P; in
HOLDOVER and FREE_RUN it has the last locked length, but for a drift of 2 ppm for each hour since, unless the module slews it,
which it does in FREE_RUN with a reference only. -/
def State.strokeFits (s : State) (m : Mold) (len : Nat) (slewed : Bool) : Bool :=
  let p := m.periodNs
  let g := s.grid
  !g.everLocked ||
    63 * p ≤ 64 * len && 64 * len ≤ 65 * p &&
      match g.lock with
      | .idle | .acquiring => false
      | .locked => !slewed && 100000 * gapOf len p ≤ p
      | .holdover => !slewed && gapOf len g.lockedNs ≤ cdiv (2 * g.lockedNs * (s.clockUs - g.lockedUs)) 3600000000000000
      | .freeRun =>
        (slewed && g.refPresent) || gapOf len g.lockedNs ≤ cdiv (2 * g.lockedNs * (s.clockUs - g.lockedUs)) 3600000000000000

/-- What a boundary measures of the reference (R70, Table 3-1): the phase error while the reference is present, and the
state it leads to. A Stroke lengthened or shortened in FREE_RUN is counted, the one that ends with the lock too. -/
def State.measurePhase (s : State) (m : Mold) (refTime len : Nat) (slewed : Bool) : State :=
  let now := s.clockUs
  let s := s.modGrid fun g =>
    { g with
      refTime := refTime
      lockedNs := if g.everLocked && g.lock == .locked then len else g.lockedNs
      lockedUs := if g.lock == .locked then now else g.lockedUs }
  if s.grid.refPresent then
    let p := m.phaseOf refTime
    let within (n : Int) : Bool := -n ≤ p && p ≤ n
    let s := s.modGrid fun g => { g with phaseErr := p }
    match s.grid.lock with
    | .locked => if within 5000 then s else s.leaveLocked
    | .holdover =>
      if within 5000 then s.modGrid fun g => { g with lock := .locked, heldFor := 0 }
      else s.modGrid fun g => { g with heldFor := g.heldFor + 1 }
    | .freeRun =>
      let good := if within 1000 then s.grid.good + 1 else 0
      let s := s.modGrid fun g => { g with slewStrokes := satAdd 16 g.slewStrokes (b2n slewed) }
      if 16 ≤ good then s.modGrid fun g => { g with lock := .locked, good := 0, slewing := false }
      else s.modGrid fun g => { g with good := good, slewing := slewed }
    | .idle | .acquiring => s
  else if s.grid.lock == .holdover then s.modGrid fun g => { g with heldFor := g.heldFor + 1 }
  else s

end Sys2Proof.Machine
end

