-- ==== Sys2Proof/Machine/BoundaryOps.lean ====
section
/-! DEFINITION. The Stroke boundary (R24): charges and weights of the ended Stroke (R76, R77, R86), latched values, Recast,
power, keys, publication and marks (R228 to R232), admission (R79 to R82), sweeps (R81, R222) and budgets (R436). -/

namespace Sys2Proof.Machine

/-! ### The ended Stroke -/

/-- The number of the boundary: the first after the first lock of the Mold in force is boundary 0 (R66). -/
def State.countBoundary (s : State) : State :=
  s.modGrid fun g =>
    if g.everLocked then { g with stroke := (g.stroke + 1) % 2 ^ 64 } else { g with everLocked := true, stroke := 0 }

/-- Every running unit and Bench operator is charged for the ended Stroke (R77). -/
def State.chargeRunning (s : State) : State :=
  (List.finRange 512).foldl State.chargeBench ((List.finRange 48).foldl State.chargeRun s)

/-- The occupied time of the Stroke joins the accounts of Shops and classes and the totals of jobs (R77). -/
def State.chargeStroke (s : State) : State :=
  let add (a : Vector Nat 32) (u : Use) : Vector Nat 32 :=
    if h : 4 * u.shop + u.cls < 32 then a.set (4 * u.shop + u.cls) ((a[4 * u.shop + u.cls] + u.us) % 2 ^ 64) else a
  let (es, bs) := s.sched.usage.partition fun u => u.res < 48
  let one (j : Job) : Job :=
    { j with
      engineUs := (j.engineUs + j.pendEngineUs) % 2 ^ 64, benchUs := (j.benchUs + j.pendBenchUs) % 2 ^ 64
      pendEngineUs := 0, pendBenchUs := 0 }
  { s with sched := { s.sched with
    acctEngine := es.foldl add s.sched.acctEngine, acctBench := bs.foldl add s.sched.acctBench
    jobs := s.sched.jobs.map one } }

/-- Lag falls by what the shrunk budgets took and grows by what work planned for earlier Strokes still occupies; a resource
still behind makes the Stroke late (R86). -/
def State.settleLag (s : State) (late : List (Nat × Nat)) : State :=
  let took (r : Nat) : Nat := lookupD s.sched.lagTaken r 0
  let more (r : Nat) : Nat := lookupD late r 0
  let es := Vector.ofFn fun i : Fin 48 => s.sched.lagEngine[i] - took i.val + more i.val
  let bs := Vector.ofFn fun i : Fin 512 => s.sched.lagBench[i] - took (48 + i.val) + more (48 + i.val)
  let behind := (es.toList ++ bs.toList).filter (· != 0)
  let s := { s with sched := { s.sched with
    lagEngine := es, lagBench := bs, lagTaken := []
    lateStrokes := satAdd 32 s.sched.lateStrokes (b2n !behind.isEmpty) } }
  s.modGrid fun g => { g with maxLag := min (behind.foldl max 0) 65535, laggingUnits := behind.length }

/-- Resources on which a job had ready work in the Stroke. -/
def State.jobRes (s : State) (j : Job) : List Nat :=
  let used := (s.sched.usage.filter fun u => u.key == some j.key).map Use.res
  let at_ (p : Placed) : List Nat := (p.engine.map fun e => e.val).toList ++ (p.bench.map benchRes).toList
  let sweeps := (s.search.sweeps.filter fun w => w.queries.contains j.key).map fun w => benchRes w.bench
  (used ++ j.placed.flatMap at_ ++ sweeps).eraseDups

/-- The factors move by 1/8 toward the weighted share over the last 64 Strokes with ready work (R76); among the jobs with ready
work count those that have ended within the Stroke. -/
def State.updateWeights (s : State) (m : Mold) : State :=
  let res : List (Job × List Nat) := s.sched.jobs.map fun j => (j, s.jobRes j)
  let gone (c r : Nat) : List (Option Key × Nat) := ((s.sched.usage.filter fun u => u.res == r && u.cls == c && u.weight != 0 &&
    !(s.sched.jobs.any fun j => u.key == some j.key)).map fun u => (u.key, u.weight)).eraseDups
  let total (c r : Nat) : Nat := ((res.filter fun p => p.1.workCls == c && p.2.contains r).map fun p => p.1.effWeight).sum +
    ((gone c r).map fun p => p.2).sum
  let one (p : Job × List Nat) : Job :=
    let j := p.1
    if j.state == .waiting then j
    else
      let got := ((s.sched.usage.filter fun u => u.key == some j.key).map Use.us).sum
      let part (r : Nat) : Rat :=
        let t := total j.workCls r
        if t == 0 then 0 else s.sched.budget r j.workCls * j.effWeight / t
      let w := if p.2.isEmpty then j.window else ((got, (p.2.map part).sum) :: j.window).take 64
      let received : Rat := ((w.map fun x => x.1).sum : Nat)
      let share := (w.map fun x => x.2).sum
      let f := if w.isEmpty then j.f8
        else if received < share then min 16 (j.f8 + 1) else if share < received then max 4 (j.f8 - 1) else j.f8
      let j := { j with window := w, f8 := f }
      { j with effWeight := effective m j }
  { s with sched := { s.sched with jobs := res.map one, usage := [] } }

/-! ### Steps 1 to 3 of R24 -/

/-- Shadowed values take effect; a lower HOT_LIMIT or STAGED_LIMIT evicts (R24, R182, R187). -/
def State.latchStep (s : State) : State := s.applyShadows.fitCaches

/-- A drained Recast's bindings take effect (R57, R61). -/
def State.recastStep (s : State) : State :=
  let s := s.modMold fun m => { m with recast := m.recast.map fun r => { r with boundaries := r.boundaries + 1 } }
  (if s.mold.state == .recastApplyWait then s.applyRecast else s).bindParts true

/-- The measurements, the throttle (R409), the cap and allocation of the new Stroke, and the C0 conditions (R84). -/
def State.powerStep (s : State) (o : PowerObs) : State :=
  let s := (s.c0Withheld o).measure o
  let s := s.modPower fun p =>
    { p with
      lowered := (if p.throttleE then p.lowered.1 + 1 else 0, if p.throttleM then p.lowered.2.1 + 1 else 0,
        if p.throttleF then p.lowered.2.2 + 1 else 0)
      throttleStrokes := satAdd 16 p.throttleStrokes (b2n (p.throttleE || p.throttleM || p.throttleF)) }
  let s := if s.power.state ≥ 3 then s.gateParts else s
  s.capSettle.evalC0 true

/-! ### Step 4: publication -/

/-- Every list that grew in the Stroke receives the mark (e, COUNT) (R231). -/
def State.pushMarks (s : State) (e : Nat) : State :=
  let f (l : Lst) : Lst :=
    if l.countAt < l.records.length then
      { l with marks := (e, l.records.length) :: l.marks, countAt := l.records.length }
    else l
  { s with search := { s.search with lists := s.search.lists.map f } }

/-- The marks of a chain at a floor: those above it and the newest at or below it. -/
def keepMarks (floor : Nat) : List (Nat × Nat) → List (Nat × Nat)
  | [] => []
  | m :: ms => if m.1 ≤ floor then [m] else m :: keepMarks floor ms

/-- Marks older than each list's newest mark at or below the floor are freed (R232). -/
def State.freeMarks (s : State) : State :=
  let f (l : Lst) : Lst := { l with marks := keepMarks (s.floorOf l.coll) l.marks }
  let ls := s.search.lists.map f
  let freed := ((List.zipWith (fun (a b : Lst) => a.marks.length - b.marks.length) s.search.lists ls)).sum
  { s with search := { s.search with lists := ls, marksUsed := s.search.marksUsed - freed } }

/-- Keys, closure of the ended Stroke, and the next epoch (R24 step 4, R228, R229, R346). -/
def State.publishStep (s : State) : State :=
  let s := s.applyKeys
  let e := s.search.epoch + 1
  let trained := (s.search.publications.filter fun p => p.token.isSome).map fun p => (p.token, p.coll)
  let s := (s.publishAll e).pushMarks e
  let s := { s with search := { s.search with epoch := e } }
  let out (c : Option Nat × Nat) : Bool := s.search.tokens.any fun t => c.1 == some t.num && t.epoch == some e
  let s := s.retireEmpty e ((trained.filter out).map fun p => p.2)
  ((s.freeMarks.switchMends).freeTokens).releaseDeferred.warnDeferred

/-! ### The projection of sweeps (R227, Table 9-8) -/

/-- What a sweep projection needs of a query: its lists, its depth, its snapshot. -/
structure Visit where
  targets : List Nat
  depth : Nat
  snapshot : Nat
  deriving DecidableEq, Repr

def Job.visit (j : Job) : Visit := { targets := j.targets, depth := j.depth, snapshot := j.snapshot }

/-- Pages of a stream of a list. -/
def Lst.streamPages (l : Lst) (dims st : Nat) : Nat := cdiv (l.streamBytes dims st) 16384

/-- One pass over a list, µs. -/
def passUs (c : Coll) (l : Lst) (vs : List Visit) : Rat :=
  let n := l.vis ((vs.map Visit.snapshot).foldl max 0)
  let d := (vs.map Visit.depth).sum
  let pc := cdiv (n * (c.dims / 8)) 16384
  let code : Rat := 50 + max (((pc * 4551 : Nat) : Rat) / 1000) (((vs.length * n * cdiv c.dims 256 : Nat) : Rat) / 104000)
  let v := min n d
  let pages := l.streamPages c.dims 1 + l.streamPages c.dims 2 + l.streamPages c.dims 3 + l.streamPages c.dims 4
  let pf := min pages (2 * v)
  let b := if c.metric == 0 then 32 else if c.recordClass == 1 then 32 + 2 * c.dims else 32 + c.dims + 62
  let r := if c.metric == 0 then 0 else if c.recordClass == 1 then cdiv c.dims 8 + 16 else cdiv c.dims 8 + 16 + 124
  let fetch : Rat := ((50 * cdiv pf 32 : Nat) : Rat) + max (((v * b * 2778 : Nat) : Rat) / 10000000) (((d * r : Nat) : Rat) / 104000)
  code + fetch

/-- Groups of at most n. -/
def groupsOf {α : Type} (n : Nat) (l : List α) : List (List α) :=
  (List.range (cdiv l.length n)).map fun i => (l.drop (n * i)).take n

/-- Projected sweep time of a Bench for some queries, µs. -/
def State.sweepUs (s : State) (b : BenchId) (vs : List Visit) : Rat :=
  let nums := (vs.flatMap Visit.targets).eraseDups
  let one (n : Nat) : Rat := match s.lst n with
    | some l =>
      if l.bench == b then match s.coll l.coll with
        | some c => ((groupsOf 1024 (vs.filter fun v => v.targets.contains n)).map (passUs c l)).sum
        | none => 0
      else 0
    | none => 0
  2 + (nums.map one).sum

/-- Benches that lists lie on. -/
def State.benchesOfLists (s : State) (nums : List Nat) : List BenchId :=
  (nums.filterMap fun n => (s.lst n).map fun l => l.bench).eraseDups

/-- The sweep boundary of an admitted query: the one it has joined, or the one projected. -/
def Job.sweepStroke (j : Job) : Nat := j.sweepAt.getD j.sweepBy

/-- Queries in the order in which passes fill: C0 first, each class in the order of admission (R222). -/
def sweepOrder (a b : Job) : Bool := if (a.cls == 0) != (b.cls == 0) then a.cls == 0 else admittedBefore a b

/-- C0 queries placed on the sweeps of a boundary, in the order of R222. -/
def State.c0Visits (s : State) (n : Nat) (but : Key) : List Visit :=
  (sortBy sweepOrder (s.sched.jobs.filter fun j =>
    j.cls == 0 && j.kind == .query && j.key != but && j.state != .waiting && j.gateOrder.isNone && j.sweepStroke == n)).map
      Job.visit

/-- The C0 window on a Bench, µs (Table 3-3). -/
def Mold.window (m : Mold) : Rat := min ((m.c0Ceiling256 : Rat) / 256) ((m.periodUs - 120 : Nat) : Rat)

/-- A job of a lower class has work for a Bench that runs nowhere yet: a sweep it is to join, or the pages of an OBJ_GET. -/
def State.readyLower (s : State) (b : BenchId) (j : Job) : Bool :=
  j.cls != 0 &&
    match j.kind with
    | .query => j.walked && j.sweepAt.isNone && j.active && (s.benchesOfLists j.targets).contains b
    | .objGet i => (s.obj i).any fun o => o.bench == b
    | .operator _ => false

/-- A Burnish of the SRAM of a Bench runs. -/
def State.burnsBench (s : State) (b : BenchId) : Bool :=
  s.burnish.slots.toList.any (fun x => x.any fun y => y.space == 3 && y.unit == b.val) ||
    s.burnish.autos.any fun p => p.1 == 124 + b.val

/-- Records are on their way to lists of a Bench. -/
def State.appendsTo (s : State) (b : BenchId) : Bool :=
  (s.search.transit ++ s.search.appendWait).any fun t => (s.lst t.1).any fun l => l.bench == b

/-- A Bench holds lower-class work, running or ready. -/
def State.benchLower (s : State) (b : BenchId) : Bool :=
  let low (k : Key) : Bool := match s.job k with
    | some j => j.cls != 0
    | none => false
  s.sched.jobs.any (s.readyLower b) || s.burnsBench b || s.appendsTo b ||
  s.benches[b].job.any low || (s.waitingOnBench b).any (fun p => p.1.cls != 0) || s.benches[b].reading.isSome ||
    !s.benches[b].batches.isEmpty || !s.flash[b].ops.isEmpty ||
    s.search.sweeps.any (fun w => w.bench == b && w.queries.all low) ||
    s.search.objs.any (fun o => o.bench == b && o.state == .pending && o.deleted.isNone) ||
    s.search.puts.any fun p => p.bench == b

/-- A query fits the window of a boundary on a Bench, with T_bpre where it counts. -/
def State.fitsBench (s : State) (m : Mold) (n : Nat) (j : Job) (b : BenchId) : Bool :=
  s.sweepUs b (s.c0Visits n j.key ++ [j.visit]) + (if s.benchLower b then 150 else 0) ≤ m.window

/-! ### Step 5: admission (R79, R80, R82, R200, R202) -/

/-- Front work of a query, ns (t_front of Table 3-3). -/
def State.frontNs (s : State) (j : Job) : Nat :=
  let ns := match s.ingot j.ingot with
    | some g => g.tokenNs
    | none => 0
  j.tokens * ns + 40000 + 100 * j.lists

/-- C0 work placed before on an Engine, ns: front work of queries, and what is left of the declared time of jobs, on the
Engine that R80 picked for them. -/
def State.c0Ahead (s : State) (e : EngineId) : Nat :=
  let one (j : Job) : Nat :=
    if j.cls != 0 || !j.active || j.front != some e then 0
    else if j.kind == .query then (if j.walked then 0 else s.frontNs j)
    else 1000 * (j.tJobUs - j.engineUs - j.pendEngineUs)
  (s.sched.jobs.map one).sum

/-- The refusal of a job at its admission (R72, R200, R202, R211, R238). -/
def State.admitRefusal (s : State) (m : Mold) (j : Job) : Option Nat :=
  let busy := s.sched.jobs.any fun x => x.key != j.key && x.coll == j.coll && x.state != .waiting &&
    (x.kind == .operator 0x05 || x.kind == .operator 0x06)
  let ing := match (s.ingot j.ingot).map Ingot.state with
    | some .poisoned => some scIngotPoisoned
    | _ => none
  let fits := match s.ingot j.ingot with
    | some g => j.ingot == 0 || ((chooseVariants g.units m.quant).isSome && outliersOk g.units m.quant)
    | none => true
  let cst : Option CollState := match j.coll with
    | some c => (s.coll c).map Coll.state
    | none => none
  let keyOk := match j.coll with
    | some c => match s.coll c with
      | some x => s.keyHeld x.label
      | none => false
    | none => true
  match ing with
  | some sc => some sc
  | none =>
    if j.kind == .query && m.c0Shop.isNone then some scEnvelopeExceeded
    else if !fits then some scInvalidField
    else if j.kind == .operator 0x05 && (cst != some .ready || busy) then some scInvalidField
    else if j.kind == .operator 0x06 && cst != some .uncalibrated then some scInvalidField
    else if !keyOk then some scKeyAbsent
    else none

/-- The lowest publication token not in use (R238). -/
def State.freeToken (s : State) : Option Nat :=
  let used := s.search.tokens.map Token.num
  let n := used.length
  (((List.range (n + 1)).map (· + 1)).find? fun t => !used.contains t).bind fun t => if t ≤ 65535 then some t else none

/-- What an admission sets in a job: its snapshot, the quantisation defaults, its visible items (R24, R200, R202). -/
def State.admitCommand (s : State) (m : Mold) (k : Key) : State :=
  match s.job k with
  | none => s
  | some j =>
    let whole := j.kind == .operator 0x06
    let (seen, hidden) := j.items.partition (s.itemVisible s.search.epoch whole)
    let vs := match s.ingot j.ingot with
      | some g => (chooseVariants g.units m.quant).getD []
      | none => []
    let epoch := s.search.epoch
    let stroke := s.grid.stroke
    let context := s.contextTokens j.ingot j.input seen
    let s := s.modJob k fun j =>
      { j with
        state := .admitted, f8 := 8, effWeight := effective m { j with f8 := 8 }, admitStroke := stroke, snapshot := epoch, quant := some m.quant
        visible := seen, skipped := hidden.length, variants := vs
        tokens := if j.kind == .operator 0x03 then context else j.tokens }
    let s := if j.cls == 0 then { s with sched := { s.sched with admitted := satAdd 32 s.sched.admitted 1 } } else s
    if j.kind == .operator 0x05 then
      match s.freeToken with
      | some t => { s with search := { s.search with
          tokens := s.search.tokens ++ [{ num := t, owner := k, epoch := none, abandoned := false }] } }
      | none => s
    else if whole then match j.coll with
      | some c => s.modColl c fun c => { c with state := .calibrating }
      | none => s
    else s

/-- A query's front work takes its place on an Engine. -/
def State.startFront (s : State) (k : Key) (cls : Nat) (e : EngineId) : State :=
  (s.modJob k fun j => { j with front := some e }).placeOn e k cls frontUnit Part.whole false

/-- Commands that a boundary may admit: waiting, arrived 1 µs or more before it, of a Shop that admits. -/
def State.candidate (s : State) (j : Job) : Bool :=
  j.state == .waiting && j.isJob && !j.quenching && !s.sched.noAdmit.contains j.shop &&
    match j.arrivedUs with
    | some t => t + 1 ≤ s.clockUs
    | none => false

/-- The Shop under which a waiting command is admitted: of its queue for a job, QUERY_SHOP for a query (R60), whose class
follows it (R72). -/
def State.rebind (m : Mold) (j : Job) : Job :=
  match j.kind with
  | .query =>
    match j.coll.bind m.coll with
    | some c =>
      let cls := if (m.c0Shop.map fun h => h.id) == some c.queryShop then 0 else 1
      if cls == j.cls then { j with shop := c.queryShop }
      else { j with shop := c.queryShop, cls := cls, weight := (m.cls cls).defaultW }
    | none => j
  | .operator _ =>
    match m.shopOfQueue j.key.ctrl j.key.sqid with
    | some h => { j with shop := h.id }
    | none => j
  | .objGet _ => j

/-- A C0 candidate that is not admitted: deferred, or refused once it has been deferred C0_DEFER_MAX times (R80). -/
def State.deferC0 (s : State) (j : Job) : State :=
  if j.deferrals ≥ s.sched.deferMax then
    ({ s with sched := { s.sched with refused := satAdd 32 s.sched.refused 1 } }.refuseEnvelope j.key false).dropJob j.key
  else
    ({ s with sched := { s.sched with deferred := satAdd 32 s.sched.deferred 1 } }).modJob j.key fun j =>
      { j with deferrals := j.deferrals + 1 }

/-- The lists a query is projected to visit: those of its walk over the graph at the boundary. -/
def State.projectedLists (s : State) (j : Job) : List Nat :=
  match j.coll.bind s.coll with
  | none => []
  | some c =>
    match direction c.metric j.rawVector with
    | some q => s.walkColl c q j.lists
    | none => []

/-- The Engine of a C0 candidate: the one held for it since its arrival (R82), else the pick of R80. -/
def State.c0Engine (s : State) (m : Mold) (j : Job) : Option EngineId :=
  match s.sched.arrivalHolds.find? fun h => h.1 == j.key && s.engineOk h.2 && !s.drains h.2 with
  | some h => some h.2
  | none => s.pickC0 m j

/-- An admitted C0 command takes its Engine: front work of a query is placed there, and a job makes room for its units, while
C0 is below its ceiling (R74). -/
def State.takeFront (s : State) (m : Mold) (j : Job) (e : EngineId) : State :=
  if j.kind == .query then s.startFront j.key 0 e
  else
    let s := s.modJob j.key fun j => { j with front := some e }
    if s.freeNs m e == 0 || s.c0Ceiling e.val ≤ (s.sched.usedBy e.val 0 : Rat) then s else s.preempt e (some j.key)

/-- Admission of a C0 command; one admitted while a condition of R83 fails has no promise (R84). -/
def State.admitBound (s : State) (m : Mold) (k : Key) : State :=
  let s := s.admitCommand m k
  if s.sched.boundHeld then s else s.markUnbound k

/-- A C0 candidate against the count limit and the projection of Table 3-3. While a condition of R83 fails the count limit
alone holds it back (R84): without an Engine to pick it is admitted all the same, and its work waits for one. -/
def State.admitC0 (m : Mold) (acc : State × Nat) (k : Key) : State × Nat :=
  let (s, count) := acc
  match s.job k with
  | none => (s, count)
  | some j =>
    match s.admitRefusal m j with
    | some sc => ((s.refuse k sc).dropJob k, count)
    | none =>
      if count ≥ m.env.maxQueries then (s.deferC0 j, count)
      else
        match s.c0Engine m j with
        | none => if s.sched.boundHeld then (s.deferC0 j, count) else (s.admitBound m k, count + 1)
        | some e =>
          let n := s.grid.stroke
          let pNs := 1000 * m.periodUs
          let free := s.freeNs m e
          if j.kind == .query then
            let mm := n + 1 + (free + s.c0Ahead e + s.frontNs j) / pNs
            let ls := s.projectedLists j
            let j' := { j with targets := ls, snapshot := s.search.epoch }
            let bs := s.benchesOfLists ls
            if s.sched.boundHeld && !(mm < n + m.env.bound && bs.all (s.fitsBench m mm j')) then (s.deferC0 j, count)
            else
              let holds := (bs.filter fun b => !s.benchLower b).map fun b => (b, mm)
              let s := (s.admitBound m k).modJob k fun j => { j with targets := ls, sweepBy := mm }
              let s := { s with sched := { s.sched with benchHolds := s.sched.benchHolds ++ holds } }
              (s.takeFront m j e, count + 1)
          else if s.sched.boundHeld && !((free + 1000 * j.tJobUs) / pNs + 1 ≤ m.env.bound) then (s.deferC0 j, count)
          else ((s.admitBound m k).takeFront m j e, count + 1)


/-- C0 candidates, those deferred before first, then in order of arrival (R80). Among those deferred before, for which the
spec names no order, arrival decides too (DESIGN CHOICE, log 119). -/
def State.c0Candidates (s : State) : List Key :=
  let js := s.sched.jobs.filter fun j => j.cls == 0 && s.candidate j
  let order (a b : Job) : Bool :=
    if (a.deferrals == 0) != (b.deferrals == 0) then a.deferrals != 0 else a.arrivedUs.getD 0 < b.arrivedUs.getD 0
  (sortBy order js).map Job.key

/-- The Engine that runs the front work of a C1 query: a Sterling Engine of its QUERY_SHOP, by R206. -/
def State.pickFront (s : State) (m : Mold) (j : Job) : Option EngineId :=
  match m.shop j.shop with
  | none => none
  | some h =>
    let modes := match s.ingot j.ingot with
      | some g => g.modes
      | none => []
    s.pickEngine j plainUnit ((s.sterlingEngines m h).filter fun e =>
      s.engines[e].state != .off && !s.drains e && !s.heldFrom e j && (modes.isEmpty || modes.any fun w => modeFits m w e))

/-- An admitted query whose front work has not ended and has no place: admitted without an Engine, pre-empted, or taken from a
part that a Recast drained. -/
def Job.homeless (j : Job) : Bool :=
  j.kind == .query && j.active && !j.walked && !(j.placed.any fun p => p.unit == frontUnit)

/-- Front work without a place takes one as soon as there is one. -/
def State.placeFront (m : Mold) (s : State) (k : Key) : State :=
  match s.job k with
  | none => s
  | some j => match if j.cls == 0 then s.pickC0 m j else s.pickFront m j with
    | some e => s.startFront k j.cls e
    | none => s

/-- A hold of R82 stands until the first boundary at which its candidate may be admitted. -/
def State.holdStands (s : State) (h : Key × EngineId) : Bool :=
  (s.job h.1).any fun j => j.cls == 0 && j.state == .waiting && !j.quenching && j.arrivedUs.any fun t => s.clockUs < t + 1

/-- A candidate of class C1 to C3: admitted, refused, or left to wait for a token or an Engine. -/
def State.admitOther (m : Mold) (s : State) (k : Key) : State :=
  match s.job k with
  | none => s
  | some j =>
    match s.admitRefusal m j with
    | some sc => (s.refuse k sc).dropJob k
    | none =>
      if j.kind == .operator 0x05 && s.freeToken.isNone then s
      else if j.kind == .query then
        match s.pickFront m j with
        | some e => (s.admitCommand m k).startFront k j.cls e
        | none => s
      else s.admitCommand m k

/-- Admission at a boundary (R24 step 5). -/
def State.admissionStep (s : State) (m : Mold) : State :=
  let fix (j : Job) : Job := if s.candidate j then State.rebind m j else j
  let s := { s with sched := { s.sched with jobs := s.sched.jobs.map fix } }
  let c0 := s.c0Candidates
  let fronts (urgent : Bool) : List Key :=
    (s.sched.jobs.filter fun j => j.homeless && (j.cls == 0) == urgent).map Job.key
  let s := (fronts true).foldl (State.placeFront m) s
  let s := (c0.foldl (State.admitC0 m) (s, 0)).1
  let s := { s with sched := { s.sched with arrivalHolds := s.sched.arrivalHolds.filter s.holdStands } }
  let s := (fronts false).foldl (State.placeFront m) s
  let rest := (s.sched.jobs.filter fun j => j.cls != 0 && s.candidate j)
  let order (a b : Job) : Bool := a.arrivedUs.getD 0 < b.arrivedUs.getD 0
  ((sortBy order rest).map Job.key).foldl (State.admitOther m) s

/-! ### Sweeps (R81, R222, R226, R247) -/

/-- A Bench is kept free for C0 sweeps of a later boundary (R438). -/
def State.keptBeyond (s : State) (b : BenchId) : Bool := s.sched.benchHolds.any fun h => h.1 == b && s.grid.stroke < h.2

/-- A query whose lists are known joins the sweeps of this boundary: one of class C0 at its boundary M, or before where every
Bench has room in W by the test of R80; another one unless a Bench is kept free of its work (R81, R438). No sweep begins on
a Bench that a Recast drains (R61). -/
def State.joins (s : State) (m : Mold) (j : Job) : Bool :=
  let bs := s.benchesOfLists j.targets
  j.kind == .query && j.walked && j.sweepAt.isNone && j.active && !j.targets.isEmpty && !(bs.any s.drainsBench) &&
    (if j.cls == 0 then j.sweepBy ≤ s.grid.stroke || bs.all (s.fitsBench m s.grid.stroke j)
     else !bs.any s.keptBeyond)

/-- One query joins: the Benches it visits, without those that have failed or whose link is not up. -/
def State.joinSweep (m : Mold) (s : State) (k : Key) : State :=
  match s.job k with
  | none => s
  | some j =>
    if !s.joins m j then s
    else
      let bs := s.benchesOfLists j.targets
      let ok (b : BenchId) : Bool := s.benchOk b && s.links[dieOfBench b].state == .up
      let n := s.grid.stroke
      let s := s.modJob k fun j => { j with sweepAt := some n, benchesLeft := bs.filter ok }
      if bs.all ok then s else s.markPartial k

/-- The sweeps of the queries that have joined at this boundary; those that hold C0 queries run first. -/
def State.formSweeps (s : State) (m : Mold) : State :=
  let s := ((sortBy sweepOrder s.sched.jobs).map Job.key).foldl (State.joinSweep m) s
  let new := sortBy sweepOrder (s.sched.jobs.filter fun j => j.sweepAt == some s.grid.stroke && !j.benchesLeft.isEmpty)
  let nums := (new.flatMap Job.targets).eraseDups
  let one (n : Nat) : List Sweep := match s.lst n with
    | none => []
    | some l =>
      let qs := (new.filter fun j => j.targets.contains n && j.benchesLeft.contains l.bench).map Job.key
      (groupsOf 1024 qs).map fun g =>
        { list := n, bench := l.bench, queries := g, survivors := [], counts := [], coded := false, old := none }
  let c0 (w : Sweep) : Bool := w.queries.any fun k => match s.job k with
    | some j => j.cls == 0
    | none => false
  let (first, others) := (s.search.sweeps ++ nums.flatMap one).partition c0
  let n := s.grid.stroke
  { s with
    search := { s.search with sweeps := first ++ others }
    sched := { s.sched with benchHolds := s.sched.benchHolds.filter fun h => n < h.2 } }

/-! ### Budgets (R74, R86, R436) -/

/-- C0 time projected on a resource in the new Stroke, µs (R436): on an Engine the part of its C0 work that falls into the
Stroke once it is free of lower-class work. -/
def State.c0Reserve (s : State) (m : Mold) (res : Nat) : Rat :=
  let cap : Rat := (m.c0Ceiling256 : Rat) / 256
  let due : Rat :=
    if h : res < 48 then
      (let free := s.freeNs m ⟨res, h⟩
       let p := 1000 * m.periodUs
       if (m.c0Shop.map fun c => c.holdsEngine ⟨res, h⟩) == some true then
         ((min p (free + s.c0Ahead ⟨res, h⟩) - min p free : Nat) : Rat) / 1000 else 0)
    else if h : res - 48 < 512 then
      (let vs := (sortBy sweepOrder (s.sched.jobs.filter fun j => j.cls == 0 && j.sweepAt == some s.grid.stroke)).map Job.visit
       let b : BenchId := ⟨res - 48, h⟩
       if vs.any fun v => (s.benchesOfLists v.targets).contains b then s.sweepUs b vs else 0)
    else 0
  min due cap

/-- Jobs with ready work on a resource. -/
def State.readyOn (s : State) (res : Nat) : List Job :=
  s.sched.jobs.filter fun j => j.active && (j.placed.any (fun p => (p.engine.map fun e => e.val) == some res ||
    p.bench.map benchRes == some res) || s.search.sweeps.any fun w => benchRes w.bench == res && w.queries.contains j.key)

/-- Take from C3, then C2, then C1 (R86); the budgets and what was taken. -/
def shrink (take : Rat) (bs : List Rat) : List Rat :=
  let c3 := min take (bs.getD 3 0)
  let c2 := min (take - c3) (bs.getD 2 0)
  let c1 := min (take - c3 - c2) (bs.getD 1 0)
  [bs.getD 0 0, bs.getD 1 0 - c1, bs.getD 2 0 - c2, bs.getD 3 0 - c3]

/-- Budgets of a resource, C0 to C3, and the lag they take off. -/
def State.budgetOf (s : State) (m : Mold) (res lag : Nat) : List Rat × Nat :=
  let p : Rat := m.periodUs
  let c0 := s.c0Reserve m res
  let least (c : Nat) : Rat := ((m.cls c).guarantee : Rat) / 256 * p
  let ready := (s.readyOn res).filter fun j => j.workCls != 0
  let weight (c : Nat) : Nat := ((ready.filter fun j => j.workCls == c).map Job.effWeight).sum
  let total := weight 1 + weight 2 + weight 3
  let rest := p - c0 - least 1 - least 2 - least 3
  let of (c : Nat) : Rat := least c + if total == 0 then 0 else rest * weight c / total
  let bs := [c0, of 1, of 2, of 3]
  let want : Rat := min (lag : Rat) (p / 2)
  let bs' := shrink want bs
  (bs', (bs.sum - bs'.sum).floor.toNat)

/-- The budgets of every resource for the new Stroke. -/
def State.budgetStep (s : State) (m : Mold) : State :=
  let lag (r : Nat) : Nat := if h : r < 48 then s.sched.lagEngine[r] else if h : r - 48 < 512 then s.sched.lagBench[r - 48] else 0
  let all := (List.range 560).map fun r => (r, s.budgetOf m r (lag r))
  { s with sched := { s.sched with
    budgets := all.map fun p => (p.1, p.2.1)
    lagTaken := (all.filter fun p => p.2.2 != 0).map fun p => (p.1, p.2.2) } }

/-! ### STROKE_BOUNDARY -/

/-- The work of the new Stroke starts; every sequence may make its decode steps again (R93). -/
def State.startStroke (s : State) : State :=
  let now := s.clockUs
  let quiet (e : Engine) : Engine := { e with tsThisStroke := false }
  let again (j : Job) : Job := { j with decoded := 0 }
  let s := { s with
    engines := s.engines.map quiet
    sched := { s.sched with noAdmit := [], jobs := s.sched.jobs.map again } }
  let s := (s.modGrid fun g => { g with lastBoundaryUs := now }).resumeGets fun _ => true
  (List.finRange 512).foldl State.startNextBench ((List.finRange 48).foldl State.startNext s)

/-- The part of a boundary that needs a Mold: the ended Stroke, the five steps of R24, sweeps and budgets. -/
def State.boundary (s : State) (m : Mold) (o : BoundaryObs) : State :=
  let s := ((s.chargeRunning.chargeStroke).settleLag o.late).updateWeights m
  let s := ((s.latchStep.recastStep).powerStep o.power).publishStep
  match s.theMold with
  | none => s
  | some m => (((s.admissionStep m).formSweeps m).budgetStep m).startStroke

/-- STROKE_BOUNDARY: none falls while no grid runs (R67), nor after a Stroke that R70 excludes. -/
def doStrokeBoundary (o : BoundaryObs) (s : State) : State :=
  match s.theMold with
  | none => s
  | some m =>
    if !s.gridRuns || !s.strokeFits m o.lengthNs o.slewed then s
    else ((s.measurePhase m o.refTime o.lengthNs o.slewed).countBoundary).boundary m o

def execStrokeBoundary (o : BoundaryObs) (s : State) : Out := .next (doStrokeBoundary o s)

end Sys2Proof.Machine
end

