-- ==== Sys2Proof/Machine/Dispatch.lean ====
section
/-! DEFINITION. The dispatch: one arm for each constructor of Instr. -/

namespace Sys2Proof.Machine

def exec (i : Instr) (s : State) : Host.Outcome State Fault Refusal :=
  match i with
  | .inputGood portSplit slotId => Sys2Proof.Machine.execInputGood portSplit slotId s
  | .standbyBootDone => Sys2Proof.Machine.execStandbyBootDone s
  | .inputPowerLost overV committed => Sys2Proof.Machine.execInputPowerLost overV committed s
  | .moduleReset => Sys2Proof.Machine.execModuleReset s
  | .perstADeassert assay untrained => Sys2Proof.Machine.execPerstADeassert assay untrained s
  | .linkTrainingComplete d => Sys2Proof.Machine.execLinkTrainingComplete d s
  | .internalBootEnd bootMs => Sys2Proof.Machine.execInternalBootEnd bootMs s
  | .perstBAssert => Sys2Proof.Machine.execPerstBAssert s
  | .functionLevelReset c => Sys2Proof.Machine.execFunctionLevelReset c s
  | .controllerEnable c css iosqes iocqes => Sys2Proof.Machine.execControllerEnable c css iosqes iocqes s
  | .controllerReady c => Sys2Proof.Machine.execControllerReady c s
  | .controllerReset c => Sys2Proof.Machine.execControllerReset c s
  | .controllerShutdown c shn => Sys2Proof.Machine.execControllerShutdown c shn s
  | .sqTailDoorbell c qid tail => Sys2Proof.Machine.execSqTailDoorbell c qid tail s
  | .cqHeadDoorbell c qid head => Sys2Proof.Machine.execCqHeadDoorbell c qid head s
  | .submissionEntryFetched e => Sys2Proof.Machine.execSubmissionEntryFetched e s
  | .fetchSlotsFreed c => Sys2Proof.Machine.execFetchSlotsFreed c s
  | .hostReadPoisoned k => Sys2Proof.Machine.execHostReadPoisoned k s
  | .hostReadTimeout k => Sys2Proof.Machine.execHostReadTimeout k s
  | .schedulerArrival k => Sys2Proof.Machine.execSchedulerArrival k s
  | .msixVectorUnmask c vector => Sys2Proof.Machine.execMsixVectorUnmask c vector s
  | .ptmDialogIssue => Sys2Proof.Machine.execPtmDialogIssue s
  | .ptmDialogComplete master delayNs => Sys2Proof.Machine.execPtmDialogComplete master delayNs s
  | .spdmGetVersion p => Sys2Proof.Machine.execSpdmGetVersion p s
  | .spdmGetCapabilities p => Sys2Proof.Machine.execSpdmGetCapabilities p s
  | .spdmNegotiateAlgorithms p => Sys2Proof.Machine.execSpdmNegotiateAlgorithms p s
  | .spdmChallenge p slot nonce => Sys2Proof.Machine.execSpdmChallenge p slot nonce s
  | .spdmGetMeasurements p index sign nonce => Sys2Proof.Machine.execSpdmGetMeasurements p index sign nonce s
  | .spdmUnsupportedRequest p code => Sys2Proof.Machine.execSpdmUnsupportedRequest p code s
  | .ideKmQuery c port => Sys2Proof.Machine.execIdeKmQuery c port s
  | .ideKmKeyProg c sel key => Sys2Proof.Machine.execIdeKmKeyProg c sel key s
  | .ideKmKSetGo c sel => Sys2Proof.Machine.execIdeKmKSetGo c sel s
  | .ideKmKSetStop c sel => Sys2Proof.Machine.execIdeKmKSetStop c sel s
  | .identify e => Sys2Proof.Machine.execIdentify e s
  | .getLogPage e poison => Sys2Proof.Machine.execGetLogPage e poison s
  | .setFeatures e data => Sys2Proof.Machine.execSetFeatures e data s
  | .getFeatures e => Sys2Proof.Machine.execGetFeatures e s
  | .abort e => Sys2Proof.Machine.execAbort e s
  | .createIoSq e => Sys2Proof.Machine.execCreateIoSq e s
  | .createIoCq e => Sys2Proof.Machine.execCreateIoCq e s
  | .deleteIoSq e => Sys2Proof.Machine.execDeleteIoSq e s
  | .deleteIoCq e => Sys2Proof.Machine.execDeleteIoCq e s
  | .asyncEventRequest e => Sys2Proof.Machine.execAsyncEventRequest e s
  | .firmwareImageDownload e piece => Sys2Proof.Machine.execFirmwareImageDownload e piece s
  | .firmwareCommit e => Sys2Proof.Machine.execFirmwareCommit e s
  | .moldLoad e image => Sys2Proof.Machine.execMoldLoad e image s
  | .moldLoadValidated => Sys2Proof.Machine.execMoldLoadValidated s
  | .recast e image => Sys2Proof.Machine.execRecast e image s
  | .recastValidated => Sys2Proof.Machine.execRecastValidated s
  | .recastDrainComplete => Sys2Proof.Machine.execRecastDrainComplete s
  | .hallmarkGetStatus e => Sys2Proof.Machine.execHallmarkGetStatus e s
  | .hallmarkGetRoots e => Sys2Proof.Machine.execHallmarkGetRoots e s
  | .hallmarkGetAttest e => Sys2Proof.Machine.execHallmarkGetAttest e s
  | .lifecycle e => Sys2Proof.Machine.execLifecycle e s
  | .burnish e => Sys2Proof.Machine.execBurnish e s
  | .burnishComplete r f => Sys2Proof.Machine.execBurnishComplete r f s
  | .quench e => Sys2Proof.Machine.execQuench e s
  | .schQuenchWrite v => Sys2Proof.Machine.execSchQuenchWrite v s
  | .jobQuenchStop k => Sys2Proof.Machine.execJobQuenchStop k s
  | .objPut e envelope => Sys2Proof.Machine.execObjPut e envelope s
  | .objPutDurable k => Sys2Proof.Machine.execObjPutDurable k s
  | .objGet e lost poison => Sys2Proof.Machine.execObjGet e lost poison s
  | .objDelete e => Sys2Proof.Machine.execObjDelete e s
  | .objDeleteDurable k => Sys2Proof.Machine.execObjDeleteDurable k s
  | .objStat e => Sys2Proof.Machine.execObjStat e s
  | .jobSubmit e desc => Sys2Proof.Machine.execJobSubmit e desc s
  | .jobStatus e => Sys2Proof.Machine.execJobStatus e s
  | .query e input => Sys2Proof.Machine.execQuery e input s
  | .ingotLoad e piece => Sys2Proof.Machine.execIngotLoad e piece s
  | .ingotValidationDone id => Sys2Proof.Machine.execIngotValidationDone id s
  | .ingotLoadTimeout id => Sys2Proof.Machine.execIngotLoadTimeout id s
  | .ingotDrop e => Sys2Proof.Machine.execIngotDrop e s
  | .ingotRemoved id => Sys2Proof.Machine.execIngotRemoved id s
  | .strokeBoundary o => Sys2Proof.Machine.execStrokeBoundary o s
  | .referencePresent => Sys2Proof.Machine.execReferencePresent s
  | .referenceLost => Sys2Proof.Machine.execReferenceLost s
  | .gridLockAcquired => Sys2Proof.Machine.execGridLockAcquired s
  | .holdoverExpiry => Sys2Proof.Machine.execHoldoverExpiry s
  | .powerTick o => Sys2Proof.Machine.execPowerTick o s
  | .unitPlacement k unit => Sys2Proof.Machine.execUnitPlacement k unit s
  | .unitComplete k unit r => Sys2Proof.Machine.execUnitComplete k unit r s
  | .enginePreempt e => Sys2Proof.Machine.execEnginePreempt e s
  | .contextSaveDone e => Sys2Proof.Machine.execContextSaveDone e s
  | .contextRestoreDone e => Sys2Proof.Machine.execContextRestoreDone e s
  | .benchPreempt b => Sys2Proof.Machine.execBenchPreempt b s
  | .jobFault k cause => Sys2Proof.Machine.execJobFault k cause s
  | .nonpreOverrun e ranUs => Sys2Proof.Machine.execNonpreOverrun e ranUs s
  | .semOverrun shop sem => Sys2Proof.Machine.execSemOverrun shop sem s
  | .jobTimeCap k => Sys2Proof.Machine.execJobTimeCap k s
  | .releaseGateAnswer poison => Sys2Proof.Machine.execReleaseGateAnswer poison s
  | .mmaWs e w => Sys2Proof.Machine.execMmaWs e w s
  | .mmaOs e w => Sys2Proof.Machine.execMmaOs e w s
  | .feederSlotFill e w => Sys2Proof.Machine.execFeederSlotFill e w s
  | .arrayLastWrite e => Sys2Proof.Machine.execArrayLastWrite e s
  | .setmask e maskAddr sideAddr rows => Sys2Proof.Machine.execSetmask e maskAddr sideAddr rows s
  | .vop e a => Sys2Proof.Machine.execVop e a s
  | .vred e a => Sys2Proof.Machine.execVred e a s
  | .vcvt e w => Sys2Proof.Machine.execVcvt e w s
  | .xfer e a => Sys2Proof.Machine.execXfer e a s
  | .xferComplete e => Sys2Proof.Machine.execXferComplete e s
  | .br e cond off => Sys2Proof.Machine.execBr e cond off s
  | .semAcq e n => Sys2Proof.Machine.execSemAcq e n s
  | .semAcquired e n => Sys2Proof.Machine.execSemAcquired e n s
  | .semRel e n => Sys2Proof.Machine.execSemRel e n s
  | .npBegin e us => Sys2Proof.Machine.execNpBegin e us s
  | .npEnd e => Sys2Proof.Machine.execNpEnd e s
  | .fence e => Sys2Proof.Machine.execFence e s
  | .illegalOpcode e op => Sys2Proof.Machine.execIllegalOpcode e op s
  | .touchstoneSampleDone e r => Sys2Proof.Machine.execTouchstoneSampleDone e r s
  | .refetchComplete q o blk bad fromFlash lost hashOk => Sys2Proof.Machine.execRefetchComplete q o blk bad fromFlash lost hashOk s
  | .granuleReloadDone q granule => Sys2Proof.Machine.execGranuleReloadDone q granule s
  | .cacheStagingRequest q o => Sys2Proof.Machine.execCacheStagingRequest q o s
  | .stagingComplete q o bytes => Sys2Proof.Machine.execStagingComplete q o bytes s
  | .promotionRequest q o k unit => Sys2Proof.Machine.execPromotionRequest q o k unit s
  | .promotionComplete q o => Sys2Proof.Machine.execPromotionComplete q o s
  | .pinRelease q o k unit => Sys2Proof.Machine.execPinRelease q o k unit s
  | .promotionWaitResume q o => Sys2Proof.Machine.execPromotionWaitResume q o s
  | .writeBackGranule q granule => Sys2Proof.Machine.execWriteBackGranule q granule s
  | .dirtyWriteResume q => Sys2Proof.Machine.execDirtyWriteResume q s
  | .ceWindowStart => Sys2Proof.Machine.execCeWindowStart s
  | .autoBurnishStart u => Sys2Proof.Machine.execAutoBurnishStart u s
  | .objectReadStart b => Sys2Proof.Machine.execObjectReadStart b s
  | .tokenBatchHandoff b e entries => Sys2Proof.Machine.execTokenBatchHandoff b e entries s
  | .batchVectorsReturn b vectors => Sys2Proof.Machine.execBatchVectorsReturn b vectors s
  | .recordAppend n => Sys2Proof.Machine.execRecordAppend n s
  | .markWaitResume b => Sys2Proof.Machine.execMarkWaitResume b s
  | .graphWalkComplete k us => Sys2Proof.Machine.execGraphWalkComplete k us s
  | .codePhaseComplete list us lost => Sys2Proof.Machine.execCodePhaseComplete list us lost s
  | .fetchPhaseComplete b k us lost => Sys2Proof.Machine.execFetchPhaseComplete b k us lost s
  | .hitMerge k => Sys2Proof.Machine.execHitMerge k s
  | .mendStart list => Sys2Proof.Machine.execMendStart list s
  | .graphRepair list => Sys2Proof.Machine.execGraphRepair list s
  | .linkFrameTagFail d frame => Sys2Proof.Machine.execLinkFrameTagFail d frame s
  | .linkRetrain d => Sys2Proof.Machine.execLinkRetrain d s
  | .linkRetrainComplete d => Sys2Proof.Machine.execLinkRetrainComplete d s
  | .linkRekey d key => Sys2Proof.Machine.execLinkRekey d key s
  | .channelDieFailed d => Sys2Proof.Machine.execChannelDieFailed d s
  | .pageRead b page reader outcome => Sys2Proof.Machine.execPageRead b page reader outcome s
  | .nandProgramComplete b page pass pagesLost => Sys2Proof.Machine.execNandProgramComplete b page pass pagesLost s
  | .blockEraseStart b blk => Sys2Proof.Machine.execBlockEraseStart b blk s
  | .nandEraseComplete b blk pass pagesLost => Sys2Proof.Machine.execNandEraseComplete b blk pass pagesLost s
  | .nandSuspend b die reader => Sys2Proof.Machine.execNandSuspend b die reader s
  | .nandResume b die => Sys2Proof.Machine.execNandResume b die s
  | .streamPageProgram b list stream => Sys2Proof.Machine.execStreamPageProgram b list stream s
  | .appendWaitResume b => Sys2Proof.Machine.execAppendWaitResume b s
  | .fold b => Sys2Proof.Machine.execFold b s
  | .consolidation b list stream => Sys2Proof.Machine.execConsolidation b list stream s
  | .garbageCollection b => Sys2Proof.Machine.execGarbageCollection b s
  | .wearLevelMove b die => Sys2Proof.Machine.execWearLevelMove b die s
  | .blockRefresh b blk => Sys2Proof.Machine.execBlockRefresh b blk s
  | .patrolRead b page => Sys2Proof.Machine.execPatrolRead b page s
  | .zqCalibration b die => Sys2Proof.Machine.execZqCalibration b die s
  | .dqTraining b die pass => Sys2Proof.Machine.execDqTraining b die pass s
  | .nandBrownout g => Sys2Proof.Machine.execNandBrownout g s
  | .nandSupplyRestored g bad => Sys2Proof.Machine.execNandSupplyRestored g bad s
  | .rawReadStart b => Sys2Proof.Machine.execRawReadStart b s
  | .rawReadDone b hardFail data => Sys2Proof.Machine.execRawReadDone b hardFail data s
  | .pwtUnlockWrite key => Sys2Proof.Machine.execPwtUnlockWrite key s
  | .pwtAddrWrite addr fetchBank => Sys2Proof.Machine.execPwtAddrWrite addr fetchBank s
  | .pwtDataWrite data fetchBank => Sys2Proof.Machine.execPwtDataWrite data fetchBank s
  | .pwtBadCmd opcode len => Sys2Proof.Machine.execPwtBadCmd opcode len s
  | .pageProgram => Sys2Proof.Machine.execPageProgram s
  | .sectorErase => Sys2Proof.Machine.execSectorErase s
  | .vaultProgram => Sys2Proof.Machine.execVaultProgram s
  | .vaultZeroise => Sys2Proof.Machine.execVaultZeroise s
  | .optProgram => Sys2Proof.Machine.execOptProgram s
  | .optErase => Sys2Proof.Machine.execOptErase s
  | .eraseSuspend => Sys2Proof.Machine.execEraseSuspend s
  | .eraseSuspendComplete => Sys2Proof.Machine.execEraseSuspendComplete s
  | .eraseResume => Sys2Proof.Machine.execEraseResume s
  | .pwtOperationEnd failed => Sys2Proof.Machine.execPwtOperationEnd failed s
  | .pwtSequenceTimeout => Sys2Proof.Machine.execPwtSequenceTimeout s
  | .pwtLockoutExpiry => Sys2Proof.Machine.execPwtLockoutExpiry s
  | .pewterBrownout => Sys2Proof.Machine.execPewterBrownout s
  | .securityEventLogProgram => Sys2Proof.Machine.execSecurityEventLogProgram s
  | .hallmarkRebuildDone => Sys2Proof.Machine.execHallmarkRebuildDone s
  | .errorReport src r => Sys2Proof.Machine.execErrorReport src r s
  | .errorRecordWrite ring => Sys2Proof.Machine.execErrorRecordWrite ring s
  | .errRingAckWrite ring v => Sys2Proof.Machine.execErrRingAckWrite ring v s
  | .schCtrlWrite v => Sys2Proof.Machine.execSchCtrlWrite v s
  | .qtrMcCtrlWrite q v => Sys2Proof.Machine.execQtrMcCtrlWrite q v s
  | .brnCtrlWrite v => Sys2Proof.Machine.execBrnCtrlWrite v s
  | .pwrCtrlWrite v => Sys2Proof.Machine.execPwrCtrlWrite v s
  | .meCountClear e => Sys2Proof.Machine.execMeCountClear e s
  | .bnCountClear b => Sys2Proof.Machine.execBnCountClear b s
  | .fmCountClear b => Sys2Proof.Machine.execFmCountClear b s
  | .registerWrite t size8 v => Sys2Proof.Machine.execRegisterWrite t size8 v s
  | .rcRegisterRead off size8 => Sys2Proof.Machine.execRcRegisterRead off size8 s
  | .split64bitRead off => Sys2Proof.Machine.execSplit64bitRead off s
  | .bar2BadAccess write off size => Sys2Proof.Machine.execBar2BadAccess write off size s
  | .powerCap dw0 => Sys2Proof.Machine.execPowerCap dw0 s
  | .pwrBrakeAssert => Sys2Proof.Machine.execPwrBrakeAssert s
  | .pwrBrakeDeassert => Sys2Proof.Machine.execPwrBrakeDeassert s
  | .thermalSensorRead r => Sys2Proof.Machine.execThermalSensorRead r s
  | .thermalEmergencyEnd => Sys2Proof.Machine.execThermalEmergencyEnd s
  | .thermTripRelease => Sys2Proof.Machine.execThermTripRelease s
  | .railBrownout r => Sys2Proof.Machine.execRailBrownout r s
  | .holdupCapacitanceCheck uf => Sys2Proof.Machine.execHoldupCapacitanceCheck uf s
  | .holdupOkChange bankV => Sys2Proof.Machine.execHoldupOkChange bankV s
  | .apstIdleExpiry => Sys2Proof.Machine.execApstIdleExpiry s
  | .powerStateExitDone => Sys2Proof.Machine.execPowerStateExitDone s
  | .i3cSetdasa addr => Sys2Proof.Machine.execI3cSetdasa addr s
  | .i3cEntdaa addr => Sys2Proof.Machine.execI3cEntdaa addr s
  | .setEndpointId eid => Sys2Proof.Machine.execSetEndpointId eid s
  | .miReadDataStructure type ctrl => Sys2Proof.Machine.execMiReadDataStructure type ctrl s
  | .miSubsystemHealthPoll clear => Sys2Proof.Machine.execMiSubsystemHealthPoll clear s
  | .miControllerHealthPoll id => Sys2Proof.Machine.execMiControllerHealthPoll id s
  | .miConfigurationGet id => Sys2Proof.Machine.execMiConfigurationGet id s
  | .miConfigurationSet id size => Sys2Proof.Machine.execMiConfigurationSet id size s
  | .miVpdRead off len => Sys2Proof.Machine.execMiVpdRead off len s
  | .miVpdWrite => Sys2Proof.Machine.execMiVpdWrite s
  | .miAdminCommand e => Sys2Proof.Machine.execMiAdminCommand e s
  | .telemetry => Sys2Proof.Machine.execTelemetry s
  | .miQuench d0 => Sys2Proof.Machine.execMiQuench d0 s
  | .miUnsupportedCommand op => Sys2Proof.Machine.execMiUnsupportedCommand op s
  | .custodianFrame f => Sys2Proof.Machine.execCustodianFrame f s
  | .messageReassemblyTimeout => Sys2Proof.Machine.execMessageReassemblyTimeout s
  | .sessionInit => Sys2Proof.Machine.execSessionInit s
  | .sessionInitResend => Sys2Proof.Machine.execSessionInitResend s
  | .sessionAccept body => Sys2Proof.Machine.execSessionAccept body s
  | .sessionReject reason => Sys2Proof.Machine.execSessionReject reason s
  | .keyDeliver label key => Sys2Proof.Machine.execKeyDeliver label key s
  | .keyRevoke label => Sys2Proof.Machine.execKeyRevoke label s
  | .ping => Sys2Proof.Machine.execPing s
  | .pong => Sys2Proof.Machine.execPong s
  | .close reason => Sys2Proof.Machine.execClose reason s
  | .sessionIdlePing => Sys2Proof.Machine.execSessionIdlePing s
  | .sessionTimeout => Sys2Proof.Machine.execSessionTimeout s
  | .sessionBackoffExpiry => Sys2Proof.Machine.execSessionBackoffExpiry s
  | .dbgToken token => Sys2Proof.Machine.execDbgToken token s
  | .perstBDeassert => Sys2Proof.Machine.execPerstBDeassert s
  | .vectorInstructionComplete e => Sys2Proof.Machine.execVectorInstructionComplete e s
  | .managementControllerRestart => Sys2Proof.Machine.execManagementControllerRestart s
  | .mctpMessageDiscard type => Sys2Proof.Machine.execMctpMessageDiscard type s

end Sys2Proof.Machine
end

