-- ==== Sys2Proof/Safety.lean ====
section
/-! DEFINITION. What a safe step and a safe state are, in the terms the claims use: the step answers a next state, and
every memory stands in canonical form. -/

namespace Sys2Proof.Safety

open Sys2Proof.Machine

/-- A step answers a next state. -/
def Completes (s : State) : Prop := ∃ t, step s = .next t

/-- Every memory is in canonical form. -/
def MemoryCanonical (s : State) : Prop := s.memWf = true

end Sys2Proof.Safety
end

