-- ==== Sys2Proof/WellFormed.lean ====
section
/-! DEFINITION. Well-formed commands: an operand whose Lean type is wider than the field it stands for lies in the
field's range. -/

namespace Sys2Proof

/-- A queue identifier of Table 15-4 is at most 1,024 (R378). -/
def Key.wf (k : Key) : Bool := k.sqid ≤ 1024

/-- LEN of an SGL descriptor has 32 bits (R380). -/
def Sqe.wf (e : Sqe) : Bool := e.key.wf && e.sgl.all fun d => d.len < 2 ^ 32

/-- Block and row of a page address lie in the geometry of Table 11-1. -/
def PhysPage.wf (p : PhysPage) : Bool := p.blk.block < 2731 && p.row < 1536

/-- A Custodian frame carries at most 1,472 bytes of a message below 2^32 bytes. -/
def CustFrame.wf (f : CustFrame) : Bool :=
  f.off < 2 ^ 32 && f.len < 2 ^ 32 && f.bytes.length ≤ 1472

/-- The submission entry of a command. -/
def Instr.entry : Instr → Option Sqe
  | .submissionEntryFetched e | .identify e | .getLogPage e _ | .setFeatures e _ | .getFeatures e | .abort e
  | .createIoSq e | .createIoCq e | .deleteIoSq e | .deleteIoCq e | .asyncEventRequest e
  | .firmwareImageDownload e _ | .firmwareCommit e | .moldLoad e _ | .recast e _ | .hallmarkGetStatus e
  | .hallmarkGetRoots e | .hallmarkGetAttest e | .lifecycle e | .burnish e | .quench e | .objPut e _
  | .objGet e _ _ | .objDelete e | .objStat e | .jobSubmit e _ | .jobStatus e | .query e _ | .ingotLoad e _
  | .ingotDrop e | .miAdminCommand e => some e
  | _ => none

/-- The key of the host command that a row concerns: its entry's, or its own. -/
def Instr.key : Instr → Option Key
  | .submissionEntryFetched e | .identify e | .getLogPage e _ | .setFeatures e _ | .getFeatures e | .abort e
  | .createIoSq e | .createIoCq e | .deleteIoSq e | .deleteIoCq e | .asyncEventRequest e
  | .firmwareImageDownload e _ | .firmwareCommit e | .moldLoad e _ | .recast e _ | .hallmarkGetStatus e
  | .hallmarkGetRoots e | .hallmarkGetAttest e | .lifecycle e | .burnish e | .quench e | .objPut e _
  | .objGet e _ _ | .objDelete e | .objStat e | .jobSubmit e _ | .jobStatus e | .query e _ | .ingotLoad e _
  | .ingotDrop e | .miAdminCommand e => some e.key
  | .hostReadPoisoned k | .hostReadTimeout k | .schedulerArrival k | .jobQuenchStop k
  | .objDeleteDurable k | .unitPlacement k _ | .unitComplete k _ _ | .jobFault k _ | .jobTimeCap k
  | .promotionRequest _ _ k _ | .pinRelease _ _ k _ | .graphWalkComplete k _ | .fetchPhaseComplete _ k _ _
  | .hitMerge k => some k
  | .objPutDurable k => some k.what
  | _ => none

/-- A target lies in its window (R296, R378). -/
def RegTarget.wf : RegTarget → Bool
  | .bar2 off => off < 2 ^ 25
  | .bar0 _ off => off < 2 ^ 17
  | .pwt off => off < 4096
  | .array a _ => a < 2 ^ 32
  | .msixControl _ | .ptmControl => true

/-- The other operands fit the fields they stand for. -/
def Instr.ranged : Instr → Bool
  | .sqTailDoorbell _ q t => q ≤ 1024 && t < 65536
  | .cqHeadDoorbell _ q h => q ≤ 1024 && h < 65536
  | .spdmChallenge _ _ n => n.length == 32
  | .spdmGetMeasurements _ _ _ n => n.length == 32
  | .autoBurnishStart u => u < 638
  | .pageRead _ p _ _ => p.wf
  | .patrolRead _ p => p.wf
  | .nandProgramComplete _ p _ _ => p.wf
  | .blockEraseStart _ k => k.block < 2731
  | .nandEraseComplete _ k _ _ => k.block < 2731
  | .blockRefresh _ k => k.block < 2731
  | .rawReadDone _ _ d => d.length == 18432
  | .setmask _ _ _ r => r ≤ 256
  | .xfer _ a => a.len ≤ 262144
  | .semAcq _ n => n < 256
  | .semRel _ n => n < 256
  | .rcRegisterRead t _ => t.wf
  | .split64bitRead o => o < 2 ^ 25
  | .bar2BadAccess _ o _ => o < 2 ^ 25
  | .custodianFrame f => f.wf
  | .sessionAccept b => b.length == 1608
  | .dbgToken b => b.length == 2892
  | _ => true

/-- A command's operands fit the fields they stand for. -/
def Instr.wf (i : Instr) : Bool :=
  (match i.entry with
   | some e => e.wf
   | none => true) &&
  (match i.key with
   | some k => k.wf
   | none => true) && i.ranged

end Sys2Proof
end

