-- ==== Sys2Proof/Certificates/Slice0/Obligations.lean ====
section
/-! DEFINITION. The statements for the provers, one Prop each, listed in OBLIGATIONS.json. -/

section
open Sys2Proof Sys2Proof.Machine Sys2Proof.Safety

/-- A step is exec of the front command on the state with the queue's rest; on an empty queue one microsecond passes
(the model's choice, log 2) (Scope and conventions (00_scope.md)). -/
def Obligations.AStepRunsTheFrontCommand : Prop :=
  (∀ (s : State) (c : Instr) (rest : List Instr), s.pending = c :: rest → step s = exec c { s with pending := rest }) ∧
    ∀ s : State, s.pending = [] → step s = .next { s with clockUs := s.clockUs + 1 }

/-- Every one of the 234 commands answers a next state in every state, with the queue of waiting commands as it was (R3,
Scope and conventions (00_scope.md)). -/
def Obligations.CommandsCompleteAndLeaveTheQueueAlone : Prop :=
  ∀ (c : Instr) (s : State), ∃ t, exec c s = .next t ∧ t.pending = s.pending

/-- Every step keeps every memory in its canonical form: what reads as zeros is not listed, and every listed byte lies
in a valid line (R170, R171, R172, R173). -/
def Obligations.EveryStepKeepsMemoryCanonical : Prop :=
  ∀ s t : State, MemoryCanonical s → step s = .next t → MemoryCanonical t

/-- At reset every memory is in canonical form and empty, the Blank Mold is in force of nothing, and the registers hold
their Reset column (R10, R171, R308). -/
def Obligations.ResetHoldsTheResetColumn : Prop :=
  let s := State.reset
  MemoryCanonical s ∧ s.mem.stacked.cells = [] ∧ s.theMold = none ∧ s.pewter.lcState = 0 ∧
    s.readWord 0x30004 = 2 + 16 * 1 + 256 * 1 ∧ s.readWord 0x20024 = 0 ∧ s.readWord 0x40004 = 2 * 2 ∧
    s.readWord 0x50004 = 1 + 16 * 4 ∧ s.readWord 0x60004 = 1800 + 2 ^ 16 * 600 ∧
    (∀ q : QuarterId, s.qtrWord q 0x1004 = 768 + 2 ^ 16 * 64) ∧ (∀ e : EngineId, s.engineWord e 4 = 1) ∧
    ∀ b : BenchId, s.benchWord b 4 = 1 ∧ s.flashWord b 0x404 = 1 + 2 * 14

/-- CC.EN opens the admin queues or raises CFS, RDY rises in operation, SHN shuts down, and resets of one controller
reset it alone (R381, R395, R373, R29, R384). -/
def Obligations.ControllersAreEnabledResetAndShutDown : Prop :=
  (∀ (s : State) (c : Ctrl) (css : BitVec 3) (sq cq : BitVec 4),
    (s.present c = false ∨ s.ctrls[c].en = true → exec (.controllerEnable c css sq cq) s = .next s) ∧
    (s.present c = true → s.ctrls[c].en = false → exec (.controllerEnable c 0 6 4) s = .next (s.modCtrl c fun f =>
      { f with
        en := true, css := 0, iosqes := 6, iocqes := 4
        sqs := [{ id := 0, size := bits f.aqa.toNat 11 0 + 1, cqid := 0, head := 0, tail := 0 }]
        cqs := [{ id := 0, size := bits f.aqa.toNat 27 16 + 1, vector := 0, ien := true, head := 0, tail := 0,
                  posted := [], waiting := [] }] })) ∧
    (s.present c = true → s.ctrls[c].en = false → ¬(css = 0 ∧ sq = 6 ∧ cq = 4) →
      exec (.controllerEnable c css sq cq) s = .next (s.modCtrl c fun f =>
        { f with en := true, css := css, iosqes := sq, iocqes := cq, cfs := true })) ∧
    (s.ctrls[c].en = true ∧ s.ctrls[c].cfs = false ∧ s.power.phase = .running →
      exec (.controllerReady c) s = .next (s.modCtrl c fun f => { f with rdy := true })) ∧
    (¬(s.ctrls[c].en = true ∧ s.ctrls[c].cfs = false ∧ s.power.phase = .running) →
      exec (.controllerReady c) s = .next s)) ∧
  (∀ (s : State) (c : Ctrl) (shn : BitVec 2),
    (s.present c = false ∨ shn = 0 → exec (.controllerShutdown c shn) s = .next s) ∧
    (s.present c = true → shn ≠ 0 →
      let t := ((s.quenchController c).finishObjects c).modCtrl c fun f => { f with shn := shn, shst := 2 }
      exec (.controllerShutdown c shn) s = .next (if t.allShut then t.writeBackAll else t)) ∧
    exec (.functionLevelReset c) s =
      .next (s.dropController c fun f => { Controller.reset with linkUp := f.linkUp, ide := f.ide }) ∧
    exec (.controllerReset c) s =
      .next (s.dropController c fun f =>
        { f with en := false, shn := 0, rdy := false, cfs := false, shst := 0, sqs := [], cqs := [], inflight := [],
                 paused := [], turn := 0, aers := [], aerSent := [], aerQueued := [], pmState := 0, numQueues := 0,
                 coalescing := 0, vectorConfig := [], asyncConfig := 0, apstEnable := false, apstTable := [],
                 timestamp := 0, timestampAt := 0 }) ∧
    (s.power.split = false →
      exec .perstBAssert s = .next { s with power := { s.power with perstB := true } } ∧
      exec .perstBDeassert s = .next { s with power := { s.power with perstB := false } }) ∧
    (s.power.split = true →
      exec .perstBAssert s = .next (({ s with power := { s.power with perstB := true } } : State).dropController 1
        fun _ => Controller.reset) ∧
      exec .perstBDeassert s = .next (let u : State := { s with power := { s.power with perstB := false } }
        if s.power.phase = .running then u.modCtrl 1 fun f => { f with linkUp := true } else u)))

/-- An NVMe controller reset or an FLR leaves the Mold, the memories, the media and the other controller as they were
(R29, R384). -/
def Obligations.ResetsOfOneControllerLeaveTheRest : Prop :=
  ∀ (s t : State) (c d : Ctrl) (i : Instr), d ≠ c → (i = .controllerReset c ∨ i = .functionLevelReset c) →
    s.sched.jobs = [] → s.power.state = 0 → s.ctrls[(0 : Ctrl)].pmState = 0 → exec i s = .next t →
      t.mold.mold = s.mold.mold ∧ t.mold.gen = s.mold.gen ∧ t.mold.state = s.mold.state ∧ t.mem = s.mem ∧
        t.engines = s.engines ∧ t.benches = s.benches ∧ t.flash = s.flash ∧ t.search = s.search ∧
        t.pewter = s.pewter ∧ t.sec = s.sec ∧ t.grid = s.grid ∧ t.ctrls[d] = s.ctrls[d] ∧ t.ctrls[c].sqs = [] ∧
        t.ctrls[c].cqs = [] ∧ t.ctrls[c].inflight = [] ∧ t.ctrls[c].rdy = false

/-- Doorbells move queue pointers, fetched entries go in flight, and a host read that fails ends its command alone
(R378, R388, R381, R34, R393, R376). -/
def Obligations.DoorbellsFetchAndFailedReads : Prop :=
  (∀ (s : State) (c : Ctrl) (q v : Nat),
    (∀ x, s.ctrls[c].sqs.find? (fun x => x.id == q) = some x → v < x.size →
      (q = 0 ∨ s.isC0Queue c q = true ∨ s.unreserved c < 49151) → s.power.state < 3 →
      exec (.sqTailDoorbell c q v) s = .next (s.modCtrl c fun f =>
        { f with sqs := updWhere f.sqs (fun x => x.id == q) fun x => { x with tail := v } })) ∧
    (s.ctrls[c].sqs.find? (fun x => x.id == q) = none → exec (.sqTailDoorbell c q v) s = .next s) ∧
    (∀ x, s.ctrls[c].sqs.find? (fun x => x.id == q) = some x → x.size ≤ v →
      exec (.sqTailDoorbell c q v) s = .next s) ∧
    (∀ (e : Sqe) (x : SubQueue), e.key.ctrl = c → e.key.sqid = q →
      s.ctrls[c].sqs.find? (fun x => x.id == q) = some x → x.head ≠ x.tail → s.ctrls[c].shn = 0 →
      (q = 0 ∨ (s.isC0Queue c q = true ∨ s.unreserved c < 49151) ∧ s.ioHeld c < 65535 ∧ s.ioWaits = false) →
      opcodeOk e = true →
      exec (.submissionEntryFetched e) s = .next (s.modCtrl c fun f =>
        { f with
          sqs := updWhere f.sqs (fun x => x.id == q) fun x => { x with head := (x.head + 1) % x.size }
          inflight := f.inflight ++ [e], turn := if q = 0 then f.turn else q })) ∧
    (∀ (e : Sqe), e.key.ctrl = c → e.key.sqid = q → q ≠ 0 → s.ioWaits = true →
      (s.ctrls[c].sqs.find? (fun x => x.id == q)).isSome = true →
      exec (.submissionEntryFetched e) s = .next s.wakeForIo) ∧
    (∀ x, s.ctrls[c].cqs.find? (fun x => x.id == q) = some x → v < x.size → x.waiting = [] →
      exec (.cqHeadDoorbell c q v) s = .next (s.modCtrl c fun f =>
        { f with cqs := updWhere f.cqs (fun x => x.id == q) fun x => { x with head := v } })) ∧
    (∀ n, nextPaused s.ctrls[c].paused s.ctrls[c].turn = some n → s.unreserved c < 49151 →
      exec (.fetchSlotsFreed c) s = .next (s.modCtrl c fun f =>
        { f with paused := f.paused.filter fun x => x != n, turn := n })) ∧
    (s.ctrls[c].paused = [] → exec (.fetchSlotsFreed c) s = .next s)) ∧
  (∀ (s : State) (k : Key),
    ((∀ e ∈ s.ctrls[k.ctrl].inflight, e.key ≠ k) →
      exec (.hostReadPoisoned k) s = .next s ∧ exec (.hostReadTimeout k) s = .next s) ∧
    ((∃ e ∈ s.ctrls[k.ctrl].inflight, e.key = k) → s.mold.loading = none →
      let logged : State :=
        { s.modCtrl k.ctrl fun f => { f with aerLogged := f.aerLogged + 1 } with
          search := { s.search with puts := s.search.puts.filter fun p => p.key != k } }
      exec (.hostReadPoisoned k) s = .next (logged.refuse k scDataPoisoned) ∧
      exec (.hostReadTimeout k) s = .next (logged.nvme k 0 0x04 false)))

/-- When a mask clears, each pending vector that is no longer masked is sent once and its PBA bit clears (R432). -/
def Obligations.UnmaskedVectorsAreSentOnce : Prop :=
  ∀ (s : State) (c : Ctrl) (v : Fin 2048),
    let open1 := insertNew s.ctrls[c].unmasked v.val
    (s.ctrls[c].msixEnable = true → s.ctrls[c].msixMask = false →
      exec (.msixVectorUnmask c (some v)) s = .next
        { s with
          ctrls := s.ctrls.set c { s.ctrls[c] with
            unmasked := open1, pba := s.ctrls[c].pba.filter fun x => !open1.contains x }
          out := s.out ++ (s.ctrls[c].pba.filter open1.contains).map fun x => Output.msix c x }) ∧
    (s.ctrls[c].msixEnable = false →
      exec (.msixVectorUnmask c (some v)) s = .next (s.modCtrl c fun f => { f with unmasked := open1 })) ∧
    (s.ctrls[c].msixEnable = true →
      exec (.msixVectorUnmask c none) s = .next
        { s with
          ctrls := s.ctrls.set c { s.ctrls[c] with
            msixMask := false, pba := s.ctrls[c].pba.filter fun x => !s.ctrls[c].unmasked.contains x }
          out := s.out ++ (s.ctrls[c].pba.filter s.ctrls[c].unmasked.contains).map fun x => Output.msix c x })

/-- PTM, IDE key programming and SPDM answer in their order and refuse requests out of it (R375, R377, R361, R357, R413,
R372). -/
def Obligations.PtmIdeAndSpdmDialogs : Prop :=
  (∀ (s : State) (c : Ctrl) (sel : IdeSel) (key : BitVec 256) (port : Byte) (m d : Nat),
    (let due := ∀ t, s.grid.ptmIssueUs = some t → t + (if s.grid.lock = .acquiring then 1000 else 10000) ≤ s.clockUs;
      (s.ctrls[(0 : Ctrl)].ptmEnable = true ∧ s.ctrls[(0 : Ctrl)].linkUp = true → due →
        exec .ptmDialogIssue s = .next { s with
          grid := { s.grid with ptmOut := true, ptmIssueUs := some s.clockUs }, out := s.out ++ [.ptmRequest] }) ∧
      (¬due → exec .ptmDialogIssue s = .next s)) ∧
    (¬(s.ctrls[(0 : Ctrl)].ptmEnable = true ∧ s.ctrls[(0 : Ctrl)].linkUp = true) →
      exec .ptmDialogIssue s = .next s ∧ exec (.ptmDialogComplete m d) s = .next s) ∧
    (s.ctrls[(0 : Ctrl)].ptmEnable = true ∧ s.ctrls[(0 : Ctrl)].linkUp = true → s.grid.ptmOut = true →
      (d ≤ 10000 → exec (.ptmDialogComplete m d) s = .next
        { s with grid := { s.grid with ptmOut := false, ptmTime := m + d, ptmLastUs := s.clockUs } }) ∧
      (10000 < d → exec (.ptmDialogComplete m d) s = .next { s with grid := { s.grid with ptmOut := false } })) ∧
    exec (.ideKmQuery c port) s = .next (s.emit (.ideKm c 0x01)) ∧
    exec (.ideKmKeyProg c sel key) s = .next ((s.modCtrl c fun f =>
      { f with ide := f.ide.filter (fun k => k.sel != sel) ++ [{ sel := sel, key := key, go := false }] }).emit
        (.ideKm c 0x03)) ∧
    exec (.ideKmKSetGo c sel) s = .next ((s.modCtrl c fun f =>
      { f with ide := updWhere f.ide (fun k => k.sel == sel) fun k => { k with go := true } }).emit (.ideKm c 0x06)) ∧
    exec (.ideKmKSetStop c sel) s = .next ((s.modCtrl c fun f =>
      { f with ide := updWhere f.ide (fun k => k.sel == sel) fun k => { k with go := false } }).emit (.ideKm c 0x06))) ∧
  (∀ (s : State) (p : SpdmPort) (code index slot : Byte) (sign : Bool) (nonce : List Byte),
    let here := match p with
      | .mctp => s.bmc.answers
      | .doe c => s.present c
    (here = false → exec (.spdmGetVersion p) s = .next s ∧ exec (.spdmGetCapabilities p) s = .next s ∧
      exec (.spdmNegotiateAlgorithms p) s = .next s ∧ exec (.spdmChallenge p slot nonce) s = .next s ∧
      exec (.spdmGetMeasurements p index sign nonce) s = .next s ∧
      exec (.spdmUnsupportedRequest p code) s = .next s) ∧
    (here = true →
      exec (.spdmGetVersion p) s = .next ((s.setConn { port := p, version := true, caps := false, algs := false }).emit
        (.spdm p 0x04 (le 2 0x1300))) ∧
      exec (.spdmUnsupportedRequest p code) s = .next (s.emit (.spdm p 0x7F [0x07, code])) ∧
      ((s.conn p).version = true → exec (.spdmGetCapabilities p) s = .next
        ((s.setConn { s.conn p with caps := true }).emit (.spdm p 0x61 (le 4 0x10014)))) ∧
      ((s.conn p).version = false → exec (.spdmGetCapabilities p) s = .next (s.emit (.spdm p 0x7F [0x04]))) ∧
      ((s.conn p).caps = true → exec (.spdmNegotiateAlgorithms p) s = .next
        ((s.setConn { s.conn p with algs := true }).emit
          (.spdm p 0x63 (le 4 0 ++ le 4 0x20 ++ le 1 1 ++ [0x03, 0x00] ++ le 2 0x1C01)))) ∧
      ((s.conn p).caps = false → exec (.spdmNegotiateAlgorithms p) s = .next (s.emit (.spdm p 0x7F [0x04]))) ∧
      ((s.conn p).algs = false →
        exec (.spdmChallenge p slot nonce) s = .next (s.emit (.spdm p 0x7F [0x04])) ∧
        exec (.spdmGetMeasurements p index sign nonce) s = .next (s.emit (.spdm p 0x7F [0x04]))) ∧
      ((s.conn p).algs = true → index = 5 ∨ index = 255 → s.pewter.readWaits .vault = true →
        exec (.spdmGetMeasurements p index sign nonce) s = .next
          { s with pewter := { s.pewter with waiting := s.pewter.waiting ++ [.measure p index sign nonce] } }) ∧
      ((s.conn p).algs = true → (index ≠ 5 ∧ index ≠ 255) ∨ s.pewter.readWaits .vault = false →
        ∀ b, s.measurementBlocks index.toNat = some b →
        exec (.spdmGetMeasurements p index false nonce) s = .next (s.emit (.spdm p 0x60 b))) ∧
      ((s.conn p).algs = true → s.pewter.lcState ≠ 0 → s.sec.rebuilt = false →
        exec (.spdmChallenge p 0xFF nonce) s = .next
          { s with
            free := s.free + 4
            sec := { s.sec with waiting := s.sec.waiting ++
              [.challenge p (le 1 0xFF ++ nonce ++ ([0, 1, 2, 3].flatMap fun i => le 8 (Config.freeWord (s.free + i)).toNat))] } })))

/-- Features are set and read back, and Identify and log pages are answered or refused (R381, Table 15-7
(15_host_port_and_onant_queues.md), R425, R426, R380). -/
def Obligations.FeaturesAndPagesAreRead : Prop :=
  (∀ (s : State) (e : Sqe) (d : List Byte),
    let c := e.key.ctrl
    let fid := bits e.cdw10.toNat 7 0
    let v := e.cdw11.toNat
    (fid = 0x02 → bits v 4 0 ≤ 4 → exec (.setFeatures e d) s = .next
      (((s.modCtrl c fun f => { f with pmState := bits v 4 0 }).followRequest).success e.key 0 0 [])) ∧
    (fid = 0x02 → 4 < bits v 4 0 → exec (.setFeatures e d) s = .next (s.nvme e.key 0 0x02 true)) ∧
    (fid = 0x07 → bits v 15 0 ≠ 65535 → bits v 31 16 ≠ 65535 →
      let n := min (bits v 15 0) 1023 + 65536 * min (bits v 31 16) 1023
      exec (.setFeatures e d) s = .next
        ((s.modCtrl c fun f => { f with numQueues := BitVec.ofNat 32 n }).success e.key n 0 [])) ∧
    (fid = 0x08 → exec (.setFeatures e d) s = .next
      ((s.modCtrl c fun f => { f with coalescing := e.cdw11 }).success e.key 0 0 [])) ∧
    (fid = 0x09 → bits v 15 0 ≤ 2047 → exec (.setFeatures e d) s = .next
      ((s.modCtrl c fun f => { f with vectorConfig := assocSet f.vectorConfig (bits v 15 0) (bit v 16) }).success
        e.key 0 0 [])) ∧
    (fid = 0x0B → exec (.setFeatures e d) s = .next
      ((s.modCtrl c fun f => { f with asyncConfig := e.cdw11 }).success e.key 0 0 [])) ∧
    (fid = 0x0C → exec (.setFeatures e d) s = .next
      ((s.modCtrl c fun f => { f with apstEnable := bit v 0, apstTable := apstEntries d }).success e.key 0 0 [])) ∧
    (fid = 0x0E → exec (.setFeatures e d) s = .next
      ((s.modCtrl c fun f => { f with timestamp := BitVec.ofNat 64 (field d 0 6), timestampAt := s.clockUs }).success
        e.key 0 0 [])) ∧
    (fid ∉ [0x02, 0x07, 0x08, 0x09, 0x0B, 0x0C, 0x0E] →
      exec (.setFeatures e d) s = .next (s.nvme e.key 0 0x02 true)) ∧
    (∀ x, s.feature c fid v = some x → exec (.getFeatures e) s = .next (s.success e.key x.1 0 x.2)) ∧
    (fid ∉ [0x01, 0x02, 0x07, 0x08, 0x09, 0x0B, 0x0C, 0x0E] →
      exec (.getFeatures e) s = .next (s.nvme e.key 0 0x02 true))) ∧
  (∀ (s : State) (e : Sqe) (poison : Option Nat),
    let lid := bits e.cdw10.toNat 7 0
    let lsi := bits e.cdw11.toNat 31 16
    let n := 4 * (bits e.cdw10.toNat 31 16 + 65536 * bits e.cdw11.toNat 15 0 + 1)
    let off := e.cdw12.toNat + 2 ^ 32 * e.cdw13.toNat
    (∀ p, s.identifyPage e.key.ctrl.val (bits e.cdw10.toNat 7 0) = some p →
      exec (.identify e) s = .next (s.success e.key 0 0 p)) ∧
    (bits e.cdw10.toNat 7 0 ∉ [0x01, 0x02, 0xC0] → exec (.identify e) s = .next (s.nvme e.key 0 0x02 true)) ∧
    (∀ p, off % 4 = 0 → s.logPage lid lsi = .page p → bit e.cdw10.toNat 15 = true →
      exec (.getLogPage e poison) s = .next (s.sendData e.key 0 0 (padTo n (p.drop off)) poison)) ∧
    (∀ p, off % 4 = 0 → s.logPage lid lsi = .page p → bit e.cdw10.toNat 15 = false →
      exec (.getLogPage e poison) s = .next ((s.modCtrl e.key.ctrl fun f =>
        { f with aerSent := f.aerSent.filter fun ev => !eventRead lid lsi ev }).sendData e.key 0 0
          (padTo n (p.drop off)) poison)) ∧
    (off % 4 ≠ 0 ∨ s.logPage lid lsi = .invalid →
      exec (.getLogPage e poison) s = .next (s.nvme e.key 0 0x02 true)) ∧
    (off % 4 = 0 → s.logPage lid lsi = .busy →
      exec (.getLogPage e poison) s = .next (s.refuse e.key scCfgBusy)))

/-- Queues are made and removed, Aborts and event requests counted, firmware images received and committed (R383, R43,
R426, Table 15-7 (15_host_port_and_onant_queues.md), R310, R382, R363, R362). -/
def Obligations.AdminQueuesAndFirmware : Prop :=
  (∀ (s : State) (e : Sqe),
    let f := s.ctrls[e.key.ctrl]
    let q := bits e.cdw10.toNat 15 0
    let n := bits e.cdw10.toNat 31 16 + 1
    let w := bits e.cdw11.toNat 31 16
    (1 ≤ q ∧ q ≤ 1024 ∧ 2 ≤ n ∧ bit e.cdw11.toNat 0 = true →
      ((∀ x ∈ f.cqs, x.id ≠ q) → w ≤ 2047 → exec (.createIoCq e) s = .next ((s.modCtrl e.key.ctrl fun f =>
        { f with cqs := f.cqs ++ [{ id := q, size := n, vector := w, ien := bit e.cdw11.toNat 1, head := 0, tail := 0,
                                    posted := [], waiting := [] }] }).success e.key 0 0 [])) ∧
      ((∀ x ∈ f.sqs, x.id ≠ q) → w ≠ 0 → (∃ x ∈ f.cqs, x.id = w) →
        exec (.createIoSq e) s = .next ((s.modCtrl e.key.ctrl fun f =>
          { f with sqs := f.sqs ++ [{ id := q, size := n, cqid := w, head := 0, tail := 0 }] }).success e.key 0 0 []))) ∧
    (q ≠ 0 → (∃ x ∈ f.sqs, x.id = q) → exec (.deleteIoSq e) s = .next ((s.modCtrl e.key.ctrl fun f =>
      { f with sqs := f.sqs.filter fun x => x.id != q, inflight := f.inflight.filter fun x => x.key.sqid != q
               paused := f.paused.filter fun x => x != q }).success e.key 0 0 [])) ∧
    (q ≠ 0 → (∃ x ∈ f.cqs, x.id = q) → (∀ x ∈ f.sqs, x.cqid ≠ q) →
      exec (.deleteIoCq e) s = .next ((s.modCtrl e.key.ctrl fun f =>
        { f with cqs := f.cqs.filter fun x => x.id != q }).success e.key 0 0 [])) ∧
    (s.aborts e.key < 4 → exec (.abort e) s = .next (s.success e.key 1 0 [])) ∧
    (4 ≤ s.aborts e.key → exec (.abort e) s = .next (s.nvme e.key 1 0x03 false)) ∧
    (f.aerQueued = [] → f.aers.length < 8 → exec (.asyncEventRequest e) s = .next
      (s.modCtrl e.key.ctrl fun f => { f with aers := f.aers ++ [e.key] })) ∧
    (∀ ev rest, f.aerQueued = ev :: rest → exec (.asyncEventRequest e) s = .next
      ((s.modCtrl e.key.ctrl fun f => { f with aerQueued := rest, aerSent := f.aerSent ++ [ev] }).success
        e.key ev 0 []))) ∧
  (∀ (s : State) (e : Sqe) (piece : List Byte),
    let n := 4 * (e.cdw10.toNat + 1)
    let off := 4 * e.cdw11.toNat
    let got := if off = 0 then [] else s.fw.pieces
    let ca := bits e.cdw10.toNat 5 3
    (s.pewter.lcState = 4 → exec (.firmwareImageDownload e piece) s = .next (s.refuse e.key scLifecycleDenied) ∧
      exec (.firmwareCommit e) s = .next (s.refuse e.key scLifecycleDenied)) ∧
    (s.pewter.lcState ≠ 4 → n % 4096 = 0 → off % 4096 = 0 → pieceBad got off n = false → s.pewter.writeWaits = true →
      exec (.firmwareImageDownload e piece) s =
        .next { s with pewter := { s.pewter with waiting := s.pewter.waiting ++ [.download e piece] } }) ∧
    (s.pewter.lcState ≠ 4 → n % 4096 = 0 → off % 4096 = 0 → pieceBad got off n = false → s.pewter.writeWaits = false →
      ∃ u : State, exec (.firmwareImageDownload e piece) s = .next (u.success e.key 0 0 []) ∧
        u = { s with pewter := u.pewter, fw := u.fw } ∧ u.fw.pieces = got ++ [(off, n)] ∧
        u.fw.header = (if off = 0 then (padTo n piece).take 64 else s.fw.header) ∧ u.pewter.seq = s.pewter.seq ∧
        u.fw.version = s.fw.version) ∧
    (s.pewter.lcState ≠ 4 → ca ≤ 1 → bits e.cdw10.toNat 2 0 ≤ 1 →
      (s.pewter.readWaits (.bank !s.pewter.activeBank) = true ∨ s.pewter.writeWaits = true → exec (.firmwareCommit e) s =
        .next { s with pewter := { s.pewter with waiting := s.pewter.waiting ++ [.commit e] } }) ∧
      (s.pewter.readWaits (.bank !s.pewter.activeBank) = false → s.pewter.writeWaits = false →
      let whole : Bool := field s.fw.header 16 4 + 2820 ≤ received s.fw.pieces s.fw.pieces.length 0
      let done : State := { s with
        pewter := s.pewter.programBank (!s.pewter.activeBank) 0 s.fw.header
        fw := { s.fw with header := [], pieces := [], erased := [] } }
      exec (.firmwareCommit e) s = .next
        (if whole && s.imageValid s.fw.header (s.pewter.bankBytes !s.pewter.activeBank) then
          (if ca = 0 then done.success e.key 0 0 [] else done.nvme e.key 1 0x0B true)
        else (s.reportSecurity .degraded 0x38 0 0 (field s.fw.header 8 2)).nvme e.key 1 0x07 true))))

/-- Hallmark functions answer, and LIFECYCLE performs the admitted transitions and refuses any other (R360, R357, R310,
R365, R367, R308). -/
def Obligations.HallmarkAndLifecycleRequests : Prop :=
  (∀ (s : State) (e : Sqe),
    let fit (fn len : Nat) : Prop := e.cdw10.toNat = fn ∧ len ≤ e.cdw11.toNat
    (fit 0 128 → exec (.hallmarkGetStatus e) s = .next (s.success e.key 0 0 s.statusBytes)) ∧
    (¬fit 0 128 → exec (.hallmarkGetStatus e) s = .next (s.refuse e.key scInvalidField)) ∧
    (fit 1 1344 → s.pewter.readWaits .vault = false →
      exec (.hallmarkGetRoots e) s = .next (s.success e.key 0 0 (s.pewter.optBytes 0x80 1344))) ∧
    (fit 1 1344 → s.pewter.readWaits .vault = true → exec (.hallmarkGetRoots e) s =
      .next { s with pewter := { s.pewter with waiting := s.pewter.waiting ++ [.roots e] } }) ∧
    (¬fit 1 1344 → exec (.hallmarkGetRoots e) s = .next (s.refuse e.key scInvalidField)) ∧
    (fit 2 3052 → s.pewter.lcState = 0 →
      exec (.hallmarkGetAttest e) s = .next (s.refuse e.key scLifecycleDenied)) ∧
    (fit 2 3052 → s.pewter.lcState ≠ 0 → s.sec.rebuilt = false → exec (.hallmarkGetAttest e) s = .next
      { s with sec := { s.sec with waiting := s.sec.waiting ++ [.attest e] } }) ∧
    (fit 2 3052 → s.pewter.lcState ≠ 0 → s.sec.rebuilt = true →
      exec (.hallmarkGetAttest e) s = .next (s.makeAttest e)) ∧
    (¬fit 2 3052 → exec (.hallmarkGetAttest e) s = .next (s.refuse e.key scInvalidField)) ∧
    exec .hallmarkRebuildDone s = .next (s.sec.waiting.foldl State.serveWaiting
      { s with sec := { s.sec with rebuilt := true, waiting := [] } })) ∧
  (∀ (s : State) (e : Sqe),
    let target := e.cdw10.toNat
    let confirm := e.cdw11.toNat
    (s.transition target confirm = none → exec (.lifecycle e) s = .next
      ((s.reportSecurity .degraded 0x35 0xFF 0 0).refuse e.key scLifecycleDenied)) ∧
    (∀ t, s.transition target confirm = some t →
      exec (.lifecycle e) s = .next ((s.runTransition e.key t).success e.key 0 0 []) ∧ t = target ∧
      (t = 1 → s.pewter.lcState = 0 ∧ confirm = 0x5354524B ∧ s.sec.strikeFailed = false) ∧
      (t = 2 → s.pewter.lcState = 1 ∧ confirm = 0x494E5356) ∧
      (t = 3 → s.pewter.lcState = 2 ∧ confirm = 0x52455452) ∧
      (t = 4 → s.pewter.lcState < 4 ∧ confirm = 0x4D454C54) ∧ 1 ≤ t ∧ t ≤ 4) ∧
    (s.pewter.lcState = 3 → confirm = 0x4D454C54 → target = 4 → s.transition target confirm = some 4))

/-- The Custodian session opens, closes and times out, and its messages act only while it is established (R354, R350,
R352, R353, R357). -/
def Obligations.CustodianSessionsActOnTheirMessages : Prop :=
  (∀ (s : State) (body : List Byte) (r : Word32),
    (s.sec.session ≠ .none ∨ s.lcSession = false ∨ s.sec.backingOff = true ∨ s.sec.rebuilt = false ∨
      s.leafLeft = false → exec .sessionInit s = .next s) ∧
    (s.sec.session = .initSent →
      (s.sec.initUs + 1000000 ≤ s.clockUs → exec .sessionInitResend s = .next
        (({ s with sec := { s.sec with initUs := s.clockUs } } : State).sendMessage 0x01 s.sec.initBody)) ∧
      (s.clockUs < s.sec.initUs + 1000000 → exec .sessionInitResend s = .next s) ∧
      (s.sec.inbox = [] → ∃ t, exec (.sessionReject r) s = .next t ∧
        t = ({ s with sec := { s.sec with
              session := .none, backingOff := true, readyUs := s.clockUs + 1000000 * s.sec.backoffS,
              backoffS := min (2 * s.sec.backoffS) 3600, kemSeed := [], initBody := [], seqOut := 0, seqIn := 0, discards := 0 } } : State).reportSecurity .degraded 0x32
                (r.toNat % 256) 0 0)) ∧
    (s.sec.session ≠ .initSent → s.sec.inbox = [] →
      exec .sessionInitResend s = .next s ∧
      exec (.sessionAccept body) s = .next s.tagFail ∧ exec (.sessionReject r) s = .next s.tagFail) ∧
    (s.sec.session = .established → s.sec.lastRecordUs + 15000000 ≤ s.clockUs →
      ∃ t, exec .sessionTimeout s = .next t ∧ t.sec.session = .none ∧ t.sec.backingOff = true ∧
        t.sec.readyUs = s.clockUs + 1000000 * s.sec.backoffS ∧
        t.sec.backoffS = min (2 * s.sec.backoffS) 3600 ∧ t.sec.keys = s.sec.keys ∧ t.sec.kemSeed = [] ∧
        t = { s with sec := t.sec }) ∧
    (s.sec.session ≠ .established ∨ s.clockUs < s.sec.lastRecordUs + 15000000 →
      exec .sessionTimeout s = .next s) ∧
    (s.sec.readyUs ≤ s.clockUs → exec .sessionBackoffExpiry s = .next { s with sec := { s.sec with backingOff := false } }) ∧
    (s.clockUs < s.sec.readyUs → exec .sessionBackoffExpiry s = .next s)) ∧
  (∀ (s : State) (body : List Byte) (reason : Byte) (label : Word64) (key : BitVec 256),
    (s.sec.session = .none → s.lcSession = true → s.sec.backingOff = false → s.sec.rebuilt = true →
      s.sec.batchOpen = true → ∃ t, exec .sessionInit s = .next t ∧ t.sec.session = .initSent ∧
        t.sec.nextLeaf = s.sec.nextLeaf + 1 ∧ t.sec.initUs = s.clockUs ∧
        t.out = s.out ++ (fragments s.sec.msgId (custodianMessage 0x01 t.sec.initBody)).map
          (fun p => .custodian s.sec.peer s.ownMac p) ∧ t.sec.keys = s.sec.keys ∧ t = { s with sec := t.sec, out := t.out, free := s.free + 12 }) ∧
    (s.sec.session = .initSent → s.sec.inbox = [] → s.missingLabels = [] →
      let ks := sessionKeys (Config.kemDecaps s.sec.kemSeed (fieldBytes body 40 1568)) s.sec.initBody body
      exec (.sessionAccept body) s = .next { s with sec := { s.sec with
        session := .established, keyOut := ks.1, keyIn := ks.2, seqOut := 0, seqIn := 0, discards := 0, backoffS := 10,
        backingOff := false, kemSeed := [], initBody := [], lastRecordUs := s.clockUs,
        sessions := (s.sec.sessions + 1) % 2 ^ 16 } }) ∧
    (s.sec.session = .established → s.sec.inbox = [] →
      let heard : State := { s with sec := { s.sec with lastRecordUs := s.clockUs } }
      exec .ping s = .next (heard.sendRecord (le 1 0x16 ++ le 7 0)) ∧ exec .pong s = .next heard ∧
      (∃ t, exec (.close reason) s = .next t ∧ t.sec.session = .none ∧ t.sec.backingOff = true ∧
        t.sec.keys = s.sec.keys ∧ t = { s with sec := t.sec })) ∧
    (s.sec.session = .established → s.sec.lastRecordUs + 5000000 ≤ s.clockUs →
      exec .sessionIdlePing s = .next (s.sendRecord (le 1 0x15 ++ le 7 0))) ∧
    (s.sec.session ≠ .established → s.sec.inbox = [] →
      exec .ping s = .next s ∧ exec .pong s = .next s ∧ exec (.close reason) s = .next s ∧
      exec (.keyDeliver label key) s = .next s ∧ exec (.keyRevoke label) s = .next s ∧
      exec .sessionIdlePing s = .next s))

/-- A delivered or revoked key waits for the next Stroke boundary while a grid runs, and takes effect at once while none
runs (R346, R347, R348). -/
def Obligations.KeysTakeEffectAtTheBoundary : Prop :=
  ∀ (s : State) (label : Word64) (key : BitVec 256),
    s.sec.session = .established → s.lcSession = true → s.sec.inbox = [] →
      (s.labelsHeld label < 4096 → s.kcvBad label key = true → ∃ t, exec (.keyDeliver label key) s = .next t ∧
        t.sec.keys = s.sec.keys ∧ t.sec.keyEvents = s.sec.keyEvents ∧
        t.sec.kcvMismatches = satAdd 32 s.sec.kcvMismatches 1) ∧
      (s.labelsHeld label < 4096 → s.kcvBad label key = false → s.gridRuns = true →
        ∃ t, exec (.keyDeliver label key) s = .next t ∧ t.sec.keys = s.sec.keys ∧
          t.sec.keyEvents = s.sec.keyEvents ++ [.deliver label key]) ∧
      (s.labelsHeld label < 4096 → s.kcvBad label key = false → s.gridRuns = false → s.sec.keyEvents = [] →
        ∃ t, exec (.keyDeliver label key) s = .next t ∧ (label, key) ∈ t.sec.keys ∧ t.sec.keyEvents = [] ∧
          (∀ k, k ≠ key → (label, k) ∉ t.sec.keys) ∧
          ∀ l k, l ≠ label → ((l, k) ∈ t.sec.keys ↔ (l, k) ∈ s.sec.keys)) ∧
      (s.gridRuns = true → ∃ t, exec (.keyRevoke label) s = .next t ∧ t.sec.keys = s.sec.keys ∧
        t.sec.keyEvents = s.sec.keyEvents ++ [.revoke label]) ∧
      (s.gridRuns = false → s.sec.keyEvents = [] → ∃ t, exec (.keyRevoke label) s = .next t ∧ t.sec.keyEvents = [] ∧
        ∀ l k, (l, k) ∈ t.sec.keys ↔ (l, k) ∈ s.sec.keys ∧ l ≠ label ∧ label ≠ 0xFFFFFFFFFFFFFFFF)

/-- Custodian frames reassemble into messages, debug tokens are taken in Returned, and security events reach the log
(R349, R416, R369, R305). -/
def Obligations.CustodianFramesAndDebugTokens : Prop :=
  (∀ (s : State) (f : CustFrame),
    (f.fcsOk = false ∨ f.etherType ≠ 0x88B5 ∨ s.fw.mcHeld = true → exec (.custodianFrame f) s = .next s) ∧
    (f.fcsOk = true → f.etherType = 0x88B5 → s.fw.mcHeld = false →
      (f.magic ≠ 0x5543 ∨ f.version ≠ 1 ∨ f.len < 8 ∨ 16384 < f.len →
        exec (.custodianFrame f) s = .next { s with sec := { s.sec with peer := f.source } }) ∧
      (f.magic = 0x5543 → f.version = 1 → 8 ≤ f.len → f.len ≤ 16384 → s.sec.reassembly = none → f.last = false →
        exec (.custodianFrame f) s = .next { s with sec := { s.sec with
          peer := f.source
          reassembly := some { msgId := f.msgId, length := f.len, frags := [(f.off, f.bytes)], sawLast := false,
                               startUs := s.clockUs } } })) ∧
    (∀ r, s.sec.reassembly = some r → r.startUs + 100000 ≤ s.clockUs →
      exec .messageReassemblyTimeout s = .next { s with sec := { s.sec with reassembly := none } }) ∧
    (∀ r, s.sec.reassembly = some r → s.clockUs < r.startUs + 100000 →
      exec .messageReassemblyTimeout s = .next s) ∧
    (s.sec.reassembly = none → exec .messageReassemblyTimeout s = .next s)) ∧
  (∀ (s : State) (tok : List Byte),
    (s.pewter.lcState ≠ 3 ∨ 3 ≤ s.sec.rejected → exec (.dbgToken tok) s = .next (s.emit (.debug false))) ∧
    (s.pewter.lcState = 3 → s.sec.rejected < 3 → exec (.dbgToken tok) s = .next
      (if s.tokenOk tok then
        (({ s with sec := { s.sec with unlocked := true } } : State).reportSecurity .degraded 0x36 1 0 0).emit
          (.debug true)
      else
        (({ s with
            free := s.free + 4
            sec := { s.sec with rejected := s.sec.rejected + 1, challenge := s.fresh256.1 } } : State).reportSecurity
              .degraded 0x36 0 0 0).emit (.debug false))) ∧
    (s.pewter.secQueue = [] ∨ s.pewter.seq ≠ .idle ∨ s.pewter.op.isSome = true ∨ s.pewter.brownout = true →
      exec .securityEventLogProgram s = .next s) ∧
    (∀ k w rest, s.pewter.secQueue = (k, w) :: rest → s.pewter.seq = .idle → s.pewter.op = none → s.pewter.brownout = false →
      (1504 ≤ s.pewter.secLogged → exec .securityEventLogProgram s = .next
        { s with pewter := { s.pewter with secQueue := rest } }) ∧
      (s.pewter.secLogged < 1504 → ∃ t, exec .securityEventLogProgram s = .next t ∧
        t.pewter.secLogged = s.pewter.secLogged + 1 ∧ t.pewter.secQueue = rest ∧
        t.pewter.programmed (pwtVaultBase + 8 * (6688 + s.pewter.secLogged)) = true ∧
        t = { s with pewter := { s.pewter with
          words := t.pewter.words, secQueue := t.pewter.secQueue, secLogged := t.pewter.secLogged } })))

/-- A MOLD_LOAD is taken only in Blank, its pieces are received, and validation puts the Mold in force or refuses it
(R32, R3, R33, R34). -/
def Obligations.MoldsAreLoadedAndValidated : Prop :=
  (∀ (s : State) (e : Sqe) (image : MoldUpload),
    let u : State := { s with mold := { s.mold with loadFails := satAdd 16 s.mold.loadFails 1 } }
    (moldFieldsOk e = false → exec (.moldLoad e image) s = .next (u.refuse e.key scInvalidField)) ∧
    (moldFieldsOk e = true → s.mold.state = .loading → exec (.moldLoad e image) s = .next
      (({ u with mold := { u.mold with cfgBusy := true } } : State).refuse e.key scCfgBusy)) ∧
    (moldFieldsOk e = true → s.mold.state ≠ .loading → s.mold.state ≠ .blank →
      exec (.moldLoad e image) s = .next (u.refuse e.key scMoldPresent)) ∧
    (moldFieldsOk e = true → s.mold.state = .blank → s.pewter.lcState = 0 →
      exec (.moldLoad e image) s = .next (u.refuse e.key scLifecycleDenied)) ∧
    (moldFieldsOk e = true → s.mold.state = .blank → s.pewter.lcState ≠ 0 →
      s.pewter.lcState = 4 ∨ s.pewter.optBad = true ∨ s.errors.hubFailed = true →
      exec (.moldLoad e image) s = .next (u.refuse e.key scMediaUnavailable)) ∧
    (moldFieldsOk e = true → s.mold.state = .blank → s.pewter.lcState ≠ 0 → s.pewter.lcState ≠ 4 →
      s.pewter.optBad = false → s.errors.hubFailed = false → exec (.moldLoad e image) s = .next
        { s with mold := { s.mold with state := .loading, loading := some (e, image) } })) ∧
  (∀ s : State,
    (s.mold.loading = none → exec .moldLoadValidated s = .next s) ∧
    (∀ e image, s.mold.loading = some (e, image) →
      let bs := moldImage e image.bytes
      let back : State := { s with mold := { s.mold with state := .blank, loading := none } }
      let bad (x : MoldErr) : State := ({ back with mold := { back.mold with
        loadFail := true, errOffset := x.off, errReason := x.reason, errSection := x.sec, errRecast := false
        loadFails := satAdd 16 back.mold.loadFails 1 } } : State).status e.key scMoldInvalid x.off
          (x.reason + 256 * x.sec) []
      exec .moldLoadValidated s = .next
        (match readImage false s.power.split e.cdw10.toNat 0 [] bs with
         | .error x => bad x
         | .ok i =>
           match resultPhase s i bs Mold.blank (i.result bs Mold.blank) with
           | .error x => bad x
           | .ok ranges => (s.takeForce (i.result bs Mold.blank) i bs ranges image.findings).success e.key 0 0 [])))

/-- A Mold that takes force is MOLDED with its generation and ranges, a new epoch past every one on media, zero accounts
and one mark a list (R34, R51, R228, R231). -/
def Obligations.AMoldThatTakesForce : Prop :=
  ∀ (s : State) (m : Mold) (i : MoldImage) (bs : List Byte) (ranges : List WorldEntry)
    (media : MountFindings),
    let t := s.takeForce m i bs ranges media
    t.mold.mold = some m ∧ t.mold.state = .molded ∧ t.mold.loading = none ∧ t.mold.gen = BitVec.ofNat 64 i.gen ∧
      t.mold.digest = fieldBytes bs 32 64 ∧ t.mold.fixedRanges = ranges ∧ t.mold.c0Suspended = false ∧
      t.search.epoch = s.mediaEpoch + 1 ∧ t.sched.acctEngine = Vector.replicate 32 0 ∧
      t.sched.acctBench = Vector.replicate 32 0 ∧
      (∀ l ∈ t.search.lists, l.marks = [(0, l.records.length)]) ∧ t.search.marksUsed = t.search.lists.length ∧
      (∀ c ∈ m.colls, (t.coll c.id).isSome = true) ∧ t.sched.jobs.length = s.sched.jobs.length ∧
      t.grid.stroke = s.grid.stroke ∧ t.pending = s.pending

/-- RECAST needs a Mold and no other Recast; its validation leads to the drain, and a drained Recast waits for the
boundary (R58, R61, R3, Table 2-12 (02_the_mold.md)). -/
def Obligations.RecastsWaitDrainAndApply : Prop :=
  ∀ (s : State) (e : Sqe) (image : List Byte),
    let u : State := { s with mold := { s.mold with recastFails := satAdd 16 s.mold.recastFails 1 } }
    (s.mold.mold = none → exec (.recast e image) s = .next (u.refuse e.key scMoldAbsent)) ∧
    (s.mold.mold ≠ none → moldFieldsOk e = false →
      exec (.recast e image) s = .next (u.refuse e.key scInvalidField)) ∧
    (s.mold.mold ≠ none → moldFieldsOk e = true → s.mold.state ≠ .molded →
      exec (.recast e image) s = .next (u.refuse e.key scRecastPending)) ∧
    (s.mold.mold ≠ none → moldFieldsOk e = true → s.mold.state = .molded →
      exec (.recast e image) s = .next { s with mold := { s.mold with
        state := .recastValidating
        recast := some { sqe := e, image := image, merged := none, digest := [], receivedUs := s.clockUs,
                         boundaries := 0, drained := false, engines := [], benches := [], discard := false,
                         ranges := [] } } }) ∧
    (s.mold.state ≠ .recastValidating → exec .recastValidated s = .next s) ∧
    (s.mold.state ≠ .recastDraining → exec .recastDrainComplete s = .next s) ∧
    (∀ r base, s.mold.recast = some r → s.mold.mold = some base → s.mold.state = .recastValidating →
      ∃ t, exec .recastValidated s = .next t ∧
        match readImage true s.power.split r.sqe.cdw10.toNat s.mold.gen.toNat base.world (moldImage r.sqe r.image) with
        | .error _ => t.mold.state = .molded ∧ t.mold.recast = none ∧ t.mold.mold = s.mold.mold
        | .ok i =>
          let bs := moldImage r.sqe r.image
          let m := i.result bs base
          match resultPhase s i bs base m with
          | .error _ => t.mold.state = .molded ∧ t.mold.recast = none ∧ t.mold.mold = s.mold.mold
          | .ok _ => t.mold.state = .recastDraining ∧ t.mold.gen = s.mold.gen ∧
              t.mold.mold = some { base with
                ceBurnish := m.ceBurnish, tsAct := m.tsAct, faultScope := m.faultScope, eventVector := m.eventVector }) ∧
    (∀ r base m, s.mold.recast = some r → s.mold.mold = some base → r.merged = some m →
      s.mold.state = .recastDraining → s.gridRuns = true → r.engines = [] → r.benches = [] →
      (∀ w ∈ m.world, regionChanges base s.mold.fixedRanges w = false ∧ blockChanges base w = false) →
      exec .recastDrainComplete s = .next { s with mold := { s.mold with
        state := .recastApplyWait, recast := some { r with drained := true }
        drainUs := min (s.clockUs - r.receivedUs) 65535 } })

/-- A write to ERR_RING_ACK inside the ring acknowledges the records below it; any other value sets CFG_BUSY alone
(R332). -/
def Obligations.AcknowledgementsMoveWithinTheRing : Prop :=
  ∀ (s : State) (r : Fin 37) (v : Word32),
    let g := s.errors.rings[r]
    ((v - g.ack).toNat ≤ (g.head - g.ack).toNat → exec (.errRingAckWrite r v) s = .next
      { s with errors := { s.errors with
        rings := s.errors.rings.set r { g with ack := v, recs := g.recs.drop (v - g.ack).toNat } } }) ∧
    ((g.head - g.ack).toNat < (v - g.ack).toNat → exec (.errRingAckWrite r v) s = .next
      { s with errors := { s.errors with cfgBusy := true } })

/-- A source holds four reports and counts those lost, and the writer takes a Failed report of its ring first (R329,
R331, R328). -/
def Obligations.ErrorReportsAreQueuedAndWritten : Prop :=
  (∀ (s : State) (src : Source) (r : Report), r.kind ≠ 0x20 → r.kind ≠ 0x21 →
    ((s.errors.queue.filter fun p => p.1 == src).length < 4 → exec (.errorReport src r) s = .next
      { s with errors := { s.errors with queue := s.errors.queue ++ [(src, s.clockUs, r)] } }) ∧
    (4 ≤ (s.errors.queue.filter fun p => p.1 == src).length → ∃ t, exec (.errorReport src r) s = .next t ∧
      (let g : Ring := { s.errors.rings[ringOf src] with
        lostCount := min (s.errors.rings[ringOf src].lostCount + 1) 65535, lost := true }
      t.errors = { s.errors with rings := s.errors.rings.set (ringOf src) g }) ∧
      t = { s with errors := t.errors, ctrls := t.ctrls, out := t.out } ∧
      (s.errors.irqEn = false → t.ctrls = s.ctrls ∧ t.out = s.out))) ∧
  (∀ (s : State) (r : Fin 37),
    (∀ p ∈ s.errors.queue, ringOf p.1 = r → p.2.2.sev = .failed →
      s.nextReport r = s.errors.queue.find? fun p => ringOf p.1 == r && p.2.2.sev == .failed) ∧
    (∀ p, s.nextReport r = some p → p ∈ s.errors.queue ∧ ringOf p.1 = r) ∧
    ((∀ p ∈ s.errors.queue, ringOf p.1 ≠ r) → exec (.errorRecordWrite r) s = .next s) ∧
    (∀ p, s.nextReport r = some p → (∀ x ∈ s.errors.rings[r].recs, matchesRec p.1 p.2.2 x = false) →
      ∃ t, exec (.errorRecordWrite r) s = .next t ∧
        ((s.errors.rings[r].head - s.errors.rings[r].ack).toNat < ringSize r →
          t.errors.rings[r].head = s.errors.rings[r].head + 1 ∧ t.errors.rings[r].ack = s.errors.rings[r].ack ∧
          ∃ x, t.errors.rings[r].recs = s.errors.rings[r].recs ++ [x] ∧ x.source = p.1 ∧ x.sev = p.2.2.sev ∧
            x.kind = p.2.2.kind ∧ x.repeats = 0 ∧ x.escalated = false ∧ x.index = s.errors.rings[r].head.toNat) ∧
        (ringSize r ≤ (s.errors.rings[r].head - s.errors.rings[r].ack).toNat →
          t.errors.rings[r].head = s.errors.rings[r].head ∧ t.errors.rings[r].recs = s.errors.rings[r].recs ∧
          t.errors.rings[r].lost = true)))

/-- Burnishes take the four slots, run and end, and a Quench names the jobs it stops (R322, R323, R324, R325, R91,
R390). -/
def Obligations.BurnishesAndQuenches : Prop :=
  (∀ (s : State) (e : Sqe) (f : BurnishFindings) (u : Nat),
    (burnRange e = none → exec (.burnish e) s = .next (s.refuse e.key scInvalidField)) ∧
    (∀ x, burnRange e = some x → s.freeBurnSlot = none → exec (.burnish e) s = .next
      (({ s with burnish := { s.burnish with cfgBusy := true } } : State).refuse e.key scCfgBusy)) ∧
    (∀ x i, burnRange e = some x → s.freeBurnSlot = some i → exec (.burnish e) s = .next
      { s with burnish := { s.burnish with slots := s.burnish.slots.set i (some
          { sqe := e, space := x.1, unit := x.2.1, offset := x.2.2.1, length := x.2.2.2, progress := 0,
            startUs := s.clockUs }) } }) ∧
    (∀ (i : Fin 4), s.burnish.slots[i] = none → exec (.burnishComplete (.slot i) f) s = .next s) ∧
    (∀ (i : Fin 4) (b : BurnSlot), s.burnish.slots[i] = some b →
      let g := s.burnFound b.space b.unit b.offset b.length f
      let w := s.burnEffects g
      (s.burnHeld b.space b.unit = true → exec (.burnishComplete (.slot i) f) s = .next s) ∧
      (s.burnHeld b.space b.unit = false → exec (.burnishComplete (.slot i) f) s = .next
        (({ w with burnish := { w.burnish with slots := w.burnish.slots.set i none } } : State).success b.sqe.key 0 0
          (s.burnSummary false b.space b.unit b.offset b.length b.startUs g)))) ∧
    (∀ p x, s.burnish.autos.find? (fun p => p.1 == u) = some p → burnUnit u = some x →
      let g := s.burnFound x.1 x.2.1 x.2.2.1 x.2.2.2.1 f
      let w := s.burnEffects g
      (s.burnHeld x.1 x.2.1 = true → exec (.burnishComplete (.auto u) f) s = .next s) ∧
      (s.burnHeld x.1 x.2.1 = false → exec (.burnishComplete (.auto u) f) s = .next
        (({ w with burnish := { w.burnish with autos := w.burnish.autos.filter fun q => q.1 != u } } : State).report
          x.2.2.2.2
            { sev := if g.ueFound == 0 then .informational else .degraded, kind := 0x23, granule := none,
              body := ((s.burnSummary true x.1 x.2.1 x.2.2.1 x.2.2.2.1 p.2 g).take 48).drop 1 }))) ∧
    (s.burnish.autos.find? (fun p => p.1 == u) = none ∨ burnUnit u = none →
      exec (.burnishComplete (.auto u) f) s = .next s) ∧
    (s.gridRuns = true ∧ s.grid.stroke % 1000 = 0 →
      exec .ceWindowStart s = .next { s with errors := { s.errors with window := [] } }) ∧
    (¬(s.gridRuns = true ∧ s.grid.stroke % 1000 = 0) → exec .ceWindowStart s = .next s) ∧
    (∀ m, s.mold.mold = some m → s.burnish.autoEn = true → s.gridRuns = true → m.ceBurnish ≠ 0 →
      u ∈ s.errors.burnDue → (burnUnit u).isSome = true →
      let v : State := { s with errors := { s.errors with burnDue := s.errors.burnDue.filter fun x => x != u } }
      ((∀ p ∈ s.burnish.autos, p.1 ≠ u) → exec (.autoBurnishStart u) s = .next
        { v with burnish := { s.burnish with autos := s.burnish.autos ++ [(u, s.clockUs)] } }) ∧
      ((∃ p ∈ s.burnish.autos, p.1 = u) → exec (.autoBurnishStart u) s = .next v)) ∧
    (∀ m, s.mold.mold = some m → s.burnish.autoEn = false ∨ s.gridRuns = false ∨ m.ceBurnish = 0 ∨
      u ∉ s.errors.burnDue → exec (.autoBurnishStart u) s = .next s) ∧
    (s.mold.mold = none → exec (.autoBurnishStart u) s = .next s)) ∧
  (∀ (s : State) (e : Sqe) (v : Word64) (k : Key),
    (s.quenchTargets (v.toNat % 2 ^ 32) = [] → exec (.schQuenchWrite v) s = .next
      { s with sched := { s.sched with quenchMiss := min (s.sched.quenchMiss + 1) (2 ^ 32 - 1) } }) ∧
    (s.quenchTargets (v.toNat % 2 ^ 32) = [k] → exec (.schQuenchWrite v) s = .next
      (s.modJob k fun j => { j with quenching := true })) ∧
    (s.mold.mold = none → exec (.quench e) s = .next (s.refuse e.key scInvalidField)) ∧
    (s.mold.mold ≠ none → s.quenchTargets e.cdw10.toNat = [] → exec (.quench e) s = .next
      (({ s with sched := { s.sched with quenchMiss := min (s.sched.quenchMiss + 1) (2 ^ 32 - 1) } } : State).success
        e.key 0 0 [])) ∧
    (s.mold.mold ≠ none → s.quenchTargets e.cdw10.toNat = [k] → exec (.quench e) s = .next
      ((s.modJob k fun j => { j with quenching := true }).success e.key 1 0 [])) ∧
    (s.job k = none → exec (.jobQuenchStop k) s = .next s))

/-- Stagings, promotions and pins move cache objects between ABSENT, STAGED and HOT as R183 to R187 say (R83, R180,
R183, R184, R185, R186, R187, R198). -/
def Obligations.ModelCacheMovesObjects : Prop :=
  ∀ (s : State) (q : QuarterId) (o : CacheId) (k : Key) (u : Nat) (bytes : List Byte),
    let c := s.cache[q]
    let w : CacheWait := { id := o, key := k, unit := u, counted := false }
    (∀ g, s.segment o = some g → s.ingotReady o.ingot.toNat = true → (∀ x ∈ c.objs, x.id ≠ o) →
      (∀ x ∈ c.staging, x.id ≠ o) → c.stagedTaken + g.stored ≤ c.stagedBytes →
      exec (.cacheStagingRequest q o) s = .next
        (match s.takeStacked q (cdiv g.stored 65536) with
         | (some gs, v) => v.modCache q fun c =>
             { c with staging := c.staging ++ [{ id := o, stored := g.stored, granules := gs }] }
         | (none, v) => v)) ∧
    (∀ g st, s.segment o = some g → c.staging.find? (fun x => x.id == o) = some st →
      let done := s.modCache q fun c => { c with staging := c.staging.filter fun x => x.id != o }
      exec (.stagingComplete q o bytes) s = .next
        (if s.goes o then done
        else if bytes.length == g.stored && Config.shake256 bytes 32 == g.hash then
          (done.writeGranules .stacked st.granules bytes).modCache q fun c =>
            { c with objs := c.objs ++
                [{ id := o, state := .staged, stored := g.stored, decoded := g.decoded, promoting := false
                   pins := (c.waiting.filter fun w => w.id == o).map fun w => (w.key, w.unit)
                   stagedAt := st.granules.map fun g => (g, g), hotAt := [] }] }
        else done.hashMismatch q o)) ∧
    (∀ x, s.ingotReady o.ingot.toNat = true → c.objs.find? (fun x => x.id == o) = some x →
      let pinned := s.modCache q fun c =>
        { c with objs := updWhere c.objs (fun x => x.id == o) fun x => { x with pins := x.pins ++ [(k, u)] } }
      (x.usesHot = true → exec (.promotionRequest q o k u) s = .next pinned) ∧
      (x.usesHot = false → pinned.cache[q].hotTaken + x.granules ≤ pinned.cache[q].hotLimit →
        exec (.promotionRequest q o k u) s = .next
          (match pinned.takeQuarter q x.granules with
           | (some gs, v) => v.modCache q fun c =>
               { c with
                 objs := updWhere c.objs (fun y => y.id == x.id) fun y =>
                   { y with promoting := true, hotAt := gs.map fun g => (g, g) }
                 waiting := c.waiting.filter fun y => y.id != x.id }
           | (none, v) => v.modCache q fun c => c.block w))) ∧
    (s.ingotReady o.ingot.toNat = true → c.objs.find? (fun x => x.id == o) = none →
      let v := s.startStaging q o
      exec (.promotionRequest q o k u) s = .next
        (if v.cache[q].staging.any fun x => x.id == o then v.modCache q fun c => { c with waiting := c.waiting ++ [w] }
        else v.modCache q fun c => c.block w)) ∧
    (s.ingotReady o.ingot.toNat = false → exec (.promotionRequest q o k u) s = .next s) ∧
    (∀ x, c.objs.find? (fun x => x.id == o) = some x →
      (x.promoting = false → exec (.promotionComplete q o) s = .next s) ∧
      (x.promoting = true → (∃ r ∈ c.refetching, r.id = o ∧ r.hot = false) →
        exec (.promotionComplete q o) s = .next ((x.pins.map Prod.fst).foldl State.markUnbound s)) ∧
      (∀ out, x.promoting = true → (∀ r ∈ c.refetching, r.id = o → r.hot = true) → s.stagedUe x = none →
        decodeBlocks (s.storedBytes x) x.decoded x.granules 0 = .ok out →
        exec (.promotionComplete q o) s = .next
          (((s.writeGranules (.quarter q) (x.hotAt.map fun p => p.2) out).modCache q fun c =>
            { c with
              objs := touch o (fun x => { x with promoting := false, state := .hot }) c.objs
              promotions := (c.promotions + 1) % 2 ^ 64
              decodeBytes := (c.decodeBytes + x.decoded) % 2 ^ 64 }).dropUnpinned s.dropping))) ∧
    (c.objs.find? (fun x => x.id == o) = none → exec (.promotionComplete q o) s = .next s) ∧
    exec (.pinRelease q o k u) s = .next ((s.modCache q fun c =>
      { c with objs := updWhere c.objs (fun x => x.id == o) fun x =>
          { x with pins := removeFirst x.pins (k, u) } }).dropUnpinned s.dropping) ∧
    (∀ w x, c.waiting.find? (fun w => w.id == o) = some w → c.objs.find? (fun x => x.id == o) = some x →
      s.ingotReady o.ingot.toNat = true → x.usesHot = true → exec (.promotionWaitResume q o) s = .next
        (s.modCache q fun c => { c with waiting := c.waiting.filter fun w => w.id != o })) ∧
    (c.waiting.find? (fun w => w.id == o) = none ∨ s.ingotReady o.ingot.toNat = false →
      exec (.promotionWaitResume q o) s = .next s)

/-- Refetches and reloads are counted and recorded; write-back takes dirty granules lowest class first; waiting writes
go on within the limit (R174, R175, R176, R188, R189, R319, R83, R438). -/
def Obligations.RefetchesReloadsAndWriteBacks : Prop :=
  ∀ (s : State) (q : QuarterId) (o : CacheId) (blk g us : Nat) (bad : Word64) (flash lost ok : Bool) (ks : List Key),
    (let ended := (s.endRefetch q o blk (bits bad.toNat 63 60 == 2)).modCache q fun c =>
        { c with refetches := satAdd 16 c.refetches 1 }
      let poison := flash && (lost || !ok)
      let noted := ended.memoryReport (.modelCache q) (if poison then .degraded else .corrected) 0x21
        (bits bad.toNat 63 60) (bits bad.toNat 59 48) 4 2 0 bad.toNat none 1
      exec (.refetchComplete q o blk bad flash lost ok) s = .next
        (if !poison then noted.replaceGranule q o bad
        else if lost then noted.poisonIngot q o.ingot.toNat
        else noted.hashMismatch q o)) ∧
    (let done := ks.foldl State.markUnbound
        { s with mem := { s.mem with reloading := s.mem.reloading.filter fun x => x.1 != g } };
      (∀ b, s.mem.reloading.find? (fun p => p.1 == g) = some (g, b) → exec (.granuleReloadDone q ⟨g, ks⟩) s = .next
        (((List.finRange 48).filter fun e => done.engines[e].job.any fun p => ks.contains p.1).foldl
          (fun u e => u.waitedNp e (s.clockUs - b)) done)) ∧
      (s.mem.reloading.find? (fun p => p.1 == g) = none → exec (.granuleReloadDone q ⟨g, ks⟩) s = .next
        (let t := done.memoryReport (.stack (stackOfGranule g)) .corrected 0x21 4 0 4 3 q.val
            (4 * 2 ^ 60 + g * stackGranule) none 2
        { t with mem := { t.mem with reloading := t.mem.reloading.filter fun x => x.1 != g } }))) ∧
    ((∀ d ∈ s.mem.dirty, ¬(d.quarter = q ∧ d.granule = g)) → exec (.writeBackGranule q ⟨g, us⟩) s = .next s) ∧
    (∀ d, s.mem.dirty.find? (fun d => d.quarter == q && d.granule == g) = some d →
      ((∃ x ∈ s.mem.dirty, x.cls < d.cls) ∨ s.refersWaiting g = true ∨ s.benchKept (homeBench q g) = true ∨ s.programHome q g = none →
        exec (.writeBackGranule q ⟨g, us⟩) s = .next s) ∧
      ((∀ x ∈ s.mem.dirty, d.cls ≤ x.cls) → s.refersWaiting g = false → s.benchKept (homeBench q g) = false → (s.programHome q g).isSome = true →
        exec (.writeBackGranule q ⟨g, us⟩) s = .next
          ((s.chargeWork (s.writeBackCls q) moduleShop (benchRes (homeBench q g)) us).granuleHome q g))) ∧
    (s.cache[q].dirtyWait = [] → exec (.dirtyWriteResume q) s = .next s) ∧
    (s.power.holdupOk = true → 65536 ≤ s.dirtyCount q → exec (.dirtyWriteResume q) s = .next s) ∧
    (∀ x rest, s.cache[q].dirtyWait = x :: rest →
      let t := s.modCache q fun c => { c with dirtyWait := rest }
      (s.power.holdupOk = false → exec (.dirtyWriteResume q) s = .next
        (if t.lowerClean x.2 && (t.programHome q x.1).isSome then t.granuleHome q x.1 else s)) ∧
      (s.power.holdupOk = true → s.dirtyCount q < 65536 →
        (∀ d ∈ s.mem.dirty, ¬(d.quarter = q ∧ d.granule = x.1)) → exec (.dirtyWriteResume q) s = .next
          { t with mem := { t.mem with
              dirty := t.mem.dirty ++ [{ quarter := q, granule := x.1, cls := x.2, mirror := x.1 }] } }))

/-- Links retrain and rekey, and the Stroke grid locks, holds over and runs free (R21, R244, R246, R247, R248, R66, R67,
R68, Table 3-1 (03_strokes_and_scheduling.md)). -/
def Obligations.LinksAndTheGrid : Prop :=
  (∀ (s : State) (d : DieId) (frame key : LinkFrame) (held : List LinkFrame) (trained : BitVec 8),
    (s.links[d].state ≠ .up → exec (.linkFrameTagFail d frame) s = .next s ∧
      exec (.linkRetrain ⟨d, held⟩) s = .next s ∧ exec (.linkRekey d key) s = .next s) ∧
    (s.links[d].state = .up → s.benches[benchOfDie d 0].countEn = true →
      ∃ t, exec (.linkFrameTagFail d frame) s = .next t ∧ t = { s with links := s.links.set d { s.links[d] with
        tagFail := satAdd 32 s.links[d].tagFail 1, retry := satAdd 32 s.links[d].retry 1
        frames := s.links[d].frames.set frame.key.val (max (s.links[d].frames.getD frame.key.val 0) (frame.counter + 1))
        failing := assocSet s.links[d].failing frame (lookupD s.links[d].failing frame 0 + 1) } }) ∧
    (s.links[d].state = .up → s.benches[benchOfDie d 0].countEn = true → s.benches[benchOfDie d 0].linkIrq = false →
      (∃ p ∈ s.links[d].failing, 8 ≤ p.2) → ∃ t, exec (.linkRetrain ⟨d, held⟩) s = .next t ∧
        t = { s with free := s.free + 16, links := s.links.set d t.links[d] } ∧ t.links[d].state = .training ∧
        t.links[d].keyGen = (s.links[d].keyGen + 1) % 256 ∧ t.links[d].frames = [0, 0, 0, 0] ∧
        t.links[d].failing = [] ∧ t.links[d].lanes = 0 ∧ t.links[d].keys.length = 4 ∧
        (∀ f, f ∈ t.links[d].unacked ↔ f ∈ held ∨ ∃ n, 8 ≤ n ∧ (f, n) ∈ s.links[d].failing) ∧
        t.links[d].retrain = satAdd 32 s.links[d].retrain 1 ∧ t.links[d].tagFail = s.links[d].tagFail ∧
        t.links[d].retrainTimes.getLast? = some s.clockUs) ∧
    (s.links[d].state = .training → s.power.phase = .running → s.links[d].lateRetrains < 4 →
      (s.links[d].lanes ||| trained ≠ 0xFF → exec (.linkRetrainComplete ⟨d, trained⟩) s = .next
        { s with links := s.links.set d { s.links[d] with lanes := s.links[d].lanes ||| trained } }) ∧
      (s.links[d].lanes ||| trained = 0xFF → exec (.linkRetrainComplete ⟨d, trained⟩) s = .next
        ((((s.setLink d fun l => { l with state := .up, lanes := 0xFF }).deliverKeys d).resendFrames d).resumeGets
          fun b => dieOfBench b == d))) ∧
    (s.links[d].state ≠ .training ∨ s.power.phase ≠ .running ∨ 4 ≤ s.links[d].lateRetrains →
      exec (.linkRetrainComplete ⟨d, trained⟩) s = .next s) ∧
    (let n := max (s.links[d].frames.getD key.key.val 0) key.counter
     (s.links[d].state = .up → n < 2 ^ 40 → exec (.linkRekey d key) s = .next
        { s with links := s.links.set d { s.links[d] with frames := s.links[d].frames.set key.key.val n } }) ∧
      (s.links[d].state = .up → 2 ^ 40 ≤ n → s.benches[benchOfDie d 0].countEn = true →
        ∃ t, exec (.linkRekey d key) s = .next t ∧ t = { s with free := s.free + 4, links := s.links.set d { s.links[d] with
          keys := s.links[d].keys.set key.key.val s.fresh256.1, frames := s.links[d].frames.set key.key.val 0
          rekey := satAdd 32 s.links[d].rekey 1, keyGen := (s.links[d].keyGen + 1) % 256 } })) ∧
    (s.links[d].state = .failed ∨ s.links[d].lateRetrains < 4 → exec (.channelDieFailed d) s = .next s) ∧
    (s.links[d].state = .training → 4 ≤ s.links[d].lateRetrains →
      ∃ t, exec (.channelDieFailed d) s = .next t ∧ t.links[d].state = .failed ∧ t.links[d].lanes = 0 ∧
        ∀ b, dieOfBench b = d → t.benches[b].state = .failed)) ∧
  (∀ s : State,
    let u := s.mayPresent.2
    let v := s.mayLose.2
    let p := (s.theMold.map Mold.periodNs).getD 0
    (s.strikeRef = false → s.mayPresent = (s.ptmFresh && s.ctrls[(0 : Ctrl)].ptmEnable, s) ∧ s.mayLose = (!s.ptmFresh, s)) ∧
    (s.strikeRef = true → s.mayPresent = (decide ((Config.freeWord s.free).toNat ≤ 10), s.fresh.2) ∧
      s.mayLose = (decide (10 ≤ (Config.freeWord s.free).toNat) || decide (1100000 ≤ (Config.freeWord (s.free + 1)).toNat),
        s.fresh.2.fresh.2)) ∧
    (s.mayPresent.1 = false → exec .referencePresent s = .next u) ∧
    (s.mayPresent.1 = true → s.mold.mold ≠ none → s.grid.lock = .idle ∨ s.grid.lock = .acquiring →
      exec .referencePresent s = .next { u with grid := { s.grid with
        refPresent := true, lock := .acquiring, good := 0, acqUs := s.clockUs
        origin := if s.grid.everLocked then s.grid.origin else if s.strikeRef then some s.clockUs else none } }) ∧
    (s.mayPresent.1 = true →
      s.mold.mold = none ∨ s.grid.lock = .locked ∨ s.grid.lock = .holdover ∨ s.grid.lock = .freeRun →
      exec .referencePresent s = .next { u with grid := { s.grid with refPresent := true } }) ∧
    (s.mayLose.1 = false → exec .referenceLost s = .next v) ∧
    (s.mayLose.1 = true → s.grid.lock = .idle ∨ s.grid.lock = .holdover ∨ s.grid.lock = .freeRun →
      exec .referenceLost s = .next
        { v with grid := { s.grid with refPresent := false, good := 0, slewing := false } }) ∧
    (s.mayLose.1 = true → s.grid.lock = .acquiring → exec .referenceLost s = .next
      { v with grid := { s.grid with
          refPresent := false, good := 0, slewing := false
          origin := if s.grid.everLocked then s.grid.origin else none } }) ∧
    (s.mayLose.1 = true → s.grid.lock = .locked → ∃ t, exec .referenceLost s = .next t ∧
      t.grid.refPresent = false ∧ t.grid.lock = (if s.holdover = 0 then .freeRun else .holdover) ∧
      t.grid.lockLost = true ∧ t.grid.lockLosses = satAdd 16 s.grid.lockLosses 1 ∧ t.grid.heldFor = 0 ∧
      t.grid.stroke = s.grid.stroke ∧ t = { v with grid := t.grid, sched := t.sched, ctrls := t.ctrls, out := t.out }) ∧
    (s.grid.lock = .acquiring → s.grid.refPresent = true →
      (s.strikeRef = false ∨ s.grid.origin ≠ none → exec .gridLockAcquired s = .next
        { s with grid := { s.grid with lock := .locked, good := 0, lockedNs := p, lockedUs := s.clockUs } }) ∧
      (s.strikeRef = true → s.grid.origin = none → ∃ edge, exec .gridLockAcquired s = .next
          { s.fresh.2 with grid := { s.grid with
            lock := .locked, good := 0, origin := some edge, lockedNs := p, lockedUs := s.clockUs } } ∧
        s.grid.acqUs ≤ edge ∧ (s.grid.acqUs ≤ s.clockUs → edge ≤ s.clockUs))) ∧
    (s.grid.lock ≠ .acquiring ∨ s.grid.refPresent = false → exec .gridLockAcquired s = .next s) ∧
    (s.grid.lock = .holdover → s.holdover ≤ s.grid.heldFor → s.grid.freeRunIrq = false →
      exec .holdoverExpiry s = .next ({ s with grid := { s.grid with
        lock := .freeRun, freeRunEntered := true, good := 0, slewing := false } }.evalC0 false)) ∧
    (s.grid.lock ≠ .holdover ∨ s.grid.heldFor < s.holdover → exec .holdoverExpiry s = .next s))

/-- Input power comes and goes with its write-back, and power states are entered and left (R177, R371, R398, R411, R412,
R392, R393, R394). -/
def Obligations.PowerComesGoesAndRests : Prop :=
  (∀ (s : State) (split overV committed : Bool) (slot : BitVec 3),
    (s.power.phase = .off → exec (.inputGood split slot) s = .next
      { s with
        clockUs := 0
        power := { s.power with
          inputGood := true, split := split, slotId := slot, phase := .standbyBoot, disconnected := false } }) ∧
    (s.power.phase ≠ .off → s.power.phase ≠ .tripped → exec (.inputGood split slot) s = .next s) ∧
    (s.power.phase = .standbyBoot → s.power.heldDeassert = none →
      ∃ t, exec .standbyBootDone s = .next t ∧ t.power = { s.power with phase := .standby } ∧
        t.bmc = { s.bmc with answers := t.fw.mcRuns } ∧ t.pewter.words = s.pewter.words ∧ t.ctrls = s.ctrls ∧
        t.mold = s.mold ∧ t.benches = s.benches ∧ t.links = s.links) ∧
    (s.power.phase ≠ .standbyBoot → exec .standbyBootDone s = .next s) ∧
    (s.power.phase = .off → exec (.inputPowerLost overV committed) s = .next
      { s with power := { s.power with disconnected := s.power.disconnected || overV } }) ∧
    (s.power.phase = .tripped → exec (.inputPowerLost overV committed) s = .next
      { s with power := { s.power with
          inputGood := false, disconnected := overV, lostAt := some (s.power.lostAt.getD s.clockUs) } }) ∧
    (s.power.phase = .tripped → exec (.inputGood split slot) s = .next
      { s with power := { s.power with inputGood := true, disconnected := false, lostAt := none } }) ∧
    (s.power.phase ≠ .off → s.power.phase ≠ .tripped →
      ∃ t, exec (.inputPowerLost overV committed) s = .next t ∧
        t.power = { Power.reset with perstB := s.power.perstB, disconnected := overV } ∧ t.bmc = Bmc.reset ∧
        t.ctrls = State.reset.ctrls ∧ t.sched = Sched.reset ∧ t.mold = MoldBlock.reset ∧
        t.engines = State.reset.engines ∧ t.links = State.reset.links ∧ t.grid = Grid.reset ∧
        t.search.epoch = s.search.epoch ∧ t.out = s.out ∧ t.clockUs = s.clockUs ∧
        (s.mem.flushLog = none → s.power.phase = .running → ∃ l,
          t.mem.flushLog = some l ∧ l.granules = s.endPrograms.mem.dirty ∧ l.tails = s.endPrograms.tailsDirty ∧ l.epoch = s.search.epoch ∧
          (committed = false → l.commits = []))) ∧
    (∀ x, s.power.phase = .tripped → s.power.lostAt = some x → x + 1000000 ≤ s.clockUs → exec .thermTripRelease s = .next
      { s with power := { Power.reset with perstB := s.power.perstB }, bmc := Bmc.reset }) ∧
    (s.power.phase ≠ .tripped ∨ s.power.lostAt = none → exec .thermTripRelease s = .next s)) ∧
  (∀ (s : State) (n ms : Nat),
    (s.power.split = false → s.ctrls[(0 : Ctrl)].apstEnable = true →
      s.ctrls[(0 : Ctrl)].apstTable[s.power.state]? = some (n, ms) → ms ≠ 0 → s.power.state < n → n ≤ 4 →
      s.idleNow = true → exec .apstIdleExpiry s = .next (s.enterPower n)) ∧
    (s.idleNow = false → exec .apstIdleExpiry s = .next s) ∧
    (s.power.split = false → s.ctrls[(0 : Ctrl)].apstEnable = false → exec .apstIdleExpiry s = .next s) ∧
    (s.power.exiting = true → exec .powerStateExitDone s = .next (s.enterPower s.power.lastOp)) ∧
    (s.power.exiting = false → exec .powerStateExitDone s = .next s) ∧
    (s.enterPower n).power.state = n ∧ (s.enterPower n).power.exiting = false ∧
    (s.enterPower n).power.lastOp = (if n ≤ 2 then n else s.power.lastOp) ∧
    (∀ e : EngineId, 3 ≤ n → n ≠ 4 → s.engines[e].state = .idle → (s.enterPower n).engines[e].state = .off) ∧
    (∀ b : BenchId, n < 4 → s.benches[b].state = .idle → (s.enterPower n).benches[b].state = .idle) ∧
    (let t := s.programTails; n = 4 →
      (∀ e : EngineId, t.engines[e].state = .idle → (s.enterPower n).engines[e].state = .off) ∧
      ∀ b : BenchId, t.benches[b].state = .idle → (s.enterPower n).benches[b].state = .off))

/-- PERST_A# starts the boot or a module reset; the boot ends with image and links; the Management Controller restarts
from the other bank (R29, R179, R244, R313, R345, R395, R412, R413). -/
def Obligations.InternalBootAndModuleReset : Prop :=
  ∀ (s : State) (a : List AssayPart) (u : List (BenchId × Fin 8)) (d : DieId) (tr : BitVec 8) (ms : Nat),
    (s.power.phase = .standbyBoot → exec (.perstADeassert a u) s = .next
      { s with power := { s.power with perstA := false, heldDeassert := some (a, u) } }) ∧
    (s.power.phase = .standby → ∃ t, exec (.perstADeassert a u) s = .next t ∧
      t.power = { s.power with phase := .booting, perstA := false, heldDeassert := none } ∧
      t.bmc = { s.bmc with answers := false } ∧
      ∀ d : DieId, t.links[d].state = .training) ∧
    (s.power.phase ≠ .standbyBoot → s.power.phase ≠ .standby → exec (.perstADeassert a u) s = .next s) ∧
    (s.links[d].state = .training → s.power.phase = .booting →
      (s.links[d].lanes ||| tr ≠ 0xFF → exec (.linkTrainingComplete ⟨d, tr⟩) s = .next
        { s with links := s.links.set d { s.links[d] with lanes := s.links[d].lanes ||| tr } }) ∧
      (s.links[d].lanes ||| tr = 0xFF → exec (.linkTrainingComplete ⟨d, tr⟩) s = .next
        ((({ s with free := s.free + 16 } : State).setLink d fun l => { l with
          state := .up, keyGen := 0, lanes := 0xFF, keys := s.freshKeys.1, frames := [0, 0, 0, 0] }).deliverKeys d))) ∧
    (s.links[d].state ≠ .training ∨ s.power.phase ≠ .booting → exec (.linkTrainingComplete ⟨d, tr⟩) s = .next s) ∧
    (s.power.phase = .booting → s.fw.mcRuns = true → (∀ l ∈ s.links.toList, l.state = .up) →
      let t : State := ({ s with
        power := { s.power with phase := .running }
        dev := { s.dev with bootMs := min ms 65535 }, bmc := { s.bmc with answers := true } } : State).modCtrl 0
        fun f => { f with linkUp := true }
      exec (.internalBootEnd ms) s = .next
        (if s.power.split && !s.power.perstB then t.modCtrl 1 fun f => { f with linkUp := true } else t)) ∧
    (s.power.phase ≠ .booting ∨ s.fw.mcRuns = false ∨ (∃ l ∈ s.links.toList, l.state ≠ .up) →
      exec (.internalBootEnd ms) s = .next s) ∧
    (s.power.phase = .booting ∨ s.power.phase = .running → ∃ t, exec .moduleReset s = .next t ∧
      t.power.phase = .standby ∧ t.power.perstA = true ∧ t.mold.state = .blank ∧ t.mold.mold = none ∧
      t.sched = Sched.reset ∧ t.mem.lastFlush = 3 ∧ t.mem.dirty = [] ∧
      t.ctrls = Vector.replicate 2 Controller.reset ∧ t.links = Vector.replicate 32 Link.reset ∧
      t.cache = Vector.replicate 4 ModelCache.reset ∧ t.sec.keys = [] ∧ t.sec.spdm = [] ∧
      t.bmc.dynAddr = s.bmc.dynAddr ∧ t.bmc.eid = s.bmc.eid) ∧
    (s.power.phase ≠ .booting → s.power.phase ≠ .running → exec .moduleReset s = .next
      { s with power := { s.power with perstA := true, heldDeassert := none } }) ∧
    (s.fw.mcRuns = false → exec .managementControllerRestart s = .next s) ∧
    (s.fw.mcRuns = true → ∃ t, exec .managementControllerRestart s = .next t ∧
      (if s.bankVerifies !s.pewter.activeBank then
        t.pewter.activeBank = (!s.pewter.activeBank) ∧ t.fw.mcRuns = true ∧ t.bmc.answers = s.bmc.answers
      else t.pewter.activeBank = s.pewter.activeBank ∧ t.fw.mcRuns = false ∧ t.fw.mcHeld = true ∧
        t.bmc.answers = false))

/-- Caps and the brake limit power, and sensors, rails and the hold-up bank act as their rules say (R402, R407, R415,
R418, R399, R400, R408, R409, R410, R411, R434). -/
def Obligations.CapsSensorsAndRails : Prop :=
  (∀ (s : State) (v dw0 : Word32) (o : PowerObs),
    let h := bits v.toNat 10 0
    let b := bits v.toNat 26 16
    let w := bits dw0.toNat 10 0
    exec (.pwrCtrlWrite v) s = .next (({ s with power := { s.power with
        hostCap := if 350 ≤ h ∧ h ≤ 1800 then h else s.power.hostCap
        brakeW := if 350 ≤ b ∧ b ≤ 1800 then b else s.power.brakeW
        thermIrq := bit v.toNat 27, brakeIrq := bit v.toNat 28, holdupIrq := bit v.toNat 29
        cfgBusy := if (350 ≤ h ∧ h ≤ 1800) ∧ (350 ≤ b ∧ b ≤ 1800) then s.power.cfgBusy else true } } : State).capFall) ∧
    (s.bmc.answers = false → exec (.powerCap dw0) s = .next s) ∧
    (s.bmc.answers = true → bits dw0.toNat 30 11 = 0 → w = 0 ∨ (350 ≤ w ∧ w ≤ 1800) → bit dw0.toNat 31 = false →
      exec (.powerCap dw0) s = .next (s.emit (.mi miSuccess
        [BitVec.ofNat 32 (s.power.capEff + 2 ^ 12 * s.power.capSource + 2 ^ 16 * s.power.bmcCap)]))) ∧
    (s.bmc.answers = true → bits dw0.toNat 30 11 = 0 → w = 0 ∨ (350 ≤ w ∧ w ≤ 1800) → bit dw0.toNat 31 = true →
      let t := ({ s with power := { s.power with bmcCap := w } } : State).capFall
      exec (.powerCap dw0) s = .next (t.emit (.mi miSuccess
        [BitVec.ofNat 32 (t.power.capEff + 2 ^ 12 * t.power.capSource + 2 ^ 16 * t.power.bmcCap)]))) ∧
    (s.bmc.answers = true → bits dw0.toNat 30 11 ≠ 0 ∨ ¬(w = 0 ∨ (350 ≤ w ∧ w ≤ 1800)) →
      exec (.powerCap dw0) s = .next (s.emit (.mi miInvalidParameter []))) ∧
    (s.power.brake = true → exec .pwrBrakeAssert s = .next s) ∧
    (s.power.brake = false → s.power.brakeIrq = false → exec .pwrBrakeAssert s = .next
      (({ s with power := { s.power with
        brake := true, brakeSeen := true, brakes := satAdd 8 s.power.brakes 1 } } : State).capFall.evalC0 false)) ∧
    exec .pwrBrakeDeassert s = .next { s with power := { s.power with brake := false } } ∧
    (s.gridRuns = false → exec (.powerTick o) s = .next (s.measure o).capSettle)) ∧
  (∀ (s : State) (r : SensorReadings) (v uf : Nat),
    (s.power.phase ≠ .off → s.power.phase ≠ .tripped →
      let u := s.withSmart fun s => s.readSensors r
      (tripOf r u.power.flowLowSince u.clockUs = none → exec (.thermalSensorRead r) s = .next u) ∧
      ∀ row x, tripOf r u.power.flowLowSince u.clockUs = some (row, x) →
        ∃ t, exec (.thermalSensorRead r) s = .next t ∧ t.power.phase = .tripped ∧ t.power.tripped = true ∧
          t.bmc.answers = false ∧ t.ctrls = State.reset.ctrls ∧ t.sched = Sched.reset) ∧
    (s.power.phase = .off ∨ s.power.phase = .tripped → exec (.thermalSensorRead r) s = .next s ∧
      ∀ rail, exec (.railBrownout rail) s = .next s) ∧
    (s.power.emergency = true → s.power.lastHotUs + 1000000 ≤ s.clockUs →
      exec .thermalEmergencyEnd s = .next { s with power := { s.power with emergency := false } }) ∧
    (s.power.emergency = false ∨ s.clockUs < s.power.lastHotUs + 1000000 →
      exec .thermalEmergencyEnd s = .next s) ∧
    (∃ t, exec (.holdupOkChange v) s = .next t ∧ t.power.bankV = min v 1023 ∧
      t.power.usableJ = (if min v 1023 ≤ 350 then 0 else match s.power.capUf with
        | some c => min (c * (min v 1023 * min v 1023 - 350 * 350) / 200000000) 1023
        | none => 0) ∧
      t.power.holdupOk = (s.power.inputGood && !s.power.holdupLow && (if min v 1023 ≤ 350 then false else
        match s.power.capUf with
        | some c => decide (90 ≤ c * (min v 1023 * min v 1023 - 350 * 350) / 200000000)
        | none => false)) ∧
      t = { s with power := t.power, ctrls := t.ctrls, sched := t.sched, out := t.out }) ∧
    (∃ t, exec (.holdupCapacitanceCheck uf) s = .next t ∧ t.power.capUf = some uf ∧
      (t.power.holdupLow = true ↔ s.power.holdupLow = true ∨ uf * (800 * 800 - 350 * 350) / 200000000 < 90) ∧
      (t.power.holdupOk = true → s.power.inputGood = true ∧ t.power.holdupLow = false)) ∧
    (s.power.phase ≠ .off → s.power.phase ≠ .tripped →
      exec (.railBrownout .pewter) s = .next (doPewterBrownout s).resumeReads ∧
      (∀ g, s.power.rails.contains (.nandVcc g) = true → exec (.railBrownout (.nandVcc g)) s = .next s) ∧
      ∀ d, ∃ t, exec (.railBrownout (.channelDie d)) s = .next t ∧ t.power.phase = .off ∧ t.ctrls = State.reset.ctrls))

/-- CAP_EFF_W falls to the least cap of Table 16-6 at once and never rises within a Stroke (R402, Table 16-6
(16_module_power_and_management.md)). -/
def Obligations.TheCapIsTheLeastCap : Prop :=
  (∀ (s : State), s.capFall.power.capEff = min s.power.capEff s.capTarget.1 ∧
    (∀ c ∈ s.caps, s.capTarget.1 ≤ c.1) ∧ s.capTarget ∈ s.caps ∧ s.capSettle.power.capEff = s.capTarget.1 ∧
    s.capSettle.power.capSource = s.capTarget.2 ∧
    s.capFall = { s with power := s.capFall.power, sched := s.capFall.sched } ∧
    s.capSettle = { s with power := s.capSettle.power }) ∧
  ∀ l : List (Nat × Nat), l ≠ [] → leastCap l ∈ l ∧ ∀ c ∈ l, (leastCap l).1 ≤ c.1

/-- Onant commands need a Mold and a Shop, and a waiting job arrives at the scheduler, which refuses, notes or pre-empts
for it (R34, R69, R385, R393, R421, R78, R79, R80, R82). -/
def Obligations.RefusalsAndArrivals : Prop :=
  (∀ (s : State) (e : Sqe) (bs : List Byte) (us : Nat) (lost poison : Option Nat),
    let all (r : State) : Prop :=
      exec (.jobSubmit e bs) s = .next r ∧ exec (.jobStatus e) s = .next r ∧ exec (.query e bs) s = .next r ∧
      exec (.objPut e bs) s = .next r ∧ exec (.objGet e ⟨lost, us⟩ poison) s = .next r ∧ exec (.objStat e) s = .next r ∧
      exec (.objDelete e) s = .next r ∧ exec (.ingotLoad e ⟨bs, us⟩) s = .next r ∧ exec (.ingotDrop e) s = .next r
    (s.mold.mold = none → all (s.refuse e.key scMoldAbsent)) ∧
    ∀ m, s.mold.mold = some m → (s.ioWaits = true → all s) ∧ (s.ioWaits = false →
      (m.shopOfQueue e.key.ctrl e.key.sqid = none → all (s.refuse e.key scShopUnbound)) ∧
      ∀ h, m.shopOfQueue e.key.ctrl e.key.sqid = some h →
        (e.nsid ≠ 0 ∨ e.fuse ≠ 0 ∨ e.cdw15 ≠ 0 ∨ e.psdt = 3 → all (s.refuse e.key scInvalidField)) ∧
        (bits e.cdw10.toNat 31 28 ≠ 0 → exec (.jobStatus e) s = .next (s.refuse e.key scInvalidField)) ∧
        (e.cdw12 ≠ 0 → exec (.objStat e) s = .next (s.refuse e.key scInvalidField) ∧
          exec (.objDelete e) s = .next (s.refuse e.key scInvalidField)))) ∧
  (∀ (s : State) (k : Key),
    (s.mold.mold = none ∨ s.job k = none → exec (.schedulerArrival k) s = .next s) ∧
    ∀ m j, s.mold.mold = some m → s.job k = some j →
      (j.state ≠ .waiting ∨ j.arrivedUs ≠ none → exec (.schedulerArrival k) s = .next s) ∧
      (j.state = .waiting → j.arrivedUs = none →
        let arrived := s.modJob k fun j => { j with arrivedUs := some s.clockUs }
        (j.cls = 0 → m.env.maxLists < j.lists ∨ m.env.maxK < j.k ∨ m.env.maxTokens < j.tokens →
          exec (.schedulerArrival k) s = .next
            (({ s with sched := { s.sched with refused := satAdd 32 s.sched.refused 1 } } : State).refuseEnvelope k
              true |>.dropJob k)) ∧
        (j.cls ≠ 0 → exec (.schedulerArrival k) s = .next arrived) ∧
        (j.cls = 0 → j.lists ≤ m.env.maxLists → j.k ≤ m.env.maxK → j.tokens ≤ m.env.maxTokens →
          (s.sched.preemptOnArrival = false ∨ arrived.pickC0 m j = none →
            exec (.schedulerArrival k) s = .next arrived) ∧
          ∀ e, s.sched.preemptOnArrival = true → arrived.pickC0 m j = some e →
            let held : State := { arrived with sched := { arrived.sched with
              arrivalHolds := arrived.sched.arrivalHolds ++ [(j.key, e)] } }
            exec (.schedulerArrival k) s = .next (if held.freeNs m e = 0 then held else held.preempt e (some j.key)))))

/-- JOB_STATUS names a job by controller, queue and command identifier and returns its record of 64 bytes (R210). -/
def Obligations.JobStatusReturnsTheRecord : Prop :=
  ∀ (s : State) (e : Sqe) (m : Mold) (h : Shop),
    s.mold.mold = some m → s.ioWaits = false → m.shopOfQueue e.key.ctrl e.key.sqid = some h →
    onantOk e [0x0FFFFFFF, 0, 0, 0, 0, 0] 0 64 = true →
    let named (j : Job) : Bool := j.isJob && j.key.cid.toNat == e.cdw10.toNat % 65536 &&
      j.key.sqid == e.cdw10.toNat / 65536 % 2048 && j.key.ctrl.val == e.cdw10.toNat / 2 ^ 27 % 2
    (∀ j, s.sched.jobs.find? named = some j → exec (.jobStatus e) s = .next (s.success e.key 64 0
      (le 1 (match j.state with
        | .waiting => 0 | .admitted => 1 | .running => 2 | .suspended => 3 | .releasing => 4 | .teardown => 5) ++
        le 1 j.cls ++ le 2 j.effWeight ++ le 4 j.execs ++ le 4 j.overflows ++ le 4 j.legacySat ++ le 8 j.engineUs ++
        le 8 j.benchUs ++ le 8 j.admitStroke ++ le 8 j.progress ++ le 2 j.brokenSems ++ le 14 0))) ∧
    (∀ j, (s.sched.jobs.find? named = some j) → j.statusBytes.length = 64) ∧
    (s.sched.jobs.find? named = none → exec (.jobStatus e) s = .next (s.refuse e.key scInvalidField))

/-- An accepted JOB_SUBMIT or QUERY is a WAITING job with the fields of its command; the checks refuse in the order of
R421 (R72, R201, R209, R218, R421). -/
def Obligations.JobsAreAcceptedWaiting : Prop :=
  ∀ (s : State) (e : Sqe) (desc : List Byte) (m : Mold) (h : Shop),
    s.mold.mold = some m → s.ioWaits = false → m.shopOfQueue e.key.ctrl e.key.sqid = some h →
    (let bs := padTo e.cdw10.toNat desc
    let d := readJobDesc bs
    let pages := match s.ingot d.ingot with
      | some g => if d.op == 0x03 then g.kvPages d.maxTokens else []
      | none => []
    let kv := (pages.map KvPage.bytes).sum
    onantOk e [allOnes, 0, 0, 0, 0, 0] e.cdw10.toNat d.answerBytes = true → d.ok bs e.cdw10.toNat = true →
    d.fits m h = true → (benchOp d.op = true → s.benchesHeld h d = true) →
      (∀ x, s.jobState m d = some x → exec (.jobSubmit e desc) s = .next (s.status e.key x.1 x.2 0 [])) ∧
      (s.jobState m d = none → s.jobContent m h d = false →
        exec (.jobSubmit e desc) s = .next (s.refuse e.key scInvalidField)) ∧
      (s.jobState m d = none → s.jobContent m h d = true →
        ((∃ c, m.coll d.coll = some c ∧ s.keyHeld c.label = false) →
          exec (.jobSubmit e desc) s = .next (s.refuse e.key scKeyAbsent)) ∧
        ((∀ c, m.coll d.coll = some c → s.keyHeld c.label = true) →
          (s.kvRoom m h < kv → exec (.jobSubmit e desc) s = .next (s.refuse e.key scCacheFull)) ∧
          (kv ≤ s.kvRoom m h → s.placePages m h pages = none →
            exec (.jobSubmit e desc) s = .next (s.refuse e.key scCacheFull)) ∧
          (∀ placed, kv ≤ s.kvRoom m h → s.placePages m h pages = some placed →
            (d.cls = 0 → m.env.bound * m.periodUs < d.tJobUs →
              exec (.jobSubmit e desc) s = .next (s.refuseEnvelope e.key true)) ∧
            (¬(d.cls = 0 ∧ m.env.bound * m.periodUs < d.tJobUs) →
            ∃ j : Job, exec (.jobSubmit e desc) s = .next
                { (kvScratch placed).foldl (fun u p => u.clearGranule p.1 p.2) s.fresh.2 with
                  sched := { s.sched with jobs := s.sched.jobs ++ [j] } } ∧
              j.key = e.key ∧ j.kind = .operator d.op ∧ j.cls = d.cls ∧ j.shop = h.id ∧ j.state = .waiting ∧
              j.weight = (if d.weight = 0 then (m.cls d.cls).defaultW else d.weight) ∧ j.ingot = d.runs m ∧ j.k = d.k ∧
              j.tJobUs = d.tJobUs ∧ j.input = d.text ∧ j.items = d.items ∧ j.kv = placed ∧ j.scratch = kvScratch placed ∧
              j.placed = [] ∧ j.arrivedUs = none))))) ∧
    (let q := readQuery e
    let bs := padTo q.bytes desc
    onantOk e [0x1FFF, 0x1FFFF, 0x1FFF1FFF, 0x1FFF, allOnes, 0] q.bytes q.answerBytes = true → q.ok m bs = true →
    ∀ c, m.coll q.coll = some c →
      (q.vector = false → ∀ sc, s.ingotRefusal c.embedIngot = some sc →
        exec (.query e desc) s = .next (s.refuse e.key sc)) ∧
      (q.vector = true →
        (s.queryShop m c [] = false → exec (.query e desc) s = .next (s.refuse e.key scShopUnbound)) ∧
        (s.queryShop m c [] = true → (∀ x, s.coll q.coll = some x → x.unavailable = false) →
          (s.keyHeld c.label = false → exec (.query e desc) s = .next (s.refuse e.key scKeyAbsent)) ∧
          (s.keyHeld c.label = true →
            (m.c0Shop = none → exec (.query e desc) s = .next (s.refuseEnvelope e.key true)) ∧
            ∀ h0, m.c0Shop = some h0 → ∃ j : Job,
              exec (.query e desc) s = .next { s with sched := { s.sched with jobs := s.sched.jobs ++ [j] } } ∧
              j.key = e.key ∧ j.kind = .query ∧ j.cls = (if c.queryShop = h0.id then 0 else 1) ∧
              j.shop = c.queryShop ∧ j.state = .waiting ∧ j.coll = some q.coll ∧ j.k = q.k ∧ j.lists = q.lists ∧
              j.depth = depthOf c.metric q.k q.depth ∧ j.vector = f32s bs ∧ j.ingot = 0 ∧ j.arrivedUs = none))))

/-- OBJ_PUT takes the Bench with most free capacity and waits for durability; then the object gets the next identifier
and can be read and asked for (R250, R251, R252, R386, R421). -/
def Obligations.ObjectsArePutAndRead : Prop :=
  ∀ (s : State) (e : Sqe) (bs : List Byte) (us : Nat) (lost poison : Option Nat) (m : Mold) (h : Shop),
    s.ioWaits = false →
    s.mold.mold = some m → m.shopOfQueue e.key.ctrl e.key.sqid = some h →
    (let n := wide64 e.cdw12 e.cdw13
    let coll := bits e.cdw10.toNat 11 0
    let env := padTo n bs
    onantOk e [0xFFF, 0, allOnes, allOnes, 0, 0] n 0 = true → n ≠ 0 → ∀ c, m.coll coll = some c →
      let live := match m.shop c.ingestShop with
        | some h => h.benches.filter fun b => s.benches[b].state != .failed
        | none => []
      (live = [] → exec (.objPut e bs) s = .next (s.refuse e.key scShopUnbound)) ∧
      (live ≠ [] → ∀ x, s.coll coll = some x → x.unavailable = true →
        exec (.objPut e bs) s = .next (s.refuse e.key scMediaUnavailable)) ∧
      (live ≠ [] → (∀ x, s.coll coll = some x → x.unavailable = false) →
        (∀ off, envelopeFault env env.length c.label = some off →
          exec (.objPut e bs) s = .next (s.status e.key scEnvelopeInvalid off 0 [])) ∧
        (envelopeFault env env.length c.label = none →
          exec (.objPut e bs) s = .next
            (match s.pickBench (live.filter fun b => pagesOf env.length ≤ s.freePages b) with
            | none => s.refuse e.key scMediaFull
            | some b => { s with search := { s.search with
                puts := s.search.puts ++ [{ key := e.key, coll := coll, bench := b, envelope := env }] } })))) ∧
    (onantOk e [allOnes, allOnes, 0, 0, 0, 0] 0 80 = true →
      (s.liveObj (wide64 e.cdw10 e.cdw11) = none → exec (.objStat e) s = .next (s.refuse e.key scObjectAbsent)) ∧
      ∀ o, s.liveObj (wide64 e.cdw10 e.cdw11) = some o → (m.coll o.coll).isSome = true →
        (∀ x, s.coll o.coll = some x → x.unavailable = false) →
        exec (.objStat e) s = .next (s.success e.key 80 0 o.statBytes)) ∧
    (onantOk e [allOnes, allOnes, allOnes, allOnes, allOnes, 0] 0 e.cdw14.toNat = true → e.cdw14 ≠ 0 →
      (s.liveObj (wide64 e.cdw10 e.cdw11) = none →
        exec (.objGet e ⟨lost, us⟩ poison) s = .next (s.refuse e.key scObjectAbsent)) ∧
      ∀ o, s.liveObj (wide64 e.cdw10 e.cdw11) = some o → (m.coll o.coll).isSome = true →
        (∀ x, s.coll o.coll = some x → x.unavailable = false) →
        let off := wide64 e.cdw12 e.cdw13
        let n := e.cdw14.toNat
        (o.envelope.length < off + n → exec (.objGet e ⟨lost, us⟩ poison) s = .next (s.refuse e.key scInvalidField)) ∧
        (off + n ≤ o.envelope.length → s.benches[o.bench].state = .failed →
          exec (.objGet e ⟨lost, us⟩ poison) s = .next (s.refuse e.key scMediaUnavailable)) ∧
        (off + n ≤ o.envelope.length → s.benches[o.bench].state ≠ .failed → s.benchReady o.bench = true →
          s.benchKept o.bench = false → lost = none → o.lost = none → s.benches[o.bench].countEn = true → poison = none →
          exec (.objGet e ⟨lost, us⟩ poison) s = .next
            ((((s.modObj o.id fun o => { o with lost := none }).chargeWork 1 h.id (benchRes o.bench) us).modBench o.bench fun x =>
              { x with getBytes := satAdd 64 x.getBytes n }).success e.key n 0 ((o.envelope.drop off).take n))))

/-- A durable OBJ_PUT assigns the next identifier; a durable OBJ_DELETE stamps the next epoch and ends the object (R178,
R229, R278, R386, R387). -/
def Obligations.ObjectsBecomeDurableAndAreDeleted : Prop :=
  ∀ (s : State) (k : Key) (us : Nat) (e : Sqe) (m : Mold) (h : Shop),
    let bare (o : Obj) : Obj := { o with home := .pending, homeReason := 0 }
    (s.search.puts.find? (fun p => p.key == k) = none → exec (.objPutDurable ⟨k, us⟩) s = .next s) ∧
    (∀ p, s.search.puts.find? (fun p => p.key == k) = some p →
      let room := s.canStore p.bench (pagesOf p.envelope.length)
      let q := quarterOfBench p.bench
      let map := objectMapGranule s.search.nextId
      (room = false ∨ s.benchOk p.bench = false ∨ s.benchReady p.bench = false ∨ s.benchKept p.bench = true →
        exec (.objPutDurable ⟨k, us⟩) s = .next s) ∧
      (room = true → s.benchOk p.bench = true → s.benchReady p.bench = true → s.benchKept p.bench = false →
        s.canDirty q map 5 = false → exec (.objPutDurable ⟨k, us⟩) s = .next (s.dirtyThrough q map 5).1) ∧
      (room = true → s.benchOk p.bench = true → s.benchReady p.bench = true → s.benchKept p.bench = false →
        s.canDirty q map 5 = true →
        let c := s.chargeWork 2 (s.shopNumber k) (benchRes p.bench) us
        let s' : State := { c with search := { s.search with puts := s.search.puts.filter fun q => q.key != k } }
        let t := (s'.storeObject p.coll p.bench p.envelope).2
        exec (.objPutDurable ⟨k, us⟩) s = .next (t.success k (s.search.nextId % 2 ^ 32) (s.search.nextId / 2 ^ 32) []) ∧
        t.search.nextId = s.search.nextId + 1 ∧ t.search.puts = s.search.puts.filter (fun q => q.key != k) ∧
        ∃ o, t.search.objs.map bare = s.search.objs.map bare ++ [bare o] ∧ o.id = s.search.nextId ∧ o.coll = p.coll ∧ o.bench = p.bench ∧
          o.envelope = p.envelope ∧ o.deleted = none ∧ (o.state = .pending ∨ o.state = .deferred) ∧
          o.storeEpoch = s.search.epoch)) ∧
    (s.mold.mold = some m → s.ioWaits = false → m.shopOfQueue e.key.ctrl e.key.sqid = some h →
      onantOk e [allOnes, allOnes, 0, 0, 0, 0] 0 0 = true →
      let i := wide64 e.cdw10 e.cdw11
      (s.liveObj i = none → exec (.objDelete e) s = .next (s.refuse e.key scObjectAbsent)) ∧
      ∀ o, s.liveObj i = some o → (m.coll o.coll).isSome = true →
        (∀ x, s.coll o.coll = some x → x.unavailable = false) → exec (.objDelete e) s = .next
          { s with search := { s.search with deletes := s.search.deletes ++ [(e.key, i)] } }) ∧
    (s.search.deletes.find? (fun d => d.1 == k) = none → exec (.objDeleteDurable k) s = .next s) ∧
    (∀ d, s.search.deletes.find? (fun d => d.1 == k) = some d →
      let s' : State := { s with search := { s.search with deletes := s.search.deletes.filter fun d => d.1 != k } }
      (s.liveObj d.2 = none → exec (.objDeleteDurable k) s = .next (s'.refuse k scObjectAbsent)) ∧
      ∀ o, s.liveObj d.2 = some o →
        (s.journal o.bench d.2 = none → exec (.objDeleteDurable k) s = .next s) ∧
        ∀ u, s.journal o.bench d.2 = some u →
        ((u.dirtyAll (s.deleteWrites o)).2 = false →
          exec (.objDeleteDurable k) s = .next (s.dirtyAll (s.deleteWrites o)).1) ∧
        ((u.dirtyAll (s.deleteWrites o)).2 = true → ∃ t : State, exec (.objDeleteDurable k) s = .next
          (t.success k ((s.search.epoch + 1) % 2 ^ 32) ((s.search.epoch + 1) / 2 ^ 32 % 2 ^ 16) []) ∧
        t.search.objs.map bare = (updWhere s.search.objs (fun x => x.id == d.2) (fun x =>
          { (if o.state = .reading then { x with state := .partRead, reason := 11, readEndUs := s.clockUs } else x) with
            deleted := some (s.search.epoch + 1) })).map bare ∧
        t.search.lists = s.search.lists.map (fun l => { l with log := l.log ++
          ((l.records.zipIdx.filter fun p => p.1.object == d.2).map fun p =>
            { record := p.2, kind := .delete (s.search.epoch + 1) }) }) ∧
        t.search.deletes = s.search.deletes.filter (fun d => d.1 != k) ∧
        t.search.epoch = s.search.epoch))

/-- Ingot pieces join in order, the last waits for validation, a valid image is READY, an idle load times out, a drop
waits for its users (R187, R193, R195, R196, R199). -/
def Obligations.IngotsAreLoadedValidatedAndDropped : Prop :=
  ∀ (s : State) (e : Sqe) (piece : List Byte) (us : Nat) (m : Mold) (h : Shop) (id : Word32),
    (s.mold.mold = some m → s.ioWaits = false → m.shopOfQueue e.key.ctrl e.key.sqid = some h →
      let i := e.cdw10.toNat
      let n := e.cdw14.toNat
      let off := wide64 e.cdw12 e.cdw13
      let final := bit e.cdw11.toNat 0
      (onantOk e [allOnes, 1, allOnes, allOnes, allOnes, 0] n 0 = true → 1 ≤ i → i ≤ 0xFFFFFFFE →
        4096 ≤ n → n ≤ 16777216 → final = true ∨ n % 4096 = 0 →
        let joined (u : State) (had : Nat) : State := (u.modIngot i fun g =>
          { g with image := g.image ++ padTo n piece, lastPieceUs := s.clockUs, pageUs := us
                   finalPiece := if final then some e.key else none }).storeIngot us i
            (if final then pagesOf (had + (padTo n piece).length) else (had + (padTo n piece).length) / 16384)
        let answered (s : State) : State := if final then s else s.success e.key 0 0 []
        (s.ingot i = none → off = 0 → exec (.ingotLoad e ⟨piece, us⟩) s = .next
          (answered (joined { s with ingots := s.ingots ++ [loadingIngot i] } 0))) ∧
        (s.ingot i = none → off ≠ 0 → exec (.ingotLoad e ⟨piece, us⟩) s = .next (s.refuse e.key scInvalidField)) ∧
        ∀ g, s.ingot i = some g →
          (off = 0 → exec (.ingotLoad e ⟨piece, us⟩) s = .next (s.refuse e.key scIngotExists)) ∧
          (off ≠ 0 → g.state = .loading → g.finalPiece = none → off = g.image.length →
            exec (.ingotLoad e ⟨piece, us⟩) s = .next (answered (joined s g.image.length))) ∧
          (off ≠ 0 → g.state ≠ .loading ∨ g.finalPiece ≠ none ∨ off ≠ g.image.length →
            exec (.ingotLoad e ⟨piece, us⟩) s = .next (s.refuse e.key scInvalidField))) ∧
      (onantOk e [allOnes, 0, 0, 0, 0, 0] 0 0 = true →
        (s.ingot i = none → exec (.ingotDrop e) s = .next (s.refuse e.key scIngotAbsent)) ∧
        ∀ g, s.ingot i = some g →
          (g.state = .loading ∨ g.state = .dropping → exec (.ingotDrop e) s = .next (s.refuse e.key scIngotAbsent)) ∧
          (g.state = .ready ∨ g.state = .poisoned →
            ((∃ x ∈ s.ingots, x.derived = true ∧ x.base = i) →
              exec (.ingotDrop e) s = .next (s.refuse e.key scIngotBusy)) ∧
            ((∀ x ∈ s.ingots, ¬(x.derived = true ∧ x.base = i)) → exec (.ingotDrop e) s = .next
              ((((s.modIngot i fun g => { g with state := .dropping }).stopEmbedding i).dropUnpinned fun x => x == i).success
                e.key 0 0 []))))) ∧
    (s.ingot id.toNat = none → exec (.ingotValidationDone id) s = .next s ∧ exec (.ingotLoadTimeout id) s = .next s) ∧
    (∀ g, s.ingot id.toNat = some g →
      (g.finalPiece = none → exec (.ingotValidationDone id) s = .next s) ∧
      (∀ k, g.finalPiece = some k →
        let u := s.storeIngot g.pageUs g.id (pagesOf g.image.length)
        let left := u.ingotWaits g.id (pagesOf g.image.length)
        (left ≠ [] → u.roomForIngot = true → exec (.ingotValidationDone id) s = .next u) ∧
        (left = [] ∨ u.roomForIngot = false → exec (.ingotValidationDone id) s = .next
          (match u.validateIngot g with
          | some (sc, dw0, dw1) => (u.removeIngot g.id).status k sc dw0 dw1 []
          | none => (u.modIngot g.id Ingot.parsed).success k 0 0 []))) ∧
      (g.state = .loading → g.finalPiece = none → g.lastPieceUs + 10000000 ≤ s.clockUs →
        exec (.ingotLoadTimeout id) s = .next
          ((s.removeIngot g.id).reportGeneral .scheduler .informational 0x48 0 0 0 none g.id)) ∧
      (g.state ≠ .loading ∨ g.finalPiece ≠ none ∨ s.clockUs < g.lastPieceUs + 10000000 →
        exec (.ingotLoadTimeout id) s = .next s)) ∧
    (s.dropping id.toNat = true → (∀ j ∈ s.sched.jobs, j.ingot ≠ id.toNat) →
      (∀ c ∈ s.cache.toList, ∀ o ∈ c.objs, o.id.ingot = id → o.pinned = false) →
      exec (.ingotRemoved id) s = .next ((s.dropUnpinned fun x => x == id.toNat).removeIngot id.toNat)) ∧
    (s.dropping id.toNat = false ∨ (∃ j ∈ s.sched.jobs, j.ingot = id.toNat) ∨
      (∃ c ∈ s.cache.toList, ∃ o ∈ c.objs, o.id.ingot = id ∧ o.pinned = true) →
      exec (.ingotRemoved id) s = .next s)

/-- A Stroke boundary numbers the Stroke and publishes the epoch one above, once each; without a running grid it changes
nothing (R24, R66, R67, R70, R228). -/
def Obligations.EveryBoundaryPublishesTheNextEpoch : Prop :=
  ∀ (s : State) (o : BoundaryObs),
    (s.mold.mold = none ∨ s.gridRuns = false → exec (.strokeBoundary o) s = .next s) ∧
    (∀ m, s.mold.mold = some m → s.gridRuns = true → s.strokeFits m o.lengthNs o.slewed = false →
      exec (.strokeBoundary o) s = .next s) ∧
    (∀ m, s.mold.mold = some m → s.gridRuns = true → s.strokeFits m o.lengthNs o.slewed = true → ∃ t, exec (.strokeBoundary o) s = .next t ∧
      t.search.epoch = s.search.epoch + 1 ∧ t.dev.shadows = [] ∧ t.gridRuns = true ∧
      t.grid.everLocked = true ∧
      t.grid.stroke = (if s.grid.everLocked then (s.grid.stroke + 1) % 2 ^ 64 else 0) ∧
      t.search.nextId = s.search.nextId ∧ t.clockUs = s.clockUs)

/-- A unit takes the Engine that the keys of R206 pick; a pre-empted unit is saved whole and restored; a Bench gives up
its job (R87, R88, R117, R118, R194, R206). -/
def Obligations.UnitsArePlacedSavedAndRestored : Prop :=
  ∀ (s : State) (k : Key) (u : Nat) (e : EngineId) (b : BenchId),
    (∀ m j, s.mold.mold = some m → s.job k = some j → s.placeable j u = false →
      exec (.unitPlacement k u) s = .next s) ∧
    (∀ m j h, s.mold.mold = some m → s.job k = some j → m.shop j.shop = some h → j.prefilling = true →
      s.decodeDue m h = true → exec (.unitPlacement k u) s = .next s) ∧
    (∀ m j h op, s.mold.mold = some m → s.job k = some j → m.shop j.shop = some h → s.placeable j u = true →
      j.prefilling = false ∨ s.decodeDue m h = false → j.kind = .operator op → benchOp op = false →
      let x := (s.unitEntry j u).getD plainUnit
      x.kind ≠ 3 → x.splittable = false → s.unplacedPart j u = none →
      (∃ f ∈ h.engines, s.pinsFit (quarterOfEngine f) x.pinned = true) →
        exec (.unitPlacement k u) s = .next
          (match s.pickEngine j x (s.masked j (s.unitEngines m h j x)) with
          | none => s
          | some f =>
            let v := if j.decoding = true ∧ j.unitsDone = [] ∧ j.placed = [] then
                s.modJob k fun j => { j with decoded := j.decoded + 1 }
              else s
            let p : Placed := { unit := u, engine := some f, bench := none, part := Part.whole, hinted := s.hintMoves m h j x f }
            let t := (v.modJob k fun j => { j with placed := j.placed ++ [p] }).chargeRun f
            if t.engines[f].state = .idle then t.startNext f
            else if t.freeFor f j.workCls = true ∧ t.overtaken f = true then t.preempt f (some k)
            else t)) ∧
    (let next := s.nextThere e
      let victim := s.engines[e].job.map fun p => p.1
      (s.engines[e].state = .running → s.engines[e].ctx.npOpen = none → s.semBlocked victim next = false →
        ∃ t : State, exec (.enginePreempt e) s = .next t ∧ t.engines[e] = { s.engines[e] with
            state := .saving, switchUs := s.clockUs, wanted := none, since := t.engines[e].since
            ctx := { s.engines[e].ctx with ran := t.engines[e].ctx.ran } } ∧
          t.sched.preemptions = satAdd 32 s.sched.preemptions 1 ∧
          t = { s with engines := s.engines.set e t.engines[e], sched := t.sched }) ∧
      (s.engines[e].state = .running → s.engines[e].ctx.npOpen ≠ none ∨ s.semBlocked victim next = true →
        exec (.enginePreempt e) s = .next (s.modEngine e fun x => { x with wanted := next })) ∧
      (s.engines[e].state = .restoring → exec (.enginePreempt e) s = .next (s.modEngine e fun x => { x with wanted := next })) ∧
      (s.engines[e].state ≠ .running → s.engines[e].state ≠ .restoring → exec (.enginePreempt e) s = .next s)) ∧
    (s.engines[e].state = .saving → s.engines[e].quiet = true → s.engines[e].job = some (k, u) →
      let v := (s.chargeRun e).modEngine e fun x => { x with lastSave := min (s.clockUs - s.engines[e].switchUs) 65535 }
      (s.quenchingJob k = true → exec (.contextSaveDone e) s = .next ((v.modEngine e (Engine.dropJob k)).startNext e)) ∧
      (s.quenchingJob k = false → ∃ t : State, exec (.contextSaveDone e) s = .next (t.startNext e) ∧
        t.engines[e].state = .idle ∧ t.engines[e].job = none ∧ t.engines[e].lastSave = v.engines[e].lastSave ∧
        t.engines[e].saved = s.engines[e].saved ++ [
          { key := k, unit := u, part := s.partOn e k u, sterling := s.engines[e].sterling, ctx := s.engines[e].ctx
            pins := s.pinsOf k u }] ∧
        (∀ f : EngineId, f ≠ e → t.engines[f] = s.engines[f]) ∧ (∀ c ∈ t.sched.credits, ¬(c.key = k ∧ c.res = e.val)) ∧
        t = { s with engines := t.engines, cache := t.cache, mem := t.mem, sched := t.sched })) ∧
    (s.engines[e].state ≠ .saving ∨ s.engines[e].quiet = false → exec (.contextSaveDone e) s = .next s) ∧
    (s.engines[e].state = .restoring → s.engines[e].job = some (k, u) → exec (.contextRestoreDone e) s = .next
      (((s.chargeRun e).modEngine e fun x =>
        { x with state := .running, lastLoad := min (s.clockUs - s.engines[e].switchUs) 65535 }).retryPreempt e)) ∧
    (s.engines[e].state ≠ .restoring ∨ s.engines[e].job = none → exec (.contextRestoreDone e) s = .next s) ∧
    (s.benches[b].job = none → exec (.benchPreempt b) s = .next s) ∧
    (s.benches[b].job = some k →
      let next := (s.chooseOn (benchRes b) (s.waitingOnBench b)).map fun p => p.1.key
      (s.semBlocked (some k) next = true → exec (.benchPreempt b) s = .next s) ∧
      (s.semBlocked (some k) next = false →
        ∃ t : State, exec (.benchPreempt b) s = .next (t.startNextBench b) ∧
          t.benches[b].job = none ∧ t.sched.preemptions = (if s.quenchingJob k = true then s.sched.preemptions
            else satAdd 32 s.sched.preemptions 1) ∧
          (∀ c ∈ t.sched.credits, ¬(c.key = k ∧ c.res = benchRes b)) ∧
          (∀ c : BenchId, c ≠ b → t.benches[c] = s.benches[c]) ∧
          t = { s with benches := t.benches, sched := t.sched, free := t.free }))

/-- The end of a unit charges its time and stands without a flag; with one the first row of Table 6-5 that applies
decides, with one record (R77, R162, R164, R165, Table 6-5 (06_reductions_and_training_numerics.md)). -/
def Obligations.UnitsCompleteAndReplay : Prop :=
  (∀ (s : State) (k : Key) (u : Nat) (r : UnitResult) (j : Job), s.job k = some j →
    let ps := j.placed.filter fun p => p.unit == u
    (s.partsDone k u ps = false ∨ 2 ^ 32 ≤ u → exec (.unitComplete k u r) s = .next s) ∧
    (s.partsDone k u ps = true → u < 2 ^ 32 → 1 < (ps.filterMap Placed.engine).length →
      exec (.unitComplete k u r) s = .next (s.joinParts k j u ((s.unitEntry j u).getD plainUnit) r ps)) ∧
    ∀ e p b, s.partsDone k u ps = true → u < 2 ^ 32 → ps = [{ unit := u, engine := some e, bench := none, part := p, hinted := b }] →
      let x := (s.unitEntry j u).getD plainUnit
      let ends := j.partEnds.filter fun p => p.unit == u
      let causes := ends.foldl (fun c p => c ||| p.causes) s.engines[e].ctx.causes
      let t := (s.chargeParts k j u r [e]).modJob k fun j => { j with execs := (j.execs + 1) % 2 ^ 32 }
      (causes = 0 ∨ (j.quenching = true ∧ j.replayed u ≠ 0) →
        exec (.unitComplete k u r) s = .next (t.unitStands k u r ps)) ∧
      (causes ≠ 0 → j.quenching = false ∨ j.replayed u = 0 →
        let o := replayOutcome j x
        ∃ (rep : Report) (v : State), v = (t.report (.engine e) rep).modJob k
            (fun j => { j with overflows := satAdd 32 j.overflows 1 }) ∧ rep.sev = .informational ∧ rep.kind = 1 ∧
          rep.body.length = 47 ∧ exec (.unitComplete k u r) s = .next
            (match o.1, o.2 with
            | 0, some w => v.replayUnit k u w ps ends
            | 5, _ => v.faultJob k scNumericOverflow (.engine e)
            | 3, _ => if causes.getLsbD causeVecOvf then v.faultJob k scNumericOverflow (.engine e)
                else v.unitStands k u r ps
            | _, _ => v.unitStands k u r ps))) ∧
  (∀ (s : State) (k : Key) (u : Nat) (r : UnitResult), s.job k = none → exec (.unitComplete k u r) s = .next s) ∧
  ∀ (j : Job) (x : UnitEntry), replayOutcome j x =
    (if j.quenching then (6, none) else if x.inPlace then (3, none) else if j.cls = 0 then (2, none)
    else if ¬∃ q, j.quant = some q ∧ q.replay = true then (1, none)
    else if x.rung = 2 then (5, none)
    else match x.wider with
      | some w => (0, some w)
      | none => (4, none))

/-- A job fault leaves no trace of its job on Engines, Benches, pins, semaphores and sweeps, and of no other job takes
anything (R90, R173, R184, R211). -/
def Obligations.FaultsTearTheJobDown : Prop :=
  ∀ (s : State) (k : Key) (sc : Nat) (src : Source),
    (s.job k = none → s.faultJob k sc src = s) ∧
    (s.job k ≠ none →
      let t := s.faultJob k sc src
      t.job k = none ∧
      (∀ e : EngineId, (∀ u, t.engines[e].job ≠ some (k, u)) ∧ (∀ c ∈ t.engines[e].saved, c.key ≠ k) ∧
        t.engines[e].resident ≠ some k) ∧
      (∀ b : BenchId, t.benches[b].job ≠ some k) ∧
      (∀ (q : QuarterId), (∀ o ∈ t.cache[q].objs, ∀ p ∈ o.pins, p.1 ≠ k) ∧
        ∀ w ∈ t.cache[q].waiting, w.key ≠ k) ∧ (∀ c ∈ t.sched.credits, c.key ≠ k) ∧
      (∀ (e : EngineId), ∀ l ∈ t.engines[e].locals, l.key ≠ k) ∧
      (∀ x ∈ t.sched.sems, x.holder ≠ some k ∧ ∀ w ∈ x.waiters, w.1 ≠ k) ∧
      (∀ x ∈ s.sched.sems, x.holder = some k →
        ∃ y ∈ t.sched.sems, y.shop = x.shop ∧ y.num = x.num ∧ y.holder = none ∧ y.broken = true) ∧
      (∀ w ∈ t.search.sweeps, k ∉ w.queries) ∧ (∀ h ∈ t.sched.arrivalHolds, h.1 ≠ k) ∧
      (∀ e : EngineId, (∀ u, s.engines[e].job ≠ some (k, u)) → (∀ c ∈ s.engines[e].saved, c.key ≠ k) →
        s.engines[e].resident ≠ some k → t.engines[e].state = s.engines[e].state ∧
          t.engines[e].job = s.engines[e].job ∧ t.engines[e].saved = s.engines[e].saved) ∧
      (∀ j ∈ s.sched.jobs, j.key ≠ k → j ∈ t.sched.jobs) ∧ t.ingots = s.ingots ∧ t.search.objs = s.search.objs ∧
      t.search.lists = s.search.lists ∧ t.sec = s.sec ∧ t.mold = s.mold ∧ t.pending = s.pending)

/-- Faults by status or memory, overruns, the time cap and a Quench stop a job as R87 to R91 and R205 say; the gate
serves C0 answers first (R87, R88, R90, R91, R205, R208, R342). -/
def Obligations.OverrunsQuenchesAndTheGate : Prop :=
  ∀ (s : State) (k : Key) (e : EngineId) (ran : Nat) (shop : Fin 8) (n : Fin 64) (sc : Byte) (sp : Space),
    (∀ j, s.job k = some j → j.state ≠ .waiting →
      exec (.jobFault k (.memory sp)) s = .next (s.faultJob k scMemoryFault (sourceOf { space := sp, off := 0 })) ∧
      (sc.toNat ∈ faultStatuses → exec (.jobFault k (.status sc)) s = .next (s.faultJob k sc.toNat .scheduler)) ∧
      (sc.toNat ∉ faultStatuses → exec (.jobFault k (.status sc)) s = .next s)) ∧
    ((∀ j, s.job k = some j → j.state = .waiting) →
      exec (.jobFault k (.memory sp)) s = .next ((s.ingestIn sp).foldl State.restartReading s) ∧ exec (.jobFault k (.status sc)) s = .next s) ∧
    (∀ us m j h, s.engines[e].state = .running → s.engines[e].job = some (k, 0) → s.engines[e].ctx.npOpen = some us →
      s.mold.mold = some m → s.job k = some j → m.shop j.shop = some h →
      (h.c0 = true →
        (ran - s.npWaited e ≤ us → exec (.nonpreOverrun e ran) s = .next s) ∧
        (us < ran - s.npWaited e →
          exec (.nonpreOverrun e ran) s = .next (s.overrun.faultJob k scNonpreOverrun (.engine e)))) ∧
      (h.c0 = false →
        (ran ≤ us → exec (.nonpreOverrun e ran) s = .next s) ∧
        (us < ran →
          let t := (s.overrun.charge k e.val (ran - us)).modEngine e fun x =>
            { x with ctx := { x.ctx with ran := x.ctx.ran + (ran - us) } }
          exec (.nonpreOverrun e ran) s = .next { t with sched := { t.sched with
            lagEngine := t.sched.lagEngine.set e (t.sched.lagEngine[e] + (ran - us)) } }))) ∧
    (s.engines[e].state ≠ .running → exec (.nonpreOverrun e ran) s = .next s) ∧
    ((s.sem shop.val n.val).holder = none → exec (.semOverrun shop n) s = .next s) ∧
    ((s.sem shop.val n.val).holder = some k →
      exec (.semOverrun shop n) s = .next (s.faultJob k scSemOverrun .scheduler)) ∧
    (∀ j, s.job k = some j →
      (j.cls = 0 → j.tJobUs ≠ 0 → j.state ≠ .waiting → j.quenchable = true → j.quenching = false →
        exec (.jobTimeCap k) s = .next (s.overrun.modJob k fun j => { j with quenching := true })) ∧
      (j.cls ≠ 0 ∨ j.tJobUs = 0 ∨ j.quenching = true → exec (.jobTimeCap k) s = .next s) ∧
      (j.quenching = false ∨ s.npRuns k = true → exec (.jobQuenchStop k) s = .next s) ∧
      (j.quenching = true → s.npRuns k = false →
        (∀ i, j.kind = .objGet i → exec (.jobQuenchStop k) s = .next ((s.refuse k scQuenched).dropJob k)) ∧
        ((∀ i, j.kind ≠ .objGet i) → j.state = .waiting → exec (.jobQuenchStop k) s = .next
          ((s.status k scQuenched 64 0 (s.answerHead j 7 scQuenched true false false 0)).dropJob k)) ∧
        ((∀ i, j.kind ≠ .objGet i) → j.state ≠ .waiting →
          (s.waitsSign j true = true → exec (.jobQuenchStop k) s = .next (s.waitSign k true)) ∧
          (s.waitsSign j true = false → exec (.jobQuenchStop k) s = .next
            (((s.produce j true).1.modJob j.key fun x => { x with hits := s.rankHits j }).endWith j.key scQuenched))))) ∧
    ((∀ j ∈ s.sched.jobs, j.gateOrder = none) → exec (.releaseGateAnswer none) s = .next s) ∧
    (∀ j, s.gateNext = some j → j.ending = none → j.cls ≠ 0 →
      exec (.releaseGateAnswer none) s = .next ((s.success j.key (s.answer j).length 0 (s.answer j)).endJob j.key)) ∧
    (∀ j, s.gateNext = some j → j ∈ s.sched.jobs ∧ j.gateOrder ≠ none ∧
      ∀ x ∈ s.sched.jobs, x.gateOrder ≠ none → (x.cls = 0 → j.cls = 0) ∧
        ((x.cls = 0 ↔ j.cls = 0) → j.gateOrder.getD 0 ≤ x.gateOrder.getD 0))

/-- An array instruction faults, waits for slot, drain or scoreboard with its stall counted, or issues whole; its last
write leaves the drain (R98, R99, R100, R101, R102, R103, R107, R108, R116, R136, R143). -/
def Obligations.ArrayInstructionsIssueInOrder : Prop :=
  ∀ (s : State) (e : EngineId) (w : BitVec 128) (k : Key),
    let row (n : Nat) : Instr := if n = 1 then .mmaWs e w else .mmaOs e w
    let x := s.engines[e]
    let stalled (f : Engine → Engine) : State := s.modEngine e fun x => if x.countEn then f x else x
    (s.executes e = none → exec (.mmaWs e w) s = .next s ∧ exec (.mmaOs e w) s = .next s ∧
      exec (.feederSlotFill e w) s = .next s) ∧
    (∀ n, n = 1 ∨ n = 2 → s.executes e = some k →
      let w' : BitVec 128 := BitVec.ofNat 128 (w.toNat - w.toNat % 256 + n)
      let o := arrayOp w'
      (∀ r, arrayFault x.broadcast o x.ctx.mask = some r → exec (row n) s = .next (s.engineFault e k r n)) ∧
      (∀ a c, arrayFault x.broadcast o x.ctx.mask = none → formatPair o.aFmt o.bFmt = some (a, c) →
        (x.ctx.slots = [] → exec (row n) s = .next (stalled fun x => { x with feedStall := (x.feedStall + 1) % 2 ^ 64 })) ∧
        ∀ sl rest, x.ctx.slots = sl :: rest →
          (sl.word ≠ w' → exec (row n) s =
            .next (stalled fun x => { x with feedStall := (x.feedStall + 1) % 2 ^ 64 })) ∧
          (∀ d, sl.word = w' → firstSkew sl.skew (recordSkew x o sl) = some d →
            exec (row n) s = .next (s.skewFault e k n d)) ∧
          (sl.word = w' → sl.skew = none → recordSkew x o sl = none → x.drain.length < 4 →
            (x.arrayHazard e (tileUnits o.shape o.tile o.tiles) = true → exec (row n) s =
              .next (stalled fun x => { x with sbStall := (x.sbStall + 1) % 2 ^ 64 })) ∧
            (x.arrayHazard e (tileUnits o.shape o.tile o.tiles) = false → ∃ y : Engine, ∃ d : DrainEntry,
              let swap := !x.broadcast && !o.reuseB
              let cells := loadCells x.ctx.shadow sl.b
              exec (row n) s = .next { s with engines := s.engines.set e y } ∧ y.ctx.slots = rest ∧
              y.ctx.pc = x.ctx.pc + 1 ∧ y.drain = x.drain ++ [d] ∧ d.word = w' ∧
              d.rows = (o.compute x.broadcast c sl
                (if x.broadcast then sl.b else if swap then cells else x.ctx.active)).rows ∧
              y.ctx.active = (if swap then cells else x.ctx.active) ∧
              y.ctx.shadow = (if swap then x.ctx.active else x.ctx.shadow) ∧ y.ctx.acc = x.ctx.acc ∧
              y.ctx.operand = x.ctx.operand ∧ y.state = x.state ∧ y.job = x.job ∧ y.vec = x.vec)))) ∧
    (s.executes e = some k → x.ctx.slots.length < 2 → (arrayOp w).op = 1 ∨ (arrayOp w).op = 2 →
      arrayFault x.broadcast (arrayOp w) x.ctx.mask = none →
      meets (arrayOp w).granules (x.busyGranules e) = false →
      exec (.feederSlotFill e w) s = .next (match s.operandUe e (arrayOp w) with
        | some a => s.scratchUe e k 0 a
        | none => s.modEngine e fun x =>
            { x with ctx := { x.ctx with slots := x.ctx.slots ++ [stageSlot x.ctx w] } })) ∧
    (s.executes e = some k → 2 ≤ x.ctx.slots.length ∨ meets (arrayOp w).granules (x.busyGranules e) = true →
      exec (.feederSlotFill e w) s = .next s) ∧
    (x.drain = [] → exec (.arrayLastWrite e) s = .next s) ∧
    (∀ d rest k u p, x.drain = d :: rest → x.job = some (k, u) → (arrayOp d.word).clear = false →
      (s.drainUes e d.offsets).head? = some p → exec (.arrayLastWrite e) s = .next (s.scratchUe e k 1 p)) ∧
    (∀ d rest, x.drain = d :: rest → x.job = none ∨ s.mem.poisoned = [] → ∃ y : Engine,
      exec (.arrayLastWrite e) s = .next { s with engines := s.engines.set e y } ∧ y.drain = rest ∧
      y.ctx.acc = (d.rows.zipIdx.foldl (drainRow (arrayOp d.word)) (x.ctx.acc, 0, 0)).1 ∧
      y.ctx.operand = x.ctx.operand ∧ y.state = x.state ∧ y.job = x.job ∧ y.vec = x.vec ∧ y.xfers = x.xfers)

/-- A fifth array instruction waits for the drain queue and is counted; an instruction leaves the queue with its last
row written (R100). -/
def Obligations.TheDrainQueueHoldsFour : Prop :=
  ∀ (s : State) (e : EngineId) (w : BitVec 128) (k : Key) (a : Nat) (c : RateClass) (sl : Slot) (rest : List Slot),
    let x := s.engines[e]
    let w' : BitVec 128 := BitVec.ofNat 128 (w.toNat - w.toNat % 256 + 1)
    let o := arrayOp w'
    (s.executes e = some k → arrayFault x.broadcast o x.ctx.mask = none → formatPair o.aFmt o.bFmt = some (a, c) →
      x.ctx.slots = sl :: rest → sl.word = w' → sl.skew = none → recordSkew x o sl = none →
      (4 ≤ x.drain.length → exec (.mmaWs e w) s = .next (s.modEngine e fun x =>
        if x.countEn then { x with drainStall := (x.drainStall + 1) % 2 ^ 64 } else x)) ∧
      (x.drain.length < 4 → ∃ t, exec (.mmaWs e w) s = .next t ∧ t.engines[e].drainStall = x.drainStall ∧
        t.engines[e].drain.length ≤ 4)) ∧
    (∀ d ds, x.drain = d :: ds → s.drainUes e d.offsets = [] → ∃ t, exec (.arrayLastWrite e) s = .next t ∧ t.engines[e].drain = ds ∧
      t.engines[e].ctx.acc = (d.rows.zipIdx.foldl (drainRow (arrayOp d.word)) (x.ctx.acc, 0, 0)).1)

/-- VOP, VRED and VCVT fault, wait or run: each element by its operation, the destination written, the instruction
queued (R112, R113, R115, R116, R124, R149, R153, R154). -/
def Obligations.VectorInstructionsRun : Prop :=
  ∀ (s : State) (e : EngineId) (a : VopArgs) (r : VredArgs) (w : BitVec 128),
    exec (.vectorInstructionComplete e) s = .next (s.modEngine e fun x => { x with vec := x.vec.drop 1 }) ∧
    (s.executes e = none → exec (.vop e a) s = .next s ∧ exec (.vred e r) s = .next s ∧
      exec (.vcvt e w) s = .next s) ∧
    ∀ k, s.executes e = some k →
      (let srcs := ([a.srcA, a.srcB, a.srcC].take (vopArity a.kind)).map fun l => (l, a.len)
      let n := if a.kind = .cmp ∨ a.kind = .select then a.len else 0
      let out := (List.range a.len).map fun i => vopElem a.kind ((s.vecRead e a.srcA a.len).getD i 0)
        ((s.vecRead e a.srcB a.len).getD i 0) ((s.vecRead e a.srcC a.len).getD i 0) ((s.freshN n).1.getD i 0)
      let events : Nat := (out.filter fun v => v.2).length
      let entry : VecEntry := { reads := srcs.flatMap (fun p => vecUnits p.1 p.2), writes := vecUnits a.dst a.len
                                granules := vecGranules e a.dst (4 * a.len) }
      (1024 < cdiv a.len (vopRate a.kind) → exec (.vop e a) s = .next (s.engineFault e k erShapeRange 0x10)) ∧
      (cdiv a.len (vopRate a.kind) ≤ 1024 → exec (.vop e a) s = .next (match s.vecGate e srcs (a.dst, a.len) with
        | .fault f => s.engineFault e k f 0x10
        | .ue p => s.scratchUe e k 2 p
        | .wait => s
        | .go => (({ s with free := s.free + n } : State).modEngine e fun x =>
            ({ x with ctx := x.ctx.flagBy causeVecOvf events x.ctx.pc } : Engine).vecIssue entry
              (cdiv a.len (vopRate a.kind))).vecWrite e k a.dst (out.flatMap fun v => le 4 v.1.toNat) 0))) ∧
      (6 ≤ r.op.toNat → exec (.vred e r) s = .next (s.engineFault e k erIllegalOpcode 0x11)) ∧
      (∀ m, vredWidth r.op.toNat = some m →
        let n := r.rowLen * r.rows
        let out := (List.range r.rows).map fun i =>
          vredRow r.op.toNat (((s.vecRead e r.src n).drop (i * r.rowLen)).take r.rowLen) (s.fresh.1.setWidth 32)
        let events : Nat := (out.map fun v => v.2).sum
        let entry : VecEntry := { reads := vecUnits r.src n, writes := vecUnits r.dst (m * r.rows)
                                  granules := vecGranules e r.dst (4 * m * r.rows) }
        (1024 < r.rows * (cdiv r.rowLen 512 + 9) → exec (.vred e r) s = .next (s.engineFault e k erShapeRange 0x11)) ∧
        (r.rows * (cdiv r.rowLen 512 + 9) ≤ 1024 → exec (.vred e r) s = .next (match s.vecGate e [(r.src, n)] (r.dst, m * r.rows) with
          | .fault f => s.engineFault e k f 0x11
          | .ue p => s.scratchUe e k 2 p
          | .wait => s
          | .go => (({ s with free := s.free + 1 } : State).modEngine e fun x =>
              ({ x with ctx := x.ctx.flagBy causeVecOvf events x.ctx.pc } : Engine).vecIssue entry
                (r.rows * (cdiv r.rowLen 512 + 9))).vecWrite e k r.dst (out.flatMap fun v => v.1.flatMap fun x => le 4 x.toNat) 0))) ∧
      (let o := cvtOp w
      (∀ f, o.fault = some f → exec (.vcvt e w) s = .next (s.engineFault e k f 0x12)) ∧
      (o.fault = none → o.scaleSrc = 0 →
        let reads := (o.ranges e false).1
        let writes := (o.ranges e false).2
        let x := s.engines[e]
        let units := if o.srcAcc then tileUnits o.shape (o.srcAddr % 256) (cdiv o.rows 128) else []
        ((∃ p ∈ reads, s.worldBreak e p.1 p.2 false = true) ∨ (∃ p ∈ writes, s.worldBreak e p.1 p.2 true = true) →
          exec (.vcvt e w) s = .next (s.engineFault e k erWorld 0x12)) ∧
        ((∀ p ∈ reads, s.worldBreak e p.1 p.2 false = false) → (∀ p ∈ writes, s.worldBreak e p.1 p.2 true = false) →
          s.mem.poisoned = [] →
          (4 ≤ x.vec.length ∨ x.vectorHazard e units = true ∨
              meets (writes.flatMap fun p => granulesOf p.1 p.2) x.sampled = true → exec (.vcvt e w) s = .next s) ∧
          (x.vec.length < 4 → x.vectorHazard e units = false →
            meets (writes.flatMap fun p => granulesOf p.1 p.2) x.sampled = false → isMx o.dst = false →
            let c := x.ctx
            let tensor := BitVec.ofNat 16 (unle (c.operand.readBytes (o.scaleAddr * unitBytes) 2))
            let out := (List.range o.rows).foldl (o.row c tensor s.fresh.1)
              { data := [], scales := [], rng := (x.localOf k).rng, ovf := 0, sat := 0, badScale := 0 }
            ∃ t : State, exec (.vcvt e w) s =
                .next (t.vecWrite e k { acc := false, off := o.dstAddr * unitBytes } out.data o.tag) ∧
              t = { s with engines := s.engines.set e t.engines[e], free := s.free + 2 } ∧
              t.engines[e].ctx.pc = c.pc + 1 ∧ t.engines[e].ctx.operand = c.operand ∧
              t.engines[e].vec.length = x.vec.length + 1 ∧
              t.engines[e].locals = updWhere x.locals (fun l => l.key == k) fun l => { l with rng := out.rng }))))

/-- BR, NP_BEGIN, NP_END, FENCE, SEM_REL and illegal opcodes act as Table 4-9 says on an Engine that executes a job
(R87, R88, R114, R116). -/
def Obligations.BranchesFencesAndCommands : Prop :=
  ∀ (s : State) (e : EngineId) (off : BitVec 16) (n us : Nat) (op : Byte) (cond : BrCond),
    let x := s.engines[e]
    let target : Nat := (((x.ctx.pc : Int) + off.toInt) % 1572864).toNat
    let goes (p : Nat) : Prop :=
      exec (.br e cond off) s = .next (s.modEngine e fun x => { x with ctx := { x.ctx with pc := p } })
    (s.executes e = none → exec (.br e cond off) s = .next s ∧ exec (.npBegin e us) s = .next s ∧
      exec (.npEnd e) s = .next s ∧ exec (.fence e) s = .next s ∧ exec (.semAcq e n) s = .next s ∧
      exec (.semAcquired e n) s = .next s ∧ exec (.semRel e n) s = .next s ∧
      exec (.illegalOpcode e op) s = .next s) ∧
    ∀ k j, s.executes e = some k → s.job k = some j →
      (cond = .always → goes target) ∧ (cond = .semBroken → goes (if x.ctx.semBroken then target else x.ctx.pc + 1)) ∧
      (cond = .overflow → goes (if x.ctx.causes = 0 then x.ctx.pc + 1 else target)) ∧
      (cond = .loop → ∃ t, exec (.br e cond off) s = .next t ∧
        t = { s with engines := s.engines.set e t.engines[e], free := s.free + 1 } ∧
        (t.engines[e].ctx.pc = target ∨ t.engines[e].ctx.pc = x.ctx.pc + 1)) ∧
      (us ≤ j.nonpreUs → x.ctx.npOpen = none → exec (.npBegin e us) s = .next (s.modEngine e fun x =>
        { x with ctx := { x.ctx with npOpen := some us, npStart := s.clockUs, npWait := 0, pc := x.ctx.pc + 1 } })) ∧
      (j.nonpreUs < us ∨ x.ctx.npOpen ≠ none →
        exec (.npBegin e us) s = .next (s.engineFault e k erNpRange 0x38)) ∧
      (x.ctx.npOpen ≠ none → exec (.npEnd e) s = .next ((s.modEngine e fun x =>
        { x with ctx := { x.ctx with npOpen := none, npStart := 0, npWait := 0, pc := x.ctx.pc + 1 } }).retryPreempt e)) ∧
      (x.ctx.npOpen = none → exec (.npEnd e) s = .next (s.engineFault e k erNpRange 0x39)) ∧
      (x.drain = [] → x.vec = [] → x.xfers = [] → x.tsBuffer = [] → exec (.fence e) s = .next (s.modEngine e fun x =>
        { x with ctx := { x.ctx with pc := x.ctx.pc + 1 } })) ∧
      (x.drain ≠ [] ∨ x.vec ≠ [] ∨ x.xfers ≠ [] ∨ x.tsBuffer ≠ [] → exec (.fence e) s = .next s) ∧
      (n < 64 → (s.sem j.shop n).holder = some k → exec (.semRel e n) s = .next
        (((s.setSem { s.sem j.shop n with holder := none }).modEngine e fun x =>
          { x with ctx := { x.ctx with pc := x.ctx.pc + 1 } }).retryPreempt e)) ∧
      (64 ≤ n ∨ (s.sem j.shop n).holder ≠ some k →
        exec (.semRel e n) s = .next (s.engineFault e k erSemRange 0x31)) ∧
      (op.toNat ∉ [0x01, 0x02, 0x08, 0x10, 0x11, 0x12, 0x20, 0x28, 0x30, 0x31, 0x38, 0x39, 0x3F] →
        exec (.illegalOpcode e op) s = .next (s.engineFault e k erIllegalOpcode op.toNat)) ∧
      (op.toNat ∈ [0x01, 0x02, 0x08, 0x10, 0x11, 0x12, 0x20, 0x28, 0x30, 0x31, 0x38, 0x39, 0x3F] →
        exec (.illegalOpcode e op) s = .next s)

/-- A job acquires only semaphores of its mask; a broken one sets SEM_BROKEN and adds 1 to BROKEN_SEMS; a held one is
waited for (R207). -/
def Obligations.SemaphoresFollowTheMask : Prop :=
  ∀ (s : State) (e : EngineId) (n : Nat) (k : Key) (j : Job), s.executes e = some k → s.job k = some j →
    let x := s.sem j.shop n
    let taken (t : State) : Prop :=
      (t.sem j.shop n).holder = some k ∧ (t.sem j.shop n).broken = false ∧
      t.engines[e].ctx.semBroken = (x.broken || s.engines[e].ctx.semBroken) ∧
      t.engines[e].ctx.pc = s.engines[e].ctx.pc + 1 ∧
      (∀ i, t.job k = some i → i.brokenSems = if x.broken then satAdd 16 j.brokenSems 1 else j.brokenSems) ∧
      (∀ f : EngineId, f ≠ e → t.engines[f] = s.engines[f]) ∧ t.engines[e].ctx.operand = s.engines[e].ctx.operand ∧
      t.engines[e].ctx.acc = s.engines[e].ctx.acc ∧ t = { s with engines := t.engines, sched := t.sched }
    (64 ≤ n ∨ j.semMask.getLsbD n = false →
      exec (.semAcq e n) s = .next (s.engineFault e k erSemRange 0x30) ∧
      (s.engineReason e erSemRange 0x30).engines[e].reason = 9 ∧
      (s.engineFault e k erSemRange 0x30) = (s.engineReason e erSemRange 0x30).faultJob k scEngineFault (.engine e)) ∧
    (j.semMask.getLsbD n = true →
      (x.holder = none → ∃ t, exec (.semAcq e n) s = .next t ∧ taken t) ∧
      (x.holder ≠ none → exec (.semAcq e n) s =
        .next (s.setSem { x with waiters := insertNew x.waiters (k, e) }))) ∧
    (x.holder = none → (k, e) ∈ x.waiters → ∃ t, exec (.semAcquired e n) s = .next t ∧ taken t) ∧
    (x.holder ≠ none ∨ (k, e) ∉ x.waiters → exec (.semAcquired e n) s = .next s)

/-- XFER starts and ends, SETMASK loads mask and side weights, a Touchstone sample acts by TOUCHSTONE_ACT, each with its
faults (R110, R111, R114, R115, R116, R141, R167, R168, R169). -/
def Obligations.TransfersMasksAndTouchstone : Prop :=
  ∀ (s : State) (e : EngineId) (a : XferArgs) (mask side rows us : Nat),
    (s.executes e = none → exec (.xfer e a) s = .next s ∧ exec (.setmask e mask side rows) s = .next s) ∧
    (∀ k, s.executes e = some k →
      (xferEnds a = none → exec (.xfer e a) s = .next (s.engineFault e k erOperandRange 0x20)) ∧
      (∀ x, xferEnds a = some x →
        (s.worldBreak e x.src x.len false = true ∨ s.worldBreak e x.dst x.len true = true →
          exec (.xfer e a) s = .next (s.engineFault e k erWorld 0x20)) ∧
        (s.worldBreak e x.src x.len false = false → s.worldBreak e x.dst x.len true = false →
          exec (.xfer e a) s = .next
            (if s.engines[e].xferHazard e (endUnits e x.src x.len) (endUnits e x.dst x.len) then s
            else (s.modEngine e fun y =>
              { y with xfers := y.xfers ++ [x], ctx := { y.ctx with pc := y.ctx.pc + 1 } }).takeCredit k e.val))) ∧
      (mask > 49151 ∨ side > 49151 ∨ mask * 512 + 32 > 25165824 ∨ side * 512 + 256 * rows > 25165824 →
        exec (.setmask e mask side rows) s = .next (s.engineFault e k erOperandRange 0x08)) ∧
      (mask ≤ 49151 → side ≤ 49151 → mask * 512 + 32 ≤ 25165824 → side * 512 + 256 * rows ≤ 25165824 →
        (64 < rows → exec (.setmask e mask side rows) s = .next (s.engineFault e k erOutlierRange 0x08)) ∧
        (rows ≤ 64 → s.mem.poisoned = [] → ∃ y : Engine,
          exec (.setmask e mask side rows) s = .next { s with engines := s.engines.set e y } ∧
          y.ctx.mask = BitVec.ofNat 256 (unle (s.engines[e].ctx.operand.readBytes (mask * 512) 32)) ∧
          y.ctx.side.length = 128 * rows ∧
          (∀ i < 128 * rows, y.ctx.side.getD i 0 = BitVec.ofNat 16
            (field (s.engines[e].ctx.operand.readBytes (side * 512) (256 * rows)) (2 * i) 2)) ∧
          y.ctx.slots = (s.engines[e].ctx.slots.takeWhile fun l => !(arrayOp l.word).outlier) ∧
          y.ctx.operand = s.engines[e].ctx.operand ∧ y.ctx.acc = s.engines[e].ctx.acc ∧
          y.ctx.pc = s.engines[e].ctx.pc + 1))) ∧
    (∀ x, xferEnds a = some x → x.len = a.len ∧ x.tag = a.tag ∧ a.len ≤ 262144 ∧ tierAddr a.src = some x.src ∧
      tierAddr a.dst = some x.dst) ∧
    (s.engines[e].xfers = [] ∨ s.engines[e].job = none → exec (.xferComplete e) s = .next s) ∧
    (∀ x rest k u, s.engines[e].xfers = x :: rest → s.engines[e].job = some (k, u) →
      (s.readWaits x.src x.len = true → exec (.xferComplete e) s = .next (s.joinRefetch e k x.src x.len)) ∧
      (s.readWaits x.src x.len = false → s.writeWaits x.dst x.len = true → exec (.xferComplete e) s = .next s) ∧
      (s.readWaits x.src x.len = false → s.writeWaits x.dst x.len = false → s.mem.poisoned = [] →
        let t := (((s.modEngine e fun y => { y with xfers := rest }).returnCredit k e.val).touchRange x.src
          x.len).engineWrite e k x.dst (s.readThrough x.src x.len)
        exec (.xferComplete e) s = .next (match x.dst.space with
          | .operand d => t.modEngine d fun y =>
              { y with ctx := y.ctx.stamp (unitsOf x.dst.off (x.dst.off % 512 + x.len)) x.tag }
          | _ => t))) ∧
    (s.engines[e].job = none ∨ s.engines[e].tsBuffer = [] → exec (.touchstoneSampleDone e us) s = .next s) ∧
    (∀ k u j r rest, s.engines[e].job = some (k, u) → s.job k = some j → s.engines[e].tsBuffer = r :: rest →
      let t := (s.modEngine e fun x =>
        if x.countEn then { x with tsBuffer := rest, vecCycles := (x.vecCycles + 32 * r.k) % 2 ^ 64 }
        else { x with tsBuffer := rest }).charge k e.val us
      (r.over j.tol 1 = 0 → exec (.touchstoneSampleDone e us) s = .next t) ∧
      (r.over j.tol 1 ≠ 0 → s.engines[e].tsThisStroke = true → ∀ m, s.mold.mold = some m →
        let v := t.modEngine e fun x => { x with tsSuppressed := satAdd 16 x.tsSuppressed 1 }
        exec (.touchstoneSampleDone e us) s = .next
          (if m.tsAct = 1 then v.faultJob k scTouchstoneFail (.engine e)
          else if m.tsAct = 2 ∧ j.cls ≠ 0 then
            v.modEngine e fun x => { x with ctx := x.ctx.flagBy causeTouchstone 1 r.word }
          else v)))

/-- INT32 accumulation saturates and FP32 accumulation rounds once; a store reads back what was written, zero where
nothing was (R107, R109, R171, R172, R173). -/
def Obligations.AccumulationAndStores : Prop :=
  (∀ (o : ArrayOp) (old new : Word32),
    (o.clear = true → drainValue o old new = (new, 0, 0)) ∧
    (o.clear = false → o.accFmt = 9 →
      (drainValue o old new).1.toInt = max (-(2 ^ 31)) (min (2 ^ 31 - 1) (old.toInt + new.toInt)) ∧
      ((drainValue o old new).2.1 = if -(2 ^ 31) ≤ old.toInt + new.toInt ∧ old.toInt + new.toInt ≤ 2 ^ 31 - 1 then 0 else 1) ∧
      (drainValue o old new).2.2 = 0) ∧
    (o.clear = false → o.accFmt ≠ 9 →
      drainValue o old new = (BitVec.ofNat 32 (fmtFp32.encode ((f32v old).add (f32v new)) false).1, 0,
        b2n (fmtFp32.encode ((f32v old).add (f32v new)) false).2))) ∧
  ∀ (line : Nat) (m : Store) (a b : Nat) (v : Byte) (bs : List Byte) (p : Nat → Bool), 0 < line →
    (m.invalidate line p).read b = (if p (b / line) then 0 else m.read b) ∧ Store.empty.read b = 0 ∧
    (m.wf line = true →
      (m.write line a v).read a = v ∧ (b ≠ a → (m.write line a v).read b = m.read b) ∧
      (m.writeBytes line a bs).readBytes a bs.length = bs ∧
      (b < a ∨ a + bs.length ≤ b → (m.writeBytes line a bs).read b = m.read b))

/-- A finite value of FP32, BF16, FP16, E4M3, E5M2 or E2M1 converts to its own format as its own code, without an event
(R121, R123, R124, R125, R131). -/
def Obligations.ExactValuesConvertExactly : Prop :=
  ∀ f ∈ [fmtFp32, fmtBf16, fmtFp16, fmtE4m3, fmtE5m2, fmtE2m1], ∀ (neg : Bool) (mag : Nat),
    (mag ≤ f.maxMag →
      let w := f.signed neg mag
      f.encode (f.decode w) false = (w, false) ∧ f.encodeSat (f.decode w) false = (w, false)) ∧
    f.encode .nan false = (f.maxMag + 1 + 2 ^ (f.frac - 1), false) ∧ f.encodeSat .nan false = (0, true) ∧
    f.encodeSat (.inf neg) false = (f.signed neg f.maxMag, true)

/-- A page read counts by its step and remembers its threshold set; patrol, ZQ calibration and DQ training act on a
Bench that may issue (R273, R274, R286, R288, R289, R291). -/
def Obligations.PagesAreReadAndTrained : Prop :=
  ∀ (s : State) (b : BenchId) (p : PhysPage) (r : Reader) (g : Fin 17) (n : Fin 16) (cws : List Nat) (d : Fin 8),
    let f := s.flash[b]
    let k := f.blk p.blk
    let blocked := s.nandOk b = false ∨ k.state = .erasing ∨ k.state = .suspended ∨ k.rows ≤ p.row ∨ f.readStops p = true
    let counted : State := s.modFlash b fun f =>
      ({ f with pagesRead := (f.pagesRead + 1) % 2 ^ 64, readQueue := f.readQueue.erase (p.blk.die, r) } : Flash).modBlk p.blk fun k => { k with reads := k.reads + 1 }
    (blocked → ∀ o, exec (.pageRead b p r o) s = .next s) ∧
    (f.dieDead p.blk.die.val = true → ∀ o, exec (.pageRead b p r o) s =
      exec (.pageRead b p r (.uncorrectable (List.range 33))) s) ∧
    (¬blocked → f.dieDead p.blk.die.val = false →
      exec (.pageRead b p r .step1) s = .next counted ∧
      exec (.pageRead b p r (.retry n)) s = .next ((counted.modFlash b fun f =>
        ({ f with retryReads := (f.retryReads + 1) % 2 ^ 64 } : Flash).modBlk p.blk fun k =>
          { k with good := (k.good + n.val + 1) % 17, worn := k.worn || decide (8 ≤ n.val) }).readSlow b r (f.ident p)) ∧
      exec (.pageRead b p r (.soft g)) s = .next ((counted.modFlash b fun f =>
        ({ f with retryReads := (f.retryReads + 1) % 2 ^ 64, softReads := (f.softReads + 1) % 2 ^ 64 } : Flash).modBlk
          p.blk fun k => { k with good := g.val, worn := true }).readSlow b r (f.ident p)) ∧
      exec (.pageRead b p r (.uncorrectable cws)) s = .next (((counted.modFlash b fun f =>
        { f with retryReads := (f.retryReads + 1) % 2 ^ 64, softReads := (f.softReads + 1) % 2 ^ 64 }).readSlow b r
          (f.ident p)).readFailed b p r cws)) ∧
    (let h := f.patrolPass s.clockUs
     (f.patrolEn = true → k.state = .open ∨ k.state = .full → p.row < k.next → s.mediaFree b = true →
        f.fillerAt p = none → p ∉ h.patrolSeen → exec (.patrolRead b p) s = .next (s.modFlash b fun _ =>
          { h with patrolPages := (f.patrolPages + 1) % 2 ^ 64, patrolSeen := p :: h.patrolSeen })) ∧
      (f.patrolEn = false ∨ k.next ≤ p.row ∨ s.mediaFree b = false ∨ f.fillerAt p ≠ none ∨ p ∈ h.patrolSeen →
        exec (.patrolRead b p) s = .next s)) ∧
    (s.nandPowered b = true → s.inC0Window b = false → d ∉ f.failedDies →
      exec (.zqCalibration b d) s = .next (s.modFlash b fun f => { f with lastZq := f.lastZq.set d s.clockUs }) ∧
      exec (.dqTraining b d true) s = .next (s.modFlash b fun f =>
        { f with lastDq := f.lastDq.set d s.clockUs, trainFails := f.trainFails.set d 0 }) ∧
      (let t := s.modFlash b fun f => { f with trainFails := f.trainFails.set d (f.trainFails[d] + 1) }
      exec (.dqTraining b d false) s = .next (if f.trainFails[d] < 2 then t else t.failDie b d))) ∧
    (s.nandPowered b = false ∨ s.inC0Window b = true ∨ d ∈ f.failedDies →
      exec (.zqCalibration b d) s = .next s ∧ ∀ pass, exec (.dqTraining b d pass) s = .next s)

/-- Stream pages program into their append block, erases wait for their users, urgent reads suspend at once and others
after 1 ms (R215, R279, R282, R283, R284, R286, R291). -/
def Obligations.ProgramsAndErasesRunAndSuspend : Prop :=
  ∀ (s : State) (b : BenchId) (d : Fin 8) (i : BlockId) (r : Reader) (list : Nat) (st : Fin 5) (p : PhysPage) (n : Nat),
    let f := s.flash[b]
    let k := f.blk i
    (s.lst list = none → exec (.streamPageProgram b list st) s = .next s) ∧
    (∀ l c, s.lst list = some l → s.coll l.coll = some c → l.bench = b →
      l.fullOf st.val < l.streamBytes c.dims st.val / 16384 → s.nandOk b = true → s.benchKept b = false → f.ops = [] →
      exec (.streamPageProgram b list st) s = .next
        (match f.issue s.search.epoch s.clockUs
            { kind := 1, stream := st.val, content := list, index := l.fullOf st.val, origin := none } with
        | some f => s.modFlash b fun _ => f
        | none => s)) ∧
    (∀ o x, f.ops.find? (fun o => o.ident.any fun x => x.page == p) = some o → o.ident = some x →
      (o.suspended = true → ∀ pass, exec (.nandProgramComplete b p pass n) s = .next s) ∧
      (o.suspended = false →
        let t := s.modFlash b fun f => { f with ops := f.ops.filter fun y => y != o }
        exec (.nandProgramComplete b p true n) s = .next (t.streamPageDone b x) ∧
        exec (.nandProgramComplete b p false n) s = .next
          (let u := t.retireBlock b p.blk 0 p.row (some x) ((f.validIn p.blk).take n)
          match u.flash[b].issue u.search.epoch u.clockUs x.copy with
          | some f => u.modFlash b fun _ => f
          | none => u))) ∧
    (f.ops.find? (fun o => o.ident.any fun x => x.page == p) = none → exec (.nandProgramComplete b p true n) s = .next s) ∧
    (k.state = .full ∨ k.state = .eraseIncomplete → f.validIn i = [] → (∀ t ∈ f.stripes, i ∉ t.blocks) →
      f.rawBusy = false ∨ rawTarget f.rawAddr ≠ some i → (∀ w ∈ s.search.sweeps, w.bench ≠ b) → f.busy i.die = false → s.nandOk b = true → s.benchKept b = false →
      exec (.blockEraseStart b i) s = .next (s.modFlash b fun f =>
        ({ f with ops := f.ops ++ [{ block := i, ident := none, resumedUs := s.clockUs, suspended := false }] } :
          Flash).modBlk i fun k => { k with state := .erasing })) ∧
    ((k.state ≠ .full ∧ k.state ≠ .eraseIncomplete) ∨ f.validIn i ≠ [] ∨ (∃ t ∈ f.stripes, i ∈ t.blocks) ∨
      (f.rawBusy = true ∧ rawTarget f.rawAddr = some i) ∨ (∃ w ∈ s.search.sweeps, w.bench = b) → exec (.blockEraseStart b i) s = .next s) ∧
    (∀ o, f.ops.find? (fun o => o.block == i && o.ident.isNone) = some o → o.suspended = false →
      let t := s.modFlash b fun f => { f with ops := f.ops.filter fun y => y != o }
      exec (.nandEraseComplete b i true n) s = .next (t.modFlash b fun f =>
        ({ f with erases := (f.erases + 1) % 2 ^ 64, fillers := f.fillers.filter fun x => x.blk != i } : Flash).modBlk i fun k =>
          { k with state := .free, erases := k.erases + 1, reads := 0, next := 0, role := 0, worn := false }) ∧
      exec (.nandEraseComplete b i false n) s = .next (t.retireBlock b i 1 0 none ((f.validIn i).take n))) ∧
    (f.ops.find? (fun o => o.block == i && o.ident.isNone) = none →
      ∀ pass, exec (.nandEraseComplete b i pass n) s = .next s) ∧
    (∀ o, f.ops.find? (fun o => o.block.die == d && !o.suspended) = some o → s.nandLow b = false →
      ((r = .c0 ∨ r = .flush ∨ (∃ c, r = .refetch c)) ∨ o.resumedUs + 1000 ≤ s.clockUs →
        exec (.nandSuspend b d r) s = .next (s.modFlash b fun f =>
          ({ f with suspends := satAdd 32 f.suspends 1, readQueue := f.readQueue ++ [(d, r)] } : Flash).setOp o { o with suspended := true })) ∧
      (r ≠ .c0 → r ≠ .flush → (∀ c, r ≠ .refetch c) → s.clockUs < o.resumedUs + 1000 →
        exec (.nandSuspend b d r) s = .next s)) ∧
    (f.ops.find? (fun o => o.block.die == d && !o.suspended) = none → exec (.nandSuspend b d r) s = .next s) ∧
    (∀ o, f.ops.find? (fun o => o.block.die == d && o.suspended) = some o → s.nandLow b = false →
      ((∀ r ∈ f.readQueue, r.1 ≠ d) → exec (.nandResume b d) s = .next (s.modFlash b fun f =>
        f.setOp o { o with suspended := false, resumedUs := s.clockUs })) ∧
      ((∃ r ∈ f.readQueue, r.1 = d) → exec (.nandResume b d) s = .next s)) ∧
    (f.ops.find? (fun o => o.block.die == d && o.suspended) = none → exec (.nandResume b d) s = .next s) ∧
    ∀ us, exec (.appendWaitResume ⟨b, us⟩) s = exec (.markWaitResume ⟨b, us⟩) s

/-- Fold, consolidation, garbage collection, wear levelling and refresh move pages when their conditions hold; a NAND
brown-out stops the Bench (R280, R281, R287, R288, R291). -/
def Obligations.MediaMovesAndBrownOuts : Prop :=
  ∀ (s : State) (b : BenchId) (d : Fin 8) (i : BlockId) (list : Nat) (st : Fin 5) (g : DieId),
    let f := s.flash[b]
    let moved (o : Option Flash) : State := match o with
      | some f => s.moveTo b f
      | none => s
    let fit (l : Lst) : Flash := f.fitExtent s.search.epoch (f.idents.filter (f.single l st.val))
    (s.mediaFree b = false → exec (.fold b) s = .next s ∧ exec (.consolidation b list st) s = .next s ∧
      exec (.garbageCollection b) s = .next s ∧ exec (.wearLevelMove b d) s = .next s ∧
      exec (.blockRefresh b i) s = .next s) ∧
    (s.mediaFree b = true →
      ((∀ x ∈ f.idents, ¬(x.kind = 0 ∧ f.inRole roleStaging x = true)) → exec (.fold b) s = .next s) ∧
      (∀ x, f.idents.reverse.find? (fun x => x.kind == 0 && f.inRole roleStaging x) = some x →
        exec (.fold b) s = .next (moved (f.moveQlc false s.search.epoch fun y =>
          y.kind == 0 && y.content == x.content && f.inRole roleStaging y))) ∧
      (s.lst list = none → exec (.consolidation b list st) s = .next s) ∧
      (∀ l h, s.lst list = some l → l.bench = b → 32 ≤ (f.idents.filter (f.single l st.val)).length →
        (fit l).moveQlc false s.search.epoch (f.single l st.val) = some h → exec (.consolidation b list st) s =
          .next (s.moveTo b h)) ∧
      (64 ≤ f.minFree ∨ f.victim = none → exec (.garbageCollection b) s = .next s) ∧
      (∀ t, f.minFree < 64 → f.victim = some t → exec (.garbageCollection b) s =
        .next (match f.moveQlc true s.search.epoch fun x => t.blocks.contains x.page.blk with
          | some h => (s.moveTo b { h with stripes := h.stripes.filter fun u => u.num != t.num }).storeTables b
          | none => s)) ∧
      (f.mostPe d ≤ f.leastPe d + 200 → exec (.wearLevelMove b d) s = .next s) ∧
      (∀ k, f.leastPe d + 200 < f.mostPe d → f.blocks.find? (fun k => k.id.die == d && k.erases == f.leastPe d &&
          k.state == .full && !(f.validIn k.id).isEmpty) = some k →
        exec (.wearLevelMove b d) s = .next (if (f.vacate false s.search.epoch k.id []).2 = [] then
          s.moveTo b ((f.vacate false s.search.epoch k.id []).1.unstripe s.search.epoch k.id) else s)) ∧
      ((f.blk i).due = false → exec (.blockRefresh b i) s = .next s) ∧
      ((f.blk i).due = true → (f.blk i).state = .open ∨ (f.blk i).state = .full →
        let v := ((f.fillBlock s.search.epoch i).unstripe s.search.epoch i).vacate true s.search.epoch i []
        exec (.blockRefresh b i) s = .next (if v.2 = [] then
          s.moveTo b (({ v.1 with refreshes := satAdd 32 v.1.refreshes 1 } : Flash).modBlk i fun k =>
            { k with worn := false, reads := 0 })
        else s))) ∧
    (s.power.holdupOk = true → ∀ h : Flash, (s.moveTo b h).flash[b] = h) ∧
    (∀ h : Flash, h.idents = f.idents → h.stripes = f.stripes → s.moveTo b h = s.modFlash b fun _ => h) ∧
    (∀ h : Flash, s.power.holdupOk = true → s.dirtyCount (quarterOfBench b) < s.dirtyLimit →
      f.stripes.map Stripe.blocks ≠ h.stripes.map Stripe.blocks →
      ∃ x ∈ (s.moveTo b h).mem.dirty, x.quarter = quarterOfBench b ∧ x.granule = stripeGranule b) ∧
    (Rail.nandVcc g ∈ s.power.rails → exec (.nandBrownout g) s = .next s) ∧
    (Rail.nandVcc g ∉ s.power.rails → ∃ t, exec (.nandBrownout g) s = .next t ∧
      t.power = { s.power with rails := insertNew s.power.rails (.nandVcc g) } ∧
      (∀ c : BenchId, dieOfBench c = g → t.flash[c] = { s.flash[c] with brownout := true } ∧ t.nandOk c = false) ∧
      ∀ c : BenchId, dieOfBench c ≠ g → t.flash[c] = s.flash[c]) ∧
    (Rail.nandVcc g ∉ s.power.rails → Rail.nandVccq g ∉ s.power.rails →
      exec (.nandSupplyRestored g []) s = .next s) ∧
    (Rail.nandVcc g ∈ s.power.rails ∨ Rail.nandVccq g ∈ s.power.rails → exec (.nandSupplyRestored g []) s = .next
      (((benchesOf g).foldl (fun (t : State) b => t.modFlash b fun f => (f.retrain s.clockUs).readBack)
        (s.modPower fun p => { p with rails := p.rails.filter fun r => r != .nandVcc g && r != .nandVccq g })).resumeGets
          fun b => dieOfBench b == g))

/-- A raw read of a block in ERASING or SUSPENDED is refused and counted with no NAND command; START while BUSY and a
bad address end at once (R285). -/
def Obligations.RawReadsOfErasingBlocksAreRefused : Prop :=
  ∀ (s : State) (b : BenchId) (hard : Fin 34) (data : List Byte),
    let f := s.flash[b]
    let only (g : Flash) : State := { s with flash := s.flash.set b g }
    (f.rawBusy = true → exec (.rawReadStart b) s = .next (only { f with cfgBusy := true })) ∧
    (f.rawBusy = false →
      (rawTarget f.rawAddr = none → exec (.rawReadStart b) s = .next (only { f with rawResult := 3 })) ∧
      ∀ i, rawTarget f.rawAddr = some i →
        ((f.blk i).state = .erasing ∨ (f.blk i).state = .suspended → exec (.rawReadStart b) s =
          .next (only { f with rawResult := 2, erasingRefused := satAdd 32 f.erasingRefused 1 })) ∧
        ((f.blk i).state ≠ .erasing → (f.blk i).state ≠ .suspended → exec (.rawReadStart b) s =
          .next (only { f with rawBusy := true, rawResult := 0 }))) ∧
    (f.rawBusy = true → s.nandPowered b = true → exec (.rawReadDone b hard data) s = .next (only
      { f with rawBusy := false, rawResult := 1, hardFail := hard.val, rawPage := List.zipWith (· ^^^ ·) (padTo 18432 (s.rawStored b)) (padTo 18432 data) })) ∧
    (f.rawBusy = false ∨ s.nandPowered b = false → exec (.rawReadDone b hard data) s = .next s) ∧
    (∀ w : Word32, rawTarget w = none ↔ 2730 < w.toNat / 32 % 4096 ∨
      (if w.toNat / 2 ^ 28 % 2 = 1 then 383 else 1535) < w.toNat / 2 ^ 17 % 2048)

/-- A query leaves its Engine with its vector and lists, is scanned with its sweeps, fetched Bench by Bench, and merged
into at most K hits (R216, R222, R223, R224, R225, R226, R429). -/
def Obligations.QueriesWalkScanAndMerge : Prop :=
  ∀ (s : State) (k : Key) (us list : Nat) (lost : List Nat) (b : BenchId) (gone : List (Nat × Nat)),
    (s.job k = none → exec (.graphWalkComplete k us) s = .next s ∧ exec (.fetchPhaseComplete b k us gone) s = .next s ∧
      exec (.hitMerge k) s = .next s) ∧
    (∀ j e ci c, s.job k = some j → j.kind = .query → j.front = some e → j.coll = some ci → s.coll ci = some c →
      (j.walked = true → exec (.graphWalkComplete k us) s = .next s) ∧
      (j.walked = false → j.quenching = false → s.engines[e].job = some (k, frontUnit) → s.engines[e].state = .running →
        let t := (((s.charge k e.val (us - s.engines[e].ctx.ran)).modEngine e (Engine.dropJob k)).modJob k fun j => { j with placed := [] }).startNext e
        (direction c.metric j.rawVector = none → exec (.graphWalkComplete k us) s = .next (t.endWith k scInvalidField)) ∧
        ∀ q, direction c.metric j.rawVector = some q → exec (.graphWalkComplete k us) s = .next (t.modJob k fun i =>
          { i with vector := q, targets := t.walkColl c q j.lists, walked := true }))) ∧
    ((∀ w ∈ s.search.sweeps, w.list = list → w.coded = true) → exec (.codePhaseComplete list us lost) s = .next s) ∧
    (∀ w₀ l w, s.search.sweeps.find? (fun w => w.list == list && !w.coded) = some w₀ → s.sweepList w₀ = some l →
      s.search.sweeps.find? (fun w => w.bench == l.bench && !w.coded) = some w →
      (w.list ≠ list → exec (.codePhaseComplete list us lost) s = .next s) ∧
      (w.list = list → s.benchOk l.bench = true → s.benchReady l.bench = true → s.drainsBench l.bench = false →
        ∃ t w', exec (.codePhaseComplete list us lost) s = .next t ∧
          t.search = { s.search with sweeps := updFirst s.search.sweeps (· == w) fun _ => w' } ∧ t.mem = s.mem ∧
          t.engines = s.engines ∧ w' = { w with coded := true, survivors := w'.survivors, counts := w'.counts } ∧
          ∀ p ∈ w'.survivors, p.1 ∈ w.queries ∧ ∃ j, s.job p.1 = some j ∧ p.2.length ≤ j.depth ∧
            ∀ i ∈ p.2, i ∈ s.eligible l j.snapshot ∧ i ∉ lost)) ∧
    (∀ j ci c, s.job k = some j → j.coll = some ci → s.coll ci = some c →
      let ws := s.search.sweeps.filter fun w => w.bench == b && w.queries.contains k
      (b ∉ j.benchesLeft ∨ (∃ w ∈ ws, w.coded = false) → exec (.fetchPhaseComplete b k us gone) s = .next s) ∧
      (j.quenching = false → b ∈ j.benchesLeft → (∀ w ∈ ws, w.coded = true) → s.benchOk b = true →
        s.benchReady b = true → s.drainsBench b = false →
        let t := s.charge k (benchRes b) us
        let lostHit := ws.any fun w => (lookupD w.survivors k []).any fun i => gone.contains (w.list, i)
        exec (.fetchPhaseComplete b k us gone) s = .next (((if lostHit then t.markPartial k else t).modJob k fun x =>
          { x with
            hits := x.hits ++ bestHits c.metric j.k (ws.flatMap (s.scoreSweep c j gone))
            candidates := x.candidates + (ws.map fun w => (lookupD w.counts k (0, 0)).1).sum
            skipped := x.skipped + (ws.map fun w => (lookupD w.counts k (0, 0)).2).sum
            benchesLeft := x.benchesLeft.filter fun y => y != b
            benchesDone := insertNew x.benchesDone b }).leaveBench b k))) ∧
    (∀ j, s.job k = some j →
      (j.kind = .query → j.walked = true → j.quenching = false → j.benchesLeft = [] → j.targets = [] ∨ j.sweepAt ≠ none →
        j.active = true → exec (.hitMerge k) s = .next ((s.modJob k fun x =>
          { x with hits := s.mergeHits j, ending := if j.partialMedia then some scMediaPartial else none }).toGate k)) ∧
      (j.walked = false ∨ j.benchesLeft ≠ [] → exec (.hitMerge k) s = .next s) ∧
      (s.mergeHits j).length ≤ j.k ∧ ∀ h ∈ s.mergeHits j, h ∈ j.hits)

/-- A Bench reads the first object of its queue or defers it, hands batches of passages to Engines, and takes their
vectors back (R249, R251, R253, R260). -/
def Obligations.ObjectsAreReadIntoBatches : Prop :=
  ∀ (s : State) (b : BenchId) (e : EngineId) (us : Nat) (es : List (Nat × Nat × Nat)) (vs : List (List F32)),
    let open_ := s.benches[b].reading = none ∧ s.benchOk b = true ∧ s.benches[b].state ≠ .off ∧ s.benchReady b = true ∧
      s.benchKept b = false ∧ s.drainsBench b = false ∧ s.workMay 2 (benchRes b) (s.readyOnBench b) = true
    let first := s.search.objs.find? fun o => o.bench == b && o.state == .pending && o.deleted.isNone
    let batches := s.benches[b].batches
    (s.benches[b].reading ≠ none ∨ first = none → exec (.objectReadStart ⟨b, us⟩) s = .next s) ∧
    (∀ o, open_ → first = some o →
      let q := quarterOfBench b
      let g := objectMapGranule o.id
      (s.canDirty q g 5 = false → exec (.objectReadStart ⟨b, us⟩) s = .next (s.dirtyThrough q g 5).1) ∧
      (s.canDirty q g 5 = true → s.readBlocked o ≠ 0 → exec (.objectReadStart ⟨b, us⟩) s = .next (((s.modObj o.id fun o =>
        { o with state := .deferred, reason := s.readBlocked o }).dirtyMap b o.id).warnBlocked o (s.readBlocked o))) ∧
      (∀ r, s.canDirty q g 5 = true → s.readBlocked o = 0 → s.readObject o = some r →
        let c := s.chargeWork 2 (s.ingestShopOf o.coll) (benchRes b) us
        let f := (c.modFlash b fun f => f.release fun x => x.kind == 2 && x.content == o.id).recountUsed b
        let t := (f.modObj o.id fun o =>
          { o with
            state := .reading, reason := 0, stop := r.stop, handed := o.appended, passages := r.passages
            notIndexed := 0, membersSkipped := r.skipped, fields := r.fields
            contentHash := match r.content with
              | some h => some h
              | none => o.contentHash }).modBench b fun x =>
          if x.countEn then
            { x with
              reading := some o.id, textBytes := satAdd 64 x.textBytes r.textBytes
              tokens := satAdd 64 x.tokens r.tokens }
          else { x with reading := some o.id }
        exec (.objectReadStart ⟨b, us⟩) s = .next (if r.passages = [] then
            t.endReading o.id (if r.stop = rrAuth ∧ r.begun = true then .partRead else .notRead) r.stop
          else t.dirtyMap b o.id))) ∧
    (s.benchReady b = false ∨ 7 ≤ batches.length ∨ s.entriesOk b es = false →
      (∀ x ∈ batches, ¬(x.entries = es ∧ x.engine = none)) → exec (.tokenBatchHandoff b e es) s = .next s) ∧
    (∀ x o, es.head? = some x → s.obj x.1 = some o →
      (e ∉ s.batchEngines b o.coll → exec (.tokenBatchHandoff b e es) s = .next s) ∧
      (s.workMay 2 e.val (s.readyOnEngine e) = false → exec (.tokenBatchHandoff b e es) s = .next s) ∧
      (s.benchReady b = true → e ∈ s.batchEngines b o.coll → s.workMay 2 e.val (s.readyOnEngine e) = true → (∀ x ∈ batches, ¬(x.entries = es ∧ x.engine = none)) →
        batches.length < 7 → s.entriesOk b es = true → ∃ t, exec (.tokenBatchHandoff b e es) s = .next t ∧
          t = { s with search := t.search, benches := t.benches } ∧
          t.search = { s.search with objs := t.search.objs } ∧
          t.benches[b].batches = batches ++ [{ entries := es, engine := some e }] ∧
          ∀ c, c ≠ b → t.benches[c] = s.benches[c]) ∧
      (s.benchReady b = true → e ∈ s.batchEngines b o.coll → s.workMay 2 e.val (s.readyOnEngine e) = true → (∃ x ∈ batches, x.entries = es ∧ x.engine = none) →
        exec (.tokenBatchHandoff b e es) s = .next (s.modBench b fun y =>
          { y with batches := updFirst y.batches (fun z => z.entries == es && z.engine.isNone) fun z =>
            { z with engine := some e } }))) ∧
    (batches.find? (fun x => x.engine.isSome) = none → exec (.batchVectorsReturn b ⟨vs, us⟩) s = .next s) ∧
    (∀ x, batches.find? (fun x => x.engine.isSome) = some x →
      (vs.length ≠ x.entries.length → exec (.batchVectorsReturn b ⟨vs, us⟩) s = .next s) ∧
      (vs.length = x.entries.length → s.benchReady b = true →
        let c := match x.engine with
          | some e => s.chargeWork 2 (s.batchShop x) e.val us
          | none => s
        let t := (x.entries.zip vs).foldl (fun s p => s.takeVector p.1.1 p.1.2.1 p.2) c
        ∃ u, exec (.batchVectorsReturn b ⟨vs, us⟩) s = .next u ∧ u = { t with benches := u.benches } ∧
          u.benches[b].batches = removeFirst t.benches[b].batches x ∧ u.benches[b].stalledAt = none ∧
          ∀ c, c ≠ b → u.benches[c] = t.benches[c]))

/-- A record joins the end of its list with the epoch after the published one; mend and repair act on marked and retired
lists (R214, R215, R217, R229, R231, R232, R234, R235, R236). -/
def Obligations.RecordsJoinTheirLists : Prop :=
  ∀ (s : State) (i n us : Nat) (r : BatchRec) (b : BenchId),
    let bare (l : Lst) : Lst := { l with homeCount := 0 }
    let home (o : Obj) : Obj := { o with home := .pending, homeReason := 0 }
    let left : State := { s with search := { s.search with transit := s.search.transit.eraseIdx i } }
    (s.search.transit[i]? = none → exec (.recordAppend ⟨i, us⟩) s = .next s) ∧
    (s.search.transit[i]? = some (n, r) →
      (s.recordGone r = true ∨ s.lst n = none → exec (.recordAppend ⟨i, us⟩) s = .next left) ∧
      ∀ l, s.recordGone r = false → s.lst n = some l → (∀ e, l.retire = some e → s.search.epoch < e) →
        s.appendMay l.bench = true → s.mayHold n = true →
        (l.records.length = l.countAt → markPool ≤ s.search.marksUsed → ∃ t, exec (.recordAppend ⟨i, us⟩) s = .next t ∧
          t.search.transit = s.search.transit.eraseIdx i ∧ t.search.appendWait = s.search.appendWait ++ [(n, { r with markWait := true })] ∧
          t.search.lists = s.search.lists ∧ t.mem = s.mem) ∧
        ∀ t, s.append l r = (t, .done) →
          exec (.recordAppend ⟨i, us⟩) s = .next (({ t with search := { t.search with
            transit := s.search.transit.eraseIdx i } } : State).chargeWork 2 (t.ingestShopOf l.coll) (benchRes l.bench) us) ∧
          ∃ l', t.lst n = some l' ∧ l'.records = (l.push (stamped r (s.search.epoch + 1))).records ∧
            l'.lastEpoch = s.search.epoch + 1 ∧ ∀ m, m ≠ n → (t.lst m).map bare = (s.lst m).map bare) ∧
    ((∀ p ∈ s.search.appendWait, ∀ l, s.lst p.1 = some l → l.bench ≠ b) → exec (.markWaitResume ⟨b, us⟩) s = .next s) ∧
    (s.search.appendWait = [(n, r)] → (∀ l, s.lst n = some l → l.bench = b) → s.lst n ≠ none → s.recordGone r = true →
      exec (.markWaitResume ⟨b, us⟩) s = .next { s with search := { s.search with appendWait := [] } }) ∧
    (∀ rest l t, s.search.appendWait = (n, r) :: rest → s.lst n = some l → l.bench = b → s.recordGone r = false →
      s.retired l = false → s.appendMay b = true → s.mayHold n = true → s.append l r = (t, .done) →
      let u := ({ t with search := { t.search with appendWait := rest } } : State).chargeWork 2 (t.ingestShopOf l.coll)
        (benchRes b) us
      exec (.markWaitResume ⟨b, us⟩) s = .next u ∧ exec (.appendWaitResume ⟨b, us⟩) s = .next u ∧
      ∃ l', u.lst n = some l' ∧ l'.records = (l.push (stamped r (s.search.epoch + 1))).records ∧
        l'.lastEpoch = s.search.epoch + 1 ∧ ∀ m, m ≠ n → (u.lst m).map bare = (s.lst m).map bare) ∧
    (∀ l, s.lst n = some l → l.mending = false →
      (l.marked ≠ 0 ∧ (l.records.length ≤ 8 * l.marked ∨ 4096 ≤ l.marked) ∧ s.benchOk l.bench = true ∧
          s.benchKept l.bench = false →
        exec (.mendStart n) s = .next (s.modList n fun l => { l with mending := true, mended := true })) ∧
      (l.marked = 0 ∨ (8 * l.marked < l.records.length ∧ l.marked < 4096) ∨ s.benchOk l.bench = false ∨
          s.benchKept l.bench = true →
        exec (.mendStart n) s = .next s)) ∧
    (s.lst n = none → exec (.graphRepair n) s = .next s) ∧
    (∀ l, s.lst n = some l → s.retired l = false → exec (.graphRepair n) s = .next s) ∧
    (∀ l c, s.lst n = some l → s.coll l.coll = some c → s.retired l = true → ∃ t, exec (.graphRepair n) s = .next t ∧
      (∀ y ∈ t.search.lists, ∃ x ∈ s.search.lists,
        y = { x with edges := y.edges, walkers := y.walkers, homeCount := y.homeCount } ∧
        (y.edges = x.edges ∨ (x.coll = l.coll ∧ s.retired x = false ∧ n ∈ x.edges ∧
          y.edges = replaceEdge n (s.repairTo c.metric l x) x.edges))) ∧
      (∀ m, m ≠ n → (t.lst m = none ↔ s.lst m = none)) ∧
      t.search.objs.map home = s.search.objs.map home ∧ t.engines = s.engines)

/-- The Pewter sequence: two keys, a command, an address and data arm an operation; a wrong or late write is a lockout;
erases suspend (R298, R299, R300, R309, R310, Table 12-3 (12_pewter_array.md)). -/
def Obligations.PewterSequencesUnlockTheArray : Prop :=
  ∀ (s : State) (key : Word16) (a : BitVec 26) (d : Word64) (bank : Option Bool) (code : Byte) (len : BitVec 6),
    let p := s.pewter
    let w (f : Pewter → Pewter) : Host.Outcome State Fault Refusal :=
      .next { s with pewter := f { p with lastWriteUs := s.clockUs } }
    let plain := code ≠ 8 ∧ code ≠ 9
    (p.seq = .lockout → exec (.pwtUnlockWrite key) s = .next s ∧ exec (.pwtAddrWrite a bank) s = .next s ∧
      exec (.pwtDataWrite d bank) s = .next s ∧ exec (.pwtBadCmd code len) s = .next s) ∧
    (p.seq ≠ .lockout → s.pwtGap = true → exec (.pwtUnlockWrite key) s = .next (s.pwtLockout 5) ∧
      exec (.pwtAddrWrite a bank) s = .next (s.pwtLockout 5) ∧ exec (.pwtDataWrite d bank) s = .next (s.pwtLockout 5) ∧
      exec .pwtSequenceTimeout s = .next (s.pwtLockout 5) ∧
      (plain → exec (.pwtBadCmd code len) s = .next (s.pwtLockout 5))) ∧
    (s.pwtGap = false → exec .pwtSequenceTimeout s = .next s) ∧
    (p.seq ≠ .lockout → s.pwtGap = false → p.op ≠ none → exec (.pwtUnlockWrite key) s = .next (s.pwtRefuse 11) ∧
      exec (.pwtAddrWrite a bank) s = .next (s.pwtRefuse 11) ∧ exec (.pwtDataWrite d bank) s = .next (s.pwtRefuse 11) ∧
      (plain → exec (.pwtBadCmd code len) s = .next (s.pwtRefuse 11))) ∧
    (s.pwtGap = false → p.op = none →
      (p.seq = .idle → exec (.pwtUnlockWrite 0x5A17) s = w (fun p => { p with seq := .key1 }) ∧
        (key ≠ 0x5A17 → ∃ t, exec (.pwtUnlockWrite key) s = .next t ∧ t.pewter.seq = .lockout ∧ t.pewter.result = 4)) ∧
      (p.seq = .key1 → exec (.pwtUnlockWrite 0xC3E8) s = w (fun p => { p with seq := .unlocked })) ∧
      (p.seq = .unlocked → 1 ≤ code.toNat → code.toNat ≤ 6 → exec (.pwtBadCmd code len) s = w (fun p =>
        { p with
          seq := .cmdSet
          cmd := some { opcode := code.toNat, len := len.toNat, addr := 0, data := [], fetchBank := none, pulsing := false } })) ∧
      (p.seq ≠ .lockout → plain → code = 0 ∨ 6 < code.toNat → exec (.pwtBadCmd code len) s =
        w (fun p => { p with seq := .idle, cmd := none, result := 7 })) ∧
      (∀ c, p.seq = .cmdSet → p.cmd = some c →
        (pwtDataWrites c.opcode c.len = 0 → exec (.pwtAddrWrite a bank) s = w (fun p =>
          { p with addr := a.toNat, op := some { c with addr := a.toNat, fetchBank := bank }, cmd := none, seq := .busy })) ∧
        (pwtDataWrites c.opcode c.len ≠ 0 → exec (.pwtAddrWrite a bank) s = w (fun p =>
          { p with addr := a.toNat, cmd := some { c with addr := a.toNat, fetchBank := bank }, seq := .data }))) ∧
      (∀ c, p.seq = .data → p.cmd = some c →
        (c.data.length + 1 < pwtDataWrites c.opcode c.len → exec (.pwtDataWrite d bank) s = w (fun p =>
          { p with cmd := some { c with data := c.data ++ [d], fetchBank := bank } })) ∧
        (pwtDataWrites c.opcode c.len ≤ c.data.length + 1 → exec (.pwtDataWrite d bank) s = w (fun p =>
          { p with op := some { c with data := c.data ++ [d], fetchBank := bank }, cmd := none, seq := .busy })))) ∧
    (∀ n, (s.pwtLockout n).pewter.seq = .lockout ∧ (s.pwtLockout n).pewter.result = n ∧
      (p.lockouts = 15 → p.secEvent = false →
        (s.pwtLockout n).pewter.secEvent = true ∧ (s.pwtLockout n).pewter.secKind = 2)) ∧
    (p.seq = .lockout → p.lockouts < 16 → p.lockoutAt + 100000 ≤ s.clockUs → exec .pwtLockoutExpiry s =
      .next ({ s with pewter := { p with seq := .idle } } : State).resumeReads) ∧
    (p.seq ≠ .lockout ∨ 16 ≤ p.lockouts ∨ s.clockUs < p.lockoutAt + 100000 → exec .pwtLockoutExpiry s = .next s) ∧
    exec (.pwtBadCmd 8 len) s = exec .eraseSuspend s ∧ exec (.pwtBadCmd 9 len) s = exec .eraseResume s ∧
    (p.seq ≠ .lockout →
      (∀ o, p.op = some o → o.pulsing = true → o.opcode = 2 ∨ o.opcode = 6 →
        exec .eraseSuspend s = .next { s with pewter := { p with suspending := true } }) ∧
      (∀ o, p.op = some o → ¬(o.pulsing = true ∧ (o.opcode = 2 ∨ o.opcode = 6)) → exec .eraseSuspend s = .next (s.pwtRefuse 7)) ∧
      (p.op = none → exec .eraseSuspend s = .next (s.pwtRefuse 7) ∧
        (p.susp = none → exec .eraseResume s = .next (s.pwtRefuse 7)) ∧
        ∀ o, p.susp = some o → exec .eraseResume s =
          .next { s with pewter := { p with op := some o, susp := none, seq := .busy, cmd := none } }) ∧
      (p.op ≠ none → exec .eraseResume s = .next (s.pwtRefuse 11))) ∧
    (p.suspending = true → exec .eraseSuspendComplete s = .next
      ({ s with pewter := { p with susp := p.op, op := none, suspending := false, seq := .idle } } : State).resumeReads) ∧
    (p.suspending = false → exec .eraseSuspendComplete s = .next s.resumeReads) ∧
    (p.waiting = [] → s.resumeReads = s)

/-- An armed Pewter operation starts its pulses only where Table 12-3 and its region allow it; else it ends with the
RESULT of its refusal (R301, R302, R303, R304, R305, R306, R307, Table 12-3 (12_pewter_array.md)). -/
def Obligations.PewterOperationsPulseOrAreRefused : Prop :=
  ∀ (s : State) (o : PwtOp), s.pewter.op = some o → o.pulsing = false →
    let p := s.pewter
    let rows : List (Nat × Instr) := [(1, .pageProgram), (2, .sectorErase), (3, .vaultProgram), (4, .vaultZeroise),
      (5, .optProgram), (6, .optErase)]
    let w := vaultWord o.addr
    let off := o.addr - pwtOptBase
    let self := o.fetchBank = some (pwtBank o.addr)
    let page := 2 ≤ o.len ∧ o.len ≤ 32 ∧ o.len % 2 = 0 ∧ o.addr % 16 = 0 ∧ o.addr < pwtVaultBase ∧
      o.addr % 256 + 8 * o.len ≤ 256
    let vault := o.len = 1 ∧ pwtVaultBase ≤ o.addr ∧ o.addr < pwtOptBase ∧ o.addr % 8 = 0
    let opt := o.len = 2 ∧ pwtOptBase ≤ o.addr ∧ o.addr < pwtOptEnd ∧ o.addr % 16 = 0
    (∀ r ∈ rows, (o.opcode ≠ r.1 → exec r.2 s = .next s) ∧
      (o.opcode = r.1 → p.brownout = true → exec r.2 s = .next (s.pwtEnd 8))) ∧
    (p.brownout = false →
      (o.opcode = 1 →
        (¬page → exec .pageProgram s = .next (s.pwtEnd 6)) ∧
        (page → (∃ u, p.susp = some u ∧ pwtSector u.addr = pwtSector o.addr) → exec .pageProgram s = .next (s.pwtEnd 12)) ∧
        (page → (∀ u, p.susp = some u → pwtSector u.addr ≠ pwtSector o.addr) →
          (self → exec .pageProgram s = .next s.pwtSelfBank) ∧
          (¬self → (∃ a ∈ o.targets, p.programmed a = true) → exec .pageProgram s = .next s.pwtAgain) ∧
          (¬self → (∀ a ∈ o.targets, p.programmed a = false) → exec .pageProgram s = .next (s.pwtPulse o)))) ∧
      (o.opcode = 2 →
        (o.len ≠ 0 ∨ pwtVaultBase ≤ o.addr → exec .sectorErase s = .next (s.pwtEnd 6)) ∧
        (o.len = 0 → o.addr < pwtVaultBase →
          (p.susp ≠ none → exec .sectorErase s = .next (s.pwtEnd 11)) ∧
          (p.susp = none → self → exec .sectorErase s = .next s.pwtSelfBank) ∧
          (p.susp = none → ¬self → exec .sectorErase s = .next (s.pwtPulse o)))) ∧
      (o.opcode = 3 →
        let may := w = p.leafBatches ∧ w < 4096 ∨ w = 4096 + p.rollback ∧ w < 4608 ∨ 4608 ≤ w ∧ w < 6688
        (¬vault → exec .vaultProgram s = .next (s.pwtEnd 6)) ∧
        (vault → p.programmed o.addr = true → exec .vaultProgram s = .next ((s.secLatch 1 w).pwtEnd 2)) ∧
        (vault → p.programmed o.addr = false → exec .vaultProgram s = .next (if may then s.pwtPulse o else s.pwtEnd 6))) ∧
      (o.opcode = 4 →
        let keys := o.len = 0 ∧ pwtVaultBase ≤ o.addr ∧ o.addr % 8 = 0 ∧ 4608 ≤ w ∧ w < 6688
        (¬keys → exec .vaultZeroise s = .next (s.pwtEnd 6)) ∧
        (keys → exec .vaultZeroise s = .next (if p.meltPermit then s.pwtPulse o else s.pwtEnd 10))) ∧
      (o.opcode = 5 →
        (¬opt → exec .optProgram s = .next (s.pwtEnd 6)) ∧
        (opt → (∃ u, p.susp = some u ∧ pwtSector u.addr = pwtSector o.addr) → exec .optProgram s = .next (s.pwtEnd 12)) ∧
        (opt → (∀ u, p.susp = some u → pwtSector u.addr ≠ pwtSector o.addr) →
        (p.lcState = 0 → exec .optProgram s =
          .next (if p.programmed o.addr then s.pwtAgain else s.pwtPulse o)) ∧
        (p.lcState ≠ 0 → 0x10 ≤ off → off < 0x50 → exec .optProgram s =
          .next (if (off - 0x10) / 16 = p.lcState then s.pwtPulse o
            else if p.lcState < (off - 0x10) / 16 then s.pwtEnd 6 else s.pwtEnd 10)) ∧
        (p.lcState ≠ 0 → off < 0x10 ∨ 0x50 ≤ off → exec .optProgram s =
          .next (if p.freeIngotSlot off then s.pwtPulse o else s.pwtEnd 10)))) ∧
      (o.opcode = 6 →
        let area := o.len = 0 ∧ pwtOptBase ≤ o.addr ∧ o.addr < pwtOptEnd
        (¬area → exec .optErase s = .next (s.pwtEnd 6)) ∧
        (area → p.lcState ≠ 0 → exec .optErase s = .next (s.pwtEnd 10)) ∧
        (area → p.lcState = 0 → exec .optErase s = .next (if p.susp = none then s.pwtPulse o else s.pwtEnd 11))))

/-- Pulses end in the array; no Pewter row erases a vault word while erases lie in their areas, and every row keeps that
(R297, R301, R303, R304, R306, R308, R309). -/
def Obligations.NoPewterRowUnprogramsAVaultWord : Prop :=
  ∀ (s : State),
    let p := s.pewter
    let sound (p : Pewter) : Prop := (∀ o, p.op = some o ∨ p.susp = some o → o.pulsing = true →
      (o.opcode = 2 → o.addr < pwtVaultBase) ∧ (o.opcode = 6 → pwtOptBase ≤ o.addr)) ∧
      ∀ o, p.cmd = some o → o.pulsing = false
    (∀ (failed : List Nat), (p.op = none → exec (.pwtOperationEnd failed) s = .next s.resumeReads) ∧
      ∀ o, p.op = some o →
        (o.pulsing = false ∨ p.suspending = true → exec (.pwtOperationEnd failed) s = .next s.resumeReads) ∧
        (o.pulsing = true → p.suspending = false →
          (o.opcode = 2 → exec (.pwtOperationEnd failed) s =
            .next (({ s with pewter := p.eraseSector o.addr }).pwtEnd 1).resumeReads) ∧
          (o.opcode ≠ 2 → o.opcode ≠ 6 → ∃ t, exec (.pwtOperationEnd failed) s = .next (State.resumeReads t) ∧
            (∀ a ∈ o.targets, t.pewter.programmed a = true) ∧ t.pewter.op = none ∧ t.pewter.done = true ∧
            t.pewter.result = if failed = [] ∨ o.opcode = 4 then 1 else 9))) ∧
    (∃ t, exec .pewterBrownout s = .next t ∧ t.pewter.brownout = true ∧ t.pewter.susp = none ∧
      (∀ o, p.op = some o → o.pulsing = true → p.susp = none → t.pewter.op = none ∧ t.pewter.result = 8 ∧
        t.pewter.aborts = satAdd 8 p.aborts 1 ∧
        (o.opcode ≠ 2 → o.opcode ≠ 6 → ∀ a ∈ o.targets, t.pewter.programmed a = true))) ∧
    (sound p → ∀ (key : Word16) (a : BitVec 26) (d : Word64) (bank : Option Bool) (code : Byte) (len : BitVec 6)
      (failed : List Nat) (c : Instr),
      c ∈ [.pwtUnlockWrite key, .pwtAddrWrite a bank, .pwtDataWrite d bank, .pwtBadCmd code len, .pageProgram, .sectorErase,
        .vaultProgram, .vaultZeroise, .optProgram, .optErase, .eraseSuspend, .eraseSuspendComplete, .eraseResume,
        .pwtOperationEnd failed, .pwtSequenceTimeout, .pwtLockoutExpiry, .pewterBrownout, .securityEventLogProgram] →
      ∃ t, exec c s = .next t ∧ sound t.pewter ∧
        ∀ x, pwtVaultBase ≤ x → x < pwtOptBase → p.programmed x = true → t.pewter.programmed x = true)

/-- BAR2 reads return, latch and clear; writes of 1 clear RW1C bits; reserved and RO offsets ignore writes; bad accesses
are counted (R5, R8, R9, R334, R378, R379, R381, Table 15-2 (15_host_port_and_onant_queues.md)). -/
def Obligations.RegistersFollowTheirAccessCodes : Prop :=
  ∀ (s : State) (off size : Nat) (size8 write : Bool) (v : Word64) (e : EngineId) (c : Ctrl),
    let bad : State := { s with dev := { s.dev with badAccess := true, badCount := satAdd 32 s.dev.badCount 1 } }
    let n : Nat := if size8 then 8 else 4
    let w := s.passBurn off
    let noLatch := s.dev.latches.find? (fun l => l.1 == off) = none
    (off % n ≠ 0 → exec (.rcRegisterRead (.bar2 off) size8) s = .next (bad.emit (.readData 0)) ∧
      exec (.registerWrite (.bar2 off) size8 v) s = .next bad) ∧
    ((size = 4 ∨ size = 8) ∧ off % size = 0 → exec (.bar2BadAccess write off size) s = .next s) ∧
    ((size ≠ 4 ∧ size ≠ 8) ∨ off % size ≠ 0 → exec (.bar2BadAccess true off size) s = .next bad ∧
      exec (.bar2BadAccess false off size) s = .next (bad.emit (.readData 0))) ∧
    (placeOf off = .reserved → off % 4 = 0 → exec (.registerWrite (.bar2 off) false v) s = .next s ∧
      (noLatch → exec (.rcRegisterRead (.bar2 off) false) s = .next (s.emit (.readData 0)))) ∧
    exec (.registerWrite (.bar2 0) false v) s = .next s ∧
    exec (.registerWrite (.bar2 4) false v) s = .next { s with dev := { s.dev with
      badAccess := s.dev.badAccess && !bit v.toNat 6 } } ∧
    (off % 4 = 0 → noLatch → ∃ t, exec (.rcRegisterRead (.bar2 off) false) s = .next t ∧
      t.out = s.out ++ [.readData (BitVec.ofNat 64 (w.readWord off))] ∧ t.mem = s.mem ∧
      (isLowHalf off = true → (off + 4, BitVec.ofNat 32 (w.readWord (off + 4))) ∈ t.dev.latches)) ∧
    (∀ l, off % 4 = 0 → s.dev.latches.find? (fun l => l.1 == off) = some l → exec (.rcRegisterRead (.bar2 off) false) s =
      .next (({ s with dev := { s.dev with latches := s.dev.latches.filter fun x => x.1 != off } }).emit
        (.readData (BitVec.ofNat 64 l.2.toNat)))) ∧
    (off % 8 = 0 → ∃ t, exec (.rcRegisterRead (.bar2 off) true) s = .next t ∧ t.mem = s.mem ∧
      t.out = s.out ++ [.readData (BitVec.ofNat 64 (w.readWord off % 2 ^ 32 + 2 ^ 32 * w.readWord (off + 4)))]) ∧
    (∀ (i : Fin 4) (b : BurnSlot), s.burnish.slots[i] = some b → b.progress ≤ b.length → ∃ p, w.burnish.slots[i] = some
      { b with progress := p } ∧ b.progress ≤ p ∧ p ≤ b.length) ∧
    (placeOf off = .engine e 8 → off % 4 = 0 → noLatch → exec (.rcRegisterRead (.bar2 off) false) s =
      .next ((s.emit (.readData (BitVec.ofNat 64 (s.engineWord e 8)))).modEngine e fun x => { x with faults := 0 })) ∧
    exec (.split64bitRead off) s = exec (.rcRegisterRead (.bar2 off) false) s ∧
    (s.present c = true →
      exec (.registerWrite (.bar0 c 0x1000) false v) s = exec (.sqTailDoorbell c 0 (v.toNat % 65536)) s ∧
      exec (.registerWrite (.bar0 c 0x1004) false v) s = exec (.cqHeadDoorbell c 0 (v.toNat % 65536)) s ∧
      exec (.registerWrite (.bar0 c 0x0C) false v) s = .next (s.modCtrl c fun f =>
        { f with intms := f.intms ||| BitVec.ofNat 32 (v.toNat % 2 ^ 32) }) ∧
      (bit v.toNat 0 = true → s.ctrls[c].en = false → bits v.toNat 15 14 = 0 →
        exec (.registerWrite (.bar0 c 0x14) false v) s = exec (.controllerEnable c (BitVec.ofNat 3 (bits v.toNat 6 4))
          (BitVec.ofNat 4 (bits v.toNat 19 16)) (BitVec.ofNat 4 (bits v.toNat 23 20))) s)) ∧
    (s.present c = true → exec (.rcRegisterRead (.bar0 c 0) size8) s =
      .next (s.emit (.readData (BitVec.ofNat 64 (s.ctrls[c].bar0Word 0 + if size8 then 2 ^ 32 * s.ctrls[c].bar0Word 4 else 0))))) ∧
    (∀ f, pwtOptEnd ≤ off → exec (.rcRegisterRead (.array off f) size8) s = .next (s.emit .mcBusError)) ∧
    (∀ f, exec (.registerWrite (.array off f) size8 v) s = .next (s.emit .mcBusError)) ∧
    exec (.registerWrite .ptmControl false v) s = .next (s.modCtrl 0 fun f => { f with ptmEnable := bit v.toNat 0 }) ∧
    exec (.registerWrite (.pwt 0x4) false v) s = exec (.pwtUnlockWrite (BitVec.ofNat 16 (v.toNat % 2 ^ 32))) s

/-- SCH_CTRL, QTR_MC_CTRL and BRN_CTRL check their fields and take force at once without a grid, at the boundary with
one; COUNT_CLEAR clears (R11, R12, R13, R94, R120, R187, R192, R264, R293, R335). -/
def Obligations.LatchedWritesWaitForTheBoundary : Prop :=
  ∀ (s : State) (v : Word32) (q : QuarterId) (e : EngineId) (b : BenchId),
    let d := bits v.toNat 7 4
    let h := bits v.toNat 10 0
    let g := bits v.toNat 24 16
    let r := bits v.toNat 7 4
    let shadow (s : State) (f : LField) (x : Nat) : State :=
      { s with dev := { s.dev with shadows := assocSet s.dev.shadows f x } }
    (1 ≤ d → d ≤ 8 →
      (s.gridRuns = true → exec (.schCtrlWrite v) s = .next (shadow (shadow (shadow s .decodePerStroke d) .deferMax
        (bits v.toNat 3 0)) .preemptOnArrival (b2n (bit v.toNat 8)))) ∧
      (s.gridRuns = false → exec (.schCtrlWrite v) s = .next { s with sched := { s.sched with
        decodePerStroke := d, deferMax := bits v.toNat 3 0, preemptOnArrival := bit v.toNat 8 } })) ∧
    (d = 0 ∨ 8 < d → s.gridRuns = false → exec (.schCtrlWrite v) s = .next { s with sched := { s.sched with
      cfgBusy := true, deferMax := bits v.toNat 3 0, preemptOnArrival := bit v.toNat 8 } }) ∧
    (h ≤ 1536 → g ≤ 432 →
      (s.gridRuns = true → exec (.qtrMcCtrlWrite q v) s = .next (shadow (shadow s (.hotLimit q) h) (.stagedLimit q) g)) ∧
      (s.gridRuns = false → exec (.qtrMcCtrlWrite q v) s = .next
        ((s.modCache q fun c => { c with hotLimit := h, stagedLimit := g }).recache q ModelCache.fitLimits))) ∧
    (1536 < h → 432 < g → s.gridRuns = true →
      exec (.qtrMcCtrlWrite q v) s = .next (s.modCache q fun c => { c with cfgBusy := true })) ∧
    (r = 0 → exec (.brnCtrlWrite v) s =
      .next { s with burnish := { s.burnish with autoEn := bit v.toNat 0, cfgBusy := true } }) ∧
    (r ≠ 0 → s.gridRuns = false → exec (.brnCtrlWrite v) s =
      .next { s with burnish := { s.burnish with autoEn := bit v.toNat 0, rate := r } }) ∧
    (r ≠ 0 → s.gridRuns = true → exec (.brnCtrlWrite v) s =
      .next (shadow { s with burnish := { s.burnish with autoEn := bit v.toNat 0 } } .burnRate r)) ∧
    exec (.meCountClear e) s = .next { s with engines := s.engines.set e { s.engines[e] with
      busy := 0, feedStall := 0, drainStall := 0, sbStall := 0, macs := 0, sideMacs := 0, vecCycles := 0, swaps := 0 } } ∧
    exec (.fmCountClear b) s = .next { s with flash := s.flash.set b { s.flash[b] with
      pagesRead := 0, pagesProg := 0, erases := 0, retryReads := 0, softReads := 0, patrolPages := 0 } } ∧
    (let t : State := { s with benches := s.benches.set b { s.benches[b] with
      faults := 0, stalledAt := s.benches[b].stalledAt.map fun _ => s.clockUs, storedBytes := 0, getBytes := 0, readObjects := 0, notRead := 0, textBytes := 0, tokens := 0, passages := 0
      recordsIn := 0, batchStall := 0, tailRewrites := 0, sweeps := 0, pairs := 0 } }
    (b.val % 16 ≠ 0 → exec (.bnCountClear b) s = .next t) ∧
    (b.val % 16 = 0 → exec (.bnCountClear b) s = .next (t.modLink (dieOfBench b) fun l =>
      { l with tagFail := 0, retry := 0, retrain := 0, rekey := 0 })))

/-- A port that answers takes its addresses, serves the commands of Table 16-10 and refuses any other; a silent port
changes nothing (R332, R390, R413, R414, R415, Table 16-10 (16_module_power_and_management.md)). -/
def Obligations.TheManagementPortAnswers : Prop :=
  ∀ (s : State) (a : BitVec 7) (eid x y op : Byte) (id off len : Word16) (d : Word32) (e : Sqe) (clear : Bool),
    let ok (bs : List Byte) : Host.Outcome State Fault Refusal := .next ((s.emit (.mi miSuccess [])).emit (.miData bs))
    let bad : Host.Outcome State Fault Refusal := .next (s.emit (.mi miInvalidParameter []))
    let unknown : Host.Outcome State Fault Refusal := .next (s.emit (.mi miInvalidOpcode []))
    exec (.mctpMessageDiscard op) s = .next s ∧
    (s.bmc.answers = false → ∀ c ∈ ([.i3cSetdasa a, .i3cEntdaa a, .setEndpointId eid, .miReadDataStructure x y,
      .miSubsystemHealthPoll clear, .miControllerHealthPoll id, .miConfigurationGet x, .miConfigurationSet x id,
      .miVpdRead off len, .miVpdWrite, .miAdminCommand e, .telemetry, .miQuench d, .miUnsupportedCommand op] : List Instr),
      exec c s = .next s) ∧
    (s.bmc.answers = true →
      exec (.i3cSetdasa a) s = .next { s with bmc := { s.bmc with dynAddr := some a } } ∧
      (s.bmc.dynAddr = none → exec (.i3cEntdaa a) s = .next { s with bmc := { s.bmc with dynAddr := some a } }) ∧
      (s.bmc.dynAddr ≠ none → exec (.i3cEntdaa a) s = .next s) ∧
      exec (.setEndpointId eid) s = .next { s with bmc := { s.bmc with eid := eid } } ∧
      (∀ bs, s.miStructure x.toNat y.toNat = some bs → exec (.miReadDataStructure x y) s = ok bs) ∧
      (s.miStructure x.toNat y.toNat = none → exec (.miReadDataStructure x y) s = bad) ∧
      exec (.miSubsystemHealthPoll clear) s = ok s.subsystemHealth ∧
      (∀ c : Ctrl, id.toNat = c.val → exec (.miControllerHealthPoll id) s =
        if s.present c then ok (s.controllerHealth c) else bad) ∧
      (2 ≤ id.toNat → exec (.miControllerHealthPoll id) s = bad) ∧
      exec (.miConfigurationGet mtuConfig) s = .next (s.emit (.mi miSuccess [BitVec.ofNat 32 s.bmc.mtu])) ∧
      (x ≠ mtuConfig → exec (.miConfigurationGet x) s = bad ∧ exec (.miConfigurationSet x id) s = bad) ∧
      (64 ≤ id.toNat → id.toNat ≤ 256 → exec (.miConfigurationSet mtuConfig id) s =
        .next (({ s with bmc := { s.bmc with mtu := id.toNat } }).emit (.mi miSuccess []))) ∧
      (id.toNat < 64 ∨ 256 < id.toNat → exec (.miConfigurationSet mtuConfig id) s = bad) ∧
      (off.toNat + len.toNat ≤ 256 →
        exec (.miVpdRead off len) s = ok (fieldBytes s.vpd off.toNat len.toNat)) ∧
      (256 < off.toNat + len.toNat → exec (.miVpdRead off len) s = bad) ∧
      exec .miVpdWrite s = unknown ∧ exec (.miUnsupportedCommand op) s = unknown ∧
      (e.opcode ≠ 0x06 → e.opcode ≠ 0x02 → e.opcode ≠ 0x0A → exec (.miAdminCommand e) s = unknown) ∧
      (∀ p, e.opcode = 0x06 → s.identifyPage e.key.ctrl.val (bits e.cdw10.toNat 7 0) = some p →
        exec (.miAdminCommand e) s = .next ((s.emit (.mi miSuccess [0, 0, 0])).emit (.miData p))) ∧
      (e.opcode = 0x02 → exec (.miAdminCommand e) s = .next (s.miLogPage e)) ∧
      (∀ v bs, e.opcode = 0x0A → s.feature e.key.ctrl (bits e.cdw10.toNat 7 0) e.cdw11.toNat = some (v, bs) →
        exec (.miAdminCommand e) s = .next (s.miCompletion 0 0 false v bs)) ∧
      exec .telemetry s = ok s.telemetry ∧ s.telemetry.length = 128 ∧
      (s.theMold = none → exec (.miQuench d) s = bad) ∧
      (s.theMold ≠ none → exec (.miQuench d) s = .next ((s.takeQuench d.toNat).emit
        (.mi miSuccess [BitVec.ofNat 32 (s.quenchTargets d.toNat).length]))))

end
end

