-- ==== Sys2Proof/Laws/Frame.lean ====
section
/-! SUPPORT. Frames: which parts of the state an operation can change. A frame composes, so what a command leaves
alone follows from what its operations leave alone. -/

namespace Sys2Proof.Laws

open Sys2Proof.Machine

/-- A part of the state: a field of State. -/
inductive Part where
  | power | ctrls | mold | grid | sched | engines | mem | cache | ingots | search | benches | flash | links | pewter | errors
  | burnish | sec | fw | bmc | dev | out | clockUs | free | pending
  deriving DecidableEq, Repr

/-- Two states hold the same in a part. -/
def Same (s t : State) : Part → Prop
  | .power => t.power = s.power
  | .ctrls => t.ctrls = s.ctrls
  | .mold => t.mold = s.mold
  | .grid => t.grid = s.grid
  | .sched => t.sched = s.sched
  | .engines => t.engines = s.engines
  | .mem => t.mem = s.mem
  | .cache => t.cache = s.cache
  | .ingots => t.ingots = s.ingots
  | .search => t.search = s.search
  | .benches => t.benches = s.benches
  | .flash => t.flash = s.flash
  | .links => t.links = s.links
  | .pewter => t.pewter = s.pewter
  | .errors => t.errors = s.errors
  | .burnish => t.burnish = s.burnish
  | .sec => t.sec = s.sec
  | .fw => t.fw = s.fw
  | .bmc => t.bmc = s.bmc
  | .dev => t.dev = s.dev
  | .out => t.out = s.out
  | .clockUs => t.clockUs = s.clockUs
  | .free => t.free = s.free
  | .pending => t.pending = s.pending

/-- t differs from s at most in the parts named. -/
def Frame (w : List Part) (s t : State) : Prop := ∀ p, p ∉ w → Same s t p

theorem Frame.refl {w : List Part} (s : State) : Frame w s s := fun p _ => by cases p <;> rfl

theorem Same.trans {s t u : State} {p : Part} (h : Same s t p) (g : Same t u p) : Same s u p := by
  cases p <;> exact Eq.trans g h

theorem Frame.step {w a : List Part} {s t u : State} (h : Frame w s t) (g : Frame a t u)
    (hw : ∀ p ∈ a, p ∈ w := by decide) : Frame w s u :=
  fun p hp => (h p hp).trans (g p fun ha => hp (hw p ha))

theorem Frame.foldl {α : Type} {w : List Part} {s t : State} {f : State → α → State} (l : List α) (h : Frame w s t)
    (hf : ∀ u x, Frame w u (f u x)) : Frame w s (l.foldl f t) := by
  induction l generalizing t with
  | nil => exact h
  | cons x l ih => exact ih fun p hp => (h p hp).trans (hf t x p hp)

theorem Frame.foldlPair {α β : Type} {w : List Part} {s : State} {t : State × β} {f : State × β → α → State × β} (l : List α)
    (h : Frame w s t.1) (hf : ∀ u x, Frame w u.1 (f u x).1) : Frame w s (l.foldl f t).1 := by
  induction l generalizing t with
  | nil => exact h
  | cons x l ih => exact ih fun p hp => (h p hp).trans (hf t x p hp)

theorem Frame.via {w a : List Part} {s t u : State} (g : Frame a t u) (hw : ∀ p ∈ a, p ∈ w) (h : Frame w s t) :
    Frame w s u := h.step g hw

theorem Frame.trans {w : List Part} {s t u : State} (g : Frame w t u) (h : Frame w s t) : Frame w s u :=
  h.step g fun _ hp => hp

theorem Frame.ite {w : List Part} {s a b : State} {c : Prop} [Decidable c] (h : Frame w s a) (g : Frame w s b) :
    Frame w s (if c then a else b) := by split <;> assumption

theorem Frame.cut {w : List Part} {s t : State} (x : State) (h : Frame w s x) (g : Frame w s x → Frame w s t) :
    Frame w s t := g h

theorem Frame.of_eq {w : List Part} {s t u : State} (h : Frame w s t) (e : t = u) : Frame w s u := e ▸ h

theorem Frame.getD {w : List Part} {s : State} {o : Option State} (h : ∀ u, o = some u → Frame w s u) :
    Frame w s (o.getD s) := by
  cases o with
  | none => exact Frame.refl s
  | some u => exact h u rfl

theorem Frame.power (s : State) x : Frame [.power] s { s with power := x } := fun p hp => by
  cases p <;> first | rfl | exact absurd (by decide) hp

theorem Frame.ctrls (s : State) x : Frame [.ctrls] s { s with ctrls := x } := fun p hp => by
  cases p <;> first | rfl | exact absurd (by decide) hp

theorem Frame.mold (s : State) x : Frame [.mold] s { s with mold := x } := fun p hp => by
  cases p <;> first | rfl | exact absurd (by decide) hp

theorem Frame.grid (s : State) x : Frame [.grid] s { s with grid := x } := fun p hp => by
  cases p <;> first | rfl | exact absurd (by decide) hp

theorem Frame.sched (s : State) x : Frame [.sched] s { s with sched := x } := fun p hp => by
  cases p <;> first | rfl | exact absurd (by decide) hp

theorem Frame.engines (s : State) x : Frame [.engines] s { s with engines := x } := fun p hp => by
  cases p <;> first | rfl | exact absurd (by decide) hp

theorem Frame.mem (s : State) x : Frame [.mem] s { s with mem := x } := fun p hp => by
  cases p <;> first | rfl | exact absurd (by decide) hp

theorem Frame.cache (s : State) x : Frame [.cache] s { s with cache := x } := fun p hp => by
  cases p <;> first | rfl | exact absurd (by decide) hp

theorem Frame.ingots (s : State) x : Frame [.ingots] s { s with ingots := x } := fun p hp => by
  cases p <;> first | rfl | exact absurd (by decide) hp

theorem Frame.search (s : State) x : Frame [.search] s { s with search := x } := fun p hp => by
  cases p <;> first | rfl | exact absurd (by decide) hp

theorem Frame.benches (s : State) x : Frame [.benches] s { s with benches := x } := fun p hp => by
  cases p <;> first | rfl | exact absurd (by decide) hp

theorem Frame.flash (s : State) x : Frame [.flash] s { s with flash := x } := fun p hp => by
  cases p <;> first | rfl | exact absurd (by decide) hp

theorem Frame.links (s : State) x : Frame [.links] s { s with links := x } := fun p hp => by
  cases p <;> first | rfl | exact absurd (by decide) hp

theorem Frame.pewter (s : State) x : Frame [.pewter] s { s with pewter := x } := fun p hp => by
  cases p <;> first | rfl | exact absurd (by decide) hp

theorem Frame.errors (s : State) x : Frame [.errors] s { s with errors := x } := fun p hp => by
  cases p <;> first | rfl | exact absurd (by decide) hp

theorem Frame.burnish (s : State) x : Frame [.burnish] s { s with burnish := x } := fun p hp => by
  cases p <;> first | rfl | exact absurd (by decide) hp

theorem Frame.sec (s : State) x : Frame [.sec] s { s with sec := x } := fun p hp => by
  cases p <;> first | rfl | exact absurd (by decide) hp

theorem Frame.fw (s : State) x : Frame [.fw] s { s with fw := x } := fun p hp => by
  cases p <;> first | rfl | exact absurd (by decide) hp

theorem Frame.bmc (s : State) x : Frame [.bmc] s { s with bmc := x } := fun p hp => by
  cases p <;> first | rfl | exact absurd (by decide) hp

theorem Frame.dev (s : State) x : Frame [.dev] s { s with dev := x } := fun p hp => by
  cases p <;> first | rfl | exact absurd (by decide) hp

theorem Frame.out (s : State) x : Frame [.out] s { s with out := x } := fun p hp => by
  cases p <;> first | rfl | exact absurd (by decide) hp

theorem Frame.clockUs (s : State) x : Frame [.clockUs] s { s with clockUs := x } := fun p hp => by
  cases p <;> first | rfl | exact absurd (by decide) hp

theorem Frame.free (s : State) x : Frame [.free] s { s with free := x } := fun p hp => by
  cases p <;> first | rfl | exact absurd (by decide) hp

theorem Frame.pending (s : State) x : Frame [.pending] s { s with pending := x } := fun p hp => by
  cases p <;> first | rfl | exact absurd (by decide) hp

end Sys2Proof.Laws
end

