-- ==== Sys2Proof/Laws/FrameOps.lean ====
section
/-! SUPPORT. The frame of every operation of the machine: the parts of the state that it can change. -/

namespace Sys2Proof.Laws

set_option linter.all false
set_option Elab.async false

open Sys2Proof Sys2Proof.Machine

theorem Frame.benches_flash (s : State) x0 x1 :
    Frame [.benches, .flash] s { s with benches := x0, flash := x1 } :=
  fun p hp => by cases p <;> first | rfl | exact absurd (by decide) hp

theorem Frame.bmc_dev (s : State) x0 x1 :
    Frame [.bmc, .dev] s { s with bmc := x0, dev := x1 } :=
  fun p hp => by cases p <;> first | rfl | exact absurd (by decide) hp

theorem Frame.engines_benches (s : State) x0 x1 :
    Frame [.engines, .benches] s { s with engines := x0, benches := x1 } :=
  fun p hp => by cases p <;> first | rfl | exact absurd (by decide) hp

theorem Frame.engines_mem_cache (s : State) x0 x1 x2 :
    Frame [.engines, .mem, .cache] s { s with engines := x0, mem := x1, cache := x2 } :=
  fun p hp => by cases p <;> first | rfl | exact absurd (by decide) hp

theorem Frame.fw_bmc (s : State) x0 x1 :
    Frame [.fw, .bmc] s { s with fw := x0, bmc := x1 } :=
  fun p hp => by cases p <;> first | rfl | exact absurd (by decide) hp

theorem Frame.mem_benches (s : State) x0 x1 :
    Frame [.mem, .benches] s { s with mem := x0, benches := x1 } :=
  fun p hp => by cases p <;> first | rfl | exact absurd (by decide) hp

theorem Frame.mem_benches_flash_pewter_sec (s : State) x0 x1 x2 x3 x4 :
    Frame [.mem, .benches, .flash, .pewter, .sec] s { s with mem := x0, benches := x1, flash := x2, pewter := x3,
                                                             sec := x4 } :=
  fun p hp => by cases p <;> first | rfl | exact absurd (by decide) hp

theorem Frame.mem_flash (s : State) x0 x1 :
    Frame [.mem, .flash] s { s with mem := x0, flash := x1 } :=
  fun p hp => by cases p <;> first | rfl | exact absurd (by decide) hp

theorem Frame.mold_grid_sched_engines_mem_cache_ingots_search_errors_burnish_sec_fw_dev (s : State) x0 x1 x2 x3 x4 x5 x6 x7 x8 x9 x10 x11 x12 :
    Frame [.mold, .grid, .sched, .engines, .mem, .cache, .ingots, .search, .errors, .burnish, .sec, .fw, .dev]
        s { s with mold := x0, grid := x1, sched := x2, engines := x3, mem := x4, cache := x5, ingots := x6,
                   search := x7, errors := x8, burnish := x9, sec := x10, fw := x11, dev := x12 } :=
  fun p hp => by cases p <;> first | rfl | exact absurd (by decide) hp

theorem Frame.pewter_fw (s : State) x0 x1 :
    Frame [.pewter, .fw] s { s with pewter := x0, fw := x1 } :=
  fun p hp => by cases p <;> first | rfl | exact absurd (by decide) hp

theorem Frame.power_bmc (s : State) x0 x1 :
    Frame [.power, .bmc] s { s with power := x0, bmc := x1 } :=
  fun p hp => by cases p <;> first | rfl | exact absurd (by decide) hp

theorem Frame.power_clockUs (s : State) x0 x1 :
    Frame [.power, .clockUs] s { s with power := x0, clockUs := x1 } :=
  fun p hp => by cases p <;> first | rfl | exact absurd (by decide) hp

theorem Frame.power_ctrls_mem_benches_flash_links_pewter_sec (s : State) x0 x1 x2 x3 x4 x5 x6 x7 :
    Frame [.power, .ctrls, .mem, .benches, .flash, .links, .pewter, .sec]
        s { s with power := x0, ctrls := x1, mem := x2, benches := x3, flash := x4, links := x5, pewter := x6,
                   sec := x7 } :=
  fun p hp => by cases p <;> first | rfl | exact absurd (by decide) hp

theorem Frame.sched_engines (s : State) x0 x1 :
    Frame [.sched, .engines] s { s with sched := x0, engines := x1 } :=
  fun p hp => by cases p <;> first | rfl | exact absurd (by decide) hp

theorem Frame.sched_search (s : State) x0 x1 :
    Frame [.sched, .search] s { s with sched := x0, search := x1 } :=
  fun p hp => by cases p <;> first | rfl | exact absurd (by decide) hp

theorem Frame.search_benches (s : State) x0 x1 :
    Frame [.search, .benches] s { s with search := x0, benches := x1 } :=
  fun p hp => by cases p <;> first | rfl | exact absurd (by decide) hp

theorem Frame.sec_out (s : State) x0 x1 :
    Frame [.sec, .out] s { s with sec := x0, out := x1 } :=
  fun p hp => by cases p <;> first | rfl | exact absurd (by decide) hp

theorem modColl_frame :
    ∀ s x1 x2, Frame [.search] s (State.modColl s x1 x2) := by
  intro s x1 x2
  unfold State.modColl
  repeat' first
    | with_reducible apply Frame.refl
    | fail_if_no_progress (apply Frame.via; with_reducible apply Frame.search; decide)

theorem abandonTokens_frame :
    ∀ s x1, Frame [.search] s (State.abandonTokens s x1) := by
  intro s x1
  unfold State.abandonTokens
  repeat' first
    | with_reducible apply Frame.refl
    | (apply Frame.via; with_reducible apply modColl_frame; decide)
    | extract_lets +onlyGivenNames y
    | split
    | fail_if_no_progress (apply Frame.via; with_reducible apply Frame.search; decide)

theorem modCtrl_frame :
    ∀ s x1 x2, Frame [.ctrls] s (State.modCtrl s x1 x2) := by
  intro s x1 x2
  unfold State.modCtrl
  repeat' first
    | with_reducible apply Frame.refl
    | fail_if_no_progress (apply Frame.via; with_reducible apply Frame.ctrls; decide)

theorem emit_frame :
    ∀ s x1, Frame [.out] s (State.emit s x1) := by
  intro s x1
  unfold State.emit
  repeat' first
    | with_reducible apply Frame.refl
    | fail_if_no_progress (apply Frame.via; with_reducible apply Frame.out; decide)

theorem msix_frame :
    ∀ s x1 x2, Frame [.ctrls, .out] s (State.msix s x1 x2) := by
  intro s x1 x2
  unfold State.msix
  repeat' first
    | with_reducible apply Frame.refl
    | (apply Frame.via; with_reducible (first | apply emit_frame | apply modCtrl_frame); decide)
    | with_reducible apply Frame.ite

theorem post_frame :
    ∀ s x1, Frame [.ctrls, .out] s (State.post s x1) := by
  intro s x1
  unfold State.post
  repeat' first
    | with_reducible apply Frame.refl
    | (apply Frame.via; with_reducible (first | apply msix_frame | apply modCtrl_frame); decide)
    | extract_lets +onlyGivenNames y
    | split
    | fail_if_no_progress (apply Frame.via; with_reducible apply Frame.ctrls; decide)

theorem nvme_frame :
    ∀ s x1 x2 x3 x4, Frame [.ctrls, .out] s (State.nvme s x1 x2 x3 x4) := by
  intro s x1 x2 x3 x4
  unfold State.nvme
  repeat' first
    | with_reducible apply Frame.refl
    | (apply Frame.via; with_reducible apply post_frame; decide)

theorem abortLimit_frame :
    ∀ s x1, Frame [.ctrls, .out] s (State.abortLimit s x1) := by
  intro s x1
  unfold State.abortLimit
  repeat' first
    | with_reducible apply Frame.refl
    | (apply Frame.via; with_reducible apply nvme_frame; decide)

theorem addJob_frame :
    ∀ s x1, Frame [.sched] s (State.addJob s x1) := by
  intro s x1
  unfold State.addJob
  repeat' first
    | with_reducible apply Frame.refl
    | fail_if_no_progress (apply Frame.via; with_reducible apply Frame.sched; decide)

theorem setStore_frame :
    ∀ s x1 x2, Frame [.engines, .mem] s (State.setStore s x1 x2) := by
  intro s x1 x2
  unfold State.setStore
  repeat' first
    | with_reducible apply Frame.refl
    | split
    | fail_if_no_progress (apply Frame.via; with_reducible (first | apply Frame.engines | apply Frame.mem); decide)

theorem clearGranule_frame :
    ∀ s x1 x2, Frame [.engines, .mem] s (State.clearGranule s x1 x2) := by
  intro s x1 x2
  unfold State.clearGranule
  repeat' first
    | with_reducible apply Frame.refl
    | (apply Frame.via; with_reducible apply setStore_frame; decide)

theorem fresh_frame :
    ∀ s, Frame [.free] s (State.fresh s).2 := by
  intro s
  unfold State.fresh
  repeat' first
    | with_reducible apply Frame.refl
    | fail_if_no_progress (apply Frame.via; with_reducible apply Frame.free; decide)

theorem acceptJob_frame :
    ∀ s x1 x2 x3 x4 x5, Frame [.sched, .engines, .mem, .free] s (State.acceptJob s x1 x2 x3 x4 x5) := by
  intro s x1 x2 x3 x4 x5
  unfold State.acceptJob
  repeat' first
    | with_reducible apply Frame.refl
    | with_reducible assumption
    | (apply Frame.via; with_reducible (first | apply fresh_frame | apply clearGranule_frame | apply addJob_frame);
       decide)
    | with_reducible apply Frame.ite
    | (extract_lets +onlyGivenNames x; clear_value (e : x = _); apply Frame.cut x; (subst e); rotate_left;
       (intro h); (clear e); rotate_right)
    | extract_lets +onlyGivenNames y
    | split
    | (with_reducible apply Frame.foldlPair; rotate_left; intro u x; (try dsimp -zeta -proj -eta only); rotate_right)
    | (with_reducible apply Frame.foldl; rotate_left; intro u x; (try dsimp -zeta -proj -eta only); rotate_right)
    | (refine Frame.via ((fresh_frame _).of_eq (congrArg Prod.snd (by assumption))) (by decide) ?_)
    | fail_if_no_progress (dsimp +zetaDelta -zeta -proj -eta only)
    | fail_if_no_progress (dsimp -zeta -eta only)

theorem sessionLost_frame :
    ∀ s, Frame [.sec] s (State.sessionLost s) := by
  intro s
  unfold State.sessionLost
  repeat' first
    | with_reducible apply Frame.refl
    | fail_if_no_progress (apply Frame.via; with_reducible apply Frame.sec; decide)

theorem modRing_frame :
    ∀ s x1 x2, Frame [.errors] s (State.modRing s x1 x2) := by
  intro s x1 x2
  unfold State.modRing
  repeat' first
    | with_reducible apply Frame.refl
    | fail_if_no_progress (apply Frame.via; with_reducible apply Frame.errors; decide)

theorem signal_frame :
    ∀ s, Frame [.ctrls, .out] s (State.signal s) := by
  intro s
  unfold State.signal
  repeat' first
    | with_reducible apply Frame.refl
    | (apply Frame.via; with_reducible apply msix_frame; decide)
    | with_reducible apply Frame.ite

theorem ringLost_frame :
    ∀ s x1, Frame [.ctrls, .errors, .out] s (State.ringLost s x1) := by
  intro s x1
  unfold State.ringLost
  repeat' first
    | with_reducible apply Frame.refl
    | (apply Frame.via; with_reducible (first | apply signal_frame | apply modRing_frame); decide)
    | with_reducible apply Frame.ite

theorem report_frame :
    ∀ s x1 x2, Frame [.ctrls, .errors, .out] s (State.report s x1 x2) := by
  intro s x1 x2
  unfold State.report
  repeat' first
    | with_reducible apply Frame.refl
    | (apply Frame.via; with_reducible apply ringLost_frame; decide)
    | with_reducible apply Frame.ite
    | fail_if_no_progress (apply Frame.via; with_reducible apply Frame.errors; decide)

theorem reportSecurity_frame :
    ∀ s x1 x2 x3 x4 x5, Frame [.ctrls, .errors, .out] s (State.reportSecurity s x1 x2 x3 x4 x5) := by
  intro s x1 x2 x3 x4 x5
  unfold State.reportSecurity
  repeat' first
    | with_reducible apply Frame.refl
    | (apply Frame.via; with_reducible apply report_frame; decide)

theorem tagFail_frame :
    ∀ s, Frame [.ctrls, .errors, .sec, .out] s (State.tagFail s) := by
  intro s
  unfold State.tagFail
  repeat' first
    | with_reducible apply Frame.refl
    | (apply Frame.via; with_reducible apply reportSecurity_frame; decide)
    | fail_if_no_progress (apply Frame.via; with_reducible apply Frame.sec; decide)

theorem acceptMessage_frame :
    ∀ s x1, Frame [.ctrls, .errors, .sec, .out] s (State.acceptMessage s x1) := by
  intro s x1
  unfold State.acceptMessage
  repeat' first
    | with_reducible apply Frame.refl
    | (apply Frame.via; with_reducible (first | apply tagFail_frame | apply sessionLost_frame); decide)
    | extract_lets +onlyGivenNames y
    | split
    | fail_if_no_progress (apply Frame.via; with_reducible apply Frame.sec; decide)

theorem activationNeedsReset_frame :
    ∀ s x1, Frame [.ctrls, .out] s (State.activationNeedsReset s x1) := by
  intro s x1
  unfold State.activationNeedsReset
  repeat' first
    | with_reducible apply Frame.refl
    | (apply Frame.via; with_reducible apply nvme_frame; decide)

theorem modJob_frame :
    ∀ s x1 x2, Frame [.sched] s (State.modJob s x1 x2) := by
  intro s x1 x2
  unfold State.modJob
  repeat' first
    | with_reducible apply Frame.refl
    | fail_if_no_progress (apply Frame.via; with_reducible apply Frame.sched; decide)

theorem admitCommand_frame :
    ∀ s x1 x2, Frame [.sched, .search] s (State.admitCommand s x1 x2) := by
  intro s x1 x2
  unfold State.admitCommand
  repeat' first
    | with_reducible apply Frame.refl
    | (apply Frame.via; with_reducible (first | apply modJob_frame | apply modColl_frame); decide)
    | with_reducible apply Frame.ite
    | split
    | fail_if_no_progress (apply Frame.via; with_reducible (first | apply Frame.sched | apply Frame.search
                                                                  | apply Frame.sched_search); decide)

theorem markUnbound_frame :
    ∀ s x1, Frame [.sched] s (State.markUnbound s x1) := by
  intro s x1
  unfold State.markUnbound
  repeat' first
    | with_reducible apply Frame.refl
    | (apply Frame.via; with_reducible apply modJob_frame; decide)
    | split
    | fail_if_no_progress (apply Frame.via; with_reducible apply Frame.sched; decide)

theorem admitBound_frame :
    ∀ s x1 x2, Frame [.sched, .search] s (State.admitBound s x1 x2) := by
  intro s x1 x2
  unfold State.admitBound
  repeat' first
    | with_reducible apply Frame.refl
    | (apply Frame.via; with_reducible (first | apply markUnbound_frame | apply admitCommand_frame); decide)
    | with_reducible apply Frame.ite

theorem dropJob_frame :
    ∀ s x1, Frame [.sched] s (State.dropJob s x1) := by
  intro s x1
  unfold State.dropJob
  repeat' first
    | with_reducible apply Frame.refl
    | fail_if_no_progress (apply Frame.via; with_reducible apply Frame.sched; decide)

theorem refuseEnvelope_frame :
    ∀ s x1 x2, Frame [.ctrls, .out] s (State.refuseEnvelope s x1 x2) := by
  intro s x1 x2
  unfold State.refuseEnvelope
  repeat' first
    | with_reducible apply Frame.refl
    | (apply Frame.via; with_reducible apply post_frame; decide)

theorem deferC0_frame :
    ∀ s x1, Frame [.ctrls, .sched, .out] s (State.deferC0 s x1) := by
  intro s x1
  unfold State.deferC0
  repeat' first
    | with_reducible apply Frame.refl
    | (apply Frame.via; with_reducible (first | apply refuseEnvelope_frame | apply dropJob_frame
                                              | apply modJob_frame); decide)
    | with_reducible apply Frame.ite
    | fail_if_no_progress (apply Frame.via; with_reducible apply Frame.sched; decide)

theorem status_frame :
    ∀ s x1 x2 x3 x4 x5, Frame [.ctrls, .out] s (State.status s x1 x2 x3 x4 x5) := by
  intro s x1 x2 x3 x4 x5
  unfold State.status
  repeat' first
    | with_reducible apply Frame.refl
    | (apply Frame.via; with_reducible apply post_frame; decide)

theorem refuse_frame :
    ∀ s x1 x2, Frame [.ctrls, .out] s (State.refuse s x1 x2) := by
  intro s x1 x2
  unfold State.refuse
  repeat' first
    | with_reducible apply Frame.refl
    | (apply Frame.via; with_reducible apply status_frame; decide)

theorem charge_frame :
    ∀ s x1 x2 x3, Frame [.sched] s (State.charge s x1 x2 x3) := by
  intro s x1 x2 x3
  unfold State.charge
  repeat' first
    | with_reducible apply Frame.refl
    | (apply Frame.via; with_reducible apply modJob_frame; decide)
    | split
    | fail_if_no_progress (apply Frame.via; with_reducible apply Frame.sched; decide)

theorem modEngine_frame :
    ∀ s x1 x2, Frame [.engines] s (State.modEngine s x1 x2) := by
  intro s x1 x2
  unfold State.modEngine
  repeat' first
    | with_reducible apply Frame.refl
    | fail_if_no_progress (apply Frame.via; with_reducible apply Frame.engines; decide)

theorem chargeRun_frame :
    ∀ s x1, Frame [.sched, .engines] s (State.chargeRun s x1) := by
  intro s x1
  unfold State.chargeRun
  repeat' first
    | with_reducible apply Frame.refl
    | with_reducible assumption
    | (apply Frame.via; with_reducible (first | apply modEngine_frame | apply charge_frame); decide)
    | with_reducible apply Frame.ite
    | (extract_lets +onlyGivenNames x; clear_value (e : x = _); apply Frame.cut x; (subst e); rotate_left;
       (intro h); (clear e); rotate_right)
    | extract_lets +onlyGivenNames y
    | split
    | (with_reducible apply Frame.foldlPair; rotate_left; intro u x; (try dsimp -zeta -proj -eta only); rotate_right)
    | (with_reducible apply Frame.foldl; rotate_left; intro u x; (try dsimp -zeta -proj -eta only); rotate_right)
    | fail_if_no_progress (dsimp +zetaDelta -zeta -proj -eta only)
    | fail_if_no_progress (dsimp -zeta -eta only)

theorem countSwitch_frame :
    ∀ s, Frame [.sched] s (State.countSwitch s) := by
  intro s
  unfold State.countSwitch
  repeat' first
    | with_reducible apply Frame.refl
    | with_reducible assumption
    | with_reducible apply Frame.ite
    | (extract_lets +onlyGivenNames x; clear_value (e : x = _); apply Frame.cut x; (subst e); rotate_left;
       (intro h); (clear e); rotate_right)
    | extract_lets +onlyGivenNames y
    | split
    | (with_reducible apply Frame.foldlPair; rotate_left; intro u x; (try dsimp -zeta -proj -eta only); rotate_right)
    | (with_reducible apply Frame.foldl; rotate_left; intro u x; (try dsimp -zeta -proj -eta only); rotate_right)
    | fail_if_no_progress (apply Frame.via; with_reducible apply Frame.sched; decide)
    | fail_if_no_progress (dsimp +zetaDelta -zeta -proj -eta only)
    | fail_if_no_progress (dsimp -zeta -eta only)

theorem preempt_frame :
    ∀ s x1 x2, Frame [.sched, .engines] s (State.preempt s x1 x2) := by
  intro s x1 x2
  unfold State.preempt
  repeat' first
    | with_reducible apply Frame.refl
    | with_reducible assumption
    | (apply Frame.via; with_reducible (first | apply countSwitch_frame | apply chargeRun_frame
                                              | apply modEngine_frame); decide)
    | with_reducible apply Frame.ite
    | (extract_lets +onlyGivenNames x; clear_value (e : x = _); apply Frame.cut x; (subst e); rotate_left;
       (intro h); (clear e); rotate_right)
    | extract_lets +onlyGivenNames y
    | split
    | (with_reducible apply Frame.foldlPair; rotate_left; intro u x; (try dsimp -zeta -proj -eta only); rotate_right)
    | (with_reducible apply Frame.foldl; rotate_left; intro u x; (try dsimp -zeta -proj -eta only); rotate_right)
    | fail_if_no_progress (dsimp +zetaDelta -zeta -proj -eta only)
    | fail_if_no_progress (dsimp -zeta -eta only)

theorem loadHeals_frame :
    ∀ s x1, Frame [.mem] s (State.loadHeals s x1) := by
  intro s x1
  unfold State.loadHeals
  repeat' first
    | with_reducible apply Frame.refl
    | with_reducible assumption
    | with_reducible apply Frame.ite
    | (extract_lets +onlyGivenNames x; clear_value (e : x = _); apply Frame.cut x; (subst e); rotate_left;
       (intro h); (clear e); rotate_right)
    | extract_lets +onlyGivenNames y
    | split
    | (with_reducible apply Frame.foldlPair; rotate_left; intro u x; (try dsimp -zeta -proj -eta only); rotate_right)
    | (with_reducible apply Frame.foldl; rotate_left; intro u x; (try dsimp -zeta -proj -eta only); rotate_right)
    | fail_if_no_progress (apply Frame.via; with_reducible apply Frame.mem; decide)
    | fail_if_no_progress (dsimp +zetaDelta -zeta -proj -eta only)
    | fail_if_no_progress (dsimp -zeta -eta only)

theorem moveLocal_frame :
    ∀ s x1 x2 x3, Frame [.engines] s (State.moveLocal s x1 x2 x3) := by
  intro s x1 x2 x3
  unfold State.moveLocal
  repeat' first
    | with_reducible apply Frame.refl
    | (apply Frame.via; with_reducible apply modEngine_frame; decide)
    | with_reducible apply Frame.ite

theorem freshN_frame :
    ∀ s x1, Frame [.free] s (State.freshN s x1).2 := by
  intro s x1
  unfold State.freshN
  repeat' first
    | with_reducible apply Frame.refl
    | fail_if_no_progress (apply Frame.via; with_reducible apply Frame.free; decide)

theorem seedLocal_frame :
    ∀ s x1 x2, Frame [.engines, .free] s (State.seedLocal s x1 x2) := by
  intro s x1 x2
  unfold State.seedLocal
  repeat' first
    | with_reducible apply Frame.refl
    | (apply Frame.via; with_reducible (first | apply freshN_frame | apply modEngine_frame | apply fresh_frame);
       decide)
    | with_reducible apply Frame.ite

theorem modCache_frame :
    ∀ s x1 x2, Frame [.cache] s (State.modCache s x1 x2) := by
  intro s x1 x2
  unfold State.modCache
  repeat' first
    | with_reducible apply Frame.refl
    | fail_if_no_progress (apply Frame.via; with_reducible apply Frame.cache; decide)

theorem releaseGranules_frame :
    ∀ s x1, Frame [.mem] s (State.releaseGranules s x1) := by
  intro s x1
  unfold State.releaseGranules
  repeat' first
    | with_reducible apply Frame.refl
    | fail_if_no_progress (apply Frame.via; with_reducible apply Frame.mem; decide)

theorem recache_frame :
    ∀ s x1 x2, Frame [.engines, .mem, .cache] s (State.recache s x1 x2) := by
  intro s x1 x2
  unfold State.recache
  repeat' first
    | with_reducible apply Frame.refl
    | (apply Frame.via; with_reducible (first | apply releaseGranules_frame | apply clearGranule_frame
                                              | apply modCache_frame); decide)
    | (with_reducible apply Frame.foldl; rotate_left; intro u x; (try dsimp -zeta -proj -eta only); rotate_right)

theorem takeQuarter_frame :
    ∀ s x1 x2, Frame [.free] s (State.takeQuarter s x1 x2).2 := by
  intro s x1 x2
  unfold State.takeQuarter
  repeat' first
    | with_reducible apply Frame.refl
    | (apply Frame.via; with_reducible apply fresh_frame; decide)

theorem promote_frame :
    ∀ s x1 x2 x3, Frame [.engines, .mem, .cache, .free] s (State.promote s x1 x2 x3) := by
  intro s x1 x2 x3
  unfold State.promote
  repeat' first
    | with_reducible apply Frame.refl
    | (apply Frame.via; with_reducible (first | apply takeQuarter_frame | apply recache_frame
                                              | apply modCache_frame); decide)
    | with_reducible apply Frame.ite
    | split
    | (refine Frame.via ((takeQuarter_frame _ _ _).of_eq (congrArg Prod.snd (by assumption))) (by decide) ?_)

theorem takeStacked_frame :
    ∀ s x1 x2, Frame [.free] s (State.takeStacked s x1 x2).2 := by
  intro s x1 x2
  unfold State.takeStacked
  repeat' first
    | with_reducible apply Frame.refl
    | (apply Frame.via; with_reducible apply fresh_frame; decide)

theorem startStaging_frame :
    ∀ s x1 x2, Frame [.engines, .mem, .cache, .free] s (State.startStaging s x1 x2) := by
  intro s x1 x2
  unfold State.startStaging
  repeat' first
    | with_reducible apply Frame.refl
    | (apply Frame.via; with_reducible (first | apply takeStacked_frame | apply recache_frame
                                              | apply modCache_frame); decide)
    | with_reducible apply Frame.ite
    | split
    | (refine Frame.via ((takeStacked_frame _ _ _).of_eq (congrArg Prod.snd (by assumption))) (by decide) ?_)

theorem doPromotionRequest_frame :
    ∀ x0 x1 x2 x3 s, Frame [.engines, .mem, .cache, .free] s (doPromotionRequest x0 x1 x2 x3 s) := by
  intro x0 x1 x2 x3 s
  unfold doPromotionRequest
  repeat' first
    | with_reducible apply Frame.refl
    | (apply Frame.via; with_reducible (first | apply startStaging_frame | apply promote_frame
                                              | apply modCache_frame); decide)
    | with_reducible apply Frame.ite
    | split

theorem beginUnit_frame :
    ∀ s x1 x2 x3, Frame [.sched, .engines, .mem, .cache, .free] s (State.beginUnit s x1 x2 x3) := by
  intro s x1 x2 x3
  unfold State.beginUnit
  repeat' first
    | with_reducible apply Frame.refl
    | with_reducible assumption
    | (apply Frame.via; with_reducible (first | apply doPromotionRequest_frame | apply seedLocal_frame
                                              | apply moveLocal_frame | apply loadHeals_frame
                                                  | apply modEngine_frame | apply modJob_frame); decide)
    | with_reducible apply Frame.ite
    | (extract_lets +onlyGivenNames x; clear_value (e : x = _); apply Frame.cut x; (subst e); rotate_left;
       (intro h); (clear e); rotate_right)
    | extract_lets +onlyGivenNames y
    | split
    | (with_reducible apply Frame.foldlPair; rotate_left; intro u x; (try dsimp -zeta -proj -eta only); rotate_right)
    | (with_reducible apply Frame.foldl; rotate_left; intro u x; (try dsimp -zeta -proj -eta only); rotate_right)
    | fail_if_no_progress (dsimp +zetaDelta -zeta -proj -eta only)
    | fail_if_no_progress (dsimp -zeta -eta only)

theorem startNext_frame :
    ∀ s x1, Frame [.sched, .engines, .mem, .cache, .free] s (State.startNext s x1) := by
  intro s x1
  unfold State.startNext
  repeat' first
    | with_reducible apply Frame.refl
    | (apply Frame.via; with_reducible apply beginUnit_frame; decide)
    | split

theorem placeOn_frame :
    ∀ s x1 x2 x3 x4 x5 x6, Frame [.sched, .engines, .mem, .cache, .free] s (State.placeOn s x1 x2 x3 x4 x5 x6) := by
  intro s x1 x2 x3 x4 x5 x6
  unfold State.placeOn
  repeat' first
    | with_reducible apply Frame.refl
    | with_reducible assumption
    | (apply Frame.via; with_reducible (first | apply startNext_frame | apply preempt_frame | apply chargeRun_frame
                                              | apply modJob_frame); decide)
    | with_reducible apply Frame.ite
    | (extract_lets +onlyGivenNames x; clear_value (e : x = _); apply Frame.cut x; (subst e); rotate_left;
       (intro h); (clear e); rotate_right)
    | extract_lets +onlyGivenNames y
    | split
    | (with_reducible apply Frame.foldlPair; rotate_left; intro u x; (try dsimp -zeta -proj -eta only); rotate_right)
    | (with_reducible apply Frame.foldl; rotate_left; intro u x; (try dsimp -zeta -proj -eta only); rotate_right)
    | fail_if_no_progress (dsimp +zetaDelta -zeta -proj -eta only)
    | fail_if_no_progress (dsimp -zeta -eta only)

theorem startFront_frame :
    ∀ s x1 x2 x3, Frame [.sched, .engines, .mem, .cache, .free] s (State.startFront s x1 x2 x3) := by
  intro s x1 x2 x3
  unfold State.startFront
  repeat' first
    | with_reducible apply Frame.refl
    | (apply Frame.via; with_reducible (first | apply placeOn_frame | apply modJob_frame); decide)

theorem takeFront_frame :
    ∀ s x1 x2 x3, Frame [.sched, .engines, .mem, .cache, .free] s (State.takeFront s x1 x2 x3) := by
  intro s x1 x2 x3
  unfold State.takeFront
  repeat' first
    | with_reducible apply Frame.refl
    | (apply Frame.via; with_reducible (first | apply startFront_frame | apply preempt_frame | apply modJob_frame);
       decide)
    | with_reducible apply Frame.ite

theorem admitC0_frame : ∀ m acc k, Frame [.ctrls, .sched, .engines, .mem, .cache, .search, .out, .free]
    acc.1 (State.admitC0 m acc k).1 := by
  rintro m ⟨s, n⟩ k
  unfold State.admitC0
  dsimp -proj -eta only
  repeat' first
    | with_reducible apply Frame.refl
    | (apply Frame.via; with_reducible (first | apply takeFront_frame | apply refuse_frame | apply deferC0_frame
                                              | apply dropJob_frame | apply admitBound_frame | apply modJob_frame);
                                                  decide)
    | split
    | fail_if_no_progress (apply Frame.via; with_reducible apply Frame.sched; decide)

theorem admitOther_frame :
    ∀ x0 s x2, Frame [.ctrls, .sched, .engines, .mem, .cache, .search, .out, .free] s (State.admitOther x0 s x2) := by
  intro x0 s x2
  unfold State.admitOther
  repeat' first
    | with_reducible apply Frame.refl
    | (apply Frame.via; with_reducible (first | apply startFront_frame | apply refuse_frame | apply dropJob_frame
                                              | apply admitCommand_frame); decide)
    | split

theorem placeFront_frame :
    ∀ x0 s x2, Frame [.sched, .engines, .mem, .cache, .free] s (State.placeFront x0 s x2) := by
  intro x0 s x2
  unfold State.placeFront
  repeat' first
    | with_reducible apply Frame.refl
    | with_reducible assumption
    | (apply Frame.via; with_reducible apply startFront_frame; decide)
    | with_reducible apply Frame.ite
    | (extract_lets +onlyGivenNames x; clear_value (e : x = _); apply Frame.cut x; (subst e); rotate_left;
       (intro h); (clear e); rotate_right)
    | extract_lets +onlyGivenNames y
    | split
    | (with_reducible apply Frame.foldlPair; rotate_left; intro u x; (try dsimp -zeta -proj -eta only); rotate_right)
    | (with_reducible apply Frame.foldl; rotate_left; intro u x; (try dsimp -zeta -proj -eta only); rotate_right)
    | fail_if_no_progress (dsimp +zetaDelta -zeta -proj -eta only)
    | fail_if_no_progress (dsimp -zeta -eta only)

theorem admissionStep_frame :
    ∀ s x1, Frame [.ctrls, .sched, .engines, .mem, .cache, .search, .out, .free] s (State.admissionStep s x1) := by
  intro s x1
  unfold State.admissionStep
  repeat' first
    | with_reducible apply Frame.refl
    | (apply Frame.via; with_reducible (first | apply placeFront_frame | apply admitOther_frame
                                              | apply admitC0_frame); decide)
    | (with_reducible apply Frame.foldlPair; rotate_left; intro u x; (try dsimp -zeta -proj -eta only); rotate_right)
    | (with_reducible apply Frame.foldl; rotate_left; intro u x; (try dsimp -zeta -proj -eta only); rotate_right)
    | fail_if_no_progress (apply Frame.via; with_reducible apply Frame.sched; decide)

theorem success_frame :
    ∀ s x1 x2 x3 x4, Frame [.ctrls, .out] s (State.success s x1 x2 x3 x4) := by
  intro s x1 x2 x3 x4
  unfold State.success
  repeat' first
    | with_reducible apply Frame.refl
    | (apply Frame.via; with_reducible apply post_frame; decide)

theorem aerEvent_frame :
    ∀ s x1 x2, Frame [.ctrls, .out] s (State.aerEvent s x1 x2) := by
  intro s x1 x2
  unfold State.aerEvent
  repeat' first
    | with_reducible apply Frame.refl
    | (apply Frame.via; with_reducible (first | apply success_frame | apply modCtrl_frame); decide)
    | with_reducible apply Frame.ite
    | split

theorem modPower_frame :
    ∀ s x1, Frame [.power] s (State.modPower s x1) := by
  intro s x1
  unfold State.modPower
  repeat' first
    | with_reducible apply Frame.refl
    | fail_if_no_progress (apply Frame.via; with_reducible apply Frame.power; decide)

theorem allocate_frame :
    ∀ s, Frame [.power] s (State.allocate s) := by
  intro s
  unfold State.allocate
  repeat' first
    | with_reducible apply Frame.refl
    | with_reducible assumption
    | (apply Frame.via; with_reducible apply modPower_frame; decide)
    | with_reducible apply Frame.ite
    | (extract_lets +onlyGivenNames x; clear_value (e : x = _); apply Frame.cut x; (subst e); rotate_left;
       (intro h); (clear e); rotate_right)
    | extract_lets +onlyGivenNames y
    | split
    | (with_reducible apply Frame.foldlPair; rotate_left; intro u x; (try dsimp -zeta -proj -eta only); rotate_right)
    | (with_reducible apply Frame.foldl; rotate_left; intro u x; (try dsimp -zeta -proj -eta only); rotate_right)
    | fail_if_no_progress (dsimp +zetaDelta -zeta -proj -eta only)
    | fail_if_no_progress (dsimp -zeta -eta only)

theorem annealAll_frame :
    ∀ s, Frame [.engines, .mem, .cache] s (State.annealAll s) := by
  intro s
  unfold State.annealAll
  repeat' first
    | with_reducible apply Frame.refl
    | fail_if_no_progress (apply Frame.via; with_reducible (first | apply Frame.engines | apply Frame.mem
                                                                  | apply Frame.cache
                                                                      | apply Frame.engines_mem_cache); decide)

theorem dropCopies_frame :
    ∀ s x1 x2, Frame [.engines, .mem, .cache] s (State.dropCopies s x1 x2) := by
  intro s x1 x2
  unfold State.dropCopies
  repeat' first
    | with_reducible apply Frame.refl
    | (apply Frame.via; with_reducible apply recache_frame; decide)

theorem dropTailDirt_frame :
    ∀ s x1, Frame [.mem] s (State.dropTailDirt s x1) := by
  intro s x1
  unfold State.dropTailDirt
  repeat' first
    | with_reducible apply Frame.refl
    | fail_if_no_progress (apply Frame.via; with_reducible apply Frame.mem; decide)

theorem annealMove_frame :
    ∀ s x1 x2, Frame [.engines, .mem, .cache] s (State.annealMove s x1 x2) := by
  intro s x1 x2
  unfold State.annealMove
  repeat' first
    | with_reducible apply Frame.refl
    | (apply Frame.via; with_reducible (first | apply dropTailDirt_frame | apply dropCopies_frame
                                              | apply setStore_frame | apply modEngine_frame); decide)
    | split
    | (with_reducible apply Frame.foldl; rotate_left; intro u x; (try dsimp -zeta -proj -eta only); rotate_right)
    | fail_if_no_progress (apply Frame.via; with_reducible apply Frame.mem; decide)

theorem annealScratch_frame :
    ∀ s x1, Frame [.engines, .mem] s (State.annealScratch s x1) := by
  intro s x1
  unfold State.annealScratch
  repeat' first
    | with_reducible apply Frame.refl
    | (apply Frame.via; with_reducible (first | apply releaseGranules_frame | apply clearGranule_frame); decide)
    | (with_reducible apply Frame.foldl; rotate_left; intro u x; (try dsimp -zeta -proj -eta only); rotate_right)

theorem cleanTail_frame :
    ∀ s x1 x2 x3, Frame [.mem] s (State.cleanTail s x1 x2 x3) := by
  intro s x1 x2 x3
  unfold State.cleanTail
  repeat' first
    | with_reducible apply Frame.refl
    | with_reducible apply Frame.ite
    | fail_if_no_progress (apply Frame.via; with_reducible apply Frame.mem; decide)

theorem copyHome_frame :
    ∀ s x1, Frame [.search] s (State.copyHome s x1) := by
  intro s x1
  unfold State.copyHome
  repeat' first
    | with_reducible apply Frame.refl
    | with_reducible assumption
    | with_reducible apply Frame.ite
    | (extract_lets +onlyGivenNames x; clear_value (e : x = _); apply Frame.cut x; (subst e); rotate_left;
       (intro h); (clear e); rotate_right)
    | extract_lets +onlyGivenNames y
    | split
    | (with_reducible apply Frame.foldlPair; rotate_left; intro u x; (try dsimp -zeta -proj -eta only); rotate_right)
    | (with_reducible apply Frame.foldl; rotate_left; intro u x; (try dsimp -zeta -proj -eta only); rotate_right)
    | fail_if_no_progress (apply Frame.via; with_reducible apply Frame.search; decide)
    | fail_if_no_progress (dsimp +zetaDelta -zeta -proj -eta only)
    | fail_if_no_progress (dsimp -zeta -eta only)

theorem modBench_frame :
    ∀ s x1 x2, Frame [.benches] s (State.modBench s x1 x2) := by
  intro s x1 x2
  unfold State.modBench
  repeat' first
    | with_reducible apply Frame.refl
    | fail_if_no_progress (apply Frame.via; with_reducible apply Frame.benches; decide)

theorem modFlash_frame :
    ∀ s x1 x2, Frame [.flash] s (State.modFlash s x1 x2) := by
  intro s x1 x2
  unfold State.modFlash
  repeat' first
    | with_reducible apply Frame.refl
    | fail_if_no_progress (apply Frame.via; with_reducible apply Frame.flash; decide)

theorem bringTail_frame :
    ∀ s x1 x2 x3 u, State.bringTail s x1 x2 x3 = some u → Frame [.mem, .search, .benches, .flash] s u := by
  intro s x1 x2 x3 u e
  unfold State.bringTail at e
  dsimp -proj -eta only at e
  repeat' split at e
  all_goals first | (cases e; done) | cases e
  all_goals repeat' first
    | with_reducible apply Frame.refl
    | with_reducible assumption
    | (apply Frame.via; with_reducible (first | apply modFlash_frame | apply modBench_frame | apply copyHome_frame
                                              | apply cleanTail_frame); decide)
    | with_reducible apply Frame.ite
    | (extract_lets +onlyGivenNames x; clear_value (e : x = _); apply Frame.cut x; (subst e); rotate_left;
       (intro h); (clear e); rotate_right)
    | extract_lets +onlyGivenNames y
    | split
    | (with_reducible apply Frame.foldlPair; rotate_left; intro u x; (try dsimp -zeta -proj -eta only); rotate_right)
    | (with_reducible apply Frame.foldl; rotate_left; intro u x; (try dsimp -zeta -proj -eta only); rotate_right)
    | fail_if_no_progress (dsimp +zetaDelta -zeta -proj -eta only)
    | fail_if_no_progress (dsimp -zeta -eta only)

theorem bringTails_frame :
    ∀ s x1 x2 x3 u, State.bringTails s x1 x2 x3 = some u → Frame [.mem, .search, .benches, .flash] s u := by
  intro s x1 x2 x3 u e
  induction x3 generalizing s with
  | nil => cases e; exact Frame.refl _
  | cons y ys ih =>
    unfold State.bringTails at e
    split at e
    · next t h => exact Frame.trans (ih _ e) (bringTail_frame _ _ _ _ _ h)
    · cases e

theorem dirtyWrite_frame :
    ∀ s x1 x2 x3, Frame [.mem, .cache] s (State.dirtyWrite s x1 x2 x3).1 := by
  intro s x1 x2 x3
  unfold State.dirtyWrite
  repeat' first
    | with_reducible apply Frame.refl
    | (apply Frame.via; with_reducible apply modCache_frame; decide)
    | split
    | fail_if_no_progress (apply Frame.via; with_reducible apply Frame.mem; decide)

theorem recountUsed_frame :
    ∀ s x1, Frame [.flash] s (State.recountUsed s x1) := by
  intro s x1
  unfold State.recountUsed
  repeat' first
    | with_reducible apply Frame.refl
    | (apply Frame.via; with_reducible apply modFlash_frame; decide)

theorem noteStripes_frame : ∀ o s x, Frame [.mem, .cache, .flash] s (State.noteStripes o s x) := by
  intro o s x
  unfold State.noteStripes
  exact Frame.via (recountUsed_frame _ _) (by decide)
    (Frame.ite (Frame.refl s) (Frame.via (dirtyWrite_frame _ _ _ _) (by decide) (Frame.refl s)))

theorem programHome_frame :
    ∀ s x1 x2 u, State.programHome s x1 x2 = some u → Frame [.flash] s u := by
  intro s x1 x2 u e
  unfold State.programHome at e
  dsimp only at e
  split at e
  · obtain ⟨f, -, rfl⟩ := Option.map_eq_some_iff.mp e
    exact Frame.via (modFlash_frame _ _ _) (by decide) (Frame.refl s)
  · split at e
    · cases e
      exact Frame.via (modFlash_frame _ _ _) (by decide) (Frame.via (modFlash_frame _ _ _) (by decide) (Frame.refl s))
    · cases e

theorem granuleHome_frame : ∀ s x1 x2, Frame [.mem, .cache, .search, .flash] s (State.granuleHome s x1 x2) := by
  intro s q g
  unfold State.granuleHome
  split
  · exact Frame.refl s
  · next t h =>
    refine Frame.via (noteStripes_frame _ _ _) (by decide) (Frame.via (noteStripes_frame _ _ _) (by decide)
      (Frame.via (copyHome_frame _ _) (by decide) (Frame.via (Frame.mem_flash t _ _) (by decide)
      (Frame.via (programHome_frame _ _ _ _ h) (by decide) (Frame.refl s)))))

theorem dirtyThrough_frame :
    ∀ s x1 x2 x3, Frame [.mem, .cache, .search, .flash] s (State.dirtyThrough s x1 x2 x3).1 := by
  intro s x1 x2 x3
  unfold State.dirtyThrough
  repeat' first
    | with_reducible apply Frame.refl
    | (apply Frame.via; with_reducible (first | apply granuleHome_frame | apply dirtyWrite_frame
                                              | apply modCache_frame); decide)
    | extract_lets +onlyGivenNames y
    | split

theorem dirtyTails_frame :
    ∀ s x1 x2 x3, Frame [.mem, .cache, .search, .flash] s (State.dirtyTails s x1 x2 x3).1 := by
  intro s x1 x2 x3
  induction x3 generalizing s with
  | nil => exact Frame.refl _
  | cons x xs ih =>
    unfold State.dirtyTails
    repeat' first
      | with_reducible apply Frame.refl
      | (apply Frame.via; with_reducible apply ih; exact fun p hp => hp)
      | split
      | (refine Frame.via ((dirtyThrough_frame _ _ _ _).of_eq (congrArg Prod.fst (by assumption))) (by decide) ?_)

theorem modList_frame :
    ∀ s x1 x2, Frame [.search] s (State.modList s x1 x2) := by
  intro s x1 x2
  unfold State.modList
  repeat' first
    | with_reducible apply Frame.refl
    | fail_if_no_progress (apply Frame.via; with_reducible apply Frame.search; decide)

theorem modObj_frame :
    ∀ s x1 x2, Frame [.search] s (State.modObj s x1 x2) := by
  intro s x1 x2
  unfold State.modObj
  repeat' first
    | with_reducible apply Frame.refl
    | fail_if_no_progress (apply Frame.via; with_reducible apply Frame.search; decide)

theorem dirtyMap_frame :
    ∀ s x1 x2, Frame [.mem, .cache, .search, .flash] s (State.dirtyMap s x1 x2) := by
  intro s x1 x2
  unfold State.dirtyMap
  repeat' first
    | with_reducible apply Frame.refl
    | (apply Frame.via; with_reducible apply dirtyThrough_frame; decide)

theorem moveTo_frame :
    ∀ s x1 x2, Frame [.mem, .cache, .search, .flash] s (State.moveTo s x1 x2) := by
  intro s x1 x2
  unfold State.moveTo
  repeat' first
    | with_reducible apply Frame.refl
    | (apply Frame.via; with_reducible (first | apply dirtyThrough_frame | apply modFlash_frame); decide)
    | (with_reducible apply Frame.foldl; rotate_left; intro u x; (try dsimp -zeta -proj -eta only); rotate_right)
    | extract_lets +onlyGivenNames y
    | with_reducible apply Frame.ite

theorem storeTable_frame :
    ∀ s x1, Frame [.mem, .cache, .search, .flash] s (State.storeTable s x1) := by
  intro s x1
  unfold State.storeTable
  repeat' first
    | with_reducible apply Frame.refl
    | with_reducible assumption
    | (apply Frame.via; with_reducible (first | apply moveTo_frame | apply recountUsed_frame); decide)
    | with_reducible apply Frame.ite
    | (extract_lets +onlyGivenNames x; clear_value (e : x = _); apply Frame.cut x; (subst e); rotate_left;
       (intro h); (clear e); rotate_right)
    | extract_lets +onlyGivenNames y
    | split
    | (with_reducible apply Frame.foldlPair; rotate_left; intro u x; (try dsimp -zeta -proj -eta only); rotate_right)
    | (with_reducible apply Frame.foldl; rotate_left; intro u x; (try dsimp -zeta -proj -eta only); rotate_right)
    | fail_if_no_progress (dsimp +zetaDelta -zeta -proj -eta only)
    | fail_if_no_progress (dsimp -zeta -eta only)

theorem storeTables_frame :
    ∀ s x1, Frame [.mem, .cache, .search, .flash] s (State.storeTables s x1) := by
  intro s x1
  unfold State.storeTables
  repeat' first
    | with_reducible apply Frame.refl
    | with_reducible assumption
    | (apply Frame.via; with_reducible apply storeTable_frame; decide)
    | with_reducible apply Frame.ite
    | (extract_lets +onlyGivenNames x; clear_value (e : x = _); apply Frame.cut x; (subst e); rotate_left;
       (intro h); (clear e); rotate_right)
    | extract_lets +onlyGivenNames y
    | split
    | (with_reducible apply Frame.foldlPair; rotate_left; intro u x; (try dsimp -zeta -proj -eta only); rotate_right)
    | (with_reducible apply Frame.foldl; rotate_left; intro u x; (try dsimp -zeta -proj -eta only); rotate_right)
    | fail_if_no_progress (dsimp +zetaDelta -zeta -proj -eta only)
    | fail_if_no_progress (dsimp -zeta -eta only)

theorem endReading_frame :
    ∀ s x1 x2 x3, Frame [.mem, .cache, .search, .benches, .flash] s (State.endReading s x1 x2 x3) := by
  intro s x1 x2 x3
  unfold State.endReading
  repeat' first
    | with_reducible apply Frame.refl
    | with_reducible assumption
    | (apply Frame.via; with_reducible (first | apply storeTables_frame | apply dirtyMap_frame | apply modObj_frame
                                              | apply modBench_frame); decide)
    | with_reducible apply Frame.ite
    | (extract_lets +onlyGivenNames x; clear_value (e : x = _); apply Frame.cut x; (subst e); rotate_left;
       (intro h); (clear e); rotate_right)
    | extract_lets +onlyGivenNames y
    | split
    | (with_reducible apply Frame.foldlPair; rotate_left; intro u x; (try dsimp -zeta -proj -eta only); rotate_right)
    | (with_reducible apply Frame.foldl; rotate_left; intro u x; (try dsimp -zeta -proj -eta only); rotate_right)
    | fail_if_no_progress (dsimp +zetaDelta -zeta -proj -eta only)
    | fail_if_no_progress (dsimp -zeta -eta only)

theorem settleReading_frame :
    ∀ s x1, Frame [.mem, .cache, .search, .benches, .flash] s (State.settleReading s x1) := by
  intro s x1
  unfold State.settleReading
  repeat' first
    | with_reducible apply Frame.refl
    | (apply Frame.via; with_reducible apply endReading_frame; decide)
    | split

theorem append_frame : ∀ s x1 x2, Frame [.mem, .cache, .search, .benches, .flash] s (State.append s x1 x2).1 := by
  intro s l r
  unfold State.append
  dsimp only
  split
  · exact Frame.refl s
  · split
    · exact Frame.refl s
    · next s1 h1 =>
      have g1 : Frame [.mem, .cache, .search, .benches, .flash] s s1 := Frame.via (bringTails_frame _ _ _ _ _ h1)
          (by decide) (Frame.refl s)
      split
      · next s2 h2 => exact Frame.via ((dirtyTails_frame _ _ _ _).of_eq (congrArg Prod.fst h2)) (by decide) g1
      · next s2 h2 =>
        have g2 := Frame.via ((dirtyTails_frame _ _ _ _).of_eq (congrArg Prod.fst h2)) (by decide) g1
        have g3 := Frame.via (dirtyThrough_frame s2 (quarterOfBench l.bench) (directoryGranule l.num) 4)
            (by decide) g2
        split
        · exact g3
        · refine Frame.via (settleReading_frame _ _) (by decide)
            (Frame.via (modBench_frame _ _ _) (by decide) (Frame.via
            (modObj_frame _ _ _) (by decide)
                (Frame.via (Frame.search _ _) (by decide) (Frame.via (modList_frame _ _ _)
            (by decide) g3))))

theorem appendWaits_frame :
    ∀ s x1 x2 x3, Frame [.search] s (State.appendWaits s x1 x2 x3).1 := by
  intro s x1 x2 x3
  unfold State.appendWaits
  repeat' first
    | with_reducible apply Frame.refl
    | with_reducible assumption
    | (apply Frame.via; with_reducible apply modColl_frame; decide)
    | with_reducible apply Frame.ite
    | (extract_lets +onlyGivenNames x; clear_value (e : x = _); apply Frame.cut x; (subst e); rotate_left;
       (intro h); (clear e); rotate_right)
    | extract_lets +onlyGivenNames y
    | split
    | (with_reducible apply Frame.foldlPair; rotate_left; intro u x; (try dsimp -zeta -proj -eta only); rotate_right)
    | (with_reducible apply Frame.foldl; rotate_left; intro u x; (try dsimp -zeta -proj -eta only); rotate_right)
    | fail_if_no_progress (dsimp +zetaDelta -zeta -proj -eta only)
    | fail_if_no_progress (dsimp -zeta -eta only)

theorem deferColls_frame :
    ∀ s x1 x2, Frame [.mem, .cache, .search, .benches, .flash] s (State.deferColls s x1 x2) := by
  intro s x1 x2
  unfold State.deferColls
  repeat' first
    | with_reducible apply Frame.refl
    | with_reducible assumption
    | (apply Frame.via; with_reducible apply dirtyMap_frame; decide)
    | with_reducible apply Frame.ite
    | (extract_lets +onlyGivenNames x; clear_value (e : x = _); apply Frame.cut x; (subst e); rotate_left;
       (intro h); (clear e); rotate_right)
    | extract_lets +onlyGivenNames y
    | split
    | (with_reducible apply Frame.foldlPair; rotate_left; intro u x; (try dsimp -zeta -proj -eta only); rotate_right)
    | (with_reducible apply Frame.foldl; rotate_left; intro u x; (try dsimp -zeta -proj -eta only); rotate_right)
    | fail_if_no_progress (apply Frame.via; with_reducible (first | apply Frame.search | apply Frame.benches
                                                                  | apply Frame.search_benches); decide)
    | fail_if_no_progress (dsimp +zetaDelta -zeta -proj -eta only)
    | fail_if_no_progress (dsimp -zeta -eta only)

theorem keyGone_frame :
    ∀ s x1, Frame [.ctrls, .sched, .mem, .cache, .search, .benches, .flash, .out] s (State.keyGone s x1) := by
  intro s x1
  unfold State.keyGone
  repeat' first
    | with_reducible apply Frame.refl
    | with_reducible assumption
    | (apply Frame.via; with_reducible (first | apply deferColls_frame | apply refuse_frame | apply dropJob_frame);
       decide)
    | with_reducible apply Frame.ite
    | (extract_lets +onlyGivenNames x; clear_value (e : x = _); apply Frame.cut x; (subst e); rotate_left;
       (intro h); (clear e); rotate_right)
    | extract_lets +onlyGivenNames y
    | split
    | (with_reducible apply Frame.foldlPair; rotate_left; intro u x; (try dsimp -zeta -proj -eta only); rotate_right)
    | (with_reducible apply Frame.foldl; rotate_left; intro u x; (try dsimp -zeta -proj -eta only); rotate_right)
    | fail_if_no_progress (apply Frame.via; with_reducible apply Frame.sched; decide)
    | fail_if_no_progress (dsimp +zetaDelta -zeta -proj -eta only)
    | fail_if_no_progress (dsimp -zeta -eta only)

theorem keysArrived_frame :
    ∀ s, Frame [.search] s (State.keysArrived s) := by
  intro s
  unfold State.keysArrived
  repeat' first
    | with_reducible apply Frame.refl
    | fail_if_no_progress (apply Frame.via; with_reducible apply Frame.search; decide)

theorem applyKeys_frame :
    ∀ s, Frame [.ctrls, .sched, .mem, .cache, .search, .benches, .flash, .sec, .out] s (State.applyKeys s) := by
  intro s
  unfold State.applyKeys
  repeat' first
    | with_reducible apply Frame.refl
    | with_reducible assumption
    | (apply Frame.via; with_reducible (first | apply keysArrived_frame | apply keyGone_frame); decide)
    | with_reducible apply Frame.ite
    | (extract_lets +onlyGivenNames x; clear_value (e : x = _); apply Frame.cut x; (subst e); rotate_left;
       (intro h); (clear e); rotate_right)
    | extract_lets +onlyGivenNames y
    | split
    | (with_reducible apply Frame.foldlPair; rotate_left; intro u x; (try dsimp -zeta -proj -eta only); rotate_right)
    | (with_reducible apply Frame.foldl; rotate_left; intro u x; (try dsimp -zeta -proj -eta only); rotate_right)
    | fail_if_no_progress (apply Frame.via; with_reducible apply Frame.sec; decide)
    | fail_if_no_progress (dsimp +zetaDelta -zeta -proj -eta only)
    | fail_if_no_progress (dsimp -zeta -eta only)

theorem bindParts_frame :
    ∀ s x1, Frame [.engines, .benches] s (State.bindParts s x1) := by
  intro s x1
  unfold State.bindParts
  repeat' first
    | with_reducible apply Frame.refl
    | split
    | fail_if_no_progress (apply Frame.via; with_reducible (first | apply Frame.engines | apply Frame.benches
                                                                  | apply Frame.engines_benches); decide)

theorem capSettle_frame :
    ∀ s, Frame [.power] s (State.capSettle s) := by
  intro s
  unfold State.capSettle
  repeat' first
    | with_reducible apply Frame.refl
    | with_reducible assumption
    | (apply Frame.via; with_reducible (first | apply allocate_frame | apply modPower_frame); decide)
    | with_reducible apply Frame.ite
    | (extract_lets +onlyGivenNames x; clear_value (e : x = _); apply Frame.cut x; (subst e); rotate_left;
       (intro h); (clear e); rotate_right)
    | extract_lets +onlyGivenNames y
    | split
    | (with_reducible apply Frame.foldlPair; rotate_left; intro u x; (try dsimp -zeta -proj -eta only); rotate_right)
    | (with_reducible apply Frame.foldl; rotate_left; intro u x; (try dsimp -zeta -proj -eta only); rotate_right)
    | fail_if_no_progress (dsimp +zetaDelta -zeta -proj -eta only)
    | fail_if_no_progress (dsimp -zeta -eta only)

theorem setKcv_frame :
    ∀ s x1 x2, Frame [.mem, .cache, .search, .flash] s (State.setKcv s x1 x2) := by
  intro s x1 x2
  unfold State.setKcv
  repeat' first
    | with_reducible apply Frame.refl
    | with_reducible assumption
    | (apply Frame.via; with_reducible (first | apply dirtyThrough_frame | apply modColl_frame); decide)
    | with_reducible apply Frame.ite
    | (extract_lets +onlyGivenNames x; clear_value (e : x = _); apply Frame.cut x; (subst e); rotate_left;
       (intro h); (clear e); rotate_right)
    | extract_lets +onlyGivenNames y
    | split
    | (with_reducible apply Frame.foldlPair; rotate_left; intro u x; (try dsimp -zeta -proj -eta only); rotate_right)
    | (with_reducible apply Frame.foldl; rotate_left; intro u x; (try dsimp -zeta -proj -eta only); rotate_right)
    | (refine Frame.via ((dirtyThrough_frame _ _ _ _).of_eq (congrArg Prod.fst (by assumption))) (by decide) ?_)
    | fail_if_no_progress (dsimp +zetaDelta -zeta -proj -eta only)
    | fail_if_no_progress (dsimp -zeta -eta only)

theorem checkKcvs_frame :
    ∀ s, Frame [.ctrls, .mem, .cache, .search, .flash, .errors, .sec, .out] s (State.checkKcvs s) := by
  intro s
  unfold State.checkKcvs
  repeat' first
    | with_reducible apply Frame.refl
    | with_reducible assumption
    | (apply Frame.via; with_reducible (first | apply setKcv_frame | apply reportSecurity_frame); decide)
    | with_reducible apply Frame.ite
    | (extract_lets +onlyGivenNames x; clear_value (e : x = _); apply Frame.cut x; (subst e); rotate_left;
       (intro h); (clear e); rotate_right)
    | extract_lets +onlyGivenNames y
    | split
    | (with_reducible apply Frame.foldlPair; rotate_left; intro u x; (try dsimp -zeta -proj -eta only); rotate_right)
    | (with_reducible apply Frame.foldl; rotate_left; intro u x; (try dsimp -zeta -proj -eta only); rotate_right)
    | fail_if_no_progress (apply Frame.via; with_reducible apply Frame.sec; decide)
    | fail_if_no_progress (dsimp +zetaDelta -zeta -proj -eta only)
    | fail_if_no_progress (dsimp -zeta -eta only)

theorem createColls_frame :
    ∀ s x1, Frame [.mem, .cache, .search, .flash] s (State.createColls s x1) := by
  intro s x1
  unfold State.createColls
  repeat' first
    | with_reducible apply Frame.refl
    | with_reducible assumption
    | (apply Frame.via; with_reducible apply dirtyThrough_frame; decide)
    | with_reducible apply Frame.ite
    | (extract_lets +onlyGivenNames x; clear_value (e : x = _); apply Frame.cut x; (subst e); rotate_left;
       (intro h); (clear e); rotate_right)
    | extract_lets +onlyGivenNames y
    | split
    | (with_reducible apply Frame.foldlPair; rotate_left; intro u x; (try dsimp -zeta -proj -eta only); rotate_right)
    | (with_reducible apply Frame.foldl; rotate_left; intro u x; (try dsimp -zeta -proj -eta only); rotate_right)
    | (refine Frame.via ((dirtyThrough_frame _ _ _ _).of_eq (congrArg Prod.fst (by assumption))) (by decide) ?_)
    | fail_if_no_progress (apply Frame.via; with_reducible apply Frame.search; decide)
    | fail_if_no_progress (dsimp +zetaDelta -zeta -proj -eta only)
    | fail_if_no_progress (dsimp -zeta -eta only)

theorem modMold_frame :
    ∀ s x1, Frame [.mold] s (State.modMold s x1) := by
  intro s x1
  unfold State.modMold
  repeat' first
    | with_reducible apply Frame.refl
    | fail_if_no_progress (apply Frame.via; with_reducible apply Frame.mold; decide)

theorem noteEmbed_frame :
    ∀ s x1, Frame [.search] s (State.noteEmbed s x1) := by
  intro s x1
  unfold State.noteEmbed
  repeat' first
    | with_reducible apply Frame.refl
    | fail_if_no_progress (apply Frame.via; with_reducible apply Frame.search; decide)

theorem sendMessage_frame :
    ∀ s x1 x2, Frame [.sec, .out] s (State.sendMessage s x1 x2) := by
  intro s x1 x2
  unfold State.sendMessage
  repeat' first
    | with_reducible apply Frame.refl
    | fail_if_no_progress (apply Frame.via; with_reducible (first | apply Frame.sec | apply Frame.out
                                                                  | apply Frame.sec_out); decide)

theorem sendRecord_frame :
    ∀ s x1, Frame [.sec, .out] s (State.sendRecord s x1) := by
  intro s x1
  unfold State.sendRecord
  repeat' first
    | with_reducible apply Frame.refl
    | (apply Frame.via; with_reducible apply sendMessage_frame; decide)
    | with_reducible apply Frame.ite
    | fail_if_no_progress (apply Frame.via; with_reducible apply Frame.sec; decide)

theorem sendKeyRequests_frame :
    ∀ s, Frame [.sec, .out] s (State.sendKeyRequests s) := by
  intro s
  unfold State.sendKeyRequests
  repeat' first
    | with_reducible apply Frame.refl
    | (apply Frame.via; with_reducible apply sendRecord_frame; decide)
    | (with_reducible apply Frame.foldl; rotate_left; intro u x; (try dsimp -zeta -proj -eta only); rotate_right)

theorem stopReading_frame :
    ∀ s x1, Frame [.search, .benches] s (State.stopReading s x1) := by
  intro s x1
  unfold State.stopReading
  repeat' first
    | with_reducible apply Frame.refl
    | with_reducible assumption
    | (apply Frame.via; with_reducible apply modBench_frame; decide)
    | with_reducible apply Frame.ite
    | (extract_lets +onlyGivenNames x; clear_value (e : x = _); apply Frame.cut x; (subst e); rotate_left;
       (intro h); (clear e); rotate_right)
    | extract_lets +onlyGivenNames y
    | split
    | (with_reducible apply Frame.foldlPair; rotate_left; intro u x; (try dsimp -zeta -proj -eta only); rotate_right)
    | (with_reducible apply Frame.foldl; rotate_left; intro u x; (try dsimp -zeta -proj -eta only); rotate_right)
    | fail_if_no_progress (apply Frame.via; with_reducible apply Frame.search; decide)
    | fail_if_no_progress (dsimp +zetaDelta -zeta -proj -eta only)
    | fail_if_no_progress (dsimp -zeta -eta only)

theorem unbindQueues_frame :
    ∀ s x1 x2, Frame [.ctrls, .sched, .out] s (State.unbindQueues s x1 x2) := by
  intro s x1 x2
  unfold State.unbindQueues
  repeat' first
    | with_reducible apply Frame.refl
    | (apply Frame.via; with_reducible (first | apply refuse_frame | apply dropJob_frame); decide)
    | (with_reducible apply Frame.foldl; rotate_left; intro u x; (try dsimp -zeta -proj -eta only); rotate_right)

theorem applyRecast_frame :
    ∀ s, Frame [.power, .ctrls, .mold, .sched, .engines, .mem, .cache, .search, .benches, .flash, .errors, .sec,
                .out] s (State.applyRecast s) := by
  intro s
  unfold State.applyRecast
  repeat' first
    | with_reducible apply Frame.refl
    | with_reducible assumption
    | (apply Frame.via; with_reducible (first | apply unbindQueues_frame | apply stopReading_frame
                                              | apply sendKeyRequests_frame | apply noteEmbed_frame
                                                  | apply modMold_frame | apply createColls_frame
                                                      | apply checkKcvs_frame | apply capSettle_frame
                                                          | apply bindParts_frame | apply success_frame); decide)
    | with_reducible apply Frame.ite
    | (extract_lets +onlyGivenNames x; clear_value (e : x = _); apply Frame.cut x; (subst e); rotate_left;
       (intro h); (clear e); rotate_right)
    | extract_lets +onlyGivenNames y
    | split
    | (with_reducible apply Frame.foldlPair; rotate_left; intro u x; (try dsimp -zeta -proj -eta only); rotate_right)
    | (with_reducible apply Frame.foldl; rotate_left; intro u x; (try dsimp -zeta -proj -eta only); rotate_right)
    | fail_if_no_progress (apply Frame.via; with_reducible apply Frame.sched; decide)
    | fail_if_no_progress (dsimp +zetaDelta -zeta -proj -eta only)
    | fail_if_no_progress (dsimp -zeta -eta only)

theorem latchApply_frame :
    ∀ s x1, Frame [.sched, .cache, .flash, .burnish] s (State.latchApply s x1) := by
  intro s x1
  unfold State.latchApply
  repeat' first
    | with_reducible apply Frame.refl
    | (apply Frame.via; with_reducible (first | apply modFlash_frame | apply modCache_frame); decide)
    | split
    | fail_if_no_progress (apply Frame.via; with_reducible (first | apply Frame.sched | apply Frame.burnish); decide)

theorem applyShadows_frame :
    ∀ s, Frame [.sched, .cache, .flash, .burnish, .dev] s (State.applyShadows s) := by
  intro s
  unfold State.applyShadows
  repeat' first
    | with_reducible apply Frame.refl
    | (apply Frame.via; with_reducible apply latchApply_frame; decide)
    | (with_reducible apply Frame.foldl; rotate_left; intro u x; (try dsimp -zeta -proj -eta only); rotate_right)
    | fail_if_no_progress (apply Frame.via; with_reducible apply Frame.dev; decide)

theorem arrivalPreempt_frame :
    ∀ s x1 x2, Frame [.sched, .engines] s (State.arrivalPreempt s x1 x2) := by
  intro s x1 x2
  unfold State.arrivalPreempt
  repeat' first
    | with_reducible apply Frame.refl
    | (apply Frame.via; with_reducible apply preempt_frame; decide)
    | with_reducible apply Frame.ite
    | split
    | fail_if_no_progress (apply Frame.via; with_reducible apply Frame.sched; decide)

theorem assayOutcome_frame :
    ∀ s x1, Frame [.engines, .mem, .benches, .errors] s (State.assayOutcome s x1) := by
  intro s x1
  unfold State.assayOutcome
  repeat' first
    | with_reducible apply Frame.refl
    | (apply Frame.via; with_reducible (first | apply modBench_frame | apply modEngine_frame); decide)
    | split
    | (with_reducible apply Frame.foldl; rotate_left; intro u x; (try dsimp -zeta -proj -eta only); rotate_right)
    | fail_if_no_progress (apply Frame.via; with_reducible (first | apply Frame.mem | apply Frame.errors); decide)

theorem reportMemory_frame :
    ∀ s x1 x2 x3 x4 x5 x6 x7 x8 x9 x10 x11 x12 x13, Frame [.ctrls, .errors, .out] s
        (State.reportMemory s x1 x2 x3 x4 x5 x6 x7 x8 x9 x10 x11 x12 x13) := by
  intro s x1 x2 x3 x4 x5 x6 x7 x8 x9 x10 x11 x12 x13
  unfold State.reportMemory
  repeat' first
    | with_reducible apply Frame.refl
    | (apply Frame.via; with_reducible apply report_frame; decide)

theorem vendorEvent_frame :
    ∀ s x1, Frame [.ctrls, .out] s (State.vendorEvent s x1) := by
  intro s x1
  unfold State.vendorEvent
  repeat' first
    | with_reducible apply Frame.refl
    | (apply Frame.via; with_reducible apply aerEvent_frame; decide)
    | with_reducible apply Frame.ite

theorem recordSignals_frame :
    ∀ s x1 x2, Frame [.ctrls, .out] s (State.recordSignals s x1 x2) := by
  intro s x1 x2
  unfold State.recordSignals
  repeat' first
    | with_reducible apply Frame.refl
    | (apply Frame.via; with_reducible (first | apply vendorEvent_frame | apply signal_frame); decide)
    | with_reducible apply Frame.ite

theorem writeRecord_frame :
    ∀ s x1 x2 x3 x4, Frame [.ctrls, .errors, .out] s (State.writeRecord s x1 x2 x3 x4) := by
  intro s x1 x2 x3 x4
  unfold State.writeRecord
  repeat' first
    | with_reducible apply Frame.refl
    | (apply Frame.via; with_reducible (first | apply recordSignals_frame | apply ringLost_frame
                                              | apply modRing_frame); decide)
    | extract_lets +onlyGivenNames y
    | split

theorem doRecordWrite_frame :
    ∀ x0 s, Frame [.ctrls, .errors, .out] s (doRecordWrite x0 s) := by
  intro x0 s
  unfold doRecordWrite
  repeat' first
    | with_reducible apply Frame.refl
    | (apply Frame.via; with_reducible apply writeRecord_frame; decide)
    | split
    | fail_if_no_progress (apply Frame.via; with_reducible apply Frame.errors; decide)

theorem assayFail_frame :
    ∀ s x1, Frame [.ctrls, .engines, .mem, .benches, .errors, .out] s (State.assayFail s x1) := by
  intro s x1
  unfold State.assayFail
  repeat' first
    | with_reducible apply Frame.refl
    | (apply Frame.via; with_reducible (first | apply doRecordWrite_frame | apply reportMemory_frame
                                              | apply assayOutcome_frame); decide)
    | fail_if_no_progress (apply Frame.via; with_reducible apply Frame.errors; decide)

theorem atBmc_frame {w : List Part} (s k) (hk : Frame w s (k s)) : Frame w s (State.atBmc s k) :=
  Frame.ite hk (Frame.refl s)

theorem atPort_frame {w : List Part} (s p k) (hk : Frame w s (k s)) : Frame w s (State.atPort s p k) := by
  unfold State.atPort
  split <;> exact Frame.ite hk (Frame.refl s)

theorem awaitPublication_frame :
    ∀ s x1, Frame [.sched, .search] s (State.awaitPublication s x1) := by
  intro s x1
  unfold State.awaitPublication
  repeat' first
    | with_reducible apply Frame.refl
    | (apply Frame.via; with_reducible apply modJob_frame; decide)
    | fail_if_no_progress (apply Frame.via; with_reducible apply Frame.search; decide)

theorem badAccess_frame :
    ∀ s, Frame [.dev] s (State.badAccess s) := by
  intro s
  unfold State.badAccess
  repeat' first
    | with_reducible apply Frame.refl
    | fail_if_no_progress (apply Frame.via; with_reducible apply Frame.dev; decide)

theorem benchReason_frame :
    ∀ s x1 x2 x3, Frame [.ctrls, .benches, .out] s (State.benchReason s x1 x2 x3) := by
  intro s x1 x2 x3
  unfold State.benchReason
  repeat' first
    | with_reducible apply Frame.refl
    | (apply Frame.via; with_reducible (first | apply modBench_frame | apply signal_frame); decide)
    | with_reducible apply Frame.ite

theorem reportGeneral_frame :
    ∀ s x1 x2 x3 x4 x5 x6 x7 x8, Frame [.ctrls, .errors, .out] s (State.reportGeneral s x1 x2 x3 x4 x5 x6 x7 x8) := by
  intro s x1 x2 x3 x4 x5 x6 x7 x8
  unfold State.reportGeneral
  repeat' first
    | with_reducible apply Frame.refl
    | (apply Frame.via; with_reducible apply report_frame; decide)

theorem c0Finish_frame :
    ∀ s x1, Frame [.ctrls, .sched, .errors, .out] s (State.c0Finish s x1) := by
  intro s x1
  unfold State.c0Finish
  repeat' first
    | with_reducible apply Frame.refl
    | (apply Frame.via; with_reducible apply reportGeneral_frame; decide)
    | extract_lets +onlyGivenNames y
    | split
    | fail_if_no_progress (apply Frame.via; with_reducible apply Frame.sched; decide)

theorem breakSems_frame :
    ∀ s x1, Frame [.sched] s (State.breakSems s x1) := by
  intro s x1
  unfold State.breakSems
  repeat' first
    | with_reducible apply Frame.refl
    | fail_if_no_progress (apply Frame.via; with_reducible apply Frame.sched; decide)

theorem chargeBench_frame :
    ∀ s x1, Frame [.sched, .benches] s (State.chargeBench s x1) := by
  intro s x1
  unfold State.chargeBench
  repeat' first
    | with_reducible apply Frame.refl
    | (apply Frame.via; with_reducible (first | apply modBench_frame | apply charge_frame); decide)
    | split

theorem chargeJob_frame :
    ∀ s x1, Frame [.sched, .engines, .benches] s (State.chargeJob s x1) := by
  intro s x1
  unfold State.chargeJob
  repeat' first
    | with_reducible apply Frame.refl
    | (apply Frame.via; with_reducible (first | apply chargeBench_frame | apply chargeRun_frame); decide)
    | (with_reducible apply Frame.foldl; rotate_left; intro u x; (try dsimp -zeta -proj -eta only); rotate_right)

theorem leaveSweeps_frame :
    ∀ s x1, Frame [.search] s (State.leaveSweeps s x1) := by
  intro s x1
  unfold State.leaveSweeps
  repeat' first
    | with_reducible apply Frame.refl
    | fail_if_no_progress (apply Frame.via; with_reducible apply Frame.search; decide)

theorem returnCredits_frame :
    ∀ s x1, Frame [.sched] s (State.returnCredits s x1) := by
  intro s x1
  unfold State.returnCredits
  repeat' first
    | with_reducible apply Frame.refl
    | fail_if_no_progress (apply Frame.via; with_reducible apply Frame.sched; decide)

theorem dropUnpinned_frame :
    ∀ s x1, Frame [.engines, .mem, .cache] s (State.dropUnpinned s x1) := by
  intro s x1
  unfold State.dropUnpinned
  repeat' first
    | with_reducible apply Frame.refl
    | (apply Frame.via; with_reducible apply recache_frame; decide)
    | (with_reducible apply Frame.foldl; rotate_left; intro u x; (try dsimp -zeta -proj -eta only); rotate_right)

theorem unpin_frame :
    ∀ s x1, Frame [.engines, .mem, .cache] s (State.unpin s x1) := by
  intro s x1
  unfold State.unpin
  repeat' first
    | with_reducible apply Frame.refl
    | (apply Frame.via; with_reducible apply dropUnpinned_frame; decide)
    | fail_if_no_progress (apply Frame.via; with_reducible apply Frame.cache; decide)

theorem teardown_frame :
    ∀ s x1, Frame [.sched, .engines, .mem, .cache, .search, .benches] s (State.teardown s x1) := by
  intro s x1
  unfold State.teardown
  repeat' first
    | with_reducible apply Frame.refl
    | (apply Frame.via; with_reducible (first | apply unpin_frame | apply returnCredits_frame
                                              | apply leaveSweeps_frame | apply chargeJob_frame
                                                  | apply breakSems_frame | apply annealScratch_frame
                                                      | apply modJob_frame | apply abandonTokens_frame); decide)
    | split
    | fail_if_no_progress (apply Frame.via; with_reducible (first | apply Frame.sched | apply Frame.engines
                                                                  | apply Frame.benches
                                                                      | apply Frame.engines_benches
                                                                          | apply Frame.sched_engines); decide)

theorem faultJobNoted_frame :
    ∀ s x1 x2 x3 x4, Frame [.ctrls, .sched, .engines, .mem, .cache, .search, .benches, .errors, .out] s
        (State.faultJobNoted s x1 x2 x3 x4) := by
  intro s x1 x2 x3 x4
  unfold State.faultJobNoted
  repeat' first
    | with_reducible apply Frame.refl
    | (apply Frame.via; with_reducible (first | apply teardown_frame | apply c0Finish_frame | apply refuse_frame
                                              | apply status_frame | apply dropJob_frame | apply report_frame);
                                                  decide)
    | split
    | fail_if_no_progress (apply Frame.via; with_reducible apply Frame.sched; decide)

theorem faultJob_frame :
    ∀ s x1 x2 x3, Frame [.ctrls, .sched, .engines, .mem, .cache, .search, .benches, .errors, .out] s
        (State.faultJob s x1 x2 x3) := by
  intro s x1 x2 x3
  unfold State.faultJob
  repeat' first
    | with_reducible apply Frame.refl
    | (apply Frame.via; with_reducible apply faultJobNoted_frame; decide)

theorem flushTails_frame :
    ∀ s x1, Frame [.mem, .benches, .flash] s (State.flushTails s x1) := by
  intro s x1
  unfold State.flushTails
  repeat' first
    | with_reducible apply Frame.refl
    | (apply Frame.via; with_reducible (first | apply modFlash_frame | apply modBench_frame); decide)
    | fail_if_no_progress (apply Frame.via; with_reducible apply Frame.mem; decide)

theorem leaveBench_frame :
    ∀ s x1 x2, Frame [.search] s (State.leaveBench s x1 x2) := by
  intro s x1 x2
  unfold State.leaveBench
  repeat' first
    | with_reducible apply Frame.refl
    | fail_if_no_progress (apply Frame.via; with_reducible apply Frame.search; decide)

theorem markPartial_frame :
    ∀ s x1, Frame [.sched] s (State.markPartial s x1) := by
  intro s x1
  unfold State.markPartial
  repeat' first
    | with_reducible apply Frame.refl
    | (apply Frame.via; with_reducible (first | apply markUnbound_frame | apply modJob_frame); decide)
    | split

theorem leaveOut_frame :
    ∀ s x1, Frame [.sched, .search] s (State.leaveOut s x1) := by
  intro s x1
  unfold State.leaveOut
  repeat' first
    | with_reducible apply Frame.refl
    | (apply Frame.via; with_reducible (first | apply markPartial_frame | apply leaveBench_frame
                                              | apply modJob_frame); decide)
    | (with_reducible apply Frame.foldl; rotate_left; intro u x; (try dsimp -zeta -proj -eta only); rotate_right)

theorem refuseGets_frame :
    ∀ s x1, Frame [.ctrls, .sched, .out] s (State.refuseGets s x1) := by
  intro s x1
  unfold State.refuseGets
  dsimp -proj -eta only
  repeat' first
    | with_reducible apply Frame.refl
    | (apply Frame.via; with_reducible (first | apply refuse_frame | apply dropJob_frame); decide)
    | split
    | (with_reducible apply Frame.foldl; rotate_left; intro u x; (try dsimp -zeta -proj -eta only); rotate_right)

theorem benchDies_frame :
    ∀ s x1, Frame [.ctrls, .sched, .engines, .mem, .cache, .search, .benches, .flash, .errors, .out] s
        (State.benchDies s x1) := by
  intro s x1
  unfold State.benchDies
  repeat' first
    | with_reducible apply Frame.refl
    | (apply Frame.via; with_reducible (first | apply refuseGets_frame | apply leaveOut_frame
                                              | apply flushTails_frame | apply faultJob_frame
                                                  | apply benchReason_frame | apply modBench_frame); decide)
    | split

theorem resetPower_frame :
    ∀ s, Frame [.power] s (State.resetPower s) := by
  intro s
  unfold State.resetPower
  repeat' first
    | with_reducible apply Frame.refl
    | (apply Frame.via; with_reducible apply modPower_frame; decide)

theorem blank_frame :
    ∀ s, Frame [.power, .mold, .grid, .sched, .engines, .mem, .cache, .ingots, .search, .errors, .burnish, .sec,
                .fw, .dev] s (State.blank s) := by
  intro s
  unfold State.blank
  repeat' first
    | with_reducible apply Frame.refl
    | with_reducible assumption
    | (apply Frame.via; with_reducible (first | apply resetPower_frame | apply annealAll_frame); decide)
    | with_reducible apply Frame.ite
    | (extract_lets +onlyGivenNames x; clear_value (e : x = _); apply Frame.cut x; (subst e); rotate_left;
       (intro h); (clear e); rotate_right)
    | extract_lets +onlyGivenNames y
    | split
    | (with_reducible apply Frame.foldlPair; rotate_left; intro u x; (try dsimp -zeta -proj -eta only); rotate_right)
    | (with_reducible apply Frame.foldl; rotate_left; intro u x; (try dsimp -zeta -proj -eta only); rotate_right)
    | fail_if_no_progress (apply Frame.via; with_reducible (first | apply Frame.mold | apply Frame.grid
                                                                  | apply Frame.sched | apply Frame.engines
                                                                      | apply Frame.mem | apply Frame.cache
                                                                          | apply Frame.ingots | apply Frame.search
                                                                              | apply Frame.errors
                                                                                  | apply Frame.burnish
                                                                                      | apply Frame.sec
                                                                                          | apply Frame.fw
                                                                                              | apply Frame.dev
                                                                                                  | apply Frame.engines_mem_cache | apply Frame.mem_burnish | apply Frame.mold_grid_sched_engines_mem_cache_ingots_search_errors_burnish_sec_fw_dev | apply Frame.sched_engines | apply Frame.sched_search); decide)
    | fail_if_no_progress (dsimp +zetaDelta -zeta -proj -eta only)
    | fail_if_no_progress (dsimp -zeta -eta only)

theorem bootBank_frame :
    ∀ s, Frame [.pewter, .fw] s (State.bootBank s) := by
  intro s
  unfold State.bootBank
  repeat' first
    | with_reducible apply Frame.refl
    | split
    | fail_if_no_progress (apply Frame.via; with_reducible (first | apply Frame.pewter | apply Frame.fw
                                                                  | apply Frame.pewter_fw); decide)

theorem fresh256_frame :
    ∀ s, Frame [.free] s (State.fresh256 s).2 := by
  intro s
  unfold State.fresh256
  repeat' first
    | with_reducible apply Frame.refl
    | fail_if_no_progress (apply Frame.via; with_reducible apply Frame.free; decide)

theorem goBack_frame :
    ∀ s x1 x2, Frame [.search] s (State.goBack s x1 x2) := by
  intro s x1 x2
  unfold State.goBack
  repeat' first
    | with_reducible apply Frame.refl
    | with_reducible assumption
    | with_reducible apply Frame.ite
    | (extract_lets +onlyGivenNames x; clear_value (e : x = _); apply Frame.cut x; (subst e); rotate_left;
       (intro h); (clear e); rotate_right)
    | extract_lets +onlyGivenNames y
    | split
    | (with_reducible apply Frame.foldlPair; rotate_left; intro u x; (try dsimp -zeta -proj -eta only); rotate_right)
    | (with_reducible apply Frame.foldl; rotate_left; intro u x; (try dsimp -zeta -proj -eta only); rotate_right)
    | fail_if_no_progress (apply Frame.via; with_reducible apply Frame.search; decide)
    | fail_if_no_progress (dsimp +zetaDelta -zeta -proj -eta only)
    | fail_if_no_progress (dsimp -zeta -eta only)

theorem rebuildGranule_frame :
    ∀ s x1, Frame [.mem, .search] s (State.rebuildGranule s x1) := by
  intro s x1
  unfold State.rebuildGranule
  repeat' first
    | with_reducible apply Frame.refl
    | with_reducible assumption
    | (apply Frame.via; with_reducible apply goBack_frame; decide)
    | with_reducible apply Frame.ite
    | (extract_lets +onlyGivenNames x; clear_value (e : x = _); apply Frame.cut x; (subst e); rotate_left;
       (intro h); (clear e); rotate_right)
    | extract_lets +onlyGivenNames y
    | split
    | (with_reducible apply Frame.foldlPair; rotate_left; intro u x; (try dsimp -zeta -proj -eta only); rotate_right)
    | (with_reducible apply Frame.foldl; rotate_left; intro u x; (try dsimp -zeta -proj -eta only); rotate_right)
    | fail_if_no_progress (apply Frame.via; with_reducible (first | apply Frame.mem | apply Frame.search); decide)
    | fail_if_no_progress (dsimp +zetaDelta -zeta -proj -eta only)
    | fail_if_no_progress (dsimp -zeta -eta only)

theorem withhold_frame :
    ∀ s x1, Frame [.mem] s (State.withhold s x1) := by
  intro s x1
  unfold State.withhold
  repeat' first
    | with_reducible apply Frame.refl
    | with_reducible apply Frame.ite
    | fail_if_no_progress (apply Frame.via; with_reducible apply Frame.mem; decide)

theorem memoryError_frame :
    ∀ s x1, Frame [.mem, .search, .errors] s (State.memoryError s x1) := by
  intro s x1
  unfold State.memoryError
  repeat' first
    | with_reducible apply Frame.refl
    | (apply Frame.via; with_reducible (first | apply withhold_frame | apply rebuildGranule_frame); decide)
    | with_reducible apply Frame.ite
    | extract_lets +onlyGivenNames y
    | split
    | fail_if_no_progress (apply Frame.via; with_reducible (first | apply Frame.mem | apply Frame.errors); decide)

theorem memoryReport_frame :
    ∀ s x1 x2 x3 x4 x5 x6 x7 x8 x9 x10 x11, Frame [.ctrls, .mem, .search, .errors, .out] s
        (State.memoryReport s x1 x2 x3 x4 x5 x6 x7 x8 x9 x10 x11) := by
  intro s x1 x2 x3 x4 x5 x6 x7 x8 x9 x10 x11
  unfold State.memoryReport
  repeat' first
    | with_reducible apply Frame.refl
    | (apply Frame.via; with_reducible (first | apply memoryError_frame | apply report_frame); decide)

theorem loadKeys_frame :
    ∀ s, Frame [.ctrls, .mem, .search, .benches, .errors, .sec, .out] s (State.loadKeys s) := by
  intro s
  unfold State.loadKeys
  repeat' first
    | with_reducible apply Frame.refl
    | (apply Frame.via; with_reducible (first | apply memoryReport_frame | apply doRecordWrite_frame
                                              | apply modBench_frame); decide)
    | with_reducible apply Frame.ite
    | (with_reducible apply Frame.foldl; rotate_left; intro u x; (try dsimp -zeta -proj -eta only); rotate_right)
    | fail_if_no_progress (apply Frame.via; with_reducible apply Frame.sec; decide)

theorem programVault_frame :
    ∀ s x1 x2, Frame [.pewter] s (State.programVault s x1 x2) := by
  intro s x1 x2
  unfold State.programVault
  repeat' first
    | with_reducible apply Frame.refl
    | fail_if_no_progress (apply Frame.via; with_reducible apply Frame.pewter; decide)

theorem zeroiseMedia_frame :
    ∀ s, Frame [.pewter] s (State.zeroiseMedia s) := by
  intro s
  unfold State.zeroiseMedia
  repeat' first
    | with_reducible apply Frame.refl
    | (apply Frame.via; with_reducible apply programVault_frame; decide)
    | with_reducible apply Frame.ite
    | (with_reducible apply Frame.foldl; rotate_left; intro u x; (try dsimp -zeta -proj -eta only); rotate_right)

theorem bootSterling_frame :
    ∀ s, Frame [.ctrls, .mem, .search, .benches, .pewter, .errors, .sec, .out, .free] s (State.bootSterling s) := by
  intro s
  unfold State.bootSterling
  repeat' first
    | with_reducible apply Frame.refl
    | (apply Frame.via; with_reducible (first | apply zeroiseMedia_frame | apply loadKeys_frame
                                              | apply fresh256_frame); decide)
    | with_reducible apply Frame.ite
    | (refine Frame.via ((fresh256_frame _).of_eq (congrArg Prod.snd (by assumption))) (by decide) ?_)
    | fail_if_no_progress (apply Frame.via; with_reducible apply Frame.sec; decide)

theorem loadOptions_frame :
    ∀ s, Frame [.pewter] s (State.loadOptions s) := by
  intro s
  unfold State.loadOptions
  repeat' first
    | with_reducible apply Frame.refl
    | fail_if_no_progress (apply Frame.via; with_reducible apply Frame.pewter; decide)

theorem reportMedia_frame :
    ∀ s x1 x2 x3 x4 x5 x6 x7 x8 x9, Frame [.ctrls, .errors, .out] s
        (State.reportMedia s x1 x2 x3 x4 x5 x6 x7 x8 x9) := by
  intro s x1 x2 x3 x4 x5 x6 x7 x8 x9
  unfold State.reportMedia
  repeat' first
    | with_reducible apply Frame.refl
    | (apply Frame.via; with_reducible apply report_frame; decide)

theorem mediaRecord_frame :
    ∀ s x1 x2 x3 x4 x5 x6 x7, Frame [.ctrls, .errors, .out] s (State.mediaRecord s x1 x2 x3 x4 x5 x6 x7) := by
  intro s x1 x2 x3 x4 x5 x6 x7
  unfold State.mediaRecord
  repeat' first
    | with_reducible apply Frame.refl
    | (apply Frame.via; with_reducible (first | apply reportMedia_frame | apply signal_frame); decide)
    | with_reducible apply Frame.ite
    | split

theorem capacityCheck_frame :
    ∀ s x1, Frame [.ctrls, .flash, .errors, .out] s (State.capacityCheck s x1) := by
  intro s x1
  unfold State.capacityCheck
  repeat' first
    | with_reducible apply Frame.refl
    | (apply Frame.via; with_reducible (first | apply mediaRecord_frame | apply modFlash_frame); decide)
    | with_reducible apply Frame.ite

theorem dieBlockRecord_frame :
    ∀ x0 x1 s x3, Frame [.ctrls, .errors, .out] s (State.dieBlockRecord x0 x1 s x3) := by
  intro x0 x1 s x3
  unfold State.dieBlockRecord
  repeat' first
    | with_reducible apply Frame.refl
    | with_reducible assumption
    | (apply Frame.via; with_reducible apply mediaRecord_frame; decide)
    | with_reducible apply Frame.ite
    | (extract_lets +onlyGivenNames x; clear_value (e : x = _); apply Frame.cut x; (subst e); rotate_left;
       (intro h); (clear e); rotate_right)
    | extract_lets +onlyGivenNames y
    | split
    | (with_reducible apply Frame.foldlPair; rotate_left; intro u x; (try dsimp -zeta -proj -eta only); rotate_right)
    | (with_reducible apply Frame.foldl; rotate_left; intro u x; (try dsimp -zeta -proj -eta only); rotate_right)
    | fail_if_no_progress (dsimp +zetaDelta -zeta -proj -eta only)
    | fail_if_no_progress (dsimp -zeta -eta only)

theorem markLost_frame :
    ∀ s x1 x2, Frame [.search] s (State.markLost s x1 x2) := by
  intro s x1 x2
  unfold State.markLost
  repeat' first
    | with_reducible apply Frame.refl
    | (apply Frame.via; with_reducible apply modObj_frame; decide)

theorem losePage_frame :
    ∀ s x1, Frame [.search] s (State.losePage s x1) := by
  intro s x1
  unfold State.losePage
  repeat' first
    | with_reducible apply Frame.refl
    | (apply Frame.via; with_reducible apply markLost_frame; decide)
    | with_reducible apply Frame.ite

theorem smartCheck_frame :
    ∀ s x1, Frame [.ctrls, .out] s (State.smartCheck s x1) := by
  intro s x1
  unfold State.smartCheck
  repeat' first
    | with_reducible apply Frame.refl
    | (apply Frame.via; with_reducible apply aerEvent_frame; decide)
    | with_reducible apply Frame.ite
    | extract_lets +onlyGivenNames y
    | split

theorem withSmart_frame {w : List Part} (s f) (hk : Frame w s (f s))
    (hw : ∀ p ∈ ([.ctrls, .out] : List Part), p ∈ w) : Frame w s (State.withSmart s f) :=
  Frame.via (smartCheck_frame _ _) hw hk

theorem failDie_frame :
    ∀ s x1 x2, Frame [.ctrls, .mem, .cache, .search, .flash, .errors, .out] s (State.failDie s x1 x2) := by
  intro s x1 x2
  unfold State.failDie
  repeat' first
    | with_reducible apply Frame.refl
    | with_reducible assumption
    | (apply Frame.via; with_reducible (first | apply losePage_frame | apply dieBlockRecord_frame
                                              | apply capacityCheck_frame | apply mediaRecord_frame
                                                  | apply moveTo_frame); decide)
    | (with_reducible apply withSmart_frame; rotate_left; decide; (try dsimp -zeta -proj -eta only))
    | with_reducible apply Frame.ite
    | (extract_lets +onlyGivenNames x; clear_value (e : x = _); apply Frame.cut x; (subst e); rotate_left;
       (intro h); (clear e); rotate_right)
    | extract_lets +onlyGivenNames y
    | split
    | (with_reducible apply Frame.foldlPair; rotate_left; intro u x; (try dsimp -zeta -proj -eta only); rotate_right)
    | (with_reducible apply Frame.foldl; rotate_left; intro u x; (try dsimp -zeta -proj -eta only); rotate_right)
    | fail_if_no_progress (dsimp +zetaDelta -zeta -proj -eta only)
    | fail_if_no_progress (dsimp -zeta -eta only)

theorem trainChannels_frame :
    ∀ s x1, Frame [.ctrls, .mem, .cache, .search, .benches, .flash, .errors, .out] s (State.trainChannels s x1) := by
  intro s x1
  unfold State.trainChannels
  repeat' first
    | with_reducible apply Frame.refl
    | with_reducible assumption
    | (apply Frame.via; with_reducible apply failDie_frame; decide)
    | with_reducible apply Frame.ite
    | (extract_lets +onlyGivenNames x; clear_value (e : x = _); apply Frame.cut x; (subst e); rotate_left;
       (intro h); (clear e); rotate_right)
    | extract_lets +onlyGivenNames y
    | split
    | (with_reducible apply Frame.foldlPair; rotate_left; intro u x; (try dsimp -zeta -proj -eta only); rotate_right)
    | (with_reducible apply Frame.foldl; rotate_left; intro u x; (try dsimp -zeta -proj -eta only); rotate_right)
    | fail_if_no_progress (apply Frame.via; with_reducible (first | apply Frame.benches | apply Frame.flash
                                                                  | apply Frame.benches_flash); decide)
    | fail_if_no_progress (dsimp +zetaDelta -zeta -proj -eta only)
    | fail_if_no_progress (dsimp -zeta -eta only)

theorem boot_frame : ∀ s x1 x2, Frame [.power, .ctrls, .engines, .mem, .cache, .search, .benches, .flash, .links,
                                       .pewter, .errors, .sec, .fw, .bmc, .out, .free] s (State.boot s x1 x2) := by
  intro s x1 x2
  unfold State.boot
  refine Frame.via (Frame.links _ _) (by decide) (Frame.via (trainChannels_frame _ _) (by decide) ?_)
  refine Frame.trans (withSmart_frame _ _ (Frame.foldl _ (Frame.refl _) fun u x => Frame.via (assayFail_frame u x)
    (by decide) (Frame.refl u)) (by decide)) ?_
  refine Frame.via (bootBank_frame _) (by decide) (Frame.via (bootSterling_frame _) (by decide) ?_)
  have h : Frame [.power, .ctrls, .engines, .mem, .cache, .search, .benches, .flash, .links, .pewter, .errors, .sec,
                  .fw, .bmc, .out, .free] s (({ s.modPower fun p => { p with phase := .booting, perstA := false,
                                                                             heldDeassert := none }
      with bmc := { (s.modPower fun p => { p with phase := .booting, perstA := false, heldDeassert := none }).bmc with
        answers := false } } : State).loadOptions) :=
    Frame.via (loadOptions_frame _) (by decide) (Frame.via (Frame.bmc _ _) (by decide)
      (Frame.via (modPower_frame _ _) (by decide) (Frame.refl s)))
  exact Frame.ite (Frame.via (doRecordWrite_frame _ _) (by decide) (Frame.via (reportGeneral_frame _ _ _ _ _ _ _ _ _)
    (by decide) h)) h

theorem budgetStep_frame :
    ∀ s x1, Frame [.sched] s (State.budgetStep s x1) := by
  intro s x1
  unfold State.budgetStep
  repeat' first
    | with_reducible apply Frame.refl
    | fail_if_no_progress (apply Frame.via; with_reducible apply Frame.sched; decide)

theorem chargeRunning_frame :
    ∀ s, Frame [.sched, .engines, .benches] s (State.chargeRunning s) := by
  intro s
  unfold State.chargeRunning
  repeat' first
    | with_reducible apply Frame.refl
    | (apply Frame.via; with_reducible (first | apply chargeBench_frame | apply chargeRun_frame); decide)
    | (with_reducible apply Frame.foldl; rotate_left; intro u x; (try dsimp -zeta -proj -eta only); rotate_right)

theorem chargeStroke_frame :
    ∀ s, Frame [.sched] s (State.chargeStroke s) := by
  intro s
  unfold State.chargeStroke
  repeat' first
    | with_reducible apply Frame.refl
    | fail_if_no_progress (apply Frame.via; with_reducible apply Frame.sched; decide)

theorem joinSweep_frame :
    ∀ x0 s x2, Frame [.sched] s (State.joinSweep x0 s x2) := by
  intro x0 s x2
  unfold State.joinSweep
  repeat' first
    | with_reducible apply Frame.refl
    | (apply Frame.via; with_reducible (first | apply markPartial_frame | apply modJob_frame); decide)
    | with_reducible apply Frame.ite
    | split

theorem formSweeps_frame :
    ∀ s x1, Frame [.sched, .search] s (State.formSweeps s x1) := by
  intro s x1
  unfold State.formSweeps
  repeat' first
    | with_reducible apply Frame.refl
    | (apply Frame.via; with_reducible apply joinSweep_frame; decide)
    | (with_reducible apply Frame.foldl; rotate_left; intro u x; (try dsimp -zeta -proj -eta only); rotate_right)
    | fail_if_no_progress (apply Frame.via; with_reducible (first | apply Frame.sched | apply Frame.search
                                                                  | apply Frame.sched_search); decide)

theorem fitCaches_frame :
    ∀ s, Frame [.engines, .mem, .cache] s (State.fitCaches s) := by
  intro s
  unfold State.fitCaches
  repeat' first
    | with_reducible apply Frame.refl
    | (apply Frame.via; with_reducible apply recache_frame; decide)
    | (with_reducible apply Frame.foldl; rotate_left; intro u x; (try dsimp -zeta -proj -eta only); rotate_right)

theorem latchStep_frame :
    ∀ s, Frame [.sched, .engines, .mem, .cache, .flash, .burnish, .dev] s (State.latchStep s) := by
  intro s
  unfold State.latchStep
  repeat' first
    | with_reducible apply Frame.refl
    | (apply Frame.via; with_reducible (first | apply fitCaches_frame | apply applyShadows_frame); decide)

theorem countUnbound_frame :
    ∀ s, Frame [.sched] s (State.countUnbound s) := by
  intro s
  unfold State.countUnbound
  repeat' first
    | with_reducible apply Frame.refl
    | fail_if_no_progress (apply Frame.via; with_reducible apply Frame.sched; decide)

theorem c0Withheld_frame :
    ∀ s x1, Frame [.sched] s (State.c0Withheld s x1) := by
  intro s x1
  unfold State.c0Withheld
  repeat' first
    | with_reducible apply Frame.refl
    | (apply Frame.via; with_reducible apply countUnbound_frame; decide)
    | with_reducible apply Frame.ite
    | fail_if_no_progress (apply Frame.via; with_reducible apply Frame.sched; decide)

theorem evalC0_frame :
    ∀ s x1, Frame [.sched] s (State.evalC0 s x1) := by
  intro s x1
  unfold State.evalC0
  repeat' first
    | with_reducible apply Frame.refl
    | (apply Frame.via; with_reducible apply countUnbound_frame; decide)
    | with_reducible apply Frame.ite
    | fail_if_no_progress (apply Frame.via; with_reducible apply Frame.sched; decide)

theorem gateParts_frame :
    ∀ s, Frame [.engines, .benches] s (State.gateParts s) := by
  intro s
  unfold State.gateParts
  repeat' first
    | with_reducible apply Frame.refl
    | fail_if_no_progress (apply Frame.via; with_reducible (first | apply Frame.engines | apply Frame.benches
                                                                  | apply Frame.engines_benches); decide)

theorem measure_frame :
    ∀ s x1, Frame [.power] s (State.measure s x1) := by
  intro s x1
  unfold State.measure
  repeat' first
    | with_reducible apply Frame.refl
    | (apply Frame.via; with_reducible apply modPower_frame; decide)

theorem powerStep_frame :
    ∀ s x1, Frame [.power, .sched, .engines, .benches] s (State.powerStep s x1) := by
  intro s x1
  unfold State.powerStep
  repeat' first
    | with_reducible apply Frame.refl
    | with_reducible assumption
    | (apply Frame.via; with_reducible (first | apply measure_frame | apply gateParts_frame | apply evalC0_frame
                                              | apply c0Withheld_frame | apply capSettle_frame
                                                  | apply modPower_frame); decide)
    | with_reducible apply Frame.ite
    | (extract_lets +onlyGivenNames x; clear_value (e : x = _); apply Frame.cut x; (subst e); rotate_left;
       (intro h); (clear e); rotate_right)
    | extract_lets +onlyGivenNames y
    | split
    | (with_reducible apply Frame.foldlPair; rotate_left; intro u x; (try dsimp -zeta -proj -eta only); rotate_right)
    | (with_reducible apply Frame.foldl; rotate_left; intro u x; (try dsimp -zeta -proj -eta only); rotate_right)
    | fail_if_no_progress (dsimp +zetaDelta -zeta -proj -eta only)
    | fail_if_no_progress (dsimp -zeta -eta only)

theorem freeMarks_frame :
    ∀ s, Frame [.search] s (State.freeMarks s) := by
  intro s
  unfold State.freeMarks
  repeat' first
    | with_reducible apply Frame.refl
    | fail_if_no_progress (apply Frame.via; with_reducible apply Frame.search; decide)

theorem freeTokens_frame :
    ∀ s, Frame [.search] s (State.freeTokens s) := by
  intro s
  unfold State.freeTokens
  repeat' first
    | with_reducible apply Frame.refl
    | fail_if_no_progress (apply Frame.via; with_reducible apply Frame.search; decide)

theorem dirtyList_frame :
    ∀ s x1, Frame [.mem, .cache, .search, .flash] s (State.dirtyList s x1) := by
  intro s x1
  unfold State.dirtyList
  repeat' first
    | with_reducible apply Frame.refl
    | (apply Frame.via; with_reducible apply dirtyThrough_frame; decide)

theorem moveRecord_frame :
    ∀ s x1 x2 x3, Frame [.mem, .cache, .search, .benches, .flash] s (State.moveRecord s x1 x2 x3).1 := by
  intro s x1 x2 x3
  unfold State.moveRecord
  repeat' first
    | with_reducible apply Frame.refl
    | (apply Frame.via; with_reducible (first | apply modList_frame | apply dirtyTails_frame
                                              | apply dirtyThrough_frame); decide)
    | extract_lets +onlyGivenNames y
    | split
    | (refine Frame.via ((dirtyTails_frame _ _ _ _).of_eq (congrArg Prod.fst (by assumption))) (by decide) ?_)
    | (refine Frame.via (bringTails_frame _ _ _ _ _ (by assumption)) (by decide) ?_)
    | fail_if_no_progress (apply Frame.via; with_reducible apply Frame.search; decide)

theorem moveRecords_frame :
    ∀ s x1 x2 x3 x4, Frame [.mem, .cache, .search, .benches, .flash] s (State.moveRecords s x1 x2 x3 x4).1 := by
  intro s x1 x2 x3 x4
  induction x3 generalizing s x4 with
  | nil => exact Frame.refl s
  | cons m ms ih =>
    unfold State.moveRecords
    split
    · next t h => exact Frame.trans (ih _ _) ((moveRecord_frame _ _ _ _).of_eq (congrArg Prod.fst h))
    · exact Frame.refl s

theorem publicationWaits_frame :
    ∀ s x1 x2 x3, Frame [.search] s (State.publicationWaits s x1 x2 x3) := by
  intro s x1 x2 x3
  unfold State.publicationWaits
  repeat' first
    | with_reducible apply Frame.refl
    | (apply Frame.via; with_reducible apply modColl_frame; decide)
    | with_reducible apply Frame.ite
    | fail_if_no_progress (apply Frame.via; with_reducible apply Frame.search; decide)

theorem toGate_frame :
    ∀ s x1, Frame [.sched] s (State.toGate s x1) := by
  intro s x1
  unfold State.toGate
  repeat' first
    | with_reducible apply Frame.refl
    | (apply Frame.via; with_reducible apply modJob_frame; decide)
    | fail_if_no_progress (apply Frame.via; with_reducible apply Frame.sched; decide)

theorem publish_frame :
    ∀ s x1 x2, Frame [.sched, .mem, .cache, .search, .benches, .flash] s (State.publish s x1 x2) := by
  intro s x1 x2
  unfold State.publish
  repeat' first
    | with_reducible apply Frame.refl
    | (apply Frame.via; with_reducible (first | apply dirtyList_frame | apply toGate_frame
                                              | apply publicationWaits_frame | apply moveRecords_frame
                                                  | apply dirtyThrough_frame | apply modColl_frame); decide)
    | with_reducible apply Frame.ite
    | split
    | (refine Frame.via ((moveRecords_frame _ _ _ _ _).of_eq (congrArg Prod.fst (by assumption))) (by decide) ?_)
    | fail_if_no_progress (apply Frame.via; with_reducible apply Frame.search; decide)
    | (with_reducible apply Frame.foldl; rotate_left; intro u x; (try dsimp -zeta -proj -eta only); rotate_right)

theorem publishAll_frame :
    ∀ s x1, Frame [.sched, .mem, .cache, .search, .benches, .flash] s (State.publishAll s x1) := by
  intro s x1
  unfold State.publishAll
  repeat' first
    | with_reducible apply Frame.refl
    | (apply Frame.via; with_reducible apply publish_frame; decide)
    | (with_reducible apply Frame.foldl; rotate_left; intro u x; (try dsimp -zeta -proj -eta only); rotate_right)

theorem pushMarks_frame :
    ∀ s x1, Frame [.search] s (State.pushMarks s x1) := by
  intro s x1
  unfold State.pushMarks
  repeat' first
    | with_reducible apply Frame.refl
    | fail_if_no_progress (apply Frame.via; with_reducible apply Frame.search; decide)

theorem releaseDeferred_frame :
    ∀ s, Frame [.mem, .cache, .search, .flash] s (State.releaseDeferred s) := by
  intro s
  unfold State.releaseDeferred
  repeat' first
    | with_reducible apply Frame.refl
    | with_reducible assumption
    | (apply Frame.via; with_reducible apply dirtyMap_frame; decide)
    | with_reducible apply Frame.ite
    | (extract_lets +onlyGivenNames x; clear_value (e : x = _); apply Frame.cut x; (subst e); rotate_left;
       (intro h); (clear e); rotate_right)
    | extract_lets +onlyGivenNames y
    | split
    | (with_reducible apply Frame.foldlPair; rotate_left; intro u x; (try dsimp -zeta -proj -eta only); rotate_right)
    | (with_reducible apply Frame.foldl; rotate_left; intro u x; (try dsimp -zeta -proj -eta only); rotate_right)
    | fail_if_no_progress (apply Frame.via; with_reducible apply Frame.search; decide)
    | fail_if_no_progress (dsimp +zetaDelta -zeta -proj -eta only)
    | fail_if_no_progress (dsimp -zeta -eta only)

theorem retireEmpty_frame :
    ∀ s x1 x2, Frame [.mem, .cache, .search, .flash] s (State.retireEmpty s x1 x2) := by
  intro s x1 x2
  unfold State.retireEmpty
  repeat' first
    | with_reducible apply Frame.refl
    | (apply Frame.via; with_reducible apply dirtyList_frame; decide)
    | (with_reducible apply Frame.foldl; rotate_left; intro u x; (try dsimp -zeta -proj -eta only); rotate_right)
    | fail_if_no_progress (apply Frame.via; with_reducible apply Frame.search; decide)

theorem releaseOld_frame :
    ∀ s, Frame [.flash] s (State.releaseOld s) := by
  intro s
  unfold State.releaseOld
  repeat' first
    | with_reducible apply Frame.refl
    | with_reducible assumption
    | (apply Frame.via; with_reducible (first | apply recountUsed_frame | apply modFlash_frame); decide)
    | with_reducible apply Frame.ite
    | (extract_lets +onlyGivenNames x; clear_value (e : x = _); apply Frame.cut x; (subst e); rotate_left;
       (intro h); (clear e); rotate_right)
    | extract_lets +onlyGivenNames y
    | split
    | (with_reducible apply Frame.foldlPair; rotate_left; intro u x; (try dsimp -zeta -proj -eta only); rotate_right)
    | (with_reducible apply Frame.foldl; rotate_left; intro u x; (try dsimp -zeta -proj -eta only); rotate_right)
    | fail_if_no_progress (dsimp +zetaDelta -zeta -proj -eta only)
    | fail_if_no_progress (dsimp -zeta -eta only)

theorem switchMend_frame :
    ∀ s x1, Frame [.mem, .cache, .search, .benches, .flash] s (State.switchMend s x1) := by
  intro s x1
  unfold State.switchMend
  repeat' first
    | with_reducible apply Frame.refl
    | with_reducible assumption
    | (apply Frame.via; with_reducible (first | apply moveTo_frame | apply modList_frame | apply dirtyTails_frame
                                              | apply dirtyThrough_frame | apply recountUsed_frame); decide)
    | with_reducible apply Frame.ite
    | (extract_lets +onlyGivenNames x; clear_value (e : x = _); apply Frame.cut x; (subst e); rotate_left;
       (intro h); (clear e); rotate_right)
    | extract_lets +onlyGivenNames y
    | split
    | (with_reducible apply Frame.foldlPair; rotate_left; intro u x; (try dsimp -zeta -proj -eta only); rotate_right)
    | (with_reducible apply Frame.foldl; rotate_left; intro u x; (try dsimp -zeta -proj -eta only); rotate_right)
    | (refine Frame.via ((dirtyTails_frame _ _ _ _).of_eq (congrArg Prod.fst (by assumption))) (by decide) ?_)
    | (refine Frame.via ((dirtyThrough_frame _ _ _ _).of_eq (congrArg Prod.fst (by assumption))) (by decide) ?_)
    | (refine Frame.via (bringTails_frame _ _ _ _ _ (by assumption)) (by decide) ?_)
    | (refine Frame.via (Frame.getD (fun u h => bringTails_frame _ _ _ _ u h)) (by decide) ?_)
    | fail_if_no_progress (apply Frame.via; with_reducible apply Frame.search; decide)
    | fail_if_no_progress (dsimp +zetaDelta -zeta -proj -eta only)
    | fail_if_no_progress (dsimp -zeta -eta only)

theorem switchMends_frame :
    ∀ s, Frame [.mem, .cache, .search, .benches, .flash] s (State.switchMends s) := by
  intro s
  unfold State.switchMends
  repeat' first
    | with_reducible apply Frame.refl
    | with_reducible assumption
    | (apply Frame.via; with_reducible (first | apply switchMend_frame | apply releaseOld_frame); decide)
    | with_reducible apply Frame.ite
    | (extract_lets +onlyGivenNames x; clear_value (e : x = _); apply Frame.cut x; (subst e); rotate_left;
       (intro h); (clear e); rotate_right)
    | extract_lets +onlyGivenNames y
    | split
    | (with_reducible apply Frame.foldlPair; rotate_left; intro u x; (try dsimp -zeta -proj -eta only); rotate_right)
    | (with_reducible apply Frame.foldl; rotate_left; intro u x; (try dsimp -zeta -proj -eta only); rotate_right)
    | fail_if_no_progress (dsimp +zetaDelta -zeta -proj -eta only)
    | fail_if_no_progress (dsimp -zeta -eta only)

theorem modIngot_frame :
    ∀ s x1 x2, Frame [.ingots] s (State.modIngot s x1 x2) := by
  intro s x1 x2
  unfold State.modIngot
  repeat' first
    | with_reducible apply Frame.refl
    | fail_if_no_progress (apply Frame.via; with_reducible apply Frame.ingots; decide)

theorem warnBlocked_frame :
    ∀ s x1 x2, Frame [.ctrls, .ingots, .search, .errors, .out] s (State.warnBlocked s x1 x2) := by
  intro s x1 x2
  unfold State.warnBlocked
  repeat' first
    | with_reducible apply Frame.refl
    | (apply Frame.via; with_reducible (first | apply modIngot_frame | apply reportGeneral_frame); decide)
    | split
    | fail_if_no_progress (apply Frame.via; with_reducible apply Frame.search; decide)

theorem warnDeferred_frame :
    ∀ s, Frame [.ctrls, .ingots, .search, .errors, .out] s (State.warnDeferred s) := by
  intro s
  unfold State.warnDeferred
  repeat' first
    | with_reducible apply Frame.refl
    | with_reducible assumption
    | (apply Frame.via; with_reducible apply warnBlocked_frame; decide)
    | with_reducible apply Frame.ite
    | (extract_lets +onlyGivenNames x; clear_value (e : x = _); apply Frame.cut x; (subst e); rotate_left;
       (intro h); (clear e); rotate_right)
    | extract_lets +onlyGivenNames y
    | split
    | (with_reducible apply Frame.foldlPair; rotate_left; intro u x; (try dsimp -zeta -proj -eta only); rotate_right)
    | (with_reducible apply Frame.foldl; rotate_left; intro u x; (try dsimp -zeta -proj -eta only); rotate_right)
    | fail_if_no_progress (dsimp +zetaDelta -zeta -proj -eta only)
    | fail_if_no_progress (dsimp -zeta -eta only)

theorem publishStep_frame :
    ∀ s, Frame [.ctrls, .sched, .mem, .cache, .ingots, .search, .benches, .flash, .errors, .sec, .out] s
        (State.publishStep s) := by
  intro s
  unfold State.publishStep
  repeat' first
    | with_reducible apply Frame.refl
    | with_reducible assumption
    | (apply Frame.via; with_reducible (first | apply warnDeferred_frame | apply switchMends_frame
                                              | apply retireEmpty_frame | apply releaseDeferred_frame
                                                  | apply pushMarks_frame | apply publishAll_frame
                                                      | apply freeTokens_frame | apply freeMarks_frame
                                                          | apply applyKeys_frame); decide)
    | with_reducible apply Frame.ite
    | (extract_lets +onlyGivenNames x; clear_value (e : x = _); apply Frame.cut x; (subst e); rotate_left;
       (intro h); (clear e); rotate_right)
    | extract_lets +onlyGivenNames y
    | split
    | (with_reducible apply Frame.foldlPair; rotate_left; intro u x; (try dsimp -zeta -proj -eta only); rotate_right)
    | (with_reducible apply Frame.foldl; rotate_left; intro u x; (try dsimp -zeta -proj -eta only); rotate_right)
    | fail_if_no_progress (apply Frame.via; with_reducible apply Frame.search; decide)
    | fail_if_no_progress (dsimp +zetaDelta -zeta -proj -eta only)
    | fail_if_no_progress (dsimp -zeta -eta only)

theorem recastStep_frame :
    ∀ s, Frame [.power, .ctrls, .mold, .sched, .engines, .mem, .cache, .search, .benches, .flash, .errors, .sec,
                .out] s (State.recastStep s) := by
  intro s
  unfold State.recastStep
  repeat' first
    | with_reducible apply Frame.refl
    | with_reducible assumption
    | (apply Frame.via; with_reducible (first | apply applyRecast_frame | apply modMold_frame
                                              | apply bindParts_frame); decide)
    | with_reducible apply Frame.ite
    | (extract_lets +onlyGivenNames x; clear_value (e : x = _); apply Frame.cut x; (subst e); rotate_left;
       (intro h); (clear e); rotate_right)
    | extract_lets +onlyGivenNames y
    | split
    | (with_reducible apply Frame.foldlPair; rotate_left; intro u x; (try dsimp -zeta -proj -eta only); rotate_right)
    | (with_reducible apply Frame.foldl; rotate_left; intro u x; (try dsimp -zeta -proj -eta only); rotate_right)
    | fail_if_no_progress (dsimp +zetaDelta -zeta -proj -eta only)
    | fail_if_no_progress (dsimp -zeta -eta only)

theorem modGrid_frame :
    ∀ s x1, Frame [.grid] s (State.modGrid s x1) := by
  intro s x1
  unfold State.modGrid
  repeat' first
    | with_reducible apply Frame.refl
    | fail_if_no_progress (apply Frame.via; with_reducible apply Frame.grid; decide)

theorem settleLag_frame :
    ∀ s x1, Frame [.grid, .sched] s (State.settleLag s x1) := by
  intro s x1
  unfold State.settleLag
  repeat' first
    | with_reducible apply Frame.refl
    | (apply Frame.via; with_reducible apply modGrid_frame; decide)
    | fail_if_no_progress (apply Frame.via; with_reducible apply Frame.sched; decide)

theorem chargeWork_frame :
    ∀ s x1 x2 x3 x4, Frame [.sched] s (State.chargeWork s x1 x2 x3 x4) := by
  intro s x1 x2 x3 x4
  unfold State.chargeWork
  repeat' first
    | with_reducible apply Frame.refl
    | with_reducible apply Frame.ite
    | fail_if_no_progress (apply Frame.via; with_reducible apply Frame.sched; decide)

theorem sendData_frame :
    ∀ s x1 x2 x3 x4 x5, Frame [.ctrls, .out] s (State.sendData s x1 x2 x3 x4 x5) := by
  intro s x1 x2 x3 x4 x5
  unfold State.sendData
  repeat' first
    | with_reducible apply Frame.refl
    | (apply Frame.via; with_reducible (first | apply success_frame | apply status_frame | apply emit_frame); decide)
    | split

theorem finishGet_frame :
    ∀ s x1 x2 x3 x4 x5 x6 x7, Frame [.ctrls, .sched, .benches, .out] s (State.finishGet s x1 x2 x3 x4 x5 x6 x7) := by
  intro s x1 x2 x3 x4 x5 x6 x7
  unfold State.finishGet
  dsimp -proj -eta only
  repeat' first
    | with_reducible apply Frame.refl
    | (apply Frame.via; with_reducible (first | apply sendData_frame | apply chargeWork_frame | apply modBench_frame
                                              | apply status_frame); decide)
    | split

theorem resumeGets_frame :
    ∀ s x1, Frame [.ctrls, .sched, .benches, .out] s (State.resumeGets s x1) := by
  intro s x1
  unfold State.resumeGets
  dsimp -proj -eta only
  repeat' first
    | with_reducible apply Frame.refl
    | (apply Frame.via; with_reducible (first | apply finishGet_frame | apply dropJob_frame); decide)
    | split
    | (with_reducible apply Frame.foldl; rotate_left; intro u x; (try dsimp -zeta -proj -eta only); rotate_right)

theorem chargeSwitch_frame :
    ∀ s x1 x2, Frame [.sched, .free] s (State.chargeSwitch s x1 x2) := by
  intro s x1 x2
  unfold State.chargeSwitch
  repeat' first
    | with_reducible apply Frame.refl
    | with_reducible assumption
    | (apply Frame.via; with_reducible (first | apply charge_frame | apply fresh_frame); decide)
    | with_reducible apply Frame.ite
    | (extract_lets +onlyGivenNames x; clear_value (e : x = _); apply Frame.cut x; (subst e); rotate_left;
       (intro h); (clear e); rotate_right)
    | extract_lets +onlyGivenNames y
    | split
    | (with_reducible apply Frame.foldlPair; rotate_left; intro u x; (try dsimp -zeta -proj -eta only); rotate_right)
    | (with_reducible apply Frame.foldl; rotate_left; intro u x; (try dsimp -zeta -proj -eta only); rotate_right)
    | (refine Frame.via ((fresh_frame _).of_eq (congrArg Prod.snd (by assumption))) (by decide) ?_)
    | fail_if_no_progress (dsimp +zetaDelta -zeta -proj -eta only)
    | fail_if_no_progress (dsimp -zeta -eta only)

theorem takeCredit_frame :
    ∀ s x1 x2, Frame [.sched] s (State.takeCredit s x1 x2) := by
  intro s x1 x2
  unfold State.takeCredit
  repeat' first
    | with_reducible apply Frame.refl
    | fail_if_no_progress (apply Frame.via; with_reducible apply Frame.sched; decide)

theorem startNextBench_frame :
    ∀ s x1, Frame [.sched, .benches, .free] s (State.startNextBench s x1) := by
  intro s x1
  unfold State.startNextBench
  repeat' first
    | with_reducible apply Frame.refl
    | with_reducible assumption
    | (apply Frame.via; with_reducible (first | apply takeCredit_frame | apply chargeSwitch_frame
                                              | apply modBench_frame | apply modJob_frame); decide)
    | with_reducible apply Frame.ite
    | (extract_lets +onlyGivenNames x; clear_value (e : x = _); apply Frame.cut x; (subst e); rotate_left;
       (intro h); (clear e); rotate_right)
    | extract_lets +onlyGivenNames y
    | split
    | (with_reducible apply Frame.foldlPair; rotate_left; intro u x; (try dsimp -zeta -proj -eta only); rotate_right)
    | (with_reducible apply Frame.foldl; rotate_left; intro u x; (try dsimp -zeta -proj -eta only); rotate_right)
    | fail_if_no_progress (dsimp +zetaDelta -zeta -proj -eta only)
    | fail_if_no_progress (dsimp -zeta -eta only)

theorem startStroke_frame :
    ∀ s, Frame [.ctrls, .grid, .sched, .engines, .mem, .cache, .benches, .out, .free] s (State.startStroke s) := by
  intro s
  unfold State.startStroke
  repeat' first
    | with_reducible apply Frame.refl
    | (apply Frame.via; with_reducible (first | apply startNextBench_frame | apply startNext_frame
                                              | apply resumeGets_frame | apply modGrid_frame); decide)
    | (with_reducible apply Frame.foldl; rotate_left; intro u x; (try dsimp -zeta -proj -eta only); rotate_right)
    | fail_if_no_progress (apply Frame.via; with_reducible (first | apply Frame.sched | apply Frame.engines
                                                                  | apply Frame.sched_engines); decide)

theorem updateWeights_frame :
    ∀ s x1, Frame [.sched] s (State.updateWeights s x1) := by
  intro s x1
  unfold State.updateWeights
  repeat' first
    | with_reducible apply Frame.refl
    | fail_if_no_progress (apply Frame.via; with_reducible apply Frame.sched; decide)

theorem boundary_frame : ∀ s x1 x2, Frame [.power, .ctrls, .mold, .grid, .sched, .engines, .mem, .cache, .ingots,
                                           .search, .benches, .flash, .errors, .burnish, .sec, .dev, .out, .free] s
                                               (State.boundary s x1 x2) := by
  intro s x1 x2
  unfold State.boundary
  extract_lets a b
  have ha : Frame [.power, .ctrls, .mold, .grid, .sched, .engines, .mem, .cache, .ingots, .search, .benches, .flash,
                   .errors, .burnish, .sec, .dev, .out, .free] s a := Frame.via (updateWeights_frame _ _)
                       (by decide) (Frame.via (settleLag_frame _ _)
    (by decide) (Frame.via (chargeStroke_frame _) (by decide) (Frame.via (chargeRunning_frame _) (by decide)
    (Frame.refl s))))
  clear_value a
  have hb : Frame [.power, .ctrls, .mold, .grid, .sched, .engines, .mem, .cache, .ingots, .search, .benches, .flash,
                   .errors, .burnish, .sec, .dev, .out, .free] s b := Frame.via (publishStep_frame _) (by decide)
                       (Frame.via (powerStep_frame _ _)
    (by decide) (Frame.via (recastStep_frame _) (by decide) (Frame.via (latchStep_frame _) (by decide) ha)))
  clear_value b
  split
  · exact hb
  · exact Frame.via (startStroke_frame _) (by decide) (Frame.via (budgetStep_frame _ _) (by decide)
      (Frame.via (formSweeps_frame _ _) (by decide) (Frame.via (admissionStep_frame _ _) (by decide) hb)))

theorem freshBytes_frame :
    ∀ s x1, Frame [.free] s (State.freshBytes s x1).2 := by
  intro s x1
  unfold State.freshBytes
  repeat' first
    | with_reducible apply Frame.refl
    | (apply Frame.via; with_reducible apply freshN_frame; decide)

theorem leavesCheck_frame :
    ∀ s, Frame [.ctrls, .errors, .sec, .out] s (State.leavesCheck s) := by
  intro s
  unfold State.leavesCheck
  repeat' first
    | with_reducible apply Frame.refl
    | (apply Frame.via; with_reducible apply reportSecurity_frame; decide)
    | with_reducible apply Frame.ite
    | fail_if_no_progress (apply Frame.via; with_reducible apply Frame.sec; decide)

theorem reserveBatch_frame :
    ∀ s x1, Frame [.ctrls, .pewter, .errors, .sec, .out] s (State.reserveBatch s x1) := by
  intro s x1
  induction x1 generalizing s with
  | zero => exact Frame.refl _
  | succ n ih =>
    unfold State.reserveBatch
    repeat' first
      | with_reducible apply Frame.refl
      | (apply Frame.via; with_reducible apply ih; exact fun p hp => hp)
      | (apply Frame.via; with_reducible (first | apply leavesCheck_frame | apply programVault_frame); decide)
      | with_reducible apply Frame.ite
      | fail_if_no_progress (apply Frame.via; with_reducible apply Frame.sec; decide)

theorem sign_frame :
    ∀ s x1, Frame [.ctrls, .pewter, .errors, .sec, .out] s (State.sign s x1).2 := by
  intro s x1
  unfold State.sign
  repeat' first
    | with_reducible apply Frame.refl
    | with_reducible assumption
    | (apply Frame.via; with_reducible apply reserveBatch_frame; decide)
    | (extract_lets +onlyGivenNames x; clear_value (e : x = _); apply Frame.cut x; (subst e); rotate_left;
       (intro h); (clear e); rotate_right)
    | split
    | fail_if_no_progress (apply Frame.via; with_reducible apply Frame.sec; decide)

theorem buildInit_frame :
    ∀ s u, State.buildInit s = some u → Frame [.ctrls, .pewter, .errors, .sec, .out, .free] s u := by
  intro s u e
  unfold State.buildInit at e
  dsimp -proj -eta only at e
  repeat' split at e
  all_goals first | (cases e; done) | cases e
  all_goals repeat' first
    | with_reducible apply Frame.refl
    | with_reducible assumption
    | (apply Frame.via; with_reducible (first | apply sign_frame | apply freshBytes_frame
                                              | apply sendMessage_frame); decide)
    | with_reducible apply Frame.ite
    | (extract_lets +onlyGivenNames x; clear_value (e : x = _); apply Frame.cut x; (subst e); rotate_left;
       (intro h); (clear e); rotate_right)
    | extract_lets +onlyGivenNames y
    | split
    | (with_reducible apply Frame.foldlPair; rotate_left; intro u x; (try dsimp -zeta -proj -eta only); rotate_right)
    | (with_reducible apply Frame.foldl; rotate_left; intro u x; (try dsimp -zeta -proj -eta only); rotate_right)
    | (refine Frame.via ((sign_frame _ _).of_eq (congrArg Prod.snd (by assumption))) (by decide) ?_)
    | (refine Frame.via ((freshBytes_frame _ _).of_eq (congrArg Prod.snd (by assumption))) (by decide) ?_)
    | fail_if_no_progress (apply Frame.via; with_reducible apply Frame.sec; decide)
    | fail_if_no_progress (dsimp +zetaDelta -zeta -proj -eta only)
    | fail_if_no_progress (dsimp -zeta -eta only)

theorem burnEffects_frame :
    ∀ s x1, Frame [.mem, .burnish] s (State.burnEffects s x1) := by
  intro s x1
  unfold State.burnEffects
  repeat' first
    | with_reducible apply Frame.refl
    | with_reducible assumption
    | (apply Frame.via; with_reducible apply withhold_frame; decide)
    | with_reducible apply Frame.ite
    | (extract_lets +onlyGivenNames x; clear_value (e : x = _); apply Frame.cut x; (subst e); rotate_left;
       (intro h); (clear e); rotate_right)
    | extract_lets +onlyGivenNames y
    | split
    | (with_reducible apply Frame.foldlPair; rotate_left; intro u x; (try dsimp -zeta -proj -eta only); rotate_right)
    | (with_reducible apply Frame.foldl; rotate_left; intro u x; (try dsimp -zeta -proj -eta only); rotate_right)
    | fail_if_no_progress (apply Frame.via; with_reducible (first | apply Frame.mem | apply Frame.burnish); decide)
    | fail_if_no_progress (dsimp +zetaDelta -zeta -proj -eta only)
    | fail_if_no_progress (dsimp -zeta -eta only)

theorem endTraining_frame :
    ∀ s x1 x2, Frame [.sched, .search] s (State.endTraining s x1 x2) := by
  intro s x1 x2
  unfold State.endTraining
  repeat' first
    | with_reducible apply Frame.refl
    | (apply Frame.via; with_reducible (first | apply toGate_frame | apply modJob_frame
                                              | apply abandonTokens_frame); decide)

theorem calibrate_frame :
    ∀ s x1, Frame [.sched, .search, .free] s (State.calibrate s x1) := by
  intro s x1
  unfold State.calibrate
  repeat' first
    | with_reducible apply Frame.refl
    | (apply Frame.via; with_reducible (first | apply endTraining_frame | apply awaitPublication_frame
                                              | apply freshN_frame | apply modJob_frame); decide)
    | with_reducible apply Frame.ite
    | split

theorem capFall_frame :
    ∀ s, Frame [.power, .sched] s (State.capFall s) := by
  intro s
  unfold State.capFall
  repeat' first
    | with_reducible apply Frame.refl
    | with_reducible assumption
    | (apply Frame.via; with_reducible (first | apply evalC0_frame | apply allocate_frame | apply modPower_frame);
       decide)
    | with_reducible apply Frame.ite
    | (extract_lets +onlyGivenNames x; clear_value (e : x = _); apply Frame.cut x; (subst e); rotate_left;
       (intro h); (clear e); rotate_right)
    | extract_lets +onlyGivenNames y
    | split
    | (with_reducible apply Frame.foldlPair; rotate_left; intro u x; (try dsimp -zeta -proj -eta only); rotate_right)
    | (with_reducible apply Frame.foldl; rotate_left; intro u x; (try dsimp -zeta -proj -eta only); rotate_right)
    | fail_if_no_progress (dsimp +zetaDelta -zeta -proj -eta only)
    | fail_if_no_progress (dsimp -zeta -eta only)

theorem chargeParts_frame :
    ∀ s x1 x2 x3 x4 x5, Frame [.sched, .engines] s (State.chargeParts s x1 x2 x3 x4 x5) := by
  intro s x1 x2 x3 x4 x5
  unfold State.chargeParts
  repeat' first
    | with_reducible apply Frame.refl
    | (apply Frame.via; with_reducible (first | apply modEngine_frame | apply charge_frame); decide)
    | (with_reducible apply Frame.foldl; rotate_left; intro u x; (try dsimp -zeta -proj -eta only); rotate_right)

theorem dropUnflushed_frame :
    ∀ s x1, Frame [.search] s (State.dropUnflushed s x1) := by
  intro s x1
  unfold State.dropUnflushed
  repeat' first
    | with_reducible apply Frame.refl
    | with_reducible assumption
    | (apply Frame.via; with_reducible apply goBack_frame; decide)
    | with_reducible apply Frame.ite
    | (extract_lets +onlyGivenNames x; clear_value (e : x = _); apply Frame.cut x; (subst e); rotate_left;
       (intro h); (clear e); rotate_right)
    | extract_lets +onlyGivenNames y
    | split
    | (with_reducible apply Frame.foldlPair; rotate_left; intro u x; (try dsimp -zeta -proj -eta only); rotate_right)
    | (with_reducible apply Frame.foldl; rotate_left; intro u x; (try dsimp -zeta -proj -eta only); rotate_right)
    | fail_if_no_progress (apply Frame.via; with_reducible apply Frame.search; decide)
    | fail_if_no_progress (dsimp +zetaDelta -zeta -proj -eta only)
    | fail_if_no_progress (dsimp -zeta -eta only)

theorem retireBlock_frame :
    ∀ s x1 x2 x3 x4 x5 x6, Frame [.ctrls, .mem, .cache, .search, .flash, .errors, .out] s
        (State.retireBlock s x1 x2 x3 x4 x5 x6) := by
  intro s x1 x2 x3 x4 x5 x6
  unfold State.retireBlock
  repeat' first
    | with_reducible apply Frame.refl
    | with_reducible assumption
    | (apply Frame.via; with_reducible (first | apply losePage_frame | apply capacityCheck_frame
                                              | apply mediaRecord_frame | apply moveTo_frame); decide)
    | (with_reducible apply withSmart_frame; rotate_left; decide; (try dsimp -zeta -proj -eta only))
    | with_reducible apply Frame.ite
    | (extract_lets +onlyGivenNames x; clear_value (e : x = _); apply Frame.cut x; (subst e); rotate_left;
       (intro h); (clear e); rotate_right)
    | extract_lets +onlyGivenNames y
    | split
    | (with_reducible apply Frame.foldlPair; rotate_left; intro u x; (try dsimp -zeta -proj -eta only); rotate_right)
    | (with_reducible apply Frame.foldl; rotate_left; intro u x; (try dsimp -zeta -proj -eta only); rotate_right)
    | fail_if_no_progress (dsimp +zetaDelta -zeta -proj -eta only)
    | fail_if_no_progress (dsimp -zeta -eta only)

theorem replaceLogBlock_frame :
    ∀ s x1, Frame [.ctrls, .mem, .cache, .search, .flash, .errors, .out] s (State.replaceLogBlock s x1) := by
  intro s x1
  unfold State.replaceLogBlock
  repeat' first
    | with_reducible apply Frame.refl
    | (apply Frame.via; with_reducible (first | apply retireBlock_frame | apply modFlash_frame); decide)
    | with_reducible apply Frame.ite

theorem eraseLog_frame :
    ∀ s x1, Frame [.ctrls, .mem, .cache, .search, .flash, .errors, .out] s (State.eraseLog s x1) := by
  intro s x1
  unfold State.eraseLog
  repeat' first
    | with_reducible apply Frame.refl
    | (apply Frame.via; with_reducible apply replaceLogBlock_frame; decide)
    | (with_reducible apply Frame.foldl; rotate_left; intro u x; (try dsimp -zeta -proj -eta only); rotate_right)
    | fail_if_no_progress (apply Frame.via; with_reducible apply Frame.flash; decide)

theorem replayLog_frame :
    ∀ s x1, Frame [.mem, .benches] s (State.replayLog s x1) := by
  intro s x1
  unfold State.replayLog
  repeat' first
    | with_reducible apply Frame.refl
    | with_reducible assumption
    | with_reducible apply Frame.ite
    | (extract_lets +onlyGivenNames x; clear_value (e : x = _); apply Frame.cut x; (subst e); rotate_left;
       (intro h); (clear e); rotate_right)
    | extract_lets +onlyGivenNames y
    | split
    | (with_reducible apply Frame.foldlPair; rotate_left; intro u x; (try dsimp -zeta -proj -eta only); rotate_right)
    | (with_reducible apply Frame.foldl; rotate_left; intro u x; (try dsimp -zeta -proj -eta only); rotate_right)
    | fail_if_no_progress (apply Frame.via; with_reducible (first | apply Frame.mem | apply Frame.benches
                                                                  | apply Frame.mem_benches); decide)
    | fail_if_no_progress (dsimp +zetaDelta -zeta -proj -eta only)
    | fail_if_no_progress (dsimp -zeta -eta only)

theorem checkFlushLog_frame :
    ∀ s x1, Frame [.ctrls, .mold, .mem, .cache, .search, .benches, .flash, .errors, .out] s
        (State.checkFlushLog s x1) := by
  intro s x1
  unfold State.checkFlushLog
  repeat' first
    | with_reducible apply Frame.refl
    | with_reducible assumption
    | (apply Frame.via; with_reducible (first | apply replayLog_frame | apply eraseLog_frame
                                              | apply dropUnflushed_frame | apply reportGeneral_frame); decide)
    | with_reducible apply Frame.ite
    | (extract_lets +onlyGivenNames x; clear_value (e : x = _); apply Frame.cut x; (subst e); rotate_left;
       (intro h); (clear e); rotate_right)
    | extract_lets +onlyGivenNames y
    | split
    | (with_reducible apply Frame.foldlPair; rotate_left; intro u x; (try dsimp -zeta -proj -eta only); rotate_right)
    | (with_reducible apply Frame.foldl; rotate_left; intro u x; (try dsimp -zeta -proj -eta only); rotate_right)
    | fail_if_no_progress (apply Frame.via; with_reducible (first | apply Frame.mold | apply Frame.mem); decide)
    | fail_if_no_progress (dsimp +zetaDelta -zeta -proj -eta only)
    | fail_if_no_progress (dsimp -zeta -eta only)

theorem writeAt_frame :
    ∀ s x1 x2, Frame [.engines, .mem] s (State.writeAt s x1 x2) := by
  intro s x1 x2
  unfold State.writeAt
  repeat' first
    | with_reducible apply Frame.refl
    | (apply Frame.via; with_reducible apply setStore_frame; decide)
    | fail_if_no_progress (apply Frame.via; with_reducible apply Frame.mem; decide)

theorem combineParts_frame :
    ∀ s x1 x2, Frame [.engines, .mem] s (State.combineParts s x1 x2) := by
  intro s x1 x2
  unfold State.combineParts
  dsimp -proj -eta only
  repeat' first
    | with_reducible apply Frame.refl
    | with_reducible assumption
    | (apply Frame.via; with_reducible (first | apply writeAt_frame | apply modEngine_frame); decide)
    | with_reducible apply Frame.ite
    | (extract_lets +onlyGivenNames x; clear_value (e : x = _); apply Frame.cut x; (subst e); rotate_left;
       (intro h); (clear e); rotate_right)
    | extract_lets +onlyGivenNames y
    | split
    | (with_reducible apply Frame.foldlPair; rotate_left; intro u x; (try dsimp -zeta -proj -eta only); rotate_right)
    | (with_reducible apply Frame.foldl; rotate_left; intro u x; (try dsimp -zeta -proj -eta only); rotate_right)
    | fail_if_no_progress (dsimp +zetaDelta -zeta -proj -eta only)
    | fail_if_no_progress (dsimp -zeta -eta only)

theorem completeGeneric_frame :
    ∀ s x1 x2 x3, Frame [.ctrls, .out] s (State.completeGeneric s x1 x2 x3) := by
  intro s x1 x2 x3
  unfold State.completeGeneric
  repeat' first
    | with_reducible apply Frame.refl
    | (apply Frame.via; with_reducible apply post_frame; decide)

theorem engineWrite_frame :
    ∀ s x1 x2 x3 x4, Frame [.sched, .engines, .mem] s (State.engineWrite s x1 x2 x3 x4) := by
  intro s x1 x2 x3 x4
  unfold State.engineWrite
  repeat' first
    | with_reducible apply Frame.refl
    | (apply Frame.via; with_reducible (first | apply writeAt_frame | apply modEngine_frame | apply modJob_frame);
       decide)
    | split

theorem scratchUe_frame :
    ∀ s x1 x2 x3 x4, Frame [.ctrls, .sched, .engines, .mem, .cache, .search, .benches, .errors, .out] s
        (State.scratchUe s x1 x2 x3 x4) := by
  intro s x1 x2 x3 x4
  unfold State.scratchUe
  repeat' first
    | with_reducible apply Frame.refl
    | (apply Frame.via; with_reducible (first | apply memoryReport_frame | apply faultJob_frame); decide)

theorem vecWrite_frame :
    ∀ s x1 x2 x3 x4 x5, Frame [.ctrls, .sched, .engines, .mem, .cache, .search, .benches, .errors, .out] s
        (State.vecWrite s x1 x2 x3 x4 x5) := by
  intro s x1 x2 x3 x4 x5
  unfold State.vecWrite
  dsimp -proj -eta only
  repeat' first
    | with_reducible apply Frame.refl
    | (apply Frame.via; with_reducible (first | apply scratchUe_frame | apply engineWrite_frame
                                              | apply modEngine_frame); decide)
    | split

theorem convert_frame :
    ∀ s x1 x2 x3 x4 x5, Frame [.ctrls, .sched, .engines, .mem, .cache, .search, .benches, .errors, .out, .free] s
        (State.convert s x1 x2 x3 x4 x5) := by
  intro s x1 x2 x3 x4 x5
  unfold State.convert
  repeat' first
    | with_reducible apply Frame.refl
    | (apply Frame.via; with_reducible (first | apply vecWrite_frame | apply modEngine_frame | apply modJob_frame
                                              | apply fresh_frame); decide)
    | with_reducible apply Frame.ite

theorem countBoundary_frame :
    ∀ s, Frame [.grid] s (State.countBoundary s) := by
  intro s
  unfold State.countBoundary
  repeat' first
    | with_reducible apply Frame.refl
    | (apply Frame.via; with_reducible apply modGrid_frame; decide)

theorem modLink_frame :
    ∀ s x1 x2, Frame [.links] s (State.modLink s x1 x2) := by
  intro s x1 x2
  unfold State.modLink
  repeat' first
    | with_reducible apply Frame.refl
    | fail_if_no_progress (apply Frame.via; with_reducible apply Frame.links; decide)

theorem countLink_frame :
    ∀ s x1 x2, Frame [.links] s (State.countLink s x1 x2) := by
  intro s x1 x2
  unfold State.countLink
  repeat' first
    | with_reducible apply Frame.refl
    | (apply Frame.via; with_reducible apply modLink_frame; decide)
    | with_reducible apply Frame.ite

theorem cqInvalid_frame :
    ∀ s x1, Frame [.ctrls, .out] s (State.cqInvalid s x1) := by
  intro s x1
  unfold State.cqInvalid
  repeat' first
    | with_reducible apply Frame.refl
    | (apply Frame.via; with_reducible apply nvme_frame; decide)

theorem deliverKeys_frame :
    ∀ s x1, Frame [.links, .free] s (State.deliverKeys s x1) := by
  intro s x1
  unfold State.deliverKeys
  repeat' first
    | with_reducible apply Frame.refl
    | with_reducible assumption
    | (apply Frame.via; with_reducible (first | apply modLink_frame | apply fresh256_frame); decide)
    | with_reducible apply Frame.ite
    | (extract_lets +onlyGivenNames x; clear_value (e : x = _); apply Frame.cut x; (subst e); rotate_left;
       (intro h); (clear e); rotate_right)
    | extract_lets +onlyGivenNames y
    | split
    | (with_reducible apply Frame.foldlPair; rotate_left; intro u x; (try dsimp -zeta -proj -eta only); rotate_right)
    | (with_reducible apply Frame.foldl; rotate_left; intro u x; (try dsimp -zeta -proj -eta only); rotate_right)
    | (refine Frame.via ((fresh256_frame _).of_eq (congrArg Prod.snd (by assumption))) (by decide) ?_)
    | fail_if_no_progress (dsimp +zetaDelta -zeta -proj -eta only)
    | fail_if_no_progress (dsimp -zeta -eta only)

theorem dirtyAll_frame : ∀ s x1, Frame [.mem, .cache, .search, .flash] s (State.dirtyAll s x1).1 := by
  intro s x1
  induction x1 generalizing s with
  | nil => exact Frame.refl s
  | cons x xs ih =>
    obtain ⟨q, g, c⟩ := x
    unfold State.dirtyAll
    have h := dirtyThrough_frame s q g c
    split
    · next t e => exact Frame.trans (ih t) (h.of_eq (congrArg Prod.fst e))
    · next t e => exact h.of_eq (congrArg Prod.fst e)

theorem discardOutputs_frame :
    ∀ s x1 x2, Frame [.engines, .mem] s (State.discardOutputs s x1 x2) := by
  intro s x1 x2
  unfold State.discardOutputs
  repeat' first
    | with_reducible apply Frame.refl
    | with_reducible assumption
    | (apply Frame.via; with_reducible apply clearGranule_frame; decide)
    | with_reducible apply Frame.ite
    | (extract_lets +onlyGivenNames x; clear_value (e : x = _); apply Frame.cut x; (subst e); rotate_left;
       (intro h); (clear e); rotate_right)
    | extract_lets +onlyGivenNames y
    | split
    | (with_reducible apply Frame.foldlPair; rotate_left; intro u x; (try dsimp -zeta -proj -eta only); rotate_right)
    | (with_reducible apply Frame.foldl; rotate_left; intro u x; (try dsimp -zeta -proj -eta only); rotate_right)
    | fail_if_no_progress (dsimp +zetaDelta -zeta -proj -eta only)
    | fail_if_no_progress (dsimp -zeta -eta only)

theorem drainBench_frame :
    ∀ s x1, Frame [.sched, .benches, .free] s (State.drainBench s x1) := by
  intro s x1
  unfold State.drainBench
  repeat' first
    | with_reducible apply Frame.refl
    | with_reducible assumption
    | (apply Frame.via; with_reducible (first | apply chargeSwitch_frame | apply returnCredits_frame
                                              | apply chargeBench_frame | apply modBench_frame
                                                  | apply countSwitch_frame | apply modJob_frame); decide)
    | with_reducible apply Frame.ite
    | (extract_lets +onlyGivenNames x; clear_value (e : x = _); apply Frame.cut x; (subst e); rotate_left;
       (intro h); (clear e); rotate_right)
    | extract_lets +onlyGivenNames y
    | split
    | (with_reducible apply Frame.foldlPair; rotate_left; intro u x; (try dsimp -zeta -proj -eta only); rotate_right)
    | (with_reducible apply Frame.foldl; rotate_left; intro u x; (try dsimp -zeta -proj -eta only); rotate_right)
    | fail_if_no_progress (dsimp +zetaDelta -zeta -proj -eta only)
    | fail_if_no_progress (dsimp -zeta -eta only)

theorem drainCq_frame :
    ∀ s x1 x2 x3, Frame [.ctrls, .out] s (State.drainCq s x1 x2 x3) := by
  intro s x1 x2 x3
  induction x3 generalizing s with
  | zero => exact Frame.refl _
  | succ n ih =>
    unfold State.drainCq
    repeat' first
      | with_reducible apply Frame.refl
      | (apply Frame.via; with_reducible apply ih; exact fun p hp => hp)
      | (apply Frame.via; with_reducible (first | apply msix_frame | apply modCtrl_frame); decide)
      | split

theorem drainEngine_frame :
    ∀ s x1, Frame [.engines] s (State.drainEngine s x1) := by
  intro s x1
  unfold State.drainEngine
  repeat' first
    | with_reducible apply Frame.refl
    | (apply Frame.via; with_reducible apply modEngine_frame; decide)
    | split

theorem drainWork_frame :
    ∀ s x1, Frame [.sched, .benches, .free] s (State.drainWork s x1) := by
  intro s x1
  unfold State.drainWork
  repeat' first
    | with_reducible apply Frame.refl
    | with_reducible assumption
    | (apply Frame.via; with_reducible (first | apply drainBench_frame | apply countSwitch_frame); decide)
    | with_reducible apply Frame.ite
    | (extract_lets +onlyGivenNames x; clear_value (e : x = _); apply Frame.cut x; (subst e); rotate_left;
       (intro h); (clear e); rotate_right)
    | extract_lets +onlyGivenNames y
    | split
    | (with_reducible apply Frame.foldlPair; rotate_left; intro u x; (try dsimp -zeta -proj -eta only); rotate_right)
    | (with_reducible apply Frame.foldl; rotate_left; intro u x; (try dsimp -zeta -proj -eta only); rotate_right)
    | fail_if_no_progress (dsimp +zetaDelta -zeta -proj -eta only)
    | fail_if_no_progress (dsimp -zeta -eta only)

theorem dropAdmin_frame :
    ∀ s x1, Frame [.ctrls] s (State.dropAdmin s x1) := by
  intro s x1
  unfold State.dropAdmin
  repeat' first
    | with_reducible apply Frame.refl
    | fail_if_no_progress (apply Frame.via; with_reducible apply Frame.ctrls; decide)

theorem programTails_frame :
    ∀ s, Frame [.mem, .cache, .search, .flash] s (State.programTails s) := by
  intro s
  unfold State.programTails
  repeat' first
    | with_reducible apply Frame.refl
    | with_reducible assumption
    | (apply Frame.via; with_reducible apply granuleHome_frame; decide)
    | with_reducible apply Frame.ite
    | (extract_lets +onlyGivenNames x; clear_value (e : x = _); apply Frame.cut x; (subst e); rotate_left;
       (intro h); (clear e); rotate_right)
    | extract_lets +onlyGivenNames y
    | split
    | (with_reducible apply Frame.foldlPair; rotate_left; intro u x; (try dsimp -zeta -proj -eta only); rotate_right)
    | (with_reducible apply Frame.foldl; rotate_left; intro u x; (try dsimp -zeta -proj -eta only); rotate_right)
    | fail_if_no_progress (dsimp +zetaDelta -zeta -proj -eta only)
    | fail_if_no_progress (dsimp -zeta -eta only)

theorem enterPower_frame :
    ∀ s x1, Frame [.power, .sched, .engines, .mem, .cache, .search, .benches, .flash] s (State.enterPower s x1) := by
  intro s x1
  unfold State.enterPower
  repeat' first
    | with_reducible apply Frame.refl
    | with_reducible assumption
    | (apply Frame.via; with_reducible (first | apply programTails_frame | apply capFall_frame
                                              | apply gateParts_frame | apply modPower_frame); decide)
    | with_reducible apply Frame.ite
    | (extract_lets +onlyGivenNames x; clear_value (e : x = _); apply Frame.cut x; (subst e); rotate_left;
       (intro h); (clear e); rotate_right)
    | extract_lets +onlyGivenNames y
    | split
    | (with_reducible apply Frame.foldlPair; rotate_left; intro u x; (try dsimp -zeta -proj -eta only); rotate_right)
    | (with_reducible apply Frame.foldl; rotate_left; intro u x; (try dsimp -zeta -proj -eta only); rotate_right)
    | fail_if_no_progress (dsimp +zetaDelta -zeta -proj -eta only)
    | fail_if_no_progress (dsimp -zeta -eta only)

theorem followRequest_frame :
    ∀ s, Frame [.power, .sched, .engines, .mem, .cache, .search, .benches, .flash] s (State.followRequest s) := by
  intro s
  unfold State.followRequest
  repeat' first
    | with_reducible apply Frame.refl
    | with_reducible assumption
    | (apply Frame.via; with_reducible (first | apply enterPower_frame | apply modPower_frame); decide)
    | with_reducible apply Frame.ite
    | (extract_lets +onlyGivenNames x; clear_value (e : x = _); apply Frame.cut x; (subst e); rotate_left;
       (intro h); (clear e); rotate_right)
    | extract_lets +onlyGivenNames y
    | split
    | (with_reducible apply Frame.foldlPair; rotate_left; intro u x; (try dsimp -zeta -proj -eta only); rotate_right)
    | (with_reducible apply Frame.foldl; rotate_left; intro u x; (try dsimp -zeta -proj -eta only); rotate_right)
    | fail_if_no_progress (dsimp +zetaDelta -zeta -proj -eta only)
    | fail_if_no_progress (dsimp -zeta -eta only)

theorem quenchController_frame :
    ∀ s x1, Frame [.sched] s (State.quenchController s x1) := by
  intro s x1
  unfold State.quenchController
  repeat' first
    | with_reducible apply Frame.refl
    | fail_if_no_progress (apply Frame.via; with_reducible apply Frame.sched; decide)

theorem dropController_frame :
    ∀ s x1 x2, Frame [.power, .ctrls, .mold, .sched, .engines, .mem, .cache, .search, .benches, .flash] s
        (State.dropController s x1 x2) := by
  intro s x1 x2
  unfold State.dropController
  repeat' first
    | with_reducible apply Frame.refl
    | with_reducible assumption
    | (apply Frame.via; with_reducible (first | apply quenchController_frame | apply followRequest_frame
                                              | apply modCtrl_frame); decide)
    | with_reducible apply Frame.ite
    | (extract_lets +onlyGivenNames x; clear_value (e : x = _); apply Frame.cut x; (subst e); rotate_left;
       (intro h); (clear e); rotate_right)
    | extract_lets +onlyGivenNames y
    | split
    | (with_reducible apply Frame.foldlPair; rotate_left; intro u x; (try dsimp -zeta -proj -eta only); rotate_right)
    | (with_reducible apply Frame.foldl; rotate_left; intro u x; (try dsimp -zeta -proj -eta only); rotate_right)
    | fail_if_no_progress (apply Frame.via; with_reducible apply Frame.mold; decide)
    | fail_if_no_progress (dsimp +zetaDelta -zeta -proj -eta only)
    | fail_if_no_progress (dsimp -zeta -eta only)

theorem notInserted_frame :
    ∀ s x1, Frame [.mem, .cache, .search, .benches, .flash] s (State.notInserted s x1) := by
  intro s x1
  unfold State.notInserted
  repeat' first
    | with_reducible apply Frame.refl
    | (apply Frame.via; with_reducible (first | apply settleReading_frame | apply modObj_frame
                                              | apply modColl_frame); decide)
    | split

theorem takeVector_frame :
    ∀ s x1 x2 x3, Frame [.mem, .cache, .search, .benches, .flash] s (State.takeVector s x1 x2 x3) := by
  intro s x1 x2 x3
  unfold State.takeVector
  repeat' first
    | with_reducible apply Frame.refl
    | (apply Frame.via; with_reducible apply notInserted_frame; decide)
    | split
    | fail_if_no_progress (apply Frame.via; with_reducible apply Frame.search; decide)

theorem embedPassage_frame :
    ∀ s x1, Frame [.mem, .cache, .search, .benches, .flash] s (State.embedPassage s x1) := by
  intro s x1
  unfold State.embedPassage
  repeat' first
    | with_reducible apply Frame.refl
    | (apply Frame.via; with_reducible (first | apply takeVector_frame | apply modObj_frame); decide)
    | with_reducible apply Frame.ite
    | split

theorem endWith_frame :
    ∀ s x1 x2, Frame [.sched, .engines, .mem, .cache, .search, .benches] s (State.endWith s x1 x2) := by
  intro s x1 x2
  unfold State.endWith
  repeat' first
    | with_reducible apply Frame.refl
    | (apply Frame.via; with_reducible (first | apply teardown_frame | apply modJob_frame); decide)
    | fail_if_no_progress (apply Frame.via; with_reducible apply Frame.sched; decide)

theorem seal_frame :
    ∀ s x1 x2 x3, Frame [.free] s (State.seal s x1 x2 x3).2 := by
  intro s x1 x2 x3
  unfold State.seal
  repeat' first
    | with_reducible apply Frame.refl
    | (apply Frame.via; with_reducible (first | apply freshBytes_frame | apply fresh256_frame); decide)

theorem journal_frame : ∀ s x1 x2 u, State.journal s x1 x2 = some u → Frame [.flash] s u := by
  intro s x1 x2 u e
  unfold State.journal at e
  split at e
  · obtain ⟨h, -, rfl⟩ := Option.map_eq_some_iff.mp e
    exact Frame.via (modFlash_frame _ _ _) (by decide) (Frame.via (modFlash_frame _ _ _) (by decide) (Frame.refl s))
  · cases e

theorem storeObject_frame :
    ∀ s x1 x2 x3, Frame [.ctrls, .mem, .cache, .ingots, .search, .benches, .flash, .errors, .out] s
        (State.storeObject s x1 x2 x3).2 := by
  intro s x1 x2 x3
  unfold State.storeObject
  repeat' first
    | with_reducible apply Frame.refl
    | (apply Frame.via; with_reducible (first | apply warnBlocked_frame | apply recountUsed_frame
                                              | apply dirtyMap_frame | apply modFlash_frame | apply modBench_frame);
                                                  decide)
    | (refine Frame.via (Frame.getD (fun u h => journal_frame _ _ _ u h)) (by decide) ?_)
    | fail_if_no_progress (apply Frame.via; with_reducible apply Frame.search; decide)

theorem sealOutput_frame :
    ∀ s x1, Frame [.ctrls, .sched, .mem, .cache, .ingots, .search, .benches, .flash, .errors, .out, .free] s
        (State.sealOutput s x1).1 := by
  intro s x1
  unfold State.sealOutput
  repeat' first
    | with_reducible apply Frame.refl
    | (apply Frame.via; with_reducible (first | apply storeObject_frame | apply seal_frame | apply modJob_frame);
       decide)
    | extract_lets +onlyGivenNames y
    | split
    | (refine Frame.via ((seal_frame _ _ _ _).of_eq (congrArg Prod.snd (by assumption))) (by decide) ?_)

theorem storeIngotPage_frame :
    ∀ x0 x1 s x3, Frame [.sched, .mem, .cache, .search, .flash] s (State.storeIngotPage x0 x1 s x3) := by
  intro x0 x1 s x3
  unfold State.storeIngotPage
  repeat' first
    | with_reducible apply Frame.refl
    | with_reducible assumption
    | (apply Frame.via; with_reducible (first | apply chargeWork_frame | apply moveTo_frame
                                              | apply recountUsed_frame); decide)
    | with_reducible apply Frame.ite
    | (extract_lets +onlyGivenNames x; clear_value (e : x = _); apply Frame.cut x; (subst e); rotate_left;
       (intro h); (clear e); rotate_right)
    | extract_lets +onlyGivenNames y
    | split
    | (with_reducible apply Frame.foldlPair; rotate_left; intro u x; (try dsimp -zeta -proj -eta only); rotate_right)
    | (with_reducible apply Frame.foldl; rotate_left; intro u x; (try dsimp -zeta -proj -eta only); rotate_right)
    | fail_if_no_progress (dsimp +zetaDelta -zeta -proj -eta only)
    | fail_if_no_progress (dsimp -zeta -eta only)

theorem storeIngot_frame :
    ∀ s x1 x2 x3, Frame [.sched, .mem, .cache, .search, .flash] s (State.storeIngot s x1 x2 x3) := by
  intro s x1 x2 x3
  unfold State.storeIngot
  repeat' first
    | with_reducible apply Frame.refl
    | with_reducible assumption
    | (apply Frame.via; with_reducible apply storeIngotPage_frame; decide)
    | with_reducible apply Frame.ite
    | (extract_lets +onlyGivenNames x; clear_value (e : x = _); apply Frame.cut x; (subst e); rotate_left;
       (intro h); (clear e); rotate_right)
    | extract_lets +onlyGivenNames y
    | split
    | (with_reducible apply Frame.foldlPair; rotate_left; intro u x; (try dsimp -zeta -proj -eta only); rotate_right)
    | (with_reducible apply Frame.foldl; rotate_left; intro u x; (try dsimp -zeta -proj -eta only); rotate_right)
    | fail_if_no_progress (dsimp +zetaDelta -zeta -proj -eta only)
    | fail_if_no_progress (dsimp -zeta -eta only)

theorem writeDerived_frame :
    ∀ s x1, Frame [.ctrls, .sched, .mem, .cache, .ingots, .search, .flash, .pewter, .errors, .sec, .out] s
        (State.writeDerived s x1).1 := by
  intro s x1
  unfold State.writeDerived
  repeat' first
    | with_reducible apply Frame.refl
    | with_reducible assumption
    | (apply Frame.via; with_reducible (first | apply storeIngot_frame | apply sign_frame | apply modJob_frame);
       decide)
    | with_reducible apply Frame.ite
    | (extract_lets +onlyGivenNames x; clear_value (e : x = _); apply Frame.cut x; (subst e); rotate_left;
       (intro h); (clear e); rotate_right)
    | extract_lets +onlyGivenNames y
    | split
    | (with_reducible apply Frame.foldlPair; rotate_left; intro u x; (try dsimp -zeta -proj -eta only); rotate_right)
    | (with_reducible apply Frame.foldl; rotate_left; intro u x; (try dsimp -zeta -proj -eta only); rotate_right)
    | (refine Frame.via ((sign_frame _ _).of_eq (congrArg Prod.snd (by assumption))) (by decide) ?_)
    | fail_if_no_progress (apply Frame.via; with_reducible apply Frame.ingots; decide)
    | fail_if_no_progress (dsimp +zetaDelta -zeta -proj -eta only)
    | fail_if_no_progress (dsimp -zeta -eta only)

theorem produce_frame :
    ∀ s x1 x2, Frame [.ctrls, .sched, .mem, .cache, .ingots, .search, .benches, .flash, .pewter, .errors, .sec,
                      .out, .free] s (State.produce s x1 x2).1 := by
  intro s x1 x2
  unfold State.produce
  repeat' first
    | with_reducible apply Frame.refl
    | (apply Frame.via; with_reducible (first | apply writeDerived_frame | apply sealOutput_frame); decide)
    | split

theorem stopJob_frame :
    ∀ s x1, Frame [.ctrls, .sched, .engines, .mem, .cache, .ingots, .search, .benches, .flash, .pewter, .errors,
                   .sec, .out, .free] s (State.stopJob s x1) := by
  intro s x1
  unfold State.stopJob
  repeat' first
    | with_reducible apply Frame.refl
    | (apply Frame.via; with_reducible (first | apply produce_frame | apply endWith_frame | apply modJob_frame);
       decide)

theorem quenchNow_frame :
    ∀ s x1, Frame [.ctrls, .sched, .engines, .mem, .cache, .ingots, .search, .benches, .flash, .pewter, .errors,
                   .sec, .out, .free] s (State.quenchNow s x1) := by
  intro s x1
  unfold State.quenchNow
  repeat' first
    | with_reducible apply Frame.refl
    | (apply Frame.via; with_reducible (first | apply stopJob_frame | apply refuse_frame | apply dropJob_frame);
       decide)
    | split

theorem endJob_frame :
    ∀ s x1, Frame [.sched, .engines, .mem, .cache, .benches] s (State.endJob s x1) := by
  intro s x1
  unfold State.endJob
  repeat' first
    | with_reducible apply Frame.refl
    | (apply Frame.via; with_reducible (first | apply unpin_frame | apply returnCredits_frame
                                              | apply releaseGranules_frame | apply dropJob_frame); decide)
    | split
    | fail_if_no_progress (apply Frame.via; with_reducible (first | apply Frame.engines | apply Frame.benches
                                                                  | apply Frame.engines_benches); decide)

theorem doReleaseGate_frame :
    ∀ x0 s, Frame [.ctrls, .sched, .engines, .mem, .cache, .search, .benches, .errors, .out] s
        (doReleaseGate x0 s) := by
  intro x0 s
  unfold doReleaseGate
  repeat' first
    | with_reducible apply Frame.refl
    | (apply Frame.via; with_reducible (first | apply endJob_frame | apply sendData_frame | apply c0Finish_frame
                                              | apply status_frame | apply modColl_frame); decide)
    | split

theorem endCommands_frame :
    ∀ s, Frame [.ctrls, .sched, .engines, .mem, .cache, .ingots, .search, .benches, .flash, .pewter, .errors, .sec,
                .out, .free] s (State.endCommands s) := by
  intro s
  unfold State.endCommands
  repeat' first
    | with_reducible apply Frame.refl
    | (apply Frame.via; with_reducible (first | apply doReleaseGate_frame | apply quenchNow_frame
                                              | apply refuse_frame | apply dropJob_frame); decide)
    | (with_reducible apply Frame.foldl; rotate_left; intro u x; (try dsimp -zeta -proj -eta only); rotate_right)

theorem streamPageDone_frame :
    ∀ s x1 x2, Frame [.mem, .cache, .search, .flash] s (State.streamPageDone s x1 x2) := by
  intro s x1 x2
  unfold State.streamPageDone
  repeat' first
    | with_reducible apply Frame.refl
    | (apply Frame.via; with_reducible (first | apply recountUsed_frame | apply modList_frame
                                              | apply dirtyThrough_frame | apply modFlash_frame); decide)

theorem endPrograms_frame :
    ∀ s, Frame [.mem, .cache, .search, .flash] s (State.endPrograms s) := by
  intro s
  unfold State.endPrograms
  repeat' first
    | with_reducible apply Frame.refl
    | with_reducible assumption
    | (apply Frame.via; with_reducible (first | apply streamPageDone_frame | apply modFlash_frame); decide)
    | with_reducible apply Frame.ite
    | (extract_lets +onlyGivenNames x; clear_value (e : x = _); apply Frame.cut x; (subst e); rotate_left;
       (intro h); (clear e); rotate_right)
    | extract_lets +onlyGivenNames y
    | split
    | (with_reducible apply Frame.foldlPair; rotate_left; intro u x; (try dsimp -zeta -proj -eta only); rotate_right)
    | (with_reducible apply Frame.foldl; rotate_left; intro u x; (try dsimp -zeta -proj -eta only); rotate_right)
    | fail_if_no_progress (dsimp +zetaDelta -zeta -proj -eta only)
    | fail_if_no_progress (dsimp -zeta -eta only)

theorem waitedNp_frame :
    ∀ s x1 x2, Frame [.engines] s (State.waitedNp s x1 x2) := by
  intro s x1 x2
  unfold State.waitedNp
  repeat' first
    | with_reducible apply Frame.refl
    | with_reducible assumption
    | (apply Frame.via; with_reducible apply modEngine_frame; decide)
    | with_reducible apply Frame.ite
    | (extract_lets +onlyGivenNames x; clear_value (e : x = _); apply Frame.cut x; (subst e); rotate_left;
       (intro h); (clear e); rotate_right)
    | extract_lets +onlyGivenNames y
    | split
    | (with_reducible apply Frame.foldlPair; rotate_left; intro u x; (try dsimp -zeta -proj -eta only); rotate_right)
    | (with_reducible apply Frame.foldl; rotate_left; intro u x; (try dsimp -zeta -proj -eta only); rotate_right)
    | fail_if_no_progress (dsimp +zetaDelta -zeta -proj -eta only)
    | fail_if_no_progress (dsimp -zeta -eta only)

theorem endRefetch_frame :
    ∀ s x1 x2 x3 x4, Frame [.engines, .cache] s (State.endRefetch s x1 x2 x3 x4) := by
  intro s x1 x2 x3 x4
  unfold State.endRefetch
  repeat' first
    | with_reducible apply Frame.refl
    | with_reducible assumption
    | (apply Frame.via; with_reducible (first | apply waitedNp_frame | apply modCache_frame); decide)
    | with_reducible apply Frame.ite
    | (extract_lets +onlyGivenNames x; clear_value (e : x = _); apply Frame.cut x; (subst e); rotate_left;
       (intro h); (clear e); rotate_right)
    | extract_lets +onlyGivenNames y
    | split
    | (with_reducible apply Frame.foldlPair; rotate_left; intro u x; (try dsimp -zeta -proj -eta only); rotate_right)
    | (with_reducible apply Frame.foldl; rotate_left; intro u x; (try dsimp -zeta -proj -eta only); rotate_right)
    | fail_if_no_progress (dsimp +zetaDelta -zeta -proj -eta only)
    | fail_if_no_progress (dsimp -zeta -eta only)

theorem engineReason_frame :
    ∀ s x1 x2 x3, Frame [.ctrls, .engines, .out] s (State.engineReason s x1 x2 x3) := by
  intro s x1 x2 x3
  unfold State.engineReason
  repeat' first
    | with_reducible apply Frame.refl
    | (apply Frame.via; with_reducible (first | apply modEngine_frame | apply signal_frame); decide)
    | with_reducible apply Frame.ite

theorem engineFault_frame :
    ∀ s x1 x2 x3 x4, Frame [.ctrls, .sched, .engines, .mem, .cache, .search, .benches, .errors, .out] s
        (State.engineFault s x1 x2 x3 x4) := by
  intro s x1 x2 x3 x4
  unfold State.engineFault
  repeat' first
    | with_reducible apply Frame.refl
    | (apply Frame.via; with_reducible (first | apply engineReason_frame | apply faultJobNoted_frame); decide)

theorem enterFreeRun_frame :
    ∀ s, Frame [.ctrls, .grid, .out] s (State.enterFreeRun s) := by
  intro s
  unfold State.enterFreeRun
  repeat' first
    | with_reducible apply Frame.refl
    | (apply Frame.via; with_reducible (first | apply modGrid_frame | apply signal_frame); decide)
    | with_reducible apply Frame.ite

theorem errClear_frame :
    ∀ s x1, Frame [.errors] s (State.errClear s x1) := by
  intro s x1
  unfold State.errClear
  repeat' first
    | with_reducible apply Frame.refl
    | (apply Frame.via; with_reducible apply modRing_frame; decide)
    | split
    | fail_if_no_progress (apply Frame.via; with_reducible apply Frame.errors; decide)

theorem kmeans_frame :
    ∀ s x1, Frame [.sched, .search] s (State.kmeans s x1) := by
  intro s x1
  unfold State.kmeans
  dsimp -proj -eta only
  repeat' first
    | with_reducible apply Frame.refl
    | (apply Frame.via; with_reducible (first | apply endTraining_frame | apply awaitPublication_frame); decide)
    | split

theorem waitSign_frame :
    ∀ s x1 x2, Frame [.sec] s (State.waitSign s x1 x2) := by
  intro s x1 x2
  unfold State.waitSign
  repeat' first
    | with_reducible apply Frame.refl
    | fail_if_no_progress (apply Frame.via; with_reducible apply Frame.sec; decide)

theorem finishJob_frame :
    ∀ s x1 x2, Frame [.ctrls, .sched, .mem, .cache, .ingots, .search, .benches, .flash, .pewter, .errors, .sec,
                      .out, .free] s (State.finishJob s x1 x2) := by
  intro s x1 x2
  unfold State.finishJob
  repeat' first
    | with_reducible apply Frame.refl
    | (apply Frame.via; with_reducible (first | apply waitSign_frame | apply kmeans_frame | apply produce_frame
                                              | apply calibrate_frame | apply toGate_frame | apply modJob_frame);
                                                  decide)
    | with_reducible apply Frame.ite
    | split

theorem tombstone_frame :
    ∀ s x1 x2, Frame [.search] s (State.tombstone s x1 x2) := by
  intro s x1 x2
  unfold State.tombstone
  repeat' first
    | with_reducible apply Frame.refl
    | with_reducible assumption
    | with_reducible apply Frame.ite
    | (extract_lets +onlyGivenNames x; clear_value (e : x = _); apply Frame.cut x; (subst e); rotate_left;
       (intro h); (clear e); rotate_right)
    | extract_lets +onlyGivenNames y
    | split
    | (with_reducible apply Frame.foldlPair; rotate_left; intro u x; (try dsimp -zeta -proj -eta only); rotate_right)
    | (with_reducible apply Frame.foldl; rotate_left; intro u x; (try dsimp -zeta -proj -eta only); rotate_right)
    | fail_if_no_progress (apply Frame.via; with_reducible apply Frame.search; decide)
    | fail_if_no_progress (dsimp +zetaDelta -zeta -proj -eta only)
    | fail_if_no_progress (dsimp -zeta -eta only)

theorem doObjDeleteDurable_frame : ∀ k s, Frame [.ctrls, .mem, .cache, .search, .benches, .flash, .out]
    s (doObjDeleteDurable k s) := by
  intro k s
  unfold doObjDeleteDurable
  split
  · exact Frame.refl s
  · extract_lets answered
    have ha : ∀ t, Frame [.ctrls, .mem, .cache, .search, .benches, .flash, .out]
        s t → Frame [.ctrls, .mem, .cache, .search, .benches, .flash, .out] s (answered t) :=
      fun t h => Frame.via (Frame.search t _) (by decide) h
    clear_value answered
    split
    · exact Frame.via (refuse_frame _ _ _) (by decide) (ha s (Frame.refl s))
    · exact Frame.refl s
    · next t _ h =>
      obtain ⟨o, -, h2⟩ := Option.bind_eq_some_iff.mp h
      have ht : Frame [.ctrls, .mem, .cache, .search, .benches, .flash, .out] s t := Frame.via
          (journal_frame _ _ _ _ h2) (by decide) (Frame.refl s)
      refine Frame.ite (Frame.via (dirtyAll_frame _ _) (by decide) (Frame.refl s)) ?_
      refine Frame.via (success_frame _ _ _ _ _) (by decide) (Frame.via (recountUsed_frame _ _) (by decide) (Frame.via
        (modFlash_frame _ _ _) (by decide)
            (Frame.via (dirtyAll_frame _ _) (by decide) (Frame.via (tombstone_frame _ _ _)
        (by decide) (Frame.via (modObj_frame _ _ _) (by decide) ?_)))))
      exact Frame.ite (Frame.via (endReading_frame _ _ _ _) (by decide) (ha t ht)) (ha t ht)

theorem doObjPutDurable_frame :
    ∀ x0 x1 s, Frame [.ctrls, .sched, .mem, .cache, .ingots, .search, .benches, .flash, .errors, .out] s
        (doObjPutDurable x0 x1 s) := by
  intro x0 x1 s
  unfold doObjPutDurable
  repeat' first
    | with_reducible apply Frame.refl
    | (apply Frame.via; with_reducible (first | apply storeObject_frame | apply chargeWork_frame
                                              | apply dirtyThrough_frame | apply success_frame); decide)
    | with_reducible apply Frame.ite
    | split
    | fail_if_no_progress (apply Frame.via; with_reducible apply Frame.search; decide)

theorem finishObjects_frame :
    ∀ s x1, Frame [.ctrls, .sched, .mem, .cache, .ingots, .search, .benches, .flash, .errors, .out, .free] s
        (State.finishObjects s x1) := by
  intro s x1
  unfold State.finishObjects
  repeat' first
    | with_reducible apply Frame.refl
    | (apply Frame.via; with_reducible (first | apply doObjPutDurable_frame | apply doObjDeleteDurable_frame
                                              | apply fresh_frame); decide)
    | (with_reducible apply Frame.foldl; rotate_left; intro u x; (try dsimp -zeta -proj -eta only); rotate_right)

theorem flushPage_frame : ∀ s x1 x2 x3 u, State.flushPage s x1 x2 x3 = some u → Frame [.flash] s u := by
  intro s x1 x2 x3 u e
  obtain ⟨f, -, rfl⟩ := Option.map_eq_some_iff.mp e
  exact Frame.via (modFlash_frame _ _ _) (by decide) (Frame.refl s)

theorem logPages_frame : ∀ (s : State) x1 x2 x3 u, State.logPages s x1 x2 x3 = some u → Frame [.flash] s u := by
  intro s x1 x2 x3 u e
  induction x3 generalizing s with
  | nil => cases e; exact Frame.refl _
  | cons p ps ih =>
    unfold State.logPages at e
    split at e
    · cases e
    · split at e
      · cases e
      · next h => exact Frame.trans (ih _ e) (flushPage_frame _ _ _ _ _ h)

theorem logQuarter_frame : ∀ s x1 r, State.logQuarter s x1 = some r → Frame [.flash] s r.2 := by
  intro s x1 r e
  unfold State.logQuarter at e
  dsimp only at e
  split at e
  · next h _ =>
    obtain ⟨t, h2, rfl⟩ := Option.map_eq_some_iff.mp e
    exact Frame.trans (flushPage_frame _ _ _ _ _ h2) (logPages_frame _ _ _ _ _ h)
  · cases e

theorem logAll_frame : ∀ s r, State.logAll s = some r → Frame [.flash] s r.2 := by
  intro s r e
  unfold State.logAll at e
  revert e
  suffices h : ∀ (l : List QuarterId) (a : Option (List FlushSegment × State)),
      (∀ r, a = some r → Frame [.flash] s r.2) → ∀ r, l.foldl (fun acc q =>
        match acc with
        | none => none
        | some (l, t) => (t.logQuarter q).map fun r => (l ++ [r.1], r.2)) a = some r → Frame [.flash] s r.2 from
    h _ _ (by rintro r ⟨⟩; exact Frame.refl s) r
  intro l
  induction l with
  | nil => exact fun a h r e => h r e
  | cons q l ih =>
    intro a h r e
    refine ih _ ?_ r e
    intro x hx
    dsimp only at hx
    split at hx
    · cases hx
    · obtain ⟨y, hy, rfl⟩ := Option.map_eq_some_iff.mp hx
      exact Frame.trans (logQuarter_frame _ _ _ hy) (h _ rfl)

theorem logCommit_frame : ∀ s r, State.logCommit s = some r → Frame [.flash] s r.2 := by
  intro s r e
  unfold State.logCommit at e
  split at e
  · split at e
    · cases e
    · next h =>
      obtain ⟨t, h2, rfl⟩ := Option.map_eq_some_iff.mp e
      exact Frame.trans (flushPage_frame _ _ _ _ _ h2) (flushPage_frame _ _ _ _ _ h)
  · cases e

theorem flush_frame : ∀ s x1, Frame [.mem, .flash] s (State.flush s x1) := by
  intro s x1
  unfold State.flush
  refine Frame.ite (Frame.refl s) (Frame.via (Frame.mem _ _) (by decide) ?_)
  cases h1 : s.logAll with
  | none => exact Frame.refl s
  | some r =>
    obtain ⟨l, t⟩ := r
    have ht : Frame [.mem, .flash] s t := Frame.via (logAll_frame _ _ h1) (by decide) (Frame.refl s)
    cases h2 : (if x1 = true then t.logCommit else none) with
    | none => simp only [h2]; exact ht
    | some c =>
      simp only [h2]
      split at h2
      · exact Frame.via (logCommit_frame _ _ h2) (by decide) ht
      · cases h2

theorem forceRecast_frame :
    ∀ s x1 x2, Frame [.ctrls, .sched, .out] s (State.forceRecast s x1 x2) := by
  intro s x1 x2
  unfold State.forceRecast
  repeat' first
    | with_reducible apply Frame.refl
    | (apply Frame.via; with_reducible apply unbindQueues_frame; decide)
    | fail_if_no_progress (apply Frame.via; with_reducible apply Frame.sched; decide)

theorem freeIngot_frame :
    ∀ s x1, Frame [.flash] s (State.freeIngot s x1) := by
  intro s x1
  unfold State.freeIngot
  repeat' first
    | with_reducible apply Frame.refl
    | (apply Frame.via; with_reducible (first | apply recountUsed_frame | apply modFlash_frame); decide)
    | with_reducible apply Frame.ite
    | (with_reducible apply Frame.foldl; rotate_left; intro u x; (try dsimp -zeta -proj -eta only); rotate_right)

theorem freeList_frame :
    ∀ s x1, Frame [.search, .benches, .flash] s (State.freeList s x1) := by
  intro s x1
  unfold State.freeList
  repeat' first
    | with_reducible apply Frame.refl
    | with_reducible assumption
    | (apply Frame.via; with_reducible (first | apply freeTokens_frame | apply recountUsed_frame
                                              | apply modFlash_frame | apply modBench_frame); decide)
    | with_reducible apply Frame.ite
    | (extract_lets +onlyGivenNames x; clear_value (e : x = _); apply Frame.cut x; (subst e); rotate_left;
       (intro h); (clear e); rotate_right)
    | extract_lets +onlyGivenNames y
    | split
    | (with_reducible apply Frame.foldlPair; rotate_left; intro u x; (try dsimp -zeta -proj -eta only); rotate_right)
    | (with_reducible apply Frame.foldl; rotate_left; intro u x; (try dsimp -zeta -proj -eta only); rotate_right)
    | fail_if_no_progress (apply Frame.via; with_reducible apply Frame.search; decide)
    | fail_if_no_progress (dsimp +zetaDelta -zeta -proj -eta only)
    | fail_if_no_progress (dsimp -zeta -eta only)

theorem freshKeys_frame :
    ∀ s, Frame [.free] s (State.freshKeys s).2 := by
  intro s
  unfold State.freshKeys
  repeat' first
    | with_reducible apply Frame.refl
    | (apply Frame.via; with_reducible apply fresh256_frame; decide)

theorem named_frame {w : List Part} (s m e coll k) (hk : Frame w s k)
    (hw : ∀ p ∈ ([.ctrls, .out] : List Part), p ∈ w) : Frame w s (State.named s m e coll k) := by
  unfold State.named
  have h : ∀ n, Frame w s (s.refuse e.key n) := fun n => Frame.via (refuse_frame _ _ _) hw (Frame.refl s)
  exact Frame.ite (h _) (Frame.ite (h _) hk)

theorem getObject_frame :
    ∀ s x1 x2 x3 x4 x5 x6, Frame [.ctrls, .sched, .search, .benches, .out] s
        (State.getObject s x1 x2 x3 x4 x5 x6) := by
  intro s x1 x2 x3 x4 x5 x6
  unfold State.getObject
  repeat' first
    | with_reducible apply Frame.refl
    | (apply Frame.via; with_reducible (first | apply finishGet_frame | apply modObj_frame | apply refuse_frame
                                              | apply addJob_frame); decide)
    | (with_reducible apply named_frame; rotate_left; decide; (try dsimp -zeta -proj -eta only))
    | with_reducible apply Frame.ite
    | split

theorem gridStart_frame :
    ∀ s, Frame [.grid] s (State.gridStart s) := by
  intro s
  unfold State.gridStart
  repeat' first
    | with_reducible apply Frame.refl
    | with_reducible apply Frame.ite
    | fail_if_no_progress (apply Frame.via; with_reducible apply Frame.grid; decide)

theorem stopEmbedding_frame :
    ∀ s x1, Frame [.mem, .cache, .search, .benches, .flash] s (State.stopEmbedding s x1) := by
  intro s x1
  unfold State.stopEmbedding
  repeat' first
    | with_reducible apply Frame.refl
    | with_reducible assumption
    | (apply Frame.via; with_reducible apply deferColls_frame; decide)
    | with_reducible apply Frame.ite
    | (extract_lets +onlyGivenNames x; clear_value (e : x = _); apply Frame.cut x; (subst e); rotate_left;
       (intro h); (clear e); rotate_right)
    | extract_lets +onlyGivenNames y
    | split
    | (with_reducible apply Frame.foldlPair; rotate_left; intro u x; (try dsimp -zeta -proj -eta only); rotate_right)
    | (with_reducible apply Frame.foldl; rotate_left; intro u x; (try dsimp -zeta -proj -eta only); rotate_right)
    | fail_if_no_progress (apply Frame.via; with_reducible apply Frame.search; decide)
    | fail_if_no_progress (dsimp +zetaDelta -zeta -proj -eta only)
    | fail_if_no_progress (dsimp -zeta -eta only)

theorem poisonIngot_frame :
    ∀ s x1 x2, Frame [.ctrls, .sched, .engines, .mem, .cache, .ingots, .search, .benches, .flash, .errors, .out] s
        (State.poisonIngot s x1 x2) := by
  intro s x1 x2
  unfold State.poisonIngot
  repeat' first
    | with_reducible apply Frame.refl
    | with_reducible assumption
    | (apply Frame.via; with_reducible (first | apply stopEmbedding_frame | apply modIngot_frame
                                              | apply faultJob_frame | apply modCache_frame); decide)
    | with_reducible apply Frame.ite
    | (extract_lets +onlyGivenNames x; clear_value (e : x = _); apply Frame.cut x; (subst e); rotate_left;
       (intro h); (clear e); rotate_right)
    | extract_lets +onlyGivenNames y
    | split
    | (with_reducible apply Frame.foldlPair; rotate_left; intro u x; (try dsimp -zeta -proj -eta only); rotate_right)
    | (with_reducible apply Frame.foldl; rotate_left; intro u x; (try dsimp -zeta -proj -eta only); rotate_right)
    | fail_if_no_progress (dsimp +zetaDelta -zeta -proj -eta only)
    | fail_if_no_progress (dsimp -zeta -eta only)

theorem hashMismatch_frame :
    ∀ s x1 x2, Frame [.ctrls, .sched, .engines, .mem, .cache, .ingots, .search, .benches, .flash, .errors, .out] s
        (State.hashMismatch s x1 x2) := by
  intro s x1 x2
  unfold State.hashMismatch
  repeat' first
    | with_reducible apply Frame.refl
    | with_reducible assumption
    | (apply Frame.via; with_reducible (first | apply poisonIngot_frame | apply reportGeneral_frame); decide)
    | with_reducible apply Frame.ite
    | (extract_lets +onlyGivenNames x; clear_value (e : x = _); apply Frame.cut x; (subst e); rotate_left;
       (intro h); (clear e); rotate_right)
    | extract_lets +onlyGivenNames y
    | split
    | (with_reducible apply Frame.foldlPair; rotate_left; intro u x; (try dsimp -zeta -proj -eta only); rotate_right)
    | (with_reducible apply Frame.foldl; rotate_left; intro u x; (try dsimp -zeta -proj -eta only); rotate_right)
    | fail_if_no_progress (dsimp +zetaDelta -zeta -proj -eta only)
    | fail_if_no_progress (dsimp -zeta -eta only)

theorem healDrain_frame : ∀ t s x1 x2, Frame [.mem] t (State.healDrain t s x1 x2) := fun t _ _ _ => Frame.mem t _

theorem holdupUpdate_frame :
    ∀ s, Frame [.power, .ctrls, .out] s (State.holdupUpdate s) := by
  intro s
  unfold State.holdupUpdate
  repeat' first
    | with_reducible apply Frame.refl
    | (apply Frame.via; with_reducible (first | apply modPower_frame | apply signal_frame); decide)
    | with_reducible apply Frame.ite

theorem hostReadFailed_frame {w : List Part} (s k fin) (hk : ∀ t, Frame w t (fin t))
    (hw : ∀ p ∈ ([.ctrls, .mold, .search] : List Part), p ∈ w) : Frame w s (State.hostReadFailed s k fin) := by
  unfold State.hostReadFailed
  refine Frame.ite (Frame.via (hk _) (fun p hp => hp) ?_) (Frame.refl s)
  refine Frame.via (a := [.ctrls, .mold, .search]) ?_ hw (Frame.refl s)
  dsimp -proj -eta only
  repeat' first
    | with_reducible apply Frame.refl
    | (apply Frame.via; with_reducible apply modCtrl_frame; decide)
    | split
    | fail_if_no_progress (apply Frame.via; with_reducible (first | apply Frame.mold | apply Frame.search); decide)

theorem ideGo_frame :
    ∀ s x1 x2 x3, Frame [.ctrls, .out] s (State.ideGo s x1 x2 x3) := by
  intro s x1 x2 x3
  unfold State.ideGo
  repeat' first
    | with_reducible apply Frame.refl
    | (apply Frame.via; with_reducible (first | apply emit_frame | apply modCtrl_frame); decide)

theorem imageInvalid_frame :
    ∀ s x1, Frame [.ctrls, .out] s (State.imageInvalid s x1) := by
  intro s x1
  unfold State.imageInvalid
  repeat' first
    | with_reducible apply Frame.refl
    | (apply Frame.via; with_reducible apply nvme_frame; decide)

theorem takeInbox_frame :
    ∀ s x1, Frame [.sec] s (State.takeInbox s x1) := by
  intro s x1
  unfold State.takeInbox
  repeat' first
    | with_reducible apply Frame.refl
    | split
    | fail_if_no_progress (apply Frame.via; with_reducible apply Frame.sec; decide)

theorem inner_frame {w : List Part} (s type k) (hk : ∀ t, Frame w t (k t))
    (hw : ∀ p ∈ ([.sec] : List Part), p ∈ w) : Frame w s (State.inner s type k) := by
  unfold State.inner
  have h : Frame w s (s.takeInbox type) :=
    Frame.via (takeInbox_frame _ _) (fun p hp => hw p (by revert p; decide)) (Frame.refl s)
  exact Frame.ite h (Frame.via (hk _) (fun p hp => hp) (Frame.via (Frame.sec _ _)
    (fun p hp => hw p (by revert p; decide)) h))

theorem invalidOpcode_frame :
    ∀ s x1, Frame [.ctrls, .out] s (State.invalidOpcode s x1) := by
  intro s x1
  unfold State.invalidOpcode
  repeat' first
    | with_reducible apply Frame.refl
    | (apply Frame.via; with_reducible apply nvme_frame; decide)

theorem leaveEngine_frame :
    ∀ s x1 x2, Frame [.sched, .engines, .mem, .cache, .free] s (State.leaveEngine s x1 x2) := by
  intro s x1 x2
  unfold State.leaveEngine
  repeat' first
    | with_reducible apply Frame.refl
    | (apply Frame.via; with_reducible (first | apply startNext_frame | apply modEngine_frame); decide)

theorem joinParts_frame :
    ∀ s x1 x2 x3 x4 x5 x6, Frame [.ctrls, .sched, .engines, .mem, .cache, .search, .benches, .errors, .out, .free] s
        (State.joinParts s x1 x2 x3 x4 x5 x6) := by
  intro s x1 x2 x3 x4 x5 x6
  unfold State.joinParts
  repeat' first
    | with_reducible apply Frame.refl
    | with_reducible assumption
    | (apply Frame.via; with_reducible (first | apply leaveEngine_frame | apply scratchUe_frame
                                              | apply combineParts_frame | apply chargeParts_frame
                                                  | apply modJob_frame); decide)
    | with_reducible apply Frame.ite
    | (extract_lets +onlyGivenNames x; clear_value (e : x = _); apply Frame.cut x; (subst e); rotate_left;
       (intro h); (clear e); rotate_right)
    | extract_lets +onlyGivenNames y
    | split
    | (with_reducible apply Frame.foldlPair; rotate_left; intro u x; (try dsimp -zeta -proj -eta only); rotate_right)
    | (with_reducible apply Frame.foldl; rotate_left; intro u x; (try dsimp -zeta -proj -eta only); rotate_right)
    | fail_if_no_progress (dsimp +zetaDelta -zeta -proj -eta only)
    | fail_if_no_progress (dsimp -zeta -eta only)

theorem joinRefetch_frame :
    ∀ s x1 x2 x3 x4, Frame [.sched, .cache] s (State.joinRefetch s x1 x2 x3 x4) := by
  intro s x1 x2 x3 x4
  unfold State.joinRefetch
  repeat' first
    | with_reducible apply Frame.refl
    | with_reducible assumption
    | (apply Frame.via; with_reducible (first | apply modCache_frame | apply markUnbound_frame); decide)
    | with_reducible apply Frame.ite
    | (extract_lets +onlyGivenNames x; clear_value (e : x = _); apply Frame.cut x; (subst e); rotate_left;
       (intro h); (clear e); rotate_right)
    | extract_lets +onlyGivenNames y
    | split
    | (with_reducible apply Frame.foldlPair; rotate_left; intro u x; (try dsimp -zeta -proj -eta only); rotate_right)
    | (with_reducible apply Frame.foldl; rotate_left; intro u x; (try dsimp -zeta -proj -eta only); rotate_right)
    | fail_if_no_progress (dsimp +zetaDelta -zeta -proj -eta only)
    | fail_if_no_progress (dsimp -zeta -eta only)

theorem keyEvent_frame :
    ∀ s x1, Frame [.ctrls, .sched, .mem, .cache, .search, .benches, .flash, .sec, .out] s (State.keyEvent s x1) := by
  intro s x1
  unfold State.keyEvent
  repeat' first
    | with_reducible apply Frame.refl
    | with_reducible assumption
    | (apply Frame.via; with_reducible apply applyKeys_frame; decide)
    | with_reducible apply Frame.ite
    | (extract_lets +onlyGivenNames x; clear_value (e : x = _); apply Frame.cut x; (subst e); rotate_left;
       (intro h); (clear e); rotate_right)
    | extract_lets +onlyGivenNames y
    | split
    | (with_reducible apply Frame.foldlPair; rotate_left; intro u x; (try dsimp -zeta -proj -eta only); rotate_right)
    | (with_reducible apply Frame.foldl; rotate_left; intro u x; (try dsimp -zeta -proj -eta only); rotate_right)
    | fail_if_no_progress (apply Frame.via; with_reducible apply Frame.sec; decide)
    | fail_if_no_progress (dsimp +zetaDelta -zeta -proj -eta only)
    | fail_if_no_progress (dsimp -zeta -eta only)

theorem kvFill_frame :
    ∀ s x1 x2 x3, Frame [.engines, .mem] s (State.kvFill s x1 x2 x3) := by
  intro s x1 x2 x3
  unfold State.kvFill
  repeat' first
    | with_reducible apply Frame.refl
    | (apply Frame.via; with_reducible apply writeAt_frame; decide)
    | (with_reducible apply Frame.foldl; rotate_left; intro u x; (try dsimp -zeta -proj -eta only); rotate_right)

theorem kvExtend_frame :
    ∀ s x1, Frame [.sched, .engines, .mem] s (State.kvExtend s x1) := by
  intro s x1
  unfold State.kvExtend
  repeat' first
    | with_reducible apply Frame.refl
    | (apply Frame.via; with_reducible (first | apply kvFill_frame | apply modJob_frame); decide)
    | split
    | (with_reducible apply Frame.foldl; rotate_left; intro u x; (try dsimp -zeta -proj -eta only); rotate_right)

theorem latchWrite_frame :
    ∀ s x1 x2, Frame [.sched, .cache, .flash, .burnish, .dev] s (State.latchWrite s x1 x2) := by
  intro s x1 x2
  unfold State.latchWrite
  repeat' first
    | with_reducible apply Frame.refl
    | (apply Frame.via; with_reducible apply latchApply_frame; decide)
    | with_reducible apply Frame.ite
    | fail_if_no_progress (apply Frame.via; with_reducible apply Frame.dev; decide)

theorem leaveLocked_frame :
    ∀ s, Frame [.ctrls, .grid, .sched, .out] s (State.leaveLocked s) := by
  intro s
  unfold State.leaveLocked
  repeat' first
    | with_reducible apply Frame.refl
    | (apply Frame.via; with_reducible (first | apply enterFreeRun_frame | apply modGrid_frame | apply evalC0_frame
                                              | apply signal_frame); decide)
    | with_reducible apply Frame.ite

theorem leaveParts_frame :
    ∀ s x1 x2 x3, Frame [.sched, .engines, .mem, .cache, .benches, .free] s (State.leaveParts s x1 x2 x3) := by
  intro s x1 x2 x3
  unfold State.leaveParts
  dsimp -proj -eta only
  repeat' first
    | with_reducible apply Frame.refl
    | (apply Frame.via; with_reducible (first | apply leaveEngine_frame | apply startNextBench_frame
                                              | apply unpin_frame | apply returnCredits_frame | apply modBench_frame
                                                  | apply modJob_frame); decide)
    | split
    | (with_reducible apply Frame.foldl; rotate_left; intro u x; (try dsimp -zeta -proj -eta only); rotate_right)

theorem lineFailed_frame :
    ∀ x0 s x2, Frame [.ctrls, .mem, .cache, .search, .flash, .errors, .out] s (State.lineFailed x0 s x2) := by
  intro x0 s x2
  unfold State.lineFailed
  repeat' first
    | with_reducible apply Frame.refl
    | with_reducible assumption
    | (apply Frame.via; with_reducible (first | apply retireBlock_frame | apply losePage_frame
                                              | apply mediaRecord_frame | apply modFlash_frame); decide)
    | with_reducible apply Frame.ite
    | (extract_lets +onlyGivenNames x; clear_value (e : x = _); apply Frame.cut x; (subst e); rotate_left;
       (intro h); (clear e); rotate_right)
    | extract_lets +onlyGivenNames y
    | split
    | (with_reducible apply Frame.foldlPair; rotate_left; intro u x; (try dsimp -zeta -proj -eta only); rotate_right)
    | (with_reducible apply Frame.foldl; rotate_left; intro u x; (try dsimp -zeta -proj -eta only); rotate_right)
    | fail_if_no_progress (dsimp +zetaDelta -zeta -proj -eta only)
    | fail_if_no_progress (dsimp -zeta -eta only)

theorem linkClear_frame :
    ∀ s x1 x2, Frame [.links] s (State.linkClear s x1 x2) := by
  intro s x1 x2
  unfold State.linkClear
  repeat' first
    | with_reducible apply Frame.refl
    | (apply Frame.via; with_reducible apply modLink_frame; decide)
    | with_reducible apply Frame.ite

theorem loadRefused_frame :
    ∀ s x1 x2, Frame [.ctrls, .mold, .out] s (State.loadRefused s x1 x2) := by
  intro s x1 x2
  unfold State.loadRefused
  repeat' first
    | with_reducible apply Frame.refl
    | (apply Frame.via; with_reducible (first | apply modMold_frame | apply refuse_frame); decide)

theorem quotaSign_frame :
    ∀ s x1, Frame [.ctrls, .pewter, .errors, .sec, .out] s (State.quotaSign s x1).2 := by
  intro s x1
  unfold State.quotaSign
  repeat' first
    | with_reducible apply Frame.refl
    | split
    | (refine Frame.via ((sign_frame _ _).of_eq (congrArg Prod.snd (by assumption))) (by decide) ?_)
    | fail_if_no_progress (apply Frame.via; with_reducible apply Frame.sec; decide)

theorem makeAttest_frame :
    ∀ s x1, Frame [.ctrls, .pewter, .errors, .sec, .out] s (State.makeAttest s x1) := by
  intro s x1
  unfold State.makeAttest
  repeat' first
    | with_reducible apply Frame.refl
    | (apply Frame.via; with_reducible (first | apply quotaSign_frame | apply success_frame | apply refuse_frame);
       decide)
    | extract_lets +onlyGivenNames y
    | split
    | (refine Frame.via ((quotaSign_frame _ _).of_eq (congrArg Prod.snd (by assumption))) (by decide) ?_)

theorem mayLose_frame :
    ∀ s, Frame [.free] s (State.mayLose s).2 := by
  intro s
  unfold State.mayLose
  repeat' first
    | with_reducible apply Frame.refl
    | (apply Frame.via; with_reducible apply fresh_frame; decide)
    | split

theorem mayPresent_frame :
    ∀ s, Frame [.free] s (State.mayPresent s).2 := by
  intro s
  unfold State.mayPresent
  repeat' first
    | with_reducible apply Frame.refl
    | (apply Frame.via; with_reducible apply fresh_frame; decide)
    | split

theorem measurePhase_frame :
    ∀ s x1 x2 x3 x4, Frame [.ctrls, .grid, .sched, .out] s (State.measurePhase s x1 x2 x3 x4) := by
  intro s x1 x2 x3 x4
  unfold State.measurePhase
  repeat' first
    | with_reducible apply Frame.refl
    | with_reducible assumption
    | (apply Frame.via; with_reducible (first | apply leaveLocked_frame | apply modGrid_frame); decide)
    | with_reducible apply Frame.ite
    | (extract_lets +onlyGivenNames x; clear_value (e : x = _); apply Frame.cut x; (subst e); rotate_left;
       (intro h); (clear e); rotate_right)
    | extract_lets +onlyGivenNames y
    | split
    | (with_reducible apply Frame.foldlPair; rotate_left; intro u x; (try dsimp -zeta -proj -eta only); rotate_right)
    | (with_reducible apply Frame.foldl; rotate_left; intro u x; (try dsimp -zeta -proj -eta only); rotate_right)
    | fail_if_no_progress (dsimp +zetaDelta -zeta -proj -eta only)
    | fail_if_no_progress (dsimp -zeta -eta only)

theorem miBad_frame :
    ∀ s, Frame [.out] s (State.miBad s) := by
  intro s
  unfold State.miBad
  repeat' first
    | with_reducible apply Frame.refl
    | (apply Frame.via; with_reducible apply emit_frame; decide)

theorem miCompletion_frame :
    ∀ s x1 x2 x3 x4 x5, Frame [.out] s (State.miCompletion s x1 x2 x3 x4 x5) := by
  intro s x1 x2 x3 x4 x5
  unfold State.miCompletion
  repeat' first
    | with_reducible apply Frame.refl
    | (apply Frame.via; with_reducible apply emit_frame; decide)

theorem miLogPage_frame :
    ∀ s x1, Frame [.out] s (State.miLogPage s x1) := by
  intro s x1
  unfold State.miLogPage
  repeat' first
    | with_reducible apply Frame.refl
    | (apply Frame.via; with_reducible apply miCompletion_frame; decide)
    | with_reducible apply Frame.ite
    | split

theorem miOk_frame :
    ∀ s x1, Frame [.out] s (State.miOk s x1) := by
  intro s x1
  unfold State.miOk
  repeat' first
    | with_reducible apply Frame.refl
    | (apply Frame.via; with_reducible apply emit_frame; decide)

theorem modBmc_frame :
    ∀ s x1, Frame [.bmc] s (State.modBmc s x1) := by
  intro s x1
  unfold State.modBmc
  repeat' first
    | with_reducible apply Frame.refl
    | fail_if_no_progress (apply Frame.via; with_reducible apply Frame.bmc; decide)

theorem noteMoldError_frame :
    ∀ s x1 x2, Frame [.mold] s (State.noteMoldError s x1 x2) := by
  intro s x1 x2
  unfold State.noteMoldError
  repeat' first
    | with_reducible apply Frame.refl
    | (apply Frame.via; with_reducible apply modMold_frame; decide)

theorem moldInvalid_frame :
    ∀ s x1 x2 x3, Frame [.ctrls, .mold, .out] s (State.moldInvalid s x1 x2 x3) := by
  intro s x1 x2 x3
  unfold State.moldInvalid
  repeat' first
    | with_reducible apply Frame.refl
    | (apply Frame.via; with_reducible (first | apply noteMoldError_frame | apply status_frame); decide)

theorem mountMarks_frame :
    ∀ s, Frame [.search] s (State.mountMarks s) := by
  intro s
  unfold State.mountMarks
  repeat' first
    | with_reducible apply Frame.refl
    | fail_if_no_progress (apply Frame.via; with_reducible apply Frame.search; decide)

theorem mountMetadata_frame :
    ∀ s x1, Frame [.search] s (State.mountMetadata s x1) := by
  intro s x1
  unfold State.mountMetadata
  repeat' first
    | with_reducible apply Frame.refl
    | fail_if_no_progress (apply Frame.via; with_reducible apply Frame.search; decide)

theorem msixFlush_frame :
    ∀ s x1, Frame [.ctrls, .out] s (State.msixFlush s x1) := by
  intro s x1
  unfold State.msixFlush
  repeat' first
    | with_reducible apply Frame.refl
    | (apply Frame.via; with_reducible (first | apply emit_frame | apply modCtrl_frame); decide)
    | with_reducible apply Frame.ite
    | (with_reducible apply Frame.foldl; rotate_left; intro u x; (try dsimp -zeta -proj -eta only); rotate_right)

theorem nandFalls_frame :
    ∀ s x1 x2, Frame [.power, .ctrls, .flash, .errors, .out] s (State.nandFalls s x1 x2) := by
  intro s x1 x2
  unfold State.nandFalls
  repeat' first
    | with_reducible apply Frame.refl
    | (apply Frame.via; with_reducible (first | apply mediaRecord_frame | apply modFlash_frame
                                              | apply modPower_frame); decide)
    | (with_reducible apply Frame.foldl; rotate_left; intro u x; (try dsimp -zeta -proj -eta only); rotate_right)

theorem nextWord_frame :
    ∀ s x1, Frame [.engines] s (State.nextWord s x1) := by
  intro s x1
  unfold State.nextWord
  repeat' first
    | with_reducible apply Frame.refl
    | (apply Frame.via; with_reducible apply modEngine_frame; decide)

theorem nvmeInvalidField_frame :
    ∀ s x1, Frame [.ctrls, .out] s (State.nvmeInvalidField s x1) := by
  intro s x1
  unfold State.nvmeInvalidField
  repeat' first
    | with_reducible apply Frame.refl
    | (apply Frame.via; with_reducible apply nvme_frame; decide)

theorem onant_frame {w : List Part} (s e masks inp out fields k) (hk : ∀ m h, Frame w s (k m h))
    (hw : ∀ p ∈ ([.ctrls, .out] : List Part), p ∈ w) : Frame w s (State.onant s e masks inp out fields k) := by
  unfold State.onant
  split
  · exact Frame.via (refuse_frame _ _ _) hw (Frame.refl s)
  · refine Frame.ite (Frame.refl s) ?_
    split
    · exact Frame.via (refuse_frame _ _ _) hw (Frame.refl s)
    · exact Frame.ite (hk _ _) (Frame.via (refuse_frame _ _ _) hw (Frame.refl s))

theorem overrun_frame :
    ∀ s, Frame [.sched] s (State.overrun s) := by
  intro s
  unfold State.overrun
  repeat' first
    | with_reducible apply Frame.refl
    | fail_if_no_progress (apply Frame.via; with_reducible apply Frame.sched; decide)

theorem parts_frame :
    ∀ s x1 x2 x3 x4 x5, Frame [.free] s (State.parts s x1 x2 x3 x4 x5).2 := by
  intro s x1 x2 x3 x4 x5
  unfold State.parts
  repeat' first
    | with_reducible apply Frame.refl
    | (apply Frame.via; with_reducible apply fresh_frame; decide)
    | split

theorem passBurn_frame :
    ∀ s x1, Frame [.burnish, .free] s (State.passBurn s x1) := by
  intro s x1
  unfold State.passBurn
  repeat' first
    | with_reducible apply Frame.refl
    | with_reducible assumption
    | (apply Frame.via; with_reducible apply fresh_frame; decide)
    | with_reducible apply Frame.ite
    | (extract_lets +onlyGivenNames x; clear_value (e : x = _); apply Frame.cut x; (subst e); rotate_left;
       (intro h); (clear e); rotate_right)
    | extract_lets +onlyGivenNames y
    | split
    | (with_reducible apply Frame.foldlPair; rotate_left; intro u x; (try dsimp -zeta -proj -eta only); rotate_right)
    | (with_reducible apply Frame.foldl; rotate_left; intro u x; (try dsimp -zeta -proj -eta only); rotate_right)
    | (refine Frame.via ((fresh_frame _).of_eq (congrArg Prod.snd (by assumption))) (by decide) ?_)
    | fail_if_no_progress (apply Frame.via; with_reducible apply Frame.burnish; decide)
    | fail_if_no_progress (dsimp +zetaDelta -zeta -proj -eta only)
    | fail_if_no_progress (dsimp -zeta -eta only)

theorem passWindow_frame :
    ∀ s x1, Frame [.free] s (State.passWindow s x1) := by
  intro s x1
  unfold State.passWindow
  repeat' first
    | with_reducible apply Frame.refl
    | split
    | fail_if_no_progress (apply Frame.via; with_reducible apply Frame.free; decide)

theorem placeObject_frame :
    ∀ s x1 x2 x3 x4, Frame [.ctrls, .search, .out] s (State.placeObject s x1 x2 x3 x4) := by
  intro s x1 x2 x3 x4
  unfold State.placeObject
  repeat' first
    | with_reducible apply Frame.refl
    | (apply Frame.via; with_reducible (first | apply refuse_frame | apply status_frame); decide)
    | with_reducible apply Frame.ite
    | split
    | fail_if_no_progress (apply Frame.via; with_reducible apply Frame.search; decide)

theorem placeOnBench_frame :
    ∀ s x1 x2 x3, Frame [.sched, .benches, .free] s (State.placeOnBench s x1 x2 x3) := by
  intro s x1 x2 x3
  unfold State.placeOnBench
  repeat' first
    | with_reducible apply Frame.refl
    | with_reducible assumption
    | (apply Frame.via; with_reducible (first | apply startNextBench_frame | apply modJob_frame); decide)
    | with_reducible apply Frame.ite
    | (extract_lets +onlyGivenNames x; clear_value (e : x = _); apply Frame.cut x; (subst e); rotate_left;
       (intro h); (clear e); rotate_right)
    | extract_lets +onlyGivenNames y
    | split
    | (with_reducible apply Frame.foldlPair; rotate_left; intro u x; (try dsimp -zeta -proj -eta only); rotate_right)
    | (with_reducible apply Frame.foldl; rotate_left; intro u x; (try dsimp -zeta -proj -eta only); rotate_right)
    | fail_if_no_progress (dsimp +zetaDelta -zeta -proj -eta only)
    | fail_if_no_progress (dsimp -zeta -eta only)

theorem poisonedRead_frame :
    ∀ s x1, Frame [.out] s (State.poisonedRead s x1) := by
  intro s x1
  unfold State.poisonedRead
  repeat' first
    | with_reducible apply Frame.refl
    | with_reducible assumption
    | (apply Frame.via; with_reducible apply emit_frame; decide)
    | with_reducible apply Frame.ite
    | (extract_lets +onlyGivenNames x; clear_value (e : x = _); apply Frame.cut x; (subst e); rotate_left;
       (intro h); (clear e); rotate_right)
    | extract_lets +onlyGivenNames y
    | split
    | (with_reducible apply Frame.foldlPair; rotate_left; intro u x; (try dsimp -zeta -proj -eta only); rotate_right)
    | (with_reducible apply Frame.foldl; rotate_left; intro u x; (try dsimp -zeta -proj -eta only); rotate_right)
    | fail_if_no_progress (dsimp +zetaDelta -zeta -proj -eta only)
    | fail_if_no_progress (dsimp -zeta -eta only)

theorem Frame.rails (t r : State) x0 x1 x2 x3 x4 x5 x6 : Frame [.ctrls, .mold, .grid, .sched, .engines, .mem,
                                                                .cache, .ingots, .search, .benches, .flash, .links,
                                                                    .pewter, .errors, .burnish, .sec, .fw, .bmc,
                                                                        .dev] t { r with
    power := t.power, bmc := x0, pewter := x1, flash := x2, search := x3, ingots := x4, mem := x5, sec := x6
    out := t.out, clockUs := t.clockUs, free := t.free, pending := t.pending } :=
  fun p hp => by cases p <;> first | rfl | exact absurd (by decide) hp

theorem railsOff_frame : ∀ s x1, Frame [.ctrls, .mold, .grid, .sched, .engines, .mem, .cache, .ingots, .search,
                                        .benches, .flash, .links, .pewter, .errors, .burnish, .sec, .fw, .bmc, .dev]
                                            s (State.railsOff s x1) := by
  intro s x1
  have h : Frame [.mem, .cache, .search, .flash] s (s.endPrograms.flush x1) :=
    Frame.via (flush_frame _ _) (by decide) (endPrograms_frame s)
  unfold State.railsOff
  generalize s.endPrograms.flush x1 = t at h
  exact Frame.trans (Frame.rails t State.reset _ _ _ _ _ _ _) (Frame.via h (by decide) (Frame.refl s))

theorem powerOff_frame :
    ∀ s x1 x2, Frame [.power, .ctrls, .mold, .grid, .sched, .engines, .mem, .cache, .ingots, .search, .benches,
                      .flash, .links, .pewter, .errors, .burnish, .sec, .fw, .bmc, .dev] s
                          (State.powerOff s x1 x2) := by
  intro s x1 x2
  unfold State.powerOff
  repeat' first
    | with_reducible apply Frame.refl
    | (apply Frame.via; with_reducible apply railsOff_frame; decide)
    | fail_if_no_progress (apply Frame.via; with_reducible (first | apply Frame.power | apply Frame.ctrls
                                                                  | apply Frame.mold | apply Frame.grid
                                                                      | apply Frame.sched | apply Frame.engines
                                                                          | apply Frame.mem | apply Frame.cache
                                                                              | apply Frame.ingots
                                                                                  | apply Frame.search
                                                                                      | apply Frame.benches
                                                                                          | apply Frame.flash
                                                                                              | apply Frame.links
                                                                                                  | apply Frame.pewter | apply Frame.errors | apply Frame.burnish | apply Frame.sec | apply Frame.fw | apply Frame.bmc | apply Frame.dev | apply Frame.benches_flash | apply Frame.bmc_dev | apply Frame.engines_benches | apply Frame.engines_mem_cache | apply Frame.fw_bmc | apply Frame.mem_benches_flash_pewter_sec | apply Frame.mem_burnish | apply Frame.mem_search_flash | apply Frame.mold_grid_sched_engines_mem_cache_ingots_search_errors_burnish_sec_fw_dev | apply Frame.pewter_fw | apply Frame.power_bmc | apply Frame.power_ctrls_mem_benches_flash_links_pewter_sec | apply Frame.sched_engines | apply Frame.sched_search | apply Frame.search_benches); decide)

theorem programLc_frame :
    ∀ s x1, Frame [.pewter] s (State.programLc s x1) := by
  intro s x1
  unfold State.programLc
  repeat' first
    | with_reducible apply Frame.refl
    | fail_if_no_progress (apply Frame.via; with_reducible apply Frame.pewter; decide)

theorem pwtEnd_frame :
    ∀ s x1, Frame [.pewter] s (State.pwtEnd s x1) := by
  intro s x1
  unfold State.pwtEnd
  repeat' first
    | with_reducible apply Frame.refl
    | fail_if_no_progress (apply Frame.via; with_reducible apply Frame.pewter; decide)

theorem pwtAgain_frame :
    ∀ s, Frame [.pewter] s (State.pwtAgain s) := by
  intro s
  unfold State.pwtAgain
  repeat' first
    | with_reducible apply Frame.refl
    | (apply Frame.via; with_reducible apply pwtEnd_frame; decide)
    | fail_if_no_progress (apply Frame.via; with_reducible apply Frame.pewter; decide)

theorem pwtArm_frame :
    ∀ s x1, Frame [.pewter] s (State.pwtArm s x1) := by
  intro s x1
  unfold State.pwtArm
  repeat' first
    | with_reducible apply Frame.refl
    | fail_if_no_progress (apply Frame.via; with_reducible apply Frame.pewter; decide)

theorem secLatch_frame :
    ∀ s x1 x2, Frame [.ctrls, .pewter, .errors, .out] s (State.secLatch s x1 x2) := by
  intro s x1 x2
  unfold State.secLatch
  repeat' first
    | with_reducible apply Frame.refl
    | (apply Frame.via; with_reducible apply reportGeneral_frame; decide)
    | fail_if_no_progress (apply Frame.via; with_reducible apply Frame.pewter; decide)

theorem pwtLockout_frame :
    ∀ s x1, Frame [.ctrls, .pewter, .errors, .out] s (State.pwtLockout s x1) := by
  intro s x1
  unfold State.pwtLockout
  repeat' first
    | with_reducible apply Frame.refl
    | (apply Frame.via; with_reducible apply secLatch_frame; decide)
    | with_reducible apply Frame.ite
    | fail_if_no_progress (apply Frame.via; with_reducible apply Frame.pewter; decide)

theorem pwtPulse_frame :
    ∀ s x1, Frame [.pewter] s (State.pwtPulse s x1) := by
  intro s x1
  unfold State.pwtPulse
  repeat' first
    | with_reducible apply Frame.refl
    | fail_if_no_progress (apply Frame.via; with_reducible apply Frame.pewter; decide)

theorem pwtRefuse_frame :
    ∀ s x1, Frame [.pewter] s (State.pwtRefuse s x1) := by
  intro s x1
  unfold State.pwtRefuse
  repeat' first
    | with_reducible apply Frame.refl
    | fail_if_no_progress (apply Frame.via; with_reducible apply Frame.pewter; decide)

theorem pwtSelfBank_frame :
    ∀ s, Frame [.pewter] s (State.pwtSelfBank s) := by
  intro s
  unfold State.pwtSelfBank
  repeat' first
    | with_reducible apply Frame.refl
    | (apply Frame.via; with_reducible apply pwtEnd_frame; decide)
    | fail_if_no_progress (apply Frame.via; with_reducible apply Frame.pewter; decide)

theorem pwtSeq_frame :
    ∀ s x1, Frame [.pewter] s (State.pwtSeq s x1) := by
  intro s x1
  unfold State.pwtSeq
  repeat' first
    | with_reducible apply Frame.refl
    | fail_if_no_progress (apply Frame.via; with_reducible apply Frame.pewter; decide)

theorem pwtStart_frame {w : List Part} (s opcode k) (hk : ∀ o, Frame w s (k o))
    (hw : ∀ p ∈ ([.pewter] : List Part), p ∈ w) : Frame w s (State.pwtStart s opcode k) := by
  unfold State.pwtStart
  split
  · exact Frame.ite (Frame.ite (Frame.via (pwtEnd_frame _ _) hw (Frame.refl s)) (hk _)) (Frame.refl s)
  · exact Frame.refl s

theorem pwtWrite_frame {w : List Part} (s k) (hk : ∀ t, Frame w t (k t))
    (hw : ∀ p ∈ ([.ctrls, .pewter, .errors, .out] : List Part), p ∈ w) : Frame w s (State.pwtWrite s k) := by
  unfold State.pwtWrite
  refine Frame.ite (Frame.refl s) (Frame.ite (Frame.via (pwtLockout_frame _ _) hw (Frame.refl s)) (Frame.ite
    (Frame.via (pwtRefuse_frame _ _) (fun p hp => hw p (by revert p; decide)) (Frame.refl s))
    (Frame.via (hk _) (fun p hp => hp) (Frame.via (Frame.pewter s _) (fun p hp => hw p (by revert p; decide))
      (Frame.refl s)))))

theorem queueDeletionInvalid_frame :
    ∀ s x1, Frame [.ctrls, .out] s (State.queueDeletionInvalid s x1) := by
  intro s x1
  unfold State.queueDeletionInvalid
  repeat' first
    | with_reducible apply Frame.refl
    | (apply Frame.via; with_reducible apply nvme_frame; decide)

theorem queueIdInvalid_frame :
    ∀ s x1, Frame [.ctrls, .out] s (State.queueIdInvalid s x1) := by
  intro s x1
  unfold State.queueIdInvalid
  repeat' first
    | with_reducible apply Frame.refl
    | (apply Frame.via; with_reducible apply nvme_frame; decide)

theorem queueSizeInvalid_frame :
    ∀ s x1, Frame [.ctrls, .out] s (State.queueSizeInvalid s x1) := by
  intro s x1
  unfold State.queueSizeInvalid
  repeat' first
    | with_reducible apply Frame.refl
    | (apply Frame.via; with_reducible apply nvme_frame; decide)

theorem raiseRollback_frame :
    ∀ s, Frame [.ctrls, .pewter, .errors, .out] s (State.raiseRollback s) := by
  intro s
  unfold State.raiseRollback
  repeat' first
    | with_reducible apply Frame.refl
    | (apply Frame.via; with_reducible (first | apply programVault_frame | apply reportSecurity_frame); decide)
    | with_reducible apply Frame.ite
    | (with_reducible apply Frame.foldl; rotate_left; intro u x; (try dsimp -zeta -proj -eta only); rotate_right)

theorem schClear_frame :
    ∀ s x1, Frame [.sched] s (State.schClear s x1) := by
  intro s x1
  unfold State.schClear
  repeat' first
    | with_reducible apply Frame.refl
    | fail_if_no_progress (apply Frame.via; with_reducible apply Frame.sched; decide)

theorem readClears_frame :
    ∀ s x1, Frame [.power, .mold, .grid, .sched, .engines, .cache, .benches, .flash, .links, .pewter, .errors,
                   .burnish, .dev] s (State.readClears s x1) := by
  intro s x1
  unfold State.readClears
  repeat' first
    | with_reducible apply Frame.refl
    | (apply Frame.via; with_reducible (first | apply schClear_frame | apply linkClear_frame | apply errClear_frame
                                              | apply modMold_frame | apply modFlash_frame | apply modBench_frame
                                                  | apply modPower_frame | apply modCache_frame
                                                      | apply modEngine_frame); decide)
    | split
    | fail_if_no_progress (apply Frame.via; with_reducible (first | apply Frame.grid | apply Frame.pewter
                                                                  | apply Frame.burnish | apply Frame.dev); decide)

theorem sendWord_frame :
    ∀ s x1, Frame [.out] s (State.sendWord s x1) := by
  intro s x1
  unfold State.sendWord
  repeat' first
    | with_reducible apply Frame.refl
    | (apply Frame.via; with_reducible apply emit_frame; decide)

theorem read4_frame :
    ∀ s x1, Frame [.power, .mold, .grid, .sched, .engines, .cache, .benches, .flash, .links, .pewter, .errors,
                   .burnish, .dev, .out, .free] s (State.read4 s x1) := by
  intro s x1
  unfold State.read4
  repeat' first
    | with_reducible apply Frame.refl
    | with_reducible assumption
    | (apply Frame.via; with_reducible (first | apply sendWord_frame | apply readClears_frame
                                              | apply passWindow_frame | apply passBurn_frame); decide)
    | with_reducible apply Frame.ite
    | (extract_lets +onlyGivenNames x; clear_value (e : x = _); apply Frame.cut x; (subst e); rotate_left;
       (intro h); (clear e); rotate_right)
    | extract_lets +onlyGivenNames y
    | split
    | (with_reducible apply Frame.foldlPair; rotate_left; intro u x; (try dsimp -zeta -proj -eta only); rotate_right)
    | (with_reducible apply Frame.foldl; rotate_left; intro u x; (try dsimp -zeta -proj -eta only); rotate_right)
    | fail_if_no_progress (apply Frame.via; with_reducible apply Frame.dev; decide)
    | fail_if_no_progress (dsimp +zetaDelta -zeta -proj -eta only)
    | fail_if_no_progress (dsimp -zeta -eta only)

theorem read8_frame :
    ∀ s x1, Frame [.power, .mold, .grid, .sched, .engines, .cache, .benches, .flash, .links, .pewter, .errors,
                   .burnish, .dev, .out, .free] s (State.read8 s x1) := by
  intro s x1
  unfold State.read8
  repeat' first
    | with_reducible apply Frame.refl
    | with_reducible assumption
    | (apply Frame.via; with_reducible (first | apply sendWord_frame | apply readClears_frame
                                              | apply passWindow_frame | apply passBurn_frame); decide)
    | with_reducible apply Frame.ite
    | (extract_lets +onlyGivenNames x; clear_value (e : x = _); apply Frame.cut x; (subst e); rotate_left;
       (intro h); (clear e); rotate_right)
    | extract_lets +onlyGivenNames y
    | split
    | (with_reducible apply Frame.foldlPair; rotate_left; intro u x; (try dsimp -zeta -proj -eta only); rotate_right)
    | (with_reducible apply Frame.foldl; rotate_left; intro u x; (try dsimp -zeta -proj -eta only); rotate_right)
    | fail_if_no_progress (dsimp +zetaDelta -zeta -proj -eta only)
    | fail_if_no_progress (dsimp -zeta -eta only)

theorem readLost_frame :
    ∀ s x1 x2 x3, Frame [.search] s (State.readLost s x1 x2 x3) := by
  intro s x1 x2 x3
  unfold State.readLost
  repeat' first
    | with_reducible apply Frame.refl
    | with_reducible assumption
    | (apply Frame.via; with_reducible (first | apply markLost_frame | apply modColl_frame); decide)
    | with_reducible apply Frame.ite
    | (extract_lets +onlyGivenNames x; clear_value (e : x = _); apply Frame.cut x; (subst e); rotate_left;
       (intro h); (clear e); rotate_right)
    | extract_lets +onlyGivenNames y
    | split
    | (with_reducible apply Frame.foldlPair; rotate_left; intro u x; (try dsimp -zeta -proj -eta only); rotate_right)
    | (with_reducible apply Frame.foldl; rotate_left; intro u x; (try dsimp -zeta -proj -eta only); rotate_right)
    | fail_if_no_progress (dsimp +zetaDelta -zeta -proj -eta only)
    | fail_if_no_progress (dsimp -zeta -eta only)

theorem readFailed_frame :
    ∀ s x1 x2 x3 x4, Frame [.ctrls, .mem, .cache, .search, .flash, .errors, .out] s
        (State.readFailed s x1 x2 x3 x4) := by
  intro s x1 x2 x3 x4
  unfold State.readFailed
  repeat' first
    | with_reducible apply Frame.refl
    | (apply Frame.via; with_reducible (first | apply readLost_frame | apply retireBlock_frame
                                              | apply mediaRecord_frame | apply modFlash_frame); decide)
    | split

theorem readSensors_frame :
    ∀ s x1, Frame [.power, .ctrls, .sched, .errors, .out] s (State.readSensors s x1) := by
  intro s x1
  unfold State.readSensors
  repeat' first
    | with_reducible apply Frame.refl
    | with_reducible assumption
    | (apply Frame.via; with_reducible (first | apply capFall_frame | apply evalC0_frame | apply reportGeneral_frame
                                              | apply modPower_frame | apply signal_frame); decide)
    | with_reducible apply Frame.ite
    | (extract_lets +onlyGivenNames x; clear_value (e : x = _); apply Frame.cut x; (subst e); rotate_left;
       (intro h); (clear e); rotate_right)
    | extract_lets +onlyGivenNames y
    | split
    | (with_reducible apply Frame.foldlPair; rotate_left; intro u x; (try dsimp -zeta -proj -eta only); rotate_right)
    | (with_reducible apply Frame.foldl; rotate_left; intro u x; (try dsimp -zeta -proj -eta only); rotate_right)
    | fail_if_no_progress (dsimp +zetaDelta -zeta -proj -eta only)
    | fail_if_no_progress (dsimp -zeta -eta only)

theorem retryUnbound_frame :
    ∀ s x1 x2, Frame [.sched] s (State.retryUnbound s x1 x2) := by
  intro s x1 x2
  unfold State.retryUnbound
  repeat' first
    | with_reducible apply Frame.refl
    | (apply Frame.via; with_reducible apply markUnbound_frame; decide)
    | (with_reducible apply Frame.foldl; rotate_left; intro u x; (try dsimp -zeta -proj -eta only); rotate_right)

theorem readSlow_frame :
    ∀ s x1 x2 x3, Frame [.sched] s (State.readSlow s x1 x2 x3) := by
  intro s x1 x2 x3
  unfold State.readSlow
  repeat' first
    | with_reducible apply Frame.refl
    | (apply Frame.via; with_reducible apply retryUnbound_frame; decide)
    | split

theorem recastRefused_frame :
    ∀ s x1 x2, Frame [.ctrls, .mold, .out] s (State.recastRefused s x1 x2) := by
  intro s x1 x2
  unfold State.recastRefused
  repeat' first
    | with_reducible apply Frame.refl
    | (apply Frame.via; with_reducible (first | apply modMold_frame | apply refuse_frame); decide)

theorem redrawLink_frame :
    ∀ s x1, Frame [.links, .free] s (State.redrawLink s x1) := by
  intro s x1
  unfold State.redrawLink
  repeat' first
    | with_reducible apply Frame.refl
    | with_reducible assumption
    | (apply Frame.via; with_reducible (first | apply freshKeys_frame | apply deliverKeys_frame
                                              | apply modLink_frame); decide)
    | with_reducible apply Frame.ite
    | (extract_lets +onlyGivenNames x; clear_value (e : x = _); apply Frame.cut x; (subst e); rotate_left;
       (intro h); (clear e); rotate_right)
    | extract_lets +onlyGivenNames y
    | split
    | (with_reducible apply Frame.foldlPair; rotate_left; intro u x; (try dsimp -zeta -proj -eta only); rotate_right)
    | (with_reducible apply Frame.foldl; rotate_left; intro u x; (try dsimp -zeta -proj -eta only); rotate_right)
    | (refine Frame.via ((freshKeys_frame _).of_eq (congrArg Prod.snd (by assumption))) (by decide) ?_)
    | fail_if_no_progress (dsimp +zetaDelta -zeta -proj -eta only)
    | fail_if_no_progress (dsimp -zeta -eta only)

theorem remake_frame :
    ∀ s x1, Frame [.search] s (State.remake s x1) := by
  intro s x1
  unfold State.remake
  repeat' first
    | with_reducible apply Frame.refl
    | (apply Frame.via; with_reducible apply modObj_frame; decide)

theorem removeIngot_frame :
    ∀ s x1, Frame [.ingots, .flash] s (State.removeIngot s x1) := by
  intro s x1
  unfold State.removeIngot
  repeat' first
    | with_reducible apply Frame.refl
    | (apply Frame.via; with_reducible apply freeIngot_frame; decide)
    | fail_if_no_progress (apply Frame.via; with_reducible apply Frame.ingots; decide)

theorem writeGranules_frame :
    ∀ s x1 x2 x3, Frame [.engines, .mem] s (State.writeGranules s x1 x2 x3) := by
  intro s x1 x2 x3
  induction x2 generalizing s x3 with
  | nil => exact Frame.refl s
  | cons g gs ih => exact Frame.trans (ih _ _) (writeAt_frame _ _ _)

theorem replaceGranule_frame :
    ∀ s x1 x2 x3, Frame [.engines, .mem, .cache, .free] s (State.replaceGranule s x1 x2 x3) := by
  intro s x1 x2 x3
  unfold State.replaceGranule
  repeat' first
    | with_reducible apply Frame.refl
    | (apply Frame.via; with_reducible (first | apply writeGranules_frame | apply takeStacked_frame
                                              | apply takeQuarter_frame | apply recache_frame); decide)
    | extract_lets +onlyGivenNames y
    | split
    | (refine Frame.via ((takeStacked_frame _ _ _).of_eq (congrArg Prod.snd (by assumption))) (by decide) ?_)
    | (refine Frame.via ((takeQuarter_frame _ _ _).of_eq (congrArg Prod.snd (by assumption))) (by decide) ?_)

theorem replayRecord_frame :
    ∀ s x1 x2 x3 x4 x5 x6 x7 x8 x9 x10 x11 x12, Frame [.ctrls, .errors, .out] s
        (State.replayRecord s x1 x2 x3 x4 x5 x6 x7 x8 x9 x10 x11 x12) := by
  intro s x1 x2 x3 x4 x5 x6 x7 x8 x9 x10 x11 x12
  unfold State.replayRecord
  repeat' first
    | with_reducible apply Frame.refl
    | (apply Frame.via; with_reducible apply report_frame; decide)

theorem replayUnit_frame :
    ∀ s x1 x2 x3 x4 x5, Frame [.sched, .engines, .mem, .cache, .benches, .free] s
        (State.replayUnit s x1 x2 x3 x4 x5) := by
  intro s x1 x2 x3 x4 x5
  unfold State.replayUnit
  repeat' first
    | with_reducible apply Frame.refl
    | (apply Frame.via; with_reducible (first | apply leaveParts_frame | apply discardOutputs_frame
                                              | apply clearGranule_frame | apply modJob_frame); decide)
    | (with_reducible apply Frame.foldl; rotate_left; intro u x; (try dsimp -zeta -proj -eta only); rotate_right)

theorem resendFrames_frame :
    ∀ s x1, Frame [.links] s (State.resendFrames s x1) := by
  intro s x1
  unfold State.resendFrames
  repeat' first
    | with_reducible apply Frame.refl
    | with_reducible assumption
    | (apply Frame.via; with_reducible (first | apply countLink_frame | apply modLink_frame); decide)
    | with_reducible apply Frame.ite
    | (extract_lets +onlyGivenNames x; clear_value (e : x = _); apply Frame.cut x; (subst e); rotate_left;
       (intro h); (clear e); rotate_right)
    | extract_lets +onlyGivenNames y
    | split
    | (with_reducible apply Frame.foldlPair; rotate_left; intro u x; (try dsimp -zeta -proj -eta only); rotate_right)
    | (with_reducible apply Frame.foldl; rotate_left; intro u x; (try dsimp -zeta -proj -eta only); rotate_right)
    | fail_if_no_progress (dsimp +zetaDelta -zeta -proj -eta only)
    | fail_if_no_progress (dsimp -zeta -eta only)

theorem restartReading_frame :
    ∀ s x1, Frame [.search, .benches] s (State.restartReading s x1) := by
  intro s x1
  unfold State.restartReading
  repeat' first
    | with_reducible apply Frame.refl
    | with_reducible assumption
    | (apply Frame.via; with_reducible (first | apply modObj_frame | apply modBench_frame); decide)
    | with_reducible apply Frame.ite
    | (extract_lets +onlyGivenNames x; clear_value (e : x = _); apply Frame.cut x; (subst e); rotate_left;
       (intro h); (clear e); rotate_right)
    | extract_lets +onlyGivenNames y
    | split
    | (with_reducible apply Frame.foldlPair; rotate_left; intro u x; (try dsimp -zeta -proj -eta only); rotate_right)
    | (with_reducible apply Frame.foldl; rotate_left; intro u x; (try dsimp -zeta -proj -eta only); rotate_right)
    | fail_if_no_progress (dsimp +zetaDelta -zeta -proj -eta only)
    | fail_if_no_progress (dsimp -zeta -eta only)

theorem waitRead_frame :
    ∀ s x1, Frame [.pewter] s (State.waitRead s x1) := by
  intro s x1
  unfold State.waitRead
  repeat' first
    | with_reducible apply Frame.refl
    | fail_if_no_progress (apply Frame.via; with_reducible apply Frame.pewter; decide)

theorem doArrayRead_frame :
    ∀ x0 x1 x2 s, Frame [.pewter, .out, .free] s (doArrayRead x0 x1 x2 s) := by
  intro x0 x1 x2 s
  unfold doArrayRead
  repeat' first
    | with_reducible apply Frame.refl
    | with_reducible assumption
    | (apply Frame.via; with_reducible (first | apply waitRead_frame | apply fresh_frame | apply emit_frame); decide)
    | with_reducible apply Frame.ite
    | (extract_lets +onlyGivenNames x; clear_value (e : x = _); apply Frame.cut x; (subst e); rotate_left;
       (intro h); (clear e); rotate_right)
    | extract_lets +onlyGivenNames y
    | split
    | (with_reducible apply Frame.foldlPair; rotate_left; intro u x; (try dsimp -zeta -proj -eta only); rotate_right)
    | (with_reducible apply Frame.foldl; rotate_left; intro u x; (try dsimp -zeta -proj -eta only); rotate_right)
    | (refine Frame.via ((fresh_frame _).of_eq (congrArg Prod.snd (by assumption))) (by decide) ?_)
    | fail_if_no_progress (apply Frame.via; with_reducible apply Frame.pewter; decide)
    | fail_if_no_progress (dsimp +zetaDelta -zeta -proj -eta only)
    | fail_if_no_progress (dsimp -zeta -eta only)

theorem doFirmwareCommit_frame :
    ∀ x0 s, Frame [.ctrls, .pewter, .errors, .fw, .out] s (doFirmwareCommit x0 s) := by
  intro x0 s
  unfold doFirmwareCommit
  repeat' first
    | with_reducible apply Frame.refl
    | (apply Frame.via; with_reducible (first | apply waitRead_frame | apply nvmeInvalidField_frame
                                              | apply imageInvalid_frame | apply success_frame | apply refuse_frame
                                                  | apply activationNeedsReset_frame | apply reportSecurity_frame);
                                                      decide)
    | with_reducible apply Frame.ite
    | fail_if_no_progress (apply Frame.via; with_reducible (first | apply Frame.pewter | apply Frame.fw
                                                                  | apply Frame.pewter_fw); decide)

theorem doFirmwareDownload_frame :
    ∀ x0 x1 s, Frame [.ctrls, .pewter, .fw, .out] s (doFirmwareDownload x0 x1 s) := by
  intro x0 x1 s
  unfold doFirmwareDownload
  repeat' first
    | with_reducible apply Frame.refl
    | with_reducible assumption
    | (apply Frame.via; with_reducible (first | apply waitRead_frame | apply nvmeInvalidField_frame
                                              | apply success_frame | apply refuse_frame); decide)
    | with_reducible apply Frame.ite
    | (extract_lets +onlyGivenNames x; clear_value (e : x = _); apply Frame.cut x; (subst e); rotate_left;
       (intro h); (clear e); rotate_right)
    | extract_lets +onlyGivenNames y
    | split
    | (with_reducible apply Frame.foldlPair; rotate_left; intro u x; (try dsimp -zeta -proj -eta only); rotate_right)
    | (with_reducible apply Frame.foldl; rotate_left; intro u x; (try dsimp -zeta -proj -eta only); rotate_right)
    | fail_if_no_progress (apply Frame.via; with_reducible (first | apply Frame.pewter | apply Frame.fw
                                                                  | apply Frame.pewter_fw); decide)
    | fail_if_no_progress (dsimp +zetaDelta -zeta -proj -eta only)
    | fail_if_no_progress (dsimp -zeta -eta only)

theorem doHallmarkRoots_frame :
    ∀ x0 s, Frame [.ctrls, .pewter, .out] s (doHallmarkRoots x0 s) := by
  intro x0 s
  unfold doHallmarkRoots
  repeat' first
    | with_reducible apply Frame.refl
    | (apply Frame.via; with_reducible (first | apply waitRead_frame | apply success_frame | apply refuse_frame);
       decide)
    | with_reducible apply Frame.ite

theorem spdmError_frame :
    ∀ s x1 x2, Frame [.out] s (State.spdmError s x1 x2) := by
  intro s x1 x2
  unfold State.spdmError
  repeat' first
    | with_reducible apply Frame.refl
    | (apply Frame.via; with_reducible apply emit_frame; decide)

theorem spdmSigned_frame :
    ∀ s x1 x2 x3, Frame [.ctrls, .pewter, .errors, .sec, .out] s (State.spdmSigned s x1 x2 x3) := by
  intro s x1 x2 x3
  unfold State.spdmSigned
  repeat' first
    | with_reducible apply Frame.refl
    | (apply Frame.via; with_reducible (first | apply spdmError_frame | apply quotaSign_frame | apply emit_frame);
       decide)
    | split
    | (refine Frame.via ((quotaSign_frame _ _).of_eq (congrArg Prod.snd (by assumption))) (by decide) ?_)

theorem doSpdmMeasurements_frame :
    ∀ x0 x1 x2 x3 s, Frame [.ctrls, .pewter, .errors, .sec, .out, .free] s (doSpdmMeasurements x0 x1 x2 x3 s) := by
  intro x0 x1 x2 x3 s
  unfold doSpdmMeasurements
  repeat' first
    | with_reducible apply Frame.refl
    | (apply Frame.via; with_reducible (first | apply spdmSigned_frame | apply spdmError_frame
                                              | apply waitRead_frame | apply freshBytes_frame | apply emit_frame);
                                                  decide)
    | with_reducible apply Frame.ite
    | split
    | fail_if_no_progress (apply Frame.via; with_reducible apply Frame.sec; decide)

theorem serveRead_frame :
    ∀ s x1, Frame [.ctrls, .pewter, .errors, .sec, .fw, .out, .free] s (State.serveRead s x1) := by
  intro s x1
  unfold State.serveRead
  repeat' first
    | with_reducible apply Frame.refl
    | with_reducible assumption
    | (apply Frame.via; with_reducible (first | apply doSpdmMeasurements_frame | apply doHallmarkRoots_frame
                                              | apply doFirmwareDownload_frame | apply doFirmwareCommit_frame
                                                  | apply doArrayRead_frame); decide)
    | (with_reducible apply atPort_frame; (try dsimp -zeta -proj -eta only))
    | with_reducible apply Frame.ite
    | (extract_lets +onlyGivenNames x; clear_value (e : x = _); apply Frame.cut x; (subst e); rotate_left;
       (intro h); (clear e); rotate_right)
    | extract_lets +onlyGivenNames y
    | split
    | (with_reducible apply Frame.foldlPair; rotate_left; intro u x; (try dsimp -zeta -proj -eta only); rotate_right)
    | (with_reducible apply Frame.foldl; rotate_left; intro u x; (try dsimp -zeta -proj -eta only); rotate_right)
    | fail_if_no_progress (dsimp +zetaDelta -zeta -proj -eta only)
    | fail_if_no_progress (dsimp -zeta -eta only)

theorem resumeReads_frame :
    ∀ s, Frame [.ctrls, .pewter, .errors, .sec, .fw, .out, .free] s (State.resumeReads s) := by
  intro s
  unfold State.resumeReads
  repeat' first
    | with_reducible apply Frame.refl
    | (apply Frame.via; with_reducible apply serveRead_frame; decide)
    | (with_reducible apply Frame.foldl; rotate_left; intro u x; (try dsimp -zeta -proj -eta only); rotate_right)
    | fail_if_no_progress (apply Frame.via; with_reducible apply Frame.pewter; decide)

theorem retryAppend_frame :
    ∀ s x1 x2, Frame [.sched, .mem, .cache, .search, .benches, .flash] s (State.retryAppend s x1 x2) := by
  intro s x1 x2
  unfold State.retryAppend
  repeat' first
    | with_reducible apply Frame.refl
    | with_reducible assumption
    | (apply Frame.via; with_reducible (first | apply remake_frame | apply notInserted_frame
                                              | apply chargeWork_frame | apply appendWaits_frame
                                                  | apply append_frame); decide)
    | with_reducible apply Frame.ite
    | (extract_lets +onlyGivenNames x; clear_value (e : x = _); apply Frame.cut x; (subst e); rotate_left;
       (intro h); (clear e); rotate_right)
    | extract_lets +onlyGivenNames y
    | split
    | (with_reducible apply Frame.foldlPair; rotate_left; intro u x; (try dsimp -zeta -proj -eta only); rotate_right)
    | (with_reducible apply Frame.foldl; rotate_left; intro u x; (try dsimp -zeta -proj -eta only); rotate_right)
    | (refine Frame.via ((appendWaits_frame _ _ _ _).of_eq (congrArg Prod.fst (by assumption))) (by decide) ?_)
    | (refine Frame.via ((append_frame _ _ _).of_eq (congrArg Prod.fst (by assumption))) (by decide) ?_)
    | fail_if_no_progress (apply Frame.via; with_reducible apply Frame.search; decide)
    | fail_if_no_progress (dsimp +zetaDelta -zeta -proj -eta only)
    | fail_if_no_progress (dsimp -zeta -eta only)

theorem startDrain_frame :
    ∀ s x1, Frame [.sched, .engines] s (State.startDrain s x1) := by
  intro s x1
  unfold State.startDrain
  repeat' first
    | with_reducible apply Frame.refl
    | with_reducible assumption
    | (apply Frame.via; with_reducible (first | apply countSwitch_frame | apply chargeRun_frame
                                              | apply modEngine_frame); decide)
    | with_reducible apply Frame.ite
    | (extract_lets +onlyGivenNames x; clear_value (e : x = _); apply Frame.cut x; (subst e); rotate_left;
       (intro h); (clear e); rotate_right)
    | extract_lets +onlyGivenNames y
    | split
    | (with_reducible apply Frame.foldlPair; rotate_left; intro u x; (try dsimp -zeta -proj -eta only); rotate_right)
    | (with_reducible apply Frame.foldl; rotate_left; intro u x; (try dsimp -zeta -proj -eta only); rotate_right)
    | fail_if_no_progress (dsimp +zetaDelta -zeta -proj -eta only)
    | fail_if_no_progress (dsimp -zeta -eta only)

theorem retryPreempt_frame :
    ∀ s x1, Frame [.sched, .engines] s (State.retryPreempt s x1) := by
  intro s x1
  unfold State.retryPreempt
  repeat' first
    | with_reducible apply Frame.refl
    | (apply Frame.via; with_reducible (first | apply startDrain_frame | apply preempt_frame); decide)
    | split

theorem returnCredit_frame :
    ∀ s x1 x2, Frame [.sched] s (State.returnCredit s x1 x2) := by
  intro s x1 x2
  unfold State.returnCredit
  repeat' first
    | with_reducible apply Frame.refl
    | fail_if_no_progress (apply Frame.via; with_reducible apply Frame.sched; decide)

theorem sendClose_frame :
    ∀ s, Frame [.sec, .out, .free] s (State.sendClose s) := by
  intro s
  unfold State.sendClose
  repeat' first
    | with_reducible apply Frame.refl
    | (apply Frame.via; with_reducible (first | apply sendRecord_frame | apply fresh_frame); decide)
    | with_reducible apply Frame.ite

theorem strike_frame : ∀ s, Frame [.pewter, .sec, .free] s (State.strike s) := by
  intro s
  have hd : ∀ (u : State) (w : Nat), Frame [.pewter, .sec, .free] u (u.fresh.2.programVault w u.fresh.1.toNat) :=
    fun u w => Frame.via (programVault_frame _ _ _) (by decide) (Frame.via (fresh_frame _) (by decide) (Frame.refl u))
  refine Frame.via (Frame.sec _ _) (by decide) ?_
  refine Frame.foldl _ ?_ hd
  refine Frame.foldl _ ?_ (fun u t => Frame.via (Frame.pewter u _) (by decide) (Frame.refl u))
  exact Frame.foldl _ (Frame.refl s) hd

theorem writeBackPass_frame :
    ∀ s, Frame [.mem, .cache, .search, .flash] s (State.writeBackPass s) := by
  intro s
  unfold State.writeBackPass
  repeat' first
    | with_reducible apply Frame.refl
    | with_reducible assumption
    | (apply Frame.via; with_reducible apply granuleHome_frame; decide)
    | with_reducible apply Frame.ite
    | (extract_lets +onlyGivenNames x; clear_value (e : x = _); apply Frame.cut x; (subst e); rotate_left;
       (intro h); (clear e); rotate_right)
    | extract_lets +onlyGivenNames y
    | split
    | (with_reducible apply Frame.foldlPair; rotate_left; intro u x; (try dsimp -zeta -proj -eta only); rotate_right)
    | (with_reducible apply Frame.foldl; rotate_left; intro u x; (try dsimp -zeta -proj -eta only); rotate_right)
    | fail_if_no_progress (dsimp +zetaDelta -zeta -proj -eta only)
    | fail_if_no_progress (dsimp -zeta -eta only)

theorem writeBackAll_frame :
    ∀ s, Frame [.mem, .cache, .search, .flash] s (State.writeBackAll s) := by
  intro s
  unfold State.writeBackAll
  repeat' first
    | with_reducible apply Frame.refl
    | with_reducible assumption
    | (apply Frame.via; with_reducible apply writeBackPass_frame; decide)
    | with_reducible apply Frame.ite
    | (extract_lets +onlyGivenNames x; clear_value (e : x = _); apply Frame.cut x; (subst e); rotate_left;
       (intro h); (clear e); rotate_right)
    | extract_lets +onlyGivenNames y
    | split
    | (with_reducible apply Frame.foldlPair; rotate_left; intro u x; (try dsimp -zeta -proj -eta only); rotate_right)
    | (with_reducible apply Frame.foldl; rotate_left; intro u x; (try dsimp -zeta -proj -eta only); rotate_right)
    | fail_if_no_progress (dsimp +zetaDelta -zeta -proj -eta only)
    | fail_if_no_progress (dsimp -zeta -eta only)

theorem runTransition_frame :
    ∀ s x1 x2, Frame [.power, .ctrls, .mold, .grid, .sched, .engines, .mem, .cache, .ingots, .search, .benches,
                      .flash, .links, .pewter, .errors, .burnish, .sec, .fw, .dev, .out, .free] s
                          (State.runTransition s x1 x2) := by
  intro s x1 x2
  unfold State.runTransition
  repeat' first
    | with_reducible apply Frame.refl
    | with_reducible assumption
    | (apply Frame.via; with_reducible (first | apply writeBackAll_frame | apply strike_frame
                                              | apply sendClose_frame | apply resumeReads_frame
                                                  | apply redrawLink_frame | apply programLc_frame
                                                      | apply endPrograms_frame | apply endCommands_frame
                                                          | apply dropAdmin_frame | apply zeroiseMedia_frame
                                                              | apply blank_frame | apply reportSecurity_frame);
                                                                  decide)
    | with_reducible apply Frame.ite
    | (extract_lets +onlyGivenNames x; clear_value (e : x = _); apply Frame.cut x; (subst e); rotate_left;
       (intro h); (clear e); rotate_right)
    | extract_lets +onlyGivenNames y
    | split
    | (with_reducible apply Frame.foldlPair; rotate_left; intro u x; (try dsimp -zeta -proj -eta only); rotate_right)
    | (with_reducible apply Frame.foldl; rotate_left; intro u x; (try dsimp -zeta -proj -eta only); rotate_right)
    | fail_if_no_progress (apply Frame.via; with_reducible (first | apply Frame.mem | apply Frame.benches
                                                                  | apply Frame.flash | apply Frame.pewter
                                                                      | apply Frame.sec | apply Frame.benches_flash
                                                                          | apply Frame.mem_benches
                                                                              | apply Frame.mem_benches_flash_pewter_sec | apply Frame.mem_flash); decide)
    | fail_if_no_progress (dsimp +zetaDelta -zeta -proj -eta only)
    | fail_if_no_progress (dsimp -zeta -eta only)

theorem saveEngine_frame :
    ∀ s x1, Frame [.sched, .engines, .mem, .cache] s (State.saveEngine s x1) := by
  intro s x1
  unfold State.saveEngine
  repeat' first
    | with_reducible apply Frame.refl
    | (apply Frame.via; with_reducible (first | apply unpin_frame | apply returnCredits_frame
                                              | apply chargeRun_frame | apply modEngine_frame | apply modJob_frame);
                                                  decide)
    | split

theorem sendKeyAck_frame :
    ∀ s x1 x2, Frame [.sec, .out] s (State.sendKeyAck s x1 x2) := by
  intro s x1 x2
  unfold State.sendKeyAck
  repeat' first
    | with_reducible apply Frame.refl
    | (apply Frame.via; with_reducible apply sendRecord_frame; decide)

theorem serveWaiting_frame :
    ∀ s x1, Frame [.ctrls, .sched, .engines, .mem, .cache, .ingots, .search, .benches, .flash, .pewter, .errors,
                   .sec, .out, .free] s (State.serveWaiting s x1) := by
  intro s x1
  unfold State.serveWaiting
  repeat' first
    | with_reducible apply Frame.refl
    | (apply Frame.via; with_reducible (first | apply spdmSigned_frame | apply makeAttest_frame
                                              | apply finishJob_frame | apply stopJob_frame); decide)
    | split

theorem setConn_frame :
    ∀ s x1, Frame [.sec] s (State.setConn s x1) := by
  intro s x1
  unfold State.setConn
  repeat' first
    | with_reducible apply Frame.refl
    | fail_if_no_progress (apply Frame.via; with_reducible apply Frame.sec; decide)

theorem setLink_frame :
    ∀ s x1 x2, Frame [.ctrls, .links, .out] s (State.setLink s x1 x2) := by
  intro s x1 x2
  unfold State.setLink
  repeat' first
    | with_reducible apply Frame.refl
    | (apply Frame.via; with_reducible (first | apply modLink_frame | apply signal_frame); decide)
    | with_reducible apply Frame.ite

theorem setSem_frame :
    ∀ s x1, Frame [.sched] s (State.setSem s x1) := by
  intro s x1
  unfold State.setSem
  repeat' first
    | with_reducible apply Frame.refl
    | fail_if_no_progress (apply Frame.via; with_reducible apply Frame.sched; decide)

theorem skewFault_frame :
    ∀ s x1 x2 x3 x4, Frame [.ctrls, .sched, .engines, .mem, .cache, .search, .benches, .errors, .out] s
        (State.skewFault s x1 x2 x3 x4) := by
  intro s x1 x2 x3 x4
  unfold State.skewFault
  repeat' first
    | with_reducible apply Frame.refl
    | (apply Frame.via; with_reducible (first | apply engineReason_frame | apply faultJobNoted_frame); decide)

theorem startRefetch_frame :
    ∀ s x1 x2 x3 x4 x5 x6, Frame [.sched, .cache] s (State.startRefetch s x1 x2 x3 x4 x5 x6) := by
  intro s x1 x2 x3 x4 x5 x6
  unfold State.startRefetch
  repeat' first
    | with_reducible apply Frame.refl
    | with_reducible assumption
    | (apply Frame.via; with_reducible (first | apply modCache_frame | apply markUnbound_frame); decide)
    | with_reducible apply Frame.ite
    | (extract_lets +onlyGivenNames x; clear_value (e : x = _); apply Frame.cut x; (subst e); rotate_left;
       (intro h); (clear e); rotate_right)
    | extract_lets +onlyGivenNames y
    | split
    | (with_reducible apply Frame.foldlPair; rotate_left; intro u x; (try dsimp -zeta -proj -eta only); rotate_right)
    | (with_reducible apply Frame.foldl; rotate_left; intro u x; (try dsimp -zeta -proj -eta only); rotate_right)
    | fail_if_no_progress (dsimp +zetaDelta -zeta -proj -eta only)
    | fail_if_no_progress (dsimp -zeta -eta only)

theorem submitJob_frame :
    ∀ s x1 x2 x3 x4, Frame [.ctrls, .sched, .engines, .mem, .out, .free] s (State.submitJob s x1 x2 x3 x4) := by
  intro s x1 x2 x3 x4
  unfold State.submitJob
  repeat' first
    | with_reducible apply Frame.refl
    | with_reducible assumption
    | (apply Frame.via; with_reducible (first | apply refuse_frame | apply status_frame | apply refuseEnvelope_frame
                                              | apply acceptJob_frame); decide)
    | with_reducible apply Frame.ite
    | (extract_lets +onlyGivenNames x; clear_value (e : x = _); apply Frame.cut x; (subst e); rotate_left;
       (intro h); (clear e); rotate_right)
    | extract_lets +onlyGivenNames y
    | split
    | (with_reducible apply Frame.foldlPair; rotate_left; intro u x; (try dsimp -zeta -proj -eta only); rotate_right)
    | (with_reducible apply Frame.foldl; rotate_left; intro u x; (try dsimp -zeta -proj -eta only); rotate_right)
    | fail_if_no_progress (dsimp +zetaDelta -zeta -proj -eta only)
    | fail_if_no_progress (dsimp -zeta -eta only)

theorem submitQuery_frame :
    ∀ s x1 x2 x3 x4, Frame [.ctrls, .sched, .out] s (State.submitQuery s x1 x2 x3 x4) := by
  intro s x1 x2 x3 x4
  unfold State.submitQuery
  dsimp -proj -eta only
  repeat' first
    | with_reducible apply Frame.refl
    | (apply Frame.via; with_reducible (first | apply refuse_frame | apply refuseEnvelope_frame
                                              | apply addJob_frame); decide)
    | split

theorem takeReference_frame :
    ∀ s x1, Frame [.grid, .free] s (State.takeReference s x1) := by
  intro s x1
  unfold State.takeReference
  repeat' first
    | with_reducible apply Frame.refl
    | with_reducible assumption
    | (apply Frame.via; with_reducible apply fresh_frame; decide)
    | with_reducible apply Frame.ite
    | (extract_lets +onlyGivenNames x; clear_value (e : x = _); apply Frame.cut x; (subst e); rotate_left;
       (intro h); (clear e); rotate_right)
    | extract_lets +onlyGivenNames y
    | split
    | (with_reducible apply Frame.foldlPair; rotate_left; intro u x; (try dsimp -zeta -proj -eta only); rotate_right)
    | (with_reducible apply Frame.foldl; rotate_left; intro u x; (try dsimp -zeta -proj -eta only); rotate_right)
    | (refine Frame.via ((fresh_frame _).of_eq (congrArg Prod.snd (by assumption))) (by decide) ?_)
    | fail_if_no_progress (apply Frame.via; with_reducible apply Frame.grid; decide)
    | fail_if_no_progress (dsimp +zetaDelta -zeta -proj -eta only)
    | fail_if_no_progress (dsimp -zeta -eta only)

theorem takeForce_frame :
    ∀ s x1 x2 x3 x4 x5, Frame [.power, .ctrls, .mold, .grid, .sched, .engines, .mem, .cache, .search, .benches,
                               .flash, .pewter, .errors, .sec, .out, .free] s (State.takeForce s x1 x2 x3 x4 x5) := by
  intro s x1 x2 x3 x4 x5
  unfold State.takeForce
  repeat' first
    | with_reducible apply Frame.refl
    | with_reducible assumption
    | (apply Frame.via; with_reducible (first | apply takeReference_frame | apply raiseRollback_frame
                                              | apply mountMetadata_frame | apply mountMarks_frame
                                                  | apply gridStart_frame | apply checkFlushLog_frame
                                                      | apply capFall_frame | apply evalC0_frame
                                                          | apply sendKeyRequests_frame | apply noteEmbed_frame
                                                              | apply modMold_frame | apply createColls_frame
                                                                  | apply checkKcvs_frame | apply bindParts_frame);
                                                                      decide)
    | with_reducible apply Frame.ite
    | (extract_lets +onlyGivenNames x; clear_value (e : x = _); apply Frame.cut x; (subst e); rotate_left;
       (intro h); (clear e); rotate_right)
    | extract_lets +onlyGivenNames y
    | split
    | (with_reducible apply Frame.foldlPair; rotate_left; intro u x; (try dsimp -zeta -proj -eta only); rotate_right)
    | (with_reducible apply Frame.foldl; rotate_left; intro u x; (try dsimp -zeta -proj -eta only); rotate_right)
    | fail_if_no_progress (apply Frame.via; with_reducible (first | apply Frame.sched | apply Frame.search
                                                                  | apply Frame.sched_search); decide)
    | fail_if_no_progress (dsimp +zetaDelta -zeta -proj -eta only)
    | fail_if_no_progress (dsimp -zeta -eta only)

theorem takePiece_frame :
    ∀ s x1 x2 x3 x4 x5, Frame [.ctrls, .sched, .mem, .cache, .ingots, .search, .flash, .out] s
        (State.takePiece s x1 x2 x3 x4 x5) := by
  intro s x1 x2 x3 x4 x5
  unfold State.takePiece
  repeat' first
    | with_reducible apply Frame.refl
    | with_reducible assumption
    | (apply Frame.via; with_reducible (first | apply storeIngot_frame | apply modIngot_frame
                                              | apply success_frame); decide)
    | with_reducible apply Frame.ite
    | (extract_lets +onlyGivenNames x; clear_value (e : x = _); apply Frame.cut x; (subst e); rotate_left;
       (intro h); (clear e); rotate_right)
    | extract_lets +onlyGivenNames y
    | split
    | (with_reducible apply Frame.foldlPair; rotate_left; intro u x; (try dsimp -zeta -proj -eta only); rotate_right)
    | (with_reducible apply Frame.foldl; rotate_left; intro u x; (try dsimp -zeta -proj -eta only); rotate_right)
    | fail_if_no_progress (apply Frame.via; with_reducible apply Frame.ingots; decide)
    | fail_if_no_progress (dsimp +zetaDelta -zeta -proj -eta only)
    | fail_if_no_progress (dsimp -zeta -eta only)

theorem takeQuench_frame :
    ∀ s x1, Frame [.sched] s (State.takeQuench s x1) := by
  intro s x1
  unfold State.takeQuench
  repeat' first
    | with_reducible apply Frame.refl
    | (apply Frame.via; with_reducible apply modJob_frame; decide)
    | with_reducible apply Frame.ite
    | (with_reducible apply Frame.foldl; rotate_left; intro u x; (try dsimp -zeta -proj -eta only); rotate_right)
    | fail_if_no_progress (apply Frame.via; with_reducible apply Frame.sched; decide)

theorem takeSem_frame :
    ∀ s x1 x2 x3, Frame [.sched, .engines] s (State.takeSem s x1 x2 x3) := by
  intro s x1 x2 x3
  unfold State.takeSem
  repeat' first
    | with_reducible apply Frame.refl
    | (apply Frame.via; with_reducible (first | apply setSem_frame | apply nextWord_frame | apply modEngine_frame
                                              | apply modJob_frame); decide)
    | with_reducible apply Frame.ite

theorem tokeniserFault_frame :
    ∀ s x1, Frame [.ctrls, .mem, .cache, .search, .benches, .flash, .out] s (State.tokeniserFault s x1) := by
  intro s x1
  unfold State.tokeniserFault
  repeat' first
    | with_reducible apply Frame.refl
    | with_reducible assumption
    | (apply Frame.via; with_reducible (first | apply benchReason_frame | apply endReading_frame); decide)
    | (extract_lets +onlyGivenNames x; clear_value (e : x = _); apply Frame.cut x; (subst e); rotate_left;
       (intro h); (clear e); rotate_right)
    | split

theorem touchRange_frame :
    ∀ s x1 x2, Frame [.cache] s (State.touchRange s x1 x2) := by
  intro s x1 x2
  unfold State.touchRange
  repeat' first
    | with_reducible apply Frame.refl
    | (apply Frame.via; with_reducible apply modCache_frame; decide)
    | split
    | (with_reducible apply Frame.foldl; rotate_left; intro u x; (try dsimp -zeta -proj -eta only); rotate_right)

theorem transferError_frame :
    ∀ s x1, Frame [.ctrls, .out] s (State.transferError s x1) := by
  intro s x1
  unfold State.transferError
  repeat' first
    | with_reducible apply Frame.refl
    | (apply Frame.via; with_reducible apply nvme_frame; decide)

theorem trip_frame :
    ∀ s x1 x2, Frame [.power, .ctrls, .mold, .grid, .sched, .engines, .mem, .cache, .ingots, .search, .benches,
                      .flash, .links, .pewter, .errors, .burnish, .sec, .fw, .bmc, .dev, .out] s
                          (State.trip s x1 x2) := by
  intro s x1 x2
  unfold State.trip
  repeat' first
    | with_reducible apply Frame.refl
    | (apply Frame.via; with_reducible (first | apply railsOff_frame | apply reportGeneral_frame
                                              | apply doRecordWrite_frame | apply modPower_frame); decide)

theorem unitStands_frame :
    ∀ s x1 x2 x3 x4, Frame [.ctrls, .sched, .engines, .mem, .cache, .ingots, .search, .benches, .flash, .pewter,
                            .errors, .sec, .out, .free] s (State.unitStands s x1 x2 x3 x4) := by
  intro s x1 x2 x3 x4
  unfold State.unitStands
  repeat' first
    | with_reducible apply Frame.refl
    | (apply Frame.via; with_reducible (first | apply leaveParts_frame | apply kvExtend_frame
                                              | apply finishJob_frame | apply embedPassage_frame
                                                  | apply modJob_frame); decide)
    | with_reducible apply Frame.ite
    | extract_lets +onlyGivenNames y
    | split
    | (with_reducible apply Frame.foldl; rotate_left; intro u x; (try dsimp -zeta -proj -eta only); rotate_right)

theorem vectorInvalid_frame :
    ∀ s x1, Frame [.ctrls, .out] s (State.vectorInvalid s x1) := by
  intro s x1
  unfold State.vectorInvalid
  repeat' first
    | with_reducible apply Frame.refl
    | (apply Frame.via; with_reducible apply nvme_frame; decide)

theorem wakeForIo_frame :
    ∀ s, Frame [.power] s (State.wakeForIo s) := by
  intro s
  unfold State.wakeForIo
  repeat' first
    | with_reducible apply Frame.refl
    | (apply Frame.via; with_reducible apply modPower_frame; decide)
    | with_reducible apply Frame.ite

theorem doBnCountClear_frame :
    ∀ x0 s, Frame [.benches, .links] s (doBnCountClear x0 s) := by
  intro x0 s
  unfold doBnCountClear
  repeat' first
    | with_reducible apply Frame.refl
    | (apply Frame.via; with_reducible (first | apply modLink_frame | apply modBench_frame); decide)
    | with_reducible apply Frame.ite

theorem writeBench_frame :
    ∀ s x1 x2 x3, Frame [.benches, .links] s (State.writeBench s x1 x2 x3) := by
  intro s x1 x2 x3
  unfold State.writeBench
  repeat' first
    | with_reducible apply Frame.refl
    | (apply Frame.via; with_reducible (first | apply doBnCountClear_frame | apply modBench_frame); decide)
    | split

theorem writeEngine_frame :
    ∀ s x1 x2 x3, Frame [.engines] s (State.writeEngine s x1 x2 x3) := by
  intro s x1 x2 x3
  unfold State.writeEngine
  repeat' first
    | with_reducible apply Frame.refl
    | (apply Frame.via; with_reducible apply modEngine_frame; decide)
    | split

theorem doRingAck_frame :
    ∀ x0 x1 s, Frame [.errors] s (doRingAck x0 x1 s) := by
  intro x0 x1 s
  unfold doRingAck
  repeat' first
    | with_reducible apply Frame.refl
    | (apply Frame.via; with_reducible apply modRing_frame; decide)
    | with_reducible apply Frame.ite
    | fail_if_no_progress (apply Frame.via; with_reducible apply Frame.errors; decide)

theorem writeErr_frame :
    ∀ s x1 x2, Frame [.errors] s (State.writeErr s x1 x2) := by
  intro s x1 x2
  unfold State.writeErr
  repeat' first
    | with_reducible apply Frame.refl
    | (apply Frame.via; with_reducible (first | apply doRingAck_frame | apply modRing_frame); decide)
    | split
    | fail_if_no_progress (apply Frame.via; with_reducible apply Frame.errors; decide)

theorem doRawReadStart_frame :
    ∀ x0 s, Frame [.flash] s (doRawReadStart x0 s) := by
  intro x0 s
  unfold doRawReadStart
  repeat' first
    | with_reducible apply Frame.refl
    | (apply Frame.via; with_reducible apply modFlash_frame; decide)
    | with_reducible apply Frame.ite
    | split

theorem writeFlash_frame :
    ∀ s x1 x2 x3, Frame [.sched, .cache, .flash, .burnish, .dev] s (State.writeFlash s x1 x2 x3) := by
  intro s x1 x2 x3
  unfold State.writeFlash
  repeat' first
    | with_reducible apply Frame.refl
    | (apply Frame.via; with_reducible (first | apply doRawReadStart_frame | apply latchWrite_frame
                                              | apply modFlash_frame); decide)
    | with_reducible apply Frame.ite
    | split

theorem doBrnCtrl_frame :
    ∀ x0 s, Frame [.sched, .cache, .flash, .burnish, .dev] s (doBrnCtrl x0 s) := by
  intro x0 s
  unfold doBrnCtrl
  repeat' first
    | with_reducible apply Frame.refl
    | (apply Frame.via; with_reducible apply latchWrite_frame; decide)
    | with_reducible apply Frame.ite
    | fail_if_no_progress (apply Frame.via; with_reducible apply Frame.burnish; decide)

theorem doMcCtrl_frame :
    ∀ x0 x1 s, Frame [.sched, .engines, .mem, .cache, .flash, .burnish, .dev] s (doMcCtrl x0 x1 s) := by
  intro x0 x1 s
  unfold doMcCtrl
  repeat' first
    | with_reducible apply Frame.refl
    | (apply Frame.via; with_reducible (first | apply latchWrite_frame | apply recache_frame
                                              | apply modCache_frame); decide)
    | with_reducible apply Frame.ite

theorem doPwrCtrl_frame :
    ∀ x0 s, Frame [.power, .sched] s (doPwrCtrl x0 s) := by
  intro x0 s
  unfold doPwrCtrl
  repeat' first
    | with_reducible apply Frame.refl
    | with_reducible assumption
    | (apply Frame.via; with_reducible (first | apply capFall_frame | apply modPower_frame); decide)
    | with_reducible apply Frame.ite
    | (extract_lets +onlyGivenNames x; clear_value (e : x = _); apply Frame.cut x; (subst e); rotate_left;
       (intro h); (clear e); rotate_right)
    | extract_lets +onlyGivenNames y
    | split
    | (with_reducible apply Frame.foldlPair; rotate_left; intro u x; (try dsimp -zeta -proj -eta only); rotate_right)
    | (with_reducible apply Frame.foldl; rotate_left; intro u x; (try dsimp -zeta -proj -eta only); rotate_right)
    | fail_if_no_progress (dsimp +zetaDelta -zeta -proj -eta only)
    | fail_if_no_progress (dsimp -zeta -eta only)

theorem doSchCtrl_frame :
    ∀ x0 s, Frame [.sched, .cache, .flash, .burnish, .dev] s (doSchCtrl x0 s) := by
  intro x0 s
  unfold doSchCtrl
  repeat' first
    | with_reducible apply Frame.refl
    | (apply Frame.via; with_reducible apply latchWrite_frame; decide)
    | with_reducible apply Frame.ite
    | fail_if_no_progress (apply Frame.via; with_reducible apply Frame.sched; decide)

theorem write4_frame :
    ∀ s x1 x2, Frame [.power, .mold, .grid, .sched, .engines, .mem, .cache, .benches, .flash, .links, .errors,
                      .burnish, .dev] s (State.write4 s x1 x2) := by
  intro s x1 x2
  unfold State.write4
  repeat' first
    | with_reducible apply Frame.refl
    | with_reducible assumption
    | (apply Frame.via; with_reducible (first | apply doSchCtrl_frame | apply doPwrCtrl_frame | apply doMcCtrl_frame
                                              | apply doBrnCtrl_frame | apply writeFlash_frame
                                                  | apply writeErr_frame | apply writeEngine_frame
                                                      | apply writeBench_frame | apply takeQuench_frame
                                                          | apply modMold_frame | apply modPower_frame
                                                              | apply modCache_frame); decide)
    | with_reducible apply Frame.ite
    | (extract_lets +onlyGivenNames x; clear_value (e : x = _); apply Frame.cut x; (subst e); rotate_left;
       (intro h); (clear e); rotate_right)
    | extract_lets +onlyGivenNames y
    | split
    | (with_reducible apply Frame.foldlPair; rotate_left; intro u x; (try dsimp -zeta -proj -eta only); rotate_right)
    | (with_reducible apply Frame.foldl; rotate_left; intro u x; (try dsimp -zeta -proj -eta only); rotate_right)
    | fail_if_no_progress (apply Frame.via; with_reducible (first | apply Frame.grid | apply Frame.sched
                                                                  | apply Frame.burnish | apply Frame.dev); decide)
    | fail_if_no_progress (dsimp +zetaDelta -zeta -proj -eta only)
    | fail_if_no_progress (dsimp -zeta -eta only)

theorem doControllerEnable_frame :
    ∀ x0 x1 x2 x3 s, Frame [.ctrls] s (doControllerEnable x0 x1 x2 x3 s) := by
  intro x0 x1 x2 x3 s
  unfold doControllerEnable
  repeat' first
    | with_reducible apply Frame.refl
    | (apply Frame.via; with_reducible apply modCtrl_frame; decide)
    | with_reducible apply Frame.ite

theorem doControllerReset_frame :
    ∀ x0 s, Frame [.power, .ctrls, .mold, .sched, .engines, .mem, .cache, .search, .benches, .flash] s
        (doControllerReset x0 s) := by
  intro x0 s
  unfold doControllerReset
  repeat' first
    | with_reducible apply Frame.refl
    | with_reducible assumption
    | (apply Frame.via; with_reducible apply dropController_frame; decide)
    | with_reducible apply Frame.ite
    | (extract_lets +onlyGivenNames x; clear_value (e : x = _); apply Frame.cut x; (subst e); rotate_left;
       (intro h); (clear e); rotate_right)
    | extract_lets +onlyGivenNames y
    | split
    | (with_reducible apply Frame.foldlPair; rotate_left; intro u x; (try dsimp -zeta -proj -eta only); rotate_right)
    | (with_reducible apply Frame.foldl; rotate_left; intro u x; (try dsimp -zeta -proj -eta only); rotate_right)
    | fail_if_no_progress (dsimp +zetaDelta -zeta -proj -eta only)
    | fail_if_no_progress (dsimp -zeta -eta only)

theorem doControllerShutdown_frame :
    ∀ x0 x1 s, Frame [.ctrls, .sched, .mem, .cache, .ingots, .search, .benches, .flash, .errors, .out, .free] s
        (doControllerShutdown x0 x1 s) := by
  intro x0 x1 s
  unfold doControllerShutdown
  repeat' first
    | with_reducible apply Frame.refl
    | (apply Frame.via; with_reducible (first | apply writeBackAll_frame | apply finishObjects_frame
                                              | apply quenchController_frame | apply modCtrl_frame); decide)
    | with_reducible apply Frame.ite

theorem writeCc_frame :
    ∀ s x1 x2, Frame [.power, .ctrls, .mold, .sched, .engines, .mem, .cache, .ingots, .search, .benches, .flash,
                      .errors, .out, .free] s (State.writeCc s x1 x2) := by
  intro s x1 x2
  unfold State.writeCc
  repeat' first
    | with_reducible apply Frame.refl
    | (apply Frame.via; with_reducible (first | apply doControllerShutdown_frame | apply doControllerReset_frame
                                              | apply doControllerEnable_frame | apply modCtrl_frame); decide)
    | with_reducible apply Frame.ite

theorem doMsixUnmask_frame :
    ∀ x0 x1 s, Frame [.ctrls, .out] s (doMsixUnmask x0 x1 s) := by
  intro x0 x1 s
  unfold doMsixUnmask
  repeat' first
    | with_reducible apply Frame.refl
    | (apply Frame.via; with_reducible (first | apply msixFlush_frame | apply modCtrl_frame); decide)

theorem writeMsix_frame :
    ∀ s x1 x2 x3, Frame [.ctrls, .out] s (State.writeMsix s x1 x2 x3) := by
  intro s x1 x2 x3
  unfold State.writeMsix
  repeat' first
    | with_reducible apply Frame.refl
    | (apply Frame.via; with_reducible (first | apply doMsixUnmask_frame | apply modCtrl_frame); decide)
    | split

theorem doCqDoorbell_frame :
    ∀ x0 x1 x2 s, Frame [.ctrls, .out] s (doCqDoorbell x0 x1 x2 s) := by
  intro x0 x1 x2 s
  unfold doCqDoorbell
  repeat' first
    | with_reducible apply Frame.refl
    | (apply Frame.via; with_reducible (first | apply drainCq_frame | apply modCtrl_frame); decide)
    | split

theorem doSqDoorbell_frame :
    ∀ x0 x1 x2 s, Frame [.power, .ctrls] s (doSqDoorbell x0 x1 x2 s) := by
  intro x0 x1 x2 s
  unfold doSqDoorbell
  repeat' first
    | with_reducible apply Frame.refl
    | (apply Frame.via; with_reducible (first | apply wakeForIo_frame | apply modCtrl_frame); decide)
    | with_reducible apply Frame.ite
    | split

theorem writeBar0_frame :
    ∀ s x1 x2 x3, Frame [.power, .ctrls, .mold, .sched, .engines, .mem, .cache, .ingots, .search, .benches, .flash,
                         .errors, .out, .free] s (State.writeBar0 s x1 x2 x3) := by
  intro s x1 x2 x3
  unfold State.writeBar0
  repeat' first
    | with_reducible apply Frame.refl
    | (apply Frame.via; with_reducible (first | apply doSqDoorbell_frame | apply doCqDoorbell_frame
                                              | apply writeMsix_frame | apply writeCc_frame | apply modCtrl_frame);
                                                  decide)
    | split

theorem writeBar2_frame :
    ∀ s x1 x2 x3, Frame [.power, .mold, .grid, .sched, .engines, .mem, .cache, .benches, .flash, .links, .errors,
                         .burnish, .dev] s (State.writeBar2 s x1 x2 x3) := by
  intro s x1 x2 x3
  unfold State.writeBar2
  repeat' first
    | with_reducible apply Frame.refl
    | with_reducible assumption
    | (apply Frame.via; with_reducible (first | apply write4_frame | apply badAccess_frame); decide)
    | with_reducible apply Frame.ite
    | (extract_lets +onlyGivenNames x; clear_value (e : x = _); apply Frame.cut x; (subst e); rotate_left;
       (intro h); (clear e); rotate_right)
    | extract_lets +onlyGivenNames y
    | split
    | (with_reducible apply Frame.foldlPair; rotate_left; intro u x; (try dsimp -zeta -proj -eta only); rotate_right)
    | (with_reducible apply Frame.foldl; rotate_left; intro u x; (try dsimp -zeta -proj -eta only); rotate_right)
    | fail_if_no_progress (dsimp +zetaDelta -zeta -proj -eta only)
    | fail_if_no_progress (dsimp -zeta -eta only)

theorem writeLast_frame :
    ∀ s x1 x2 x3, Frame [.engines] s (State.writeLast s x1 x2 x3) := by
  intro s x1 x2 x3
  unfold State.writeLast
  repeat' first
    | with_reducible apply Frame.refl
    | (apply Frame.via; with_reducible apply modEngine_frame; decide)

theorem writeMsixControl_frame :
    ∀ s x1 x2, Frame [.ctrls, .out] s (State.writeMsixControl s x1 x2) := by
  intro s x1 x2
  unfold State.writeMsixControl
  repeat' first
    | with_reducible apply Frame.refl
    | (apply Frame.via; with_reducible (first | apply doMsixUnmask_frame | apply modCtrl_frame); decide)
    | with_reducible apply Frame.ite

theorem doPwtAddr_frame :
    ∀ x0 x1 s, Frame [.ctrls, .pewter, .errors, .out] s (doPwtAddr x0 x1 s) := by
  intro x0 x1 s
  unfold doPwtAddr
  repeat' first
    | with_reducible apply Frame.refl
    | (apply Frame.via; with_reducible (first | apply pwtLockout_frame | apply pwtArm_frame); decide)
    | (with_reducible apply pwtWrite_frame; rotate_left; decide; intro u; (try dsimp -zeta -proj -eta only))
    | with_reducible apply Frame.ite
    | split
    | fail_if_no_progress (apply Frame.via; with_reducible apply Frame.pewter; decide)

theorem doEraseResume_frame :
    ∀ s, Frame [.pewter] s (doEraseResume s) := by
  intro s
  unfold doEraseResume
  repeat' first
    | with_reducible apply Frame.refl
    | (apply Frame.via; with_reducible apply pwtRefuse_frame; decide)
    | split
    | fail_if_no_progress (apply Frame.via; with_reducible apply Frame.pewter; decide)

theorem doEraseSuspend_frame :
    ∀ s, Frame [.pewter] s (doEraseSuspend s) := by
  intro s
  unfold doEraseSuspend
  repeat' first
    | with_reducible apply Frame.refl
    | (apply Frame.via; with_reducible apply pwtRefuse_frame; decide)
    | split
    | fail_if_no_progress (apply Frame.via; with_reducible apply Frame.pewter; decide)

theorem doPwtCmd_frame :
    ∀ x0 x1 s, Frame [.ctrls, .pewter, .errors, .out] s (doPwtCmd x0 x1 s) := by
  intro x0 x1 s
  unfold doPwtCmd
  repeat' first
    | with_reducible apply Frame.refl
    | (apply Frame.via; with_reducible (first | apply doEraseSuspend_frame | apply doEraseResume_frame
                                              | apply pwtRefuse_frame | apply pwtLockout_frame); decide)
    | (with_reducible apply pwtWrite_frame; rotate_left; decide; intro u; (try dsimp -zeta -proj -eta only))
    | with_reducible apply Frame.ite
    | fail_if_no_progress (apply Frame.via; with_reducible apply Frame.pewter; decide)

theorem doPwtData_frame :
    ∀ x0 x1 s, Frame [.ctrls, .pewter, .errors, .out] s (doPwtData x0 x1 s) := by
  intro x0 x1 s
  unfold doPwtData
  repeat' first
    | with_reducible apply Frame.refl
    | (apply Frame.via; with_reducible (first | apply pwtLockout_frame | apply pwtArm_frame); decide)
    | (with_reducible apply pwtWrite_frame; rotate_left; decide; intro u; (try dsimp -zeta -proj -eta only))
    | with_reducible apply Frame.ite
    | split
    | fail_if_no_progress (apply Frame.via; with_reducible apply Frame.pewter; decide)

theorem doPwtUnlock_frame :
    ∀ x0 s, Frame [.ctrls, .pewter, .errors, .out] s (doPwtUnlock x0 s) := by
  intro x0 s
  unfold doPwtUnlock
  repeat' first
    | with_reducible apply Frame.refl
    | (apply Frame.via; with_reducible (first | apply pwtSeq_frame | apply pwtLockout_frame); decide)
    | (with_reducible apply pwtWrite_frame; rotate_left; decide; intro u; (try dsimp -zeta -proj -eta only))
    | split

theorem writePwt_frame :
    ∀ s x1 x2 x3, Frame [.ctrls, .pewter, .errors, .out] s (State.writePwt s x1 x2 x3) := by
  intro s x1 x2 x3
  unfold State.writePwt
  repeat' first
    | with_reducible apply Frame.refl
    | (apply Frame.via; with_reducible (first | apply doPwtUnlock_frame | apply doPwtData_frame
                                              | apply doPwtCmd_frame | apply doPwtAddr_frame); decide)
    | split
    | fail_if_no_progress (apply Frame.via; with_reducible apply Frame.pewter; decide)

theorem doAbort_frame :
    ∀ x0 s, Frame [.ctrls, .out] s (doAbort x0 s) := by
  intro x0 s
  unfold doAbort
  repeat' first
    | with_reducible apply Frame.refl
    | (apply Frame.via; with_reducible (first | apply success_frame | apply abortLimit_frame); decide)
    | with_reducible apply Frame.ite

theorem doAer_frame :
    ∀ x0 s, Frame [.ctrls, .out] s (doAer x0 s) := by
  intro x0 s
  unfold doAer
  repeat' first
    | with_reducible apply Frame.refl
    | (apply Frame.via; with_reducible (first | apply success_frame | apply nvme_frame | apply modCtrl_frame); decide)
    | extract_lets +onlyGivenNames y
    | split

theorem doApstExpiry_frame :
    ∀ s, Frame [.power, .sched, .engines, .mem, .cache, .search, .benches, .flash] s (doApstExpiry s) := by
  intro s
  unfold doApstExpiry
  repeat' first
    | with_reducible apply Frame.refl
    | with_reducible assumption
    | (apply Frame.via; with_reducible apply enterPower_frame; decide)
    | with_reducible apply Frame.ite
    | (extract_lets +onlyGivenNames x; clear_value (e : x = _); apply Frame.cut x; (subst e); rotate_left;
       (intro h); (clear e); rotate_right)
    | extract_lets +onlyGivenNames y
    | split
    | (with_reducible apply Frame.foldlPair; rotate_left; intro u x; (try dsimp -zeta -proj -eta only); rotate_right)
    | (with_reducible apply Frame.foldl; rotate_left; intro u x; (try dsimp -zeta -proj -eta only); rotate_right)
    | fail_if_no_progress (dsimp +zetaDelta -zeta -proj -eta only)
    | fail_if_no_progress (dsimp -zeta -eta only)

theorem doArrayLastWrite_frame :
    ∀ x0 s, Frame [.ctrls, .sched, .engines, .mem, .cache, .search, .benches, .errors, .out] s
        (doArrayLastWrite x0 s) := by
  intro x0 s
  unfold doArrayLastWrite
  repeat' first
    | with_reducible apply Frame.refl
    | (apply Frame.via; with_reducible (first | apply writeLast_frame | apply healDrain_frame
                                              | apply scratchUe_frame); decide)
    | extract_lets +onlyGivenNames y
    | split

theorem doAutoBurnishStart_frame :
    ∀ x0 s, Frame [.errors, .burnish] s (doAutoBurnishStart x0 s) := by
  intro x0 s
  unfold doAutoBurnishStart
  repeat' first
    | with_reducible apply Frame.refl
    | with_reducible apply Frame.ite
    | split
    | fail_if_no_progress (apply Frame.via; with_reducible (first | apply Frame.errors | apply Frame.burnish); decide)

theorem doBadAccess_frame :
    ∀ x0 x1 x2 s, Frame [.dev, .out] s (doBadAccess x0 x1 x2 s) := by
  intro x0 x1 x2 s
  unfold doBadAccess
  repeat' first
    | with_reducible apply Frame.refl
    | (apply Frame.via; with_reducible (first | apply sendWord_frame | apply badAccess_frame); decide)
    | with_reducible apply Frame.ite

theorem doBatchVectorsReturn_frame :
    ∀ x0 x1 x2 s, Frame [.sched, .mem, .cache, .search, .benches, .flash] s (doBatchVectorsReturn x0 x1 x2 s) := by
  intro x0 x1 x2 s
  unfold doBatchVectorsReturn
  repeat' first
    | with_reducible apply Frame.refl
    | (apply Frame.via; with_reducible (first | apply takeVector_frame | apply chargeWork_frame
                                              | apply modBench_frame); decide)
    | split
    | (with_reducible apply Frame.foldl; rotate_left; intro u x; (try dsimp -zeta -proj -eta only); rotate_right)

theorem doBenchPreempt_frame :
    ∀ x0 s, Frame [.sched, .benches, .free] s (doBenchPreempt x0 s) := by
  intro x0 s
  unfold doBenchPreempt
  repeat' first
    | with_reducible apply Frame.refl
    | with_reducible assumption
    | (apply Frame.via; with_reducible (first | apply drainBench_frame | apply startNextBench_frame); decide)
    | with_reducible apply Frame.ite
    | (extract_lets +onlyGivenNames x; clear_value (e : x = _); apply Frame.cut x; (subst e); rotate_left;
       (intro h); (clear e); rotate_right)
    | extract_lets +onlyGivenNames y
    | split
    | (with_reducible apply Frame.foldlPair; rotate_left; intro u x; (try dsimp -zeta -proj -eta only); rotate_right)
    | (with_reducible apply Frame.foldl; rotate_left; intro u x; (try dsimp -zeta -proj -eta only); rotate_right)
    | fail_if_no_progress (dsimp +zetaDelta -zeta -proj -eta only)
    | fail_if_no_progress (dsimp -zeta -eta only)

theorem doBlockEraseStart_frame :
    ∀ x0 x1 s, Frame [.flash] s (doBlockEraseStart x0 x1 s) := by
  intro x0 x1 s
  unfold doBlockEraseStart
  repeat' first
    | with_reducible apply Frame.refl
    | (apply Frame.via; with_reducible apply modFlash_frame; decide)
    | with_reducible apply Frame.ite

theorem doBlockRefresh_frame :
    ∀ x0 x1 s, Frame [.mem, .cache, .search, .flash] s (doBlockRefresh x0 x1 s) := by
  intro x0 x1 s
  unfold doBlockRefresh
  repeat' first
    | with_reducible apply Frame.refl
    | (apply Frame.via; with_reducible (first | apply moveTo_frame | apply modFlash_frame); decide)
    | with_reducible apply Frame.ite

theorem doBr_frame :
    ∀ x0 x1 x2 s, Frame [.engines, .free] s (doBr x0 x1 x2 s) := by
  intro x0 x1 x2 s
  unfold doBr
  repeat' first
    | with_reducible apply Frame.refl
    | (apply Frame.via; with_reducible (first | apply modEngine_frame | apply fresh_frame); decide)
    | split

theorem doBrakeAssert_frame :
    ∀ s, Frame [.power, .ctrls, .sched, .out] s (doBrakeAssert s) := by
  intro s
  unfold doBrakeAssert
  repeat' first
    | with_reducible apply Frame.refl
    | with_reducible assumption
    | (apply Frame.via; with_reducible (first | apply capFall_frame | apply evalC0_frame | apply modPower_frame
                                              | apply signal_frame); decide)
    | with_reducible apply Frame.ite
    | (extract_lets +onlyGivenNames x; clear_value (e : x = _); apply Frame.cut x; (subst e); rotate_left;
       (intro h); (clear e); rotate_right)
    | extract_lets +onlyGivenNames y
    | split
    | (with_reducible apply Frame.foldlPair; rotate_left; intro u x; (try dsimp -zeta -proj -eta only); rotate_right)
    | (with_reducible apply Frame.foldl; rotate_left; intro u x; (try dsimp -zeta -proj -eta only); rotate_right)
    | fail_if_no_progress (dsimp +zetaDelta -zeta -proj -eta only)
    | fail_if_no_progress (dsimp -zeta -eta only)

theorem doBurnish_frame :
    ∀ x0 s, Frame [.ctrls, .burnish, .out] s (doBurnish x0 s) := by
  intro x0 s
  unfold doBurnish
  repeat' first
    | with_reducible apply Frame.refl
    | (apply Frame.via; with_reducible apply refuse_frame; decide)
    | split
    | fail_if_no_progress (apply Frame.via; with_reducible apply Frame.burnish; decide)

theorem doBurnishComplete_frame :
    ∀ x0 x1 s, Frame [.ctrls, .mem, .errors, .burnish, .out] s (doBurnishComplete x0 x1 s) := by
  intro x0 x1 s
  unfold doBurnishComplete
  repeat' first
    | with_reducible apply Frame.refl
    | (apply Frame.via; with_reducible (first | apply burnEffects_frame | apply success_frame | apply report_frame);
       decide)
    | split
    | fail_if_no_progress (apply Frame.via; with_reducible apply Frame.burnish; decide)

theorem doCapacitanceCheck_frame :
    ∀ x0 s, Frame [.power, .ctrls, .errors, .out] s (doCapacitanceCheck x0 s) := by
  intro x0 s
  unfold doCapacitanceCheck
  repeat' first
    | with_reducible apply Frame.refl
    | (apply Frame.via; with_reducible (first | apply holdupUpdate_frame | apply reportGeneral_frame
                                              | apply modPower_frame); decide)
    | (with_reducible apply withSmart_frame; rotate_left; decide; (try dsimp -zeta -proj -eta only))
    | with_reducible apply Frame.ite

theorem doCeWindowStart_frame :
    ∀ s, Frame [.errors] s (doCeWindowStart s) := by
  intro s
  unfold doCeWindowStart
  repeat' first
    | with_reducible apply Frame.refl
    | with_reducible apply Frame.ite
    | fail_if_no_progress (apply Frame.via; with_reducible apply Frame.errors; decide)

theorem doChannelDieFailed_frame :
    ∀ x0 s, Frame [.ctrls, .sched, .engines, .mem, .cache, .search, .benches, .flash, .links, .errors, .out] s
        (doChannelDieFailed x0 s) := by
  intro x0 s
  unfold doChannelDieFailed
  repeat' first
    | with_reducible apply Frame.refl
    | (apply Frame.via; with_reducible (first | apply setLink_frame | apply benchDies_frame
                                              | apply reportGeneral_frame); decide)
    | (with_reducible apply withSmart_frame; rotate_left; decide; (try dsimp -zeta -proj -eta only))
    | with_reducible apply Frame.ite
    | (with_reducible apply Frame.foldl; rotate_left; intro u x; (try dsimp -zeta -proj -eta only); rotate_right)

theorem doCodePhase_frame :
    ∀ x0 x1 x2 s, Frame [.sched, .search, .benches] s (doCodePhase x0 x1 x2 s) := by
  intro x0 x1 x2 s
  unfold doCodePhase
  repeat' first
    | with_reducible apply Frame.refl
    | (apply Frame.via; with_reducible (first | apply markPartial_frame | apply modBench_frame
                                              | apply charge_frame); decide)
    | split
    | (with_reducible apply Frame.foldl; rotate_left; intro u x; (try dsimp -zeta -proj -eta only); rotate_right)
    | fail_if_no_progress (apply Frame.via; with_reducible apply Frame.search; decide)

theorem doConsolidation_frame :
    ∀ x0 x1 x2 s, Frame [.mem, .cache, .search, .flash] s (doConsolidation x0 x1 x2 s) := by
  intro x0 x1 x2 s
  unfold doConsolidation
  repeat' first
    | with_reducible apply Frame.refl
    | with_reducible assumption
    | (apply Frame.via; with_reducible apply moveTo_frame; decide)
    | with_reducible apply Frame.ite
    | (extract_lets +onlyGivenNames x; clear_value (e : x = _); apply Frame.cut x; (subst e); rotate_left;
       (intro h); (clear e); rotate_right)
    | extract_lets +onlyGivenNames y
    | split
    | (with_reducible apply Frame.foldlPair; rotate_left; intro u x; (try dsimp -zeta -proj -eta only); rotate_right)
    | (with_reducible apply Frame.foldl; rotate_left; intro u x; (try dsimp -zeta -proj -eta only); rotate_right)
    | fail_if_no_progress (dsimp +zetaDelta -zeta -proj -eta only)
    | fail_if_no_progress (dsimp -zeta -eta only)

theorem doContextRestoreDone_frame :
    ∀ x0 s, Frame [.sched, .engines] s (doContextRestoreDone x0 s) := by
  intro x0 s
  unfold doContextRestoreDone
  repeat' first
    | with_reducible apply Frame.refl
    | with_reducible assumption
    | (apply Frame.via; with_reducible (first | apply retryPreempt_frame | apply chargeRun_frame
                                              | apply modEngine_frame); decide)
    | with_reducible apply Frame.ite
    | (extract_lets +onlyGivenNames x; clear_value (e : x = _); apply Frame.cut x; (subst e); rotate_left;
       (intro h); (clear e); rotate_right)
    | extract_lets +onlyGivenNames y
    | split
    | (with_reducible apply Frame.foldlPair; rotate_left; intro u x; (try dsimp -zeta -proj -eta only); rotate_right)
    | (with_reducible apply Frame.foldl; rotate_left; intro u x; (try dsimp -zeta -proj -eta only); rotate_right)
    | fail_if_no_progress (dsimp +zetaDelta -zeta -proj -eta only)
    | fail_if_no_progress (dsimp -zeta -eta only)

theorem doContextSaveDone_frame :
    ∀ x0 s, Frame [.sched, .engines, .mem, .cache, .free] s (doContextSaveDone x0 s) := by
  intro x0 s
  unfold doContextSaveDone
  repeat' first
    | with_reducible apply Frame.refl
    | with_reducible assumption
    | (apply Frame.via; with_reducible (first | apply saveEngine_frame | apply startNext_frame
                                              | apply chargeRun_frame | apply modEngine_frame); decide)
    | with_reducible apply Frame.ite
    | (extract_lets +onlyGivenNames x; clear_value (e : x = _); apply Frame.cut x; (subst e); rotate_left;
       (intro h); (clear e); rotate_right)
    | extract_lets +onlyGivenNames y
    | split
    | (with_reducible apply Frame.foldlPair; rotate_left; intro u x; (try dsimp -zeta -proj -eta only); rotate_right)
    | (with_reducible apply Frame.foldl; rotate_left; intro u x; (try dsimp -zeta -proj -eta only); rotate_right)
    | fail_if_no_progress (dsimp +zetaDelta -zeta -proj -eta only)
    | fail_if_no_progress (dsimp -zeta -eta only)

theorem doControllerReady_frame :
    ∀ x0 s, Frame [.ctrls] s (doControllerReady x0 s) := by
  intro x0 s
  unfold doControllerReady
  repeat' first
    | with_reducible apply Frame.refl
    | (apply Frame.via; with_reducible apply modCtrl_frame; decide)
    | with_reducible apply Frame.ite

theorem doCreateIoCq_frame :
    ∀ x0 s, Frame [.ctrls, .out] s (doCreateIoCq x0 s) := by
  intro x0 s
  unfold doCreateIoCq
  repeat' first
    | with_reducible apply Frame.refl
    | (apply Frame.via; with_reducible (first | apply vectorInvalid_frame | apply queueSizeInvalid_frame
                                              | apply queueIdInvalid_frame | apply nvmeInvalidField_frame
                                                  | apply success_frame | apply modCtrl_frame); decide)
    | with_reducible apply Frame.ite

theorem doCreateIoSq_frame :
    ∀ x0 s, Frame [.ctrls, .out] s (doCreateIoSq x0 s) := by
  intro x0 s
  unfold doCreateIoSq
  repeat' first
    | with_reducible apply Frame.refl
    | (apply Frame.via; with_reducible (first | apply queueSizeInvalid_frame | apply queueIdInvalid_frame
                                              | apply nvmeInvalidField_frame | apply cqInvalid_frame
                                                  | apply success_frame | apply modCtrl_frame); decide)
    | with_reducible apply Frame.ite

theorem doCustodianFrame_frame :
    ∀ x0 s, Frame [.ctrls, .errors, .sec, .out] s (doCustodianFrame x0 s) := by
  intro x0 s
  unfold doCustodianFrame
  repeat' first
    | with_reducible apply Frame.refl
    | (apply Frame.via; with_reducible apply acceptMessage_frame; decide)
    | extract_lets +onlyGivenNames y
    | split
    | fail_if_no_progress (apply Frame.via; with_reducible apply Frame.sec; decide)

theorem doDbgToken_frame :
    ∀ x0 s, Frame [.ctrls, .errors, .sec, .out, .free] s (doDbgToken x0 s) := by
  intro x0 s
  unfold doDbgToken
  repeat' first
    | with_reducible apply Frame.refl
    | (apply Frame.via; with_reducible (first | apply fresh256_frame | apply reportSecurity_frame
                                              | apply emit_frame); decide)
    | with_reducible apply Frame.ite
    | fail_if_no_progress (apply Frame.via; with_reducible apply Frame.sec; decide)

theorem doDeleteIoCq_frame :
    ∀ x0 s, Frame [.ctrls, .out] s (doDeleteIoCq x0 s) := by
  intro x0 s
  unfold doDeleteIoCq
  repeat' first
    | with_reducible apply Frame.refl
    | (apply Frame.via; with_reducible (first | apply queueIdInvalid_frame | apply queueDeletionInvalid_frame
                                              | apply success_frame | apply modCtrl_frame); decide)
    | with_reducible apply Frame.ite

theorem doDeleteIoSq_frame :
    ∀ x0 s, Frame [.ctrls, .out] s (doDeleteIoSq x0 s) := by
  intro x0 s
  unfold doDeleteIoSq
  repeat' first
    | with_reducible apply Frame.refl
    | (apply Frame.via; with_reducible (first | apply queueIdInvalid_frame | apply success_frame
                                              | apply modCtrl_frame); decide)
    | with_reducible apply Frame.ite

theorem doDirtyWriteResume_frame :
    ∀ x0 s, Frame [.mem, .cache, .search, .flash] s (doDirtyWriteResume x0 s) := by
  intro x0 s
  unfold doDirtyWriteResume
  repeat' first
    | with_reducible apply Frame.refl
    | (apply Frame.via; with_reducible (first | apply granuleHome_frame | apply dirtyWrite_frame
                                              | apply modCache_frame); decide)
    | with_reducible apply Frame.ite
    | split

theorem doDqTraining_frame :
    ∀ x0 x1 x2 s, Frame [.ctrls, .mem, .cache, .search, .flash, .errors, .out] s (doDqTraining x0 x1 x2 s) := by
  intro x0 x1 x2 s
  unfold doDqTraining
  repeat' first
    | with_reducible apply Frame.refl
    | with_reducible assumption
    | (apply Frame.via; with_reducible (first | apply failDie_frame | apply modFlash_frame); decide)
    | with_reducible apply Frame.ite
    | (extract_lets +onlyGivenNames x; clear_value (e : x = _); apply Frame.cut x; (subst e); rotate_left;
       (intro h); (clear e); rotate_right)
    | extract_lets +onlyGivenNames y
    | split
    | (with_reducible apply Frame.foldlPair; rotate_left; intro u x; (try dsimp -zeta -proj -eta only); rotate_right)
    | (with_reducible apply Frame.foldl; rotate_left; intro u x; (try dsimp -zeta -proj -eta only); rotate_right)
    | fail_if_no_progress (dsimp +zetaDelta -zeta -proj -eta only)
    | fail_if_no_progress (dsimp -zeta -eta only)

theorem doEmergencyEnd_frame :
    ∀ s, Frame [.power] s (doEmergencyEnd s) := by
  intro s
  unfold doEmergencyEnd
  repeat' first
    | with_reducible apply Frame.refl
    | (apply Frame.via; with_reducible apply modPower_frame; decide)
    | with_reducible apply Frame.ite

theorem doEraseSuspendComplete_frame :
    ∀ s, Frame [.pewter] s (doEraseSuspendComplete s) := by
  intro s
  unfold doEraseSuspendComplete
  repeat' first
    | with_reducible apply Frame.refl
    | with_reducible apply Frame.ite
    | fail_if_no_progress (apply Frame.via; with_reducible apply Frame.pewter; decide)

theorem doFeederFill_frame :
    ∀ x0 x1 s, Frame [.ctrls, .sched, .engines, .mem, .cache, .search, .benches, .errors, .out] s
        (doFeederFill x0 x1 s) := by
  intro x0 x1 s
  unfold doFeederFill
  repeat' first
    | with_reducible apply Frame.refl
    | (apply Frame.via; with_reducible (first | apply scratchUe_frame | apply modEngine_frame); decide)
    | with_reducible apply Frame.ite
    | split

theorem doFence_frame :
    ∀ x0 s, Frame [.engines] s (doFence x0 s) := by
  intro x0 s
  unfold doFence
  repeat' first
    | with_reducible apply Frame.refl
    | (apply Frame.via; with_reducible apply nextWord_frame; decide)
    | split

theorem doFetchPhase_frame :
    ∀ x0 x1 x2 x3 s, Frame [.sched, .search] s (doFetchPhase x0 x1 x2 x3 s) := by
  intro x0 x1 x2 x3 s
  unfold doFetchPhase
  repeat' first
    | with_reducible apply Frame.refl
    | (apply Frame.via; with_reducible (first | apply markPartial_frame | apply leaveBench_frame
                                              | apply charge_frame | apply modJob_frame); decide)
    | with_reducible apply Frame.ite
    | split

theorem doFetched_frame :
    ∀ x0 s, Frame [.power, .ctrls, .out] s (doFetched x0 s) := by
  intro x0 s
  unfold doFetched
  repeat' first
    | with_reducible apply Frame.refl
    | (apply Frame.via; with_reducible (first | apply wakeForIo_frame | apply invalidOpcode_frame
                                              | apply modCtrl_frame); decide)
    | extract_lets +onlyGivenNames y
    | split

theorem doFlr_frame :
    ∀ x0 s, Frame [.power, .ctrls, .mold, .sched, .engines, .mem, .cache, .search, .benches, .flash] s
        (doFlr x0 s) := by
  intro x0 s
  unfold doFlr
  repeat' first
    | with_reducible apply Frame.refl
    | with_reducible assumption
    | (apply Frame.via; with_reducible apply dropController_frame; decide)
    | with_reducible apply Frame.ite
    | (extract_lets +onlyGivenNames x; clear_value (e : x = _); apply Frame.cut x; (subst e); rotate_left;
       (intro h); (clear e); rotate_right)
    | extract_lets +onlyGivenNames y
    | split
    | (with_reducible apply Frame.foldlPair; rotate_left; intro u x; (try dsimp -zeta -proj -eta only); rotate_right)
    | (with_reducible apply Frame.foldl; rotate_left; intro u x; (try dsimp -zeta -proj -eta only); rotate_right)
    | fail_if_no_progress (dsimp +zetaDelta -zeta -proj -eta only)
    | fail_if_no_progress (dsimp -zeta -eta only)

theorem doFold_frame :
    ∀ x0 s, Frame [.mem, .cache, .search, .flash] s (doFold x0 s) := by
  intro x0 s
  unfold doFold
  repeat' first
    | with_reducible apply Frame.refl
    | (apply Frame.via; with_reducible (first | apply moveTo_frame | apply modFlash_frame); decide)
    | extract_lets +onlyGivenNames y
    | split

theorem doGarbageCollection_frame :
    ∀ x0 s, Frame [.mem, .cache, .search, .flash] s (doGarbageCollection x0 s) := by
  intro x0 s
  unfold doGarbageCollection
  repeat' first
    | with_reducible apply Frame.refl
    | with_reducible assumption
    | (apply Frame.via; with_reducible (first | apply storeTables_frame | apply moveTo_frame); decide)
    | with_reducible apply Frame.ite
    | (extract_lets +onlyGivenNames x; clear_value (e : x = _); apply Frame.cut x; (subst e); rotate_left;
       (intro h); (clear e); rotate_right)
    | extract_lets +onlyGivenNames y
    | split
    | (with_reducible apply Frame.foldlPair; rotate_left; intro u x; (try dsimp -zeta -proj -eta only); rotate_right)
    | (with_reducible apply Frame.foldl; rotate_left; intro u x; (try dsimp -zeta -proj -eta only); rotate_right)
    | fail_if_no_progress (dsimp +zetaDelta -zeta -proj -eta only)
    | fail_if_no_progress (dsimp -zeta -eta only)

theorem doGetFeatures_frame :
    ∀ x0 s, Frame [.ctrls, .out] s (doGetFeatures x0 s) := by
  intro x0 s
  unfold doGetFeatures
  repeat' first
    | with_reducible apply Frame.refl
    | (apply Frame.via; with_reducible (first | apply nvmeInvalidField_frame | apply success_frame); decide)
    | split

theorem doGetLogPage_frame :
    ∀ x0 x1 s, Frame [.ctrls, .out] s (doGetLogPage x0 x1 s) := by
  intro x0 x1 s
  unfold doGetLogPage
  repeat' first
    | with_reducible apply Frame.refl
    | (apply Frame.via; with_reducible (first | apply nvmeInvalidField_frame | apply sendData_frame
                                              | apply refuse_frame | apply modCtrl_frame); decide)
    | with_reducible apply Frame.ite
    | split

theorem doGranuleReloadDone_frame :
    ∀ x0 x1 x2 s, Frame [.ctrls, .sched, .engines, .mem, .search, .errors, .out] s
        (doGranuleReloadDone x0 x1 x2 s) := by
  intro x0 x1 x2 s
  unfold doGranuleReloadDone
  repeat' first
    | with_reducible apply Frame.refl
    | with_reducible assumption
    | (apply Frame.via; with_reducible (first | apply waitedNp_frame | apply memoryReport_frame
                                              | apply markUnbound_frame); decide)
    | with_reducible apply Frame.ite
    | (extract_lets +onlyGivenNames x; clear_value (e : x = _); apply Frame.cut x; (subst e); rotate_left;
       (intro h); (clear e); rotate_right)
    | extract_lets +onlyGivenNames y
    | split
    | (with_reducible apply Frame.foldlPair; rotate_left; intro u x; (try dsimp -zeta -proj -eta only); rotate_right)
    | (with_reducible apply Frame.foldl; rotate_left; intro u x; (try dsimp -zeta -proj -eta only); rotate_right)
    | fail_if_no_progress (apply Frame.via; with_reducible apply Frame.mem; decide)
    | fail_if_no_progress (dsimp +zetaDelta -zeta -proj -eta only)
    | fail_if_no_progress (dsimp -zeta -eta only)

theorem doGraphRepair_frame :
    ∀ x0 s, Frame [.mem, .cache, .search, .benches, .flash] s (doGraphRepair x0 s) := by
  intro x0 s
  unfold doGraphRepair
  repeat' first
    | with_reducible apply Frame.refl
    | with_reducible assumption
    | (apply Frame.via; with_reducible (first | apply freeList_frame | apply modList_frame
                                              | apply dirtyThrough_frame | apply modColl_frame); decide)
    | with_reducible apply Frame.ite
    | (extract_lets +onlyGivenNames x; clear_value (e : x = _); apply Frame.cut x; (subst e); rotate_left;
       (intro h); (clear e); rotate_right)
    | extract_lets +onlyGivenNames y
    | split
    | (with_reducible apply Frame.foldlPair; rotate_left; intro u x; (try dsimp -zeta -proj -eta only); rotate_right)
    | (with_reducible apply Frame.foldl; rotate_left; intro u x; (try dsimp -zeta -proj -eta only); rotate_right)
    | (refine Frame.via ((dirtyThrough_frame _ _ _ _).of_eq (congrArg Prod.fst (by assumption))) (by decide) ?_)
    | fail_if_no_progress (apply Frame.via; with_reducible apply Frame.search; decide)
    | fail_if_no_progress (dsimp +zetaDelta -zeta -proj -eta only)
    | fail_if_no_progress (dsimp -zeta -eta only)

theorem doGraphWalkComplete_frame :
    ∀ x0 x1 s, Frame [.sched, .engines, .mem, .cache, .search, .benches, .free] s (doGraphWalkComplete x0 x1 s) := by
  intro x0 x1 s
  unfold doGraphWalkComplete
  repeat' first
    | with_reducible apply Frame.refl
    | (apply Frame.via; with_reducible (first | apply endWith_frame | apply startNext_frame | apply modEngine_frame
                                              | apply charge_frame | apply modJob_frame); decide)
    | split

theorem doGridLock_frame :
    ∀ s, Frame [.grid, .free] s (doGridLock s) := by
  intro s
  unfold doGridLock
  repeat' first
    | with_reducible apply Frame.refl
    | (apply Frame.via; with_reducible (first | apply fresh_frame | apply modGrid_frame); decide)
    | with_reducible apply Frame.ite
    | split

theorem doHallmarkAttest_frame :
    ∀ x0 s, Frame [.ctrls, .pewter, .errors, .sec, .out] s (doHallmarkAttest x0 s) := by
  intro x0 s
  unfold doHallmarkAttest
  repeat' first
    | with_reducible apply Frame.refl
    | (apply Frame.via; with_reducible (first | apply makeAttest_frame | apply refuse_frame); decide)
    | with_reducible apply Frame.ite
    | fail_if_no_progress (apply Frame.via; with_reducible apply Frame.sec; decide)

theorem doHallmarkRebuildDone_frame :
    ∀ s, Frame [.ctrls, .sched, .engines, .mem, .cache, .ingots, .search, .benches, .flash, .pewter, .errors, .sec,
                .out, .free] s (doHallmarkRebuildDone s) := by
  intro s
  unfold doHallmarkRebuildDone
  repeat' first
    | with_reducible apply Frame.refl
    | (apply Frame.via; with_reducible apply serveWaiting_frame; decide)
    | (with_reducible apply Frame.foldl; rotate_left; intro u x; (try dsimp -zeta -proj -eta only); rotate_right)
    | fail_if_no_progress (apply Frame.via; with_reducible apply Frame.sec; decide)

theorem doHallmarkStatus_frame :
    ∀ x0 s, Frame [.ctrls, .out] s (doHallmarkStatus x0 s) := by
  intro x0 s
  unfold doHallmarkStatus
  repeat' first
    | with_reducible apply Frame.refl
    | (apply Frame.via; with_reducible (first | apply success_frame | apply refuse_frame); decide)
    | with_reducible apply Frame.ite

theorem doHitMerge_frame :
    ∀ x0 s, Frame [.sched] s (doHitMerge x0 s) := by
  intro x0 s
  unfold doHitMerge
  repeat' first
    | with_reducible apply Frame.refl
    | (apply Frame.via; with_reducible (first | apply toGate_frame | apply modJob_frame); decide)
    | split

theorem doHoldoverExpiry_frame :
    ∀ s, Frame [.ctrls, .grid, .sched, .out] s (doHoldoverExpiry s) := by
  intro s
  unfold doHoldoverExpiry
  repeat' first
    | with_reducible apply Frame.refl
    | with_reducible assumption
    | (apply Frame.via; with_reducible (first | apply enterFreeRun_frame | apply evalC0_frame); decide)
    | with_reducible apply Frame.ite
    | (extract_lets +onlyGivenNames x; clear_value (e : x = _); apply Frame.cut x; (subst e); rotate_left;
       (intro h); (clear e); rotate_right)
    | extract_lets +onlyGivenNames y
    | split
    | (with_reducible apply Frame.foldlPair; rotate_left; intro u x; (try dsimp -zeta -proj -eta only); rotate_right)
    | (with_reducible apply Frame.foldl; rotate_left; intro u x; (try dsimp -zeta -proj -eta only); rotate_right)
    | fail_if_no_progress (dsimp +zetaDelta -zeta -proj -eta only)
    | fail_if_no_progress (dsimp -zeta -eta only)

theorem doHoldupChange_frame :
    ∀ x0 s, Frame [.power, .ctrls, .out] s (doHoldupChange x0 s) := by
  intro x0 s
  unfold doHoldupChange
  repeat' first
    | with_reducible apply Frame.refl
    | (apply Frame.via; with_reducible (first | apply holdupUpdate_frame | apply modPower_frame); decide)
    | (with_reducible apply withSmart_frame; rotate_left; decide; (try dsimp -zeta -proj -eta only))

theorem doIdentify_frame :
    ∀ x0 s, Frame [.ctrls, .out] s (doIdentify x0 s) := by
  intro x0 s
  unfold doIdentify
  repeat' first
    | with_reducible apply Frame.refl
    | (apply Frame.via; with_reducible (first | apply nvmeInvalidField_frame | apply success_frame); decide)
    | split

theorem doIllegal_frame :
    ∀ x0 x1 s, Frame [.ctrls, .sched, .engines, .mem, .cache, .search, .benches, .errors, .out] s
        (doIllegal x0 x1 s) := by
  intro x0 x1 s
  unfold doIllegal
  repeat' first
    | with_reducible apply Frame.refl
    | (apply Frame.via; with_reducible apply engineFault_frame; decide)
    | split

theorem doIngotDrop_frame :
    ∀ x0 s, Frame [.ctrls, .engines, .mem, .cache, .ingots, .search, .benches, .flash, .out] s
        (doIngotDrop x0 s) := by
  intro x0 s
  unfold doIngotDrop
  repeat' first
    | with_reducible apply Frame.refl
    | with_reducible assumption
    | (apply Frame.via; with_reducible (first | apply stopEmbedding_frame | apply modIngot_frame
                                              | apply dropUnpinned_frame | apply success_frame
                                                  | apply refuse_frame); decide)
    | (with_reducible apply onant_frame; rotate_left; decide; intro u v; (try dsimp -zeta -proj -eta only))
    | with_reducible apply Frame.ite
    | (extract_lets +onlyGivenNames x; clear_value (e : x = _); apply Frame.cut x; (subst e); rotate_left;
       (intro h); (clear e); rotate_right)
    | extract_lets +onlyGivenNames y
    | split
    | (with_reducible apply Frame.foldlPair; rotate_left; intro u x; (try dsimp -zeta -proj -eta only); rotate_right)
    | (with_reducible apply Frame.foldl; rotate_left; intro u x; (try dsimp -zeta -proj -eta only); rotate_right)
    | fail_if_no_progress (dsimp +zetaDelta -zeta -proj -eta only)
    | fail_if_no_progress (dsimp -zeta -eta only)

theorem doIngotLoad_frame :
    ∀ x0 x1 s, Frame [.ctrls, .sched, .mem, .cache, .ingots, .search, .flash, .out] s (doIngotLoad x0 x1 s) := by
  intro x0 x1 s
  unfold doIngotLoad
  repeat' first
    | with_reducible apply Frame.refl
    | with_reducible assumption
    | (apply Frame.via; with_reducible (first | apply takePiece_frame | apply refuse_frame); decide)
    | (with_reducible apply onant_frame; rotate_left; decide; intro u v; (try dsimp -zeta -proj -eta only))
    | with_reducible apply Frame.ite
    | (extract_lets +onlyGivenNames x; clear_value (e : x = _); apply Frame.cut x; (subst e); rotate_left;
       (intro h); (clear e); rotate_right)
    | extract_lets +onlyGivenNames y
    | split
    | (with_reducible apply Frame.foldlPair; rotate_left; intro u x; (try dsimp -zeta -proj -eta only); rotate_right)
    | (with_reducible apply Frame.foldl; rotate_left; intro u x; (try dsimp -zeta -proj -eta only); rotate_right)
    | fail_if_no_progress (dsimp +zetaDelta -zeta -proj -eta only)
    | fail_if_no_progress (dsimp -zeta -eta only)

theorem doIngotRemoved_frame :
    ∀ x0 s, Frame [.engines, .mem, .cache, .ingots, .flash] s (doIngotRemoved x0 s) := by
  intro x0 s
  unfold doIngotRemoved
  repeat' first
    | with_reducible apply Frame.refl
    | (apply Frame.via; with_reducible (first | apply removeIngot_frame | apply dropUnpinned_frame); decide)
    | with_reducible apply Frame.ite

theorem doIngotTimeout_frame :
    ∀ x0 s, Frame [.ctrls, .ingots, .flash, .errors, .out] s (doIngotTimeout x0 s) := by
  intro x0 s
  unfold doIngotTimeout
  repeat' first
    | with_reducible apply Frame.refl
    | (apply Frame.via; with_reducible (first | apply removeIngot_frame | apply reportGeneral_frame); decide)
    | split

theorem doIngotValidation_frame :
    ∀ x0 s, Frame [.ctrls, .sched, .mem, .cache, .ingots, .search, .flash, .out] s (doIngotValidation x0 s) := by
  intro x0 s
  unfold doIngotValidation
  repeat' first
    | with_reducible apply Frame.refl
    | with_reducible assumption
    | (apply Frame.via; with_reducible (first | apply removeIngot_frame | apply storeIngot_frame
                                              | apply modIngot_frame | apply success_frame | apply status_frame);
                                                  decide)
    | with_reducible apply Frame.ite
    | (extract_lets +onlyGivenNames x; clear_value (e : x = _); apply Frame.cut x; (subst e); rotate_left;
       (intro h); (clear e); rotate_right)
    | extract_lets +onlyGivenNames y
    | split
    | (with_reducible apply Frame.foldlPair; rotate_left; intro u x; (try dsimp -zeta -proj -eta only); rotate_right)
    | (with_reducible apply Frame.foldl; rotate_left; intro u x; (try dsimp -zeta -proj -eta only); rotate_right)
    | fail_if_no_progress (dsimp +zetaDelta -zeta -proj -eta only)
    | fail_if_no_progress (dsimp -zeta -eta only)

theorem doInputGood_frame :
    ∀ x0 x1 s, Frame [.power, .clockUs] s (doInputGood x0 x1 s) := by
  intro x0 x1 s
  unfold doInputGood
  repeat' first
    | with_reducible apply Frame.refl
    | with_reducible assumption
    | (apply Frame.via; with_reducible apply modPower_frame; decide)
    | with_reducible apply Frame.ite
    | (extract_lets +onlyGivenNames x; clear_value (e : x = _); apply Frame.cut x; (subst e); rotate_left;
       (intro h); (clear e); rotate_right)
    | extract_lets +onlyGivenNames y
    | split
    | (with_reducible apply Frame.foldlPair; rotate_left; intro u x; (try dsimp -zeta -proj -eta only); rotate_right)
    | (with_reducible apply Frame.foldl; rotate_left; intro u x; (try dsimp -zeta -proj -eta only); rotate_right)
    | fail_if_no_progress (apply Frame.via; with_reducible (first | apply Frame.power | apply Frame.clockUs
                                                                  | apply Frame.power_clockUs); decide)
    | fail_if_no_progress (dsimp +zetaDelta -zeta -proj -eta only)
    | fail_if_no_progress (dsimp -zeta -eta only)

theorem doInputPowerLost_frame :
    ∀ x0 x1 s, Frame [.power, .ctrls, .mold, .grid, .sched, .engines, .mem, .cache, .ingots, .search, .benches,
                      .flash, .links, .pewter, .errors, .burnish, .sec, .fw, .bmc, .dev] s
                          (doInputPowerLost x0 x1 s) := by
  intro x0 x1 s
  unfold doInputPowerLost
  repeat' first
    | with_reducible apply Frame.refl
    | (apply Frame.via; with_reducible (first | apply powerOff_frame | apply modPower_frame); decide)
    | with_reducible apply Frame.ite

theorem doInternalBootEnd_frame :
    ∀ x0 s, Frame [.power, .ctrls, .bmc, .dev] s (doInternalBootEnd x0 s) := by
  intro x0 s
  unfold doInternalBootEnd
  repeat' first
    | with_reducible apply Frame.refl
    | (apply Frame.via; with_reducible (first | apply modPower_frame | apply modCtrl_frame); decide)
    | with_reducible apply Frame.ite
    | fail_if_no_progress (apply Frame.via; with_reducible (first | apply Frame.bmc | apply Frame.dev
                                                                  | apply Frame.bmc_dev); decide)

theorem doJobFault_frame :
    ∀ x0 x1 s, Frame [.ctrls, .sched, .engines, .mem, .cache, .search, .benches, .flash, .errors, .out] s
        (doJobFault x0 x1 s) := by
  intro x0 x1 s
  unfold doJobFault
  repeat' first
    | with_reducible apply Frame.refl
    | with_reducible assumption
    | (apply Frame.via; with_reducible (first | apply tokeniserFault_frame | apply restartReading_frame
                                              | apply engineFault_frame | apply engineReason_frame
                                                  | apply faultJob_frame | apply reportGeneral_frame
                                                      | apply benchReason_frame); decide)
    | with_reducible apply Frame.ite
    | (extract_lets +onlyGivenNames x; clear_value (e : x = _); apply Frame.cut x; (subst e); rotate_left;
       (intro h); (clear e); rotate_right)
    | extract_lets +onlyGivenNames y
    | split
    | (with_reducible apply Frame.foldlPair; rotate_left; intro u x; (try dsimp -zeta -proj -eta only); rotate_right)
    | (with_reducible apply Frame.foldl; rotate_left; intro u x; (try dsimp -zeta -proj -eta only); rotate_right)
    | fail_if_no_progress (apply Frame.via; with_reducible apply Frame.benches; decide)
    | fail_if_no_progress (dsimp +zetaDelta -zeta -proj -eta only)
    | fail_if_no_progress (dsimp -zeta -eta only)

theorem doJobQuenchStop_frame :
    ∀ x0 s, Frame [.ctrls, .sched, .engines, .mem, .cache, .ingots, .search, .benches, .flash, .pewter, .errors,
                   .sec, .out, .free] s (doJobQuenchStop x0 s) := by
  intro x0 s
  unfold doJobQuenchStop
  repeat' first
    | with_reducible apply Frame.refl
    | (apply Frame.via; with_reducible (first | apply waitSign_frame | apply stopJob_frame | apply refuse_frame
                                              | apply status_frame | apply dropJob_frame); decide)
    | split

theorem doJobStatus_frame :
    ∀ x0 s, Frame [.ctrls, .out] s (doJobStatus x0 s) := by
  intro x0 s
  unfold doJobStatus
  repeat' first
    | with_reducible apply Frame.refl
    | (apply Frame.via; with_reducible (first | apply success_frame | apply refuse_frame); decide)
    | (with_reducible apply onant_frame; rotate_left; decide; intro u v; (try dsimp -zeta -proj -eta only))
    | split

theorem doJobSubmit_frame :
    ∀ x0 x1 s, Frame [.ctrls, .sched, .engines, .mem, .out, .free] s (doJobSubmit x0 x1 s) := by
  intro x0 x1 s
  unfold doJobSubmit
  repeat' first
    | with_reducible apply Frame.refl
    | with_reducible assumption
    | (apply Frame.via; with_reducible apply submitJob_frame; decide)
    | (with_reducible apply onant_frame; rotate_left; decide; intro u v; (try dsimp -zeta -proj -eta only))
    | with_reducible apply Frame.ite
    | (extract_lets +onlyGivenNames x; clear_value (e : x = _); apply Frame.cut x; (subst e); rotate_left;
       (intro h); (clear e); rotate_right)
    | extract_lets +onlyGivenNames y
    | split
    | (with_reducible apply Frame.foldlPair; rotate_left; intro u x; (try dsimp -zeta -proj -eta only); rotate_right)
    | (with_reducible apply Frame.foldl; rotate_left; intro u x; (try dsimp -zeta -proj -eta only); rotate_right)
    | fail_if_no_progress (dsimp +zetaDelta -zeta -proj -eta only)
    | fail_if_no_progress (dsimp -zeta -eta only)

theorem doJobTimeCap_frame :
    ∀ x0 s, Frame [.sched] s (doJobTimeCap x0 s) := by
  intro x0 s
  unfold doJobTimeCap
  repeat' first
    | with_reducible apply Frame.refl
    | (apply Frame.via; with_reducible (first | apply overrun_frame | apply modJob_frame); decide)
    | split

theorem doKeyDeliver_frame :
    ∀ x0 x1 s, Frame [.ctrls, .sched, .mem, .cache, .search, .benches, .flash, .errors, .sec, .out] s
        (doKeyDeliver x0 x1 s) := by
  intro x0 x1 s
  unfold doKeyDeliver
  repeat' first
    | with_reducible apply Frame.refl
    | with_reducible assumption
    | (apply Frame.via; with_reducible (first | apply sendKeyAck_frame | apply keyEvent_frame | apply setKcv_frame
                                              | apply reportSecurity_frame); decide)
    | (with_reducible apply inner_frame; rotate_left; decide; intro u; (try dsimp -zeta -proj -eta only))
    | with_reducible apply Frame.ite
    | (extract_lets +onlyGivenNames x; clear_value (e : x = _); apply Frame.cut x; (subst e); rotate_left;
       (intro h); (clear e); rotate_right)
    | extract_lets +onlyGivenNames y
    | split
    | (with_reducible apply Frame.foldlPair; rotate_left; intro u x; (try dsimp -zeta -proj -eta only); rotate_right)
    | (with_reducible apply Frame.foldl; rotate_left; intro u x; (try dsimp -zeta -proj -eta only); rotate_right)
    | fail_if_no_progress (apply Frame.via; with_reducible apply Frame.sec; decide)
    | fail_if_no_progress (dsimp +zetaDelta -zeta -proj -eta only)
    | fail_if_no_progress (dsimp -zeta -eta only)

theorem doKeyRevoke_frame :
    ∀ x0 s, Frame [.ctrls, .sched, .mem, .cache, .search, .benches, .flash, .errors, .sec, .out] s
        (doKeyRevoke x0 s) := by
  intro x0 s
  unfold doKeyRevoke
  repeat' first
    | with_reducible apply Frame.refl
    | with_reducible assumption
    | (apply Frame.via; with_reducible (first | apply keyEvent_frame | apply reportSecurity_frame); decide)
    | (with_reducible apply inner_frame; rotate_left; decide; intro u; (try dsimp -zeta -proj -eta only))
    | with_reducible apply Frame.ite
    | (extract_lets +onlyGivenNames x; clear_value (e : x = _); apply Frame.cut x; (subst e); rotate_left;
       (intro h); (clear e); rotate_right)
    | extract_lets +onlyGivenNames y
    | split
    | (with_reducible apply Frame.foldlPair; rotate_left; intro u x; (try dsimp -zeta -proj -eta only); rotate_right)
    | (with_reducible apply Frame.foldl; rotate_left; intro u x; (try dsimp -zeta -proj -eta only); rotate_right)
    | fail_if_no_progress (dsimp +zetaDelta -zeta -proj -eta only)
    | fail_if_no_progress (dsimp -zeta -eta only)

theorem doLifecycle_frame :
    ∀ x0 s, Frame [.power, .ctrls, .mold, .grid, .sched, .engines, .mem, .cache, .ingots, .search, .benches, .flash,
                   .links, .pewter, .errors, .burnish, .sec, .fw, .dev, .out, .free] s (doLifecycle x0 s) := by
  intro x0 s
  unfold doLifecycle
  repeat' first
    | with_reducible apply Frame.refl
    | (apply Frame.via; with_reducible (first | apply runTransition_frame | apply success_frame | apply refuse_frame
                                              | apply reportSecurity_frame); decide)
    | split

theorem doLinkFrameTagFail_frame :
    ∀ x0 x1 s, Frame [.links] s (doLinkFrameTagFail x0 x1 s) := by
  intro x0 x1 s
  unfold doLinkFrameTagFail
  repeat' first
    | with_reducible apply Frame.refl
    | (apply Frame.via; with_reducible (first | apply countLink_frame | apply modLink_frame); decide)
    | with_reducible apply Frame.ite

theorem doLinkRekey_frame :
    ∀ x0 x1 s, Frame [.links, .free] s (doLinkRekey x0 x1 s) := by
  intro x0 x1 s
  unfold doLinkRekey
  repeat' first
    | with_reducible apply Frame.refl
    | (apply Frame.via; with_reducible (first | apply countLink_frame | apply modLink_frame | apply fresh256_frame);
       decide)
    | with_reducible apply Frame.ite

theorem doLinkRetrain_frame :
    ∀ x0 s, Frame [.ctrls, .links, .out, .free] s (doLinkRetrain x0 s) := by
  intro x0 s
  unfold doLinkRetrain
  repeat' first
    | with_reducible apply Frame.refl
    | (apply Frame.via; with_reducible (first | apply setLink_frame | apply freshKeys_frame
                                              | apply countLink_frame); decide)
    | with_reducible apply Frame.ite

theorem doLinkRetrainComplete_frame :
    ∀ x0 s, Frame [.ctrls, .sched, .benches, .links, .out, .free] s (doLinkRetrainComplete x0 s) := by
  intro x0 s
  unfold doLinkRetrainComplete
  repeat' first
    | with_reducible apply Frame.refl
    | with_reducible assumption
    | (apply Frame.via; with_reducible (first | apply setLink_frame | apply resendFrames_frame
                                              | apply deliverKeys_frame | apply modLink_frame
                                                  | apply resumeGets_frame); decide)
    | with_reducible apply Frame.ite
    | (extract_lets +onlyGivenNames x; clear_value (e : x = _); apply Frame.cut x; (subst e); rotate_left;
       (intro h); (clear e); rotate_right)
    | extract_lets +onlyGivenNames y
    | split
    | (with_reducible apply Frame.foldlPair; rotate_left; intro u x; (try dsimp -zeta -proj -eta only); rotate_right)
    | (with_reducible apply Frame.foldl; rotate_left; intro u x; (try dsimp -zeta -proj -eta only); rotate_right)
    | fail_if_no_progress (dsimp +zetaDelta -zeta -proj -eta only)
    | fail_if_no_progress (dsimp -zeta -eta only)

theorem doLinkTrainingComplete_frame :
    ∀ x0 s, Frame [.ctrls, .links, .out, .free] s (doLinkTrainingComplete x0 s) := by
  intro x0 s
  unfold doLinkTrainingComplete
  repeat' first
    | with_reducible apply Frame.refl
    | with_reducible assumption
    | (apply Frame.via; with_reducible (first | apply setLink_frame | apply freshKeys_frame
                                              | apply deliverKeys_frame | apply modLink_frame); decide)
    | with_reducible apply Frame.ite
    | (extract_lets +onlyGivenNames x; clear_value (e : x = _); apply Frame.cut x; (subst e); rotate_left;
       (intro h); (clear e); rotate_right)
    | extract_lets +onlyGivenNames y
    | split
    | (with_reducible apply Frame.foldlPair; rotate_left; intro u x; (try dsimp -zeta -proj -eta only); rotate_right)
    | (with_reducible apply Frame.foldl; rotate_left; intro u x; (try dsimp -zeta -proj -eta only); rotate_right)
    | (refine Frame.via ((freshKeys_frame _).of_eq (congrArg Prod.snd (by assumption))) (by decide) ?_)
    | fail_if_no_progress (dsimp +zetaDelta -zeta -proj -eta only)
    | fail_if_no_progress (dsimp -zeta -eta only)

theorem doMcRestart_frame :
    ∀ s, Frame [.ctrls, .mem, .search, .pewter, .errors, .fw, .bmc, .out] s (doMcRestart s) := by
  intro s
  unfold doMcRestart
  repeat' first
    | with_reducible apply Frame.refl
    | (apply Frame.via; with_reducible apply memoryReport_frame; decide)
    | with_reducible apply Frame.ite
    | fail_if_no_progress (apply Frame.via; with_reducible (first | apply Frame.pewter | apply Frame.fw
                                                                  | apply Frame.bmc | apply Frame.fw_bmc
                                                                      | apply Frame.pewter_fw); decide)

theorem doMendStart_frame :
    ∀ x0 s, Frame [.search] s (doMendStart x0 s) := by
  intro x0 s
  unfold doMendStart
  repeat' first
    | with_reducible apply Frame.refl
    | (apply Frame.via; with_reducible apply modList_frame; decide)
    | split

theorem doMiAdminCommand_frame :
    ∀ x0 s, Frame [.out] s (doMiAdminCommand x0 s) := by
  intro x0 s
  unfold doMiAdminCommand
  repeat' first
    | with_reducible apply Frame.refl
    | (apply Frame.via; with_reducible (first | apply miLogPage_frame | apply miCompletion_frame
                                              | apply emit_frame); decide)
    | (with_reducible apply atBmc_frame; (try dsimp -zeta -proj -eta only))
    | split

theorem doMiConfigurationGet_frame :
    ∀ x0 s, Frame [.out] s (doMiConfigurationGet x0 s) := by
  intro x0 s
  unfold doMiConfigurationGet
  repeat' first
    | with_reducible apply Frame.refl
    | (apply Frame.via; with_reducible (first | apply miBad_frame | apply emit_frame); decide)
    | (with_reducible apply atBmc_frame; (try dsimp -zeta -proj -eta only))
    | with_reducible apply Frame.ite

theorem doMiConfigurationSet_frame :
    ∀ x0 x1 s, Frame [.bmc, .out] s (doMiConfigurationSet x0 x1 s) := by
  intro x0 x1 s
  unfold doMiConfigurationSet
  repeat' first
    | with_reducible apply Frame.refl
    | (apply Frame.via; with_reducible (first | apply modBmc_frame | apply miBad_frame | apply emit_frame); decide)
    | (with_reducible apply atBmc_frame; (try dsimp -zeta -proj -eta only))
    | with_reducible apply Frame.ite

theorem doMiControllerHealthPoll_frame :
    ∀ x0 s, Frame [.out] s (doMiControllerHealthPoll x0 s) := by
  intro x0 s
  unfold doMiControllerHealthPoll
  repeat' first
    | with_reducible apply Frame.refl
    | (apply Frame.via; with_reducible (first | apply miOk_frame | apply miBad_frame); decide)
    | (with_reducible apply atBmc_frame; (try dsimp -zeta -proj -eta only))
    | split

theorem doMiQuench_frame :
    ∀ x0 s, Frame [.sched, .out] s (doMiQuench x0 s) := by
  intro x0 s
  unfold doMiQuench
  repeat' first
    | with_reducible apply Frame.refl
    | (apply Frame.via; with_reducible (first | apply takeQuench_frame | apply miBad_frame | apply emit_frame);
       decide)
    | (with_reducible apply atBmc_frame; (try dsimp -zeta -proj -eta only))
    | with_reducible apply Frame.ite

theorem doMiReadDataStructure_frame :
    ∀ x0 x1 s, Frame [.out] s (doMiReadDataStructure x0 x1 s) := by
  intro x0 x1 s
  unfold doMiReadDataStructure
  repeat' first
    | with_reducible apply Frame.refl
    | (apply Frame.via; with_reducible (first | apply miOk_frame | apply miBad_frame); decide)
    | (with_reducible apply atBmc_frame; (try dsimp -zeta -proj -eta only))
    | split

theorem doMiVpdRead_frame :
    ∀ x0 x1 s, Frame [.out] s (doMiVpdRead x0 x1 s) := by
  intro x0 x1 s
  unfold doMiVpdRead
  repeat' first
    | with_reducible apply Frame.refl
    | (apply Frame.via; with_reducible (first | apply miOk_frame | apply miBad_frame); decide)
    | (with_reducible apply atBmc_frame; (try dsimp -zeta -proj -eta only))
    | with_reducible apply Frame.ite

theorem doMma_frame :
    ∀ x0 x1 x2 s, Frame [.ctrls, .sched, .engines, .mem, .cache, .search, .benches, .errors, .out] s
        (doMma x0 x1 x2 s) := by
  intro x0 x1 x2 s
  unfold doMma
  repeat' first
    | with_reducible apply Frame.refl
    | (apply Frame.via; with_reducible (first | apply skewFault_frame | apply engineFault_frame
                                              | apply modEngine_frame); decide)
    | extract_lets +onlyGivenNames y
    | split

theorem doModuleReset_frame : ∀ s, Frame [.power, .ctrls, .mold, .grid, .sched, .engines, .mem, .cache, .ingots,
                                          .search, .benches, .flash, .links, .pewter, .errors, .burnish, .sec, .fw,
                                              .bmc, .dev, .out, .free] s (doModuleReset s) := by
  intro s
  unfold doModuleReset
  have h0 := modPower_frame s fun p => { p with perstA := true, heldDeassert := none }
  refine Frame.ite (Frame.via h0 (by decide) (Frame.refl s)) ?_
  refine Frame.via (Frame.bmc _ _) (by decide) (Frame.via (bootBank_frame _) (by decide) ?_)
  refine Frame.via (Frame.power_ctrls_mem_benches_flash_links_pewter_sec _ _ _ _ _ _ _ _ _) (by decide) ?_
  exact Frame.via (blank_frame _) (by decide)
      (Frame.via (writeBackAll_frame _) (by decide) (Frame.via (sendClose_frame _)
    (by decide) (Frame.via (endPrograms_frame _) (by decide) (Frame.via h0 (by decide) (Frame.refl s)))))

theorem doMoldLoad_frame :
    ∀ x0 x1 s, Frame [.ctrls, .mold, .out] s (doMoldLoad x0 x1 s) := by
  intro x0 x1 s
  unfold doMoldLoad
  repeat' first
    | with_reducible apply Frame.refl
    | (apply Frame.via; with_reducible (first | apply loadRefused_frame | apply modMold_frame); decide)
    | with_reducible apply Frame.ite

theorem doMoldLoadValidated_frame :
    ∀ s, Frame [.power, .ctrls, .mold, .grid, .sched, .engines, .mem, .cache, .search, .benches, .flash, .pewter,
                .errors, .sec, .out, .free] s (doMoldLoadValidated s) := by
  intro s
  unfold doMoldLoadValidated
  repeat' first
    | with_reducible apply Frame.refl
    | (apply Frame.via; with_reducible (first | apply takeForce_frame | apply moldInvalid_frame
                                              | apply modMold_frame | apply success_frame); decide)
    | extract_lets +onlyGivenNames y
    | split

theorem doNandEraseComplete_frame :
    ∀ x0 x1 x2 x3 s, Frame [.ctrls, .mem, .cache, .search, .flash, .errors, .out] s
        (doNandEraseComplete x0 x1 x2 x3 s) := by
  intro x0 x1 x2 x3 s
  unfold doNandEraseComplete
  repeat' first
    | with_reducible apply Frame.refl
    | (apply Frame.via; with_reducible (first | apply retireBlock_frame | apply modFlash_frame); decide)
    | split

theorem doNandProgramComplete_frame :
    ∀ x0 x1 x2 x3 s, Frame [.ctrls, .mem, .cache, .search, .flash, .errors, .out] s
        (doNandProgramComplete x0 x1 x2 x3 s) := by
  intro x0 x1 x2 x3 s
  unfold doNandProgramComplete
  dsimp -proj -eta only
  repeat' first
    | with_reducible apply Frame.refl
    | (apply Frame.via; with_reducible (first | apply streamPageDone_frame | apply retireBlock_frame
                                              | apply modFlash_frame); decide)
    | split

theorem doNandResume_frame :
    ∀ x0 x1 s, Frame [.flash] s (doNandResume x0 x1 s) := by
  intro x0 x1 s
  unfold doNandResume
  repeat' first
    | with_reducible apply Frame.refl
    | (apply Frame.via; with_reducible apply modFlash_frame; decide)
    | split

theorem doNandSupplyRestored_frame :
    ∀ x0 x1 s, Frame [.power, .ctrls, .sched, .mem, .cache, .search, .benches, .flash, .errors, .out] s
        (doNandSupplyRestored x0 x1 s) := by
  intro x0 x1 s
  unfold doNandSupplyRestored
  repeat' first
    | with_reducible apply Frame.refl
    | with_reducible assumption
    | (apply Frame.via; with_reducible (first | apply lineFailed_frame | apply resumeGets_frame
                                              | apply modFlash_frame | apply modPower_frame); decide)
    | with_reducible apply Frame.ite
    | (extract_lets +onlyGivenNames x; clear_value (e : x = _); apply Frame.cut x; (subst e); rotate_left;
       (intro h); (clear e); rotate_right)
    | extract_lets +onlyGivenNames y
    | split
    | (with_reducible apply Frame.foldlPair; rotate_left; intro u x; (try dsimp -zeta -proj -eta only); rotate_right)
    | (with_reducible apply Frame.foldl; rotate_left; intro u x; (try dsimp -zeta -proj -eta only); rotate_right)
    | fail_if_no_progress (dsimp +zetaDelta -zeta -proj -eta only)
    | fail_if_no_progress (dsimp -zeta -eta only)

theorem doNandSuspend_frame :
    ∀ x0 x1 x2 s, Frame [.flash] s (doNandSuspend x0 x1 x2 s) := by
  intro x0 x1 x2 s
  unfold doNandSuspend
  repeat' first
    | with_reducible apply Frame.refl
    | (apply Frame.via; with_reducible apply modFlash_frame; decide)
    | split

theorem doNonpreOverrun_frame :
    ∀ x0 x1 s, Frame [.ctrls, .sched, .engines, .mem, .cache, .search, .benches, .errors, .out] s
        (doNonpreOverrun x0 x1 s) := by
  intro x0 x1 s
  unfold doNonpreOverrun
  repeat' first
    | with_reducible apply Frame.refl
    | (apply Frame.via; with_reducible (first | apply overrun_frame | apply faultJob_frame | apply modEngine_frame
                                              | apply charge_frame); decide)
    | with_reducible apply Frame.ite
    | split
    | fail_if_no_progress (apply Frame.via; with_reducible apply Frame.sched; decide)

theorem doNpBegin_frame :
    ∀ x0 x1 s, Frame [.ctrls, .sched, .engines, .mem, .cache, .search, .benches, .errors, .out] s
        (doNpBegin x0 x1 s) := by
  intro x0 x1 s
  unfold doNpBegin
  repeat' first
    | with_reducible apply Frame.refl
    | (apply Frame.via; with_reducible (first | apply engineFault_frame | apply modEngine_frame); decide)
    | split

theorem doNpEnd_frame :
    ∀ x0 s, Frame [.ctrls, .sched, .engines, .mem, .cache, .search, .benches, .errors, .out] s (doNpEnd x0 s) := by
  intro x0 s
  unfold doNpEnd
  repeat' first
    | with_reducible apply Frame.refl
    | (apply Frame.via; with_reducible (first | apply retryPreempt_frame | apply engineFault_frame
                                              | apply modEngine_frame); decide)
    | split

theorem doObjDelete_frame :
    ∀ x0 s, Frame [.ctrls, .search, .out] s (doObjDelete x0 s) := by
  intro x0 s
  unfold doObjDelete
  repeat' first
    | with_reducible apply Frame.refl
    | (apply Frame.via; with_reducible apply refuse_frame; decide)
    | (with_reducible apply onant_frame; rotate_left; decide; intro u v; (try dsimp -zeta -proj -eta only))
    | (with_reducible apply named_frame; rotate_left; decide; (try dsimp -zeta -proj -eta only))
    | extract_lets +onlyGivenNames y
    | split
    | fail_if_no_progress (apply Frame.via; with_reducible apply Frame.search; decide)

theorem doObjGet_frame :
    ∀ x0 x1 x2 x3 s, Frame [.ctrls, .sched, .search, .benches, .out] s (doObjGet x0 x1 x2 x3 s) := by
  intro x0 x1 x2 x3 s
  unfold doObjGet
  repeat' first
    | with_reducible apply Frame.refl
    | (apply Frame.via; with_reducible apply getObject_frame; decide)
    | (with_reducible apply onant_frame; rotate_left; decide; intro u v; (try dsimp -zeta -proj -eta only))

theorem doObjPut_frame :
    ∀ x0 x1 s, Frame [.ctrls, .search, .out] s (doObjPut x0 x1 s) := by
  intro x0 x1 s
  unfold doObjPut
  repeat' first
    | with_reducible apply Frame.refl
    | (apply Frame.via; with_reducible apply placeObject_frame; decide)
    | (with_reducible apply onant_frame; rotate_left; decide; intro u v; (try dsimp -zeta -proj -eta only))

theorem doObjStat_frame :
    ∀ x0 s, Frame [.ctrls, .out] s (doObjStat x0 s) := by
  intro x0 s
  unfold doObjStat
  repeat' first
    | with_reducible apply Frame.refl
    | (apply Frame.via; with_reducible (first | apply success_frame | apply refuse_frame); decide)
    | (with_reducible apply onant_frame; rotate_left; decide; intro u v; (try dsimp -zeta -proj -eta only))
    | (with_reducible apply named_frame; rotate_left; decide; (try dsimp -zeta -proj -eta only))
    | split

theorem doObjectReadStart_frame :
    ∀ x0 x1 s, Frame [.ctrls, .sched, .mem, .cache, .ingots, .search, .benches, .flash, .errors, .out] s
        (doObjectReadStart x0 x1 s) := by
  intro x0 x1 s
  unfold doObjectReadStart
  repeat' first
    | with_reducible apply Frame.refl
    | with_reducible assumption
    | (apply Frame.via; with_reducible (first | apply chargeWork_frame | apply warnBlocked_frame
                                              | apply endReading_frame | apply dirtyMap_frame | apply modObj_frame
                                                  | apply dirtyThrough_frame | apply recountUsed_frame
                                                      | apply modFlash_frame | apply modBench_frame); decide)
    | with_reducible apply Frame.ite
    | (extract_lets +onlyGivenNames x; clear_value (e : x = _); apply Frame.cut x; (subst e); rotate_left;
       (intro h); (clear e); rotate_right)
    | extract_lets +onlyGivenNames y
    | split
    | (with_reducible apply Frame.foldlPair; rotate_left; intro u x; (try dsimp -zeta -proj -eta only); rotate_right)
    | (with_reducible apply Frame.foldl; rotate_left; intro u x; (try dsimp -zeta -proj -eta only); rotate_right)
    | (refine Frame.via ((dirtyThrough_frame _ _ _ _).of_eq (congrArg Prod.fst (by assumption))) (by decide) ?_)
    | fail_if_no_progress (dsimp +zetaDelta -zeta -proj -eta only)
    | fail_if_no_progress (dsimp -zeta -eta only)

theorem doOptErase_frame :
    ∀ s, Frame [.pewter] s (doOptErase s) := by
  intro s
  unfold doOptErase
  repeat' first
    | with_reducible apply Frame.refl
    | (apply Frame.via; with_reducible (first | apply pwtPulse_frame | apply pwtEnd_frame); decide)
    | (with_reducible apply pwtStart_frame; rotate_left; decide; intro u; (try dsimp -zeta -proj -eta only))
    | with_reducible apply Frame.ite

theorem doOptProgram_frame :
    ∀ s, Frame [.pewter] s (doOptProgram s) := by
  intro s
  unfold doOptProgram
  repeat' first
    | with_reducible apply Frame.refl
    | (apply Frame.via; with_reducible (first | apply pwtPulse_frame | apply pwtAgain_frame | apply pwtEnd_frame);
       decide)
    | (with_reducible apply pwtStart_frame; rotate_left; decide; intro u; (try dsimp -zeta -proj -eta only))
    | with_reducible apply Frame.ite

theorem doPageProgram_frame :
    ∀ s, Frame [.pewter] s (doPageProgram s) := by
  intro s
  unfold doPageProgram
  repeat' first
    | with_reducible apply Frame.refl
    | (apply Frame.via; with_reducible (first | apply pwtSelfBank_frame | apply pwtPulse_frame
                                              | apply pwtAgain_frame | apply pwtEnd_frame); decide)
    | (with_reducible apply pwtStart_frame; rotate_left; decide; intro u; (try dsimp -zeta -proj -eta only))
    | with_reducible apply Frame.ite

theorem doPageRead_frame :
    ∀ x0 x1 x2 x3 s, Frame [.ctrls, .sched, .mem, .cache, .search, .flash, .errors, .out] s
        (doPageRead x0 x1 x2 x3 s) := by
  intro x0 x1 x2 x3 s
  unfold doPageRead
  repeat' first
    | with_reducible apply Frame.refl
    | (apply Frame.via; with_reducible (first | apply readSlow_frame | apply readFailed_frame
                                              | apply modFlash_frame); decide)
    | with_reducible apply Frame.ite
    | split

theorem doPatrolRead_frame :
    ∀ x0 x1 s, Frame [.flash] s (doPatrolRead x0 x1 s) := by
  intro x0 x1 s
  unfold doPatrolRead
  repeat' first
    | with_reducible apply Frame.refl
    | (apply Frame.via; with_reducible apply modFlash_frame; decide)
    | with_reducible apply Frame.ite

theorem doPerstADeassert_frame :
    ∀ x0 x1 s, Frame [.power, .ctrls, .engines, .mem, .cache, .search, .benches, .flash, .links, .pewter, .errors,
                      .sec, .fw, .bmc, .out, .free] s (doPerstADeassert x0 x1 s) := by
  intro x0 x1 s
  unfold doPerstADeassert
  repeat' first
    | with_reducible apply Frame.refl
    | with_reducible assumption
    | (apply Frame.via; with_reducible (first | apply boot_frame | apply modPower_frame); decide)
    | with_reducible apply Frame.ite
    | (extract_lets +onlyGivenNames x; clear_value (e : x = _); apply Frame.cut x; (subst e); rotate_left;
       (intro h); (clear e); rotate_right)
    | extract_lets +onlyGivenNames y
    | split
    | (with_reducible apply Frame.foldlPair; rotate_left; intro u x; (try dsimp -zeta -proj -eta only); rotate_right)
    | (with_reducible apply Frame.foldl; rotate_left; intro u x; (try dsimp -zeta -proj -eta only); rotate_right)
    | fail_if_no_progress (dsimp +zetaDelta -zeta -proj -eta only)
    | fail_if_no_progress (dsimp -zeta -eta only)

theorem doPerstBAssert_frame :
    ∀ s, Frame [.power, .ctrls, .mold, .sched, .engines, .mem, .cache, .search, .benches, .flash] s
        (doPerstBAssert s) := by
  intro s
  unfold doPerstBAssert
  repeat' first
    | with_reducible apply Frame.refl
    | with_reducible assumption
    | (apply Frame.via; with_reducible (first | apply dropController_frame | apply modPower_frame); decide)
    | with_reducible apply Frame.ite
    | (extract_lets +onlyGivenNames x; clear_value (e : x = _); apply Frame.cut x; (subst e); rotate_left;
       (intro h); (clear e); rotate_right)
    | extract_lets +onlyGivenNames y
    | split
    | (with_reducible apply Frame.foldlPair; rotate_left; intro u x; (try dsimp -zeta -proj -eta only); rotate_right)
    | (with_reducible apply Frame.foldl; rotate_left; intro u x; (try dsimp -zeta -proj -eta only); rotate_right)
    | fail_if_no_progress (dsimp +zetaDelta -zeta -proj -eta only)
    | fail_if_no_progress (dsimp -zeta -eta only)

theorem doPerstBDeassert_frame :
    ∀ s, Frame [.power, .ctrls] s (doPerstBDeassert s) := by
  intro s
  unfold doPerstBDeassert
  repeat' first
    | with_reducible apply Frame.refl
    | (apply Frame.via; with_reducible (first | apply modPower_frame | apply modCtrl_frame); decide)
    | with_reducible apply Frame.ite

theorem doPewterBrownout_frame :
    ∀ s, Frame [.pewter] s (doPewterBrownout s) := by
  intro s
  unfold doPewterBrownout
  repeat' first
    | with_reducible apply Frame.refl
    | with_reducible assumption
    | (apply Frame.via; with_reducible apply pwtEnd_frame; decide)
    | (extract_lets +onlyGivenNames x; clear_value (e : x = _); apply Frame.cut x; (subst e); rotate_left;
       (intro h); (clear e); rotate_right)
    | extract_lets +onlyGivenNames y
    | split
    | fail_if_no_progress (apply Frame.via; with_reducible apply Frame.pewter; decide)

theorem doPinRelease_frame :
    ∀ x0 x1 x2 x3 s, Frame [.engines, .mem, .cache] s (doPinRelease x0 x1 x2 x3 s) := by
  intro x0 x1 x2 x3 s
  unfold doPinRelease
  repeat' first
    | with_reducible apply Frame.refl
    | (apply Frame.via; with_reducible (first | apply dropUnpinned_frame | apply modCache_frame); decide)

theorem doPowerCap_frame :
    ∀ x0 s, Frame [.power, .sched, .out] s (doPowerCap x0 s) := by
  intro x0 s
  unfold doPowerCap
  repeat' first
    | with_reducible apply Frame.refl
    | with_reducible assumption
    | (apply Frame.via; with_reducible (first | apply capFall_frame | apply modPower_frame | apply emit_frame);
       decide)
    | with_reducible apply Frame.ite
    | (extract_lets +onlyGivenNames x; clear_value (e : x = _); apply Frame.cut x; (subst e); rotate_left;
       (intro h); (clear e); rotate_right)
    | extract_lets +onlyGivenNames y
    | split
    | (with_reducible apply Frame.foldlPair; rotate_left; intro u x; (try dsimp -zeta -proj -eta only); rotate_right)
    | (with_reducible apply Frame.foldl; rotate_left; intro u x; (try dsimp -zeta -proj -eta only); rotate_right)
    | fail_if_no_progress (dsimp +zetaDelta -zeta -proj -eta only)
    | fail_if_no_progress (dsimp -zeta -eta only)

theorem doPowerTick_frame :
    ∀ x0 s, Frame [.power, .sched] s (doPowerTick x0 s) := by
  intro x0 s
  unfold doPowerTick
  repeat' first
    | with_reducible apply Frame.refl
    | with_reducible assumption
    | (apply Frame.via; with_reducible (first | apply measure_frame | apply c0Withheld_frame
                                              | apply capSettle_frame); decide)
    | with_reducible apply Frame.ite
    | (extract_lets +onlyGivenNames x; clear_value (e : x = _); apply Frame.cut x; (subst e); rotate_left;
       (intro h); (clear e); rotate_right)
    | extract_lets +onlyGivenNames y
    | split
    | (with_reducible apply Frame.foldlPair; rotate_left; intro u x; (try dsimp -zeta -proj -eta only); rotate_right)
    | (with_reducible apply Frame.foldl; rotate_left; intro u x; (try dsimp -zeta -proj -eta only); rotate_right)
    | fail_if_no_progress (dsimp +zetaDelta -zeta -proj -eta only)
    | fail_if_no_progress (dsimp -zeta -eta only)

theorem doPromotionComplete_frame :
    ∀ x0 x1 s, Frame [.sched, .engines, .mem, .cache] s (doPromotionComplete x0 x1 s) := by
  intro x0 x1 s
  unfold doPromotionComplete
  repeat' first
    | with_reducible apply Frame.refl
    | with_reducible assumption
    | (apply Frame.via; with_reducible (first | apply startRefetch_frame | apply writeGranules_frame
                                              | apply dropUnpinned_frame | apply modCache_frame
                                                  | apply markUnbound_frame); decide)
    | with_reducible apply Frame.ite
    | (extract_lets +onlyGivenNames x; clear_value (e : x = _); apply Frame.cut x; (subst e); rotate_left;
       (intro h); (clear e); rotate_right)
    | extract_lets +onlyGivenNames y
    | split
    | (with_reducible apply Frame.foldlPair; rotate_left; intro u x; (try dsimp -zeta -proj -eta only); rotate_right)
    | (with_reducible apply Frame.foldl; rotate_left; intro u x; (try dsimp -zeta -proj -eta only); rotate_right)
    | fail_if_no_progress (dsimp +zetaDelta -zeta -proj -eta only)
    | fail_if_no_progress (dsimp -zeta -eta only)

theorem doPromotionWaitResume_frame :
    ∀ x0 x1 s, Frame [.engines, .mem, .cache, .free] s (doPromotionWaitResume x0 x1 s) := by
  intro x0 x1 s
  unfold doPromotionWaitResume
  repeat' first
    | with_reducible apply Frame.refl
    | (apply Frame.via; with_reducible (first | apply startStaging_frame | apply promote_frame
                                              | apply modCache_frame); decide)
    | with_reducible apply Frame.ite
    | split

theorem doPtmComplete_frame :
    ∀ x0 x1 s, Frame [.grid] s (doPtmComplete x0 x1 s) := by
  intro x0 x1 s
  unfold doPtmComplete
  repeat' first
    | with_reducible apply Frame.refl
    | with_reducible apply Frame.ite
    | fail_if_no_progress (apply Frame.via; with_reducible apply Frame.grid; decide)

theorem doPtmIssue_frame :
    ∀ s, Frame [.grid, .out] s (doPtmIssue s) := by
  intro s
  unfold doPtmIssue
  repeat' first
    | with_reducible apply Frame.refl
    | (apply Frame.via; with_reducible apply emit_frame; decide)
    | with_reducible apply Frame.ite
    | fail_if_no_progress (apply Frame.via; with_reducible apply Frame.grid; decide)

theorem doPwtOperationEnd_frame :
    ∀ x0 s, Frame [.ctrls, .pewter, .errors, .out] s (doPwtOperationEnd x0 s) := by
  intro x0 s
  unfold doPwtOperationEnd
  repeat' first
    | with_reducible apply Frame.refl
    | (apply Frame.via; with_reducible (first | apply pwtEnd_frame | apply reportGeneral_frame); decide)
    | split
    | fail_if_no_progress (apply Frame.via; with_reducible apply Frame.pewter; decide)

theorem doQuench_frame :
    ∀ x0 s, Frame [.ctrls, .sched, .out] s (doQuench x0 s) := by
  intro x0 s
  unfold doQuench
  repeat' first
    | with_reducible apply Frame.refl
    | (apply Frame.via; with_reducible (first | apply takeQuench_frame | apply success_frame | apply refuse_frame);
       decide)
    | with_reducible apply Frame.ite

theorem doQuery_frame :
    ∀ x0 x1 s, Frame [.ctrls, .sched, .out] s (doQuery x0 x1 s) := by
  intro x0 x1 s
  unfold doQuery
  repeat' first
    | with_reducible apply Frame.refl
    | (apply Frame.via; with_reducible apply submitQuery_frame; decide)
    | (with_reducible apply onant_frame; rotate_left; decide; intro u v; (try dsimp -zeta -proj -eta only))

theorem doRailBrownout_frame :
    ∀ x0 s, Frame [.power, .ctrls, .mold, .grid, .sched, .engines, .mem, .cache, .ingots, .search, .benches, .flash,
                   .links, .pewter, .errors, .burnish, .sec, .fw, .bmc, .dev, .out, .free] s
                       (doRailBrownout x0 s) := by
  intro x0 s
  unfold doRailBrownout
  repeat' first
    | with_reducible apply Frame.refl
    | (apply Frame.via; with_reducible (first | apply doPewterBrownout_frame | apply resumeReads_frame
                                              | apply powerOff_frame | apply nandFalls_frame
                                                  | apply reportGeneral_frame | apply doRecordWrite_frame
                                                      | apply fresh_frame); decide)
    | split

theorem doRawReadDone_frame :
    ∀ x0 x1 x2 s, Frame [.flash] s (doRawReadDone x0 x1 x2 s) := by
  intro x0 x1 x2 s
  unfold doRawReadDone
  repeat' first
    | with_reducible apply Frame.refl
    | (apply Frame.via; with_reducible apply modFlash_frame; decide)
    | with_reducible apply Frame.ite

theorem doRecast_frame :
    ∀ x0 x1 s, Frame [.ctrls, .mold, .out] s (doRecast x0 x1 s) := by
  intro x0 x1 s
  unfold doRecast
  repeat' first
    | with_reducible apply Frame.refl
    | (apply Frame.via; with_reducible (first | apply recastRefused_frame | apply modMold_frame); decide)
    | with_reducible apply Frame.ite

theorem doRecastDrainComplete_frame :
    ∀ s, Frame [.power, .ctrls, .mold, .sched, .engines, .mem, .cache, .search, .benches, .flash, .errors, .burnish,
                .sec, .dev, .out, .free] s (doRecastDrainComplete s) := by
  intro s
  unfold doRecastDrainComplete
  repeat' first
    | with_reducible apply Frame.refl
    | with_reducible assumption
    | (apply Frame.via; with_reducible (first | apply drainWork_frame | apply drainEngine_frame
                                              | apply applyShadows_frame | apply applyRecast_frame
                                                  | apply modMold_frame | apply annealMove_frame); decide)
    | with_reducible apply Frame.ite
    | (extract_lets +onlyGivenNames x; clear_value (e : x = _); apply Frame.cut x; (subst e); rotate_left;
       (intro h); (clear e); rotate_right)
    | extract_lets +onlyGivenNames y
    | split
    | (with_reducible apply Frame.foldlPair; rotate_left; intro u x; (try dsimp -zeta -proj -eta only); rotate_right)
    | (with_reducible apply Frame.foldl; rotate_left; intro u x; (try dsimp -zeta -proj -eta only); rotate_right)
    | fail_if_no_progress (dsimp +zetaDelta -zeta -proj -eta only)
    | fail_if_no_progress (dsimp -zeta -eta only)

theorem doRecastValidated_frame :
    ∀ s, Frame [.ctrls, .mold, .sched, .engines, .out] s (doRecastValidated s) := by
  intro s
  unfold doRecastValidated
  repeat' first
    | with_reducible apply Frame.refl
    | (apply Frame.via; with_reducible (first | apply startDrain_frame | apply moldInvalid_frame
                                              | apply noteMoldError_frame | apply forceRecast_frame
                                                  | apply evalC0_frame | apply modMold_frame); decide)
    | with_reducible apply Frame.ite
    | extract_lets +onlyGivenNames y
    | split
    | (with_reducible apply Frame.foldl; rotate_left; intro u x; (try dsimp -zeta -proj -eta only); rotate_right)

theorem doRecordAppend_frame :
    ∀ x0 x1 s, Frame [.sched, .mem, .cache, .search, .benches, .flash] s (doRecordAppend x0 x1 s) := by
  intro x0 x1 s
  unfold doRecordAppend
  repeat' first
    | with_reducible apply Frame.refl
    | with_reducible assumption
    | (apply Frame.via; with_reducible (first | apply remake_frame | apply notInserted_frame
                                              | apply chargeWork_frame | apply appendWaits_frame
                                                  | apply append_frame); decide)
    | with_reducible apply Frame.ite
    | (extract_lets +onlyGivenNames x; clear_value (e : x = _); apply Frame.cut x; (subst e); rotate_left;
       (intro h); (clear e); rotate_right)
    | extract_lets +onlyGivenNames y
    | split
    | (with_reducible apply Frame.foldlPair; rotate_left; intro u x; (try dsimp -zeta -proj -eta only); rotate_right)
    | (with_reducible apply Frame.foldl; rotate_left; intro u x; (try dsimp -zeta -proj -eta only); rotate_right)
    | (refine Frame.via ((appendWaits_frame _ _ _ _).of_eq (congrArg Prod.fst (by assumption))) (by decide) ?_)
    | (refine Frame.via ((append_frame _ _ _).of_eq (congrArg Prod.fst (by assumption))) (by decide) ?_)
    | fail_if_no_progress (apply Frame.via; with_reducible apply Frame.search; decide)
    | fail_if_no_progress (dsimp +zetaDelta -zeta -proj -eta only)
    | fail_if_no_progress (dsimp -zeta -eta only)

theorem doReferenceLost_frame :
    ∀ s, Frame [.ctrls, .grid, .sched, .out, .free] s (doReferenceLost s) := by
  intro s
  unfold doReferenceLost
  repeat' first
    | with_reducible apply Frame.refl
    | with_reducible assumption
    | (apply Frame.via; with_reducible (first | apply mayLose_frame | apply leaveLocked_frame
                                              | apply modGrid_frame); decide)
    | with_reducible apply Frame.ite
    | (extract_lets +onlyGivenNames x; clear_value (e : x = _); apply Frame.cut x; (subst e); rotate_left;
       (intro h); (clear e); rotate_right)
    | split

theorem doReferencePresent_frame :
    ∀ s, Frame [.grid, .free] s (doReferencePresent s) := by
  intro s
  unfold doReferencePresent
  repeat' first
    | with_reducible apply Frame.refl
    | (apply Frame.via; with_reducible (first | apply mayPresent_frame | apply modGrid_frame); decide)
    | with_reducible apply Frame.ite
    | extract_lets +onlyGivenNames y
    | split

theorem doRefetchComplete_frame :
    ∀ x0 x1 x2 x3 x4 x5 x6 s, Frame [.ctrls, .sched, .engines, .mem, .cache, .ingots, .search, .benches, .flash,
                                     .errors, .out, .free] s (doRefetchComplete x0 x1 x2 x3 x4 x5 x6 s) := by
  intro x0 x1 x2 x3 x4 x5 x6 s
  unfold doRefetchComplete
  repeat' first
    | with_reducible apply Frame.refl
    | with_reducible assumption
    | (apply Frame.via; with_reducible (first | apply replaceGranule_frame | apply hashMismatch_frame
                                              | apply poisonIngot_frame | apply endRefetch_frame
                                                  | apply memoryReport_frame | apply modCache_frame); decide)
    | with_reducible apply Frame.ite
    | (extract_lets +onlyGivenNames x; clear_value (e : x = _); apply Frame.cut x; (subst e); rotate_left;
       (intro h); (clear e); rotate_right)
    | extract_lets +onlyGivenNames y
    | split
    | (with_reducible apply Frame.foldlPair; rotate_left; intro u x; (try dsimp -zeta -proj -eta only); rotate_right)
    | (with_reducible apply Frame.foldl; rotate_left; intro u x; (try dsimp -zeta -proj -eta only); rotate_right)
    | fail_if_no_progress (dsimp +zetaDelta -zeta -proj -eta only)
    | fail_if_no_progress (dsimp -zeta -eta only)

theorem doRegisterRead_frame :
    ∀ x0 x1 s, Frame [.power, .mold, .grid, .sched, .engines, .cache, .benches, .flash, .links, .pewter, .errors,
                      .burnish, .dev, .out, .free] s (doRegisterRead x0 x1 s) := by
  intro x0 x1 s
  unfold doRegisterRead
  repeat' first
    | with_reducible apply Frame.refl
    | (apply Frame.via; with_reducible (first | apply read8_frame | apply read4_frame | apply sendWord_frame
                                              | apply badAccess_frame); decide)
    | with_reducible apply Frame.ite

theorem doRegisterWrite_frame :
    ∀ x0 x1 x2 s, Frame [.power, .ctrls, .mold, .grid, .sched, .engines, .mem, .cache, .ingots, .search, .benches,
                         .flash, .links, .pewter, .errors, .burnish, .dev, .out, .free] s
                             (doRegisterWrite x0 x1 x2 s) := by
  intro x0 x1 x2 s
  unfold doRegisterWrite
  repeat' first
    | with_reducible apply Frame.refl
    | with_reducible assumption
    | (apply Frame.via; with_reducible (first | apply writePwt_frame | apply writeMsixControl_frame
                                              | apply writeBar2_frame | apply writeBar0_frame | apply emit_frame
                                                  | apply modCtrl_frame); decide)
    | with_reducible apply Frame.ite
    | (extract_lets +onlyGivenNames x; clear_value (e : x = _); apply Frame.cut x; (subst e); rotate_left;
       (intro h); (clear e); rotate_right)
    | extract_lets +onlyGivenNames y
    | split
    | (with_reducible apply Frame.foldlPair; rotate_left; intro u x; (try dsimp -zeta -proj -eta only); rotate_right)
    | (with_reducible apply Frame.foldl; rotate_left; intro u x; (try dsimp -zeta -proj -eta only); rotate_right)
    | fail_if_no_progress (dsimp +zetaDelta -zeta -proj -eta only)
    | fail_if_no_progress (dsimp -zeta -eta only)

theorem doSchedulerArrival_frame :
    ∀ x0 s, Frame [.ctrls, .sched, .engines, .out] s (doSchedulerArrival x0 s) := by
  intro x0 s
  unfold doSchedulerArrival
  repeat' first
    | with_reducible apply Frame.refl
    | (apply Frame.via; with_reducible (first | apply arrivalPreempt_frame | apply refuseEnvelope_frame
                                              | apply dropJob_frame | apply modJob_frame); decide)
    | split
    | fail_if_no_progress (apply Frame.via; with_reducible apply Frame.sched; decide)

theorem doSectorErase_frame :
    ∀ s, Frame [.pewter] s (doSectorErase s) := by
  intro s
  unfold doSectorErase
  repeat' first
    | with_reducible apply Frame.refl
    | (apply Frame.via; with_reducible (first | apply pwtSelfBank_frame | apply pwtPulse_frame
                                              | apply pwtEnd_frame); decide)
    | (with_reducible apply pwtStart_frame; rotate_left; decide; intro u; (try dsimp -zeta -proj -eta only))
    | with_reducible apply Frame.ite

theorem doSecurityEventLogProgram_frame :
    ∀ s, Frame [.pewter] s (doSecurityEventLogProgram s) := by
  intro s
  unfold doSecurityEventLogProgram
  repeat' first
    | with_reducible apply Frame.refl
    | split
    | fail_if_no_progress (apply Frame.via; with_reducible apply Frame.pewter; decide)

theorem doSemAcq_frame :
    ∀ x0 x1 s, Frame [.ctrls, .sched, .engines, .mem, .cache, .search, .benches, .errors, .out] s
        (doSemAcq x0 x1 s) := by
  intro x0 x1 s
  unfold doSemAcq
  repeat' first
    | with_reducible apply Frame.refl
    | (apply Frame.via; with_reducible (first | apply takeSem_frame | apply setSem_frame | apply engineFault_frame);
       decide)
    | with_reducible apply Frame.ite
    | split

theorem doSemAcquired_frame :
    ∀ x0 x1 s, Frame [.sched, .engines] s (doSemAcquired x0 x1 s) := by
  intro x0 x1 s
  unfold doSemAcquired
  repeat' first
    | with_reducible apply Frame.refl
    | (apply Frame.via; with_reducible apply takeSem_frame; decide)
    | with_reducible apply Frame.ite
    | split

theorem doSemOverrun_frame :
    ∀ x0 x1 s, Frame [.ctrls, .sched, .engines, .mem, .cache, .search, .benches, .errors, .out] s
        (doSemOverrun x0 x1 s) := by
  intro x0 x1 s
  unfold doSemOverrun
  repeat' first
    | with_reducible apply Frame.refl
    | (apply Frame.via; with_reducible apply faultJob_frame; decide)
    | split

theorem doSemRel_frame :
    ∀ x0 x1 s, Frame [.ctrls, .sched, .engines, .mem, .cache, .search, .benches, .errors, .out] s
        (doSemRel x0 x1 s) := by
  intro x0 x1 s
  unfold doSemRel
  repeat' first
    | with_reducible apply Frame.refl
    | (apply Frame.via; with_reducible (first | apply setSem_frame | apply retryPreempt_frame | apply nextWord_frame
                                              | apply engineFault_frame); decide)
    | with_reducible apply Frame.ite
    | split

theorem doSessionAccept_frame :
    ∀ x0 s, Frame [.ctrls, .errors, .sec, .out] s (doSessionAccept x0 s) := by
  intro x0 s
  unfold doSessionAccept
  repeat' first
    | with_reducible apply Frame.refl
    | (apply Frame.via; with_reducible (first | apply takeInbox_frame | apply sendKeyRequests_frame
                                              | apply tagFail_frame); decide)
    | with_reducible apply Frame.ite
    | fail_if_no_progress (apply Frame.via; with_reducible apply Frame.sec; decide)

theorem doSessionInit_frame :
    ∀ s, Frame [.ctrls, .pewter, .errors, .sec, .out, .free] s (doSessionInit s) := by
  intro s
  unfold doSessionInit
  repeat' first
    | with_reducible apply Frame.refl
    | split
    | (refine Frame.via (buildInit_frame _ _ (by assumption)) (by decide) ?_)

theorem doSessionReject_frame :
    ∀ x0 s, Frame [.ctrls, .errors, .sec, .out] s (doSessionReject x0 s) := by
  intro x0 s
  unfold doSessionReject
  repeat' first
    | with_reducible apply Frame.refl
    | (apply Frame.via; with_reducible (first | apply takeInbox_frame | apply tagFail_frame
                                              | apply reportSecurity_frame | apply sessionLost_frame); decide)
    | with_reducible apply Frame.ite

theorem doSetFeatures_frame :
    ∀ x0 x1 s, Frame [.power, .ctrls, .sched, .engines, .mem, .cache, .search, .benches, .flash, .out] s
        (doSetFeatures x0 x1 s) := by
  intro x0 x1 s
  unfold doSetFeatures
  repeat' first
    | with_reducible apply Frame.refl
    | with_reducible assumption
    | (apply Frame.via; with_reducible (first | apply nvmeInvalidField_frame | apply followRequest_frame
                                              | apply success_frame | apply modCtrl_frame); decide)
    | with_reducible apply Frame.ite
    | (extract_lets +onlyGivenNames x; clear_value (e : x = _); apply Frame.cut x; (subst e); rotate_left;
       (intro h); (clear e); rotate_right)
    | extract_lets +onlyGivenNames y
    | split
    | (with_reducible apply Frame.foldlPair; rotate_left; intro u x; (try dsimp -zeta -proj -eta only); rotate_right)
    | (with_reducible apply Frame.foldl; rotate_left; intro u x; (try dsimp -zeta -proj -eta only); rotate_right)
    | fail_if_no_progress (dsimp +zetaDelta -zeta -proj -eta only)
    | fail_if_no_progress (dsimp -zeta -eta only)

theorem doSetmask_frame :
    ∀ x0 x1 x2 x3 s, Frame [.ctrls, .sched, .engines, .mem, .cache, .search, .benches, .errors, .out] s
        (doSetmask x0 x1 x2 x3 s) := by
  intro x0 x1 x2 x3 s
  unfold doSetmask
  repeat' first
    | with_reducible apply Frame.refl
    | (apply Frame.via; with_reducible (first | apply engineFault_frame | apply scratchUe_frame
                                              | apply modEngine_frame); decide)
    | split

theorem doSlotsFreed_frame :
    ∀ x0 s, Frame [.ctrls] s (doSlotsFreed x0 s) := by
  intro x0 s
  unfold doSlotsFreed
  repeat' first
    | with_reducible apply Frame.refl
    | (apply Frame.via; with_reducible apply modCtrl_frame; decide)
    | extract_lets +onlyGivenNames y
    | split

theorem doSpdmChallenge_frame :
    ∀ x0 x1 x2 s, Frame [.ctrls, .pewter, .errors, .sec, .out, .free] s (doSpdmChallenge x0 x1 x2 s) := by
  intro x0 x1 x2 s
  unfold doSpdmChallenge
  repeat' first
    | with_reducible apply Frame.refl
    | (apply Frame.via; with_reducible (first | apply spdmSigned_frame | apply spdmError_frame
                                              | apply freshBytes_frame); decide)
    | with_reducible apply Frame.ite
    | fail_if_no_progress (apply Frame.via; with_reducible apply Frame.sec; decide)

theorem doStagingComplete_frame :
    ∀ x0 x1 x2 s, Frame [.ctrls, .sched, .engines, .mem, .cache, .ingots, .search, .benches, .flash, .errors, .out]
        s (doStagingComplete x0 x1 x2 s) := by
  intro x0 x1 x2 s
  unfold doStagingComplete
  repeat' first
    | with_reducible apply Frame.refl
    | with_reducible assumption
    | (apply Frame.via; with_reducible (first | apply writeGranules_frame | apply hashMismatch_frame
                                              | apply modCache_frame); decide)
    | with_reducible apply Frame.ite
    | (extract_lets +onlyGivenNames x; clear_value (e : x = _); apply Frame.cut x; (subst e); rotate_left;
       (intro h); (clear e); rotate_right)
    | extract_lets +onlyGivenNames y
    | split
    | (with_reducible apply Frame.foldlPair; rotate_left; intro u x; (try dsimp -zeta -proj -eta only); rotate_right)
    | (with_reducible apply Frame.foldl; rotate_left; intro u x; (try dsimp -zeta -proj -eta only); rotate_right)
    | fail_if_no_progress (dsimp +zetaDelta -zeta -proj -eta only)
    | fail_if_no_progress (dsimp -zeta -eta only)

theorem doStandbyBootDone_frame :
    ∀ s, Frame [.power, .ctrls, .engines, .mem, .cache, .search, .benches, .flash, .links, .pewter, .errors, .sec,
                .fw, .bmc, .out, .free] s (doStandbyBootDone s) := by
  intro s
  unfold doStandbyBootDone
  repeat' first
    | with_reducible apply Frame.refl
    | with_reducible assumption
    | (apply Frame.via; with_reducible (first | apply boot_frame | apply loadOptions_frame | apply bootBank_frame
                                              | apply modPower_frame); decide)
    | with_reducible apply Frame.ite
    | (extract_lets +onlyGivenNames x; clear_value (e : x = _); apply Frame.cut x; (subst e); rotate_left;
       (intro h); (clear e); rotate_right)
    | extract_lets +onlyGivenNames y
    | split
    | (with_reducible apply Frame.foldlPair; rotate_left; intro u x; (try dsimp -zeta -proj -eta only); rotate_right)
    | (with_reducible apply Frame.foldl; rotate_left; intro u x; (try dsimp -zeta -proj -eta only); rotate_right)
    | fail_if_no_progress (apply Frame.via; with_reducible apply Frame.bmc; decide)
    | fail_if_no_progress (dsimp +zetaDelta -zeta -proj -eta only)
    | fail_if_no_progress (dsimp -zeta -eta only)

theorem doStreamPageProgram_frame :
    ∀ x0 x1 x2 s, Frame [.flash] s (doStreamPageProgram x0 x1 x2 s) := by
  intro x0 x1 x2 s
  unfold doStreamPageProgram
  repeat' first
    | with_reducible apply Frame.refl
    | (apply Frame.via; with_reducible apply modFlash_frame; decide)
    | with_reducible apply Frame.ite
    | split

theorem doStrokeBoundary_frame :
    ∀ x0 s, Frame [.power, .ctrls, .mold, .grid, .sched, .engines, .mem, .cache, .ingots, .search, .benches, .flash,
                   .errors, .burnish, .sec, .dev, .out, .free] s (doStrokeBoundary x0 s) := by
  intro x0 s
  unfold doStrokeBoundary
  repeat' first
    | with_reducible apply Frame.refl
    | with_reducible assumption
    | (apply Frame.via; with_reducible (first | apply measurePhase_frame | apply countBoundary_frame
                                              | apply boundary_frame); decide)
    | with_reducible apply Frame.ite
    | (extract_lets +onlyGivenNames x; clear_value (e : x = _); apply Frame.cut x; (subst e); rotate_left;
       (intro h); (clear e); rotate_right)
    | extract_lets +onlyGivenNames y
    | split
    | (with_reducible apply Frame.foldlPair; rotate_left; intro u x; (try dsimp -zeta -proj -eta only); rotate_right)
    | (with_reducible apply Frame.foldl; rotate_left; intro u x; (try dsimp -zeta -proj -eta only); rotate_right)
    | fail_if_no_progress (dsimp +zetaDelta -zeta -proj -eta only)
    | fail_if_no_progress (dsimp -zeta -eta only)

theorem doTargetRead_frame :
    ∀ x0 x1 s, Frame [.power, .mold, .grid, .sched, .engines, .cache, .benches, .flash, .links, .pewter, .errors,
                      .burnish, .dev, .out, .free] s (doTargetRead x0 x1 s) := by
  intro x0 x1 s
  unfold doTargetRead
  repeat' first
    | with_reducible apply Frame.refl
    | with_reducible assumption
    | (apply Frame.via; with_reducible (first | apply doRegisterRead_frame | apply doArrayRead_frame
                                              | apply sendWord_frame); decide)
    | with_reducible apply Frame.ite
    | (extract_lets +onlyGivenNames x; clear_value (e : x = _); apply Frame.cut x; (subst e); rotate_left;
       (intro h); (clear e); rotate_right)
    | extract_lets +onlyGivenNames y
    | split
    | (with_reducible apply Frame.foldlPair; rotate_left; intro u x; (try dsimp -zeta -proj -eta only); rotate_right)
    | (with_reducible apply Frame.foldl; rotate_left; intro u x; (try dsimp -zeta -proj -eta only); rotate_right)
    | fail_if_no_progress (dsimp +zetaDelta -zeta -proj -eta only)
    | fail_if_no_progress (dsimp -zeta -eta only)

theorem doThermalSensorRead_frame :
    ∀ x0 s, Frame [.power, .ctrls, .mold, .grid, .sched, .engines, .mem, .cache, .ingots, .search, .benches, .flash,
                   .links, .pewter, .errors, .burnish, .sec, .fw, .bmc, .dev, .out] s (doThermalSensorRead x0 s) := by
  intro x0 s
  unfold doThermalSensorRead
  repeat' first
    | with_reducible apply Frame.refl
    | with_reducible assumption
    | (apply Frame.via; with_reducible (first | apply trip_frame | apply readSensors_frame); decide)
    | (with_reducible apply withSmart_frame; rotate_left; decide; (try dsimp -zeta -proj -eta only))
    | with_reducible apply Frame.ite
    | (extract_lets +onlyGivenNames x; clear_value (e : x = _); apply Frame.cut x; (subst e); rotate_left;
       (intro h); (clear e); rotate_right)
    | extract_lets +onlyGivenNames y
    | split
    | (with_reducible apply Frame.foldlPair; rotate_left; intro u x; (try dsimp -zeta -proj -eta only); rotate_right)
    | (with_reducible apply Frame.foldl; rotate_left; intro u x; (try dsimp -zeta -proj -eta only); rotate_right)
    | fail_if_no_progress (dsimp +zetaDelta -zeta -proj -eta only)
    | fail_if_no_progress (dsimp -zeta -eta only)

theorem doTokenBatchHandoff_frame :
    ∀ x0 x1 x2 s, Frame [.search, .benches] s (doTokenBatchHandoff x0 x1 x2 s) := by
  intro x0 x1 x2 s
  unfold doTokenBatchHandoff
  repeat' first
    | with_reducible apply Frame.refl
    | (apply Frame.via; with_reducible (first | apply modObj_frame | apply modBench_frame); decide)
    | with_reducible apply Frame.ite
    | (with_reducible apply Frame.foldl; rotate_left; intro u x; (try dsimp -zeta -proj -eta only); rotate_right)

theorem doTouchstone_frame :
    ∀ x0 x1 s, Frame [.ctrls, .sched, .engines, .mem, .cache, .search, .benches, .errors, .out] s
        (doTouchstone x0 x1 s) := by
  intro x0 x1 s
  unfold doTouchstone
  repeat' first
    | with_reducible apply Frame.refl
    | (apply Frame.via; with_reducible (first | apply charge_frame | apply faultJob_frame | apply modEngine_frame
                                              | apply report_frame); decide)
    | with_reducible apply Frame.ite
    | split

theorem doUnitComplete_frame :
    ∀ x0 x1 x2 s, Frame [.ctrls, .sched, .engines, .mem, .cache, .ingots, .search, .benches, .flash, .pewter,
                         .errors, .sec, .out, .free] s (doUnitComplete x0 x1 x2 s) := by
  intro x0 x1 x2 s
  unfold doUnitComplete
  dsimp -proj -eta only
  repeat' first
    | with_reducible apply Frame.refl
    | (apply Frame.via; with_reducible (first | apply unitStands_frame | apply replayUnit_frame
                                              | apply replayRecord_frame | apply joinParts_frame
                                                  | apply chargeParts_frame | apply faultJob_frame
                                                      | apply charge_frame | apply modJob_frame); decide)
    | split
    | (with_reducible apply Frame.foldl; rotate_left; intro u x; (try dsimp -zeta -proj -eta only); rotate_right)

theorem doUnitPlacement_frame :
    ∀ x0 x1 s, Frame [.ctrls, .sched, .engines, .mem, .cache, .search, .benches, .errors, .out, .free] s
        (doUnitPlacement x0 x1 s) := by
  intro x0 x1 s
  unfold doUnitPlacement
  dsimp -proj -eta only
  repeat' first
    | with_reducible apply Frame.refl
    | with_reducible assumption
    | (apply Frame.via; with_reducible (first | apply placeOnBench_frame | apply parts_frame | apply faultJob_frame
                                              | apply placeOn_frame | apply modJob_frame); decide)
    | with_reducible apply Frame.ite
    | (extract_lets +onlyGivenNames x; clear_value (e : x = _); apply Frame.cut x; (subst e); rotate_left;
       (intro h); (clear e); rotate_right)
    | extract_lets +onlyGivenNames y
    | split
    | (with_reducible apply Frame.foldlPair; rotate_left; intro u x; (try dsimp -zeta -proj -eta only); rotate_right)
    | (with_reducible apply Frame.foldl; rotate_left; intro u x; (try dsimp -zeta -proj -eta only); rotate_right)
    | (refine Frame.via ((parts_frame _ _ _ _ _ _).of_eq (congrArg Prod.snd (by assumption))) (by decide) ?_)
    | fail_if_no_progress (dsimp +zetaDelta -zeta -proj -eta only)
    | fail_if_no_progress (dsimp -zeta -eta only)

theorem doVaultProgram_frame :
    ∀ s, Frame [.ctrls, .pewter, .errors, .out] s (doVaultProgram s) := by
  intro s
  unfold doVaultProgram
  repeat' first
    | with_reducible apply Frame.refl
    | (apply Frame.via; with_reducible (first | apply pwtPulse_frame | apply secLatch_frame | apply pwtEnd_frame);
       decide)
    | (with_reducible apply pwtStart_frame; rotate_left; decide; intro u; (try dsimp -zeta -proj -eta only))
    | with_reducible apply Frame.ite

theorem doVaultZeroise_frame :
    ∀ s, Frame [.pewter] s (doVaultZeroise s) := by
  intro s
  unfold doVaultZeroise
  repeat' first
    | with_reducible apply Frame.refl
    | (apply Frame.via; with_reducible (first | apply pwtPulse_frame | apply pwtEnd_frame); decide)
    | (with_reducible apply pwtStart_frame; rotate_left; decide; intro u; (try dsimp -zeta -proj -eta only))
    | with_reducible apply Frame.ite

theorem doVcvt_frame :
    ∀ x0 x1 s, Frame [.ctrls, .sched, .engines, .mem, .cache, .search, .benches, .errors, .out, .free] s
        (doVcvt x0 x1 s) := by
  intro x0 x1 s
  unfold doVcvt
  repeat' first
    | with_reducible apply Frame.refl
    | (apply Frame.via; with_reducible (first | apply skewFault_frame | apply engineFault_frame
                                              | apply convert_frame | apply scratchUe_frame); decide)
    | extract_lets +onlyGivenNames y
    | split

theorem doVectorComplete_frame :
    ∀ x0 s, Frame [.engines] s (doVectorComplete x0 s) := by
  intro x0 s
  unfold doVectorComplete
  repeat' first
    | with_reducible apply Frame.refl
    | (apply Frame.via; with_reducible apply modEngine_frame; decide)

theorem doVop_frame :
    ∀ x0 x1 s, Frame [.ctrls, .sched, .engines, .mem, .cache, .search, .benches, .errors, .out, .free] s
        (doVop x0 x1 s) := by
  intro x0 x1 s
  unfold doVop
  repeat' first
    | with_reducible apply Frame.refl
    | (apply Frame.via; with_reducible (first | apply engineFault_frame | apply vecWrite_frame
                                              | apply scratchUe_frame | apply freshN_frame | apply modEngine_frame);
                                                  decide)
    | extract_lets +onlyGivenNames y
    | split

theorem doVred_frame :
    ∀ x0 x1 s, Frame [.ctrls, .sched, .engines, .mem, .cache, .search, .benches, .errors, .out, .free] s
        (doVred x0 x1 s) := by
  intro x0 x1 s
  unfold doVred
  repeat' first
    | with_reducible apply Frame.refl
    | (apply Frame.via; with_reducible (first | apply engineFault_frame | apply vecWrite_frame
                                              | apply scratchUe_frame | apply modEngine_frame | apply fresh_frame);
                                                  decide)
    | extract_lets +onlyGivenNames y
    | split

theorem doWearLevelMove_frame :
    ∀ x0 x1 s, Frame [.mem, .cache, .search, .flash] s (doWearLevelMove x0 x1 s) := by
  intro x0 x1 s
  unfold doWearLevelMove
  repeat' first
    | with_reducible apply Frame.refl
    | (apply Frame.via; with_reducible (first | apply moveTo_frame | apply modFlash_frame); decide)
    | extract_lets +onlyGivenNames y
    | split

theorem doWriteBackGranule_frame :
    ∀ x0 x1 x2 s, Frame [.sched, .mem, .cache, .search, .flash] s (doWriteBackGranule x0 x1 x2 s) := by
  intro x0 x1 x2 s
  unfold doWriteBackGranule
  repeat' first
    | with_reducible apply Frame.refl
    | with_reducible assumption
    | (apply Frame.via; with_reducible (first | apply chargeWork_frame | apply granuleHome_frame); decide)
    | with_reducible apply Frame.ite
    | (extract_lets +onlyGivenNames x; clear_value (e : x = _); apply Frame.cut x; (subst e); rotate_left;
       (intro h); (clear e); rotate_right)
    | extract_lets +onlyGivenNames y
    | split
    | (with_reducible apply Frame.foldlPair; rotate_left; intro u x; (try dsimp -zeta -proj -eta only); rotate_right)
    | (with_reducible apply Frame.foldl; rotate_left; intro u x; (try dsimp -zeta -proj -eta only); rotate_right)
    | (refine Frame.via (programHome_frame _ _ _ _ (by assumption)) (by decide) ?_)
    | (refine Frame.via (Frame.getD (fun u h => programHome_frame _ _ _ u h)) (by decide) ?_)
    | fail_if_no_progress (dsimp +zetaDelta -zeta -proj -eta only)
    | fail_if_no_progress (dsimp -zeta -eta only)

theorem doXfer_frame :
    ∀ x0 x1 s, Frame [.ctrls, .sched, .engines, .mem, .cache, .search, .benches, .errors, .out] s
        (doXfer x0 x1 s) := by
  intro x0 x1 s
  unfold doXfer
  repeat' first
    | with_reducible apply Frame.refl
    | (apply Frame.via; with_reducible (first | apply engineFault_frame | apply takeCredit_frame
                                              | apply modEngine_frame); decide)
    | split

theorem doXferComplete_frame :
    ∀ x0 s, Frame [.ctrls, .sched, .engines, .mem, .cache, .search, .benches, .errors, .out] s
        (doXferComplete x0 s) := by
  intro x0 s
  unfold doXferComplete
  dsimp -proj -eta only
  repeat' first
    | with_reducible apply Frame.refl
    | with_reducible assumption
    | (apply Frame.via; with_reducible (first | apply touchRange_frame | apply startRefetch_frame
                                              | apply returnCredit_frame | apply joinRefetch_frame
                                                  | apply scratchUe_frame | apply engineWrite_frame
                                                      | apply modEngine_frame); decide)
    | with_reducible apply Frame.ite
    | (extract_lets +onlyGivenNames x; clear_value (e : x = _); apply Frame.cut x; (subst e); rotate_left;
       (intro h); (clear e); rotate_right)
    | extract_lets +onlyGivenNames y
    | split
    | (with_reducible apply Frame.foldlPair; rotate_left; intro u x; (try dsimp -zeta -proj -eta only); rotate_right)
    | (with_reducible apply Frame.foldl; rotate_left; intro u x; (try dsimp -zeta -proj -eta only); rotate_right)
    | fail_if_no_progress (dsimp +zetaDelta -zeta -proj -eta only)
    | fail_if_no_progress (dsimp -zeta -eta only)

theorem doZqCalibration_frame :
    ∀ x0 x1 s, Frame [.flash] s (doZqCalibration x0 x1 s) := by
  intro x0 x1 s
  unfold doZqCalibration
  repeat' first
    | with_reducible apply Frame.refl
    | (apply Frame.via; with_reducible apply modFlash_frame; decide)
    | with_reducible apply Frame.ite

end Sys2Proof.Laws
end

