-- ==== Sys2Proof/Laws/Exec.lean ====
section
/-! SUPPORT. Every command answers a next state, and changes only the parts of the state named here. -/

namespace Sys2Proof.Laws

set_option linter.all false
set_option Elab.async false

open Sys2Proof Sys2Proof.Machine

theorem execInputGood_frame (x0 x1 s) :
    ∃ t, execInputGood x0 x1 s = .next t ∧ Frame [.power, .clockUs] s t :=
  ⟨_, rfl, by apply doInputGood_frame⟩

theorem execStandbyBootDone_frame (s) :
    ∃ t, execStandbyBootDone s = .next t ∧ Frame [.power, .ctrls, .engines, .mem, .cache, .search, .benches, .flash,
                                                  .links, .pewter, .errors, .sec, .fw, .bmc, .out, .free] s t :=
  ⟨_, rfl, by apply doStandbyBootDone_frame⟩

theorem execInputPowerLost_frame (x0 x1 s) :
    ∃ t, execInputPowerLost x0 x1 s = .next t ∧ Frame [.power, .ctrls, .mold, .grid, .sched, .engines, .mem, .cache,
                                                       .ingots, .search, .benches, .flash, .links, .pewter, .errors,
                                                           .burnish, .sec, .fw, .bmc, .dev] s t :=
  ⟨_, rfl, by apply doInputPowerLost_frame⟩

theorem execModuleReset_frame (s) :
    ∃ t, execModuleReset s = .next t ∧ Frame [.power, .ctrls, .mold, .grid, .sched, .engines, .mem, .cache, .ingots,
                                              .search, .benches, .flash, .links, .pewter, .errors, .burnish, .sec,
                                                  .fw, .bmc, .dev, .out, .free] s t :=
  ⟨_, rfl, by apply doModuleReset_frame⟩

theorem execPerstADeassert_frame (x0 x1 s) :
    ∃ t, execPerstADeassert x0 x1 s = .next t ∧ Frame [.power, .ctrls, .engines, .mem, .cache, .search, .benches,
                                                       .flash, .links, .pewter, .errors, .sec, .fw, .bmc, .out,
                                                           .free] s t :=
  ⟨_, rfl, by apply doPerstADeassert_frame⟩

theorem execLinkTrainingComplete_frame (x0 s) :
    ∃ t, execLinkTrainingComplete x0 s = .next t ∧ Frame [.ctrls, .links, .out, .free] s t :=
  ⟨_, rfl, by apply doLinkTrainingComplete_frame⟩

theorem execInternalBootEnd_frame (x0 s) :
    ∃ t, execInternalBootEnd x0 s = .next t ∧ Frame [.power, .ctrls, .bmc, .dev] s t :=
  ⟨_, rfl, by apply doInternalBootEnd_frame⟩

theorem execPerstBAssert_frame (s) :
    ∃ t, execPerstBAssert s = .next t ∧ Frame [.power, .ctrls, .mold, .sched, .engines, .mem, .cache, .search,
                                               .benches, .flash] s t :=
  ⟨_, rfl, by apply doPerstBAssert_frame⟩

theorem execFunctionLevelReset_frame (x0 s) :
    ∃ t, execFunctionLevelReset x0 s = .next t ∧ Frame [.power, .ctrls, .mold, .sched, .engines, .mem, .cache,
                                                        .search, .benches, .flash] s t :=
  ⟨_, rfl, by apply doFlr_frame⟩

theorem execControllerEnable_frame (x0 x1 x2 x3 s) :
    ∃ t, execControllerEnable x0 x1 x2 x3 s = .next t ∧ Frame [.ctrls] s t :=
  ⟨_, rfl, by apply doControllerEnable_frame⟩

theorem execControllerReady_frame (x0 s) :
    ∃ t, execControllerReady x0 s = .next t ∧ Frame [.ctrls] s t :=
  ⟨_, rfl, by apply doControllerReady_frame⟩

theorem execControllerReset_frame (x0 s) :
    ∃ t, execControllerReset x0 s = .next t ∧ Frame [.power, .ctrls, .mold, .sched, .engines, .mem, .cache, .search,
                                                     .benches, .flash] s t :=
  ⟨_, rfl, by apply doControllerReset_frame⟩

theorem execControllerShutdown_frame (x0 x1 s) :
    ∃ t, execControllerShutdown x0 x1 s = .next t ∧ Frame [.ctrls, .sched, .mem, .cache, .ingots, .search, .benches,
                                                           .flash, .errors, .out, .free] s t :=
  ⟨_, rfl, by apply doControllerShutdown_frame⟩

theorem execSqTailDoorbell_frame (x0 x1 x2 s) :
    ∃ t, execSqTailDoorbell x0 x1 x2 s = .next t ∧ Frame [.power, .ctrls] s t :=
  ⟨_, rfl, by apply doSqDoorbell_frame⟩

theorem execCqHeadDoorbell_frame (x0 x1 x2 s) :
    ∃ t, execCqHeadDoorbell x0 x1 x2 s = .next t ∧ Frame [.ctrls, .out] s t :=
  ⟨_, rfl, by apply doCqDoorbell_frame⟩

theorem execSubmissionEntryFetched_frame (x0 s) :
    ∃ t, execSubmissionEntryFetched x0 s = .next t ∧ Frame [.power, .ctrls, .out] s t :=
  ⟨_, rfl, by apply doFetched_frame⟩

theorem execFetchSlotsFreed_frame (x0 s) :
    ∃ t, execFetchSlotsFreed x0 s = .next t ∧ Frame [.ctrls] s t :=
  ⟨_, rfl, by apply doSlotsFreed_frame⟩

theorem execHostReadPoisoned_frame (x0 s) :
    ∃ t, execHostReadPoisoned x0 s = .next t ∧ Frame [.ctrls, .mold, .search, .out] s t := by
  refine ⟨_, rfl, ?_⟩
  repeat' first
    | with_reducible apply Frame.refl
    | (apply Frame.via; with_reducible apply refuse_frame; decide)
    | (with_reducible apply hostReadFailed_frame; rotate_left; decide; intro u; (try dsimp -zeta -proj -eta only))

theorem execHostReadTimeout_frame (x0 s) :
    ∃ t, execHostReadTimeout x0 s = .next t ∧ Frame [.ctrls, .mold, .search, .out] s t := by
  refine ⟨_, rfl, ?_⟩
  repeat' first
    | with_reducible apply Frame.refl
    | (apply Frame.via; with_reducible apply transferError_frame; decide)
    | (with_reducible apply hostReadFailed_frame; rotate_left; decide; intro u; (try dsimp -zeta -proj -eta only))

theorem execSchedulerArrival_frame (x0 s) :
    ∃ t, execSchedulerArrival x0 s = .next t ∧ Frame [.ctrls, .sched, .engines, .out] s t :=
  ⟨_, rfl, by apply doSchedulerArrival_frame⟩

theorem execMsixVectorUnmask_frame (x0 x1 s) :
    ∃ t, execMsixVectorUnmask x0 x1 s = .next t ∧ Frame [.ctrls, .out] s t :=
  ⟨_, rfl, by apply doMsixUnmask_frame⟩

theorem execPtmDialogIssue_frame (s) :
    ∃ t, execPtmDialogIssue s = .next t ∧ Frame [.grid, .out] s t :=
  ⟨_, rfl, by apply doPtmIssue_frame⟩

theorem execPtmDialogComplete_frame (x0 x1 s) :
    ∃ t, execPtmDialogComplete x0 x1 s = .next t ∧ Frame [.grid] s t :=
  ⟨_, rfl, by apply doPtmComplete_frame⟩

theorem execSpdmGetVersion_frame (x0 s) :
    ∃ t, execSpdmGetVersion x0 s = .next t ∧ Frame [.sec, .out] s t := by
  refine ⟨_, rfl, ?_⟩
  repeat' first
    | with_reducible apply Frame.refl
    | (apply Frame.via; with_reducible (first | apply setConn_frame | apply emit_frame); decide)
    | (with_reducible apply atPort_frame; (try dsimp -zeta -proj -eta only))

theorem execSpdmGetCapabilities_frame (x0 s) :
    ∃ t, execSpdmGetCapabilities x0 s = .next t ∧ Frame [.sec, .out] s t := by
  refine ⟨_, rfl, ?_⟩
  repeat' first
    | with_reducible apply Frame.refl
    | (apply Frame.via; with_reducible (first | apply setConn_frame | apply spdmError_frame | apply emit_frame);
       decide)
    | (with_reducible apply atPort_frame; (try dsimp -zeta -proj -eta only))
    | with_reducible apply Frame.ite

theorem execSpdmNegotiateAlgorithms_frame (x0 s) :
    ∃ t, execSpdmNegotiateAlgorithms x0 s = .next t ∧ Frame [.sec, .out] s t := by
  refine ⟨_, rfl, ?_⟩
  repeat' first
    | with_reducible apply Frame.refl
    | (apply Frame.via; with_reducible (first | apply setConn_frame | apply spdmError_frame | apply emit_frame);
       decide)
    | (with_reducible apply atPort_frame; (try dsimp -zeta -proj -eta only))
    | with_reducible apply Frame.ite

theorem execSpdmChallenge_frame (x0 x1 x2 s) :
    ∃ t, execSpdmChallenge x0 x1 x2 s = .next t ∧ Frame [.ctrls, .pewter, .errors, .sec, .out, .free] s t := by
  refine ⟨_, rfl, ?_⟩
  repeat' first
    | with_reducible apply Frame.refl
    | (apply Frame.via; with_reducible apply doSpdmChallenge_frame; decide)
    | (with_reducible apply atPort_frame; (try dsimp -zeta -proj -eta only))

theorem execSpdmGetMeasurements_frame (x0 x1 x2 x3 s) :
    ∃ t, execSpdmGetMeasurements x0 x1 x2 x3 s = .next t ∧ Frame [.ctrls, .pewter, .errors, .sec, .out, .free]
        s t := by
  refine ⟨_, rfl, ?_⟩
  repeat' first
    | with_reducible apply Frame.refl
    | (apply Frame.via; with_reducible apply doSpdmMeasurements_frame; decide)
    | (with_reducible apply atPort_frame; (try dsimp -zeta -proj -eta only))

theorem execSpdmUnsupportedRequest_frame (x0 x1 s) :
    ∃ t, execSpdmUnsupportedRequest x0 x1 s = .next t ∧ Frame [.out] s t := by
  refine ⟨_, rfl, ?_⟩
  repeat' first
    | with_reducible apply Frame.refl
    | (apply Frame.via; with_reducible apply emit_frame; decide)
    | (with_reducible apply atPort_frame; (try dsimp -zeta -proj -eta only))

theorem execIdeKmQuery_frame (x0 x1 s) :
    ∃ t, execIdeKmQuery x0 x1 s = .next t ∧ Frame [.out] s t := by
  refine ⟨_, rfl, ?_⟩
  repeat' first
    | with_reducible apply Frame.refl
    | (apply Frame.via; with_reducible apply emit_frame; decide)

theorem execIdeKmKeyProg_frame (x0 x1 x2 s) :
    ∃ t, execIdeKmKeyProg x0 x1 x2 s = .next t ∧ Frame [.ctrls, .out] s t := by
  refine ⟨_, rfl, ?_⟩
  repeat' first
    | with_reducible apply Frame.refl
    | (apply Frame.via; with_reducible (first | apply emit_frame | apply modCtrl_frame); decide)

theorem execIdeKmKSetGo_frame (x0 x1 s) :
    ∃ t, execIdeKmKSetGo x0 x1 s = .next t ∧ Frame [.ctrls, .out] s t := by
  refine ⟨_, rfl, ?_⟩
  repeat' first
    | with_reducible apply Frame.refl
    | (apply Frame.via; with_reducible apply ideGo_frame; decide)

theorem execIdeKmKSetStop_frame (x0 x1 s) :
    ∃ t, execIdeKmKSetStop x0 x1 s = .next t ∧ Frame [.ctrls, .out] s t := by
  refine ⟨_, rfl, ?_⟩
  repeat' first
    | with_reducible apply Frame.refl
    | (apply Frame.via; with_reducible apply ideGo_frame; decide)

theorem execIdentify_frame (x0 s) :
    ∃ t, execIdentify x0 s = .next t ∧ Frame [.ctrls, .out] s t :=
  ⟨_, rfl, by apply doIdentify_frame⟩

theorem execGetLogPage_frame (x0 x1 s) :
    ∃ t, execGetLogPage x0 x1 s = .next t ∧ Frame [.ctrls, .out] s t :=
  ⟨_, rfl, by apply doGetLogPage_frame⟩

theorem execSetFeatures_frame (x0 x1 s) :
    ∃ t, execSetFeatures x0 x1 s = .next t ∧ Frame [.power, .ctrls, .sched, .engines, .mem, .cache, .search,
                                                    .benches, .flash, .out] s t :=
  ⟨_, rfl, by apply doSetFeatures_frame⟩

theorem execGetFeatures_frame (x0 s) :
    ∃ t, execGetFeatures x0 s = .next t ∧ Frame [.ctrls, .out] s t :=
  ⟨_, rfl, by apply doGetFeatures_frame⟩

theorem execAbort_frame (x0 s) :
    ∃ t, execAbort x0 s = .next t ∧ Frame [.ctrls, .out] s t :=
  ⟨_, rfl, by apply doAbort_frame⟩

theorem execCreateIoSq_frame (x0 s) :
    ∃ t, execCreateIoSq x0 s = .next t ∧ Frame [.ctrls, .out] s t :=
  ⟨_, rfl, by apply doCreateIoSq_frame⟩

theorem execCreateIoCq_frame (x0 s) :
    ∃ t, execCreateIoCq x0 s = .next t ∧ Frame [.ctrls, .out] s t :=
  ⟨_, rfl, by apply doCreateIoCq_frame⟩

theorem execDeleteIoSq_frame (x0 s) :
    ∃ t, execDeleteIoSq x0 s = .next t ∧ Frame [.ctrls, .out] s t :=
  ⟨_, rfl, by apply doDeleteIoSq_frame⟩

theorem execDeleteIoCq_frame (x0 s) :
    ∃ t, execDeleteIoCq x0 s = .next t ∧ Frame [.ctrls, .out] s t :=
  ⟨_, rfl, by apply doDeleteIoCq_frame⟩

theorem execAsyncEventRequest_frame (x0 s) :
    ∃ t, execAsyncEventRequest x0 s = .next t ∧ Frame [.ctrls, .out] s t :=
  ⟨_, rfl, by apply doAer_frame⟩

theorem execFirmwareImageDownload_frame (x0 x1 s) :
    ∃ t, execFirmwareImageDownload x0 x1 s = .next t ∧ Frame [.ctrls, .pewter, .fw, .out] s t :=
  ⟨_, rfl, by apply doFirmwareDownload_frame⟩

theorem execFirmwareCommit_frame (x0 s) :
    ∃ t, execFirmwareCommit x0 s = .next t ∧ Frame [.ctrls, .pewter, .errors, .fw, .out] s t :=
  ⟨_, rfl, by apply doFirmwareCommit_frame⟩

theorem execMoldLoad_frame (x0 x1 s) :
    ∃ t, execMoldLoad x0 x1 s = .next t ∧ Frame [.ctrls, .mold, .out] s t :=
  ⟨_, rfl, by apply doMoldLoad_frame⟩

theorem execMoldLoadValidated_frame (s) :
    ∃ t, execMoldLoadValidated s = .next t ∧ Frame [.power, .ctrls, .mold, .grid, .sched, .engines, .mem, .cache,
                                                    .search, .benches, .flash, .pewter, .errors, .sec, .out, .free]
                                                        s t :=
  ⟨_, rfl, by apply doMoldLoadValidated_frame⟩

theorem execRecast_frame (x0 x1 s) :
    ∃ t, execRecast x0 x1 s = .next t ∧ Frame [.ctrls, .mold, .out] s t :=
  ⟨_, rfl, by apply doRecast_frame⟩

theorem execRecastValidated_frame (s) :
    ∃ t, execRecastValidated s = .next t ∧ Frame [.ctrls, .mold, .sched, .engines, .out] s t :=
  ⟨_, rfl, by apply doRecastValidated_frame⟩

theorem execRecastDrainComplete_frame (s) :
    ∃ t, execRecastDrainComplete s = .next t ∧ Frame [.power, .ctrls, .mold, .sched, .engines, .mem, .cache,
                                                      .search, .benches, .flash, .errors, .burnish, .sec, .dev,
                                                          .out, .free] s t :=
  ⟨_, rfl, by apply doRecastDrainComplete_frame⟩

theorem execHallmarkGetStatus_frame (x0 s) :
    ∃ t, execHallmarkGetStatus x0 s = .next t ∧ Frame [.ctrls, .out] s t :=
  ⟨_, rfl, by apply doHallmarkStatus_frame⟩

theorem execHallmarkGetRoots_frame (x0 s) :
    ∃ t, execHallmarkGetRoots x0 s = .next t ∧ Frame [.ctrls, .pewter, .out] s t :=
  ⟨_, rfl, by apply doHallmarkRoots_frame⟩

theorem execHallmarkGetAttest_frame (x0 s) :
    ∃ t, execHallmarkGetAttest x0 s = .next t ∧ Frame [.ctrls, .pewter, .errors, .sec, .out] s t :=
  ⟨_, rfl, by apply doHallmarkAttest_frame⟩

theorem execLifecycle_frame (x0 s) :
    ∃ t, execLifecycle x0 s = .next t ∧ Frame [.power, .ctrls, .mold, .grid, .sched, .engines, .mem, .cache,
                                               .ingots, .search, .benches, .flash, .links, .pewter, .errors,
                                                   .burnish, .sec, .fw, .dev, .out, .free] s t :=
  ⟨_, rfl, by apply doLifecycle_frame⟩

theorem execBurnish_frame (x0 s) :
    ∃ t, execBurnish x0 s = .next t ∧ Frame [.ctrls, .burnish, .out] s t :=
  ⟨_, rfl, by apply doBurnish_frame⟩

theorem execBurnishComplete_frame (x0 x1 s) :
    ∃ t, execBurnishComplete x0 x1 s = .next t ∧ Frame [.ctrls, .mem, .errors, .burnish, .out] s t :=
  ⟨_, rfl, by apply doBurnishComplete_frame⟩

theorem execQuench_frame (x0 s) :
    ∃ t, execQuench x0 s = .next t ∧ Frame [.ctrls, .sched, .out] s t :=
  ⟨_, rfl, by apply doQuench_frame⟩

theorem execSchQuenchWrite_frame (x0 s) :
    ∃ t, execSchQuenchWrite x0 s = .next t ∧ Frame [.sched] s t := by
  refine ⟨_, rfl, ?_⟩
  repeat' first
    | with_reducible apply Frame.refl
    | (apply Frame.via; with_reducible apply takeQuench_frame; decide)

theorem execJobQuenchStop_frame (x0 s) :
    ∃ t, execJobQuenchStop x0 s = .next t ∧ Frame [.ctrls, .sched, .engines, .mem, .cache, .ingots, .search,
                                                   .benches, .flash, .pewter, .errors, .sec, .out, .free] s t :=
  ⟨_, rfl, by apply doJobQuenchStop_frame⟩

theorem execObjPut_frame (x0 x1 s) :
    ∃ t, execObjPut x0 x1 s = .next t ∧ Frame [.ctrls, .search, .out] s t :=
  ⟨_, rfl, by apply doObjPut_frame⟩

theorem execObjPutDurable_frame (x0 s) :
    ∃ t, execObjPutDurable x0 s = .next t ∧ Frame [.ctrls, .sched, .mem, .cache, .ingots, .search, .benches, .flash,
                                                   .errors, .out] s t :=
  ⟨_, rfl, by apply doObjPutDurable_frame⟩

theorem execObjGet_frame (x0 x1 x2 s) :
    ∃ t, execObjGet x0 x1 x2 s = .next t ∧ Frame [.ctrls, .sched, .search, .benches, .out] s t :=
  ⟨_, rfl, by apply doObjGet_frame⟩

theorem execObjDelete_frame (x0 s) :
    ∃ t, execObjDelete x0 s = .next t ∧ Frame [.ctrls, .search, .out] s t :=
  ⟨_, rfl, by apply doObjDelete_frame⟩

theorem execObjDeleteDurable_frame (x0 s) :
    ∃ t, execObjDeleteDurable x0 s = .next t ∧ Frame [.ctrls, .mem, .cache, .search, .benches, .flash, .out] s t :=
  ⟨_, rfl, by apply doObjDeleteDurable_frame⟩

theorem execObjStat_frame (x0 s) :
    ∃ t, execObjStat x0 s = .next t ∧ Frame [.ctrls, .out] s t :=
  ⟨_, rfl, by apply doObjStat_frame⟩

theorem execJobSubmit_frame (x0 x1 s) :
    ∃ t, execJobSubmit x0 x1 s = .next t ∧ Frame [.ctrls, .sched, .engines, .mem, .out, .free] s t :=
  ⟨_, rfl, by apply doJobSubmit_frame⟩

theorem execJobStatus_frame (x0 s) :
    ∃ t, execJobStatus x0 s = .next t ∧ Frame [.ctrls, .out] s t :=
  ⟨_, rfl, by apply doJobStatus_frame⟩

theorem execQuery_frame (x0 x1 s) :
    ∃ t, execQuery x0 x1 s = .next t ∧ Frame [.ctrls, .sched, .out] s t :=
  ⟨_, rfl, by apply doQuery_frame⟩

theorem execIngotLoad_frame (x0 x1 s) :
    ∃ t, execIngotLoad x0 x1 s = .next t ∧ Frame [.ctrls, .sched, .mem, .cache, .ingots, .search, .flash, .out]
        s t :=
  ⟨_, rfl, by apply doIngotLoad_frame⟩

theorem execIngotValidationDone_frame (x0 s) :
    ∃ t, execIngotValidationDone x0 s = .next t ∧ Frame [.ctrls, .sched, .mem, .cache, .ingots, .search, .flash,
                                                         .out] s t :=
  ⟨_, rfl, by apply doIngotValidation_frame⟩

theorem execIngotLoadTimeout_frame (x0 s) :
    ∃ t, execIngotLoadTimeout x0 s = .next t ∧ Frame [.ctrls, .ingots, .flash, .errors, .out] s t :=
  ⟨_, rfl, by apply doIngotTimeout_frame⟩

theorem execIngotDrop_frame (x0 s) :
    ∃ t, execIngotDrop x0 s = .next t ∧ Frame [.ctrls, .engines, .mem, .cache, .ingots, .search, .benches, .flash,
                                               .out] s t :=
  ⟨_, rfl, by apply doIngotDrop_frame⟩

theorem execIngotRemoved_frame (x0 s) :
    ∃ t, execIngotRemoved x0 s = .next t ∧ Frame [.engines, .mem, .cache, .ingots, .flash] s t :=
  ⟨_, rfl, by apply doIngotRemoved_frame⟩

theorem execStrokeBoundary_frame (x0 s) :
    ∃ t, execStrokeBoundary x0 s = .next t ∧ Frame [.power, .ctrls, .mold, .grid, .sched, .engines, .mem, .cache,
                                                    .ingots, .search, .benches, .flash, .errors, .burnish, .sec,
                                                        .dev, .out, .free] s t :=
  ⟨_, rfl, by apply doStrokeBoundary_frame⟩

theorem execReferencePresent_frame (s) :
    ∃ t, execReferencePresent s = .next t ∧ Frame [.grid, .free] s t :=
  ⟨_, rfl, by apply doReferencePresent_frame⟩

theorem execReferenceLost_frame (s) :
    ∃ t, execReferenceLost s = .next t ∧ Frame [.ctrls, .grid, .sched, .out, .free] s t :=
  ⟨_, rfl, by apply doReferenceLost_frame⟩

theorem execGridLockAcquired_frame (s) :
    ∃ t, execGridLockAcquired s = .next t ∧ Frame [.grid, .free] s t :=
  ⟨_, rfl, by apply doGridLock_frame⟩

theorem execHoldoverExpiry_frame (s) :
    ∃ t, execHoldoverExpiry s = .next t ∧ Frame [.ctrls, .grid, .sched, .out] s t :=
  ⟨_, rfl, by apply doHoldoverExpiry_frame⟩

theorem execPowerTick_frame (x0 s) :
    ∃ t, execPowerTick x0 s = .next t ∧ Frame [.power, .sched] s t :=
  ⟨_, rfl, by apply doPowerTick_frame⟩

theorem execUnitPlacement_frame (x0 x1 s) :
    ∃ t, execUnitPlacement x0 x1 s = .next t ∧ Frame [.ctrls, .sched, .engines, .mem, .cache, .search, .benches,
                                                      .errors, .out, .free] s t :=
  ⟨_, rfl, by apply doUnitPlacement_frame⟩

theorem execUnitComplete_frame (x0 x1 x2 s) :
    ∃ t, execUnitComplete x0 x1 x2 s = .next t ∧ Frame [.ctrls, .sched, .engines, .mem, .cache, .ingots, .search,
                                                        .benches, .flash, .pewter, .errors, .sec, .out, .free]
                                                            s t :=
  ⟨_, rfl, by apply doUnitComplete_frame⟩

theorem execEnginePreempt_frame (x0 s) :
    ∃ t, execEnginePreempt x0 s = .next t ∧ Frame [.sched, .engines] s t := by
  refine ⟨_, rfl, ?_⟩
  repeat' first
    | with_reducible apply Frame.refl
    | (apply Frame.via; with_reducible apply preempt_frame; decide)

theorem execContextSaveDone_frame (x0 s) :
    ∃ t, execContextSaveDone x0 s = .next t ∧ Frame [.sched, .engines, .mem, .cache, .free] s t :=
  ⟨_, rfl, by apply doContextSaveDone_frame⟩

theorem execContextRestoreDone_frame (x0 s) :
    ∃ t, execContextRestoreDone x0 s = .next t ∧ Frame [.sched, .engines] s t :=
  ⟨_, rfl, by apply doContextRestoreDone_frame⟩

theorem execBenchPreempt_frame (x0 s) :
    ∃ t, execBenchPreempt x0 s = .next t ∧ Frame [.sched, .benches, .free] s t :=
  ⟨_, rfl, by apply doBenchPreempt_frame⟩

theorem execJobFault_frame (x0 x1 s) :
    ∃ t, execJobFault x0 x1 s = .next t ∧ Frame [.ctrls, .sched, .engines, .mem, .cache, .search, .benches, .flash,
                                                 .errors, .out] s t :=
  ⟨_, rfl, by apply doJobFault_frame⟩

theorem execNonpreOverrun_frame (x0 x1 s) :
    ∃ t, execNonpreOverrun x0 x1 s = .next t ∧ Frame [.ctrls, .sched, .engines, .mem, .cache, .search, .benches,
                                                      .errors, .out] s t :=
  ⟨_, rfl, by apply doNonpreOverrun_frame⟩

theorem execSemOverrun_frame (x0 x1 s) :
    ∃ t, execSemOverrun x0 x1 s = .next t ∧ Frame [.ctrls, .sched, .engines, .mem, .cache, .search, .benches,
                                                   .errors, .out] s t :=
  ⟨_, rfl, by apply doSemOverrun_frame⟩

theorem execJobTimeCap_frame (x0 s) :
    ∃ t, execJobTimeCap x0 s = .next t ∧ Frame [.sched] s t :=
  ⟨_, rfl, by apply doJobTimeCap_frame⟩

theorem execReleaseGateAnswer_frame (x0 s) :
    ∃ t, execReleaseGateAnswer x0 s = .next t ∧ Frame [.ctrls, .sched, .engines, .mem, .cache, .search, .benches,
                                                       .errors, .out] s t :=
  ⟨_, rfl, by apply doReleaseGate_frame⟩

theorem execMmaWs_frame (x0 x1 s) :
    ∃ t, execMmaWs x0 x1 s = .next t ∧ Frame [.ctrls, .sched, .engines, .mem, .cache, .search, .benches, .errors,
                                              .out] s t :=
  ⟨_, rfl, by apply doMma_frame⟩

theorem execMmaOs_frame (x0 x1 s) :
    ∃ t, execMmaOs x0 x1 s = .next t ∧ Frame [.ctrls, .sched, .engines, .mem, .cache, .search, .benches, .errors,
                                              .out] s t :=
  ⟨_, rfl, by apply doMma_frame⟩

theorem execFeederSlotFill_frame (x0 x1 s) :
    ∃ t, execFeederSlotFill x0 x1 s = .next t ∧ Frame [.ctrls, .sched, .engines, .mem, .cache, .search, .benches,
                                                       .errors, .out] s t :=
  ⟨_, rfl, by apply doFeederFill_frame⟩

theorem execArrayLastWrite_frame (x0 s) :
    ∃ t, execArrayLastWrite x0 s = .next t ∧ Frame [.ctrls, .sched, .engines, .mem, .cache, .search, .benches,
                                                    .errors, .out] s t :=
  ⟨_, rfl, by apply doArrayLastWrite_frame⟩

theorem execSetmask_frame (x0 x1 x2 x3 s) :
    ∃ t, execSetmask x0 x1 x2 x3 s = .next t ∧ Frame [.ctrls, .sched, .engines, .mem, .cache, .search, .benches,
                                                      .errors, .out] s t :=
  ⟨_, rfl, by apply doSetmask_frame⟩

theorem execVop_frame (x0 x1 s) :
    ∃ t, execVop x0 x1 s = .next t ∧ Frame [.ctrls, .sched, .engines, .mem, .cache, .search, .benches, .errors,
                                            .out, .free] s t :=
  ⟨_, rfl, by apply doVop_frame⟩

theorem execVred_frame (x0 x1 s) :
    ∃ t, execVred x0 x1 s = .next t ∧ Frame [.ctrls, .sched, .engines, .mem, .cache, .search, .benches, .errors,
                                             .out, .free] s t :=
  ⟨_, rfl, by apply doVred_frame⟩

theorem execVcvt_frame (x0 x1 s) :
    ∃ t, execVcvt x0 x1 s = .next t ∧ Frame [.ctrls, .sched, .engines, .mem, .cache, .search, .benches, .errors,
                                             .out, .free] s t :=
  ⟨_, rfl, by apply doVcvt_frame⟩

theorem execXfer_frame (x0 x1 s) :
    ∃ t, execXfer x0 x1 s = .next t ∧ Frame [.ctrls, .sched, .engines, .mem, .cache, .search, .benches, .errors,
                                             .out] s t :=
  ⟨_, rfl, by apply doXfer_frame⟩

theorem execXferComplete_frame (x0 s) :
    ∃ t, execXferComplete x0 s = .next t ∧ Frame [.ctrls, .sched, .engines, .mem, .cache, .search, .benches,
                                                  .errors, .out] s t :=
  ⟨_, rfl, by apply doXferComplete_frame⟩

theorem execBr_frame (x0 x1 x2 s) :
    ∃ t, execBr x0 x1 x2 s = .next t ∧ Frame [.engines, .free] s t :=
  ⟨_, rfl, by apply doBr_frame⟩

theorem execSemAcq_frame (x0 x1 s) :
    ∃ t, execSemAcq x0 x1 s = .next t ∧ Frame [.ctrls, .sched, .engines, .mem, .cache, .search, .benches, .errors,
                                               .out] s t :=
  ⟨_, rfl, by apply doSemAcq_frame⟩

theorem execSemAcquired_frame (x0 x1 s) :
    ∃ t, execSemAcquired x0 x1 s = .next t ∧ Frame [.sched, .engines] s t :=
  ⟨_, rfl, by apply doSemAcquired_frame⟩

theorem execSemRel_frame (x0 x1 s) :
    ∃ t, execSemRel x0 x1 s = .next t ∧ Frame [.ctrls, .sched, .engines, .mem, .cache, .search, .benches, .errors,
                                               .out] s t :=
  ⟨_, rfl, by apply doSemRel_frame⟩

theorem execNpBegin_frame (x0 x1 s) :
    ∃ t, execNpBegin x0 x1 s = .next t ∧ Frame [.ctrls, .sched, .engines, .mem, .cache, .search, .benches, .errors,
                                                .out] s t :=
  ⟨_, rfl, by apply doNpBegin_frame⟩

theorem execNpEnd_frame (x0 s) :
    ∃ t, execNpEnd x0 s = .next t ∧ Frame [.ctrls, .sched, .engines, .mem, .cache, .search, .benches, .errors, .out]
        s t :=
  ⟨_, rfl, by apply doNpEnd_frame⟩

theorem execFence_frame (x0 s) :
    ∃ t, execFence x0 s = .next t ∧ Frame [.engines] s t :=
  ⟨_, rfl, by apply doFence_frame⟩

theorem execIllegalOpcode_frame (x0 x1 s) :
    ∃ t, execIllegalOpcode x0 x1 s = .next t ∧ Frame [.ctrls, .sched, .engines, .mem, .cache, .search, .benches,
                                                      .errors, .out] s t :=
  ⟨_, rfl, by apply doIllegal_frame⟩

theorem execTouchstoneSampleDone_frame (x0 x1 s) :
    ∃ t, execTouchstoneSampleDone x0 x1 s = .next t ∧ Frame [.ctrls, .sched, .engines, .mem, .cache, .search,
                                                             .benches, .errors, .out] s t :=
  ⟨_, rfl, by apply doTouchstone_frame⟩

theorem execRefetchComplete_frame (x0 x1 x2 x3 x4 x5 x6 s) :
    ∃ t, execRefetchComplete x0 x1 x2 x3 x4 x5 x6 s = .next t ∧ Frame [.ctrls, .sched, .engines, .mem, .cache,
                                                                       .ingots, .search, .benches, .flash, .errors,
                                                                           .out, .free] s t :=
  ⟨_, rfl, by apply doRefetchComplete_frame⟩

theorem execGranuleReloadDone_frame (x0 x1 s) :
    ∃ t, execGranuleReloadDone x0 x1 s = .next t ∧ Frame [.ctrls, .sched, .engines, .mem, .search, .errors, .out]
        s t :=
  ⟨_, rfl, by apply doGranuleReloadDone_frame⟩

theorem execCacheStagingRequest_frame (x0 x1 s) :
    ∃ t, execCacheStagingRequest x0 x1 s = .next t ∧ Frame [.engines, .mem, .cache, .free] s t := by
  refine ⟨_, rfl, ?_⟩
  repeat' first
    | with_reducible apply Frame.refl
    | (apply Frame.via; with_reducible apply startStaging_frame; decide)

theorem execStagingComplete_frame (x0 x1 x2 s) :
    ∃ t, execStagingComplete x0 x1 x2 s = .next t ∧ Frame [.ctrls, .sched, .engines, .mem, .cache, .ingots, .search,
                                                           .benches, .flash, .errors, .out] s t :=
  ⟨_, rfl, by apply doStagingComplete_frame⟩

theorem execPromotionRequest_frame (x0 x1 x2 x3 s) :
    ∃ t, execPromotionRequest x0 x1 x2 x3 s = .next t ∧ Frame [.engines, .mem, .cache, .free] s t :=
  ⟨_, rfl, by apply doPromotionRequest_frame⟩

theorem execPromotionComplete_frame (x0 x1 s) :
    ∃ t, execPromotionComplete x0 x1 s = .next t ∧ Frame [.sched, .engines, .mem, .cache] s t :=
  ⟨_, rfl, by apply doPromotionComplete_frame⟩

theorem execPinRelease_frame (x0 x1 x2 x3 s) :
    ∃ t, execPinRelease x0 x1 x2 x3 s = .next t ∧ Frame [.engines, .mem, .cache] s t :=
  ⟨_, rfl, by apply doPinRelease_frame⟩

theorem execPromotionWaitResume_frame (x0 x1 s) :
    ∃ t, execPromotionWaitResume x0 x1 s = .next t ∧ Frame [.engines, .mem, .cache, .free] s t :=
  ⟨_, rfl, by apply doPromotionWaitResume_frame⟩

theorem execWriteBackGranule_frame (x0 x1 s) :
    ∃ t, execWriteBackGranule x0 x1 s = .next t ∧ Frame [.sched, .mem, .cache, .search, .flash] s t :=
  ⟨_, rfl, by apply doWriteBackGranule_frame⟩

theorem execDirtyWriteResume_frame (x0 s) :
    ∃ t, execDirtyWriteResume x0 s = .next t ∧ Frame [.mem, .cache, .search, .flash] s t :=
  ⟨_, rfl, by apply doDirtyWriteResume_frame⟩

theorem execCeWindowStart_frame (s) :
    ∃ t, execCeWindowStart s = .next t ∧ Frame [.errors] s t :=
  ⟨_, rfl, by apply doCeWindowStart_frame⟩

theorem execAutoBurnishStart_frame (x0 s) :
    ∃ t, execAutoBurnishStart x0 s = .next t ∧ Frame [.errors, .burnish] s t :=
  ⟨_, rfl, by apply doAutoBurnishStart_frame⟩

theorem execObjectReadStart_frame (x0 s) :
    ∃ t, execObjectReadStart x0 s = .next t ∧ Frame [.ctrls, .sched, .mem, .cache, .ingots, .search, .benches,
                                                     .flash, .errors, .out] s t :=
  ⟨_, rfl, by apply doObjectReadStart_frame⟩

theorem execTokenBatchHandoff_frame (x0 x1 x2 s) :
    ∃ t, execTokenBatchHandoff x0 x1 x2 s = .next t ∧ Frame [.search, .benches] s t :=
  ⟨_, rfl, by apply doTokenBatchHandoff_frame⟩

theorem execBatchVectorsReturn_frame (x0 x1 s) :
    ∃ t, execBatchVectorsReturn x0 x1 s = .next t ∧ Frame [.sched, .mem, .cache, .search, .benches, .flash] s t :=
  ⟨_, rfl, by apply doBatchVectorsReturn_frame⟩

theorem execRecordAppend_frame (x0 s) :
    ∃ t, execRecordAppend x0 s = .next t ∧ Frame [.sched, .mem, .cache, .search, .benches, .flash] s t :=
  ⟨_, rfl, by apply doRecordAppend_frame⟩

theorem execMarkWaitResume_frame (x0 s) :
    ∃ t, execMarkWaitResume x0 s = .next t ∧ Frame [.sched, .mem, .cache, .search, .benches, .flash] s t := by
  refine ⟨_, rfl, ?_⟩
  repeat' first
    | with_reducible apply Frame.refl
    | with_reducible assumption
    | (apply Frame.via; with_reducible apply retryAppend_frame; decide)
    | with_reducible apply Frame.ite
    | (extract_lets +onlyGivenNames x; clear_value (e : x = _); apply Frame.cut x; (subst e); rotate_left;
       (intro h); (clear e); rotate_right)
    | extract_lets +onlyGivenNames y
    | split
    | (with_reducible apply Frame.foldlPair; rotate_left; intro u x; (try dsimp -zeta -proj -eta only); rotate_right)
    | (with_reducible apply Frame.foldl; rotate_left; intro u x; (try dsimp -zeta -proj -eta only); rotate_right)
    | fail_if_no_progress (dsimp +zetaDelta -zeta -proj -eta only)
    | fail_if_no_progress (dsimp -zeta -eta only)

theorem execGraphWalkComplete_frame (x0 x1 s) :
    ∃ t, execGraphWalkComplete x0 x1 s = .next t ∧ Frame [.sched, .engines, .mem, .cache, .search, .benches, .free]
        s t :=
  ⟨_, rfl, by apply doGraphWalkComplete_frame⟩

theorem execCodePhaseComplete_frame (x0 x1 x2 s) :
    ∃ t, execCodePhaseComplete x0 x1 x2 s = .next t ∧ Frame [.sched, .search, .benches] s t :=
  ⟨_, rfl, by apply doCodePhase_frame⟩

theorem execFetchPhaseComplete_frame (x0 x1 x2 x3 s) :
    ∃ t, execFetchPhaseComplete x0 x1 x2 x3 s = .next t ∧ Frame [.sched, .search] s t :=
  ⟨_, rfl, by apply doFetchPhase_frame⟩

theorem execHitMerge_frame (x0 s) :
    ∃ t, execHitMerge x0 s = .next t ∧ Frame [.sched] s t :=
  ⟨_, rfl, by apply doHitMerge_frame⟩

theorem execMendStart_frame (x0 s) :
    ∃ t, execMendStart x0 s = .next t ∧ Frame [.search] s t :=
  ⟨_, rfl, by apply doMendStart_frame⟩

theorem execGraphRepair_frame (x0 s) :
    ∃ t, execGraphRepair x0 s = .next t ∧ Frame [.mem, .cache, .search, .benches, .flash] s t :=
  ⟨_, rfl, by apply doGraphRepair_frame⟩

theorem execLinkFrameTagFail_frame (x0 x1 s) :
    ∃ t, execLinkFrameTagFail x0 x1 s = .next t ∧ Frame [.links] s t :=
  ⟨_, rfl, by apply doLinkFrameTagFail_frame⟩

theorem execLinkRetrain_frame (x0 s) :
    ∃ t, execLinkRetrain x0 s = .next t ∧ Frame [.ctrls, .links, .out, .free] s t :=
  ⟨_, rfl, by apply doLinkRetrain_frame⟩

theorem execLinkRetrainComplete_frame (x0 s) :
    ∃ t, execLinkRetrainComplete x0 s = .next t ∧ Frame [.ctrls, .sched, .benches, .links, .out, .free] s t :=
  ⟨_, rfl, by apply doLinkRetrainComplete_frame⟩

theorem execLinkRekey_frame (x0 x1 s) :
    ∃ t, execLinkRekey x0 x1 s = .next t ∧ Frame [.links, .free] s t :=
  ⟨_, rfl, by apply doLinkRekey_frame⟩

theorem execChannelDieFailed_frame (x0 s) :
    ∃ t, execChannelDieFailed x0 s = .next t ∧ Frame [.ctrls, .sched, .engines, .mem, .cache, .search, .benches,
                                                      .flash, .links, .errors, .out] s t :=
  ⟨_, rfl, by apply doChannelDieFailed_frame⟩

theorem execPageRead_frame (x0 x1 x2 x3 s) :
    ∃ t, execPageRead x0 x1 x2 x3 s = .next t ∧ Frame [.ctrls, .sched, .mem, .cache, .search, .flash, .errors, .out]
        s t :=
  ⟨_, rfl, by apply doPageRead_frame⟩

theorem execNandProgramComplete_frame (x0 x1 x2 x3 s) :
    ∃ t, execNandProgramComplete x0 x1 x2 x3 s = .next t ∧ Frame [.ctrls, .mem, .cache, .search, .flash, .errors,
                                                                  .out] s t :=
  ⟨_, rfl, by apply doNandProgramComplete_frame⟩

theorem execBlockEraseStart_frame (x0 x1 s) :
    ∃ t, execBlockEraseStart x0 x1 s = .next t ∧ Frame [.flash] s t :=
  ⟨_, rfl, by apply doBlockEraseStart_frame⟩

theorem execNandEraseComplete_frame (x0 x1 x2 x3 s) :
    ∃ t, execNandEraseComplete x0 x1 x2 x3 s = .next t ∧ Frame [.ctrls, .mem, .cache, .search, .flash, .errors,
                                                                .out] s t :=
  ⟨_, rfl, by apply doNandEraseComplete_frame⟩

theorem execNandSuspend_frame (x0 x1 x2 s) :
    ∃ t, execNandSuspend x0 x1 x2 s = .next t ∧ Frame [.flash] s t :=
  ⟨_, rfl, by apply doNandSuspend_frame⟩

theorem execNandResume_frame (x0 x1 s) :
    ∃ t, execNandResume x0 x1 s = .next t ∧ Frame [.flash] s t :=
  ⟨_, rfl, by apply doNandResume_frame⟩

theorem execStreamPageProgram_frame (x0 x1 x2 s) :
    ∃ t, execStreamPageProgram x0 x1 x2 s = .next t ∧ Frame [.flash] s t :=
  ⟨_, rfl, by apply doStreamPageProgram_frame⟩

theorem execAppendWaitResume_frame (x0 s) :
    ∃ t, execAppendWaitResume x0 s = .next t ∧ Frame [.sched, .mem, .cache, .search, .benches, .flash] s t := by
  refine ⟨_, rfl, ?_⟩
  repeat' first
    | with_reducible apply Frame.refl
    | with_reducible assumption
    | (apply Frame.via; with_reducible apply retryAppend_frame; decide)
    | with_reducible apply Frame.ite
    | (extract_lets +onlyGivenNames x; clear_value (e : x = _); apply Frame.cut x; (subst e); rotate_left;
       (intro h); (clear e); rotate_right)
    | extract_lets +onlyGivenNames y
    | split
    | (with_reducible apply Frame.foldlPair; rotate_left; intro u x; (try dsimp -zeta -proj -eta only); rotate_right)
    | (with_reducible apply Frame.foldl; rotate_left; intro u x; (try dsimp -zeta -proj -eta only); rotate_right)
    | fail_if_no_progress (dsimp +zetaDelta -zeta -proj -eta only)
    | fail_if_no_progress (dsimp -zeta -eta only)

theorem execFold_frame (x0 s) :
    ∃ t, execFold x0 s = .next t ∧ Frame [.mem, .cache, .search, .flash] s t :=
  ⟨_, rfl, by apply doFold_frame⟩

theorem execConsolidation_frame (x0 x1 x2 s) :
    ∃ t, execConsolidation x0 x1 x2 s = .next t ∧ Frame [.mem, .cache, .search, .flash] s t :=
  ⟨_, rfl, by apply doConsolidation_frame⟩

theorem execGarbageCollection_frame (x0 s) :
    ∃ t, execGarbageCollection x0 s = .next t ∧ Frame [.mem, .cache, .search, .flash] s t :=
  ⟨_, rfl, by apply doGarbageCollection_frame⟩

theorem execWearLevelMove_frame (x0 x1 s) :
    ∃ t, execWearLevelMove x0 x1 s = .next t ∧ Frame [.mem, .cache, .search, .flash] s t :=
  ⟨_, rfl, by apply doWearLevelMove_frame⟩

theorem execBlockRefresh_frame (x0 x1 s) :
    ∃ t, execBlockRefresh x0 x1 s = .next t ∧ Frame [.mem, .cache, .search, .flash] s t :=
  ⟨_, rfl, by apply doBlockRefresh_frame⟩

theorem execPatrolRead_frame (x0 x1 s) :
    ∃ t, execPatrolRead x0 x1 s = .next t ∧ Frame [.flash] s t :=
  ⟨_, rfl, by apply doPatrolRead_frame⟩

theorem execZqCalibration_frame (x0 x1 s) :
    ∃ t, execZqCalibration x0 x1 s = .next t ∧ Frame [.flash] s t :=
  ⟨_, rfl, by apply doZqCalibration_frame⟩

theorem execDqTraining_frame (x0 x1 x2 s) :
    ∃ t, execDqTraining x0 x1 x2 s = .next t ∧ Frame [.ctrls, .mem, .cache, .search, .flash, .errors, .out] s t :=
  ⟨_, rfl, by apply doDqTraining_frame⟩

theorem execNandBrownout_frame (x0 s) :
    ∃ t, execNandBrownout x0 s = .next t ∧ Frame [.power, .ctrls, .flash, .errors, .out] s t := by
  refine ⟨_, rfl, ?_⟩
  repeat' first
    | with_reducible apply Frame.refl
    | (apply Frame.via; with_reducible apply nandFalls_frame; decide)
    | with_reducible apply Frame.ite

theorem execNandSupplyRestored_frame (x0 x1 s) :
    ∃ t, execNandSupplyRestored x0 x1 s = .next t ∧ Frame [.power, .ctrls, .sched, .mem, .cache, .search, .benches,
                                                           .flash, .errors, .out] s t :=
  ⟨_, rfl, by apply doNandSupplyRestored_frame⟩

theorem execRawReadStart_frame (x0 s) :
    ∃ t, execRawReadStart x0 s = .next t ∧ Frame [.flash] s t :=
  ⟨_, rfl, by apply doRawReadStart_frame⟩

theorem execRawReadDone_frame (x0 x1 x2 s) :
    ∃ t, execRawReadDone x0 x1 x2 s = .next t ∧ Frame [.flash] s t :=
  ⟨_, rfl, by apply doRawReadDone_frame⟩

theorem execPwtUnlockWrite_frame (x0 s) :
    ∃ t, execPwtUnlockWrite x0 s = .next t ∧ Frame [.ctrls, .pewter, .errors, .out] s t :=
  ⟨_, rfl, by apply doPwtUnlock_frame⟩

theorem execPwtAddrWrite_frame (x0 x1 s) :
    ∃ t, execPwtAddrWrite x0 x1 s = .next t ∧ Frame [.ctrls, .pewter, .errors, .out] s t :=
  ⟨_, rfl, by apply doPwtAddr_frame⟩

theorem execPwtDataWrite_frame (x0 x1 s) :
    ∃ t, execPwtDataWrite x0 x1 s = .next t ∧ Frame [.ctrls, .pewter, .errors, .out] s t :=
  ⟨_, rfl, by apply doPwtData_frame⟩

theorem execPwtBadCmd_frame (x0 x1 s) :
    ∃ t, execPwtBadCmd x0 x1 s = .next t ∧ Frame [.ctrls, .pewter, .errors, .out] s t :=
  ⟨_, rfl, by apply doPwtCmd_frame⟩

theorem execPageProgram_frame (s) :
    ∃ t, execPageProgram s = .next t ∧ Frame [.pewter] s t :=
  ⟨_, rfl, by apply doPageProgram_frame⟩

theorem execSectorErase_frame (s) :
    ∃ t, execSectorErase s = .next t ∧ Frame [.pewter] s t :=
  ⟨_, rfl, by apply doSectorErase_frame⟩

theorem execVaultProgram_frame (s) :
    ∃ t, execVaultProgram s = .next t ∧ Frame [.ctrls, .pewter, .errors, .out] s t :=
  ⟨_, rfl, by apply doVaultProgram_frame⟩

theorem execVaultZeroise_frame (s) :
    ∃ t, execVaultZeroise s = .next t ∧ Frame [.pewter] s t :=
  ⟨_, rfl, by apply doVaultZeroise_frame⟩

theorem execOptProgram_frame (s) :
    ∃ t, execOptProgram s = .next t ∧ Frame [.pewter] s t :=
  ⟨_, rfl, by apply doOptProgram_frame⟩

theorem execOptErase_frame (s) :
    ∃ t, execOptErase s = .next t ∧ Frame [.pewter] s t :=
  ⟨_, rfl, by apply doOptErase_frame⟩

theorem execEraseSuspend_frame (s) :
    ∃ t, execEraseSuspend s = .next t ∧ Frame [.pewter] s t :=
  ⟨_, rfl, by apply doEraseSuspend_frame⟩

theorem execEraseSuspendComplete_frame (s) :
    ∃ t, execEraseSuspendComplete s = .next t ∧ Frame [.ctrls, .pewter, .errors, .sec, .fw, .out, .free] s t := by
  refine ⟨_, rfl, ?_⟩
  repeat' first
    | with_reducible apply Frame.refl
    | (apply Frame.via; with_reducible (first | apply doEraseSuspendComplete_frame | apply resumeReads_frame); decide)

theorem execEraseResume_frame (s) :
    ∃ t, execEraseResume s = .next t ∧ Frame [.pewter] s t :=
  ⟨_, rfl, by apply doEraseResume_frame⟩

theorem execPwtOperationEnd_frame (x0 s) :
    ∃ t, execPwtOperationEnd x0 s = .next t ∧ Frame [.ctrls, .pewter, .errors, .sec, .fw, .out, .free] s t := by
  refine ⟨_, rfl, ?_⟩
  repeat' first
    | with_reducible apply Frame.refl
    | (apply Frame.via; with_reducible (first | apply doPwtOperationEnd_frame | apply resumeReads_frame); decide)

theorem execPwtSequenceTimeout_frame (s) :
    ∃ t, execPwtSequenceTimeout s = .next t ∧ Frame [.ctrls, .pewter, .errors, .out] s t := by
  refine ⟨_, rfl, ?_⟩
  repeat' first
    | with_reducible apply Frame.refl
    | (apply Frame.via; with_reducible apply pwtLockout_frame; decide)
    | with_reducible apply Frame.ite

theorem execPwtLockoutExpiry_frame (s) :
    ∃ t, execPwtLockoutExpiry s = .next t ∧ Frame [.ctrls, .pewter, .errors, .sec, .fw, .out, .free] s t := by
  refine ⟨_, rfl, ?_⟩
  repeat' first
    | with_reducible apply Frame.refl
    | with_reducible assumption
    | (apply Frame.via; with_reducible (first | apply resumeReads_frame | apply pwtSeq_frame); decide)
    | with_reducible apply Frame.ite
    | (extract_lets +onlyGivenNames x; clear_value (e : x = _); apply Frame.cut x; (subst e); rotate_left;
       (intro h); (clear e); rotate_right)
    | extract_lets +onlyGivenNames y
    | split
    | (with_reducible apply Frame.foldlPair; rotate_left; intro u x; (try dsimp -zeta -proj -eta only); rotate_right)
    | (with_reducible apply Frame.foldl; rotate_left; intro u x; (try dsimp -zeta -proj -eta only); rotate_right)
    | fail_if_no_progress (dsimp +zetaDelta -zeta -proj -eta only)
    | fail_if_no_progress (dsimp -zeta -eta only)

theorem execPewterBrownout_frame (s) :
    ∃ t, execPewterBrownout s = .next t ∧ Frame [.ctrls, .pewter, .errors, .sec, .fw, .out, .free] s t := by
  refine ⟨_, rfl, ?_⟩
  repeat' first
    | with_reducible apply Frame.refl
    | (apply Frame.via; with_reducible (first | apply doPewterBrownout_frame | apply resumeReads_frame); decide)

theorem execSecurityEventLogProgram_frame (s) :
    ∃ t, execSecurityEventLogProgram s = .next t ∧ Frame [.pewter] s t :=
  ⟨_, rfl, by apply doSecurityEventLogProgram_frame⟩

theorem execHallmarkRebuildDone_frame (s) :
    ∃ t, execHallmarkRebuildDone s = .next t ∧ Frame [.ctrls, .sched, .engines, .mem, .cache, .ingots, .search,
                                                      .benches, .flash, .pewter, .errors, .sec, .out, .free] s t :=
  ⟨_, rfl, by apply doHallmarkRebuildDone_frame⟩

theorem execErrorReport_frame (x0 x1 s) :
    ∃ t, execErrorReport x0 x1 s = .next t ∧ Frame [.ctrls, .mem, .search, .errors, .out] s t := by
  refine ⟨_, rfl, ?_⟩
  repeat' first
    | with_reducible apply Frame.refl
    | with_reducible assumption
    | (apply Frame.via; with_reducible (first | apply poisonedRead_frame | apply memoryError_frame
                                              | apply report_frame); decide)
    | with_reducible apply Frame.ite
    | (extract_lets +onlyGivenNames x; clear_value (e : x = _); apply Frame.cut x; (subst e); rotate_left;
       (intro h); (clear e); rotate_right)
    | extract_lets +onlyGivenNames y
    | split
    | (with_reducible apply Frame.foldlPair; rotate_left; intro u x; (try dsimp -zeta -proj -eta only); rotate_right)
    | (with_reducible apply Frame.foldl; rotate_left; intro u x; (try dsimp -zeta -proj -eta only); rotate_right)
    | fail_if_no_progress (dsimp +zetaDelta -zeta -proj -eta only)
    | fail_if_no_progress (dsimp -zeta -eta only)

theorem execErrorRecordWrite_frame (x0 s) :
    ∃ t, execErrorRecordWrite x0 s = .next t ∧ Frame [.ctrls, .errors, .out] s t :=
  ⟨_, rfl, by apply doRecordWrite_frame⟩

theorem execErrRingAckWrite_frame (x0 x1 s) :
    ∃ t, execErrRingAckWrite x0 x1 s = .next t ∧ Frame [.errors] s t :=
  ⟨_, rfl, by apply doRingAck_frame⟩

theorem execSchCtrlWrite_frame (x0 s) :
    ∃ t, execSchCtrlWrite x0 s = .next t ∧ Frame [.sched, .cache, .flash, .burnish, .dev] s t :=
  ⟨_, rfl, by apply doSchCtrl_frame⟩

theorem execQtrMcCtrlWrite_frame (x0 x1 s) :
    ∃ t, execQtrMcCtrlWrite x0 x1 s = .next t ∧ Frame [.sched, .engines, .mem, .cache, .flash, .burnish, .dev]
        s t :=
  ⟨_, rfl, by apply doMcCtrl_frame⟩

theorem execBrnCtrlWrite_frame (x0 s) :
    ∃ t, execBrnCtrlWrite x0 s = .next t ∧ Frame [.sched, .cache, .flash, .burnish, .dev] s t :=
  ⟨_, rfl, by apply doBrnCtrl_frame⟩

theorem execPwrCtrlWrite_frame (x0 s) :
    ∃ t, execPwrCtrlWrite x0 s = .next t ∧ Frame [.power, .sched] s t :=
  ⟨_, rfl, by apply doPwrCtrl_frame⟩

theorem execMeCountClear_frame (x0 s) :
    ∃ t, execMeCountClear x0 s = .next t ∧ Frame [.engines] s t := by
  refine ⟨_, rfl, ?_⟩
  repeat' first
    | with_reducible apply Frame.refl
    | (apply Frame.via; with_reducible apply modEngine_frame; decide)

theorem execBnCountClear_frame (x0 s) :
    ∃ t, execBnCountClear x0 s = .next t ∧ Frame [.benches, .links] s t :=
  ⟨_, rfl, by apply doBnCountClear_frame⟩

theorem execFmCountClear_frame (x0 s) :
    ∃ t, execFmCountClear x0 s = .next t ∧ Frame [.flash] s t := by
  refine ⟨_, rfl, ?_⟩
  repeat' first
    | with_reducible apply Frame.refl
    | (apply Frame.via; with_reducible apply modFlash_frame; decide)

theorem execRegisterWrite_frame (x0 x1 x2 s) :
    ∃ t, execRegisterWrite x0 x1 x2 s = .next t ∧ Frame [.power, .ctrls, .mold, .grid, .sched, .engines, .mem,
                                                         .cache, .ingots, .search, .benches, .flash, .links,
                                                             .pewter, .errors, .burnish, .dev, .out, .free] s t :=
  ⟨_, rfl, by apply doRegisterWrite_frame⟩

theorem execRcRegisterRead_frame (x0 x1 s) :
    ∃ t, execRcRegisterRead x0 x1 s = .next t ∧ Frame [.power, .mold, .grid, .sched, .engines, .cache, .benches,
                                                       .flash, .links, .pewter, .errors, .burnish, .dev, .out,
                                                           .free] s t :=
  ⟨_, rfl, by apply doTargetRead_frame⟩

theorem execSplit64bitRead_frame (x0 s) :
    ∃ t, execSplit64bitRead x0 s = .next t ∧ Frame [.power, .mold, .grid, .sched, .engines, .cache, .benches,
                                                    .flash, .links, .pewter, .errors, .burnish, .dev, .out, .free]
                                                        s t :=
  ⟨_, rfl, by apply doRegisterRead_frame⟩

theorem execBar2BadAccess_frame (x0 x1 x2 s) :
    ∃ t, execBar2BadAccess x0 x1 x2 s = .next t ∧ Frame [.dev, .out] s t :=
  ⟨_, rfl, by apply doBadAccess_frame⟩

theorem execPowerCap_frame (x0 s) :
    ∃ t, execPowerCap x0 s = .next t ∧ Frame [.power, .sched, .out] s t :=
  ⟨_, rfl, by apply doPowerCap_frame⟩

theorem execPwrBrakeAssert_frame (s) :
    ∃ t, execPwrBrakeAssert s = .next t ∧ Frame [.power, .ctrls, .sched, .out] s t :=
  ⟨_, rfl, by apply doBrakeAssert_frame⟩

theorem execPwrBrakeDeassert_frame (s) :
    ∃ t, execPwrBrakeDeassert s = .next t ∧ Frame [.power] s t := by
  refine ⟨_, rfl, ?_⟩
  repeat' first
    | with_reducible apply Frame.refl
    | (apply Frame.via; with_reducible apply modPower_frame; decide)

theorem execThermalSensorRead_frame (x0 s) :
    ∃ t, execThermalSensorRead x0 s = .next t ∧ Frame [.power, .ctrls, .mold, .grid, .sched, .engines, .mem, .cache,
                                                       .ingots, .search, .benches, .flash, .links, .pewter, .errors,
                                                           .burnish, .sec, .fw, .bmc, .dev, .out] s t :=
  ⟨_, rfl, by apply doThermalSensorRead_frame⟩

theorem execThermalEmergencyEnd_frame (s) :
    ∃ t, execThermalEmergencyEnd s = .next t ∧ Frame [.power] s t :=
  ⟨_, rfl, by apply doEmergencyEnd_frame⟩

theorem execThermTripRelease_frame (s) :
    ∃ t, execThermTripRelease s = .next t ∧ Frame [.power, .bmc] s t := by
  refine ⟨_, rfl, ?_⟩
  repeat' first
    | with_reducible apply Frame.refl
    | with_reducible apply Frame.ite
    | fail_if_no_progress (apply Frame.via; with_reducible (first | apply Frame.power | apply Frame.bmc
                                                                  | apply Frame.power_bmc); decide)

theorem execRailBrownout_frame (x0 s) :
    ∃ t, execRailBrownout x0 s = .next t ∧ Frame [.power, .ctrls, .mold, .grid, .sched, .engines, .mem, .cache,
                                                  .ingots, .search, .benches, .flash, .links, .pewter, .errors,
                                                      .burnish, .sec, .fw, .bmc, .dev, .out, .free] s t :=
  ⟨_, rfl, by apply doRailBrownout_frame⟩

theorem execHoldupCapacitanceCheck_frame (x0 s) :
    ∃ t, execHoldupCapacitanceCheck x0 s = .next t ∧ Frame [.power, .ctrls, .errors, .out] s t :=
  ⟨_, rfl, by apply doCapacitanceCheck_frame⟩

theorem execHoldupOkChange_frame (x0 s) :
    ∃ t, execHoldupOkChange x0 s = .next t ∧ Frame [.power, .ctrls, .out] s t :=
  ⟨_, rfl, by apply doHoldupChange_frame⟩

theorem execApstIdleExpiry_frame (s) :
    ∃ t, execApstIdleExpiry s = .next t ∧ Frame [.power, .sched, .engines, .mem, .cache, .search, .benches, .flash]
        s t :=
  ⟨_, rfl, by apply doApstExpiry_frame⟩

theorem execPowerStateExitDone_frame (s) :
    ∃ t, execPowerStateExitDone s = .next t ∧ Frame [.power, .sched, .engines, .mem, .cache, .search, .benches,
                                                     .flash] s t := by
  refine ⟨_, rfl, ?_⟩
  repeat' first
    | with_reducible apply Frame.refl
    | with_reducible assumption
    | (apply Frame.via; with_reducible apply enterPower_frame; decide)
    | with_reducible apply Frame.ite
    | (extract_lets +onlyGivenNames x; clear_value (e : x = _); apply Frame.cut x; (subst e); rotate_left;
       (intro h); (clear e); rotate_right)
    | extract_lets +onlyGivenNames y
    | split
    | (with_reducible apply Frame.foldlPair; rotate_left; intro u x; (try dsimp -zeta -proj -eta only); rotate_right)
    | (with_reducible apply Frame.foldl; rotate_left; intro u x; (try dsimp -zeta -proj -eta only); rotate_right)
    | fail_if_no_progress (dsimp +zetaDelta -zeta -proj -eta only)
    | fail_if_no_progress (dsimp -zeta -eta only)

theorem execI3cSetdasa_frame (x0 s) :
    ∃ t, execI3cSetdasa x0 s = .next t ∧ Frame [.bmc] s t := by
  refine ⟨_, rfl, ?_⟩
  repeat' first
    | with_reducible apply Frame.refl
    | (apply Frame.via; with_reducible apply modBmc_frame; decide)
    | (with_reducible apply atBmc_frame; (try dsimp -zeta -proj -eta only))

theorem execI3cEntdaa_frame (x0 s) :
    ∃ t, execI3cEntdaa x0 s = .next t ∧ Frame [.bmc] s t := by
  refine ⟨_, rfl, ?_⟩
  repeat' first
    | with_reducible apply Frame.refl
    | (apply Frame.via; with_reducible apply modBmc_frame; decide)
    | (with_reducible apply atBmc_frame; (try dsimp -zeta -proj -eta only))

theorem execSetEndpointId_frame (x0 s) :
    ∃ t, execSetEndpointId x0 s = .next t ∧ Frame [.bmc] s t := by
  refine ⟨_, rfl, ?_⟩
  repeat' first
    | with_reducible apply Frame.refl
    | (apply Frame.via; with_reducible apply modBmc_frame; decide)
    | (with_reducible apply atBmc_frame; (try dsimp -zeta -proj -eta only))

theorem execMiReadDataStructure_frame (x0 x1 s) :
    ∃ t, execMiReadDataStructure x0 x1 s = .next t ∧ Frame [.out] s t :=
  ⟨_, rfl, by apply doMiReadDataStructure_frame⟩

theorem execMiSubsystemHealthPoll_frame (x0 s) :
    ∃ t, execMiSubsystemHealthPoll x0 s = .next t ∧ Frame [.out] s t := by
  refine ⟨_, rfl, ?_⟩
  repeat' first
    | with_reducible apply Frame.refl
    | (apply Frame.via; with_reducible apply miOk_frame; decide)
    | (with_reducible apply atBmc_frame; (try dsimp -zeta -proj -eta only))

theorem execMiControllerHealthPoll_frame (x0 s) :
    ∃ t, execMiControllerHealthPoll x0 s = .next t ∧ Frame [.out] s t :=
  ⟨_, rfl, by apply doMiControllerHealthPoll_frame⟩

theorem execMiConfigurationGet_frame (x0 s) :
    ∃ t, execMiConfigurationGet x0 s = .next t ∧ Frame [.out] s t :=
  ⟨_, rfl, by apply doMiConfigurationGet_frame⟩

theorem execMiConfigurationSet_frame (x0 x1 s) :
    ∃ t, execMiConfigurationSet x0 x1 s = .next t ∧ Frame [.bmc, .out] s t :=
  ⟨_, rfl, by apply doMiConfigurationSet_frame⟩

theorem execMiVpdRead_frame (x0 x1 s) :
    ∃ t, execMiVpdRead x0 x1 s = .next t ∧ Frame [.out] s t :=
  ⟨_, rfl, by apply doMiVpdRead_frame⟩

theorem execMiVpdWrite_frame (s) :
    ∃ t, execMiVpdWrite s = .next t ∧ Frame [.out] s t := by
  refine ⟨_, rfl, ?_⟩
  repeat' first
    | with_reducible apply Frame.refl
    | (apply Frame.via; with_reducible apply emit_frame; decide)
    | (with_reducible apply atBmc_frame; (try dsimp -zeta -proj -eta only))

theorem execMiAdminCommand_frame (x0 s) :
    ∃ t, execMiAdminCommand x0 s = .next t ∧ Frame [.out] s t :=
  ⟨_, rfl, by apply doMiAdminCommand_frame⟩

theorem execTelemetry_frame (s) :
    ∃ t, execTelemetry s = .next t ∧ Frame [.out] s t := by
  refine ⟨_, rfl, ?_⟩
  repeat' first
    | with_reducible apply Frame.refl
    | (apply Frame.via; with_reducible apply miOk_frame; decide)
    | (with_reducible apply atBmc_frame; (try dsimp -zeta -proj -eta only))

theorem execMiQuench_frame (x0 s) :
    ∃ t, execMiQuench x0 s = .next t ∧ Frame [.sched, .out] s t :=
  ⟨_, rfl, by apply doMiQuench_frame⟩

theorem execMiUnsupportedCommand_frame (x0 s) :
    ∃ t, execMiUnsupportedCommand x0 s = .next t ∧ Frame [.out] s t := by
  refine ⟨_, rfl, ?_⟩
  repeat' first
    | with_reducible apply Frame.refl
    | (apply Frame.via; with_reducible apply emit_frame; decide)
    | (with_reducible apply atBmc_frame; (try dsimp -zeta -proj -eta only))

theorem execCustodianFrame_frame (x0 s) :
    ∃ t, execCustodianFrame x0 s = .next t ∧ Frame [.ctrls, .errors, .sec, .out] s t :=
  ⟨_, rfl, by apply doCustodianFrame_frame⟩

theorem execMessageReassemblyTimeout_frame (s) :
    ∃ t, execMessageReassemblyTimeout s = .next t ∧ Frame [.sec] s t := by
  refine ⟨_, rfl, ?_⟩
  repeat' first
    | with_reducible apply Frame.refl
    | split
    | fail_if_no_progress (apply Frame.via; with_reducible apply Frame.sec; decide)

theorem execSessionInit_frame (s) :
    ∃ t, execSessionInit s = .next t ∧ Frame [.ctrls, .pewter, .errors, .sec, .out, .free] s t :=
  ⟨_, rfl, by apply doSessionInit_frame⟩

theorem execSessionInitResend_frame (s) :
    ∃ t, execSessionInitResend s = .next t ∧ Frame [.sec, .out] s t := by
  refine ⟨_, rfl, ?_⟩
  repeat' first
    | with_reducible apply Frame.refl
    | (apply Frame.via; with_reducible apply sendMessage_frame; decide)
    | with_reducible apply Frame.ite
    | fail_if_no_progress (apply Frame.via; with_reducible apply Frame.sec; decide)

theorem execSessionAccept_frame (x0 s) :
    ∃ t, execSessionAccept x0 s = .next t ∧ Frame [.ctrls, .errors, .sec, .out] s t :=
  ⟨_, rfl, by apply doSessionAccept_frame⟩

theorem execSessionReject_frame (x0 s) :
    ∃ t, execSessionReject x0 s = .next t ∧ Frame [.ctrls, .errors, .sec, .out] s t :=
  ⟨_, rfl, by apply doSessionReject_frame⟩

theorem execKeyDeliver_frame (x0 x1 s) :
    ∃ t, execKeyDeliver x0 x1 s = .next t ∧ Frame [.ctrls, .sched, .mem, .cache, .search, .benches, .flash, .errors,
                                                   .sec, .out] s t :=
  ⟨_, rfl, by apply doKeyDeliver_frame⟩

theorem execKeyRevoke_frame (x0 s) :
    ∃ t, execKeyRevoke x0 s = .next t ∧ Frame [.ctrls, .sched, .mem, .cache, .search, .benches, .flash, .errors,
                                               .sec, .out] s t :=
  ⟨_, rfl, by apply doKeyRevoke_frame⟩

theorem execPing_frame (s) :
    ∃ t, execPing s = .next t ∧ Frame [.sec, .out] s t := by
  refine ⟨_, rfl, ?_⟩
  repeat' first
    | with_reducible apply Frame.refl
    | (apply Frame.via; with_reducible apply sendRecord_frame; decide)
    | (with_reducible apply inner_frame; rotate_left; decide; intro u; (try dsimp -zeta -proj -eta only))

theorem execPong_frame (s) :
    ∃ t, execPong s = .next t ∧ Frame [.sec] s t := by
  refine ⟨_, rfl, ?_⟩
  repeat' first
    | with_reducible apply Frame.refl
    | (with_reducible apply inner_frame; rotate_left; decide; intro u; (try dsimp -zeta -proj -eta only))

theorem execClose_frame (x0 s) :
    ∃ t, execClose x0 s = .next t ∧ Frame [.sec] s t := by
  refine ⟨_, rfl, ?_⟩
  repeat' first
    | with_reducible apply Frame.refl
    | (apply Frame.via; with_reducible apply sessionLost_frame; decide)
    | (with_reducible apply inner_frame; rotate_left; decide; intro u; (try dsimp -zeta -proj -eta only))

theorem execSessionIdlePing_frame (s) :
    ∃ t, execSessionIdlePing s = .next t ∧ Frame [.sec, .out] s t := by
  refine ⟨_, rfl, ?_⟩
  repeat' first
    | with_reducible apply Frame.refl
    | (apply Frame.via; with_reducible apply sendRecord_frame; decide)
    | with_reducible apply Frame.ite

theorem execSessionTimeout_frame (s) :
    ∃ t, execSessionTimeout s = .next t ∧ Frame [.sec] s t := by
  refine ⟨_, rfl, ?_⟩
  repeat' first
    | with_reducible apply Frame.refl
    | (apply Frame.via; with_reducible apply sessionLost_frame; decide)
    | with_reducible apply Frame.ite

theorem execSessionBackoffExpiry_frame (s) :
    ∃ t, execSessionBackoffExpiry s = .next t ∧ Frame [.sec] s t := by
  refine ⟨_, rfl, ?_⟩
  repeat' first
    | with_reducible apply Frame.refl
    | with_reducible apply Frame.ite
    | fail_if_no_progress (apply Frame.via; with_reducible apply Frame.sec; decide)

theorem execDbgToken_frame (x0 s) :
    ∃ t, execDbgToken x0 s = .next t ∧ Frame [.ctrls, .errors, .sec, .out, .free] s t :=
  ⟨_, rfl, by apply doDbgToken_frame⟩

theorem execPerstBDeassert_frame (s) :
    ∃ t, execPerstBDeassert s = .next t ∧ Frame [.power, .ctrls] s t :=
  ⟨_, rfl, by apply doPerstBDeassert_frame⟩

theorem execVectorInstructionComplete_frame (x0 s) :
    ∃ t, execVectorInstructionComplete x0 s = .next t ∧ Frame [.engines] s t :=
  ⟨_, rfl, by apply doVectorComplete_frame⟩

theorem execManagementControllerRestart_frame (s) :
    ∃ t, execManagementControllerRestart s = .next t ∧ Frame [.ctrls, .mem, .search, .pewter, .errors, .fw, .bmc,
                                                              .out] s t :=
  ⟨_, rfl, by apply doMcRestart_frame⟩

theorem execMctpMessageDiscard_frame (x0 s) :
    ∃ t, execMctpMessageDiscard x0 s = .next t ∧ Frame [] s t := by
  refine ⟨_, rfl, ?_⟩
  repeat' first
    | with_reducible apply Frame.refl

end Sys2Proof.Laws
end

