-- ==== Sys2Proof/Laws/Memory.lean ====
section
/-! SUPPORT. Every operation on a store keeps its canonical form, and the canonical form of every memory of the machine
follows from that of its parts. -/

namespace Sys2Proof.Laws

open Sys2Proof Sys2Proof.Machine

/-! ### Cells -/

theorem cellsWf_cons (c : Host.Cell) (cs : List Host.Cell) :
    cellsWf (c :: cs) = true ↔ c.2 ≠ 0 ∧ (∀ d ∈ cs, c.1 < d.1) ∧ cellsWf cs = true := by
  induction cs generalizing c with
  | nil => simp [cellsWf]
  | cons d cs ih =>
    have h := ih d
    simp only [cellsWf, Bool.and_eq_true, decide_eq_true_eq, bne_iff_ne, List.mem_cons, forall_eq_or_imp] at h ⊢
    constructor
    · rintro ⟨⟨h1, h2⟩, h3⟩
      exact ⟨h1, ⟨h2, fun x hx => Nat.lt_trans h2 ((h.mp h3).2.1 x hx)⟩, h3⟩
    · rintro ⟨h1, ⟨h2, -⟩, h3⟩
      exact ⟨⟨h1, h2⟩, h3⟩

theorem mem_cellWrite {a : Nat} {v : Byte} {cs : List Host.Cell} {c : Host.Cell} (h : c ∈ cellWrite a v cs) :
    c = (a, v) ∨ c ∈ cs := by
  induction cs with
  | nil => by_cases hv : v = 0 <;> simp_all [cellWrite]
  | cons d cs ih =>
    simp only [cellWrite] at h
    split at h
    · split at h <;> simp_all
    · split at h
      · split at h <;> simp_all
        rcases h with h | h <;> simp [h]
      · rcases List.mem_cons.mp h with h | h
        · simp [h]
        · rcases ih h with h | h <;> simp [h]

theorem cellWrite_wf (a : Nat) (v : Byte) {cs : List Host.Cell} (h : cellsWf cs = true) :
    cellsWf (cellWrite a v cs) = true := by
  induction cs with
  | nil =>
    simp only [cellWrite]
    split
    · rfl
    · next hv => simpa [cellsWf] using hv
  | cons d cs ih =>
    have hd := (cellsWf_cons d cs).mp h
    simp only [cellWrite]
    split
    · next hlt =>
      split
      · exact h
      · next hv =>
        refine (cellsWf_cons _ _).mpr ⟨by simpa using hv, fun x hx => ?_, h⟩
        rcases List.mem_cons.mp hx with rfl | hx
        · exact hlt
        · exact Nat.lt_trans hlt (hd.2.1 x hx)
    · next hge =>
      split
      · next heq =>
        have heq : a = d.1 := by simpa using heq
        split
        · exact hd.2.2
        · next hv => exact (cellsWf_cons _ _).mpr ⟨by simpa using hv, fun x hx => heq ▸ hd.2.1 x hx, hd.2.2⟩
      · next hne =>
        refine (cellsWf_cons _ _).mpr ⟨hd.1, fun x hx => ?_, ih hd.2.2⟩
        rcases mem_cellWrite hx with rfl | hx
        · have : a ≠ d.1 := by simpa using hne
          exact by show d.1 < a; omega
        · exact hd.2.1 x hx

theorem cells_filter_wf (p : Host.Cell → Bool) {cs : List Host.Cell} (h : cellsWf cs = true) :
    cellsWf (cs.filter p) = true := by
  induction cs with
  | nil => rfl
  | cons c cs ih =>
    have hc := (cellsWf_cons c cs).mp h
    simp only [List.filter_cons]
    split
    · exact (cellsWf_cons _ _).mpr ⟨hc.1, fun x hx => hc.2.1 x (List.mem_filter.mp hx).1, ih hc.2.2⟩
    · exact ih hc.2.2

/-! ### Valid lines -/

theorem rising_cons (a : Nat) (l : List Nat) : rising (a :: l) = true ↔ (∀ b ∈ l, a < b) ∧ rising l = true := by
  induction l generalizing a with
  | nil => simp [rising]
  | cons b l ih =>
    have h := ih b
    simp only [rising, Bool.and_eq_true, decide_eq_true_eq, List.mem_cons, forall_eq_or_imp] at h ⊢
    constructor
    · rintro ⟨h1, h2⟩
      exact ⟨⟨h1, fun x hx => Nat.lt_trans h1 ((h.mp h2).1 x hx)⟩, h2⟩
    · rintro ⟨⟨h1, -⟩, h2⟩
      exact ⟨h1, h2⟩

theorem mem_insertRising (n x : Nat) (l : List Nat) : x ∈ insertRising n l ↔ x = n ∨ x ∈ l := by
  induction l with
  | nil => simp [insertRising]
  | cons m l ih =>
    simp only [insertRising]
    split
    · simp
    · split
      · next h =>
        have : n = m := by simpa using h
        simp [this]
      · simp only [List.mem_cons, ih]
        constructor <;> (rintro (h | h | h) <;> simp [h])

theorem insertRising_wf (n : Nat) {l : List Nat} (h : rising l = true) : rising (insertRising n l) = true := by
  induction l with
  | nil => rfl
  | cons m l ih =>
    have hm := (rising_cons m l).mp h
    simp only [insertRising]
    split
    · next hlt =>
      refine (rising_cons _ _).mpr ⟨fun x hx => ?_, h⟩
      rcases List.mem_cons.mp hx with rfl | hx
      · exact hlt
      · exact Nat.lt_trans hlt (hm.1 x hx)
    · next hge =>
      split
      · exact h
      · next hne =>
        refine (rising_cons _ _).mpr ⟨fun x hx => ?_, ih hm.2⟩
        rcases (mem_insertRising n x l).mp hx with rfl | hx
        · have : x ≠ m := by simpa using hne
          omega
        · exact hm.1 x hx

theorem rising_filter (p : Nat → Bool) {l : List Nat} (h : rising l = true) : rising (l.filter p) = true := by
  induction l with
  | nil => rfl
  | cons a l ih =>
    have ha := (rising_cons a l).mp h
    simp only [List.filter_cons]
    split
    · exact (rising_cons _ _).mpr ⟨fun x hx => ha.1 x (List.mem_filter.mp hx).1, ih ha.2⟩
    · exact ih ha.2

/-! ### Stores -/

theorem store_wf_iff (line : Nat) (m : Store) :
    m.wf line = true ↔ cellsWf m.cells = true ∧ rising m.valid = true ∧ ∀ c ∈ m.cells, c.1 / line ∈ m.valid := by
  simp only [Store.wf, Bool.and_eq_true, List.all_eq_true, List.contains_iff_mem, and_assoc]

@[simp] theorem store_empty_wf (line : Nat) : Store.empty.wf line = true := rfl

theorem store_write_wf {line : Nat} {m : Store} (a : Nat) (v : Byte) (h : m.wf line = true) :
    (m.write line a v).wf line = true := by
  obtain ⟨h1, h2, h3⟩ := (store_wf_iff line m).mp h
  refine (store_wf_iff line _).mpr ⟨cellWrite_wf a v h1, insertRising_wf _ h2, fun c hc => ?_⟩
  refine (mem_insertRising _ _ _).mpr ?_
  rcases mem_cellWrite hc with rfl | hc
  · exact Or.inl rfl
  · exact Or.inr (h3 c hc)

theorem store_writeBytes_wf {line : Nat} {m : Store} (a : Nat) (bs : List Byte) (h : m.wf line = true) :
    (m.writeBytes line a bs).wf line = true := by
  induction bs generalizing m a with
  | nil => exact h
  | cons b bs ih => exact ih (a + 1) (store_write_wf a b h)

theorem store_invalidate_wf {line : Nat} {m : Store} (p : Nat → Bool) (h : m.wf line = true) :
    (m.invalidate line p).wf line = true := by
  obtain ⟨h1, h2, h3⟩ := (store_wf_iff line m).mp h
  refine (store_wf_iff line _).mpr ⟨cells_filter_wf _ h1, rising_filter _ h2, fun c hc => ?_⟩
  obtain ⟨hc, hp⟩ := List.mem_filter.mp hc
  exact List.mem_filter.mpr ⟨h3 c hc, hp⟩

/-! ### The machine -/

/-- The stores of a context are canonical. -/
def CtxOk (c : EngineCtx) : Prop := c.operand.wf sramLine = true ∧ c.acc.wf sramLine = true

/-- The stores of an Engine and of the contexts saved from it are canonical. -/
def EngineOk (x : Engine) : Prop := CtxOk x.ctx ∧ ∀ c ∈ x.saved, CtxOk c.ctx

/-- The stacked memory, the Quarter Stores and the Bench SRAMs are canonical. -/
def MemOk (m : Memory) : Prop :=
  m.stacked.wf stackGranule = true ∧ (∀ q : QuarterId, m.quarter[q].wf sramLine = true) ∧
    ∀ b : BenchId, m.sram[b].wf sramLine = true

theorem vector_all_iff {α : Type} {n : Nat} (v : Vector α n) (p : α → Bool) :
    v.toList.all p = true ↔ ∀ i : Fin n, p v[i] = true := by
  simp only [List.all_eq_true]
  constructor
  · intro h i
    exact h _ (by simp [Vector.mem_toList_iff])
  · intro h x hx
    obtain ⟨i, hi, rfl⟩ := Vector.mem_iff_getElem.mp (Vector.mem_toList_iff.mp hx)
    exact h ⟨i, hi⟩

theorem memWf_iff (s : State) : s.memWf = true ↔ MemOk s.mem ∧ ∀ e : EngineId, EngineOk s.engines[e] := by
  rw [State.memWf, Bool.and_eq_true, Bool.and_eq_true, Bool.and_eq_true, vector_all_iff, vector_all_iff, vector_all_iff]
  simp only [MemOk, EngineOk, CtxOk, Bool.and_eq_true, List.all_eq_true, and_assoc]

theorem ctxFresh_ok : CtxOk EngineCtx.fresh := ⟨rfl, rfl⟩

end Sys2Proof.Laws
end

