-- ==== Sys2Proof/Laws/Keeps.lean ====
section
/-! SUPPORT. Operations that touch a memory keep its canonical form; an operation that touches none keeps it by its frame. -/

namespace Sys2Proof.Laws

set_option linter.all false
set_option Elab.async false

open Sys2Proof Sys2Proof.Machine

/-! ### Canonical memories -/

/-- Where every memory of s is canonical, every memory of t is. -/
def Keeps (s t : State) : Prop := s.memWf = true → t.memWf = true

theorem Keeps.refl (s : State) : Keeps s s := id

theorem Keeps.via {s t u : State} (g : Keeps t u) (h : Keeps s t) : Keeps s u := fun w => g (h w)

theorem Keeps.ofFrame {a : List Part} {s t u : State} (g : Frame a t u) (hm : Part.mem ∉ a) (he : Part.engines ∉ a)
    (h : Keeps s t) : Keeps s u := fun w => by
  have hmem : u.mem = t.mem := g .mem hm
  have heng : u.engines = t.engines := g .engines he
  have hw := h w
  unfold State.memWf at hw ⊢
  rw [hmem, heng]
  exact hw

theorem Keeps.ite {s a b : State} {c : Prop} [Decidable c] (h : Keeps s a) (g : Keeps s b) :
    Keeps s (if c then a else b) := by split <;> assumption

theorem Keeps.cut {s t : State} (x : State) (h : Keeps s x) (g : Keeps s x → Keeps s t) : Keeps s t := g h

theorem Keeps.foldl {α : Type} {s t : State} {f : State → α → State} (l : List α) (h : Keeps s t)
    (hf : ∀ u x, Keeps u (f u x)) : Keeps s (l.foldl f t) := by
  induction l generalizing t with
  | nil => exact h
  | cons x l ih => exact ih ((hf t x).via h)

theorem Keeps.foldlPair {α β : Type} {s : State} {t : State × β} {f : State × β → α → State × β} (l : List α)
    (h : Keeps s t.1) (hf : ∀ u x, Keeps u.1 (f u x).1) : Keeps s (l.foldl f t).1 := by
  induction l generalizing t with
  | nil => exact h
  | cons x l ih => exact ih ((hf t x).via h)

theorem Keeps.of_eq {s t u : State} (h : Keeps s t) (e : t = u) : Keeps s u := e ▸ h

theorem Keeps.getD {s : State} {o : Option State} (h : ∀ u, o = some u → Keeps s u) : Keeps s (o.getD s) := by
  cases o with
  | none => exact Keeps.refl s
  | some u => exact h u rfl

theorem Keeps.of {s t : State}
    (h : MemOk s.mem → (∀ e : EngineId, EngineOk s.engines[e]) → MemOk t.mem ∧ ∀ e : EngineId,
     EngineOk t.engines[e]) :
    Keeps s t := fun w =>
  have hs := (memWf_iff s).mp w
  (memWf_iff t).mpr (h hs.1 hs.2)

theorem Keeps.mem (s : State) (m : Memory) (h : MemOk s.mem → MemOk m) : Keeps s { s with mem := m } :=
  Keeps.of fun hm he => ⟨h hm, he⟩

theorem Keeps.engines (s : State) (v : Vector Engine 48)
    (h : (∀ e : EngineId, EngineOk s.engines[e]) → ∀ e : EngineId, EngineOk v[e]) : Keeps s { s with engines := v } :=
  Keeps.of fun hm he => ⟨hm, h he⟩

theorem modEngine_keeps (s : State) (e : EngineId) (f : Engine → Engine) (hf : ∀ x, EngineOk x → EngineOk (f x)) :
    Keeps s (s.modEngine e f) :=
  Keeps.engines s _ fun h i => by
    by_cases hi : e.val = i.val
    · have : e = i := Fin.ext hi
      subst this
      simpa using hf _ (h e)
    · simpa [Vector.getElem_set_ne _ _ hi] using h i

theorem engineOk_ite {x a b : Engine} {c : Prop} [Decidable c]
    (h : EngineOk x → EngineOk a) (g : EngineOk x → EngineOk b) :
    EngineOk x → EngineOk (if c then a else b) := by split <;> assumption

theorem dropJob_ok {k : Key} {x : Engine} (h : EngineOk x) : EngineOk (Engine.dropJob k x) := by
  unfold Engine.dropJob
  extract_lets e1 e2
  have h1 : EngineOk e1 := ⟨h.1, fun c hc => h.2 c (List.mem_of_mem_filter hc)⟩
  clear_value e1
  have h2 : EngineOk e2 := by
    unfold e2
    split
    · exact ⟨ctxFresh_ok, h1.2⟩
    · exact h1
  clear_value e2
  split
  · split
    · exact ⟨ctxFresh_ok, h2.2⟩
    · exact h2
  · exact h2

theorem engineOk_map {n : Nat} {v : Vector Engine n} {f : Engine → Engine} (hf : ∀ x, EngineOk x → EngineOk (f x))
    (h : ∀ e : Fin n, EngineOk v[e]) (e : Fin n) : EngineOk (v.map f)[e] := by
  simpa using hf _ (h e)

theorem Keeps.sub {s t u : State} (h : Keeps s t) (hm : MemOk t.mem → MemOk u.mem)
    (he : (∀ e : EngineId, EngineOk t.engines[e]) → ∀ e : EngineId, EngineOk u.engines[e]) : Keeps s u :=
  (Keeps.of fun a b => ⟨hm a, he b⟩).via h

/-- modEngine where the new Engine's stores rest on the Engine that it replaces. -/

theorem modEngine_keeps_at (s : State) (e : EngineId) (f : Engine → Engine)
    (hf : EngineOk s.engines[e] → EngineOk (f s.engines[e])) : Keeps s (s.modEngine e f) :=
  Keeps.engines s _ fun h i => by
    by_cases hi : e.val = i.val
    · have : e = i := Fin.ext hi
      subst this
      simpa using hf (h e)
    · simpa [Vector.getElem_set_ne _ _ hi] using h i

theorem saveResident_ok {x : Engine} (h : EngineOk x) : EngineOk x.saveResident := by
  unfold Engine.saveResident
  split
  · refine ⟨ctxFresh_ok, fun c hc => ?_⟩
    rcases List.mem_append.mp hc with hc | hc
    · exact h.2 c hc
    · rw [List.mem_singleton.mp hc]; exact h.1
  · exact h

theorem flagBy_ok {c : EngineCtx} (a n w : Nat) (h : CtxOk c) : CtxOk (c.flagBy a n w) := by
  unfold EngineCtx.flagBy
  split
  · exact h
  · exact ⟨h.1, h.2⟩

theorem writeRecords_ok {c : EngineCtx} (d : DrainEntry) (h : CtxOk c) : CtxOk (c.writeRecords d) := by
  unfold EngineCtx.writeRecords
  extract_lets
  split
  · exact ⟨h.1, h.2⟩
  · exact h

theorem count_ok {x : Engine} {f : Engine → Engine} (hf : ∀ x, EngineOk x → EngineOk (f x)) (h : EngineOk x) :
    EngineOk (x.count f) := by
  unfold Engine.count
  split
  · exact hf x h
  · exact h

theorem vecIssue_ok {x : Engine} (v : VecEntry) (n : Nat) (h : EngineOk x) : EngineOk (x.vecIssue v n) :=
  count_ok (fun _ h => ⟨⟨h.1.1, h.1.2⟩, h.2⟩) ⟨⟨h.1.1, h.1.2⟩, h.2⟩

theorem ctxOk_pc {c : EngineCtx} {n : Nat} (h : CtxOk c) : CtxOk { c with pc := n } := ⟨h.1, h.2⟩

theorem issue_ok {x : Engine} (c : RateClass) (sl : Slot) (h : EngineOk x) : EngineOk (x.issue c sl) := by
  refine count_ok (fun _ h => ⟨⟨h.1.1, h.1.2⟩, h.2⟩) ⟨?_, h.2⟩
  exact ctxOk_pc (flagBy_ok _ _ _ (flagBy_ok _ _ _ (flagBy_ok _ _ _ (flagBy_ok _ _ _ ⟨h.1.1, h.1.2⟩))))

theorem sample_ok {x : Engine} (k : Key) (u n : Nat) (o : ArrayOp) (sl : Slot) (h : EngineOk x) :
    EngineOk (x.sample k u n o sl) := by
  unfold Engine.sample
  split
  · exact h
  · exact ⟨⟨h.1.1, h.1.2⟩, h.2⟩

theorem drainRow_ok (o : ArrayOp) (p : List Word32 × Nat) {st : Store × Nat × Nat} (h : st.1.wf sramLine = true) :
    (drainRow o st p).1.wf sramLine = true := by
  unfold drainRow
  generalize p.1.zipIdx = l
  induction l generalizing st with
  | nil => exact h
  | cons q l ih => exact ih (store_writeBytes_wf _ _ h)

theorem drainRows_ok (o : ArrayOp) (l : List (List Word32 × Nat)) {st : Store × Nat × Nat} (h : st.1.wf sramLine = true) :
    (l.foldl (drainRow o) st).1.wf sramLine = true := by
  induction l generalizing st with
  | nil => exact h
  | cons q l ih => exact ih (drainRow_ok o q h)

theorem store_ok {s : State} (h : s.memWf = true) (sp : Space) : (s.store sp).wf (spaceLine sp) = true := by
  have ⟨hm, he⟩ := (memWf_iff s).mp h
  cases sp with
  | operand e => exact (he e).1.1
  | acc e => exact (he e).1.2
  | quarter q => exact hm.2.1 q
  | sram b => exact hm.2.2 b
  | stacked => exact hm.1

theorem set_all {α : Type} {n : Nat} {v : Vector α n} {P : α → Prop} (i : Fin n) {x : α} (hx : P x)
    (h : ∀ j : Fin n, P v[j]) (j : Fin n) : P (v.set i x)[j] := by
  by_cases hi : i.val = j.val
  · simp [hi, hx]
  · simpa [Vector.getElem_set_ne _ _ hi] using h j

theorem setStore_keeps_of {s : State} (sp : Space) (m : Store) (hm : s.memWf = true → m.wf (spaceLine sp) = true) :
    Keeps s (s.setStore sp m) := fun w => by
  have hw := hm w
  refine Keeps.of (s := s) (fun hmem he => ?_) w
  cases sp with
  | operand e => exact ⟨hmem, set_all (P := EngineOk) e ⟨⟨hw, (he e).1.2⟩, (he e).2⟩ he⟩
  | acc e => exact ⟨hmem, set_all (P := EngineOk) e ⟨⟨(he e).1.1, hw⟩, (he e).2⟩ he⟩
  | quarter q => exact ⟨⟨hmem.1, set_all (P := fun t : Store => t.wf sramLine = true) q hw hmem.2.1, hmem.2.2⟩, he⟩
  | sram b => exact ⟨⟨hmem.1, hmem.2.1, set_all (P := fun t : Store => t.wf sramLine = true) b hw hmem.2.2⟩, he⟩
  | stacked => exact ⟨⟨hw, hmem.2.1, hmem.2.2⟩, he⟩

theorem lastFlush_keeps (s : State) (n) : Keeps s { s with mem := { s.mem with lastFlush := n } } :=
  Keeps.mem s _ fun m => ⟨m.1, m.2.1, m.2.2⟩

theorem clearGranule_keeps (s : State) (x1 x2) : Keeps s (State.clearGranule s x1 x2) :=
  setStore_keeps_of _ _ fun w => store_invalidate_wf _ (store_ok w _)

theorem acceptJob_keeps :
    ∀ s x1 x2 x3 x4 x5, Keeps s (State.acceptJob s x1 x2 x3 x4 x5) := by
  intro s x1 x2 x3 x4 x5
  unfold State.acceptJob
  repeat' first
    | with_reducible apply Keeps.refl
    | with_reducible assumption
    | (apply Keeps.via; with_reducible apply clearGranule_keeps)
    | (apply Keeps.ofFrame; with_reducible (first | apply fresh_frame | apply addJob_frame); decide; decide)
    | with_reducible apply Keeps.ite
    | (extract_lets +onlyGivenNames x; clear_value (e : x = _); apply Keeps.cut x; (subst e); rotate_left;
       (intro h); (clear e); rotate_right)
    | extract_lets +onlyGivenNames y
    | split
    | (with_reducible apply Keeps.foldlPair; rotate_left; intro u x; (try dsimp -zeta -proj -eta only); rotate_right)
    | (with_reducible apply Keeps.foldl; rotate_left; intro u x; (try dsimp -zeta -proj -eta only); rotate_right)
    | (refine Keeps.ofFrame ((fresh_frame _).of_eq (congrArg Prod.snd (by assumption))) (by decide) (by decide) ?_)
    | fail_if_no_progress (dsimp +zetaDelta -zeta -proj -eta only)
    | fail_if_no_progress (dsimp -zeta -eta only)

theorem chargeRun_keeps :
    ∀ s x1, Keeps s (State.chargeRun s x1) := by
  intro s x1
  unfold State.chargeRun
  (try dsimp -proj -eta only)
  repeat' first
    | with_reducible apply Keeps.refl
    | (apply Keeps.via; (with_reducible apply modEngine_keeps);
       (intro x h; (try unfold Engine.count); (try dsimp -zeta -proj -eta only);
        (repeat' (first | (exact h) | (exact dropJob_ok h) | (exact ⟨⟨h.1.1, h.1.2⟩, h.2⟩)
                        | (refine ⟨⟨?_, ?_⟩, ?_⟩ <;> (first | exact h.1.1 | exact h.1.2 | exact h.2
                                                            | exact store_empty_wf
                                                                | exact store_writeBytes_wf _ _ h.1.1
                                                                    | exact store_writeBytes_wf _ _ h.1.2)) |
                                                                        (extract_lets +onlyGivenNames y) | split))))
    | (apply Keeps.ofFrame; with_reducible apply charge_frame; decide; decide)
    | split

theorem preempt_keeps :
    ∀ s x1 x2, Keeps s (State.preempt s x1 x2) := by
  intro s x1 x2
  unfold State.preempt
  (try dsimp -proj -eta only)
  repeat' first
    | with_reducible apply Keeps.refl
    | with_reducible assumption
    | (apply Keeps.via; (with_reducible apply modEngine_keeps);
       (intro x h; (try unfold Engine.count); (try dsimp -zeta -proj -eta only);
        (repeat' (first | (exact h) | (exact dropJob_ok h) | (exact ⟨⟨h.1.1, h.1.2⟩, h.2⟩)
                        | (refine ⟨⟨?_, ?_⟩, ?_⟩ <;> (first | exact h.1.1 | exact h.1.2 | exact h.2
                                                            | exact store_empty_wf
                                                                | exact store_writeBytes_wf _ _ h.1.1
                                                                    | exact store_writeBytes_wf _ _ h.1.2)) |
                                                                        (extract_lets +onlyGivenNames y) | split))))
    | (apply Keeps.via; with_reducible apply chargeRun_keeps)
    | (apply Keeps.ofFrame; with_reducible apply countSwitch_frame; decide; decide)
    | with_reducible apply Keeps.ite
    | (extract_lets +onlyGivenNames x; clear_value (e : x = _); apply Keeps.cut x; (subst e); rotate_left;
       (intro h); (clear e); rotate_right)
    | extract_lets +onlyGivenNames y
    | split
    | (with_reducible apply Keeps.foldlPair; rotate_left; intro u x; (try dsimp -zeta -proj -eta only); rotate_right)
    | (with_reducible apply Keeps.foldl; rotate_left; intro u x; (try dsimp -zeta -proj -eta only); rotate_right)
    | fail_if_no_progress (dsimp +zetaDelta -zeta -proj -eta only)
    | fail_if_no_progress (dsimp -zeta -eta only)

theorem loadHeals_keeps :
    ∀ s x1, Keeps s (State.loadHeals s x1) := by
  intro s x1
  unfold State.loadHeals
  (try dsimp -proj -eta only)
  repeat' first
    | with_reducible apply Keeps.refl
    | with_reducible assumption
    | with_reducible apply Keeps.ite
    | (extract_lets +onlyGivenNames x; clear_value (e : x = _); apply Keeps.cut x; (subst e); rotate_left;
       (intro h); (clear e); rotate_right)
    | extract_lets +onlyGivenNames y
    | split
    | (with_reducible apply Keeps.foldlPair; rotate_left; intro u x; (try dsimp -zeta -proj -eta only); rotate_right)
    | (with_reducible apply Keeps.foldl; rotate_left; intro u x; (try dsimp -zeta -proj -eta only); rotate_right)
    | fail_if_no_progress (apply Keeps.via; (with_reducible apply Keeps.mem);
                           (first | exact fun h => h | exact fun h => ⟨h.1, h.2.1, h.2.2⟩))
    | fail_if_no_progress (dsimp +zetaDelta -zeta -proj -eta only)
    | fail_if_no_progress (dsimp -zeta -eta only)

theorem moveLocal_keeps :
    ∀ s x1 x2 x3, Keeps s (State.moveLocal s x1 x2 x3) := by
  intro s x1 x2 x3
  unfold State.moveLocal
  (try dsimp -proj -eta only)
  repeat' first
    | with_reducible apply Keeps.refl
    | (apply Keeps.via; (with_reducible apply modEngine_keeps);
       (intro x h; (try unfold Engine.count); (try dsimp -zeta -proj -eta only);
        (repeat' (first | (exact h) | (exact dropJob_ok h) | (exact ⟨⟨h.1.1, h.1.2⟩, h.2⟩)
                        | (refine ⟨⟨?_, ?_⟩, ?_⟩ <;> (first | exact h.1.1 | exact h.1.2 | exact h.2
                                                            | exact store_empty_wf
                                                                | exact store_writeBytes_wf _ _ h.1.1
                                                                    | exact store_writeBytes_wf _ _ h.1.2)) |
                                                                        (extract_lets +onlyGivenNames y) | split))))
    | with_reducible apply Keeps.ite

theorem seedLocal_keeps :
    ∀ s x1 x2, Keeps s (State.seedLocal s x1 x2) := by
  intro s x1 x2
  unfold State.seedLocal
  (try dsimp -proj -eta only)
  repeat' first
    | with_reducible apply Keeps.refl
    | (apply Keeps.via; (with_reducible apply modEngine_keeps);
       (intro x h; (try unfold Engine.count); (try dsimp -zeta -proj -eta only);
        (repeat' (first | (exact h) | (exact dropJob_ok h) | (exact ⟨⟨h.1.1, h.1.2⟩, h.2⟩)
                        | (refine ⟨⟨?_, ?_⟩, ?_⟩ <;> (first | exact h.1.1 | exact h.1.2 | exact h.2
                                                            | exact store_empty_wf
                                                                | exact store_writeBytes_wf _ _ h.1.1
                                                                    | exact store_writeBytes_wf _ _ h.1.2)) |
                                                                        (extract_lets +onlyGivenNames y) | split))))
    | (apply Keeps.ofFrame; with_reducible (first | apply freshN_frame | apply fresh_frame); decide; decide)
    | with_reducible apply Keeps.ite

theorem releaseGranules_keeps :
    ∀ s x1, Keeps s (State.releaseGranules s x1) := by
  intro s x1
  unfold State.releaseGranules
  (try dsimp -proj -eta only)
  repeat' first
    | with_reducible apply Keeps.refl
    | fail_if_no_progress (apply Keeps.via; (with_reducible apply Keeps.mem);
                           (first | exact fun h => h | exact fun h => ⟨h.1, h.2.1, h.2.2⟩))

theorem recache_keeps :
    ∀ s x1 x2, Keeps s (State.recache s x1 x2) := by
  intro s x1 x2
  unfold State.recache
  repeat' first
    | with_reducible apply Keeps.refl
    | (apply Keeps.via; with_reducible (first | apply releaseGranules_keeps | apply clearGranule_keeps))
    | (apply Keeps.ofFrame; with_reducible apply modCache_frame; decide; decide)
    | (with_reducible apply Keeps.foldl; rotate_left; intro u x; (try dsimp -zeta -proj -eta only); rotate_right)

theorem promote_keeps :
    ∀ s x1 x2 x3, Keeps s (State.promote s x1 x2 x3) := by
  intro s x1 x2 x3
  unfold State.promote
  repeat' first
    | with_reducible apply Keeps.refl
    | (apply Keeps.via; with_reducible apply recache_keeps)
    | (apply Keeps.ofFrame; with_reducible (first | apply takeQuarter_frame | apply modCache_frame); decide; decide)
    | with_reducible apply Keeps.ite
    | split
    | (refine Keeps.ofFrame ((takeQuarter_frame _ _ _).of_eq (congrArg Prod.snd (by assumption))) (by decide) (by decide) ?_)

theorem startStaging_keeps :
    ∀ s x1 x2, Keeps s (State.startStaging s x1 x2) := by
  intro s x1 x2
  unfold State.startStaging
  repeat' first
    | with_reducible apply Keeps.refl
    | (apply Keeps.via; with_reducible apply recache_keeps)
    | (apply Keeps.ofFrame; with_reducible (first | apply takeStacked_frame | apply modCache_frame); decide; decide)
    | with_reducible apply Keeps.ite
    | split
    | (refine Keeps.ofFrame ((takeStacked_frame _ _ _).of_eq (congrArg Prod.snd (by assumption))) (by decide) (by decide) ?_)

theorem doPromotionRequest_keeps :
    ∀ x0 x1 x2 x3 s, Keeps s (doPromotionRequest x0 x1 x2 x3 s) := by
  intro x0 x1 x2 x3 s
  unfold doPromotionRequest
  repeat' first
    | with_reducible apply Keeps.refl
    | (apply Keeps.via; with_reducible (first | apply startStaging_keeps | apply promote_keeps))
    | (apply Keeps.ofFrame; with_reducible apply modCache_frame; decide; decide)
    | with_reducible apply Keeps.ite
    | split

theorem savedCtx_ok {s : State} (w : s.memWf = true) {e : EngineId} {k u p c} (h : s.savedCtx e k u p = some c) :
    CtxOk c.ctx :=
  (((memWf_iff s).mp w).2 e).2 c (List.mem_of_find?_eq_some h)

theorem newUnit_ok {c : EngineCtx} (h : CtxOk c) : CtxOk c.newUnit := ⟨h.1, h.2⟩

theorem beginUnit_keeps (s : State) (e k u) : Keeps s (State.beginUnit s e k u) := by
  unfold State.beginUnit
  split
  · exact Keeps.refl s
  rename_i j _
  extract_lets now p s1 s2
  have h1 : Keeps s s1 := Keeps.ite (Keeps.refl s) (modEngine_keeps _ _ _ fun _ h => saveResident_ok h)
  clear_value s1
  have h2 : Keeps s1 s2 := by
    intro w
    unfold s2
    split
    · split
      · next c hc =>
        have hc : CtxOk c.ctx := savedCtx_ok w hc
        refine Keeps.foldl _ ?_ (fun u o => doPromotionRequest_keeps _ _ _ _ u) w
        refine Keeps.via (modEngine_keeps _ _ _ fun _ h => ⟨⟨hc.1, hc.2⟩, h.2⟩) (Keeps.via (loadHeals_keeps _ _) ?_)
        exact Keeps.via (modEngine_keeps _ _ _ fun _ h => ⟨h.1, fun c' h' => h.2 c' (List.mem_of_mem_filter h')⟩)
          (moveLocal_keeps _ _ _ _)
      · exact w
    · split
      · exact modEngine_keeps _ _ _ (fun _ h => ⟨newUnit_ok h.1, h.2⟩) w
      · split
        · next c hc =>
          have hc : CtxOk c.ctx := savedCtx_ok w hc
          refine Keeps.via (modEngine_keeps _ _ _ fun _ h =>
            ⟨?_, fun c' h' => h.2 c' (List.mem_of_mem_filter h')⟩) (loadHeals_keeps _ _) w
          dsimp only
          split
          · exact newUnit_ok hc
          · exact ctxFresh_ok
        · exact Keeps.via (modEngine_keeps _ _ _ fun _ h => ⟨ctxFresh_ok, h.2⟩) (seedLocal_keeps _ _ _) w
  exact Keeps.ofFrame (modJob_frame _ _ _) (by decide) (by decide) (Keeps.via h2 h1)

theorem startNext_keeps :
    ∀ s x1, Keeps s (State.startNext s x1) := by
  intro s x1
  unfold State.startNext
  repeat' first
    | with_reducible apply Keeps.refl
    | (apply Keeps.via; with_reducible apply beginUnit_keeps)
    | split

theorem placeOn_keeps :
    ∀ s x1 x2 x3 x4 x5 x6, Keeps s (State.placeOn s x1 x2 x3 x4 x5 x6) := by
  intro s x1 x2 x3 x4 x5 x6
  unfold State.placeOn
  repeat' first
    | with_reducible apply Keeps.refl
    | with_reducible assumption
    | (apply Keeps.via; with_reducible (first | apply startNext_keeps | apply preempt_keeps | apply chargeRun_keeps))
    | (apply Keeps.ofFrame; with_reducible apply modJob_frame; decide; decide)
    | with_reducible apply Keeps.ite
    | (extract_lets +onlyGivenNames x; clear_value (e : x = _); apply Keeps.cut x; (subst e); rotate_left;
       (intro h); (clear e); rotate_right)
    | extract_lets +onlyGivenNames y
    | split
    | (with_reducible apply Keeps.foldlPair; rotate_left; intro u x; (try dsimp -zeta -proj -eta only); rotate_right)
    | (with_reducible apply Keeps.foldl; rotate_left; intro u x; (try dsimp -zeta -proj -eta only); rotate_right)
    | fail_if_no_progress (dsimp +zetaDelta -zeta -proj -eta only)
    | fail_if_no_progress (dsimp -zeta -eta only)

theorem startFront_keeps :
    ∀ s x1 x2 x3, Keeps s (State.startFront s x1 x2 x3) := by
  intro s x1 x2 x3
  unfold State.startFront
  repeat' first
    | with_reducible apply Keeps.refl
    | (apply Keeps.via; with_reducible apply placeOn_keeps)
    | (apply Keeps.ofFrame; with_reducible apply modJob_frame; decide; decide)

theorem takeFront_keeps :
    ∀ s x1 x2 x3, Keeps s (State.takeFront s x1 x2 x3) := by
  intro s x1 x2 x3
  unfold State.takeFront
  repeat' first
    | with_reducible apply Keeps.refl
    | (apply Keeps.via; with_reducible (first | apply startFront_keeps | apply preempt_keeps))
    | (apply Keeps.ofFrame; with_reducible apply modJob_frame; decide; decide)
    | with_reducible apply Keeps.ite

theorem admitC0_keeps :
    ∀ x0 x1 x2, Keeps x1.1 (State.admitC0 x0 x1 x2).1 := by
  rintro x0 ⟨s, n⟩ x2
  unfold State.admitC0
  dsimp -proj -eta only
  repeat' first
    | with_reducible apply Keeps.refl
    | (apply Keeps.via; with_reducible apply takeFront_keeps)
    | (apply Keeps.ofFrame; with_reducible (first | apply refuse_frame | apply deferC0_frame | apply dropJob_frame
                                                  | apply admitBound_frame | apply modJob_frame); decide; decide)
    | split
    | fail_if_no_progress (apply Keeps.ofFrame; with_reducible apply Frame.sched; decide; decide)

theorem admitOther_keeps :
    ∀ x0 s x2, Keeps s (State.admitOther x0 s x2) := by
  intro x0 s x2
  unfold State.admitOther
  repeat' first
    | with_reducible apply Keeps.refl
    | (apply Keeps.via; with_reducible apply startFront_keeps)
    | (apply Keeps.ofFrame; with_reducible (first | apply refuse_frame | apply dropJob_frame
                                                  | apply admitCommand_frame); decide; decide)
    | split

theorem placeFront_keeps :
    ∀ x0 s x2, Keeps s (State.placeFront x0 s x2) := by
  intro x0 s x2
  unfold State.placeFront
  repeat' first
    | with_reducible apply Keeps.refl
    | with_reducible assumption
    | (apply Keeps.via; with_reducible apply startFront_keeps)
    | with_reducible apply Keeps.ite
    | (extract_lets +onlyGivenNames x; clear_value (e : x = _); apply Keeps.cut x; (subst e); rotate_left;
       (intro h); (clear e); rotate_right)
    | extract_lets +onlyGivenNames y
    | split
    | (with_reducible apply Keeps.foldlPair; rotate_left; intro u x; (try dsimp -zeta -proj -eta only); rotate_right)
    | (with_reducible apply Keeps.foldl; rotate_left; intro u x; (try dsimp -zeta -proj -eta only); rotate_right)
    | fail_if_no_progress (dsimp +zetaDelta -zeta -proj -eta only)
    | fail_if_no_progress (dsimp -zeta -eta only)

theorem admissionStep_keeps :
    ∀ s x1, Keeps s (State.admissionStep s x1) := by
  intro s x1
  unfold State.admissionStep
  repeat' first
    | with_reducible apply Keeps.refl
    | (apply Keeps.via; with_reducible (first | apply placeFront_keeps | apply admitOther_keeps
                                              | apply admitC0_keeps))
    | (with_reducible apply Keeps.foldlPair; rotate_left; intro u x; (try dsimp -zeta -proj -eta only); rotate_right)
    | (with_reducible apply Keeps.foldl; rotate_left; intro u x; (try dsimp -zeta -proj -eta only); rotate_right)
    | fail_if_no_progress (apply Keeps.ofFrame; with_reducible apply Frame.sched; decide; decide)

theorem annealAll_keeps (s : State) : Keeps s (State.annealAll s) :=
  Keeps.sub (Keeps.refl s)
    (fun _ => ⟨rfl, fun q => (congrArg (Store.wf sramLine) (Vector.getElem_replicate q.isLt)).trans rfl,
      fun b => (congrArg (Store.wf sramLine) (Vector.getElem_replicate b.isLt)).trans rfl⟩)
    (engineOk_map fun _ _ => ⟨ctxFresh_ok, fun _ h => nomatch h⟩)

theorem dropCopies_keeps :
    ∀ s x1 x2, Keeps s (State.dropCopies s x1 x2) := by
  intro s x1 x2
  unfold State.dropCopies
  repeat' first
    | with_reducible apply Keeps.refl
    | (apply Keeps.via; with_reducible apply recache_keeps)

theorem dropTailDirt_keeps :
    ∀ s x1, Keeps s (State.dropTailDirt s x1) := by
  intro s x1
  unfold State.dropTailDirt
  (try dsimp -proj -eta only)
  repeat' first
    | with_reducible apply Keeps.refl
    | fail_if_no_progress (apply Keeps.via; (with_reducible apply Keeps.mem);
                           (first | exact fun h => h | exact fun h => ⟨h.1, h.2.1, h.2.2⟩))

theorem annealMove_keeps (s : State) (x1 x2) : Keeps s (State.annealMove s x1 x2) := by
  unfold State.annealMove
  extract_lets wipe engine sram
  have hw : ∀ u sp a n g, Keeps u (wipe u sp a n g) :=
    fun u sp a n g => setStore_keeps_of sp _ fun w => store_invalidate_wf _ (store_ok w sp)
  have he : ∀ u, Keeps u (engine u) := by
    intro u
    unfold engine
    split
    · exact modEngine_keeps _ _ _ fun _ h => ⟨⟨rfl, rfl⟩, h.2⟩
    · exact Keeps.refl u
  have hs : ∀ u, Keeps u (sram u) := by
    intro u
    unfold sram
    split
    · next h =>
      refine Keeps.via (dropTailDirt_keeps _ _) ?_
      exact Keeps.mem u _ fun m => ⟨m.1, m.2.1, set_all (P := fun t : Store => t.wf sramLine = true) ⟨_, h⟩ rfl m.2.2⟩
    · exact Keeps.refl u
  clear_value wipe engine sram
  split
  · exact Keeps.ite (he _) (hs _)
  · split
    · split
      · exact he _
      · exact he _
      · split
        · exact Keeps.via (dropCopies_keeps _ _ _) (hw _ _ _ _ _)
        · exact Keeps.refl s
      · exact hs _
      · exact Keeps.foldl _ (hw _ _ _ _ _) fun u q => dropCopies_keeps _ _ _
    · exact Keeps.refl s

theorem annealScratch_keeps :
    ∀ s x1, Keeps s (State.annealScratch s x1) := by
  intro s x1
  unfold State.annealScratch
  repeat' first
    | with_reducible apply Keeps.refl
    | (apply Keeps.via; with_reducible (first | apply releaseGranules_keeps | apply clearGranule_keeps))
    | (with_reducible apply Keeps.foldl; rotate_left; intro u x; (try dsimp -zeta -proj -eta only); rotate_right)

theorem cleanTail_keeps :
    ∀ s x1 x2 x3, Keeps s (State.cleanTail s x1 x2 x3) := by
  intro s x1 x2 x3
  unfold State.cleanTail
  (try dsimp -proj -eta only)
  repeat' first
    | with_reducible apply Keeps.refl
    | with_reducible apply Keeps.ite
    | fail_if_no_progress (apply Keeps.via; (with_reducible apply Keeps.mem);
                           (first | exact fun h => h | exact fun h => ⟨h.1, h.2.1, h.2.2⟩))

theorem bringTail_keeps :
    ∀ s x1 x2 x3 u, State.bringTail s x1 x2 x3 = some u → Keeps s u := by
  intro s x1 x2 x3 u e
  unfold State.bringTail at e
  dsimp -proj -eta only at e
  repeat' split at e
  all_goals first | (cases e; done) | cases e
  all_goals repeat' first
    | with_reducible apply Keeps.refl
    | with_reducible assumption
    | (apply Keeps.via; with_reducible apply cleanTail_keeps)
    | (apply Keeps.ofFrame; with_reducible (first | apply modFlash_frame | apply modBench_frame
                                                  | apply copyHome_frame); decide; decide)
    | with_reducible apply Keeps.ite
    | (extract_lets +onlyGivenNames x; clear_value (e : x = _); apply Keeps.cut x; (subst e); rotate_left;
       (intro h); (clear e); rotate_right)
    | extract_lets +onlyGivenNames y
    | split
    | (with_reducible apply Keeps.foldlPair; rotate_left; intro u x; (try dsimp -zeta -proj -eta only); rotate_right)
    | (with_reducible apply Keeps.foldl; rotate_left; intro u x; (try dsimp -zeta -proj -eta only); rotate_right)
    | fail_if_no_progress (dsimp +zetaDelta -zeta -proj -eta only)
    | fail_if_no_progress (dsimp -zeta -eta only)

theorem bringTails_keeps :
    ∀ s x1 x2 x3 u, State.bringTails s x1 x2 x3 = some u → Keeps s u := by
  intro s x1 x2 x3 u e
  induction x3 generalizing s with
  | nil => cases e; exact Keeps.refl _
  | cons y ys ih =>
    unfold State.bringTails at e
    split at e
    · next t h => exact Keeps.via (ih _ e) (bringTail_keeps _ _ _ _ _ h)
    · cases e

theorem dirtyWrite_keeps :
    ∀ s x1 x2 x3, Keeps s (State.dirtyWrite s x1 x2 x3).1 := by
  intro s x1 x2 x3
  unfold State.dirtyWrite
  (try dsimp -proj -eta only)
  repeat' first
    | with_reducible apply Keeps.refl
    | (apply Keeps.ofFrame; with_reducible apply modCache_frame; decide; decide)
    | split
    | fail_if_no_progress (apply Keeps.via; (with_reducible apply Keeps.mem);
                           (first | exact fun h => h | exact fun h => ⟨h.1, h.2.1, h.2.2⟩))

theorem noteStripes_keeps (o s : State) (x) : Keeps s (State.noteStripes o s x) := by
  unfold State.noteStripes
  exact Keeps.ofFrame (recountUsed_frame _ _) (by decide) (by decide)
      (Keeps.ite (Keeps.refl s) (dirtyWrite_keeps _ _ _ _))

theorem granuleHome_keeps (s : State) (q g) : Keeps s (State.granuleHome s q g) := by
  unfold State.granuleHome
  split
  · exact Keeps.refl s
  · next t h =>
    refine Keeps.via (noteStripes_keeps _ _ _) (Keeps.via (noteStripes_keeps _ _ _) ?_)
    refine Keeps.ofFrame (copyHome_frame _ _) (by decide) (by decide) ?_
    exact Keeps.sub (Keeps.ofFrame (programHome_frame _ _ _ _ h) (by decide) (by decide) (Keeps.refl s))
      (fun m => ⟨m.1, m.2.1, m.2.2⟩) id

theorem dirtyThrough_keeps :
    ∀ s x1 x2 x3, Keeps s (State.dirtyThrough s x1 x2 x3).1 := by
  intro s x1 x2 x3
  unfold State.dirtyThrough
  repeat' first
    | with_reducible apply Keeps.refl
    | with_reducible assumption
    | (apply Keeps.via; with_reducible (first | apply granuleHome_keeps | apply dirtyWrite_keeps))
    | (apply Keeps.ofFrame; with_reducible apply modCache_frame; decide; decide)
    | with_reducible apply Keeps.ite
    | (extract_lets +onlyGivenNames x; clear_value (e : x = _); apply Keeps.cut x; (subst e); rotate_left;
       (intro h); (clear e); rotate_right)
    | extract_lets +onlyGivenNames y
    | split
    | (with_reducible apply Keeps.foldlPair; rotate_left; intro u x; (try dsimp -zeta -proj -eta only); rotate_right)
    | (with_reducible apply Keeps.foldl; rotate_left; intro u x; (try dsimp -zeta -proj -eta only); rotate_right)
    | (refine Keeps.ofFrame (programHome_frame _ _ _ _ (by assumption)) (by decide) (by decide) ?_)
    | (refine Keeps.ofFrame (Frame.getD (fun u h => programHome_frame _ _ _ u h)) (by decide) (by decide) ?_)
    | (refine Keeps.via ((dirtyWrite_keeps _ _ _ _).of_eq (congrArg Prod.fst (by assumption))) ?_)
    | fail_if_no_progress (dsimp +zetaDelta -zeta -proj -eta only)
    | fail_if_no_progress (dsimp -zeta -eta only)

theorem dirtyTails_keeps : ∀ s x1 x2 x3, Keeps s (State.dirtyTails s x1 x2 x3).1 := by
  intro s x1 x2 x3
  induction x3 generalizing s with
  | nil => exact Keeps.refl s
  | cons x xs ih =>
    unfold State.dirtyTails
    split
    · exact Keeps.refl s
    · next t _ =>
      have h := dirtyThrough_keeps s (quarterOfBench x1) (tailGranule x1 t.slot) 1
      generalize s.dirtyThrough (quarterOfBench x1) (tailGranule x1 t.slot) 1 = r at h ⊢
      obtain ⟨u, b⟩ := r
      cases b
      · exact h
      · exact (ih u).via h

theorem dirtyMap_keeps :
    ∀ s x1 x2, Keeps s (State.dirtyMap s x1 x2) := by
  intro s x1 x2
  unfold State.dirtyMap
  repeat' first
    | with_reducible apply Keeps.refl
    | (apply Keeps.via; with_reducible apply dirtyThrough_keeps)

theorem moveTo_keeps :
    ∀ s x1 x2, Keeps s (State.moveTo s x1 x2) := by
  intro s x1 x2
  unfold State.moveTo
  repeat' first
    | with_reducible apply Keeps.refl
    | (apply Keeps.via; with_reducible apply dirtyThrough_keeps)
    | (apply Keeps.ofFrame; with_reducible apply modFlash_frame; decide; decide)
    | (with_reducible apply Keeps.foldl; rotate_left; intro u x; (try dsimp -zeta -proj -eta only); rotate_right)
    | extract_lets +onlyGivenNames y
    | with_reducible apply Keeps.ite

theorem storeTable_keeps :
    ∀ s x1, Keeps s (State.storeTable s x1) := by
  intro s x1
  unfold State.storeTable
  repeat' first
    | with_reducible apply Keeps.refl
    | with_reducible assumption
    | (apply Keeps.via; with_reducible apply moveTo_keeps)
    | (apply Keeps.ofFrame; with_reducible apply recountUsed_frame; decide; decide)
    | with_reducible apply Keeps.ite
    | (extract_lets +onlyGivenNames x; clear_value (e : x = _); apply Keeps.cut x; (subst e); rotate_left;
       (intro h); (clear e); rotate_right)
    | extract_lets +onlyGivenNames y
    | split
    | (with_reducible apply Keeps.foldlPair; rotate_left; intro u x; (try dsimp -zeta -proj -eta only); rotate_right)
    | (with_reducible apply Keeps.foldl; rotate_left; intro u x; (try dsimp -zeta -proj -eta only); rotate_right)
    | fail_if_no_progress (dsimp +zetaDelta -zeta -proj -eta only)
    | fail_if_no_progress (dsimp -zeta -eta only)

theorem storeTables_keeps :
    ∀ s x1, Keeps s (State.storeTables s x1) := by
  intro s x1
  unfold State.storeTables
  repeat' first
    | with_reducible apply Keeps.refl
    | with_reducible assumption
    | (apply Keeps.via; with_reducible apply storeTable_keeps)
    | with_reducible apply Keeps.ite
    | (extract_lets +onlyGivenNames x; clear_value (e : x = _); apply Keeps.cut x; (subst e); rotate_left;
       (intro h); (clear e); rotate_right)
    | extract_lets +onlyGivenNames y
    | split
    | (with_reducible apply Keeps.foldlPair; rotate_left; intro u x; (try dsimp -zeta -proj -eta only); rotate_right)
    | (with_reducible apply Keeps.foldl; rotate_left; intro u x; (try dsimp -zeta -proj -eta only); rotate_right)
    | fail_if_no_progress (dsimp +zetaDelta -zeta -proj -eta only)
    | fail_if_no_progress (dsimp -zeta -eta only)

theorem endReading_keeps :
    ∀ s x1 x2 x3, Keeps s (State.endReading s x1 x2 x3) := by
  intro s x1 x2 x3
  unfold State.endReading
  repeat' first
    | with_reducible apply Keeps.refl
    | with_reducible assumption
    | (apply Keeps.via; with_reducible (first | apply storeTables_keeps | apply dirtyMap_keeps))
    | (apply Keeps.ofFrame; with_reducible (first | apply modObj_frame | apply modBench_frame); decide; decide)
    | with_reducible apply Keeps.ite
    | (extract_lets +onlyGivenNames x; clear_value (e : x = _); apply Keeps.cut x; (subst e); rotate_left;
       (intro h); (clear e); rotate_right)
    | extract_lets +onlyGivenNames y
    | split
    | (with_reducible apply Keeps.foldlPair; rotate_left; intro u x; (try dsimp -zeta -proj -eta only); rotate_right)
    | (with_reducible apply Keeps.foldl; rotate_left; intro u x; (try dsimp -zeta -proj -eta only); rotate_right)
    | fail_if_no_progress (dsimp +zetaDelta -zeta -proj -eta only)
    | fail_if_no_progress (dsimp -zeta -eta only)

theorem settleReading_keeps :
    ∀ s x1, Keeps s (State.settleReading s x1) := by
  intro s x1
  unfold State.settleReading
  repeat' first
    | with_reducible apply Keeps.refl
    | (apply Keeps.via; with_reducible apply endReading_keeps)
    | split

theorem append_keeps (s : State) (l r) : Keeps s (State.append s l r).1 := by
  unfold State.append
  dsimp only
  split
  · exact Keeps.refl s
  · split
    · exact Keeps.refl s
    · next s1 h1 =>
      have g1 : Keeps s s1 := bringTails_keeps _ _ _ _ _ h1
      split
      · next s2 h2 => exact Keeps.via ((dirtyTails_keeps _ _ _ _).of_eq (congrArg Prod.fst h2)) g1
      · next s2 h2 =>
        have g2 := Keeps.via ((dirtyTails_keeps _ _ _ _).of_eq (congrArg Prod.fst h2)) g1
        have g3 := Keeps.via (dirtyThrough_keeps s2 (quarterOfBench l.bench) (directoryGranule l.num) 4) g2
        split
        · exact g3
        · refine Keeps.via (settleReading_keeps _ _) (Keeps.ofFrame (modBench_frame _ _ _) (by decide) (by decide)
            (Keeps.ofFrame (modObj_frame _ _ _) (by decide) (by decide) (Keeps.ofFrame (Frame.search _ _) (by decide)
            (by decide) (Keeps.ofFrame (modList_frame _ _ _) (by decide) (by decide) g3))))

theorem deferColls_keeps :
    ∀ s x1 x2, Keeps s (State.deferColls s x1 x2) := by
  intro s x1 x2
  unfold State.deferColls
  repeat' first
    | with_reducible apply Keeps.refl
    | with_reducible assumption
    | (apply Keeps.via; with_reducible apply dirtyMap_keeps)
    | with_reducible apply Keeps.ite
    | (extract_lets +onlyGivenNames x; clear_value (e : x = _); apply Keeps.cut x; (subst e); rotate_left;
       (intro h); (clear e); rotate_right)
    | extract_lets +onlyGivenNames y
    | split
    | (with_reducible apply Keeps.foldlPair; rotate_left; intro u x; (try dsimp -zeta -proj -eta only); rotate_right)
    | (with_reducible apply Keeps.foldl; rotate_left; intro u x; (try dsimp -zeta -proj -eta only); rotate_right)
    | fail_if_no_progress (apply Keeps.ofFrame; with_reducible (first | apply Frame.search | apply Frame.benches
                                                                      | apply Frame.search_benches); decide; decide)
    | fail_if_no_progress (dsimp +zetaDelta -zeta -proj -eta only)
    | fail_if_no_progress (dsimp -zeta -eta only)

theorem keyGone_keeps :
    ∀ s x1, Keeps s (State.keyGone s x1) := by
  intro s x1
  unfold State.keyGone
  repeat' first
    | with_reducible apply Keeps.refl
    | with_reducible assumption
    | (apply Keeps.via; with_reducible apply deferColls_keeps)
    | (apply Keeps.ofFrame; with_reducible (first | apply refuse_frame | apply dropJob_frame); decide; decide)
    | with_reducible apply Keeps.ite
    | (extract_lets +onlyGivenNames x; clear_value (e : x = _); apply Keeps.cut x; (subst e); rotate_left;
       (intro h); (clear e); rotate_right)
    | extract_lets +onlyGivenNames y
    | split
    | (with_reducible apply Keeps.foldlPair; rotate_left; intro u x; (try dsimp -zeta -proj -eta only); rotate_right)
    | (with_reducible apply Keeps.foldl; rotate_left; intro u x; (try dsimp -zeta -proj -eta only); rotate_right)
    | fail_if_no_progress (apply Keeps.ofFrame; with_reducible apply Frame.sched; decide; decide)
    | fail_if_no_progress (dsimp +zetaDelta -zeta -proj -eta only)
    | fail_if_no_progress (dsimp -zeta -eta only)

theorem applyKeys_keeps :
    ∀ s, Keeps s (State.applyKeys s) := by
  intro s
  unfold State.applyKeys
  repeat' first
    | with_reducible apply Keeps.refl
    | with_reducible assumption
    | (apply Keeps.via; with_reducible apply keyGone_keeps)
    | (apply Keeps.ofFrame; with_reducible apply keysArrived_frame; decide; decide)
    | with_reducible apply Keeps.ite
    | (extract_lets +onlyGivenNames x; clear_value (e : x = _); apply Keeps.cut x; (subst e); rotate_left;
       (intro h); (clear e); rotate_right)
    | extract_lets +onlyGivenNames y
    | split
    | (with_reducible apply Keeps.foldlPair; rotate_left; intro u x; (try dsimp -zeta -proj -eta only); rotate_right)
    | (with_reducible apply Keeps.foldl; rotate_left; intro u x; (try dsimp -zeta -proj -eta only); rotate_right)
    | fail_if_no_progress (apply Keeps.ofFrame; with_reducible apply Frame.sec; decide; decide)
    | fail_if_no_progress (dsimp +zetaDelta -zeta -proj -eta only)
    | fail_if_no_progress (dsimp -zeta -eta only)

theorem bindParts_keeps (s : State) (x1) : Keeps s (State.bindParts s x1) := by
  unfold State.bindParts
  split
  · exact Keeps.refl s
  · refine Keeps.sub (Keeps.refl s) id fun h e => ?_
    simp only [Fin.getElem_fin, Vector.getElem_ofFn]
    repeat' first | exact h e | exact ⟨(h e).1, (h e).2⟩ | split

theorem setKcv_keeps :
    ∀ s x1 x2, Keeps s (State.setKcv s x1 x2) := by
  intro s x1 x2
  unfold State.setKcv
  repeat' first
    | with_reducible apply Keeps.refl
    | with_reducible assumption
    | (apply Keeps.via; with_reducible apply dirtyThrough_keeps)
    | (apply Keeps.ofFrame; with_reducible apply modColl_frame; decide; decide)
    | with_reducible apply Keeps.ite
    | (extract_lets +onlyGivenNames x; clear_value (e : x = _); apply Keeps.cut x; (subst e); rotate_left;
       (intro h); (clear e); rotate_right)
    | extract_lets +onlyGivenNames y
    | split
    | (with_reducible apply Keeps.foldlPair; rotate_left; intro u x; (try dsimp -zeta -proj -eta only); rotate_right)
    | (with_reducible apply Keeps.foldl; rotate_left; intro u x; (try dsimp -zeta -proj -eta only); rotate_right)
    | (refine Keeps.via ((dirtyThrough_keeps _ _ _ _).of_eq (congrArg Prod.fst (by assumption))) ?_)
    | fail_if_no_progress (dsimp +zetaDelta -zeta -proj -eta only)
    | fail_if_no_progress (dsimp -zeta -eta only)

theorem checkKcvs_keeps :
    ∀ s, Keeps s (State.checkKcvs s) := by
  intro s
  unfold State.checkKcvs
  repeat' first
    | with_reducible apply Keeps.refl
    | (apply Keeps.via; with_reducible apply setKcv_keeps)
    | (apply Keeps.ofFrame; with_reducible apply reportSecurity_frame; decide; decide)
    | with_reducible apply Keeps.ite
    | (with_reducible apply Keeps.foldl; rotate_left; intro u x; (try dsimp -zeta -proj -eta only); rotate_right)
    | fail_if_no_progress (apply Keeps.ofFrame; with_reducible apply Frame.sec; decide; decide)

theorem createColls_keeps :
    ∀ s x1, Keeps s (State.createColls s x1) := by
  intro s x1
  unfold State.createColls
  repeat' first
    | with_reducible apply Keeps.refl
    | with_reducible assumption
    | (apply Keeps.via; with_reducible apply dirtyThrough_keeps)
    | with_reducible apply Keeps.ite
    | (extract_lets +onlyGivenNames x; clear_value (e : x = _); apply Keeps.cut x; (subst e); rotate_left;
       (intro h); (clear e); rotate_right)
    | extract_lets +onlyGivenNames y
    | split
    | (with_reducible apply Keeps.foldlPair; rotate_left; intro u x; (try dsimp -zeta -proj -eta only); rotate_right)
    | (with_reducible apply Keeps.foldl; rotate_left; intro u x; (try dsimp -zeta -proj -eta only); rotate_right)
    | (refine Keeps.via ((dirtyThrough_keeps _ _ _ _).of_eq (congrArg Prod.fst (by assumption))) ?_)
    | fail_if_no_progress (apply Keeps.ofFrame; with_reducible apply Frame.search; decide; decide)
    | fail_if_no_progress (dsimp +zetaDelta -zeta -proj -eta only)
    | fail_if_no_progress (dsimp -zeta -eta only)

theorem applyRecast_keeps :
    ∀ s, Keeps s (State.applyRecast s) := by
  intro s
  unfold State.applyRecast
  repeat' first
    | with_reducible apply Keeps.refl
    | with_reducible assumption
    | (apply Keeps.via; with_reducible (first | apply createColls_keeps | apply checkKcvs_keeps
                                              | apply bindParts_keeps))
    | (apply Keeps.ofFrame; with_reducible (first | apply unbindQueues_frame | apply stopReading_frame
                                                  | apply sendKeyRequests_frame | apply noteEmbed_frame
                                                      | apply modMold_frame | apply capSettle_frame
                                                          | apply success_frame); decide; decide)
    | with_reducible apply Keeps.ite
    | (extract_lets +onlyGivenNames x; clear_value (e : x = _); apply Keeps.cut x; (subst e); rotate_left;
       (intro h); (clear e); rotate_right)
    | extract_lets +onlyGivenNames y
    | split
    | (with_reducible apply Keeps.foldlPair; rotate_left; intro u x; (try dsimp -zeta -proj -eta only); rotate_right)
    | (with_reducible apply Keeps.foldl; rotate_left; intro u x; (try dsimp -zeta -proj -eta only); rotate_right)
    | fail_if_no_progress (apply Keeps.ofFrame; with_reducible apply Frame.sched; decide; decide)
    | fail_if_no_progress (dsimp +zetaDelta -zeta -proj -eta only)
    | fail_if_no_progress (dsimp -zeta -eta only)

theorem arrivalPreempt_keeps :
    ∀ s x1 x2, Keeps s (State.arrivalPreempt s x1 x2) := by
  intro s x1 x2
  unfold State.arrivalPreempt
  repeat' first
    | with_reducible apply Keeps.refl
    | (apply Keeps.via; with_reducible apply preempt_keeps)
    | with_reducible apply Keeps.ite
    | split
    | fail_if_no_progress (apply Keeps.ofFrame; with_reducible apply Frame.sched; decide; decide)

theorem assayOutcome_keeps :
    ∀ s x1, Keeps s (State.assayOutcome s x1) := by
  intro s x1
  unfold State.assayOutcome
  (try dsimp -proj -eta only)
  repeat' first
    | with_reducible apply Keeps.refl
    | (apply Keeps.via; (with_reducible apply modEngine_keeps);
       (intro x h; (try unfold Engine.count); (try dsimp -zeta -proj -eta only);
        (repeat' (first | (exact h) | (exact dropJob_ok h) | (exact ⟨⟨h.1.1, h.1.2⟩, h.2⟩)
                        | (refine ⟨⟨?_, ?_⟩, ?_⟩ <;> (first | exact h.1.1 | exact h.1.2 | exact h.2
                                                            | exact store_empty_wf
                                                                | exact store_writeBytes_wf _ _ h.1.1
                                                                    | exact store_writeBytes_wf _ _ h.1.2)) |
                                                                        (extract_lets +onlyGivenNames y) | split))))
    | (apply Keeps.ofFrame; with_reducible apply modBench_frame; decide; decide)
    | split
    | (with_reducible apply Keeps.foldl; rotate_left; intro u x; (try dsimp -zeta -proj -eta only); rotate_right)
    | fail_if_no_progress (apply Keeps.ofFrame; with_reducible apply Frame.errors; decide; decide)
    | fail_if_no_progress (apply Keeps.via; (with_reducible apply Keeps.mem);
                           (first | exact fun h => h | exact fun h => ⟨h.1, h.2.1, h.2.2⟩))

theorem assayFail_keeps :
    ∀ s x1, Keeps s (State.assayFail s x1) := by
  intro s x1
  unfold State.assayFail
  repeat' first
    | with_reducible apply Keeps.refl
    | (apply Keeps.via; with_reducible apply assayOutcome_keeps)
    | (apply Keeps.ofFrame; with_reducible (first | apply doRecordWrite_frame | apply reportMemory_frame); decide;
       decide)
    | fail_if_no_progress (apply Keeps.ofFrame; with_reducible apply Frame.errors; decide; decide)

theorem chargeJob_keeps :
    ∀ s x1, Keeps s (State.chargeJob s x1) := by
  intro s x1
  unfold State.chargeJob
  repeat' first
    | with_reducible apply Keeps.refl
    | (apply Keeps.via; with_reducible apply chargeRun_keeps)
    | (apply Keeps.ofFrame; with_reducible apply chargeBench_frame; decide; decide)
    | (with_reducible apply Keeps.foldl; rotate_left; intro u x; (try dsimp -zeta -proj -eta only); rotate_right)

theorem dropUnpinned_keeps :
    ∀ s x1, Keeps s (State.dropUnpinned s x1) := by
  intro s x1
  unfold State.dropUnpinned
  repeat' first
    | with_reducible apply Keeps.refl
    | (apply Keeps.via; with_reducible apply recache_keeps)
    | (with_reducible apply Keeps.foldl; rotate_left; intro u x; (try dsimp -zeta -proj -eta only); rotate_right)

theorem unpin_keeps :
    ∀ s x1, Keeps s (State.unpin s x1) := by
  intro s x1
  unfold State.unpin
  repeat' first
    | with_reducible apply Keeps.refl
    | (apply Keeps.via; with_reducible apply dropUnpinned_keeps)
    | fail_if_no_progress (apply Keeps.ofFrame; with_reducible apply Frame.cache; decide; decide)

theorem dropEngines_keeps (s : State) (k : Key) :
    Keeps s { s with engines := s.engines.map (Engine.dropJob k), benches := s.benches.map (Bench.dropJob k) } :=
  Keeps.sub (Keeps.refl s) id (engineOk_map fun _ h => dropJob_ok h)

theorem teardown_keeps (s : State) (k) : Keeps s (State.teardown s k) := by
  unfold State.teardown
  split
  · exact Keeps.refl s
  · refine Keeps.ofFrame (modJob_frame _ _ _) (by decide) (by decide) ?_
    refine Keeps.ofFrame (Frame.sched _ _) (by decide) (by decide) ?_
    refine Keeps.ofFrame (abandonTokens_frame _ _) (by decide) (by decide) ?_
    refine Keeps.ofFrame (leaveSweeps_frame _ _) (by decide) (by decide) ?_
    refine Keeps.via (annealScratch_keeps _ _) ?_
    refine Keeps.ofFrame (breakSems_frame _ _) (by decide) (by decide) ?_
    refine Keeps.via (unpin_keeps _ _) (Keeps.via (dropEngines_keeps _ k) ?_)
    exact Keeps.ofFrame (returnCredits_frame _ _) (by decide) (by decide) (chargeJob_keeps _ _)

theorem faultJobNoted_keeps :
    ∀ s x1 x2 x3 x4, Keeps s (State.faultJobNoted s x1 x2 x3 x4) := by
  intro s x1 x2 x3 x4
  unfold State.faultJobNoted
  repeat' first
    | with_reducible apply Keeps.refl
    | (apply Keeps.via; with_reducible apply teardown_keeps)
    | (apply Keeps.ofFrame; with_reducible (first | apply c0Finish_frame | apply refuse_frame | apply status_frame
                                                  | apply dropJob_frame | apply report_frame); decide; decide)
    | split
    | fail_if_no_progress (apply Keeps.ofFrame; with_reducible apply Frame.sched; decide; decide)

theorem faultJob_keeps :
    ∀ s x1 x2 x3, Keeps s (State.faultJob s x1 x2 x3) := by
  intro s x1 x2 x3
  unfold State.faultJob
  repeat' first
    | with_reducible apply Keeps.refl
    | (apply Keeps.via; with_reducible apply faultJobNoted_keeps)

theorem flushTails_keeps :
    ∀ s x1, Keeps s (State.flushTails s x1) := by
  intro s x1
  unfold State.flushTails
  (try dsimp -proj -eta only)
  repeat' first
    | with_reducible apply Keeps.refl
    | (apply Keeps.ofFrame; with_reducible (first | apply modFlash_frame | apply modBench_frame); decide; decide)
    | fail_if_no_progress (apply Keeps.via; (with_reducible apply Keeps.mem);
                           (first | exact fun h => h | exact fun h => ⟨h.1, h.2.1, h.2.2⟩))

theorem benchDies_keeps :
    ∀ s x1, Keeps s (State.benchDies s x1) := by
  intro s x1
  unfold State.benchDies
  repeat' first
    | with_reducible apply Keeps.refl
    | (apply Keeps.via; with_reducible (first | apply flushTails_keeps | apply faultJob_keeps))
    | (apply Keeps.ofFrame; with_reducible (first | apply refuseGets_frame | apply leaveOut_frame
                                                  | apply benchReason_frame | apply modBench_frame); decide; decide)
    | split

theorem blank_keeps (s : State) : Keeps s (State.blank s) := by
  unfold State.blank
  refine Keeps.ofFrame (resetPower_frame _) (by decide) (by decide) ?_
  refine Keeps.sub (annealAll_keeps s) (fun m => ⟨m.1, m.2.1, m.2.2⟩) fun _ e => ?_
  simp only [Fin.getElem_fin, Vector.getElem_replicate]
  exact ⟨⟨rfl, rfl⟩, fun _ h => nomatch h⟩

theorem rebuildGranule_keeps :
    ∀ s x1, Keeps s (State.rebuildGranule s x1) := by
  intro s x1
  unfold State.rebuildGranule
  (try dsimp -proj -eta only)
  repeat' first
    | with_reducible apply Keeps.refl
    | with_reducible assumption
    | (apply Keeps.ofFrame; with_reducible apply goBack_frame; decide; decide)
    | with_reducible apply Keeps.ite
    | (extract_lets +onlyGivenNames x; clear_value (e : x = _); apply Keeps.cut x; (subst e); rotate_left;
       (intro h); (clear e); rotate_right)
    | extract_lets +onlyGivenNames y
    | split
    | (with_reducible apply Keeps.foldlPair; rotate_left; intro u x; (try dsimp -zeta -proj -eta only); rotate_right)
    | (with_reducible apply Keeps.foldl; rotate_left; intro u x; (try dsimp -zeta -proj -eta only); rotate_right)
    | fail_if_no_progress (apply Keeps.ofFrame; with_reducible apply Frame.search; decide; decide)
    | fail_if_no_progress (apply Keeps.via; (with_reducible apply Keeps.mem);
                           (first | exact fun h => h | exact fun h => ⟨h.1, h.2.1, h.2.2⟩))
    | fail_if_no_progress (dsimp +zetaDelta -zeta -proj -eta only)
    | fail_if_no_progress (dsimp -zeta -eta only)

theorem withhold_keeps :
    ∀ s x1, Keeps s (State.withhold s x1) := by
  intro s x1
  unfold State.withhold
  (try dsimp -proj -eta only)
  repeat' first
    | with_reducible apply Keeps.refl
    | with_reducible apply Keeps.ite
    | fail_if_no_progress (apply Keeps.via; (with_reducible apply Keeps.mem);
                           (first | exact fun h => h | exact fun h => ⟨h.1, h.2.1, h.2.2⟩))

theorem memoryError_keeps :
    ∀ s x1, Keeps s (State.memoryError s x1) := by
  intro s x1
  unfold State.memoryError
  (try dsimp -proj -eta only)
  repeat' first
    | with_reducible apply Keeps.refl
    | (apply Keeps.via; with_reducible (first | apply withhold_keeps | apply rebuildGranule_keeps))
    | split
    | fail_if_no_progress (apply Keeps.ofFrame; with_reducible apply Frame.errors; decide; decide)
    | fail_if_no_progress (apply Keeps.via; (with_reducible apply Keeps.mem);
                           (first | exact fun h => h | exact fun h => ⟨h.1, h.2.1, h.2.2⟩))

theorem memoryReport_keeps :
    ∀ s x1 x2 x3 x4 x5 x6 x7 x8 x9 x10 x11, Keeps s (State.memoryReport s x1 x2 x3 x4 x5 x6 x7 x8 x9 x10 x11) := by
  intro s x1 x2 x3 x4 x5 x6 x7 x8 x9 x10 x11
  unfold State.memoryReport
  repeat' first
    | with_reducible apply Keeps.refl
    | (apply Keeps.via; with_reducible apply memoryError_keeps)
    | (apply Keeps.ofFrame; with_reducible apply report_frame; decide; decide)

theorem loadKeys_keeps :
    ∀ s, Keeps s (State.loadKeys s) := by
  intro s
  unfold State.loadKeys
  repeat' first
    | with_reducible apply Keeps.refl
    | (apply Keeps.via; with_reducible apply memoryReport_keeps)
    | (apply Keeps.ofFrame; with_reducible (first | apply doRecordWrite_frame | apply modBench_frame); decide; decide)
    | with_reducible apply Keeps.ite
    | (with_reducible apply Keeps.foldl; rotate_left; intro u x; (try dsimp -zeta -proj -eta only); rotate_right)
    | fail_if_no_progress (apply Keeps.ofFrame; with_reducible apply Frame.sec; decide; decide)

theorem bootSterling_keeps :
    ∀ s, Keeps s (State.bootSterling s) := by
  intro s
  unfold State.bootSterling
  repeat' first
    | with_reducible apply Keeps.refl
    | (apply Keeps.via; with_reducible apply loadKeys_keeps)
    | (apply Keeps.ofFrame; with_reducible (first | apply zeroiseMedia_frame | apply fresh256_frame); decide; decide)
    | with_reducible apply Keeps.ite
    | (refine Keeps.ofFrame ((fresh256_frame _).of_eq (congrArg Prod.snd (by assumption))) (by decide) (by decide) ?_)
    | fail_if_no_progress (apply Keeps.ofFrame; with_reducible apply Frame.sec; decide; decide)

theorem withSmart_keeps (s f) (hk : Keeps s (f s)) : Keeps s (State.withSmart s f) :=
  Keeps.ofFrame (smartCheck_frame _ _) (by decide) (by decide) hk

theorem failDie_keeps :
    ∀ s x1 x2, Keeps s (State.failDie s x1 x2) := by
  intro s x1 x2
  unfold State.failDie
  repeat' first
    | with_reducible apply Keeps.refl
    | with_reducible assumption
    | (apply Keeps.via; with_reducible apply moveTo_keeps)
    | (apply Keeps.ofFrame; with_reducible (first | apply losePage_frame | apply dieBlockRecord_frame
                                                  | apply capacityCheck_frame | apply mediaRecord_frame); decide;
                                                      decide)
    | (with_reducible apply withSmart_keeps; (try dsimp -zeta -proj -eta only))
    | with_reducible apply Keeps.ite
    | (extract_lets +onlyGivenNames x; clear_value (e : x = _); apply Keeps.cut x; (subst e); rotate_left;
       (intro h); (clear e); rotate_right)
    | extract_lets +onlyGivenNames y
    | split
    | (with_reducible apply Keeps.foldlPair; rotate_left; intro u x; (try dsimp -zeta -proj -eta only); rotate_right)
    | (with_reducible apply Keeps.foldl; rotate_left; intro u x; (try dsimp -zeta -proj -eta only); rotate_right)
    | fail_if_no_progress (dsimp +zetaDelta -zeta -proj -eta only)
    | fail_if_no_progress (dsimp -zeta -eta only)

theorem trainChannels_keeps :
    ∀ s x1, Keeps s (State.trainChannels s x1) := by
  intro s x1
  unfold State.trainChannels
  repeat' first
    | with_reducible apply Keeps.refl
    | with_reducible assumption
    | (apply Keeps.via; with_reducible apply failDie_keeps)
    | with_reducible apply Keeps.ite
    | (extract_lets +onlyGivenNames x; clear_value (e : x = _); apply Keeps.cut x; (subst e); rotate_left;
       (intro h); (clear e); rotate_right)
    | extract_lets +onlyGivenNames y
    | split
    | (with_reducible apply Keeps.foldlPair; rotate_left; intro u x; (try dsimp -zeta -proj -eta only); rotate_right)
    | (with_reducible apply Keeps.foldl; rotate_left; intro u x; (try dsimp -zeta -proj -eta only); rotate_right)
    | fail_if_no_progress (apply Keeps.ofFrame; with_reducible (first | apply Frame.benches | apply Frame.flash
                                                                      | apply Frame.benches_flash); decide; decide)
    | fail_if_no_progress (dsimp +zetaDelta -zeta -proj -eta only)
    | fail_if_no_progress (dsimp -zeta -eta only)

theorem boot_keeps (s : State) (x1 x2) : Keeps s (State.boot s x1 x2) := by
  unfold State.boot
  refine Keeps.ofFrame (Frame.links _ _) (by decide) (by decide) ?_
  refine Keeps.via (trainChannels_keeps _ _) ?_
  refine Keeps.via (withSmart_keeps _ _ (Keeps.foldl _ (Keeps.refl _) fun u x => assayFail_keeps u x)) ?_
  refine Keeps.ofFrame (bootBank_frame _) (by decide) (by decide) ?_
  refine Keeps.via (bootSterling_keeps _) ?_
  have h : ∀ u : State, Keeps u u.loadOptions := fun u => Keeps.ofFrame (loadOptions_frame u) (by decide)
      (by decide) (Keeps.refl u)
  have h' : Keeps s (({ s.modPower fun p => { p with phase := .booting, perstA := false, heldDeassert := none }
      with bmc := { (s.modPower fun p => { p with phase := .booting, perstA := false, heldDeassert := none }).bmc with
        answers := false } } : State).loadOptions) :=
    Keeps.via (h _) (Keeps.ofFrame (Frame.bmc _ _) (by decide) (by decide)
      (Keeps.ofFrame (modPower_frame _ _) (by decide) (by decide) (Keeps.refl s)))
  refine Keeps.ite ?_ h'
  exact Keeps.ofFrame (doRecordWrite_frame _ _) (by decide) (by decide)
    (Keeps.ofFrame (reportGeneral_frame _ _ _ _ _ _ _ _ _) (by decide) (by decide) h')

theorem chargeRunning_keeps :
    ∀ s, Keeps s (State.chargeRunning s) := by
  intro s
  unfold State.chargeRunning
  repeat' first
    | with_reducible apply Keeps.refl
    | (apply Keeps.via; with_reducible apply chargeRun_keeps)
    | (apply Keeps.ofFrame; with_reducible apply chargeBench_frame; decide; decide)
    | (with_reducible apply Keeps.foldl; rotate_left; intro u x; (try dsimp -zeta -proj -eta only); rotate_right)

theorem fitCaches_keeps :
    ∀ s, Keeps s (State.fitCaches s) := by
  intro s
  unfold State.fitCaches
  repeat' first
    | with_reducible apply Keeps.refl
    | (apply Keeps.via; with_reducible apply recache_keeps)
    | (with_reducible apply Keeps.foldl; rotate_left; intro u x; (try dsimp -zeta -proj -eta only); rotate_right)

theorem latchStep_keeps :
    ∀ s, Keeps s (State.latchStep s) := by
  intro s
  unfold State.latchStep
  repeat' first
    | with_reducible apply Keeps.refl
    | (apply Keeps.via; with_reducible apply fitCaches_keeps)
    | (apply Keeps.ofFrame; with_reducible apply applyShadows_frame; decide; decide)

theorem gateParts_keeps (s : State) : Keeps s (State.gateParts s) := by
  unfold State.gateParts
  refine Keeps.sub (Keeps.refl s) id (engineOk_map fun x h => ?_)
  repeat' first | exact h | exact ⟨h.1, h.2⟩ | split

theorem powerStep_keeps :
    ∀ s x1, Keeps s (State.powerStep s x1) := by
  intro s x1
  unfold State.powerStep
  repeat' first
    | with_reducible apply Keeps.refl
    | (apply Keeps.via; with_reducible apply gateParts_keeps)
    | (apply Keeps.ofFrame; with_reducible (first | apply measure_frame | apply evalC0_frame
                                                  | apply c0Withheld_frame | apply capSettle_frame
                                                      | apply modPower_frame); decide; decide)
    | with_reducible apply Keeps.ite

theorem dirtyList_keeps :
    ∀ s x1, Keeps s (State.dirtyList s x1) := by
  intro s x1
  unfold State.dirtyList
  repeat' first
    | with_reducible apply Keeps.refl
    | (apply Keeps.via; with_reducible apply dirtyThrough_keeps)

theorem moveRecord_keeps (s : State) (x1 x2 x3) : Keeps s (State.moveRecord s x1 x2 x3).1 := by
  obtain ⟨object, passage, old, new⟩ := x3
  unfold State.moveRecord
  dsimp only
  split
  · next l n _ _ =>
    split
    · exact Keeps.refl s
    split
    · exact Keeps.refl s
    split
    · exact Keeps.refl s
    split
    · exact Keeps.refl s
    split
    · exact Keeps.refl s
    next s1 h1 =>
    split
    · exact Keeps.refl s
    next s2 h2 =>
    have g := Keeps.via ((dirtyTails_keeps _ _ _ _).of_eq (congrArg Prod.fst h2)) (bringTails_keeps _ _ _ _ _ h1)
    exact Keeps.via (dirtyThrough_keeps _ _ _ _)
        (Keeps.via (dirtyThrough_keeps _ _ _ _) (Keeps.ofFrame (Frame.search _ _)
      (by decide) (by decide) (Keeps.ofFrame (modList_frame _ _ _) (by decide) (by decide) (Keeps.ofFrame
      (modList_frame _ _ _) (by decide) (by decide) g))))
  · exact Keeps.refl s

theorem moveRecords_keeps : ∀ s x1 x2 x3 x4, Keeps s (State.moveRecords s x1 x2 x3 x4).1 := by
  intro s x1 x2 x3 x4
  induction x3 generalizing s x4 with
  | nil => exact Keeps.refl s
  | cons m ms ih =>
    unfold State.moveRecords
    split
    · next t h => exact Keeps.via (ih _ _) ((moveRecord_keeps _ _ _ _).of_eq (congrArg Prod.fst h))
    · exact Keeps.refl s

theorem publish_keeps :
    ∀ s x1 x2, Keeps s (State.publish s x1 x2) := by
  intro s x1 x2
  unfold State.publish
  repeat' first
    | with_reducible apply Keeps.refl
    | (apply Keeps.via; with_reducible (first | apply moveRecords_keeps | apply dirtyThrough_keeps
                                              | apply dirtyList_keeps))
    | (apply Keeps.ofFrame; with_reducible (first | apply toGate_frame | apply publicationWaits_frame
                                                  | apply modColl_frame); decide; decide)
    | with_reducible apply Keeps.ite
    | split
    | (refine Keeps.via ((moveRecords_keeps _ _ _ _ _).of_eq (congrArg Prod.fst (by assumption))) ?_)
    | fail_if_no_progress (apply Keeps.ofFrame; with_reducible apply Frame.search; decide; decide)
    | (with_reducible apply Keeps.foldl; rotate_left; intro u x; (try dsimp -zeta -proj -eta only); rotate_right)

theorem publishAll_keeps :
    ∀ s x1, Keeps s (State.publishAll s x1) := by
  intro s x1
  unfold State.publishAll
  repeat' first
    | with_reducible apply Keeps.refl
    | (apply Keeps.via; with_reducible apply publish_keeps)
    | (with_reducible apply Keeps.foldl; rotate_left; intro u x; (try dsimp -zeta -proj -eta only); rotate_right)

theorem releaseDeferred_keeps :
    ∀ s, Keeps s (State.releaseDeferred s) := by
  intro s
  unfold State.releaseDeferred
  repeat' first
    | with_reducible apply Keeps.refl
    | with_reducible assumption
    | (apply Keeps.via; with_reducible apply dirtyMap_keeps)
    | with_reducible apply Keeps.ite
    | (extract_lets +onlyGivenNames x; clear_value (e : x = _); apply Keeps.cut x; (subst e); rotate_left;
       (intro h); (clear e); rotate_right)
    | extract_lets +onlyGivenNames y
    | split
    | (with_reducible apply Keeps.foldlPair; rotate_left; intro u x; (try dsimp -zeta -proj -eta only); rotate_right)
    | (with_reducible apply Keeps.foldl; rotate_left; intro u x; (try dsimp -zeta -proj -eta only); rotate_right)
    | fail_if_no_progress (apply Keeps.ofFrame; with_reducible apply Frame.search; decide; decide)
    | fail_if_no_progress (dsimp +zetaDelta -zeta -proj -eta only)
    | fail_if_no_progress (dsimp -zeta -eta only)

theorem retireEmpty_keeps :
    ∀ s x1 x2, Keeps s (State.retireEmpty s x1 x2) := by
  intro s x1 x2
  unfold State.retireEmpty
  repeat' first
    | with_reducible apply Keeps.refl
    | (apply Keeps.via; with_reducible apply dirtyList_keeps)
    | (with_reducible apply Keeps.foldl; rotate_left; intro u x; (try dsimp -zeta -proj -eta only); rotate_right)
    | fail_if_no_progress (apply Keeps.ofFrame; with_reducible apply Frame.search; decide; decide)

theorem switchMend_keeps :
    ∀ s x1, Keeps s (State.switchMend s x1) := by
  intro s x1
  unfold State.switchMend
  repeat' first
    | with_reducible apply Keeps.refl
    | with_reducible assumption
    | (apply Keeps.via; with_reducible (first | apply moveTo_keeps | apply dirtyTails_keeps
                                              | apply dirtyThrough_keeps))
    | (apply Keeps.ofFrame; with_reducible (first | apply modList_frame | apply recountUsed_frame); decide; decide)
    | with_reducible apply Keeps.ite
    | (extract_lets +onlyGivenNames x; clear_value (e : x = _); apply Keeps.cut x; (subst e); rotate_left;
       (intro h); (clear e); rotate_right)
    | extract_lets +onlyGivenNames y
    | split
    | (with_reducible apply Keeps.foldlPair; rotate_left; intro u x; (try dsimp -zeta -proj -eta only); rotate_right)
    | (with_reducible apply Keeps.foldl; rotate_left; intro u x; (try dsimp -zeta -proj -eta only); rotate_right)
    | (refine Keeps.via ((dirtyTails_keeps _ _ _ _).of_eq (congrArg Prod.fst (by assumption))) ?_)
    | (refine Keeps.via ((dirtyThrough_keeps _ _ _ _).of_eq (congrArg Prod.fst (by assumption))) ?_)
    | (refine Keeps.via (bringTails_keeps _ _ _ _ _ (by assumption)) ?_)
    | (refine Keeps.via (Keeps.getD (fun u h => bringTails_keeps _ _ _ _ u h)) ?_)
    | fail_if_no_progress (apply Keeps.ofFrame; with_reducible apply Frame.search; decide; decide)
    | fail_if_no_progress (dsimp +zetaDelta -zeta -proj -eta only)
    | fail_if_no_progress (dsimp -zeta -eta only)

theorem switchMends_keeps :
    ∀ s, Keeps s (State.switchMends s) := by
  intro s
  unfold State.switchMends
  repeat' first
    | with_reducible apply Keeps.refl
    | with_reducible assumption
    | (apply Keeps.via; with_reducible apply switchMend_keeps)
    | (apply Keeps.ofFrame; with_reducible apply releaseOld_frame; decide; decide)
    | with_reducible apply Keeps.ite
    | (extract_lets +onlyGivenNames x; clear_value (e : x = _); apply Keeps.cut x; (subst e); rotate_left;
       (intro h); (clear e); rotate_right)
    | extract_lets +onlyGivenNames y
    | split
    | (with_reducible apply Keeps.foldlPair; rotate_left; intro u x; (try dsimp -zeta -proj -eta only); rotate_right)
    | (with_reducible apply Keeps.foldl; rotate_left; intro u x; (try dsimp -zeta -proj -eta only); rotate_right)
    | fail_if_no_progress (dsimp +zetaDelta -zeta -proj -eta only)
    | fail_if_no_progress (dsimp -zeta -eta only)

theorem publishStep_keeps :
    ∀ s, Keeps s (State.publishStep s) := by
  intro s
  unfold State.publishStep
  repeat' first
    | with_reducible apply Keeps.refl
    | with_reducible assumption
    | (apply Keeps.via; with_reducible (first | apply switchMends_keeps | apply retireEmpty_keeps
                                              | apply releaseDeferred_keeps | apply publishAll_keeps
                                                  | apply applyKeys_keeps))
    | (apply Keeps.ofFrame; with_reducible (first | apply warnDeferred_frame | apply pushMarks_frame
                                                  | apply freeTokens_frame | apply freeMarks_frame); decide; decide)
    | with_reducible apply Keeps.ite
    | (extract_lets +onlyGivenNames x; clear_value (e : x = _); apply Keeps.cut x; (subst e); rotate_left;
       (intro h); (clear e); rotate_right)
    | extract_lets +onlyGivenNames y
    | split
    | (with_reducible apply Keeps.foldlPair; rotate_left; intro u x; (try dsimp -zeta -proj -eta only); rotate_right)
    | (with_reducible apply Keeps.foldl; rotate_left; intro u x; (try dsimp -zeta -proj -eta only); rotate_right)
    | fail_if_no_progress (apply Keeps.ofFrame; with_reducible apply Frame.search; decide; decide)
    | fail_if_no_progress (dsimp +zetaDelta -zeta -proj -eta only)
    | fail_if_no_progress (dsimp -zeta -eta only)

theorem recastStep_keeps :
    ∀ s, Keeps s (State.recastStep s) := by
  intro s
  unfold State.recastStep
  repeat' first
    | with_reducible apply Keeps.refl
    | (apply Keeps.via; with_reducible (first | apply applyRecast_keeps | apply bindParts_keeps))
    | (apply Keeps.ofFrame; with_reducible apply modMold_frame; decide; decide)
    | with_reducible apply Keeps.ite

theorem startStroke_keeps (s : State) : Keeps s (State.startStroke s) := by
  unfold State.startStroke
  extract_lets now quiet again src s1 s2
  have h1 : Keeps s s1 := Keeps.sub (Keeps.refl s) id (engineOk_map fun _ h => ⟨⟨h.1.1, h.1.2⟩, h.2⟩)
  have h2 : Keeps s s2 := Keeps.ofFrame (resumeGets_frame _ _) (by decide) (by decide)
      (Keeps.ofFrame (modGrid_frame _ _) (by decide) (by decide) h1)
  exact Keeps.foldl _ (Keeps.foldl _ h2 fun u e => startNext_keeps u e) fun u b => Keeps.ofFrame
      (startNextBench_frame u b) (by decide) (by decide) (Keeps.refl u)

theorem boundary_keeps (s : State) (x1 x2) : Keeps s (State.boundary s x1 x2) := by
  unfold State.boundary
  extract_lets a b
  have ha : Keeps s a := Keeps.ofFrame (updateWeights_frame _ _) (by decide) (by decide) <| Keeps.ofFrame
      (settleLag_frame _ _) (by decide) (by decide) <| Keeps.ofFrame (chargeStroke_frame _) (by decide)
          (by decide) <| Keeps.via (chargeRunning_keeps _) <| Keeps.refl s
  clear_value a
  have hb : Keeps s b := Keeps.via (publishStep_keeps _) <| Keeps.via (powerStep_keeps _ _) <| Keeps.via
      (recastStep_keeps _) <| Keeps.via (latchStep_keeps _) <| ha
  clear_value b
  split
  · exact hb
  · exact Keeps.via (startStroke_keeps _) <| Keeps.ofFrame (budgetStep_frame _ _) (by decide)
      (by decide) <| Keeps.ofFrame (formSweeps_frame _ _) (by decide) (by decide) <| Keeps.via
          (admissionStep_keeps _ _) <| hb

theorem burnEffects_keeps (s : State) (x1) : Keeps s (State.burnEffects s x1) := by
  unfold State.burnEffects
  have h1 : Keeps s { s with mem := { s.mem with withheld := s.mem.withheld.filter fun g =>
      !(x1.returned.filter s.mem.withheld.contains).contains g } } :=
    Keeps.sub (Keeps.refl s) (fun m => ⟨m.1, m.2.1, m.2.2⟩) id
  have h2 := Keeps.foldl x1.newWithheld h1 withhold_keeps
  exact Keeps.ofFrame (Frame.burnish _ _) (by decide) (by decide) h2

theorem chargeParts_keeps :
    ∀ s x1 x2 x3 x4 x5, Keeps s (State.chargeParts s x1 x2 x3 x4 x5) := by
  intro s x1 x2 x3 x4 x5
  unfold State.chargeParts
  (try dsimp -proj -eta only)
  repeat' first
    | with_reducible apply Keeps.refl
    | (apply Keeps.via; (with_reducible apply modEngine_keeps);
       (intro x h; (try unfold Engine.count); (try dsimp -zeta -proj -eta only);
        (repeat' (first | (exact h) | (exact dropJob_ok h) | (exact ⟨⟨h.1.1, h.1.2⟩, h.2⟩)
                        | (refine ⟨⟨?_, ?_⟩, ?_⟩ <;> (first | exact h.1.1 | exact h.1.2 | exact h.2
                                                            | exact store_empty_wf
                                                                | exact store_writeBytes_wf _ _ h.1.1
                                                                    | exact store_writeBytes_wf _ _ h.1.2)) |
                                                                        (extract_lets +onlyGivenNames y) | split))))
    | (apply Keeps.ofFrame; with_reducible apply charge_frame; decide; decide)
    | (with_reducible apply Keeps.foldl; rotate_left; intro u x; (try dsimp -zeta -proj -eta only); rotate_right)

theorem retireBlock_keeps :
    ∀ s x1 x2 x3 x4 x5 x6, Keeps s (State.retireBlock s x1 x2 x3 x4 x5 x6) := by
  intro s x1 x2 x3 x4 x5 x6
  unfold State.retireBlock
  repeat' first
    | with_reducible apply Keeps.refl
    | with_reducible assumption
    | (apply Keeps.via; with_reducible apply moveTo_keeps)
    | (apply Keeps.ofFrame; with_reducible (first | apply losePage_frame | apply capacityCheck_frame
                                                  | apply mediaRecord_frame); decide; decide)
    | (with_reducible apply withSmart_keeps; (try dsimp -zeta -proj -eta only))
    | with_reducible apply Keeps.ite
    | (extract_lets +onlyGivenNames x; clear_value (e : x = _); apply Keeps.cut x; (subst e); rotate_left;
       (intro h); (clear e); rotate_right)
    | extract_lets +onlyGivenNames y
    | split
    | (with_reducible apply Keeps.foldlPair; rotate_left; intro u x; (try dsimp -zeta -proj -eta only); rotate_right)
    | (with_reducible apply Keeps.foldl; rotate_left; intro u x; (try dsimp -zeta -proj -eta only); rotate_right)
    | fail_if_no_progress (dsimp +zetaDelta -zeta -proj -eta only)
    | fail_if_no_progress (dsimp -zeta -eta only)

theorem replaceLogBlock_keeps :
    ∀ s x1, Keeps s (State.replaceLogBlock s x1) := by
  intro s x1
  unfold State.replaceLogBlock
  repeat' first
    | with_reducible apply Keeps.refl
    | (apply Keeps.via; with_reducible apply retireBlock_keeps)
    | (apply Keeps.ofFrame; with_reducible apply modFlash_frame; decide; decide)
    | with_reducible apply Keeps.ite

theorem eraseLog_keeps :
    ∀ s x1, Keeps s (State.eraseLog s x1) := by
  intro s x1
  unfold State.eraseLog
  repeat' first
    | with_reducible apply Keeps.refl
    | (apply Keeps.via; with_reducible apply replaceLogBlock_keeps)
    | (with_reducible apply Keeps.foldl; rotate_left; intro u x; (try dsimp -zeta -proj -eta only); rotate_right)
    | fail_if_no_progress (apply Keeps.ofFrame; with_reducible apply Frame.flash; decide; decide)

theorem replayLog_keeps (s : State) (x1) : Keeps s (State.replayLog s x1) := by
  unfold State.replayLog
  exact Keeps.sub (Keeps.refl s) (fun m => ⟨m.1, m.2.1, m.2.2⟩) id

theorem checkFlushLog_keeps :
    ∀ s x1, Keeps s (State.checkFlushLog s x1) := by
  intro s x1
  unfold State.checkFlushLog
  (try dsimp -proj -eta only)
  repeat' first
    | with_reducible apply Keeps.refl
    | with_reducible assumption
    | (apply Keeps.via; with_reducible (first | apply replayLog_keeps | apply eraseLog_keeps))
    | (apply Keeps.ofFrame; with_reducible (first | apply dropUnflushed_frame | apply reportGeneral_frame); decide;
       decide)
    | with_reducible apply Keeps.ite
    | (extract_lets +onlyGivenNames x; clear_value (e : x = _); apply Keeps.cut x; (subst e); rotate_left;
       (intro h); (clear e); rotate_right)
    | extract_lets +onlyGivenNames y
    | split
    | (with_reducible apply Keeps.foldlPair; rotate_left; intro u x; (try dsimp -zeta -proj -eta only); rotate_right)
    | (with_reducible apply Keeps.foldl; rotate_left; intro u x; (try dsimp -zeta -proj -eta only); rotate_right)
    | fail_if_no_progress (apply Keeps.ofFrame; with_reducible apply Frame.mold; decide; decide)
    | fail_if_no_progress (apply Keeps.via; (with_reducible apply Keeps.mem);
                           (first | exact fun h => h | exact fun h => ⟨h.1, h.2.1, h.2.2⟩))
    | fail_if_no_progress (dsimp +zetaDelta -zeta -proj -eta only)
    | fail_if_no_progress (dsimp -zeta -eta only)

theorem writeAt_keeps (s : State) (x1 x2) : Keeps s (State.writeAt s x1 x2) :=
  setStore_keeps_of _ _ fun w => store_writeBytes_wf _ _ (store_ok w _)

theorem combineParts_keeps (s : State) (x1 x2) : Keeps s (State.combineParts s x1 x2) := by
  unfold State.combineParts
  split
  · exact Keeps.refl s
  · exact Keeps.refl s
  · extract_lets tile
    have h : ∀ u x, Keeps u (tile u x) := by
      intro u x
      unfold tile
      extract_lets ws t
      clear_value ws
      exact Keeps.via (modEngine_keeps _ _ _ fun _ h => ⟨flagBy_ok _ _ _ h.1, h.2⟩) (writeAt_keeps _ _ _)
    exact Keeps.foldl _ (Keeps.refl s) h

theorem engineWrite_keeps :
    ∀ s x1 x2 x3 x4, Keeps s (State.engineWrite s x1 x2 x3 x4) := by
  intro s x1 x2 x3 x4
  unfold State.engineWrite
  (try dsimp -proj -eta only)
  repeat' first
    | with_reducible apply Keeps.refl
    | (apply Keeps.via; (with_reducible apply modEngine_keeps);
       (intro x h; (try unfold Engine.count); (try dsimp -zeta -proj -eta only);
        (repeat' (first | (exact h) | (exact dropJob_ok h) | (exact ⟨⟨h.1.1, h.1.2⟩, h.2⟩)
                        | (refine ⟨⟨?_, ?_⟩, ?_⟩ <;> (first | exact h.1.1 | exact h.1.2 | exact h.2
                                                            | exact store_empty_wf
                                                                | exact store_writeBytes_wf _ _ h.1.1
                                                                    | exact store_writeBytes_wf _ _ h.1.2)) |
                                                                        (extract_lets +onlyGivenNames y) | split))))
    | (apply Keeps.via; with_reducible apply writeAt_keeps)
    | (apply Keeps.ofFrame; with_reducible apply modJob_frame; decide; decide)
    | split

theorem scratchUe_keeps :
    ∀ s x1 x2 x3 x4, Keeps s (State.scratchUe s x1 x2 x3 x4) := by
  intro s x1 x2 x3 x4
  unfold State.scratchUe
  repeat' first
    | with_reducible apply Keeps.refl
    | (apply Keeps.via; with_reducible (first | apply memoryReport_keeps | apply faultJob_keeps))

theorem vecWrite_keeps :
    ∀ s x1 x2 x3 x4 x5, Keeps s (State.vecWrite s x1 x2 x3 x4 x5) := by
  intro s x1 x2 x3 x4 x5
  unfold State.vecWrite
  (try dsimp -proj -eta only)
  repeat' first
    | with_reducible apply Keeps.refl
    | (apply Keeps.via; (with_reducible apply modEngine_keeps);
       (intro x h; (try unfold Engine.count); (try dsimp -zeta -proj -eta only);
        (repeat' (first | (exact h) | (exact dropJob_ok h) | (exact ⟨⟨h.1.1, h.1.2⟩, h.2⟩)
                        | (refine ⟨⟨?_, ?_⟩, ?_⟩ <;> (first | exact h.1.1 | exact h.1.2 | exact h.2
                                                            | exact store_empty_wf
                                                                | exact store_writeBytes_wf _ _ h.1.1
                                                                    | exact store_writeBytes_wf _ _ h.1.2)) |
                                                                        (extract_lets +onlyGivenNames y) | split))))
    | (apply Keeps.via; with_reducible (first | apply scratchUe_keeps | apply engineWrite_keeps))
    | split

theorem convert_keeps (s : State) (e k o legacy granules) : Keeps s (State.convert s e k o legacy granules) := by
  unfold State.convert
  extract_lets x layer init v
  have hs : ∀ u : State, Keeps u u.fresh.2 := fun u => Keeps.ofFrame (fresh_frame u) (by decide) (by decide)
      (Keeps.refl u)
  have heng : ∀ u : State, u.fresh.2.engines = u.engines := fun u => fresh_frame u .engines (by decide)
  have a1 := hs s
  have b1 := heng s
  generalize s.fresh = fr at a1 b1 ⊢
  obtain ⟨free, s0⟩ := fr
  dsimp -zeta only at a1 b1
  (try dsimp -zeta only)
  have a2 := hs s0
  have b2 := heng s0
  generalize s0.fresh = fr at a2 b2 ⊢
  obtain ⟨rest, s9⟩ := fr
  dsimp -zeta only at a2 b2
  (try dsimp -zeta only)
  generalize s9.legacyParams k = lp
  obtain ⟨win, margin⟩ := lp
  (try dsimp -zeta only)
  extract_lets hist all step tensor out ctx2 scales s1 s2 s3
  have hc : EngineOk x → CtxOk ctx2 := fun h =>
    flagBy_ok _ _ _ (flagBy_ok _ _ _ (flagBy_ok _ _ _ h.1))
  clear_value ctx2 scales v out step
  have h1 : Keeps s9 s1 := modEngine_keeps_at _ _ _ fun h =>
    vecIssue_ok _ _ ⟨hc (by have := h; rw [b2, b1] at this; exact this), h.2⟩
  have h2 : Keeps s1 s2 := Keeps.ofFrame (modJob_frame _ _ _) (by decide) (by decide) (Keeps.refl _)
  have h3 : Keeps s2 s3 := vecWrite_keeps _ _ _ _ _ _
  have h := (((h3.via h2).via h1).via a2).via a1
  exact Keeps.ite h (Keeps.via (vecWrite_keeps _ _ _ _ _ _) h)

theorem dirtyAll_keeps (s : State) (x1) : Keeps s (State.dirtyAll s x1).1 := by
  induction x1 generalizing s with
  | nil => exact Keeps.refl s
  | cons x xs ih =>
    obtain ⟨q, g, c⟩ := x
    unfold State.dirtyAll
    have h := dirtyThrough_keeps s q g c
    split
    · next t e => exact Keeps.via (ih t) (h.of_eq (congrArg Prod.fst e))
    · next t e => exact h.of_eq (congrArg Prod.fst e)

theorem discardOutputs_keeps :
    ∀ s x1 x2, Keeps s (State.discardOutputs s x1 x2) := by
  intro s x1 x2
  unfold State.discardOutputs
  repeat' first
    | with_reducible apply Keeps.refl
    | with_reducible assumption
    | (apply Keeps.via; with_reducible apply clearGranule_keeps)
    | with_reducible apply Keeps.ite
    | (extract_lets +onlyGivenNames x; clear_value (e : x = _); apply Keeps.cut x; (subst e); rotate_left;
       (intro h); (clear e); rotate_right)
    | extract_lets +onlyGivenNames y
    | split
    | (with_reducible apply Keeps.foldlPair; rotate_left; intro u x; (try dsimp -zeta -proj -eta only); rotate_right)
    | (with_reducible apply Keeps.foldl; rotate_left; intro u x; (try dsimp -zeta -proj -eta only); rotate_right)
    | fail_if_no_progress (dsimp +zetaDelta -zeta -proj -eta only)
    | fail_if_no_progress (dsimp -zeta -eta only)

theorem drainEngine_keeps (s : State) (x1) : Keeps s (State.drainEngine s x1) := by
  unfold State.drainEngine
  split
  · exact Keeps.ite (modEngine_keeps _ _ _ fun _ h => dropJob_ok h)
      (modEngine_keeps _ _ _ fun _ h => saveResident_ok h)
  · exact Keeps.refl s

theorem programTails_keeps :
    ∀ s, Keeps s (State.programTails s) := by
  intro s
  unfold State.programTails
  repeat' first
    | with_reducible apply Keeps.refl
    | with_reducible assumption
    | (apply Keeps.via; with_reducible apply granuleHome_keeps)
    | with_reducible apply Keeps.ite
    | (extract_lets +onlyGivenNames x; clear_value (e : x = _); apply Keeps.cut x; (subst e); rotate_left;
       (intro h); (clear e); rotate_right)
    | extract_lets +onlyGivenNames y
    | split
    | (with_reducible apply Keeps.foldlPair; rotate_left; intro u x; (try dsimp -zeta -proj -eta only); rotate_right)
    | (with_reducible apply Keeps.foldl; rotate_left; intro u x; (try dsimp -zeta -proj -eta only); rotate_right)
    | fail_if_no_progress (dsimp +zetaDelta -zeta -proj -eta only)
    | fail_if_no_progress (dsimp -zeta -eta only)

theorem enterPower_keeps :
    ∀ s x1, Keeps s (State.enterPower s x1) := by
  intro s x1
  unfold State.enterPower
  repeat' first
    | with_reducible apply Keeps.refl
    | (apply Keeps.via; with_reducible (first | apply programTails_keeps | apply gateParts_keeps))
    | (apply Keeps.ofFrame; with_reducible (first | apply capFall_frame | apply modPower_frame); decide; decide)
    | with_reducible apply Keeps.ite

theorem followRequest_keeps :
    ∀ s, Keeps s (State.followRequest s) := by
  intro s
  unfold State.followRequest
  repeat' first
    | with_reducible apply Keeps.refl
    | (apply Keeps.via; with_reducible apply enterPower_keeps)
    | (apply Keeps.ofFrame; with_reducible apply modPower_frame; decide; decide)
    | with_reducible apply Keeps.ite

theorem dropController_keeps :
    ∀ s x1 x2, Keeps s (State.dropController s x1 x2) := by
  intro s x1 x2
  unfold State.dropController
  repeat' first
    | with_reducible apply Keeps.refl
    | (apply Keeps.via; with_reducible apply followRequest_keeps)
    | (apply Keeps.ofFrame; with_reducible (first | apply quenchController_frame | apply modCtrl_frame); decide;
       decide)
    | fail_if_no_progress (apply Keeps.ofFrame; with_reducible apply Frame.mold; decide; decide)

theorem notInserted_keeps :
    ∀ s x1, Keeps s (State.notInserted s x1) := by
  intro s x1
  unfold State.notInserted
  repeat' first
    | with_reducible apply Keeps.refl
    | (apply Keeps.via; with_reducible apply settleReading_keeps)
    | (apply Keeps.ofFrame; with_reducible (first | apply modObj_frame | apply modColl_frame); decide; decide)
    | split

theorem takeVector_keeps :
    ∀ s x1 x2 x3, Keeps s (State.takeVector s x1 x2 x3) := by
  intro s x1 x2 x3
  unfold State.takeVector
  repeat' first
    | with_reducible apply Keeps.refl
    | (apply Keeps.via; with_reducible apply notInserted_keeps)
    | split
    | fail_if_no_progress (apply Keeps.ofFrame; with_reducible apply Frame.search; decide; decide)

theorem embedPassage_keeps :
    ∀ s x1, Keeps s (State.embedPassage s x1) := by
  intro s x1
  unfold State.embedPassage
  repeat' first
    | with_reducible apply Keeps.refl
    | (apply Keeps.via; with_reducible apply takeVector_keeps)
    | (apply Keeps.ofFrame; with_reducible apply modObj_frame; decide; decide)
    | with_reducible apply Keeps.ite
    | split

theorem endWith_keeps :
    ∀ s x1 x2, Keeps s (State.endWith s x1 x2) := by
  intro s x1 x2
  unfold State.endWith
  repeat' first
    | with_reducible apply Keeps.refl
    | (apply Keeps.via; with_reducible apply teardown_keeps)
    | (apply Keeps.ofFrame; with_reducible apply modJob_frame; decide; decide)
    | fail_if_no_progress (apply Keeps.ofFrame; with_reducible apply Frame.sched; decide; decide)

theorem storeObject_keeps :
    ∀ s x1 x2 x3, Keeps s (State.storeObject s x1 x2 x3).2 := by
  intro s x1 x2 x3
  unfold State.storeObject
  repeat' first
    | with_reducible apply Keeps.refl
    | (apply Keeps.via; with_reducible apply dirtyMap_keeps)
    | (apply Keeps.ofFrame; with_reducible (first | apply warnBlocked_frame | apply recountUsed_frame
                                                  | apply modFlash_frame | apply modBench_frame); decide; decide)
    | (refine Keeps.ofFrame (Frame.getD (fun u h => journal_frame _ _ _ u h)) (by decide) (by decide) ?_)
    | fail_if_no_progress (apply Keeps.ofFrame; with_reducible apply Frame.search; decide; decide)

theorem sealOutput_keeps :
    ∀ s x1, Keeps s (State.sealOutput s x1).1 := by
  intro s x1
  unfold State.sealOutput
  repeat' first
    | with_reducible apply Keeps.refl
    | (apply Keeps.via; with_reducible apply storeObject_keeps)
    | (apply Keeps.ofFrame; with_reducible (first | apply seal_frame | apply modJob_frame); decide; decide)
    | extract_lets +onlyGivenNames y
    | split
    | (refine Keeps.ofFrame ((seal_frame _ _ _ _).of_eq (congrArg Prod.snd (by assumption))) (by decide) (by decide) ?_)

theorem storeIngotPage_keeps :
    ∀ x0 x1 s x3, Keeps s (State.storeIngotPage x0 x1 s x3) := by
  intro x0 x1 s x3
  unfold State.storeIngotPage
  repeat' first
    | with_reducible apply Keeps.refl
    | with_reducible assumption
    | (apply Keeps.via; with_reducible apply moveTo_keeps)
    | (apply Keeps.ofFrame; with_reducible (first | apply chargeWork_frame | apply recountUsed_frame); decide; decide)
    | with_reducible apply Keeps.ite
    | (extract_lets +onlyGivenNames x; clear_value (e : x = _); apply Keeps.cut x; (subst e); rotate_left;
       (intro h); (clear e); rotate_right)
    | extract_lets +onlyGivenNames y
    | split
    | (with_reducible apply Keeps.foldlPair; rotate_left; intro u x; (try dsimp -zeta -proj -eta only); rotate_right)
    | (with_reducible apply Keeps.foldl; rotate_left; intro u x; (try dsimp -zeta -proj -eta only); rotate_right)
    | fail_if_no_progress (dsimp +zetaDelta -zeta -proj -eta only)
    | fail_if_no_progress (dsimp -zeta -eta only)

theorem storeIngot_keeps :
    ∀ s x1 x2 x3, Keeps s (State.storeIngot s x1 x2 x3) := by
  intro s x1 x2 x3
  unfold State.storeIngot
  repeat' first
    | with_reducible apply Keeps.refl
    | with_reducible assumption
    | (apply Keeps.via; with_reducible apply storeIngotPage_keeps)
    | with_reducible apply Keeps.ite
    | (extract_lets +onlyGivenNames x; clear_value (e : x = _); apply Keeps.cut x; (subst e); rotate_left;
       (intro h); (clear e); rotate_right)
    | extract_lets +onlyGivenNames y
    | split
    | (with_reducible apply Keeps.foldlPair; rotate_left; intro u x; (try dsimp -zeta -proj -eta only); rotate_right)
    | (with_reducible apply Keeps.foldl; rotate_left; intro u x; (try dsimp -zeta -proj -eta only); rotate_right)
    | fail_if_no_progress (dsimp +zetaDelta -zeta -proj -eta only)
    | fail_if_no_progress (dsimp -zeta -eta only)

theorem writeDerived_keeps :
    ∀ s x1, Keeps s (State.writeDerived s x1).1 := by
  intro s x1
  unfold State.writeDerived
  repeat' first
    | with_reducible apply Keeps.refl
    | with_reducible assumption
    | (apply Keeps.via; with_reducible apply storeIngot_keeps)
    | (apply Keeps.ofFrame; with_reducible (first | apply sign_frame | apply modJob_frame); decide; decide)
    | with_reducible apply Keeps.ite
    | (extract_lets +onlyGivenNames x; clear_value (e : x = _); apply Keeps.cut x; (subst e); rotate_left;
       (intro h); (clear e); rotate_right)
    | extract_lets +onlyGivenNames y
    | split
    | (with_reducible apply Keeps.foldlPair; rotate_left; intro u x; (try dsimp -zeta -proj -eta only); rotate_right)
    | (with_reducible apply Keeps.foldl; rotate_left; intro u x; (try dsimp -zeta -proj -eta only); rotate_right)
    | (refine Keeps.ofFrame ((sign_frame _ _).of_eq (congrArg Prod.snd (by assumption))) (by decide) (by decide) ?_)
    | fail_if_no_progress (apply Keeps.ofFrame; with_reducible apply Frame.ingots; decide; decide)
    | fail_if_no_progress (dsimp +zetaDelta -zeta -proj -eta only)
    | fail_if_no_progress (dsimp -zeta -eta only)

theorem produce_keeps :
    ∀ s x1 x2, Keeps s (State.produce s x1 x2).1 := by
  intro s x1 x2
  unfold State.produce
  repeat' first
    | with_reducible apply Keeps.refl
    | with_reducible assumption
    | (apply Keeps.via; with_reducible (first | apply writeDerived_keeps | apply sealOutput_keeps))
    | with_reducible apply Keeps.ite
    | (extract_lets +onlyGivenNames x; clear_value (e : x = _); apply Keeps.cut x; (subst e); rotate_left;
       (intro h); (clear e); rotate_right)
    | extract_lets +onlyGivenNames y
    | split
    | (with_reducible apply Keeps.foldlPair; rotate_left; intro u x; (try dsimp -zeta -proj -eta only); rotate_right)
    | (with_reducible apply Keeps.foldl; rotate_left; intro u x; (try dsimp -zeta -proj -eta only); rotate_right)
    | (refine Keeps.via ((writeDerived_keeps _ _).of_eq (congrArg Prod.fst (by assumption))) ?_)
    | (refine Keeps.via ((sealOutput_keeps _ _).of_eq (congrArg Prod.fst (by assumption))) ?_)
    | fail_if_no_progress (dsimp +zetaDelta -zeta -proj -eta only)
    | fail_if_no_progress (dsimp -zeta -eta only)

theorem stopJob_keeps :
    ∀ s x1, Keeps s (State.stopJob s x1) := by
  intro s x1
  unfold State.stopJob
  repeat' first
    | with_reducible apply Keeps.refl
    | (apply Keeps.via; with_reducible (first | apply produce_keeps | apply endWith_keeps))
    | (apply Keeps.ofFrame; with_reducible apply modJob_frame; decide; decide)

theorem quenchNow_keeps :
    ∀ s x1, Keeps s (State.quenchNow s x1) := by
  intro s x1
  unfold State.quenchNow
  repeat' first
    | with_reducible apply Keeps.refl
    | (apply Keeps.via; with_reducible apply stopJob_keeps)
    | (apply Keeps.ofFrame; with_reducible (first | apply refuse_frame | apply dropJob_frame); decide; decide)
    | split

theorem endJob_keeps (s : State) (k) : Keeps s (State.endJob s k) := by
  unfold State.endJob
  split
  · exact Keeps.refl s
  · refine Keeps.ofFrame (dropJob_frame _ _) (by decide) (by decide) ?_
    refine Keeps.via (releaseGranules_keeps _ _) (Keeps.via (unpin_keeps _ _) (Keeps.via (dropEngines_keeps _ k) ?_))
    exact Keeps.ofFrame (returnCredits_frame _ _) (by decide) (by decide) (Keeps.refl s)

theorem doReleaseGate_keeps :
    ∀ x0 s, Keeps s (doReleaseGate x0 s) := by
  intro x0 s
  unfold doReleaseGate
  repeat' first
    | with_reducible apply Keeps.refl
    | (apply Keeps.via; with_reducible apply endJob_keeps)
    | (apply Keeps.ofFrame; with_reducible (first | apply sendData_frame | apply c0Finish_frame | apply status_frame
                                                  | apply modColl_frame); decide; decide)
    | split

theorem endCommands_keeps :
    ∀ s, Keeps s (State.endCommands s) := by
  intro s
  unfold State.endCommands
  repeat' first
    | with_reducible apply Keeps.refl
    | (apply Keeps.via; with_reducible (first | apply doReleaseGate_keeps | apply quenchNow_keeps))
    | (apply Keeps.ofFrame; with_reducible (first | apply refuse_frame | apply dropJob_frame); decide; decide)
    | (with_reducible apply Keeps.foldl; rotate_left; intro u x; (try dsimp -zeta -proj -eta only); rotate_right)

theorem streamPageDone_keeps :
    ∀ s x1 x2, Keeps s (State.streamPageDone s x1 x2) := by
  intro s x1 x2
  unfold State.streamPageDone
  repeat' first
    | with_reducible apply Keeps.refl
    | (apply Keeps.via; with_reducible apply dirtyThrough_keeps)
    | (apply Keeps.ofFrame; with_reducible (first | apply recountUsed_frame | apply modList_frame
                                                  | apply modFlash_frame); decide; decide)

theorem endPrograms_keeps :
    ∀ s, Keeps s (State.endPrograms s) := by
  intro s
  unfold State.endPrograms
  repeat' first
    | with_reducible apply Keeps.refl
    | with_reducible assumption
    | (apply Keeps.via; with_reducible apply streamPageDone_keeps)
    | (apply Keeps.ofFrame; with_reducible apply modFlash_frame; decide; decide)
    | with_reducible apply Keeps.ite
    | (extract_lets +onlyGivenNames x; clear_value (e : x = _); apply Keeps.cut x; (subst e); rotate_left;
       (intro h); (clear e); rotate_right)
    | extract_lets +onlyGivenNames y
    | split
    | (with_reducible apply Keeps.foldlPair; rotate_left; intro u x; (try dsimp -zeta -proj -eta only); rotate_right)
    | (with_reducible apply Keeps.foldl; rotate_left; intro u x; (try dsimp -zeta -proj -eta only); rotate_right)
    | fail_if_no_progress (dsimp +zetaDelta -zeta -proj -eta only)
    | fail_if_no_progress (dsimp -zeta -eta only)

theorem waitedNp_keeps :
    ∀ s x1 x2, Keeps s (State.waitedNp s x1 x2) := by
  intro s x1 x2
  unfold State.waitedNp
  (try dsimp -proj -eta only)
  repeat' first
    | with_reducible apply Keeps.refl
    | with_reducible assumption
    | (apply Keeps.via; (with_reducible apply modEngine_keeps);
       (intro x h; (try unfold Engine.count); (try dsimp -zeta -proj -eta only);
        (repeat' (first | (exact h) | (exact dropJob_ok h) | (exact ⟨⟨h.1.1, h.1.2⟩, h.2⟩)
                        | (refine ⟨⟨?_, ?_⟩, ?_⟩ <;> (first | exact h.1.1 | exact h.1.2 | exact h.2
                                                            | exact store_empty_wf
                                                                | exact store_writeBytes_wf _ _ h.1.1
                                                                    | exact store_writeBytes_wf _ _ h.1.2)) |
                                                                        (extract_lets +onlyGivenNames y) | split))))
    | with_reducible apply Keeps.ite
    | (extract_lets +onlyGivenNames x; clear_value (e : x = _); apply Keeps.cut x; (subst e); rotate_left;
       (intro h); (clear e); rotate_right)
    | extract_lets +onlyGivenNames y
    | split
    | (with_reducible apply Keeps.foldlPair; rotate_left; intro u x; (try dsimp -zeta -proj -eta only); rotate_right)
    | (with_reducible apply Keeps.foldl; rotate_left; intro u x; (try dsimp -zeta -proj -eta only); rotate_right)
    | fail_if_no_progress (dsimp +zetaDelta -zeta -proj -eta only)
    | fail_if_no_progress (dsimp -zeta -eta only)

theorem endRefetch_keeps :
    ∀ s x1 x2 x3 x4, Keeps s (State.endRefetch s x1 x2 x3 x4) := by
  intro s x1 x2 x3 x4
  unfold State.endRefetch
  repeat' first
    | with_reducible apply Keeps.refl
    | with_reducible assumption
    | (apply Keeps.via; with_reducible apply waitedNp_keeps)
    | (apply Keeps.ofFrame; with_reducible apply modCache_frame; decide; decide)
    | with_reducible apply Keeps.ite
    | (extract_lets +onlyGivenNames x; clear_value (e : x = _); apply Keeps.cut x; (subst e); rotate_left;
       (intro h); (clear e); rotate_right)
    | extract_lets +onlyGivenNames y
    | split
    | (with_reducible apply Keeps.foldlPair; rotate_left; intro u x; (try dsimp -zeta -proj -eta only); rotate_right)
    | (with_reducible apply Keeps.foldl; rotate_left; intro u x; (try dsimp -zeta -proj -eta only); rotate_right)
    | fail_if_no_progress (dsimp +zetaDelta -zeta -proj -eta only)
    | fail_if_no_progress (dsimp -zeta -eta only)

theorem engineReason_keeps :
    ∀ s x1 x2 x3, Keeps s (State.engineReason s x1 x2 x3) := by
  intro s x1 x2 x3
  unfold State.engineReason
  (try dsimp -proj -eta only)
  repeat' first
    | with_reducible apply Keeps.refl
    | (apply Keeps.via; (with_reducible apply modEngine_keeps);
       (intro x h; (try unfold Engine.count); (try dsimp -zeta -proj -eta only);
        (repeat' (first | (exact h) | (exact dropJob_ok h) | (exact ⟨⟨h.1.1, h.1.2⟩, h.2⟩)
                        | (refine ⟨⟨?_, ?_⟩, ?_⟩ <;> (first | exact h.1.1 | exact h.1.2 | exact h.2
                                                            | exact store_empty_wf
                                                                | exact store_writeBytes_wf _ _ h.1.1
                                                                    | exact store_writeBytes_wf _ _ h.1.2)) |
                                                                        (extract_lets +onlyGivenNames y) | split))))
    | (apply Keeps.ofFrame; with_reducible apply signal_frame; decide; decide)
    | with_reducible apply Keeps.ite

theorem engineFault_keeps :
    ∀ s x1 x2 x3 x4, Keeps s (State.engineFault s x1 x2 x3 x4) := by
  intro s x1 x2 x3 x4
  unfold State.engineFault
  repeat' first
    | with_reducible apply Keeps.refl
    | (apply Keeps.via; with_reducible (first | apply engineReason_keeps | apply faultJobNoted_keeps))

theorem finishJob_keeps :
    ∀ s x1 x2, Keeps s (State.finishJob s x1 x2) := by
  intro s x1 x2
  unfold State.finishJob
  repeat' first
    | with_reducible apply Keeps.refl
    | (apply Keeps.via; with_reducible apply produce_keeps)
    | (apply Keeps.ofFrame; with_reducible (first | apply waitSign_frame | apply kmeans_frame
                                                  | apply calibrate_frame | apply toGate_frame
                                                      | apply modJob_frame); decide; decide)
    | with_reducible apply Keeps.ite
    | split

theorem doObjDeleteDurable_keeps (k s) : Keeps s (doObjDeleteDurable k s) := by
  unfold doObjDeleteDurable
  split
  · exact Keeps.refl s
  · extract_lets answered
    have ha : ∀ t, Keeps s t → Keeps s (answered t) :=
      fun t h => Keeps.ofFrame (Frame.search t _) (by decide) (by decide) h
    clear_value answered
    split
    · exact Keeps.ofFrame (refuse_frame _ _ _) (by decide) (by decide) (ha s (Keeps.refl s))
    · exact Keeps.refl s
    · next t _ h =>
      obtain ⟨o, -, h2⟩ := Option.bind_eq_some_iff.mp h
      have ht : Keeps s t := Keeps.ofFrame (journal_frame _ _ _ _ h2) (by decide) (by decide) (Keeps.refl s)
      refine Keeps.ite (dirtyAll_keeps _ _) ?_
      refine Keeps.ofFrame (success_frame _ _ _ _ _) (by decide) (by decide) (Keeps.ofFrame (recountUsed_frame _ _)
        (by decide) (by decide) (Keeps.ofFrame (modFlash_frame _ _ _) (by decide) (by decide) (Keeps.via
        (dirtyAll_keeps _ _) (Keeps.ofFrame (tombstone_frame _ _ _) (by decide) (by decide) (Keeps.ofFrame
        (modObj_frame _ _ _) (by decide) (by decide) ?_)))))
      exact Keeps.ite (Keeps.via (endReading_keeps _ _ _ _) (ha t ht)) (ha t ht)

theorem doObjPutDurable_keeps :
    ∀ x0 x1 s, Keeps s (doObjPutDurable x0 x1 s) := by
  intro x0 x1 s
  unfold doObjPutDurable
  repeat' first
    | with_reducible apply Keeps.refl
    | (apply Keeps.via; with_reducible (first | apply storeObject_keeps | apply dirtyThrough_keeps))
    | (apply Keeps.ofFrame; with_reducible (first | apply chargeWork_frame | apply success_frame); decide; decide)
    | with_reducible apply Keeps.ite
    | split
    | fail_if_no_progress (apply Keeps.ofFrame; with_reducible apply Frame.search; decide; decide)

theorem finishObjects_keeps :
    ∀ s x1, Keeps s (State.finishObjects s x1) := by
  intro s x1
  unfold State.finishObjects
  repeat' first
    | with_reducible apply Keeps.refl
    | (apply Keeps.via; with_reducible (first | apply doObjPutDurable_keeps | apply doObjDeleteDurable_keeps))
    | (apply Keeps.ofFrame; with_reducible apply fresh_frame; decide; decide)
    | (with_reducible apply Keeps.foldl; rotate_left; intro u x; (try dsimp -zeta -proj -eta only); rotate_right)

theorem flush_keeps (s : State) (x1) : Keeps s (State.flush s x1) := by
  unfold State.flush
  refine Keeps.ite (Keeps.refl s) ?_
  refine Keeps.via (Keeps.mem _ _ fun m => ⟨m.1, m.2.1, m.2.2⟩) ?_
  cases h1 : s.logAll with
  | none => exact Keeps.refl s
  | some r =>
    obtain ⟨l, t⟩ := r
    have ht : Keeps s t := Keeps.ofFrame (logAll_frame _ _ h1) (by decide) (by decide) (Keeps.refl s)
    cases h2 : (if x1 = true then t.logCommit else none) with
    | none => simp only [h2]; exact ht
    | some c =>
      simp only [h2]
      split at h2
      · exact Keeps.ofFrame (logCommit_frame _ _ h2) (by decide) (by decide) ht
      · cases h2

theorem named_keeps (s m e coll k) (hk : Keeps s k) : Keeps s (State.named s m e coll k) := by
  unfold State.named
  have hr : ∀ n, Keeps s (s.refuse e.key n) := fun n => Keeps.ofFrame (refuse_frame _ _ _) (by decide) (by decide)
      (Keeps.refl s)
  exact Keeps.ite (hr _) (Keeps.ite (hr _) hk)

theorem stopEmbedding_keeps :
    ∀ s x1, Keeps s (State.stopEmbedding s x1) := by
  intro s x1
  unfold State.stopEmbedding
  repeat' first
    | with_reducible apply Keeps.refl
    | with_reducible assumption
    | (apply Keeps.via; with_reducible apply deferColls_keeps)
    | with_reducible apply Keeps.ite
    | (extract_lets +onlyGivenNames x; clear_value (e : x = _); apply Keeps.cut x; (subst e); rotate_left;
       (intro h); (clear e); rotate_right)
    | extract_lets +onlyGivenNames y
    | split
    | (with_reducible apply Keeps.foldlPair; rotate_left; intro u x; (try dsimp -zeta -proj -eta only); rotate_right)
    | (with_reducible apply Keeps.foldl; rotate_left; intro u x; (try dsimp -zeta -proj -eta only); rotate_right)
    | fail_if_no_progress (apply Keeps.ofFrame; with_reducible apply Frame.search; decide; decide)
    | fail_if_no_progress (dsimp +zetaDelta -zeta -proj -eta only)
    | fail_if_no_progress (dsimp -zeta -eta only)

theorem poisonIngot_keeps :
    ∀ s x1 x2, Keeps s (State.poisonIngot s x1 x2) := by
  intro s x1 x2
  unfold State.poisonIngot
  repeat' first
    | with_reducible apply Keeps.refl
    | with_reducible assumption
    | (apply Keeps.via; with_reducible (first | apply stopEmbedding_keeps | apply faultJob_keeps))
    | (apply Keeps.ofFrame; with_reducible (first | apply modIngot_frame | apply modCache_frame); decide; decide)
    | with_reducible apply Keeps.ite
    | (extract_lets +onlyGivenNames x; clear_value (e : x = _); apply Keeps.cut x; (subst e); rotate_left;
       (intro h); (clear e); rotate_right)
    | extract_lets +onlyGivenNames y
    | split
    | (with_reducible apply Keeps.foldlPair; rotate_left; intro u x; (try dsimp -zeta -proj -eta only); rotate_right)
    | (with_reducible apply Keeps.foldl; rotate_left; intro u x; (try dsimp -zeta -proj -eta only); rotate_right)
    | fail_if_no_progress (dsimp +zetaDelta -zeta -proj -eta only)
    | fail_if_no_progress (dsimp -zeta -eta only)

theorem hashMismatch_keeps :
    ∀ s x1 x2, Keeps s (State.hashMismatch s x1 x2) := by
  intro s x1 x2
  unfold State.hashMismatch
  repeat' first
    | with_reducible apply Keeps.refl
    | (apply Keeps.via; with_reducible apply poisonIngot_keeps)
    | (apply Keeps.ofFrame; with_reducible apply reportGeneral_frame; decide; decide)

theorem healDrain_keeps (t s x1 x2) : Keeps t (State.healDrain t s x1 x2) := Keeps.mem t _ fun m => ⟨m.1, m.2.1,
    m.2.2⟩

theorem hostReadFailed_keeps (s k fin) (hk : ∀ t, Keeps t (fin t)) : Keeps s (State.hostReadFailed s k fin) := by
  unfold State.hostReadFailed
  refine Keeps.ite ((hk _).via ?_) (Keeps.refl s)
  dsimp -proj -eta only
  repeat' first
    | with_reducible apply Keeps.refl
    | (apply Keeps.ofFrame; with_reducible apply modCtrl_frame; decide; decide)
    | split
    | fail_if_no_progress (apply Keeps.ofFrame; with_reducible (first | apply Frame.mold | apply Frame.search);
                           decide; decide)

theorem inner_keeps (s type k) (hk : ∀ t, Keeps t (k t)) : Keeps s (State.inner s type k) := by
  unfold State.inner
  have h : Keeps s (s.takeInbox type) := Keeps.ofFrame (takeInbox_frame _ _) (by decide) (by decide) (Keeps.refl s)
  exact Keeps.ite h (Keeps.via (hk _) (Keeps.ofFrame (Frame.sec _ _) (by decide) (by decide) h))

theorem leaveEngine_keeps :
    ∀ s x1 x2, Keeps s (State.leaveEngine s x1 x2) := by
  intro s x1 x2
  unfold State.leaveEngine
  (try dsimp -proj -eta only)
  repeat' first
    | with_reducible apply Keeps.refl
    | (apply Keeps.via; (with_reducible apply modEngine_keeps);
       (intro x h; (try unfold Engine.count); (try dsimp -zeta -proj -eta only);
        (repeat' (first | (exact h) | (exact dropJob_ok h) | (exact ⟨⟨h.1.1, h.1.2⟩, h.2⟩)
                        | (refine ⟨⟨?_, ?_⟩, ?_⟩ <;> (first | exact h.1.1 | exact h.1.2 | exact h.2
                                                            | exact store_empty_wf
                                                                | exact store_writeBytes_wf _ _ h.1.1
                                                                    | exact store_writeBytes_wf _ _ h.1.2)) |
                                                                        (extract_lets +onlyGivenNames y) | split))))
    | (apply Keeps.via; with_reducible apply startNext_keeps)

theorem joinParts_keeps :
    ∀ s x1 x2 x3 x4 x5 x6, Keeps s (State.joinParts s x1 x2 x3 x4 x5 x6) := by
  intro s x1 x2 x3 x4 x5 x6
  unfold State.joinParts
  repeat' first
    | with_reducible apply Keeps.refl
    | with_reducible assumption
    | (apply Keeps.via; with_reducible (first | apply leaveEngine_keeps | apply scratchUe_keeps
                                              | apply combineParts_keeps | apply chargeParts_keeps))
    | (apply Keeps.ofFrame; with_reducible apply modJob_frame; decide; decide)
    | with_reducible apply Keeps.ite
    | (extract_lets +onlyGivenNames x; clear_value (e : x = _); apply Keeps.cut x; (subst e); rotate_left;
       (intro h); (clear e); rotate_right)
    | extract_lets +onlyGivenNames y
    | split
    | (with_reducible apply Keeps.foldlPair; rotate_left; intro u x; (try dsimp -zeta -proj -eta only); rotate_right)
    | (with_reducible apply Keeps.foldl; rotate_left; intro u x; (try dsimp -zeta -proj -eta only); rotate_right)
    | fail_if_no_progress (dsimp +zetaDelta -zeta -proj -eta only)
    | fail_if_no_progress (dsimp -zeta -eta only)

theorem keyEvent_keeps :
    ∀ s x1, Keeps s (State.keyEvent s x1) := by
  intro s x1
  unfold State.keyEvent
  repeat' first
    | with_reducible apply Keeps.refl
    | with_reducible assumption
    | (apply Keeps.via; with_reducible apply applyKeys_keeps)
    | with_reducible apply Keeps.ite
    | (extract_lets +onlyGivenNames x; clear_value (e : x = _); apply Keeps.cut x; (subst e); rotate_left;
       (intro h); (clear e); rotate_right)
    | extract_lets +onlyGivenNames y
    | split
    | (with_reducible apply Keeps.foldlPair; rotate_left; intro u x; (try dsimp -zeta -proj -eta only); rotate_right)
    | (with_reducible apply Keeps.foldl; rotate_left; intro u x; (try dsimp -zeta -proj -eta only); rotate_right)
    | fail_if_no_progress (apply Keeps.ofFrame; with_reducible apply Frame.sec; decide; decide)
    | fail_if_no_progress (dsimp +zetaDelta -zeta -proj -eta only)
    | fail_if_no_progress (dsimp -zeta -eta only)

theorem kvFill_keeps :
    ∀ s x1 x2 x3, Keeps s (State.kvFill s x1 x2 x3) := by
  intro s x1 x2 x3
  unfold State.kvFill
  repeat' first
    | with_reducible apply Keeps.refl
    | (apply Keeps.via; with_reducible apply writeAt_keeps)
    | (with_reducible apply Keeps.foldl; rotate_left; intro u x; (try dsimp -zeta -proj -eta only); rotate_right)

theorem kvExtend_keeps :
    ∀ s x1, Keeps s (State.kvExtend s x1) := by
  intro s x1
  unfold State.kvExtend
  repeat' first
    | with_reducible apply Keeps.refl
    | (apply Keeps.via; with_reducible apply kvFill_keeps)
    | (apply Keeps.ofFrame; with_reducible apply modJob_frame; decide; decide)
    | split
    | (with_reducible apply Keeps.foldl; rotate_left; intro u x; (try dsimp -zeta -proj -eta only); rotate_right)

theorem leaveParts_keeps :
    ∀ s x1 x2 x3, Keeps s (State.leaveParts s x1 x2 x3) := by
  intro s x1 x2 x3
  unfold State.leaveParts
  (try dsimp -proj -eta only)
  repeat' first
    | with_reducible apply Keeps.refl
    | (apply Keeps.via; with_reducible (first | apply leaveEngine_keeps | apply unpin_keeps))
    | (apply Keeps.ofFrame; with_reducible (first | apply startNextBench_frame | apply returnCredits_frame
                                                  | apply modBench_frame | apply modJob_frame); decide; decide)
    | split
    | (with_reducible apply Keeps.foldl; rotate_left; intro u x; (try dsimp -zeta -proj -eta only); rotate_right)

theorem lineFailed_keeps :
    ∀ x0 s x2, Keeps s (State.lineFailed x0 s x2) := by
  intro x0 s x2
  unfold State.lineFailed
  repeat' first
    | with_reducible apply Keeps.refl
    | with_reducible assumption
    | (apply Keeps.via; with_reducible apply retireBlock_keeps)
    | (apply Keeps.ofFrame; with_reducible (first | apply losePage_frame | apply mediaRecord_frame
                                                  | apply modFlash_frame); decide; decide)
    | with_reducible apply Keeps.ite
    | (extract_lets +onlyGivenNames x; clear_value (e : x = _); apply Keeps.cut x; (subst e); rotate_left;
       (intro h); (clear e); rotate_right)
    | extract_lets +onlyGivenNames y
    | split
    | (with_reducible apply Keeps.foldlPair; rotate_left; intro u x; (try dsimp -zeta -proj -eta only); rotate_right)
    | (with_reducible apply Keeps.foldl; rotate_left; intro u x; (try dsimp -zeta -proj -eta only); rotate_right)
    | fail_if_no_progress (dsimp +zetaDelta -zeta -proj -eta only)
    | fail_if_no_progress (dsimp -zeta -eta only)

theorem nextWord_keeps :
    ∀ s x1, Keeps s (State.nextWord s x1) := by
  intro s x1
  unfold State.nextWord
  (try dsimp -proj -eta only)
  repeat' first
    | with_reducible apply Keeps.refl
    | (apply Keeps.via; (with_reducible apply modEngine_keeps);
       (intro x h; (try unfold Engine.count); (try dsimp -zeta -proj -eta only);
        (repeat' (first | (exact h) | (exact dropJob_ok h) | (exact ⟨⟨h.1.1, h.1.2⟩, h.2⟩)
                        | (refine ⟨⟨?_, ?_⟩, ?_⟩ <;> (first | exact h.1.1 | exact h.1.2 | exact h.2
                                                            | exact store_empty_wf
                                                                | exact store_writeBytes_wf _ _ h.1.1
                                                                    | exact store_writeBytes_wf _ _ h.1.2)) |
                                                                        (extract_lets +onlyGivenNames y) | split))))

theorem onant_keeps (s e masks inp out fields k) (hk : ∀ m h, Keeps s (k m h)) :
    Keeps s (State.onant s e masks inp out fields k) := by
  unfold State.onant
  have hr : ∀ n, Keeps s (s.refuse e.key n) := fun n => Keeps.ofFrame (refuse_frame _ _ _) (by decide) (by decide)
      (Keeps.refl s)
  split
  · exact hr _
  · refine Keeps.ite (Keeps.refl s) ?_
    split
    · exact hr _
    · exact Keeps.ite (hk _ _) (hr _)

theorem reset_engines_ok (e : EngineId) : EngineOk State.reset.engines[e] := by
  simp only [State.reset, Fin.getElem_fin, Vector.getElem_replicate]
  exact ⟨⟨rfl, rfl⟩, fun _ h => nomatch h⟩

theorem railsOff_keeps (s : State) (x1) : Keeps s (State.railsOff s x1) := by
  intro _
  unfold State.railsOff
  refine (memWf_iff _).mpr ⟨⟨rfl, fun q => ?_, fun b => ?_⟩, reset_engines_ok⟩
  · exact (congrArg (Store.wf sramLine) (Vector.getElem_replicate q.isLt)).trans rfl
  · exact (congrArg (Store.wf sramLine) (Vector.getElem_replicate b.isLt)).trans rfl

theorem powerOff_keeps :
    ∀ s x1 x2, Keeps s (State.powerOff s x1 x2) := by
  intro s x1 x2
  unfold State.powerOff
  (try dsimp -proj -eta only)
  repeat' first
    | with_reducible apply Keeps.refl
    | (apply Keeps.via; with_reducible apply railsOff_keeps)
    | fail_if_no_progress (apply Keeps.ofFrame; with_reducible (first | apply Frame.power | apply Frame.ctrls
                                                                      | apply Frame.mold | apply Frame.grid
                                                                          | apply Frame.sched | apply Frame.cache
                                                                              | apply Frame.ingots
                                                                                  | apply Frame.search
                                                                                      | apply Frame.benches
                                                                                          | apply Frame.flash
                                                                                              | apply Frame.links
                                                                                                  | apply Frame.pewter | apply Frame.errors | apply Frame.burnish | apply Frame.sec | apply Frame.fw | apply Frame.bmc | apply Frame.dev | apply Frame.benches_flash | apply Frame.bmc_dev | apply Frame.fw_bmc | apply Frame.pewter_fw | apply Frame.power_bmc | apply Frame.sched_search | apply Frame.search_benches); decide; decide)

theorem readClears_keeps :
    ∀ s x1, Keeps s (State.readClears s x1) := by
  intro s x1
  unfold State.readClears
  (try dsimp -proj -eta only)
  repeat' first
    | with_reducible apply Keeps.refl
    | (apply Keeps.via; (with_reducible apply modEngine_keeps);
       (intro x h; (try unfold Engine.count); (try dsimp -zeta -proj -eta only);
        (repeat' (first | (exact h) | (exact dropJob_ok h) | (exact ⟨⟨h.1.1, h.1.2⟩, h.2⟩)
                        | (refine ⟨⟨?_, ?_⟩, ?_⟩ <;> (first | exact h.1.1 | exact h.1.2 | exact h.2
                                                            | exact store_empty_wf
                                                                | exact store_writeBytes_wf _ _ h.1.1
                                                                    | exact store_writeBytes_wf _ _ h.1.2)) |
                                                                        (extract_lets +onlyGivenNames y) | split))))
    | (apply Keeps.ofFrame; with_reducible (first | apply schClear_frame | apply linkClear_frame
                                                  | apply errClear_frame | apply modMold_frame
                                                      | apply modFlash_frame | apply modBench_frame
                                                          | apply modPower_frame | apply modCache_frame); decide;
                                                              decide)
    | split
    | fail_if_no_progress (apply Keeps.ofFrame; with_reducible (first | apply Frame.grid | apply Frame.pewter
                                                                      | apply Frame.burnish | apply Frame.dev);
                                                                          decide; decide)

theorem read4_keeps :
    ∀ s x1, Keeps s (State.read4 s x1) := by
  intro s x1
  unfold State.read4
  repeat' first
    | with_reducible apply Keeps.refl
    | with_reducible assumption
    | (apply Keeps.via; with_reducible apply readClears_keeps)
    | (apply Keeps.ofFrame; with_reducible (first | apply sendWord_frame | apply passWindow_frame
                                                  | apply passBurn_frame); decide; decide)
    | with_reducible apply Keeps.ite
    | (extract_lets +onlyGivenNames x; clear_value (e : x = _); apply Keeps.cut x; (subst e); rotate_left;
       (intro h); (clear e); rotate_right)
    | extract_lets +onlyGivenNames y
    | split
    | (with_reducible apply Keeps.foldlPair; rotate_left; intro u x; (try dsimp -zeta -proj -eta only); rotate_right)
    | (with_reducible apply Keeps.foldl; rotate_left; intro u x; (try dsimp -zeta -proj -eta only); rotate_right)
    | fail_if_no_progress (apply Keeps.ofFrame; with_reducible apply Frame.dev; decide; decide)
    | fail_if_no_progress (dsimp +zetaDelta -zeta -proj -eta only)
    | fail_if_no_progress (dsimp -zeta -eta only)

theorem read8_keeps :
    ∀ s x1, Keeps s (State.read8 s x1) := by
  intro s x1
  unfold State.read8
  repeat' first
    | with_reducible apply Keeps.refl
    | with_reducible assumption
    | (apply Keeps.via; with_reducible apply readClears_keeps)
    | (apply Keeps.ofFrame; with_reducible (first | apply sendWord_frame | apply passWindow_frame
                                                  | apply passBurn_frame); decide; decide)
    | with_reducible apply Keeps.ite
    | (extract_lets +onlyGivenNames x; clear_value (e : x = _); apply Keeps.cut x; (subst e); rotate_left;
       (intro h); (clear e); rotate_right)
    | extract_lets +onlyGivenNames y
    | split
    | (with_reducible apply Keeps.foldlPair; rotate_left; intro u x; (try dsimp -zeta -proj -eta only); rotate_right)
    | (with_reducible apply Keeps.foldl; rotate_left; intro u x; (try dsimp -zeta -proj -eta only); rotate_right)
    | fail_if_no_progress (dsimp +zetaDelta -zeta -proj -eta only)
    | fail_if_no_progress (dsimp -zeta -eta only)

theorem readFailed_keeps :
    ∀ s x1 x2 x3 x4, Keeps s (State.readFailed s x1 x2 x3 x4) := by
  intro s x1 x2 x3 x4
  unfold State.readFailed
  repeat' first
    | with_reducible apply Keeps.refl
    | (apply Keeps.via; with_reducible apply retireBlock_keeps)
    | (apply Keeps.ofFrame; with_reducible (first | apply readLost_frame | apply mediaRecord_frame
                                                  | apply modFlash_frame); decide; decide)
    | split

theorem writeGranules_keeps (s : State) (x1 x2 x3) : Keeps s (State.writeGranules s x1 x2 x3) := by
  induction x2 generalizing s x3 with
  | nil => exact Keeps.refl s
  | cons g gs ih => exact Keeps.via (ih _ _) (writeAt_keeps _ _ _)

theorem replaceGranule_keeps :
    ∀ s x1 x2 x3, Keeps s (State.replaceGranule s x1 x2 x3) := by
  intro s x1 x2 x3
  unfold State.replaceGranule
  repeat' first
    | with_reducible apply Keeps.refl
    | (apply Keeps.via; with_reducible (first | apply writeGranules_keeps | apply recache_keeps))
    | extract_lets +onlyGivenNames y
    | split
    | (refine Keeps.ofFrame ((takeStacked_frame _ _ _).of_eq (congrArg Prod.snd (by assumption))) (by decide) (by decide) ?_)
    | (refine Keeps.ofFrame ((takeQuarter_frame _ _ _).of_eq (congrArg Prod.snd (by assumption))) (by decide) (by decide) ?_)

theorem replayUnit_keeps :
    ∀ s x1 x2 x3 x4 x5, Keeps s (State.replayUnit s x1 x2 x3 x4 x5) := by
  intro s x1 x2 x3 x4 x5
  unfold State.replayUnit
  repeat' first
    | with_reducible apply Keeps.refl
    | (apply Keeps.via; with_reducible (first | apply leaveParts_keeps | apply discardOutputs_keeps
                                              | apply clearGranule_keeps))
    | (apply Keeps.ofFrame; with_reducible apply modJob_frame; decide; decide)
    | (with_reducible apply Keeps.foldl; rotate_left; intro u x; (try dsimp -zeta -proj -eta only); rotate_right)

theorem retryAppend_keeps :
    ∀ s x1 x2, Keeps s (State.retryAppend s x1 x2) := by
  intro s x1 x2
  unfold State.retryAppend
  repeat' first
    | with_reducible apply Keeps.refl
    | with_reducible assumption
    | (apply Keeps.via; with_reducible (first | apply notInserted_keeps | apply append_keeps))
    | (apply Keeps.ofFrame; with_reducible (first | apply remake_frame | apply chargeWork_frame
                                                  | apply appendWaits_frame); decide; decide)
    | with_reducible apply Keeps.ite
    | (extract_lets +onlyGivenNames x; clear_value (e : x = _); apply Keeps.cut x; (subst e); rotate_left;
       (intro h); (clear e); rotate_right)
    | extract_lets +onlyGivenNames y
    | split
    | (with_reducible apply Keeps.foldlPair; rotate_left; intro u x; (try dsimp -zeta -proj -eta only); rotate_right)
    | (with_reducible apply Keeps.foldl; rotate_left; intro u x; (try dsimp -zeta -proj -eta only); rotate_right)
    | (refine Keeps.ofFrame ((appendWaits_frame _ _ _ _).of_eq (congrArg Prod.fst (by assumption))) (by decide) (by decide) ?_)
    | (refine Keeps.via ((append_keeps _ _ _).of_eq (congrArg Prod.fst (by assumption))) ?_)
    | fail_if_no_progress (apply Keeps.ofFrame; with_reducible apply Frame.search; decide; decide)
    | fail_if_no_progress (dsimp +zetaDelta -zeta -proj -eta only)
    | fail_if_no_progress (dsimp -zeta -eta only)

theorem startDrain_keeps :
    ∀ s x1, Keeps s (State.startDrain s x1) := by
  intro s x1
  unfold State.startDrain
  (try dsimp -proj -eta only)
  repeat' first
    | with_reducible apply Keeps.refl
    | with_reducible assumption
    | (apply Keeps.via; (with_reducible apply modEngine_keeps);
       (intro x h; (try unfold Engine.count); (try dsimp -zeta -proj -eta only);
        (repeat' (first | (exact h) | (exact dropJob_ok h) | (exact ⟨⟨h.1.1, h.1.2⟩, h.2⟩)
                        | (refine ⟨⟨?_, ?_⟩, ?_⟩ <;> (first | exact h.1.1 | exact h.1.2 | exact h.2
                                                            | exact store_empty_wf
                                                                | exact store_writeBytes_wf _ _ h.1.1
                                                                    | exact store_writeBytes_wf _ _ h.1.2)) |
                                                                        (extract_lets +onlyGivenNames y) | split))))
    | (apply Keeps.via; with_reducible apply chargeRun_keeps)
    | (apply Keeps.ofFrame; with_reducible apply countSwitch_frame; decide; decide)
    | with_reducible apply Keeps.ite
    | (extract_lets +onlyGivenNames x; clear_value (e : x = _); apply Keeps.cut x; (subst e); rotate_left;
       (intro h); (clear e); rotate_right)
    | extract_lets +onlyGivenNames y
    | split
    | (with_reducible apply Keeps.foldlPair; rotate_left; intro u x; (try dsimp -zeta -proj -eta only); rotate_right)
    | (with_reducible apply Keeps.foldl; rotate_left; intro u x; (try dsimp -zeta -proj -eta only); rotate_right)
    | fail_if_no_progress (dsimp +zetaDelta -zeta -proj -eta only)
    | fail_if_no_progress (dsimp -zeta -eta only)

theorem retryPreempt_keeps :
    ∀ s x1, Keeps s (State.retryPreempt s x1) := by
  intro s x1
  unfold State.retryPreempt
  repeat' first
    | with_reducible apply Keeps.refl
    | (apply Keeps.via; with_reducible (first | apply startDrain_keeps | apply preempt_keeps))
    | split

theorem writeBackPass_keeps :
    ∀ s, Keeps s (State.writeBackPass s) := by
  intro s
  unfold State.writeBackPass
  repeat' first
    | with_reducible apply Keeps.refl
    | with_reducible assumption
    | (apply Keeps.via; with_reducible apply granuleHome_keeps)
    | with_reducible apply Keeps.ite
    | (extract_lets +onlyGivenNames x; clear_value (e : x = _); apply Keeps.cut x; (subst e); rotate_left;
       (intro h); (clear e); rotate_right)
    | extract_lets +onlyGivenNames y
    | split
    | (with_reducible apply Keeps.foldlPair; rotate_left; intro u x; (try dsimp -zeta -proj -eta only); rotate_right)
    | (with_reducible apply Keeps.foldl; rotate_left; intro u x; (try dsimp -zeta -proj -eta only); rotate_right)
    | fail_if_no_progress (dsimp +zetaDelta -zeta -proj -eta only)
    | fail_if_no_progress (dsimp -zeta -eta only)

theorem writeBackAll_keeps :
    ∀ s, Keeps s (State.writeBackAll s) := by
  intro s
  unfold State.writeBackAll
  repeat' first
    | with_reducible apply Keeps.refl
    | with_reducible assumption
    | (apply Keeps.via; with_reducible apply writeBackPass_keeps)
    | with_reducible apply Keeps.ite
    | (extract_lets +onlyGivenNames x; clear_value (e : x = _); apply Keeps.cut x; (subst e); rotate_left;
       (intro h); (clear e); rotate_right)
    | extract_lets +onlyGivenNames y
    | split
    | (with_reducible apply Keeps.foldlPair; rotate_left; intro u x; (try dsimp -zeta -proj -eta only); rotate_right)
    | (with_reducible apply Keeps.foldl; rotate_left; intro u x; (try dsimp -zeta -proj -eta only); rotate_right)
    | fail_if_no_progress (dsimp +zetaDelta -zeta -proj -eta only)
    | fail_if_no_progress (dsimp -zeta -eta only)

theorem runTransition_keeps (s : State) (x1 x2) : Keeps s (State.runTransition s x1 x2) := by
  unfold State.runTransition
  extract_lets a b c d e f m sc g h
  have ha : Keeps s a := Keeps.via (endPrograms_keeps _)
    (Keeps.ofFrame (dropAdmin_frame _ _) (by decide) (by decide) (endCommands_keeps s))
  clear_value a
  have hb : Keeps s b := Keeps.ite ha (Keeps.via (writeBackAll_keeps _) ha)
  clear_value b
  have hc : Keeps s c := Keeps.ite (Keeps.ofFrame (strike_frame _) (by decide) (by decide) hb) hb
  clear_value c
  have hd : Keeps s d := Keeps.ofFrame (programLc_frame _ _) (by decide) (by decide) hc
  clear_value d
  have he : Keeps s e := Keeps.ite (Keeps.ofFrame (zeroiseMedia_frame _) (by decide) (by decide) hd) hd
  clear_value e
  have hf : Keeps s f := Keeps.via (blank_keeps _) (Keeps.ofFrame (sendClose_frame _) (by decide) (by decide) he)
  clear_value f
  have hg : Keeps s g := Keeps.sub hf (fun m => ⟨m.1, m.2.1, m.2.2⟩) id
  clear_value g
  have hh : Keeps s h := Keeps.ofFrame (resumeReads_frame _) (by decide) (by decide) (Keeps.foldl _ hg fun u l =>
    Keeps.ofFrame (redrawLink_frame u l) (by decide) (by decide) (Keeps.refl u))
  clear_value h
  exact Keeps.ofFrame (reportSecurity_frame _ _ _ _ _ _) (by decide) (by decide) hh

theorem saveEngine_keeps (s : State) (x1) : Keeps s (State.saveEngine s x1) := by
  unfold State.saveEngine
  split
  · exact Keeps.refl s
  · refine Keeps.ofFrame (modJob_frame _ _ _) (by decide) (by decide) (Keeps.via (unpin_keeps _ _) (Keeps.via
      (modEngine_keeps _ _ _ fun x h => ⟨ctxFresh_ok, fun c hc => ?_⟩)
      (Keeps.ofFrame (returnCredits_frame _ _) (by decide) (by decide) (chargeRun_keeps _ _))))
    rcases List.mem_append.mp hc with hc | hc
    · exact h.2 c hc
    · rw [List.mem_singleton.mp hc]; exact h.1

theorem serveWaiting_keeps :
    ∀ s x1, Keeps s (State.serveWaiting s x1) := by
  intro s x1
  unfold State.serveWaiting
  repeat' first
    | with_reducible apply Keeps.refl
    | (apply Keeps.via; with_reducible (first | apply finishJob_keeps | apply stopJob_keeps))
    | (apply Keeps.ofFrame; with_reducible (first | apply spdmSigned_frame | apply makeAttest_frame); decide; decide)
    | split

theorem skewFault_keeps :
    ∀ s x1 x2 x3 x4, Keeps s (State.skewFault s x1 x2 x3 x4) := by
  intro s x1 x2 x3 x4
  unfold State.skewFault
  repeat' first
    | with_reducible apply Keeps.refl
    | (apply Keeps.via; with_reducible (first | apply engineReason_keeps | apply faultJobNoted_keeps))

theorem submitJob_keeps :
    ∀ s x1 x2 x3 x4, Keeps s (State.submitJob s x1 x2 x3 x4) := by
  intro s x1 x2 x3 x4
  unfold State.submitJob
  repeat' first
    | with_reducible apply Keeps.refl
    | with_reducible assumption
    | (apply Keeps.via; with_reducible apply acceptJob_keeps)
    | (apply Keeps.ofFrame; with_reducible (first | apply refuse_frame | apply status_frame
                                                  | apply refuseEnvelope_frame); decide; decide)
    | with_reducible apply Keeps.ite
    | (extract_lets +onlyGivenNames x; clear_value (e : x = _); apply Keeps.cut x; (subst e); rotate_left;
       (intro h); (clear e); rotate_right)
    | extract_lets +onlyGivenNames y
    | split
    | (with_reducible apply Keeps.foldlPair; rotate_left; intro u x; (try dsimp -zeta -proj -eta only); rotate_right)
    | (with_reducible apply Keeps.foldl; rotate_left; intro u x; (try dsimp -zeta -proj -eta only); rotate_right)
    | fail_if_no_progress (dsimp +zetaDelta -zeta -proj -eta only)
    | fail_if_no_progress (dsimp -zeta -eta only)

theorem takeForce_keeps :
    ∀ s x1 x2 x3 x4 x5, Keeps s (State.takeForce s x1 x2 x3 x4 x5) := by
  intro s x1 x2 x3 x4 x5
  unfold State.takeForce
  repeat' first
    | with_reducible apply Keeps.refl
    | with_reducible assumption
    | (apply Keeps.via; with_reducible (first | apply checkFlushLog_keeps | apply createColls_keeps
                                              | apply checkKcvs_keeps | apply bindParts_keeps))
    | (apply Keeps.ofFrame; with_reducible (first | apply takeReference_frame | apply raiseRollback_frame
                                                  | apply mountMetadata_frame | apply mountMarks_frame
                                                      | apply gridStart_frame | apply capFall_frame
                                                          | apply evalC0_frame | apply sendKeyRequests_frame
                                                              | apply noteEmbed_frame | apply modMold_frame);
                                                                  decide; decide)
    | with_reducible apply Keeps.ite
    | (extract_lets +onlyGivenNames x; clear_value (e : x = _); apply Keeps.cut x; (subst e); rotate_left;
       (intro h); (clear e); rotate_right)
    | extract_lets +onlyGivenNames y
    | split
    | (with_reducible apply Keeps.foldlPair; rotate_left; intro u x; (try dsimp -zeta -proj -eta only); rotate_right)
    | (with_reducible apply Keeps.foldl; rotate_left; intro u x; (try dsimp -zeta -proj -eta only); rotate_right)
    | fail_if_no_progress (apply Keeps.ofFrame; with_reducible (first | apply Frame.sched | apply Frame.search
                                                                      | apply Frame.sched_search); decide; decide)
    | fail_if_no_progress (dsimp +zetaDelta -zeta -proj -eta only)
    | fail_if_no_progress (dsimp -zeta -eta only)

theorem takePiece_keeps :
    ∀ s x1 x2 x3 x4 x5, Keeps s (State.takePiece s x1 x2 x3 x4 x5) := by
  intro s x1 x2 x3 x4 x5
  unfold State.takePiece
  repeat' first
    | with_reducible apply Keeps.refl
    | with_reducible assumption
    | (apply Keeps.via; with_reducible apply storeIngot_keeps)
    | (apply Keeps.ofFrame; with_reducible (first | apply modIngot_frame | apply success_frame); decide; decide)
    | with_reducible apply Keeps.ite
    | (extract_lets +onlyGivenNames x; clear_value (e : x = _); apply Keeps.cut x; (subst e); rotate_left;
       (intro h); (clear e); rotate_right)
    | extract_lets +onlyGivenNames y
    | split
    | (with_reducible apply Keeps.foldlPair; rotate_left; intro u x; (try dsimp -zeta -proj -eta only); rotate_right)
    | (with_reducible apply Keeps.foldl; rotate_left; intro u x; (try dsimp -zeta -proj -eta only); rotate_right)
    | fail_if_no_progress (apply Keeps.ofFrame; with_reducible apply Frame.ingots; decide; decide)
    | fail_if_no_progress (dsimp +zetaDelta -zeta -proj -eta only)
    | fail_if_no_progress (dsimp -zeta -eta only)

theorem takeSem_keeps :
    ∀ s x1 x2 x3, Keeps s (State.takeSem s x1 x2 x3) := by
  intro s x1 x2 x3
  unfold State.takeSem
  (try dsimp -proj -eta only)
  repeat' first
    | with_reducible apply Keeps.refl
    | (apply Keeps.via; (with_reducible apply modEngine_keeps);
       (intro x h; (try unfold Engine.count); (try dsimp -zeta -proj -eta only);
        (repeat' (first | (exact h) | (exact dropJob_ok h) | (exact ⟨⟨h.1.1, h.1.2⟩, h.2⟩)
                        | (refine ⟨⟨?_, ?_⟩, ?_⟩ <;> (first | exact h.1.1 | exact h.1.2 | exact h.2
                                                            | exact store_empty_wf
                                                                | exact store_writeBytes_wf _ _ h.1.1
                                                                    | exact store_writeBytes_wf _ _ h.1.2)) |
                                                                        (extract_lets +onlyGivenNames y) | split))))
    | (apply Keeps.via; with_reducible apply nextWord_keeps)
    | (apply Keeps.ofFrame; with_reducible (first | apply setSem_frame | apply modJob_frame); decide; decide)
    | with_reducible apply Keeps.ite

theorem tokeniserFault_keeps :
    ∀ s x1, Keeps s (State.tokeniserFault s x1) := by
  intro s x1
  unfold State.tokeniserFault
  repeat' first
    | with_reducible apply Keeps.refl
    | with_reducible assumption
    | (apply Keeps.via; with_reducible apply endReading_keeps)
    | (apply Keeps.ofFrame; with_reducible apply benchReason_frame; decide; decide)
    | (extract_lets +onlyGivenNames x; clear_value (e : x = _); apply Keeps.cut x; (subst e); rotate_left;
       (intro h); (clear e); rotate_right)
    | split

theorem trip_keeps :
    ∀ s x1 x2, Keeps s (State.trip s x1 x2) := by
  intro s x1 x2
  unfold State.trip
  repeat' first
    | with_reducible apply Keeps.refl
    | (apply Keeps.via; with_reducible apply railsOff_keeps)
    | (apply Keeps.ofFrame; with_reducible (first | apply reportGeneral_frame | apply doRecordWrite_frame
                                                  | apply modPower_frame); decide; decide)

theorem unitStands_keeps :
    ∀ s x1 x2 x3 x4, Keeps s (State.unitStands s x1 x2 x3 x4) := by
  intro s x1 x2 x3 x4
  unfold State.unitStands
  repeat' first
    | with_reducible apply Keeps.refl
    | (apply Keeps.via; with_reducible (first | apply leaveParts_keeps | apply kvExtend_keeps
                                              | apply finishJob_keeps | apply embedPassage_keeps))
    | (apply Keeps.ofFrame; with_reducible apply modJob_frame; decide; decide)
    | with_reducible apply Keeps.ite
    | extract_lets +onlyGivenNames y
    | split
    | (with_reducible apply Keeps.foldl; rotate_left; intro u x; (try dsimp -zeta -proj -eta only); rotate_right)

theorem writeEngine_keeps :
    ∀ s x1 x2 x3, Keeps s (State.writeEngine s x1 x2 x3) := by
  intro s x1 x2 x3
  unfold State.writeEngine
  (try dsimp -proj -eta only)
  repeat' first
    | with_reducible apply Keeps.refl
    | (apply Keeps.via; (with_reducible apply modEngine_keeps);
       (intro x h; (try unfold Engine.count); (try dsimp -zeta -proj -eta only);
        (repeat' (first | (exact h) | (exact dropJob_ok h) | (exact ⟨⟨h.1.1, h.1.2⟩, h.2⟩)
                        | (refine ⟨⟨?_, ?_⟩, ?_⟩ <;> (first | exact h.1.1 | exact h.1.2 | exact h.2
                                                            | exact store_empty_wf
                                                                | exact store_writeBytes_wf _ _ h.1.1
                                                                    | exact store_writeBytes_wf _ _ h.1.2)) |
                                                                        (extract_lets +onlyGivenNames y) | split))))
    | split

theorem doMcCtrl_keeps :
    ∀ x0 x1 s, Keeps s (doMcCtrl x0 x1 s) := by
  intro x0 x1 s
  unfold doMcCtrl
  repeat' first
    | with_reducible apply Keeps.refl
    | (apply Keeps.via; with_reducible apply recache_keeps)
    | (apply Keeps.ofFrame; with_reducible (first | apply latchWrite_frame | apply modCache_frame); decide; decide)
    | with_reducible apply Keeps.ite

theorem write4_keeps :
    ∀ s x1 x2, Keeps s (State.write4 s x1 x2) := by
  intro s x1 x2
  unfold State.write4
  repeat' first
    | with_reducible apply Keeps.refl
    | (apply Keeps.via; with_reducible (first | apply doMcCtrl_keeps | apply writeEngine_keeps))
    | (apply Keeps.ofFrame; with_reducible (first | apply doSchCtrl_frame | apply doPwrCtrl_frame
                                                  | apply doBrnCtrl_frame | apply writeFlash_frame
                                                      | apply writeErr_frame | apply writeBench_frame
                                                          | apply takeQuench_frame | apply modMold_frame
                                                              | apply modPower_frame | apply modCache_frame);
                                                                  decide; decide)
    | split
    | fail_if_no_progress (apply Keeps.ofFrame; with_reducible (first | apply Frame.grid | apply Frame.sched
                                                                      | apply Frame.burnish | apply Frame.dev);
                                                                          decide; decide)

theorem doControllerReset_keeps :
    ∀ x0 s, Keeps s (doControllerReset x0 s) := by
  intro x0 s
  unfold doControllerReset
  repeat' first
    | with_reducible apply Keeps.refl
    | (apply Keeps.via; with_reducible apply dropController_keeps)

theorem doControllerShutdown_keeps :
    ∀ x0 x1 s, Keeps s (doControllerShutdown x0 x1 s) := by
  intro x0 x1 s
  unfold doControllerShutdown
  repeat' first
    | with_reducible apply Keeps.refl
    | (apply Keeps.via; with_reducible (first | apply writeBackAll_keeps | apply finishObjects_keeps))
    | (apply Keeps.ofFrame; with_reducible (first | apply quenchController_frame | apply modCtrl_frame); decide;
       decide)
    | with_reducible apply Keeps.ite

theorem writeCc_keeps :
    ∀ s x1 x2, Keeps s (State.writeCc s x1 x2) := by
  intro s x1 x2
  unfold State.writeCc
  repeat' first
    | with_reducible apply Keeps.refl
    | (apply Keeps.via; with_reducible (first | apply doControllerShutdown_keeps | apply doControllerReset_keeps))
    | (apply Keeps.ofFrame; with_reducible (first | apply doControllerEnable_frame | apply modCtrl_frame); decide;
       decide)
    | with_reducible apply Keeps.ite

theorem writeBar0_keeps :
    ∀ s x1 x2 x3, Keeps s (State.writeBar0 s x1 x2 x3) := by
  intro s x1 x2 x3
  unfold State.writeBar0
  repeat' first
    | with_reducible apply Keeps.refl
    | (apply Keeps.via; with_reducible apply writeCc_keeps)
    | (apply Keeps.ofFrame; with_reducible (first | apply doSqDoorbell_frame | apply doCqDoorbell_frame
                                                  | apply writeMsix_frame | apply modCtrl_frame); decide; decide)
    | split

theorem writeBar2_keeps :
    ∀ s x1 x2 x3, Keeps s (State.writeBar2 s x1 x2 x3) := by
  intro s x1 x2 x3
  unfold State.writeBar2
  repeat' first
    | with_reducible apply Keeps.refl
    | (apply Keeps.via; with_reducible apply write4_keeps)
    | (apply Keeps.ofFrame; with_reducible apply badAccess_frame; decide; decide)
    | with_reducible apply Keeps.ite

theorem writeLast_keeps (s : State) (e d rest) : Keeps s (State.writeLast s e d rest) := by
  refine modEngine_keeps_at s _ _ fun h => ⟨?_, h.2⟩
  have hc := writeRecords_ok d (flagBy_ok causeAccInf
    (d.rows.zipIdx.foldl (drainRow (arrayOp d.word)) (s.engines[e].ctx.acc, 0, 0)).2.2 d.at_ (flagBy_ok causeIntSat
    (d.rows.zipIdx.foldl (drainRow (arrayOp d.word)) (s.engines[e].ctx.acc, 0, 0)).2.1 d.at_
    (c := { s.engines[e].ctx with
      acc := (d.rows.zipIdx.foldl (drainRow (arrayOp d.word)) (s.engines[e].ctx.acc, 0, 0)).1 })
    ⟨h.1.1, drainRows_ok _ _ h.1.2⟩))
  exact ⟨hc.1, hc.2⟩

theorem doApstExpiry_keeps :
    ∀ s, Keeps s (doApstExpiry s) := by
  intro s
  unfold doApstExpiry
  repeat' first
    | with_reducible apply Keeps.refl
    | (apply Keeps.via; with_reducible apply enterPower_keeps)
    | with_reducible apply Keeps.ite

theorem doArrayLastWrite_keeps (x0 s) : Keeps s (doArrayLastWrite x0 s) := by
  unfold doArrayLastWrite
  split
  · exact Keeps.refl s
  · exact writeLast_keeps _ _ _ _
  · dsimp only
    have h := fun x d rest at_ => Keeps.via (healDrain_keeps (s.writeLast x d rest) s x at_)
        (writeLast_keeps s x d rest)
    split
    · exact scratchUe_keeps _ _ _ _ _
    · exact Keeps.via (scratchUe_keeps _ _ _ _ _) (h _ _ _ _)
    · exact h _ _ _ _

theorem doBatchVectorsReturn_keeps :
    ∀ x0 x1 x2 s, Keeps s (doBatchVectorsReturn x0 x1 x2 s) := by
  intro x0 x1 x2 s
  unfold doBatchVectorsReturn
  repeat' first
    | with_reducible apply Keeps.refl
    | (apply Keeps.via; with_reducible apply takeVector_keeps)
    | (apply Keeps.ofFrame; with_reducible (first | apply chargeWork_frame | apply modBench_frame); decide; decide)
    | split
    | (with_reducible apply Keeps.foldl; rotate_left; intro u x; (try dsimp -zeta -proj -eta only); rotate_right)

theorem doBlockRefresh_keeps :
    ∀ x0 x1 s, Keeps s (doBlockRefresh x0 x1 s) := by
  intro x0 x1 s
  unfold doBlockRefresh
  repeat' first
    | with_reducible apply Keeps.refl
    | (apply Keeps.via; with_reducible apply moveTo_keeps)
    | (apply Keeps.ofFrame; with_reducible apply modFlash_frame; decide; decide)
    | with_reducible apply Keeps.ite

theorem doBr_keeps :
    ∀ x0 x1 x2 s, Keeps s (doBr x0 x1 x2 s) := by
  intro x0 x1 x2 s
  unfold doBr
  (try dsimp -proj -eta only)
  repeat' first
    | with_reducible apply Keeps.refl
    | (apply Keeps.via; (with_reducible apply modEngine_keeps);
       (intro x h; (try unfold Engine.count); (try dsimp -zeta -proj -eta only);
        (repeat' (first | (exact h) | (exact dropJob_ok h) | (exact ⟨⟨h.1.1, h.1.2⟩, h.2⟩)
                        | (refine ⟨⟨?_, ?_⟩, ?_⟩ <;> (first | exact h.1.1 | exact h.1.2 | exact h.2
                                                            | exact store_empty_wf
                                                                | exact store_writeBytes_wf _ _ h.1.1
                                                                    | exact store_writeBytes_wf _ _ h.1.2)) |
                                                                        (extract_lets +onlyGivenNames y) | split))))
    | (apply Keeps.ofFrame; with_reducible apply fresh_frame; decide; decide)
    | split

theorem doBurnishComplete_keeps :
    ∀ x0 x1 s, Keeps s (doBurnishComplete x0 x1 s) := by
  intro x0 x1 s
  unfold doBurnishComplete
  repeat' first
    | with_reducible apply Keeps.refl
    | (apply Keeps.via; with_reducible apply burnEffects_keeps)
    | (apply Keeps.ofFrame; with_reducible (first | apply success_frame | apply report_frame); decide; decide)
    | split
    | fail_if_no_progress (apply Keeps.ofFrame; with_reducible apply Frame.burnish; decide; decide)

theorem doChannelDieFailed_keeps :
    ∀ x0 s, Keeps s (doChannelDieFailed x0 s) := by
  intro x0 s
  unfold doChannelDieFailed
  repeat' first
    | with_reducible apply Keeps.refl
    | (apply Keeps.via; with_reducible apply benchDies_keeps)
    | (apply Keeps.ofFrame; with_reducible (first | apply setLink_frame | apply reportGeneral_frame); decide; decide)
    | (with_reducible apply withSmart_keeps; (try dsimp -zeta -proj -eta only))
    | with_reducible apply Keeps.ite
    | (with_reducible apply Keeps.foldl; rotate_left; intro u x; (try dsimp -zeta -proj -eta only); rotate_right)

theorem doConsolidation_keeps :
    ∀ x0 x1 x2 s, Keeps s (doConsolidation x0 x1 x2 s) := by
  intro x0 x1 x2 s
  unfold doConsolidation
  repeat' first
    | with_reducible apply Keeps.refl
    | with_reducible assumption
    | (apply Keeps.via; with_reducible apply moveTo_keeps)
    | with_reducible apply Keeps.ite
    | (extract_lets +onlyGivenNames x; clear_value (e : x = _); apply Keeps.cut x; (subst e); rotate_left;
       (intro h); (clear e); rotate_right)
    | extract_lets +onlyGivenNames y
    | split
    | (with_reducible apply Keeps.foldlPair; rotate_left; intro u x; (try dsimp -zeta -proj -eta only); rotate_right)
    | (with_reducible apply Keeps.foldl; rotate_left; intro u x; (try dsimp -zeta -proj -eta only); rotate_right)
    | fail_if_no_progress (dsimp +zetaDelta -zeta -proj -eta only)
    | fail_if_no_progress (dsimp -zeta -eta only)

theorem doContextRestoreDone_keeps :
    ∀ x0 s, Keeps s (doContextRestoreDone x0 s) := by
  intro x0 s
  unfold doContextRestoreDone
  (try dsimp -proj -eta only)
  repeat' first
    | with_reducible apply Keeps.refl
    | with_reducible assumption
    | (apply Keeps.via; (with_reducible apply modEngine_keeps);
       (intro x h; (try unfold Engine.count); (try dsimp -zeta -proj -eta only);
        (repeat' (first | (exact h) | (exact dropJob_ok h) | (exact ⟨⟨h.1.1, h.1.2⟩, h.2⟩)
                        | (refine ⟨⟨?_, ?_⟩, ?_⟩ <;> (first | exact h.1.1 | exact h.1.2 | exact h.2
                                                            | exact store_empty_wf
                                                                | exact store_writeBytes_wf _ _ h.1.1
                                                                    | exact store_writeBytes_wf _ _ h.1.2)) |
                                                                        (extract_lets +onlyGivenNames y) | split))))
    | (apply Keeps.via; with_reducible (first | apply retryPreempt_keeps | apply chargeRun_keeps))
    | with_reducible apply Keeps.ite
    | (extract_lets +onlyGivenNames x; clear_value (e : x = _); apply Keeps.cut x; (subst e); rotate_left;
       (intro h); (clear e); rotate_right)
    | extract_lets +onlyGivenNames y
    | split
    | (with_reducible apply Keeps.foldlPair; rotate_left; intro u x; (try dsimp -zeta -proj -eta only); rotate_right)
    | (with_reducible apply Keeps.foldl; rotate_left; intro u x; (try dsimp -zeta -proj -eta only); rotate_right)
    | fail_if_no_progress (dsimp +zetaDelta -zeta -proj -eta only)
    | fail_if_no_progress (dsimp -zeta -eta only)

theorem doContextSaveDone_keeps :
    ∀ x0 s, Keeps s (doContextSaveDone x0 s) := by
  intro x0 s
  unfold doContextSaveDone
  (try dsimp -proj -eta only)
  repeat' first
    | with_reducible apply Keeps.refl
    | with_reducible assumption
    | (apply Keeps.via; (with_reducible apply modEngine_keeps);
       (intro x h; (try unfold Engine.count); (try dsimp -zeta -proj -eta only);
        (repeat' (first | (exact h) | (exact dropJob_ok h) | (exact ⟨⟨h.1.1, h.1.2⟩, h.2⟩)
                        | (refine ⟨⟨?_, ?_⟩, ?_⟩ <;> (first | exact h.1.1 | exact h.1.2 | exact h.2
                                                            | exact store_empty_wf
                                                                | exact store_writeBytes_wf _ _ h.1.1
                                                                    | exact store_writeBytes_wf _ _ h.1.2)) |
                                                                        (extract_lets +onlyGivenNames y) | split))))
    | (apply Keeps.via; with_reducible (first | apply saveEngine_keeps | apply startNext_keeps
                                              | apply chargeRun_keeps))
    | with_reducible apply Keeps.ite
    | (extract_lets +onlyGivenNames x; clear_value (e : x = _); apply Keeps.cut x; (subst e); rotate_left;
       (intro h); (clear e); rotate_right)
    | extract_lets +onlyGivenNames y
    | split
    | (with_reducible apply Keeps.foldlPair; rotate_left; intro u x; (try dsimp -zeta -proj -eta only); rotate_right)
    | (with_reducible apply Keeps.foldl; rotate_left; intro u x; (try dsimp -zeta -proj -eta only); rotate_right)
    | fail_if_no_progress (dsimp +zetaDelta -zeta -proj -eta only)
    | fail_if_no_progress (dsimp -zeta -eta only)

theorem doDirtyWriteResume_keeps :
    ∀ x0 s, Keeps s (doDirtyWriteResume x0 s) := by
  intro x0 s
  unfold doDirtyWriteResume
  repeat' first
    | with_reducible apply Keeps.refl
    | with_reducible assumption
    | (apply Keeps.via; with_reducible (first | apply granuleHome_keeps | apply dirtyWrite_keeps))
    | (apply Keeps.ofFrame; with_reducible apply modCache_frame; decide; decide)
    | with_reducible apply Keeps.ite
    | (extract_lets +onlyGivenNames x; clear_value (e : x = _); apply Keeps.cut x; (subst e); rotate_left;
       (intro h); (clear e); rotate_right)
    | extract_lets +onlyGivenNames y
    | split
    | (with_reducible apply Keeps.foldlPair; rotate_left; intro u x; (try dsimp -zeta -proj -eta only); rotate_right)
    | (with_reducible apply Keeps.foldl; rotate_left; intro u x; (try dsimp -zeta -proj -eta only); rotate_right)
    | (refine Keeps.ofFrame (programHome_frame _ _ _ _ (by assumption)) (by decide) (by decide) ?_)
    | (refine Keeps.ofFrame (Frame.getD (fun u h => programHome_frame _ _ _ u h)) (by decide) (by decide) ?_)
    | (refine Keeps.via ((dirtyWrite_keeps _ _ _ _).of_eq (congrArg Prod.fst (by assumption))) ?_)
    | fail_if_no_progress (dsimp +zetaDelta -zeta -proj -eta only)
    | fail_if_no_progress (dsimp -zeta -eta only)

theorem doDqTraining_keeps :
    ∀ x0 x1 x2 s, Keeps s (doDqTraining x0 x1 x2 s) := by
  intro x0 x1 x2 s
  unfold doDqTraining
  repeat' first
    | with_reducible apply Keeps.refl
    | with_reducible assumption
    | (apply Keeps.via; with_reducible apply failDie_keeps)
    | (apply Keeps.ofFrame; with_reducible apply modFlash_frame; decide; decide)
    | with_reducible apply Keeps.ite
    | (extract_lets +onlyGivenNames x; clear_value (e : x = _); apply Keeps.cut x; (subst e); rotate_left;
       (intro h); (clear e); rotate_right)
    | extract_lets +onlyGivenNames y
    | split
    | (with_reducible apply Keeps.foldlPair; rotate_left; intro u x; (try dsimp -zeta -proj -eta only); rotate_right)
    | (with_reducible apply Keeps.foldl; rotate_left; intro u x; (try dsimp -zeta -proj -eta only); rotate_right)
    | fail_if_no_progress (dsimp +zetaDelta -zeta -proj -eta only)
    | fail_if_no_progress (dsimp -zeta -eta only)

theorem doFeederFill_keeps :
    ∀ x0 x1 s, Keeps s (doFeederFill x0 x1 s) := by
  intro x0 x1 s
  unfold doFeederFill
  (try dsimp -proj -eta only)
  repeat' first
    | with_reducible apply Keeps.refl
    | (apply Keeps.via; (with_reducible apply modEngine_keeps);
       (intro x h; (try unfold Engine.count); (try dsimp -zeta -proj -eta only);
        (repeat' (first | (exact h) | (exact dropJob_ok h) | (exact ⟨⟨h.1.1, h.1.2⟩, h.2⟩)
                        | (refine ⟨⟨?_, ?_⟩, ?_⟩ <;> (first | exact h.1.1 | exact h.1.2 | exact h.2
                                                            | exact store_empty_wf
                                                                | exact store_writeBytes_wf _ _ h.1.1
                                                                    | exact store_writeBytes_wf _ _ h.1.2)) |
                                                                        (extract_lets +onlyGivenNames y) | split))))
    | (apply Keeps.via; with_reducible apply scratchUe_keeps)
    | split

theorem doFence_keeps :
    ∀ x0 s, Keeps s (doFence x0 s) := by
  intro x0 s
  unfold doFence
  repeat' first
    | with_reducible apply Keeps.refl
    | (apply Keeps.via; with_reducible apply nextWord_keeps)
    | split

theorem doFlr_keeps :
    ∀ x0 s, Keeps s (doFlr x0 s) := by
  intro x0 s
  unfold doFlr
  repeat' first
    | with_reducible apply Keeps.refl
    | (apply Keeps.via; with_reducible apply dropController_keeps)

theorem doFold_keeps :
    ∀ x0 s, Keeps s (doFold x0 s) := by
  intro x0 s
  unfold doFold
  repeat' first
    | with_reducible apply Keeps.refl
    | (apply Keeps.via; with_reducible apply moveTo_keeps)
    | (apply Keeps.ofFrame; with_reducible apply modFlash_frame; decide; decide)
    | extract_lets +onlyGivenNames y
    | split

theorem doGarbageCollection_keeps :
    ∀ x0 s, Keeps s (doGarbageCollection x0 s) := by
  intro x0 s
  unfold doGarbageCollection
  repeat' first
    | with_reducible apply Keeps.refl
    | with_reducible assumption
    | (apply Keeps.via; with_reducible (first | apply storeTables_keeps | apply moveTo_keeps))
    | with_reducible apply Keeps.ite
    | (extract_lets +onlyGivenNames x; clear_value (e : x = _); apply Keeps.cut x; (subst e); rotate_left;
       (intro h); (clear e); rotate_right)
    | extract_lets +onlyGivenNames y
    | split
    | (with_reducible apply Keeps.foldlPair; rotate_left; intro u x; (try dsimp -zeta -proj -eta only); rotate_right)
    | (with_reducible apply Keeps.foldl; rotate_left; intro u x; (try dsimp -zeta -proj -eta only); rotate_right)
    | fail_if_no_progress (dsimp +zetaDelta -zeta -proj -eta only)
    | fail_if_no_progress (dsimp -zeta -eta only)

theorem doGranuleReloadDone_keeps (q g ws s) : Keeps s (doGranuleReloadDone q g ws s) := by
  unfold doGranuleReloadDone
  extract_lets begun now m s1 s2 at_ s3 s4 m4
  have h1 : Keeps s s1 := Keeps.mem s _ fun m => ⟨m.1, m.2.1, m.2.2⟩
  have h2 : Keeps s s2 := Keeps.foldl _ h1 fun u k => Keeps.ofFrame (markUnbound_frame _ _) (by decide) (by decide)
      (Keeps.refl u)
  clear_value begun now s1 s2 at_
  have h3 : Keeps s s3 := by
    unfold s3
    split
    · exact Keeps.foldl _ h2 fun u e => waitedNp_keeps _ _ _
    · exact h2
  clear_value s3
  refine Keeps.ite h3 ?_
  have h4 : Keeps s s4 := by
    unfold s4
    refine Keeps.via ?_ h3
    with_reducible apply memoryReport_keeps
  clear_value s4
  exact Keeps.via (Keeps.mem s4 _ fun m => ⟨m.1, m.2.1, m.2.2⟩) h4

theorem doGraphRepair_keeps :
    ∀ x0 s, Keeps s (doGraphRepair x0 s) := by
  intro x0 s
  unfold doGraphRepair
  repeat' first
    | with_reducible apply Keeps.refl
    | with_reducible assumption
    | (apply Keeps.via; with_reducible apply dirtyThrough_keeps)
    | (apply Keeps.ofFrame; with_reducible (first | apply freeList_frame | apply modList_frame
                                                  | apply modColl_frame); decide; decide)
    | with_reducible apply Keeps.ite
    | (extract_lets +onlyGivenNames x; clear_value (e : x = _); apply Keeps.cut x; (subst e); rotate_left;
       (intro h); (clear e); rotate_right)
    | extract_lets +onlyGivenNames y
    | split
    | (with_reducible apply Keeps.foldlPair; rotate_left; intro u x; (try dsimp -zeta -proj -eta only); rotate_right)
    | (with_reducible apply Keeps.foldl; rotate_left; intro u x; (try dsimp -zeta -proj -eta only); rotate_right)
    | (refine Keeps.via ((dirtyThrough_keeps _ _ _ _).of_eq (congrArg Prod.fst (by assumption))) ?_)
    | fail_if_no_progress (apply Keeps.ofFrame; with_reducible apply Frame.search; decide; decide)
    | fail_if_no_progress (dsimp +zetaDelta -zeta -proj -eta only)
    | fail_if_no_progress (dsimp -zeta -eta only)

theorem doGraphWalkComplete_keeps :
    ∀ x0 x1 s, Keeps s (doGraphWalkComplete x0 x1 s) := by
  intro x0 x1 s
  unfold doGraphWalkComplete
  (try dsimp -proj -eta only)
  repeat' first
    | with_reducible apply Keeps.refl
    | (apply Keeps.via; (with_reducible apply modEngine_keeps);
       (intro x h; (try unfold Engine.count); (try dsimp -zeta -proj -eta only);
        (repeat' (first | (exact h) | (exact dropJob_ok h) | (exact ⟨⟨h.1.1, h.1.2⟩, h.2⟩)
                        | (refine ⟨⟨?_, ?_⟩, ?_⟩ <;> (first | exact h.1.1 | exact h.1.2 | exact h.2
                                                            | exact store_empty_wf
                                                                | exact store_writeBytes_wf _ _ h.1.1
                                                                    | exact store_writeBytes_wf _ _ h.1.2)) |
                                                                        (extract_lets +onlyGivenNames y) | split))))
    | (apply Keeps.via; with_reducible (first | apply endWith_keeps | apply startNext_keeps))
    | (apply Keeps.ofFrame; with_reducible (first | apply charge_frame | apply modJob_frame); decide; decide)
    | split

theorem doHallmarkRebuildDone_keeps :
    ∀ s, Keeps s (doHallmarkRebuildDone s) := by
  intro s
  unfold doHallmarkRebuildDone
  repeat' first
    | with_reducible apply Keeps.refl
    | (apply Keeps.via; with_reducible apply serveWaiting_keeps)
    | (with_reducible apply Keeps.foldl; rotate_left; intro u x; (try dsimp -zeta -proj -eta only); rotate_right)
    | fail_if_no_progress (apply Keeps.ofFrame; with_reducible apply Frame.sec; decide; decide)

theorem doIllegal_keeps :
    ∀ x0 x1 s, Keeps s (doIllegal x0 x1 s) := by
  intro x0 x1 s
  unfold doIllegal
  repeat' first
    | with_reducible apply Keeps.refl
    | (apply Keeps.via; with_reducible apply engineFault_keeps)
    | split

theorem doIngotDrop_keeps :
    ∀ x0 s, Keeps s (doIngotDrop x0 s) := by
  intro x0 s
  unfold doIngotDrop
  repeat' first
    | with_reducible apply Keeps.refl
    | with_reducible assumption
    | (apply Keeps.via; with_reducible (first | apply stopEmbedding_keeps | apply dropUnpinned_keeps))
    | (apply Keeps.ofFrame; with_reducible (first | apply modIngot_frame | apply success_frame
                                                  | apply refuse_frame); decide; decide)
    | (with_reducible apply onant_keeps; intro u v; (try dsimp -zeta -proj -eta only))
    | with_reducible apply Keeps.ite
    | (extract_lets +onlyGivenNames x; clear_value (e : x = _); apply Keeps.cut x; (subst e); rotate_left;
       (intro h); (clear e); rotate_right)
    | extract_lets +onlyGivenNames y
    | split
    | (with_reducible apply Keeps.foldlPair; rotate_left; intro u x; (try dsimp -zeta -proj -eta only); rotate_right)
    | (with_reducible apply Keeps.foldl; rotate_left; intro u x; (try dsimp -zeta -proj -eta only); rotate_right)
    | fail_if_no_progress (dsimp +zetaDelta -zeta -proj -eta only)
    | fail_if_no_progress (dsimp -zeta -eta only)

theorem doIngotLoad_keeps :
    ∀ x0 x1 s, Keeps s (doIngotLoad x0 x1 s) := by
  intro x0 x1 s
  unfold doIngotLoad
  repeat' first
    | with_reducible apply Keeps.refl
    | with_reducible assumption
    | (apply Keeps.via; with_reducible apply takePiece_keeps)
    | (apply Keeps.ofFrame; with_reducible apply refuse_frame; decide; decide)
    | (with_reducible apply onant_keeps; intro u v; (try dsimp -zeta -proj -eta only))
    | with_reducible apply Keeps.ite
    | (extract_lets +onlyGivenNames x; clear_value (e : x = _); apply Keeps.cut x; (subst e); rotate_left;
       (intro h); (clear e); rotate_right)
    | extract_lets +onlyGivenNames y
    | split
    | (with_reducible apply Keeps.foldlPair; rotate_left; intro u x; (try dsimp -zeta -proj -eta only); rotate_right)
    | (with_reducible apply Keeps.foldl; rotate_left; intro u x; (try dsimp -zeta -proj -eta only); rotate_right)
    | fail_if_no_progress (dsimp +zetaDelta -zeta -proj -eta only)
    | fail_if_no_progress (dsimp -zeta -eta only)

theorem doIngotRemoved_keeps :
    ∀ x0 s, Keeps s (doIngotRemoved x0 s) := by
  intro x0 s
  unfold doIngotRemoved
  repeat' first
    | with_reducible apply Keeps.refl
    | (apply Keeps.via; with_reducible apply dropUnpinned_keeps)
    | (apply Keeps.ofFrame; with_reducible apply removeIngot_frame; decide; decide)
    | with_reducible apply Keeps.ite

theorem doIngotValidation_keeps :
    ∀ x0 s, Keeps s (doIngotValidation x0 s) := by
  intro x0 s
  unfold doIngotValidation
  repeat' first
    | with_reducible apply Keeps.refl
    | with_reducible assumption
    | (apply Keeps.via; with_reducible apply storeIngot_keeps)
    | (apply Keeps.ofFrame; with_reducible (first | apply removeIngot_frame | apply modIngot_frame
                                                  | apply success_frame | apply status_frame); decide; decide)
    | with_reducible apply Keeps.ite
    | (extract_lets +onlyGivenNames x; clear_value (e : x = _); apply Keeps.cut x; (subst e); rotate_left;
       (intro h); (clear e); rotate_right)
    | extract_lets +onlyGivenNames y
    | split
    | (with_reducible apply Keeps.foldlPair; rotate_left; intro u x; (try dsimp -zeta -proj -eta only); rotate_right)
    | (with_reducible apply Keeps.foldl; rotate_left; intro u x; (try dsimp -zeta -proj -eta only); rotate_right)
    | fail_if_no_progress (dsimp +zetaDelta -zeta -proj -eta only)
    | fail_if_no_progress (dsimp -zeta -eta only)

theorem doInputPowerLost_keeps :
    ∀ x0 x1 s, Keeps s (doInputPowerLost x0 x1 s) := by
  intro x0 x1 s
  unfold doInputPowerLost
  repeat' first
    | with_reducible apply Keeps.refl
    | (apply Keeps.via; with_reducible apply powerOff_keeps)
    | (apply Keeps.ofFrame; with_reducible apply modPower_frame; decide; decide)
    | with_reducible apply Keeps.ite

theorem doJobFault_keeps :
    ∀ x0 x1 s, Keeps s (doJobFault x0 x1 s) := by
  intro x0 x1 s
  unfold doJobFault
  repeat' first
    | with_reducible apply Keeps.refl
    | with_reducible assumption
    | (apply Keeps.via; with_reducible (first | apply tokeniserFault_keeps | apply engineFault_keeps
                                              | apply engineReason_keeps | apply faultJob_keeps))
    | (apply Keeps.ofFrame; with_reducible (first | apply restartReading_frame | apply reportGeneral_frame
                                                  | apply benchReason_frame); decide; decide)
    | with_reducible apply Keeps.ite
    | (extract_lets +onlyGivenNames x; clear_value (e : x = _); apply Keeps.cut x; (subst e); rotate_left;
       (intro h); (clear e); rotate_right)
    | extract_lets +onlyGivenNames y
    | split
    | (with_reducible apply Keeps.foldlPair; rotate_left; intro u x; (try dsimp -zeta -proj -eta only); rotate_right)
    | (with_reducible apply Keeps.foldl; rotate_left; intro u x; (try dsimp -zeta -proj -eta only); rotate_right)
    | fail_if_no_progress (apply Keeps.ofFrame; with_reducible apply Frame.benches; decide; decide)
    | fail_if_no_progress (dsimp +zetaDelta -zeta -proj -eta only)
    | fail_if_no_progress (dsimp -zeta -eta only)

theorem doJobQuenchStop_keeps :
    ∀ x0 s, Keeps s (doJobQuenchStop x0 s) := by
  intro x0 s
  unfold doJobQuenchStop
  repeat' first
    | with_reducible apply Keeps.refl
    | (apply Keeps.via; with_reducible apply stopJob_keeps)
    | (apply Keeps.ofFrame; with_reducible (first | apply waitSign_frame | apply refuse_frame | apply status_frame
                                                  | apply dropJob_frame); decide; decide)
    | split

theorem doJobSubmit_keeps :
    ∀ x0 x1 s, Keeps s (doJobSubmit x0 x1 s) := by
  intro x0 x1 s
  unfold doJobSubmit
  repeat' first
    | with_reducible apply Keeps.refl
    | with_reducible assumption
    | (apply Keeps.via; with_reducible apply submitJob_keeps)
    | (with_reducible apply onant_keeps; intro u v; (try dsimp -zeta -proj -eta only))
    | with_reducible apply Keeps.ite
    | (extract_lets +onlyGivenNames x; clear_value (e : x = _); apply Keeps.cut x; (subst e); rotate_left;
       (intro h); (clear e); rotate_right)
    | extract_lets +onlyGivenNames y
    | split
    | (with_reducible apply Keeps.foldlPair; rotate_left; intro u x; (try dsimp -zeta -proj -eta only); rotate_right)
    | (with_reducible apply Keeps.foldl; rotate_left; intro u x; (try dsimp -zeta -proj -eta only); rotate_right)
    | fail_if_no_progress (dsimp +zetaDelta -zeta -proj -eta only)
    | fail_if_no_progress (dsimp -zeta -eta only)

theorem doKeyDeliver_keeps :
    ∀ x0 x1 s, Keeps s (doKeyDeliver x0 x1 s) := by
  intro x0 x1 s
  unfold doKeyDeliver
  repeat' first
    | with_reducible apply Keeps.refl
    | with_reducible assumption
    | (apply Keeps.via; with_reducible (first | apply keyEvent_keeps | apply setKcv_keeps))
    | (apply Keeps.ofFrame; with_reducible (first | apply sendKeyAck_frame | apply reportSecurity_frame); decide;
       decide)
    | (with_reducible apply inner_keeps; intro u; (try dsimp -zeta -proj -eta only))
    | with_reducible apply Keeps.ite
    | (extract_lets +onlyGivenNames x; clear_value (e : x = _); apply Keeps.cut x; (subst e); rotate_left;
       (intro h); (clear e); rotate_right)
    | extract_lets +onlyGivenNames y
    | split
    | (with_reducible apply Keeps.foldlPair; rotate_left; intro u x; (try dsimp -zeta -proj -eta only); rotate_right)
    | (with_reducible apply Keeps.foldl; rotate_left; intro u x; (try dsimp -zeta -proj -eta only); rotate_right)
    | fail_if_no_progress (apply Keeps.ofFrame; with_reducible apply Frame.sec; decide; decide)
    | fail_if_no_progress (dsimp +zetaDelta -zeta -proj -eta only)
    | fail_if_no_progress (dsimp -zeta -eta only)

theorem doKeyRevoke_keeps :
    ∀ x0 s, Keeps s (doKeyRevoke x0 s) := by
  intro x0 s
  unfold doKeyRevoke
  repeat' first
    | with_reducible apply Keeps.refl
    | with_reducible assumption
    | (apply Keeps.via; with_reducible apply keyEvent_keeps)
    | (apply Keeps.ofFrame; with_reducible apply reportSecurity_frame; decide; decide)
    | (with_reducible apply inner_keeps; intro u; (try dsimp -zeta -proj -eta only))
    | with_reducible apply Keeps.ite
    | (extract_lets +onlyGivenNames x; clear_value (e : x = _); apply Keeps.cut x; (subst e); rotate_left;
       (intro h); (clear e); rotate_right)
    | extract_lets +onlyGivenNames y
    | split
    | (with_reducible apply Keeps.foldlPair; rotate_left; intro u x; (try dsimp -zeta -proj -eta only); rotate_right)
    | (with_reducible apply Keeps.foldl; rotate_left; intro u x; (try dsimp -zeta -proj -eta only); rotate_right)
    | fail_if_no_progress (dsimp +zetaDelta -zeta -proj -eta only)
    | fail_if_no_progress (dsimp -zeta -eta only)

theorem doLifecycle_keeps :
    ∀ x0 s, Keeps s (doLifecycle x0 s) := by
  intro x0 s
  unfold doLifecycle
  repeat' first
    | with_reducible apply Keeps.refl
    | (apply Keeps.via; with_reducible apply runTransition_keeps)
    | (apply Keeps.ofFrame; with_reducible (first | apply success_frame | apply refuse_frame
                                                  | apply reportSecurity_frame); decide; decide)
    | split

theorem doMcRestart_keeps :
    ∀ s, Keeps s (doMcRestart s) := by
  intro s
  unfold doMcRestart
  repeat' first
    | with_reducible apply Keeps.refl
    | (apply Keeps.via; with_reducible apply memoryReport_keeps)
    | with_reducible apply Keeps.ite
    | fail_if_no_progress (apply Keeps.ofFrame; with_reducible (first | apply Frame.pewter | apply Frame.fw
                                                                      | apply Frame.bmc | apply Frame.fw_bmc
                                                                          | apply Frame.pewter_fw); decide; decide)

theorem doMma_keeps :
    ∀ x0 x1 x2 s, Keeps s (doMma x0 x1 x2 s) := by
  intro x0 x1 x2 s
  unfold doMma
  (try dsimp -proj -eta only)
  repeat' first
    | with_reducible apply Keeps.refl
    | (apply Keeps.via; (with_reducible apply modEngine_keeps);
       (intro x h; (try unfold Engine.count); (try dsimp -zeta -proj -eta only);
        (repeat' (first | (exact h) | (exact sample_ok _ _ _ _ _ (issue_ok _ _ h)) | (exact ⟨⟨h.1.1, h.1.2⟩, h.2⟩)
                        | (refine ⟨⟨?_, ?_⟩, ?_⟩ <;> (first | exact h.1.1 | exact h.1.2 | exact h.2
                                                            | exact store_empty_wf
                                                                | exact store_writeBytes_wf _ _ h.1.1
                                                                    | exact store_writeBytes_wf _ _ h.1.2)) |
                                                                        (extract_lets +onlyGivenNames y) | split))))
    | (apply Keeps.via; with_reducible (first | apply skewFault_keeps | apply engineFault_keeps))
    | split

theorem resetParts_keeps (s : State) : Keeps s { s with
      mem := { s.mem with lastFlush := 3 }
      ctrls := Vector.replicate 2 Controller.reset
      benches := Vector.replicate 512 Bench.reset
      flash := s.flash.map Flash.afterReset
      links := Vector.replicate 32 Link.reset
      pewter := { s.pewter.afterReset.loadOptions with brownout := s.pewter.brownout, secQueue := s.pewter.secQueue }
      sec := { s.sec with waiting := [], batchOpen := false, rebuilt := false, unlocked := false, rejected := 0 }
      power := { s.power with phase := .standby } } :=
  Keeps.sub (Keeps.refl s) (fun m => ⟨m.1, m.2.1, m.2.2⟩) id

theorem doModuleReset_keeps (s : State) : Keeps s (doModuleReset s) := by
  unfold doModuleReset
  have h1 : Keeps s (s.modPower fun p => { p with perstA := true, heldDeassert := none }) :=
    Keeps.ofFrame (modPower_frame _ _) (by decide) (by decide) (Keeps.refl s)
  refine Keeps.ite h1 ?_
  have h2 := Keeps.via (blank_keeps _)
      (Keeps.via (writeBackAll_keeps _) (Keeps.ofFrame (sendClose_frame _) (by decide)
    (by decide) (Keeps.via (endPrograms_keeps _) h1)))
  have h3 := Keeps.ofFrame (bootBank_frame _) (by decide) (by decide) (Keeps.via (resetParts_keeps _) h2)
  exact Keeps.ofFrame (Frame.bmc _ _) (by decide) (by decide) h3

theorem doMoldLoadValidated_keeps :
    ∀ s, Keeps s (doMoldLoadValidated s) := by
  intro s
  unfold doMoldLoadValidated
  repeat' first
    | with_reducible apply Keeps.refl
    | (apply Keeps.via; with_reducible apply takeForce_keeps)
    | (apply Keeps.ofFrame; with_reducible (first | apply moldInvalid_frame | apply modMold_frame
                                                  | apply success_frame); decide; decide)
    | extract_lets +onlyGivenNames y
    | split

theorem doNandEraseComplete_keeps :
    ∀ x0 x1 x2 x3 s, Keeps s (doNandEraseComplete x0 x1 x2 x3 s) := by
  intro x0 x1 x2 x3 s
  unfold doNandEraseComplete
  repeat' first
    | with_reducible apply Keeps.refl
    | (apply Keeps.via; with_reducible apply retireBlock_keeps)
    | (apply Keeps.ofFrame; with_reducible apply modFlash_frame; decide; decide)
    | split

theorem doNandProgramComplete_keeps :
    ∀ x0 x1 x2 x3 s, Keeps s (doNandProgramComplete x0 x1 x2 x3 s) := by
  intro x0 x1 x2 x3 s
  unfold doNandProgramComplete
  (try dsimp -proj -eta only)
  repeat' first
    | with_reducible apply Keeps.refl
    | (apply Keeps.via; with_reducible (first | apply streamPageDone_keeps | apply retireBlock_keeps))
    | (apply Keeps.ofFrame; with_reducible apply modFlash_frame; decide; decide)
    | split

theorem doNandSupplyRestored_keeps :
    ∀ x0 x1 s, Keeps s (doNandSupplyRestored x0 x1 s) := by
  intro x0 x1 s
  unfold doNandSupplyRestored
  repeat' first
    | with_reducible apply Keeps.refl
    | with_reducible assumption
    | (apply Keeps.via; with_reducible apply lineFailed_keeps)
    | (apply Keeps.ofFrame; with_reducible (first | apply resumeGets_frame | apply modFlash_frame
                                                  | apply modPower_frame); decide; decide)
    | with_reducible apply Keeps.ite
    | (extract_lets +onlyGivenNames x; clear_value (e : x = _); apply Keeps.cut x; (subst e); rotate_left;
       (intro h); (clear e); rotate_right)
    | extract_lets +onlyGivenNames y
    | split
    | (with_reducible apply Keeps.foldlPair; rotate_left; intro u x; (try dsimp -zeta -proj -eta only); rotate_right)
    | (with_reducible apply Keeps.foldl; rotate_left; intro u x; (try dsimp -zeta -proj -eta only); rotate_right)
    | fail_if_no_progress (dsimp +zetaDelta -zeta -proj -eta only)
    | fail_if_no_progress (dsimp -zeta -eta only)

theorem doNonpreOverrun_keeps :
    ∀ x0 x1 s, Keeps s (doNonpreOverrun x0 x1 s) := by
  intro x0 x1 s
  unfold doNonpreOverrun
  (try dsimp -proj -eta only)
  repeat' first
    | with_reducible apply Keeps.refl
    | (apply Keeps.via; (with_reducible apply modEngine_keeps);
       (intro x h; (try unfold Engine.count); (try dsimp -zeta -proj -eta only);
        (repeat' (first | (exact h) | (exact dropJob_ok h) | (exact ⟨⟨h.1.1, h.1.2⟩, h.2⟩)
                        | (refine ⟨⟨?_, ?_⟩, ?_⟩ <;> (first | exact h.1.1 | exact h.1.2 | exact h.2
                                                            | exact store_empty_wf
                                                                | exact store_writeBytes_wf _ _ h.1.1
                                                                    | exact store_writeBytes_wf _ _ h.1.2)) |
                                                                        (extract_lets +onlyGivenNames y) | split))))
    | (apply Keeps.via; with_reducible apply faultJob_keeps)
    | (apply Keeps.ofFrame; with_reducible (first | apply overrun_frame | apply charge_frame); decide; decide)
    | split
    | fail_if_no_progress (apply Keeps.ofFrame; with_reducible apply Frame.sched; decide; decide)

theorem doNpBegin_keeps :
    ∀ x0 x1 s, Keeps s (doNpBegin x0 x1 s) := by
  intro x0 x1 s
  unfold doNpBegin
  (try dsimp -proj -eta only)
  repeat' first
    | with_reducible apply Keeps.refl
    | (apply Keeps.via; (with_reducible apply modEngine_keeps);
       (intro x h; (try unfold Engine.count); (try dsimp -zeta -proj -eta only);
        (repeat' (first | (exact h) | (exact dropJob_ok h) | (exact ⟨⟨h.1.1, h.1.2⟩, h.2⟩)
                        | (refine ⟨⟨?_, ?_⟩, ?_⟩ <;> (first | exact h.1.1 | exact h.1.2 | exact h.2
                                                            | exact store_empty_wf
                                                                | exact store_writeBytes_wf _ _ h.1.1
                                                                    | exact store_writeBytes_wf _ _ h.1.2)) |
                                                                        (extract_lets +onlyGivenNames y) | split))))
    | (apply Keeps.via; with_reducible apply engineFault_keeps)
    | split

theorem doNpEnd_keeps :
    ∀ x0 s, Keeps s (doNpEnd x0 s) := by
  intro x0 s
  unfold doNpEnd
  (try dsimp -proj -eta only)
  repeat' first
    | with_reducible apply Keeps.refl
    | (apply Keeps.via; (with_reducible apply modEngine_keeps);
       (intro x h; (try unfold Engine.count); (try dsimp -zeta -proj -eta only);
        (repeat' (first | (exact h) | (exact dropJob_ok h) | (exact ⟨⟨h.1.1, h.1.2⟩, h.2⟩)
                        | (refine ⟨⟨?_, ?_⟩, ?_⟩ <;> (first | exact h.1.1 | exact h.1.2 | exact h.2
                                                            | exact store_empty_wf
                                                                | exact store_writeBytes_wf _ _ h.1.1
                                                                    | exact store_writeBytes_wf _ _ h.1.2)) |
                                                                        (extract_lets +onlyGivenNames y) | split))))
    | (apply Keeps.via; with_reducible (first | apply retryPreempt_keeps | apply engineFault_keeps))
    | split

theorem doObjectReadStart_keeps :
    ∀ x0 x1 s, Keeps s (doObjectReadStart x0 x1 s) := by
  intro x0 x1 s
  unfold doObjectReadStart
  repeat' first
    | with_reducible apply Keeps.refl
    | with_reducible assumption
    | (apply Keeps.via; with_reducible (first | apply endReading_keeps | apply dirtyMap_keeps
                                              | apply dirtyThrough_keeps))
    | (apply Keeps.ofFrame; with_reducible (first | apply chargeWork_frame | apply warnBlocked_frame
                                                  | apply modObj_frame | apply recountUsed_frame
                                                      | apply modFlash_frame | apply modBench_frame); decide; decide)
    | with_reducible apply Keeps.ite
    | (extract_lets +onlyGivenNames x; clear_value (e : x = _); apply Keeps.cut x; (subst e); rotate_left;
       (intro h); (clear e); rotate_right)
    | extract_lets +onlyGivenNames y
    | split
    | (with_reducible apply Keeps.foldlPair; rotate_left; intro u x; (try dsimp -zeta -proj -eta only); rotate_right)
    | (with_reducible apply Keeps.foldl; rotate_left; intro u x; (try dsimp -zeta -proj -eta only); rotate_right)
    | (refine Keeps.via ((dirtyThrough_keeps _ _ _ _).of_eq (congrArg Prod.fst (by assumption))) ?_)
    | fail_if_no_progress (dsimp +zetaDelta -zeta -proj -eta only)
    | fail_if_no_progress (dsimp -zeta -eta only)

theorem doPageRead_keeps :
    ∀ x0 x1 x2 x3 s, Keeps s (doPageRead x0 x1 x2 x3 s) := by
  intro x0 x1 x2 x3 s
  unfold doPageRead
  repeat' first
    | with_reducible apply Keeps.refl
    | (apply Keeps.via; with_reducible apply readFailed_keeps)
    | (apply Keeps.ofFrame; with_reducible (first | apply readSlow_frame | apply modFlash_frame); decide; decide)
    | with_reducible apply Keeps.ite
    | split

theorem doPerstADeassert_keeps :
    ∀ x0 x1 s, Keeps s (doPerstADeassert x0 x1 s) := by
  intro x0 x1 s
  unfold doPerstADeassert
  repeat' first
    | with_reducible apply Keeps.refl
    | (apply Keeps.via; with_reducible apply boot_keeps)
    | (apply Keeps.ofFrame; with_reducible apply modPower_frame; decide; decide)
    | with_reducible apply Keeps.ite

theorem doPerstBAssert_keeps :
    ∀ s, Keeps s (doPerstBAssert s) := by
  intro s
  unfold doPerstBAssert
  repeat' first
    | with_reducible apply Keeps.refl
    | (apply Keeps.via; with_reducible apply dropController_keeps)
    | (apply Keeps.ofFrame; with_reducible apply modPower_frame; decide; decide)
    | with_reducible apply Keeps.ite

theorem doPinRelease_keeps :
    ∀ x0 x1 x2 x3 s, Keeps s (doPinRelease x0 x1 x2 x3 s) := by
  intro x0 x1 x2 x3 s
  unfold doPinRelease
  repeat' first
    | with_reducible apply Keeps.refl
    | (apply Keeps.via; with_reducible apply dropUnpinned_keeps)
    | (apply Keeps.ofFrame; with_reducible apply modCache_frame; decide; decide)

theorem doPromotionComplete_keeps :
    ∀ x0 x1 s, Keeps s (doPromotionComplete x0 x1 s) := by
  intro x0 x1 s
  unfold doPromotionComplete
  repeat' first
    | with_reducible apply Keeps.refl
    | with_reducible assumption
    | (apply Keeps.via; with_reducible (first | apply writeGranules_keeps | apply dropUnpinned_keeps))
    | (apply Keeps.ofFrame; with_reducible (first | apply startRefetch_frame | apply modCache_frame
                                                  | apply markUnbound_frame); decide; decide)
    | with_reducible apply Keeps.ite
    | (extract_lets +onlyGivenNames x; clear_value (e : x = _); apply Keeps.cut x; (subst e); rotate_left;
       (intro h); (clear e); rotate_right)
    | extract_lets +onlyGivenNames y
    | split
    | (with_reducible apply Keeps.foldlPair; rotate_left; intro u x; (try dsimp -zeta -proj -eta only); rotate_right)
    | (with_reducible apply Keeps.foldl; rotate_left; intro u x; (try dsimp -zeta -proj -eta only); rotate_right)
    | fail_if_no_progress (dsimp +zetaDelta -zeta -proj -eta only)
    | fail_if_no_progress (dsimp -zeta -eta only)

theorem doPromotionWaitResume_keeps :
    ∀ x0 x1 s, Keeps s (doPromotionWaitResume x0 x1 s) := by
  intro x0 x1 s
  unfold doPromotionWaitResume
  repeat' first
    | with_reducible apply Keeps.refl
    | (apply Keeps.via; with_reducible (first | apply startStaging_keeps | apply promote_keeps))
    | (apply Keeps.ofFrame; with_reducible apply modCache_frame; decide; decide)
    | with_reducible apply Keeps.ite
    | split

theorem doRailBrownout_keeps :
    ∀ x0 s, Keeps s (doRailBrownout x0 s) := by
  intro x0 s
  unfold doRailBrownout
  repeat' first
    | with_reducible apply Keeps.refl
    | (apply Keeps.via; with_reducible apply powerOff_keeps)
    | (apply Keeps.ofFrame; with_reducible (first | apply doPewterBrownout_frame | apply resumeReads_frame
                                                  | apply nandFalls_frame | apply reportGeneral_frame
                                                      | apply doRecordWrite_frame | apply fresh_frame); decide;
                                                          decide)
    | split

theorem doRecastDrainComplete_keeps :
    ∀ s, Keeps s (doRecastDrainComplete s) := by
  intro s
  unfold doRecastDrainComplete
  repeat' first
    | with_reducible apply Keeps.refl
    | with_reducible assumption
    | (apply Keeps.via; with_reducible (first | apply drainEngine_keeps | apply applyRecast_keeps
                                              | apply annealMove_keeps))
    | (apply Keeps.ofFrame; with_reducible (first | apply drainWork_frame | apply applyShadows_frame
                                                  | apply modMold_frame); decide; decide)
    | with_reducible apply Keeps.ite
    | (extract_lets +onlyGivenNames x; clear_value (e : x = _); apply Keeps.cut x; (subst e); rotate_left;
       (intro h); (clear e); rotate_right)
    | extract_lets +onlyGivenNames y
    | split
    | (with_reducible apply Keeps.foldlPair; rotate_left; intro u x; (try dsimp -zeta -proj -eta only); rotate_right)
    | (with_reducible apply Keeps.foldl; rotate_left; intro u x; (try dsimp -zeta -proj -eta only); rotate_right)
    | fail_if_no_progress (dsimp +zetaDelta -zeta -proj -eta only)
    | fail_if_no_progress (dsimp -zeta -eta only)

theorem doRecastValidated_keeps :
    ∀ s, Keeps s (doRecastValidated s) := by
  intro s
  unfold doRecastValidated
  repeat' first
    | with_reducible apply Keeps.refl
    | (apply Keeps.via; with_reducible apply startDrain_keeps)
    | (apply Keeps.ofFrame; with_reducible (first | apply moldInvalid_frame | apply noteMoldError_frame
                                                  | apply forceRecast_frame | apply evalC0_frame
                                                      | apply modMold_frame); decide; decide)
    | with_reducible apply Keeps.ite
    | extract_lets +onlyGivenNames y
    | split
    | (with_reducible apply Keeps.foldl; rotate_left; intro u x; (try dsimp -zeta -proj -eta only); rotate_right)

theorem doRecordAppend_keeps :
    ∀ x0 x1 s, Keeps s (doRecordAppend x0 x1 s) := by
  intro x0 x1 s
  unfold doRecordAppend
  repeat' first
    | with_reducible apply Keeps.refl
    | with_reducible assumption
    | (apply Keeps.via; with_reducible (first | apply notInserted_keeps | apply append_keeps))
    | (apply Keeps.ofFrame; with_reducible (first | apply remake_frame | apply chargeWork_frame
                                                  | apply appendWaits_frame); decide; decide)
    | with_reducible apply Keeps.ite
    | (extract_lets +onlyGivenNames x; clear_value (e : x = _); apply Keeps.cut x; (subst e); rotate_left;
       (intro h); (clear e); rotate_right)
    | extract_lets +onlyGivenNames y
    | split
    | (with_reducible apply Keeps.foldlPair; rotate_left; intro u x; (try dsimp -zeta -proj -eta only); rotate_right)
    | (with_reducible apply Keeps.foldl; rotate_left; intro u x; (try dsimp -zeta -proj -eta only); rotate_right)
    | (refine Keeps.ofFrame ((appendWaits_frame _ _ _ _).of_eq (congrArg Prod.fst (by assumption))) (by decide) (by decide) ?_)
    | (refine Keeps.via ((append_keeps _ _ _).of_eq (congrArg Prod.fst (by assumption))) ?_)
    | fail_if_no_progress (apply Keeps.ofFrame; with_reducible apply Frame.search; decide; decide)
    | fail_if_no_progress (dsimp +zetaDelta -zeta -proj -eta only)
    | fail_if_no_progress (dsimp -zeta -eta only)

theorem doRefetchComplete_keeps :
    ∀ x0 x1 x2 x3 x4 x5 x6 s, Keeps s (doRefetchComplete x0 x1 x2 x3 x4 x5 x6 s) := by
  intro x0 x1 x2 x3 x4 x5 x6 s
  unfold doRefetchComplete
  repeat' first
    | with_reducible apply Keeps.refl
    | (apply Keeps.via; with_reducible (first | apply replaceGranule_keeps | apply hashMismatch_keeps
                                              | apply poisonIngot_keeps | apply endRefetch_keeps
                                                  | apply memoryReport_keeps))
    | (apply Keeps.ofFrame; with_reducible apply modCache_frame; decide; decide)
    | with_reducible apply Keeps.ite

theorem doRegisterRead_keeps :
    ∀ x0 x1 s, Keeps s (doRegisterRead x0 x1 s) := by
  intro x0 x1 s
  unfold doRegisterRead
  repeat' first
    | with_reducible apply Keeps.refl
    | (apply Keeps.via; with_reducible (first | apply read8_keeps | apply read4_keeps))
    | (apply Keeps.ofFrame; with_reducible (first | apply sendWord_frame | apply badAccess_frame); decide; decide)
    | with_reducible apply Keeps.ite

theorem doRegisterWrite_keeps :
    ∀ x0 x1 x2 s, Keeps s (doRegisterWrite x0 x1 x2 s) := by
  intro x0 x1 x2 s
  unfold doRegisterWrite
  repeat' first
    | with_reducible apply Keeps.refl
    | with_reducible assumption
    | (apply Keeps.via; with_reducible (first | apply writeBar2_keeps | apply writeBar0_keeps))
    | (apply Keeps.ofFrame; with_reducible (first | apply writePwt_frame | apply writeMsixControl_frame
                                                  | apply emit_frame | apply modCtrl_frame); decide; decide)
    | with_reducible apply Keeps.ite
    | (extract_lets +onlyGivenNames x; clear_value (e : x = _); apply Keeps.cut x; (subst e); rotate_left;
       (intro h); (clear e); rotate_right)
    | extract_lets +onlyGivenNames y
    | split
    | (with_reducible apply Keeps.foldlPair; rotate_left; intro u x; (try dsimp -zeta -proj -eta only); rotate_right)
    | (with_reducible apply Keeps.foldl; rotate_left; intro u x; (try dsimp -zeta -proj -eta only); rotate_right)
    | fail_if_no_progress (dsimp +zetaDelta -zeta -proj -eta only)
    | fail_if_no_progress (dsimp -zeta -eta only)

theorem doSchedulerArrival_keeps :
    ∀ x0 s, Keeps s (doSchedulerArrival x0 s) := by
  intro x0 s
  unfold doSchedulerArrival
  repeat' first
    | with_reducible apply Keeps.refl
    | (apply Keeps.via; with_reducible apply arrivalPreempt_keeps)
    | (apply Keeps.ofFrame; with_reducible (first | apply refuseEnvelope_frame | apply dropJob_frame
                                                  | apply modJob_frame); decide; decide)
    | split
    | fail_if_no_progress (apply Keeps.ofFrame; with_reducible apply Frame.sched; decide; decide)

theorem doSemAcq_keeps :
    ∀ x0 x1 s, Keeps s (doSemAcq x0 x1 s) := by
  intro x0 x1 s
  unfold doSemAcq
  repeat' first
    | with_reducible apply Keeps.refl
    | (apply Keeps.via; with_reducible (first | apply takeSem_keeps | apply engineFault_keeps))
    | (apply Keeps.ofFrame; with_reducible apply setSem_frame; decide; decide)
    | with_reducible apply Keeps.ite
    | split

theorem doSemAcquired_keeps :
    ∀ x0 x1 s, Keeps s (doSemAcquired x0 x1 s) := by
  intro x0 x1 s
  unfold doSemAcquired
  repeat' first
    | with_reducible apply Keeps.refl
    | (apply Keeps.via; with_reducible apply takeSem_keeps)
    | with_reducible apply Keeps.ite
    | split

theorem doSemOverrun_keeps :
    ∀ x0 x1 s, Keeps s (doSemOverrun x0 x1 s) := by
  intro x0 x1 s
  unfold doSemOverrun
  repeat' first
    | with_reducible apply Keeps.refl
    | (apply Keeps.via; with_reducible apply faultJob_keeps)
    | split

theorem doSemRel_keeps :
    ∀ x0 x1 s, Keeps s (doSemRel x0 x1 s) := by
  intro x0 x1 s
  unfold doSemRel
  repeat' first
    | with_reducible apply Keeps.refl
    | (apply Keeps.via; with_reducible (first | apply retryPreempt_keeps | apply nextWord_keeps
                                              | apply engineFault_keeps))
    | (apply Keeps.ofFrame; with_reducible apply setSem_frame; decide; decide)
    | with_reducible apply Keeps.ite
    | split

theorem doSetFeatures_keeps :
    ∀ x0 x1 s, Keeps s (doSetFeatures x0 x1 s) := by
  intro x0 x1 s
  unfold doSetFeatures
  repeat' first
    | with_reducible apply Keeps.refl
    | (apply Keeps.via; with_reducible apply followRequest_keeps)
    | (apply Keeps.ofFrame; with_reducible (first | apply nvmeInvalidField_frame | apply success_frame
                                                  | apply modCtrl_frame); decide; decide)
    | with_reducible apply Keeps.ite
    | split

theorem doSetmask_keeps :
    ∀ x0 x1 x2 x3 s, Keeps s (doSetmask x0 x1 x2 x3 s) := by
  intro x0 x1 x2 x3 s
  unfold doSetmask
  (try dsimp -proj -eta only)
  repeat' first
    | with_reducible apply Keeps.refl
    | (apply Keeps.via; (with_reducible apply modEngine_keeps);
       (intro x h; (try unfold Engine.count); (try dsimp -zeta -proj -eta only);
        (repeat' (first | (exact h) | (exact dropJob_ok h) | (exact ⟨⟨h.1.1, h.1.2⟩, h.2⟩)
                        | (refine ⟨⟨?_, ?_⟩, ?_⟩ <;> (first | exact h.1.1 | exact h.1.2 | exact h.2
                                                            | exact store_empty_wf
                                                                | exact store_writeBytes_wf _ _ h.1.1
                                                                    | exact store_writeBytes_wf _ _ h.1.2)) |
                                                                        (extract_lets +onlyGivenNames y) | split))))
    | (apply Keeps.via; with_reducible (first | apply engineFault_keeps | apply scratchUe_keeps))
    | split

theorem doStagingComplete_keeps :
    ∀ x0 x1 x2 s, Keeps s (doStagingComplete x0 x1 x2 s) := by
  intro x0 x1 x2 s
  unfold doStagingComplete
  repeat' first
    | with_reducible apply Keeps.refl
    | (apply Keeps.via; with_reducible (first | apply writeGranules_keeps | apply hashMismatch_keeps))
    | (apply Keeps.ofFrame; with_reducible apply modCache_frame; decide; decide)
    | with_reducible apply Keeps.ite
    | split

theorem doStandbyBootDone_keeps :
    ∀ s, Keeps s (doStandbyBootDone s) := by
  intro s
  unfold doStandbyBootDone
  repeat' first
    | with_reducible apply Keeps.refl
    | (apply Keeps.via; with_reducible apply boot_keeps)
    | (apply Keeps.ofFrame; with_reducible (first | apply loadOptions_frame | apply bootBank_frame
                                                  | apply modPower_frame); decide; decide)
    | extract_lets +onlyGivenNames y
    | split
    | fail_if_no_progress (apply Keeps.ofFrame; with_reducible apply Frame.bmc; decide; decide)

theorem doStrokeBoundary_keeps :
    ∀ x0 s, Keeps s (doStrokeBoundary x0 s) := by
  intro x0 s
  unfold doStrokeBoundary
  repeat' first
    | with_reducible apply Keeps.refl
    | with_reducible assumption
    | (apply Keeps.via; with_reducible apply boundary_keeps)
    | (apply Keeps.ofFrame; with_reducible (first | apply measurePhase_frame | apply countBoundary_frame); decide;
       decide)
    | with_reducible apply Keeps.ite
    | (extract_lets +onlyGivenNames x; clear_value (e : x = _); apply Keeps.cut x; (subst e); rotate_left;
       (intro h); (clear e); rotate_right)
    | extract_lets +onlyGivenNames y
    | split
    | (with_reducible apply Keeps.foldlPair; rotate_left; intro u x; (try dsimp -zeta -proj -eta only); rotate_right)
    | (with_reducible apply Keeps.foldl; rotate_left; intro u x; (try dsimp -zeta -proj -eta only); rotate_right)
    | fail_if_no_progress (dsimp +zetaDelta -zeta -proj -eta only)
    | fail_if_no_progress (dsimp -zeta -eta only)

theorem doTargetRead_keeps :
    ∀ x0 x1 s, Keeps s (doTargetRead x0 x1 s) := by
  intro x0 x1 s
  unfold doTargetRead
  repeat' first
    | with_reducible apply Keeps.refl
    | with_reducible assumption
    | (apply Keeps.via; with_reducible apply doRegisterRead_keeps)
    | (apply Keeps.ofFrame; with_reducible (first | apply doArrayRead_frame | apply sendWord_frame); decide; decide)
    | with_reducible apply Keeps.ite
    | (extract_lets +onlyGivenNames x; clear_value (e : x = _); apply Keeps.cut x; (subst e); rotate_left;
       (intro h); (clear e); rotate_right)
    | extract_lets +onlyGivenNames y
    | split
    | (with_reducible apply Keeps.foldlPair; rotate_left; intro u x; (try dsimp -zeta -proj -eta only); rotate_right)
    | (with_reducible apply Keeps.foldl; rotate_left; intro u x; (try dsimp -zeta -proj -eta only); rotate_right)
    | fail_if_no_progress (dsimp +zetaDelta -zeta -proj -eta only)
    | fail_if_no_progress (dsimp -zeta -eta only)

theorem doThermalSensorRead_keeps :
    ∀ x0 s, Keeps s (doThermalSensorRead x0 s) := by
  intro x0 s
  unfold doThermalSensorRead
  repeat' first
    | with_reducible apply Keeps.refl
    | with_reducible assumption
    | (apply Keeps.via; with_reducible apply trip_keeps)
    | (apply Keeps.ofFrame; with_reducible apply readSensors_frame; decide; decide)
    | (with_reducible apply withSmart_keeps; (try dsimp -zeta -proj -eta only))
    | (extract_lets +onlyGivenNames x; clear_value (e : x = _); apply Keeps.cut x; (subst e); rotate_left;
       (intro h); (clear e); rotate_right)
    | split

theorem doTouchstone_keeps :
    ∀ x0 x1 s, Keeps s (doTouchstone x0 x1 s) := by
  intro x0 x1 s
  unfold doTouchstone
  (try dsimp -proj -eta only)
  repeat' first
    | with_reducible apply Keeps.refl
    | (apply Keeps.via; (with_reducible apply modEngine_keeps);
       (intro x h; (try unfold Engine.count); (try dsimp -zeta -proj -eta only);
        (repeat' (first | (exact h) | (exact dropJob_ok h) | (exact ⟨⟨h.1.1, h.1.2⟩, h.2⟩)
                        | (refine ⟨⟨?_, ?_⟩, ?_⟩ <;> (first | exact h.1.1 | exact h.1.2 | exact h.2
                                                            | exact store_empty_wf
                                                                | exact store_writeBytes_wf _ _ h.1.1
                                                                    | exact store_writeBytes_wf _ _ h.1.2)) |
                                                                        (extract_lets +onlyGivenNames y) | split))))
    | (apply Keeps.via; with_reducible apply faultJob_keeps)
    | (apply Keeps.ofFrame; with_reducible (first | apply charge_frame | apply report_frame); decide; decide)
    | split

theorem doUnitComplete_keeps :
    ∀ x0 x1 x2 s, Keeps s (doUnitComplete x0 x1 x2 s) := by
  intro x0 x1 x2 s
  unfold doUnitComplete
  (try dsimp -proj -eta only)
  repeat' first
    | with_reducible apply Keeps.refl
    | (apply Keeps.via; with_reducible (first | apply unitStands_keeps | apply replayUnit_keeps
                                              | apply joinParts_keeps | apply chargeParts_keeps
                                                  | apply faultJob_keeps))
    | (apply Keeps.ofFrame; with_reducible (first | apply replayRecord_frame | apply charge_frame
                                                  | apply modJob_frame); decide; decide)
    | split
    | (with_reducible apply Keeps.foldl; rotate_left; intro u x; (try dsimp -zeta -proj -eta only); rotate_right)

theorem doUnitPlacement_keeps :
    ∀ x0 x1 s, Keeps s (doUnitPlacement x0 x1 s) := by
  intro x0 x1 s
  unfold doUnitPlacement
  (try dsimp -proj -eta only)
  repeat' first
    | with_reducible apply Keeps.refl
    | with_reducible assumption
    | (apply Keeps.via; with_reducible (first | apply faultJob_keeps | apply placeOn_keeps))
    | (apply Keeps.ofFrame; with_reducible (first | apply placeOnBench_frame | apply parts_frame
                                                  | apply modJob_frame); decide; decide)
    | with_reducible apply Keeps.ite
    | (extract_lets +onlyGivenNames x; clear_value (e : x = _); apply Keeps.cut x; (subst e); rotate_left;
       (intro h); (clear e); rotate_right)
    | extract_lets +onlyGivenNames y
    | split
    | (with_reducible apply Keeps.foldlPair; rotate_left; intro u x; (try dsimp -zeta -proj -eta only); rotate_right)
    | (with_reducible apply Keeps.foldl; rotate_left; intro u x; (try dsimp -zeta -proj -eta only); rotate_right)
    | (refine Keeps.ofFrame ((parts_frame _ _ _ _ _ _).of_eq (congrArg Prod.snd (by assumption))) (by decide) (by decide) ?_)
    | fail_if_no_progress (dsimp +zetaDelta -zeta -proj -eta only)
    | fail_if_no_progress (dsimp -zeta -eta only)

theorem doVcvt_keeps :
    ∀ x0 x1 s, Keeps s (doVcvt x0 x1 s) := by
  intro x0 x1 s
  unfold doVcvt
  repeat' first
    | with_reducible apply Keeps.refl
    | with_reducible assumption
    | (apply Keeps.via; with_reducible (first | apply skewFault_keeps | apply engineFault_keeps
                                              | apply convert_keeps | apply scratchUe_keeps))
    | with_reducible apply Keeps.ite
    | (extract_lets +onlyGivenNames x; clear_value (e : x = _); apply Keeps.cut x; (subst e); rotate_left;
       (intro h); (clear e); rotate_right)
    | extract_lets +onlyGivenNames y
    | split
    | (with_reducible apply Keeps.foldlPair; rotate_left; intro u x; (try dsimp -zeta -proj -eta only); rotate_right)
    | (with_reducible apply Keeps.foldl; rotate_left; intro u x; (try dsimp -zeta -proj -eta only); rotate_right)
    | fail_if_no_progress (dsimp +zetaDelta -zeta -proj -eta only)
    | fail_if_no_progress (dsimp -zeta -eta only)

theorem doVectorComplete_keeps :
    ∀ x0 s, Keeps s (doVectorComplete x0 s) := by
  intro x0 s
  unfold doVectorComplete
  (try dsimp -proj -eta only)
  repeat' first
    | with_reducible apply Keeps.refl
    | (apply Keeps.via; (with_reducible apply modEngine_keeps);
       (intro x h; (try unfold Engine.count); (try dsimp -zeta -proj -eta only);
        (repeat' (first | (exact h) | (exact dropJob_ok h) | (exact ⟨⟨h.1.1, h.1.2⟩, h.2⟩)
                        | (refine ⟨⟨?_, ?_⟩, ?_⟩ <;> (first | exact h.1.1 | exact h.1.2 | exact h.2
                                                            | exact store_empty_wf
                                                                | exact store_writeBytes_wf _ _ h.1.1
                                                                    | exact store_writeBytes_wf _ _ h.1.2)) |
                                                                        (extract_lets +onlyGivenNames y) | split))))

theorem doVop_keeps :
    ∀ x0 x1 s, Keeps s (doVop x0 x1 s) := by
  intro x0 x1 s
  unfold doVop
  (try dsimp -proj -eta only)
  repeat' first
    | with_reducible apply Keeps.refl
    | (apply Keeps.via; (with_reducible apply modEngine_keeps);
       (intro x h; (try unfold Engine.count); (try dsimp -zeta -proj -eta only);
        (repeat' (first | (exact h) | (exact vecIssue_ok _ _ ⟨flagBy_ok _ _ _ h.1, h.2⟩)
                        | (exact ⟨⟨h.1.1, h.1.2⟩, h.2⟩) |
                            (refine ⟨⟨?_, ?_⟩, ?_⟩ <;> (first | exact h.1.1 | exact h.1.2 | exact h.2
                                                              | exact store_empty_wf
                                                                  | exact store_writeBytes_wf _ _ h.1.1
                                                                      | exact store_writeBytes_wf _ _ h.1.2)) |
                                                                          (extract_lets +onlyGivenNames y) | split))))
    | (apply Keeps.via; with_reducible (first | apply engineFault_keeps | apply vecWrite_keeps
                                              | apply scratchUe_keeps))
    | (apply Keeps.ofFrame; with_reducible apply freshN_frame; decide; decide)
    | split

theorem doVred_keeps :
    ∀ x0 x1 s, Keeps s (doVred x0 x1 s) := by
  intro x0 x1 s
  unfold doVred
  (try dsimp -proj -eta only)
  repeat' first
    | with_reducible apply Keeps.refl
    | (apply Keeps.via; (with_reducible apply modEngine_keeps);
       (intro x h; (try unfold Engine.count); (try dsimp -zeta -proj -eta only);
        (repeat' (first | (exact h) | (exact vecIssue_ok _ _ ⟨flagBy_ok _ _ _ h.1, h.2⟩)
                        | (exact ⟨⟨h.1.1, h.1.2⟩, h.2⟩) |
                            (refine ⟨⟨?_, ?_⟩, ?_⟩ <;> (first | exact h.1.1 | exact h.1.2 | exact h.2
                                                              | exact store_empty_wf
                                                                  | exact store_writeBytes_wf _ _ h.1.1
                                                                      | exact store_writeBytes_wf _ _ h.1.2)) |
                                                                          (extract_lets +onlyGivenNames y) | split))))
    | (apply Keeps.via; with_reducible (first | apply engineFault_keeps | apply vecWrite_keeps
                                              | apply scratchUe_keeps))
    | (apply Keeps.ofFrame; with_reducible apply fresh_frame; decide; decide)
    | split

theorem doWearLevelMove_keeps :
    ∀ x0 x1 s, Keeps s (doWearLevelMove x0 x1 s) := by
  intro x0 x1 s
  unfold doWearLevelMove
  repeat' first
    | with_reducible apply Keeps.refl
    | (apply Keeps.via; with_reducible apply moveTo_keeps)
    | (apply Keeps.ofFrame; with_reducible apply modFlash_frame; decide; decide)
    | extract_lets +onlyGivenNames y
    | split

theorem doWriteBackGranule_keeps :
    ∀ x0 x1 x2 s, Keeps s (doWriteBackGranule x0 x1 x2 s) := by
  intro x0 x1 x2 s
  unfold doWriteBackGranule
  repeat' first
    | with_reducible apply Keeps.refl
    | with_reducible assumption
    | (apply Keeps.via; with_reducible apply granuleHome_keeps)
    | (apply Keeps.ofFrame; with_reducible apply chargeWork_frame; decide; decide)
    | with_reducible apply Keeps.ite
    | (extract_lets +onlyGivenNames x; clear_value (e : x = _); apply Keeps.cut x; (subst e); rotate_left;
       (intro h); (clear e); rotate_right)
    | extract_lets +onlyGivenNames y
    | split
    | (with_reducible apply Keeps.foldlPair; rotate_left; intro u x; (try dsimp -zeta -proj -eta only); rotate_right)
    | (with_reducible apply Keeps.foldl; rotate_left; intro u x; (try dsimp -zeta -proj -eta only); rotate_right)
    | (refine Keeps.ofFrame (programHome_frame _ _ _ _ (by assumption)) (by decide) (by decide) ?_)
    | (refine Keeps.ofFrame (Frame.getD (fun u h => programHome_frame _ _ _ u h)) (by decide) (by decide) ?_)
    | fail_if_no_progress (dsimp +zetaDelta -zeta -proj -eta only)
    | fail_if_no_progress (dsimp -zeta -eta only)

theorem doXfer_keeps :
    ∀ x0 x1 s, Keeps s (doXfer x0 x1 s) := by
  intro x0 x1 s
  unfold doXfer
  (try dsimp -proj -eta only)
  repeat' first
    | with_reducible apply Keeps.refl
    | (apply Keeps.via; (with_reducible apply modEngine_keeps);
       (intro x h; (try unfold Engine.count); (try dsimp -zeta -proj -eta only);
        (repeat' (first | (exact h) | (exact dropJob_ok h) | (exact ⟨⟨h.1.1, h.1.2⟩, h.2⟩)
                        | (refine ⟨⟨?_, ?_⟩, ?_⟩ <;> (first | exact h.1.1 | exact h.1.2 | exact h.2
                                                            | exact store_empty_wf
                                                                | exact store_writeBytes_wf _ _ h.1.1
                                                                    | exact store_writeBytes_wf _ _ h.1.2)) |
                                                                        (extract_lets +onlyGivenNames y) | split))))
    | (apply Keeps.via; with_reducible apply engineFault_keeps)
    | (apply Keeps.ofFrame; with_reducible apply takeCredit_frame; decide; decide)
    | split

theorem doXferComplete_keeps :
    ∀ x0 s, Keeps s (doXferComplete x0 s) := by
  intro x0 s
  unfold doXferComplete
  (try dsimp -proj -eta only)
  repeat' first
    | with_reducible apply Keeps.refl
    | with_reducible assumption
    | (apply Keeps.via; (with_reducible apply modEngine_keeps);
       (intro x h; (try unfold Engine.count); (try dsimp -zeta -proj -eta only);
        (repeat' (first | (exact h) | (exact dropJob_ok h) | (exact ⟨⟨h.1.1, h.1.2⟩, h.2⟩)
                        | (refine ⟨⟨?_, ?_⟩, ?_⟩ <;> (first | exact h.1.1 | exact h.1.2 | exact h.2
                                                            | exact store_empty_wf
                                                                | exact store_writeBytes_wf _ _ h.1.1
                                                                    | exact store_writeBytes_wf _ _ h.1.2)) |
                                                                        (extract_lets +onlyGivenNames y) | split))))
    | (apply Keeps.via; with_reducible (first | apply scratchUe_keeps | apply engineWrite_keeps))
    | (apply Keeps.ofFrame; with_reducible (first | apply touchRange_frame | apply startRefetch_frame
                                                  | apply returnCredit_frame | apply joinRefetch_frame); decide;
                                                      decide)
    | with_reducible apply Keeps.ite
    | (extract_lets +onlyGivenNames x; clear_value (e : x = _); apply Keeps.cut x; (subst e); rotate_left;
       (intro h); (clear e); rotate_right)
    | extract_lets +onlyGivenNames y
    | split
    | (with_reducible apply Keeps.foldlPair; rotate_left; intro u x; (try dsimp -zeta -proj -eta only); rotate_right)
    | (with_reducible apply Keeps.foldl; rotate_left; intro u x; (try dsimp -zeta -proj -eta only); rotate_right)
    | fail_if_no_progress (dsimp +zetaDelta -zeta -proj -eta only)
    | fail_if_no_progress (dsimp -zeta -eta only)

end Sys2Proof.Laws
end

