-- ==== Sys2Proof/Laws/PerInstr.lean ====
section
/-! SUPPORT. What well-formedness says of each command: its entry is well-formed, and the key it concerns is that of its
entry and names a queue of the module. -/

namespace Sys2Proof.Laws.WellFormed

open Sys2Proof

/-- Of a well-formed command: the entry is well-formed and its key is the command's; the queue exists at most up to 1,024;
the other operands are in range. -/
def Statement (i : Instr) : Prop :=
  i.wf = true →
    (∀ e, i.entry = some e → e.wf = true ∧ i.key = some e.key) ∧ (∀ k, i.key = some k → k.sqid ≤ 1024) ∧ i.ranged = true

theorem of_wf {i : Instr} (hk : ∀ e, i.entry = some e → i.key = some e.key) : Statement i := by
  intro h
  simp only [Instr.wf, Bool.and_eq_true] at h
  obtain ⟨⟨h1, h2⟩, h3⟩ := h
  refine ⟨fun e he => ⟨by simpa [he] using h1, hk e he⟩, fun k hk => ?_, h3⟩
  simpa [hk, Key.wf] using h2

theorem of_none {i : Instr} (h : i.entry = none) : Statement i := of_wf fun e he => by simp [h] at he

theorem inputGood : ∀ x0 x1, Statement (.inputGood x0 x1) := fun _ _ => of_none rfl
theorem standbyBootDone : Statement .standbyBootDone := of_none rfl
theorem inputPowerLost : ∀ x0 x1, Statement (.inputPowerLost x0 x1) := fun _ _ => of_none rfl
theorem moduleReset : Statement .moduleReset := of_none rfl
theorem perstADeassert : ∀ x0 x1, Statement (.perstADeassert x0 x1) := fun _ _ => of_none rfl
theorem linkTrainingComplete : ∀ x0, Statement (.linkTrainingComplete x0) := fun _ => of_none rfl
theorem internalBootEnd : ∀ x0, Statement (.internalBootEnd x0) := fun _ => of_none rfl
theorem perstBAssert : Statement .perstBAssert := of_none rfl
theorem functionLevelReset : ∀ x0, Statement (.functionLevelReset x0) := fun _ => of_none rfl
theorem controllerEnable : ∀ x0 x1 x2 x3, Statement (.controllerEnable x0 x1 x2 x3) := fun _ _ _ _ => of_none rfl
theorem controllerReady : ∀ x0, Statement (.controllerReady x0) := fun _ => of_none rfl
theorem controllerReset : ∀ x0, Statement (.controllerReset x0) := fun _ => of_none rfl
theorem controllerShutdown : ∀ x0 x1, Statement (.controllerShutdown x0 x1) := fun _ _ => of_none rfl
theorem sqTailDoorbell : ∀ x0 x1 x2, Statement (.sqTailDoorbell x0 x1 x2) := fun _ _ _ => of_none rfl
theorem cqHeadDoorbell : ∀ x0 x1 x2, Statement (.cqHeadDoorbell x0 x1 x2) := fun _ _ _ => of_none rfl
theorem submissionEntryFetched :
    ∀ x0, Statement (.submissionEntryFetched x0) :=
  fun _ => of_wf fun _ h => congrArg (Option.map Sqe.key) h
theorem fetchSlotsFreed : ∀ x0, Statement (.fetchSlotsFreed x0) := fun _ => of_none rfl
theorem hostReadPoisoned : ∀ x0, Statement (.hostReadPoisoned x0) := fun _ => of_none rfl
theorem hostReadTimeout : ∀ x0, Statement (.hostReadTimeout x0) := fun _ => of_none rfl
theorem schedulerArrival : ∀ x0, Statement (.schedulerArrival x0) := fun _ => of_none rfl
theorem msixVectorUnmask : ∀ x0 x1, Statement (.msixVectorUnmask x0 x1) := fun _ _ => of_none rfl
theorem ptmDialogIssue : Statement .ptmDialogIssue := of_none rfl
theorem ptmDialogComplete : ∀ x0 x1, Statement (.ptmDialogComplete x0 x1) := fun _ _ => of_none rfl
theorem spdmGetVersion : ∀ x0, Statement (.spdmGetVersion x0) := fun _ => of_none rfl
theorem spdmGetCapabilities : ∀ x0, Statement (.spdmGetCapabilities x0) := fun _ => of_none rfl
theorem spdmNegotiateAlgorithms : ∀ x0, Statement (.spdmNegotiateAlgorithms x0) := fun _ => of_none rfl
theorem spdmChallenge : ∀ x0 x1 x2, Statement (.spdmChallenge x0 x1 x2) := fun _ _ _ => of_none rfl
theorem spdmGetMeasurements : ∀ x0 x1 x2 x3, Statement (.spdmGetMeasurements x0 x1 x2 x3) := fun _ _ _ _ => of_none rfl
theorem spdmUnsupportedRequest : ∀ x0 x1, Statement (.spdmUnsupportedRequest x0 x1) := fun _ _ => of_none rfl
theorem ideKmQuery : ∀ x0 x1, Statement (.ideKmQuery x0 x1) := fun _ _ => of_none rfl
theorem ideKmKeyProg : ∀ x0 x1 x2, Statement (.ideKmKeyProg x0 x1 x2) := fun _ _ _ => of_none rfl
theorem ideKmKSetGo : ∀ x0 x1, Statement (.ideKmKSetGo x0 x1) := fun _ _ => of_none rfl
theorem ideKmKSetStop : ∀ x0 x1, Statement (.ideKmKSetStop x0 x1) := fun _ _ => of_none rfl
theorem identify : ∀ x0, Statement (.identify x0) := fun _ => of_wf fun _ h => congrArg (Option.map Sqe.key) h
theorem getLogPage :
    ∀ x0 x1, Statement (.getLogPage x0 x1) :=
  fun _ _ => of_wf fun _ h => congrArg (Option.map Sqe.key) h
theorem setFeatures :
    ∀ x0 x1, Statement (.setFeatures x0 x1) :=
  fun _ _ => of_wf fun _ h => congrArg (Option.map Sqe.key) h
theorem getFeatures : ∀ x0, Statement (.getFeatures x0) := fun _ => of_wf fun _ h => congrArg (Option.map Sqe.key) h
theorem abort : ∀ x0, Statement (.abort x0) := fun _ => of_wf fun _ h => congrArg (Option.map Sqe.key) h
theorem createIoSq : ∀ x0, Statement (.createIoSq x0) := fun _ => of_wf fun _ h => congrArg (Option.map Sqe.key) h
theorem createIoCq : ∀ x0, Statement (.createIoCq x0) := fun _ => of_wf fun _ h => congrArg (Option.map Sqe.key) h
theorem deleteIoSq : ∀ x0, Statement (.deleteIoSq x0) := fun _ => of_wf fun _ h => congrArg (Option.map Sqe.key) h
theorem deleteIoCq : ∀ x0, Statement (.deleteIoCq x0) := fun _ => of_wf fun _ h => congrArg (Option.map Sqe.key) h
theorem asyncEventRequest :
    ∀ x0, Statement (.asyncEventRequest x0) :=
  fun _ => of_wf fun _ h => congrArg (Option.map Sqe.key) h
theorem firmwareImageDownload :
    ∀ x0 x1, Statement (.firmwareImageDownload x0 x1) :=
  fun _ _ => of_wf fun _ h => congrArg (Option.map Sqe.key) h
theorem firmwareCommit :
    ∀ x0, Statement (.firmwareCommit x0) :=
  fun _ => of_wf fun _ h => congrArg (Option.map Sqe.key) h
theorem moldLoad : ∀ x0 x1, Statement (.moldLoad x0 x1) := fun _ _ => of_wf fun _ h => congrArg (Option.map Sqe.key) h
theorem moldLoadValidated : Statement .moldLoadValidated := of_none rfl
theorem recast : ∀ x0 x1, Statement (.recast x0 x1) := fun _ _ => of_wf fun _ h => congrArg (Option.map Sqe.key) h
theorem recastValidated : Statement .recastValidated := of_none rfl
theorem recastDrainComplete : Statement .recastDrainComplete := of_none rfl
theorem hallmarkGetStatus :
    ∀ x0, Statement (.hallmarkGetStatus x0) :=
  fun _ => of_wf fun _ h => congrArg (Option.map Sqe.key) h
theorem hallmarkGetRoots :
    ∀ x0, Statement (.hallmarkGetRoots x0) :=
  fun _ => of_wf fun _ h => congrArg (Option.map Sqe.key) h
theorem hallmarkGetAttest :
    ∀ x0, Statement (.hallmarkGetAttest x0) :=
  fun _ => of_wf fun _ h => congrArg (Option.map Sqe.key) h
theorem lifecycle : ∀ x0, Statement (.lifecycle x0) := fun _ => of_wf fun _ h => congrArg (Option.map Sqe.key) h
theorem burnish : ∀ x0, Statement (.burnish x0) := fun _ => of_wf fun _ h => congrArg (Option.map Sqe.key) h
theorem burnishComplete : ∀ x0 x1, Statement (.burnishComplete x0 x1) := fun _ _ => of_none rfl
theorem quench : ∀ x0, Statement (.quench x0) := fun _ => of_wf fun _ h => congrArg (Option.map Sqe.key) h
theorem schQuenchWrite : ∀ x0, Statement (.schQuenchWrite x0) := fun _ => of_none rfl
theorem jobQuenchStop : ∀ x0, Statement (.jobQuenchStop x0) := fun _ => of_none rfl
theorem objPut : ∀ x0 x1, Statement (.objPut x0 x1) := fun _ _ => of_wf fun _ h => congrArg (Option.map Sqe.key) h
theorem objPutDurable : ∀ x0, Statement (.objPutDurable x0) := fun _ => of_none rfl
theorem objGet :
    ∀ x0 x1 x2, Statement (.objGet x0 x1 x2) :=
  fun _ _ _ => of_wf fun _ h => congrArg (Option.map Sqe.key) h
theorem objDelete : ∀ x0, Statement (.objDelete x0) := fun _ => of_wf fun _ h => congrArg (Option.map Sqe.key) h
theorem objDeleteDurable : ∀ x0, Statement (.objDeleteDurable x0) := fun _ => of_none rfl
theorem objStat : ∀ x0, Statement (.objStat x0) := fun _ => of_wf fun _ h => congrArg (Option.map Sqe.key) h
theorem jobSubmit : ∀ x0 x1, Statement (.jobSubmit x0 x1) := fun _ _ => of_wf fun _ h => congrArg (Option.map Sqe.key) h
theorem jobStatus : ∀ x0, Statement (.jobStatus x0) := fun _ => of_wf fun _ h => congrArg (Option.map Sqe.key) h
theorem query : ∀ x0 x1, Statement (.query x0 x1) := fun _ _ => of_wf fun _ h => congrArg (Option.map Sqe.key) h
theorem ingotLoad : ∀ x0 x1, Statement (.ingotLoad x0 x1) := fun _ _ => of_wf fun _ h => congrArg (Option.map Sqe.key) h
theorem ingotValidationDone : ∀ x0, Statement (.ingotValidationDone x0) := fun _ => of_none rfl
theorem ingotLoadTimeout : ∀ x0, Statement (.ingotLoadTimeout x0) := fun _ => of_none rfl
theorem ingotDrop : ∀ x0, Statement (.ingotDrop x0) := fun _ => of_wf fun _ h => congrArg (Option.map Sqe.key) h
theorem ingotRemoved : ∀ x0, Statement (.ingotRemoved x0) := fun _ => of_none rfl
theorem strokeBoundary : ∀ x0, Statement (.strokeBoundary x0) := fun _ => of_none rfl
theorem referencePresent : Statement .referencePresent := of_none rfl
theorem referenceLost : Statement .referenceLost := of_none rfl
theorem gridLockAcquired : Statement .gridLockAcquired := of_none rfl
theorem holdoverExpiry : Statement .holdoverExpiry := of_none rfl
theorem powerTick : ∀ x0, Statement (.powerTick x0) := fun _ => of_none rfl
theorem unitPlacement : ∀ x0 x1, Statement (.unitPlacement x0 x1) := fun _ _ => of_none rfl
theorem unitComplete : ∀ x0 x1 x2, Statement (.unitComplete x0 x1 x2) := fun _ _ _ => of_none rfl
theorem enginePreempt : ∀ x0, Statement (.enginePreempt x0) := fun _ => of_none rfl
theorem contextSaveDone : ∀ x0, Statement (.contextSaveDone x0) := fun _ => of_none rfl
theorem contextRestoreDone : ∀ x0, Statement (.contextRestoreDone x0) := fun _ => of_none rfl
theorem benchPreempt : ∀ x0, Statement (.benchPreempt x0) := fun _ => of_none rfl
theorem jobFault : ∀ x0 x1, Statement (.jobFault x0 x1) := fun _ _ => of_none rfl
theorem nonpreOverrun : ∀ x0 x1, Statement (.nonpreOverrun x0 x1) := fun _ _ => of_none rfl
theorem semOverrun : ∀ x0 x1, Statement (.semOverrun x0 x1) := fun _ _ => of_none rfl
theorem jobTimeCap : ∀ x0, Statement (.jobTimeCap x0) := fun _ => of_none rfl
theorem releaseGateAnswer : ∀ x0, Statement (.releaseGateAnswer x0) := fun _ => of_none rfl
theorem mmaWs : ∀ x0 x1, Statement (.mmaWs x0 x1) := fun _ _ => of_none rfl
theorem mmaOs : ∀ x0 x1, Statement (.mmaOs x0 x1) := fun _ _ => of_none rfl
theorem feederSlotFill : ∀ x0 x1, Statement (.feederSlotFill x0 x1) := fun _ _ => of_none rfl
theorem arrayLastWrite : ∀ x0, Statement (.arrayLastWrite x0) := fun _ => of_none rfl
theorem setmask : ∀ x0 x1 x2 x3, Statement (.setmask x0 x1 x2 x3) := fun _ _ _ _ => of_none rfl
theorem vop : ∀ x0 x1, Statement (.vop x0 x1) := fun _ _ => of_none rfl
theorem vred : ∀ x0 x1, Statement (.vred x0 x1) := fun _ _ => of_none rfl
theorem vcvt : ∀ x0 x1, Statement (.vcvt x0 x1) := fun _ _ => of_none rfl
theorem xfer : ∀ x0 x1, Statement (.xfer x0 x1) := fun _ _ => of_none rfl
theorem xferComplete : ∀ x0, Statement (.xferComplete x0) := fun _ => of_none rfl
theorem br : ∀ x0 x1 x2, Statement (.br x0 x1 x2) := fun _ _ _ => of_none rfl
theorem semAcq : ∀ x0 x1, Statement (.semAcq x0 x1) := fun _ _ => of_none rfl
theorem semAcquired : ∀ x0 x1, Statement (.semAcquired x0 x1) := fun _ _ => of_none rfl
theorem semRel : ∀ x0 x1, Statement (.semRel x0 x1) := fun _ _ => of_none rfl
theorem npBegin : ∀ x0 x1, Statement (.npBegin x0 x1) := fun _ _ => of_none rfl
theorem npEnd : ∀ x0, Statement (.npEnd x0) := fun _ => of_none rfl
theorem fence : ∀ x0, Statement (.fence x0) := fun _ => of_none rfl
theorem illegalOpcode : ∀ x0 x1, Statement (.illegalOpcode x0 x1) := fun _ _ => of_none rfl
theorem touchstoneSampleDone : ∀ x0 x1, Statement (.touchstoneSampleDone x0 x1) := fun _ _ => of_none rfl
theorem refetchComplete :
    ∀ x0 x1 x2 x3 x4 x5 x6, Statement (.refetchComplete x0 x1 x2 x3 x4 x5 x6) :=
  fun _ _ _ _ _ _ _ => of_none rfl
theorem granuleReloadDone : ∀ x0 x1, Statement (.granuleReloadDone x0 x1) := fun _ _ => of_none rfl
theorem cacheStagingRequest : ∀ x0 x1, Statement (.cacheStagingRequest x0 x1) := fun _ _ => of_none rfl
theorem stagingComplete : ∀ x0 x1 x2, Statement (.stagingComplete x0 x1 x2) := fun _ _ _ => of_none rfl
theorem promotionRequest : ∀ x0 x1 x2 x3, Statement (.promotionRequest x0 x1 x2 x3) := fun _ _ _ _ => of_none rfl
theorem promotionComplete : ∀ x0 x1, Statement (.promotionComplete x0 x1) := fun _ _ => of_none rfl
theorem pinRelease : ∀ x0 x1 x2 x3, Statement (.pinRelease x0 x1 x2 x3) := fun _ _ _ _ => of_none rfl
theorem promotionWaitResume : ∀ x0 x1, Statement (.promotionWaitResume x0 x1) := fun _ _ => of_none rfl
theorem writeBackGranule : ∀ x0 x1, Statement (.writeBackGranule x0 x1) := fun _ _ => of_none rfl
theorem dirtyWriteResume : ∀ x0, Statement (.dirtyWriteResume x0) := fun _ => of_none rfl
theorem ceWindowStart : Statement .ceWindowStart := of_none rfl
theorem autoBurnishStart : ∀ x0, Statement (.autoBurnishStart x0) := fun _ => of_none rfl
theorem objectReadStart : ∀ x0, Statement (.objectReadStart x0) := fun _ => of_none rfl
theorem tokenBatchHandoff : ∀ x0 x1 x2, Statement (.tokenBatchHandoff x0 x1 x2) := fun _ _ _ => of_none rfl
theorem batchVectorsReturn : ∀ x0 x1, Statement (.batchVectorsReturn x0 x1) := fun _ _ => of_none rfl
theorem recordAppend : ∀ x0, Statement (.recordAppend x0) := fun _ => of_none rfl
theorem markWaitResume : ∀ x0, Statement (.markWaitResume x0) := fun _ => of_none rfl
theorem graphWalkComplete : ∀ x0 x1, Statement (.graphWalkComplete x0 x1) := fun _ _ => of_none rfl
theorem codePhaseComplete : ∀ x0 x1 x2, Statement (.codePhaseComplete x0 x1 x2) := fun _ _ _ => of_none rfl
theorem fetchPhaseComplete : ∀ x0 x1 x2 x3, Statement (.fetchPhaseComplete x0 x1 x2 x3) := fun _ _ _ _ => of_none rfl
theorem hitMerge : ∀ x0, Statement (.hitMerge x0) := fun _ => of_none rfl
theorem mendStart : ∀ x0, Statement (.mendStart x0) := fun _ => of_none rfl
theorem graphRepair : ∀ x0, Statement (.graphRepair x0) := fun _ => of_none rfl
theorem linkFrameTagFail : ∀ x0 x1, Statement (.linkFrameTagFail x0 x1) := fun _ _ => of_none rfl
theorem linkRetrain : ∀ x0, Statement (.linkRetrain x0) := fun _ => of_none rfl
theorem linkRetrainComplete : ∀ x0, Statement (.linkRetrainComplete x0) := fun _ => of_none rfl
theorem linkRekey : ∀ x0 x1, Statement (.linkRekey x0 x1) := fun _ _ => of_none rfl
theorem channelDieFailed : ∀ x0, Statement (.channelDieFailed x0) := fun _ => of_none rfl
theorem pageRead : ∀ x0 x1 x2 x3, Statement (.pageRead x0 x1 x2 x3) := fun _ _ _ _ => of_none rfl
theorem nandProgramComplete : ∀ x0 x1 x2 x3, Statement (.nandProgramComplete x0 x1 x2 x3) := fun _ _ _ _ => of_none rfl
theorem blockEraseStart : ∀ x0 x1, Statement (.blockEraseStart x0 x1) := fun _ _ => of_none rfl
theorem nandEraseComplete : ∀ x0 x1 x2 x3, Statement (.nandEraseComplete x0 x1 x2 x3) := fun _ _ _ _ => of_none rfl
theorem nandSuspend : ∀ x0 x1 x2, Statement (.nandSuspend x0 x1 x2) := fun _ _ _ => of_none rfl
theorem nandResume : ∀ x0 x1, Statement (.nandResume x0 x1) := fun _ _ => of_none rfl
theorem streamPageProgram : ∀ x0 x1 x2, Statement (.streamPageProgram x0 x1 x2) := fun _ _ _ => of_none rfl
theorem appendWaitResume : ∀ x0, Statement (.appendWaitResume x0) := fun _ => of_none rfl
theorem fold : ∀ x0, Statement (.fold x0) := fun _ => of_none rfl
theorem consolidation : ∀ x0 x1 x2, Statement (.consolidation x0 x1 x2) := fun _ _ _ => of_none rfl
theorem garbageCollection : ∀ x0, Statement (.garbageCollection x0) := fun _ => of_none rfl
theorem wearLevelMove : ∀ x0 x1, Statement (.wearLevelMove x0 x1) := fun _ _ => of_none rfl
theorem blockRefresh : ∀ x0 x1, Statement (.blockRefresh x0 x1) := fun _ _ => of_none rfl
theorem patrolRead : ∀ x0 x1, Statement (.patrolRead x0 x1) := fun _ _ => of_none rfl
theorem zqCalibration : ∀ x0 x1, Statement (.zqCalibration x0 x1) := fun _ _ => of_none rfl
theorem dqTraining : ∀ x0 x1 x2, Statement (.dqTraining x0 x1 x2) := fun _ _ _ => of_none rfl
theorem nandBrownout : ∀ x0, Statement (.nandBrownout x0) := fun _ => of_none rfl
theorem nandSupplyRestored : ∀ x0 x1, Statement (.nandSupplyRestored x0 x1) := fun _ _ => of_none rfl
theorem rawReadStart : ∀ x0, Statement (.rawReadStart x0) := fun _ => of_none rfl
theorem rawReadDone : ∀ x0 x1 x2, Statement (.rawReadDone x0 x1 x2) := fun _ _ _ => of_none rfl
theorem pwtUnlockWrite : ∀ x0, Statement (.pwtUnlockWrite x0) := fun _ => of_none rfl
theorem pwtAddrWrite : ∀ x0 x1, Statement (.pwtAddrWrite x0 x1) := fun _ _ => of_none rfl
theorem pwtDataWrite : ∀ x0 x1, Statement (.pwtDataWrite x0 x1) := fun _ _ => of_none rfl
theorem pwtBadCmd : ∀ x0 x1, Statement (.pwtBadCmd x0 x1) := fun _ _ => of_none rfl
theorem pageProgram : Statement .pageProgram := of_none rfl
theorem sectorErase : Statement .sectorErase := of_none rfl
theorem vaultProgram : Statement .vaultProgram := of_none rfl
theorem vaultZeroise : Statement .vaultZeroise := of_none rfl
theorem optProgram : Statement .optProgram := of_none rfl
theorem optErase : Statement .optErase := of_none rfl
theorem eraseSuspend : Statement .eraseSuspend := of_none rfl
theorem eraseSuspendComplete : Statement .eraseSuspendComplete := of_none rfl
theorem eraseResume : Statement .eraseResume := of_none rfl
theorem pwtOperationEnd : ∀ x0, Statement (.pwtOperationEnd x0) := fun _ => of_none rfl
theorem pwtSequenceTimeout : Statement .pwtSequenceTimeout := of_none rfl
theorem pwtLockoutExpiry : Statement .pwtLockoutExpiry := of_none rfl
theorem pewterBrownout : Statement .pewterBrownout := of_none rfl
theorem securityEventLogProgram : Statement .securityEventLogProgram := of_none rfl
theorem hallmarkRebuildDone : Statement .hallmarkRebuildDone := of_none rfl
theorem errorReport : ∀ x0 x1, Statement (.errorReport x0 x1) := fun _ _ => of_none rfl
theorem errorRecordWrite : ∀ x0, Statement (.errorRecordWrite x0) := fun _ => of_none rfl
theorem errRingAckWrite : ∀ x0 x1, Statement (.errRingAckWrite x0 x1) := fun _ _ => of_none rfl
theorem schCtrlWrite : ∀ x0, Statement (.schCtrlWrite x0) := fun _ => of_none rfl
theorem qtrMcCtrlWrite : ∀ x0 x1, Statement (.qtrMcCtrlWrite x0 x1) := fun _ _ => of_none rfl
theorem brnCtrlWrite : ∀ x0, Statement (.brnCtrlWrite x0) := fun _ => of_none rfl
theorem pwrCtrlWrite : ∀ x0, Statement (.pwrCtrlWrite x0) := fun _ => of_none rfl
theorem meCountClear : ∀ x0, Statement (.meCountClear x0) := fun _ => of_none rfl
theorem bnCountClear : ∀ x0, Statement (.bnCountClear x0) := fun _ => of_none rfl
theorem fmCountClear : ∀ x0, Statement (.fmCountClear x0) := fun _ => of_none rfl
theorem registerWrite : ∀ x0 x1 x2, Statement (.registerWrite x0 x1 x2) := fun _ _ _ => of_none rfl
theorem rcRegisterRead : ∀ x0 x1, Statement (.rcRegisterRead x0 x1) := fun _ _ => of_none rfl
theorem split64bitRead : ∀ x0, Statement (.split64bitRead x0) := fun _ => of_none rfl
theorem bar2BadAccess : ∀ x0 x1 x2, Statement (.bar2BadAccess x0 x1 x2) := fun _ _ _ => of_none rfl
theorem powerCap : ∀ x0, Statement (.powerCap x0) := fun _ => of_none rfl
theorem pwrBrakeAssert : Statement .pwrBrakeAssert := of_none rfl
theorem pwrBrakeDeassert : Statement .pwrBrakeDeassert := of_none rfl
theorem thermalSensorRead : ∀ x0, Statement (.thermalSensorRead x0) := fun _ => of_none rfl
theorem thermalEmergencyEnd : Statement .thermalEmergencyEnd := of_none rfl
theorem thermTripRelease : Statement .thermTripRelease := of_none rfl
theorem railBrownout : ∀ x0, Statement (.railBrownout x0) := fun _ => of_none rfl
theorem holdupCapacitanceCheck : ∀ x0, Statement (.holdupCapacitanceCheck x0) := fun _ => of_none rfl
theorem holdupOkChange : ∀ x0, Statement (.holdupOkChange x0) := fun _ => of_none rfl
theorem apstIdleExpiry : Statement .apstIdleExpiry := of_none rfl
theorem powerStateExitDone : Statement .powerStateExitDone := of_none rfl
theorem i3cSetdasa : ∀ x0, Statement (.i3cSetdasa x0) := fun _ => of_none rfl
theorem i3cEntdaa : ∀ x0, Statement (.i3cEntdaa x0) := fun _ => of_none rfl
theorem setEndpointId : ∀ x0, Statement (.setEndpointId x0) := fun _ => of_none rfl
theorem miReadDataStructure : ∀ x0 x1, Statement (.miReadDataStructure x0 x1) := fun _ _ => of_none rfl
theorem miSubsystemHealthPoll : ∀ x0, Statement (.miSubsystemHealthPoll x0) := fun _ => of_none rfl
theorem miControllerHealthPoll : ∀ x0, Statement (.miControllerHealthPoll x0) := fun _ => of_none rfl
theorem miConfigurationGet : ∀ x0, Statement (.miConfigurationGet x0) := fun _ => of_none rfl
theorem miConfigurationSet : ∀ x0 x1, Statement (.miConfigurationSet x0 x1) := fun _ _ => of_none rfl
theorem miVpdRead : ∀ x0 x1, Statement (.miVpdRead x0 x1) := fun _ _ => of_none rfl
theorem miVpdWrite : Statement .miVpdWrite := of_none rfl
theorem miAdminCommand :
    ∀ x0, Statement (.miAdminCommand x0) :=
  fun _ => of_wf fun _ h => congrArg (Option.map Sqe.key) h
theorem telemetry : Statement .telemetry := of_none rfl
theorem miQuench : ∀ x0, Statement (.miQuench x0) := fun _ => of_none rfl
theorem miUnsupportedCommand : ∀ x0, Statement (.miUnsupportedCommand x0) := fun _ => of_none rfl
theorem custodianFrame : ∀ x0, Statement (.custodianFrame x0) := fun _ => of_none rfl
theorem messageReassemblyTimeout : Statement .messageReassemblyTimeout := of_none rfl
theorem sessionInit : Statement .sessionInit := of_none rfl
theorem sessionInitResend : Statement .sessionInitResend := of_none rfl
theorem sessionAccept : ∀ x0, Statement (.sessionAccept x0) := fun _ => of_none rfl
theorem sessionReject : ∀ x0, Statement (.sessionReject x0) := fun _ => of_none rfl
theorem keyDeliver : ∀ x0 x1, Statement (.keyDeliver x0 x1) := fun _ _ => of_none rfl
theorem keyRevoke : ∀ x0, Statement (.keyRevoke x0) := fun _ => of_none rfl
theorem ping : Statement .ping := of_none rfl
theorem pong : Statement .pong := of_none rfl
theorem close : ∀ x0, Statement (.close x0) := fun _ => of_none rfl
theorem sessionIdlePing : Statement .sessionIdlePing := of_none rfl
theorem sessionTimeout : Statement .sessionTimeout := of_none rfl
theorem sessionBackoffExpiry : Statement .sessionBackoffExpiry := of_none rfl
theorem dbgToken : ∀ x0, Statement (.dbgToken x0) := fun _ => of_none rfl
theorem perstBDeassert : Statement .perstBDeassert := of_none rfl
theorem vectorInstructionComplete : ∀ x0, Statement (.vectorInstructionComplete x0) := fun _ => of_none rfl
theorem managementControllerRestart : Statement .managementControllerRestart := of_none rfl
theorem mctpMessageDiscard : ∀ x0, Statement (.mctpMessageDiscard x0) := fun _ => of_none rfl

end Sys2Proof.Laws.WellFormed
end

