-- ==== Sys2Proof/Laws/State.lean ====
section
/-! SUPPORT. One lemma for each field under each update of the state: what the update writes, and that every other field
stays. -/

namespace Sys2Proof.Laws

open Sys2Proof Sys2Proof.Machine

/-! ### modEngine -/

@[simp] theorem modEngine_get (s : State) (e : EngineId) (f : Engine → Engine) : (s.modEngine e f).engines[e] = f s.engines[e] := by
  simp [State.modEngine]

theorem modEngine_get_of_ne (s : State) {e i : EngineId} (f : Engine → Engine) (h : e ≠ i) :
    (s.modEngine e f).engines[i] = s.engines[i] := by
  have : e.val ≠ i.val := fun g => h (Fin.ext g)
  simp [State.modEngine, Vector.getElem_set_ne _ _ this]

section

variable (s : State) (e : EngineId) (f : Engine → Engine)

@[simp] theorem modEngine_power : (s.modEngine e f).power = s.power := rfl
@[simp] theorem modEngine_ctrls : (s.modEngine e f).ctrls = s.ctrls := rfl
@[simp] theorem modEngine_mold : (s.modEngine e f).mold = s.mold := rfl
@[simp] theorem modEngine_grid : (s.modEngine e f).grid = s.grid := rfl
@[simp] theorem modEngine_sched : (s.modEngine e f).sched = s.sched := rfl
@[simp] theorem modEngine_mem : (s.modEngine e f).mem = s.mem := rfl
@[simp] theorem modEngine_cache : (s.modEngine e f).cache = s.cache := rfl
@[simp] theorem modEngine_ingots : (s.modEngine e f).ingots = s.ingots := rfl
@[simp] theorem modEngine_search : (s.modEngine e f).search = s.search := rfl
@[simp] theorem modEngine_benches : (s.modEngine e f).benches = s.benches := rfl
@[simp] theorem modEngine_flash : (s.modEngine e f).flash = s.flash := rfl
@[simp] theorem modEngine_links : (s.modEngine e f).links = s.links := rfl
@[simp] theorem modEngine_pewter : (s.modEngine e f).pewter = s.pewter := rfl
@[simp] theorem modEngine_errors : (s.modEngine e f).errors = s.errors := rfl
@[simp] theorem modEngine_burnish : (s.modEngine e f).burnish = s.burnish := rfl
@[simp] theorem modEngine_sec : (s.modEngine e f).sec = s.sec := rfl
@[simp] theorem modEngine_fw : (s.modEngine e f).fw = s.fw := rfl
@[simp] theorem modEngine_bmc : (s.modEngine e f).bmc = s.bmc := rfl
@[simp] theorem modEngine_dev : (s.modEngine e f).dev = s.dev := rfl
@[simp] theorem modEngine_out : (s.modEngine e f).out = s.out := rfl
@[simp] theorem modEngine_clockUs : (s.modEngine e f).clockUs = s.clockUs := rfl
@[simp] theorem modEngine_free : (s.modEngine e f).free = s.free := rfl
@[simp] theorem modEngine_pending : (s.modEngine e f).pending = s.pending := rfl

end

/-! ### modBench -/

@[simp] theorem modBench_get (s : State) (b : BenchId) (f : Bench → Bench) : (s.modBench b f).benches[b] = f s.benches[b] := by
  simp [State.modBench]

theorem modBench_get_of_ne (s : State) {b i : BenchId} (f : Bench → Bench) (h : b ≠ i) :
    (s.modBench b f).benches[i] = s.benches[i] := by
  have : b.val ≠ i.val := fun g => h (Fin.ext g)
  simp [State.modBench, Vector.getElem_set_ne _ _ this]

section

variable (s : State) (b : BenchId) (f : Bench → Bench)

@[simp] theorem modBench_power : (s.modBench b f).power = s.power := rfl
@[simp] theorem modBench_ctrls : (s.modBench b f).ctrls = s.ctrls := rfl
@[simp] theorem modBench_mold : (s.modBench b f).mold = s.mold := rfl
@[simp] theorem modBench_grid : (s.modBench b f).grid = s.grid := rfl
@[simp] theorem modBench_sched : (s.modBench b f).sched = s.sched := rfl
@[simp] theorem modBench_engines : (s.modBench b f).engines = s.engines := rfl
@[simp] theorem modBench_mem : (s.modBench b f).mem = s.mem := rfl
@[simp] theorem modBench_cache : (s.modBench b f).cache = s.cache := rfl
@[simp] theorem modBench_ingots : (s.modBench b f).ingots = s.ingots := rfl
@[simp] theorem modBench_search : (s.modBench b f).search = s.search := rfl
@[simp] theorem modBench_flash : (s.modBench b f).flash = s.flash := rfl
@[simp] theorem modBench_links : (s.modBench b f).links = s.links := rfl
@[simp] theorem modBench_pewter : (s.modBench b f).pewter = s.pewter := rfl
@[simp] theorem modBench_errors : (s.modBench b f).errors = s.errors := rfl
@[simp] theorem modBench_burnish : (s.modBench b f).burnish = s.burnish := rfl
@[simp] theorem modBench_sec : (s.modBench b f).sec = s.sec := rfl
@[simp] theorem modBench_fw : (s.modBench b f).fw = s.fw := rfl
@[simp] theorem modBench_bmc : (s.modBench b f).bmc = s.bmc := rfl
@[simp] theorem modBench_dev : (s.modBench b f).dev = s.dev := rfl
@[simp] theorem modBench_out : (s.modBench b f).out = s.out := rfl
@[simp] theorem modBench_clockUs : (s.modBench b f).clockUs = s.clockUs := rfl
@[simp] theorem modBench_free : (s.modBench b f).free = s.free := rfl
@[simp] theorem modBench_pending : (s.modBench b f).pending = s.pending := rfl

end

/-! ### modFlash -/

@[simp] theorem modFlash_get (s : State) (b : BenchId) (f : Flash → Flash) : (s.modFlash b f).flash[b] = f s.flash[b] := by
  simp [State.modFlash]

theorem modFlash_get_of_ne (s : State) {b i : BenchId} (f : Flash → Flash) (h : b ≠ i) :
    (s.modFlash b f).flash[i] = s.flash[i] := by
  have : b.val ≠ i.val := fun g => h (Fin.ext g)
  simp [State.modFlash, Vector.getElem_set_ne _ _ this]

section

variable (s : State) (b : BenchId) (f : Flash → Flash)

@[simp] theorem modFlash_power : (s.modFlash b f).power = s.power := rfl
@[simp] theorem modFlash_ctrls : (s.modFlash b f).ctrls = s.ctrls := rfl
@[simp] theorem modFlash_mold : (s.modFlash b f).mold = s.mold := rfl
@[simp] theorem modFlash_grid : (s.modFlash b f).grid = s.grid := rfl
@[simp] theorem modFlash_sched : (s.modFlash b f).sched = s.sched := rfl
@[simp] theorem modFlash_engines : (s.modFlash b f).engines = s.engines := rfl
@[simp] theorem modFlash_mem : (s.modFlash b f).mem = s.mem := rfl
@[simp] theorem modFlash_cache : (s.modFlash b f).cache = s.cache := rfl
@[simp] theorem modFlash_ingots : (s.modFlash b f).ingots = s.ingots := rfl
@[simp] theorem modFlash_search : (s.modFlash b f).search = s.search := rfl
@[simp] theorem modFlash_benches : (s.modFlash b f).benches = s.benches := rfl
@[simp] theorem modFlash_links : (s.modFlash b f).links = s.links := rfl
@[simp] theorem modFlash_pewter : (s.modFlash b f).pewter = s.pewter := rfl
@[simp] theorem modFlash_errors : (s.modFlash b f).errors = s.errors := rfl
@[simp] theorem modFlash_burnish : (s.modFlash b f).burnish = s.burnish := rfl
@[simp] theorem modFlash_sec : (s.modFlash b f).sec = s.sec := rfl
@[simp] theorem modFlash_fw : (s.modFlash b f).fw = s.fw := rfl
@[simp] theorem modFlash_bmc : (s.modFlash b f).bmc = s.bmc := rfl
@[simp] theorem modFlash_dev : (s.modFlash b f).dev = s.dev := rfl
@[simp] theorem modFlash_out : (s.modFlash b f).out = s.out := rfl
@[simp] theorem modFlash_clockUs : (s.modFlash b f).clockUs = s.clockUs := rfl
@[simp] theorem modFlash_free : (s.modFlash b f).free = s.free := rfl
@[simp] theorem modFlash_pending : (s.modFlash b f).pending = s.pending := rfl

end

/-! ### modLink -/

@[simp] theorem modLink_get (s : State) (d : DieId) (f : Link → Link) : (s.modLink d f).links[d] = f s.links[d] := by
  simp [State.modLink]

theorem modLink_get_of_ne (s : State) {d i : DieId} (f : Link → Link) (h : d ≠ i) :
    (s.modLink d f).links[i] = s.links[i] := by
  have : d.val ≠ i.val := fun g => h (Fin.ext g)
  simp [State.modLink, Vector.getElem_set_ne _ _ this]

section

variable (s : State) (d : DieId) (f : Link → Link)

@[simp] theorem modLink_power : (s.modLink d f).power = s.power := rfl
@[simp] theorem modLink_ctrls : (s.modLink d f).ctrls = s.ctrls := rfl
@[simp] theorem modLink_mold : (s.modLink d f).mold = s.mold := rfl
@[simp] theorem modLink_grid : (s.modLink d f).grid = s.grid := rfl
@[simp] theorem modLink_sched : (s.modLink d f).sched = s.sched := rfl
@[simp] theorem modLink_engines : (s.modLink d f).engines = s.engines := rfl
@[simp] theorem modLink_mem : (s.modLink d f).mem = s.mem := rfl
@[simp] theorem modLink_cache : (s.modLink d f).cache = s.cache := rfl
@[simp] theorem modLink_ingots : (s.modLink d f).ingots = s.ingots := rfl
@[simp] theorem modLink_search : (s.modLink d f).search = s.search := rfl
@[simp] theorem modLink_benches : (s.modLink d f).benches = s.benches := rfl
@[simp] theorem modLink_flash : (s.modLink d f).flash = s.flash := rfl
@[simp] theorem modLink_pewter : (s.modLink d f).pewter = s.pewter := rfl
@[simp] theorem modLink_errors : (s.modLink d f).errors = s.errors := rfl
@[simp] theorem modLink_burnish : (s.modLink d f).burnish = s.burnish := rfl
@[simp] theorem modLink_sec : (s.modLink d f).sec = s.sec := rfl
@[simp] theorem modLink_fw : (s.modLink d f).fw = s.fw := rfl
@[simp] theorem modLink_bmc : (s.modLink d f).bmc = s.bmc := rfl
@[simp] theorem modLink_dev : (s.modLink d f).dev = s.dev := rfl
@[simp] theorem modLink_out : (s.modLink d f).out = s.out := rfl
@[simp] theorem modLink_clockUs : (s.modLink d f).clockUs = s.clockUs := rfl
@[simp] theorem modLink_free : (s.modLink d f).free = s.free := rfl
@[simp] theorem modLink_pending : (s.modLink d f).pending = s.pending := rfl

end

/-! ### modCtrl -/

@[simp] theorem modCtrl_get (s : State) (c : Ctrl) (f : Controller → Controller) : (s.modCtrl c f).ctrls[c] = f s.ctrls[c] := by
  simp [State.modCtrl]

theorem modCtrl_get_of_ne (s : State) {c i : Ctrl} (f : Controller → Controller) (h : c ≠ i) :
    (s.modCtrl c f).ctrls[i] = s.ctrls[i] := by
  have : c.val ≠ i.val := fun g => h (Fin.ext g)
  simp [State.modCtrl, Vector.getElem_set_ne _ _ this]

section

variable (s : State) (c : Ctrl) (f : Controller → Controller)

@[simp] theorem modCtrl_power : (s.modCtrl c f).power = s.power := rfl
@[simp] theorem modCtrl_mold : (s.modCtrl c f).mold = s.mold := rfl
@[simp] theorem modCtrl_grid : (s.modCtrl c f).grid = s.grid := rfl
@[simp] theorem modCtrl_sched : (s.modCtrl c f).sched = s.sched := rfl
@[simp] theorem modCtrl_engines : (s.modCtrl c f).engines = s.engines := rfl
@[simp] theorem modCtrl_mem : (s.modCtrl c f).mem = s.mem := rfl
@[simp] theorem modCtrl_cache : (s.modCtrl c f).cache = s.cache := rfl
@[simp] theorem modCtrl_ingots : (s.modCtrl c f).ingots = s.ingots := rfl
@[simp] theorem modCtrl_search : (s.modCtrl c f).search = s.search := rfl
@[simp] theorem modCtrl_benches : (s.modCtrl c f).benches = s.benches := rfl
@[simp] theorem modCtrl_flash : (s.modCtrl c f).flash = s.flash := rfl
@[simp] theorem modCtrl_links : (s.modCtrl c f).links = s.links := rfl
@[simp] theorem modCtrl_pewter : (s.modCtrl c f).pewter = s.pewter := rfl
@[simp] theorem modCtrl_errors : (s.modCtrl c f).errors = s.errors := rfl
@[simp] theorem modCtrl_burnish : (s.modCtrl c f).burnish = s.burnish := rfl
@[simp] theorem modCtrl_sec : (s.modCtrl c f).sec = s.sec := rfl
@[simp] theorem modCtrl_fw : (s.modCtrl c f).fw = s.fw := rfl
@[simp] theorem modCtrl_bmc : (s.modCtrl c f).bmc = s.bmc := rfl
@[simp] theorem modCtrl_dev : (s.modCtrl c f).dev = s.dev := rfl
@[simp] theorem modCtrl_out : (s.modCtrl c f).out = s.out := rfl
@[simp] theorem modCtrl_clockUs : (s.modCtrl c f).clockUs = s.clockUs := rfl
@[simp] theorem modCtrl_free : (s.modCtrl c f).free = s.free := rfl
@[simp] theorem modCtrl_pending : (s.modCtrl c f).pending = s.pending := rfl

end

/-! ### modCache -/

@[simp] theorem modCache_get (s : State) (q : QuarterId) (f : ModelCache → ModelCache) : (s.modCache q f).cache[q] = f s.cache[q] := by
  simp [State.modCache]

theorem modCache_get_of_ne (s : State) {q i : QuarterId} (f : ModelCache → ModelCache) (h : q ≠ i) :
    (s.modCache q f).cache[i] = s.cache[i] := by
  have : q.val ≠ i.val := fun g => h (Fin.ext g)
  simp [State.modCache, Vector.getElem_set_ne _ _ this]

section

variable (s : State) (q : QuarterId) (f : ModelCache → ModelCache)

@[simp] theorem modCache_power : (s.modCache q f).power = s.power := rfl
@[simp] theorem modCache_ctrls : (s.modCache q f).ctrls = s.ctrls := rfl
@[simp] theorem modCache_mold : (s.modCache q f).mold = s.mold := rfl
@[simp] theorem modCache_grid : (s.modCache q f).grid = s.grid := rfl
@[simp] theorem modCache_sched : (s.modCache q f).sched = s.sched := rfl
@[simp] theorem modCache_engines : (s.modCache q f).engines = s.engines := rfl
@[simp] theorem modCache_mem : (s.modCache q f).mem = s.mem := rfl
@[simp] theorem modCache_ingots : (s.modCache q f).ingots = s.ingots := rfl
@[simp] theorem modCache_search : (s.modCache q f).search = s.search := rfl
@[simp] theorem modCache_benches : (s.modCache q f).benches = s.benches := rfl
@[simp] theorem modCache_flash : (s.modCache q f).flash = s.flash := rfl
@[simp] theorem modCache_links : (s.modCache q f).links = s.links := rfl
@[simp] theorem modCache_pewter : (s.modCache q f).pewter = s.pewter := rfl
@[simp] theorem modCache_errors : (s.modCache q f).errors = s.errors := rfl
@[simp] theorem modCache_burnish : (s.modCache q f).burnish = s.burnish := rfl
@[simp] theorem modCache_sec : (s.modCache q f).sec = s.sec := rfl
@[simp] theorem modCache_fw : (s.modCache q f).fw = s.fw := rfl
@[simp] theorem modCache_bmc : (s.modCache q f).bmc = s.bmc := rfl
@[simp] theorem modCache_dev : (s.modCache q f).dev = s.dev := rfl
@[simp] theorem modCache_out : (s.modCache q f).out = s.out := rfl
@[simp] theorem modCache_clockUs : (s.modCache q f).clockUs = s.clockUs := rfl
@[simp] theorem modCache_free : (s.modCache q f).free = s.free := rfl
@[simp] theorem modCache_pending : (s.modCache q f).pending = s.pending := rfl

end

/-! ### modPower -/

@[simp] theorem modPower_power (s : State) (f : Power → Power) : (s.modPower f).power = f s.power := rfl
section

variable (s : State) (f : Power → Power)

@[simp] theorem modPower_ctrls : (s.modPower f).ctrls = s.ctrls := rfl
@[simp] theorem modPower_mold : (s.modPower f).mold = s.mold := rfl
@[simp] theorem modPower_grid : (s.modPower f).grid = s.grid := rfl
@[simp] theorem modPower_sched : (s.modPower f).sched = s.sched := rfl
@[simp] theorem modPower_engines : (s.modPower f).engines = s.engines := rfl
@[simp] theorem modPower_mem : (s.modPower f).mem = s.mem := rfl
@[simp] theorem modPower_cache : (s.modPower f).cache = s.cache := rfl
@[simp] theorem modPower_ingots : (s.modPower f).ingots = s.ingots := rfl
@[simp] theorem modPower_search : (s.modPower f).search = s.search := rfl
@[simp] theorem modPower_benches : (s.modPower f).benches = s.benches := rfl
@[simp] theorem modPower_flash : (s.modPower f).flash = s.flash := rfl
@[simp] theorem modPower_links : (s.modPower f).links = s.links := rfl
@[simp] theorem modPower_pewter : (s.modPower f).pewter = s.pewter := rfl
@[simp] theorem modPower_errors : (s.modPower f).errors = s.errors := rfl
@[simp] theorem modPower_burnish : (s.modPower f).burnish = s.burnish := rfl
@[simp] theorem modPower_sec : (s.modPower f).sec = s.sec := rfl
@[simp] theorem modPower_fw : (s.modPower f).fw = s.fw := rfl
@[simp] theorem modPower_bmc : (s.modPower f).bmc = s.bmc := rfl
@[simp] theorem modPower_dev : (s.modPower f).dev = s.dev := rfl
@[simp] theorem modPower_out : (s.modPower f).out = s.out := rfl
@[simp] theorem modPower_clockUs : (s.modPower f).clockUs = s.clockUs := rfl
@[simp] theorem modPower_free : (s.modPower f).free = s.free := rfl
@[simp] theorem modPower_pending : (s.modPower f).pending = s.pending := rfl

end

/-! ### modMold -/

@[simp] theorem modMold_mold (s : State) (f : MoldBlock → MoldBlock) : (s.modMold f).mold = f s.mold := rfl
section

variable (s : State) (f : MoldBlock → MoldBlock)

@[simp] theorem modMold_power : (s.modMold f).power = s.power := rfl
@[simp] theorem modMold_ctrls : (s.modMold f).ctrls = s.ctrls := rfl
@[simp] theorem modMold_grid : (s.modMold f).grid = s.grid := rfl
@[simp] theorem modMold_sched : (s.modMold f).sched = s.sched := rfl
@[simp] theorem modMold_engines : (s.modMold f).engines = s.engines := rfl
@[simp] theorem modMold_mem : (s.modMold f).mem = s.mem := rfl
@[simp] theorem modMold_cache : (s.modMold f).cache = s.cache := rfl
@[simp] theorem modMold_ingots : (s.modMold f).ingots = s.ingots := rfl
@[simp] theorem modMold_search : (s.modMold f).search = s.search := rfl
@[simp] theorem modMold_benches : (s.modMold f).benches = s.benches := rfl
@[simp] theorem modMold_flash : (s.modMold f).flash = s.flash := rfl
@[simp] theorem modMold_links : (s.modMold f).links = s.links := rfl
@[simp] theorem modMold_pewter : (s.modMold f).pewter = s.pewter := rfl
@[simp] theorem modMold_errors : (s.modMold f).errors = s.errors := rfl
@[simp] theorem modMold_burnish : (s.modMold f).burnish = s.burnish := rfl
@[simp] theorem modMold_sec : (s.modMold f).sec = s.sec := rfl
@[simp] theorem modMold_fw : (s.modMold f).fw = s.fw := rfl
@[simp] theorem modMold_bmc : (s.modMold f).bmc = s.bmc := rfl
@[simp] theorem modMold_dev : (s.modMold f).dev = s.dev := rfl
@[simp] theorem modMold_out : (s.modMold f).out = s.out := rfl
@[simp] theorem modMold_clockUs : (s.modMold f).clockUs = s.clockUs := rfl
@[simp] theorem modMold_free : (s.modMold f).free = s.free := rfl
@[simp] theorem modMold_pending : (s.modMold f).pending = s.pending := rfl

end

/-! ### modGrid -/

@[simp] theorem modGrid_grid (s : State) (f : Grid → Grid) : (s.modGrid f).grid = f s.grid := rfl
section

variable (s : State) (f : Grid → Grid)

@[simp] theorem modGrid_power : (s.modGrid f).power = s.power := rfl
@[simp] theorem modGrid_ctrls : (s.modGrid f).ctrls = s.ctrls := rfl
@[simp] theorem modGrid_mold : (s.modGrid f).mold = s.mold := rfl
@[simp] theorem modGrid_sched : (s.modGrid f).sched = s.sched := rfl
@[simp] theorem modGrid_engines : (s.modGrid f).engines = s.engines := rfl
@[simp] theorem modGrid_mem : (s.modGrid f).mem = s.mem := rfl
@[simp] theorem modGrid_cache : (s.modGrid f).cache = s.cache := rfl
@[simp] theorem modGrid_ingots : (s.modGrid f).ingots = s.ingots := rfl
@[simp] theorem modGrid_search : (s.modGrid f).search = s.search := rfl
@[simp] theorem modGrid_benches : (s.modGrid f).benches = s.benches := rfl
@[simp] theorem modGrid_flash : (s.modGrid f).flash = s.flash := rfl
@[simp] theorem modGrid_links : (s.modGrid f).links = s.links := rfl
@[simp] theorem modGrid_pewter : (s.modGrid f).pewter = s.pewter := rfl
@[simp] theorem modGrid_errors : (s.modGrid f).errors = s.errors := rfl
@[simp] theorem modGrid_burnish : (s.modGrid f).burnish = s.burnish := rfl
@[simp] theorem modGrid_sec : (s.modGrid f).sec = s.sec := rfl
@[simp] theorem modGrid_fw : (s.modGrid f).fw = s.fw := rfl
@[simp] theorem modGrid_bmc : (s.modGrid f).bmc = s.bmc := rfl
@[simp] theorem modGrid_dev : (s.modGrid f).dev = s.dev := rfl
@[simp] theorem modGrid_out : (s.modGrid f).out = s.out := rfl
@[simp] theorem modGrid_clockUs : (s.modGrid f).clockUs = s.clockUs := rfl
@[simp] theorem modGrid_free : (s.modGrid f).free = s.free := rfl
@[simp] theorem modGrid_pending : (s.modGrid f).pending = s.pending := rfl

end

/-! ### modBmc -/

@[simp] theorem modBmc_bmc (s : State) (f : Bmc → Bmc) : (s.modBmc f).bmc = f s.bmc := rfl
section

variable (s : State) (f : Bmc → Bmc)

@[simp] theorem modBmc_power : (s.modBmc f).power = s.power := rfl
@[simp] theorem modBmc_ctrls : (s.modBmc f).ctrls = s.ctrls := rfl
@[simp] theorem modBmc_mold : (s.modBmc f).mold = s.mold := rfl
@[simp] theorem modBmc_grid : (s.modBmc f).grid = s.grid := rfl
@[simp] theorem modBmc_sched : (s.modBmc f).sched = s.sched := rfl
@[simp] theorem modBmc_engines : (s.modBmc f).engines = s.engines := rfl
@[simp] theorem modBmc_mem : (s.modBmc f).mem = s.mem := rfl
@[simp] theorem modBmc_cache : (s.modBmc f).cache = s.cache := rfl
@[simp] theorem modBmc_ingots : (s.modBmc f).ingots = s.ingots := rfl
@[simp] theorem modBmc_search : (s.modBmc f).search = s.search := rfl
@[simp] theorem modBmc_benches : (s.modBmc f).benches = s.benches := rfl
@[simp] theorem modBmc_flash : (s.modBmc f).flash = s.flash := rfl
@[simp] theorem modBmc_links : (s.modBmc f).links = s.links := rfl
@[simp] theorem modBmc_pewter : (s.modBmc f).pewter = s.pewter := rfl
@[simp] theorem modBmc_errors : (s.modBmc f).errors = s.errors := rfl
@[simp] theorem modBmc_burnish : (s.modBmc f).burnish = s.burnish := rfl
@[simp] theorem modBmc_sec : (s.modBmc f).sec = s.sec := rfl
@[simp] theorem modBmc_fw : (s.modBmc f).fw = s.fw := rfl
@[simp] theorem modBmc_dev : (s.modBmc f).dev = s.dev := rfl
@[simp] theorem modBmc_out : (s.modBmc f).out = s.out := rfl
@[simp] theorem modBmc_clockUs : (s.modBmc f).clockUs = s.clockUs := rfl
@[simp] theorem modBmc_free : (s.modBmc f).free = s.free := rfl
@[simp] theorem modBmc_pending : (s.modBmc f).pending = s.pending := rfl

end

/-! ### modJob -/

section

variable (s : State) (k : Key) (f : Job → Job)

@[simp] theorem modJob_power : (s.modJob k f).power = s.power := rfl
@[simp] theorem modJob_ctrls : (s.modJob k f).ctrls = s.ctrls := rfl
@[simp] theorem modJob_mold : (s.modJob k f).mold = s.mold := rfl
@[simp] theorem modJob_grid : (s.modJob k f).grid = s.grid := rfl
@[simp] theorem modJob_engines : (s.modJob k f).engines = s.engines := rfl
@[simp] theorem modJob_mem : (s.modJob k f).mem = s.mem := rfl
@[simp] theorem modJob_cache : (s.modJob k f).cache = s.cache := rfl
@[simp] theorem modJob_ingots : (s.modJob k f).ingots = s.ingots := rfl
@[simp] theorem modJob_search : (s.modJob k f).search = s.search := rfl
@[simp] theorem modJob_benches : (s.modJob k f).benches = s.benches := rfl
@[simp] theorem modJob_flash : (s.modJob k f).flash = s.flash := rfl
@[simp] theorem modJob_links : (s.modJob k f).links = s.links := rfl
@[simp] theorem modJob_pewter : (s.modJob k f).pewter = s.pewter := rfl
@[simp] theorem modJob_errors : (s.modJob k f).errors = s.errors := rfl
@[simp] theorem modJob_burnish : (s.modJob k f).burnish = s.burnish := rfl
@[simp] theorem modJob_sec : (s.modJob k f).sec = s.sec := rfl
@[simp] theorem modJob_fw : (s.modJob k f).fw = s.fw := rfl
@[simp] theorem modJob_bmc : (s.modJob k f).bmc = s.bmc := rfl
@[simp] theorem modJob_dev : (s.modJob k f).dev = s.dev := rfl
@[simp] theorem modJob_out : (s.modJob k f).out = s.out := rfl
@[simp] theorem modJob_clockUs : (s.modJob k f).clockUs = s.clockUs := rfl
@[simp] theorem modJob_free : (s.modJob k f).free = s.free := rfl
@[simp] theorem modJob_pending : (s.modJob k f).pending = s.pending := rfl

end

/-! ### dropJob -/

section

variable (s : State) (k : Key)

@[simp] theorem dropJob_power : (s.dropJob k).power = s.power := rfl
@[simp] theorem dropJob_ctrls : (s.dropJob k).ctrls = s.ctrls := rfl
@[simp] theorem dropJob_mold : (s.dropJob k).mold = s.mold := rfl
@[simp] theorem dropJob_grid : (s.dropJob k).grid = s.grid := rfl
@[simp] theorem dropJob_engines : (s.dropJob k).engines = s.engines := rfl
@[simp] theorem dropJob_mem : (s.dropJob k).mem = s.mem := rfl
@[simp] theorem dropJob_cache : (s.dropJob k).cache = s.cache := rfl
@[simp] theorem dropJob_ingots : (s.dropJob k).ingots = s.ingots := rfl
@[simp] theorem dropJob_search : (s.dropJob k).search = s.search := rfl
@[simp] theorem dropJob_benches : (s.dropJob k).benches = s.benches := rfl
@[simp] theorem dropJob_flash : (s.dropJob k).flash = s.flash := rfl
@[simp] theorem dropJob_links : (s.dropJob k).links = s.links := rfl
@[simp] theorem dropJob_pewter : (s.dropJob k).pewter = s.pewter := rfl
@[simp] theorem dropJob_errors : (s.dropJob k).errors = s.errors := rfl
@[simp] theorem dropJob_burnish : (s.dropJob k).burnish = s.burnish := rfl
@[simp] theorem dropJob_sec : (s.dropJob k).sec = s.sec := rfl
@[simp] theorem dropJob_fw : (s.dropJob k).fw = s.fw := rfl
@[simp] theorem dropJob_bmc : (s.dropJob k).bmc = s.bmc := rfl
@[simp] theorem dropJob_dev : (s.dropJob k).dev = s.dev := rfl
@[simp] theorem dropJob_out : (s.dropJob k).out = s.out := rfl
@[simp] theorem dropJob_clockUs : (s.dropJob k).clockUs = s.clockUs := rfl
@[simp] theorem dropJob_free : (s.dropJob k).free = s.free := rfl
@[simp] theorem dropJob_pending : (s.dropJob k).pending = s.pending := rfl

end

/-! ### modIngot -/

section

variable (s : State) (i : Nat) (f : Ingot → Ingot)

@[simp] theorem modIngot_power : (s.modIngot i f).power = s.power := rfl
@[simp] theorem modIngot_ctrls : (s.modIngot i f).ctrls = s.ctrls := rfl
@[simp] theorem modIngot_mold : (s.modIngot i f).mold = s.mold := rfl
@[simp] theorem modIngot_grid : (s.modIngot i f).grid = s.grid := rfl
@[simp] theorem modIngot_sched : (s.modIngot i f).sched = s.sched := rfl
@[simp] theorem modIngot_engines : (s.modIngot i f).engines = s.engines := rfl
@[simp] theorem modIngot_mem : (s.modIngot i f).mem = s.mem := rfl
@[simp] theorem modIngot_cache : (s.modIngot i f).cache = s.cache := rfl
@[simp] theorem modIngot_search : (s.modIngot i f).search = s.search := rfl
@[simp] theorem modIngot_benches : (s.modIngot i f).benches = s.benches := rfl
@[simp] theorem modIngot_flash : (s.modIngot i f).flash = s.flash := rfl
@[simp] theorem modIngot_links : (s.modIngot i f).links = s.links := rfl
@[simp] theorem modIngot_pewter : (s.modIngot i f).pewter = s.pewter := rfl
@[simp] theorem modIngot_errors : (s.modIngot i f).errors = s.errors := rfl
@[simp] theorem modIngot_burnish : (s.modIngot i f).burnish = s.burnish := rfl
@[simp] theorem modIngot_sec : (s.modIngot i f).sec = s.sec := rfl
@[simp] theorem modIngot_fw : (s.modIngot i f).fw = s.fw := rfl
@[simp] theorem modIngot_bmc : (s.modIngot i f).bmc = s.bmc := rfl
@[simp] theorem modIngot_dev : (s.modIngot i f).dev = s.dev := rfl
@[simp] theorem modIngot_out : (s.modIngot i f).out = s.out := rfl
@[simp] theorem modIngot_clockUs : (s.modIngot i f).clockUs = s.clockUs := rfl
@[simp] theorem modIngot_free : (s.modIngot i f).free = s.free := rfl
@[simp] theorem modIngot_pending : (s.modIngot i f).pending = s.pending := rfl

end

/-! ### modObj -/

section

variable (s : State) (i : Nat) (f : Obj → Obj)

@[simp] theorem modObj_power : (s.modObj i f).power = s.power := rfl
@[simp] theorem modObj_ctrls : (s.modObj i f).ctrls = s.ctrls := rfl
@[simp] theorem modObj_mold : (s.modObj i f).mold = s.mold := rfl
@[simp] theorem modObj_grid : (s.modObj i f).grid = s.grid := rfl
@[simp] theorem modObj_sched : (s.modObj i f).sched = s.sched := rfl
@[simp] theorem modObj_engines : (s.modObj i f).engines = s.engines := rfl
@[simp] theorem modObj_mem : (s.modObj i f).mem = s.mem := rfl
@[simp] theorem modObj_cache : (s.modObj i f).cache = s.cache := rfl
@[simp] theorem modObj_ingots : (s.modObj i f).ingots = s.ingots := rfl
@[simp] theorem modObj_benches : (s.modObj i f).benches = s.benches := rfl
@[simp] theorem modObj_flash : (s.modObj i f).flash = s.flash := rfl
@[simp] theorem modObj_links : (s.modObj i f).links = s.links := rfl
@[simp] theorem modObj_pewter : (s.modObj i f).pewter = s.pewter := rfl
@[simp] theorem modObj_errors : (s.modObj i f).errors = s.errors := rfl
@[simp] theorem modObj_burnish : (s.modObj i f).burnish = s.burnish := rfl
@[simp] theorem modObj_sec : (s.modObj i f).sec = s.sec := rfl
@[simp] theorem modObj_fw : (s.modObj i f).fw = s.fw := rfl
@[simp] theorem modObj_bmc : (s.modObj i f).bmc = s.bmc := rfl
@[simp] theorem modObj_dev : (s.modObj i f).dev = s.dev := rfl
@[simp] theorem modObj_out : (s.modObj i f).out = s.out := rfl
@[simp] theorem modObj_clockUs : (s.modObj i f).clockUs = s.clockUs := rfl
@[simp] theorem modObj_free : (s.modObj i f).free = s.free := rfl
@[simp] theorem modObj_pending : (s.modObj i f).pending = s.pending := rfl

end

/-! ### modColl -/

section

variable (s : State) (i : Nat) (f : Coll → Coll)

@[simp] theorem modColl_power : (s.modColl i f).power = s.power := rfl
@[simp] theorem modColl_ctrls : (s.modColl i f).ctrls = s.ctrls := rfl
@[simp] theorem modColl_mold : (s.modColl i f).mold = s.mold := rfl
@[simp] theorem modColl_grid : (s.modColl i f).grid = s.grid := rfl
@[simp] theorem modColl_sched : (s.modColl i f).sched = s.sched := rfl
@[simp] theorem modColl_engines : (s.modColl i f).engines = s.engines := rfl
@[simp] theorem modColl_mem : (s.modColl i f).mem = s.mem := rfl
@[simp] theorem modColl_cache : (s.modColl i f).cache = s.cache := rfl
@[simp] theorem modColl_ingots : (s.modColl i f).ingots = s.ingots := rfl
@[simp] theorem modColl_benches : (s.modColl i f).benches = s.benches := rfl
@[simp] theorem modColl_flash : (s.modColl i f).flash = s.flash := rfl
@[simp] theorem modColl_links : (s.modColl i f).links = s.links := rfl
@[simp] theorem modColl_pewter : (s.modColl i f).pewter = s.pewter := rfl
@[simp] theorem modColl_errors : (s.modColl i f).errors = s.errors := rfl
@[simp] theorem modColl_burnish : (s.modColl i f).burnish = s.burnish := rfl
@[simp] theorem modColl_sec : (s.modColl i f).sec = s.sec := rfl
@[simp] theorem modColl_fw : (s.modColl i f).fw = s.fw := rfl
@[simp] theorem modColl_bmc : (s.modColl i f).bmc = s.bmc := rfl
@[simp] theorem modColl_dev : (s.modColl i f).dev = s.dev := rfl
@[simp] theorem modColl_out : (s.modColl i f).out = s.out := rfl
@[simp] theorem modColl_clockUs : (s.modColl i f).clockUs = s.clockUs := rfl
@[simp] theorem modColl_free : (s.modColl i f).free = s.free := rfl
@[simp] theorem modColl_pending : (s.modColl i f).pending = s.pending := rfl

end

/-! ### modList -/

section

variable (s : State) (n : Nat) (f : Lst → Lst)

@[simp] theorem modList_power : (s.modList n f).power = s.power := rfl
@[simp] theorem modList_ctrls : (s.modList n f).ctrls = s.ctrls := rfl
@[simp] theorem modList_mold : (s.modList n f).mold = s.mold := rfl
@[simp] theorem modList_grid : (s.modList n f).grid = s.grid := rfl
@[simp] theorem modList_sched : (s.modList n f).sched = s.sched := rfl
@[simp] theorem modList_engines : (s.modList n f).engines = s.engines := rfl
@[simp] theorem modList_mem : (s.modList n f).mem = s.mem := rfl
@[simp] theorem modList_cache : (s.modList n f).cache = s.cache := rfl
@[simp] theorem modList_ingots : (s.modList n f).ingots = s.ingots := rfl
@[simp] theorem modList_benches : (s.modList n f).benches = s.benches := rfl
@[simp] theorem modList_flash : (s.modList n f).flash = s.flash := rfl
@[simp] theorem modList_links : (s.modList n f).links = s.links := rfl
@[simp] theorem modList_pewter : (s.modList n f).pewter = s.pewter := rfl
@[simp] theorem modList_errors : (s.modList n f).errors = s.errors := rfl
@[simp] theorem modList_burnish : (s.modList n f).burnish = s.burnish := rfl
@[simp] theorem modList_sec : (s.modList n f).sec = s.sec := rfl
@[simp] theorem modList_fw : (s.modList n f).fw = s.fw := rfl
@[simp] theorem modList_bmc : (s.modList n f).bmc = s.bmc := rfl
@[simp] theorem modList_dev : (s.modList n f).dev = s.dev := rfl
@[simp] theorem modList_out : (s.modList n f).out = s.out := rfl
@[simp] theorem modList_clockUs : (s.modList n f).clockUs = s.clockUs := rfl
@[simp] theorem modList_free : (s.modList n f).free = s.free := rfl
@[simp] theorem modList_pending : (s.modList n f).pending = s.pending := rfl

end

/-! ### modRing -/

section

variable (s : State) (r : Fin 37) (f : Ring → Ring)

@[simp] theorem modRing_power : (s.modRing r f).power = s.power := rfl
@[simp] theorem modRing_ctrls : (s.modRing r f).ctrls = s.ctrls := rfl
@[simp] theorem modRing_mold : (s.modRing r f).mold = s.mold := rfl
@[simp] theorem modRing_grid : (s.modRing r f).grid = s.grid := rfl
@[simp] theorem modRing_sched : (s.modRing r f).sched = s.sched := rfl
@[simp] theorem modRing_engines : (s.modRing r f).engines = s.engines := rfl
@[simp] theorem modRing_mem : (s.modRing r f).mem = s.mem := rfl
@[simp] theorem modRing_cache : (s.modRing r f).cache = s.cache := rfl
@[simp] theorem modRing_ingots : (s.modRing r f).ingots = s.ingots := rfl
@[simp] theorem modRing_search : (s.modRing r f).search = s.search := rfl
@[simp] theorem modRing_benches : (s.modRing r f).benches = s.benches := rfl
@[simp] theorem modRing_flash : (s.modRing r f).flash = s.flash := rfl
@[simp] theorem modRing_links : (s.modRing r f).links = s.links := rfl
@[simp] theorem modRing_pewter : (s.modRing r f).pewter = s.pewter := rfl
@[simp] theorem modRing_burnish : (s.modRing r f).burnish = s.burnish := rfl
@[simp] theorem modRing_sec : (s.modRing r f).sec = s.sec := rfl
@[simp] theorem modRing_fw : (s.modRing r f).fw = s.fw := rfl
@[simp] theorem modRing_bmc : (s.modRing r f).bmc = s.bmc := rfl
@[simp] theorem modRing_dev : (s.modRing r f).dev = s.dev := rfl
@[simp] theorem modRing_out : (s.modRing r f).out = s.out := rfl
@[simp] theorem modRing_clockUs : (s.modRing r f).clockUs = s.clockUs := rfl
@[simp] theorem modRing_free : (s.modRing r f).free = s.free := rfl
@[simp] theorem modRing_pending : (s.modRing r f).pending = s.pending := rfl

end

/-! ### emit -/

section

variable (s : State) (o : Output)

@[simp] theorem emit_power : (s.emit o).power = s.power := rfl
@[simp] theorem emit_ctrls : (s.emit o).ctrls = s.ctrls := rfl
@[simp] theorem emit_mold : (s.emit o).mold = s.mold := rfl
@[simp] theorem emit_grid : (s.emit o).grid = s.grid := rfl
@[simp] theorem emit_sched : (s.emit o).sched = s.sched := rfl
@[simp] theorem emit_engines : (s.emit o).engines = s.engines := rfl
@[simp] theorem emit_mem : (s.emit o).mem = s.mem := rfl
@[simp] theorem emit_cache : (s.emit o).cache = s.cache := rfl
@[simp] theorem emit_ingots : (s.emit o).ingots = s.ingots := rfl
@[simp] theorem emit_search : (s.emit o).search = s.search := rfl
@[simp] theorem emit_benches : (s.emit o).benches = s.benches := rfl
@[simp] theorem emit_flash : (s.emit o).flash = s.flash := rfl
@[simp] theorem emit_links : (s.emit o).links = s.links := rfl
@[simp] theorem emit_pewter : (s.emit o).pewter = s.pewter := rfl
@[simp] theorem emit_errors : (s.emit o).errors = s.errors := rfl
@[simp] theorem emit_burnish : (s.emit o).burnish = s.burnish := rfl
@[simp] theorem emit_sec : (s.emit o).sec = s.sec := rfl
@[simp] theorem emit_fw : (s.emit o).fw = s.fw := rfl
@[simp] theorem emit_bmc : (s.emit o).bmc = s.bmc := rfl
@[simp] theorem emit_dev : (s.emit o).dev = s.dev := rfl
@[simp] theorem emit_clockUs : (s.emit o).clockUs = s.clockUs := rfl
@[simp] theorem emit_free : (s.emit o).free = s.free := rfl
@[simp] theorem emit_pending : (s.emit o).pending = s.pending := rfl

end

/-! ### addJob -/

section

variable (s : State) (j : Job)

@[simp] theorem addJob_power : (s.addJob j).power = s.power := rfl
@[simp] theorem addJob_ctrls : (s.addJob j).ctrls = s.ctrls := rfl
@[simp] theorem addJob_mold : (s.addJob j).mold = s.mold := rfl
@[simp] theorem addJob_grid : (s.addJob j).grid = s.grid := rfl
@[simp] theorem addJob_engines : (s.addJob j).engines = s.engines := rfl
@[simp] theorem addJob_mem : (s.addJob j).mem = s.mem := rfl
@[simp] theorem addJob_cache : (s.addJob j).cache = s.cache := rfl
@[simp] theorem addJob_ingots : (s.addJob j).ingots = s.ingots := rfl
@[simp] theorem addJob_search : (s.addJob j).search = s.search := rfl
@[simp] theorem addJob_benches : (s.addJob j).benches = s.benches := rfl
@[simp] theorem addJob_flash : (s.addJob j).flash = s.flash := rfl
@[simp] theorem addJob_links : (s.addJob j).links = s.links := rfl
@[simp] theorem addJob_pewter : (s.addJob j).pewter = s.pewter := rfl
@[simp] theorem addJob_errors : (s.addJob j).errors = s.errors := rfl
@[simp] theorem addJob_burnish : (s.addJob j).burnish = s.burnish := rfl
@[simp] theorem addJob_sec : (s.addJob j).sec = s.sec := rfl
@[simp] theorem addJob_fw : (s.addJob j).fw = s.fw := rfl
@[simp] theorem addJob_bmc : (s.addJob j).bmc = s.bmc := rfl
@[simp] theorem addJob_dev : (s.addJob j).dev = s.dev := rfl
@[simp] theorem addJob_out : (s.addJob j).out = s.out := rfl
@[simp] theorem addJob_clockUs : (s.addJob j).clockUs = s.clockUs := rfl
@[simp] theorem addJob_free : (s.addJob j).free = s.free := rfl
@[simp] theorem addJob_pending : (s.addJob j).pending = s.pending := rfl

end

/-! ### Lookups after updates -/

theorem updWhere_find {α : Type} {l : List α} {p : α → Bool} {f : α → α} (hf : ∀ x, p (f x) = p x) :
    (updWhere l p f).find? p = (l.find? p).map f := by
  unfold updWhere
  induction l with
  | nil => rfl
  | cons x l ih =>
    cases h : p x <;> simp [h, hf, ih]

theorem modJob_job (s : State) (k : Key) (f : Job → Job) (hf : ∀ j, (f j).key = j.key) :
    (s.modJob k f).job k = (s.job k).map f :=
  updWhere_find fun j => by rw [hf]

theorem modColl_coll (s : State) (i : Nat) (f : Coll → Coll) (hf : ∀ c, (f c).id = c.id) :
    (s.modColl i f).coll i = (s.coll i).map f :=
  updWhere_find fun c => by rw [hf]

theorem modObj_obj (s : State) (i : Nat) (f : Obj → Obj) (hf : ∀ c, (f c).id = c.id) :
    (s.modObj i f).obj i = (s.obj i).map f :=
  updWhere_find fun c => by rw [hf]

theorem modIngot_ingot (s : State) (i : Nat) (f : Ingot → Ingot) (hf : ∀ c, (f c).id = c.id) :
    (s.modIngot i f).ingot i = (s.ingot i).map f :=
  updWhere_find fun c => by rw [hf]

theorem modList_lst (s : State) (n : Nat) (f : Lst → Lst) (hf : ∀ c, (f c).num = c.num) :
    (s.modList n f).lst n = (s.lst n).map f :=
  updWhere_find fun c => by rw [hf]

end Sys2Proof.Laws
end

