-- ==== Sys2Proof/Tests/Slice0.lean ====
section
/-! SUPPORT. Tests of the model's own: well-formedness, worked values of the spec, and a witness for the hypotheses of
each statement. -/

namespace Sys2Proof.Tests

open Sys2Proof Sys2Proof.Machine Sys2Proof.Safety

/-! ### Small states -/

/-- The name of the first command of the admin queue of controller 0. -/
def k0 : Key := { ctrl := 0, sqid := 0, cid := 7 }

/-- Every memory is canonical at reset. -/
theorem rst_memory : MemoryCanonical State.reset := by
  show State.reset.memWf = true
  decide +kernel

/-- A submission entry with an opcode and zeros elsewhere. -/
def sqe (op : Byte) : Sqe :=
  { key := k0, opcode := op, fuse := 0, psdt := 0, nsid := 0, cdw10 := 0, cdw11 := 0, cdw12 := 0, cdw13 := 0, cdw14 := 0,
    cdw15 := 0, sgl := [] }

/-- Controller 0 enabled and ready, one command in flight and one to fetch. -/
def up : State :=
  { State.reset with
    power := { Power.reset with inputGood := true, phase := .running }
    ctrls := State.reset.ctrls.set 0 { Controller.reset with
      linkUp := true, en := true, rdy := true, inflight := [sqe 0x06], ptmEnable := true, msixEnable := true
      sqs := [{ id := 0, size := 8, cqid := 0, head := 0, tail := 1 }]
      cqs := [{ id := 0, size := 8, vector := 0, ien := true, head := 0, tail := 0, posted := [], waiting := [] }] } }

/-- The split form. -/
def split : State := { State.reset with power := { Power.reset with split := true } }

/-- An SPDM connection on the mailbox of controller 0 with every step done, in Struck. -/
def spoken : State :=
  { State.reset with
    sec := { Security.reset with spdm := [{ port := .doe 0, version := true, caps := true, algs := true }] }
    pewter := { Pewter.reset with lcState := 1 } }

/-- Controller 0 with a submission queue 1 and an unused completion queue 2. -/
def paired : State :=
  up.modCtrl 0 fun f =>
    { f with
      sqs := f.sqs ++ [{ id := 1, size := 2, cqid := 0, head := 0, tail := 0 }]
      cqs := f.cqs ++ [{ id := 2, size := 2, vector := 1, ien := false, head := 0, tail := 0, posted := [], waiting := [] }] }

/-- Four Aborts outstanding and one event queued. -/
def aborting : State :=
  up.modCtrl 0 fun f =>
    { f with
      inflight := [1, 2, 3, 4].map fun i => { sqe 0x08 with key := { k0 with cid := i } }
      aerQueued := [5] }

/-- A firmware image of 2,820 bytes and a zero length received whole. -/
def sound : State :=
  { State.reset with fw := { Firmware.reset with header := List.replicate 64 0, pieces := [(0, 4096)] } }

/-- A session waiting for its accept, and one established that has been silent for 15 s. -/
def inited : State := { State.reset with sec := { Security.reset with session := .initSent } }
def talking : State := { State.reset with sec := { Security.reset with session := .established }, clockUs := 15000000 }

/-- In Struck with the rebuild done and a batch open. -/
def leafy : State :=
  { State.reset with
    sec := { Security.reset with rebuilt := true, batchOpen := true }
    pewter := { Pewter.reset with lcState := 1 } }

/-- An established session in Struck with no key held. -/
def keyed : State :=
  { State.reset with
    sec := { Security.reset with session := .established }
    pewter := { Pewter.reset with lcState := 1 } }

/-- In Returned with one security event awaiting the log. -/
def queued : State := { State.reset with pewter := { Pewter.reset with lcState := 3, secQueue := [(1, 4)] } }

/-- A Mold in force with nothing but one Collection, 1, of label 5. -/
def mold1 : Mold :=
  { world := [], shops := [], classes := [], env := { maxQueries := 0, maxLists := 0, maxK := 0, maxTokens := 0, bound := 9 }
    period := 0, strikeRef := false, phase := 0, holdover := 1, capW := 1800, c0FloorW := 0, engineFloor := 0
    memoryFloor := 0, flashFloor := 0, modes := []
    quant := { act := 0, weight := 0, legacy := false, window := 0, margin := 0, outlierMax := 0, tsLog2 := 0, tsTol := 0,
               replay := false }
    colls := [{ id := 1, dims := 64, metric := 0, recordClass := 0, passageTokens := 0, listShare := 0, embedIngot := 0,
                schema := 0, ingestShop := 0, queryShop := 0, label := 5 }]
    schemas := [], ceBurnish := 1, tsAct := 0, faultScope := 0, eventVector := 0 }

/-- Its Collection on media with a KCV of 17 zero bytes. -/
def coll1 : Coll :=
  { id := 1, dims := 64, metric := 0, recordClass := 0, listShare := 0, label := 5, kcv := some (List.replicate 17 0)
    state := .uncalibrated, cal := { offsets := [], scales := [] }, entryList := none, firstList := 0, notIndexed := 0, markStalls := 0
    mediaPartial := 0, unavailable := false }

/-- That Mold in force, the Collection on media with a KCV of 17 zero bytes. -/
def declared : State :=
  { keyed with
    mold := { MoldBlock.reset with state := .molded, mold := some mold1 }
    search := { Search.reset with colls := [coll1] } }

/-- A Recast that changes nothing, draining under a locked grid. -/
def ctx1 : RecastCtx :=
  { sqe := sqe 0xC2, image := [], merged := some mold1, digest := [], receivedUs := 0, boundaries := 0, drained := false
    engines := [], benches := [], discard := false, ranges := [] }

def draining : State :=
  { declared with
    mold := { declared.mold with state := .recastDraining, recast := some ctx1 }
    grid := { Grid.reset with lock := .locked, everLocked := true } }

/-- An informational report of the Management Controller, and five queued reports, one of severity Failed. -/
def info : Report := { sev := .informational, kind := 0x50, granule := none, body := [] }

def crowded : State :=
  { State.reset with errors := { Errors.reset with
      queue := [(.mgmt, 1, info), (.mgmt, 2, info), (.mgmt, 3, { info with sev := .failed }), (.mgmt, 4, info)] } }

/-- A Burnish of the whole operand store of Engine 0. -/
def slot1 : BurnSlot :=
  { sqe := sqe 0xC9, space := 0, unit := 0, offset := 0, length := 25165824, progress := 0, startUs := 0 }

/-- A Burnish of a part of the SRAM of Bench 0, which is held for a class-0 query. -/
def slot3 : BurnSlot := { slot1 with space := 3, length := 65536 }

def heldSram : State :=
  { State.reset with
    sched := { Sched.reset with benchHolds := [(0, 3)] }
    burnish := { Burnish.reset with slots := Burnish.reset.slots.set 0 (some slot3) } }

/-- A locked grid at Stroke 2,000, two Burnishes running, unit 0 at its CE limit. -/
def hotUnit : State :=
  { declared with
    grid := { Grid.reset with lock := .locked, stroke := 2000 }
    errors := { Errors.reset with window := [(0, 1)], burnDue := [0] }
    burnish := { Burnish.reset with slots := Burnish.reset.slots.set 3 (some slot1), autos := [(635, 4)] } }

/-- A command of queue 1 and its query, running in Shop 1. -/
def k1 : Key := { ctrl := 0, sqid := 1, cid := 9 }

def job1 : Job :=
  { key := k1, kind := .query, cls := 1, weight := 100, f8 := 8, effWeight := 100, state := .running, shop := 1
    coll := some 1, ingot := 0, k := 1, lists := 1, depth := 1, tokens := 0, answerBytes := 0, tJobUs := 0, nonpreUs := 0
    semMask := 0, placeMask := 0, placeStrict := false, newIngot := 0, input := [], items := [], visible := []
    newTokens := 0, maxTokens := 0, steps := 0, rank := 0, param := 0, kvBytes := 0, kv := [], variants := [], vector := []
    front := none, walked := false, sweepBy := 0, arrivedUs := some 0, deferrals := 0, admitStroke := 0, snapshot := 0
    placed := [], partEnds := [], legacy := [], quant := none, unitsDone := [], execs := 0, replays := [], overflows := 0, legacySat := 0
    brokenSems := 0, engineUs := 0, benchUs := 0, pendEngineUs := 0, pendBenchUs := 0, window := [], benchSaved := []
    progress := 0
    candidates := 0, skipped := 0, hits := [], targets := [], sweepAt := none, benchesLeft := [], benchesDone := []
    partialMedia := false, unbound := false, ending := none, quenching := false, scratch := [], gateOrder := none
    output := 0, passes := 0, decoded := 0 }

def busy : State :=
  { declared with sched := { Sched.reset with jobs := [job1] }, grid := { Grid.reset with everLocked := true } }

/-- Ingot 3 READY with one segment of 4,096 stored bytes; Quarter 0 holds it STAGED, 1 does not, 2 stages it, 3
promotes it with a promotion that waits. -/
def seg0 : CacheId := { ingot := 3, segment := 0 }

def obj0 : CacheObj :=
  { id := seg0, state := .staged, stored := 4096, decoded := 65536, pins := [], promoting := false, stagedAt := [(0, 0)], hotAt := [] }

def objP : CacheObj :=
  { id := seg0, state := .staged, stored := 0, decoded := 0, pins := [], promoting := true, stagedAt := [], hotAt := [] }

def staging0 : Staging := { id := seg0, stored := 4096, granules := [0] }

def wait0 : CacheWait := { id := seg0, key := k1, unit := 0, counted := true }

def ingot3 : Ingot :=
  { id := 3, state := .ready, signed := false, derived := false, base := 0, opKind := 1, tokenNs := 0, outDims := 64
    maxContext := 0, layers := 0, kvHeads := 0, headDim := 0, scaleMode := 0, legacyWindow := 0, legacyMargin := 0
    units := [], segments := [{ offset := 0, stored := 4096, decoded := 65536, hash := [] }], image := []
    lastPieceUs := 0, pageUs := 0, finalPiece := none, unsignedGen := none }

def cached : State :=
  { State.reset with
    ingots := [ingot3]
    cache := ((State.reset.cache.set 0 { ModelCache.reset with objs := [obj0] }).set 2
      { ModelCache.reset with staging := [staging0] }).set 3
      { ModelCache.reset with objs := [objP], waiting := [wait0] } }

/-- Two dirty granules of Quarter 0, a third write waiting, HOLDUP_OK high. -/
def dirtied : State :=
  { State.reset with
    power := { Power.reset with holdupOk := true }
    mem := { Memory.reset with dirty := [{ quarter := 0, granule := tailGranule 0 1, cls := 2, mirror := 5 },
                                         { quarter := 0, granule := tailGranule 0 5, cls := 1, mirror := 6 }] }
    cache := State.reset.cache.set 0 { ModelCache.reset with dirtyWait := [(9, 3)] } }

/-- In operation: link 0 up with a frame that has failed 8 times, links 1 and 2 training, 2 for the fourth time. -/
def linked : State :=
  { up with
    links := ((State.reset.links.set 0 { Link.reset with state := .up, failing := [(⟨0, 6⟩, 8)] }).set 1
      { Link.reset with state := .training, retrainTimes := [0, 0, 0] }).set 2
      { Link.reset with state := .training, retrainTimes := [0, 1, 2, 1000000] } }

/-- The grid in a state, its reference present, HOLDOVER of one Stroke elapsed. -/
def gridAt (l : LockState) : State := { declared with grid := { Grid.reset with lock := l, refPresent := true, heldFor := 1 } }

/-- The module in a phase. -/
def phased (p : Phase) : State := { State.reset with power := { Power.reset with phase := p } }

/-- Booting with an image running, every link training, or every link up. -/
def booting : State :=
  { phased .booting with
    fw := { Firmware.reset with mcRuns := true }
    links := Vector.replicate 32 { Link.reset with state := .training } }

def linksUp : State := { booting with links := Vector.replicate 32 { Link.reset with state := .up } }

/-- The BMC port answers; the brake is low; a rail is low; an emergency of long ago; cool sensors. -/
def answering : State := { State.reset with bmc := { Bmc.reset with answers := true } }
def braked : State := { State.reset with power := { Power.reset with brake := true } }
def lowRail : State := { up with power := { up.power with rails := [.nandVcc 3] } }
def hot : State := { up with power := { up.power with emergency := true }, clockUs := 2000000 }
def cold : SensorReadings :=
  { quarter := [], stack := [], die := [], nand := [], hub := 20, bank := 20, inletHalf := 40, outletHalf := 50, flowMl := 2000, volts := 0,
    amps := 0 }

/-- APST from PS0 to PS3, an exit under way; an idle Engine and an idle Bench. -/
def sleepy : State :=
  { State.reset.modCtrl 0 (fun f => { f with apstEnable := true, apstTable := [(3, 100)] }) with
    power := { Power.reset with exiting := true } }

def awake : State :=
  { State.reset with
    engines := State.reset.engines.set 0 { Engine.reset with state := .idle }
    benches := State.reset.benches.set 0 { Bench.reset with state := .idle } }

/-- One Shop, 1, of the C0 class, over queue 1 of controller 0, Engine 0, stack 0 and Bench 0. -/
def shop1 : Shop :=
  { id := 1, c0 := true, ctrl := 0, firstQ := 1, qCount := 1, meMap := 1, stackMap := 1, semHold := 500, nonpre := 500
    benchMap := 1 }

def mold2 : Mold :=
  { mold1 with
    shops := [shop1], colls := [{ id := 1, dims := 64, metric := 1, recordClass := 0, passageTokens := 0, listShare := 0,
                                  embedIngot := 0, schema := 0, ingestShop := 1, queryShop := 1, label := 5 }] }

def shopped : State := { busy with mold := { busy.mold with mold := some mold2 } }

/-- That Mold loaded with no boundary yet, an entry in queue 1; and a grid that has locked, its last boundary at 0. -/
def ioq : State := { paired with mold := { MoldBlock.reset with state := .molded, mold := some mold2 } }

def stroked : State := { shopped with grid := { shopped.grid with lock := .locked } }

/-- The key of the Collection held. -/
def unlockedShop : State := { shopped with sec := { shopped.sec with keys := [(5, 0)] } }

/-- A FIELD_MATCH job of Collection 1, class 1, k 1, an answer of 64 bytes, text "a<tab>b". -/
def desc43 : List Byte :=
  [0x43, 1, 0, 0, 0, 0, 0, 0, 1, 0, 0, 0] ++ List.replicate 14 0 ++ [1, 0] ++ List.replicate 4 0 ++ [3, 0, 0, 0] ++
    List.replicate 4 0 ++ [64, 0, 0, 0] ++ List.replicate 84 0 ++ [0x61, 0x09, 0x62]

/-- A data block descriptor. -/
def sgl (n : Nat) : SglDesc := { type := 0, len := n }

/-- An envelope of one chunk of 17 bytes ciphertext and tag under label 5. -/
def env17 : List Byte :=
  [0x4F, 0x4E, 0x45, 0x56, 1, 0, 0, 0, 1, 0, 0, 0, 0, 0, 0, 0, 1, 0, 0, 0, 0, 0, 0, 0, 5] ++ List.replicate 120 0

/-- Object 7 of Collection 1 on Bench 0, the links up; a put and a delete that wait. -/
def objA : Obj :=
  { id := 7, coll := 1, bench := 0, envelope := [1, 2, 3, 4, 5], state := .pending, reason := 0, stop := 0, handed := [], home := .pending
    homeReason := 0, passages := [], notIndexed := 0, membersSkipped := 0, appended := [], storeEpoch := 0, deleted := none
    cipherHash := [], contentHash := none, fields := [], lost := none, readEndUs := 0 }

def stored : State :=
  { shopped with
    pewter := { Pewter.reset with lcState := 3 }
    search := { shopped.search with objs := [objA] }
    links := Vector.replicate 32 { Link.reset with state := .up }
    benches := State.reset.benches.set 0 { Bench.reset with state := .idle, countEn := true } }

def ready : State := { stored with power := { stored.power with holdupOk := true } }

def putting : State :=
  { stored with search := { stored.search with
      puts := [{ key := k1, coll := 1, bench := 0, envelope := [1, 2, 3, 4, 5] }], deletes := [(k1, 7)] } }

/-- HOLDUP_OK low with a dirty granule of class 1: a write of class 5 waits. -/
def stopped : State :=
  { putting with mem := { putting.mem with
      dirty := [{ quarter := 0, granule := tailGranule 0 5, cls := 1, mirror := 6 }] } }

/-- Ingot 3 LOADING with no piece for 10 s; Ingot 3 DROPPING. -/
def loadingState : State := { State.reset with ingots := [loadingIngot 3], clockUs := 10000000 }
def dropped : State := { State.reset with ingots := [{ ingot3 with state := .dropping }] }

/-- The job WAITING, of a class. -/
def arriving (c : Nat) : State :=
  { shopped with sched := { shopped.sched with jobs := [{ job1 with cls := c, state := .waiting, arrivedUs := none }] } }

/-- An operator job without an Ingot, admitted; Engine 0 of its Shop in a state, with its unit 0 unless idle; Bench 1 runs
it. -/
def job5 : Job := { job1 with kind := .operator 0x05, coll := none, state := .admitted, cls := 2 }

def working (st : EngineState) : State :=
  { shopped with
    sched := { shopped.sched with jobs := [job5] }
    engines := State.reset.engines.set 0 { Engine.reset with
      state := st, sterling := false, job := if st = .idle then none else some (k1, 0) }
    benches := State.reset.benches.set 1 { Bench.reset with state := .running, job := some k1 } }

/-- Its unit 0 placed on Engine 0 and running there; with a cause set; with a command of 20 µs open. -/
def jobOn : Job := { job5 with placed := [{ unit := 0, engine := some 0, bench := none, part := Part.whole, hinted := false }], state := .running }

def ranOn : State := { working .running with sched := { shopped.sched with jobs := [jobOn] } }

/-- Its unit 0 in two parts on Engines 0 and 1. -/
def jobSplit : Job :=
  { jobOn with placed := [0, 1].map fun i =>
      { unit := 0, engine := some i, bench := none, part := { index := i.val, of_ := 2, kFirst := 0, kCount := 0 }, hinted := false } }

def splitOn : State :=
  { ranOn with
    sched := { ranOn.sched with jobs := [jobSplit] }
    engines := ranOn.engines.set 1 ranOn.engines[(0 : EngineId)] }

def flaggedOn : State := ranOn.modEngine 0 fun x => { x with ctx := { x.ctx with causes := 1 } }

def npOpened : State := ranOn.modEngine 0 fun x => { x with ctx := { x.ctx with npOpen := some 20 } }

/-- A class-0 job with a time cap, marked for the Quench or not; a job whose answer waits. -/
def capped (q : Bool) : Job := { job5 with cls := 0, tJobUs := 100, quenching := q }

def cappedIn (q : Bool) : State := { shopped with sched := { shopped.sched with jobs := [capped q] } }

def gated : State := { shopped with sched := { shopped.sched with jobs := [{ jobOn with gateOrder := some 3 }] } }

/-- An INT8 MMA_WS of 1 by 1 by 1 into tile 0, not cleared: opcode 1, formats 5, accumulator format 9; a slot staged with
it; Engines that hold it, with a vector instruction on its unit, with n such instructions in the drain. -/
def mma1 : BitVec 128 := 0x95501

def slotA : Slot :=
  { word := mma1, rows := [{ codes := [3], scales := [], outliers := [] }], b := [[4]], bScales := [], mask := 0, side := []
    skew := none, tags := [0], recRows := [], saturated := 0 }

def staged : State := ranOn.modEngine 0 fun x => { x with ctx := { x.ctx with slots := [slotA] } }

def vecBusy : State := staged.modEngine 0 fun x => { x with vec := [{ reads := [0], writes := [], granules := [] }] }

def drainA : DrainEntry := { word := mma1, rows := [[12]], rowScales := [], colScales := [], tags := [0], at_ := 0 }

def drained (n : Nat) : State := staged.modEngine 0 fun x => { x with drain := List.replicate n drainA }

/-- Semaphore 2 of Shop 1 with a holder and a broken mark, waited for by the job on Engine 0, whose mask names it. -/
def semHeld (h : Option Key) (broken : Bool) : State :=
  { ranOn with sched := { ranOn.sched with
      jobs := [{ jobOn with semMask := 4 }]
      sems := [{ shop := 1, num := 2, holder := h, broken := broken, waiters := [(k1, 0)] }] } }

/-- The Engine as a Plate Engine whose operand store is Plate; a conversion of one FP32 at unit 0 to BF16 at unit 1; a
transfer of 64 bytes within the store, and in progress; a sample that waits, its one element 1 where the reference is 0, the
Engine's record written in this Stroke. -/
def plated : State :=
  { ranOn with mold := { ranOn.mold with mold := some { mold2 with
      world := [{ block := false, space := 0, unit := 0, first := 0, count := 384, sterling := false }] } } }

def cvt1 : BitVec 128 := 0x1000000001012

def xferA : XferArgs := { src := 0, dst := 1024, len := 64, tag := 3 }

def xferB : XferOp := { src := { space := .operand 0, off := 0 }, dst := { space := .operand 0, off := 1024 }, len := 64, tag := 3 }

def moving : State := plated.modEngine 0 fun x => { x with xfers := [xferB] }

def sampleA : Sample :=
  { unit := 0, word := 0, aFmt := 9, bFmt := 9, k := 1, y := [[0x3F800000]], a := [[0]], b := [[0]], granules := [] }

def sampled : State := ranOn.modEngine 0 fun x => { x with tsBuffer := [sampleA], tsThisStroke := true }

/-- Bench 0 trained and idle under an up link; block 0 of die 0 open in QLC with rows 0 and 1 programmed, block 2 full and
empty, block 3 full and worn. -/
def blkAt (n : Nat) : BlockId := { die := 0, plane := 0, block := n }

def pageA : PhysPage := { blk := blkAt 0, row := 1 }
def blkF : BlockId := blkAt 2
def blkW : BlockId := blkAt 3

def blockOf (n : Nat) (st : BlockState) : Block :=
  { id := blkAt n, state := st, slc := false, erases := 0, reads := 0, good := 0, next := 2, role := 0, worn := false }

def flashy : State :=
  { stored with
    benches := State.reset.benches.set 0 { Bench.reset with state := .idle }
    flash := State.reset.flash.set 0 { Flash.reset with
      trained := true, blocks := [blockOf 0 .open, blockOf 2 .full, { blockOf 3 .full with worn := true }] } }

/-- A program of page 1 of block 0 in progress, suspended or not; an erase of block 2 in progress. -/
def identA : PageIdent :=
  { page := pageA, kind := 1, stream := 0, content := 1, index := 0, originSeq := 0, seq := 0, epoch := 0,
    detail := (0, 0) }

def opA (susp : Bool) : NandOp := { block := pageA.blk, ident := some identA, resumedUs := 0, suspended := susp }

def opping (susp : Bool) : State := flashy.modFlash 0 fun f => { f with ops := [opA susp] }

def erasing : State :=
  flashy.modFlash 0 fun f =>
    { f with
      blocks := [{ blockOf 2 .erasing with next := 0 }]
      ops := [{ block := blkF, ident := none, resumedUs := 0, suspended := false }] }

/-- A list of one record on Bench 0 whose code stream fills a page. -/
def recA : Rec :=
  { object := 7, passage := 0, epoch := 1, wide := false, movedIn := false, code := [], body := [], escapes := [], norm2 := 0,
    bodyIndex := 0, sideIndex := 0 }

def lst1 : Lst :=
  { num := 1, coll := 1, bench := 0, lastEpoch := 0, retire := none, mending := false, mendGen := 0, centroid := [], edges := []
    records := [recA], log := [], marks := [], countAt := 0, pages := [], mended := false
    homeCount := 0, walkers := [] }

def collBig : Coll := { coll1 with dims := 131072 }

def listed : State := { flashy with search := { flashy.search with colls := [collBig], lists := [lst1] } }

/-- One staged page of object 7. -/
def identS : PageIdent :=
  { page := { blk := blkAt 1, row := 0 }, kind := 0, stream := 0, content := 7, index := 0, originSeq := 0, seq := 0, epoch := 0,
    detail := (0, 0) }

def stagedPage : State :=
  flashy.modFlash 0 fun f =>
    { f with blocks := { blockOf 1 .open with slc := true, role := roleStaging } :: f.blocks, idents := [identS] }

/-- A query whose front work runs on Engine 0; scanned by one sweep of list 1; fetched from Bench 0; done with its Benches. -/
def jobQ : Job := { job1 with front := some 0 }

def walking : State :=
  { shopped with
    sched := { shopped.sched with jobs := [jobQ] }
    engines := State.reset.engines.set 0 { Engine.reset with state := .running, sterling := false, job := some (k1, frontUnit) } }

def sweepA : Sweep := { list := 1, bench := 0, queries := [k1], survivors := [], counts := [], coded := false, old := none }

def sweeping : State := { listed with search := { listed.search with sweeps := [sweepA] } }

def jobF : Job := { jobQ with walked := true, targets := [1], sweepAt := some 0, benchesLeft := [0] }

def fetching : State :=
  { sweeping with
    sched := { sweeping.sched with jobs := [jobF] }
    search := { sweeping.search with colls := [coll1], sweeps := [{ sweepA with coded := true }] } }

def jobM : Job := { jobQ with walked := true }

def merging : State := { walking with sched := { walking.sched with jobs := [jobM] } }

/-- Bench 0 Sterling with the Collection READY, its key held, its Ingot signed and its Shop's Engine alive; object 7 in READING
with one batch out. -/
def ingestMold : Mold :=
  { mold2 with colls := mold2.colls.map fun c => { c with embedIngot := 3, passageTokens := 4 } }

def ingesting : State :=
  { stored with
    mold := { stored.mold with mold := some ingestMold }
    sec := { stored.sec with keys := [(5, 0)] }
    ingots := [{ ingot3 with signed := true }]
    engines := State.reset.engines.set 0 { Engine.reset with state := .idle }
    search := { stored.search with colls := [{ coll1 with state := .ready }] } }

def passA : Passage := { hash := [], chunk := 0, offset := 0, tokens := 5, sketches := [] }

def objR : Obj := { objA with state := .reading, passages := [passA, passA], handed := [1] }

def batchA : Batch := { entries := [(7, 1, 5)], engine := some 0 }

def batching : State :=
  { ingesting with
    search := { ingesting.search with objs := [objR] }
    benches := State.reset.benches.set 0 { Bench.reset with state := .idle, reading := some 7, batches := [batchA] } }

/-- A record of object 7 on its way to list 1, or waiting there; the object deleted; the pool of marks used up. -/
def batchRec : BatchRec := { object := 7, passage := 0, wide := false, code := [], body := [], escapes := [], norm2 := 0, markWait := false }

def appending : State :=
  { listed with
    power := { listed.power with holdupOk := true }
    search := { listed.search with transit := [(1, batchRec)] } }

def waitingAppend : State :=
  { appending with search := { appending.search with transit := [], appendWait := [(1, batchRec)] } }

def gonePutting : State := { listed with search := { listed.search with objs := [], appendWait := [(1, batchRec)] } }

def fullPool : State :=
  { appending with search := { appending.search with
      lists := [{ lst1 with countAt := 1 }], marksUsed := markPool } }

/-- Its one record marked; the list retired. -/
def lstMarked : Lst := { lst1 with log := [{ record := 0, kind := .delete 5 }] }
def marked1 : State := { listed with search := { listed.search with lists := [lstMarked] } }
def lstRetired : Lst := { lst1 with retire := some 0 }
def retiredState : State := { listed with search := { listed.search with colls := [coll1], lists := [lstRetired] } }

/-- A state of the array; a sector erase and a page program of one word at address 0. -/
def pwt (p : Pewter) : State := { State.reset with pewter := p }

def erase1 : PwtOp := { opcode := 2, len := 0, addr := 0, data := [], fetchBank := none, pulsing := false }
def program1 : PwtOp := { opcode := 1, len := 2, addr := 0, data := [0], fetchBank := none, pulsing := false }

/-! ### Well-formedness: a term that each check refuses -/

/-- The checks of a command's key and entry (R378, R380). -/
theorem test_wf_keys :
    (Instr.jobQuenchStop { k0 with sqid := 1025 }).wf = false ∧ (Instr.jobQuenchStop { k0 with sqid := 1024 }).wf = true ∧
      (Instr.identify { sqe 0x06 with key := { k0 with sqid := 1025 } }).wf = false ∧
      (Instr.identify { sqe 0x06 with sgl := [{ type := 0, len := 2 ^ 32 }] }).wf = false ∧
      (Instr.identify { sqe 0x06 with sgl := [{ type := 0, len := 2 ^ 32 - 1 }] }).wf = true := by decide

/-- The ranges of the other operands. -/
theorem test_wf_ranges :
    (Instr.sqTailDoorbell 0 1025 0).wf = false ∧ (Instr.sqTailDoorbell 0 1 65536).wf = false ∧
      (Instr.cqHeadDoorbell 0 1025 0).wf = false ∧ (Instr.cqHeadDoorbell 0 1 65536).wf = false ∧
      (Instr.spdmChallenge .mctp 0 []).wf = false ∧ (Instr.spdmGetMeasurements .mctp 0 true []).wf = false ∧
      (Instr.autoBurnishStart 638).wf = false ∧ (Instr.autoBurnishStart 637).wf = true ∧
      (Instr.pageRead 0 { blk := { die := 0, plane := 0, block := 2731 }, row := 0 } .patrol .step1).wf = false ∧
      (Instr.pageRead 0 { blk := { die := 0, plane := 0, block := 2730 }, row := 1535 } .patrol .step1).wf = true ∧
      (Instr.patrolRead 0 { blk := { die := 0, plane := 0, block := 0 }, row := 1536 }).wf = false ∧
      (Instr.nandProgramComplete 0 { blk := { die := 0, plane := 0, block := 0 }, row := 1536 } true 0).wf = false ∧
      (Instr.blockEraseStart 0 { die := 0, plane := 0, block := 2731 }).wf = false ∧
      (Instr.nandEraseComplete 0 { die := 0, plane := 0, block := 2731 } true 0).wf = false ∧
      (Instr.blockRefresh 0 { die := 0, plane := 0, block := 2731 }).wf = false ∧
      (Instr.rawReadDone 0 0 []).wf = false ∧ (Instr.setmask 0 0 0 257).wf = false ∧
      (Instr.xfer 0 { src := 0, dst := 0, len := 262145, tag := 0 }).wf = false ∧
      (Instr.semAcq 0 256).wf = false ∧ (Instr.semRel 0 256).wf = false := by decide

/-- A Custodian frame without a body. -/
def emptyFrame : CustFrame :=
  { fcsOk := true, etherType := 0, source := 0, magic := 0, version := 1, last := true, msgId := 0, off := 0, len := 0, bytes := [] }

/-- The ranges of register offsets and messages. -/
theorem test_wf_messages :
    (Instr.rcRegisterRead (.bar2 (2 ^ 25)) true).wf = false ∧ (Instr.rcRegisterRead (.pwt 0xFF8) true).wf = true ∧
      (Instr.split64bitRead (2 ^ 25)).wf = false ∧ (Instr.bar2BadAccess true (2 ^ 25) 4).wf = false ∧
      (Instr.custodianFrame { emptyFrame with off := 2 ^ 32 }).wf = false ∧
      (Instr.custodianFrame { emptyFrame with len := 2 ^ 32 }).wf = false ∧
      (Instr.custodianFrame { emptyFrame with bytes := List.replicate 1473 0 }).wf = false ∧
      (Instr.custodianFrame emptyFrame).wf = true ∧
      (Instr.sessionAccept []).wf = false ∧ (Instr.dbgToken []).wf = false := by decide +kernel

/-! ### Worked values of the spec -/

/-- Table 5-9 (05_number_formats_and_scaling.md), masked: the scale is 2^-7 and the codes are those of the table. -/
theorem test_table_5_9_masked :
    rowScale (bf16v 0x4060) 3 = 0x3C00 ∧ (narrow 3 (bf16v 0x3A80) (bf16v 0x3C00)).1 = 0x20 ∧
      (narrow 3 (bf16v 0xBFA6) (bf16v 0x3C00)).1 = 0xF2 ∧ (narrow 3 (bf16v 0x3F33) (bf16v 0x3C00)).1 = 0x6B ∧
      (narrow 3 (bf16v 0x4060) (bf16v 0x3C00)).1 = 0x7E := by decide +kernel

/-- Table 5-9, unmasked: the outlier sets the scale, and 96.0 saturates quietly at 0x7E. -/
theorem test_table_5_9_unmasked :
    let s := bf16v (rowScale (bf16v 0x42C0) 3)
    (narrow 3 (bf16v 0x3A80) s).1 = 0x02 ∧ (narrow 3 (bf16v 0xBFA6) s).1 = 0xCC ∧ (narrow 3 (bf16v 0x3F33) s).1 = 0x45 ∧
      (narrow 3 (bf16v 0x4060) s).1 = 0x58 ∧ (narrow 3 (bf16v 0x42C0) s).1 = 0x7E := by decide +kernel

/-- Table 5-10: three codes and one escape of an SQ8 record, and the low half of its BIN1 code. -/
theorem test_table_5_10 :
    sq8Elem 0x3EA00000 0x3C800000 0x3B800000 = (0x4C, none) ∧ sq8Elem 0xBF000000 0xBD000000 0x3B800000 = (0x88, none) ∧
      sq8Elem 0x3F400000 0 0x3B800000 = (0x80, some 0x3A00) ∧ sq8Elem 0x3C000000 0x3C000000 0x3B000000 = (0, none) ∧
      binCode [0x3EA00000, 0xBF000000, 0x3F400000, 0x3C000000] [0x3C800000, 0xBD000000, 0, 0x3C000000] = [13] := by
  decide +kernel

/-- The example under R159: 1.1 converted to E4M3 lies between 1.0 (0x38) and 1.125, 52,428 / 65,536 of the way. -/
theorem test_stochastic_example :
    (match f32v 0x3F8CCCCD with
     | .num _ m e => fmtE4m3.split m e false
     | _ => (0, 0, false)) = (0x38, 52428, true) := by decide +kernel

theorem wit_step :
    { State.reset with pending := [.ping, .pong] }.pending = .ping :: [Instr.pong] ∧ State.reset.pending = [] := by
  exact ⟨rfl, rfl⟩

theorem wit_memory : MemoryCanonical State.reset ∧ step State.reset = .next { State.reset with clockUs := 1 } := by
  exact ⟨rst_memory, rfl⟩

theorem wit_controller_enable :
    State.reset.present 1 = false ∧ State.reset.present 0 = true ∧ State.reset.ctrls[(0 : Ctrl)].en = false ∧
      ¬((1 : BitVec 3) = 0 ∧ (6 : BitVec 4) = 6 ∧ (4 : BitVec 4) = 4) ∧
      (up.ctrls[(0 : Ctrl)].en = true ∧ up.ctrls[(0 : Ctrl)].cfs = false ∧ up.power.phase = .running) ∧
      ¬(State.reset.ctrls[(0 : Ctrl)].en = true ∧ State.reset.ctrls[(0 : Ctrl)].cfs = false ∧
        State.reset.power.phase = .running) := by decide

theorem wit_perst_b : State.reset.power.split = false ∧ split.power.split = true ∧
    State.reset.present 1 = false ∧ State.reset.present 0 = true ∧ (1 : BitVec 2) ≠ 0 := by decide

theorem wit_resets_leave : (1 : Ctrl) ≠ 0 ∧ up.sched.jobs = [] ∧ up.power.state = 0 ∧
    up.ctrls[(0 : Ctrl)].pmState = 0 := by decide

theorem wit_doorbells :
    (up.ctrls[(0 : Ctrl)].sqs.find? (fun x => x.id == 0) = some { id := 0, size := 8, cqid := 0, head := 0, tail := 1 }) ∧
      up.unreserved 0 < 49151 ∧ up.power.state < 3 ∧ State.reset.ctrls[(0 : Ctrl)].sqs.find? (fun x => x.id == 0) = none ∧
      (0 : Nat) ≠ 1 ∧ up.ctrls[(0 : Ctrl)].shn = 0 ∧ up.ioHeld 0 < 65535 ∧ up.ioWaits = false ∧
      ioq.ioWaits = true ∧ (ioq.ctrls[(0 : Ctrl)].sqs.find? (fun x => x.id == 1)).isSome = true ∧
      opcodeOk (sqe 0x06) = true ∧
      (up.ctrls[(0 : Ctrl)].cqs.find? (fun x => x.id == 0)).isSome = true ∧ nextPaused [3, 5] 4 = some 5 ∧
      State.reset.ctrls[(0 : Ctrl)].paused = [] := by decide

theorem wit_host_read :
    (∀ e ∈ State.reset.ctrls[(0 : Ctrl)].inflight, e.key ≠ k0) ∧ (∃ e ∈ up.ctrls[(0 : Ctrl)].inflight, e.key = k0) ∧
      up.mold.loading = none := by decide

theorem wit_unmask : up.ctrls[(0 : Ctrl)].msixEnable = true ∧ up.ctrls[(0 : Ctrl)].msixMask = false ∧
    State.reset.ctrls[(0 : Ctrl)].msixEnable = false := by decide

theorem wit_ptm :
    (up.ctrls[(0 : Ctrl)].ptmEnable = true ∧ up.ctrls[(0 : Ctrl)].linkUp = true) ∧
      ¬(State.reset.ctrls[(0 : Ctrl)].ptmEnable = true ∧ State.reset.ctrls[(0 : Ctrl)].linkUp = true) ∧
      { up with grid := { up.grid with ptmOut := true } }.grid.ptmOut = true ∧ 10000 ≤ 10000 ∧ 10000 < 10001 ∧
      up.grid.ptmIssueUs = none ∧ ¬(∀ t, (some 0) = some t → t + 10000 ≤ State.reset.clockUs) := by
  decide

theorem wit_spdm :
    State.reset.bmc.answers = false ∧ State.reset.present 0 = true ∧ (spoken.conn (.doe 0)).version = true ∧
      (State.reset.conn (.doe 0)).version = false ∧ (spoken.conn (.doe 0)).caps = true ∧
      (State.reset.conn (.doe 0)).caps = false ∧ (State.reset.conn (.doe 0)).algs = false ∧
      (spoken.conn (.doe 0)).algs = true ∧ (spoken.measurementBlocks 0).isSome = true ∧ spoken.pewter.lcState ≠ 0 ∧
      spoken.sec.rebuilt = false ∧
      State.reset.pewter.readWaits .vault = false ∧
      (pwt { Pewter.reset with op := some { erase1 with opcode := 6, addr := pwtOptBase, pulsing := true } }).pewter.readWaits
        .vault = true := by decide

/-- An admin entry with CDW10 and CDW11. -/
def sqe2 (op : Byte) (a b : Word32) : Sqe := { sqe op with cdw10 := a, cdw11 := b }

theorem wit_features :
    bits (sqe2 9 2 4).cdw10.toNat 7 0 = 2 ∧ bits (sqe2 9 2 4).cdw11.toNat 4 0 ≤ 4 ∧ 4 < bits (sqe2 9 2 5).cdw11.toNat 4 0 ∧
      bits (sqe2 9 7 0xFFFEFFFE).cdw11.toNat 15 0 ≠ 65535 ∧ bits (sqe2 9 7 0xFFFEFFFE).cdw11.toNat 31 16 ≠ 65535 ∧
      bits (sqe2 9 9 0x107FF).cdw11.toNat 15 0 ≤ 2047 ∧ bits (sqe2 9 3 0).cdw10.toNat 7 0 = 3 ∧
      (3 ∉ [0x01, 0x02, 0x07, 0x08, 0x09, 0x0B, 0x0C, 0x0E]) ∧ (State.reset.feature 0 1 0).isSome = true := by decide

theorem wit_log_page :
    (State.reset.identifyPage 0 2).isSome = true ∧ (0 : Nat) ∉ [0x01, 0x02, 0xC0] ∧ (0 + 2 ^ 32 * 0) % 4 = 0 ∧
      State.reset.logPage 1 0 = .page (List.replicate 4096 0) ∧ bit 0x8001 15 = true ∧ bit 0x0001 15 = false ∧
      (2 + 2 ^ 32 * 0) % 4 ≠ 0 ∧ State.reset.logPage 0xC0 37 = .invalid := by
  refine ⟨by decide, by decide, by decide, rfl, by decide, by decide, by decide, rfl⟩

theorem wit_log_page_busy :
    ({ State.reset with flash := State.reset.flash.set 3 { Flash.reset with rawBusy := true } } : State).logPage 0xC2 3 =
      .busy := by
  unfold State.logPage; rfl

theorem wit_queues :
    (1 ≤ bits (sqe2 5 0x10001 0x10001).cdw10.toNat 15 0 ∧ bits (sqe2 5 0x10400 1).cdw10.toNat 15 0 ≤ 1024 ∧
      2 ≤ bits (sqe2 5 0x10001 1).cdw10.toNat 31 16 + 1 ∧ bit (sqe2 5 0x10001 0x10001).cdw11.toNat 0 = true) ∧
      (∀ x ∈ up.ctrls[(0 : Ctrl)].cqs, x.id ≠ 1) ∧ bits (sqe2 5 1 0x07FF0001).cdw11.toNat 31 16 ≤ 2047 ∧
      (∃ x ∈ paired.ctrls[(0 : Ctrl)].cqs, x.id = 2) ∧ (∃ x ∈ paired.ctrls[(0 : Ctrl)].sqs, x.id = 1) ∧
      (∀ x ∈ paired.ctrls[(0 : Ctrl)].sqs, x.cqid ≠ 2) ∧ up.aborts k0 < 4 ∧ 4 ≤ aborting.aborts k0 ∧
      up.ctrls[(0 : Ctrl)].aerQueued = [] ∧ up.ctrls[(0 : Ctrl)].aers.length < 8 ∧
      aborting.ctrls[(0 : Ctrl)].aerQueued = [5] := by decide

theorem wit_firmware :
    ({ State.reset with pewter := { Pewter.reset with lcState := 4 } } : State).pewter.lcState = 4 ∧
      State.reset.pewter.lcState ≠ 4 ∧ 4 * ((sqe2 0x11 1023 0).cdw10.toNat + 1) % 4096 = 0 ∧
      4 * (sqe2 0x11 1023 1024).cdw11.toNat % 4096 = 0 ∧ pieceBad [] 0 4096 = false ∧
      pieceBad [] 16773120 4096 = false ∧
      State.reset.pewter.readWaits (.bank !State.reset.pewter.activeBank) = false ∧ State.reset.pewter.writeWaits = false ∧
      ({ Pewter.reset with seq := .lockout } : Pewter).writeWaits = true ∧
      (pwt { Pewter.reset with op := some { erase1 with addr := 0x1000000, pulsing := true } }).pewter.readWaits
        (.bank !(pwt Pewter.reset).pewter.activeBank) = true ∧ bits (sqe2 0x10 0x09 0).cdw10.toNat 5 3 ≤ 1 ∧
      bits (sqe2 0x10 0x09 0).cdw10.toNat 2 0 ≤ 1 ∧
      ({ State.reset with pewter := { Pewter.reset with lcState := 4 } } : State).pewter.lcState = 4 := by decide

theorem wit_hallmark :
    ((sqe2 0xC5 0 128).cdw10.toNat = 0 ∧ 128 ≤ (sqe2 0xC5 0 128).cdw11.toNat) ∧
      ¬((sqe2 0xC5 0 127).cdw10.toNat = 0 ∧ 128 ≤ (sqe2 0xC5 0 127).cdw11.toNat) ∧
      ((sqe2 0xC5 1 1344).cdw10.toNat = 1 ∧ 1344 ≤ (sqe2 0xC5 1 1344).cdw11.toNat) ∧
      ((sqe2 0xC5 2 3052).cdw10.toNat = 2 ∧ 3052 ≤ (sqe2 0xC5 2 3052).cdw11.toNat) ∧
      State.reset.pewter.readWaits .vault = false ∧
      (pwt { Pewter.reset with op := some { erase1 with opcode := 6, addr := pwtOptBase, pulsing := true } }).pewter.readWaits
        .vault = true ∧ State.reset.pewter.lcState = 0 ∧ spoken.pewter.lcState ≠ 0 ∧ spoken.sec.rebuilt = false ∧
      ({ spoken with sec := { spoken.sec with rebuilt := true } } : State).sec.rebuilt = true := by decide

theorem wit_lifecycle :
    State.reset.transition (sqe2 0xC6 1 0x5354524B).cdw10.toNat (sqe2 0xC6 1 0x5354524B).cdw11.toNat = none ∧
      State.reset.transition (sqe2 0xC6 4 0x4D454C54).cdw10.toNat (sqe2 0xC6 4 0x4D454C54).cdw11.toNat = some 4 ∧
      ({ State.reset with pewter := { Pewter.reset with lcState := 3 } } : State).pewter.lcState = 3 := by
  refine ⟨by decide, by decide, rfl⟩

theorem wit_session :
    State.reset.lcSession = false ∧ (inited.sec.session = .initSent) ∧ inited.sec.inbox = [] ∧
      inited.sec.initUs + 1000000 ≤ ({ inited with clockUs := 1000000 } : State).clockUs ∧
      inited.clockUs < inited.sec.initUs + 1000000 ∧ State.reset.sec.readyUs ≤ State.reset.clockUs ∧
      State.reset.clockUs < ({ Security.reset with readyUs := 1 } : Security).readyUs ∧
      State.reset.sec.session ≠ .initSent ∧ State.reset.sec.inbox = [] ∧ talking.sec.session = .established ∧
      talking.sec.lastRecordUs + 15000000 ≤ talking.clockUs ∧ State.reset.sec.session ≠ .established := by decide

theorem wit_session_messages :
    State.reset.sec.session = .none ∧ leafy.lcSession = true ∧ leafy.sec.backingOff = false ∧ leafy.sec.rebuilt = true ∧
      leafy.sec.batchOpen = true ∧ leafy.sec.session = .none ∧ inited.sec.session = .initSent ∧ inited.sec.inbox = [] ∧
      inited.missingLabels = [] ∧ talking.sec.session = .established ∧ talking.sec.inbox = [] ∧
      talking.sec.lastRecordUs + 5000000 ≤ talking.clockUs ∧ State.reset.sec.session ≠ .established := by decide

theorem wit_keys :
    keyed.sec.session = .established ∧ keyed.lcSession = true ∧ keyed.sec.inbox = [] ∧ keyed.kcvBad 5 7 = false ∧
      keyed.labelsHeld 5 < 4096 ∧ keyed.gridRuns = false ∧ keyed.sec.keyEvents = [] ∧
      ({ keyed with grid := { Grid.reset with lock := .locked } } : State).gridRuns = true := by decide

/-- A declared Collection of label 5 whose KCV has 17 bytes disagrees with every key. -/
theorem wit_kcv_bad (key : BitVec 256) : declared.kcvBad 5 key = true := by
  have h : (List.replicate 17 (0 : Byte) != kcvOf key) = true := by
    simp only [bne_iff_ne, ne_eq]
    intro he
    have := congrArg List.length he
    simp only [kcvOf, List.length_replicate, List.length_take] at this
    omega
  have e : declared.kcvBad 5 key = (List.replicate 17 (0 : Byte) != kcvOf key || false) := rfl
  rw [e, h]; rfl

/-- The first fragment of a message of 16 bytes. -/
def frame : CustFrame :=
  { fcsOk := true, etherType := 0x88B5, source := 1, magic := 0x5543, version := 1, last := false, msgId := 9, off := 0, len := 16,
    bytes := [1, 2] }

/-- A message under reassembly since time 0, at its limit of 100 ms. -/
def partway : State :=
  { State.reset with
    clockUs := 100000
    sec := { Security.reset with
      reassembly := some { msgId := 9, length := 16, frags := [], sawLast := false, startUs := 0 } } }

theorem wit_frames :
    ({ frame with etherType := 0 } : CustFrame).etherType ≠ 0x88B5 ∧ frame.fcsOk = true ∧ frame.etherType = 0x88B5 ∧
      State.reset.fw.mcHeld = false ∧ ({ frame with len := 7 } : CustFrame).len < 8 ∧ frame.magic = 0x5543 ∧
      frame.version = 1 ∧ 8 ≤ frame.len ∧ frame.len ≤ 16384 ∧ State.reset.sec.reassembly = none ∧ frame.last = false ∧
      partway.sec.reassembly.isSome = true ∧ 0 + 100000 ≤ partway.clockUs ∧ 99999 < 0 + 100000 := by decide

theorem wit_debug :
    State.reset.pewter.lcState ≠ 3 ∧ queued.pewter.lcState = 3 ∧ queued.sec.rejected < 3 ∧
      State.reset.pewter.secQueue = [] ∧ queued.pewter.secQueue = (1, 4) :: [] ∧ queued.pewter.seq = .idle ∧ queued.pewter.op = none ∧
      queued.pewter.brownout = false ∧ queued.pewter.secLogged < 1504 ∧
      1504 ≤ ({ queued.pewter with secLogged := 1504 } : Pewter).secLogged := by decide

theorem wit_mold_load :
    moldFieldsOk (sqe 0xC1) = false ∧ moldFieldsOk (sqe2 0xC1 4194304 0) = true ∧ State.reset.mold.state = .blank ∧
      State.reset.pewter.lcState = 0 ∧ declared.mold.state ≠ .loading ∧ declared.mold.state ≠ .blank ∧
      spoken.mold.state = .blank ∧ spoken.pewter.lcState ≠ 0 ∧ spoken.pewter.lcState ≠ 4 ∧
      spoken.pewter.optBad = false ∧ spoken.errors.hubFailed = false ∧
      ({ spoken with pewter := { Pewter.reset with lcState := 4 } } : State).pewter.lcState = 4 ∧
      ({ spoken with mold := { MoldBlock.reset with state := .loading } } : State).mold.state = .loading := by decide

theorem wit_validated : State.reset.mold.loading = none ∧
    ({ State.reset with mold := { MoldBlock.reset with loading := some (sqe 0xC1, ⟨[], ⟨[], []⟩⟩) } } : State).mold.loading =
      some (sqe 0xC1, ⟨[], ⟨[], []⟩⟩) := by decide

theorem wit_recast :
    State.reset.mold.mold = none ∧ declared.mold.mold ≠ none ∧ moldFieldsOk (sqe 0xC2) = false ∧
      moldFieldsOk (sqe2 0xC2 8 0) = true ∧ draining.mold.state ≠ .molded ∧ declared.mold.state = .molded ∧
      declared.mold.state ≠ .recastValidating ∧ declared.mold.state ≠ .recastDraining ∧
      draining.mold.recast = some ctx1 ∧ draining.mold.mold = some mold1 ∧ ctx1.merged = some mold1 ∧
      draining.mold.state = .recastDraining ∧ draining.gridRuns = true ∧ ctx1.engines = [] ∧ ctx1.benches = [] ∧
      (∀ w ∈ mold1.world, regionChanges mold1 draining.mold.fixedRanges w = false ∧ blockChanges mold1 w = false) ∧
      ({ draining with mold := { draining.mold with state := .recastValidating } } : State).mold.state =
        .recastValidating := by decide

theorem wit_ring_ack :
    let g := State.reset.errors.rings[(0 : Fin 37)]
    ((0 : Word32) - g.ack).toNat ≤ (g.head - g.ack).toNat ∧ (g.head - g.ack).toNat < ((1 : Word32) - g.ack).toNat := by
  decide

theorem wit_reports :
    info.kind ≠ 0x20 ∧ info.kind ≠ 0x21 ∧
      (State.reset.errors.queue.filter fun p => p.1 == Source.mgmt).length < 4 ∧
      4 ≤ (crowded.errors.queue.filter fun p => p.1 == Source.mgmt).length ∧ crowded.errors.irqEn = false := by decide

theorem wit_writer :
    (∃ p ∈ crowded.errors.queue, ringOf p.1 = 0 ∧ p.2.2.sev = .failed) ∧ (crowded.nextReport 0).isSome = true ∧
      (∀ p ∈ State.reset.errors.queue, ringOf p.1 ≠ 0) ∧
      (∀ x ∈ crowded.errors.rings[(0 : Fin 37)].recs, matchesRec .mgmt info x = false) ∧
      (crowded.errors.rings[(0 : Fin 37)].head - crowded.errors.rings[(0 : Fin 37)].ack).toNat < ringSize 0 ∧
      ringSize 0 ≤ (64 - (0 : Word32)).toNat := by decide

theorem wit_burnish :
    burnRange { sqe 0xC9 with cdw15 := 1 } = none ∧ burnRange (sqe 0xC9) = some (0, 0, 0, 25165824) ∧
      ({ State.reset with burnish := { Burnish.reset with slots := Vector.replicate 4 (some slot1) } } :
        State).freeBurnSlot = none ∧
      State.reset.freeBurnSlot = some 0 ∧ State.reset.burnish.slots[(3 : Fin 4)] = none ∧
      hotUnit.burnish.slots[(3 : Fin 4)] = some slot1 ∧
      hotUnit.burnish.autos.find? (fun p => p.1 == 635) = some (635, 4) ∧ (burnUnit 635).isSome = true ∧
      (hotUnit.gridRuns = true ∧ hotUnit.grid.stroke % 1000 = 0) ∧
      ¬(State.reset.gridRuns = true ∧ State.reset.grid.stroke % 1000 = 0) ∧ hotUnit.mold.mold = some mold1 ∧
      hotUnit.burnish.autoEn = true ∧ mold1.ceBurnish ≠ 0 ∧ (0 : Nat) ∈ hotUnit.errors.burnDue ∧ hotUnit.burnHeld 0 0 = false ∧
      heldSram.burnHeld slot3.space slot3.unit = true ∧ heldSram.burnish.slots[(0 : Fin 4)] = some slot3 ∧
      (burnUnit 0).isSome = true ∧ (∀ p ∈ hotUnit.burnish.autos, p.1 ≠ 0) ∧
      (1 : Nat) ∉ hotUnit.errors.burnDue := by decide

theorem wit_quench :
    State.reset.quenchTargets 0 = [] ∧ busy.quenchTargets 0x10009 = [k1] ∧ busy.quenchTargets 0x30000000 = [k1] ∧
      State.reset.mold.mold = none ∧ busy.mold.mold ≠ none ∧ State.reset.job k0 = none := by decide

/-- A refetch of a STAGED block of object `seg0` in Quarter 3. -/
def refetchingP : State :=
  cached.modCache 3 fun c => { c with refetching := [{ id := seg0, block := 0, hot := false, waiters := [] }] }

theorem wit_cache :
    (cached.segment seg0).isSome = true ∧ cached.ingotReady 3 = true ∧
      (∀ x ∈ cached.cache[(1 : QuarterId)].objs, x.id ≠ seg0) ∧
      (∀ x ∈ cached.cache[(1 : QuarterId)].staging, x.id ≠ seg0) ∧
      cached.cache[(1 : QuarterId)].stagedTaken + 4096 ≤ cached.cache[(1 : QuarterId)].stagedBytes ∧
      cached.cache[(2 : QuarterId)].staging.find? (fun x => x.id == seg0) = some staging0 ∧
      cached.cache[(0 : QuarterId)].objs.find? (fun x => x.id == seg0) = some obj0 ∧ obj0.usesHot = false ∧
      obj0.promoting = false ∧
      cached.cache[(0 : QuarterId)].hotTaken + obj0.granules ≤ cached.cache[(0 : QuarterId)].hotLimit ∧
      State.reset.ingotReady 3 = false ∧ cached.cache[(1 : QuarterId)].objs.find? (fun x => x.id == seg0) = none ∧
      cached.cache[(3 : QuarterId)].objs.find? (fun x => x.id == seg0) = some objP ∧ objP.promoting = true ∧
      objP.usesHot = true ∧ (∀ r ∈ cached.cache[(3 : QuarterId)].refetching, r.id = seg0 → r.hot = true) ∧
      cached.stagedUe objP = none ∧ refetchingP.cache[(3 : QuarterId)].objs.find? (fun x => x.id == seg0) = some objP ∧
      (∃ r ∈ refetchingP.cache[(3 : QuarterId)].refetching, r.id = seg0 ∧ r.hot = false) ∧
      State.reset.cache[(0 : QuarterId)].objs.find? (fun x => x.id == seg0) = none ∧
      cached.cache[(3 : QuarterId)].waiting.find? (fun w => w.id == seg0) = some wait0 ∧
      State.reset.cache[(0 : QuarterId)].waiting.find? (fun w => w.id == seg0) = none := by decide

/-- An object of no bytes is decoded. -/
theorem wit_decoded : decodeBlocks (cached.storedBytes objP) objP.decoded objP.granules 0 = .ok [] := rfl

theorem wit_write_back :
    (∀ d ∈ State.reset.mem.dirty, ¬(d.quarter = 0 ∧ d.granule = 5)) ∧ State.reset.mem.reloading.find? (fun p => p.1 == 5) = none ∧
      ({ Memory.reset with reloading := [(5, 3)] } : Memory).reloading.find? (fun p => p.1 == 5) = some (5, 3) ∧
      dirtied.mem.dirty.find? (fun d => d.quarter == 0 && d.granule == tailGranule 0 1) =
        some { quarter := 0, granule := tailGranule 0 1, cls := 2, mirror := 5 } ∧
      (∃ x ∈ dirtied.mem.dirty, x.cls < 2) ∧
      dirtied.mem.dirty.find? (fun d => d.quarter == 0 && d.granule == tailGranule 0 5) =
        some { quarter := 0, granule := tailGranule 0 5, cls := 1, mirror := 6 } ∧
      (∀ x ∈ dirtied.mem.dirty, 1 ≤ x.cls) ∧ dirtied.refersWaiting (tailGranule 0 5) = false ∧
      dirtied.benchKept (homeBench 0 (tailGranule 0 5)) = false ∧
      (dirtied.programHome 0 (tailGranule 0 5)).isSome = true ∧ State.reset.cache[(0 : QuarterId)].dirtyWait = [] ∧
      dirtied.cache[(0 : QuarterId)].dirtyWait = (9, 3) :: [] ∧ State.reset.power.holdupOk = false ∧
      dirtied.power.holdupOk = true ∧ dirtied.dirtyCount 0 < 65536 ∧
      (∀ d ∈ dirtied.mem.dirty, ¬(d.quarter = 0 ∧ d.granule = 9)) := by decide

/-- A Quarter with n dirty granules, so also one at its limit of 65,536. -/
theorem wit_dirty_limit (n : Nat) :
    n ≤ ({ State.reset with mem := { Memory.reset with
      dirty := List.replicate n { quarter := 0, granule := 5, cls := 2, mirror := 5 } } } : State).dirtyCount 0 := by
  unfold State.dirtyCount
  rw [List.filter_replicate_of_pos (by decide), List.length_replicate]

theorem wit_links :
    State.reset.links[(0 : DieId)].state ≠ .up ∧ linked.links[(0 : DieId)].state = .up ∧
      linked.benches[benchOfDie 0 0].countEn = true ∧ linked.benches[benchOfDie 0 0].linkIrq = false ∧
      (∃ p ∈ linked.links[(0 : DieId)].failing, 8 ≤ p.2) ∧ linked.links[(1 : DieId)].state = .training ∧
      linked.power.phase = .running ∧ linked.links[(1 : DieId)].lateRetrains < 4 ∧
      linked.links[(1 : DieId)].lanes ||| 0x0F ≠ 0xFF ∧ linked.links[(1 : DieId)].lanes ||| 0xFF = 0xFF ∧
      max (linked.links[(0 : DieId)].frames.getD 0 0) (2 ^ 40 - 1) < 2 ^ 40 ∧
      2 ^ 40 ≤ max (linked.links[(0 : DieId)].frames.getD 0 0) (2 ^ 40) ∧
      4 ≤ linked.links[(2 : DieId)].lateRetrains ∧ linked.links[(2 : DieId)].state = .training ∧
      State.reset.links[(0 : DieId)].lateRetrains < 4 := by decide

/-- A grid state with a PTM response just taken. -/
def ptmAt (l : LockState) : State :=
  { (gridAt l).modCtrl 0 (fun f => { f with ptmEnable := true }) with
    grid := { (gridAt l).grid with ptmLastUs := some 0 } }

/-- A grid under STRIKE_IN in ACQUIRING without an origin. -/
def strikeAt : State :=
  { gridAt .acquiring with mold := { declared.mold with mold := some { mold1 with strikeRef := true } } }

theorem wit_grid :
    declared.strikeRef = false ∧ strikeAt.strikeRef = true ∧ declared.mayPresent.1 = false ∧
      (ptmAt .idle).mayPresent.1 = true ∧ (ptmAt .idle).mold.mold ≠ none ∧ (ptmAt .idle).grid.lock = .idle ∧
      (ptmAt .locked).grid.lock = .locked ∧ (ptmAt .locked).mayPresent.1 = true ∧
      (ptmAt .idle).mayLose.1 = false ∧ declared.mayLose.1 = true ∧ declared.grid.lock = .idle ∧
      (gridAt .acquiring).grid.lock = .acquiring ∧ (gridAt .acquiring).mayLose.1 = true ∧
      draining.grid.lock = .locked ∧ draining.mayLose.1 = true ∧
      (gridAt .acquiring).grid.refPresent = true ∧ (gridAt .acquiring).strikeRef = false ∧
      strikeAt.grid.lock = .acquiring ∧ strikeAt.grid.refPresent = true ∧ strikeAt.grid.origin = none ∧
      State.reset.grid.lock ≠ .acquiring ∧
      (gridAt .holdover).grid.lock = .holdover ∧ (gridAt .holdover).holdover ≤ (gridAt .holdover).grid.heldFor ∧
      (gridAt .holdover).grid.freeRunIrq = false ∧ State.reset.grid.lock ≠ .holdover := by decide

theorem wit_power_comes :
    State.reset.power.phase = .off ∧ up.power.phase ≠ .off ∧ (phased .standbyBoot).power.phase = .standbyBoot ∧
      (phased .standbyBoot).power.heldDeassert = none ∧ up.power.phase ≠ .standbyBoot ∧
      (phased .tripped).power.phase = .tripped ∧
      ({ Power.reset with phase := .tripped, lostAt := some 0 } : Power).lostAt = some 0 ∧ up.power.phase ≠ .tripped ∧ up.mem.flushLog = none ∧
      up.power.phase = .running := by decide

theorem wit_power_states :
    sleepy.power.split = false ∧ sleepy.ctrls[(0 : Ctrl)].apstEnable = true ∧
      sleepy.ctrls[(0 : Ctrl)].apstTable[sleepy.power.state]? = some (3, 100) ∧ sleepy.power.state < 3 ∧
      sleepy.idleNow = true ∧ busy.idleNow = false ∧ State.reset.ctrls[(0 : Ctrl)].apstEnable = false ∧
      sleepy.power.exiting = true ∧ State.reset.power.exiting = false ∧
      awake.engines[(0 : EngineId)].state = .idle ∧ awake.benches[(0 : BenchId)].state = .idle := by decide

theorem wit_boot :
    (phased .standbyBoot).power.phase = .standbyBoot ∧ (phased .standby).power.phase = .standby ∧
      State.reset.power.phase ≠ .standbyBoot ∧ State.reset.power.phase ≠ .standby ∧
      booting.links[(0 : DieId)].state = .training ∧ booting.links[(0 : DieId)].lanes ||| 0x7F ≠ 0xFF ∧
      booting.links[(0 : DieId)].lanes ||| 0xFF = 0xFF ∧ booting.power.phase = .booting ∧ booting.fw.mcRuns = true ∧
      linksUp.power.phase = .booting ∧ linksUp.fw.mcRuns = true ∧
      State.reset.links[(0 : DieId)].state ≠ .training ∧ State.reset.fw.mcRuns = false ∧
      up.power.phase = .running ∧ State.reset.power.phase ≠ .booting ∧ State.reset.power.phase ≠ .running := by decide

theorem wit_boot_links : ∀ l ∈ linksUp.links.toList, l.state = .up := by decide

theorem wit_caps :
    State.reset.bmc.answers = false ∧ answering.bmc.answers = true ∧
      bits (0x80000400 : Word32).toNat 30 11 = 0 ∧ bits (0x80000400 : Word32).toNat 10 0 = 1024 ∧
      bit (0x80000400 : Word32).toNat 31 = true ∧ bits (0 : Word32).toNat 30 11 = 0 ∧
      bits (0 : Word32).toNat 10 0 = 0 ∧ bit (0 : Word32).toNat 31 = false ∧ bits (0x800 : Word32).toNat 30 11 ≠ 0 ∧
      ¬(bits (0x15D : Word32).toNat 10 0 = 0 ∨
        (350 ≤ bits (0x15D : Word32).toNat 10 0 ∧ bits (0x15D : Word32).toNat 10 0 ≤ 1800)) ∧
      braked.power.brake = true ∧ State.reset.power.brake = false ∧ State.reset.power.brakeIrq = false ∧
      State.reset.gridRuns = false := by decide

theorem wit_sensors :
    up.power.phase ≠ .off ∧ up.power.phase ≠ .tripped ∧ tripOf cold none 0 = none ∧
      tripOf { cold with bank := 90 } none 0 = some (5, 90) ∧ State.reset.power.phase = .off ∧
      hot.power.emergency = true ∧ hot.power.lastHotUs + 1000000 ≤ hot.clockUs ∧ up.power.emergency = false ∧
      lowRail.power.phase ≠ .off ∧ lowRail.power.phase ≠ .tripped ∧
      lowRail.power.rails.contains (.nandVcc 3) = true := by decide

theorem wit_least_cap : [(1800, 6), (600, 4)] ≠ ([] : List (Nat × Nat)) := by decide

theorem wit_shop :
    shopped.mold.mold = some mold2 ∧ shopped.ioWaits = false ∧ ioq.ioWaits = true ∧ mold2.shopOfQueue k1.ctrl k1.sqid = some shop1 ∧ mold2.c0Shop = some shop1 :=
  ⟨rfl, rfl, rfl, rfl, rfl⟩

theorem wit_onant :
    State.reset.mold.mold = none ∧ mold1.shopOfQueue k1.ctrl k1.sqid = none ∧
      ({ sqe 0x94 with key := k1, cdw12 := 1 } : Sqe).cdw12 ≠ 0 ∧ ({ sqe 0x94 with nsid := 1 } : Sqe).nsid ≠ 0 ∧
      bits (0x10000000 : Word32).toNat 31 28 ≠ 0 := by decide

theorem wit_arrival :
    State.reset.mold.mold = none ∧ (arriving 1).job k1 = some { job1 with cls := 1, state := .waiting, arrivedUs := none } ∧
      mold2.env.maxK < job1.k ∧ (arriving 0).sched.preemptOnArrival = true ∧
      ({ job1 with arrivedUs := none } : Job).arrivedUs = none ∧ shopped.job k1 = some job1 ∧
      job1.state ≠ .waiting := by decide +kernel

theorem wit_arrival_pick :
    let j : Job := { job1 with cls := 0, k := 0, lists := 0, tokens := 0, state := .waiting, arrivedUs := none, coll := none }
    ({ shopped with sched := { shopped.sched with jobs := [j] } } : State).pickC0 mold2 j = some 0 := by decide +kernel

theorem wit_job_status :
    onantOk { sqe 0x92 with key := k1, cdw10 := 0x10009 } [0x0FFFFFFF, 0, 0, 0, 0, 0] 0 64 = true ∧
      shopped.sched.jobs.find? (fun j => j.isJob && j.key.cid.toNat == 0x10009 % 65536 &&
        j.key.sqid == 0x10009 / 65536 % 2048 && j.key.ctrl.val == 0x10009 / 2 ^ 27 % 2) = some job1 ∧
      shopped.sched.jobs.find? (fun j => j.isJob && j.key.cid.toNat == 0x10008 % 65536 &&
        j.key.sqid == 0x10008 / 65536 % 2048 && j.key.ctrl.val == 0x10008 / 2 ^ 27 % 2) = none := by decide

theorem wit_job_submit :
    let e : Sqe := { sqe 0x91 with key := k1, cdw10 := 136, psdt := 1, sgl := [sgl 136, sgl 64] }
    let bs := padTo 136 desc43
    let d := readJobDesc bs
    onantOk e [allOnes, 0, 0, 0, 0, 0] 136 d.answerBytes = true ∧ d.ok bs 136 = true ∧ d.fits mold2 shop1 = true ∧
      (benchOp d.op = true → shopped.benchesHeld shop1 d = true) ∧ shopped.jobState mold2 d = none ∧
      shopped.jobContent mold2 shop1 d = true ∧ (∃ c, mold2.coll d.coll = some c ∧ shopped.keyHeld c.label = false) ∧
      (∀ c, mold2.coll d.coll = some c → unlockedShop.keyHeld c.label = true) ∧ 0 ≤ unlockedShop.kvRoom mold2 shop1 ∧
      unlockedShop.placePages mold2 shop1 [] = some [] ∧
      ¬(d.cls = 0 ∧ mold2.env.bound * mold2.periodUs < d.tJobUs) := by decide +kernel

theorem wit_query :
    let e : Sqe := { sqe 0x93 with
      key := k1, cdw10 := 0x1001, cdw11 := 256, cdw12 := 0x10001, cdw14 := 64, psdt := 1, sgl := [sgl 256, sgl 64] }
    let q := readQuery e
    onantOk e [0x1FFF, 0x1FFFF, 0x1FFF1FFF, 0x1FFF, allOnes, 0] q.bytes q.answerBytes = true ∧
      q.ok mold2 (padTo q.bytes []) = true ∧ (mold2.coll q.coll).isSome = true ∧ q.vector = true := by decide +kernel

theorem wit_objects :
    (let e : Sqe := { sqe 0x95 with key := k1, cdw10 := 1, cdw12 := 145 }
    onantOk e [0xFFF, 0, allOnes, allOnes, 0, 0] (wide64 e.cdw12 e.cdw13) 0 = true ∧
      (mold2.coll (bits e.cdw10.toNat 11 0)).isSome = true) ∧
      envelopeFault env17 env17.length 5 = none ∧ envelopeFault [] 0 5 = some 0 ∧
      (∀ x, shopped.coll 1 = some x → x.unavailable = false) ∧
      (let e : Sqe := { sqe 0x96 with key := k1, cdw10 := 7, cdw14 := 4 }
      onantOk e [allOnes, allOnes, 0, 0, 0, 0] 0 80 = false ∧
        onantOk { e with cdw14 := 0 } [allOnes, allOnes, 0, 0, 0, 0] 0 80 = true ∧
        onantOk e [allOnes, allOnes, allOnes, allOnes, allOnes, 0] 0 4 = true) ∧
      shopped.liveObj 7 = none ∧ stored.liveObj 7 = some objA ∧ (mold2.coll objA.coll).isSome = true ∧
      (∀ x, stored.coll objA.coll = some x → x.unavailable = false) ∧ 0 + 4 ≤ objA.envelope.length ∧
      stored.benches[objA.bench].state ≠ .failed ∧ stored.benchReady objA.bench = true ∧ objA.lost = none ∧
      stored.benchKept objA.bench = false ∧ stored.ioWaits = false ∧ shopped.ioWaits = false ∧
      stored.benches[objA.bench].countEn = true := by decide +kernel

theorem wit_put_bench : (shop1.benches.filter fun b => shopped.benches[b].state != .failed) = [0] := by decide +kernel

theorem wit_durable :
    shopped.search.puts.find? (fun p => p.key == k1) = none ∧
      putting.search.puts.find? (fun p => p.key == k1) =
        some { key := k1, coll := 1, bench := 0, envelope := [1, 2, 3, 4, 5] } ∧
      putting.benchOk 0 = true ∧ putting.benchReady 0 = true ∧ shopped.benchReady 0 = false ∧
      putting.benchKept 0 = false ∧ putting.canDirty 0 (objectMapGranule putting.search.nextId) 5 = true ∧
      (stopped.canDirty 0 (objectMapGranule stopped.search.nextId) 5 = false) ∧
      (putting.journal 0 7).any (fun u => (u.dirtyAll (putting.deleteWrites objA)).2) = true ∧
      (stopped.journal 0 7).any (fun u => !(u.dirtyAll (stopped.deleteWrites objA)).2) = true ∧ putting.liveObj 7 = some objA ∧
      stopped.liveObj 7 = some objA ∧
      onantOk { sqe 0x97 with key := k1, cdw10 := 7 } [allOnes, allOnes, 0, 0, 0, 0] 0 0 = true ∧
      shopped.liveObj 7 = none ∧ stored.liveObj 7 = some objA ∧ (mold2.coll objA.coll).isSome = true ∧
      (∀ x, stored.coll objA.coll = some x → x.unavailable = false) ∧
      putting.search.deletes.find? (fun d => d.1 == k1) = some (k1, 7) ∧ shopped.search.deletes.find? (fun d => d.1 == k1) = none := by decide +kernel

theorem wit_ingots :
    let e : Sqe := { sqe 0x98 with key := k1, cdw10 := 3, cdw14 := 4096 }
    onantOk e [allOnes, 1, allOnes, allOnes, allOnes, 0] 4096 0 = true ∧ 4096 % 4096 = 0 ∧ shopped.ingot 3 = none ∧
      onantOk { e with cdw14 := 0 } [allOnes, 0, 0, 0, 0, 0] 0 0 = true ∧ cached.ingot 3 = some ingot3 ∧
      (∀ x ∈ cached.ingots, ¬(x.derived = true ∧ x.base = 3)) ∧ State.reset.ingot (3 : Word32).toNat = none ∧
      loadingState.ingot (3 : Word32).toNat = some (loadingIngot 3) ∧ (loadingIngot 3).finalPiece = none ∧
      (loadingIngot 3).lastPieceUs + 10000000 ≤ loadingState.clockUs ∧
      (loadingIngot 3).image.length = 0 ∧ shopped.ioWaits = false ∧ dropped.dropping (3 : Word32).toNat = true ∧
      (∀ j ∈ dropped.sched.jobs, j.ingot ≠ 3) ∧
      (∀ c ∈ dropped.cache.toList, ∀ o ∈ c.objs, o.id.ingot = 3 → o.pinned = false) ∧
      State.reset.dropping (3 : Word32).toNat = false := by decide +kernel

theorem wit_boundary :
    State.reset.mold.mold = none ∧ draining.mold.mold ≠ none ∧ draining.gridRuns = true ∧
      (∀ m, draining.mold.mold = some m → draining.strokeFits m 500000 false = true) ∧
      (∀ m, stroked.mold.mold = some m → stroked.strokeFits m 0 false = false) ∧ stroked.gridRuns = true := by decide

theorem wit_units :
    (working .idle).mold.mold ≠ none ∧ (working .idle).job k1 = some job5 ∧ (working .idle).placeable job5 1 = false ∧
      (working .idle).placeable job5 0 = true ∧ benchOp 0x05 = false ∧ plainUnit.kind ≠ 3 ∧
      ((working .idle).unitEntry job5 0).getD plainUnit = plainUnit ∧
      (working .idle).pinsFit (quarterOfEngine 0) plainUnit.pinned = true ∧
      (working .running).engines[(0 : EngineId)].state = .running ∧
      (working .running).engines[(0 : EngineId)].ctx.npOpen = none ∧ (working .running).semBlocked (some k1) ((working .running).nextThere 0) = false ∧
      ((working .running).engines[(0 : EngineId)].job.map fun p => p.1) = some k1 ∧
      (working .idle).unplacedPart job5 0 = none ∧ (working .saving).engines[(0 : EngineId)].quiet = true ∧
      npOpened.engines[(0 : EngineId)].ctx.npOpen ≠ none ∧ npOpened.engines[(0 : EngineId)].state = .running ∧
      (working .saving).engines[(0 : EngineId)].state = .saving ∧
      (working .saving).engines[(0 : EngineId)].job = some (k1, 0) ∧
      (working .restoring).engines[(0 : EngineId)].state = .restoring ∧ (working .idle).benches[(0 : BenchId)].job = none ∧
      (working .idle).benches[(1 : BenchId)].job = some k1 ∧
      (working .idle).semBlocked (some k1) none = false := by decide +kernel

theorem wit_units_shop : mold2.shop job5.shop = some shop1 ∧ (0 : EngineId) ∈ shop1.engines := ⟨rfl, by decide +kernel⟩

theorem wit_unit_complete :
    let s := working .running
    s.job k1 = some job5 ∧ s.partsDone k1 1 (job5.placed.filter fun p => p.unit == 1) = false ∧
      ranOn.job k1 = some jobOn ∧
      ranOn.partsDone k1 0 (jobOn.placed.filter fun p => p.unit == 0) = true ∧
      (jobOn.placed.filter fun p => p.unit == 0) =
        [{ unit := 0, engine := some 0, bench := none, part := Part.whole, hinted := false }] ∧ jobOn.partEnds = [] ∧
      jobOn.quenching = false ∧ (splitOn.job k1 = some jobSplit) ∧
      splitOn.partsDone k1 0 (jobSplit.placed.filter fun p => p.unit == 0) = true ∧
      1 < ((jobSplit.placed.filter fun p => p.unit == 0).filterMap Placed.engine).length ∧
      ranOn.engines[(0 : EngineId)].ctx.causes = 0 ∧ State.reset.job k1 = none := by decide +kernel

theorem wit_unit_flag : flaggedOn.engines[(0 : EngineId)].ctx.causes ≠ 0 ∧ flaggedOn.job k1 = some jobOn ∧
    flaggedOn.partsDone k1 0 (jobOn.placed.filter fun p => p.unit == 0) = true := by decide +kernel

theorem wit_fault : State.reset.job k1 = none ∧ ranOn.job k1 ≠ none ∧ ranOn.engines[(0 : EngineId)].job = some (k1, 0) ∧
    (∀ u, ranOn.engines[(1 : EngineId)].job ≠ some (k1, u)) ∧ (∀ c ∈ ranOn.engines[(1 : EngineId)].saved, c.key ≠ k1) ∧
    ranOn.engines[(1 : EngineId)].resident ≠ some k1 := by
  refine ⟨?_, ?_, ?_, fun u => ?_, ?_, ?_⟩ <;> first | decide +kernel | exact fun h => nomatch h

theorem wit_overruns :
    ranOn.job k1 = some jobOn ∧ jobOn.state ≠ .waiting ∧ (0x17 : Byte).toNat ∈ faultStatuses ∧
      (0x20 : Byte).toNat ∉ faultStatuses ∧ (∀ j, (arriving 0).job k1 = some j → j.state = .waiting) ∧
      npOpened.engines[(0 : EngineId)].state = .running ∧ npOpened.engines[(0 : EngineId)].job = some (k1, 0) ∧
      npOpened.engines[(0 : EngineId)].ctx.npOpen = some 20 ∧ npOpened.job k1 = some jobOn ∧
      State.reset.engines[(0 : EngineId)].state ≠ .running ∧ (State.reset.sem 1 2).holder = none ∧
      ({ State.reset with sched := { Sched.reset with
        sems := [{ shop := 1, num := 2, holder := some k1, broken := false, waiters := [] }] } } : State).sem 1 2 =
          { shop := 1, num := 2, holder := some k1, broken := false, waiters := [] } ∧
      (capped false).cls = 0 ∧ (capped false).tJobUs ≠ 0 ∧ (capped false).state ≠ .waiting ∧
      (capped false).quenchable = true ∧ (cappedIn true).job k1 = some (capped true) ∧ (cappedIn true).npRuns k1 = false ∧
      (∀ i, (capped true).kind ≠ .objGet i) ∧ (cappedIn true).waitsSign (capped true) true = false ∧ (∀ j ∈ ranOn.sched.jobs, j.gateOrder = none) ∧
      gated.gateNext = some { jobOn with gateOrder := some 3 } := by
  refine ⟨?_, ?_, ?_, ?_, ?_, ?_, ?_, ?_, ?_, ?_, ?_, ?_, ?_, ?_, ?_, ?_, ?_, ?_, ?_, ?_, ?_, ?_⟩ <;>
    first | decide +kernel | exact fun _ h => nomatch h

theorem wit_array :
    State.reset.executes 0 = none ∧ ranOn.executes 0 = some k1 ∧
      arrayFault false (arrayOp (BitVec.ofNat 128 ((2 : BitVec 128).toNat - (2 : BitVec 128).toNat % 256 + 1))) 0 =
        some erFormatPair ∧
      arrayFault false (arrayOp mma1) 0 = none ∧ formatPair (arrayOp mma1).aFmt (arrayOp mma1).bFmt = some (9, .eight) ∧
      BitVec.ofNat 128 (mma1.toNat - mma1.toNat % 256 + 1) = mma1 ∧ ranOn.engines[(0 : EngineId)].ctx.slots = [] ∧
      staged.engines[(0 : EngineId)].ctx.slots = [slotA] ∧ slotA.word = mma1 ∧ slotA.skew = none ∧
      recordSkew staged.engines[(0 : EngineId)] (arrayOp mma1) slotA = none ∧ ranOn.mem.poisoned = [] ∧
      staged.engines[(0 : EngineId)].drain.length < 4 ∧
      staged.engines[(0 : EngineId)].arrayHazard 0 (tileUnits 0 0 1) = false ∧
      (vecBusy.engines[(0 : EngineId)].arrayHazard 0 (tileUnits 0 0 1)) = true ∧ (arrayOp mma1).op = 1 ∧
      meets (arrayOp mma1).granules (ranOn.engines[(0 : EngineId)].busyGranules 0) = false ∧
      (drained 1).engines[(0 : EngineId)].drain = [drainA] ∧ ranOn.engines[(0 : EngineId)].drain = [] := by
  decide +kernel

theorem wit_drain :
    (drained 4).executes 0 = some k1 ∧ (drained 4).engines[(0 : EngineId)].ctx.slots = [slotA] ∧
      4 ≤ (drained 4).engines[(0 : EngineId)].drain.length ∧ (drained 1).engines[(0 : EngineId)].drain.length < 4 ∧
      recordSkew (drained 4).engines[(0 : EngineId)] (arrayOp mma1) slotA = none ∧
      (drained 4).drainUes 0 drainA.offsets = [] := by decide +kernel

theorem wit_vector :
    State.reset.executes 0 = none ∧ plated.executes 0 = some k1 ∧ 6 ≤ (6 : BitVec 4).toNat ∧
      vredWidth (3 : BitVec 4).toNat = some 1 ∧ (cvtOp 0).fault = some erFormatPair ∧ (cvtOp cvt1).fault = none ∧
      (cvtOp cvt1).srcAcc = false ∧ (cvtOp cvt1).scaleSrc = 0 ∧ isMx (cvtOp cvt1).dst = false ∧
      ((cvtOp cvt1).ranges 0 false).1 = [({ space := .operand 0, off := 0 }, (cvtOp cvt1).srcBytes)] ∧
      ((cvtOp cvt1).ranges 0 false).2 = [({ space := .operand 0, off := 512 }, (cvtOp cvt1).dstBytes)] ∧
      plated.engines[(0 : EngineId)].vectorHazard 0 [] = false ∧ plated.engines[(0 : EngineId)].sampled = [] ∧
      plated.worldBreak 0 { space := .operand 0, off := 0 } (cvtOp cvt1).srcBytes false = false ∧
      plated.worldBreak 0 { space := .operand 0, off := 512 } (cvtOp cvt1).dstBytes true = false ∧
      plated.mem.poisoned = [] ∧ plated.engines[(0 : EngineId)].vec.length < 4 ∧
      ({ plated with engines := plated.engines.set 0 { plated.engines[(0 : EngineId)] with sterling := true } } :
        State).worldBreak 0 { space := .operand 0, off := 512 } (cvtOp cvt1).dstBytes true = true := by decide +kernel

theorem wit_control :
    State.reset.executes 0 = none ∧ ranOn.executes 0 = some k1 ∧ ranOn.job k1 = some jobOn ∧ 0 ≤ jobOn.nonpreUs ∧
      ranOn.engines[(0 : EngineId)].ctx.npOpen = none ∧ npOpened.engines[(0 : EngineId)].ctx.npOpen ≠ none ∧
      npOpened.executes 0 = some k1 ∧ npOpened.job k1 = some jobOn ∧ ranOn.engines[(0 : EngineId)].drain = [] ∧
      ranOn.engines[(0 : EngineId)].vec = [] ∧ ranOn.engines[(0 : EngineId)].xfers = [] ∧
      ranOn.engines[(0 : EngineId)].tsBuffer = [] ∧
      (drained 1).engines[(0 : EngineId)].drain ≠ [] ∧ (semHeld (some k1) false).executes 0 = some k1 ∧
      ((semHeld (some k1) false).sem 1 2).holder = some k1 ∧ (ranOn.sem 1 2).holder ≠ some k1 ∧
      (0x03 : Byte).toNat ∉ [0x01, 0x02, 0x08, 0x10, 0x11, 0x12, 0x20, 0x28, 0x30, 0x31, 0x38, 0x39, 0x3F] := by
  decide +kernel

theorem wit_semaphores :
    (semHeld none true).executes 0 = some k1 ∧ (semHeld none true).job k1 = some { jobOn with semMask := 4 } ∧
      (4 : BitVec 64).getLsbD 3 = false ∧ (4 : BitVec 64).getLsbD 2 = true ∧
      ((semHeld none true).sem 1 2).holder = none ∧ (k1, (0 : EngineId)) ∈ ((semHeld none true).sem 1 2).waiters ∧
      ((semHeld (some k0) false).sem 1 2).holder ≠ none := by decide +kernel

theorem wit_transfers :
    State.reset.executes 0 = none ∧ plated.executes 0 = some k1 ∧
      xferEnds { src := 0, dst := 0, len := 262145, tag := 0 } = none ∧ xferEnds xferA = some xferB ∧
      plated.worldBreak 0 xferB.src 64 false = false ∧ plated.worldBreak 0 xferB.dst 64 true = false ∧
      (49152 : Nat) > 49151 ∧ (0 : Nat) ≤ 49151 ∧ 0 * 512 + 256 * 2 ≤ 25165824 ∧ plated.mem.poisoned = [] ∧
      State.reset.engines[(0 : EngineId)].xfers = [] ∧ moving.engines[(0 : EngineId)].xfers = [xferB] ∧
      moving.engines[(0 : EngineId)].job = some (k1, 0) ∧ sampled.engines[(0 : EngineId)].job = some (k1, 0) ∧
      sampled.job k1 = some jobOn ∧ sampled.engines[(0 : EngineId)].tsBuffer = [sampleA] ∧
      sampleA.over jobOn.tol 1 = 1 ∧ moving.readWaits xferB.src xferB.len = false ∧
      moving.writeWaits xferB.dst xferB.len = false ∧
      sampled.engines[(0 : EngineId)].tsThisStroke = true ∧ sampled.mold.mold ≠ none := by decide +kernel

theorem wit_accumulation :
    (arrayOp (mma1 ||| (1 <<< 30))).clear = true ∧ (arrayOp mma1).clear = false ∧ (arrayOp mma1).accFmt = 9 ∧
      (arrayOp 0).accFmt ≠ 9 ∧ 0 < sramLine ∧ (Store.empty.write sramLine 5 7).wf sramLine = true := by decide +kernel

theorem wit_formats : fmtFp32 ∈ [fmtFp32, fmtBf16, fmtFp16, fmtE4m3, fmtE5m2, fmtE2m1] ∧ 0x7F7FFFFF ≤ fmtFp32.maxMag ∧
    0x7E ≤ fmtE4m3.maxMag := by decide

theorem wit_page_read :
    State.reset.nandOk 0 = false ∧ flashy.nandOk 0 = true ∧ (flashy.flash[(0 : BenchId)].blk pageA.blk).state = .open ∧
      ¬((flashy.flash[(0 : BenchId)].blk pageA.blk).rows ≤ pageA.row) ∧
      flashy.flash[(0 : BenchId)].dieDead pageA.blk.die.val = false ∧ flashy.flash[(0 : BenchId)].patrolEn = true ∧
      pageA.row < (flashy.flash[(0 : BenchId)].blk pageA.blk).next ∧ flashy.mediaFree 0 = true ∧
      flashy.inC0Window 0 = false ∧ (0 : Fin 8) ∉ flashy.flash[(0 : BenchId)].failedDies ∧
      flashy.flash[(0 : BenchId)].readStops pageA = false ∧ flashy.flash[(0 : BenchId)].fillerAt pageA = none ∧
      pageA ∉ (flashy.flash[(0 : BenchId)].patrolPass 0).patrolSeen ∧ flashy.nandPowered 0 = true ∧
      State.reset.mediaFree 0 = false := by decide +kernel

theorem wit_programs :
    flashy.lst 1 = none ∧ listed.lst 1 = some lst1 ∧ listed.coll lst1.coll = some collBig ∧ lst1.bench = 0 ∧
      lst1.fullOf 0 < lst1.streamBytes collBig.dims 0 / 16384 ∧ listed.nandOk 0 = true ∧ listed.benchKept 0 = false ∧
      listed.flash[(0 : BenchId)].ops = [] ∧
      (opping false).flash[(0 : BenchId)].ops.find? (fun o => o.ident.any fun x => x.page == pageA) = some (opA false) ∧
      (opA false).ident = some identA ∧ (flashy.flash[(0 : BenchId)].blk blkF).state = .full ∧
      flashy.flash[(0 : BenchId)].validIn blkF = [] ∧ (∀ t ∈ flashy.flash[(0 : BenchId)].stripes, blkF ∉ t.blocks) ∧
      flashy.flash[(0 : BenchId)].rawBusy = false ∧ (∀ r ∈ (opping true).flash[(0 : BenchId)].readQueue, r.1 ≠ 0) ∧
      (∀ w ∈ flashy.search.sweeps, w.bench ≠ 0) ∧ flashy.flash[(0 : BenchId)].busy blkF.die = false ∧
      (flashy.flash[(0 : BenchId)].blk pageA.blk).state ≠ .full ∧
      (flashy.flash[(0 : BenchId)].blk pageA.blk).state ≠ .eraseIncomplete ∧
      erasing.flash[(0 : BenchId)].ops.find? (fun o => o.block == blkF && o.ident.isNone) =
        some { block := blkF, ident := none, resumedUs := 0, suspended := false } ∧
      (opping false).flash[(0 : BenchId)].ops.find? (fun o => o.block.die == 0 && !o.suspended) = some (opA false) ∧
      (opping false).nandLow 0 = false ∧ (opping true).flash[(0 : BenchId)].ops.find? (fun o =>
        o.block.die == 0 && o.suspended) = some (opA true) ∧ (opping true).nandLow 0 = false := by decide +kernel

theorem wit_media_moves :
    State.reset.mediaFree 0 = false ∧ flashy.mediaFree 0 = true ∧
      (∀ x ∈ flashy.flash[(0 : BenchId)].idents, ¬(x.kind = 0 ∧ flashy.flash[(0 : BenchId)].inRole roleStaging x = true)) ∧
      stagedPage.mediaFree 0 = true ∧ stagedPage.flash[(0 : BenchId)].idents.reverse.find? (fun x =>
        x.kind == 0 && stagedPage.flash[(0 : BenchId)].inRole roleStaging x) = some identS ∧
      flashy.lst 1 = none ∧ flashy.flash[(0 : BenchId)].victim = none ∧
      flashy.flash[(0 : BenchId)].mostPe 0 ≤ flashy.flash[(0 : BenchId)].leastPe 0 + 200 ∧
      ((flashy.flash[(0 : BenchId)].blk blkF).due = false) ∧ (flashy.flash[(0 : BenchId)].blk blkW).due = true ∧
      (flashy.flash[(0 : BenchId)].blk blkW).state = .full ∧ Rail.nandVcc 3 ∈ lowRail.power.rails ∧
      Rail.nandVcc 3 ∉ flashy.power.rails ∧ Rail.nandVccq 3 ∉ flashy.power.rails ∧
      (State.reset.modPower fun p => { p with holdupOk := true }).power.holdupOk = true ∧
      (State.reset.modPower fun p => { p with holdupOk := true }).dirtyCount (quarterOfBench 0) <
        (State.reset.modPower fun p => { p with holdupOk := true }).dirtyLimit ∧
      Flash.reset.stripes.map Stripe.blocks ≠
        ({ Flash.reset with stripes := [{ num := 0, blocks := [], next := 0 }] } : Flash).stripes.map Stripe.blocks := by
  decide +kernel

theorem wit_raw :
    flashy.flash[(0 : BenchId)].rawBusy = false ∧ rawTarget flashy.flash[(0 : BenchId)].rawAddr = some pageA.blk ∧
      (flashy.flash[(0 : BenchId)].blk pageA.blk).state ≠ .erasing ∧
      (flashy.flash[(0 : BenchId)].blk pageA.blk).state ≠ .suspended ∧
      (erasing.modFlash 0 fun f => { f with rawAddr := 64 }).flash[(0 : BenchId)].rawBusy = false ∧
      rawTarget (64 : Word32) = some blkF ∧ (erasing.flash[(0 : BenchId)].blk blkF).state = .erasing ∧
      rawTarget (0x1FFE0 : Word32) = none ∧ (erasing.modFlash 0 fun f => { f with rawBusy := true }).nandPowered 0 = true := by
  decide +kernel

theorem wit_queries :
    walking.job k1 = some jobQ ∧ jobQ.kind = .query ∧ jobQ.front = some 0 ∧ jobQ.coll = some 1 ∧
      walking.coll 1 = some coll1 ∧ jobQ.walked = false ∧ jobQ.quenching = false ∧
      walking.engines[(0 : EngineId)].job = some (k1, frontUnit) ∧ walking.engines[(0 : EngineId)].state = .running ∧
      sweeping.sweepList sweepA = some lst1 ∧ sweeping.drainsBench 0 = false ∧ fetching.drainsBench 0 = false ∧
      sweeping.search.sweeps.find? (fun w => w.list == 1 && !w.coded) = some sweepA ∧
      sweeping.search.sweeps.find? (fun w => w.bench == lst1.bench && !w.coded) =
        some sweepA ∧ sweepA.list = 1 ∧ sweeping.benchOk 0 = true ∧ sweeping.benchReady 0 = true ∧
      fetching.job k1 = some jobF ∧ jobF.coll = some 1 ∧ fetching.coll 1 = some coll1 ∧ (0 : BenchId) ∈ jobF.benchesLeft ∧
      (∀ w ∈ fetching.search.sweeps.filter fun w => w.bench == 0 && w.queries.contains k1, w.coded = true) ∧
      fetching.benchOk 0 = true ∧ fetching.benchReady 0 = true ∧ merging.job k1 = some jobM ∧ jobM.walked = true ∧
      jobM.benchesLeft = [] ∧ jobM.targets = [] ∧ jobM.active = true ∧ State.reset.job k1 = none ∧
      (∀ w ∈ State.reset.search.sweeps, w.list = 1 → w.coded = true) := by decide +kernel

theorem wit_reads :
    stored.benches[(0 : BenchId)].reading = none ∧ stored.benchOk 0 = true ∧ stored.benches[(0 : BenchId)].state ≠ .off ∧
      stored.benchReady 0 = true ∧ stored.benchKept 0 = false ∧
      stored.workMay 2 (benchRes 0) (stored.readyOnBench 0) = true ∧
      stored.search.objs.find? (fun o => o.bench == 0 && o.state == .pending && o.deleted.isNone) = some objA ∧
      stored.readBlocked objA ≠ 0 ∧ ready.canDirty (quarterOfBench 0) (objectMapGranule objA.id) 5 = true ∧
      stopped.canDirty (quarterOfBench 0) (objectMapGranule objA.id) 5 = false ∧ stored.drainsBench 0 = false ∧
      batching.workMay 2 0 (batching.readyOnEngine 0) = true ∧ ingesting.readBlocked objA = 0 ∧ (ingesting.readObject objA).isSome = true ∧
      State.reset.search.objs.find? (fun o => o.bench == 0 && o.state == .pending && o.deleted.isNone) = none ∧
      batching.obj 7 = some objR ∧ batching.benchReady 0 = true ∧ (0 : EngineId) ∈ batching.batchEngines 0 objR.coll ∧
      (1 : EngineId) ∉ batching.batchEngines 0 objR.coll ∧ batching.entriesOk 0 [(7, 0, 5)] = true ∧
      batching.benches[(0 : BenchId)].batches = [batchA] ∧ batchA.engine = some 0 ∧ batchA.entries = [(7, 1, 5)] ∧
      State.reset.benchReady 0 = false ∧
      (batching.modBench 0 fun x => { x with batches := [{ batchA with engine := none }] }).benchReady 0 = true := by
  decide +kernel

theorem wit_appends :
    State.reset.search.transit[0]? = none ∧ appending.search.transit[0]? = some (1, batchRec) ∧
      appending.recordGone batchRec = false ∧ appending.lst 1 = some lst1 ∧ lst1.retire = none ∧
      appending.appendMay 0 = true ∧ appending.mayHold 1 = true ∧ (appending.append lst1 batchRec).2 = .done ∧
      lst1.countAt = 0 ∧ listed.lst 1 = some lst1 ∧ (State.reset.recordGone batchRec = true) ∧
      lst1.marked = 0 ∧ lst1.mending = false ∧ marked1.lst 1 = some lstMarked ∧ lstMarked.marked = 1 ∧
      marked1.benchOk 0 = true ∧ marked1.benchKept 0 = false ∧ retiredState.lst 1 = some lstRetired ∧ retiredState.coll lstRetired.coll = some coll1 ∧
      retiredState.retired lstRetired = true ∧ listed.retired lst1 = false ∧
      waitingAppend.search.appendWait = [(1, batchRec)] ∧ waitingAppend.lst 1 = some lst1 ∧ lst1.bench = 0 ∧
      waitingAppend.recordGone batchRec = false ∧ waitingAppend.retired lst1 = false ∧
      waitingAppend.appendMay 0 = true ∧ waitingAppend.mayHold 1 = true ∧
      (waitingAppend.append lst1 batchRec).2 = .done ∧
      (gonePutting.search.appendWait = [(1, batchRec)]) ∧ gonePutting.recordGone batchRec = true ∧
      gonePutting.lst 1 = some lst1 ∧ fullPool.recordGone batchRec = false ∧ fullPool.search.marksUsed = markPool ∧
      fullPool.lst 1 = some { lst1 with countAt := 1 } ∧ fullPool.appendMay 0 = true ∧ fullPool.mayHold 1 = true ∧
      fullPool.search.transit[0]? = some (1, batchRec) := by decide +kernel

theorem wit_sequence :
    (pwt { Pewter.reset with seq := .lockout, lockouts := 3 }).pewter.seq = .lockout ∧
      ({ pwt { Pewter.reset with seq := .lockout, lockoutAt := 5 } with clockUs := 100005 } : State).pewter.lockoutAt + 100000 ≤
        100005 ∧
      ({ pwt { Pewter.reset with seq := .key1 } with clockUs := 65 } : State).pwtGap = true ∧
      State.reset.pwtGap = false ∧ State.reset.pewter.op = none ∧ State.reset.pewter.seq = .idle ∧
      (pwt { Pewter.reset with seq := .key1 }).pwtGap = false ∧ (pwt { Pewter.reset with seq := .unlocked }).pwtGap = false ∧
      (pwt { Pewter.reset with seq := .cmdSet, cmd := some erase1 }).pwtGap = false ∧
      pwtDataWrites erase1.opcode erase1.len = 0 ∧ pwtDataWrites program1.opcode program1.len = 2 ∧
      (pwt { Pewter.reset with seq := .data, cmd := some program1 }).pwtGap = false ∧ program1.data = [0] ∧
      (pwt { Pewter.reset with seq := .busy, op := some erase1 }).pwtGap = false ∧
      ({ Pewter.reset with lockouts := 15 } : Pewter).secEvent = false ∧
      ({ erase1 with pulsing := true } : PwtOp).opcode = 2 := by decide +kernel

theorem wit_operations :
    (∀ o ∈ [erase1, program1, { erase1 with opcode := 3, len := 1, addr := pwtVaultBase },
        { erase1 with opcode := 4, addr := pwtVaultBase + 36864 }, { program1 with opcode := 5, addr := pwtOptBase },
        { erase1 with opcode := 6, addr := pwtOptBase }], (pwt { Pewter.reset with op := some o }).pewter.op = some o ∧
      o.pulsing = false ∧ (pwt { Pewter.reset with op := some o }).pewter.brownout = false) ∧
      program1.opcode = 1 ∧ program1.addr % 16 = 0 ∧ program1.len = 2 ∧ program1.addr < pwtVaultBase ∧
      (∀ a ∈ program1.targets, Pewter.reset.programmed a = false) ∧ Pewter.reset.susp = none ∧
      erase1.fetchBank ≠ some (pwtBank erase1.addr) ∧ Pewter.reset.leafBatches = 0 ∧ vaultWord pwtVaultBase = 0 ∧
      vaultWord (pwtVaultBase + 36864) = 4608 ∧ Pewter.reset.lcState = 0 := by decide +kernel

theorem wit_vault :
    let o : PwtOp := { erase1 with pulsing := true }
    (pwt { Pewter.reset with op := some o }).pewter.op = some o ∧ o.pulsing = true ∧ o.opcode = 2 ∧
      o.addr < pwtVaultBase ∧ Pewter.reset.suspending = false ∧ Pewter.reset.susp = none ∧
      (pwt { Pewter.reset with op := some { program1 with pulsing := true } }).pewter.op =
        some { program1 with pulsing := true } ∧ program1.targets = [0] ∧
      (pwt (Pewter.reset.program pwtVaultBase 0 false)).pewter.programmed pwtVaultBase = true := by decide +kernel

theorem wit_registers :
    (0x70000 : Nat) % 4 = 0 ∧ placeOf 0x70000 = .reserved ∧ State.reset.dev.latches.find? (fun l => l.1 == 0x70000) = none ∧
      (0x110008 : Nat) % 4 = 0 ∧ placeOf 0x110008 = .engine 0 8 ∧ isLowHalf 0x20008 = true ∧ (2 : Nat) % 4 ≠ 0 ∧
      ({ State.reset with dev := { State.reset.dev with latches := [(4, 9)] } } : State).dev.latches.find?
        (fun l => l.1 == 4) = some (4, 9) ∧ up.present 0 = true ∧ State.reset.ctrls[(0 : Ctrl)].en = false ∧
      State.reset.present 0 = true := by decide +kernel

theorem wit_latched :
    (let d := bits (0x120 : Word32).toNat 7 4; 1 ≤ d ∧ d ≤ 8) ∧ (gridAt .locked).gridRuns = true ∧
      State.reset.gridRuns = false ∧ bits (0 : Word32).toNat 7 4 = 0 ∧ bits (0x00100010 : Word32).toNat 10 0 ≤ 1536 ∧
      bits (0x00100010 : Word32).toNat 24 16 ≤ 432 ∧ 1536 < bits (0x01FF07FF : Word32).toNat 10 0 ∧
      432 < bits (0x01FF07FF : Word32).toNat 24 16 ∧ (0 : BenchId).val % 16 = 0 ∧ (1 : BenchId).val % 16 ≠ 0 := by
  decide +kernel

theorem wit_bmc :
    answering.bmc.answers = true ∧ State.reset.bmc.answers = false ∧ answering.bmc.dynAddr = none ∧
      (answering.miStructure 0 0).isSome = true ∧ answering.miStructure 9 0 = none ∧ answering.present 0 = true ∧
      answering.theMold = none ∧ (sqe 0x06).opcode = 0x06 ∧ (answering.identifyPage 0 1).isSome = true ∧
      (answering.feature 0 0x01 0).isSome = true ∧
      ({ busy with bmc := { Bmc.reset with answers := true } } : State).theMold ≠ none := by decide +kernel

end Sys2Proof.Tests
end

/-! PROOFS. The scope of the block (00_scope.md): every command completes and leaves the queue alone; the registers
follow their access codes (R5, R8, R9, R379); latched writes wait for the boundary (R11 to R13). -/

namespace Sys2Proof.Proofs

open Sys2Proof Sys2Proof.Machine Sys2Proof.Laws

/-- Two outcomes that go on agree where their states do. -/
theorem next_eq {a b : State} (h : a = b) : (.next a : Out) = .next b := congrArg _ h

/-! ### Every command completes -/

/-- The outcome is a next state in which the waiting commands are those of s. -/
def CompletesWithQueueOf (s : State) (o : Out) : Prop := ∃ t, o = .next t ∧ t.pending = s.pending

/-- A frame that leaves the queue out is all that a command has to show. -/
theorem completes_of_frame {w : List Laws.Part} {s : State} {o : Out} (h : ∃ t, o = .next t ∧ Frame w s t)
    (hw : Laws.Part.pending ∉ w := by decide) : CompletesWithQueueOf s o :=
  let ⟨t, ho, hf⟩ := h
  ⟨t, ho, hf .pending hw⟩

/-- One case for each row of the table: the frame of a command never names the queue. -/
theorem exec_completes : ∀ (c : Instr) (s : State), CompletesWithQueueOf s (exec c s)
  | .inputGood .., s => completes_of_frame (execInputGood_frame _ _ s)
  | .standbyBootDone, s => completes_of_frame (execStandbyBootDone_frame s)
  | .inputPowerLost .., s => completes_of_frame (execInputPowerLost_frame _ _ s)
  | .moduleReset, s => completes_of_frame (execModuleReset_frame s)
  | .perstADeassert .., s => completes_of_frame (execPerstADeassert_frame _ _ s)
  | .linkTrainingComplete .., s => completes_of_frame (execLinkTrainingComplete_frame _ s)
  | .internalBootEnd .., s => completes_of_frame (execInternalBootEnd_frame _ s)
  | .perstBAssert, s => completes_of_frame (execPerstBAssert_frame s)
  | .functionLevelReset .., s => completes_of_frame (execFunctionLevelReset_frame _ s)
  | .controllerEnable .., s => completes_of_frame (execControllerEnable_frame _ _ _ _ s)
  | .controllerReady .., s => completes_of_frame (execControllerReady_frame _ s)
  | .controllerReset .., s => completes_of_frame (execControllerReset_frame _ s)
  | .controllerShutdown .., s => completes_of_frame (execControllerShutdown_frame _ _ s)
  | .sqTailDoorbell .., s => completes_of_frame (execSqTailDoorbell_frame _ _ _ s)
  | .cqHeadDoorbell .., s => completes_of_frame (execCqHeadDoorbell_frame _ _ _ s)
  | .submissionEntryFetched .., s => completes_of_frame (execSubmissionEntryFetched_frame _ s)
  | .fetchSlotsFreed .., s => completes_of_frame (execFetchSlotsFreed_frame _ s)
  | .hostReadPoisoned .., s => completes_of_frame (execHostReadPoisoned_frame _ s)
  | .hostReadTimeout .., s => completes_of_frame (execHostReadTimeout_frame _ s)
  | .schedulerArrival .., s => completes_of_frame (execSchedulerArrival_frame _ s)
  | .msixVectorUnmask .., s => completes_of_frame (execMsixVectorUnmask_frame _ _ s)
  | .ptmDialogIssue, s => completes_of_frame (execPtmDialogIssue_frame s)
  | .ptmDialogComplete .., s => completes_of_frame (execPtmDialogComplete_frame _ _ s)
  | .spdmGetVersion .., s => completes_of_frame (execSpdmGetVersion_frame _ s)
  | .spdmGetCapabilities .., s => completes_of_frame (execSpdmGetCapabilities_frame _ s)
  | .spdmNegotiateAlgorithms .., s => completes_of_frame (execSpdmNegotiateAlgorithms_frame _ s)
  | .spdmChallenge .., s => completes_of_frame (execSpdmChallenge_frame _ _ _ s)
  | .spdmGetMeasurements .., s => completes_of_frame (execSpdmGetMeasurements_frame _ _ _ _ s)
  | .spdmUnsupportedRequest .., s => completes_of_frame (execSpdmUnsupportedRequest_frame _ _ s)
  | .ideKmQuery c port, s => completes_of_frame (execIdeKmQuery_frame c port s)
  | .ideKmKeyProg .., s => completes_of_frame (execIdeKmKeyProg_frame _ _ _ s)
  | .ideKmKSetGo .., s => completes_of_frame (execIdeKmKSetGo_frame _ _ s)
  | .ideKmKSetStop .., s => completes_of_frame (execIdeKmKSetStop_frame _ _ s)
  | .identify .., s => completes_of_frame (execIdentify_frame _ s)
  | .getLogPage .., s => completes_of_frame (execGetLogPage_frame _ _ s)
  | .setFeatures .., s => completes_of_frame (execSetFeatures_frame _ _ s)
  | .getFeatures .., s => completes_of_frame (execGetFeatures_frame _ s)
  | .abort .., s => completes_of_frame (execAbort_frame _ s)
  | .createIoSq .., s => completes_of_frame (execCreateIoSq_frame _ s)
  | .createIoCq .., s => completes_of_frame (execCreateIoCq_frame _ s)
  | .deleteIoSq .., s => completes_of_frame (execDeleteIoSq_frame _ s)
  | .deleteIoCq .., s => completes_of_frame (execDeleteIoCq_frame _ s)
  | .asyncEventRequest .., s => completes_of_frame (execAsyncEventRequest_frame _ s)
  | .firmwareImageDownload .., s => completes_of_frame (execFirmwareImageDownload_frame _ _ s)
  | .firmwareCommit .., s => completes_of_frame (execFirmwareCommit_frame _ s)
  | .moldLoad .., s => completes_of_frame (execMoldLoad_frame _ _ s)
  | .moldLoadValidated, s => completes_of_frame (execMoldLoadValidated_frame s)
  | .recast .., s => completes_of_frame (execRecast_frame _ _ s)
  | .recastValidated, s => completes_of_frame (execRecastValidated_frame s)
  | .recastDrainComplete, s => completes_of_frame (execRecastDrainComplete_frame s)
  | .hallmarkGetStatus .., s => completes_of_frame (execHallmarkGetStatus_frame _ s)
  | .hallmarkGetRoots .., s => completes_of_frame (execHallmarkGetRoots_frame _ s)
  | .hallmarkGetAttest .., s => completes_of_frame (execHallmarkGetAttest_frame _ s)
  | .lifecycle .., s => completes_of_frame (execLifecycle_frame _ s)
  | .burnish .., s => completes_of_frame (execBurnish_frame _ s)
  | .burnishComplete .., s => completes_of_frame (execBurnishComplete_frame _ _ s)
  | .quench .., s => completes_of_frame (execQuench_frame _ s)
  | .schQuenchWrite .., s => completes_of_frame (execSchQuenchWrite_frame _ s)
  | .jobQuenchStop .., s => completes_of_frame (execJobQuenchStop_frame _ s)
  | .objPut .., s => completes_of_frame (execObjPut_frame _ _ s)
  | .objPutDurable .., s => completes_of_frame (execObjPutDurable_frame _ s)
  | .objGet .., s => completes_of_frame (execObjGet_frame _ _ _ s)
  | .objDelete .., s => completes_of_frame (execObjDelete_frame _ s)
  | .objDeleteDurable .., s => completes_of_frame (execObjDeleteDurable_frame _ s)
  | .objStat .., s => completes_of_frame (execObjStat_frame _ s)
  | .jobSubmit .., s => completes_of_frame (execJobSubmit_frame _ _ s)
  | .jobStatus .., s => completes_of_frame (execJobStatus_frame _ s)
  | .query .., s => completes_of_frame (execQuery_frame _ _ s)
  | .ingotLoad .., s => completes_of_frame (execIngotLoad_frame _ _ s)
  | .ingotValidationDone .., s => completes_of_frame (execIngotValidationDone_frame _ s)
  | .ingotLoadTimeout .., s => completes_of_frame (execIngotLoadTimeout_frame _ s)
  | .ingotDrop .., s => completes_of_frame (execIngotDrop_frame _ s)
  | .ingotRemoved .., s => completes_of_frame (execIngotRemoved_frame _ s)
  | .strokeBoundary .., s => completes_of_frame (execStrokeBoundary_frame _ s)
  | .referencePresent, s => completes_of_frame (execReferencePresent_frame s)
  | .referenceLost, s => completes_of_frame (execReferenceLost_frame s)
  | .gridLockAcquired, s => completes_of_frame (execGridLockAcquired_frame s)
  | .holdoverExpiry, s => completes_of_frame (execHoldoverExpiry_frame s)
  | .powerTick .., s => completes_of_frame (execPowerTick_frame _ s)
  | .unitPlacement .., s => completes_of_frame (execUnitPlacement_frame _ _ s)
  | .unitComplete .., s => completes_of_frame (execUnitComplete_frame _ _ _ s)
  | .enginePreempt .., s => completes_of_frame (execEnginePreempt_frame _ s)
  | .contextSaveDone .., s => completes_of_frame (execContextSaveDone_frame _ s)
  | .contextRestoreDone .., s => completes_of_frame (execContextRestoreDone_frame _ s)
  | .benchPreempt .., s => completes_of_frame (execBenchPreempt_frame _ s)
  | .jobFault .., s => completes_of_frame (execJobFault_frame _ _ s)
  | .nonpreOverrun .., s => completes_of_frame (execNonpreOverrun_frame _ _ s)
  | .semOverrun .., s => completes_of_frame (execSemOverrun_frame _ _ s)
  | .jobTimeCap .., s => completes_of_frame (execJobTimeCap_frame _ s)
  | .releaseGateAnswer .., s => completes_of_frame (execReleaseGateAnswer_frame _ s)
  | .mmaWs .., s => completes_of_frame (execMmaWs_frame _ _ s)
  | .mmaOs .., s => completes_of_frame (execMmaOs_frame _ _ s)
  | .feederSlotFill .., s => completes_of_frame (execFeederSlotFill_frame _ _ s)
  | .arrayLastWrite .., s => completes_of_frame (execArrayLastWrite_frame _ s)
  | .setmask .., s => completes_of_frame (execSetmask_frame _ _ _ _ s)
  | .vop .., s => completes_of_frame (execVop_frame _ _ s)
  | .vred .., s => completes_of_frame (execVred_frame _ _ s)
  | .vcvt .., s => completes_of_frame (execVcvt_frame _ _ s)
  | .xfer .., s => completes_of_frame (execXfer_frame _ _ s)
  | .xferComplete .., s => completes_of_frame (execXferComplete_frame _ s)
  | .br .., s => completes_of_frame (execBr_frame _ _ _ s)
  | .semAcq .., s => completes_of_frame (execSemAcq_frame _ _ s)
  | .semAcquired .., s => completes_of_frame (execSemAcquired_frame _ _ s)
  | .semRel .., s => completes_of_frame (execSemRel_frame _ _ s)
  | .npBegin .., s => completes_of_frame (execNpBegin_frame _ _ s)
  | .npEnd .., s => completes_of_frame (execNpEnd_frame _ s)
  | .fence .., s => completes_of_frame (execFence_frame _ s)
  | .illegalOpcode .., s => completes_of_frame (execIllegalOpcode_frame _ _ s)
  | .touchstoneSampleDone .., s => completes_of_frame (execTouchstoneSampleDone_frame _ _ s)
  | .refetchComplete .., s => completes_of_frame (execRefetchComplete_frame _ _ _ _ _ _ _ s)
  | .granuleReloadDone .., s => completes_of_frame (execGranuleReloadDone_frame _ _ s)
  | .cacheStagingRequest .., s => completes_of_frame (execCacheStagingRequest_frame _ _ s)
  | .stagingComplete .., s => completes_of_frame (execStagingComplete_frame _ _ _ s)
  | .promotionRequest .., s => completes_of_frame (execPromotionRequest_frame _ _ _ _ s)
  | .promotionComplete .., s => completes_of_frame (execPromotionComplete_frame _ _ s)
  | .pinRelease .., s => completes_of_frame (execPinRelease_frame _ _ _ _ s)
  | .promotionWaitResume .., s => completes_of_frame (execPromotionWaitResume_frame _ _ s)
  | .writeBackGranule .., s => completes_of_frame (execWriteBackGranule_frame _ _ s)
  | .dirtyWriteResume .., s => completes_of_frame (execDirtyWriteResume_frame _ s)
  | .ceWindowStart, s => completes_of_frame (execCeWindowStart_frame s)
  | .autoBurnishStart .., s => completes_of_frame (execAutoBurnishStart_frame _ s)
  | .objectReadStart .., s => completes_of_frame (execObjectReadStart_frame _ s)
  | .tokenBatchHandoff .., s => completes_of_frame (execTokenBatchHandoff_frame _ _ _ s)
  | .batchVectorsReturn .., s => completes_of_frame (execBatchVectorsReturn_frame _ _ s)
  | .recordAppend .., s => completes_of_frame (execRecordAppend_frame _ s)
  | .markWaitResume .., s => completes_of_frame (execMarkWaitResume_frame _ s)
  | .graphWalkComplete .., s => completes_of_frame (execGraphWalkComplete_frame _ _ s)
  | .codePhaseComplete .., s => completes_of_frame (execCodePhaseComplete_frame _ _ _ s)
  | .fetchPhaseComplete .., s => completes_of_frame (execFetchPhaseComplete_frame _ _ _ _ s)
  | .hitMerge .., s => completes_of_frame (execHitMerge_frame _ s)
  | .mendStart .., s => completes_of_frame (execMendStart_frame _ s)
  | .graphRepair .., s => completes_of_frame (execGraphRepair_frame _ s)
  | .linkFrameTagFail .., s => completes_of_frame (execLinkFrameTagFail_frame _ _ s)
  | .linkRetrain .., s => completes_of_frame (execLinkRetrain_frame _ s)
  | .linkRetrainComplete .., s => completes_of_frame (execLinkRetrainComplete_frame _ s)
  | .linkRekey .., s => completes_of_frame (execLinkRekey_frame _ _ s)
  | .channelDieFailed .., s => completes_of_frame (execChannelDieFailed_frame _ s)
  | .pageRead .., s => completes_of_frame (execPageRead_frame _ _ _ _ s)
  | .nandProgramComplete .., s => completes_of_frame (execNandProgramComplete_frame _ _ _ _ s)
  | .blockEraseStart .., s => completes_of_frame (execBlockEraseStart_frame _ _ s)
  | .nandEraseComplete .., s => completes_of_frame (execNandEraseComplete_frame _ _ _ _ s)
  | .nandSuspend .., s => completes_of_frame (execNandSuspend_frame _ _ _ s)
  | .nandResume .., s => completes_of_frame (execNandResume_frame _ _ s)
  | .streamPageProgram .., s => completes_of_frame (execStreamPageProgram_frame _ _ _ s)
  | .appendWaitResume .., s => completes_of_frame (execAppendWaitResume_frame _ s)
  | .fold .., s => completes_of_frame (execFold_frame _ s)
  | .consolidation .., s => completes_of_frame (execConsolidation_frame _ _ _ s)
  | .garbageCollection .., s => completes_of_frame (execGarbageCollection_frame _ s)
  | .wearLevelMove .., s => completes_of_frame (execWearLevelMove_frame _ _ s)
  | .blockRefresh .., s => completes_of_frame (execBlockRefresh_frame _ _ s)
  | .patrolRead .., s => completes_of_frame (execPatrolRead_frame _ _ s)
  | .zqCalibration .., s => completes_of_frame (execZqCalibration_frame _ _ s)
  | .dqTraining .., s => completes_of_frame (execDqTraining_frame _ _ _ s)
  | .nandBrownout .., s => completes_of_frame (execNandBrownout_frame _ s)
  | .nandSupplyRestored .., s => completes_of_frame (execNandSupplyRestored_frame _ _ s)
  | .rawReadStart .., s => completes_of_frame (execRawReadStart_frame _ s)
  | .rawReadDone .., s => completes_of_frame (execRawReadDone_frame _ _ _ s)
  | .pwtUnlockWrite .., s => completes_of_frame (execPwtUnlockWrite_frame _ s)
  | .pwtAddrWrite .., s => completes_of_frame (execPwtAddrWrite_frame _ _ s)
  | .pwtDataWrite .., s => completes_of_frame (execPwtDataWrite_frame _ _ s)
  | .pwtBadCmd .., s => completes_of_frame (execPwtBadCmd_frame _ _ s)
  | .pageProgram, s => completes_of_frame (execPageProgram_frame s)
  | .sectorErase, s => completes_of_frame (execSectorErase_frame s)
  | .vaultProgram, s => completes_of_frame (execVaultProgram_frame s)
  | .vaultZeroise, s => completes_of_frame (execVaultZeroise_frame s)
  | .optProgram, s => completes_of_frame (execOptProgram_frame s)
  | .optErase, s => completes_of_frame (execOptErase_frame s)
  | .eraseSuspend, s => completes_of_frame (execEraseSuspend_frame s)
  | .eraseSuspendComplete, s => completes_of_frame (execEraseSuspendComplete_frame s)
  | .eraseResume, s => completes_of_frame (execEraseResume_frame s)
  | .pwtOperationEnd .., s => completes_of_frame (execPwtOperationEnd_frame _ s)
  | .pwtSequenceTimeout, s => completes_of_frame (execPwtSequenceTimeout_frame s)
  | .pwtLockoutExpiry, s => completes_of_frame (execPwtLockoutExpiry_frame s)
  | .pewterBrownout, s => completes_of_frame (execPewterBrownout_frame s)
  | .securityEventLogProgram, s => completes_of_frame (execSecurityEventLogProgram_frame s)
  | .hallmarkRebuildDone, s => completes_of_frame (execHallmarkRebuildDone_frame s)
  | .errorReport .., s => completes_of_frame (execErrorReport_frame _ _ s)
  | .errorRecordWrite .., s => completes_of_frame (execErrorRecordWrite_frame _ s)
  | .errRingAckWrite .., s => completes_of_frame (execErrRingAckWrite_frame _ _ s)
  | .schCtrlWrite .., s => completes_of_frame (execSchCtrlWrite_frame _ s)
  | .qtrMcCtrlWrite .., s => completes_of_frame (execQtrMcCtrlWrite_frame _ _ s)
  | .brnCtrlWrite .., s => completes_of_frame (execBrnCtrlWrite_frame _ s)
  | .pwrCtrlWrite .., s => completes_of_frame (execPwrCtrlWrite_frame _ s)
  | .meCountClear .., s => completes_of_frame (execMeCountClear_frame _ s)
  | .bnCountClear .., s => completes_of_frame (execBnCountClear_frame _ s)
  | .fmCountClear .., s => completes_of_frame (execFmCountClear_frame _ s)
  | .registerWrite .., s => completes_of_frame (execRegisterWrite_frame _ _ _ s)
  | .rcRegisterRead .., s => completes_of_frame (execRcRegisterRead_frame _ _ s)
  | .split64bitRead .., s => completes_of_frame (execSplit64bitRead_frame _ s)
  | .bar2BadAccess .., s => completes_of_frame (execBar2BadAccess_frame _ _ _ s)
  | .powerCap .., s => completes_of_frame (execPowerCap_frame _ s)
  | .pwrBrakeAssert, s => completes_of_frame (execPwrBrakeAssert_frame s)
  | .pwrBrakeDeassert, s => completes_of_frame (execPwrBrakeDeassert_frame s)
  | .thermalSensorRead .., s => completes_of_frame (execThermalSensorRead_frame _ s)
  | .thermalEmergencyEnd, s => completes_of_frame (execThermalEmergencyEnd_frame s)
  | .thermTripRelease, s => completes_of_frame (execThermTripRelease_frame s)
  | .railBrownout .., s => completes_of_frame (execRailBrownout_frame _ s)
  | .holdupCapacitanceCheck .., s => completes_of_frame (execHoldupCapacitanceCheck_frame _ s)
  | .holdupOkChange .., s => completes_of_frame (execHoldupOkChange_frame _ s)
  | .apstIdleExpiry, s => completes_of_frame (execApstIdleExpiry_frame s)
  | .powerStateExitDone, s => completes_of_frame (execPowerStateExitDone_frame s)
  | .i3cSetdasa .., s => completes_of_frame (execI3cSetdasa_frame _ s)
  | .i3cEntdaa .., s => completes_of_frame (execI3cEntdaa_frame _ s)
  | .setEndpointId .., s => completes_of_frame (execSetEndpointId_frame _ s)
  | .miReadDataStructure .., s => completes_of_frame (execMiReadDataStructure_frame _ _ s)
  | .miSubsystemHealthPoll clear, s => completes_of_frame (execMiSubsystemHealthPoll_frame clear s)
  | .miControllerHealthPoll .., s => completes_of_frame (execMiControllerHealthPoll_frame _ s)
  | .miConfigurationGet .., s => completes_of_frame (execMiConfigurationGet_frame _ s)
  | .miConfigurationSet .., s => completes_of_frame (execMiConfigurationSet_frame _ _ s)
  | .miVpdRead .., s => completes_of_frame (execMiVpdRead_frame _ _ s)
  | .miVpdWrite, s => completes_of_frame (execMiVpdWrite_frame s)
  | .miAdminCommand .., s => completes_of_frame (execMiAdminCommand_frame _ s)
  | .telemetry, s => completes_of_frame (execTelemetry_frame s)
  | .miQuench .., s => completes_of_frame (execMiQuench_frame _ s)
  | .miUnsupportedCommand op, s => completes_of_frame (execMiUnsupportedCommand_frame op s)
  | .custodianFrame .., s => completes_of_frame (execCustodianFrame_frame _ s)
  | .messageReassemblyTimeout, s => completes_of_frame (execMessageReassemblyTimeout_frame s)
  | .sessionInit, s => completes_of_frame (execSessionInit_frame s)
  | .sessionInitResend, s => completes_of_frame (execSessionInitResend_frame s)
  | .sessionAccept .., s => completes_of_frame (execSessionAccept_frame _ s)
  | .sessionReject .., s => completes_of_frame (execSessionReject_frame _ s)
  | .keyDeliver .., s => completes_of_frame (execKeyDeliver_frame _ _ s)
  | .keyRevoke .., s => completes_of_frame (execKeyRevoke_frame _ s)
  | .ping, s => completes_of_frame (execPing_frame s)
  | .pong, s => completes_of_frame (execPong_frame s)
  | .close reason, s => completes_of_frame (execClose_frame reason s)
  | .sessionIdlePing, s => completes_of_frame (execSessionIdlePing_frame s)
  | .sessionTimeout, s => completes_of_frame (execSessionTimeout_frame s)
  | .sessionBackoffExpiry, s => completes_of_frame (execSessionBackoffExpiry_frame s)
  | .dbgToken .., s => completes_of_frame (execDbgToken_frame _ s)
  | .perstBDeassert, s => completes_of_frame (execPerstBDeassert_frame s)
  | .vectorInstructionComplete .., s => completes_of_frame (execVectorInstructionComplete_frame _ s)
  | .managementControllerRestart, s => completes_of_frame (execManagementControllerRestart_frame s)
  | .mctpMessageDiscard type, s => completes_of_frame (execMctpMessageDiscard_frame type s)

/-- Settles O2: each of the 234 commands answers a next state, within a frame that leaves the queue out. -/
theorem commandsCompleteAndLeaveTheQueueAlone : Obligations.CommandsCompleteAndLeaveTheQueueAlone :=
  exec_completes

/-! ### Fields of a 32-bit word -/

/-- A field below bit 32 does not see what stands above it. -/
theorem bits_lo32 (v : Nat) {hi lo : Nat} (hlo : lo ≤ hi) (hhi : hi < 32) : bits (lo32 v) hi lo = bits v hi lo := by
  have split : 2 ^ 32 = 2 ^ lo * 2 ^ (32 - lo) := by rw [← Nat.pow_add]; congr 1; omega
  unfold bits lo32
  rw [split, Nat.mod_mul_right_div_self, Nat.mod_mod_of_dvd _ (Nat.pow_dvd_pow 2 (by omega))]

theorem bit_lo32 (v : Nat) {i : Nat} (hi : i < 32) : bit (lo32 v) i = bit v i := by
  have h := bits_lo32 v (le_refl i) hi
  simp only [bits, Nat.add_sub_cancel_left, Nat.pow_one] at h
  simp only [bit, h]

theorem bits_15_0 (v : Nat) : bits v 15 0 = v % 65536 := by simp [bits]

@[simp] theorem b2n_bne_zero (x : Bool) : (b2n x != 0) = x := by cases x <;> rfl

/-! ### Reads (R8, R9, R379) -/

theorem readWord_emit (s : State) (x : Output) (o : Nat) : (s.emit x).readWord o = s.readWord o := by
  unfold State.readWord
  cases placeOf o <;> rfl

/-- No read that clears counters reaches the latched halves. -/
theorem readClears_latches (s : State) (o : Nat) : (s.readClears o).dev.latches = s.dev.latches := by
  unfold State.readClears
  split <;> try rfl
  · exact congrArg Device.latches (errClear_frame s _ .dev (by decide))
  · exact congrArg Device.latches (linkClear_frame s _ _ .dev (by decide))

theorem passWindow_dev (s : State) (o : Nat) : (s.passWindow o).dev = s.dev := passWindow_frame s o .dev (by decide)
theorem passWindow_out (s : State) (o : Nat) : (s.passWindow o).out = s.out := passWindow_frame s o .out (by decide)
theorem readClears_out (s : State) (o : Nat) : (s.readClears o).out = s.out := readClears_frame s o .out (by decide)
theorem passBurn_out (s : State) (o : Nat) : (s.passBurn o).out = s.out := passBurn_frame s o .out (by decide)

/-- A place outside Burnish has no pass to move. -/
theorem passBurn_of_ne_brn {o : Nat} (h : ∀ p, placeOf o ≠ .brn p) (s : State) : s.passBurn o = s := by
  unfold State.passBurn
  split
  · exact absurd ‹_› (h _)
  all_goals rfl

theorem burnPass_bounds (b : BurnSlot) (w : Word64) (h : b.progress ≤ b.length) :
    b.progress ≤ (b.pass w).progress ∧ (b.pass w).progress ≤ b.length := by
  have := Nat.mod_lt w.toNat (Nat.add_one_pos (b.length - b.progress))
  simp only [BurnSlot.pass]
  omega

theorem passBurn_slot (s : State) (o : Nat) (i : Fin 4) {b : BurnSlot} (hs : s.burnish.slots[i] = some b)
    (hb : b.progress ≤ b.length) : ∃ p, (s.passBurn o).burnish.slots[i] = some { b with progress := p } ∧
      b.progress ≤ p ∧ p ≤ b.length := by
  have stay : ∃ p, s.burnish.slots[i] = some { b with progress := p } ∧ b.progress ≤ p ∧ p ≤ b.length :=
    ⟨_, hs, le_rfl, hb⟩
  unfold State.passBurn
  split
  · split
    · refine ⟨_, ?_, burnPass_bounds b (Config.freeWord s.free) hb⟩
      simp only [Fin.getElem_fin] at hs
      simp [State.fresh, hs, BurnSlot.pass]
    · exact stay
  all_goals exact stay

theorem mem_assocSet {α β : Type} [BEq α] (l : List (α × β)) (k : α) (v : β) : (k, v) ∈ assocSet l k v := by
  simp [assocSet]

/-- The high half of a 64-bit register is latched beside its low half (R8). -/
def latchHigh (s : State) (o : Nat) : State :=
  if isLowHalf o then
    { s with dev := { s.dev with latches := assocSet s.dev.latches (o + 4) (BitVec.ofNat 32 (s.readWord (o + 4))) } }
  else s

theorem read4_of_latched {s : State} {o : Nat} {l : Nat × Word32}
    (h : s.dev.latches.find? (fun l => l.1 == o) = some l) :
    s.read4 o = ({ s with dev := { s.dev with latches := s.dev.latches.filter fun x => x.1 != o } } : State).emit
      (.readData (BitVec.ofNat 64 l.2.toNat)) := by
  simp only [State.read4, h]; rfl

theorem read4_of_unlatched {s : State} {o : Nat} (h : s.dev.latches.find? (fun l => l.1 == o) = none) :
    s.read4 o = ((latchHigh ((s.passBurn o).sendWord ((s.passBurn o).readWord o)) o).readClears o).passWindow o := by
  simp only [State.read4, h]; rfl

theorem latchHigh_out (s : State) (o : Nat) : (latchHigh s o).out = s.out := by unfold latchHigh; split <;> rfl

theorem read4_out {s : State} {o : Nat} (h : s.dev.latches.find? (fun l => l.1 == o) = none) :
    (s.read4 o).out = s.out ++ [.readData (BitVec.ofNat 64 ((s.passBurn o).readWord o))] := by
  rw [read4_of_unlatched h, passWindow_out, readClears_out, latchHigh_out, ← passBurn_out s o]
  rfl

theorem read4_latches {s : State} {o : Nat} (h : s.dev.latches.find? (fun l => l.1 == o) = none)
    (hl : isLowHalf o = true) :
    (o + 4, BitVec.ofNat 32 ((s.passBurn o).readWord (o + 4))) ∈ (s.read4 o).dev.latches := by
  rw [read4_of_unlatched h, passWindow_dev, readClears_latches]
  simp only [latchHigh, hl, if_true, State.sendWord, readWord_emit]
  exact mem_assocSet _ _ _

theorem read4_mem (s : State) (o : Nat) : (s.read4 o).mem = s.mem := read4_frame s o .mem (by decide)

theorem read8_out (s : State) (o : Nat) : (s.read8 o).out = s.out ++ [.readData (BitVec.ofNat 64
    ((s.passBurn o).readWord o % 2 ^ 32 + 2 ^ 32 * (s.passBurn o).readWord (o + 4)))] := by
  unfold State.read8
  rw [passWindow_out, readClears_out, readClears_out, ← passBurn_out s o]
  rfl

theorem read8_mem (s : State) (o : Nat) : (s.read8 o).mem = s.mem := read8_frame s o .mem (by decide)

/-- A reserved offset holds nothing to latch, to clear or to pass. -/
theorem read4_of_reserved {s : State} {o : Nat} (hp : placeOf o = .reserved)
    (h : s.dev.latches.find? (fun l => l.1 == o) = none) : s.read4 o = s.emit (.readData 0) := by
  have hl : isLowHalf o = false := by simp [isLowHalf, hp]
  rw [read4_of_unlatched h, passBurn_of_ne_brn (by simp [hp])]
  simp [latchHigh, hl, State.readWord, State.readClears, State.passWindow, hp, State.sendWord]

/-- The counter FAULTS of an Engine is given once (class RC). -/
theorem read4_of_engineFault {s : State} {o : Nat} {e : EngineId} (hp : placeOf o = .engine e 8)
    (h : s.dev.latches.find? (fun l => l.1 == o) = none) : s.read4 o =
      (s.emit (.readData (BitVec.ofNat 64 (s.engineWord e 8)))).modEngine e fun x => { x with faults := 0 } := by
  have hl : isLowHalf o = false := by simp [isLowHalf, hp]
  rw [read4_of_unlatched h, passBurn_of_ne_brn (by simp [hp])]
  simp [latchHigh, hl, State.readWord, State.readClears, State.passWindow, hp, State.sendWord]

theorem doRegisterRead_aligned4 {off : Nat} (h : off % 4 = 0) (s : State) : doRegisterRead off false s = s.read4 off := by
  simp [doRegisterRead, h]

theorem doRegisterRead_aligned8 {off : Nat} (h : off % 8 = 0) (s : State) : doRegisterRead off true s = s.read8 off := by
  simp [doRegisterRead, h]

theorem doRegisterRead_misaligned {off : Nat} {size8 : Bool} (h : off % (if size8 then 8 else 4) ≠ 0) (s : State) :
    doRegisterRead off size8 s = s.badAccess.emit (.readData 0) := by
  simp only [doRegisterRead, bne_iff_ne, ne_eq, h, not_false_eq_true, if_true]; rfl

theorem doBadAccess_of_kept {off size : Nat} (write : Bool) (h : (size = 4 ∨ size = 8) ∧ off % size = 0) (s : State) :
    doBadAccess write off size s = s := by
  simp [doBadAccess, h]

theorem doBadAccess_of_broken {off size : Nat} (write : Bool) (h : (size ≠ 4 ∧ size ≠ 8) ∨ off % size ≠ 0)
    (s : State) :
    doBadAccess write off size s = if write then s.badAccess else s.badAccess.emit (.readData 0) := by
  have hk : ((size == 4 || size == 8) && off % size == 0) = false := by
    rw [Bool.eq_false_iff, ne_eq, Bool.and_eq_true, Bool.or_eq_true, beq_iff_eq, beq_iff_eq, beq_iff_eq]
    tauto
  simp only [doBadAccess, hk, Bool.false_eq_true, if_false]; rfl

/-! ### Writes (R5, R378, R381) -/

theorem writeBar2_misaligned {off : Nat} {size8 : Bool} (h : off % (if size8 then 8 else 4) ≠ 0) (s : State) (v : Nat) :
    s.writeBar2 off size8 v = s.badAccess := by
  simp [State.writeBar2, h]

theorem writeBar2_aligned4 {off : Nat} (h : off % 4 = 0) (s : State) (v : Nat) :
    s.writeBar2 off false v = s.write4 off (lo32 v) := by
  simp [State.writeBar2, h]

theorem write4_of_reserved {off : Nat} (hp : placeOf off = .reserved) (s : State) (v : Nat) : s.write4 off v = s := by
  simp [State.write4, hp]

theorem write4_dev0 (s : State) (v : Nat) : s.write4 0 v = s := rfl

theorem write4_dev4 (s : State) (v : Nat) :
    s.write4 4 v = { s with dev := { s.dev with badAccess := rw1c s.dev.badAccess v 6 } } := rfl

section

variable {s : State} {c : Ctrl} (h : s.present c = true)
include h

theorem writeBar0_sqDoorbell0 (v : Nat) : s.writeBar0 c 0x1000 v = doSqDoorbell c 0 (bits v 15 0) s := by
  simp [State.writeBar0, h]

theorem writeBar0_cqDoorbell0 (v : Nat) : s.writeBar0 c 0x1004 v = doCqDoorbell c 0 (bits v 15 0) s := by
  simp [State.writeBar0, h]

theorem writeBar0_intms (v : Nat) :
    s.writeBar0 c 0x0C v = s.modCtrl c fun f => { f with intms := f.intms ||| BitVec.ofNat 32 v } := by
  simp [State.writeBar0, h]

theorem writeBar0_cc (v : Nat) : s.writeBar0 c 0x14 v = s.writeCc c v := by
  simp [State.writeBar0, h]

theorem doTargetRead_bar0 (off : Nat) (size8 : Bool) : doTargetRead (.bar0 c off) size8 s = s.emit (.readData
    (BitVec.ofNat 64 (s.ctrls[c].bar0Word off + if size8 then 2 ^ 32 * s.ctrls[c].bar0Word (off + 4) else 0))) := by
  simp [doTargetRead, h, State.sendWord]

end

/-- CC with EN set and SHN clear, written to a controller that is not enabled, enables it and does nothing else. -/
theorem writeCc_enable {s : State} {c : Ctrl} {v : Nat} (hv : bit v 0 = true) (he : s.ctrls[c].en = false)
    (hs : bits v 15 14 = 0) : s.writeCc c v = doControllerEnable c (BitVec.ofNat 3 (bits v 6 4))
      (BitVec.ofNat 4 (bits v 19 16)) (BitVec.ofNat 4 (bits v 23 20)) s := by
  have hb : (bit v 0 && !s.ctrls[c].en) = true := by rw [hv, he]; rfl
  simp only [State.writeCc, hb, hs, if_true]
  rfl

theorem doArrayRead_past_end {a : Nat} (h : pwtOptEnd ≤ a) (fetch size8 : Bool) (s : State) :
    doArrayRead a fetch size8 s = s.emit .mcBusError := by
  simp [doArrayRead, h]

theorem writePwt_unlock (s : State) (v : Word64) :
    s.writePwt 0x4 false v = doPwtUnlock (BitVec.ofNat 16 (v.toNat % 2 ^ 32)) s := rfl

/-- Settles O58: one case for each clause, in the order of the statement. -/
theorem registersFollowTheirAccessCodes : Obligations.RegistersFollowTheirAccessCodes := by
  intro s off size size8 write v e c bad n w noLatch
  refine ⟨fun hn => ⟨?_, ?_⟩, fun hk => ?_, fun hk => ⟨?_, ?_⟩, fun hp ha => ⟨?_, fun hl => ?_⟩, ?_, ?_,
    fun ha hl => ⟨_, ?_, read4_out hl, read4_mem s off, read4_latches hl⟩, fun l ha hl => ?_,
    fun ha => ⟨_, ?_, read8_mem s off, read8_out s off⟩, fun i b hs hb => passBurn_slot s off i hs hb,
    fun hp ha hl => ?_, rfl, fun hc => ⟨?_, ?_, ?_, fun hen hoff hshn => ?_⟩, fun hc => ?_, fun f hf => ?_, fun f => rfl,
    rfl, ?_⟩
  -- alignment and size (R379)
  · exact next_eq (doRegisterRead_misaligned hn s)
  · exact next_eq (writeBar2_misaligned hn s v.toNat)
  · exact next_eq (doBadAccess_of_kept write hk s)
  · exact next_eq (doBadAccess_of_broken true hk s)
  · exact next_eq (doBadAccess_of_broken false hk s)
  -- reserved offsets, an RO register and an RW1C bit (R5)
  · exact next_eq ((writeBar2_aligned4 ha s _).trans (write4_of_reserved hp s _))
  · exact next_eq ((doRegisterRead_aligned4 ha s).trans (read4_of_reserved hp hl))
  · exact next_eq ((writeBar2_aligned4 (by decide) s _).trans (write4_dev0 s _))
  · refine next_eq ((writeBar2_aligned4 (by decide) s _).trans ?_)
    rw [write4_dev4, rw1c, bit_lo32 _ (by decide)]
  -- reads with and without a latched half (R8, R9)
  · exact next_eq (doRegisterRead_aligned4 ha s)
  · exact next_eq ((doRegisterRead_aligned4 ha s).trans (read4_of_latched hl))
  · exact next_eq (doRegisterRead_aligned8 ha s)
  · exact next_eq ((doRegisterRead_aligned4 ha s).trans (read4_of_engineFault hp hl))
  -- BAR0 (R378, R381)
  · refine next_eq ((writeBar0_sqDoorbell0 hc _).trans ?_)
    rw [bits_lo32 _ (by decide) (by decide), bits_15_0]
  · refine next_eq ((writeBar0_cqDoorbell0 hc _).trans ?_)
    rw [bits_lo32 _ (by decide) (by decide), bits_15_0]
  · exact next_eq (writeBar0_intms hc _)
  · refine next_eq ((writeBar0_cc hc _).trans ?_)
    rw [writeCc_enable ((bit_lo32 _ (by decide)).trans hen) hoff ((bits_lo32 _ (by decide) (by decide)).trans hshn)]
    simp only [bits_lo32, Nat.reduceLeDiff, Nat.reduceLT]
  · exact next_eq (doTargetRead_bar0 hc 0 size8)
  -- the array and its registers
  · exact next_eq (doArrayRead_past_end hf f size8 s)
  · exact next_eq (writePwt_unlock s v)

/-! ### Latched writes (R11 to R13) -/

/-- A field's value waits for the next boundary. -/
def shadowed (s : State) (f : LField) (v : Nat) : State :=
  { s with dev := { s.dev with shadows := assocSet s.dev.shadows f v } }

@[simp] theorem shadowed_gridRuns (s : State) (f : LField) (v : Nat) : (shadowed s f v).gridRuns = s.gridRuns := rfl

@[simp] theorem latchApply_gridRuns (s : State) (x : LField × Nat) : (s.latchApply x).gridRuns = s.gridRuns := by
  have h : (s.latchApply x).grid = s.grid := latchApply_frame s x .grid (by decide)
  simp only [State.gridRuns, h]

theorem latchWrite_of_grid {s : State} (h : s.gridRuns = true) (f : LField) (v : Nat) :
    s.latchWrite f v = shadowed s f v := by simp [State.latchWrite, h, shadowed]

theorem latchWrite_of_no_grid {s : State} (h : s.gridRuns = false) (f : LField) (v : Nat) :
    s.latchWrite f v = s.latchApply (f, v) := by simp [State.latchWrite, h]

/-! #### SCH_CTRL (R94) -/

/-- A DECODE_PER_STROKE that the rule permits. -/
def DecodeOk (v : Word32) : Prop := 1 ≤ bits v.toNat 7 4 ∧ bits v.toNat 7 4 ≤ 8

theorem doSchCtrl_of_ok {v : Word32} (hv : DecodeOk v) (s : State) :
    doSchCtrl v s = ((s.latchWrite .decodePerStroke (bits v.toNat 7 4)).latchWrite .deferMax
      (bits v.toNat 3 0)).latchWrite .preemptOnArrival (b2n (bit v.toNat 8)) := by
  obtain ⟨h1, h8⟩ := hv
  have hd : (bits v.toNat 7 4 == 0 || bits v.toNat 7 4 > 8) = false :=
    Bool.or_eq_false_iff.mpr ⟨beq_false_of_ne (Nat.ne_zero_of_lt h1), decide_eq_false (Nat.not_lt.mpr h8)⟩
  simp [doSchCtrl, hd]

theorem doSchCtrl_of_not_ok {v : Word32} (hv : ¬DecodeOk v) (s : State) :
    doSchCtrl v s = (({ s with sched := { s.sched with cfgBusy := true } } : State).latchWrite .deferMax
      (bits v.toNat 3 0)).latchWrite .preemptOnArrival (b2n (bit v.toNat 8)) := by
  have hd : (bits v.toNat 7 4 == 0 || bits v.toNat 7 4 > 8) = true := by
    unfold DecodeOk at hv
    rw [Bool.or_eq_true, beq_iff_eq, decide_eq_true_iff]
    omega
  simp [doSchCtrl, hd]

theorem doSchCtrl_of_grid {s : State} {v : Word32} (hv : DecodeOk v) (h : s.gridRuns = true) :
    doSchCtrl v s = shadowed (shadowed (shadowed s .decodePerStroke (bits v.toNat 7 4)) .deferMax
      (bits v.toNat 3 0)) .preemptOnArrival (b2n (bit v.toNat 8)) := by
  simp [doSchCtrl_of_ok hv, latchWrite_of_grid, h]

theorem doSchCtrl_of_no_grid {s : State} {v : Word32} (hv : DecodeOk v) (h : s.gridRuns = false) :
    doSchCtrl v s = { s with sched := { s.sched with
      decodePerStroke := bits v.toNat 7 4, deferMax := bits v.toNat 3 0, preemptOnArrival := bit v.toNat 8 } } := by
  simp only [doSchCtrl_of_ok hv, latchWrite_of_no_grid, latchApply_gridRuns, h]
  simp [State.latchApply]

theorem doSchCtrl_refused {s : State} {v : Word32} (hv : ¬DecodeOk v) (h : s.gridRuns = false) :
    doSchCtrl v s = { s with sched := { s.sched with
      cfgBusy := true, deferMax := bits v.toNat 3 0, preemptOnArrival := bit v.toNat 8 } } := by
  rw [doSchCtrl_of_not_ok hv, latchWrite_of_no_grid, latchWrite_of_no_grid]
  · simp [State.latchApply]
  · exact h
  · rwa [latchWrite_of_no_grid (by exact h), latchApply_gridRuns]

/-! #### QTR_MC_CTRL (R192) -/

theorem doMcCtrl_of_ok (q : QuarterId) {v : Word32} (hh : bits v.toNat 10 0 ≤ 1536) (hg : bits v.toNat 24 16 ≤ 432)
    (s : State) : doMcCtrl q v s =
      let t := (s.latchWrite (.hotLimit q) (bits v.toNat 10 0)).latchWrite (.stagedLimit q) (bits v.toNat 24 16)
      if t.gridRuns then t else t.recache q ModelCache.fitLimits := by
  simp [doMcCtrl, Nat.not_lt.mpr, hh, hg]

theorem doMcCtrl_of_grid (q : QuarterId) {s : State} {v : Word32} (hh : bits v.toNat 10 0 ≤ 1536)
    (hg : bits v.toNat 24 16 ≤ 432) (h : s.gridRuns = true) :
    doMcCtrl q v s = shadowed (shadowed s (.hotLimit q) (bits v.toNat 10 0)) (.stagedLimit q) (bits v.toNat 24 16) := by
  simp [doMcCtrl_of_ok q hh hg, latchWrite_of_grid, h]

theorem doMcCtrl_of_no_grid (q : QuarterId) {s : State} {v : Word32} (hh : bits v.toNat 10 0 ≤ 1536)
    (hg : bits v.toNat 24 16 ≤ 432) (h : s.gridRuns = false) :
    doMcCtrl q v s = (s.modCache q fun c =>
      { c with hotLimit := bits v.toNat 10 0, stagedLimit := bits v.toNat 24 16 }).recache q ModelCache.fitLimits := by
  simp only [doMcCtrl_of_ok q hh hg, latchWrite_of_no_grid, latchApply_gridRuns, h, Bool.false_eq_true, if_false]
  simp [State.latchApply, State.modCache]

theorem doMcCtrl_refused (q : QuarterId) {s : State} {v : Word32} (hh : 1536 < bits v.toNat 10 0)
    (hg : 432 < bits v.toNat 24 16) (h : s.gridRuns = true) :
    doMcCtrl q v s = s.modCache q fun c => { c with cfgBusy := true } := by
  have h' : (s.modCache q fun c => { c with cfgBusy := true }).gridRuns = true := h
  simp [doMcCtrl, Nat.not_le.mpr, hh, hg, h']

/-! #### BRN_CTRL (R335) -/

theorem doBrnCtrl_of_zero {s : State} {v : Word32} (h : bits v.toNat 7 4 = 0) :
    doBrnCtrl v s = { s with burnish := { s.burnish with autoEn := bit v.toNat 0, cfgBusy := true } } := by
  simp [doBrnCtrl, h]

theorem doBrnCtrl_of_ne {s : State} {v : Word32} (h : bits v.toNat 7 4 ≠ 0) :
    doBrnCtrl v s = ({ s with burnish := { s.burnish with autoEn := bit v.toNat 0 } } : State).latchWrite .burnRate
      (bits v.toNat 7 4) := by
  have hr : (bits v.toNat 7 4 == 0) = false := by simpa using h
  simp only [doBrnCtrl, hr, Bool.or_false, Bool.false_eq_true, if_false]

/-- Settles O59: one case for each clause, by the value of the written field and whether a grid runs; the two clear
rows of the Engine and the flash page are the model's own equations. -/
theorem latchedWritesWaitForTheBoundary : Obligations.LatchedWritesWaitForTheBoundary := by
  intro s v q e b d h g r shadow
  refine ⟨fun h1 h8 => ⟨fun hr => ?_, fun hr => ?_⟩, fun hd hr => ?_, fun hh hg => ⟨fun hr => ?_, fun hr => ?_⟩,
    fun hh hg hr => ?_, fun hz => ?_, fun hz hr => ?_, fun hz hr => ?_, rfl, rfl, fun hb => ?_, fun hb => ?_⟩
  · exact next_eq (doSchCtrl_of_grid ⟨h1, h8⟩ hr)
  · exact next_eq (doSchCtrl_of_no_grid ⟨h1, h8⟩ hr)
  · exact next_eq (doSchCtrl_refused (fun ⟨h1, h8⟩ => by omega) hr)
  · exact next_eq (doMcCtrl_of_grid q hh hg hr)
  · exact next_eq (doMcCtrl_of_no_grid q hh hg hr)
  · exact next_eq (doMcCtrl_refused q hh hg hr)
  · exact next_eq (doBrnCtrl_of_zero hz)
  · exact next_eq ((doBrnCtrl_of_ne hz).trans (latchWrite_of_no_grid (by exact hr) _ _))
  · exact next_eq ((doBrnCtrl_of_ne hz).trans (latchWrite_of_grid (by exact hr) _ _))
  · exact next_eq (by simp [doBnCountClear, hb, State.modBench])
  · exact next_eq (by simp [doBnCountClear, hb, State.modBench])

end Sys2Proof.Proofs

/-! PROOFS. The Stroke boundary (R24, R66, R67, R70, R228): the grid runs on, the Stroke is numbered, the shadowed values take
effect and the next epoch is published. -/

namespace Sys2Proof.Proofs

-- One declaration after another, as in the laws: each waiting thread counts against the check's memory.
set_option Elab.async false

open Sys2Proof Sys2Proof.Machine Sys2Proof.Laws

/-! ### The epoch and the next object number (R228, R386) -/

/-- Two states stand at the same epoch and would give a new object the same number. -/
def SameNumbers (s t : State) : Prop := t.search.epoch = s.search.epoch ∧ t.search.nextId = s.search.nextId

namespace SameNumbers

variable {s t u : State}

theorem refl (s : State) : SameNumbers s s := ⟨rfl, rfl⟩

theorem trans (h : SameNumbers s t) (g : SameNumbers t u) : SameNumbers s u :=
  ⟨g.1.trans h.1, g.2.trans h.2⟩

theorem of_frame {w : List Laws.Part} (h : Frame w s t) (hw : Laws.Part.search ∉ w := by decide) : SameNumbers s t :=
  ⟨congrArg Search.epoch (h .search hw), congrArg Search.nextId (h .search hw)⟩

/-- What follows within a frame that leaves the search part out changes no number. -/
theorem frame {w : List Laws.Part} (h : SameNumbers s t) (g : Frame w t u)
    (hw : Laws.Part.search ∉ w := by decide) : SameNumbers s u := h.trans (of_frame g hw)

theorem foldl {α : Type} {f : State → α → State} (hf : ∀ u x, SameNumbers u (f u x)) (l : List α) (s : State) :
    SameNumbers s (l.foldl f s) := by
  induction l generalizing s with
  | nil => exact refl s
  | cons x l ih => exact (hf s x).trans (ih _)

theorem foldl_fst {α β : Type} {f : State × β → α → State × β} (hf : ∀ u x, SameNumbers u.1 (f u x).1) (l : List α)
    (s : State × β) : SameNumbers s.1 (l.foldl f s).1 := by
  induction l generalizing s with
  | nil => exact refl s.1
  | cons x l ih => exact (hf s x).trans (ih _)

end SameNumbers

/-! #### Dirty granules and their homes -/

theorem copyHome_sameNumbers (s : State) (g : Nat) : SameNumbers s (s.copyHome g) := by
  unfold State.copyHome
  split_ifs <;> exact ⟨rfl, rfl⟩

theorem granuleHome_sameNumbers (s : State) (q : QuarterId) (g : Nat) : SameNumbers s (s.granuleHome q g) := by
  unfold State.granuleHome
  split
  · exact .refl s
  · next t h =>
    have home : SameNumbers s t := .of_frame (programHome_frame s q g t h)
    extract_lets _ u
    have copied : SameNumbers t u := .trans ⟨rfl, rfl⟩ (copyHome_sameNumbers _ g)
    exact ((home.trans copied).frame (noteStripes_frame _ _ _)).frame (noteStripes_frame _ _ _)

theorem dirtyThrough_sameNumbers (s : State) (q : QuarterId) (g cls : Nat) :
    SameNumbers s (s.dirtyThrough q g cls).1 := by
  unfold State.dirtyThrough
  extract_lets known
  split_ifs
  · exact .of_frame (dirtyWrite_frame s q g cls)
  · exact (SameNumbers.of_frame (modCache_frame _ _ _)).trans (granuleHome_sameNumbers _ q g)
  · exact .refl s
  · exact .of_frame (dirtyWrite_frame s q g cls)

theorem dirtyMap_sameNumbers (s : State) (b : BenchId) (i : Nat) : SameNumbers s (s.dirtyMap b i) :=
  dirtyThrough_sameNumbers ..

theorem dirtyList_sameNumbers (s : State) (l : Lst) : SameNumbers s (s.dirtyList l) := dirtyThrough_sameNumbers ..

theorem modColl_sameNumbers (s : State) (i : Nat) (f : Coll → Coll) : SameNumbers s (s.modColl i f) :=
  .refl s

/-! #### Step 2: a drained Recast -/

theorem setKcv_sameNumbers (s : State) (label : Word64) (key : BitVec 256) : SameNumbers s (s.setKcv label key) := by
  refine SameNumbers.foldl (fun u i => ?_) _ s
  split_ifs
  · exact (modColl_sameNumbers ..).trans (dirtyThrough_sameNumbers ..)
  · exact .refl u

theorem checkKcvs_sameNumbers (s : State) : SameNumbers s s.checkKcvs := by
  refine SameNumbers.foldl (fun u p => ?_) _ s
  split_ifs
  · extract_lets _ v
    exact .trans (t := v) ⟨rfl, rfl⟩ (SameNumbers.of_frame (reportSecurity_frame _ _ _ _ _ _))
  · exact setKcv_sameNumbers ..

theorem createColls_sameNumbers (s : State) (m : Mold) : SameNumbers s (s.createColls m) := by
  unfold State.createColls
  extract_lets new shares mk _ u
  exact .trans (t := u) ⟨rfl, rfl⟩ (SameNumbers.foldl (fun v c => dirtyThrough_sameNumbers ..) _ u)

theorem stopReading_sameNumbers (s : State) (b : BenchId) : SameNumbers s (s.stopReading b) := ⟨rfl, rfl⟩

theorem applyRecast_sameNumbers (s : State) : SameNumbers s s.applyRecast := by
  unfold State.applyRecast
  split
  · next r base _ _ =>
    split
    · exact .refl s
    · next m _ =>
      extract_lets unbound molded checked s0 _ moved stopped one _ weighed fresh asked settled
      have hm : SameNumbers s molded := (SameNumbers.of_frame (unbindQueues_frame s base m)).frame (modMold_frame _ _)
      have hc : SameNumbers molded checked := by
        have he : SameNumbers molded ((molded.createColls m).noteEmbed m) := createColls_sameNumbers molded m
        exact (he.frame (bindParts_frame _ true)).trans (checkKcvs_sameNumbers _)
      have hs : SameNumbers checked stopped :=
        .trans (t := moved) ⟨rfl, rfl⟩ (.foldl stopReading_sameNumbers _ moved)
      have hw : SameNumbers stopped weighed := by unfold weighed; split_ifs <;> exact ⟨rfl, rfl⟩
      have ha : SameNumbers weighed asked := by
        unfold asked
        split_ifs
        · exact .of_frame (sendKeyRequests_frame _)
        · exact .refl _
      have hp : SameNumbers asked settled := by
        unfold settled
        split_ifs
        · exact .refl _
        · exact .of_frame (capSettle_frame _)
      have h := ((((hm.trans hc).trans hs).trans hw).trans ha).trans hp
      split_ifs
      · exact h
      · exact h.frame (success_frame _ _ _ _ _)
  · exact .refl s

theorem recastStep_sameNumbers (s : State) : SameNumbers s s.recastStep := by
  unfold State.recastStep
  extract_lets u
  have hu : SameNumbers s u := .of_frame (modMold_frame _ _)
  refine (hu.trans ?_).frame (bindParts_frame _ _)
  split_ifs
  · exact applyRecast_sameNumbers u
  · exact .refl u

/-! #### Step 4: publication -/

theorem deferColls_sameNumbers (s : State) (colls : List Nat) (reason : Nat) :
    SameNumbers s (s.deferColls colls reason) := by
  unfold State.deferColls
  extract_lets hit ids now free _ t
  exact .trans (t := t) ⟨rfl, rfl⟩ (SameNumbers.foldl (fun u o => dirtyMap_sameNumbers ..) _ t)

theorem keyGone_sameNumbers (s : State) (i : Nat) : SameNumbers s (s.keyGone i) := by
  unfold State.keyGone
  extract_lets mine waiting refused _ stopping
  have hr : SameNumbers s refused :=
    .foldl (fun u k => (SameNumbers.of_frame (refuse_frame _ _ _)).frame (dropJob_frame _ _)) _ s
  exact .trans (t := stopping) ⟨hr.1, hr.2⟩ (deferColls_sameNumbers ..)

theorem applyKeys_sameNumbers (s : State) : SameNumbers s s.applyKeys := by
  unfold State.applyKeys
  extract_lets before keys _ u lost gone
  have hg : SameNumbers u (gone.foldl State.keyGone u) := .foldl keyGone_sameNumbers _ u
  exact ⟨hg.1, hg.2⟩

theorem bringTail_sameNumbers {s t : State} {b : BenchId} {list stream : Nat}
    (h : s.bringTail b list stream = some t) : SameNumbers s t := by
  unfold State.bringTail at h
  extract_lets ts at h
  clear_value ts
  split at h
  · exact Option.some.inj h ▸ .of_frame (modBench_frame _ _ _)
  · split at h
    · exact Option.some.inj h ▸ .of_frame (modBench_frame _ _ _)
    · split at h
      · cases h
      · next old rest _ =>
        split at h
        · cases h
        · next f _ =>
          extract_lets cleaned at h
          have hc : SameNumbers s cleaned := .frame (.of_frame (modFlash_frame _ _ _)) (cleanTail_frame _ _ _ _)
          exact Option.some.inj h ▸ (hc.frame (modBench_frame _ _ _)).trans (copyHome_sameNumbers _ 0)

theorem bringTails_sameNumbers {s t : State} {b : BenchId} {list : Nat} {sts : List Nat}
    (h : s.bringTails b list sts = some t) : SameNumbers s t := by
  induction sts generalizing s with
  | nil => cases h; exact .refl _
  | cons st sts ih =>
    rw [State.bringTails] at h
    split at h
    · next u hu => exact (bringTail_sameNumbers hu).trans (ih h)
    · cases h

theorem dirtyTails_sameNumbers (s : State) (b : BenchId) (list : Nat) (sts : List Nat) :
    SameNumbers s (s.dirtyTails b list sts).1 := by
  induction sts generalizing s with
  | nil => exact .refl s
  | cons st sts ih =>
    rw [State.dirtyTails]
    split
    · exact .refl s
    · next t _ =>
      have ht := dirtyThrough_sameNumbers s (quarterOfBench b) (tailGranule b t.slot) 1
      split
      · next u hu => rw [hu] at ht; exact ht.trans (ih u)
      · next u hu => rw [hu] at ht; exact ht

theorem moveTo_sameNumbers (s : State) (b : BenchId) (g : Flash) : SameNumbers s (s.moveTo b g) := by
  unfold State.moveTo
  extract_lets f maps moved striped
  have hm : SameNumbers s moved := .of_frame (modFlash_frame _ _ _)
  have hs : SameNumbers moved striped := by
    unfold striped
    split_ifs
    · exact .refl moved
    · exact dirtyThrough_sameNumbers ..
  exact (hm.trans hs).trans (SameNumbers.foldl (fun u m => dirtyThrough_sameNumbers ..) _ striped)

theorem switchMend_sameNumbers (s : State) (l : Lst) : SameNumbers s (s.switchMend l) := by
  unfold State.switchMend
  extract_lets dims l1 l2 reads _ _ t q
  have ht : SameNumbers s t := ⟨rfl, rfl⟩
  split
  · exact .refl s
  · next f _ =>
    split
    · exact .refl s
    · next u hu =>
      have hb : SameNumbers s u := (ht.trans (moveTo_sameNumbers ..)).trans (bringTails_sameNumbers hu)
      have hd := dirtyTails_sameNumbers u l.bench l.num (l2.partStreams dims)
      split
      · exact .refl s
      · next v hv =>
        rw [hv] at hd
        extract_lets logged
        have hl : SameNumbers v logged := dirtyThrough_sameNumbers ..
        exact (((hb.trans hd).trans hl).trans (dirtyThrough_sameNumbers ..)).frame (recountUsed_frame _ _)

theorem switchMends_sameNumbers (s : State) : SameNumbers s s.switchMends :=
  (SameNumbers.of_frame (releaseOld_frame s)).trans (SameNumbers.foldl switchMend_sameNumbers _ _)

theorem moveRecord_sameNumbers (s : State) (t q : Nat) (mv : Nat × Nat × Nat × Nat) :
    SameNumbers s (s.moveRecord t q mv).1 := by
  unfold State.moveRecord
  split
  next object passage old new =>
    split
    · next l n _ _ =>
      split
      · exact .refl s
      · next i _ =>
        split
        · exact .refl s
        · next r _ =>
          extract_lets first sts place deletes
          split_ifs
          · exact .refl s
          · exact .refl s
          · split
            · exact .refl s
            · next u hu =>
              have hb : SameNumbers s u := bringTails_sameNumbers hu
              have hd := dirtyTails_sameNumbers u n.bench new sts
              split
              · exact .refl s
              · next v hv =>
                rw [hv] at hd
                extract_lets e taken given _ marked logged
                have hm : SameNumbers v marked := ⟨rfl, rfl⟩
                have hl : SameNumbers marked logged := dirtyThrough_sameNumbers ..
                exact (((hb.trans hd).trans hm).trans hl).trans (dirtyThrough_sameNumbers ..)
    · exact .refl s

theorem moveRecords_sameNumbers (s : State) (t q : Nat) (mvs : List (Nat × Nat × Nat × Nat)) (n : Nat) :
    SameNumbers s (s.moveRecords t q mvs n).1 := by
  induction mvs generalizing s n with
  | nil => exact .refl s
  | cons mv mvs ih =>
    rw [State.moveRecords]
    have hm := moveRecord_sameNumbers s t q mv
    split
    · next u hu => rw [hu] at hm; exact hm.trans (ih u _)
    · exact .refl s

theorem publicationWaits_sameNumbers (s : State) (p : Publication) (n : Nat) (w : Appended) :
    SameNumbers s (s.publicationWaits p n w) := by
  unfold State.publicationWaits
  split_ifs <;> exact ⟨rfl, rfl⟩

theorem publish_sameNumbers (s : State) (e : Nat) (p : Publication) : SameNumbers s (s.publish e p) := by
  unfold State.publish
  extract_lets _ u set tok q
  split
  · exact ⟨rfl, rfl⟩
  · have hm := moveRecords_sameNumbers u (p.token.getD 0) p.snapshot p.moves 0
    split
    · exact publicationWaits_sameNumbers ..
    · exact .refl s
    · exact .refl s
    · next v n hv =>
      rw [hv] at hm
      extract_lets _ marked calibrated listed
      have hc : SameNumbers v calibrated := ⟨rfl, rfl⟩
      have hl : SameNumbers calibrated listed :=
        (dirtyThrough_sameNumbers ..).trans (SameNumbers.foldl dirtyList_sameNumbers _ _)
      have hd : SameNumbers listed _ := dirtyThrough_sameNumbers listed 0 (descriptorGranule p.coll) 5
      exact (((SameNumbers.trans ⟨hm.1, hm.2⟩ hc).trans hl).trans hd).frame (toGate_frame _ _)

theorem publishAll_sameNumbers (s : State) (e : Nat) : SameNumbers s (s.publishAll e) :=
  .foldl (fun u p => publish_sameNumbers u e p) _ s

theorem retireEmpty_sameNumbers (s : State) (e : Nat) (colls : List Nat) : SameNumbers s (s.retireEmpty e colls) := by
  unfold State.retireEmpty
  extract_lets gone out _ u
  exact .trans (t := u) ⟨rfl, rfl⟩ (SameNumbers.foldl dirtyList_sameNumbers _ u)

theorem freeMarks_sameNumbers (s : State) : SameNumbers s s.freeMarks := .refl s

theorem freeTokens_sameNumbers (s : State) : SameNumbers s s.freeTokens := .refl s

theorem releaseDeferred_sameNumbers (s : State) : SameNumbers s s.releaseDeferred := by
  unfold State.releaseDeferred
  extract_lets free _ t
  exact .trans (t := t) ⟨rfl, rfl⟩ (SameNumbers.foldl (fun u o => dirtyMap_sameNumbers ..) _ t)

theorem warnBlocked_sameNumbers (s : State) (o : Obj) (reason : Nat) : SameNumbers s (s.warnBlocked o reason) := by
  unfold State.warnBlocked
  split
  · split
    · exact .refl s
    · change SameNumbers { s with search :=
        { s.search with plateWarned := s.search.plateWarned ++ [(o.bench, s.mold.gen)] } } _
      exact .of_frame (reportGeneral_frame _ _ _ _ _ _ _ _ _)
  · split
    · split
      · exact .refl s
      · split
        · exact .refl s
        · split
          · exact .refl s
          · split
            · exact .refl s
            · exact .frame (.of_frame (modIngot_frame _ _ _)) (reportGeneral_frame _ _ _ _ _ _ _ _ _)
    · exact .refl s

theorem warnDeferred_sameNumbers (s : State) : SameNumbers s s.warnDeferred :=
  .foldl (fun _ _ => warnBlocked_sameNumbers ..) _ s

theorem publishStep_numbers (s : State) :
    s.publishStep.search.epoch = s.search.epoch + 1 ∧ s.publishStep.search.nextId = s.search.nextId := by
  unfold State.publishStep
  extract_lets keyed e trained marked _ dated out retired
  have hk : SameNumbers s keyed := applyKeys_sameNumbers s
  have hm : SameNumbers keyed marked := publishAll_sameNumbers keyed e
  have hr : SameNumbers dated retired := retireEmpty_sameNumbers dated e _
  have hf : SameNumbers retired retired.freeMarks.switchMends.freeTokens :=
    ((freeMarks_sameNumbers _).trans (switchMends_sameNumbers _)).trans (freeTokens_sameNumbers _)
  have hw := (hr.trans hf).trans ((releaseDeferred_sameNumbers _).trans (warnDeferred_sameNumbers _))
  exact ⟨hw.1.trans (congrArg (· + 1) hk.1), hw.2.trans (hm.2.trans hk.2)⟩

/-! #### Step 5: admission, and the sweeps -/

theorem admitCommand_sameNumbers (s : State) (m : Mold) (k : Key) : SameNumbers s (s.admitCommand m k) := by
  unfold State.admitCommand
  split
  · exact .refl s
  · next j _ =>
    extract_lets whole vs epoch stroke
    split
    next seen hidden _ =>
    extract_lets context set _ counted
    have hc : SameNumbers s counted := by unfold counted; split_ifs <;> exact ⟨rfl, rfl⟩
    split_ifs
    · split
      · exact hc.trans ⟨rfl, rfl⟩
      · exact hc
    · split
      · exact hc.trans (modColl_sameNumbers ..)
      · exact hc
    · exact hc

theorem admitBound_sameNumbers (s : State) (m : Mold) (k : Key) : SameNumbers s (s.admitBound m k) := by
  unfold State.admitBound
  extract_lets u
  have hu : SameNumbers s u := admitCommand_sameNumbers s m k
  split_ifs
  · exact hu
  · exact hu.frame (markUnbound_frame _ _)

theorem admitC0_sameNumbers (m : Mold) (a : State × Nat) (k : Key) : SameNumbers a.1 (State.admitC0 m a k).1 := by
  unfold State.admitC0
  split
  next s count =>
  have deferred (j : Job) : SameNumbers s (s.deferC0 j) := .of_frame (deferC0_frame s j)
  have bound := admitBound_sameNumbers s m k
  split
  · exact .refl s
  · next j _ =>
    split
    · exact .frame (.of_frame (refuse_frame _ _ _)) (dropJob_frame _ _)
    · split
      · exact deferred j
      · split
        · split
          · exact deferred j
          · exact bound
        · next e _ =>
          extract_lets n pNs free mm ls j' bs holds waiting _ held
          split
          · split
            · exact deferred j
            · have hh : SameNumbers (s.admitBound m k) held := ⟨rfl, rfl⟩
              exact (bound.trans hh).frame (takeFront_frame _ _ _ _)
          · split
            · exact deferred j
            · exact bound.frame (takeFront_frame _ _ _ _)

theorem admitOther_sameNumbers (m : Mold) (s : State) (k : Key) : SameNumbers s (State.admitOther m s k) := by
  unfold State.admitOther
  split
  · exact .refl s
  · next j _ =>
    split
    · exact .frame (.of_frame (refuse_frame _ _ _)) (dropJob_frame _ _)
    · split_ifs
      · exact .refl s
      · split
        · exact (admitCommand_sameNumbers s m k).frame (startFront_frame _ _ _ _)
        · exact .refl s
      · exact admitCommand_sameNumbers s m k

theorem admissionStep_sameNumbers (s : State) (m : Mold) : SameNumbers s (s.admissionStep m) := by
  unfold State.admissionStep
  extract_lets fix _ fixed c0 fronts urgent admitted _ held placed rest order
  have hu : SameNumbers s urgent :=
    .trans (t := fixed) ⟨rfl, rfl⟩ (.of_frame (Frame.foldl _ (Frame.refl _) (placeFront_frame m)))
  have ha : SameNumbers urgent admitted := .foldl_fst (admitC0_sameNumbers m) _ (urgent, 0)
  have hp : SameNumbers held placed := .of_frame (Frame.foldl _ (Frame.refl _) (placeFront_frame m))
  exact ((hu.trans ha).trans (.trans (t := held) ⟨rfl, rfl⟩ hp)).trans
    (.foldl (admitOther_sameNumbers m) _ placed)

theorem formSweeps_sameNumbers (s : State) (m : Mold) : SameNumbers s (s.formSweeps m) := by
  unfold State.formSweeps
  extract_lets joined new nums one c0 n
  have hj : SameNumbers s joined := .of_frame (Frame.foldl _ (Frame.refl s) (joinSweep_frame m))
  exact hj.trans ⟨rfl, rfl⟩

/-! ### The grid at a boundary (R66, R67, R70) -/

theorem enterFreeRun_grid (s : State) : s.enterFreeRun.grid =
    { s.grid with lock := .freeRun, freeRunEntered := true, good := 0, slewing := false } := by
  unfold State.enterFreeRun
  extract_lets t
  split_ifs
  · exact signal_frame t .grid (by decide)
  · rfl

/-- LOCKED is left for HOLDOVER, or for FREE_RUN where the Mold holds over no Stroke. -/
theorem leaveLocked_grid (s : State) : s.leaveLocked.grid =
    if s.holdover = 0 then
      { s.grid with
        lock := .freeRun, heldFor := 0, lockLost := true, lockLosses := satAdd 16 s.grid.lockLosses 1
        freeRunEntered := true, good := 0, slewing := false }
    else
      { s.grid with
        lock := .holdover, heldFor := 0, lockLost := true, lockLosses := satAdd 16 s.grid.lockLosses 1 } := by
  unfold State.leaveLocked
  extract_lets held signalled left
  have hs : Frame [.ctrls, .out] held signalled := by
    unfold signalled
    split_ifs
    · exact signal_frame held
    · exact Frame.refl held
  have hg : signalled.grid = held.grid := hs .grid (by decide)
  have hh : signalled.holdover = s.holdover := by
    have hm : signalled.mold = s.mold := hs .mold (by decide)
    simp only [State.holdover, State.theMold, hm]
  have he : (left.evalC0 false).grid = left.grid := evalC0_frame left false .grid (by decide)
  rw [he]
  unfold left
  by_cases h0 : s.holdover = 0
  · simp only [hh, h0, beq_self_eq_true, if_true, enterFreeRun_grid, hg]
    rfl
  · simp only [hh, h0, beq_iff_eq, if_false, hg]
    rfl

/-- The grid runs on, with the number of its Stroke and the mark that it has locked as they were. -/
def RunsOn (s t : State) : Prop :=
  t.gridRuns = true ∧ t.grid.everLocked = s.grid.everLocked ∧ t.grid.stroke = s.grid.stroke

theorem RunsOn.frame {w : List Laws.Part} {s t u : State} (h : RunsOn s t) (g : Frame w t u)
    (hw : Laws.Part.grid ∉ w := by decide) : RunsOn s u := by
  have hg : u.grid = t.grid := g .grid hw
  rwa [RunsOn, State.gridRuns, hg]

theorem leaveLocked_runsOn (s : State) : RunsOn s s.leaveLocked := by
  simp only [RunsOn, State.gridRuns, leaveLocked_grid]
  split_ifs <;> exact ⟨rfl, rfl, rfl⟩

theorem measurePhase_runsOn {s : State} (h : s.gridRuns = true) (m : Mold) (refTime len : Nat) (slewed : Bool) :
    RunsOn s (s.measurePhase m refTime len slewed) := by
  unfold State.measurePhase
  extract_lets now t p within u good v
  have same {x : State} (hl : x.grid.lock = s.grid.lock) (he : x.grid.everLocked = s.grid.everLocked)
      (hn : x.grid.stroke = s.grid.stroke) : RunsOn s x := ⟨by rwa [State.gridRuns, hl], he, hn⟩
  split
  · split
    · split
      · exact same rfl rfl rfl
      · exact leaveLocked_runsOn u
    · split
      · exact ⟨rfl, rfl, rfl⟩
      · exact same rfl rfl rfl
    · split
      · exact ⟨rfl, rfl, rfl⟩
      · exact same rfl rfl rfl
    · exact same rfl rfl rfl
    · exact same rfl rfl rfl
  · split <;> exact same rfl rfl rfl

theorem countBoundary_grid (s : State) : s.countBoundary.grid =
    if s.grid.everLocked then { s.grid with stroke := (s.grid.stroke + 1) % 2 ^ 64 }
    else { s.grid with everLocked := true, stroke := 0 } := rfl

/-- The boundary is numbered, and the grid has locked from now on. -/
theorem countBoundary_numbered {s : State} (h : s.gridRuns = true) :
    s.countBoundary.gridRuns = true ∧ s.countBoundary.grid.everLocked = true ∧
      s.countBoundary.grid.stroke = if s.grid.everLocked then (s.grid.stroke + 1) % 2 ^ 64 else 0 := by
  rw [State.gridRuns, countBoundary_grid]
  split_ifs with he
  · exact ⟨h, he, rfl⟩
  · exact ⟨h, rfl, rfl⟩

/-! ### The five steps of a boundary (R24) -/

/-- The part of a boundary that ends with the publication of the epoch: the ended Stroke and steps 1 to 4. -/
def publishedAt (s : State) (m : Mold) (o : BoundaryObs) : State :=
  (((((s.chargeRunning.chargeStroke).settleLag o.late).updateWeights m).latchStep.recastStep).powerStep o.power).publishStep

/-- The part of a boundary that follows: admission, sweeps, budgets and the start of the new Stroke. -/
def openedUnder (s : State) (m : Mold) : State := (((s.admissionStep m).formSweeps m).budgetStep m).startStroke

theorem boundary_cases (s : State) (m : Mold) (o : BoundaryObs) :
    s.boundary m o = publishedAt s m o ∨ ∃ m', s.boundary m o = openedUnder (publishedAt s m o) m' := by
  unfold State.boundary
  extract_lets weighed published
  split
  · exact .inl rfl
  · exact .inr ⟨_, rfl⟩

theorem latchStep_shadows (s : State) : s.latchStep.dev.shadows = [] :=
  congrArg Device.shadows (fitCaches_frame s.applyShadows .dev (by decide))

section

variable (s : State) (m : Mold) (o : BoundaryObs)

theorem publishedAt_numbers : (publishedAt s m o).search.epoch = s.search.epoch + 1 ∧
    (publishedAt s m o).search.nextId = s.search.nextId := by
  have charged : SameNumbers s s.chargeRunning.chargeStroke :=
    (SameNumbers.of_frame (chargeRunning_frame s)).frame (chargeStroke_frame _)
  have weighed := (charged.frame (settleLag_frame _ o.late)).frame (updateWeights_frame _ m)
  have powered := ((weighed.frame (latchStep_frame _)).trans (recastStep_sameNumbers _)).frame (powerStep_frame _ o.power)
  unfold publishedAt
  rw [(publishStep_numbers _).1, (publishStep_numbers _).2, powered.1, powered.2]
  exact ⟨rfl, rfl⟩

theorem openedUnder_sameNumbers : SameNumbers s (openedUnder s m) :=
  (((admissionStep_sameNumbers s m).trans (formSweeps_sameNumbers _ m)).frame (budgetStep_frame _ m)).frame
    (startStroke_frame _)

theorem publishedAt_shadows : (publishedAt s m o).dev.shadows = [] := by
  have published (t : State) : t.publishStep.dev = t.dev := publishStep_frame t .dev (by decide)
  have powered (t : State) : (t.powerStep o.power).dev = t.dev := powerStep_frame t o.power .dev (by decide)
  have recast (t : State) : t.recastStep.dev = t.dev := recastStep_frame t .dev (by decide)
  rw [publishedAt, published, powered, recast, latchStep_shadows]

theorem openedUnder_dev : (openedUnder s m).dev = s.dev := by
  have admitted : (s.admissionStep m).dev = s.dev := admissionStep_frame s m .dev (by decide)
  have swept (t : State) : (t.formSweeps m).dev = t.dev := formSweeps_frame t m .dev (by decide)
  have budgeted (t : State) : (t.budgetStep m).dev = t.dev := budgetStep_frame t m .dev (by decide)
  have started (t : State) : t.startStroke.dev = t.dev := startStroke_frame t .dev (by decide)
  rw [openedUnder, started, budgeted, swept, admitted]

variable {s}

/-- The lag is counted beside the numbers of the Stroke. -/
theorem settleLag_runsOn {t : State} (h : RunsOn s t) (late : List (Nat × Nat)) : RunsOn s (t.settleLag late) := by
  simpa only [RunsOn, State.gridRuns, State.settleLag, State.modGrid] using h

theorem startStroke_runsOn {t : State} (h : RunsOn s t) : RunsOn s t.startStroke := by
  unfold State.startStroke
  extract_lets now quiet again _ woken served
  have hr : RunsOn s (woken.modGrid fun g => { g with lastBoundaryUs := now }) := h
  have hs : RunsOn s served := hr.frame (resumeGets_frame _ _)
  exact (hs.frame (Frame.foldl _ (Frame.refl served) startNext_frame)).frame
    (Frame.foldl _ (Frame.refl _) startNextBench_frame)

theorem publishedAt_runsOn (h : s.gridRuns = true) : RunsOn s (publishedAt s m o) := by
  have charged : RunsOn s s.chargeRunning.chargeStroke :=
    (RunsOn.frame ⟨h, rfl, rfl⟩ (chargeRunning_frame s)).frame (chargeStroke_frame _)
  exact (((((settleLag_runsOn charged o.late).frame (updateWeights_frame _ m)).frame (latchStep_frame _)).frame
    (recastStep_frame _)).frame (powerStep_frame _ o.power)).frame (publishStep_frame _)

theorem openedUnder_runsOn {t : State} (h : RunsOn s t) : RunsOn s (openedUnder t m) :=
  startStroke_runsOn (((h.frame (admissionStep_frame _ m)).frame (formSweeps_frame _ m)).frame (budgetStep_frame _ m))

end

/-- What a boundary publishes, whether or not the Mold has gone with its Recast. -/
theorem boundary_publishes {s : State} (h : s.gridRuns = true) (m : Mold) (o : BoundaryObs) :
    (s.boundary m o).search.epoch = s.search.epoch + 1 ∧ (s.boundary m o).search.nextId = s.search.nextId ∧
      (s.boundary m o).dev.shadows = [] ∧ RunsOn s (s.boundary m o) := by
  obtain ⟨he, hn⟩ := publishedAt_numbers s m o
  have hr := publishedAt_runsOn m o h
  have hd := publishedAt_shadows s m o
  obtain hb | ⟨m', hb⟩ := boundary_cases s m o <;> rw [hb]
  · exact ⟨he, hn, hd, hr⟩
  · obtain ⟨he', hn'⟩ := openedUnder_sameNumbers (publishedAt s m o) m'
    exact ⟨he'.trans he, hn'.trans hn, by rw [openedUnder_dev, hd], openedUnder_runsOn m' hr⟩

theorem doStrokeBoundary_of_mold {s : State} {m : Mold} (hm : s.mold.mold = some m) (o : BoundaryObs) :
    doStrokeBoundary o s = if !s.gridRuns || !s.strokeFits m o.lengthNs o.slewed then s
      else ((s.measurePhase m o.refTime o.lengthNs o.slewed).countBoundary).boundary m o := by
  simp only [doStrokeBoundary, State.theMold, hm]

/-- Settles O35: the measurement of the reference keeps the grid running, the boundary is numbered once, and the five
steps publish one epoch. -/
theorem everyBoundaryPublishesTheNextEpoch : Obligations.EveryBoundaryPublishesTheNextEpoch := by
  intro s o
  refine ⟨fun h => ?_, fun m hm hr hf => ?_, fun m hm hr hf => ?_⟩
  · refine next_eq ?_
    cases hm : s.mold.mold with
    | none => simp only [doStrokeBoundary, State.theMold, hm]
    | some m =>
      have hr : s.gridRuns = false := h.resolve_left (by simp [hm])
      rw [doStrokeBoundary_of_mold hm]
      exact if_pos (by rw [hr]; rfl)
  · refine next_eq ?_
    rw [doStrokeBoundary_of_mold hm]
    exact if_pos (by rw [hr, hf]; rfl)
  · obtain ⟨measured, hever, hstroke⟩ := measurePhase_runsOn hr m o.refTime o.lengthNs o.slewed
    obtain ⟨runs, locked, numbered⟩ := countBoundary_numbered measured
    obtain ⟨he, hn, hd, hruns, hlocked, hnumber⟩ := boundary_publishes runs m o
    have hdo : doStrokeBoundary o s =
        ((s.measurePhase m o.refTime o.lengthNs o.slewed).countBoundary).boundary m o := by
      rw [doStrokeBoundary_of_mold hm]
      exact if_neg (by rw [hr, hf]; decide)
    have hs : (s.measurePhase m o.refTime o.lengthNs o.slewed).countBoundary.search = s.search :=
      (countBoundary_frame _ .search (by decide)).trans (measurePhase_frame s m _ _ _ .search (by decide))
    have hclock : (doStrokeBoundary o s).clockUs = s.clockUs := doStrokeBoundary_frame o s .clockUs (by decide)
    refine ⟨doStrokeBoundary o s, rfl, ?_⟩
    rw [hclock, hdo, he, hn, hs, hlocked, locked, hnumber, numbered, hever, hstroke]
    exact ⟨rfl, hd, hruns, rfl, rfl, rfl, rfl⟩

end Sys2Proof.Proofs

/-! PROOFS. The Channel links retrain and rekey (R21, R244 to R248); the Stroke grid locks, holds over and runs free (R66 to
R68, Table 3-1). -/

namespace Sys2Proof.Proofs

-- One declaration after another, as in the laws: each waiting thread counts against the check's memory.
set_option Elab.async false

open Sys2Proof Sys2Proof.Machine Sys2Proof.Laws

/-! ### The operations of a link -/

theorem modLink_modLink (s : State) (d : DieId) (f g : Link → Link) :
    (s.modLink d f).modLink d g = s.modLink d fun l => g (f l) := by
  simp [State.modLink]

/-- A link's registers count while COUNT_EN of its page is 1. -/
theorem countLink_of_counts {s : State} {d : DieId} (h : s.benches[benchOfDie d 0].countEn = true) (f : Link → Link) :
    s.countLink d f = s.modLink d f := if_pos h

/-- Without its interrupt a change of BN_LINK is seen nowhere else. -/
theorem setLink_of_quiet {s : State} {d : DieId} (h : s.benches[benchOfDie d 0].linkIrq = false) (f : Link → Link) :
    s.setLink d f = s.modLink d f := if_neg (by
  have hq : (s.modLink d f).benches[linkBench d].linkIrq = false := h
  rw [hq, Bool.and_false]
  decide)

theorem setLink_links (s : State) (d : DieId) (f : Link → Link) :
    (s.setLink d f).links = s.links.set d (f s.links[d]) := by
  unfold State.setLink
  extract_lets old t
  split_ifs
  · exact signal_frame t .links (by decide)
  · rfl

theorem freshKeys_eq (s : State) : s.freshKeys = (s.freshKeys.1, { s with free := s.free + 16 }) := rfl

theorem freshKeys_length (s : State) : s.freshKeys.1.length = 4 := rfl

/-! ### A frame that fails its tag check (R21) -/

theorem doLinkFrameTagFail_of_not_up {s : State} {d : DieId} (h : s.links[d].state ≠ .up) (frame : LinkFrame) :
    doLinkFrameTagFail d frame s = s := if_pos (bne_iff_ne.mpr h)

theorem doLinkFrameTagFail_of_up {s : State} {d : DieId} (h : s.links[d].state = .up)
    (hc : s.benches[benchOfDie d 0].countEn = true) (frame : LinkFrame) :
    doLinkFrameTagFail d frame s = s.modLink d fun l =>
      { ({ l with tagFail := satAdd 32 l.tagFail 1, retry := satAdd 32 l.retry 1 } : Link).pass frame with
        failing := assocSet l.failing frame (lookupD l.failing frame 0 + 1) } := by
  rw [doLinkFrameTagFail, if_neg (by rw [h]; decide), countLink_of_counts hc, modLink_modLink]

/-! ### Retrains (R247) -/

/-- A link that begins to retrain: fresh keys, counters at zero, the frames to be sent again held. -/
def retrained (l : Link) (held : List LinkFrame) (keys : List (BitVec 256)) (now : Nat) : Link :=
  { l with
    retrain := satAdd 32 l.retrain 1, state := .training, keyGen := (l.keyGen + 1) % 256, lanes := 0, keys := keys
    frames := [0, 0, 0, 0], failing := []
    unacked := ((l.failing.filter fun p => 8 ≤ p.2 && !held.contains p.1).map Prod.fst) ++ held
    retrainTimes := (l.retrainTimes.filter fun t => now ≤ t + 1000000) ++ [now] }

theorem mem_retrained_unacked {l : Link} {held : List LinkFrame} {keys : List (BitVec 256)} {now : Nat} {f : LinkFrame} :
    f ∈ (retrained l held keys now).unacked ↔ f ∈ held ∨ ∃ n, 8 ≤ n ∧ (f, n) ∈ l.failing := by
  have hm : f ∈ (retrained l held keys now).unacked ↔ (∃ n, (f, n) ∈ l.failing ∧ 8 ≤ n ∧ f ∉ held) ∨ f ∈ held := by
    simp [retrained]
  rw [hm]
  by_cases hf : f ∈ held
  · simp [hf]
  · simp [hf, and_comm]

theorem doLinkRetrain_of_not_up {s : State} {d : DieId} (h : s.links[d].state ≠ .up) (held : List LinkFrame) :
    doLinkRetrain ⟨d, held⟩ s = s :=
  if_pos (by rw [bne_iff_ne.mpr h]; rfl)

theorem doLinkRetrain_of_up {s : State} {d : DieId} (h : s.links[d].state = .up)
    (hc : s.benches[benchOfDie d 0].countEn = true) (hi : s.benches[benchOfDie d 0].linkIrq = false)
    (hf : ∃ p ∈ s.links[d].failing, 8 ≤ p.2) (held : List LinkFrame) :
    doLinkRetrain ⟨d, held⟩ s =
      { s with free := s.free + 16
               links := s.links.set d (retrained s.links[d] held s.freshKeys.1 s.clockUs) } := by
  have hany : (s.links[d].failing.any fun p => 8 ≤ p.2) = true := by simpa using hf
  have hgo : ¬((s.links[d].state != .up || !(s.links[d].failing.any fun p => 8 ≤ p.2)) = true) := by
    rw [h, hany]
    decide
  refine (if_neg hgo).trans ?_
  rw [freshKeys_eq]
  dsimp only
  rw [countLink_of_counts (by exact hc), setLink_of_quiet (by exact hi), modLink_modLink]
  rfl

/-! ### The end of a retrain (R247) -/

theorem doLinkRetrainComplete_of_not_due {s : State} {d : DieId}
    (h : s.links[d].state ≠ .training ∨ s.power.phase ≠ .running ∨ 4 ≤ s.links[d].lateRetrains) (trained : BitVec 8) :
    doLinkRetrainComplete ⟨d, trained⟩ s = s := if_pos (by
  simp only [Bool.or_eq_true, bne_iff_ne, decide_eq_true_iff, or_assoc]
  exact h)

section

variable {s : State} {d : DieId} {trained : BitVec 8} (ht : s.links[d].state = .training)
  (hr : s.power.phase = .running) (hl : s.links[d].lateRetrains < 4)
include ht hr hl

theorem doLinkRetrainComplete_of_due : doLinkRetrainComplete ⟨d, trained⟩ s =
    if s.links[d].lanes ||| trained != allLanes then
      s.modLink d fun l => { l with lanes := s.links[d].lanes ||| trained }
    else
      (((s.setLink d fun l => { l with state := .up, lanes := s.links[d].lanes ||| trained }).deliverKeys d).resendFrames
        d).resumeGets fun b => dieOfBench b == d :=
  if_neg (by
    simp only [Bool.or_eq_true, bne_iff_ne, decide_eq_true_iff, not_or, not_not]
    exact ⟨⟨ht, hr⟩, Nat.not_le.mpr hl⟩)

end

/-! ### Rekeys (R244, R246) -/

theorem doLinkRekey_of_not_up {s : State} {d : DieId} (h : s.links[d].state ≠ .up) (key : LinkFrame) :
    doLinkRekey d key s = s := if_pos (bne_iff_ne.mpr h)

theorem doLinkRekey_of_up {s : State} {d : DieId} (h : s.links[d].state = .up) (key : LinkFrame) :
    doLinkRekey d key s =
      if max (s.links[d].frames.getD key.key.val 0) key.counter < 2 ^ 40 then
        s.modLink d fun l =>
          { l with frames := l.frames.set key.key.val (max (s.links[d].frames.getD key.key.val 0) key.counter) }
      else
        (s.fresh256.2.countLink d fun l => { l with rekey := satAdd 32 l.rekey 1 }).modLink d fun l =>
          { l with
            keys := l.keys.set key.key.val s.fresh256.1, frames := l.frames.set key.key.val 0
            keyGen := (l.keyGen + 1) % 256 } :=
  if_neg (by rw [h]; decide)

/-! ### A channel die that fails (R248) -/

/-- A Bench that has failed stays so. -/
def KeepsFailed (s t : State) : Prop := ∀ b : BenchId, s.benches[b].state = .failed → t.benches[b].state = .failed

namespace KeepsFailed

variable {s t u : State}

theorem refl (s : State) : KeepsFailed s s := fun _ h => h

theorem trans (h : KeepsFailed s t) (g : KeepsFailed t u) : KeepsFailed s u := fun b hb => g b (h b hb)

theorem of_frame {w : List Laws.Part} (h : Frame w s t) (hw : Laws.Part.benches ∉ w := by decide) : KeepsFailed s t :=
  fun b hb => by
    have hs : t.benches = s.benches := h .benches hw
    rwa [hs]

theorem frame {w : List Laws.Part} (h : KeepsFailed s t) (g : Frame w t u)
    (hw : Laws.Part.benches ∉ w := by decide) : KeepsFailed s u := h.trans (of_frame g hw)

theorem foldl {α : Type} {f : State → α → State} (hf : ∀ u x, KeepsFailed u (f u x)) (l : List α) (s : State) :
    KeepsFailed s (l.foldl f s) := by
  induction l generalizing s with
  | nil => exact refl s
  | cons x l ih => exact (hf s x).trans (ih _)

end KeepsFailed

theorem modBench_state (s : State) (b c : BenchId) (f : Bench → Bench) :
    (s.modBench b f).benches[c].state = if b = c then (f s.benches[b]).state else s.benches[c].state := by
  simp only [State.modBench, Fin.getElem_fin, Vector.getElem_set, Fin.ext_iff]
  split_ifs <;> rfl

theorem modBench_keepsFailed (s : State) (b : BenchId) {f : Bench → Bench}
    (hf : ∀ x : Bench, x.state = .failed → (f x).state = .failed) : KeepsFailed s (s.modBench b f) := fun c hc => by
  rw [modBench_state]
  split_ifs with h
  · exact hf _ (h ▸ hc)
  · exact hc

theorem chargeBench_keepsFailed (s : State) (b : BenchId) : KeepsFailed s (s.chargeBench b) := by
  unfold State.chargeBench
  split
  · exact .refl s
  · exact (KeepsFailed.of_frame (charge_frame _ _ _ _)).trans (modBench_keepsFailed _ b fun _ h => h)

theorem chargeJob_keepsFailed (s : State) (k : Key) : KeepsFailed s (s.chargeJob k) :=
  (KeepsFailed.of_frame (Frame.foldl _ (Frame.refl s) chargeRun_frame)).trans
    (KeepsFailed.foldl chargeBench_keepsFailed _ _)

/-- A Bench that loses its job is IDLE, unless it has failed. -/
theorem dropJob_failed (k : Key) (x : Bench) (h : x.state = .failed) : (x.dropJob k).state = .failed := by
  unfold Bench.dropJob
  split
  · simp only [h]
    rfl
  · exact h

theorem teardown_keepsFailed (s : State) (k : Key) : KeepsFailed s (s.teardown k) := by
  unfold State.teardown
  split
  · exact .refl s
  · next j _ =>
    extract_lets charged dropped annealed left _ freed
    have hc : KeepsFailed s charged := (chargeJob_keepsFailed s k).frame (returnCredits_frame _ _)
    have hd : KeepsFailed charged dropped := fun b hb => by
      simp only [dropped, Fin.getElem_fin, Vector.getElem_map]
      exact dropJob_failed k _ hb
    have ha : KeepsFailed dropped annealed :=
      ((KeepsFailed.of_frame (unpin_frame _ _)).frame (breakSems_frame _ k)).frame (annealScratch_frame _ _)
    have hl : KeepsFailed annealed left :=
      (KeepsFailed.of_frame (leaveSweeps_frame _ k)).frame (abandonTokens_frame _ k)
    have hf : KeepsFailed left freed := .refl left
    exact ((((hc.trans hd).trans ha).trans hl).trans hf).frame (modJob_frame _ _ _)

theorem faultJob_keepsFailed (s : State) (k : Key) (sc : Nat) (src : Source) : KeepsFailed s (s.faultJob k sc src) := by
  unfold State.faultJob State.faultJobNoted
  split
  · exact .refl s
  · next j _ =>
    extract_lets torn reported _ closed answered
    have hr : KeepsFailed s reported :=
      ((teardown_keepsFailed s k).frame (c0Finish_frame _ j)).frame (report_frame _ _ _)
    have hc : KeepsFailed reported closed := by
      unfold closed
      split
      · split
        · exact .refl reported
        · exact .refl reported
      · exact .refl reported
    have ha : KeepsFailed closed answered := by
      unfold answered
      split
      · exact .of_frame (refuse_frame _ _ _)
      · exact .of_frame (status_frame _ _ _ _ _ _)
      · exact .of_frame (status_frame _ _ _ _ _ _)
    exact ((hr.trans hc).trans ha).frame (dropJob_frame _ k)

theorem flushTails_keepsFailed (s : State) (b : BenchId) : KeepsFailed s (s.flushTails b) := by
  unfold State.flushTails
  extract_lets names epoch put ws written emptied
  have hw : KeepsFailed s written := .of_frame (modFlash_frame _ _ _)
  have he : KeepsFailed written emptied := modBench_keepsFailed _ b fun _ h => h
  exact hw.trans he

theorem benchReason_keepsFailed (s : State) (b : BenchId) (reason op : Nat) : KeepsFailed s (s.benchReason b reason op) := by
  unfold State.benchReason
  extract_lets t
  have ht : KeepsFailed s t := modBench_keepsFailed s b fun _ h => h
  split
  · exact ht.frame (signal_frame t)
  · exact ht

/-- A Bench of the die fails, and those that failed before it stay so. -/
theorem benchDies_failed (s : State) (b : BenchId) :
    KeepsFailed s (s.benchDies b) ∧ (s.benchDies b).benches[b].state = .failed := by
  unfold State.benchDies
  extract_lets flushed faulted now dead
  have hf : KeepsFailed s faulted := by
    refine (flushTails_keepsFailed s b).trans ?_
    unfold faulted
    split
    · exact (benchReason_keepsFailed _ _ _ _).trans (faultJob_keepsFailed _ _ _ _)
    · exact .refl flushed
  have hd : KeepsFailed faulted dead := modBench_keepsFailed faulted b fun _ _ => rfl
  have hb : dead.benches[b].state = .failed := (modBench_state faulted b b _).trans (if_pos rfl)
  have out : KeepsFailed dead ((dead.leaveOut b).refuseGets b) :=
    (KeepsFailed.of_frame (leaveOut_frame dead b)).frame (refuseGets_frame _ b)
  exact ⟨(hf.trans hd).trans out, out b hb⟩

/-- Every Bench of a list has failed once they all have. -/
theorem foldl_benchDies_failed {b : BenchId} {bs : List BenchId} (h : b ∈ bs) (s : State) :
    (bs.foldl State.benchDies s).benches[b].state = .failed := by
  induction bs generalizing s with
  | nil => cases h
  | cons c bs ih =>
    rcases List.mem_cons.mp h with rfl | h
    · exact KeepsFailed.foldl (fun u x => (benchDies_failed u x).1) bs _ b (benchDies_failed s b).2
    · exact ih h _

theorem mem_benchesOf {b : BenchId} {d : DieId} (h : dieOfBench b = d) : b ∈ benchesOf d := by
  subst h
  simp [benchesOf, dieOfBench]

theorem doChannelDieFailed_of_not_due {s : State} {d : DieId}
    (h : s.links[d].state = .failed ∨ s.links[d].lateRetrains < 4) : doChannelDieFailed d s = s := if_pos (by
  simpa only [Bool.or_eq_true, beq_iff_eq, decide_eq_true_iff] using h)

/-- The fourth retrain within a second: the link and the Benches of the die have failed. -/
theorem doChannelDieFailed_of_due {s : State} {d : DieId} (hs : s.links[d].state ≠ .failed)
    (hl : 4 ≤ s.links[d].lateRetrains) :
    (doChannelDieFailed d s).links[d] = { s.links[d] with state := .failed, lanes := 0 } ∧
      ∀ b, dieOfBench b = d → (doChannelDieFailed d s).benches[b].state = .failed := by
  have hgo : ¬((s.links[d].state == .failed || s.links[d].lateRetrains < 4) = true) := by
    simp only [Bool.or_eq_true, beq_iff_eq, decide_eq_true_iff, not_or, Nat.not_lt]
    exact ⟨hs, hl⟩
  rw [doChannelDieFailed, if_neg hgo, State.withSmart]
  extract_lets down dead
  have hd : down.links = s.links.set d { s.links[d] with state := .failed, lanes := 0 } := setLink_links s d _
  have fell : Frame _ down dead := Frame.foldl (benchesOf d) (Frame.refl down) benchDies_frame
  have after : Frame [.ctrls, .errors, .out] dead ((dead.reportGeneral (.link d) .failed 0x54 0 d.val 0 none 0).smartCheck
      s.criticalWarning) := (reportGeneral_frame dead _ _ _ _ _ _ _ _).step (smartCheck_frame _ _)
  have links := Eq.trans (after .links (by decide)) (fell .links (by decide))
  have benches := after .benches (by decide)
  refine ⟨?_, fun b hb => ?_⟩
  · simp only [links, hd, Fin.getElem_fin, Vector.getElem_set_self]
    rfl
  · rw [benches]
    exact foldl_benchDies_failed (mem_benchesOf hb) down

/-! ### The reference of the grid (R66, R68) -/

theorem mayPresent_of_ptm {s : State} (h : s.strikeRef = false) :
    s.mayPresent = (s.ptmFresh && s.ctrls[(0 : Ctrl)].ptmEnable, s) := by
  simp only [State.mayPresent, h, Bool.false_eq_true, if_false]

theorem mayPresent_of_strike {s : State} (h : s.strikeRef = true) :
    s.mayPresent = (decide ((Config.freeWord s.free).toNat ≤ 10), s.fresh.2) := by
  simp only [State.mayPresent, h, if_true]
  rfl

theorem mayLose_of_ptm {s : State} (h : s.strikeRef = false) : s.mayLose = (!s.ptmFresh, s) := by
  simp only [State.mayLose, h, Bool.false_eq_true, if_false]

theorem mayLose_of_strike {s : State} (h : s.strikeRef = true) :
    s.mayLose = (decide (10 ≤ (Config.freeWord s.free).toNat) || decide (1100000 ≤ (Config.freeWord (s.free + 1)).toNat),
      s.fresh.2.fresh.2) := by
  simp only [State.mayLose, h, if_true]
  rfl

/-- Whether the reference may become present is found out at the price of free values alone. -/
theorem mayPresent_snd (s : State) : ∃ n, s.mayPresent.2 = { s with free := n } := by
  cases h : s.strikeRef with
  | false => exact ⟨s.free, by rw [mayPresent_of_ptm h]⟩
  | true => exact ⟨s.free + 1, by rw [mayPresent_of_strike h]; rfl⟩

theorem mayLose_snd (s : State) : ∃ n, s.mayLose.2 = { s with free := n } := by
  cases h : s.strikeRef with
  | false => exact ⟨s.free, by rw [mayLose_of_ptm h]⟩
  | true => exact ⟨s.free + 2, by rw [mayLose_of_strike h]; rfl⟩

/-- A reference that may not become present changes the counter of free values alone. -/
theorem doReferencePresent_of_not {s : State} (h : s.mayPresent.1 = false) : doReferencePresent s = s.mayPresent.2 := by
  have hp : s.mayPresent = (false, s.mayPresent.2) := Prod.ext h rfl
  rw [doReferencePresent, hp]
  rfl

theorem doReferenceLost_of_not {s : State} (h : s.mayLose.1 = false) : doReferenceLost s = s.mayLose.2 := by
  have hp : s.mayLose = (false, s.mayLose.2) := Prod.ext h rfl
  rw [doReferenceLost, hp]
  rfl

section

variable {s : State} (h : s.mayPresent.1 = true)
include h

/-- Acquisition begins or starts again; the rising edge of STRIKE_IN is the origin of a grid that has not locked. -/
theorem doReferencePresent_acquires (hm : s.mold.mold ≠ none) (hl : s.grid.lock = .idle ∨ s.grid.lock = .acquiring) :
    doReferencePresent s = { s.mayPresent.2 with grid := { s.grid with
      refPresent := true, lock := .acquiring, good := 0, acqUs := s.clockUs
      origin := if s.grid.everLocked then s.grid.origin else if s.strikeRef then some s.clockUs else none } } := by
  obtain ⟨n, hn⟩ := mayPresent_snd s
  obtain ⟨m, hm⟩ := Option.ne_none_iff_exists'.mp hm
  have hp : s.mayPresent = (true, { s with free := n }) := Prod.ext h hn
  obtain hl | hl := hl <;>
    simp only [doReferencePresent, hp, State.modGrid, State.theMold, hl, hm, State.strikeRef, Bool.not_true,
      Bool.false_eq_true, if_false]

/-- Without a Mold, or once the grid runs, the reference is noted alone. -/
theorem doReferencePresent_stays
    (hl : s.mold.mold = none ∨ s.grid.lock = .locked ∨ s.grid.lock = .holdover ∨ s.grid.lock = .freeRun) :
    doReferencePresent s = { s.mayPresent.2 with grid := { s.grid with refPresent := true } } := by
  obtain ⟨n, hn⟩ := mayPresent_snd s
  have hp : s.mayPresent = (true, { s with free := n }) := Prod.ext h hn
  obtain hl | hl | hl | hl := hl
  · cases hs : s.grid.lock <;>
      simp only [doReferencePresent, hp, State.modGrid, State.theMold, hl, hs, Bool.not_true, Bool.false_eq_true, if_false]
  all_goals
    simp only [doReferencePresent, hp, State.modGrid, hl, Bool.not_true, Bool.false_eq_true, if_false]

end

/-- The grid without its reference. -/
def unreferenced (s : State) : State :=
  { s.mayLose.2 with grid := { s.grid with refPresent := false, good := 0, slewing := false } }

section

variable {s : State} (h : s.mayLose.1 = true)
include h

theorem doReferenceLost_stays (hl : s.grid.lock = .idle ∨ s.grid.lock = .holdover ∨ s.grid.lock = .freeRun) :
    doReferenceLost s = unreferenced s := by
  obtain ⟨n, hn⟩ := mayLose_snd s
  have hp : s.mayLose = (true, { s with free := n }) := Prod.ext h hn
  obtain hl | hl | hl := hl <;>
    simp only [doReferenceLost, unreferenced, hp, State.modGrid, hl, Bool.not_true, Bool.false_eq_true, if_false]

/-- A grid that acquires loses its origin too, unless it has locked before. -/
theorem doReferenceLost_acquiring (hl : s.grid.lock = .acquiring) : doReferenceLost s =
    { s.mayLose.2 with grid := { s.grid with
        refPresent := false, good := 0, slewing := false
        origin := if s.grid.everLocked then s.grid.origin else none } } := by
  obtain ⟨n, hn⟩ := mayLose_snd s
  have hp : s.mayLose = (true, { s with free := n }) := Prod.ext h hn
  simp only [doReferenceLost, hp, State.modGrid, hl, Bool.not_true, Bool.false_eq_true, if_false]

theorem doReferenceLost_locked (hl : s.grid.lock = .locked) : doReferenceLost s = (unreferenced s).leaveLocked := by
  obtain ⟨n, hn⟩ := mayLose_snd s
  have hp : s.mayLose = (true, { s with free := n }) := Prod.ext h hn
  simp only [doReferenceLost, unreferenced, hp, State.modGrid, hl, Bool.not_true, Bool.false_eq_true, if_false]

end

/-- What the way out of LOCKED leaves in the grid. -/
theorem leaveLocked_grid_fields (s : State) : s.leaveLocked.grid.refPresent = s.grid.refPresent ∧
    s.leaveLocked.grid.lock = (if s.holdover = 0 then .freeRun else .holdover) ∧ s.leaveLocked.grid.lockLost = true ∧
    s.leaveLocked.grid.lockLosses = satAdd 16 s.grid.lockLosses 1 ∧ s.leaveLocked.grid.heldFor = 0 ∧
    s.leaveLocked.grid.stroke = s.grid.stroke := by
  rw [leaveLocked_grid]
  split_ifs <;> exact ⟨rfl, rfl, rfl, rfl, rfl, rfl⟩

theorem unreferenced_holdover (s : State) : (unreferenced s).holdover = s.holdover := by
  obtain ⟨n, hn⟩ := mayLose_snd s
  simp only [unreferenced, hn, State.holdover, State.theMold]

/-- Whoever leaves LOCKED changes the grid, the C0 conditions and the answers alone. -/
theorem leaveLocked_eq (s : State) : s.leaveLocked = { s with
    grid := s.leaveLocked.grid, sched := s.leaveLocked.sched, ctrls := s.leaveLocked.ctrls, out := s.leaveLocked.out } := by
  have h := leaveLocked_frame s
  generalize s.leaveLocked = t at h
  cases s
  cases t
  simp only [State.mk.injEq, true_and]
  exact ⟨h .power (by decide), h .mold (by decide), h .engines (by decide), h .mem (by decide), h .cache (by decide),
    h .ingots (by decide), h .search (by decide), h .benches (by decide), h .flash (by decide), h .links (by decide),
    h .pewter (by decide), h .errors (by decide), h .burnish (by decide), h .sec (by decide), h .fw (by decide),
    h .bmc (by decide), h .dev (by decide), h .clockUs (by decide), h .free (by decide), h .pending (by decide)⟩

/-! ### The lock and the holdover (Table 3-1) -/

theorem doGridLock_of_not {s : State} (h : s.grid.lock ≠ .acquiring ∨ s.grid.refPresent = false) :
    doGridLock s = s := if_neg (by
  rw [Bool.and_eq_true, beq_iff_eq, not_and_or, Bool.not_eq_true]
  exact h)

/-- The first STRIKE_IN edge after acquisition began, which no row reports (R66). -/
def firstEdge (s : State) : Nat :=
  s.grid.acqUs + (Config.freeWord s.free).toNat % (s.clockUs - s.grid.acqUs + 1)

theorem acqUs_le_firstEdge (s : State) : s.grid.acqUs ≤ firstEdge s := Nat.le_add_right _ _

theorem firstEdge_le_clockUs {s : State} (h : s.grid.acqUs ≤ s.clockUs) : firstEdge s ≤ s.clockUs := by
  have := Nat.mod_lt (Config.freeWord s.free).toNat (Nat.add_one_pos (s.clockUs - s.grid.acqUs))
  unfold firstEdge
  omega

section

variable {s : State} (hl : s.grid.lock = .acquiring) (hr : s.grid.refPresent = true)
include hl hr

theorem doGridLock_keeps_origin (h : s.strikeRef = false ∨ s.grid.origin ≠ none) :
    doGridLock s = { s with grid := { s.grid with
      lock := .locked, good := 0, lockedNs := (s.theMold.map Mold.periodNs).getD 0, lockedUs := s.clockUs } } := by
  have hgo : (s.grid.lock == .acquiring && s.grid.refPresent) = true := by rw [hl, hr]; rfl
  have ho : ¬(s.strikeRef && s.grid.origin.isNone) = true := by
    rw [Bool.and_eq_true, Option.isNone_iff_eq_none, not_and_or, Bool.not_eq_true]
    exact h
  simp only [doGridLock, hgo, if_true, if_neg ho, State.modGrid]
  cases s.theMold <;> rfl

/-- A STRIKE_IN grid without an origin takes the first edge after acquisition began. -/
theorem doGridLock_takes_edge (hs : s.strikeRef = true) (ho : s.grid.origin = none) :
    doGridLock s = { s.fresh.2 with grid := { s.grid with
      lock := .locked, good := 0
      origin := some (firstEdge s)
      lockedNs := (s.theMold.map Mold.periodNs).getD 0, lockedUs := s.clockUs } } := by
  have hgo : (s.grid.lock == .acquiring && s.grid.refPresent) = true := by rw [hl, hr]; rfl
  have he : (s.strikeRef && s.grid.origin.isNone) = true := by rw [hs, ho]; rfl
  simp only [doGridLock, hgo, if_true, if_pos he, State.modGrid, State.fresh, State.theMold]
  cases s.mold.mold <;> rfl

end

theorem doHoldoverExpiry_of_not {s : State} (h : s.grid.lock ≠ .holdover ∨ s.grid.heldFor < s.holdover) :
    doHoldoverExpiry s = s := if_neg (by
  rw [Bool.and_eq_true, beq_iff_eq, decide_eq_true_iff, not_and_or, Nat.not_le]
  exact h)

/-- FREE_RUN is entered without its event where that is off. -/
theorem enterFreeRun_of_quiet {s : State} (h : s.grid.freeRunIrq = false) :
    s.enterFreeRun = { s with grid := { s.grid with lock := .freeRun, freeRunEntered := true, good := 0, slewing := false } } :=
  if_neg (by rw [State.modGrid, h]; decide)

theorem doHoldoverExpiry_of_elapsed {s : State} (hl : s.grid.lock = .holdover) (he : s.holdover ≤ s.grid.heldFor) :
    doHoldoverExpiry s = s.enterFreeRun.evalC0 false := if_pos (by
  rw [Bool.and_eq_true, beq_iff_eq, decide_eq_true_iff]
  exact ⟨hl, he⟩)

/-- Settles O24: one case for each clause, by the state of the link, of the reference and of the grid. The gate of
COUNT_EN (log 99) and the free times of the edges (log 123) are the model's own. -/
theorem linksAndTheGrid : Obligations.LinksAndTheGrid := by
  refine ⟨fun s d frame key held trained => ⟨fun hu => ⟨?_, ?_, ?_⟩, fun hu hc => ⟨_, rfl, ?_⟩,
    fun hu hc hi hf => ⟨_, rfl, ?_⟩, fun ht hr hl => ⟨fun hn => ?_, fun ha => ?_⟩, fun hn => ?_,
    ⟨fun hu hn => ?_, fun hu hn hc => ⟨_, rfl, ?_⟩⟩, fun hn => ?_, fun ht hl => ⟨_, rfl, ?_⟩⟩,
    fun s => ⟨fun hp => ⟨mayPresent_of_ptm hp, mayLose_of_ptm hp⟩,
      fun hs => ⟨mayPresent_of_strike hs, mayLose_of_strike hs⟩, fun hn => ?_, fun hp hm hl => ?_, fun hp hl => ?_,
      fun hn => ?_, fun hp hl => ?_, fun hp hl => ?_, fun hp hl => ⟨_, rfl, ?_⟩,
      fun hl hr =>
        ⟨fun ho => ?_, fun hs ho => ⟨firstEdge s, ?_, acqUs_le_firstEdge s, firstEdge_le_clockUs⟩⟩,
      fun hn => ?_, fun hl he hi => ?_, fun hn => ?_⟩⟩
  -- a link that is not UP, and a frame that fails on one that is
  · exact next_eq (doLinkFrameTagFail_of_not_up hu frame)
  · exact next_eq (doLinkRetrain_of_not_up hu held)
  · exact next_eq (doLinkRekey_of_not_up hu key)
  · exact doLinkFrameTagFail_of_up hu hc frame
  -- a retrain begins and ends
  · rw [doLinkRetrain_of_up hu hc hi hf held]
    simp only [Fin.getElem_fin, Vector.getElem_set_self]
    refine ⟨trivial, rfl, rfl, rfl, rfl, rfl, freshKeys_length s, fun f => mem_retrained_unacked, rfl, rfl, ?_⟩
    exact List.getLast?_concat ..
  · exact next_eq ((doLinkRetrainComplete_of_due ht hr hl).trans (if_pos (bne_iff_ne.mpr hn)))
  · refine next_eq ((doLinkRetrainComplete_of_due ht hr hl).trans ?_)
    rw [ha]
    exact if_neg (by decide)
  · exact next_eq (doLinkRetrainComplete_of_not_due hn trained)
  -- a rekey
  · exact next_eq ((doLinkRekey_of_up hu key).trans (if_pos hn))
  · refine ((doLinkRekey_of_up hu key).trans (if_neg (Nat.not_lt.mpr hn))).trans ?_
    rw [countLink_of_counts (by exact hc), modLink_modLink]
    rfl
  -- a die that fails
  · exact next_eq (doChannelDieFailed_of_not_due hn)
  · obtain ⟨hlink, hbenches⟩ := doChannelDieFailed_of_due (by rw [ht]; decide) hl
    rw [hlink]
    exact ⟨rfl, rfl, hbenches⟩
  -- the reference
  · exact next_eq (doReferencePresent_of_not hn)
  · exact next_eq (doReferencePresent_acquires hp hm hl)
  · exact next_eq (doReferencePresent_stays hp hl)
  · exact next_eq (doReferenceLost_of_not hn)
  · exact next_eq (doReferenceLost_stays hp hl)
  · exact next_eq (doReferenceLost_acquiring hp hl)
  · obtain ⟨href, hlock, hlost, hlosses, hheld, hstroke⟩ := leaveLocked_grid_fields (unreferenced s)
    rw [unreferenced_holdover] at hlock
    rw [doReferenceLost_locked hp hl]
    exact ⟨href, hlock, hlost, hlosses, hheld, hstroke, leaveLocked_eq (unreferenced s)⟩
  -- the lock and the holdover
  · exact next_eq (doGridLock_keeps_origin hl hr ho)
  · exact next_eq (doGridLock_takes_edge hl hr hs ho)
  · exact next_eq (doGridLock_of_not hn)
  · exact next_eq ((doHoldoverExpiry_of_elapsed hl he).trans (by rw [enterFreeRun_of_quiet hi]))
  · exact next_eq (doHoldoverExpiry_of_not hn)

end Sys2Proof.Proofs

/-! PROOFS. An NVMe controller reset and an FLR (R29, R384): what lies outside the controller stays. -/

namespace Sys2Proof.Proofs

-- One declaration after another, as in the laws: each waiting thread counts against the check's memory.
set_option Elab.async false

open Sys2Proof Sys2Proof.Machine Sys2Proof.Laws

/-- A Quench of a controller finds nothing where no job exists. -/
theorem quenchController_of_no_job {s : State} (h : s.sched.jobs = []) (c : Ctrl) : s.quenchController c = s := by
  simp only [State.quenchController, h, updWhere, List.map_nil]
  rw [← h]

/-- The lower of two requests is 0 where that of controller 0 is. -/
theorem requestedState_of_zero {s : State} (h : s.ctrls[(0 : Ctrl)].pmState = 0) : s.requestedState = 0 := by
  rw [State.requestedState, h, Nat.zero_min, ite_self]

theorem followRequest_of_followed {s : State} (h : s.requestedState = s.power.state) : s.followRequest = s :=
  if_pos (beq_iff_eq.mpr h)

/-- Without jobs, in PS0 and with PS0 requested, a controller that goes takes its own record and the completion of its Recast
with it, and nothing else. -/
theorem dropController_of_idle {s : State} (hj : s.sched.jobs = []) (hp : s.power.state = 0)
    (hr : s.ctrls[(0 : Ctrl)].pmState = 0) (c : Ctrl) {f : Controller → Controller} (hf : ∀ x, (f x).pmState = 0) :
    ∃ r, s.dropController c f = ({ s with mold := { s.mold with recast := r } } : State).modCtrl c f := by
  unfold State.dropController
  extract_lets r _ u
  refine ⟨r, ?_⟩
  have hq : u.quenchController c = u := quenchController_of_no_job (s := u) hj c
  have hz : (u.modCtrl c f).ctrls[(0 : Ctrl)].pmState = 0 := by
    by_cases hc : c = 0
    · subst hc
      rw [modCtrl_get]
      exact hf _
    · rwa [modCtrl_get_of_ne u f hc]
  rw [hq, followRequest_of_followed ((requestedState_of_zero hz).trans hp.symm)]

/-- Settles O6: both resets drop the controller; without a job and without a change of the power state only its record and
the Recast it issued are touched. -/
theorem resetsOfOneControllerLeaveTheRest : Obligations.ResetsOfOneControllerLeaveTheRest := by
  intro s t c d i hd hi hj hp hr ht
  obtain ⟨f, hexec, hz, hrec⟩ : ∃ f : Controller → Controller, exec i s = .next (s.dropController c f) ∧
      (∀ x, (f x).pmState = 0) ∧ ∀ x, (f x).sqs = [] ∧ (f x).cqs = [] ∧ (f x).inflight = [] ∧ (f x).rdy = false := by
    obtain rfl | rfl := hi <;> exact ⟨_, rfl, fun _ => rfl, fun _ => ⟨rfl, rfl, rfl, rfl⟩⟩
  obtain ⟨r, hdrop⟩ := dropController_of_idle hj hp hr c hz
  obtain rfl : s.dropController c f = t := Host.Outcome.next.inj (hexec.symm.trans ht)
  rw [hdrop, modCtrl_get, modCtrl_get_of_ne _ f hd.symm]
  exact ⟨rfl, rfl, rfl, rfl, rfl, rfl, rfl, rfl, rfl, rfl, rfl, rfl, hrec _⟩

end Sys2Proof.Proofs

/-! PROOFS. A Mold takes force (R34, R51, R228, R231): what stands before the mount, what the mount adds, and what follows it
without touching the index. -/

namespace Sys2Proof.Proofs

-- One declaration after another, as in the laws: each waiting thread counts against the check's memory.
set_option Elab.async false

open Sys2Proof Sys2Proof.Machine Sys2Proof.Laws

/-! ### A part that a frame leaves out -/

section

variable {w : List Laws.Part} {s t : State}

theorem mold_of_frame (h : Frame w s t) (hw : Laws.Part.mold ∉ w := by decide) : t.mold = s.mold := h .mold hw

theorem grid_of_frame (h : Frame w s t) (hw : Laws.Part.grid ∉ w := by decide) : t.grid = s.grid := h .grid hw

theorem sched_of_frame (h : Frame w s t) (hw : Laws.Part.sched ∉ w := by decide) : t.sched = s.sched := h .sched hw

theorem search_of_frame (h : Frame w s t) (hw : Laws.Part.search ∉ w := by decide) : t.search = s.search := h .search hw

end

/-! ### The index under write-back (R174, R178) -/

/-- What the mount settles of the index: the marks in use, each list's marks with its COUNT, and the Collections that have a
descriptor. -/
def indexOf (s : State) : Nat × List (List (Nat × Nat) × Nat) × List Nat :=
  (s.search.marksUsed, s.search.lists.map fun l => (l.marks, l.records.length), s.search.colls.map Coll.id)

theorem indexOf_colls (s : State) : (indexOf s).2.2 = s.search.colls.map Coll.id := rfl

theorem indexOf_of_frame {w : List Laws.Part} {s t : State} (h : Frame w s t)
    (hw : Laws.Part.search ∉ w := by decide) : indexOf t = indexOf s := by
  rw [indexOf, search_of_frame h hw, indexOf]

theorem indexOf_foldl {α : Type} {f : State → α → State} (hf : ∀ u x, indexOf (f u x) = indexOf u) (l : List α)
    (s : State) : indexOf (l.foldl f s) = indexOf s := by
  induction l generalizing s with
  | nil => rfl
  | cons x l ih => exact (ih _).trans (hf s x)

/-- Only the count of records at home changes in a list. -/
theorem indexOf_copyHome (s : State) (g : Nat) : indexOf (s.copyHome g) = indexOf s := by
  unfold State.copyHome
  split_ifs
  · simp only [indexOf, List.map_map]
    congr 3
    funext l
    simp only [Function.comp]
    split_ifs <;> rfl
  all_goals rfl

theorem indexOf_granuleHome (s : State) (q : QuarterId) (g : Nat) : indexOf (s.granuleHome q g) = indexOf s := by
  unfold State.granuleHome
  split
  · rfl
  · next t h =>
    have home : indexOf t = indexOf s := indexOf_of_frame (programHome_frame s q g t h)
    extract_lets _ u
    have copied : indexOf u = indexOf t := indexOf_copyHome _ g
    rw [indexOf_of_frame (noteStripes_frame _ _ _), indexOf_of_frame (noteStripes_frame _ _ _), copied, home]

theorem indexOf_dirtyThrough (s : State) (q : QuarterId) (g cls : Nat) :
    indexOf (s.dirtyThrough q g cls).1 = indexOf s := by
  unfold State.dirtyThrough
  extract_lets known
  split_ifs
  · exact indexOf_of_frame (dirtyWrite_frame s q g cls)
  · exact (indexOf_granuleHome _ q g).trans (indexOf_of_frame (modCache_frame s _ _))
  · rfl
  · exact indexOf_of_frame (dirtyWrite_frame s q g cls)

/-- A change of a Collection that leaves its number. -/
theorem indexOf_modColl (s : State) (i : Nat) {f : Coll → Coll} (hf : ∀ c, (f c).id = c.id) :
    indexOf (s.modColl i f) = indexOf s := by
  simp only [indexOf, State.modColl, updWhere, List.map_map]
  congr 3
  funext c
  simp only [Function.comp]
  split_ifs
  · exact hf c
  · rfl

theorem indexOf_setKcv (s : State) (label : Word64) (key : BitVec 256) : indexOf (s.setKcv label key) = indexOf s := by
  refine indexOf_foldl (fun u i => ?_) _ s
  split_ifs
  · exact (indexOf_dirtyThrough ..).trans (indexOf_modColl u i fun _ => rfl)
  · rfl

theorem indexOf_checkKcvs (s : State) : indexOf s.checkKcvs = indexOf s := by
  refine indexOf_foldl (fun u p => ?_) _ s
  split_ifs
  · extract_lets _ v
    rw [indexOf_of_frame (reportSecurity_frame v _ _ _ _ _)]
    rfl
  · exact indexOf_setKcv ..

theorem isSome_coll_iff {s : State} {i : Nat} : (s.coll i).isSome = true ↔ i ∈ s.search.colls.map Coll.id := by
  simp only [State.coll, List.find?_isSome, List.mem_map, beq_iff_eq]

/-! ### Descriptors and marks (R51, R231) -/

/-- Descriptors added one after another, each seeing those before it. -/
theorem map_id_foldl_append {mk : List Coll → CollEntry → Coll} (hmk : ∀ cs c, (mk cs c).id = c.id)
    (new : List CollEntry) (cs : List Coll) :
    (new.foldl (fun cs c => cs ++ [mk cs c]) cs).map Coll.id = cs.map Coll.id ++ new.map CollEntry.id := by
  induction new generalizing cs with
  | nil => simp
  | cons c new ih => simp [ih, hmk]

theorem createColls_declares (s : State) (m : Mold) {c : CollEntry} (hc : c ∈ m.colls) :
    c.id ∈ (s.createColls m).search.colls.map Coll.id := by
  unfold State.createColls
  extract_lets new shares mk _ u
  have hn : c.id ∈ s.search.colls.map Coll.id ++ new.map CollEntry.id := by
    by_cases hs : (s.coll c.id).isSome = true
    · exact List.mem_append_left _ (isSome_coll_iff.mp hs)
    · exact List.mem_append_right _ (List.mem_map_of_mem (List.mem_filter.mpr ⟨hc, by simpa using hs⟩))
  have hu : u.search.colls.map Coll.id = s.search.colls.map Coll.id ++ new.map CollEntry.id :=
    map_id_foldl_append (fun _ _ => rfl) new s.search.colls
  have hi : indexOf (new.foldl (fun v c => (v.dirtyThrough 0 (descriptorGranule c.id) 5).1) u) = indexOf u :=
    indexOf_foldl (fun v c => indexOf_dirtyThrough ..) new u
  rwa [← indexOf_colls, hi, indexOf_colls, hu]

/-- Every list has the single mark (0, COUNT), and as many marks are in use as there are lists. -/
def Marked (s : State) : Prop :=
  s.search.marksUsed = s.search.lists.length ∧ ∀ l ∈ s.search.lists, l.marks = [(0, l.records.length)]

theorem marked_iff_indexOf {s : State} :
    Marked s ↔ (indexOf s).1 = (indexOf s).2.1.length ∧ ∀ p ∈ (indexOf s).2.1, p.1 = [(0, p.2)] := by
  simp [Marked, indexOf]

theorem mountMarks_marked (s : State) : Marked s.mountMarks := by
  simp [Marked, State.mountMarks]

/-! ### The accounts and the number of jobs (R77, R83) -/

/-- What a new Mold sets to zero in the scheduler, and how many jobs there are. -/
def accountsOf (s : State) : Vector Nat 32 × Vector Nat 32 × Nat :=
  (s.sched.acctEngine, s.sched.acctBench, s.sched.jobs.length)

theorem accountsOf_of_frame {w : List Laws.Part} {s t : State} (h : Frame w s t)
    (hw : Laws.Part.sched ∉ w := by decide) : accountsOf t = accountsOf s := by
  rw [accountsOf, sched_of_frame h hw, accountsOf]

theorem accountsOf_countUnbound (s : State) : accountsOf s.countUnbound = accountsOf s := by
  simp only [accountsOf, State.countUnbound, updWhere, List.length_map]

theorem accountsOf_evalC0 (s : State) (atBoundary : Bool) : accountsOf (s.evalC0 atBoundary) = accountsOf s := by
  unfold State.evalC0
  extract_lets floor keep g p t r shop _ u
  split_ifs
  · rfl
  · exact accountsOf_countUnbound u

theorem accountsOf_capFall (s : State) : accountsOf s.capFall = accountsOf s := by
  unfold State.capFall
  split
  split_ifs
  · rw [accountsOf_evalC0, accountsOf_of_frame (allocate_frame _)]
    rfl
  · rfl
  · rfl

/-! ### The steps of a mount (R34) -/

theorem gridStart_stroke (s : State) : s.gridStart.grid.stroke = s.grid.stroke := by
  unfold State.gridStart
  split_ifs <;> rfl

theorem takeReference_stroke (s : State) (m : Mold) : (s.takeReference m).grid.stroke = s.grid.stroke := by
  unfold State.takeReference
  split_ifs <;> rfl

/-- The check of the flush log leaves only its mark on the Mold block. -/
theorem checkFlushLog_mold (s : State) (bad : List (BenchId × BlockId)) :
    ∃ b, (s.checkFlushLog bad).mold = { s.mold with flushChecked := b } := by
  unfold State.checkFlushLog
  split_ifs
  · exact ⟨_, rfl⟩
  · refine ⟨true, ?_⟩
    extract_lets _ u
    split
    · rfl
    · next f _ =>
      rw [mold_of_frame (eraseLog_frame _ bad)]
      split_ifs
      · rfl
      · rw [mold_of_frame (reportGeneral_frame _ _ _ _ _ _ _ _ _), mold_of_frame (dropUnflushed_frame _ _)]

/-- The Mold block with a full Mold in force. -/
def inForce (m : Mold) (i : MoldImage) (bs : List Byte) (ranges : List WorldEntry) (b : MoldBlock) : MoldBlock :=
  { b with
    state := .molded, loading := none, mold := some m, gen := BitVec.ofNat 64 i.gen, digest := fieldBytes bs 32 64
    fixedRanges := ranges, c0Suspended := false }

/-- A Mold as it stands before its Collections are mounted: in force, the flush log checked, the epoch past those on media. -/
def standing (s : State) (m : Mold) (i : MoldImage) (bs : List Byte) (ranges : List WorldEntry) (media : MountFindings) :
    State :=
  let u := (s.takeReference m).modMold (inForce m i bs ranges)
  let v := (u.checkFlushLog media.eraseFails).mountMetadata media.readable
  { v with
    search := { v.search with epoch := u.mediaEpoch + 1 }
    sched := { v.sched with acctEngine := Vector.replicate 32 0, acctBench := Vector.replicate 32 0 } }

/-- The mount of the Collections, up to the marks of the lists. -/
def mounted (s : State) (m : Mold) : State := ((s.createColls m).noteEmbed m).mountMarks

/-- What follows the mount: the parts bound, the keys checked and asked for, the cap, the grid and the C0 bound. -/
def settled (s : State) : State :=
  (((((s.bindParts false).checkKcvs).sendKeyRequests).raiseRollback).capFall.gridStart).evalC0 false

theorem takeForce_eq (s : State) (m : Mold) (i : MoldImage) (bs : List Byte) (ranges : List WorldEntry)
    (media : MountFindings) : s.takeForce m i bs ranges media = settled (mounted (standing s m i bs ranges media) m) := rfl

section

variable (s : State) (m : Mold)

theorem mounted_frame : Frame [.mem, .cache, .search, .flash] s (mounted s m) :=
  ((createColls_frame s m).step (noteEmbed_frame _ m)).step (mountMarks_frame _)

theorem settled_frame : Frame [.power, .ctrls, .grid, .sched, .engines, .mem, .cache, .search, .benches, .flash, .pewter,
    .errors, .sec, .out] s (settled s) := by
  unfold settled
  exact Frame.step (Frame.step (Frame.step (Frame.step (Frame.step (Frame.step (Frame.step (Frame.refl s)
    (bindParts_frame s false)) (checkKcvs_frame _)) (sendKeyRequests_frame _)) (raiseRollback_frame _)) (capFall_frame _))
    (gridStart_frame _)) (evalC0_frame _ false)

theorem settled_index : indexOf (settled s) = indexOf s := by
  unfold settled
  rw [indexOf_of_frame (evalC0_frame _ false), indexOf_of_frame (gridStart_frame _), indexOf_of_frame (capFall_frame _),
    indexOf_of_frame (raiseRollback_frame _), indexOf_of_frame (sendKeyRequests_frame _), indexOf_checkKcvs,
    indexOf_of_frame (bindParts_frame s false)]

theorem settled_sameNumbers : SameNumbers s (settled s) :=
  (((((((SameNumbers.of_frame (bindParts_frame s false)).trans (checkKcvs_sameNumbers _)).frame
    (sendKeyRequests_frame _)).frame (raiseRollback_frame _)).frame (capFall_frame _)).frame (gridStart_frame _)).frame
    (evalC0_frame _ false))

theorem mounted_sameNumbers : SameNumbers s (mounted s m) := createColls_sameNumbers s m

theorem settled_accounts : accountsOf (settled s) = accountsOf s := by
  unfold settled
  rw [accountsOf_evalC0, accountsOf_of_frame (gridStart_frame _), accountsOf_capFall,
    accountsOf_of_frame (raiseRollback_frame _), accountsOf_of_frame (sendKeyRequests_frame _),
    accountsOf_of_frame (checkKcvs_frame _), accountsOf_of_frame (bindParts_frame s false)]

theorem settled_stroke : (settled s).grid.stroke = s.grid.stroke := by
  unfold settled
  rw [grid_of_frame (evalC0_frame _ false), gridStart_stroke, grid_of_frame (capFall_frame _),
    grid_of_frame (raiseRollback_frame _), grid_of_frame (sendKeyRequests_frame _), grid_of_frame (checkKcvs_frame _),
    grid_of_frame (bindParts_frame s false)]

end

section

variable (s : State) (m : Mold) (i : MoldImage) (bs : List Byte) (ranges : List WorldEntry) (media : MountFindings)

theorem standing_mold : ∃ b, (standing s m i bs ranges media).mold =
    { inForce m i bs ranges s.mold with flushChecked := b } := by
  have hm : ((s.takeReference m).modMold (inForce m i bs ranges)).mold = inForce m i bs ranges s.mold :=
    congrArg (inForce m i bs ranges) (mold_of_frame (takeReference_frame s m))
  rw [← hm]
  exact checkFlushLog_mold _ media.eraseFails

/-- The greatest epoch on media does not hang on the reference or the Mold. -/
theorem mediaEpoch_inForce : ((s.takeReference m).modMold (inForce m i bs ranges)).mediaEpoch = s.mediaEpoch := by
  have hr := takeReference_frame s m
  have hf : (s.takeReference m).flash = s.flash := hr .flash (by decide)
  have hm : (s.takeReference m).mem = s.mem := hr .mem (by decide)
  simp only [State.mediaEpoch, State.modMold, search_of_frame hr, hf, hm]

theorem standing_epoch : (standing s m i bs ranges media).search.epoch = s.mediaEpoch + 1 :=
  congrArg (· + 1) (mediaEpoch_inForce s m i bs ranges)

/-- What the check of the media can touch. -/
theorem mountMedia_frame (u : State) :
    Frame [.ctrls, .mold, .mem, .cache, .search, .benches, .flash, .errors, .out] u
      ((u.checkFlushLog media.eraseFails).mountMetadata media.readable) :=
  (checkFlushLog_frame u _).step (mountMetadata_frame _ _)

theorem standing_accounts : accountsOf (standing s m i bs ranges media) =
    (Vector.replicate 32 0, Vector.replicate 32 0, s.sched.jobs.length) := by
  have hr : (s.takeReference m).sched = s.sched := sched_of_frame (takeReference_frame s m)
  have hs := (sched_of_frame (mountMedia_frame media ((s.takeReference m).modMold (inForce m i bs ranges)))).trans hr
  simp only [accountsOf, standing, hs]

theorem standing_stroke : (standing s m i bs ranges media).grid.stroke = s.grid.stroke :=
  (congrArg Grid.stroke (grid_of_frame (mountMedia_frame media ((s.takeReference m).modMold (inForce m i bs ranges))))).trans
    (takeReference_stroke s m)

end

/-- Settles O17: the Mold block, the epoch and the accounts are set before the Collections are mounted, the mount gives every
declared Collection a descriptor and every list its mark, and nothing after it touches them. -/
theorem aMoldThatTakesForce : Obligations.AMoldThatTakesForce := by
  intro s m i bs ranges media t
  obtain ⟨b, hb⟩ := standing_mold s m i bs ranges media
  have hpending : t.pending = s.pending := takeForce_frame s m i bs ranges media .pending (by decide)
  have hepoch := standing_epoch s m i bs ranges media
  have haccounts := standing_accounts s m i bs ranges media
  have hstroke := standing_stroke s m i bs ranges media
  have ht : t = settled (mounted (standing s m i bs ranges media) m) := takeForce_eq ..
  clear_value t
  generalize standing s m i bs ranges media = u at *
  rw [← ((mounted_sameNumbers u m).trans (settled_sameNumbers _)).1, ← ht] at hepoch
  rw [← accountsOf_of_frame (mounted_frame u m), ← settled_accounts, ← ht] at haccounts
  rw [← grid_of_frame (mounted_frame u m), ← settled_stroke, ← ht] at hstroke
  rw [← mold_of_frame (mounted_frame u m), ← mold_of_frame (settled_frame _), ← ht] at hb
  obtain ⟨hengine, hrest⟩ := Prod.mk.inj haccounts
  obtain ⟨hbench, hjobs⟩ := Prod.mk.inj hrest
  have hindex : indexOf t = indexOf (mounted u m) := ht ▸ settled_index (mounted u m)
  obtain ⟨hused, hmarks⟩ : Marked t := by
    rw [marked_iff_indexOf, hindex, ← marked_iff_indexOf]
    exact mountMarks_marked _
  have hcolls (c : CollEntry) (hc : c ∈ m.colls) : (t.coll c.id).isSome = true := by
    rw [isSome_coll_iff, ← indexOf_colls, hindex]
    exact createColls_declares u m hc
  rw [hb]
  exact ⟨rfl, rfl, rfl, rfl, rfl, rfl, rfl, hepoch, hengine, hbench, hmarks, hused, hcolls, hjobs, hstroke, hpending⟩

end Sys2Proof.Proofs

/-! PROOFS. MOLD_LOAD and RECAST (R3, R32 to R34, R58, R61): the refusals in their order, the two validations, and the drain of a
Recast. -/

namespace Sys2Proof.Proofs

-- One declaration after another, as in the laws: each waiting thread counts against the check's memory.
set_option Elab.async false

open Sys2Proof Sys2Proof.Machine Sys2Proof.Laws

/-! ### MOLD_LOAD (R3, R32, R33) -/

section

variable {s : State} {e : Sqe}

theorem doMoldLoad_of_bad_fields (h : moldFieldsOk e = false) (image : MoldUpload) :
    doMoldLoad e image s = s.loadRefused e.key scInvalidField := if_pos (by rw [h]; rfl)

variable (h : moldFieldsOk e = true) (image : MoldUpload)
include h

/-- With good fields the state of the Mold block decides. -/
theorem doMoldLoad_of_fields : doMoldLoad e image s =
    if s.mold.state == .loading then (s.modMold fun m => { m with cfgBusy := true }).loadRefused e.key scCfgBusy
    else if s.mold.state != .blank then s.loadRefused e.key scMoldPresent
    else if s.lc == 0 then s.loadRefused e.key scLifecycleDenied
    else if s.lc == 4 || s.pewter.optBad || s.errors.hubFailed then s.loadRefused e.key scMediaUnavailable
    else s.modMold fun m => { m with state := .loading, loading := some (e, image) } := if_neg (by rw [h]; decide)

theorem doMoldLoad_of_loading (hl : s.mold.state = .loading) : doMoldLoad e image s =
    (s.modMold fun m => { m with cfgBusy := true }).loadRefused e.key scCfgBusy := by
  rw [doMoldLoad_of_fields h, hl]
  exact if_pos rfl

theorem doMoldLoad_of_present (hl : s.mold.state ≠ .loading) (hb : s.mold.state ≠ .blank) :
    doMoldLoad e image s = s.loadRefused e.key scMoldPresent := by
  rw [doMoldLoad_of_fields h, if_neg (by simpa using hl), if_pos (by simpa using hb)]

variable (hb : s.mold.state = .blank)
include hb

theorem doMoldLoad_of_blank : doMoldLoad e image s =
    if s.lc == 0 then s.loadRefused e.key scLifecycleDenied
    else if s.lc == 4 || s.pewter.optBad || s.errors.hubFailed then s.loadRefused e.key scMediaUnavailable
    else s.modMold fun m => { m with state := .loading, loading := some (e, image) } := by
  rw [doMoldLoad_of_fields h, hb]
  rfl

theorem doMoldLoad_of_raw (hr : s.pewter.lcState = 0) :
    doMoldLoad e image s = s.loadRefused e.key scLifecycleDenied := by
  rw [doMoldLoad_of_blank h image hb]
  exact if_pos (beq_iff_eq.mpr hr)

theorem doMoldLoad_of_unavailable (hr : s.pewter.lcState ≠ 0)
    (hu : s.pewter.lcState = 4 ∨ s.pewter.optBad = true ∨ s.errors.hubFailed = true) :
    doMoldLoad e image s = s.loadRefused e.key scMediaUnavailable := by
  rw [doMoldLoad_of_blank h image hb, if_neg (by simpa [State.lc] using hr)]
  exact if_pos (by simpa [State.lc, or_assoc] using hu)

theorem doMoldLoad_of_taken (hr : s.pewter.lcState ≠ 0) (hm : s.pewter.lcState ≠ 4) (ho : s.pewter.optBad = false)
    (hf : s.errors.hubFailed = false) :
    doMoldLoad e image s = s.modMold fun m => { m with state := .loading, loading := some (e, image) } := by
  rw [doMoldLoad_of_blank h image hb, if_neg (by simpa [State.lc] using hr)]
  exact if_neg (by simp [State.lc, hm, ho, hf])

end

/-! ### The end of the validation (R33, R34) -/

theorem doMoldLoadValidated_of_none {s : State} (h : s.mold.loading = none) : doMoldLoadValidated s = s := by
  simp only [doMoldLoadValidated, h]

/-- An image that fails: Blank again, with the error kept and MOLD_INVALID. -/
def loadFailed (s : State) (k : Key) (x : MoldErr) : State :=
  (s.modMold fun m => { m with state := .blank, loading := none }).moldInvalid k false x

section

variable {s : State} {e : Sqe} {image : MoldUpload} (h : s.mold.loading = some (e, image))
include h

theorem doMoldLoadValidated_of_unread {x : MoldErr}
    (hr : readImage false s.power.split e.cdw10.toNat 0 [] (moldImage e image.bytes) = .error x) :
    doMoldLoadValidated s = loadFailed s e.key x := by
  simp only [doMoldLoadValidated, h, hr, loadFailed]

variable {i : MoldImage} (hr : readImage false s.power.split e.cdw10.toNat 0 [] (moldImage e image.bytes) = .ok i)
include hr

theorem doMoldLoadValidated_of_unfit {x : MoldErr}
    (hp : resultPhase s i (moldImage e image.bytes) Mold.blank (i.result (moldImage e image.bytes) Mold.blank) = .error x) :
    doMoldLoadValidated s = loadFailed s e.key x := by
  simp only [doMoldLoadValidated, h, hr, hp, loadFailed]

theorem doMoldLoadValidated_of_passed {ranges : List WorldEntry}
    (hp : resultPhase s i (moldImage e image.bytes) Mold.blank (i.result (moldImage e image.bytes) Mold.blank) = .ok ranges) :
    doMoldLoadValidated s = (s.takeForce (i.result (moldImage e image.bytes) Mold.blank) i (moldImage e image.bytes) ranges
      image.findings).success e.key 0 0 [] := by
  simp only [doMoldLoadValidated, h, hr, hp]

end

/-- Settles O16: the refusals of MOLD_LOAD one after another, and the end of the validation by the phase that fails. -/
theorem moldsAreLoadedAndValidated : Obligations.MoldsAreLoadedAndValidated := by
  refine ⟨?_, fun s => ⟨fun h => next_eq (doMoldLoadValidated_of_none h), ?_⟩⟩
  · intro s e image u
    refine ⟨fun h => ?_, fun h hl => ?_, fun h hl hb => ?_, fun h hb hr => ?_, fun h hb hr hu => ?_,
      fun h hb hr hm ho hf => ?_⟩
    · exact next_eq (doMoldLoad_of_bad_fields h image)
    · exact next_eq (doMoldLoad_of_loading h image hl)
    · exact next_eq (doMoldLoad_of_present h image hl hb)
    · exact next_eq (doMoldLoad_of_raw h image hb hr)
    · exact next_eq (doMoldLoad_of_unavailable h image hb hr hu)
    · exact next_eq (doMoldLoad_of_taken h image hb hr hm ho hf)
  · intro e image h bs back bad
    refine next_eq ?_
    cases hr : readImage false s.power.split e.cdw10.toNat 0 [] bs with
    | error x => exact doMoldLoadValidated_of_unread h hr
    | ok i =>
      cases hp : resultPhase s i bs Mold.blank (i.result bs Mold.blank) with
      | error x =>
        refine (doMoldLoadValidated_of_unfit h hr hp).trans ?_
        simp only [hp]
        rfl
      | ok ranges => simpa only [hp] using doMoldLoadValidated_of_passed h hr hp

/-! ### RECAST (R58) -/

section

variable {s : State} {e : Sqe} (image : List Byte)

theorem doRecast_of_absent (h : s.mold.mold = none) : doRecast e image s = s.recastRefused e.key scMoldAbsent :=
  if_pos (by rw [State.theMold, h]; rfl)

/-- With a Mold in force the fields are checked, then the state of the Mold block. -/
theorem doRecast_of_mold (h : s.mold.mold ≠ none) : doRecast e image s =
    if !moldFieldsOk e then s.recastRefused e.key scInvalidField
    else if s.mold.state != .molded then s.recastRefused e.key scRecastPending
    else s.modMold fun m => { m with
      state := .recastValidating
      recast := some { sqe := e, image := image, merged := none, digest := [], receivedUs := s.clockUs, boundaries := 0,
                       drained := false, engines := [], benches := [], discard := false, ranges := [] } } :=
  if_neg (by rwa [State.theMold, Option.isNone_iff_eq_none])

theorem doRecast_of_bad_fields (h : s.mold.mold ≠ none) (hf : moldFieldsOk e = false) :
    doRecast e image s = s.recastRefused e.key scInvalidField := by
  rw [doRecast_of_mold image h, hf]
  rfl

theorem doRecast_of_pending (h : s.mold.mold ≠ none) (hf : moldFieldsOk e = true) (hm : s.mold.state ≠ .molded) :
    doRecast e image s = s.recastRefused e.key scRecastPending := by
  rw [doRecast_of_mold image h, if_neg (by simp [hf]), if_pos (by simpa using hm)]

theorem doRecast_of_taken (h : s.mold.mold ≠ none) (hf : moldFieldsOk e = true) (hm : s.mold.state = .molded) :
    doRecast e image s = s.modMold fun m => { m with
      state := .recastValidating
      recast := some { sqe := e, image := image, merged := none, digest := [], receivedUs := s.clockUs, boundaries := 0,
                       drained := false, engines := [], benches := [], discard := false, ranges := [] } } := by
  rw [doRecast_of_mold image h, if_neg (by simp [hf]), if_neg (by simp [hm])]

end

/-! ### The end of a Recast's validation (R61, Table 2-11) -/

theorem doRecastValidated_of_not {s : State} (h : s.mold.state ≠ .recastValidating) : doRecastValidated s = s := by
  unfold doRecastValidated
  split
  · exact if_pos (bne_iff_ne.mpr h)
  · rfl

/-- A Recast that fails: the Mold in force stays, the error is kept, and its command completes unless its controller has gone. -/
def recastFailed (s : State) (r : RecastCtx) (x : MoldErr) : State :=
  let back := s.modMold fun m => { m with state := .molded, recast := none }
  if r.discard then back.noteMoldError true x else back.moldInvalid r.sqe.key true x

theorem recastFailed_mold (s : State) (r : RecastCtx) (x : MoldErr) : (recastFailed s r x).mold.state = .molded ∧
    (recastFailed s r x).mold.recast = none ∧ (recastFailed s r x).mold.mold = s.mold.mold := by
  unfold recastFailed
  extract_lets back
  split_ifs
  · exact ⟨rfl, rfl, rfl⟩
  · rw [State.moldInvalid, mold_of_frame (status_frame _ _ _ _ _ _)]
    exact ⟨rfl, rfl, rfl⟩

/-- The drain begins beside a Mold block that does not change again. -/
theorem drainBegun_mold (u : State) (force : Bool) (base m : Mold) (es : List EngineId) :
    ((es.foldl State.startDrain (if force then u.forceRecast base m else u)).evalC0 false).mold = u.mold := by
  rw [mold_of_frame (evalC0_frame _ _), mold_of_frame (Frame.foldl es (Frame.refl _) startDrain_frame)]
  split_ifs
  · exact mold_of_frame (forceRecast_frame u base m)
  · rfl

section

variable {s : State} {r : RecastCtx} {base : Mold} (hr : s.mold.recast = some r) (hb : s.mold.mold = some base)
  (hs : s.mold.state = .recastValidating)
include hr hb hs

theorem doRecastValidated_of_unread {x : MoldErr} (hi : readImage true s.power.split r.sqe.cdw10.toNat s.mold.gen.toNat
    base.world (moldImage r.sqe r.image) = .error x) : doRecastValidated s = recastFailed s r x := by
  simp only [doRecastValidated, hr, State.theMold, hb, hs, hi]
  rfl

variable {i : MoldImage} (hi : readImage true s.power.split r.sqe.cdw10.toNat s.mold.gen.toNat base.world
  (moldImage r.sqe r.image) = .ok i)
include hi

theorem doRecastValidated_of_unfit {x : MoldErr} (hp : resultPhase s i (moldImage r.sqe r.image) base
    (i.result (moldImage r.sqe r.image) base) = .error x) : doRecastValidated s = recastFailed s r x := by
  simp only [doRecastValidated, hr, State.theMold, hb, hs, hi, hp]
  rfl

theorem doRecastValidated_of_passed {ranges : List WorldEntry} (hp : resultPhase s i (moldImage r.sqe r.image) base
    (i.result (moldImage r.sqe r.image) base) = .ok ranges) :
    (doRecastValidated s).mold.state = .recastDraining ∧ (doRecastValidated s).mold.gen = s.mold.gen ∧
      (doRecastValidated s).mold.mold = some { base with
        ceBurnish := (i.result (moldImage r.sqe r.image) base).ceBurnish
        tsAct := (i.result (moldImage r.sqe r.image) base).tsAct
        faultScope := (i.result (moldImage r.sqe r.image) base).faultScope
        eventVector := (i.result (moldImage r.sqe r.image) base).eventVector } := by
  simp only [doRecastValidated, hr, State.theMold, hb, hs, hi, hp, bne_self_eq_false, Bool.false_eq_true, if_false,
    drainBegun_mold]
  exact ⟨rfl, rfl, rfl⟩

end

/-! ### The drain of a Recast (R61, R431) -/

theorem doRecastDrainComplete_of_not {s : State} (h : s.mold.state ≠ .recastDraining) : doRecastDrainComplete s = s := by
  unfold doRecastDrainComplete
  split
  · exact if_pos (by rw [bne_iff_ne.mpr h]; rfl)
  · rfl

/-- A drain with no part to save and no world to change only marks that it is over and waits for the boundary. -/
theorem doRecastDrainComplete_of_nothing {s : State} {r : RecastCtx} {base m : Mold} (hr : s.mold.recast = some r)
    (hb : s.mold.mold = some base) (hm : r.merged = some m) (hs : s.mold.state = .recastDraining)
    (hg : s.gridRuns = true) (he : r.engines = []) (hd : r.benches = [])
    (hw : ∀ w ∈ m.world, regionChanges base s.mold.fixedRanges w = false ∧ blockChanges base w = false) :
    doRecastDrainComplete s = s.modMold fun b => { b with
      state := .recastApplyWait, recast := some { r with drained := true }
      drainUs := min (s.clockUs - r.receivedUs) 65535 } := by
  have hnone : (m.world.filter fun w => regionChanges base s.mold.fixedRanges w || blockChanges base w) = [] := by
    rw [List.filter_eq_nil_iff]
    intro w hmem
    obtain ⟨hregion, hblock⟩ := hw w hmem
    simp [hregion, hblock]
  simp only [doRecastDrainComplete, hr, State.theMold, hb, hs, hm, he, hd, List.foldl_nil, hnone]
  exact if_pos hg

/-- Settles O18: the refusals of RECAST in their order, the validation by the phase that fails, and the drain that has nothing
to do. -/
theorem recastsWaitDrainAndApply : Obligations.RecastsWaitDrainAndApply := by
  intro s e image u
  refine ⟨fun h => ?_, fun h hf => ?_, fun h hf hm => ?_, fun h hf hm => ?_, fun h => ?_, fun h => ?_,
    fun r base hr hb hs => ⟨doRecastValidated s, rfl, ?_⟩, fun r base m hr hb hm hs hg he hd hw => ?_⟩
  · exact next_eq (doRecast_of_absent image h)
  · exact next_eq (doRecast_of_bad_fields image h hf)
  · exact next_eq (doRecast_of_pending image h hf hm)
  · exact next_eq (doRecast_of_taken image h hf hm)
  · exact next_eq (doRecastValidated_of_not h)
  · exact next_eq (doRecastDrainComplete_of_not h)
  · cases hi : readImage true s.power.split r.sqe.cdw10.toNat s.mold.gen.toNat base.world (moldImage r.sqe r.image) with
    | error x =>
      rw [doRecastValidated_of_unread hr hb hs hi]
      exact recastFailed_mold s r x
    | ok i =>
      simp only
      cases hp : resultPhase s i (moldImage r.sqe r.image) base (i.result (moldImage r.sqe r.image) base) with
      | error x =>
        rw [doRecastValidated_of_unfit hr hb hs hi hp]
        exact recastFailed_mold s r x
      | ok ranges => exact doRecastValidated_of_passed hr hb hs hi hp
  · exact next_eq (doRecastDrainComplete_of_nothing hr hb hm hs hg he hd hw)

end Sys2Proof.Proofs

/-! PROOFS. The Onant commands before they act (R34, R69, R385, R393, R421) and the arrival of a job at the scheduler (R78, R79,
R82). -/

namespace Sys2Proof.Proofs

-- One declaration after another, as in the laws: each waiting thread counts against the check's memory.
set_option Elab.async false

open Sys2Proof Sys2Proof.Machine Sys2Proof.Laws

/-! ### The common checks of R421 -/

section

variable {s : State} {e : Sqe} {masks : List Word32} {inp out : Nat} {fields : Mold → Shop → Bool}
  {act : Mold → Shop → State}

theorem onant_of_no_mold (h : s.mold.mold = none) :
    s.onant e masks inp out fields act = s.refuse e.key scMoldAbsent := by
  simp only [State.onant, State.theMold, h]

variable {m : Mold} (hm : s.mold.mold = some m)
include hm

theorem onant_of_waits (hw : s.ioWaits = true) : s.onant e masks inp out fields act = s := by
  simp only [State.onant, State.theMold, hm, hw, if_true]

variable (hw : s.ioWaits = false)
include hw

theorem onant_of_unbound (h : m.shopOfQueue e.key.ctrl e.key.sqid = none) :
    s.onant e masks inp out fields act = s.refuse e.key scShopUnbound := by
  simp only [State.onant, State.theMold, hm, hw, h, Bool.false_eq_true, if_false]

theorem onant_of_bad_fields {h : Shop} (hh : m.shopOfQueue e.key.ctrl e.key.sqid = some h)
    (hbad : onantOk e masks inp out = false) :
    s.onant e masks inp out fields act = s.refuse e.key scInvalidField := by
  simp only [State.onant, State.theMold, hm, hw, hh, hbad, Bool.false_and, Bool.false_eq_true, if_false]

end

section

variable {e : Sqe} {a b c d f g : Word32} {inp out : Nat}

theorem onantOk_iff : onantOk e [a, b, c, d, f, g] inp out = true ↔
    e.nsid = 0 ∧ e.fuse = 0 ∧ (e.cdw10 &&& ~~~a = 0 ∧ e.cdw11 &&& ~~~b = 0 ∧ e.cdw12 &&& ~~~c = 0 ∧
      e.cdw13 &&& ~~~d = 0 ∧ e.cdw14 &&& ~~~f = 0 ∧ e.cdw15 &&& ~~~g = 0) ∧ transferOk e inp out = true := by
  simp [onantOk, and_assoc]

/-- A Dword without a field must be 0. -/
theorem eq_zero_of_and_not_zero {v : Word32} (h : v &&& ~~~(0 : Word32) = 0) : v = 0 := by
  rwa [show ~~~(0 : Word32) = BitVec.allOnes 32 from rfl, BitVec.and_allOnes] at h

/-- A Dword whose fields end at bit 27 has no bit above it. -/
theorem bits_31_28_of_and_not {v : Word32} (h : v &&& ~~~(0x0FFFFFFF : Word32) = 0) : bits v.toNat 31 28 = 0 := by
  have hn : v.toNat &&& 0xF0000000 = 0 := congrArg BitVec.toNat h
  have hs := congrArg (· >>> 28) hn
  simp only [Nat.shiftRight_and_distrib] at hs
  rw [show 0xF0000000 >>> 28 = 2 ^ 4 - 1 from rfl, Nat.and_two_pow_sub_one_eq_mod, Nat.shiftRight_eq_div_pow] at hs
  exact hs

/-- No Onant command takes a namespace, a fused pair, a bit of CDW15 or the reserved pointer kind. -/
theorem onantOk_of_common_field (h : e.nsid ≠ 0 ∨ e.fuse ≠ 0 ∨ e.cdw15 ≠ 0 ∨ e.psdt = 3) :
    onantOk e [a, b, c, d, f, 0] inp out = false := by
  rw [Bool.eq_false_iff, ne_eq, onantOk_iff]
  rintro ⟨hnsid, hfuse, ⟨-, -, -, -, -, h15⟩, ht⟩
  obtain h | h | h | h := h
  · exact h hnsid
  · exact h hfuse
  · exact h (eq_zero_of_and_not_zero h15)
  · simp [transferOk, h] at ht

theorem onantOk_of_cdw12 (h : e.cdw12 ≠ 0) : onantOk e [a, b, 0, d, f, g] inp out = false := by
  rw [Bool.eq_false_iff, ne_eq, onantOk_iff]
  rintro ⟨-, -, ⟨-, -, h12, -⟩, -⟩
  exact h (eq_zero_of_and_not_zero h12)

theorem onantOk_of_cdw10_high (h : bits e.cdw10.toNat 31 28 ≠ 0) :
    onantOk e [0x0FFFFFFF, b, c, d, f, g] inp out = false := by
  rw [Bool.eq_false_iff, ne_eq, onantOk_iff]
  rintro ⟨-, -, ⟨h10, -⟩, -⟩
  exact h (bits_31_28_of_and_not h10)

end

/-- Each of the nine commands passes the common checks, and takes no bit of CDW15. -/
theorem onant_commands {s r : State} {e : Sqe} (bs : List Byte) (us : Nat) (lost poison : Option Nat)
    (h : ∀ a b c d f inp out fields act, s.onant e [a, b, c, d, f, 0] inp out fields act = r) :
    exec (.jobSubmit e bs) s = .next r ∧ exec (.jobStatus e) s = .next r ∧ exec (.query e bs) s = .next r ∧
      exec (.objPut e bs) s = .next r ∧ exec (.objGet e ⟨lost, us⟩ poison) s = .next r ∧ exec (.objStat e) s = .next r ∧
      exec (.objDelete e) s = .next r ∧ exec (.ingotLoad e ⟨bs, us⟩) s = .next r ∧ exec (.ingotDrop e) s = .next r :=
  ⟨next_eq (h ..), next_eq (h ..), next_eq (h ..), next_eq (h ..), next_eq (h ..), next_eq (h ..), next_eq (h ..),
    next_eq (h ..), next_eq (h ..)⟩

/-! ### The arrival at the scheduler (R78, R79, R82) -/

theorem doSchedulerArrival_of_nothing {s : State} {k : Key} (h : s.mold.mold = none ∨ s.job k = none) :
    doSchedulerArrival k s = s := by
  unfold doSchedulerArrival
  split
  · next hm hj =>
    obtain h | h := h
    · exact absurd (hm.symm.trans h) (Option.some_ne_none _)
    · exact absurd (hj.symm.trans h) (Option.some_ne_none _)
  · rfl

/-- A job of the key has arrived at the scheduler, at the clock. -/
def arrived (s : State) (k : Key) : State := s.modJob k fun j => { j with arrivedUs := some s.clockUs }

theorem overEnvelope_iff {j : Job} {v : Envelope} :
    j.overEnvelope v = true ↔ v.maxLists < j.lists ∨ v.maxK < j.k ∨ v.maxTokens < j.tokens := by
  simp [Job.overEnvelope, or_assoc]

section

variable {s : State} {k : Key} {m : Mold} {j : Job} (hm : s.mold.mold = some m) (hj : s.job k = some j)
include hm hj

theorem doSchedulerArrival_of_job : doSchedulerArrival k s =
    if j.state != .waiting || j.arrivedUs.isSome then s
    else if j.cls == 0 && j.overEnvelope m.env then
      (({ s with sched := { s.sched with refused := satAdd 32 s.sched.refused 1 } } : State).refuseEnvelope k true).dropJob k
    else if j.cls == 0 then (arrived s k).arrivalPreempt m j else arrived s k := by
  simp only [doSchedulerArrival, State.theMold, hm, hj]
  rfl

theorem doSchedulerArrival_of_arrived (h : j.state ≠ .waiting ∨ j.arrivedUs ≠ none) : doSchedulerArrival k s = s := by
  rw [doSchedulerArrival_of_job hm hj]
  exact if_pos (by simpa [Option.isSome_iff_ne_none] using h)

variable (hs : j.state = .waiting) (ha : j.arrivedUs = none)
include hs ha

theorem doSchedulerArrival_of_waiting : doSchedulerArrival k s =
    if j.cls == 0 && j.overEnvelope m.env then
      (({ s with sched := { s.sched with refused := satAdd 32 s.sched.refused 1 } } : State).refuseEnvelope k true).dropJob k
    else if j.cls == 0 then (arrived s k).arrivalPreempt m j else arrived s k := by
  rw [doSchedulerArrival_of_job hm hj, hs, ha]
  rfl

theorem doSchedulerArrival_of_over (hc : j.cls = 0) (ho : m.env.maxLists < j.lists ∨ m.env.maxK < j.k ∨ m.env.maxTokens < j.tokens) :
    doSchedulerArrival k s =
      (({ s with sched := { s.sched with refused := satAdd 32 s.sched.refused 1 } } : State).refuseEnvelope k true).dropJob k := by
  rw [doSchedulerArrival_of_waiting hm hj hs ha, hc, overEnvelope_iff.mpr ho]
  rfl

theorem doSchedulerArrival_of_lower (hc : j.cls ≠ 0) : doSchedulerArrival k s = arrived s k := by
  rw [doSchedulerArrival_of_waiting hm hj hs ha, beq_false_of_ne hc]
  rfl

theorem doSchedulerArrival_of_within (hc : j.cls = 0) (hl : j.lists ≤ m.env.maxLists) (hk : j.k ≤ m.env.maxK)
    (ht : j.tokens ≤ m.env.maxTokens) : doSchedulerArrival k s = (arrived s k).arrivalPreempt m j := by
  have ho : j.overEnvelope m.env = false := by
    rw [Bool.eq_false_iff, ne_eq, overEnvelope_iff]
    omega
  rw [doSchedulerArrival_of_waiting hm hj hs ha, hc, ho]
  rfl

end

theorem arrivalPreempt_of_none {s : State} {m : Mold} {j : Job}
    (h : s.sched.preemptOnArrival = false ∨ s.pickC0 m j = none) : s.arrivalPreempt m j = s := by
  unfold State.arrivalPreempt
  obtain h | h := h
  · exact if_pos (by rw [h]; rfl)
  · simp only [h, ite_self]

theorem arrivalPreempt_of_some {s : State} {m : Mold} {j : Job} {e : EngineId} (hp : s.sched.preemptOnArrival = true)
    (he : s.pickC0 m j = some e) : s.arrivalPreempt m j =
      let held : State := { s with sched := { s.sched with arrivalHolds := s.sched.arrivalHolds ++ [(j.key, e)] } }
      if held.freeNs m e = 0 then held else held.preempt e (some j.key) := by
  simp only [State.arrivalPreempt, hp, he, Bool.not_true, Bool.false_eq_true, if_false, beq_iff_eq]

/-- Settles O29: the common checks hold for all nine commands at once; the arrival goes by the class of the job, its
envelope, and the Engine that R80 picks. -/
theorem refusalsAndArrivals : Obligations.RefusalsAndArrivals := by
  refine ⟨?_, fun s k => ⟨fun h => next_eq (doSchedulerArrival_of_nothing h), fun m j hm hj =>
    ⟨fun h => next_eq (doSchedulerArrival_of_arrived hm hj h), ?_⟩⟩⟩
  · intro s e bs us lost poison all
    refine ⟨fun h => onant_commands bs us lost poison fun _ _ _ _ _ _ _ _ _ => onant_of_no_mold h, fun m hm =>
      ⟨fun hw => onant_commands bs us lost poison fun _ _ _ _ _ _ _ _ _ => onant_of_waits hm hw, fun hw =>
      ⟨fun hu => onant_commands bs us lost poison fun _ _ _ _ _ _ _ _ _ => onant_of_unbound hm hw hu, fun h hh =>
      ⟨fun hbad => onant_commands bs us lost poison fun _ _ _ _ _ _ _ _ _ =>
        onant_of_bad_fields hm hw hh (onantOk_of_common_field hbad), fun h10 => ?_, fun h12 => ⟨?_, ?_⟩⟩⟩⟩⟩
    · exact next_eq (onant_of_bad_fields hm hw hh (onantOk_of_cdw10_high h10))
    · exact next_eq (onant_of_bad_fields hm hw hh (onantOk_of_cdw12 h12))
    · exact next_eq (onant_of_bad_fields hm hw hh (onantOk_of_cdw12 h12))
  · intro hs ha u
    refine ⟨fun hc ho => next_eq (doSchedulerArrival_of_over hm hj hs ha hc ho),
      fun hc => next_eq (doSchedulerArrival_of_lower hm hj hs ha hc), fun hc hl hk ht => ?_⟩
    have hwithin := doSchedulerArrival_of_within hm hj hs ha hc hl hk ht
    exact ⟨fun h => next_eq (hwithin.trans (arrivalPreempt_of_none h)),
      fun e hp he => next_eq (hwithin.trans (arrivalPreempt_of_some hp he))⟩

end Sys2Proof.Proofs

/-! PROOFS. PERST_A#, the internal boot and the restart of the Management Controller (R29, R179, R244, R313, R345, R395, R412,
R413). -/

namespace Sys2Proof.Proofs

-- One declaration after another, as in the laws: each waiting thread counts against the check's memory.
set_option Elab.async false

open Sys2Proof Sys2Proof.Machine Sys2Proof.Laws

section

variable {w : List Laws.Part} {s t : State}

theorem power_of_frame (h : Frame w s t) (hw : Laws.Part.power ∉ w := by decide) : t.power = s.power := h .power hw

theorem pewter_of_frame (h : Frame w s t) (hw : Laws.Part.pewter ∉ w := by decide) : t.pewter = s.pewter := h .pewter hw

theorem fw_of_frame (h : Frame w s t) (hw : Laws.Part.fw ∉ w := by decide) : t.fw = s.fw := h .fw hw

theorem bmc_of_frame (h : Frame w s t) (hw : Laws.Part.bmc ∉ w := by decide) : t.bmc = s.bmc := h .bmc hw

end

/-! ### The deassertion of PERST_A# (R395, R412) -/

theorem doPerstADeassert_of_standbyBoot {s : State} (h : s.power.phase = .standbyBoot) (a : List AssayPart)
    (u : List (BenchId × Fin 8)) : doPerstADeassert a u s =
      s.modPower fun p => { p with perstA := false, heldDeassert := some (a, u) } :=
  if_pos (beq_iff_eq.mpr h)

theorem doPerstADeassert_of_standby {s : State} (h : s.power.phase = .standby) (a : List AssayPart)
    (u : List (BenchId × Fin 8)) : doPerstADeassert a u s = s.boot a u := by
  rw [doPerstADeassert, h]
  rfl

theorem doPerstADeassert_of_other {s : State} (hb : s.power.phase ≠ .standbyBoot) (hs : s.power.phase ≠ .standby)
    (a : List AssayPart) (u : List (BenchId × Fin 8)) : doPerstADeassert a u s = s := by
  rw [doPerstADeassert, beq_false_of_ne hb, beq_false_of_ne hs]
  rfl

/-- The boot begins: the phase, the pin, and the BMC port silent. -/
def bootBegun (s : State) : State :=
  { s with
    power := { s.power with phase := .booting, perstA := false, heldDeassert := none }
    bmc := { s.bmc with answers := false } }

/-- Its stages touch neither the power nor the BMC port again. -/
theorem boot_frame_of_begun (s : State) (a : List AssayPart) (u : List (BenchId × Fin 8)) :
    Frame [.ctrls, .engines, .mem, .cache, .search, .benches, .flash, .links, .pewter, .errors, .sec, .fw, .out, .free]
      (bootBegun s) (s.boot a u) := by
  unfold State.boot
  extract_lets _ _ begun loaded told banked assayed trained
  have hl : Frame [.pewter] (bootBegun s) loaded := loadOptions_frame begun
  have ht : Frame [.ctrls, .errors, .out] loaded told := by
    unfold told
    split_ifs
    · exact (reportGeneral_frame loaded _ _ _ _ _ _ _ _).step (doRecordWrite_frame 0 _)
    · exact Frame.refl loaded
  have hb : Frame [.ctrls, .mem, .search, .benches, .pewter, .errors, .sec, .fw, .out, .free] told banked :=
    ((Frame.refl told).step (bootSterling_frame told)).step (bootBank_frame _)
  have ha : Frame [.ctrls, .engines, .mem, .benches, .errors, .out] banked assayed :=
    withSmart_frame _ _ (Frame.foldl a (Frame.refl banked) assayFail_frame) (by decide)
  exact ((((((Frame.refl _).step hl).step ht).step hb).step ha).step (trainChannels_frame assayed u)).step
    (Frame.links trained _)

theorem boot_links (s : State) (a : List AssayPart) (u : List (BenchId × Fin 8)) (d : DieId) :
    (s.boot a u).links[d].state = .training := by
  unfold State.boot
  exact congrArg Link.state (Vector.getElem_map ..)

/-! ### The training of the Channel links (R244, R245) -/

section

variable {s : State} {d : DieId} (tr : BitVec 8)

theorem doLinkTrainingComplete_of_not (h : s.links[d].state ≠ .training ∨ s.power.phase ≠ .booting) :
    doLinkTrainingComplete ⟨d, tr⟩ s = s :=
  if_pos (by rwa [Bool.or_eq_true, bne_iff_ne, bne_iff_ne])

variable (ht : s.links[d].state = .training) (hp : s.power.phase = .booting)
include ht hp

theorem doLinkTrainingComplete_of_training : doLinkTrainingComplete ⟨d, tr⟩ s =
    if s.links[d].lanes ||| tr != allLanes then s.modLink d fun l => { l with lanes := s.links[d].lanes ||| tr }
    else (({ s with free := s.free + 16 } : State).setLink d fun l =>
      { l with state := .up, keyGen := 0, lanes := s.links[d].lanes ||| tr, keys := s.freshKeys.1
               frames := [0, 0, 0, 0] }).deliverKeys d :=
  if_neg (by rw [ht, hp]; decide)

theorem doLinkTrainingComplete_of_some_lanes (h : s.links[d].lanes ||| tr ≠ 0xFF) : doLinkTrainingComplete ⟨d, tr⟩ s =
    s.modLink d fun l => { l with lanes := s.links[d].lanes ||| tr } :=
  (doLinkTrainingComplete_of_training tr ht hp).trans (if_pos (bne_iff_ne.mpr h))

theorem doLinkTrainingComplete_of_all_lanes (h : s.links[d].lanes ||| tr = 0xFF) : doLinkTrainingComplete ⟨d, tr⟩ s =
    (({ s with free := s.free + 16 } : State).setLink d fun l =>
      { l with state := .up, keyGen := 0, lanes := 0xFF, keys := s.freshKeys.1, frames := [0, 0, 0, 0] }).deliverKeys d := by
  rw [doLinkTrainingComplete_of_training tr ht hp, h]
  rfl

end

/-! ### The end of the internal boot (R395) -/

theorem doInternalBootEnd_of_not {s : State} (h : s.power.phase ≠ .booting ∨ s.fw.mcRuns = false ∨
    ∃ l ∈ s.links.toList, l.state ≠ .up) (ms : Nat) : doInternalBootEnd ms s = s :=
  if_pos (by
    rw [Bool.or_eq_true, Bool.or_eq_true, bne_iff_ne, Bool.not_eq_true', List.any_eq_true, or_assoc]
    simpa only [bne_iff_ne] using h)

theorem doInternalBootEnd_of_ready {s : State} (hp : s.power.phase = .booting) (hm : s.fw.mcRuns = true)
    (hl : ∀ l ∈ s.links.toList, l.state = .up) (ms : Nat) : doInternalBootEnd ms s =
      let t : State := ({ s with
        power := { s.power with phase := .running }
        dev := { s.dev with bootMs := min ms 65535 }, bmc := { s.bmc with answers := true } } : State).modCtrl 0
        fun f => { f with linkUp := true }
      if s.power.split && !s.power.perstB then t.modCtrl 1 fun f => { f with linkUp := true } else t := by
  have hup : (s.links.toList.any fun l => l.state != .up) = false := by
    rw [List.any_eq_false]
    intro l hmem
    rw [hl l hmem]
    decide
  exact if_neg (by rw [hp, hm, hup]; decide)

/-! ### The assertion of PERST_A# (R413) -/

theorem doModuleReset_of_other {s : State} (hb : s.power.phase ≠ .booting) (hr : s.power.phase ≠ .running) :
    doModuleReset s = s.modPower fun p => { p with perstA := true, heldDeassert := none } :=
  if_pos (by
    rw [Bool.and_eq_true, bne_iff_ne, bne_iff_ne]
    exact ⟨hb, hr⟩)

/-- What stands at the reset once the programs have ended, CLOSE is out and the write-back is done. -/
def resetReady (s : State) : State :=
  (s.modPower fun p => { p with perstA := true, heldDeassert := none }).endPrograms.sendClose.writeBackAll

theorem resetReady_frame (s : State) : Frame [.power, .mem, .cache, .search, .flash, .sec, .out, .free] s (resetReady s) :=
  ((((Frame.refl s).step (modPower_frame s _)).step (endPrograms_frame _)).step (sendClose_frame _)).step
    (writeBackAll_frame _)

/-- Every part but the always-on domain at its Reset values, the media as they outlast a reset, and standby. -/
def standbyParts (s : State) : State :=
  { s with
    mem := { s.mem with lastFlush := 3 }
    ctrls := Vector.replicate 2 Controller.reset
    benches := Vector.replicate 512 Bench.reset
    flash := s.flash.map Flash.afterReset
    links := Vector.replicate 32 Link.reset
    pewter := { s.pewter.afterReset.loadOptions with brownout := s.pewter.brownout, secQueue := s.pewter.secQueue }
    sec := { s.sec with waiting := [], batchOpen := false, rebuilt := false, unlocked := false, rejected := 0 }
    power := { s.power with phase := .standby } }

/-- The Management Controller runs from the bank selected, and the BMC port answers where it runs. -/
def bankStarted (s : State) : State :=
  { s.bootBank with bmc := { s.bootBank.bmc with answers := s.bootBank.fw.mcRuns } }

theorem bankStarted_frame (s : State) : Frame [.pewter, .fw, .bmc] s (bankStarted s) :=
  ((Frame.refl s).step (bootBank_frame s)).step (Frame.bmc s.bootBank _)

/-- The addresses of the BMC port outlast the selection. -/
theorem bankStarted_addresses (s : State) :
    (bankStarted s).bmc.dynAddr = s.bmc.dynAddr ∧ (bankStarted s).bmc.eid = s.bmc.eid := by
  have hb : s.bootBank.bmc = s.bmc := bmc_of_frame (bootBank_frame s)
  simp only [bankStarted, hb, and_self]

theorem doModuleReset_of_on {s : State} (h : s.power.phase = .booting ∨ s.power.phase = .running) :
    doModuleReset s = bankStarted (standbyParts (resetReady s).blank) := by
  unfold doModuleReset bankStarted standbyParts resetReady
  refine if_neg ?_
  rw [Bool.and_eq_true, bne_iff_ne, bne_iff_ne]
  exact fun ⟨hb, hr⟩ => h.elim hb hr

theorem blank_perstA (s : State) : s.blank.power.perstA = s.power.perstA := rfl

/-- No granule is dirty and no key is held once the module is Blank. -/
theorem blank_parts (s : State) : s.blank.mold = { MoldBlock.reset with flushChecked := s.mold.flushChecked } ∧
    s.blank.sched = Sched.reset ∧ s.blank.mem.dirty = [] ∧ s.blank.cache = Vector.replicate 4 ModelCache.reset ∧
    s.blank.sec.keys = [] ∧ s.blank.sec.spdm = [] := ⟨rfl, rfl, rfl, rfl, rfl, rfl⟩

theorem resetReady_perstA (s : State) : (resetReady s).power.perstA = true := by
  unfold resetReady
  rw [power_of_frame (writeBackAll_frame _), power_of_frame (sendClose_frame _), power_of_frame (endPrograms_frame _)]
  rfl

/-- What standby finds: no Mold, no job, no queue and no link, nothing dirty, no key, and the addresses of the BMC port. -/
theorem doModuleReset_parts {s : State} (h : s.power.phase = .booting ∨ s.power.phase = .running) :
    (doModuleReset s).power.phase = .standby ∧ (doModuleReset s).power.perstA = true ∧
      (doModuleReset s).mold.state = .blank ∧ (doModuleReset s).mold.mold = none ∧
      (doModuleReset s).sched = Sched.reset ∧ (doModuleReset s).mem.lastFlush = 3 ∧ (doModuleReset s).mem.dirty = [] ∧
      (doModuleReset s).ctrls = Vector.replicate 2 Controller.reset ∧
      (doModuleReset s).links = Vector.replicate 32 Link.reset ∧
      (doModuleReset s).cache = Vector.replicate 4 ModelCache.reset ∧ (doModuleReset s).sec.keys = [] ∧
      (doModuleReset s).sec.spdm = [] ∧ (doModuleReset s).bmc.dynAddr = s.bmc.dynAddr ∧
      (doModuleReset s).bmc.eid = s.bmc.eid := by
  have hbmc : (resetReady s).blank.bmc = s.bmc :=
    (bmc_of_frame (blank_frame _)).trans (bmc_of_frame (resetReady_frame s))
  have hperst : (resetReady s).blank.power.perstA = true := (blank_perstA _).trans (resetReady_perstA s)
  obtain ⟨hmold, hsched, hdirty, hcache, hkeys, hspdm⟩ := blank_parts (resetReady s)
  rw [doModuleReset_of_on h]
  generalize (resetReady s).blank = u at *
  have hf := bankStarted_frame (standbyParts u)
  have hmem : (bankStarted (standbyParts u)).mem = (standbyParts u).mem := hf .mem (by decide)
  have hctrls : (bankStarted (standbyParts u)).ctrls = (standbyParts u).ctrls := hf .ctrls (by decide)
  have hlinks : (bankStarted (standbyParts u)).links = (standbyParts u).links := hf .links (by decide)
  have hcaches : (bankStarted (standbyParts u)).cache = (standbyParts u).cache := hf .cache (by decide)
  have hsec : (bankStarted (standbyParts u)).sec = (standbyParts u).sec := hf .sec (by decide)
  obtain ⟨haddr, heid⟩ := bankStarted_addresses (standbyParts u)
  rw [power_of_frame hf, mold_of_frame hf, sched_of_frame hf, hmem, hctrls, hlinks, hcaches, hsec, haddr, heid]
  simp only [standbyParts, hmold, hsched, hdirty, hcache, hkeys, hspdm, hperst, hbmc, MoldBlock.reset, and_self]

/-! ### The restart of the Management Controller (R313, Table 13-3) -/

theorem doMcRestart_of_held {s : State} (h : s.fw.mcRuns = false) : doMcRestart s = s := if_pos (by rw [h]; rfl)

section

variable {s : State} (h : s.fw.mcRuns = true)
include h

theorem doMcRestart_of_verified (hv : s.bankVerifies (!s.pewter.activeBank) = true) :
    (doMcRestart s).pewter.activeBank = (!s.pewter.activeBank) ∧ (doMcRestart s).fw.mcRuns = true ∧
      (doMcRestart s).bmc.answers = s.bmc.answers := by
  simp only [doMcRestart, h, hv, Bool.not_true, Bool.false_eq_true, if_false, if_true]
  refine ⟨trivial, ?_, ?_⟩
  · rw [fw_of_frame (memoryReport_frame _ _ _ _ _ _ _ _ _ _ _ _), h]
  · rw [bmc_of_frame (memoryReport_frame _ _ _ _ _ _ _ _ _ _ _ _)]

theorem doMcRestart_of_unverified (hv : s.bankVerifies (!s.pewter.activeBank) = false) :
    (doMcRestart s).pewter.activeBank = s.pewter.activeBank ∧ (doMcRestart s).fw.mcRuns = false ∧
      (doMcRestart s).fw.mcHeld = true ∧ (doMcRestart s).bmc.answers = false := by
  simp only [doMcRestart, h, hv, Bool.not_true, Bool.false_eq_true, if_false]
  rw [pewter_of_frame (memoryReport_frame _ _ _ _ _ _ _ _ _ _ _ _)]
  exact ⟨rfl, trivial, trivial, trivial⟩

end

/-- Settles O26: one case for each clause, by the phase of the power, the state of the links and the bank that verifies. -/
theorem internalBootAndModuleReset : Obligations.InternalBootAndModuleReset := by
  intro s a u d tr ms
  refine ⟨fun h => ?_, fun h => ⟨_, next_eq (doPerstADeassert_of_standby h a u), ?_⟩, fun hb hs => ?_,
    fun ht hp => ⟨fun h => ?_, fun h => ?_⟩, fun h => ?_, fun hp hm hl => ?_, fun h => ?_,
    fun h => ⟨doModuleReset s, rfl, ?_⟩, fun hb hr => ?_, fun h => ?_, fun h => ⟨doMcRestart s, rfl, ?_⟩⟩
  -- PERST_A# deasserted
  · exact next_eq (doPerstADeassert_of_standbyBoot h a u)
  · have hf := boot_frame_of_begun s a u
    exact ⟨power_of_frame hf, bmc_of_frame hf, boot_links s a u⟩
  · exact next_eq (doPerstADeassert_of_other hb hs a u)
  -- the links, and the end of the boot
  · exact next_eq (doLinkTrainingComplete_of_some_lanes tr ht hp h)
  · exact next_eq (doLinkTrainingComplete_of_all_lanes tr ht hp h)
  · exact next_eq (doLinkTrainingComplete_of_not tr h)
  · exact next_eq (doInternalBootEnd_of_ready hp hm hl ms)
  · exact next_eq (doInternalBootEnd_of_not h ms)
  -- PERST_A# asserted
  · exact doModuleReset_parts h
  · exact next_eq (doModuleReset_of_other hb hr)
  -- the Management Controller
  · exact next_eq (doMcRestart_of_held h)
  · split_ifs with hv
    · exact doMcRestart_of_verified h hv
    · exact doMcRestart_of_unverified h (Bool.not_eq_true _ ▸ hv)

end Sys2Proof.Proofs

/-! PROOFS. Branches, non-preemptible commands, fences, semaphore releases and illegal opcodes of an Engine (R87, R88, R114,
R116). -/

namespace Sys2Proof.Proofs

-- One declaration after another, as in the laws: each waiting thread counts against the check's memory.
set_option Elab.async false

open Sys2Proof Sys2Proof.Machine Sys2Proof.Laws

/-! ### An Engine that executes no job -/

section

variable {s : State} {e : EngineId} (h : s.executes e = none)
include h

theorem doBr_of_idle (cond : BrCond) (off : BitVec 16) : doBr e cond off s = s := by simp only [doBr, h]

theorem doNpBegin_of_idle (us : Nat) : doNpBegin e us s = s := by simp only [doNpBegin, h]

theorem doNpEnd_of_idle : doNpEnd e s = s := by simp only [doNpEnd, h]

theorem doFence_of_idle : doFence e s = s := by simp only [doFence, h]

theorem doSemAcq_of_idle (n : Nat) : doSemAcq e n s = s := by simp only [doSemAcq, h]

theorem doSemAcquired_of_idle (n : Nat) : doSemAcquired e n s = s := by simp only [doSemAcquired, h]

theorem doSemRel_of_idle (n : Nat) : doSemRel e n s = s := by simp only [doSemRel, h]

theorem doIllegal_of_idle (op : Byte) : doIllegal e op s = s := by simp only [doIllegal, h]

end

/-! ### Branches (Table 4-9) -/

/-- The word that BR names: the branch's own word and the offset, modulo the words of the operand store. -/
def branchTarget (pc : Nat) (off : BitVec 16) : Nat := (((pc : Int) + off.toInt) % 1572864).toNat

/-- An Engine goes on at a word. -/
def jumpTo (s : State) (e : EngineId) (pc : Nat) : State := s.modEngine e fun x => { x with ctx := { x.ctx with pc := pc } }

section

variable {s : State} {e : EngineId} {k : Key} (h : s.executes e = some k) (off : BitVec 16)
include h

theorem doBr_always : doBr e .always off s = jumpTo s e (branchTarget s.engines[e].ctx.pc off) := by
  simp only [doBr, h]
  rfl

theorem doBr_semBroken : doBr e .semBroken off s = jumpTo s e (if s.engines[e].ctx.semBroken then
    branchTarget s.engines[e].ctx.pc off else s.engines[e].ctx.pc + 1) := by
  simp only [doBr, h]
  rfl

theorem doBr_overflow : doBr e .overflow off s = jumpTo s e (if s.engines[e].ctx.causes = 0 then s.engines[e].ctx.pc + 1
    else branchTarget s.engines[e].ctx.pc off) := by
  simp only [doBr, h, bne_iff_ne, ite_not]
  rfl

/-- A branch on the loop counter takes one free value, for the counter and for whether it is taken (log 24). -/
theorem doBr_loop : ∃ y : Engine, doBr e .loop off s = { s with engines := s.engines.set e y, free := s.free + 1 } ∧
    (y.ctx.pc = branchTarget s.engines[e].ctx.pc off ∨ y.ctx.pc = s.engines[e].ctx.pc + 1) := by
  simp only [doBr, h]
  exact ⟨_, rfl, ite_eq_or_eq ..⟩

end

/-! ### Non-preemptible commands, fences, semaphores and opcodes (R87, R88, R114, R116) -/

theorem quiet_iff {x : Engine} : x.quiet = true ↔ x.drain = [] ∧ x.vec = [] ∧ x.xfers = [] ∧ x.tsBuffer = [] := by
  simp only [Engine.quiet, Bool.and_eq_true, List.isEmpty_iff, and_assoc]

section

variable {s : State} {e : EngineId} {k : Key} (h : s.executes e = some k)
include h

theorem doNpEnd_of_open (hnp : s.engines[e].ctx.npOpen ≠ none) : doNpEnd e s = (s.modEngine e fun x =>
    { x with ctx := { x.ctx with npOpen := none, npStart := 0, npWait := 0, pc := x.ctx.pc + 1 } }).retryPreempt e := by
  simp only [doNpEnd, h, Option.isNone_iff_eq_none, hnp, if_false]

theorem doNpEnd_of_closed (hnp : s.engines[e].ctx.npOpen = none) : doNpEnd e s = s.engineFault e k erNpRange 0x39 := by
  simp only [doNpEnd, h, hnp, Option.isNone_none, if_true]

theorem doFence_of_quiet (hq : s.engines[e].quiet = true) : doFence e s = s.nextWord e := by
  simp only [doFence, h, hq, if_true]

theorem doFence_of_busy (hq : s.engines[e].quiet = false) : doFence e s = s := by
  simp only [doFence, h, hq, Bool.false_eq_true, if_false]

theorem doIllegal_of_unknown {op : Byte} (hop : op.toNat ∉ engineOpcodes) :
    doIllegal e op s = s.engineFault e k erIllegalOpcode op.toNat := by
  simp only [doIllegal, h, List.contains_iff_mem, hop, if_false]

theorem doIllegal_of_known {op : Byte} (hop : op.toNat ∈ engineOpcodes) : doIllegal e op s = s := by
  simp only [doIllegal, h, List.contains_iff_mem, hop, if_true]

variable {j : Job} (hj : s.job k = some j)
include hj

theorem doNpBegin_of_fits {us : Nat} (hus : us ≤ j.nonpreUs) (hnp : s.engines[e].ctx.npOpen = none) :
    doNpBegin e us s = s.modEngine e fun x =>
      { x with ctx := { x.ctx with npOpen := some us, npStart := s.clockUs, npWait := 0, pc := x.ctx.pc + 1 } } := by
  simp only [doNpBegin, h, hj, hnp, Option.isSome_none, Bool.or_false, decide_eq_true_eq, gt_iff_lt, Nat.not_lt.mpr hus,
    if_false]

theorem doNpBegin_of_excess {us : Nat} (hnp : j.nonpreUs < us ∨ s.engines[e].ctx.npOpen ≠ none) :
    doNpBegin e us s = s.engineFault e k erNpRange 0x38 := by
  simp only [doNpBegin, h, hj]
  exact if_pos (by simpa [Option.isSome_iff_ne_none] using hnp)

theorem doSemRel_of_held {n : Nat} (hn : n < 64) (hk : (s.sem j.shop n).holder = some k) : doSemRel e n s =
    ((s.setSem { s.sem j.shop n with holder := none }).nextWord e).retryPreempt e := by
  simp only [doSemRel, h, hj]
  exact if_neg (by simp [hk]; omega)

theorem doSemRel_of_not_held {n : Nat} (hn : 64 ≤ n ∨ (s.sem j.shop n).holder ≠ some k) :
    doSemRel e n s = s.engineFault e k erSemRange 0x31 := by
  simp only [doSemRel, h, hj]
  exact if_pos (by simpa [Nat.lt_iff_add_one_le] using hn)

end

/-- Settles O43: one case for each clause, by what the Engine executes, the branch condition, the open command, what is in
flight and the holder of the semaphore. -/
theorem branchesFencesAndCommands : Obligations.BranchesFencesAndCommands := by
  intro s e off n us op cond
  refine ⟨fun h => ⟨next_eq (doBr_of_idle h cond off), next_eq (doNpBegin_of_idle h us), next_eq (doNpEnd_of_idle h),
    next_eq (doFence_of_idle h), next_eq (doSemAcq_of_idle h n), next_eq (doSemAcquired_of_idle h n),
    next_eq (doSemRel_of_idle h n), next_eq (doIllegal_of_idle h op)⟩, fun k j h hj => ?_⟩
  refine ⟨?_, ?_, ?_, ?_, fun hus hnp => next_eq (doNpBegin_of_fits h hj hus hnp),
    fun hnp => next_eq (doNpBegin_of_excess h hj hnp), fun hnp => next_eq (doNpEnd_of_open h hnp),
    fun hnp => next_eq (doNpEnd_of_closed h hnp), fun hd hv hx ht => ?_, fun hbusy => ?_,
    fun hn hk => next_eq (doSemRel_of_held h hj hn hk), fun hn => next_eq (doSemRel_of_not_held h hj hn),
    fun hop => next_eq (doIllegal_of_unknown h hop), fun hop => next_eq (doIllegal_of_known h hop)⟩
  -- the branch conditions
  · rintro rfl
    exact next_eq (doBr_always h off)
  · rintro rfl
    exact next_eq (doBr_semBroken h off)
  · rintro rfl
    exact next_eq (doBr_overflow h off)
  · rintro rfl
    obtain ⟨y, hbr, hpc⟩ := doBr_loop h off
    have hy : (s.engines.set e y)[e] = y := Vector.getElem_set_self _
    refine ⟨_, next_eq hbr, ?_, ?_⟩
    · rw [hy]
    · rw [hy]
      exact hpc
  -- FENCE
  · exact next_eq (doFence_of_quiet h (quiet_iff.mpr ⟨hd, hv, hx, ht⟩))
  · refine next_eq (doFence_of_busy h (Bool.eq_false_iff.mpr fun hq => ?_))
    obtain ⟨hd, hv, hx, ht⟩ := quiet_iff.mp hq
    simp only [hd, hv, hx, ht, ne_eq, not_true_eq_false, or_self] at hbusy

end Sys2Proof.Proofs

/-! PROOFS. The model cache: stagings, promotions, pins and what waits for them (R180, R183 to R187, R198). -/

namespace Sys2Proof.Proofs

-- One declaration after another, as in the laws: each waiting thread counts against the check's memory.
set_option Elab.async false

open Sys2Proof Sys2Proof.Machine Sys2Proof.Laws

/-! ### A cache that fits is left as it is (R185) -/

theorem evictStaged_of_fits {fits : ModelCache → Bool} {c : ModelCache} (h : fits c = true) (l : List CacheObj) :
    evictStaged fits l c = c := by
  cases l with
  | nil => rfl
  | cons o os => rw [evictStaged, if_pos h]

theorem evictHot_of_fits {fits : ModelCache → Bool} {c : ModelCache} (h : fits c = true) (l : List CacheObj) :
    evictHot fits l c = c := by
  cases l with
  | nil => rfl
  | cons o os => rw [evictHot, if_pos h]

theorem modCache_self (s : State) (q : QuarterId) : s.modCache q (fun _ => s.cache[q]) = s := by
  simp [State.modCache]

theorem releaseGranules_nil (s : State) : s.releaseGranules [] = s := by simp [State.releaseGranules]

/-- A change of a Quarter's cache that changes nothing releases nothing. -/
theorem recache_of_fixed {s : State} {q : QuarterId} {f : ModelCache → ModelCache} (h : f s.cache[q] = s.cache[q]) :
    s.recache q f = s := by
  have hkept (l : List Nat) : (l.filter fun g => !l.contains g) = [] := by simp
  simp only [State.recache, h, modCache_self, hkept, List.foldl_nil, releaseGranules_nil]

theorem recache_evictStaged_of_fits {s : State} {q : QuarterId} {fits : ModelCache → Bool} (h : fits s.cache[q] = true) :
    (s.recache q fun c => evictStaged fits c.objs c) = s :=
  recache_of_fixed (evictStaged_of_fits h _)

theorem recache_evictHot_of_fits {s : State} {q : QuarterId} {fits : ModelCache → Bool} (h : fits s.cache[q] = true) :
    (s.recache q fun c => evictHot fits c.objs c) = s :=
  recache_of_fixed (evictHot_of_fits h _)

/-! ### Stagings (R183, R198) -/

theorem startStaging_of_room {s : State} {q : QuarterId} {o : CacheId} {g : SegmentEntry} (hg : s.segment o = some g)
    (hr : s.ingotReady o.ingot.toNat = true) (ho : ∀ x ∈ s.cache[q].objs, x.id ≠ o) (hs : ∀ x ∈ s.cache[q].staging, x.id ≠ o)
    (hfits : s.cache[q].stagedTaken + g.stored ≤ s.cache[q].stagedBytes) : s.startStaging q o =
      match s.takeStacked q (cdiv g.stored 65536) with
      | (some gs, v) => v.modCache q fun c =>
          { c with staging := c.staging ++ [{ id := o, stored := g.stored, granules := gs }] }
      | (none, v) => v := by
  have hobjs : (s.cache[q].objs.any fun x => x.id == o) = false := by simpa using ho
  have hstaging : (s.cache[q].staging.any fun x => x.id == o) = false := by simpa using hs
  simp only [State.startStaging, hg, hr, hobjs, hstaging, recache_evictStaged_of_fits, hfits, decide_true, Bool.not_true,
    Bool.or_self, Bool.false_eq_true, if_false] <;> rfl

theorem doStagingComplete_of_staging {s : State} {q : QuarterId} {o : CacheId} {bytes : List Byte} {g : SegmentEntry}
    {st : Staging} (hg : s.segment o = some g) (hst : s.cache[q].staging.find? (fun x => x.id == o) = some st) :
    let done := s.modCache q fun c => { c with staging := c.staging.filter fun x => x.id != o }
    doStagingComplete q o bytes s =
      if s.goes o then done
      else if bytes.length == g.stored && Config.shake256 bytes 32 == g.hash then
        (done.writeGranules .stacked st.granules bytes).modCache q fun c =>
          { c with objs := c.objs ++
              [{ id := o, state := .staged, stored := g.stored, decoded := g.decoded, promoting := false
                 pins := (c.waiting.filter fun w => w.id == o).map fun w => (w.key, w.unit)
                 stagedAt := st.granules.map fun g => (g, g), hotAt := [] }] }
      else done.hashMismatch q o := by
  simp only [doStagingComplete, hg, hst]
  rfl

/-! ### Promotions (R183 to R186) -/

theorem promote_of_room {s : State} {q : QuarterId} {x : CacheObj} (w : CacheWait)
    (hfits : s.cache[q].hotTaken + x.granules ≤ s.cache[q].hotLimit) : s.promote q x w =
      match s.takeQuarter q x.granules with
      | (some gs, v) => v.modCache q fun c =>
          { c with
            objs := updWhere c.objs (fun y => y.id == x.id) fun y =>
              { y with promoting := true, hotAt := gs.map fun g => (g, g) }
            waiting := c.waiting.filter fun y => y.id != x.id }
      | (none, v) => v.modCache q fun c => c.block w := by
  simp only [State.promote, recache_evictHot_of_fits, hfits, decide_true, Bool.not_true, Bool.false_eq_true, if_false] <;>
    rfl

/-- A unit's pin is added to an object. -/
def pinAdded (s : State) (q : QuarterId) (o : CacheId) (k : Key) (u : Nat) : State := s.modCache q fun c =>
  { c with objs := updWhere c.objs (fun x => x.id == o) fun x => { x with pins := x.pins ++ [(k, u)] } }

section

variable {s : State} {q : QuarterId} {o : CacheId}

theorem doPromotionRequest_of_not_ready (hr : s.ingotReady o.ingot.toNat = false) (k : Key) (u : Nat) :
    doPromotionRequest q o k u s = s :=
  if_pos (by rw [hr]; rfl)

theorem doPromotionWaitResume_of_nothing
    (h : s.cache[q].waiting.find? (fun w => w.id == o) = none ∨ s.ingotReady o.ingot.toNat = false) :
    doPromotionWaitResume q o s = s := by
  unfold doPromotionWaitResume
  split
  · rfl
  · next w hw =>
    obtain h | h := h
    · rw [h] at hw
      exact absurd hw.symm (Option.some_ne_none w)
    · exact if_pos (by rw [h]; rfl)

variable (hr : s.ingotReady o.ingot.toNat = true)
include hr

theorem doPromotionRequest_of_absent (k : Key) (u : Nat) (ho : s.cache[q].objs.find? (fun x => x.id == o) = none) :
    let w : CacheWait := { id := o, key := k, unit := u, counted := false }
    let v := s.startStaging q o
    doPromotionRequest q o k u s =
      if v.cache[q].staging.any fun x => x.id == o then v.modCache q fun c => { c with waiting := c.waiting ++ [w] }
      else v.modCache q fun c => c.block w := by
  simp only [doPromotionRequest, hr, ho, Bool.not_true, Bool.false_eq_true, if_false]

variable {x : CacheObj} (ho : s.cache[q].objs.find? (fun x => x.id == o) = some x)
include ho

theorem doPromotionRequest_of_held (k : Key) (u : Nat) : doPromotionRequest q o k u s =
    if x.usesHot then pinAdded s q o k u
    else (pinAdded s q o k u).promote q x { id := o, key := k, unit := u, counted := false } := by
  simp only [doPromotionRequest, hr, ho, Bool.not_true, Bool.false_eq_true, if_false]
  rfl

theorem doPromotionWaitResume_of_hot {w : CacheWait} (hw : s.cache[q].waiting.find? (fun w => w.id == o) = some w)
    (hx : x.usesHot = true) : doPromotionWaitResume q o s =
      s.modCache q fun c => { c with waiting := c.waiting.filter fun w => w.id != o } := by
  simp only [doPromotionWaitResume, hw, hr, ho, hx, Bool.not_true, Bool.false_eq_true, if_false, if_true]

end

/-! ### The end of a promotion (R180, R183, R188) -/

theorem dropping_of_ingots {s t : State} (h : t.ingots = s.ingots) : t.dropping = s.dropping := by
  funext i
  simp only [State.dropping, h]

section

variable {s : State} {q : QuarterId} {o : CacheId}

theorem doPromotionComplete_of_absent (ho : s.cache[q].objs.find? (fun x => x.id == o) = none) :
    doPromotionComplete q o s = s := by
  simp only [doPromotionComplete, ho]

variable {x : CacheObj} (ho : s.cache[q].objs.find? (fun x => x.id == o) = some x)
include ho

theorem doPromotionComplete_of_idle (hp : x.promoting = false) : doPromotionComplete q o s = s := by
  simp only [doPromotionComplete, ho, hp, Bool.not_false, if_true]

variable (hp : x.promoting = true)
include hp

theorem doPromotionComplete_of_refetch (hw : ∃ r ∈ s.cache[q].refetching, r.id = o ∧ r.hot = false) :
    doPromotionComplete q o s = (x.pins.map Prod.fst).foldl State.markUnbound s := by
  have hwaits : (s.cache[q].refetching.any fun r => r.id == o && !r.hot) = true := by simpa using hw
  simp only [doPromotionComplete, ho, hp, hwaits, Bool.not_true, Bool.false_eq_true, if_false, if_true]

theorem doPromotionComplete_of_decoded {out : List Byte} (hw : ∀ r ∈ s.cache[q].refetching, r.id = o → r.hot = true)
    (hue : s.stagedUe x = none) (hout : decodeBlocks (s.storedBytes x) x.decoded x.granules 0 = .ok out) :
    doPromotionComplete q o s =
      ((s.writeGranules (.quarter q) (x.hotAt.map fun p => p.2) out).modCache q fun c =>
        { c with
          objs := touch o (fun x => { x with promoting := false, state := .hot }) c.objs
          promotions := (c.promotions + 1) % 2 ^ 64
          decodeBytes := (c.decodeBytes + x.decoded) % 2 ^ 64 }).dropUnpinned s.dropping := by
  have hwaits : (s.cache[q].refetching.any fun r => r.id == o && !r.hot) = false := by simpa using hw
  have hingots : (s.writeGranules (.quarter q) (x.hotAt.map fun p => p.2) out).ingots = s.ingots :=
    writeGranules_frame _ _ _ _ .ingots (by decide)
  simp only [doPromotionComplete, ho, hp, hwaits, hue, hout, Bool.not_true, Bool.false_eq_true, if_false]
  exact congrArg (State.dropUnpinned _) (dropping_of_ingots hingots)

end

/-- Settles O22: one case for each clause, by what the Quarter holds of the object, what is staged or refetched, and what
waits. -/
theorem modelCacheMovesObjects : Obligations.ModelCacheMovesObjects := by
  intro s q o k u bytes
  refine ⟨fun g hg hr ho hs hf => next_eq (startStaging_of_room hg hr ho hs hf),
    fun g st hg hst => next_eq (doStagingComplete_of_staging hg hst), fun x hr ho => ⟨fun hx => ?_, fun hx hf => ?_⟩,
    fun hr ho => next_eq (doPromotionRequest_of_absent hr k u ho),
    fun hr => next_eq (doPromotionRequest_of_not_ready hr k u),
    fun x ho => ⟨fun hp => next_eq (doPromotionComplete_of_idle ho hp),
      fun hp hw => next_eq (doPromotionComplete_of_refetch ho hp hw),
      fun out hp hw hue hout => next_eq (doPromotionComplete_of_decoded ho hp hw hue hout)⟩,
    fun ho => next_eq (doPromotionComplete_of_absent ho), next_eq rfl,
    fun w x hw ho hr hx => next_eq (doPromotionWaitResume_of_hot hr ho hw hx),
    fun h => next_eq (doPromotionWaitResume_of_nothing h)⟩
  -- a request for an object that the Quarter holds
  · exact next_eq ((doPromotionRequest_of_held hr ho k u).trans (if_pos hx))
  · have hpin : doPromotionRequest q o k u s = _ :=
      (doPromotionRequest_of_held hr ho k u).trans (if_neg (Bool.eq_false_iff.mp hx))
    exact next_eq (hpin.trans (promote_of_room _ hf))

end Sys2Proof.Proofs

/-! PROOFS. Faults by status and memory, overruns, the time cap, a Quench at its stopping point, and the order of the Release
gate (R87, R88, R90, R91, R205, R208, R342). -/

namespace Sys2Proof.Proofs

-- One declaration after another, as in the laws: each waiting thread counts against the check's memory.
set_option Elab.async false

open Sys2Proof Sys2Proof.Machine Sys2Proof.Laws

/-! ### JOB_FAULT by memory or status (R90, R319) -/

section

variable {s : State} {k : Key}

section

variable {j : Job} (hj : s.job k = some j) (hs : j.state ≠ .waiting)
include hj hs

theorem doJobFault_memory_of_admitted (sp : Space) :
    doJobFault k (.memory sp) s = s.faultJob k scMemoryFault (sourceOf { space := sp, off := 0 }) := by
  simp only [doJobFault, hj, bne_iff_ne.mpr hs, if_true]

theorem doJobFault_status_of_admitted (sc : Byte) : doJobFault k (.status sc) s =
    if sc.toNat ∈ faultStatuses then s.faultJob k sc.toNat .scheduler else s := by
  simp only [doJobFault, hj, bne_iff_ne.mpr hs, Bool.true_and, List.contains_iff_mem]

end

variable (hj : ∀ j, s.job k = some j → j.state = .waiting)
include hj

theorem doJobFault_memory_of_waiting (sp : Space) :
    doJobFault k (.memory sp) s = (s.ingestIn sp).foldl State.restartReading s := by
  cases h : s.job k with
  | none => simp only [doJobFault, h, Bool.false_eq_true, if_false]
  | some j => simp only [doJobFault, h, hj j h, bne_self_eq_false, Bool.false_eq_true, if_false]

theorem doJobFault_status_of_waiting (sc : Byte) : doJobFault k (.status sc) s = s := by
  cases h : s.job k with
  | none => simp only [doJobFault, h, Bool.false_and, Bool.false_eq_true, if_false]
  | some j => simp only [doJobFault, h, hj j h, bne_self_eq_false, Bool.false_and, Bool.false_eq_true, if_false]

end

/-! ### Overruns (R87, R88) -/

theorem executes_of_not_running {s : State} {e : EngineId} (h : s.engines[e].state ≠ .running) : s.executes e = none := by
  unfold State.executes
  split
  · next hr _ => exact absurd hr h
  · rfl

theorem executes_of_running {s : State} {e : EngineId} {k : Key} {u : Nat} (h : s.engines[e].state = .running)
    (hj : s.engines[e].job = some (k, u)) : s.executes e = some k := by
  simp only [State.executes, h, hj]

theorem doNonpreOverrun_of_not_running {s : State} {e : EngineId} (h : s.engines[e].state ≠ .running) (ran : Nat) :
    doNonpreOverrun e ran s = s := by
  simp only [doNonpreOverrun, executes_of_not_running h]

section

variable {s : State} {e : EngineId} {k : Key} {us : Nat} {m : Mold} {j : Job} {h : Shop} (hx : s.executes e = some k)
  (hnp : s.engines[e].ctx.npOpen = some us) (hm : s.mold.mold = some m) (hj : s.job k = some j)
  (hh : m.shop j.shop = some h)
include hx hnp hm hj hh

theorem doNonpreOverrun_of_c0 (hc : h.c0 = true) (ran : Nat) : doNonpreOverrun e ran s =
    if ran - s.npWaited e ≤ us then s else s.overrun.faultJob k scNonpreOverrun (.engine e) := by
  simp only [doNonpreOverrun, hx, hnp, State.theMold, hm, hj, hh, hc, if_true]

/-- Outside the C0 Shop the excess is charged, and the Engine lags by it. -/
def excessCharged (s : State) (e : EngineId) (k : Key) (more : Nat) : State :=
  let t := (s.overrun.charge k e.val more).modEngine e fun x => { x with ctx := { x.ctx with ran := x.ctx.ran + more } }
  { t with sched := { t.sched with lagEngine := t.sched.lagEngine.set e (t.sched.lagEngine[e] + more) } }

theorem doNonpreOverrun_of_lower (hc : h.c0 = false) (ran : Nat) : doNonpreOverrun e ran s =
    if ran ≤ us then s else excessCharged s e k (ran - us) := by
  simp only [doNonpreOverrun, hx, hnp, State.theMold, hm, hj, hh, hc, Bool.false_eq_true, if_false]
  rfl

end

theorem doSemOverrun_of_free {s : State} {shop : Fin 8} {n : Fin 64} (h : (s.sem shop.val n.val).holder = none) :
    doSemOverrun shop n s = s := by
  simp only [doSemOverrun, h]

theorem doSemOverrun_of_held {s : State} {shop : Fin 8} {n : Fin 64} {k : Key}
    (h : (s.sem shop.val n.val).holder = some k) : doSemOverrun shop n s = s.faultJob k scSemOverrun .scheduler := by
  simp only [doSemOverrun, h]

/-! ### The time cap and the Quench (R91, R205) -/

section

variable {s : State} {k : Key} {j : Job} (hj : s.job k = some j)
include hj

theorem doJobTimeCap_of_job : doJobTimeCap k s =
    if j.cls = 0 ∧ j.tJobUs ≠ 0 ∧ j.state ≠ .waiting ∧ j.quenchable = true ∧ j.quenching = false then
      s.overrun.modJob k fun j => { j with quenching := true }
    else s := by
  simp only [doJobTimeCap, hj, Bool.and_eq_true, beq_iff_eq, bne_iff_ne, Bool.not_eq_true', and_assoc]

theorem doJobQuenchStop_of_not_stopped (h : j.quenching = false ∨ s.npRuns k = true) : doJobQuenchStop k s = s := by
  simp only [doJobQuenchStop, hj]
  exact if_pos (by simpa using h)

variable (hq : j.quenching = true) (hnp : s.npRuns k = false)
include hq hnp

theorem doJobQuenchStop_of_objGet {i : Nat} (hi : j.kind = .objGet i) :
    doJobQuenchStop k s = (s.refuse k scQuenched).dropJob k := by
  simp only [doJobQuenchStop, hj, hq, hnp, hi, Bool.not_true, Bool.or_self, Bool.false_eq_true, if_false]

theorem doJobQuenchStop_of_job (hi : ∀ i, j.kind ≠ .objGet i) : doJobQuenchStop k s =
    if j.state = .waiting then
      (s.status k scQuenched 64 0 (s.answerHead j 7 scQuenched true false false 0)).dropJob k
    else if s.waitsSign j true then s.waitSign k true else s.stopJob j := by
  simp only [doJobQuenchStop, hj, hq, hnp, Bool.not_true, Bool.or_self, Bool.false_eq_true, if_false, beq_iff_eq]
  cases hk : j.kind with
  | objGet i => exact absurd hk (hi i)
  | query => rfl
  | operator op => rfl

end

/-! ### The Release gate (R208, R342) -/

theorem leastBy_eq_none_iff {α : Type} {f : α → Nat} {l : List α} : leastBy f l = none ↔ l = [] := by
  cases l with
  | nil => simp [leastBy]
  | cons x xs =>
    simp only [leastBy, reduceCtorEq, iff_false]
    split
    · simp
    · split <;> simp

theorem leastBy_spec {α : Type} {f : α → Nat} {l : List α} {y : α} (h : leastBy f l = some y) :
    y ∈ l ∧ ∀ x ∈ l, f y ≤ f x := by
  induction l generalizing y with
  | nil => simp [leastBy] at h
  | cons x xs ih =>
    simp only [leastBy] at h
    split at h
    · next hnone =>
      obtain rfl := leastBy_eq_none_iff.mp hnone
      cases h
      simp
    · next z hz =>
      obtain ⟨hmem, hle⟩ := ih hz
      simp only [List.mem_cons, forall_eq_or_imp]
      split_ifs at h with hxz <;> cases h
      · exact ⟨.inl rfl, le_rfl, fun w hw => hxz.trans (hle w hw)⟩
      · exact ⟨.inr hmem, (Nat.lt_of_not_le hxz).le, hle⟩

/-- The answers that wait for the gate. -/
def gateWaiting (s : State) : List Job := s.sched.jobs.filter fun j => j.gateOrder.isSome

theorem mem_gateWaiting {s : State} {j : Job} : j ∈ gateWaiting s ↔ j ∈ s.sched.jobs ∧ j.gateOrder ≠ none := by
  simp [gateWaiting, Option.isSome_iff_ne_none]

/-- The answers of class 0 among them. -/
def gateWaitingC0 (s : State) : List Job := (gateWaiting s).filter fun j => j.cls == 0

theorem mem_gateWaitingC0 {s : State} {j : Job} : j ∈ gateWaitingC0 s ↔ j ∈ gateWaiting s ∧ j.cls = 0 := by
  simp [gateWaitingC0]

/-- The gate takes the earliest of the class-0 answers, or, where none waits, the earliest of all. -/
theorem gateNext_cases {s : State} {j : Job} (h : s.gateNext = some j) :
    leastBy (fun j => j.gateOrder.getD 0) (gateWaitingC0 s) = some j ∨
      gateWaitingC0 s = [] ∧ leastBy (fun j => j.gateOrder.getD 0) (gateWaiting s) = some j := by
  unfold State.gateNext at h
  dsimp only at h
  split at h
  · next i hi => exact .inl (hi.trans h)
  · next hi => exact .inr ⟨leastBy_eq_none_iff.mp hi, h⟩

theorem gateNext_of_empty {s : State} (h : gateWaiting s = []) : s.gateNext = none := by
  cases hn : s.gateNext with
  | none => rfl
  | some j =>
    obtain hj | ⟨-, hj⟩ := gateNext_cases hn
    · have hmem := (mem_gateWaitingC0.mp (leastBy_spec hj).1).1
      simp [h] at hmem
    · simp [h, leastBy] at hj

theorem gateNext_mem {s : State} {j : Job} (h : s.gateNext = some j) : j ∈ gateWaiting s := by
  obtain hj | ⟨-, hj⟩ := gateNext_cases h
  · exact (mem_gateWaitingC0.mp (leastBy_spec hj).1).1
  · exact (leastBy_spec hj).1

/-- Class 0 goes first, and within class 0 or outside it the earlier merge (R342). -/
theorem gateNext_first {s : State} {j x : Job} (h : s.gateNext = some j) (hx : x ∈ gateWaiting s) :
    (x.cls = 0 → j.cls = 0) ∧ ((x.cls = 0 ↔ j.cls = 0) → j.gateOrder.getD 0 ≤ x.gateOrder.getD 0) := by
  obtain hj | ⟨hempty, hj⟩ := gateNext_cases h
  · obtain ⟨hmem, hle⟩ := leastBy_spec hj
    have hc : j.cls = 0 := (mem_gateWaitingC0.mp hmem).2
    exact ⟨fun _ => hc, fun hiff => hle x (mem_gateWaitingC0.mpr ⟨hx, hiff.mpr hc⟩)⟩
  · have hnot : x.cls ≠ 0 := fun hc => by simpa [hempty] using mem_gateWaitingC0.mpr ⟨hx, hc⟩
    exact ⟨fun hc => absurd hc hnot, fun _ => (leastBy_spec hj).2 x hx⟩

theorem doReleaseGate_of_empty {s : State} (h : gateWaiting s = []) (poison : Option Nat) :
    doReleaseGate poison s = s := by
  simp only [doReleaseGate, gateNext_of_empty h]

theorem c0Finish_of_lower {s : State} {j : Job} (h : j.cls ≠ 0) : s.c0Finish j = s :=
  if_pos (by rw [bne_iff_ne.mpr h]; rfl)

theorem doReleaseGate_of_whole {s : State} {j : Job} (h : s.gateNext = some j) (he : j.ending = none) (hc : j.cls ≠ 0) :
    doReleaseGate none s = (s.success j.key (s.answer j).length 0 (s.answer j)).endJob j.key := by
  have hfull : (j.kind == .query && (none : Option Nat) == some scMediaPartial) = false := Bool.and_false _
  simp only [doReleaseGate, h, he, c0Finish_of_lower hc, hfull, State.sendData]

/-- Settles O39: one case for each clause, by what the job, the open command, the semaphore and the gate hold. -/
theorem overrunsQuenchesAndTheGate : Obligations.OverrunsQuenchesAndTheGate := by
  intro s k e ran shop n sc sp
  refine ⟨fun j hj hs => ⟨next_eq (doJobFault_memory_of_admitted hj hs sp), fun hsc => ?_, fun hsc => ?_⟩,
    fun hj => ⟨next_eq (doJobFault_memory_of_waiting hj sp), next_eq (doJobFault_status_of_waiting hj sc)⟩,
    fun us m j h hr hjob hnp hm hj hh => ⟨fun hc => ⟨fun hle => ?_, fun hlt => ?_⟩, fun hc => ⟨fun hle => ?_, fun hlt => ?_⟩⟩,
    fun hr => next_eq (doNonpreOverrun_of_not_running hr ran), fun h => next_eq (doSemOverrun_of_free h),
    fun h => next_eq (doSemOverrun_of_held h),
    fun j hj => ⟨fun hc ht hs hqa hq => ?_, fun h => ?_, fun h => next_eq (doJobQuenchStop_of_not_stopped hj h),
      fun hq hnp => ⟨fun i hi => next_eq (doJobQuenchStop_of_objGet hj hq hnp hi), fun hi hs => ?_,
        fun hi hs => ⟨fun hw => ?_, fun hw => ?_⟩⟩⟩,
    fun h => next_eq (doReleaseGate_of_empty ?_ none),
    fun j hj he hc => next_eq (doReleaseGate_of_whole hj he hc), fun j hj => ?_⟩
  -- a fault by status
  · exact next_eq ((doJobFault_status_of_admitted hj hs sc).trans (if_pos hsc))
  · exact next_eq ((doJobFault_status_of_admitted hj hs sc).trans (if_neg hsc))
  -- a command against its declared maximum
  · exact next_eq ((doNonpreOverrun_of_c0 (executes_of_running hr hjob) hnp hm hj hh hc ran).trans (if_pos hle))
  · exact next_eq ((doNonpreOverrun_of_c0 (executes_of_running hr hjob) hnp hm hj hh hc ran).trans
      (if_neg (Nat.not_le.mpr hlt)))
  · exact next_eq ((doNonpreOverrun_of_lower (executes_of_running hr hjob) hnp hm hj hh hc ran).trans (if_pos hle))
  · exact next_eq ((doNonpreOverrun_of_lower (executes_of_running hr hjob) hnp hm hj hh hc ran).trans
      (if_neg (Nat.not_le.mpr hlt)))
  -- the time cap
  · exact next_eq ((doJobTimeCap_of_job hj).trans (if_pos ⟨hc, ht, hs, hqa, hq⟩))
  · refine next_eq ((doJobTimeCap_of_job hj).trans (if_neg ?_))
    rintro ⟨hc, ht, -, -, hq⟩
    simp [hc, ht, hq] at h
  -- a job stops
  · exact next_eq ((doJobQuenchStop_of_job hj hq hnp hi).trans (if_pos hs))
  · exact next_eq ((doJobQuenchStop_of_job hj hq hnp hi).trans ((if_neg hs).trans (if_pos hw)))
  · exact next_eq ((doJobQuenchStop_of_job hj hq hnp hi).trans ((if_neg hs).trans (if_neg (Bool.eq_false_iff.mp hw))))
  -- the gate
  · refine List.eq_nil_iff_forall_not_mem.mpr fun j hj => ?_
    obtain ⟨hmem, hsome⟩ := mem_gateWaiting.mp hj
    exact hsome (h j hmem)
  · obtain ⟨hmem, hsome⟩ := mem_gateWaiting.mp (gateNext_mem hj)
    exact ⟨hmem, hsome, fun x hx hxs => gateNext_first hj (mem_gateWaiting.mpr ⟨hx, hxs⟩)⟩

end Sys2Proof.Proofs

/-! PROOFS. The end of a unit execution and the replay ladder (R77, R162, R164, R165, Table 6-5). -/

namespace Sys2Proof.Proofs

-- One declaration after another, as in the laws: each waiting thread counts against the check's memory.
set_option Elab.async false

open Sys2Proof Sys2Proof.Machine Sys2Proof.Laws

/-! ### The ladder of Table 6-5 -/

/-- The ladder goes on only where the job's quantisation has replays on. -/
theorem replayOutcome_eq (j : Job) (x : UnitEntry) : replayOutcome j x =
    if j.quenching then (6, none) else if x.inPlace then (3, none) else if j.cls = 0 then (2, none)
    else if ¬∃ q, j.quant = some q ∧ q.replay = true then (1, none)
    else if x.rung = 2 then (5, none)
    else match x.wider with
      | some w => (0, some w)
      | none => (4, none) := by
  cases hq : j.quant with
  | none => simp [replayOutcome, hq]
  | some q => cases hr : q.replay <;> simp [replayOutcome, hq, hr] <;> rfl

/-! ### UNIT_COMPLETE -/

@[simp] theorem le_bytes_length (n v : Nat) : (le n v).length = n := by
  induction n generalizing v with
  | zero => rfl
  | succ n ih => rw [le, List.length_cons, ih]

/-- The causes set on the Engine of a unit and on the parts that joined there (R162). -/
def unitCauses (s : State) (j : Job) (u : Nat) (e : EngineId) : BitVec 8 :=
  (j.partEnds.filter fun p => p.unit == u).foldl (fun c p => c ||| p.causes) s.engines[e].ctx.causes

/-- The execution of a unit left on one Engine is charged and counted. -/
def unitCharged (s : State) (k : Key) (j : Job) (u : Nat) (r : UnitResult) (e : EngineId) : State :=
  (s.chargeParts k j u r [e]).modJob k fun j => { j with execs := (j.execs + 1) % 2 ^ 32 }

/-- The charge takes nothing of the flag. -/
theorem unitCharged_causes (s : State) (k : Key) (j : Job) (u : Nat) (r : UnitResult) (e : EngineId) :
    (unitCharged s k j u r e).engines[e].ctx.causes = s.engines[e].ctx.causes := by
  have hcharge (us : Nat) : (s.charge k e.val us).engines = s.engines := charge_frame s k e.val us .engines (by decide)
  simp only [unitCharged, State.chargeParts, List.foldl_cons, List.foldl_nil, modJob_engines, modEngine_get, hcharge]

/-- The charged state shows the flag of the unit: nothing to examine, or a replay that a Quench ends. -/
theorem unitCharged_flag_iff {s : State} {k : Key} {j : Job} {u : Nat} {r : UnitResult} {e : EngineId} :
    (((j.partEnds.filter fun p => p.unit == u).foldl (fun c p => c ||| p.causes)
      (unitCharged s k j u r e).engines[e].ctx.causes == 0) || (j.quenching && j.replayed u != 0)) = true ↔
      unitCauses s j u e = 0 ∨ j.quenching = true ∧ j.replayed u ≠ 0 := by
  rw [unitCharged_causes, Bool.or_eq_true, Bool.and_eq_true, beq_iff_eq, bne_iff_ne, unitCauses]

/-- What becomes of a flagged execution: the outcome of the ladder and the unit that a replay runs (R164). -/
def replayDecided (v : State) (k : Key) (u : Nat) (r : UnitResult) (e : EngineId) (ps : List Placed) (ends : List PartEnd)
    (causes : BitVec 8) (o : Nat × Option Nat) : State :=
  match o.1, o.2 with
  | 0, some w => v.replayUnit k u w ps ends
  | 5, _ => v.faultJob k scNumericOverflow (.engine e)
  | 3, _ => if causes.getLsbD causeVecOvf then v.faultJob k scNumericOverflow (.engine e) else v.unitStands k u r ps
  | _, _ => v.unitStands k u r ps

theorem doUnitComplete_of_no_job {s : State} {k : Key} (hj : s.job k = none) (u : Nat) (r : UnitResult) :
    doUnitComplete k u r s = s := by
  simp only [doUnitComplete, hj]

section

variable {s : State} {k : Key} {j : Job} (hj : s.job k = some j) {u : Nat} (r : UnitResult)
include hj

theorem doUnitComplete_of_running (h : s.partsDone k u (j.placed.filter fun p => p.unit == u) = false ∨ 2 ^ 32 ≤ u) :
    doUnitComplete k u r s = s := by
  simp only [doUnitComplete, hj]
  exact if_pos (by simpa [residueUnit, or_comm] using h)

variable (hd : s.partsDone k u (j.placed.filter fun p => p.unit == u) = true) (hu : u < residueUnit)
include hd hu

/-- The parts of a split unit join first (R156, log 140). -/
theorem doUnitComplete_of_parts (hps : 1 < ((j.placed.filter fun p => p.unit == u).filterMap Placed.engine).length) :
    doUnitComplete k u r s =
      s.joinParts k j u ((s.unitEntry j u).getD plainUnit) r (j.placed.filter fun p => p.unit == u) := by
  simp only [doUnitComplete, hj, hd, hps, Bool.not_true, ge_iff_le, Nat.not_le.mpr hu, decide_false, Bool.or_self,
    Bool.false_eq_true, if_false, if_true]

variable {e : EngineId} {p : Machine.Part} {b : Bool}
  (hps : j.placed.filter (fun p => p.unit == u) = [{ unit := u, engine := some e, bench := none, part := p, hinted := b }])
include hps

/-- Without a flag, or where a Quench ends the replay, the results stand (R165). -/
theorem doUnitComplete_of_stands (h : unitCauses s j u e = 0 ∨ j.quenching = true ∧ j.replayed u ≠ 0) :
    doUnitComplete k u r s = (unitCharged s k j u r e).unitStands k u r (j.placed.filter fun p => p.unit == u) := by
  rw [hps] at hd
  simp only [doUnitComplete, hj, hps, hd, Bool.not_true, ge_iff_le, Nat.not_le.mpr hu, decide_false, Bool.or_self,
    Bool.false_eq_true, if_false]
  exact if_pos (unitCharged_flag_iff.mpr h)

/-- A flag leaves one record, and the ladder decides (R164). -/
theorem doUnitComplete_of_flagged (h : ¬(unitCauses s j u e = 0 ∨ j.quenching = true ∧ j.replayed u ≠ 0)) :
    ∃ rep : Report, rep.sev = .informational ∧ rep.kind = 1 ∧ rep.body.length = 47 ∧ doUnitComplete k u r s = replayDecided
      (((unitCharged s k j u r e).report (.engine e) rep).modJob k fun j => { j with overflows := satAdd 32 j.overflows 1 })
      k u r e (j.placed.filter fun p => p.unit == u) (j.partEnds.filter fun p => p.unit == u) (unitCauses s j u e)
      (replayOutcome j ((s.unitEntry j u).getD plainUnit)) := by
  rw [hps] at hd
  simp only [doUnitComplete, hj, hps, hd, Bool.not_true, ge_iff_le, Nat.not_le.mpr hu, decide_false, Bool.or_self,
    Bool.false_eq_true, if_false]
  refine ⟨?rep, ?sev, ?kind, ?body, ?exec⟩
  case exec =>
    refine (if_neg (mt unitCharged_flag_iff.mp h)).trans ?_
    rw [unitCauses, ← unitCharged_causes s k j u r e]
    rfl
  case sev => rfl
  case kind => rfl
  case body => simp only [List.length_append, le_bytes_length]

end

/-- Settles O37: the parts that still run, the parts that join, and the one Engine whose flag the ladder examines. -/
theorem unitsCompleteAndReplay : Obligations.UnitsCompleteAndReplay := by
  refine ⟨fun s k u r j hj => ⟨fun h => next_eq (doUnitComplete_of_running hj r h),
    fun hd hu hps => next_eq (doUnitComplete_of_parts hj r hd hu hps), ?_⟩,
    fun s k u r hj => next_eq (doUnitComplete_of_no_job hj u r), replayOutcome_eq⟩
  intro e p b hd hu hps x ends causes t
  refine ⟨fun h => next_eq (doUnitComplete_of_stands hj r hd hu hps h), fun hc hq => ?_⟩
  have hflag : ¬(unitCauses s j u e = 0 ∨ j.quenching = true ∧ j.replayed u ≠ 0) := by
    rintro (h | ⟨hquench, hreplayed⟩)
    · exact hc h
    · exact hq.elim (fun hnot => Bool.false_ne_true (hnot.symm.trans hquench)) hreplayed
  obtain ⟨rep, hsev, hkind, hbody, hexec⟩ := doUnitComplete_of_flagged hj r hd hu hps hflag
  exact ⟨rep, _, rfl, hsev, hkind, hbody, next_eq hexec⟩

end Sys2Proof.Proofs

/-! PROOFS. JOB_SUBMIT and QUERY accepted (R72, R201, R209, R218): the checks from step 5 of R421 on, and the WAITING job. -/

namespace Sys2Proof.Proofs

-- One declaration after another, as in the laws: each waiting thread counts against the check's memory.
set_option Elab.async false

open Sys2Proof Sys2Proof.Machine Sys2Proof.Laws

/-- An Onant command whose fields pass does what it is for. -/
theorem onant_of_fields {s : State} {e : Sqe} {masks : List Word32} {inp out : Nat} {fields : Mold → Shop → Bool}
    {act : Mold → Shop → State} {m : Mold} {h : Shop} (hm : s.mold.mold = some m) (hw : s.ioWaits = false)
    (hh : m.shopOfQueue e.key.ctrl e.key.sqid = some h) (hon : onantOk e masks inp out = true) (hf : fields m h = true) :
    s.onant e masks inp out fields act = act m h := by
  simp only [State.onant, State.theMold, hm, hw, hh, hon, hf, Bool.and_self, Bool.false_eq_true, if_false, if_true]

/-! ### JOB_SUBMIT (R201, R209) -/

/-- The page table that a GENERATE asks for, with no page placed. -/
def jobPages (s : State) (d : JobDesc) : List KvPage :=
  match s.ingot d.ingot with
  | some g => if d.op == 0x03 then g.kvPages d.maxTokens else []
  | none => []

/-- The key of the Collection that a job names is held, where it names one. -/
def jobKeyOk (s : State) (m : Mold) (d : JobDesc) : Bool :=
  match m.coll d.coll with
  | some c => s.keyHeld c.label
  | none => true

theorem jobKeyOk_eq_false {s : State} {m : Mold} {d : JobDesc}
    (h : ∃ c, m.coll d.coll = some c ∧ s.keyHeld c.label = false) : jobKeyOk s m d = false := by
  obtain ⟨c, hc, hk⟩ := h
  simp only [jobKeyOk, hc, hk]

theorem jobKeyOk_eq_true {s : State} {m : Mold} {d : JobDesc} (h : ∀ c, m.coll d.coll = some c → s.keyHeld c.label = true) :
    jobKeyOk s m d = true := by
  unfold jobKeyOk
  split
  · next c hc => exact h c hc
  · rfl

section

variable {s : State} {e : Sqe} {m : Mold} {h : Shop} {d : JobDesc}

theorem submitJob_of_state {x : Nat × Nat} (hs : s.jobState m d = some x) :
    s.submitJob e m h d = s.status e.key x.1 x.2 0 [] := by
  simp only [State.submitJob, hs]

variable (hs : s.jobState m d = none)
include hs

theorem submitJob_of_bad_content (hc : s.jobContent m h d = false) :
    s.submitJob e m h d = s.refuse e.key scInvalidField := by
  simp only [State.submitJob, hs, hc, Bool.not_false, if_true]

variable (hc : s.jobContent m h d = true)
include hc

/-- The key, the room, the place and the bound of C0, in this order (log 65). -/
theorem submitJob_of_content : s.submitJob e m h d =
    if !jobKeyOk s m d then s.refuse e.key scKeyAbsent
    else if ((jobPages s d).map KvPage.bytes).sum > s.kvRoom m h then s.refuse e.key scCacheFull
    else (s.placePages m h (jobPages s d)).elim (s.refuse e.key scCacheFull) fun kv =>
      if d.cls == 0 && d.tJobUs > m.env.bound * m.periodUs then s.refuseEnvelope e.key true else s.acceptJob e m h d kv := by
  simp only [State.submitJob, hs, hc, Bool.not_true, Bool.false_eq_true, if_false, jobKeyOk, jobPages]
  generalize s.placePages m h _ = o
  cases o <;> rfl

theorem submitJob_of_no_key (hk : jobKeyOk s m d = false) : s.submitJob e m h d = s.refuse e.key scKeyAbsent := by
  rw [submitJob_of_content hs hc, hk]
  rfl

variable (hk : jobKeyOk s m d = true)
include hk

theorem submitJob_of_no_room (hr : s.kvRoom m h < ((jobPages s d).map KvPage.bytes).sum) :
    s.submitJob e m h d = s.refuse e.key scCacheFull := by
  rw [submitJob_of_content hs hc, hk, if_neg (by decide), if_pos hr]

variable (hr : ((jobPages s d).map KvPage.bytes).sum ≤ s.kvRoom m h)
include hr

theorem submitJob_of_no_place (hp : s.placePages m h (jobPages s d) = none) :
    s.submitJob e m h d = s.refuse e.key scCacheFull := by
  rw [submitJob_of_content hs hc, hk, if_neg (by decide), if_neg (Nat.not_lt.mpr hr), hp, Option.elim_none]

theorem submitJob_of_place {placed : List KvPage} (hp : s.placePages m h (jobPages s d) = some placed) :
    s.submitJob e m h d = if d.cls = 0 ∧ m.env.bound * m.periodUs < d.tJobUs then s.refuseEnvelope e.key true
      else s.acceptJob e m h d placed := by
  rw [submitJob_of_content hs hc, hk, if_neg (by decide), if_neg (Nat.not_lt.mpr hr), hp, Option.elim_some]
  simp only [Bool.and_eq_true, beq_iff_eq, decide_eq_true_eq, gt_iff_lt]

end

theorem addJob_of_sched {s t : State} (h : t.sched = s.sched) (j : Job) :
    t.addJob j = { t with sched := { s.sched with jobs := s.sched.jobs ++ [j] } } := by
  rw [State.addJob, h]

/-- An accepted job: WAITING, last in the list, its page table placed and the granules of its pages invalid (R171, R190). -/
theorem acceptJob_eq (s : State) (e : Sqe) (m : Mold) (h : Shop) (d : JobDesc) (placed : List KvPage) :
    ∃ j : Job, s.acceptJob e m h d placed =
        { (kvScratch placed).foldl (fun u p => u.clearGranule p.1 p.2) s.fresh.2 with
          sched := { s.sched with jobs := s.sched.jobs ++ [j] } } ∧
      j.key = e.key ∧ j.kind = .operator d.op ∧ j.cls = d.cls ∧ j.shop = h.id ∧ j.state = .waiting ∧
      j.weight = (if d.weight = 0 then (m.cls d.cls).defaultW else d.weight) ∧ j.ingot = d.runs m ∧ j.k = d.k ∧
      j.tJobUs = d.tJobUs ∧ j.input = d.text ∧ j.items = d.items ∧ j.kv = placed ∧ j.scratch = kvScratch placed ∧
      j.placed = [] ∧ j.arrivedUs = none := by
  have hframe : Frame [.engines, .mem, .free] s
      ((kvScratch placed).foldl (fun u p => u.clearGranule p.1 p.2) s.fresh.2) :=
    Frame.foldl _ ((Frame.refl s).step (fresh_frame s)) fun u p => (Frame.refl u).step (clearGranule_frame u p.1 p.2)
  exact ⟨_, addJob_of_sched (sched_of_frame hframe) _, rfl, rfl, rfl, rfl, rfl, by simp only [beq_iff_eq], rfl, rfl, rfl, rfl, rfl, rfl, rfl, rfl, rfl⟩

theorem doJobSubmit_of_fields {s : State} {e : Sqe} {desc : List Byte} {m : Mold} {h : Shop} (hm : s.mold.mold = some m)
    (hw : s.ioWaits = false) (hh : m.shopOfQueue e.key.ctrl e.key.sqid = some h)
    (hon : onantOk e [allOnes, 0, 0, 0, 0, 0] e.cdw10.toNat (readJobDesc (padTo e.cdw10.toNat desc)).answerBytes = true)
    (hok : (readJobDesc (padTo e.cdw10.toNat desc)).ok (padTo e.cdw10.toNat desc) e.cdw10.toNat = true)
    (hfits : (readJobDesc (padTo e.cdw10.toNat desc)).fits m h = true)
    (hbench : benchOp (readJobDesc (padTo e.cdw10.toNat desc)).op = true →
      s.benchesHeld h (readJobDesc (padTo e.cdw10.toNat desc)) = true) :
    doJobSubmit e desc s = s.submitJob e m h (readJobDesc (padTo e.cdw10.toNat desc)) := by
  refine onant_of_fields hm hw hh hon ?_
  simp only [hok, hfits, Bool.true_and, Bool.or_eq_true, Bool.not_eq_true']
  by_cases hop : benchOp (readJobDesc (padTo e.cdw10.toNat desc)).op = true
  · exact .inr (hbench hop)
  · exact .inl (Bool.eq_false_iff.mpr hop)

/-! ### QUERY (R218) -/

/-- The WAITING job of a QUERY with a vector, in a class. -/
def vectorQuery (e : Sqe) (m : Mold) (q : QueryArgs) (c : CollEntry) (bs : List Byte) (cls : Nat) : Job :=
  { newJob e.key .query cls c.queryShop with
    weight := (m.cls cls).defaultW, coll := some q.coll, k := q.k, lists := q.lists
    depth := depthOf c.metric q.k q.depth, answerBytes := q.answerBytes, input := bs, vector := f32s bs
    ingot := 0, tokens := 0 }

section

variable {s : State} {e : Sqe} {m : Mold} {q : QueryArgs} {c : CollEntry} (hc : m.coll q.coll = some c) (bs : List Byte)
include hc

theorem submitQuery_of_ingot {sc : Nat} (hv : q.vector = false) (hi : s.ingotRefusal c.embedIngot = some sc) :
    s.submitQuery e m q bs = s.refuse e.key sc := by
  simp only [State.submitQuery, hc, hv, Bool.false_eq_true, if_false, hi]

variable (hv : q.vector = true)
include hv

theorem submitQuery_of_unbound (hs : s.queryShop m c [] = false) : s.submitQuery e m q bs = s.refuse e.key scShopUnbound := by
  simp only [State.submitQuery, hc, hv, if_true, hs, Bool.not_false]

variable (hs : s.queryShop m c [] = true) (hx : ∀ x, s.coll q.coll = some x → x.unavailable = false)
include hs hx

/-- A vector needs no Ingot: what is left is the key, and a C0 Shop, which decides the class (R72). -/
theorem submitQuery_of_vector : s.submitQuery e m q bs =
    if !s.keyHeld c.label then s.refuse e.key scKeyAbsent
    else m.c0Shop.elim (s.refuseEnvelope e.key true) fun h0 =>
      s.addJob (vectorQuery e m q c bs (if c.queryShop == h0.id then 0 else 1)) := by
  cases hq : s.coll q.coll with
  | none =>
    simp only [State.submitQuery, hc, hv, hs, hq, if_true, Bool.not_true, bne_self_eq_false, Bool.or_self,
      Bool.false_eq_true, if_false]
    cases m.c0Shop <;> rfl
  | some x =>
    simp only [State.submitQuery, hc, hv, hs, hq, hx x hq, if_true, Bool.not_true, bne_self_eq_false, Bool.or_self,
      Bool.false_eq_true, if_false]
    cases m.c0Shop <;> rfl

end

/-- Settles O31: the descriptor and the query pass the common checks, and the checks from step 5 on follow one another. -/
theorem jobsAreAcceptedWaiting : Obligations.JobsAreAcceptedWaiting := by
  intro s e desc m h hm hw hh
  constructor
  · intro bs d pages kv hon hok hfits hbench
    have hexec {t : State} (ht : s.submitJob e m h d = t) : exec (.jobSubmit e desc) s = .next t :=
      next_eq ((doJobSubmit_of_fields hm hw hh hon hok hfits hbench).trans ht)
    refine ⟨fun x hs => hexec (submitJob_of_state hs), fun hs hc => hexec (submitJob_of_bad_content hs hc),
      fun hs hc => ⟨fun hk => hexec ?_, fun hk => ⟨fun hr => hexec ?_, fun hr hp => hexec ?_, fun placed hr hp =>
        ⟨fun h0 ht => hexec ?_, fun hn => ?_⟩⟩⟩⟩
    · exact submitJob_of_no_key hs hc (jobKeyOk_eq_false hk)
    · exact submitJob_of_no_room hs hc (jobKeyOk_eq_true hk) hr
    · exact submitJob_of_no_place hs hc (jobKeyOk_eq_true hk) hr hp
    · exact (submitJob_of_place hs hc (jobKeyOk_eq_true hk) hr hp).trans (if_pos ⟨h0, ht⟩)
    · have haccept := (submitJob_of_place (e := e) hs hc (jobKeyOk_eq_true hk) hr hp).trans (if_neg hn)
      obtain ⟨j, hj, hfields⟩ := acceptJob_eq s e m h d placed
      exact ⟨j, hexec (haccept.trans hj), hfields⟩
  · intro q bs hon hok c hc
    have hexec {t : State} (ht : s.submitQuery e m q bs = t) : exec (.query e desc) s = .next t :=
      next_eq ((onant_of_fields hm hw hh hon hok).trans ht)
    refine ⟨fun hv sc hi => hexec (submitQuery_of_ingot hc bs hv hi), fun hv =>
      ⟨fun hs => hexec (submitQuery_of_unbound hc bs hv hs), fun hs hx => ?_⟩⟩
    have hpassed := submitQuery_of_vector (e := e) hc bs hv hs hx
    refine ⟨fun hk => hexec ?_, fun hk => ⟨fun h0 => hexec ?_, fun h0 hc0 => ?_⟩⟩
    · rw [hpassed, hk]
      rfl
    · rw [hpassed, hk, h0]
      rfl
    · rw [hk, hc0] at hpassed
      refine ⟨_, hexec hpassed, rfl, rfl, ?_, rfl, rfl, rfl, rfl, rfl, rfl, rfl, rfl, rfl⟩
      simp only [vectorQuery, newJob, beq_iff_eq]

end Sys2Proof.Proofs

/-! PROOFS. What the charge of time and the save of a context leave alone: the pins, the credits and the other Engines and
Benches (R77, R89, R117, R118, R187). -/

namespace Sys2Proof.Proofs

-- One declaration after another, as in the laws: each waiting thread counts against the check's memory.
set_option Elab.async false

open Sys2Proof Sys2Proof.Machine Sys2Proof.Laws

theorem set_get {α : Type} {n : Nat} (v : Vector α n) (i : Fin n) (x : α) : (v.set i x)[i] = x := Vector.getElem_set_self _

theorem set_get_of_ne {α : Type} {n : Nat} (v : Vector α n) {i j : Fin n} (x : α) (h : i ≠ j) : (v.set i x)[j] = v[j] :=
  Vector.getElem_set_ne _ _ fun hij => h (Fin.ext hij)

/-- A state that differs in the scheduler, the Engines, the memories, the caches, the Benches and the free values alone. -/
theorem eq_of_work_frame {s t : State} (h : Frame [.sched, .engines, .mem, .cache, .benches, .free] s t) :
    t = { s with sched := t.sched, engines := t.engines, mem := t.mem, cache := t.cache, benches := t.benches
                 free := t.free } := by
  cases s
  cases t
  simp only [State.mk.injEq, true_and]
  refine ⟨h .power ?_, h .ctrls ?_, h .mold ?_, h .grid ?_, h .ingots ?_, h .search ?_, h .flash ?_, h .links ?_,
    h .pewter ?_, h .errors ?_, h .burnish ?_, h .sec ?_, h .fw ?_, h .bmc ?_, h .dev ?_, h .out ?_, h .clockUs ?_,
    h .pending ?_⟩ <;> decide

/-! ### The charge of time (R77) -/

/-- Two schedulers hold the same credits, the same count of pre-emptions, and the same jobs but for the time charged. -/
structure ChargesOnly (c d : Sched) : Prop where
  credits : d.credits = c.credits
  preemptions : d.preemptions = c.preemptions
  jobs : ∃ f : Job → Job, d.jobs = c.jobs.map f ∧
    ∀ j, (f j).key = j.key ∧ (f j).quenching = j.quenching ∧ (f j).placed = j.placed

namespace ChargesOnly

theorem refl (c : Sched) : ChargesOnly c c := ⟨rfl, rfl, id, (List.map_id _).symm, fun _ => ⟨rfl, rfl, rfl⟩⟩

variable {s t : State} (h : ChargesOnly s.sched t.sched)
include h

theorem quenchingJob (k : Key) : t.quenchingJob k = s.quenchingJob k := by
  obtain ⟨f, hjobs, hf⟩ := h.jobs
  unfold State.quenchingJob
  rw [hjobs, List.any_map]
  congr
  funext j
  obtain ⟨hkey, hquench, -⟩ := hf j
  rw [Function.comp_apply, hkey, hquench]

theorem placed (k : Key) : (t.job k).map Job.placed = (s.job k).map Job.placed := by
  obtain ⟨f, hjobs, hf⟩ := h.jobs
  have hkey : ((fun j : Job => j.key == k) ∘ f) = fun j => j.key == k := by
    funext j
    rw [Function.comp_apply, (hf j).1]
  have hplaced : Job.placed ∘ f = Job.placed := funext fun j => (hf j).2.2
  unfold State.job
  rw [hjobs, List.find?_map, hkey, Option.map_map, hplaced]

theorem partOn (e : EngineId) (k : Key) (u : Nat) : t.partOn e k u = s.partOn e k u := by
  have hp := h.placed k
  cases hs : s.job k with
  | none =>
    rw [hs, Option.map_none, Option.map_eq_none_iff] at hp
    simp only [State.partOn, hs, hp]
  | some i =>
    rw [hs, Option.map_some, Option.map_eq_some_iff] at hp
    obtain ⟨j, hj, hplaced⟩ := hp
    simp only [State.partOn, hs, hj, hplaced]

end ChargesOnly

theorem charge_shape (s : State) (k : Key) (res us : Nat) :
    ∃ c, s.charge k res us = { s with sched := c } ∧ ChargesOnly s.sched c := by
  unfold State.charge
  cases s.job k with
  | none => exact ⟨s.sched, rfl, .refl _⟩
  | some j =>
    dsimp only
    split
    · exact ⟨s.sched, rfl, .refl _⟩
    · refine ⟨_, rfl, rfl, rfl, _, rfl, fun j => ?_⟩
      split_ifs <;> exact ⟨rfl, rfl, rfl⟩

/-- The charge of a run writes the clock of the Engine and, while it runs, the time of its unit. -/
theorem chargeRun_shape (s : State) (e : EngineId) : ∃ (y : Engine) (c : Sched),
    s.chargeRun e = { s with engines := s.engines.set e y, sched := c } ∧ ChargesOnly s.sched c ∧
      y = { s.engines[e] with since := y.since, ctx := { s.engines[e].ctx with ran := y.ctx.ran } } ∧
      (s.engines[e].state ≠ .running → y.ctx = s.engines[e].ctx) := by
  have hself : s = { s with engines := s.engines.set e s.engines[e], sched := s.sched } := by simp
  unfold State.chargeRun
  cases s.engines[e].job with
  | none => exact ⟨_, _, hself, .refl _, rfl, fun _ => rfl⟩
  | some p =>
    dsimp only
    split
    · exact ⟨_, _, hself, .refl _, rfl, fun _ => rfl⟩
    · obtain ⟨c, hc, hcharges⟩ := charge_shape s p.1 e.val (s.clockUs - s.engines[e].since)
      rw [hc]
      refine ⟨_, c, rfl, hcharges, rfl, fun hr => ?_⟩
      simp only [beq_false_of_ne hr, Bool.false_eq_true, if_false, Nat.add_zero]

/-- The charge of an operator writes the clock of its Bench. -/
theorem chargeBench_shape (s : State) (b : BenchId) : ∃ (y : Bench) (c : Sched),
    s.chargeBench b = { s with benches := s.benches.set b y, sched := c } ∧ ChargesOnly s.sched c ∧
      y.job = s.benches[b].job := by
  have hself : s = { s with benches := s.benches.set b s.benches[b], sched := s.sched } := by simp
  unfold State.chargeBench
  cases hjob : s.benches[b].job with
  | none => exact ⟨_, _, hself, .refl _, hjob⟩
  | some k =>
    obtain ⟨c, hc, hcharges⟩ := charge_shape s k (benchRes b) (s.clockUs - s.benches[b].since)
    simp only [hc]
    exact ⟨_, c, rfl, hcharges, hjob⟩

theorem chargeSwitch_shape (s : State) (k : Key) (b : BenchId) :
    ∃ c, s.chargeSwitch k b = { s with sched := c, free := s.free + 1 } ∧ ChargesOnly s.sched c := by
  obtain ⟨c, hc, hcharges⟩ := charge_shape s.fresh.2 k (benchRes b) (s.fresh.1.toNat % 136)
  exact ⟨c, hc, hcharges⟩

/-- A credit that stays is none of those that return. -/
theorem not_of_returned {s : State} {k : Key} {res : Nat} {c : Credit}
    (hc : c ∈ (s.returnCredits fun c => c.key == k && c.res == res).sched.credits) : ¬(c.key = k ∧ c.res = res) := by
  have hkept : (!(c.key == k && c.res == res)) = true := (List.mem_filter.mp hc).2
  rintro ⟨hk, hr⟩
  simp [hk, hr] at hkept

/-! ### Pins (R184, R187) -/

theorem recache_memory_frame (s : State) (q : QuarterId) (f : ModelCache → ModelCache) :
    Frame [.mem, .cache] s (s.recache q f) := by
  have hclear (u : State) (g : Nat) : Frame [.mem, .cache] u (u.clearGranule (.quarter q) g) :=
    (Frame.refl u).step (Frame.mem u _)
  unfold State.recache
  exact ((Frame.foldl _ ((Frame.refl s).step (modCache_frame s q _)) hclear)).step (releaseGranules_frame _ _)

/-- Pins that go take copies out of the caches, and their lines and granules; no Engine loses anything. -/
theorem unpin_memory_frame (s : State) (p : Key × Nat → Bool) : Frame [.mem, .cache] s (s.unpin p) := by
  unfold State.unpin State.dropUnpinned
  exact Frame.foldl _ ((Frame.refl s).step (Frame.cache s _)) fun u q => recache_memory_frame u q _

/-! ### The end of a save (R117, R118) -/

/-- An Engine whose context is kept: idle, with the context last in its list. -/
def contextKept (x : Engine) (c : SavedCtx) : Engine :=
  { x with saved := x.saved ++ [c], job := none, ctx := EngineCtx.fresh, drain := [], vec := [], xfers := []
           tsBuffer := [], state := .idle, wanted := none }

/-- What an Engine keeps of the unit it ran. -/
def contextOf (s : State) (e : EngineId) (k : Key) (u : Nat) (x : Engine) : SavedCtx :=
  { key := k, unit := u, part := s.partOn e k u, sterling := x.sterling, ctx := x.ctx, pins := s.pinsOf k u }

/-- The context is taken from the Engine, its time charged and its credits returned. -/
def contextTaken (s : State) (e : EngineId) (k : Key) (u : Nat) : State :=
  ((s.chargeRun e).returnCredits fun c => c.key == k && c.res == e.val).modEngine e fun x =>
    contextKept x (contextOf s e k u x)

section

variable {s : State} {e : EngineId} {k : Key} {u : Nat}

theorem modJob_credits (s : State) (k : Key) (f : Job → Job) : (s.modJob k f).sched.credits = s.sched.credits := rfl

theorem saveEngine_eq (hj : s.engines[e].job = some (k, u)) :
    ∃ f, s.saveEngine e = ((contextTaken s e k u).unpin fun p => p == (k, u)).modJob k f := by
  simp only [State.saveEngine, hj]
  exact ⟨_, rfl⟩

theorem contextTaken_engines (hs : s.engines[e].state ≠ .running) : ∃ n : Nat, (contextTaken s e k u).engines =
    s.engines.set e (contextKept { s.engines[e] with since := n } (contextOf s e k u s.engines[e])) := by
  obtain ⟨y, c, hcharge, -, hy, hctx⟩ := chargeRun_shape s e
  rw [hctx hs] at hy
  refine ⟨y.since, ?_⟩
  rw [contextTaken, hcharge, hy]
  simp [State.modEngine, State.returnCredits, contextOf]

/-- A save keeps the whole context with its part and pins, leaves the Engine idle and returns its credits; no other Engine
changes. -/
theorem saveEngine_spec (hj : s.engines[e].job = some (k, u)) (hs : s.engines[e].state ≠ .running) :
    (∃ n : Nat, (s.saveEngine e).engines =
      s.engines.set e (contextKept { s.engines[e] with since := n } (contextOf s e k u s.engines[e]))) ∧
      ∀ c ∈ (s.saveEngine e).sched.credits, ¬(c.key = k ∧ c.res = e.val) := by
  obtain ⟨f, hf⟩ := saveEngine_eq hj
  have hframe := unpin_memory_frame (contextTaken s e k u) fun p => p == (k, u)
  rw [hf]
  have hengines : ((contextTaken s e k u).unpin fun p => p == (k, u)).engines = (contextTaken s e k u).engines :=
    hframe .engines (by decide)
  have hsched := sched_of_frame hframe
  refine ⟨?_, fun c hc => not_of_returned (s := s.chargeRun e) ?_⟩
  · rw [modJob_engines, hengines]
    exact contextTaken_engines hs
  · rwa [modJob_credits, hsched] at hc

end

/-- The time of a save is charged and noted. -/
def saveTimed (s : State) (e : EngineId) : State :=
  (s.chargeRun e).modEngine e fun x => { x with lastSave := min (s.clockUs - s.engines[e].switchUs) 65535 }

/-- The Engine once the time of its save is noted. -/
def timedEngine (s : State) (e : EngineId) (n : Nat) : Engine :=
  { s.engines[e] with since := n, lastSave := min (s.clockUs - s.engines[e].switchUs) 65535 }

theorem saveTimed_shape {s : State} {e : EngineId} (hs : s.engines[e].state ≠ .running) : ∃ (n : Nat) (c : Sched),
    saveTimed s e = { s with engines := s.engines.set e (timedEngine s e n), sched := c } ∧ ChargesOnly s.sched c := by
  obtain ⟨y, c, hcharge, hcharges, hy, hctx⟩ := chargeRun_shape s e
  rw [hctx hs] at hy
  refine ⟨y.since, c, ?_, hcharges⟩
  rw [saveTimed, hcharge, hy]
  simp [State.modEngine, timedEngine]

theorem doContextSaveDone_of_not {s : State} {e : EngineId} (h : s.engines[e].state ≠ .saving ∨ s.engines[e].quiet = false) :
    doContextSaveDone e s = s :=
  if_pos (by simpa using h)

section

variable {s : State} {e : EngineId} {k : Key} {u : Nat} (hs : s.engines[e].state = .saving)
  (hj : s.engines[e].job = some (k, u))
include hs hj

/-- What the save of a job that no Quench stops leaves behind. -/
theorem saveDone_spec : ∃ n : Nat, ((saveTimed s e).saveEngine e).engines =
    s.engines.set e (contextKept (timedEngine s e n) (contextOf s e k u s.engines[e])) ∧
      ∀ c ∈ ((saveTimed s e).saveEngine e).sched.credits, ¬(c.key = k ∧ c.res = e.val) := by
  have hnot : s.engines[e].state ≠ .running := by rw [hs]; decide
  obtain ⟨n, c, hv, hcharges⟩ := saveTimed_shape hnot
  have hset : (saveTimed s e).engines = s.engines.set e (timedEngine s e n) := by rw [hv]
  have hget : (saveTimed s e).engines[e] = timedEngine s e n := by rw [hset, set_get]
  have hpart : (saveTimed s e).partOn e k u = s.partOn e k u := by
    rw [hv]
    exact hcharges.partOn e k u
  have hpins : (saveTimed s e).pinsOf k u = s.pinsOf k u := by
    rw [hv]
    rfl
  have hctx : contextOf (saveTimed s e) e k u (timedEngine s e n) = contextOf s e k u s.engines[e] := by
    rw [contextOf, hpart, hpins]
    rfl
  obtain ⟨⟨i, hi⟩, hcredits⟩ := saveEngine_spec (s := saveTimed s e) (u := u) (by rw [hget]; exact hj) (by rw [hget]; exact hnot)
  rw [hget, hctx, hset, Vector.set_set] at hi
  exact ⟨i, hi, hcredits⟩

variable (hq : s.engines[e].quiet = true)
include hq

theorem doContextSaveDone_of_saved : doContextSaveDone e s =
    (if s.quenchingJob k then (saveTimed s e).modEngine e (Engine.dropJob k) else (saveTimed s e).saveEngine e).startNext e := by
  obtain ⟨n, c, hv, hcharges⟩ := saveTimed_shape (s := s) (e := e) (by rw [hs]; decide)
  have hjob : (saveTimed s e).engines[e].job = some (k, u) := by
    rw [hv, set_get, timedEngine, hj]
  have hquench : (saveTimed s e).quenchingJob k = s.quenchingJob k := by
    rw [hv]
    exact hcharges.quenchingJob k
  simp only [doContextSaveDone, hs, hq, bne_self_eq_false, Bool.not_true, Bool.or_self, Bool.false_eq_true, if_false]
  rw [← saveTimed, hjob, ← hquench]

end

/-- A save touches the scheduler, the Engines, the memories and the caches alone. -/
theorem saveDone_eq (s : State) (e : EngineId) : (saveTimed s e).saveEngine e =
    { s with engines := ((saveTimed s e).saveEngine e).engines, cache := ((saveTimed s e).saveEngine e).cache
             mem := ((saveTimed s e).saveEngine e).mem, sched := ((saveTimed s e).saveEngine e).sched } := by
  have hframe : Frame [.sched, .engines, .mem, .cache] s ((saveTimed s e).saveEngine e) :=
    (((Frame.refl s).step (chargeRun_frame s e)).step (modEngine_frame _ e _)).step (saveEngine_frame _ e)
  generalize (saveTimed s e).saveEngine e = t at hframe ⊢
  have hbenches : t.benches = s.benches := hframe .benches (by decide)
  have hfree : t.free = s.free := hframe .free (by decide)
  refine (eq_of_work_frame ((Frame.refl s).step hframe)).trans ?_
  rw [hbenches, hfree]

/-! ### The start of a save, and the end of a load (R87, R88, R118) -/

section

variable {s : State} {e : EngineId} {next : Option Key}

theorem preempt_of_idle (hr : s.engines[e].state ≠ .running) (hl : s.engines[e].state ≠ .restoring) :
    s.preempt e next = s := by
  simp only [State.preempt, bne_iff_ne.mpr hr, beq_false_of_ne hl, Bool.false_eq_true, if_true, if_false]

theorem preempt_of_restoring (hl : s.engines[e].state = .restoring) :
    s.preempt e next = s.modEngine e fun x => { x with wanted := next } := by
  have hr : (EngineState.restoring != .running) = true := by decide
  simp only [State.preempt, hl, hr, beq_self_eq_true, if_true]

theorem preempt_of_running (hr : s.engines[e].state = .running) : s.preempt e next =
    if s.engines[e].ctx.npOpen.isNone && !s.semBlocked (s.engines[e].job.map fun p => p.1) next then
      ((s.chargeRun e).modEngine e fun x =>
        { x with state := .saving, switchUs := (s.chargeRun e).clockUs, wanted := none }).countSwitch
    else s.modEngine e fun x => { x with wanted := next } := by
  simp only [State.preempt, hr, bne_self_eq_false, Bool.false_eq_true, if_false]

theorem preempt_of_held (hr : s.engines[e].state = .running)
    (h : s.engines[e].ctx.npOpen ≠ none ∨ s.semBlocked (s.engines[e].job.map fun p => p.1) next = true) :
    s.preempt e next = s.modEngine e fun x => { x with wanted := next } := by
  rw [preempt_of_running hr]
  exact if_neg (by simpa [Option.isNone_iff_eq_none, imp_iff_not_or] using h)

/-- The save starts, the time of the run charged, and the switch is counted. -/
theorem preempt_of_free (hr : s.engines[e].state = .running) (hnp : s.engines[e].ctx.npOpen = none)
    (hsem : s.semBlocked (s.engines[e].job.map fun p => p.1) next = false) : ∃ (y : Engine) (c : Sched),
    s.preempt e next = { s with engines := s.engines.set e y, sched := c } ∧
      y = { s.engines[e] with state := .saving, switchUs := s.clockUs, wanted := none, since := y.since
                              ctx := { s.engines[e].ctx with ran := y.ctx.ran } } ∧
      c.preemptions = satAdd 32 s.sched.preemptions 1 := by
  obtain ⟨y, c, hcharge, hcharges, hy, -⟩ := chargeRun_shape s e
  have hgo : (s.engines[e].ctx.npOpen.isNone && !s.semBlocked (s.engines[e].job.map fun p => p.1) next) = true := by
    rw [hnp, hsem]
    rfl
  rw [preempt_of_running hr, if_pos hgo, hcharge]
  refine ⟨{ y with state := .saving, switchUs := s.clockUs, wanted := none },
    { c with preemptions := satAdd 32 c.preemptions 1 }, ?_, ?_, ?_⟩
  · simp [State.modEngine, State.countSwitch]
  · rw [hy]
  · rw [hcharges.preemptions]

theorem doContextRestoreDone_of_restoring {k : Key} {u : Nat} (hl : s.engines[e].state = .restoring)
    (hj : s.engines[e].job = some (k, u)) : doContextRestoreDone e s =
      ((s.chargeRun e).modEngine e fun x =>
        { x with state := .running, lastLoad := min (s.clockUs - s.engines[e].switchUs) 65535 }).retryPreempt e := by
  simp only [doContextRestoreDone, hl, hj]

theorem doContextRestoreDone_of_not (h : s.engines[e].state ≠ .restoring ∨ s.engines[e].job = none) :
    doContextRestoreDone e s = s := by
  unfold doContextRestoreDone
  split
  · next hl hj =>
    obtain h | h := h
    · exact absurd hl h
    · exact absurd (h.symm.trans hj) (Option.some_ne_none _).symm
  · rfl

end

/-! ### A Bench gives up its job (R77, R89) -/

/-- The time of the operator is charged and its credits return. -/
def benchReleased (s : State) (b : BenchId) (k : Key) : State :=
  (s.chargeBench b).returnCredits fun c => c.key == k && c.res == benchRes b

theorem benchReleased_shape (s : State) (b : BenchId) (k : Key) : ∃ (y : Bench) (c : Sched),
    benchReleased s b k = { s with benches := s.benches.set b y, sched := c } ∧ y.job = s.benches[b].job ∧
      c.preemptions = s.sched.preemptions ∧ (∀ x ∈ c.credits, ¬(x.key = k ∧ x.res = benchRes b)) ∧
      (benchReleased s b k).quenchingJob k = s.quenchingJob k := by
  obtain ⟨y, c, hcharge, hcharges, hjob⟩ := chargeBench_shape s b
  have hrel : benchReleased s b k = { s with
      benches := s.benches.set b y
      sched := { c with credits := c.credits.filter fun c => !(c.key == k && c.res == benchRes b) } } := by
    rw [benchReleased, hcharge, State.returnCredits]
  refine ⟨y, _, hrel, hjob, hcharges.preemptions,
    fun x hx => not_of_returned (s := { s with sched := c }) hx, ?_⟩
  rw [hrel]
  exact ChargesOnly.quenchingJob (t := { s with sched := c }) hcharges k

theorem dropJob_job {y : Bench} {k : Key} (hy : y.job = some k) : (y.dropJob k).job = none := by
  simp only [Bench.dropJob, hy, beq_self_eq_true, if_true]

/-- A Bench whose operator state is kept. -/
def freedBench (y : Bench) : Bench := { y with job := none, state := if y.state == .failed then .failed else .idle }

section

variable {s : State} {b : BenchId}

theorem doBenchPreempt_of_free (hj : s.benches[b].job = none) : doBenchPreempt b s = s := by
  simp only [doBenchPreempt, hj]

variable {k : Key} (hj : s.benches[b].job = some k)
include hj

theorem doBenchPreempt_of_job : doBenchPreempt b s =
    if s.semBlocked (some k) ((s.chooseOn (benchRes b) (s.waitingOnBench b)).map fun p => p.1.key) then s
    else (s.drainBench b).startNextBench b := by
  simp only [doBenchPreempt, hj]

theorem drainBench_of_quenching (hq : (benchReleased s b k).quenchingJob k = true) :
    s.drainBench b = (benchReleased s b k).modBench b (Bench.dropJob k) := by
  simp only [State.drainBench, hj]
  exact if_pos hq

theorem drainBench_of_kept (hq : (benchReleased s b k).quenchingJob k = false) : ∃ f : Job → Job,
    s.drainBench b = ((((benchReleased s b k).chargeSwitch k b).countSwitch).modBench b freedBench).modJob k f := by
  simp only [State.drainBench, hj]
  exact ⟨_, if_neg (Bool.eq_false_iff.mp hq)⟩

/-- The Bench is free and its credits are back; a switch is counted where no Quench stops the job (R89). -/
theorem drainBench_spec : ∃ z : Bench, (s.drainBench b).benches = s.benches.set b z ∧ z.job = none ∧
    (s.drainBench b).sched.preemptions =
      (if s.quenchingJob k = true then s.sched.preemptions else satAdd 32 s.sched.preemptions 1) ∧
    ∀ c ∈ (s.drainBench b).sched.credits, ¬(c.key = k ∧ c.res = benchRes b) := by
  obtain ⟨y, c, hrel, hjob, hpreempt, hcredits, hquench⟩ := benchReleased_shape s b k
  by_cases hq : s.quenchingJob k = true
  · rw [drainBench_of_quenching hj (hquench.trans hq), hrel, if_pos hq]
    refine ⟨y.dropJob k, ?_, dropJob_job (hjob.trans hj), hpreempt, hcredits⟩
    simp [State.modBench]
  · obtain ⟨f, hf⟩ := drainBench_of_kept hj (hquench.trans (Bool.eq_false_iff.mpr hq))
    obtain ⟨d, hswitch, hcharges⟩ := chargeSwitch_shape (benchReleased s b k) k b
    rw [hrel] at hcharges
    rw [hf, hswitch, hrel, if_neg hq]
    refine ⟨freedBench y, ?_, rfl, congrArg (satAdd 32 · 1) (hcharges.preemptions.trans hpreempt),
      fun x hx => hcredits x (hcharges.credits ▸ hx)⟩
    simp [State.modBench, State.modJob, State.countSwitch]

end

/-- A Bench that gives up its job touches the Benches, the scheduler and the free values alone. -/
theorem drainBench_eq (s : State) (b : BenchId) : s.drainBench b =
    { s with benches := (s.drainBench b).benches, sched := (s.drainBench b).sched, free := (s.drainBench b).free } := by
  have hframe := drainBench_frame s b
  generalize s.drainBench b = t at hframe ⊢
  have hengines : t.engines = s.engines := hframe .engines (by decide)
  have hmem : t.mem = s.mem := hframe .mem (by decide)
  have hcache : t.cache = s.cache := hframe .cache (by decide)
  refine (eq_of_work_frame ((Frame.refl s).step hframe)).trans ?_
  rw [hengines, hmem, hcache]

end Sys2Proof.Proofs

/-! PROOFS. Units are placed, pre-empted, saved and restored (R87, R88, R93, R117, R118, R194, R206). -/

namespace Sys2Proof.Proofs

-- One declaration after another, as in the laws: each waiting thread counts against the check's memory.
set_option Elab.async false

open Sys2Proof Sys2Proof.Machine Sys2Proof.Laws

/-! ### Placement (R93, R206) -/

/-- A decode step counts its first unit (R93). -/
def stepCounted (s : State) (k : Key) (j : Job) : State :=
  if j.decoding = true ∧ j.unitsDone = [] ∧ j.placed = [] then s.modJob k fun j => { j with decoded := j.decoded + 1 } else s

/-- A unit has its place, and the time of the Engine is charged. -/
def unitPlaced (s : State) (k : Key) (p : Placed) (e : EngineId) : State :=
  (s.modJob k fun j => { j with placed := j.placed ++ [p] }).chargeRun e

theorem placeOn_eq (s : State) (e : EngineId) (k : Key) (cls u : Nat) (p : Machine.Part) (hinted : Bool) :
    let t := unitPlaced s k { unit := u, engine := some e, bench := none, part := p, hinted := hinted } e
    s.placeOn e k cls u p hinted =
      if t.engines[e].state = .idle then t.startNext e
      else if t.freeFor e cls = true ∧ t.overtaken e = true then t.preempt e (some k)
      else t := by
  simp only [State.placeOn, beq_iff_eq, Bool.and_eq_true]
  rfl

theorem parts_of_whole {x : UnitEntry} (hs : x.splittable = false) (s : State) (j : Job) (u : Nat) (es : List EngineId)
    (e : EngineId) : s.parts j x u es e = ([(e, Machine.Part.whole)], s) := by
  simp only [State.parts, hs, Bool.false_and, Bool.false_eq_true, if_false]

section

variable {s : State} {k : Key} {u : Nat} {m : Mold} {j : Job} (hm : s.mold.mold = some m) (hj : s.job k = some j)
include hm hj

theorem doUnitPlacement_of_not_placeable (h : s.placeable j u = false) : doUnitPlacement k u s = s := by
  simp only [doUnitPlacement, State.theMold, hm, hj, h, Bool.not_false, Bool.true_or, if_true]
  split <;> rfl

variable {h : Shop} (hh : m.shop j.shop = some h)
include hh

theorem doUnitPlacement_of_decodeDue (hp : j.prefilling = true) (hd : s.decodeDue m h = true) :
    doUnitPlacement k u s = s := by
  simp only [doUnitPlacement, State.theMold, hm, hj, hh, hp, hd, Bool.and_self, Bool.or_true, if_true]

/-- A unit that needs one Engine takes the Engine picked, or waits where none is allowed (R206). -/
theorem doUnitPlacement_of_engine {op : Nat} {x : UnitEntry} (hx : (s.unitEntry j u).getD plainUnit = x)
    (hp : s.placeable j u = true) (hd : j.prefilling = false ∨ s.decodeDue m h = false) (hk : j.kind = .operator op)
    (hb : benchOp op = false) (h3 : x.kind ≠ 3) (hs : x.splittable = false) (hu : s.unplacedPart j u = none)
    (hf : ∃ f ∈ h.engines, s.pinsFit (quarterOfEngine f) x.pinned = true) :
    doUnitPlacement k u s = (s.pickEngine j x (s.masked j (s.unitEngines m h j x))).elim s fun f =>
      (stepCounted s k j).placeOn f k j.workCls u Machine.Part.whole (s.hintMoves m h j x f) := by
  have hdue : (j.prefilling && s.decodeDue m h) = false := Bool.and_eq_false_iff.mpr hd
  have hpins : (h.engines.any fun e => s.pinsFit (quarterOfEngine e) x.pinned) = true := List.any_eq_true.mpr hf
  simp only [doUnitPlacement, State.theMold, hm, hj, hh, hx, hp, hdue, hk, hb, beq_false_of_ne h3, hpins, hu, parts_of_whole hs,
    Option.any_none, Option.isNone_none, Bool.not_true, Bool.not_false, Bool.or_self, Bool.or_true, Bool.and_true,
    Bool.false_eq_true, if_false, List.filter_true, List.foldl_cons, List.foldl_nil, Bool.and_eq_true, List.isEmpty_iff,
    and_assoc]
  cases s.pickEngine j _ _ <;> rfl

end

/-- Settles O36: the placement by what may be placed and the Engine picked, the pre-emption by the state of the Engine, the
save and the load by their ends, and the Bench by its job. -/
theorem unitsArePlacedSavedAndRestored : Obligations.UnitsArePlacedSavedAndRestored := by
  intro s k u e b
  refine ⟨fun m j hm hj hp => next_eq (doUnitPlacement_of_not_placeable hm hj hp),
    fun m j h hm hj hh hp hd => next_eq (doUnitPlacement_of_decodeDue hm hj hh hp hd), ?_, ?_, fun hs hq hj => ⟨?_, ?_⟩,
    fun h => next_eq (doContextSaveDone_of_not h), fun hl hj => next_eq (doContextRestoreDone_of_restoring hl hj),
    fun h => next_eq (doContextRestoreDone_of_not h), fun hj => next_eq (doBenchPreempt_of_free hj), fun hj => ⟨?_, ?_⟩⟩
  -- a unit that needs one Engine
  · intro m j h op hm hj hh hp hd hk hb x h3 hs hu hf
    have hplace := doUnitPlacement_of_engine hm hj hh rfl hp hd hk hb h3 hs hu hf
    split
    · next hnone =>
      rw [hnone] at hplace
      exact next_eq hplace
    · next f hsome =>
      rw [hsome] at hplace
      exact next_eq (hplace.trans (placeOn_eq ..))
  -- the pre-emption of an Engine
  · refine ⟨fun hr hnp hsem => ?_, fun hr h => next_eq (preempt_of_held hr h),
      fun hl => next_eq (preempt_of_restoring hl), fun hr hl => next_eq (preempt_of_idle hr hl)⟩
    obtain ⟨y, c, hgo, hy, hc⟩ := preempt_of_free hr hnp hsem
    refine ⟨_, next_eq hgo, ?_, hc, ?_⟩
    · rw [set_get]
      exact hy
    · rw [set_get]
  -- the end of a save
  · intro hquench
    exact next_eq ((doContextSaveDone_of_saved hs hj hq).trans (congrArg (State.startNext · e) (if_pos hquench)))
  · intro hquench
    obtain ⟨n, hset, hcredits⟩ := saveDone_spec hs hj
    refine ⟨(saveTimed s e).saveEngine e, next_eq ((doContextSaveDone_of_saved hs hj hq).trans
      (congrArg (State.startNext · e) (if_neg (Bool.eq_false_iff.mp hquench)))), ?_, ?_, ?_, ?_, fun f hf => ?_, hcredits,
      saveDone_eq s e⟩
    · rw [hset, set_get, contextKept]
    · rw [hset, set_get, contextKept]
    · rw [hset, set_get, modEngine_get]
      rfl
    · rw [hset, set_get]
      rfl
    · rw [hset, set_get_of_ne _ _ hf.symm]
  -- the pre-emption of a Bench
  · exact fun hsem => next_eq ((doBenchPreempt_of_job hj).trans (if_pos hsem))
  · intro hsem
    obtain ⟨z, hbenches, hz, hpreempt, hcredits⟩ := drainBench_spec hj
    refine ⟨s.drainBench b, next_eq ((doBenchPreempt_of_job hj).trans (if_neg (Bool.eq_false_iff.mp hsem))), ?_, hpreempt,
      hcredits, fun c hc => ?_, ?_⟩
    · rw [hbenches, set_get, hz]
    · rw [hbenches, set_get_of_ne _ _ hc.symm]
    · exact drainBench_eq s b

end Sys2Proof.Proofs

/-! PROOFS. Values into the accumulator store, and what a store reads back (R107, R109, R171 to R173). -/

namespace Sys2Proof.Proofs

-- One declaration after another, as in the laws: each waiting thread counts against the check's memory.
set_option Elab.async false

open Sys2Proof Sys2Proof.Machine Sys2Proof.Laws

/-! ### Cells -/

theorem cellRead_cons (c : Host.Cell) (cs : List Host.Cell) (a : Nat) :
    cellRead (c :: cs) a = if c.1 = a then c.2 else cellRead cs a := by
  simp only [cellRead, beq_iff_eq]

/-- An address below every cell is not listed. -/
theorem cellRead_of_below {cs : List Host.Cell} {a : Nat} (h : ∀ c ∈ cs, a < c.1) : cellRead cs a = 0 := by
  induction cs with
  | nil => rfl
  | cons c cs ih =>
    obtain ⟨hc, hcs⟩ := List.forall_mem_cons.mp h
    rw [cellRead_cons, if_neg (Nat.ne_of_gt hc), ih hcs]

theorem cellRead_filter (p : Nat → Bool) (cs : List Host.Cell) (a : Nat) :
    cellRead (cs.filter fun c => !p c.1) a = if p a then 0 else cellRead cs a := by
  induction cs with
  | nil => simp only [List.filter_nil, cellRead, ite_self]
  | cons c cs ih =>
    rw [cellRead_cons, List.filter_cons]
    by_cases hc : c.1 = a
    · subst hc
      cases hp : p c.1
      · simp [cellRead_cons]
      · simp [ih, hp]
    · cases hp : p c.1
      · simp [cellRead_cons, hc, ih]
      · simp [hc, ih]

/-- A byte listed in front of cells that do not name its address; a zero stays unlisted. -/
theorem cellRead_put {a : Nat} {cs : List Host.Cell} (h : cellRead cs a = 0) (v : Byte) (b : Nat) :
    cellRead (if v == 0 then cs else (a, v) :: cs) b = if a = b then v else cellRead cs b := by
  split
  · next hv =>
    rw [eq_of_beq hv]
    split
    · next hab => rw [← hab, h]
    · rfl
  · rw [cellRead_cons]

/-- In rising cells a write changes its own address alone. -/
theorem cellRead_cellWrite (a b : Nat) (v : Byte) {cs : List Host.Cell} (h : cellsWf cs = true) :
    cellRead (cellWrite a v cs) b = if a = b then v else cellRead cs b := by
  induction cs with
  | nil => exact cellRead_put rfl v b
  | cons c cs ih =>
    obtain ⟨-, hbelow, hcs⟩ := (cellsWf_cons c cs).mp h
    rw [cellWrite]
    rcases lt_trichotomy a c.1 with hlt | heq | hgt
    · rw [if_pos hlt]
      exact cellRead_put (cellRead_of_below (List.forall_mem_cons.mpr ⟨hlt, fun d hd => hlt.trans (hbelow d hd)⟩)) v b
    · have hnone : cellRead cs a = 0 := cellRead_of_below (heq ▸ hbelow)
      rw [if_neg heq.not_lt, if_pos (beq_iff_eq.mpr heq), cellRead_put hnone, cellRead_cons, ← heq]
      split <;> rfl
    · rw [if_neg hgt.not_gt, if_neg fun hac => hgt.ne' (eq_of_beq hac), cellRead_cons, cellRead_cons, ih hcs]
      split
      · next hcb => rw [if_neg (hcb ▸ hgt.ne')]
      · rfl

/-! ### Stores (R171 to R173) -/

theorem store_read_invalidate (line : Nat) (m : Store) (p : Nat → Bool) (b : Nat) :
    (m.invalidate line p).read b = if p (b / line) then 0 else m.read b :=
  cellRead_filter (fun a => p (a / line)) m.cells b

section

variable {line : Nat} {m : Store} (h : m.wf line = true)
include h

theorem store_read_write (a b : Nat) (v : Byte) : (m.write line a v).read b = if a = b then v else m.read b :=
  cellRead_cellWrite a b v ((store_wf_iff line m).mp h).1

/-- Bytes outside a write read as before. -/
theorem store_read_writeBytes_of_outside (a b : Nat) (bs : List Byte) (hb : b < a ∨ a + bs.length ≤ b) :
    (m.writeBytes line a bs).read b = m.read b := by
  induction bs generalizing m a with
  | nil => rfl
  | cons v bs ih =>
    rw [List.length_cons] at hb
    have hne : a ≠ b := by omega
    calc ((m.write line a v).writeBytes line (a + 1) bs).read b
        = (m.write line a v).read b := ih (store_write_wf a v h) (a + 1) (by omega)
      _ = m.read b := by rw [store_read_write h, if_neg hne]

/-- A write of whole bytes reads back in order: the first byte is outside the rest of the write. -/
theorem store_readBytes_writeBytes (a : Nat) (bs : List Byte) : (m.writeBytes line a bs).readBytes a bs.length = bs := by
  induction bs generalizing m a with
  | nil => rfl
  | cons v bs ih =>
    have hw := store_write_wf a v h
    have hfirst : ((m.write line a v).writeBytes line (a + 1) bs).read a = v := by
      rw [store_read_writeBytes_of_outside hw (a + 1) a bs (.inl (Nat.lt_succ_self a)), store_read_write h, if_pos rfl]
    exact congrArg₂ List.cons hfirst (ih hw (a + 1))

end

/-! ### Values into a tile (R107, R109) -/

theorem drainValue_of_clear {o : ArrayOp} (h : o.clear = true) (old new : Word32) : drainValue o old new = (new, 0, 0) := by
  simp only [drainValue, h, if_true]

/-- An INT32 accumulation clamps the exact sum, which counts as one event where it leaves the range. -/
theorem drainValue_of_int {o : ArrayOp} (h : o.clear = false) (hf : o.accFmt = 9) (old new : Word32) :
    (drainValue o old new).1.toInt = max (-(2 ^ 31)) (min (2 ^ 31 - 1) (old.toInt + new.toInt)) ∧
    ((drainValue o old new).2.1 =
      if -(2 ^ 31) ≤ old.toInt + new.toInt ∧ old.toInt + new.toInt ≤ 2 ^ 31 - 1 then 0 else 1) ∧
    (drainValue o old new).2.2 = 0 := by
  simp only [drainValue, h, hf, Bool.false_eq_true, if_false, beq_self_eq_true, if_true]
  generalize old.toInt + new.toInt = v
  by_cases hlow : v < -(2 ^ 31)
  · have hmin : (0x80000000 : Word32).toInt = -(2 ^ 31) := by decide
    simp only [hlow, if_true, hmin]
    exact ⟨by omega, (if_neg (by omega)).symm, trivial⟩
  · by_cases hhigh : v > 2 ^ 31 - 1
    · have hmax : (0x7FFFFFFF : Word32).toInt = 2 ^ 31 - 1 := by decide
      simp only [hlow, hhigh, if_true, if_false, hmax]
      exact ⟨by omega, (if_neg (by omega)).symm, trivial⟩
    · have hself : (BitVec.ofInt 32 v).toInt = v := BitVec.toInt_ofInt_eq_self (by decide) (by omega) (by omega)
      simp only [hlow, hhigh, if_false, hself]
      exact ⟨by omega, (if_pos (by omega)).symm, trivial⟩

theorem drainValue_of_float {o : ArrayOp} (h : o.clear = false) (hf : o.accFmt ≠ 9) (old new : Word32) :
    drainValue o old new = (BitVec.ofNat 32 (fmtFp32.encode ((f32v old).add (f32v new)) false).1, 0,
      b2n (fmtFp32.encode ((f32v old).add (f32v new)) false).2) := by
  simp only [drainValue, h, beq_eq_false_iff_ne.mpr hf, Bool.false_eq_true, if_false, accAdd, roundAcc, Nat.zero_add]

/-- Settles O46: a value by what the word accumulates, and a store by the rules of its cells. -/
theorem accumulationAndStores : Obligations.AccumulationAndStores := by
  refine ⟨fun o old new => ⟨fun h => drainValue_of_clear h old new, fun h hf => drainValue_of_int h hf old new,
    fun h hf => drainValue_of_float h hf old new⟩, fun line m a b v bs p _ =>
    ⟨store_read_invalidate line m p b, rfl, fun h => ⟨?_, fun hb => ?_, store_readBytes_writeBytes h a bs,
      store_read_writeBytes_of_outside h a b bs⟩⟩⟩
  · rw [store_read_write h, if_pos rfl]
  · rw [store_read_write h, if_neg hb.symm]

end Sys2Proof.Proofs

/-! PROOFS. Array instructions of an Engine: their faults, what holds them back, the issue, the feeder and the last write
(R98 to R103, R107, R108, R116, R136, R143). -/

namespace Sys2Proof.Proofs

-- One declaration after another, as in the laws: each waiting thread counts against the check's memory.
set_option Elab.async false

open Sys2Proof Sys2Proof.Machine Sys2Proof.Laws

/-! ### What an event of a cause leaves alone (R162) -/

section

variable (c : EngineCtx) (cause n word : Nat)

@[simp] theorem flagBy_operand : (c.flagBy cause n word).operand = c.operand := by unfold EngineCtx.flagBy; split <;> rfl
@[simp] theorem flagBy_acc : (c.flagBy cause n word).acc = c.acc := by unfold EngineCtx.flagBy; split <;> rfl
@[simp] theorem flagBy_slots : (c.flagBy cause n word).slots = c.slots := by unfold EngineCtx.flagBy; split <;> rfl
@[simp] theorem flagBy_active : (c.flagBy cause n word).active = c.active := by unfold EngineCtx.flagBy; split <;> rfl
@[simp] theorem flagBy_shadow : (c.flagBy cause n word).shadow = c.shadow := by unfold EngineCtx.flagBy; split <;> rfl
@[simp] theorem flagBy_pc : (c.flagBy cause n word).pc = c.pc := by unfold EngineCtx.flagBy; split <;> rfl

end

/-! ### The issue of an instruction (R98, R102, R103) -/

/-- The instruction swaps the weight registers: on a SHADOW Engine, unless it uses the active weights again. -/
def swapsWeights (x : Engine) (sl : Slot) : Bool := !x.broadcast && !(arrayOp sl.word).reuseB

/-- The weights an instruction computes with. -/
def usedWeights (x : Engine) (sl : Slot) : CellGrid :=
  if x.broadcast then sl.b else if swapsWeights x sl then loadCells x.ctx.shadow sl.b else x.ctx.active

theorem usedWeights_of_swap {x : Engine} {sl : Slot} (h : swapsWeights x sl = true) :
    usedWeights x sl = loadCells x.ctx.shadow sl.b := by
  have hmode : x.broadcast = false := by
    rw [swapsWeights, Bool.and_eq_true, Bool.not_eq_true'] at h
    exact h.1
  simp only [usedWeights, h, hmode, Bool.false_eq_true, if_false, if_true]

/-- An instruction issued whole: the slot is freed, the weights are swapped where it swaps, its rows join the drain queue last,
and the stores, the state, the job and the vector queue stay. -/
structure Issued (c : RateClass) (sl : Slot) (x y : Engine) : Prop where
  slots : y.ctx.slots = x.ctx.slots.drop 1
  pc : y.ctx.pc = x.ctx.pc + 1
  drain : ∃ d : DrainEntry, y.drain = x.drain ++ [d] ∧ d.word = sl.word ∧
    d.rows = ((arrayOp sl.word).compute x.broadcast c sl (usedWeights x sl)).rows
  active : y.ctx.active = if swapsWeights x sl then loadCells x.ctx.shadow sl.b else x.ctx.active
  shadow : y.ctx.shadow = if swapsWeights x sl then x.ctx.active else x.ctx.shadow
  acc : y.ctx.acc = x.ctx.acc
  operand : y.ctx.operand = x.ctx.operand
  state : y.state = x.state
  job : y.job = x.job
  vec : y.vec = x.vec
  drainStall : y.drainStall = x.drainStall

theorem issued_of_issue (x : Engine) (c : RateClass) (sl : Slot) : Issued c sl x (x.issue c sl) := by
  have hactive : (if swapsWeights x sl then usedWeights x sl else x.ctx.active) =
      if swapsWeights x sl then loadCells x.ctx.shadow sl.b else x.ctx.active :=
    ite_congr rfl usedWeights_of_swap fun _ => rfl
  unfold Engine.issue Engine.count
  cases x.countEn <;> simp only [Bool.false_eq_true, if_false, if_true] <;>
    exact ⟨by simp only [flagBy_slots], by simp only [flagBy_pc], ⟨_, rfl, rfl, rfl⟩,
      by simp only [flagBy_active]; exact hactive, by simp only [flagBy_shadow]; rfl, by simp only [flagBy_acc],
      by simp only [flagBy_operand], rfl, rfl, rfl, rfl⟩

/-- A sampling changes the Touchstone buffer and its counters. -/
theorem sample_shape (x : Engine) (k : Key) (u n : Nat) (o : ArrayOp) (sl : Slot) :
    ∃ (buffer : List Sample) (samples : Nat) (locals : List JobLocal),
      x.sample k u n o sl = { x with tsBuffer := buffer, tsSamples := samples, locals := locals } := by
  unfold Engine.sample
  split <;> exact ⟨_, _, _, rfl⟩

theorem issued_of_issue_sample (x : Engine) (c : RateClass) (k : Key) (u n : Nat) (o : ArrayOp) (sl : Slot) :
    Issued c sl x ((x.issue c sl).sample k u n o sl) := by
  obtain ⟨buffer, samples, locals, hsample⟩ := sample_shape (x.issue c sl) k u n o sl
  have h := issued_of_issue x c sl
  rw [hsample]
  exact ⟨h.slots, h.pc, h.drain, h.active, h.shadow, h.acc, h.operand, h.state, h.job, h.vec, h.drainStall⟩

/-! ### An instruction at the head of issue (R98 to R101) -/

/-- The opcode of an array row (1 for MMA_WS, 2 for MMA_OS) stands in the word that issues. -/
def rowWord (w : BitVec 128) (op : Nat) : BitVec 128 := BitVec.ofNat 128 (w.toNat - w.toNat % 256 + op)

/-- An attempt held back counts one cycle in a stall counter of an Engine that counts (log 32). -/
def stall (s : State) (e : EngineId) (f : Engine → Engine) : State := s.modEngine e fun x => if x.countEn then f x else x

def feedStalled (x : Engine) : Engine := { x with feedStall := (x.feedStall + 1) % 2 ^ 64 }
def drainStalled (x : Engine) : Engine := { x with drainStall := (x.drainStall + 1) % 2 ^ 64 }
def sbStalled (x : Engine) : Engine := { x with sbStall := (x.sbStall + 1) % 2 ^ 64 }

theorem doMma_of_idle {s : State} {e : EngineId} (h : s.executes e = none) (op : Nat) (w : BitVec 128) : doMma op e w s = s := by
  simp only [doMma, h]

section

variable {s : State} {e : EngineId} {k : Key} (h : s.executes e = some k) {w : BitVec 128} (op : Nat)
include h

theorem doMma_of_fault {r : Nat} (hf : arrayFault s.engines[e].broadcast (arrayOp w) s.engines[e].ctx.mask = some r) :
    doMma op e w s = s.engineFault e k r op := by
  simp only [doMma, h, hf]

variable (hf : arrayFault s.engines[e].broadcast (arrayOp w) s.engines[e].ctx.mask = none) {a : Nat} {c : RateClass}
  (hp : formatPair (arrayOp w).aFmt (arrayOp w).bFmt = some (a, c))
include hf hp

theorem doMma_of_no_slot (hs : s.engines[e].ctx.slots = []) : doMma op e w s = stall s e feedStalled := by
  simp only [doMma, h, hf, hp, hs, List.head?_nil]
  rfl

variable {sl : Slot} {rest : List Slot} (hs : s.engines[e].ctx.slots = sl :: rest)
include hs

theorem doMma_of_other_slot (hw : sl.word ≠ w) : doMma op e w s = stall s e feedStalled := by
  simp only [doMma, h, hf, hp, hs, List.head?_cons, bne_iff_ne.mpr hw, if_true]
  rfl

variable (hw : sl.word = w)
include hw

theorem doMma_of_skew {d : Skew} (hd : firstSkew sl.skew (recordSkew s.engines[e] (arrayOp w) sl) = some d) :
    doMma op e w s = s.skewFault e k op d := by
  simp only [doMma, h, hf, hp, hs, List.head?_cons, hw, bne_self_eq_false, Bool.false_eq_true, if_false, hd]

variable (hskew : sl.skew = none) (hrec : recordSkew s.engines[e] (arrayOp w) sl = none)
include hskew hrec

theorem doMma_of_drain_full (hd : 4 ≤ s.engines[e].drain.length) : doMma op e w s = stall s e drainStalled := by
  simp only [doMma, h, hf, hp, hs, List.head?_cons, hw, bne_self_eq_false, Bool.false_eq_true, if_false, hskew, hrec, firstSkew,
    ge_iff_le, hd, if_true]
  rfl

variable (hd : s.engines[e].drain.length < 4)
include hd

theorem doMma_of_hazard (hz : s.engines[e].arrayHazard e
    (tileUnits (arrayOp w).shape (arrayOp w).tile (arrayOp w).tiles) = true) : doMma op e w s = stall s e sbStalled := by
  simp only [doMma, h, hf, hp, hs, List.head?_cons, hw, bne_self_eq_false, Bool.false_eq_true, if_false, hskew, hrec, firstSkew,
    ge_iff_le, Nat.not_le.mpr hd, hz, if_true]
  rfl

theorem doMma_of_free (hz : s.engines[e].arrayHazard e
    (tileUnits (arrayOp w).shape (arrayOp w).tile (arrayOp w).tiles) = false) :
    ∃ y, doMma op e w s = { s with engines := s.engines.set e y } ∧ Issued c sl s.engines[e] y := by
  simp only [doMma, h, hf, hp, hs, List.head?_cons, hw, bne_self_eq_false, Bool.false_eq_true, if_false, hskew, hrec, firstSkew,
    ge_iff_le, Nat.not_le.mpr hd, hz]
  exact ⟨_, rfl, issued_of_issue_sample ..⟩

end

/-! ### The feeder (R99) -/

theorem doFeederFill_of_idle {s : State} {e : EngineId} (h : s.executes e = none) (w : BitVec 128) : doFeederFill e w s = s := by
  simp only [doFeederFill, h]

section

variable {s : State} {e : EngineId} {k : Key} (h : s.executes e = some k) {w : BitVec 128}
include h

theorem doFeederFill_of_held (hx : 2 ≤ s.engines[e].ctx.slots.length ∨
    meets (arrayOp w).granules (s.engines[e].busyGranules e) = true) : doFeederFill e w s = s := by
  simp only [doFeederFill, h, ge_iff_le, Bool.or_eq_true, decide_eq_true_eq]
  exact if_pos (hx.imp_left fun hx => .inl (.inl hx))

theorem doFeederFill_of_free (hn : s.engines[e].ctx.slots.length < 2) (hop : (arrayOp w).op = 1 ∨ (arrayOp w).op = 2)
    (hf : arrayFault s.engines[e].broadcast (arrayOp w) s.engines[e].ctx.mask = none)
    (hb : meets (arrayOp w).granules (s.engines[e].busyGranules e) = false) : doFeederFill e w s =
      match s.operandUe e (arrayOp w) with
      | some a => s.scratchUe e k 0 a
      | none => s.modEngine e fun x => { x with ctx := { x.ctx with slots := x.ctx.slots ++ [stageSlot x.ctx w] } } := by
  have hop : ((arrayOp w).op == 1 || (arrayOp w).op == 2) = true := by simpa using hop
  simp only [doFeederFill, h, ge_iff_le, Nat.not_le.mpr hn, decide_false, hop, hf, hb, Bool.not_true, Option.isSome_none,
    Bool.or_self, Bool.false_eq_true, if_false] <;> rfl

end

/-! ### The last write (R100, R107, R109, R136) -/

theorem writeRecords_fields (c : EngineCtx) (d : DrainEntry) :
    (c.writeRecords d).acc = c.acc ∧ (c.writeRecords d).operand = c.operand := by
  unfold EngineCtx.writeRecords
  dsimp only
  split <;> exact ⟨rfl, rfl⟩

/-- The oldest instruction has left the drain queue, its rows written into the accumulator store. -/
structure LastWritten (d : DrainEntry) (rest : List DrainEntry) (x y : Engine) : Prop where
  drain : y.drain = rest
  acc : y.ctx.acc = (d.rows.zipIdx.foldl (drainRow (arrayOp d.word)) (x.ctx.acc, 0, 0)).1
  operand : y.ctx.operand = x.ctx.operand
  state : y.state = x.state
  job : y.job = x.job
  vec : y.vec = x.vec
  xfers : y.xfers = x.xfers

theorem writeLast_shape (s : State) (e : EngineId) (d : DrainEntry) (rest : List DrainEntry) :
    ∃ y, s.writeLast e d rest = { s with engines := s.engines.set e y } ∧ LastWritten d rest s.engines[e] y :=
  ⟨_, rfl, rfl, by simp [writeRecords_fields], by simp [writeRecords_fields], rfl, rfl, rfl, rfl⟩

/-- Without a poisoned word nothing is healed. -/
theorem healDrain_of_no_poison {t : State} (ht : t.mem.poisoned = []) (s : State) (e : EngineId) (at_ : List Nat) :
    t.healDrain s e at_ = t := by
  simp only [State.healDrain, ht, List.filter_nil]
  rw [← ht]

theorem drainUes_of_no_poison {s : State} (h : s.mem.poisoned = []) (e : EngineId) (at_ : List Nat) : s.drainUes e at_ = [] := by
  simp only [State.drainUes, h, List.filter_nil]

theorem doArrayLastWrite_of_empty {s : State} {e : EngineId} (h : s.engines[e].drain = []) : doArrayLastWrite e s = s := by
  simp only [doArrayLastWrite, h]

section

variable {s : State} {e : EngineId} {d : DrainEntry} {rest : List DrainEntry} (hd : s.engines[e].drain = d :: rest)
include hd

theorem doArrayLastWrite_of_no_job (hj : s.engines[e].job = none) : doArrayLastWrite e s = s.writeLast e d rest := by
  simp only [doArrayLastWrite, hd, hj]

variable {k : Key} {u : Nat} (hj : s.engines[e].job = some (k, u))
include hj

theorem doArrayLastWrite_of_poisoned_sum (hc : (arrayOp d.word).clear = false) {p : TierAddr}
    (hp : (s.drainUes e d.offsets).head? = some p) : doArrayLastWrite e s = s.scratchUe e k 1 p := by
  simp only [doArrayLastWrite, hd, hj, hc, hp]

theorem doArrayLastWrite_of_sound (hp : s.drainUes e d.offsets = []) :
    doArrayLastWrite e s = (s.writeLast e d rest).healDrain s e d.offsets := by
  cases hc : (arrayOp d.word).clear <;> simp only [doArrayLastWrite, hd, hj, hc, hp, List.head?_nil, List.find?_nil]

end

/-- The last write without a poisoned word in its way: the Engine's record, and whatever poison other words keep. -/
theorem doArrayLastWrite_of_no_ue {s : State} {e : EngineId} {d : DrainEntry} {rest : List DrainEntry}
    (hd : s.engines[e].drain = d :: rest) (hp : s.drainUes e d.offsets = []) :
    LastWritten d rest s.engines[e] (doArrayLastWrite e s).engines[e] := by
  obtain ⟨y, hy, hw⟩ := writeLast_shape s e d rest
  have hget : (s.writeLast e d rest).engines[e] = y := by rw [hy, set_get]
  cases hj : s.engines[e].job with
  | none => rwa [doArrayLastWrite_of_no_job hd hj, hget]
  | some p =>
    rw [doArrayLastWrite_of_sound hd hj hp]
    exact hget.symm ▸ hw

/-- Without a job to fault, or without poison, the last write changes its Engine alone. -/
theorem doArrayLastWrite_of_no_poison {s : State} {e : EngineId} {d : DrainEntry} {rest : List DrainEntry}
    (hd : s.engines[e].drain = d :: rest) (h : s.engines[e].job = none ∨ s.mem.poisoned = []) :
    doArrayLastWrite e s = s.writeLast e d rest := by
  cases hj : s.engines[e].job with
  | none => exact doArrayLastWrite_of_no_job hd hj
  | some p =>
    have hp : s.mem.poisoned = [] := h.resolve_left (hj ▸ Option.some_ne_none p)
    rw [doArrayLastWrite_of_sound hd hj (drainUes_of_no_poison hp e _)]
    exact healDrain_of_no_poison (t := s.writeLast e d rest) hp ..

/-! ### The obligations -/

/-- An array row runs the word with its own opcode. -/
theorem exec_arrayRow {op : Nat} (hop : op = 1 ∨ op = 2) {e : EngineId} {w : BitVec 128} {s t : State}
    (h : doMma op e (rowWord w op) s = t) : exec (if op = 1 then .mmaWs e w else .mmaOs e w) s = .next t := by
  rcases hop with rfl | rfl <;> exact next_eq h

/-- Settles O40: the instruction by what stands in its way, the feeder by its slots, the last write by poison. -/
theorem arrayInstructionsIssueInOrder : Obligations.ArrayInstructionsIssueInOrder := by
  intro s e w k
  refine ⟨fun h => ⟨next_eq (doMma_of_idle h 1 _), next_eq (doMma_of_idle h 2 _), next_eq (doFeederFill_of_idle h w)⟩, ?_,
    fun h hn hop hf hb => next_eq (doFeederFill_of_free h hn hop hf hb), fun h hx => next_eq (doFeederFill_of_held h hx),
    fun h => next_eq (doArrayLastWrite_of_empty h),
    fun d rest k u p hd hj hc hp => next_eq (doArrayLastWrite_of_poisoned_sum hd hj hc hp), fun d rest hd h => ?_⟩
  · intro n hn h
    refine ⟨fun r hf => exec_arrayRow hn (doMma_of_fault h n hf), fun a c hf hp =>
      ⟨fun hs => exec_arrayRow hn (doMma_of_no_slot h n hf hp hs), fun sl rest hs =>
      ⟨fun hw => exec_arrayRow hn (doMma_of_other_slot h n hf hp hs hw),
       fun d hw hd => exec_arrayRow hn (doMma_of_skew h n hf hp hs hw hd), fun hw hskew hrec hd =>
        ⟨fun hz => exec_arrayRow hn (doMma_of_hazard h n hf hp hs hw hskew hrec hd hz), fun hz => ?_⟩⟩⟩⟩
    obtain ⟨y, hy, hi⟩ := doMma_of_free h n hf hp hs hw hskew hrec hd hz
    obtain ⟨d, hdrain, hword, hrows⟩ := hi.drain
    refine ⟨y, d, exec_arrayRow hn hy, ?_, hi.pc, hdrain, hword.trans hw, ?_, ?_, ?_, hi.acc, hi.operand, hi.state, hi.job,
      hi.vec⟩
    · rw [hi.slots, hs, List.drop_one, List.tail_cons]
    · rw [hrows, usedWeights, swapsWeights, hw]
    · rw [hi.active, swapsWeights, hw]
    · rw [hi.shadow, swapsWeights, hw]
  · obtain ⟨y, hy, hw⟩ := writeLast_shape s e d rest
    exact ⟨y, next_eq ((doArrayLastWrite_of_no_poison hd h).trans hy), hw.drain, hw.acc, hw.operand, hw.state, hw.job, hw.vec,
      hw.xfers⟩

/-- Settles O41: the drain queue full or not, and the last write of its oldest instruction. -/
theorem theDrainQueueHoldsFour : Obligations.TheDrainQueueHoldsFour := by
  intro s e w k a c sl rest
  refine ⟨fun h hf hp hs hw hskew hrec =>
    ⟨fun hd => next_eq (doMma_of_drain_full h 1 hf hp hs hw hskew hrec hd), fun hd => ?_⟩, fun d ds hd hp => ?_⟩
  · cases hz : s.engines[e].arrayHazard e (tileUnits (arrayOp (rowWord w 1)).shape (arrayOp (rowWord w 1)).tile
      (arrayOp (rowWord w 1)).tiles) with
    | true =>
      refine ⟨_, next_eq (doMma_of_hazard h 1 hf hp hs hw hskew hrec hd hz), ?_⟩
      rw [stall, modEngine_get]
      split <;> exact ⟨rfl, hd.le⟩
    | false =>
      obtain ⟨y, hy, hi⟩ := doMma_of_free h 1 hf hp hs hw hskew hrec hd hz
      refine ⟨_, next_eq hy, ?_⟩
      obtain ⟨d, hdrain, -⟩ := hi.drain
      rw [set_get, hdrain, List.length_append]
      exact ⟨hi.drainStall, hd⟩
  · have hw := doArrayLastWrite_of_no_ue hd hp
    exact ⟨_, rfl, hw.drain, hw.acc⟩

end Sys2Proof.Proofs

/-! PROOFS. The vector unit: elementwise operations, row reductions and conversions (R112, R113, R115, R116, R124, R149, R153,
R154). -/

namespace Sys2Proof.Proofs

-- One declaration after another, as in the laws: each waiting thread counts against the check's memory.
set_option Elab.async false

open Sys2Proof Sys2Proof.Machine Sys2Proof.Laws

/-! ### An Engine that executes no job -/

section

variable {s : State} {e : EngineId} (h : s.executes e = none)
include h

theorem doVop_of_idle (a : VopArgs) : doVop e a s = s := by simp only [doVop, h]

theorem doVred_of_idle (a : VredArgs) : doVred e a s = s := by simp only [doVred, h]

theorem doVcvt_of_idle (w : BitVec 128) : doVcvt e w s = s := by simp only [doVcvt, h]

end

/-! ### VOP (R112, R113, R124, Table 4-7A) -/

/-- The sources that an elementwise operation reads, each of its length. -/
def vopSources (a : VopArgs) : List (VecLoc × Nat) := ([a.srcA, a.srcB, a.srcC].take (vopArity a.kind)).map fun l => (l, a.len)

/-- Free values that an elementwise operation takes: one for each element of a compare or a select (log 22). -/
def vopFree (a : VopArgs) : Nat := if a.kind = .cmp ∨ a.kind = .select then a.len else 0

/-- The elements of an elementwise operation, each with whether it is an event of the overflow flag. -/
def vopOut (s : State) (e : EngineId) (a : VopArgs) : List (F32 × Bool) :=
  (List.range a.len).map fun i => vopElem a.kind ((s.vecRead e a.srcA a.len).getD i 0) ((s.vecRead e a.srcB a.len).getD i 0)
    ((s.vecRead e a.srcC a.len).getD i 0) ((s.freshN (vopFree a)).1.getD i 0)

/-- What the queue keeps of an elementwise operation. -/
def vopEntry (e : EngineId) (a : VopArgs) : VecEntry :=
  { reads := (vopSources a).flatMap fun p => vecUnits p.1 p.2, writes := vecUnits a.dst a.len
    granules := vecGranules e a.dst (4 * a.len) }

/-- A vector instruction issues: its free values are taken, its events counted, and it joins the queue. -/
def vecStarted (s : State) (e : EngineId) (free events : Nat) (entry : VecEntry) (cycles : Nat) : State :=
  ({ s with free := s.free + free } : State).modEngine e fun x =>
    ({ x with ctx := x.ctx.flagBy causeVecOvf events x.ctx.pc } : Engine).vecIssue entry cycles

/-- An elementwise operation runs: it joins the queue and writes its elements. -/
def vopRun (s : State) (e : EngineId) (k : Key) (a : VopArgs) : State :=
  (vecStarted s e (vopFree a) ((vopOut s e a).filter fun v => v.2).length (vopEntry e a) (cdiv a.len (vopRate a.kind))).vecWrite
    e k a.dst ((vopOut s e a).flatMap fun v => le 4 v.1.toNat) 0

section

variable {s : State} {e : EngineId} {k : Key} (h : s.executes e = some k) {a : VopArgs}
include h

theorem doVop_of_long (hc : 1024 < cdiv a.len (vopRate a.kind)) : doVop e a s = s.engineFault e k erShapeRange 0x10 := by
  simp only [doVop, h, vecMaxCycles, gt_iff_lt, hc, if_true]

theorem doVop_of_short (hc : cdiv a.len (vopRate a.kind) ≤ 1024) : doVop e a s =
    match s.vecGate e (vopSources a) (a.dst, a.len) with
    | .fault f => s.engineFault e k f 0x10
    | .ue p => s.scratchUe e k 2 p
    | .wait => s
    | .go => vopRun s e k a := by
  simp only [doVop, h, vecMaxCycles, gt_iff_lt, Nat.not_lt.mpr hc, if_false, Bool.or_eq_true, beq_iff_eq]
  rfl

end

/-! ### VRED (R112, R153, R154, Table 6-2) -/

/-- The values of each row of a reduction, with its events of the overflow flag. -/
def vredOut (s : State) (e : EngineId) (r : VredArgs) : List (List F32 × Nat) :=
  (List.range r.rows).map fun i => vredRow r.op.toNat
    (((s.vecRead e r.src (r.rowLen * r.rows)).drop (i * r.rowLen)).take r.rowLen) (s.fresh.1.setWidth 32)

/-- What the queue keeps of a reduction that writes m values for each row. -/
def vredEntry (e : EngineId) (r : VredArgs) (m : Nat) : VecEntry :=
  { reads := vecUnits r.src (r.rowLen * r.rows), writes := vecUnits r.dst (m * r.rows)
    granules := vecGranules e r.dst (4 * m * r.rows) }

/-- A reduction of m values for each row runs: it joins the queue and writes its values. -/
def vredRun (s : State) (e : EngineId) (k : Key) (r : VredArgs) (m : Nat) : State :=
  (vecStarted s e 1 ((vredOut s e r).map fun v => v.2).sum (vredEntry e r m) (r.rows * (cdiv r.rowLen 512 + 9))).vecWrite
    e k r.dst ((vredOut s e r).flatMap fun v => v.1.flatMap fun x => le 4 x.toNat) 0

theorem vredWidth_of_reserved {op : Nat} (h : 6 ≤ op) : vredWidth op = none := by
  unfold vredWidth
  rw [if_neg (by omega), if_neg (by simp; omega), if_neg (by simp; omega)]

section

variable {s : State} {e : EngineId} {k : Key} (h : s.executes e = some k) {r : VredArgs}
include h

theorem doVred_of_reserved (hop : 6 ≤ r.op.toNat) : doVred e r s = s.engineFault e k erIllegalOpcode 0x11 := by
  simp only [doVred, h, vredWidth_of_reserved hop]

variable {m : Nat} (hm : vredWidth r.op.toNat = some m)
include hm

theorem doVred_of_long (hc : 1024 < r.rows * (cdiv r.rowLen 512 + 9)) :
    doVred e r s = s.engineFault e k erShapeRange 0x11 := by
  simp only [doVred, h, hm, vecMaxCycles, gt_iff_lt, hc, if_true]

theorem doVred_of_short (hc : r.rows * (cdiv r.rowLen 512 + 9) ≤ 1024) : doVred e r s =
    match s.vecGate e [(r.src, r.rowLen * r.rows)] (r.dst, m * r.rows) with
    | .fault f => s.engineFault e k f 0x11
    | .ue p => s.scratchUe e k 2 p
    | .wait => s
    | .go => vredRun s e k r m := by
  simp only [doVred, h, hm, vecMaxCycles, gt_iff_lt, Nat.not_lt.mpr hc, if_false]
  rfl

end

/-! ### VCVT (R149, Table 5-8) -/

/-- A row converted without a scale stream and to no MX format writes no scale. -/
theorem cvtRow_scales {o : CvtOp} (hs : o.scaleSrc = 0) (hmx : isMx o.dst = false) (c : EngineCtx) (tensor : Word16)
    (free : Word64) (acc : CvtOut) (r : Nat) : (o.row c tensor free acc r).scales = acc.scales := by
  simp [CvtOp.row, hs, hmx]

theorem cvtRows_scales {o : CvtOp} (hs : o.scaleSrc = 0) (hmx : isMx o.dst = false) (c : EngineCtx) (tensor : Word16)
    (free : Word64) (acc : CvtOut) (rows : List Nat) : (rows.foldl (o.row c tensor free) acc).scales = acc.scales := by
  induction rows generalizing acc with
  | nil => rfl
  | cons r rows ih => rw [List.foldl_cons, ih, cvtRow_scales hs hmx]

theorem cvtSkew_of_plain {o : CvtOp} (hs : o.scaleSrc = 0) (c : EngineCtx) : o.skew c = none := by
  simp [CvtOp.skew, hs]

theorem poisonIn_of_no_poison {s : State} (h : s.mem.poisoned = []) (a : TierAddr) (n : Nat) : s.poisonIn a n = none := by
  rw [State.poisonIn, h, List.find?_nil]

/-- An update that leaves each job as it is. -/
theorem modJob_eq_self {s : State} {k : Key} {f : Job → Job} (hf : ∀ j, f j = j) : s.modJob k f = s := by
  have hid : (fun j : Job => if j.key == k then f j else j) = id := funext fun j => by rw [hf, ite_self, id]
  rw [State.modJob, updWhere, hid, List.map_id]

/-- The tensor scale that stands at SCALE_ADDR. -/
def cvtTensor (c : EngineCtx) (o : CvtOp) : Word16 := BitVec.ofNat 16 (unle (c.operand.readBytes (o.scaleAddr * unitBytes) 2))

/-- The rows of a conversion, from the lane states its job left on the Engine. -/
def cvtOut (s : State) (e : EngineId) (k : Key) (o : CvtOp) : CvtOut :=
  (List.range o.rows).foldl (o.row s.engines[e].ctx (cvtTensor s.engines[e].ctx o) s.fresh.1)
    { data := [], scales := [], rng := (s.engines[e].localOf k).rng, ovf := 0, sat := 0, badScale := 0 }

/-! A vector instruction joins the queue last, and the Engine goes on. -/

section

variable (x : Engine) (v : VecEntry) (n : Nat)

theorem vecIssue_ctx : (x.vecIssue v n).ctx = { x.ctx with pc := x.ctx.pc + 1 } := by
  unfold Engine.vecIssue Engine.count
  split <;> rfl

theorem vecIssue_vec : (x.vecIssue v n).vec = x.vec ++ [v] := by
  unfold Engine.vecIssue Engine.count
  split <;> rfl

theorem vecIssue_locals : (x.vecIssue v n).locals = x.locals := by
  unfold Engine.vecIssue Engine.count
  split <;> rfl

end

/-- The events of a conversion: FP32 overflows, saturations, illegal scales (Table 6-4). -/
def cvtFlagged (c : EngineCtx) (out : CvtOut) : EngineCtx :=
  ((c.flagBy causeVecOvf out.ovf c.pc).flagBy causeConvSat out.sat c.pc).flagBy causeBadScale out.badScale c.pc

/-- The Engine after a conversion without a scale stream has issued: events, lane states, and the entry of its queue. -/
def cvtEngine (s : State) (e : EngineId) (k : Key) (o : CvtOp) (granules : List Nat) : Engine :=
  (({ s.engines[e] with ctx := cvtFlagged s.engines[e].ctx (cvtOut s e k o) } : Engine).modLocal k fun l =>
    { l with rng := (cvtOut s e k o).rng }).vecIssue
      { reads := if o.srcAcc then tileUnits o.shape (o.srcAddr % 256) (cdiv o.rows 128) else [], writes := []
        granules := granules } (cdiv (o.rows * o.len) 512)

theorem cvtEngine_fields (s : State) (e : EngineId) (k : Key) (o : CvtOp) (granules : List Nat) :
    let x := s.engines[e]
    let y := cvtEngine s e k o granules
    y.ctx.pc = x.ctx.pc + 1 ∧ y.ctx.operand = x.ctx.operand ∧ y.vec.length = x.vec.length + 1 ∧
      y.locals = updWhere x.locals (fun l => l.key == k) fun l => { l with rng := (cvtOut s e k o).rng } := by
  simp only [cvtEngine, vecIssue_ctx, vecIssue_vec, vecIssue_locals, Engine.modLocal, cvtFlagged, flagBy_pc, flagBy_operand,
    List.length_append, List.length_singleton, and_self]

/-- A conversion without a scale stream and to no MX format writes the packed rows alone, and no job's record changes. -/
theorem convert_of_plain {s : State} {e : EngineId} {k : Key} {o : CvtOp} (hs : o.scaleSrc = 0) (hmx : isMx o.dst = false)
    (granules : List Nat) : s.convert e k o false granules =
      ({ s with engines := s.engines.set e (cvtEngine s e k o granules), free := s.free + 2 } : State).vecWrite e k
        { acc := false, off := o.dstAddr * unitBytes } (cvtOut s e k o).data o.tag := by
  have hsrc : (o.scaleSrc == 3) = false := by rw [hs]; rfl
  have hscales : (cvtOut s e k o).scales = [] := cvtRows_scales hs hmx ..
  unfold State.convert
  simp only [hsrc, Bool.false_eq_true, if_false]
  rw [modJob_eq_self fun j => rfl]
  exact if_pos (List.isEmpty_iff.mpr hscales)

/-- What a conversion waits for: room in the queue, the scoreboard, a sample that reads where it writes. -/
def cvtHeld (s : State) (e : EngineId) (o : CvtOp) : Bool :=
  decide (4 ≤ s.engines[e].vec.length) ||
  s.engines[e].vectorHazard e (if o.srcAcc then tileUnits o.shape (o.srcAddr % 256) (cdiv o.rows 128) else []) ||
  meets ((o.ranges e false).2.flatMap fun p => granulesOf p.1 p.2) s.engines[e].sampled

section

variable {s : State} {e : EngineId} {k : Key} (h : s.executes e = some k) {w : BitVec 128}
include h

theorem doVcvt_of_fault {f : Nat} (hf : (cvtOp w).fault = some f) : doVcvt e w s = s.engineFault e k f 0x12 := by
  simp only [doVcvt, h, hf]

variable (hf : (cvtOp w).fault = none) (hs : (cvtOp w).scaleSrc = 0)
include hf hs

theorem doVcvt_of_world (hw : (∃ p ∈ ((cvtOp w).ranges e false).1, s.worldBreak e p.1 p.2 false = true) ∨
    ∃ p ∈ ((cvtOp w).ranges e false).2, s.worldBreak e p.1 p.2 true = true) :
    doVcvt e w s = s.engineFault e k erWorld 0x12 := by
  have hsrc : ((cvtOp w).scaleSrc == 3) = false := by rw [hs]; rfl
  simp only [doVcvt, h, hf, hsrc, Bool.false_and, Bool.or_eq_true, List.any_eq_true]
  exact if_pos hw

variable (hr : ∀ p ∈ ((cvtOp w).ranges e false).1, s.worldBreak e p.1 p.2 false = false)
  (hw : ∀ p ∈ ((cvtOp w).ranges e false).2, s.worldBreak e p.1 p.2 true = false) (hp : s.mem.poisoned = [])
include hr hw hp

theorem doVcvt_of_sound : doVcvt e w s = if cvtHeld s e (cvtOp w) then s else
    s.convert e k (cvtOp w) false (((cvtOp w).ranges e false).2.flatMap fun p => granulesOf p.1 p.2) := by
  have hsrc : ((cvtOp w).scaleSrc == 3) = false := by rw [hs]; rfl
  have hreads : ((cvtOp w).ranges e false).1.any (fun p => s.worldBreak e p.1 p.2 false) = false :=
    List.any_eq_false.mpr fun p hp => Bool.eq_false_iff.mp (hr p hp)
  have hwrites : ((cvtOp w).ranges e false).2.any (fun p => s.worldBreak e p.1 p.2 true) = false :=
    List.any_eq_false.mpr fun p hp => Bool.eq_false_iff.mp (hw p hp)
  have hclean : ((cvtOp w).ranges e false).1.filterMap (fun p => s.poisonIn p.1 p.2) = [] :=
    List.filterMap_eq_nil_iff.mpr fun p _ => poisonIn_of_no_poison hp ..
  simp only [doVcvt, h, hf, hsrc, Bool.false_and, hreads, hwrites, Bool.or_self, Bool.false_eq_true, if_false,
    cvtSkew_of_plain hs, hclean, List.head?_nil]
  rfl

end

/-- Settles O42: VOP and VRED by their cycles and their gate, VCVT by its fault, its worlds and what holds it. -/
theorem vectorInstructionsRun : Obligations.VectorInstructionsRun := by
  intro s e a r w
  refine ⟨rfl, fun h => ⟨next_eq (doVop_of_idle h a), next_eq (doVred_of_idle h r), next_eq (doVcvt_of_idle h w)⟩,
    fun k h => ⟨⟨fun hc => next_eq (doVop_of_long h hc), fun hc => next_eq (doVop_of_short h hc)⟩,
      fun hop => next_eq (doVred_of_reserved h hop), fun m hm =>
        ⟨fun hc => next_eq (doVred_of_long h hm hc), fun hc => next_eq (doVred_of_short h hm hc)⟩,
      fun f hf => next_eq (doVcvt_of_fault h hf), fun hf hs => ⟨fun hw => next_eq (doVcvt_of_world h hf hs hw),
        fun hr hw hp => ⟨fun hheld => ?_, fun hv hz hm hmx => ?_⟩⟩⟩⟩
  · have hheld : cvtHeld s e (cvtOp w) = true := by
      simpa only [cvtHeld, Bool.or_eq_true, decide_eq_true_eq, or_assoc] using hheld
    exact next_eq ((doVcvt_of_sound h hf hs hr hw hp).trans (if_pos hheld))
  · have hfree : cvtHeld s e (cvtOp w) = false := by
      simp only [cvtHeld, hz, hm, Nat.not_le.mpr hv, decide_false, Bool.or_self]
    have hrun := (doVcvt_of_sound h hf hs hr hw hp).trans (if_neg (Bool.eq_false_iff.mp hfree))
    refine ⟨_, next_eq (hrun.trans (convert_of_plain hs hmx _)), ?_, ?_⟩
    · rw [set_get]
    · rw [set_get]
      exact cvtEngine_fields ..

end Sys2Proof.Proofs

/-! PROOFS. Transfers, SETMASK and the Touchstone check (R110, R111, R114, R115, R116, R141, R167 to R169). -/

namespace Sys2Proof.Proofs

-- One declaration after another, as in the laws: each waiting thread counts against the check's memory.
set_option Elab.async false

open Sys2Proof Sys2Proof.Machine Sys2Proof.Laws

/-! ### XFER starts (R114, R115, log 25) -/

theorem xferEnds_spec {a : XferArgs} {x : XferOp} (h : xferEnds a = some x) : x.len = a.len ∧ x.tag = a.tag ∧
    a.len ≤ 262144 ∧ tierAddr a.src = some x.src ∧ tierAddr a.dst = some x.dst := by
  unfold xferEnds at h
  split at h
  · next p q hsrc hdst =>
    dsimp only at h
    split at h
    · cases h
    · next hfits =>
      obtain rfl := Option.some.inj h
      simp only [Bool.or_eq_true, decide_eq_true_eq, not_or] at hfits
      exact ⟨rfl, rfl, by omega, hsrc, hdst⟩
  · cases h

theorem doXfer_of_idle {s : State} {e : EngineId} (h : s.executes e = none) (a : XferArgs) : doXfer e a s = s := by
  simp only [doXfer, h]

/-- A transfer starts: it joins the transfers in progress last, issue goes on, and the job takes a credit. -/
def xferStarted (s : State) (e : EngineId) (k : Key) (x : XferOp) : State :=
  (s.modEngine e fun y => { y with xfers := y.xfers ++ [x], ctx := { y.ctx with pc := y.ctx.pc + 1 } }).takeCredit k e.val

section

variable {s : State} {e : EngineId} {k : Key} (h : s.executes e = some k) {a : XferArgs}
include h

theorem doXfer_of_no_ends (hx : xferEnds a = none) : doXfer e a s = s.engineFault e k erOperandRange 0x20 := by
  simp only [doXfer, h, hx]

variable {x : XferOp} (hx : xferEnds a = some x)
include hx

theorem doXfer_of_world (hw : s.worldBreak e x.src x.len false = true ∨ s.worldBreak e x.dst x.len true = true) :
    doXfer e a s = s.engineFault e k erWorld 0x20 := by
  simp only [doXfer, h, hx, Bool.or_eq_true, hw, if_true]

theorem doXfer_of_ends (hsrc : s.worldBreak e x.src x.len false = false) (hdst : s.worldBreak e x.dst x.len true = false) :
    doXfer e a s = if s.engines[e].xferHazard e (endUnits e x.src x.len) (endUnits e x.dst x.len) then s
      else xferStarted s e k x := by
  simp only [doXfer, h, hx, hsrc, hdst, Bool.or_self, Bool.false_eq_true, if_false]
  rfl

end

/-! ### The oldest transfer ends (R141, R172, R184, R188) -/

theorem mergeUe_of_no_poison {s : State} (h : s.mem.poisoned = []) (a : TierAddr) (n : Nat) : s.mergeUe a n = none := by
  rw [State.mergeUe, h, List.find?_nil]

theorem poisonThrough_of_no_poison {s : State} (h : s.mem.poisoned = []) (a : TierAddr) (n : Nat) :
    s.poisonThrough a n = none := by
  rw [State.poisonThrough, List.head?_eq_none_iff, List.filterMap_eq_nil_iff]
  intro p _
  rw [poisonIn_of_no_poison h, Option.map_none]

theorem doXferComplete_of_none {s : State} {e : EngineId} (h : s.engines[e].xfers = [] ∨ s.engines[e].job = none) :
    doXferComplete e s = s := by
  unfold doXferComplete
  split
  · next hx hj =>
    rcases h with h | h
    · rw [hx] at h; cases h
    · rw [hj] at h; cases h
  · rfl

/-- The oldest transfer has left, its credit is returned, and the copies it read count as used. -/
def xferRead (s : State) (e : EngineId) (k : Key) (x : XferOp) (rest : List XferOp) : State :=
  ((s.modEngine e fun y => { y with xfers := rest }).returnCredit k e.val).touchRange x.src x.len

theorem xferRead_mem (s : State) (e : EngineId) (k : Key) (x : XferOp) (rest : List XferOp) :
    (xferRead s e k x rest).mem = s.mem :=
  touchRange_frame _ _ _ .mem (by decide)

/-- The units of an operand store that a transfer has written take its tag. -/
def xferStamped (t : State) (x : XferOp) : State :=
  match x.dst.space with
  | .operand d => t.modEngine d fun y =>
      { y with ctx := y.ctx.stamp (unitsOf x.dst.off (x.dst.off % unitBytes + x.len)) x.tag }
  | _ => t

section

variable {s : State} {e : EngineId} {x : XferOp} {rest : List XferOp} {k : Key} {u : Nat}
  (hx : s.engines[e].xfers = x :: rest) (hj : s.engines[e].job = some (k, u))
include hx hj

theorem doXferComplete_of_readWaits (hr : s.readWaits x.src x.len = true) :
    doXferComplete e s = s.joinRefetch e k x.src x.len := by
  simp only [doXferComplete, hx, hj, hr, if_true]

theorem doXferComplete_of_writeWaits (hr : s.readWaits x.src x.len = false) (hw : s.writeWaits x.dst x.len = true) :
    doXferComplete e s = s := by
  simp only [doXferComplete, hx, hj, hr, hw, Bool.false_eq_true, if_false, if_true]

theorem doXferComplete_of_no_poison (hr : s.readWaits x.src x.len = false) (hw : s.writeWaits x.dst x.len = false)
    (hp : s.mem.poisoned = []) : doXferComplete e s =
      xferStamped ((xferRead s e k x rest).engineWrite e k x.dst (s.readThrough x.src x.len)) x := by
  have hclean : (xferRead s e k x rest).mem.poisoned = [] := by rw [xferRead_mem, hp]
  have hmerge := mergeUe_of_no_poison hclean x.dst x.len
  rw [xferRead] at hmerge
  simp only [doXferComplete, hx, hj, hr, hw, Bool.false_eq_true, if_false, poisonThrough_of_no_poison hp, hmerge]
  rfl

end

/-! ### SETMASK (R110, R111, log 35) -/

theorem doSetmask_of_idle {s : State} {e : EngineId} (h : s.executes e = none) (mask side rows : Nat) :
    doSetmask e mask side rows s = s := by
  simp only [doSetmask, h]

/-- The mask of 32 bytes that stands at a unit of the operand store. -/
def maskAt (c : EngineCtx) (unit : Nat) : BitVec 256 := BitVec.ofNat 256 (unle (c.operand.readBytes (unit * unitBytes) 32))

/-- The side weights that stand at a unit of the operand store: 128 BF16 values for each row. -/
def sideAt (c : EngineCtx) (unit rows : Nat) : List BF16 :=
  (List.range (128 * rows)).map fun i =>
    BitVec.ofNat 16 (field (c.operand.readBytes (unit * unitBytes) (256 * rows)) (2 * i) 2)

theorem sideAt_getD (c : EngineCtx) (unit : Nat) {rows i : Nat} (hi : i < 128 * rows) : (sideAt c unit rows).getD i 0 =
    BitVec.ofNat 16 (field (c.operand.readBytes (unit * unitBytes) (256 * rows)) (2 * i) 2) := by
  simp [sideAt, hi]

/-- The mask or the side weights begin or end outside the operand store (R113). -/
def maskOut (mask side rows : Nat) : Prop :=
  mask > 49151 ∨ side > 49151 ∨ mask * unitBytes + 32 > 25165824 ∨ side * unitBytes + 256 * rows > 25165824

section

variable {s : State} {e : EngineId} {k : Key} (h : s.executes e = some k) {mask side rows : Nat}
include h

theorem doSetmask_of_out (hr : maskOut mask side rows) :
    doSetmask e mask side rows s = s.engineFault e k erOperandRange 0x08 := by
  unfold maskOut at hr
  simp only [doSetmask, h, Bool.or_eq_true, decide_eq_true_eq, or_assoc, hr, if_true]

variable (hr : ¬maskOut mask side rows)
include hr

theorem doSetmask_of_many (hn : 64 < rows) : doSetmask e mask side rows s = s.engineFault e k erOutlierRange 0x08 := by
  unfold maskOut at hr
  simp only [doSetmask, h, Bool.or_eq_true, decide_eq_true_eq, or_assoc, hr, if_false, gt_iff_lt, hn, if_true]

/-- The slots from the first that takes the mask on are staged anew. -/
theorem doSetmask_of_sound (hn : rows ≤ 64) (hp : s.mem.poisoned = []) : doSetmask e mask side rows s =
    s.modEngine e fun x => { x with ctx := { x.ctx with
      mask := maskAt s.engines[e].ctx mask, side := sideAt s.engines[e].ctx side rows, pc := x.ctx.pc + 1
      slots := x.ctx.slots.takeWhile fun l => !(arrayOp l.word).outlier } } := by
  unfold maskOut at hr
  simp only [doSetmask, h, Bool.or_eq_true, decide_eq_true_eq, or_assoc, hr, if_false, Nat.not_lt.mpr hn, gt_iff_lt,
    poisonIn_of_no_poison hp]
  rfl

end

/-! ### Touchstone samples (R167 to R169) -/

theorem touchAction_eq_one (act cls : Nat) : touchAction act cls = 1 ↔ act = 1 := by
  unfold touchAction
  split
  · next h =>
    simp only [Bool.and_eq_true, beq_iff_eq] at h
    omega
  · rfl

/-- A replay is asked of a class other than 0 alone (R168). -/
theorem touchAction_eq_two (act cls : Nat) : touchAction act cls = 2 ↔ act = 2 ∧ cls ≠ 0 := by
  unfold touchAction
  split
  · next h =>
    simp only [Bool.and_eq_true, beq_iff_eq] at h
    omega
  · next h =>
    simp only [Bool.and_eq_true, beq_iff_eq] at h
    omega

theorem doTouchstone_of_none {s : State} {e : EngineId} (h : s.engines[e].job = none ∨ s.engines[e].tsBuffer = []) (us : Nat) :
    doTouchstone e us s = s := by
  unfold doTouchstone
  split
  · next hj hb =>
    rcases h with h | h
    · rw [hj] at h; cases h
    · rw [hb] at h; cases h
  · rfl

/-- The oldest sample has left the buffer: its vector cycles are counted, and its time is charged to the job. -/
def sampleTaken (s : State) (e : EngineId) (k : Key) (r : Sample) (rest : List Sample) (us : Nat) : State :=
  (s.modEngine e fun x =>
    if x.countEn then { x with tsBuffer := rest, vecCycles := (x.vecCycles + 32 * r.k) % 2 ^ 64 }
    else { x with tsBuffer := rest }).charge k e.val us

theorem sampleTaken_tsThisStroke (s : State) (e : EngineId) (k : Key) (r : Sample) (rest : List Sample) (us : Nat) :
    (sampleTaken s e k r rest us).engines[e].tsThisStroke = s.engines[e].tsThisStroke := by
  have hengines : (sampleTaken s e k r rest us).engines = _ := charge_frame _ _ _ _ .engines (by decide)
  rw [hengines, modEngine_get]
  split <;> rfl

theorem sampleTaken_mold (s : State) (e : EngineId) (k : Key) (r : Sample) (rest : List Sample) (us : Nat) :
    (sampleTaken s e k r rest us).mold = s.mold :=
  charge_frame _ _ _ _ .mold (by decide)

/-- A disagreement after the record of its Stroke is counted as suppressed (R169). -/
def sampleSuppressed (t : State) (e : EngineId) : State :=
  t.modEngine e fun x => { x with tsSuppressed := satAdd 16 x.tsSuppressed 1 }

section

variable {s : State} {e : EngineId} {k : Key} {u : Nat} {j : Job} {r : Sample} {rest : List Sample}
  (hk : s.engines[e].job = some (k, u)) (hj : s.job k = some j) (hb : s.engines[e].tsBuffer = r :: rest)
include hk hj hb

theorem doTouchstone_of_agreement (ho : r.over j.tol 1 = 0) (us : Nat) :
    doTouchstone e us s = sampleTaken s e k r rest us := by
  simp only [doTouchstone, hk, hb, hj, ho, beq_self_eq_true, if_true]
  rfl

theorem doTouchstone_of_suppressed (ho : r.over j.tol 1 ≠ 0) (ht : s.engines[e].tsThisStroke = true) {m : Mold}
    (hm : s.mold.mold = some m) (us : Nat) : doTouchstone e us s =
      let v := sampleSuppressed (sampleTaken s e k r rest us) e
      if m.tsAct = 1 then v.faultJob k scTouchstoneFail (.engine e)
      else if m.tsAct = 2 ∧ j.cls ≠ 0 then v.modEngine e fun x => { x with ctx := x.ctx.flagBy causeTouchstone 1 r.word }
      else v := by
  have hstroke := (sampleTaken_tsThisStroke s e k r rest us).trans ht
  have hmold : (sampleTaken s e k r rest us).theMold = some m := by rw [State.theMold, sampleTaken_mold, hm]
  have htaken : (s.modEngine e fun x => ({ x with tsBuffer := rest } : Engine).count fun x =>
      { x with vecCycles := (x.vecCycles + 32 * r.k) % 2 ^ 64 }).charge k e.val us = sampleTaken s e k r rest us := rfl
  simp only [doTouchstone, hk, hb, hj, beq_eq_false_iff_ne.mpr ho, Bool.false_eq_true, if_false, htaken, hstroke, hmold, if_true,
    beq_iff_eq, touchAction_eq_one, touchAction_eq_two, sampleSuppressed]

end

/-- Settles O45: transfers by their ends, worlds and what they wait for, SETMASK by its range, samples by their disagreement. -/
theorem transfersMasksAndTouchstone : Obligations.TransfersMasksAndTouchstone := by
  intro s e a mask side rows us
  refine ⟨fun h => ⟨next_eq (doXfer_of_idle h a), next_eq (doSetmask_of_idle h mask side rows)⟩, fun k h =>
    ⟨fun hx => next_eq (doXfer_of_no_ends h hx), fun x hx => ⟨fun hw => next_eq (doXfer_of_world h hx hw),
      fun hsrc hdst => next_eq (doXfer_of_ends h hx hsrc hdst)⟩, fun hr => next_eq (doSetmask_of_out h hr),
      fun hmask hside hmaskEnd hsideEnd => ?_⟩,
    fun x hx => xferEnds_spec hx, fun h => next_eq (doXferComplete_of_none h), fun x rest k u hx hj =>
      ⟨fun hr => next_eq (doXferComplete_of_readWaits hx hj hr),
       fun hr hw => next_eq (doXferComplete_of_writeWaits hx hj hr hw),
       fun hr hw hp => next_eq (doXferComplete_of_no_poison hx hj hr hw hp)⟩,
    fun h => next_eq (doTouchstone_of_none h us), fun k u j r rest hk hj hb =>
      ⟨fun ho => next_eq (doTouchstone_of_agreement hk hj hb ho us),
       fun ho ht m hm => next_eq (doTouchstone_of_suppressed hk hj hb ho ht hm us)⟩⟩
  have hr : ¬maskOut mask side rows := by
    unfold maskOut unitBytes
    omega
  refine ⟨fun hn => next_eq (doSetmask_of_many h hr hn), fun hn hp => ?_⟩
  refine ⟨_, next_eq (doSetmask_of_sound h hr hn hp), rfl, ?_, fun i hi => sideAt_getD _ side hi, rfl, rfl, rfl, rfl⟩
  rw [sideAt, List.length_map, List.length_range]

end Sys2Proof.Proofs

/-! PROOFS. Every step keeps every memory in its canonical form (R170 to R173). -/

namespace Sys2Proof.Proofs

open Sys2Proof Sys2Proof.Machine Sys2Proof.Laws

/-- The outcome is a next state in which every memory is canonical where it was so in s. -/
def KeepsMemory (s : State) (o : Out) : Prop := ∃ t, o = .next t ∧ Keeps s t

/-- A command whose frame names neither the memories nor the Engines keeps every store. -/
theorem keeps_of_frame {w : List Laws.Part} {s : State} {o : Out} (h : ∃ t, o = .next t ∧ Frame w s t)
    (hm : Laws.Part.mem ∉ w := by decide) (he : Laws.Part.engines ∉ w := by decide) : KeepsMemory s o :=
  let ⟨t, ho, hf⟩ := h
  ⟨t, ho, Keeps.ofFrame hf hm he (Keeps.refl s)⟩

theorem keeps_next {s t : State} (h : Keeps s t) : KeepsMemory s (.next t) := ⟨t, rfl, h⟩

/-- One case for each row of the table: a command that touches a store does so by operations that keep its form. -/
theorem exec_keeps_memory : ∀ (c : Instr) (s : State), KeepsMemory s (exec c s)
  | .inputGood .., s => keeps_of_frame (execInputGood_frame _ _ s)
  | .standbyBootDone, s => keeps_next (doStandbyBootDone_keeps _)
  | .inputPowerLost .., s => keeps_next (doInputPowerLost_keeps _ _ _)
  | .moduleReset, s => keeps_next (doModuleReset_keeps _)
  | .perstADeassert .., s => keeps_next (doPerstADeassert_keeps _ _ _)
  | .linkTrainingComplete .., s => keeps_of_frame (execLinkTrainingComplete_frame _ s)
  | .internalBootEnd .., s => keeps_of_frame (execInternalBootEnd_frame _ s)
  | .perstBAssert, s => keeps_next (doPerstBAssert_keeps _)
  | .functionLevelReset .., s => keeps_next (doFlr_keeps _ _)
  | .controllerEnable .., s => keeps_of_frame (execControllerEnable_frame _ _ _ _ s)
  | .controllerReady .., s => keeps_of_frame (execControllerReady_frame _ s)
  | .controllerReset .., s => keeps_next (doControllerReset_keeps _ _)
  | .controllerShutdown .., s => keeps_next (doControllerShutdown_keeps _ _ _)
  | .sqTailDoorbell .., s => keeps_of_frame (execSqTailDoorbell_frame _ _ _ s)
  | .cqHeadDoorbell .., s => keeps_of_frame (execCqHeadDoorbell_frame _ _ _ s)
  | .submissionEntryFetched .., s => keeps_of_frame (execSubmissionEntryFetched_frame _ s)
  | .fetchSlotsFreed .., s => keeps_of_frame (execFetchSlotsFreed_frame _ s)
  | .hostReadPoisoned .., s => keeps_of_frame (execHostReadPoisoned_frame _ s)
  | .hostReadTimeout .., s => keeps_of_frame (execHostReadTimeout_frame _ s)
  | .schedulerArrival .., s => keeps_next (doSchedulerArrival_keeps _ _)
  | .msixVectorUnmask .., s => keeps_of_frame (execMsixVectorUnmask_frame _ _ s)
  | .ptmDialogIssue, s => keeps_of_frame (execPtmDialogIssue_frame s)
  | .ptmDialogComplete .., s => keeps_of_frame (execPtmDialogComplete_frame _ _ s)
  | .spdmGetVersion .., s => keeps_of_frame (execSpdmGetVersion_frame _ s)
  | .spdmGetCapabilities .., s => keeps_of_frame (execSpdmGetCapabilities_frame _ s)
  | .spdmNegotiateAlgorithms .., s => keeps_of_frame (execSpdmNegotiateAlgorithms_frame _ s)
  | .spdmChallenge .., s => keeps_of_frame (execSpdmChallenge_frame _ _ _ s)
  | .spdmGetMeasurements .., s => keeps_of_frame (execSpdmGetMeasurements_frame _ _ _ _ s)
  | .spdmUnsupportedRequest .., s => keeps_of_frame (execSpdmUnsupportedRequest_frame _ _ s)
  | .ideKmQuery c port, s => keeps_of_frame (execIdeKmQuery_frame c port s)
  | .ideKmKeyProg .., s => keeps_of_frame (execIdeKmKeyProg_frame _ _ _ s)
  | .ideKmKSetGo .., s => keeps_of_frame (execIdeKmKSetGo_frame _ _ s)
  | .ideKmKSetStop .., s => keeps_of_frame (execIdeKmKSetStop_frame _ _ s)
  | .identify .., s => keeps_of_frame (execIdentify_frame _ s)
  | .getLogPage .., s => keeps_of_frame (execGetLogPage_frame _ _ s)
  | .setFeatures .., s => keeps_next (doSetFeatures_keeps _ _ _)
  | .getFeatures .., s => keeps_of_frame (execGetFeatures_frame _ s)
  | .abort .., s => keeps_of_frame (execAbort_frame _ s)
  | .createIoSq .., s => keeps_of_frame (execCreateIoSq_frame _ s)
  | .createIoCq .., s => keeps_of_frame (execCreateIoCq_frame _ s)
  | .deleteIoSq .., s => keeps_of_frame (execDeleteIoSq_frame _ s)
  | .deleteIoCq .., s => keeps_of_frame (execDeleteIoCq_frame _ s)
  | .asyncEventRequest .., s => keeps_of_frame (execAsyncEventRequest_frame _ s)
  | .firmwareImageDownload .., s => keeps_of_frame (execFirmwareImageDownload_frame _ _ s)
  | .firmwareCommit .., s => keeps_of_frame (execFirmwareCommit_frame _ s)
  | .moldLoad .., s => keeps_of_frame (execMoldLoad_frame _ _ s)
  | .moldLoadValidated, s => keeps_next (doMoldLoadValidated_keeps _)
  | .recast .., s => keeps_of_frame (execRecast_frame _ _ s)
  | .recastValidated, s => keeps_next (doRecastValidated_keeps _)
  | .recastDrainComplete, s => keeps_next (doRecastDrainComplete_keeps _)
  | .hallmarkGetStatus .., s => keeps_of_frame (execHallmarkGetStatus_frame _ s)
  | .hallmarkGetRoots .., s => keeps_of_frame (execHallmarkGetRoots_frame _ s)
  | .hallmarkGetAttest .., s => keeps_of_frame (execHallmarkGetAttest_frame _ s)
  | .lifecycle .., s => keeps_next (doLifecycle_keeps _ _)
  | .burnish .., s => keeps_of_frame (execBurnish_frame _ s)
  | .burnishComplete .., s => keeps_next (doBurnishComplete_keeps _ _ _)
  | .quench .., s => keeps_of_frame (execQuench_frame _ s)
  | .schQuenchWrite .., s => keeps_of_frame (execSchQuenchWrite_frame _ s)
  | .jobQuenchStop .., s => keeps_next (doJobQuenchStop_keeps _ _)
  | .objPut .., s => keeps_of_frame (execObjPut_frame _ _ s)
  | .objPutDurable .., s => keeps_next (doObjPutDurable_keeps _ _ _)
  | .objGet .., s => keeps_of_frame (execObjGet_frame _ _ _ s)
  | .objDelete .., s => keeps_of_frame (execObjDelete_frame _ s)
  | .objDeleteDurable .., s => keeps_next (doObjDeleteDurable_keeps _ _)
  | .objStat .., s => keeps_of_frame (execObjStat_frame _ s)
  | .jobSubmit .., s => keeps_next (doJobSubmit_keeps _ _ _)
  | .jobStatus .., s => keeps_of_frame (execJobStatus_frame _ s)
  | .query .., s => keeps_of_frame (execQuery_frame _ _ s)
  | .ingotLoad .., s => keeps_next (doIngotLoad_keeps _ _ _)
  | .ingotValidationDone .., s => keeps_next (doIngotValidation_keeps _ _)
  | .ingotLoadTimeout .., s => keeps_of_frame (execIngotLoadTimeout_frame _ s)
  | .ingotDrop .., s => keeps_next (doIngotDrop_keeps _ _)
  | .ingotRemoved .., s => keeps_next (doIngotRemoved_keeps _ _)
  | .strokeBoundary .., s => keeps_next (doStrokeBoundary_keeps _ _)
  | .referencePresent, s => keeps_of_frame (execReferencePresent_frame s)
  | .referenceLost, s => keeps_of_frame (execReferenceLost_frame s)
  | .gridLockAcquired, s => keeps_of_frame (execGridLockAcquired_frame s)
  | .holdoverExpiry, s => keeps_of_frame (execHoldoverExpiry_frame s)
  | .powerTick .., s => keeps_of_frame (execPowerTick_frame _ s)
  | .unitPlacement .., s => keeps_next (doUnitPlacement_keeps _ _ _)
  | .unitComplete .., s => keeps_next (doUnitComplete_keeps _ _ _ _)
  | .enginePreempt .., s => keeps_next (preempt_keeps _ _ _)
  | .contextSaveDone .., s => keeps_next (doContextSaveDone_keeps _ _)
  | .contextRestoreDone .., s => keeps_next (doContextRestoreDone_keeps _ _)
  | .benchPreempt .., s => keeps_of_frame (execBenchPreempt_frame _ s)
  | .jobFault .., s => keeps_next (doJobFault_keeps _ _ _)
  | .nonpreOverrun .., s => keeps_next (doNonpreOverrun_keeps _ _ _)
  | .semOverrun .., s => keeps_next (doSemOverrun_keeps _ _ _)
  | .jobTimeCap .., s => keeps_of_frame (execJobTimeCap_frame _ s)
  | .releaseGateAnswer .., s => keeps_next (doReleaseGate_keeps _ _)
  | .mmaWs .., s => keeps_next (doMma_keeps _ _ _ _)
  | .mmaOs .., s => keeps_next (doMma_keeps _ _ _ _)
  | .feederSlotFill .., s => keeps_next (doFeederFill_keeps _ _ _)
  | .arrayLastWrite .., s => keeps_next (doArrayLastWrite_keeps _ _)
  | .setmask .., s => keeps_next (doSetmask_keeps _ _ _ _ _)
  | .vop .., s => keeps_next (doVop_keeps _ _ _)
  | .vred .., s => keeps_next (doVred_keeps _ _ _)
  | .vcvt .., s => keeps_next (doVcvt_keeps _ _ _)
  | .xfer .., s => keeps_next (doXfer_keeps _ _ _)
  | .xferComplete .., s => keeps_next (doXferComplete_keeps _ _)
  | .br .., s => keeps_next (doBr_keeps _ _ _ _)
  | .semAcq .., s => keeps_next (doSemAcq_keeps _ _ _)
  | .semAcquired .., s => keeps_next (doSemAcquired_keeps _ _ _)
  | .semRel .., s => keeps_next (doSemRel_keeps _ _ _)
  | .npBegin .., s => keeps_next (doNpBegin_keeps _ _ _)
  | .npEnd .., s => keeps_next (doNpEnd_keeps _ _)
  | .fence .., s => keeps_next (doFence_keeps _ _)
  | .illegalOpcode .., s => keeps_next (doIllegal_keeps _ _ _)
  | .touchstoneSampleDone .., s => keeps_next (doTouchstone_keeps _ _ _)
  | .refetchComplete .., s => keeps_next (doRefetchComplete_keeps _ _ _ _ _ _ _ _)
  | .granuleReloadDone .., s => keeps_next (doGranuleReloadDone_keeps _ _ _ _)
  | .cacheStagingRequest .., s => keeps_next (startStaging_keeps _ _ _)
  | .stagingComplete .., s => keeps_next (doStagingComplete_keeps _ _ _ _)
  | .promotionRequest .., s => keeps_next (doPromotionRequest_keeps _ _ _ _ _)
  | .promotionComplete .., s => keeps_next (doPromotionComplete_keeps _ _ _)
  | .pinRelease .., s => keeps_next (doPinRelease_keeps _ _ _ _ _)
  | .promotionWaitResume .., s => keeps_next (doPromotionWaitResume_keeps _ _ _)
  | .writeBackGranule .., s => keeps_next (doWriteBackGranule_keeps _ _ _ _)
  | .dirtyWriteResume .., s => keeps_next (doDirtyWriteResume_keeps _ _)
  | .ceWindowStart, s => keeps_of_frame (execCeWindowStart_frame s)
  | .autoBurnishStart .., s => keeps_of_frame (execAutoBurnishStart_frame _ s)
  | .objectReadStart .., s => keeps_next (doObjectReadStart_keeps _ _ _)
  | .tokenBatchHandoff .., s => keeps_of_frame (execTokenBatchHandoff_frame _ _ _ s)
  | .batchVectorsReturn .., s => keeps_next (doBatchVectorsReturn_keeps _ _ _ _)
  | .recordAppend .., s => keeps_next (doRecordAppend_keeps _ _ _)
  | .markWaitResume .., s => keeps_next (retryAppend_keeps _ _ _)
  | .graphWalkComplete .., s => keeps_next (doGraphWalkComplete_keeps _ _ _)
  | .codePhaseComplete .., s => keeps_of_frame (execCodePhaseComplete_frame _ _ _ s)
  | .fetchPhaseComplete .., s => keeps_of_frame (execFetchPhaseComplete_frame _ _ _ _ s)
  | .hitMerge .., s => keeps_of_frame (execHitMerge_frame _ s)
  | .mendStart .., s => keeps_of_frame (execMendStart_frame _ s)
  | .graphRepair .., s => keeps_next (doGraphRepair_keeps _ _)
  | .linkFrameTagFail .., s => keeps_of_frame (execLinkFrameTagFail_frame _ _ s)
  | .linkRetrain .., s => keeps_of_frame (execLinkRetrain_frame _ s)
  | .linkRetrainComplete .., s => keeps_of_frame (execLinkRetrainComplete_frame _ s)
  | .linkRekey .., s => keeps_of_frame (execLinkRekey_frame _ _ s)
  | .channelDieFailed .., s => keeps_next (doChannelDieFailed_keeps _ _)
  | .pageRead .., s => keeps_next (doPageRead_keeps _ _ _ _ _)
  | .nandProgramComplete .., s => keeps_next (doNandProgramComplete_keeps _ _ _ _ _)
  | .blockEraseStart .., s => keeps_of_frame (execBlockEraseStart_frame _ _ s)
  | .nandEraseComplete .., s => keeps_next (doNandEraseComplete_keeps _ _ _ _ _)
  | .nandSuspend .., s => keeps_of_frame (execNandSuspend_frame _ _ _ s)
  | .nandResume .., s => keeps_of_frame (execNandResume_frame _ _ s)
  | .streamPageProgram .., s => keeps_of_frame (execStreamPageProgram_frame _ _ _ s)
  | .appendWaitResume .., s => keeps_next (retryAppend_keeps _ _ _)
  | .fold .., s => keeps_next (doFold_keeps _ _)
  | .consolidation .., s => keeps_next (doConsolidation_keeps _ _ _ _)
  | .garbageCollection .., s => keeps_next (doGarbageCollection_keeps _ _)
  | .wearLevelMove .., s => keeps_next (doWearLevelMove_keeps _ _ _)
  | .blockRefresh .., s => keeps_next (doBlockRefresh_keeps _ _ _)
  | .patrolRead .., s => keeps_of_frame (execPatrolRead_frame _ _ s)
  | .zqCalibration .., s => keeps_of_frame (execZqCalibration_frame _ _ s)
  | .dqTraining .., s => keeps_next (doDqTraining_keeps _ _ _ _)
  | .nandBrownout .., s => keeps_of_frame (execNandBrownout_frame _ s)
  | .nandSupplyRestored .., s => keeps_next (doNandSupplyRestored_keeps _ _ _)
  | .rawReadStart .., s => keeps_of_frame (execRawReadStart_frame _ s)
  | .rawReadDone .., s => keeps_of_frame (execRawReadDone_frame _ _ _ s)
  | .pwtUnlockWrite .., s => keeps_of_frame (execPwtUnlockWrite_frame _ s)
  | .pwtAddrWrite .., s => keeps_of_frame (execPwtAddrWrite_frame _ _ s)
  | .pwtDataWrite .., s => keeps_of_frame (execPwtDataWrite_frame _ _ s)
  | .pwtBadCmd .., s => keeps_of_frame (execPwtBadCmd_frame _ _ s)
  | .pageProgram, s => keeps_of_frame (execPageProgram_frame s)
  | .sectorErase, s => keeps_of_frame (execSectorErase_frame s)
  | .vaultProgram, s => keeps_of_frame (execVaultProgram_frame s)
  | .vaultZeroise, s => keeps_of_frame (execVaultZeroise_frame s)
  | .optProgram, s => keeps_of_frame (execOptProgram_frame s)
  | .optErase, s => keeps_of_frame (execOptErase_frame s)
  | .eraseSuspend, s => keeps_of_frame (execEraseSuspend_frame s)
  | .eraseSuspendComplete, s => keeps_of_frame (execEraseSuspendComplete_frame s)
  | .eraseResume, s => keeps_of_frame (execEraseResume_frame s)
  | .pwtOperationEnd .., s => keeps_of_frame (execPwtOperationEnd_frame _ s)
  | .pwtSequenceTimeout, s => keeps_of_frame (execPwtSequenceTimeout_frame s)
  | .pwtLockoutExpiry, s => keeps_of_frame (execPwtLockoutExpiry_frame s)
  | .pewterBrownout, s => keeps_of_frame (execPewterBrownout_frame s)
  | .securityEventLogProgram, s => keeps_of_frame (execSecurityEventLogProgram_frame s)
  | .hallmarkRebuildDone, s => keeps_next (doHallmarkRebuildDone_keeps _)
  | .errorReport _ r, s => keeps_next (Keeps.ofFrame (report_frame _ _ _) (by decide) (by decide)
      (Keeps.ofFrame (poisonedRead_frame _ _) (by decide) (by decide) (memoryError_keeps s r)))
  | .errorRecordWrite .., s => keeps_of_frame (execErrorRecordWrite_frame _ s)
  | .errRingAckWrite .., s => keeps_of_frame (execErrRingAckWrite_frame _ _ s)
  | .schCtrlWrite .., s => keeps_of_frame (execSchCtrlWrite_frame _ s)
  | .qtrMcCtrlWrite .., s => keeps_next (doMcCtrl_keeps _ _ _)
  | .brnCtrlWrite .., s => keeps_of_frame (execBrnCtrlWrite_frame _ s)
  | .pwrCtrlWrite .., s => keeps_of_frame (execPwrCtrlWrite_frame _ s)
  | .meCountClear .., s => keeps_next (modEngine_keeps s _ _ fun _ h => ⟨⟨h.1.1, h.1.2⟩, h.2⟩)
  | .bnCountClear .., s => keeps_of_frame (execBnCountClear_frame _ s)
  | .fmCountClear .., s => keeps_of_frame (execFmCountClear_frame _ s)
  | .registerWrite .., s => keeps_next (doRegisterWrite_keeps _ _ _ _)
  | .rcRegisterRead .., s => keeps_next (doTargetRead_keeps _ _ _)
  | .split64bitRead .., s => keeps_next (doRegisterRead_keeps _ _ _)
  | .bar2BadAccess .., s => keeps_of_frame (execBar2BadAccess_frame _ _ _ s)
  | .powerCap .., s => keeps_of_frame (execPowerCap_frame _ s)
  | .pwrBrakeAssert, s => keeps_of_frame (execPwrBrakeAssert_frame s)
  | .pwrBrakeDeassert, s => keeps_of_frame (execPwrBrakeDeassert_frame s)
  | .thermalSensorRead .., s => keeps_next (doThermalSensorRead_keeps _ _)
  | .thermalEmergencyEnd, s => keeps_of_frame (execThermalEmergencyEnd_frame s)
  | .thermTripRelease, s => keeps_of_frame (execThermTripRelease_frame s)
  | .railBrownout .., s => keeps_next (doRailBrownout_keeps _ _)
  | .holdupCapacitanceCheck .., s => keeps_of_frame (execHoldupCapacitanceCheck_frame _ s)
  | .holdupOkChange .., s => keeps_of_frame (execHoldupOkChange_frame _ s)
  | .apstIdleExpiry, s => keeps_next (doApstExpiry_keeps _)
  | .powerStateExitDone, s => keeps_next (Keeps.ite (enterPower_keeps _ _) (Keeps.refl s))
  | .i3cSetdasa .., s => keeps_of_frame (execI3cSetdasa_frame _ s)
  | .i3cEntdaa .., s => keeps_of_frame (execI3cEntdaa_frame _ s)
  | .setEndpointId .., s => keeps_of_frame (execSetEndpointId_frame _ s)
  | .miReadDataStructure .., s => keeps_of_frame (execMiReadDataStructure_frame _ _ s)
  | .miSubsystemHealthPoll clear, s => keeps_of_frame (execMiSubsystemHealthPoll_frame clear s)
  | .miControllerHealthPoll .., s => keeps_of_frame (execMiControllerHealthPoll_frame _ s)
  | .miConfigurationGet .., s => keeps_of_frame (execMiConfigurationGet_frame _ s)
  | .miConfigurationSet .., s => keeps_of_frame (execMiConfigurationSet_frame _ _ s)
  | .miVpdRead .., s => keeps_of_frame (execMiVpdRead_frame _ _ s)
  | .miVpdWrite, s => keeps_of_frame (execMiVpdWrite_frame s)
  | .miAdminCommand .., s => keeps_of_frame (execMiAdminCommand_frame _ s)
  | .telemetry, s => keeps_of_frame (execTelemetry_frame s)
  | .miQuench .., s => keeps_of_frame (execMiQuench_frame _ s)
  | .miUnsupportedCommand op, s => keeps_of_frame (execMiUnsupportedCommand_frame op s)
  | .custodianFrame .., s => keeps_of_frame (execCustodianFrame_frame _ s)
  | .messageReassemblyTimeout, s => keeps_of_frame (execMessageReassemblyTimeout_frame s)
  | .sessionInit, s => keeps_of_frame (execSessionInit_frame s)
  | .sessionInitResend, s => keeps_of_frame (execSessionInitResend_frame s)
  | .sessionAccept .., s => keeps_of_frame (execSessionAccept_frame _ s)
  | .sessionReject .., s => keeps_of_frame (execSessionReject_frame _ s)
  | .keyDeliver .., s => keeps_next (doKeyDeliver_keeps _ _ _)
  | .keyRevoke .., s => keeps_next (doKeyRevoke_keeps _ _)
  | .ping, s => keeps_of_frame (execPing_frame s)
  | .pong, s => keeps_of_frame (execPong_frame s)
  | .close reason, s => keeps_of_frame (execClose_frame reason s)
  | .sessionIdlePing, s => keeps_of_frame (execSessionIdlePing_frame s)
  | .sessionTimeout, s => keeps_of_frame (execSessionTimeout_frame s)
  | .sessionBackoffExpiry, s => keeps_of_frame (execSessionBackoffExpiry_frame s)
  | .dbgToken .., s => keeps_of_frame (execDbgToken_frame _ s)
  | .perstBDeassert, s => keeps_of_frame (execPerstBDeassert_frame s)
  | .vectorInstructionComplete .., s => keeps_next (doVectorComplete_keeps _ _)
  | .managementControllerRestart, s => keeps_next (doMcRestart_keeps _)
  | .mctpMessageDiscard type, s => keeps_of_frame (execMctpMessageDiscard_frame type s)

/-- A step is its front command on the queue's rest, or a microsecond that touches no store. -/
theorem step_keeps_memory (s : State) : KeepsMemory s (step s) := by
  unfold step
  split
  · exact keeps_next (Keeps.ofFrame (Frame.clockUs s _) (by decide) (by decide) (Keeps.refl s))
  · next c rest _ =>
    obtain ⟨t, ho, ht⟩ := exec_keeps_memory c { s with pending := rest }
    exact ⟨t, ho, ht.via (Keeps.ofFrame (Frame.pending s rest) (by decide) (by decide) (Keeps.refl s))⟩

/-- Settles O3: whatever the front command, the step is a next state that keeps every store canonical. -/
theorem everyStepKeepsMemoryCanonical : Obligations.EveryStepKeepsMemoryCanonical := by
  intro s t hs hstep
  obtain ⟨u, hu, hk⟩ := step_keeps_memory s
  obtain rfl : u = t := by simpa using hu.symm.trans hstep
  exact hk hs

end Sys2Proof.Proofs

/-! PROOFS. Reloads of clean granules, write-back of dirty ones, and the writes that wait for the limit (R174 to R176, R188,
R189, R319, R83, R438). -/

namespace Sys2Proof.Proofs

open Sys2Proof Sys2Proof.Machine Sys2Proof.Laws

/-! ### The end of a reload (R83, R87, R319) -/

/-- A granule is awaited no more. -/
def notAwaited (s : State) (g : Nat) : State :=
  { s with mem := { s.mem with reloading := s.mem.reloading.filter fun x => x.1 != g } }

/-- The C0 commands among the waiters of a granule that is awaited no more complete without the promise. -/
def reloadEnded (s : State) (g : Nat) (ks : List Key) : State := ks.foldl State.markUnbound (notAwaited s g)

section

variable {s : State} {g : Nat}

theorem doGranuleReloadDone_of_begun (q : QuarterId) (ks : List Key) {b : Nat}
    (hb : s.mem.reloading.find? (fun p => p.1 == g) = some (g, b)) : doGranuleReloadDone q g ks s =
      ((List.finRange 48).filter fun e => (reloadEnded s g ks).engines[e].job.any fun p => ks.contains p.1).foldl
        (fun u e => u.waitedNp e (s.clockUs - b)) (reloadEnded s g ks) := by
  simp only [doGranuleReloadDone, hb, Option.map_some, Option.isSome_some, if_true]
  rfl

theorem doGranuleReloadDone_of_unreported (q : QuarterId) (ks : List Key)
    (hb : s.mem.reloading.find? (fun p => p.1 == g) = none) : doGranuleReloadDone q g ks s =
      notAwaited ((reloadEnded s g ks).memoryReport (.stack (stackOfGranule g)) .corrected 0x21 4 0 4 3 q.val
        (4 * 2 ^ 60 + g * stackGranule) none 2) g := by
  have hnone : (s.mem.reloading.find? (fun p => p.1 == g)).map Prod.snd = none := by rw [hb]; rfl
  unfold doGranuleReloadDone
  extract_lets +onlyGivenNames begun now _ freed marked at_ ended
  have hended : ended = reloadEnded s g ks := by simp only [ended, begun, hnone]; rfl
  have hbegun : ¬begun.isSome = true := by simp only [begun, hnone]; decide
  rw [if_neg hbegun, hended]
  rfl

end

/-! ### Write-back (R174, R175, R438) -/

section

variable {s : State} {q : QuarterId} {g : Nat} (us : Nat)

theorem doWriteBackGranule_of_clean (h : ∀ d ∈ s.mem.dirty, ¬(d.quarter = q ∧ d.granule = g)) :
    doWriteBackGranule q g us s = s := by
  have hclean : s.mem.dirty.find? (fun d => d.quarter == q && d.granule == g) = none := by simpa using h
  simp only [doWriteBackGranule, hclean]

variable {d : DirtyGranule} (hd : s.mem.dirty.find? (fun d => d.quarter == q && d.granule == g) = some d)
include hd

theorem doWriteBackGranule_of_held (h : (∃ x ∈ s.mem.dirty, x.cls < d.cls) ∨ s.refersWaiting g = true ∨
    s.benchKept (homeBench q g) = true ∨ s.programHome q g = none) : doWriteBackGranule q g us s = s := by
  have hstop : (s.mem.dirty.any (fun x => x.cls < d.cls) || s.refersWaiting g || s.benchKept (homeBench q g) ||
      (s.programHome q g).isNone) = true := by
    simpa [or_assoc] using h
  simp only [doWriteBackGranule, hd]
  exact if_pos hstop

theorem doWriteBackGranule_of_free (hcls : ∀ x ∈ s.mem.dirty, d.cls ≤ x.cls) (hw : s.refersWaiting g = false)
    (hk : s.benchKept (homeBench q g) = false) (hp : (s.programHome q g).isSome = true) : doWriteBackGranule q g us s =
      (s.chargeWork (s.writeBackCls q) moduleShop (benchRes (homeBench q g)) us).granuleHome q g := by
  have hlower : (s.mem.dirty.any fun x => x.cls < d.cls) = false := by simpa using hcls
  have hroom : (s.programHome q g).isNone = false := by simpa [← Option.not_isSome] using hp
  simp only [doWriteBackGranule, hd, hlower, hw, hk, hroom, Bool.or_self, Bool.false_eq_true, if_false]

end

/-! ### Writes that wait for the limit (R175, R176) -/

/-- A granule joins the dirty ones, its mirror beside it. -/
def dirtied (s : State) (q : QuarterId) (g cls : Nat) : State :=
  { s with mem := { s.mem with dirty := s.mem.dirty ++ [{ quarter := q, granule := g, cls := cls, mirror := g }] } }

section

variable {s : State} {q : QuarterId}

theorem dirtyWrite_of_room {g : Nat} (cls : Nat) (hold : s.power.holdupOk = true) (hlimit : s.dirtyCount q < 65536)
    (hclean : ∀ d ∈ s.mem.dirty, ¬(d.quarter = q ∧ d.granule = g)) : s.dirtyWrite q g cls = (dirtied s q g cls, true) := by
  have hnew : (s.mem.dirty.any fun d => d.quarter == q && d.granule == g) = false := by simpa using hclean
  have hroom : s.dirtyCount q < s.dirtyLimit := by simpa [State.dirtyLimit, hold] using hlimit
  rw [State.dirtyWrite, hnew, Bool.and_false, if_neg Bool.false_ne_true, if_pos hroom]
  rfl

theorem doDirtyWriteResume_of_nothing (h : s.cache[q].dirtyWait = []) : doDirtyWriteResume q s = s := by
  simp only [doDirtyWriteResume, h]

theorem doDirtyWriteResume_of_full (hold : s.power.holdupOk = true) (h : 65536 ≤ s.dirtyCount q) :
    doDirtyWriteResume q s = s := by
  have hfull : ¬s.dirtyCount q < 65536 := Nat.not_lt.mpr h
  unfold doDirtyWriteResume
  split
  · rfl
  · simp only [hold, hfull, Bool.not_true, Bool.false_eq_true, if_false]

variable {x : Nat × Nat} {rest : List (Nat × Nat)} (hw : s.cache[q].dirtyWait = x :: rest)
include hw

theorem doDirtyWriteResume_of_holdupLow (hold : s.power.holdupOk = false) :
    let t := s.modCache q fun c => { c with dirtyWait := rest }
    doDirtyWriteResume q s = if t.lowerClean x.2 && (t.programHome q x.1).isSome then t.granuleHome q x.1 else s := by
  simp only [doDirtyWriteResume, hw, hold, Bool.not_false, if_true]

theorem doDirtyWriteResume_of_room (hold : s.power.holdupOk = true) (hlimit : s.dirtyCount q < 65536)
    (hclean : ∀ d ∈ s.mem.dirty, ¬(d.quarter = q ∧ d.granule = x.1)) :
    doDirtyWriteResume q s = dirtied (s.modCache q fun c => { c with dirtyWait := rest }) q x.1 x.2 := by
  have hresume : doDirtyWriteResume q s = ((s.modCache q fun c => { c with dirtyWait := rest }).dirtyWrite q x.1 x.2).1 := by
    simp only [doDirtyWriteResume, hw, hold, hlimit, Bool.not_true, Bool.false_eq_true, if_false, if_true]
  rw [hresume, dirtyWrite_of_room (s := s.modCache q _) x.2 hold hlimit hclean]

end

/-- Settles O23: one case for each clause, by what is awaited, what is dirty, and what waits to be. -/
theorem refetchesReloadsAndWriteBacks : Obligations.RefetchesReloadsAndWriteBacks := by
  intro s q o blk g us bad flash lost ok ks
  refine ⟨next_eq rfl, ⟨fun b hb => next_eq (doGranuleReloadDone_of_begun q ks hb), fun hb => ?_⟩,
    fun h => next_eq (doWriteBackGranule_of_clean us h),
    fun d hd => ⟨fun h => next_eq (doWriteBackGranule_of_held us hd h),
      fun hcls hw hk hp => next_eq (doWriteBackGranule_of_free us hd hcls hw hk hp)⟩,
    fun h => next_eq (doDirtyWriteResume_of_nothing h), fun hold h => next_eq (doDirtyWriteResume_of_full hold h),
    fun x rest hw => ⟨fun hold => next_eq (doDirtyWriteResume_of_holdupLow hw hold),
      fun hold hlimit hclean => next_eq (doDirtyWriteResume_of_room hw hold hlimit hclean)⟩⟩
  -- a reload that no report began
  have hexec : exec (.granuleReloadDone q ⟨g, ks⟩) s = .next (doGranuleReloadDone q g ks s) := rfl
  rw [hexec, doGranuleReloadDone_of_unreported q ks hb]
  unfold reloadEnded notAwaited
  rfl

end Sys2Proof.Proofs

/-! PROOFS. What home copies and warnings leave alone of the index, objects that become durable, and their deletion (R178, R229,
R278, R386, R387). -/

namespace Sys2Proof.Proofs

open Sys2Proof Sys2Proof.Machine Sys2Proof.Laws

/-! ### The index but for its home copies (R174, R178) -/

/-- An object without what the object map at home holds of it. -/
def bareObj (o : Obj) : Obj := { o with home := .pending, homeReason := 0 }

/-- The index without its home copies and without the warnings written. -/
def butHomes (s : State) : Search :=
  { s.search with objs := s.search.objs.map bareObj, homeLists := [], homeColls := [], plateWarned := [] }

theorem butHomes_of_search {s t : State} (h : t.search = s.search) : butHomes t = butHomes s := by
  simp only [butHomes, h]

theorem butHomes_of_frame {w : List Laws.Part} {s t : State} (h : Frame w s t)
    (hw : Laws.Part.search ∉ w := by decide) : butHomes t = butHomes s :=
  butHomes_of_search (search_of_frame h hw)

theorem butHomes_foldl {α : Type} {f : State → α → State} (l : List α) (hf : ∀ u, ∀ x ∈ l, butHomes (f u x) = butHomes u)
    (s : State) : butHomes (l.foldl f s) = butHomes s :=
  List.foldlRecOn (motive := fun u => butHomes u = butHomes s) l f rfl fun u hu x hx => (hf u x hx).trans hu

theorem map_updWhere {α : Type} {b f : α → α} {p : α → Bool} (hp : ∀ x, p (b x) = p x) (hf : ∀ x, b (f x) = f (b x))
    (l : List α) : (updWhere l p f).map b = updWhere (l.map b) p f := by
  simp only [updWhere, List.map_map]
  congr 1
  funext x
  simp only [Function.comp, hp]
  split_ifs
  · exact hf x
  · rfl

theorem updWhere_updWhere {α : Type} {f g : α → α} {p : α → Bool} (hp : ∀ x, p (f x) = p x) (l : List α) :
    updWhere (updWhere l p f) p g = updWhere l p fun x => g (f x) := by
  simp only [updWhere, List.map_map]
  congr 1
  funext x
  simp only [Function.comp]
  by_cases h : p x = true
  · simp only [h, if_true, hp]
  · simp only [h, if_false, Bool.false_eq_true]

/-- The object map at home takes over the read states of its objects. -/
theorem bareObj_copied (p : Obj → Bool) (l : List Obj) :
    (updWhere l p fun o => { o with home := o.state, homeReason := o.reason }).map bareObj = l.map bareObj := by
  simp only [updWhere, List.map_map]
  congr 1
  funext o
  simp only [Function.comp]
  split_ifs <;> rfl

/-- A granule other than a tail's goes home: of the index only home copies change. -/
theorem butHomes_copyHome (s : State) {g : Nat} (hg : 2 ^ 41 ≤ g) : butHomes (s.copyHome g) = butHomes s := by
  unfold State.copyHome
  split_ifs with tail log centroid directory objects descriptor
  · exact absurd tail (Nat.not_lt.mpr hg)
  · rfl
  · rfl
  · rfl
  · simp only [butHomes, bareObj_copied]
  · rfl
  · rfl

theorem butHomes_granuleHome (s : State) (q : QuarterId) {g : Nat} (hg : 2 ^ 41 ≤ g) :
    butHomes (s.granuleHome q g) = butHomes s := by
  unfold State.granuleHome
  split
  · rfl
  · next t h =>
    have home : butHomes t = butHomes s := butHomes_of_frame (programHome_frame s q g t h)
    extract_lets _ u
    have copied : butHomes u = butHomes t := butHomes_copyHome _ hg
    rw [butHomes_of_frame (noteStripes_frame _ _ _), butHomes_of_frame (noteStripes_frame _ _ _), copied, home]

theorem butHomes_dirtyThrough (s : State) (q : QuarterId) {g : Nat} (cls : Nat) (hg : 2 ^ 41 ≤ g) :
    butHomes (s.dirtyThrough q g cls).1 = butHomes s := by
  unfold State.dirtyThrough
  extract_lets known
  split_ifs
  · exact butHomes_of_frame (dirtyWrite_frame s q g cls)
  · exact (butHomes_granuleHome _ q hg).trans (butHomes_of_frame (modCache_frame s _ _))
  · rfl
  · exact butHomes_of_frame (dirtyWrite_frame s q g cls)

theorem butHomes_dirtyAll (l : List (QuarterId × Nat × Nat)) (h : ∀ w ∈ l, 2 ^ 41 ≤ w.2.1) (s : State) :
    butHomes (s.dirtyAll l).1 = butHomes s := by
  induction l generalizing s with
  | nil => rfl
  | cons w l ih =>
    obtain ⟨q, g, cls⟩ := w
    have hw := butHomes_dirtyThrough s q cls (h _ List.mem_cons_self)
    rw [State.dirtyAll]
    split
    · next u hu =>
      rw [hu] at hw
      exact (ih (fun w hw => h w (List.mem_cons_of_mem _ hw)) u).trans hw
    · next u hu => rwa [hu] at hw

theorem le_objectMapGranule (i : Nat) : 2 ^ 41 ≤ objectMapGranule i :=
  Nat.le_trans (by decide) (Nat.le_add_right (2 ^ 44) _)

theorem butHomes_dirtyMap (s : State) (b : BenchId) (i : Nat) : butHomes (s.dirtyMap b i) = butHomes s :=
  butHomes_dirtyThrough s _ 5 (le_objectMapGranule i)

theorem le_of_mapOf {x : PageIdent} {m : Nat × Nat} (h : x.mapOf = some m) : 2 ^ 41 ≤ m.1 := by
  unfold PageIdent.mapOf at h
  split_ifs at h <;> obtain rfl := Option.some.inj h
  · exact le_objectMapGranule _
  · exact Nat.le_trans (by decide) (Nat.le_add_right (2 ^ 43) _)

theorem butHomes_moveTo (s : State) (b : BenchId) (f : Flash) : butHomes (s.moveTo b f) = butHomes s := by
  unfold State.moveTo
  extract_lets old maps moved striped
  have hs : butHomes striped = butHomes s := by
    unfold striped
    split_ifs
    · exact butHomes_of_frame (modFlash_frame _ _ _)
    · exact (butHomes_dirtyThrough _ _ 1 (Nat.le_trans (by decide) (Nat.le_add_right (2 ^ 46) _))).trans
        (butHomes_of_frame (modFlash_frame _ _ _))
  refine (butHomes_foldl maps (fun u m hm => butHomes_dirtyThrough u _ _ ?_) striped).trans hs
  obtain ⟨x, -, hx⟩ := List.mem_filterMap.mp (List.mem_eraseDups.mp hm)
  exact le_of_mapOf hx

theorem butHomes_storeTables (s : State) (b : BenchId) : butHomes (s.storeTables b) = butHomes s := by
  refine butHomes_foldl _ (fun u o _ => ?_) s
  unfold State.storeTable
  extract_lets mine page
  split_ifs
  · rfl
  · split
    · exact (butHomes_of_frame (recountUsed_frame _ _)).trans (butHomes_moveTo ..)
    · rfl

theorem butHomes_warnBlocked (s : State) (o : Obj) (reason : Nat) : butHomes (s.warnBlocked o reason) = butHomes s := by
  unfold State.warnBlocked
  split
  · split
    · rfl
    · rw [butHomes_of_frame (reportGeneral_frame _ _ _ _ _ _ _ _ _)]
      rfl
  · split
    · split
      · rfl
      · split
        · rfl
        · split
          · rfl
          · split
            · rfl
            · rw [butHomes_of_frame (reportGeneral_frame _ _ _ _ _ _ _ _ _), butHomes_of_frame (modIngot_frame _ _ _)]
    · rfl

/-! ### A put becomes durable (R278, R386) -/

/-- The object that a put adds, before its read state is settled. -/
def newObj (s : State) (coll : Nat) (b : BenchId) (env : List Byte) : Obj :=
  { id := s.search.nextId, coll := coll, bench := b, envelope := env, state := .pending, reason := 0, home := .pending
    homeReason := 0, stop := 0, handed := [], passages := [], notIndexed := 0, membersSkipped := 0, appended := []
    storeEpoch := s.search.epoch, deleted := none, cipherHash := Config.shake256 env 32, contentHash := none, fields := []
    lost := none, readEndUs := 0 }

/-- A new object joins the index last, and nothing else of it changes but the next identifier. -/
theorem butHomes_storeObject (s : State) (coll : Nat) (b : BenchId) (env : List Byte) :
    butHomes (s.storeObject coll b env).2 = { butHomes s with
      objs := s.search.objs.map bareObj ++ [bareObj (s.settleRead (newObj s coll b env))]
      nextId := s.search.nextId + 1 } := by
  unfold State.storeObject
  extract_lets id o n _ added warned epoch staged noted counted
  have hadded : butHomes added = { butHomes s with
      objs := s.search.objs.map bareObj ++ [bareObj (s.settleRead (newObj s coll b env))]
      nextId := s.search.nextId + 1 } := by
    simp only [butHomes, added, List.map_append, List.map_cons, List.map_nil]
    rfl
  have hnoted : butHomes noted = butHomes staged :=
    butHomes_of_frame (Frame.getD fun u h => journal_frame staged b id u h)
  calc butHomes ((counted.recountUsed b).dirtyMap b id)
      _ = butHomes (counted.recountUsed b) := butHomes_dirtyMap ..
      _ = butHomes counted := butHomes_of_frame (recountUsed_frame _ _)
      _ = butHomes noted := butHomes_of_frame (modBench_frame _ _ _)
      _ = butHomes staged := hnoted
      _ = butHomes warned := butHomes_of_frame (modFlash_frame _ _ _)
      _ = butHomes added := butHomes_warnBlocked ..
      _ = _ := hadded

theorem settleRead_state (s : State) (o : Obj) :
    (s.settleRead o).state = .pending ∨ (s.settleRead o).state = .deferred := by
  unfold State.settleRead
  dsimp only
  split_ifs <;> simp

/-- A put waits no more, its Bench time charged to the queue's Shop as class C2. -/
def putTaken (s : State) (k : Key) (p : PendingPut) (us : Nat) : State :=
  { s.chargeWork 2 (s.shopNumber k) (benchRes p.bench) us with
    search := { s.search with puts := s.search.puts.filter fun q => q.key != k } }

section

variable {s : State} {k : Key} (us : Nat)

theorem doObjPutDurable_of_no_put (h : s.search.puts.find? (fun p => p.key == k) = none) : doObjPutDurable k us s = s := by
  simp only [doObjPutDurable, h]

variable {p : PendingPut} (hp : s.search.puts.find? (fun p => p.key == k) = some p)
include hp

theorem doObjPutDurable_of_held (h : s.canStore p.bench (pagesOf p.envelope.length) = false ∨ s.benchOk p.bench = false ∨
    s.benchReady p.bench = false ∨ s.benchKept p.bench = true) : doObjPutDurable k us s = s := by
  have hstop : (!s.canStore p.bench (pagesOf p.envelope.length) || !s.benchOk p.bench || !s.benchReady p.bench ||
      s.benchKept p.bench) = true := by
    simpa [or_assoc] using h
  simp only [doObjPutDurable, hp]
  exact if_pos hstop

variable (hroom : s.canStore p.bench (pagesOf p.envelope.length) = true) (hok : s.benchOk p.bench = true)
  (hready : s.benchReady p.bench = true) (hkept : s.benchKept p.bench = false)
include hroom hok hready hkept

theorem doObjPutDurable_of_map_waits
    (hmap : s.canDirty (quarterOfBench p.bench) (objectMapGranule s.search.nextId) 5 = false) :
    doObjPutDurable k us s = (s.dirtyThrough (quarterOfBench p.bench) (objectMapGranule s.search.nextId) 5).1 := by
  simp only [doObjPutDurable, hp, hroom, hok, hready, hkept, hmap, Bool.not_true, Bool.not_false, Bool.or_self,
    Bool.false_eq_true, if_false, if_true]

theorem doObjPutDurable_of_durable
    (hmap : s.canDirty (quarterOfBench p.bench) (objectMapGranule s.search.nextId) 5 = true) :
    doObjPutDurable k us s = ((putTaken s k p us).storeObject p.coll p.bench p.envelope).2.success k
      (s.search.nextId % 2 ^ 32) (s.search.nextId / 2 ^ 32) [] := by
  have hcharged : (s.chargeWork 2 (s.shopNumber k) (benchRes p.bench) us).search = s.search :=
    search_of_frame (chargeWork_frame _ _ _ _ _)
  simp only [doObjPutDurable, hp, hroom, hok, hready, hkept, hmap, Bool.not_true, Bool.or_self, Bool.false_eq_true,
    if_false, hcharged]
  rfl

end

/-! ### A delete becomes durable (R229, R387) -/

theorem le_of_deleteWrites {s : State} {o : Obj} {w : QuarterId × Nat × Nat} (h : w ∈ s.deleteWrites o) : 2 ^ 41 ≤ w.2.1 := by
  rw [State.deleteWrites, List.mem_append, List.mem_map, List.mem_singleton] at h
  obtain ⟨l, -, rfl⟩ | rfl := h
  · exact Nat.le_add_right _ _
  · exact le_objectMapGranule _

theorem obj_of_liveObj {s : State} {i : Nat} {o : Obj} (h : s.liveObj i = some o) : s.obj i = some o := by
  unfold State.liveObj at h
  split at h
  · next x hx =>
    split_ifs at h
    exact hx.trans h
  · exact absurd h (by simp)

/-- An object leaves READING: of the index only its read state changes. -/
theorem butHomes_endReading {s : State} {i : Nat} {o : Obj} (ho : s.obj i = some o) (st : ReadState) (reason : Nat) :
    butHomes (s.endReading i st reason) =
      butHomes (s.modObj i fun x => { x with state := st, reason := reason, readEndUs := s.clockUs }) := by
  simp only [State.endReading, ho]
  rw [butHomes_storeTables, butHomes_of_frame (modBench_frame _ _ _), butHomes_dirtyMap]

/-- A change of objects that does not look at what the object map at home holds. -/
theorem butHomes_modObj (s : State) (i : Nat) {f : Obj → Obj} (hf : ∀ x, bareObj (f x) = f (bareObj x)) :
    butHomes (s.modObj i f) = { butHomes s with objs := updWhere (butHomes s).objs (fun x => x.id == i) f } :=
  congrArg (fun l => { butHomes s with objs := l })
    (map_updWhere (b := bareObj) (p := fun x => x.id == i) (fun _ => rfl) hf s.search.objs)

/-- The DELETE entries of an epoch for the records of an object join a list's log. -/
def withDeletes (i e : Nat) (l : Lst) : Lst :=
  { l with log := l.log ++
      ((l.records.zipIdx.filter fun p => p.1.object == i).map fun p => { record := p.2, kind := .delete e }) }

theorem butHomes_tombstone (s : State) (i e : Nat) :
    butHomes (s.tombstone i e) = { butHomes s with lists := (butHomes s).lists.map (withDeletes i e) } := rfl

/-- What the end of reading by a delete makes of an object, if o was being read. -/
def readingEnded (o : Obj) (now : Nat) (x : Obj) : Obj :=
  if o.state = .reading then { x with state := .partRead, reason := 11, readEndUs := now } else x

theorem bareObj_readingEnded (o : Obj) (now : Nat) (x : Obj) :
    bareObj (readingEnded o now x) = readingEnded o now (bareObj x) := by
  unfold readingEnded
  split_ifs <;> rfl

theorem readingEnded_id (o : Obj) (now : Nat) (x : Obj) : (readingEnded o now x).id = x.id := by
  unfold readingEnded
  split_ifs <;> rfl

/-- The delete of an object ends its reading. -/
def stopReadingOf (s : State) (i : Nat) (o : Obj) : State :=
  if o.state == .reading then s.endReading i .partRead rrDeleted else s

theorem butHomes_stopReadingOf {s : State} {i : Nat} {o : Obj} (ho : s.obj i = some o) :
    butHomes (stopReadingOf s i o) = { butHomes s with
      objs := updWhere (butHomes s).objs (fun x => x.id == i) (readingEnded o s.clockUs) } := by
  unfold stopReadingOf
  by_cases h : o.state = .reading
  · have hended : readingEnded o s.clockUs =
        fun x => { x with state := .partRead, reason := rrDeleted, readEndUs := s.clockUs } := by
      funext x
      exact if_pos h
    rw [if_pos (by simpa using h), butHomes_endReading ho, ← hended]
    exact butHomes_modObj s i (bareObj_readingEnded o s.clockUs)
  · have hended : readingEnded o s.clockUs = id := by
      funext x
      exact if_neg h
    rw [if_neg (by simpa using h), hended]
    simp [updWhere]

/-- An object deleted at an epoch. -/
def deletedAt (e : Nat) (x : Obj) : Obj := { x with deleted := some e }

/-- A delete waits no more. -/
def deleteAnswered (s : State) (k : Key) : State :=
  { s with search := { s.search with deletes := s.search.deletes.filter fun d => d.1 != k } }

/-- The state once the journal entry of a delete stands: the object with its epoch, its records with their entries, its writes
made, its pages given up. -/
def deleted (s u : State) (k : Key) (i : Nat) (o : Obj) : State :=
  let e := u.search.epoch + 1
  let t := ((stopReadingOf (deleteAnswered u k) i o).modObj i (deletedAt e)).tombstone i e
  let w := (t.dirtyAll (s.deleteWrites o)).1
  (w.modFlash o.bench fun f => f.release fun x => (x.kind == 0 || x.kind == 2) && x.content == i).recountUsed o.bench

/-- A delete that takes effect marks the object and its records, and of the index changes nothing else. -/
theorem butHomes_deleted {s u : State} {i : Nat} {o : Obj} (k : Key) (hu : Frame [.flash] s u) (ho : s.obj i = some o) :
    butHomes (deleted s u k i o) = { butHomes s with
      objs := (updWhere s.search.objs (fun x => x.id == i) fun x =>
        deletedAt (s.search.epoch + 1) (readingEnded o s.clockUs x)).map bareObj
      lists := s.search.lists.map (withDeletes i (s.search.epoch + 1))
      deletes := s.search.deletes.filter fun d => d.1 != k } := by
  have hsearch : u.search = s.search := search_of_frame hu
  have hclock : u.clockUs = s.clockUs := hu .clockUs (by decide)
  have hobjs : updWhere (updWhere (s.search.objs.map bareObj) (fun x => x.id == i) (readingEnded o s.clockUs))
      (fun x => x.id == i) (deletedAt (s.search.epoch + 1)) =
      (updWhere s.search.objs (fun x => x.id == i) fun x =>
        deletedAt (s.search.epoch + 1) (readingEnded o s.clockUs x)).map bareObj := by
    rw [updWhere_updWhere fun x => by rw [readingEnded_id]]
    exact (map_updWhere (b := bareObj) (p := fun x => x.id == i) (fun _ => rfl)
      (fun x => by rw [← bareObj_readingEnded]; rfl) s.search.objs).symm
  unfold deleted
  extract_lets +onlyGivenNames e t w
  have ha : (deleteAnswered u k).obj i = some o := by simpa only [State.obj, deleteAnswered, hsearch] using ho
  have hw : butHomes w = butHomes t := butHomes_dirtyAll _ (fun _ h => le_of_deleteWrites h) t
  have hb : butHomes (deleteAnswered u k) = { butHomes s with deletes := s.search.deletes.filter fun d => d.1 != k } := by
    simp only [butHomes, deleteAnswered, hsearch]
  have hnow : (deleteAnswered u k).clockUs = s.clockUs := hclock
  have he : e = s.search.epoch + 1 := congrArg (fun x => Search.epoch x + 1) hsearch
  rw [butHomes_of_frame (recountUsed_frame _ _), butHomes_of_frame (modFlash_frame _ _ _), hw, butHomes_tombstone,
    butHomes_modObj _ _ (f := deletedAt e) fun _ => rfl, butHomes_stopReadingOf ha, hb, hnow, he, ← hobjs]
  rfl

section

variable {s : State} {k : Key}

theorem doObjDeleteDurable_of_no_delete (h : s.search.deletes.find? (fun d => d.1 == k) = none) :
    doObjDeleteDurable k s = s := by
  simp only [doObjDeleteDurable, h]

variable {d : Key × Nat} (hd : s.search.deletes.find? (fun d => d.1 == k) = some d)
include hd

theorem doObjDeleteDurable_of_absent (ho : s.liveObj d.2 = none) : doObjDeleteDurable k s =
    (deleteAnswered s k).refuse k scObjectAbsent := by
  simp only [doObjDeleteDurable, hd, ho]
  rfl

variable {o : Obj} (ho : s.liveObj d.2 = some o)
include ho

theorem doObjDeleteDurable_of_no_journal (hj : s.journal o.bench d.2 = none) : doObjDeleteDurable k s = s := by
  simp only [doObjDeleteDurable, hd, ho, Option.bind_some, hj]

variable {u : State} (hj : s.journal o.bench d.2 = some u)
include hj

theorem doObjDeleteDurable_of_writes_wait (hw : (u.dirtyAll (s.deleteWrites o)).2 = false) :
    doObjDeleteDurable k s = (s.dirtyAll (s.deleteWrites o)).1 := by
  simp only [doObjDeleteDurable, hd, ho, Option.bind_some, hj, hw, Bool.not_false, if_true]

theorem doObjDeleteDurable_of_durable (hw : (u.dirtyAll (s.deleteWrites o)).2 = true) :
    doObjDeleteDurable k s =
      (deleted s u k d.2 o).success k ((s.search.epoch + 1) % 2 ^ 32) ((s.search.epoch + 1) / 2 ^ 32 % 2 ^ 16) [] := by
  have hepoch : u.search.epoch = s.search.epoch := congrArg Search.epoch (search_of_frame (journal_frame _ _ _ _ hj))
  rw [← hepoch]
  simp only [doObjDeleteDurable, hd, ho, Option.bind_some, hj, hw, Bool.not_true, Bool.false_eq_true, if_false]
  rfl

end

/-! ### OBJ_DELETE (R387) -/

section

variable {s : State} {e : Sqe} {m : Mold} {h : Shop} (hm : s.mold.mold = some m) (hw : s.ioWaits = false)
  (hh : m.shopOfQueue e.key.ctrl e.key.sqid = some h) (hok : onantOk e [allOnes, allOnes, 0, 0, 0, 0] 0 0 = true)
include hm hw hh hok

theorem doObjDelete_of_absent (ho : s.liveObj (wide64 e.cdw10 e.cdw11) = none) :
    doObjDelete e s = s.refuse e.key scObjectAbsent := by
  rw [doObjDelete, onant_of_fields hm hw hh hok rfl]
  simp only [ho]

theorem doObjDelete_of_live {o : Obj} (ho : s.liveObj (wide64 e.cdw10 e.cdw11) = some o) (hc : (m.coll o.coll).isSome = true)
    (hx : ∀ x, s.coll o.coll = some x → x.unavailable = false) : doObjDelete e s =
      { s with search := { s.search with deletes := s.search.deletes ++ [(e.key, wide64 e.cdw10 e.cdw11)] } } := by
  have hnone : (m.coll o.coll).isNone = false := by simpa [← Option.not_isSome] using hc
  rw [doObjDelete, onant_of_fields hm hw hh hok rfl]
  simp only [ho, State.named, hnone, Bool.false_eq_true, if_false]
  refine if_neg fun hgone => ?_
  split at hgone
  · next x hcoll => exact Bool.false_ne_true ((hx x hcoll).symm.trans hgone)
  · exact Bool.false_ne_true hgone

end

/-- Settles O33: the clauses of puts and deletes by what has room, what may become dirty, and which object is live; what a
durable put or delete leaves of the index is the index but for its home copies. -/
theorem objectsBecomeDurableAndAreDeleted : Obligations.ObjectsBecomeDurableAndAreDeleted := by
  intro s k us e m h bare
  refine ⟨fun hp => next_eq (doObjPutDurable_of_no_put us hp),
    fun p hp => ⟨fun hstop => next_eq (doObjPutDurable_of_held us hp hstop),
      fun hroom hok hready hkept hmap => next_eq (doObjPutDurable_of_map_waits us hp hroom hok hready hkept hmap),
      fun hroom hok hready hkept hmap => ⟨next_eq (doObjPutDurable_of_durable us hp hroom hok hready hkept hmap), ?_⟩⟩,
    fun hm hw hh hok => ⟨fun ho => next_eq (doObjDelete_of_absent hm hw hh hok ho),
      fun o ho hc hx => next_eq (doObjDelete_of_live hm hw hh hok ho hc hx)⟩,
    fun hd => next_eq (doObjDeleteDurable_of_no_delete hd),
    fun d hd => ⟨fun ho => next_eq (doObjDeleteDurable_of_absent hd ho),
      fun o ho => ⟨fun hj => next_eq (doObjDeleteDurable_of_no_journal hd ho hj),
        fun u hj => ⟨fun hw => next_eq (doObjDeleteDurable_of_writes_wait hd ho hj hw), fun hw => ?_⟩⟩⟩⟩
  -- a durable put
  · have hx := butHomes_storeObject (putTaken s k p us) p.coll p.bench p.envelope
    exact ⟨congrArg Search.nextId hx, congrArg Search.puts hx, _, congrArg Search.objs hx, rfl, rfl, rfl, rfl, rfl,
      settleRead_state .., rfl⟩
  -- a durable delete
  · have hx := butHomes_deleted k (journal_frame _ _ _ _ hj) (obj_of_liveObj ho)
    exact ⟨_, next_eq (doObjDeleteDurable_of_durable hd ho hj hw), congrArg Search.objs hx, congrArg Search.lists hx,
      congrArg Search.deletes hx, (congrArg Search.epoch hx :)⟩

end Sys2Proof.Proofs

/-! PROOFS. Ingots are loaded piece by piece, validated, dropped and removed (R187, R193, R195, R196, R199). -/

namespace Sys2Proof.Proofs

open Sys2Proof Sys2Proof.Machine Sys2Proof.Laws

/-! ### Pieces (R195) -/

/-- A piece joins the image of an Ingot that held had bytes, and the whole pages go to flash. -/
def pieceJoined (s : State) (e : Sqe) (i : Nat) (final : Bool) (bs : List Byte) (us had : Nat) : State :=
  (s.modIngot i fun g =>
    { g with image := g.image ++ bs, lastPieceUs := s.clockUs, pageUs := us
             finalPiece := if final then some e.key else none }).storeIngot us i
    (if final then pagesOf (had + bs.length) else (had + bs.length) / 16384)

/-- The final piece is answered when its validation ends, any other at once. -/
def pieceAnswered (s : State) (e : Sqe) (final : Bool) : State := if final then s else s.success e.key 0 0 []

theorem takePiece_of_known {s : State} {i : Nat} {g : Ingot} (hg : s.ingot i = some g) (e : Sqe) (final : Bool)
    (bs : List Byte) (us : Nat) :
    s.takePiece e i final bs us = pieceAnswered (pieceJoined s e i final bs us g.image.length) e final := by
  simp only [State.takePiece, hg, Option.isSome_some, if_true]
  rfl

theorem takePiece_of_unknown {s : State} {i : Nat} (hg : s.ingot i = none) (e : Sqe) (final : Bool) (bs : List Byte)
    (us : Nat) : s.takePiece e i final bs us =
      pieceAnswered (pieceJoined { s with ingots := s.ingots ++ [loadingIngot i] } e i final bs us 0) e final := by
  have hnew : State.ingot { s with ingots := s.ingots ++ [loadingIngot i] } i = some (loadingIngot i) := by
    have hold : s.ingots.find? (fun g => g.id == i) = none := hg
    simp [State.ingot, hold, loadingIngot]
  simp only [State.takePiece, hg, Option.isSome_none, Bool.false_eq_true, if_false, hnew]
  rfl

section

variable {s : State} {e : Sqe} {m : Mold} {h : Shop} (piece : List Byte) (us : Nat) (hm : s.mold.mold = some m)
  (hw : s.ioWaits = false) (hh : m.shopOfQueue e.key.ctrl e.key.sqid = some h)
include hm hw hh

section

variable (hok : onantOk e [allOnes, 1, allOnes, allOnes, allOnes, 0] e.cdw14.toNat 0 = true)
  (hf : (within e.cdw10.toNat 1 0xFFFFFFFE && within e.cdw14.toNat 4096 16777216 &&
    (bit e.cdw11.toNat 0 || e.cdw14.toNat % 4096 == 0)) = true)
include hok hf

theorem doIngotLoad_of_unknown (hg : s.ingot e.cdw10.toNat = none) : doIngotLoad e ⟨piece, us⟩ s =
    if wide64 e.cdw12 e.cdw13 = 0 then
      s.takePiece e e.cdw10.toNat (bit e.cdw11.toNat 0) (padTo e.cdw14.toNat piece) us
    else s.refuse e.key scInvalidField := by
  rw [doIngotLoad, onant_of_fields hm hw hh hok hf]
  simp only [hg, beq_iff_eq]

theorem doIngotLoad_of_known {g : Ingot} (hg : s.ingot e.cdw10.toNat = some g) : doIngotLoad e ⟨piece, us⟩ s =
    if wide64 e.cdw12 e.cdw13 = 0 then s.refuse e.key scIngotExists
    else if g.state = .loading ∧ g.finalPiece = none ∧ wide64 e.cdw12 e.cdw13 = g.image.length then
      s.takePiece e e.cdw10.toNat (bit e.cdw11.toNat 0) (padTo e.cdw14.toNat piece) us
    else s.refuse e.key scInvalidField := by
  rw [doIngotLoad, onant_of_fields hm hw hh hok hf]
  simp only [hg, beq_iff_eq, Bool.and_eq_true, Option.isNone_iff_eq_none, and_assoc]

end

/-! ### Dropping (R187, R199) -/

variable (hok : onantOk e [allOnes, 0, 0, 0, 0, 0] 0 0 = true)
include hok

theorem doIngotDrop_of_unknown (hg : s.ingot e.cdw10.toNat = none) : doIngotDrop e s = s.refuse e.key scIngotAbsent := by
  rw [doIngotDrop, onant_of_fields hm hw hh hok rfl]
  simp only [hg]

theorem doIngotDrop_of_known {g : Ingot} (hg : s.ingot e.cdw10.toNat = some g) : doIngotDrop e s =
    if ¬(g.state = .ready ∨ g.state = .poisoned) then s.refuse e.key scIngotAbsent
    else if ∃ x ∈ s.ingots, x.derived = true ∧ x.base = e.cdw10.toNat then s.refuse e.key scIngotBusy
    else (((s.modIngot e.cdw10.toNat fun g => { g with state := .dropping }).stopEmbedding e.cdw10.toNat).dropUnpinned
      fun x => x == e.cdw10.toNat).success e.key 0 0 [] := by
  rw [doIngotDrop, onant_of_fields hm hw hh hok rfl]
  simp only [hg, Bool.not_eq_true', Bool.or_eq_false_iff, List.any_eq_true, Bool.and_eq_true, beq_iff_eq, not_or,
    beq_eq_false_iff_ne, ne_eq]

end

/-! ### Validation, time-out and removal (R195, R196, R199) -/

section

variable {s : State} {id : Word32}

theorem doIngotValidation_of_unknown (hg : s.ingot id.toNat = none) : doIngotValidation id s = s := by
  simp only [doIngotValidation, hg]

theorem doIngotTimeout_of_unknown (hg : s.ingot id.toNat = none) : doIngotTimeout id s = s := by
  simp only [doIngotTimeout, hg]

theorem doIngotRemoved_eq (s : State) (id : Word32) : doIngotRemoved id s =
    if s.dropping id.toNat = true ∧ (∀ j ∈ s.sched.jobs, j.ingot ≠ id.toNat) ∧
        ∀ c ∈ s.cache.toList, ∀ o ∈ c.objs, o.id.ingot = id → o.pinned = false then
      (s.dropUnpinned fun x => x == id.toNat).removeIngot id.toNat
    else s := by
  simp only [doIngotRemoved, Bool.and_eq_true, Bool.not_eq_true', List.any_eq_false, beq_iff_eq, and_assoc, not_and,
    Bool.not_eq_true, ne_eq]

variable {g : Ingot} (hg : s.ingot id.toNat = some g)
include hg

theorem doIngotValidation_of_partial (hf : g.finalPiece = none) : doIngotValidation id s = s := by
  simp only [doIngotValidation, hg, hf]

theorem doIngotTimeout_of_known : doIngotTimeout id s =
    if g.state = .loading ∧ g.finalPiece = none ∧ g.lastPieceUs + 10000000 ≤ s.clockUs then
      (s.removeIngot g.id).reportGeneral .scheduler .informational 0x48 0 0 0 none g.id
    else s := by
  simp only [doIngotTimeout, hg, Bool.and_eq_true, beq_iff_eq, Option.isNone_iff_eq_none, decide_eq_true_eq, and_assoc]

/-- The end of a validation, for an image whose pages have gone to flash in u: its status, or the Ingot READY. -/
def validated (u : State) (g : Ingot) (k : Key) : State :=
  match u.validateIngot g with
  | some (sc, dw0, dw1) => (u.removeIngot g.id).status k sc dw0 dw1 []
  | none => (u.modIngot g.id Ingot.parsed).success k 0 0 []

theorem doIngotValidation_of_final {k : Key} (hk : g.finalPiece = some k) :
    let u := s.storeIngot g.pageUs g.id (pagesOf g.image.length)
    doIngotValidation id s =
      if u.roomForIngot = true ∧ u.ingotWaits g.id (pagesOf g.image.length) ≠ [] then u else validated u g k := by
  simp only [doIngotValidation, hg, hk, Bool.and_eq_true, Bool.not_eq_true', List.isEmpty_eq_false_iff]
  rfl

end

/-- Settles O34: each row by what the Ingot is, with the conditions of the clause. -/
theorem ingotsAreLoadedValidatedAndDropped : Obligations.IngotsAreLoadedValidatedAndDropped := by
  intro s e piece us m h id
  refine ⟨fun hm hw hh => ?_, fun hg => ⟨next_eq (doIngotValidation_of_unknown hg), next_eq (doIngotTimeout_of_unknown hg)⟩,
    fun g hg => ⟨fun hf => next_eq (doIngotValidation_of_partial hg hf), fun k hk => ⟨fun hl hr => ?_, fun hl => ?_⟩,
      fun hs hf ht => next_eq ((doIngotTimeout_of_known hg).trans (if_pos ⟨hs, hf, ht⟩)), fun hn => ?_⟩,
    fun hd hj hc => next_eq ((doIngotRemoved_eq s id).trans (if_pos ⟨hd, hj, hc⟩)), fun hn => ?_⟩
  · refine ⟨fun hok h1 h2 h3 h4 h5 => ?_, fun hok => ⟨fun hg => next_eq (doIngotDrop_of_unknown hm hw hh hok hg),
      fun g hg => ⟨fun hs => ?_, fun hs => ⟨fun hd => ?_, fun hd => ?_⟩⟩⟩⟩
    -- a piece
    · have hf : (within e.cdw10.toNat 1 0xFFFFFFFE && within e.cdw14.toNat 4096 16777216 &&
          (bit e.cdw11.toNat 0 || e.cdw14.toNat % 4096 == 0)) = true := by simp [within, h1, h2, h3, h4, h5]
      refine ⟨fun hg hz => ?_, fun hg hz => ?_, fun g hg => ⟨fun hz => ?_, fun hz hs hn hl => ?_, fun hz hbad => ?_⟩⟩
      · exact next_eq (((doIngotLoad_of_unknown piece us hm hw hh hok hf hg).trans (if_pos hz)).trans
          (takePiece_of_unknown hg ..))
      · exact next_eq ((doIngotLoad_of_unknown piece us hm hw hh hok hf hg).trans (if_neg hz))
      · exact next_eq ((doIngotLoad_of_known piece us hm hw hh hok hf hg).trans (if_pos hz))
      · exact next_eq ((((doIngotLoad_of_known piece us hm hw hh hok hf hg).trans (if_neg hz)).trans
          (if_pos ⟨hs, hn, hl⟩)).trans (takePiece_of_known hg ..))
      · refine next_eq (((doIngotLoad_of_known piece us hm hw hh hok hf hg).trans (if_neg hz)).trans (if_neg ?_))
        rintro ⟨hs, hn, hl⟩
        exact hbad.elim (· hs) (·.elim (· hn) (· hl))
    -- a drop of an Ingot that is loading or dropping, of one that others derive from, and of one that none does
    · refine next_eq ((doIngotDrop_of_known hm hw hh hok hg).trans (if_pos ?_))
      obtain hs | hs := hs <;> simp [hs]
    · exact next_eq (((doIngotDrop_of_known hm hw hh hok hg).trans (if_neg (not_not_intro hs))).trans (if_pos hd))
    · refine next_eq (((doIngotDrop_of_known hm hw hh hok hg).trans (if_neg (not_not_intro hs))).trans (if_neg ?_))
      rintro ⟨x, hx, hn⟩
      exact hd x hx hn
  -- a validation that waits for its pages, and one that ends
  · exact next_eq ((doIngotValidation_of_final hg hk).trans (if_pos ⟨hr, hl⟩))
  · refine next_eq ((doIngotValidation_of_final hg hk).trans (if_neg ?_))
    rintro ⟨hr, hw⟩
    exact hl.elim hw fun h => Bool.false_ne_true (h.symm.trans hr)
  -- an Ingot that does not time out, and one that is not removed yet
  · refine next_eq ((doIngotTimeout_of_known hg).trans (if_neg ?_))
    rintro ⟨hs, hf, ht⟩
    exact hn.elim (· hs) (·.elim (· hf) (Nat.not_lt.mpr ht))
  · refine next_eq ((doIngotRemoved_eq s id).trans (if_neg ?_))
    rintro ⟨hd, hj, hc⟩
    obtain hn | ⟨j, hm, hn⟩ | ⟨c, hmc, o, hmo, hn, hp⟩ := hn
    · exact Bool.false_ne_true (hn.symm.trans hd)
    · exact hj j hm hn
    · exact Bool.false_ne_true ((hc c hmc o hmo hn).symm.trans hp)

end Sys2Proof.Proofs

/-! PROOFS. Input power comes and goes with its flush, the thermal trip ends, and power states are entered and left (R177, R371,
R392 to R394, R398, R411, R412). -/

namespace Sys2Proof.Proofs

open Sys2Proof Sys2Proof.Machine Sys2Proof.Laws

/-! ### Input power comes (R371, R398, R411, R412) -/

section

variable {s : State} (split : Bool) (slot : BitVec 3)

theorem doInputGood_of_off (h : s.power.phase = .off) : doInputGood split slot s =
    { s with
      clockUs := 0
      power := { s.power with
        inputGood := true, split := split, slotId := slot, phase := .standbyBoot, disconnected := false } } := by
  rw [doInputGood, h]
  rfl

theorem doInputGood_of_tripped (h : s.power.phase = .tripped) : doInputGood split slot s =
    s.modPower fun p => { p with inputGood := true, disconnected := false, lostAt := none } := by
  rw [doInputGood, h]
  rfl

theorem doInputGood_of_on (hoff : s.power.phase ≠ .off) (htrip : s.power.phase ≠ .tripped) :
    doInputGood split slot s = s := by
  rw [doInputGood, if_neg (by simpa using htrip), if_pos (by simpa using hoff)]

end

theorem doStandbyBootDone_of_other {s : State} (h : s.power.phase ≠ .standbyBoot) : doStandbyBootDone s = s :=
  if_pos (by simpa using h)

theorem doStandbyBootDone_of_standbyBoot {s : State} (h : s.power.phase = .standbyBoot) (hheld : s.power.heldDeassert = none) :
    doStandbyBootDone s = (bankStarted s.loadOptions).modPower fun p => { p with phase := .standby } := by
  have hp : (bankStarted s.loadOptions).power = s.power :=
    (power_of_frame (bankStarted_frame _)).trans (power_of_frame (loadOptions_frame s))
  have hn : ((bankStarted s.loadOptions).modPower fun p => { p with phase := .standby }).power.heldDeassert = none := by
    rw [modPower_power, hp, hheld]
  unfold doStandbyBootDone
  rw [if_neg (by simp [h])]
  extract_lets loaded _ answering standby
  have hs : standby.power.heldDeassert = none := hn
  rw [hs]
  rfl

theorem bankStarted_words (s : State) : (bankStarted s).pewter.words = s.pewter.words := by
  unfold bankStarted State.bootBank
  split <;> rfl

theorem bankStarted_bmc (s : State) : (bankStarted s).bmc = { s.bmc with answers := (bankStarted s).fw.mcRuns } := by
  have hb : s.bootBank.bmc = s.bmc := bmc_of_frame (bootBank_frame s)
  simp only [bankStarted, hb]

theorem loadOptions_words (s : State) : s.loadOptions.pewter.words = s.pewter.words := by
  simp only [State.loadOptions, Pewter.loadOptions, Pewter.recount]

/-- Standby: the power block but for its phase, and the parts outside the options and the bank, are as before; the BMC port
answers where an image runs. -/
theorem doStandbyBootDone_parts {s : State} (h : s.power.phase = .standbyBoot) (hheld : s.power.heldDeassert = none) :
    (doStandbyBootDone s).power = { s.power with phase := .standby } ∧
      (doStandbyBootDone s).bmc = { s.bmc with answers := (doStandbyBootDone s).fw.mcRuns } ∧
      (doStandbyBootDone s).pewter.words = s.pewter.words ∧ (doStandbyBootDone s).ctrls = s.ctrls ∧
      (doStandbyBootDone s).mold = s.mold ∧ (doStandbyBootDone s).benches = s.benches ∧
      (doStandbyBootDone s).links = s.links := by
  have hf : Frame [.pewter, .fw, .bmc] s (bankStarted s.loadOptions) :=
    ((Frame.refl s).step (loadOptions_frame s)).step (bankStarted_frame _)
  have hbmc : (bankStarted s.loadOptions).bmc = { s.bmc with answers := (bankStarted s.loadOptions).fw.mcRuns } :=
    (bankStarted_bmc _).trans (by rw [bmc_of_frame (loadOptions_frame s)])
  have hwords : (bankStarted s.loadOptions).pewter.words = s.pewter.words :=
    (bankStarted_words _).trans (loadOptions_words s)
  rw [doStandbyBootDone_of_standbyBoot h hheld]
  generalize bankStarted s.loadOptions = v at hf hbmc hwords ⊢
  exact ⟨by rw [modPower_power, power_of_frame hf], hbmc, hwords, hf .ctrls (by decide), hf .mold (by decide),
    hf .benches (by decide), hf .links (by decide)⟩

/-! ### Input power goes (R177, R398) -/

theorem flushLog_dirtyWrite (s : State) (q : QuarterId) (g cls : Nat) :
    (s.dirtyWrite q g cls).1.mem.flushLog = s.mem.flushLog := by
  unfold State.dirtyWrite
  split_ifs <;> rfl

theorem flushLog_noteStripes (old s : State) (b : BenchId) :
    (State.noteStripes old s b).mem.flushLog = s.mem.flushLog := by
  have hcount (u : State) : (u.recountUsed b).mem = u.mem := recountUsed_frame u b .mem (by decide)
  unfold State.noteStripes
  rw [hcount]
  split_ifs
  · rfl
  · exact flushLog_dirtyWrite ..

theorem flushLog_granuleHome (s : State) (q : QuarterId) (g : Nat) : (s.granuleHome q g).mem.flushLog = s.mem.flushLog := by
  unfold State.granuleHome
  split
  · rfl
  · next t h =>
    have home : t.mem = s.mem := programHome_frame s q g t h .mem (by decide)
    extract_lets _ u
    have copied : u.mem.flushLog = t.mem.flushLog := rfl
    rw [flushLog_noteStripes, flushLog_noteStripes, copied, home]

theorem flushLog_dirtyThrough (s : State) (q : QuarterId) (g cls : Nat) :
    (s.dirtyThrough q g cls).1.mem.flushLog = s.mem.flushLog := by
  unfold State.dirtyThrough
  extract_lets known
  split_ifs
  · exact flushLog_dirtyWrite ..
  · exact flushLog_granuleHome ..
  · rfl
  · exact flushLog_dirtyWrite ..

/-- What a flush log is written under: the log found, and the published epoch. -/
def flushTerms (s : State) : Option FlushLog × Nat := (s.mem.flushLog, s.search.epoch)

theorem flushTerms_eq_iff {s t : State} :
    flushTerms t = flushTerms s ↔ t.mem.flushLog = s.mem.flushLog ∧ t.search.epoch = s.search.epoch :=
  Prod.mk_inj

theorem flushTerms_streamPageDone (s : State) (b : BenchId) (x : PageIdent) :
    flushTerms (s.streamPageDone b x) = flushTerms s := by
  unfold State.streamPageDone
  extract_lets programmed listed
  have hcount (u : State) : flushTerms (u.recountUsed b) = flushTerms u := rfl
  rw [hcount, flushTerms, flushLog_dirtyThrough, (dirtyThrough_sameNumbers ..).1]
  rfl

theorem flushTerms_foldl {α : Type} {f : State → α → State} (hf : ∀ u x, flushTerms (f u x) = flushTerms u) (l : List α)
    (s : State) : flushTerms (l.foldl f s) = flushTerms s :=
  List.foldlRecOn (motive := fun u => flushTerms u = flushTerms s) l f rfl fun u hu x _ => (hf u x).trans hu

theorem flushTerms_endPrograms (s : State) : flushTerms s.endPrograms = flushTerms s := by
  refine flushTerms_foldl (fun u b => ?_) _ s
  dsimp only
  split_ifs
  · rfl
  · exact flushTerms_foldl (fun v x => flushTerms_streamPageDone v b x) _ _

/-- A running module without a flush log writes one of all that is dirty; without supply to the end it holds no commit
record. -/
theorem flush_log {s : State} (committed : Bool) (hlog : s.mem.flushLog = none) (hrun : s.power.phase = .running) :
    ∃ l, (s.flush committed).mem.flushLog = some l ∧ l.granules = s.mem.dirty ∧ l.tails = s.tailsDirty ∧
      l.epoch = s.search.epoch ∧ (committed = false → l.commits = []) := by
  unfold State.flush
  rw [if_neg (by simp [hlog, hrun])]
  generalize s.tailsDirty = tails
  cases h : s.logAll with
  | none => exact ⟨_, rfl, rfl, rfl, rfl, fun _ => rfl⟩
  | some r =>
    dsimp only
    cases hl : (if committed = true then r.2.logCommit else none) with
    | none => exact ⟨_, rfl, rfl, rfl, rfl, fun _ => rfl⟩
    | some c =>
      refine ⟨_, rfl, rfl, rfl, rfl, fun hc => ?_⟩
      rw [hc] at hl
      exact absurd hl (by simp)

section

variable {s : State} (overV committed : Bool)

theorem doInputPowerLost_of_off (h : s.power.phase = .off) : doInputPowerLost overV committed s =
    s.modPower fun p => { p with disconnected := p.disconnected || overV } := by
  rw [doInputPowerLost, h]
  rfl

theorem doInputPowerLost_of_tripped (h : s.power.phase = .tripped) : doInputPowerLost overV committed s =
    s.modPower fun p => { p with inputGood := false, disconnected := overV, lostAt := some (p.lostAt.getD s.clockUs) } := by
  rw [doInputPowerLost, h]
  rfl

theorem doInputPowerLost_of_on (hoff : s.power.phase ≠ .off) (htrip : s.power.phase ≠ .tripped) :
    doInputPowerLost overV committed s = s.powerOff committed overV := by
  rw [doInputPowerLost, if_neg (by simpa using hoff), if_neg (by simpa using htrip)]

/-! One lemma for each part that is asked of, so that no proof compares two whole states: that would unfold the programs of 512
Benches. -/

theorem afterReset_epoch (x : Search) : x.afterReset.epoch = x.epoch := rfl

theorem powerOff_search : (s.powerOff committed overV).search = (s.endPrograms.flush committed).search.afterReset := by
  delta State.powerOff State.railsOff
  exact rfl

/-- The memories of a module without power: nothing but a flush log. -/
def onlyLog (l : Option FlushLog) : Memory := { Memory.reset with flushLog := l }

theorem onlyLog_flushLog (l : Option FlushLog) : (onlyLog l).flushLog = l := rfl

theorem powerOff_mem : (s.powerOff committed overV).mem = onlyLog (s.endPrograms.flush committed).mem.flushLog := by
  delta State.powerOff State.railsOff
  exact rfl

/-- What stands outside the module, and the epoch on media, outlast the loss of power. -/
theorem powerOff_keeps_outside : (s.powerOff committed overV).search.epoch = s.search.epoch ∧
    (s.powerOff committed overV).out = s.out ∧ (s.powerOff committed overV).clockUs = s.clockUs := by
  have hf := powerOff_frame s committed overV
  have hsearch : (s.endPrograms.flush committed).search = s.endPrograms.search := search_of_frame (flush_frame _ _)
  obtain ⟨-, hepoch⟩ := flushTerms_eq_iff.mp (flushTerms_endPrograms s)
  refine ⟨?_, hf .out (by decide), hf .clockUs (by decide)⟩
  rw [powerOff_search, afterReset_epoch, hsearch, hepoch]

/-- Every part inside the module takes its reset value. -/
theorem powerOff_resets :
    (s.powerOff committed overV).power = { Power.reset with perstB := s.power.perstB, disconnected := overV } ∧
    (s.powerOff committed overV).bmc = Bmc.reset ∧ (s.powerOff committed overV).ctrls = State.reset.ctrls ∧
    (s.powerOff committed overV).sched = Sched.reset ∧ (s.powerOff committed overV).mold = MoldBlock.reset ∧
    (s.powerOff committed overV).engines = State.reset.engines ∧ (s.powerOff committed overV).links = State.reset.links ∧
    (s.powerOff committed overV).grid = Grid.reset := ⟨rfl, rfl, rfl, rfl, rfl, rfl, rfl, rfl⟩

/-- Power that goes from a running module leaves the flush log of what is dirty once the programs have ended. -/
theorem powerOff_log (hlog : s.mem.flushLog = none) (hrun : s.power.phase = .running) :
    ∃ l, (s.powerOff committed overV).mem.flushLog = some l ∧ l.granules = s.endPrograms.mem.dirty ∧
      l.tails = s.endPrograms.tailsDirty ∧ l.epoch = s.search.epoch ∧ (committed = false → l.commits = []) := by
  obtain ⟨hsame, hepoch⟩ := flushTerms_eq_iff.mp (flushTerms_endPrograms s)
  have hpower : s.endPrograms.power = s.power := power_of_frame (endPrograms_frame s)
  obtain ⟨l, hl, hg, ht, he, hc⟩ := flush_log committed (hsame.trans hlog) (by rw [hpower, hrun])
  exact ⟨l, by rw [powerOff_mem, onlyLog_flushLog, hl], hg, ht, he.trans hepoch, hc⟩

end

/-! ### The end of a thermal trip (R411) -/

/-- The input has been away for 1 s: R411 asks it of a tripped module. -/
theorem execThermTripRelease_of_away {s : State} {x : Nat} (hp : s.power.phase = .tripped) (hx : s.power.lostAt = some x)
    (ht : x + 1000000 ≤ s.clockUs) : execThermTripRelease s =
      .next { s with power := { Power.reset with perstB := s.power.perstB }, bmc := Bmc.reset } := by
  have haway : (s.power.lostAt.any fun x => x + 1000000 ≤ s.clockUs) = true := by
    rw [hx, Option.any_some]
    exact decide_eq_true ht
  refine next_eq (if_pos ?_)
  rw [hp, haway]
  rfl

theorem execThermTripRelease_of_other {s : State} (h : s.power.phase ≠ .tripped ∨ s.power.lostAt = none) :
    execThermTripRelease s = .next s := by
  refine next_eq (if_neg ?_)
  rw [Bool.and_eq_true, not_and, beq_iff_eq]
  intro hp
  obtain h | h := h
  · exact absurd hp h
  · simp [h]

/-! ### Power states (R392 to R394) -/

/-- The parts of the power block that say which state is in force. -/
def powerStateOf (s : State) : Nat × Bool × Nat := (s.power.state, s.power.exiting, s.power.lastOp)

theorem powerStateOf_eq_iff {s : State} {n l : Nat} {x : Bool} :
    powerStateOf s = (n, x, l) ↔ s.power.state = n ∧ s.power.exiting = x ∧ s.power.lastOp = l := by
  simp only [powerStateOf, Prod.mk.injEq]

theorem powerStateOf_of_frame {w : List Laws.Part} {s t : State} (h : Frame w s t)
    (hw : Laws.Part.power ∉ w := by decide) : powerStateOf t = powerStateOf s := by
  simp only [powerStateOf, power_of_frame h hw]

theorem powerStateOf_allocate (s : State) : powerStateOf s.allocate = powerStateOf s := by
  unfold State.allocate
  extract_lets
  split_ifs <;> rfl

theorem powerStateOf_capFall (s : State) : powerStateOf s.capFall = powerStateOf s := by
  unfold State.capFall
  split
  split_ifs
  · rw [powerStateOf_of_frame (evalC0_frame _ _), powerStateOf_allocate]
    rfl
  · rfl
  · rfl

/-- The power block names the state entered, once the tails are programmed for PS4. -/
def stateEntered (s : State) (n : Nat) : State :=
  (if n == 4 then s.programTails else s).modPower fun p =>
    { p with state := n, lastOp := if n ≤ 2 then n else p.lastOp, exiting := false }

theorem enterPower_eq (s : State) (n : Nat) : s.enterPower n = (stateEntered s n).gateParts.capFall := rfl

theorem powerStateOf_enterPower (s : State) (n : Nat) :
    powerStateOf (s.enterPower n) = (n, false, if n ≤ 2 then n else s.power.lastOp) := by
  have hp : (if n == 4 then s.programTails else s).power = s.power := by
    split_ifs
    · exact power_of_frame (programTails_frame s)
    · rfl
  rw [enterPower_eq, powerStateOf_capFall, powerStateOf_of_frame (gateParts_frame _), powerStateOf, stateEntered,
    modPower_power, hp]

/-- No cap and no C0 condition touches a part that is gated. -/
theorem enterPower_engines (s : State) (n : Nat) : (s.enterPower n).engines = (stateEntered s n).gateParts.engines :=
  capFall_frame _ .engines (by decide)

theorem enterPower_benches (s : State) (n : Nat) : (s.enterPower n).benches = (stateEntered s n).gateParts.benches :=
  capFall_frame _ .benches (by decide)

theorem gateParts_engine_off {s : State} {e : EngineId} (hn : 3 ≤ s.power.state) (he : s.engines[e].state = .idle) :
    s.gateParts.engines[e].state = .off := by
  rw [Fin.getElem_fin] at he
  simp [State.gateParts, hn, he]

theorem gateParts_bench_idle {s : State} {b : BenchId} (hn : s.power.state < 4) (hb : s.benches[b].state = .idle) :
    s.gateParts.benches[b].state = .idle := by
  have hne : s.power.state ≠ 4 := Nat.ne_of_lt hn
  rw [Fin.getElem_fin] at hb
  simp [State.gateParts, hne, hb]

theorem gateParts_bench_off {s : State} {b : BenchId} (hn : s.power.state = 4) (hb : s.benches[b].state = .idle) :
    s.gateParts.benches[b].state = .off := by
  rw [Fin.getElem_fin] at hb
  simp [State.gateParts, hn, hb]

theorem stateEntered_of_ne {s : State} {n : Nat} (h : n ≠ 4) : stateEntered s n =
    s.modPower fun p => { p with state := n, lastOp := if n ≤ 2 then n else p.lastOp, exiting := false } := by
  rw [stateEntered, if_neg (by simpa using h)]

theorem stateEntered_four (s : State) : stateEntered s 4 =
    s.programTails.modPower fun p => { p with state := 4, exiting := false } := rfl

/-! ### Autonomous transitions (R394) -/

theorem doApstExpiry_of_whole {s : State} (h : s.power.split = false) : doApstExpiry s =
    if s.idleNow = true ∧ s.power.state < s.apstTarget 0 ∧ s.apstTarget 0 ≤ 4 then s.enterPower (s.apstTarget 0) else s := by
  simp only [doApstExpiry, h, Bool.false_eq_true, if_false, Bool.and_eq_true, decide_eq_true_eq, gt_iff_lt, and_assoc]

theorem doApstExpiry_of_busy {s : State} (h : s.idleNow = false) : doApstExpiry s = s := by
  simp only [doApstExpiry, h, Bool.false_and, Bool.false_eq_true, if_false]

theorem apstTarget_of_entry {s : State} {c : Ctrl} {n ms : Nat} (hen : s.ctrls[c].apstEnable = true)
    (hent : s.ctrls[c].apstTable[s.power.state]? = some (n, ms)) (hms : ms ≠ 0) : s.apstTarget c = n := by
  simp only [State.apstTarget, hen, hent, beq_iff_eq, hms, if_true, if_false]

theorem apstTarget_of_disabled {s : State} {c : Ctrl} (hen : s.ctrls[c].apstEnable = false) :
    s.apstTarget c = s.power.state := by
  simp only [State.apstTarget, hen, Bool.false_eq_true, if_false]

/-- Settles O25: the clauses of input power by the phase it meets, those of power states by what is asked and what is idle. -/
theorem powerComesGoesAndRests : Obligations.PowerComesGoesAndRests := by
  refine ⟨fun s split overV committed slot => ⟨fun h => next_eq (doInputGood_of_off split slot h),
      fun hoff htrip => next_eq (doInputGood_of_on split slot hoff htrip),
      fun hp hh => ⟨_, rfl, doStandbyBootDone_parts hp hh⟩,
      fun h => next_eq (doStandbyBootDone_of_other h), fun h => next_eq (doInputPowerLost_of_off overV committed h),
      fun h => next_eq (doInputPowerLost_of_tripped overV committed h),
      fun h => next_eq (doInputGood_of_tripped split slot h), fun hoff htrip => ?_,
      fun _ hp hx ht => execThermTripRelease_of_away hp hx ht, fun h => execThermTripRelease_of_other h⟩,
    fun s n ms => ⟨fun hs hen hent hms hlt hle hi => ?_, fun h => next_eq (doApstExpiry_of_busy h), fun hs hen => ?_,
      fun h => next_eq (if_pos h), fun h => next_eq (if_neg (Bool.eq_false_iff.mp h)), ?_, ?_, ?_, ?_, ?_, ?_⟩⟩
  -- input power is lost by a module that is on
  · obtain ⟨hpower, hbmc, hctrls, hsched, hmold, hengines, hlinks, hgrid⟩ := powerOff_resets (s := s) overV committed
    obtain ⟨hepoch, hout, hclock⟩ := powerOff_keeps_outside (s := s) overV committed
    exact ⟨_, next_eq (doInputPowerLost_of_on overV committed hoff htrip), hpower, hbmc, hctrls, hsched, hmold,
      hengines, hlinks, hgrid, hepoch, hout, hclock, powerOff_log overV committed⟩
  -- autonomous transitions
  · have ht : s.apstTarget 0 = n := apstTarget_of_entry hen hent hms
    exact next_eq ((doApstExpiry_of_whole hs).trans (by rw [ht, if_pos ⟨hi, hlt, hle⟩]))
  · refine next_eq ((doApstExpiry_of_whole hs).trans (if_neg ?_))
    rw [apstTarget_of_disabled hen]
    exact fun h => Nat.lt_irrefl _ h.2.1
  -- the state that is entered
  · exact (powerStateOf_eq_iff.mp (powerStateOf_enterPower s n)).1
  · exact (powerStateOf_eq_iff.mp (powerStateOf_enterPower s n)).2.1
  · exact (powerStateOf_eq_iff.mp (powerStateOf_enterPower s n)).2.2
  · intro e h3 h4 he
    rw [enterPower_engines, stateEntered_of_ne h4]
    exact gateParts_engine_off h3 he
  · intro b h4 hb
    rw [enterPower_benches, stateEntered_of_ne (Nat.ne_of_lt h4)]
    exact gateParts_bench_idle h4 hb
  · rintro t rfl
    refine ⟨fun e he => ?_, fun b hb => ?_⟩
    · rw [enterPower_engines, stateEntered_four]
      exact gateParts_engine_off (Nat.le_succ 3) he
    · rw [enterPower_benches, stateEntered_four]
      exact gateParts_bench_off rfl hb

end Sys2Proof.Proofs

/-! PROOFS. JOB_STATUS (R210): the job it names, and the record of Table 8-11. -/

namespace Sys2Proof.Proofs

-- One declaration after another, as in the laws: each waiting thread counts against the check's memory.
set_option Elab.async false

open Sys2Proof Sys2Proof.Machine Sys2Proof.Laws

/-! ### JOB_STATUS (R210) -/

theorem le_length (n v : Nat) : (le n v).length = n := by
  induction n generalizing v with
  | zero => rfl
  | succ n ih => rw [le, List.length_cons, ih]

/-- Table 8-11 has 64 bytes. -/
theorem statusBytes_length (j : Job) : j.statusBytes.length = 64 := by
  simp only [Job.statusBytes, List.length_append, le_length]

/-- The QUERY or JOB_SUBMIT that Dword 10 of a JOB_STATUS names. -/
def namedBy (dw10 : Nat) (j : Job) : Bool :=
  j.isJob && j.key.cid.toNat == dw10 % 65536 && j.key.sqid == dw10 / 65536 % 2048 && j.key.ctrl.val == dw10 / 2 ^ 27 % 2

section

variable {s : State} {e : Sqe} {m : Mold} {h : Shop} (hm : s.mold.mold = some m) (hw : s.ioWaits = false)
  (hh : m.shopOfQueue e.key.ctrl e.key.sqid = some h) (hok : onantOk e [0x0FFFFFFF, 0, 0, 0, 0, 0] 0 64 = true)
include hm hw hh hok

theorem doJobStatus_of_fields : doJobStatus e s = (s.sched.jobs.find? (namedBy e.cdw10.toNat)).elim
    (s.refuse e.key scInvalidField) fun j => s.success e.key 64 0 j.statusBytes := by
  rw [doJobStatus, onant_of_fields hm hw hh hok rfl, bits_15_0]
  change (match s.sched.jobs.find? (namedBy e.cdw10.toNat) with
    | some j => s.success e.key 64 0 j.statusBytes
    | none => s.refuse e.key scInvalidField) = _
  cases s.sched.jobs.find? (namedBy e.cdw10.toNat) <;> rfl

theorem doJobStatus_of_named {j : Job} (hj : s.sched.jobs.find? (namedBy e.cdw10.toNat) = some j) :
    doJobStatus e s = s.success e.key 64 0 j.statusBytes := by
  rw [doJobStatus_of_fields hm hw hh hok, hj, Option.elim_some]

theorem doJobStatus_of_none (hj : s.sched.jobs.find? (namedBy e.cdw10.toNat) = none) :
    doJobStatus e s = s.refuse e.key scInvalidField := by
  rw [doJobStatus_of_fields hm hw hh hok, hj, Option.elim_none]

end

/-- Settles O30: the fields pass, and the answer goes by whether a job of that name exists. -/
theorem jobStatusReturnsTheRecord : Obligations.JobStatusReturnsTheRecord := by
  intro s e m h hm hw hh hok named
  exact ⟨fun j hj => next_eq (doJobStatus_of_named hm hw hh hok hj), fun j _ => statusBytes_length j,
    fun hj => next_eq (doJobStatus_of_none hm hw hh hok hj)⟩

end Sys2Proof.Proofs

/-! PROOFS. A semaphore out of the mask (R207): the record of an Engine fault names the reason (R90, R116, Table 17-6), which a
fault without a note does not. -/

namespace Sys2Proof.Proofs

-- One declaration after another, as in the laws: each waiting thread counts against the check's memory.
set_option Elab.async false

open Sys2Proof Sys2Proof.Machine Sys2Proof.Laws

theorem errors_of_frame {w : List Laws.Part} {s t : State} (h : Frame w s t) (hw : Laws.Part.errors ∉ w := by decide) :
    t.errors = s.errors := h .errors hw

/-! ### The record of a fault (R90, Table 17-6) -/

/-- The record of a job's fault. -/
def faultRecord (s : State) (k : Key) (sc : Nat) (n : FaultNote) : Report :=
  { sev := .degraded, kind := 0x40, granule := none, body := s.faultBody k sc n }

/-- DETAIL, the first byte of the body, is the reason of the note. -/
theorem faultRecord_detail (s : State) (k : Key) (sc : Nat) (n : FaultNote) :
    (faultRecord s k sc n).body.head? = some (BitVec.ofNat 8 n.reason) := rfl

/-- DETAIL of the newest record in wait. -/
def newestDetail (s : State) : Option Byte := s.errors.queue.getLast?.bind fun p => p.2.2.body.head?

/-- Of a source with fewer than four records in wait, one more joins the queue. -/
theorem report_queue {s : State} {src : Source} (hroom : (s.errors.queue.filter fun p => p.1 == src).length < 4) (r : Report) :
    (s.report src r).errors.queue = s.errors.queue ++ [(src, s.clockUs, r)] := by
  rw [State.report, if_neg (Nat.not_le.mpr hroom)]

section

variable {s : State} {k : Key} {j : Job} (hj : s.job k = some j) (hc : j.cls ≠ 0)
include hj hc

/-- Once its record is made, a fault of a lower class reports nothing more. -/
theorem faultJobNoted_errors (sc : Nat) (src : Source) (n : FaultNote) : (s.faultJobNoted k sc src n).errors =
    ((s.teardown k).report src (faultRecord (s.teardown k) k sc n)).errors := by
  simp only [State.faultJobNoted, hj, c0Finish_of_lower hc, dropJob_errors]
  -- the completion, by the kind of the job
  split
  on_goal 1 => rw [errors_of_frame (refuse_frame _ _ _)]
  on_goal 2 => rw [errors_of_frame (status_frame _ _ _ _ _ _)]
  on_goal 3 => rw [errors_of_frame (status_frame _ _ _ _ _ _)]
  -- NO_ADMIT, by the fault scope of the Mold
  all_goals
    repeat' split
    all_goals rfl

/-- The reason of a fault's note is the DETAIL of the newest record. -/
theorem faultJobNoted_detail {src : Source} (hroom : (s.errors.queue.filter fun p => p.1 == src).length < 4) (sc : Nat)
    (n : FaultNote) : newestDetail (s.faultJobNoted k sc src n) = some (BitVec.ofNat 8 n.reason) := by
  have htorn : (s.teardown k).errors = s.errors := errors_of_frame (teardown_frame s k)
  rw [newestDetail, faultJobNoted_errors hj hc, report_queue (by rwa [htorn]), List.getLast?_concat, Option.bind_some,
    faultRecord_detail]

/-- An Engine fault is not the fault of its status alone: their records differ in DETAIL. -/
theorem engineFault_ne_faultJob {e : EngineId} {reason : Nat} (hr : BitVec.ofNat 8 reason ≠ 0)
    (hroom : (s.errors.queue.filter fun p => p.1 == Source.engine e).length < 4) (op sc : Nat) :
    s.engineFault e k reason op ≠ (s.engineReason e reason op).faultJob k sc (.engine e) := by
  intro heq
  have hframe := engineReason_frame s e reason op
  have hj' : (s.engineReason e reason op).job k = some j := by rw [State.job, sched_of_frame hframe]; exact hj
  rw [← errors_of_frame hframe] at hroom
  have hdetail := congrArg newestDetail heq
  rw [State.engineFault, State.faultJob] at hdetail
  exact hr (Option.some.inj
    ((faultJobNoted_detail hj' hc hroom _ _).symm.trans (hdetail.trans (faultJobNoted_detail hj' hc hroom _ _))))

end

/-! ### A semaphore that the mask does not set (R207) -/

/-- A job of class 1 that may acquire no semaphore. -/
def masklessJob : Job := { newJob { ctrl := 0, sqid := 1, cid := 9 } .query 1 1 with state := .running }

/-- A module with that job on Engine 0 and nothing else. -/
def masklessOn : State :=
  { State.reset with
    sched := { Sched.reset with jobs := [masklessJob] }
    engines := State.reset.engines.set 0 { Engine.reset with state := .running, job := some (masklessJob.key, 0) } }

/-- Refutes O44: SEM_ACQ of semaphore 64 records the fault of Engine 0 with DETAIL 9 (SEM_RANGE), where the fault by status
alone that the statement names records DETAIL 0. -/
theorem not_semaphoresFollowTheMask : ¬ Obligations.SemaphoresFollowTheMask := by
  intro h
  obtain ⟨-, -, heq⟩ := (h masklessOn 0 64 masklessJob.key masklessJob rfl rfl).1 (.inl (Nat.le_refl 64))
  have hj : masklessOn.job masklessJob.key = some masklessJob := rfl
  exact engineFault_ne_faultJob hj (by decide) (by decide) (by decide) 0x30 scEngineFault heq

end Sys2Proof.Proofs

/-! PROOFS. Records that join their lists, mend and graph repair (R214, R215, R217, R229, R231, R232, R234 to R236). -/

namespace Sys2Proof.Proofs

open Sys2Proof Sys2Proof.Machine Sys2Proof.Laws

/-! ### What an append finds of the index (R215, R232) -/

/-- A list without the count of its records that pages at home hold. -/
def bareLst (l : Lst) : Lst := { l with homeCount := 0 }

/-- The lists but for what is at home of them, the records on their way, and the appends that wait. -/
def appendIndex (s : State) : List Lst × List (Nat × BatchRec) × List (Nat × BatchRec) :=
  (s.search.lists.map bareLst, s.search.transit, s.search.appendWait)

theorem appendIndex_of_butHomes {s t : State} (h : butHomes t = butHomes s) : appendIndex t = appendIndex s :=
  congrArg (fun x => (x.lists.map bareLst, x.transit, x.appendWait)) h

theorem appendIndex_of_frame {w : List Laws.Part} {s t : State} (h : Frame w s t)
    (hw : Laws.Part.search ∉ w := by decide) : appendIndex t = appendIndex s :=
  appendIndex_of_butHomes (butHomes_of_frame h hw)

/-- Of a list only the count of its records at home changes. -/
theorem appendIndex_copyHome (s : State) (g : Nat) : appendIndex (s.copyHome g) = appendIndex s := by
  by_cases tail : g < 2 ^ 41
  · rw [State.copyHome, if_pos tail]
    simp only [appendIndex, List.map_map]
    congr 2
    funext l
    simp only [Function.comp]
    split_ifs <;> rfl
  · exact appendIndex_of_butHomes (butHomes_copyHome s (Nat.le_of_not_lt tail))

theorem appendIndex_granuleHome (s : State) (q : QuarterId) (g : Nat) :
    appendIndex (s.granuleHome q g) = appendIndex s := by
  unfold State.granuleHome
  split
  · rfl
  · next t h =>
    have home : appendIndex t = appendIndex s := appendIndex_of_frame (programHome_frame s q g t h)
    extract_lets _ u
    have copied : appendIndex u = appendIndex t := appendIndex_copyHome _ g
    rw [appendIndex_of_frame (noteStripes_frame _ _ _), appendIndex_of_frame (noteStripes_frame _ _ _), copied, home]

theorem appendIndex_dirtyThrough (s : State) (q : QuarterId) (g cls : Nat) :
    appendIndex (s.dirtyThrough q g cls).1 = appendIndex s := by
  unfold State.dirtyThrough
  extract_lets known
  split_ifs
  · exact appendIndex_of_frame (dirtyWrite_frame s q g cls)
  · exact (appendIndex_granuleHome _ q g).trans (appendIndex_of_frame (modCache_frame s _ _))
  · rfl
  · exact appendIndex_of_frame (dirtyWrite_frame s q g cls)

theorem appendIndex_bringTail {s t : State} {b : BenchId} {list stream : Nat} (h : s.bringTail b list stream = some t) :
    appendIndex t = appendIndex s := by
  unfold State.bringTail at h
  extract_lets ts at h
  clear_value ts
  split at h
  · exact Option.some.inj h ▸ appendIndex_of_frame (modBench_frame _ _ _)
  split at h
  · exact Option.some.inj h ▸ appendIndex_of_frame (modBench_frame _ _ _)
  split at h
  · cases h
  next old rest _ =>
  split at h
  · cases h
  next f _ =>
  extract_lets cleaned at h
  have hc : appendIndex cleaned = appendIndex s :=
    (appendIndex_of_frame (cleanTail_frame _ _ _ _)).trans (appendIndex_of_frame (modFlash_frame _ _ _))
  rw [← Option.some.inj h, appendIndex_copyHome, appendIndex_of_frame (modBench_frame _ _ _), hc]

theorem appendIndex_bringTails {s t : State} {b : BenchId} {list : Nat} {sts : List Nat}
    (h : s.bringTails b list sts = some t) : appendIndex t = appendIndex s := by
  induction sts generalizing s with
  | nil => cases h; rfl
  | cons st sts ih =>
    rw [State.bringTails] at h
    split at h
    · next u hu => exact (ih h).trans (appendIndex_bringTail hu)
    · cases h

theorem appendIndex_dirtyTails (s : State) (b : BenchId) (list : Nat) (sts : List Nat) :
    appendIndex (s.dirtyTails b list sts).1 = appendIndex s := by
  induction sts generalizing s with
  | nil => rfl
  | cons st sts ih =>
    rw [State.dirtyTails]
    split
    · rfl
    next t _ =>
    have ht := appendIndex_dirtyThrough s (quarterOfBench b) (tailGranule b t.slot) 1
    split
    · next u hu => rw [hu] at ht; exact (ih u).trans ht
    · next u hu => rwa [hu] at ht

theorem appendIndex_endReading (s : State) (i : Nat) (st : ReadState) (reason : Nat) :
    appendIndex (s.endReading i st reason) = appendIndex s := by
  cases ho : s.obj i with
  | none => simp only [State.endReading, ho]
  | some o => exact (appendIndex_of_butHomes (butHomes_endReading ho st reason)).trans rfl

theorem appendIndex_settleReading (s : State) (i : Nat) : appendIndex (s.settleReading i) = appendIndex s := by
  unfold State.settleReading
  split
  · rfl
  · split
    · exact appendIndex_endReading ..
    · rfl

/-! ### A record joins the end of its list (R214, R229) -/

/-- A list whose end a record has joined, stamped with an epoch. -/
def joined (r : BatchRec) (e : Nat) (l : Lst) : Lst := { l.push (stamped r e) with lastEpoch := e }

theorem append_of_noMark {s : State} {l : Lst} (r : BatchRec) (hfirst : l.records.length = l.countAt)
    (hpool : markPool ≤ s.search.marksUsed) : s.append l r = (s, .noMark) := by
  simp [State.append, hfirst, hpool]

/-- An append that is done has changed one list of those it finds once the tails and the directory are dirty. -/
theorem appendIndex_of_append {s t : State} {l : Lst} {r : BatchRec} (h : s.append l r = (t, .done)) :
    ∃ u, appendIndex u = appendIndex s ∧
      appendIndex t = appendIndex (u.modList l.num (joined r (s.search.epoch + 1))) := by
  unfold State.append at h
  extract_lets first sts e at h
  split at h
  · cases h
  split at h
  · cases h
  next s1 h1 =>
  split at h
  · cases h
  next s2 h2 =>
  split at h
  next s3 written h3 =>
  split at h
  · cases h
  extract_lets v1 v2 v3 v4 at h
  have tails : appendIndex s2 = appendIndex s1 := by
    have := appendIndex_dirtyTails s1 l.bench l.num sts
    rwa [h2] at this
  have directory : appendIndex s3 = appendIndex s2 := by
    have := appendIndex_dirtyThrough s2 (quarterOfBench l.bench) (directoryGranule l.num) 4
    rwa [h3] at this
  refine ⟨s3, (directory.trans tails).trans (appendIndex_bringTails h1), ?_⟩
  rw [← (Prod.mk.inj h).1, appendIndex_settleReading, appendIndex_of_frame (modBench_frame _ _ _)]
  rfl

theorem find?_updWhere_of_disjoint {α : Type} {l : List α} {p q : α → Bool} {f : α → α}
    (hpq : ∀ x, q x = true → p x = false) (hf : ∀ x, p (f x) = p x) : (updWhere l q f).find? p = l.find? p := by
  have hp : (p ∘ fun x => if q x then f x else x) = p := by
    funext x
    simp only [Function.comp]
    split_ifs
    · exact hf x
    · rfl
  rw [updWhere, List.find?_map, hp]
  cases hx : l.find? p with
  | none => rfl
  | some x =>
    have hq : q x = false := Bool.eq_false_iff.mpr fun h => by
      simpa [hpq x h] using List.find?_some hx
    simp [hq]

theorem lst_map_bareLst (s : State) (m : Nat) :
    (s.lst m).map bareLst = (appendIndex s).1.find? fun l => l.num == m := by
  rw [appendIndex, List.find?_map]
  rfl

theorem lst_num {s : State} {n : Nat} {l : Lst} (h : s.lst n = some l) : l.num = n := by
  simpa using List.find?_some h

/-- The lists after an append that is done. -/
theorem append_lists {s t : State} {n : Nat} {l : Lst} {r : BatchRec} (hl : s.lst n = some l)
    (h : s.append l r = (t, .done)) :
    (appendIndex t).1 = updWhere (appendIndex s).1 (fun x => x.num == n) (joined r (s.search.epoch + 1)) := by
  obtain ⟨u, hu, ht⟩ := appendIndex_of_append h
  rw [ht, ← hu, ← lst_num hl]
  exact map_updWhere (b := bareLst) (f := joined r _) (fun _ => rfl) (fun _ => rfl) u.search.lists

theorem append_waiting {s t : State} {l : Lst} {r : BatchRec} (h : s.append l r = (t, .done)) :
    t.search.transit = s.search.transit ∧ t.search.appendWait = s.search.appendWait := by
  obtain ⟨u, hu, ht⟩ := appendIndex_of_append h
  have hrest : (appendIndex t).2 = (appendIndex s).2 := by rw [ht, ← hu]; rfl
  exact ⟨congrArg Prod.fst hrest, congrArg Prod.snd hrest⟩

/-- The record ends its list, and every other list stays but for what is at home of it. -/
theorem append_joins {s t : State} {n : Nat} {l : Lst} {r : BatchRec} (hl : s.lst n = some l)
    (h : s.append l r = (t, .done)) : ∃ l', t.lst n = some l' ∧
      l'.records = (l.push (stamped r (s.search.epoch + 1))).records ∧ l'.lastEpoch = s.search.epoch + 1 ∧
      ∀ m, m ≠ n → (t.lst m).map bareLst = (s.lst m).map bareLst := by
  have here : (t.lst n).map bareLst = some (joined r (s.search.epoch + 1) (bareLst l)) := by
    rw [lst_map_bareLst, append_lists hl h, updWhere_find (f := joined r _) fun _ => rfl,
      ← lst_map_bareLst, hl]
    rfl
  obtain ⟨l', hl', hbare⟩ := Option.map_eq_some_iff.mp here
  refine ⟨l', hl', (congrArg Lst.records hbare :), (congrArg Lst.lastEpoch hbare :), fun m hm => ?_⟩
  rw [lst_map_bareLst, append_lists hl h, lst_map_bareLst]
  exact find?_updWhere_of_disjoint (fun x hx => by simp_all [Ne.symm hm]) fun _ => rfl

/-! ### RECORD_APPEND (R215, R217, R232) -/

/-- Record i is on its way no more. -/
def offWay (s : State) (i : Nat) : State :=
  { s with search := { s.search with transit := s.search.transit.eraseIdx i } }

/-- A record waits for a mark at the end of the appends that wait. -/
def waitsForMark (s : State) (n : Nat) (l : Lst) (r : BatchRec) : State :=
  let u := (s.appendWaits l r true).1
  { u with search := { u.search with appendWait := u.search.appendWait ++ [(n, { r with markWait := true })] } }

theorem waitsForMark_keeps (s : State) (n : Nat) (l : Lst) (r : BatchRec) :
    (waitsForMark s n l r).search.transit = s.search.transit ∧
      (waitsForMark s n l r).search.appendWait = s.search.appendWait ++ [(n, { r with markWait := true })] ∧
      (waitsForMark s n l r).search.lists = s.search.lists ∧ (waitsForMark s n l r).mem = s.mem := by
  unfold waitsForMark State.appendWaits
  split <;> exact ⟨rfl, rfl, rfl, rfl⟩

theorem retired_eq_false {s : State} {l : Lst} (h : ∀ e, l.retire = some e → s.search.epoch < e) :
    s.retired l = false := by
  unfold State.retired
  cases hr : l.retire with
  | none => rfl
  | some e => simpa using h e hr

section

variable {s : State} {i n : Nat} {r : BatchRec} (us : Nat)

theorem doRecordAppend_of_none (h : s.search.transit[i]? = none) : doRecordAppend i us s = s := by
  simp only [doRecordAppend, h]

variable (hi : s.search.transit[i]? = some (n, r))
include hi

theorem doRecordAppend_of_gone (h : s.recordGone r = true ∨ s.lst n = none) : doRecordAppend i us s = offWay s i := by
  simp only [doRecordAppend, hi]
  obtain h | h := h
  · rw [if_pos h]
    rfl
  · simp only [h, ite_self]
    rfl

variable {l : Lst} (hgone : s.recordGone r = false) (hl : s.lst n = some l) (hret : s.retired l = false)
  (hmay : s.appendMay l.bench = true) (hhold : s.mayHold n = true)
include hgone hl hret hmay hhold

theorem doRecordAppend_of_noMark (h : s.append l r = (s, .noMark)) :
    doRecordAppend i us s = waitsForMark (offWay s i) n l r := by
  simp only [doRecordAppend, hi, hgone, hl, hret, hmay, hhold, h, Bool.not_true, Bool.false_eq_true, if_false]
  rfl

theorem doRecordAppend_of_done {t : State} (h : s.append l r = (t, .done)) : doRecordAppend i us s =
    ({ t with search := { t.search with transit := s.search.transit.eraseIdx i } } : State).chargeWork 2
      (t.ingestShopOf l.coll) (benchRes l.bench) us := by
  simp only [doRecordAppend, hi, hgone, hl, hret, hmay, hhold, h, Bool.not_true, Bool.false_eq_true, if_false,
    (append_waiting h).1]

end

/-! ### MARK_WAIT_RESUME and APPEND_WAIT_RESUME (R232, R279) -/

theorem firstIndex_eq_none {α : Type} {p : α → Bool} {l : List α} (h : ∀ x ∈ l, p x = false) :
    firstIndex p l = none := by
  induction l with
  | nil => rfl
  | cons x l ih =>
    rw [firstIndex, h x List.mem_cons_self, ih fun y hy => h y (List.mem_cons_of_mem x hy)]
    rfl

section

variable {s : State} {b : BenchId} (us : Nat)

theorem retryAppend_of_none (h : ∀ p ∈ s.search.appendWait, ∀ l, s.lst p.1 = some l → l.bench ≠ b) :
    s.retryAppend b us = s := by
  unfold State.retryAppend
  extract_lets here
  have hnone : firstIndex here s.search.appendWait = none := by
    refine firstIndex_eq_none fun p hp => ?_
    unfold here
    split
    · next l hl => exact beq_eq_false_iff_ne.mpr (h p hp l hl)
    · rfl
  simp only [hnone]

variable {n : Nat} {r : BatchRec} {rest : List (Nat × BatchRec)} {l : Lst} (hw : s.search.appendWait = (n, r) :: rest)
  (hl : s.lst n = some l) (hb : l.bench = b)
include hw hl hb

theorem retryAppend_of_gone (hgone : s.recordGone r = true) :
    s.retryAppend b us = { s with search := { s.search with appendWait := rest } } := by
  simp only [State.retryAppend, hw, firstIndex, hl, hb, beq_self_eq_true, if_true, List.getElem?_cons_zero, hgone,
    List.eraseIdx_cons_zero]

theorem retryAppend_of_done {t : State} (hgone : s.recordGone r = false) (hret : s.retired l = false)
    (hmay : s.appendMay b = true) (hhold : s.mayHold n = true) (h : s.append l r = (t, .done)) : s.retryAppend b us =
    ({ t with search := { t.search with appendWait := rest } } : State).chargeWork 2 (t.ingestShopOf l.coll)
      (benchRes b) us := by
  simp only [State.retryAppend, hw, firstIndex, hl, hb, beq_self_eq_true, if_true, List.getElem?_cons_zero, hgone,
    hret, hmay, hhold, h, Bool.not_true, Bool.false_eq_true, if_false, (append_waiting h).2, List.eraseIdx_cons_zero]

end

/-! ### MEND_START (R235) -/

theorem doMendStart_of_some {s : State} {n : Nat} {l : Lst} (hl : s.lst n = some l) (hm : l.mending = false) :
    doMendStart n s =
      if l.marked ≠ 0 ∧ (l.records.length ≤ 8 * l.marked ∨ 4096 ≤ l.marked) ∧ s.benchOk l.bench = true ∧
          s.benchKept l.bench = false then
        s.modList n fun l => { l with mending := true, mended := true }
      else s := by
  simp only [doMendStart, hl, hm, Bool.not_false, Bool.true_and, Bool.and_eq_true, Bool.or_eq_true, bne_iff_ne,
    decide_eq_true_eq, Bool.not_eq_true', and_assoc]

/-! ### GRAPH_REPAIR (R234, R236) -/

theorem doGraphRepair_of_none {s : State} {n : Nat} (h : s.lst n = none) : doGraphRepair n s = s := by
  simp only [doGraphRepair, h]

theorem doGraphRepair_of_live {s : State} {n : Nat} {l : Lst} (hl : s.lst n = some l) (h : s.retired l = false) :
    doGraphRepair n s = s := by
  simp only [doGraphRepair, hl, h]
  split <;> rfl

section

variable (s : State) (n : Nat) (r : Lst) (c : Coll)

/-- A live list of the retired one's Collection has an edge to it. -/
def namesRetired (x : Lst) : Bool := x.coll == r.coll && !s.retired x && x.edges.contains n

/-- A list with its edge to the retired one replaced, where it has one. -/
def edgeReplaced (x : Lst) : Lst :=
  if namesRetired s n r x then { x with edges := replaceEdge n (s.repairTo c.metric r x) x.edges } else x

/-- The edges to the retired list are replaced, their granule is dirty, and the walks in flight are noted. -/
def edgesRepaired (now : List Key) : State :=
  (({ s with search := { s.search with lists := s.search.lists.map (edgeReplaced s n r c) } } : State).dirtyThrough
    (quarterOfBench r.bench) (centroidGranule c.id) 3).1.modList n fun l => { l with walkers := now }

/-- The entry list has moved on and the retired list is gone, with its granule dirty. -/
def listFreed (next : Option Nat) : State :=
  (((s.modColl c.id fun c => { c with entryList := next }).freeList r).dirtyThrough (quarterOfBench r.bench)
    (directoryGranule n) 4).1

variable {s n r c}

theorem doGraphRepair_cases (hl : s.lst n = some r) (hc : s.coll r.coll = some c) (hr : s.retired r = true) :
    (∃ now, doGraphRepair n s = edgesRepaired s n r c now) ∨ doGraphRepair n s = s ∨
      ∃ next, doGraphRepair n s = listFreed s n r c next := by
  simp only [doGraphRepair, hl, hc, hr, Bool.not_true, Bool.false_eq_true, if_false]
  split_ifs
  · exact .inl ⟨_, rfl⟩
  · exact .inr (.inl rfl)
  all_goals exact .inr (.inr ⟨_, rfl⟩)

variable (s n r c)

theorem edgesRepaired_index (now : List Key) :
    (edgesRepaired s n r c now).search.lists =
      updWhere (s.search.lists.map (edgeReplaced s n r c)) (fun l => l.num == n) (fun l => { l with walkers := now }) ∧
    (edgesRepaired s n r c now).search.objs.map bareObj = s.search.objs.map bareObj := by
  have hdirty := butHomes_dirtyThrough
    { s with search := { s.search with lists := s.search.lists.map (edgeReplaced s n r c) } } (quarterOfBench r.bench)
    (g := centroidGranule c.id) 3 (Nat.le_trans (by decide) (Nat.le_add_right (2 ^ 42) c.id))
  exact ⟨congrArg (fun x : Search => updWhere x.lists (fun l => l.num == n) fun l => { l with walkers := now })
    hdirty,
    congrArg Search.objs hdirty⟩

theorem listFreed_index (next : Option Nat) :
    (listFreed s n r c next).search.lists = s.search.lists.filter (fun l => l.num != r.num) ∧
    (listFreed s n r c next).search.objs.map bareObj = s.search.objs.map bareObj := by
  have hdirty := butHomes_dirtyThrough ((s.modColl c.id fun c => { c with entryList := next }).freeList r)
    (quarterOfBench r.bench) (g := directoryGranule n) 4
    (Nat.le_trans (by decide) (Nat.le_add_right (2 ^ 43) (n / 2048)))
  rw [State.freeList, butHomes_of_frame (recountUsed_frame _ _)] at hdirty
  exact ⟨congrArg Search.lists hdirty, congrArg Search.objs hdirty⟩

/-- y is the list x after a repair: but for its edges, the walks noted and what is at home, as it was. -/
def RepairOf (x y : Lst) : Prop :=
  y = { x with edges := y.edges, walkers := y.walkers, homeCount := y.homeCount } ∧
    (y.edges = x.edges ∨ (x.coll = r.coll ∧ s.retired x = false ∧ n ∈ x.edges ∧
      y.edges = replaceEdge n (s.repairTo c.metric r x) x.edges))

theorem repairOf_refl (x : Lst) : RepairOf s n r c x x := ⟨rfl, .inl rfl⟩

theorem repairOf_edgeReplaced (x : Lst) : RepairOf s n r c x (edgeReplaced s n r c x) := by
  unfold edgeReplaced
  split
  · next h =>
    simp only [namesRetired, Bool.and_eq_true, beq_iff_eq, Bool.not_eq_true', List.contains_iff_mem, and_assoc] at h
    obtain ⟨hcoll, hlive, hedge⟩ := h
    exact ⟨rfl, .inr ⟨hcoll, hlive, hedge, rfl⟩⟩
  · exact repairOf_refl s n r c x

variable {s n r c}

theorem RepairOf.walkers {x y : Lst} (h : RepairOf s n r c x y) (now : List Key) :
    RepairOf s n r c x { y with walkers := now } := by
  obtain ⟨hy, hedges⟩ := h
  refine ⟨?_, hedges⟩
  rw [hy]

theorem mem_edgesRepaired {now : List Key} {y : Lst} (hy : y ∈ (edgesRepaired s n r c now).search.lists) :
    ∃ x ∈ s.search.lists, RepairOf s n r c x y := by
  rw [(edgesRepaired_index s n r c now).1] at hy
  obtain ⟨z, hz, rfl⟩ := List.mem_map.mp hy
  obtain ⟨x, hx, rfl⟩ := List.mem_map.mp hz
  refine ⟨x, hx, ?_⟩
  split
  · exact (repairOf_edgeReplaced s n r c x).walkers now
  · exact repairOf_edgeReplaced s n r c x

theorem lst_eq_none_iff {s : State} {m : Nat} : s.lst m = none ↔ m ∉ s.search.lists.map Lst.num := by
  simp [State.lst]

theorem map_num_edgesRepaired (now : List Key) :
    (edgesRepaired s n r c now).search.lists.map Lst.num = s.search.lists.map Lst.num := by
  rw [(edgesRepaired_index s n r c now).1, updWhere, List.map_map, List.map_map]
  refine List.map_congr_left fun x _ => ?_
  simp only [Function.comp, edgeReplaced]
  split_ifs <;> rfl

section

variable (hl : s.lst n = some r) (hc : s.coll r.coll = some c) (hr : s.retired r = true)
include hl hc hr

theorem mem_doGraphRepair {y : Lst} (hy : y ∈ (doGraphRepair n s).search.lists) :
    ∃ x ∈ s.search.lists, RepairOf s n r c x y := by
  obtain ⟨now, h⟩ | h | ⟨next, h⟩ := doGraphRepair_cases hl hc hr <;> rw [h] at hy
  · exact mem_edgesRepaired hy
  · exact ⟨y, hy, repairOf_refl s n r c y⟩
  · rw [(listFreed_index s n r c next).1] at hy
    exact ⟨y, (List.mem_filter.mp hy).1, repairOf_refl s n r c y⟩

/-- No list but the retired one is gone. -/
theorem doGraphRepair_lst {m : Nat} (hm : m ≠ n) : (doGraphRepair n s).lst m = none ↔ s.lst m = none := by
  obtain ⟨now, h⟩ | h | ⟨next, h⟩ := doGraphRepair_cases hl hc hr <;> rw [h]
  · rw [lst_eq_none_iff, lst_eq_none_iff, map_num_edgesRepaired]
  · have hrm : m ≠ r.num := lst_num hl ▸ hm
    simp only [lst_eq_none_iff, (listFreed_index s n r c next).1, List.mem_map, List.mem_filter, bne_iff_ne]
    exact not_congr ⟨fun ⟨x, hx, hxm⟩ => ⟨x, hx.1, hxm⟩, fun ⟨x, hx, hxm⟩ => ⟨x, ⟨hx, hxm ▸ hrm⟩, hxm⟩⟩

theorem doGraphRepair_objs : (doGraphRepair n s).search.objs.map bareObj = s.search.objs.map bareObj := by
  obtain ⟨now, h⟩ | h | ⟨next, h⟩ := doGraphRepair_cases hl hc hr <;> rw [h]
  · exact (edgesRepaired_index s n r c now).2
  · exact (listFreed_index s n r c next).2

end

end

/-- Settles O54: an append by what has become of its record, the room for it and its mark; a mend by what is marked; a
repair by what still names the retired list. -/
theorem recordsJoinTheirLists : Obligations.RecordsJoinTheirLists := by
  intro s i n us r b
  refine ⟨fun hi => next_eq (doRecordAppend_of_none us hi),
    fun hi => ⟨fun hgone => next_eq (doRecordAppend_of_gone us hi hgone),
      fun l hgone hl hret hmay hhold => ⟨fun hfirst hpool => ?_, fun t ht => ⟨?_, append_joins hl ht⟩⟩⟩,
    fun hb => next_eq (retryAppend_of_none us hb), fun hw hb hn hgone => ?_,
    fun rest l t hw hl hb hgone hret hmay hhold ht => ?_, fun l hl hm => ⟨fun hdue => ?_, fun hnot => ?_⟩,
    fun hl => next_eq (doGraphRepair_of_none hl), fun l hl hr => next_eq (doGraphRepair_of_live hl hr),
    fun l c hl hc hr => ⟨_, rfl, fun y hy => mem_doGraphRepair hl hc hr hy, fun m hm => doGraphRepair_lst hl hc hr hm,
      doGraphRepair_objs hl hc hr, doGraphRepair_frame n s .engines (by decide)⟩⟩
  -- a record that waits for a mark, and one that is appended
  · obtain ⟨htransit, hwait, hlists, hmem⟩ := waitsForMark_keeps (offWay s i) n l r
    exact ⟨_, next_eq (doRecordAppend_of_noMark us hi hgone hl (retired_eq_false hret) hmay hhold
      (append_of_noMark r hfirst hpool)), htransit, hwait, hlists, hmem⟩
  · exact next_eq (doRecordAppend_of_done us hi hgone hl (retired_eq_false hret) hmay hhold ht)
  -- an append that waits: dropped, and done
  · obtain ⟨l, hl⟩ := Option.ne_none_iff_exists'.mp hn
    exact next_eq (retryAppend_of_gone us hw hl (hb l hl) hgone)
  · have hdone := next_eq (retryAppend_of_done us hw hl hb hgone hret hmay hhold ht)
    refine ⟨hdone, hdone, ?_⟩
    have hsearch := search_of_frame (chargeWork_frame
      ({ t with search := { t.search with appendWait := rest } } : State) 2 (t.ingestShopOf l.coll) (benchRes b) us)
    simp only [State.lst, hsearch]
    exact append_joins hl ht
  -- a mend that is due, and one that is not
  · exact next_eq ((doMendStart_of_some hl hm).trans (if_pos hdue))
  · refine next_eq ((doMendStart_of_some hl hm).trans (if_neg ?_))
    rintro ⟨hmarked, hmany, hok, hkept⟩
    obtain h | ⟨hfew, hless⟩ | h | h := hnot
    · exact hmarked h
    · omega
    · exact Bool.false_ne_true (h.symm.trans hok)
    · exact Bool.false_ne_true (hkept.symm.trans h)

end Sys2Proof.Proofs

/-! PROOFS. Programs of stream pages, erases, and the reads that suspend them (R215, R279, R282 to R284, R286, R291). -/

namespace Sys2Proof.Proofs

open Sys2Proof Sys2Proof.Machine Sys2Proof.Laws

section

variable {s : State} {b : BenchId}

/-! ### A stream page starts its program (R215, R279) -/

/-- The program of a page is issued where the append block of its slot and the die are free, else the page waits. -/
def issuedOrWaits (s : State) (b : BenchId) (w : PageWork) : State :=
  match s.flash[b].issue s.search.epoch s.clockUs w with
  | some f => s.modFlash b fun _ => f
  | none => s

theorem doStreamPageProgram_of_none {list : Nat} (st : Fin 5) (hl : s.lst list = none) :
    doStreamPageProgram b list st s = s := by
  simp only [doStreamPageProgram, hl]

theorem doStreamPageProgram_of_full {list : Nat} {st : Fin 5} {l : Lst} {c : Coll} (hl : s.lst list = some l)
    (hc : s.coll l.coll = some c) (hb : l.bench = b) (hfull : l.fullOf st.val < l.streamBytes c.dims st.val / 16384)
    (hok : s.nandOk b = true) (hkept : s.benchKept b = false) (hops : s.flash[b].ops = []) :
    doStreamPageProgram b list st s = issuedOrWaits s b
      { kind := 1, stream := st.val, content := list, index := l.fullOf st.val, origin := none } := by
  simp only [doStreamPageProgram, hl, hc, hb, hok, hkept, hops, Nat.not_le.mpr hfull, List.any_nil, bne_self_eq_false,
    decide_false, Bool.not_true, Bool.or_self, Bool.false_eq_true, if_false]
  rfl

/-! ### A program ends (R282, R286) -/

/-- A program or erase of a Bench has ended. -/
def opEnded (s : State) (b : BenchId) (o : NandOp) : State :=
  s.modFlash b fun f => { f with ops := f.ops.filter fun y => y != o }

/-- A program that has failed: its block is retired, with pages that could not be moved lost, and it is issued again. -/
def programRepeated (s : State) (b : BenchId) (p : PhysPage) (x : PageIdent) (bad : List PageIdent) : State :=
  issuedOrWaits (s.retireBlock b p.blk 0 p.row (some x) bad) b x.copy

theorem doNandProgramComplete_of_none {p : PhysPage} (n : Nat)
    (ho : s.flash[b].ops.find? (fun o => o.ident.any fun x => x.page == p) = none) :
    doNandProgramComplete b p true n s = s := by
  simp only [doNandProgramComplete, ho, Bool.true_or, if_true]

section

variable {p : PhysPage} {o : NandOp} {x : PageIdent} (n : Nat)
  (ho : s.flash[b].ops.find? (fun o => o.ident.any fun x => x.page == p) = some o) (hx : o.ident = some x)
include ho

theorem doNandProgramComplete_of_suspended (pass : Bool) (hs : o.suspended = true) :
    doNandProgramComplete b p pass n s = s := by
  simp only [doNandProgramComplete, ho, hs, if_true]

include hx

theorem doNandProgramComplete_of_running (pass : Bool) (hs : o.suspended = false) :
    doNandProgramComplete b p pass n s =
      if pass then (opEnded s b o).streamPageDone b x
      else programRepeated (opEnded s b o) b p x ((s.flash[b].validIn p.blk).take n) := by
  simp only [doNandProgramComplete, ho, hs, hx, Bool.false_eq_true, if_false]
  rfl

end

/-! ### Erases (R282, R283) -/

theorem doBlockEraseStart_eq (s : State) (b : BenchId) (i : BlockId) : doBlockEraseStart b i s =
    let f := s.flash[b]
    if ((f.blk i).state = .full ∨ (f.blk i).state = .eraseIncomplete) ∧ f.validIn i = [] ∧
        (∀ t ∈ f.stripes, i ∉ t.blocks) ∧ (f.rawBusy = false ∨ rawTarget f.rawAddr ≠ some i) ∧
        (∀ w ∈ s.search.sweeps, w.bench ≠ b) ∧ f.busy i.die = false ∧ s.nandOk b = true ∧ s.benchKept b = false then
      s.modFlash b fun f =>
        ({ f with ops := f.ops ++ [{ block := i, ident := none, resumedUs := s.clockUs, suspended := false }] } :
          Flash).modBlk i fun k => { k with state := .erasing }
    else s := by
  simp only [doBlockEraseStart, Bool.and_eq_true, Bool.or_eq_true, Bool.not_eq_true', Bool.and_eq_false_iff, beq_iff_eq,
    beq_eq_false_iff_ne, List.isEmpty_iff, List.any_eq_false, List.contains_iff_mem, and_assoc, ne_eq]

theorem doNandEraseComplete_of_none {i : BlockId} (pass : Bool) (n : Nat)
    (ho : s.flash[b].ops.find? (fun o => o.block == i && o.ident.isNone) = none) :
    doNandEraseComplete b i pass n s = s := by
  simp only [doNandEraseComplete, ho]

theorem doNandEraseComplete_of_running {i : BlockId} {o : NandOp} (pass : Bool) (n : Nat)
    (ho : s.flash[b].ops.find? (fun o => o.block == i && o.ident.isNone) = some o) (hs : o.suspended = false) :
    doNandEraseComplete b i pass n s =
      if pass then (opEnded s b o).modFlash b fun f => f.erased i
      else (opEnded s b o).retireBlock b i 1 0 none ((s.flash[b].validIn i).take n) := by
  simp only [doNandEraseComplete, ho, hs, Bool.false_eq_true, if_false]
  rfl

/-! ### Suspension (R284, R291) -/

theorem urgent_iff {r : Reader} : Reader.urgent r = true ↔ r = .c0 ∨ r = .flush ∨ ∃ c, r = .refetch c := by
  cases r <;> simp [Reader.urgent]

variable {d : Fin 8}

theorem doNandSuspend_of_none (r : Reader)
    (ho : s.flash[b].ops.find? (fun o => o.block.die == d && !o.suspended) = none) :
    doNandSuspend b d r s = s := by
  simp only [doNandSuspend, ho]

theorem doNandSuspend_of_running {o : NandOp} (r : Reader)
    (ho : s.flash[b].ops.find? (fun o => o.block.die == d && !o.suspended) = some o) (hlow : s.nandLow b = false) :
    doNandSuspend b d r s =
      if Reader.urgent r = true ∨ o.resumedUs + 1000 ≤ s.clockUs then s.modFlash b fun f =>
        ({ f with suspends := satAdd 32 f.suspends 1, readQueue := f.readQueue ++ [(d, r)] } :
          Flash).setOp o { o with suspended := true }
      else s := by
  simp only [doNandSuspend, ho, hlow, Bool.not_false, Bool.true_and, Bool.or_eq_true, decide_eq_true_eq, ge_iff_le]

theorem doNandResume_of_none (ho : s.flash[b].ops.find? (fun o => o.block.die == d && o.suspended) = none) :
    doNandResume b d s = s := by
  simp only [doNandResume, ho]

theorem doNandResume_of_clear {o : NandOp}
    (ho : s.flash[b].ops.find? (fun o => o.block.die == d && o.suspended) = some o) (hlow : s.nandLow b = false)
    (hq : ∀ r ∈ s.flash[b].readQueue, r.1 ≠ d) : doNandResume b d s =
      s.modFlash b fun f => f.setOp o { o with suspended := false, resumedUs := s.clockUs } := by
  have hnone : s.flash[b].readQueue.any (fun r => r.1 == d) = false := by simpa using hq
  simp only [doNandResume, ho, hlow, hnone, Bool.or_self, Bool.false_eq_true, if_false]

theorem doNandResume_of_queued (hq : ∃ r ∈ s.flash[b].readQueue, r.1 = d) : doNandResume b d s = s := by
  have hsome : s.flash[b].readQueue.any (fun r => r.1 == d) = true := by simpa using hq
  simp only [doNandResume, hsome, Bool.or_true, if_true]
  split <;> rfl

end

/-- Settles O49: a program by what its list and its Bench hold, an erase by what still uses its block, a suspension by
the reader and the clock, and a resumption by the reads queued. -/
theorem programsAndErasesRunAndSuspend : Obligations.ProgramsAndErasesRunAndSuspend := by
  intro s b d i r list st p n
  refine ⟨fun hl => next_eq (doStreamPageProgram_of_none st hl),
    fun l c hl hc hb hfull hok hkept hops => next_eq (doStreamPageProgram_of_full hl hc hb hfull hok hkept hops),
    fun o x ho hx => ⟨fun hs pass => next_eq (doNandProgramComplete_of_suspended n ho pass hs),
      fun hs => ⟨next_eq (doNandProgramComplete_of_running n ho hx true hs),
        next_eq (doNandProgramComplete_of_running n ho hx false hs)⟩⟩,
    fun ho => next_eq (doNandProgramComplete_of_none n ho),
    fun hk hv ht hr hw hbusy hok hkept => next_eq ((doBlockEraseStart_eq s b i).trans
      (if_pos ⟨hk, hv, ht, hr, hw, hbusy, hok, hkept⟩)),
    fun huse => ?_,
    fun o ho hs => ⟨next_eq (doNandEraseComplete_of_running true n ho hs),
      next_eq (doNandEraseComplete_of_running false n ho hs)⟩,
    fun ho pass => next_eq (doNandEraseComplete_of_none pass n ho),
    fun o ho hlow => ⟨fun hr =>
        next_eq ((doNandSuspend_of_running r ho hlow).trans (if_pos (hr.imp_left urgent_iff.mpr))),
      fun hc0 hflush hrefetch hearly => ?_⟩,
    fun ho => next_eq (doNandSuspend_of_none r ho),
    fun o ho hlow => ⟨fun hq => next_eq (doNandResume_of_clear ho hlow hq),
      fun hq => next_eq (doNandResume_of_queued hq)⟩,
    fun ho => next_eq (doNandResume_of_none ho), fun us => rfl⟩
  -- a block that is not full, or that something still uses
  · refine next_eq ((doBlockEraseStart_eq s b i).trans (if_neg ?_))
    rintro ⟨hstate, hvalid, hstripes, hraw, hsweeps, -⟩
    obtain ⟨hnf, hni⟩ | hv | ⟨t, ht, hit⟩ | ⟨hbusy, htarget⟩ | ⟨w, hw, hwb⟩ := huse
    · exact hstate.elim hnf hni
    · exact hv hvalid
    · exact hstripes t ht hit
    · exact hraw.elim (fun h => Bool.false_ne_true (h.symm.trans hbusy)) (· htarget)
    · exact hsweeps w hw hwb
  -- a read that waits for its millisecond
  · refine next_eq ((doNandSuspend_of_running r ho hlow).trans (if_neg ?_))
    rintro (h | h)
    · exact (urgent_iff.mp h).elim hc0 (·.elim hflush fun ⟨c, h⟩ => hrefetch c h)
    · exact Nat.not_le.mpr hearly h

end Sys2Proof.Proofs

/-! PROOFS. A query from the end of its walk over the scans and fetches of its sweeps to the merge (R216, R222 to R226,
R429). -/

namespace Sys2Proof.Proofs

open Sys2Proof Sys2Proof.Machine Sys2Proof.Laws

/-! ### What sorting keeps -/

theorem insertBy_perm {α : Type} (lt : α → α → Bool) (x : α) (l : List α) : (insertBy lt x l).Perm (x :: l) := by
  induction l with
  | nil => exact .refl _
  | cons y l ih =>
    rw [insertBy]
    split
    · exact (ih.cons y).trans (.swap x y l)
    · exact .refl _

theorem sortBy_perm {α : Type} (lt : α → α → Bool) (l : List α) : (sortBy lt l).Perm l := by
  induction l with
  | nil => exact .refl _
  | cons x l ih => exact (insertBy_perm lt x (sortBy lt l)).trans (ih.cons x)

theorem mem_of_mem_take_sortBy {α : Type} {lt : α → α → Bool} {l : List α} {k : Nat} {x : α}
    (h : x ∈ (sortBy lt l).take k) : x ∈ l :=
  (sortBy_perm lt l).mem_iff.mp (List.mem_of_mem_take h)

/-! ### GRAPH_WALK_COMPLETE (R216, R429) -/

section

variable {s : State} {k : Key} (us : Nat)

theorem doGraphWalkComplete_of_no_job (hj : s.job k = none) : doGraphWalkComplete k us s = s := by
  simp only [doGraphWalkComplete, hj]

/-- The front work of a query has ended on an Engine: its time is charged and the Engine is free for what waits. -/
def frontEnded (s : State) (k : Key) (us : Nat) (e : EngineId) : State :=
  (((s.charge k e.val (us - s.engines[e].ctx.ran)).modEngine e (Engine.dropJob k)).modJob k fun j =>
    { j with placed := [] }).startNext e

variable {j : Job} {e : EngineId} {ci : Nat} {c : Coll} (hj : s.job k = some j) (hkind : j.kind = .query)
  (hfront : j.front = some e) (hci : j.coll = some ci)
include hj hkind hfront hci

theorem doGraphWalkComplete_of_walked (hw : j.walked = true) : doGraphWalkComplete k us s = s := by
  simp only [doGraphWalkComplete, hj, hkind, hfront, hci, hw, Bool.true_or, if_true]

variable (hc : s.coll ci = some c) (hw : j.walked = false) (hq : j.quenching = false)
  (hjob : s.engines[e].job = some (k, frontUnit)) (hrun : s.engines[e].state = .running)
include hc hw hq hjob hrun

theorem doGraphWalkComplete_of_no_direction (hd : direction c.metric j.rawVector = none) :
    doGraphWalkComplete k us s = (frontEnded s k us e).endWith k scInvalidField := by
  simp only [doGraphWalkComplete, hj, hkind, hfront, hci, hc, hw, hq, hjob, hrun, hd, bne_self_eq_false, Bool.or_self,
    Bool.false_eq_true, if_false]
  rfl

theorem doGraphWalkComplete_of_direction {q : List F32} (hd : direction c.metric j.rawVector = some q) :
    doGraphWalkComplete k us s = (frontEnded s k us e).modJob k fun i =>
      { i with vector := q, targets := (frontEnded s k us e).walkColl c q j.lists, walked := true } := by
  simp only [doGraphWalkComplete, hj, hkind, hfront, hci, hc, hw, hq, hjob, hrun, hd, bne_self_eq_false, Bool.or_self,
    Bool.false_eq_true, if_false]
  rfl

end

/-! ### CODE_PHASE_COMPLETE (R222, R223, R226) -/

/-- What the queries of a sweep take from its list. -/
def scansOf (s : State) (l : Lst) (offsets : List F32) (lost : List Nat) (w : Sweep) :
    List (Key × List Nat × Nat × Nat) :=
  w.queries.filterMap fun q => (s.job q).map fun j => (q, s.scan l offsets lost j)

/-- A sweep that its Bench has scanned. -/
def scanned (s : State) (l : Lst) (offsets : List F32) (lost : List Nat) (w : Sweep) : Sweep :=
  { w with
    coded := true
    survivors := (scansOf s l offsets lost w).map fun p => (p.1, p.2.1)
    counts := (scansOf s l offsets lost w).map fun p => (p.1, p.2.2) }

theorem keepNearest_length (d : Nat) (l : List (Nat × Nat)) : (keepNearest d l).length ≤ d := by
  rw [keepNearest, List.length_map]
  exact List.length_take_le _ _

/-- Survivors are eligible records of the list, none of them on a lost page. -/
theorem mem_scan {s : State} {l : Lst} {offsets : List F32} {lost : List Nat} {j : Job} {i : Nat}
    (h : i ∈ (s.scan l offsets lost j).1) : i ∈ s.eligible l j.snapshot ∧ i ∉ lost := by
  obtain ⟨p, hp, rfl⟩ := List.mem_map.mp h
  obtain ⟨i, hi, rfl⟩ := List.mem_map.mp (mem_of_mem_take_sortBy hp)
  simpa using hi

theorem mem_scanned_survivors {s : State} {l : Lst} {offsets : List F32} {lost : List Nat} {w : Sweep}
    {p : Key × List Nat} (h : p ∈ (scanned s l offsets lost w).survivors) :
    p.1 ∈ w.queries ∧ ∃ j, s.job p.1 = some j ∧ p.2.length ≤ j.depth ∧
      ∀ i ∈ p.2, i ∈ s.eligible l j.snapshot ∧ i ∉ lost := by
  obtain ⟨x, hx, rfl⟩ := List.mem_map.mp h
  obtain ⟨q, hq, hscan⟩ := List.mem_filterMap.mp hx
  obtain ⟨j, hj, rfl⟩ := Option.map_eq_some_iff.mp hscan
  exact ⟨hq, j, hj, keepNearest_length _ _, fun i hi => mem_scan hi⟩

section

variable {s : State} {list : Nat} (us : Nat) (lost : List Nat)

theorem doCodePhase_of_coded (h : ∀ w ∈ s.search.sweeps, w.list = list → w.coded = true) :
    doCodePhase list us lost s = s := by
  have hnone : s.search.sweeps.find? (fun w => w.list == list && !w.coded) = none := by
    simpa using h
  simp only [doCodePhase, hnone, Option.bind_none]

variable {w₀ w : Sweep} {l : Lst} (hfirst : s.search.sweeps.find? (fun w => w.list == list && !w.coded) = some w₀)
  (hlist : s.sweepList w₀ = some l)
  (hw : s.search.sweeps.find? (fun w => w.bench == l.bench && !w.coded) = some w)
include hfirst hlist hw

theorem doCodePhase_of_other (hne : w.list ≠ list) : doCodePhase list us lost s = s := by
  simp only [doCodePhase, hfirst, Option.bind_some, hlist, hw, bne_iff_ne.mpr hne, Bool.true_or, if_true]

/-- The sweep is scanned; beyond it only the accounts of the jobs and the counters of the Bench move on. -/
theorem doCodePhase_of_first (heq : w.list = list) (hok : s.benchOk l.bench = true)
    (hready : s.benchReady l.bench = true) (hdrain : s.drainsBench l.bench = false) : ∃ offsets, Frame [.sched, .benches]
      { s with search := { s.search with
          sweeps := updFirst s.search.sweeps (· == w) fun _ => scanned s l offsets lost w } }
      (doCodePhase list us lost s) := by
  subst heq
  simp only [doCodePhase, hfirst, Option.bind_some, hlist, hw, hok, hready, hdrain, bne_self_eq_false, Bool.not_true,
    Bool.or_self, Bool.false_eq_true, if_false]
  refine ⟨_, Frame.via (modBench_frame _ _ _) (by decide) (Frame.foldl _ (Frame.refl _) fun u q => ?_)⟩
  have charged : Frame [.sched, .benches] u (u.charge q.1 (benchRes l.bench) (equalPart us w.queries.length q.2)) :=
    (Frame.refl u).step (charge_frame _ _ _ _)
  exact Frame.ite charged (charged.step (markPartial_frame _ _))

end

/-! ### FETCH_PHASE_COMPLETE (R224, R226) -/

/-- The sweeps of a query on a Bench. -/
def sweepsOn (s : State) (b : BenchId) (k : Key) : List Sweep :=
  s.search.sweeps.filter fun w => w.bench == b && w.queries.contains k

/-- A query has fetched on a Bench what it took from these sweeps: its time is charged, a lost hit makes it partial, its
best hits and its counts join, and it leaves the Bench. -/
def fetched (s : State) (b : BenchId) (k : Key) (us : Nat) (gone : List (Nat × Nat)) (j : Job) (c : Coll)
    (ws : List Sweep) : State :=
  let t := s.charge k (benchRes b) us
  let lostHit := ws.any fun w => (lookupD w.survivors k []).any fun i => gone.contains (w.list, i)
  ((if lostHit then t.markPartial k else t).modJob k fun x =>
    { x with
      hits := x.hits ++ bestHits c.metric j.k (ws.flatMap (s.scoreSweep c j gone))
      candidates := x.candidates + (ws.map fun w => (lookupD w.counts k (0, 0)).1).sum
      skipped := x.skipped + (ws.map fun w => (lookupD w.counts k (0, 0)).2).sum
      benchesLeft := x.benchesLeft.filter fun y => y != b
      benchesDone := insertNew x.benchesDone b }).leaveBench b k

section

variable {s : State} {b : BenchId} {k : Key} (us : Nat) (gone : List (Nat × Nat))

theorem doFetchPhase_of_no_job (hj : s.job k = none) : doFetchPhase b k us gone s = s := by
  simp only [doFetchPhase, hj]

variable {j : Job} (hj : s.job k = some j)
include hj

theorem doFetchPhase_of_unready (h : b ∉ j.benchesLeft ∨ ∃ w ∈ sweepsOn s b k, w.coded = false) :
    doFetchPhase b k us gone s = s := by
  have hstop : (j.quenching || !j.benchesLeft.contains b || (sweepsOn s b k).any (fun w => !w.coded) || !s.benchOk b ||
      !s.benchReady b || s.drainsBench b) = true := by
    obtain h | ⟨w, hw, hcoded⟩ := h
    · simp [h]
    · have hany : (sweepsOn s b k).any (fun w => !w.coded) = true := List.any_eq_true.mpr ⟨w, hw, by simp [hcoded]⟩
      simp [hany]
  simp only [doFetchPhase, hj]
  exact if_pos hstop

theorem doFetchPhase_of_coded {ci : Nat} {c : Coll} (hci : j.coll = some ci) (hc : s.coll ci = some c)
    (hq : j.quenching = false) (hb : b ∈ j.benchesLeft) (hcoded : ∀ w ∈ sweepsOn s b k, w.coded = true)
    (hok : s.benchOk b = true) (hready : s.benchReady b = true) (hdrain : s.drainsBench b = false) :
    doFetchPhase b k us gone s = fetched s b k us gone j c (sweepsOn s b k) := by
  have hgo : (j.quenching || !j.benchesLeft.contains b || (sweepsOn s b k).any (fun w => !w.coded) || !s.benchOk b ||
      !s.benchReady b || s.drainsBench b) = false := by
    have hall : (sweepsOn s b k).any (fun w => !w.coded) = false := by simpa using hcoded
    simp [hq, hb, hall, hok, hready, hdrain]
  simp only [doFetchPhase, hj]
  refine (if_neg (Bool.not_eq_true _ ▸ hgo)).trans ?_
  simp only [hci, hc, List.map_map]
  rfl

end

/-! ### HIT_MERGE (R225) -/

theorem doHitMerge_of_no_job {s : State} {k : Key} (hj : s.job k = none) : doHitMerge k s = s := by
  simp only [doHitMerge, hj]

theorem doHitMerge_of_job {s : State} {k : Key} {j : Job} (hj : s.job k = some j) : doHitMerge k s =
    if j.kind = .query ∧ j.walked = true ∧ j.quenching = false ∧ j.benchesLeft = [] ∧
        (j.targets = [] ∨ j.sweepAt ≠ none) ∧ j.active = true then
      (s.modJob k fun x =>
        { x with hits := s.mergeHits j, ending := if j.partialMedia then some scMediaPartial else none }).toGate k
    else s := by
  simp only [doHitMerge, hj, Bool.and_eq_true, Bool.or_eq_true, beq_iff_eq, Bool.not_eq_true', List.isEmpty_iff,
    Option.isSome_iff_ne_none, and_assoc]

theorem mergeHits_length (s : State) (j : Job) : (s.mergeHits j).length ≤ j.k := List.length_take_le _ _

theorem mem_of_mem_mergeHits {s : State} {j : Job} {h : Hit} (hh : h ∈ s.mergeHits j) : h ∈ j.hits :=
  mem_of_mem_take_sortBy hh

/-- Settles O52: a walk by the query and its direction, a scan by the first sweep of the Bench, a fetch by what is
scanned, a merge by what is left. -/
theorem queriesWalkScanAndMerge : Obligations.QueriesWalkScanAndMerge := by
  intro s k us list lost b gone
  refine ⟨fun hj => ⟨next_eq (doGraphWalkComplete_of_no_job us hj), next_eq (doFetchPhase_of_no_job us gone hj),
      next_eq (doHitMerge_of_no_job hj)⟩,
    fun j e ci c hj hkind hfront hci hc => ⟨fun hw =>
        next_eq (doGraphWalkComplete_of_walked us hj hkind hfront hci hw),
      fun hw hq hjob hrun => ⟨fun hd =>
        next_eq (doGraphWalkComplete_of_no_direction us hj hkind hfront hci hc hw hq hjob hrun hd),
        fun q hd => next_eq (doGraphWalkComplete_of_direction us hj hkind hfront hci hc hw hq hjob hrun hd)⟩⟩,
    fun h => next_eq (doCodePhase_of_coded us lost h),
    fun w₀ l w hfirst hlist hw => ⟨fun hne => next_eq (doCodePhase_of_other us lost hfirst hlist hw hne),
      fun heq hok hready hdrain => ?_⟩,
    fun j ci c hj hci hc => ⟨fun h => next_eq (doFetchPhase_of_unready us gone hj h),
      fun hq hb hcoded hok hready hdrain =>
        next_eq (doFetchPhase_of_coded us gone hj hci hc hq hb hcoded hok hready hdrain)⟩,
    fun j hj => ⟨fun hkind hw hq hleft hswept hactive => next_eq ((doHitMerge_of_job hj).trans
        (if_pos ⟨hkind, hw, hq, hleft, hswept, hactive⟩)), fun h => ?_, mergeHits_length s j,
      fun x hx => mem_of_mem_mergeHits hx⟩⟩
  -- a sweep is scanned
  · obtain ⟨offsets, hframe⟩ := doCodePhase_of_first us lost hfirst hlist hw heq hok hready hdrain
    exact ⟨_, scanned s l offsets lost w, rfl, hframe .search (by decide), hframe .mem (by decide),
      hframe .engines (by decide), rfl, fun p hp => mem_scanned_survivors hp⟩
  -- a query that has not walked, or that Benches still hold
  · refine next_eq ((doHitMerge_of_job hj).trans (if_neg ?_))
    rintro ⟨-, hw, -, hleft, -⟩
    exact h.elim (fun h => Bool.false_ne_true (h.symm.trans hw)) (· hleft)

end Sys2Proof.Proofs

/-! PROOFS. Objects are put, asked for and read back (R250 to R252, R386, R421). -/

namespace Sys2Proof.Proofs

open Sys2Proof Sys2Proof.Machine Sys2Proof.Laws

/-! ### Collections that a command names (R52) -/

/-- The metadata of a Collection is lost. -/
def metadataLost (s : State) (coll : Nat) : Bool :=
  match s.coll coll with
  | some x => x.unavailable
  | none => false

theorem metadataLost_of_coll {s : State} {coll : Nat} {x : Coll} (h : s.coll coll = some x) :
    metadataLost s coll = x.unavailable := by
  simp only [metadataLost, h]

theorem metadataLost_eq_false {s : State} {coll : Nat} (h : ∀ x, s.coll coll = some x → x.unavailable = false) :
    metadataLost s coll = false := by
  cases hc : s.coll coll with
  | none => simp only [metadataLost, hc]
  | some x => exact (metadataLost_of_coll hc).trans (h x hc)

/-- A command on a declared Collection with readable metadata goes on. -/
theorem named_of_readable {s : State} {m : Mold} {coll : Nat} (e : Sqe) (k : State) (hc : (m.coll coll).isSome = true)
    (hx : ∀ x, s.coll coll = some x → x.unavailable = false) : s.named m e coll k = k := by
  have declared : ¬ (m.coll coll).isNone = true := by simp [← Option.not_isSome, hc]
  have readable : ¬ metadataLost s coll = true := Bool.eq_false_iff.mp (metadataLost_eq_false hx)
  exact (if_neg declared).trans (if_neg readable)

/-! ### OBJ_PUT (R250, R251) -/

/-- Benches of a Collection's INGEST_SHOP that are not FAILED. -/
def liveBenches (s : State) (m : Mold) (c : CollEntry) : List BenchId :=
  match m.shop c.ingestShop with
  | some h => h.benches.filter s.benchOk
  | none => []

/-- The envelope of a put waits for its journal on a Bench (R278). -/
def putAwaits (s : State) (e : Sqe) (coll : Nat) (env : List Byte) (b : BenchId) : State :=
  { s with search := { s.search with
      puts := s.search.puts ++ [{ key := e.key, coll := coll, bench := b, envelope := env }] } }

section

variable {s : State} {m : Mold} {coll : Nat} {c : CollEntry} (e : Sqe) {env : List Byte} (hc : m.coll coll = some c)
include hc

theorem placeObject_of_no_bench (hl : liveBenches s m c = []) :
    s.placeObject e m coll env = s.refuse e.key scShopUnbound := by
  simp only [State.placeObject, hc]
  exact if_pos (List.isEmpty_iff.mpr hl)

variable (hl : liveBenches s m c ≠ [])
include hl

theorem placeObject_of_lost (hx : metadataLost s coll = true) :
    s.placeObject e m coll env = s.refuse e.key scMediaUnavailable := by
  simp only [State.placeObject, hc]
  exact (if_neg (mt List.isEmpty_iff.mp hl)).trans (if_pos hx)

variable (hx : metadataLost s coll = false)
include hx

theorem placeObject_of_fault {off : Nat} (hf : envelopeFault env env.length c.label = some off) :
    s.placeObject e m coll env = s.status e.key scEnvelopeInvalid off 0 [] := by
  simp only [State.placeObject, hc, hf]
  exact (if_neg (mt List.isEmpty_iff.mp hl)).trans (if_neg (Bool.eq_false_iff.mp hx))

variable (hf : envelopeFault env env.length c.label = none)
include hf

/-- What is left is the room on a Bench. -/
theorem placeObject_of_header : s.placeObject e m coll env =
    (s.pickBench ((liveBenches s m c).filter fun b => pagesOf env.length ≤ s.freePages b)).elim
      (s.refuse e.key scMediaFull) (putAwaits s e coll env) := by
  simp only [State.placeObject, hc, hf]
  refine ((if_neg (mt List.isEmpty_iff.mp hl)).trans (if_neg (Bool.eq_false_iff.mp hx))).trans ?_
  unfold liveBenches
  generalize s.pickBench _ = picked
  cases picked <;> rfl

theorem placeObject_of_full
    (hb : s.pickBench ((liveBenches s m c).filter fun b => pagesOf env.length ≤ s.freePages b) = none) :
    s.placeObject e m coll env = s.refuse e.key scMediaFull := by
  rw [placeObject_of_header e hc hl hx hf, hb, Option.elim_none]

theorem placeObject_of_room {b : BenchId}
    (hb : s.pickBench ((liveBenches s m c).filter fun b => pagesOf env.length ≤ s.freePages b) = some b) :
    s.placeObject e m coll env = putAwaits s e coll env b := by
  rw [placeObject_of_header e hc hl hx hf, hb, Option.elim_some]

end

/-! ### OBJ_GET (R386) -/

/-- Two updates that agree on the Bench as it is change the state alike. -/
theorem modBench_congr {s : State} {b : BenchId} {f g : Bench → Bench} (h : f s.benches[b] = g s.benches[b]) :
    s.modBench b f = s.modBench b g := by
  simp only [State.modBench, h]

theorem chargeWork_benches (s : State) (cls shop res us : Nat) : (s.chargeWork cls shop res us).benches = s.benches :=
  chargeWork_frame s cls shop res us .benches (by decide)

/-- The read of a range without a lost byte ends with all its bytes. -/
theorem finishGet_of_whole {s : State} {o : Obj} (k : Key) (shop us off n : Nat) (hlost : o.lost = none)
    (hcount : s.benches[o.bench].countEn = true) : s.finishGet k shop us o off n none =
      ((s.chargeWork 1 shop (benchRes o.bench) us).modBench o.bench fun x =>
        { x with getBytes := satAdd 64 x.getBytes n }).success k n 0 ((o.envelope.drop off).take n) := by
  have hcharged : (s.chargeWork 1 shop (benchRes o.bench) us).benches[o.bench].countEn = true := by
    rw [chargeWork_benches, hcount]
  simp only [State.finishGet, hlost, beforeLost, State.sendData]
  exact congrArg (fun t => State.success t k n 0 _) (modBench_congr (if_pos hcharged))

section

variable {s : State} {e : Sqe} {m : Mold} {h : Shop} {us : Nat} {lost poison : Option Nat}

theorem getObject_of_absent (ho : s.liveObj (wide64 e.cdw10 e.cdw11) = none) :
    s.getObject e m h us lost poison = s.refuse e.key scObjectAbsent := by
  simp only [State.getObject, ho]

variable {o : Obj} (ho : s.liveObj (wide64 e.cdw10 e.cdw11) = some o) (hc : (m.coll o.coll).isSome = true)
  (hx : ∀ x, s.coll o.coll = some x → x.unavailable = false)
include ho hc hx

theorem getObject_of_long (hn : o.envelope.length < wide64 e.cdw12 e.cdw13 + e.cdw14.toNat) :
    s.getObject e m h us lost poison = s.refuse e.key scInvalidField := by
  simp only [State.getObject, ho, named_of_readable e _ hc hx]
  exact if_pos hn

variable (hn : wide64 e.cdw12 e.cdw13 + e.cdw14.toNat ≤ o.envelope.length)
include hn

theorem getObject_of_failed (hb : s.benchOk o.bench = false) :
    s.getObject e m h us lost poison = s.refuse e.key scMediaUnavailable := by
  simp only [State.getObject, ho, named_of_readable e _ hc hx, hb]
  exact if_neg (Nat.not_lt.mpr hn)

/-- A Bench that is ready and not kept for C0 sweeps reads at once; the mark of lost bytes stays clear. -/
theorem getObject_of_ready (hb : s.benchOk o.bench = true) (hready : s.benchReady o.bench = true)
    (hkept : s.benchKept o.bench = false) (hlost : o.lost = none) : s.getObject e m h us none poison =
      (s.modObj o.id fun o => { o with lost := none }).finishGet e.key h.id us { o with lost := none }
        (wide64 e.cdw12 e.cdw13) e.cdw14.toNat poison := by
  simp only [State.getObject, ho, named_of_readable e _ hc hx, hb, hlost]
  have reads : (s.benchReady o.bench && !s.benchKept o.bench) = true := by rw [hready, hkept]; rfl
  exact (if_neg (Nat.not_lt.mpr hn)).trans (if_pos reads)

end

theorem benchOk_eq_false {s : State} {b : BenchId} (h : s.benches[b].state = .failed) : s.benchOk b = false := by
  simp only [State.benchOk, h, bne_self_eq_false]

theorem benchOk_eq_true {s : State} {b : BenchId} (h : s.benches[b].state ≠ .failed) : s.benchOk b = true :=
  bne_iff_ne.mpr h

/-- Settles O32: each command passes the common checks, and then goes by the Collection, the Bench and the range. -/
theorem objectsArePutAndRead : Obligations.ObjectsArePutAndRead := by
  intro s e bs us lost poison m h hw hm hh
  refine ⟨?put, fun hon => ⟨fun ho => ?statAbsent, fun o ho hc hx => ?stat⟩, fun hon hn0 => ?get⟩
  case put =>
    intro n coll env hon hn0 c hc live
    have hexec {t : State} (ht : s.placeObject e m coll env = t) : exec (.objPut e bs) s = .next t :=
      next_eq ((onant_of_fields hm hw hh hon (Bool.and_eq_true_iff.mpr ⟨bne_iff_ne.mpr hn0, Option.isSome_of_eq_some hc⟩)).trans ht)
    refine ⟨fun hl => hexec (placeObject_of_no_bench e hc hl),
      fun hl x hcoll hx => hexec (placeObject_of_lost e hc hl ((metadataLost_of_coll hcoll).trans hx)),
      fun hl hx => ⟨fun off hf => hexec (placeObject_of_fault e hc hl (metadataLost_eq_false hx) hf), fun hf => ?_⟩⟩
    split
    · next hb => exact hexec (placeObject_of_full e hc hl (metadataLost_eq_false hx) hf hb)
    · next b hb => exact hexec (placeObject_of_room e hc hl (metadataLost_eq_false hx) hf hb)
  case statAbsent =>
    refine next_eq ((onant_of_fields hm hw hh hon rfl).trans ?_)
    simp only [ho]
  case stat =>
    refine next_eq ((onant_of_fields hm hw hh hon rfl).trans ?_)
    simp only [ho, named_of_readable e _ hc hx]
  case get =>
    have hexec {t : State} (ht : s.getObject e m h us lost poison = t) :
        exec (.objGet e ⟨lost, us⟩ poison) s = .next t :=
      next_eq ((onant_of_fields hm hw hh hon (bne_iff_ne.mpr hn0)).trans ht)
    refine ⟨fun ho => hexec (getObject_of_absent ho), fun o ho hc hx =>
      ⟨fun hn => hexec (getObject_of_long ho hc hx hn),
        fun hn hb => hexec (getObject_of_failed ho hc hx hn (benchOk_eq_false hb)),
        fun hn hb hready hkept hlost holost hcount hpoison => hexec ?_⟩⟩
    subst hlost hpoison
    exact (getObject_of_ready ho hc hx hn (benchOk_eq_true hb) hready hkept holost).trans
      (finishGet_of_whole _ _ _ _ _ rfl hcount)

end Sys2Proof.Proofs

/-! PROOFS. OBJECT_READ_START on an object that has to wait (R251, Table 10-5): the reason that every object of its
identifier takes. -/

namespace Sys2Proof.Proofs

open Sys2Proof Sys2Proof.Machine Sys2Proof.Laws

/-! ### A read that is put off (R251) -/

/-- A Bench may start to read an object: it works, reads nothing, and is free for class C2. -/
def ReadMayStart (s : State) (b : BenchId) : Prop :=
  s.benches[b].reading = none ∧ s.benchOk b = true ∧ s.benches[b].state ≠ .off ∧ s.benchReady b = true ∧
    s.benchKept b = false ∧ s.drainsBench b = false ∧ s.workMay 2 (benchRes b) (s.readyOnBench b) = true

/-- The first object of a Bench's queue. -/
def firstPending (s : State) (b : BenchId) : Option Obj :=
  s.search.objs.find? fun o => o.bench == b && o.state == .pending && o.deleted.isNone

theorem not_readHeld {s : State} {b : BenchId} (h : ReadMayStart s b) :
    ¬ (s.benches[b].reading.isSome || !s.benchOk b || s.benches[b].state == .off || !s.benchReady b || s.benchKept b ||
      s.drainsBench b || !s.workMay 2 (benchRes b) (s.readyOnBench b)) = true := by
  obtain ⟨hreading, hok, hon, hready, hkept, hdrain, hmay⟩ := h
  rw [hreading, hok, beq_false_of_ne hon, hready, hkept, hdrain, hmay]
  decide

/-- The objects of an identifier wait for a reason. -/
def deferredAs (s : State) (i why : Nat) : State := s.modObj i fun o => { o with state := .deferred, reason := why }

/-- The reason given to every object of the identifier is that of the object that the Bench took. -/
theorem doObjectReadStart_of_blocked {s : State} {b : BenchId} {o : Obj} (us : Nat) (hopen : ReadMayStart s b)
    (hfirst : firstPending s b = some o) (hd : s.canDirty (quarterOfBench b) (objectMapGranule o.id) 5 = true)
    (hw : s.readBlocked o ≠ 0) : doObjectReadStart b us s =
      ((deferredAs s o.id (s.readBlocked o)).dirtyMap b o.id).warnBlocked o (s.readBlocked o) := by
  unfold firstPending at hfirst
  simp only [doObjectReadStart, hfirst, hd]
  exact (if_neg (not_readHeld hopen)).trans ((if_neg (by decide)).trans (if_pos (bne_iff_ne.mpr hw)))

/-! ### What the object map and a warning leave alone -/

/-- The reasons of all objects, in their order. -/
def reasons (s : State) : List Nat := s.search.objs.map Obj.reason

theorem reasons_eq_map_butHomes (s : State) : reasons s = (butHomes s).objs.map Obj.reason := by
  rw [reasons, butHomes, List.map_map]
  rfl

/-- Neither the write to the object map nor the warning changes a reason. -/
theorem reasons_mapped_warned (s : State) (b : BenchId) (i : Nat) (o : Obj) (why : Nat) :
    reasons ((s.dirtyMap b i).warnBlocked o why) = reasons s := by
  rw [reasons_eq_map_butHomes, butHomes_warnBlocked, butHomes_dirtyMap, ← reasons_eq_map_butHomes]

/-! ### Two objects of one identifier -/

/-- Object 7 of Collection 1 on Bench 0, to be read. -/
def pendingObj : Obj :=
  { id := 7, coll := 1, bench := 0, envelope := [], state := .pending, reason := 0, home := .pending, homeReason := 0, stop := 0
    handed := [], passages := [], notIndexed := 0, membersSkipped := 0, appended := [], storeEpoch := 0, deleted := none
    cipherHash := [], contentHash := none, fields := [], lost := none, readEndUs := 0 }

/-- Its twin, of Collection 2. -/
def twinObj : Obj := { pendingObj with coll := 2 }

/-- Collection 2 on media, not calibrated. -/
def uncalibratedColl : Coll :=
  { id := 2, dims := 64, metric := 0, recordClass := 0, listShare := 0, label := 5, kcv := none, state := .uncalibrated
    cal := { offsets := [], scales := [] }, entryList := none, firstList := 0, notIndexed := 0, markStalls := 0
    mediaPartial := 0, unavailable := false }

/-- A Mold that declares nothing. -/
def bareMold : Mold :=
  { world := [], shops := [], classes := [], env := { maxQueries := 0, maxLists := 0, maxK := 0, maxTokens := 0, bound := 9 }
    period := 0, strikeRef := false, phase := 0, holdover := 1, capW := 1800, c0FloorW := 0, engineFloor := 0
    memoryFloor := 0, flashFloor := 0, modes := []
    quant := { act := 0, weight := 0, legacy := false, window := 0, margin := 0, outlierMax := 0, tsLog2 := 0, tsTol := 0
               replay := false }
    colls := [], schemas := [], ceBurnish := 1, tsAct := 0, faultScope := 0, eventVector := 0 }

/-- Both objects wait for an idle Bench 0; the key of Collection 2 is held, that of Collection 1 is not. -/
def twins : State :=
  { State.reset.modBench 0 fun x => { x with state := .idle } with
    power := { State.reset.power with holdupOk := true }
    mold := { MoldBlock.reset with state := .molded, mold := some bareMold }
    links := Vector.replicate 32 { Link.reset with state := .up }
    sec := { Security.reset with keys := [(5, 0)] }
    search := { Search.reset with objs := [pendingObj, twinObj], colls := [uncalibratedColl] } }

theorem twins_readMayStart : ReadMayStart twins 0 := ⟨rfl, rfl, by decide, rfl, rfl, rfl, rfl⟩

/-- The two wait for different reasons: an absent key, and a Collection not calibrated. -/
theorem twins_readBlocked :
    twins.readBlocked pendingObj = reasonKeyAbsent ∧ twins.readBlocked twinObj = rrUncalibrated := ⟨rfl, rfl⟩

/-- Refutes O53: of two objects 7 on Bench 0 the first waits for its key. The read gives both its reason, KEY_ABSENT, where
the statement gives the second the reason of its own Collection, UNCALIBRATED. -/
theorem not_objectsAreReadIntoBatches : ¬ Obligations.ObjectsAreReadIntoBatches := by
  intro h
  obtain ⟨-, hread, -⟩ := h twins 0 0 0 [] []
  have hfirst : firstPending twins 0 = some pendingObj := rfl
  have hdirty : twins.canDirty (quarterOfBench 0) (objectMapGranule pendingObj.id) 5 = true := rfl
  have hwhy : twins.readBlocked pendingObj ≠ 0 := by decide
  have hstated := (hread pendingObj twins_readMayStart hfirst).2.1 hdirty hwhy
  have hdone := doObjectReadStart_of_blocked 0 twins_readMayStart hfirst hdirty hwhy
  have hreasons := congrArg reasons (hdone.symm.trans (Host.Outcome.next.inj hstated))
  rw [reasons_mapped_warned, reasons_mapped_warned] at hreasons
  have hdiffer : [reasonKeyAbsent, reasonKeyAbsent] = [reasonKeyAbsent, rrUncalibrated] := hreasons
  exact absurd hdiffer (by decide)

end Sys2Proof.Proofs

/-! PROOFS. Page reads and their steps, patrol and training, and raw reads (R273, R274, R285, R286, R288, R289, R293). -/

namespace Sys2Proof.Proofs

open Sys2Proof Sys2Proof.Machine Sys2Proof.Laws

/-! ### Raw reads (R285, R293, Table 11-13) -/

/-- An address breaks Table 11-13 in its block number, or in its row for the mode that it names. -/
theorem rawTarget_eq_none_iff (w : Word32) : rawTarget w = none ↔ 2730 < w.toNat / 32 % 4096 ∨
    (if w.toNat / 2 ^ 28 % 2 = 1 then 383 else 1535) < w.toNat / 2 ^ 17 % 2048 := by
  simp only [rawTarget, bits, bit, Nat.reduceAdd, Nat.reduceSub, Nat.reducePow, gt_iff_lt, Bool.or_eq_true,
    decide_eq_true_eq, beq_iff_eq, ite_eq_left_iff, reduceCtorEq, imp_false, not_not]

section

variable {s : State} {b : BenchId}

theorem doRawReadStart_of_busy (h : s.flash[b].rawBusy = true) :
    doRawReadStart b s = s.modFlash b fun f => { f with cfgBusy := true } := if_pos h

theorem doRawReadStart_of_range (h : s.flash[b].rawBusy = false) (ht : rawTarget s.flash[b].rawAddr = none) :
    doRawReadStart b s = s.modFlash b fun f => { f with rawResult := 3 } := by
  simp only [doRawReadStart, h, ht, Bool.false_eq_true, if_false]

theorem doRawReadStart_of_target {i : BlockId} (h : s.flash[b].rawBusy = false)
    (ht : rawTarget s.flash[b].rawAddr = some i) : doRawReadStart b s =
      if (s.flash[b].blk i).state = .erasing ∨ (s.flash[b].blk i).state = .suspended then
        s.modFlash b fun f => { f with rawResult := 2, erasingRefused := satAdd 32 f.erasingRefused 1 }
      else s.modFlash b fun f => { f with rawBusy := true, rawResult := 0 } := by
  simp only [doRawReadStart, h, ht, Bool.false_eq_true, if_false, Bool.or_eq_true, beq_iff_eq]

theorem doRawReadDone_of_busy (hard : Fin 34) (data : List Byte) (h : s.flash[b].rawBusy = true)
    (hp : s.nandPowered b = true) : doRawReadDone b hard data s = s.modFlash b fun f =>
      { f with
        rawBusy := false, rawResult := 1, hardFail := hard.val
        rawPage := List.zipWith (· ^^^ ·) (padTo 18432 (s.rawStored b)) (padTo 18432 data) } :=
  if_pos (Bool.and_eq_true_iff.mpr ⟨h, hp⟩)

theorem doRawReadDone_of_idle (hard : Fin 34) (data : List Byte)
    (h : s.flash[b].rawBusy = false ∨ s.nandPowered b = false) : doRawReadDone b hard data s = s :=
  if_neg (Bool.eq_false_iff.mp (Bool.and_eq_false_iff.mpr h))

end

/-- Settles O51: START by BUSY, the address and the state of the block, the end by BUSY and the supplies, and the range by
its two bounds. -/
theorem rawReadsOfErasingBlocksAreRefused : Obligations.RawReadsOfErasingBlocksAreRefused := by
  intro s b hard data
  refine ⟨fun hbusy => next_eq (doRawReadStart_of_busy hbusy), fun hidle =>
      ⟨fun ht => next_eq (doRawReadStart_of_range hidle ht), fun i ht =>
        ⟨fun hk => next_eq ((doRawReadStart_of_target hidle ht).trans (if_pos hk)),
          fun he hs => next_eq ((doRawReadStart_of_target hidle ht).trans (if_neg (not_or.mpr ⟨he, hs⟩)))⟩⟩,
    fun hbusy hp => next_eq (doRawReadDone_of_busy hard data hbusy hp),
    fun h => next_eq (doRawReadDone_of_idle hard data h), rawTarget_eq_none_iff⟩

/-! ### PAGE_READ (R274) -/

/-- A read of a page that is not issued: no NAND commands, a block that is being erased, no such row, or a stop. -/
def ReadBlocked (s : State) (b : BenchId) (p : PhysPage) : Prop :=
  s.nandOk b = false ∨ (s.flash[b].blk p.blk).state = .erasing ∨ (s.flash[b].blk p.blk).state = .suspended ∨
    (s.flash[b].blk p.blk).rows ≤ p.row ∨ s.flash[b].readStops p = true

/-- A read counts for its Bench and its block, and leaves the queue of its die. -/
def readCounted (s : State) (b : BenchId) (p : PhysPage) (r : Reader) : State :=
  s.modFlash b fun f =>
    ({ f with
      pagesRead := (f.pagesRead + 1) % 2 ^ 64, readQueue := f.readQueue.erase (p.blk.die, r) } :
        Flash).modBlk p.blk fun k => { k with reads := k.reads + 1 }

/-- What a read of a page with an identity does further, by the step of Table 11-7 that completes it. -/
def readStep (s : State) (b : BenchId) (p : PhysPage) (r : Reader) (x : Option PageIdent) : ReadOutcome → State
  | .step1 => s
  | .retry n => (s.modFlash b fun f =>
      ({ f with retryReads := (f.retryReads + 1) % 2 ^ 64 } : Flash).modBlk p.blk fun k =>
        { k with good := (k.good + n.val + 1) % 17, worn := k.worn || decide (8 ≤ n.val) }).readSlow b r x
  | .soft g => (s.modFlash b fun f =>
      ({ f with
        retryReads := (f.retryReads + 1) % 2 ^ 64, softReads := (f.softReads + 1) % 2 ^ 64 } :
          Flash).modBlk p.blk fun k => { k with good := g.val, worn := true }).readSlow b r x
  | .uncorrectable cws => ((s.modFlash b fun f =>
      { f with
        retryReads := (f.retryReads + 1) % 2 ^ 64, softReads := (f.softReads + 1) % 2 ^ 64 }).readSlow b r
          x).readFailed b p r cws

/-- What is read of a failed die is uncorrectable in all 33 codewords. -/
def dieOutcome (f : Flash) (p : PhysPage) (o : ReadOutcome) : ReadOutcome :=
  if f.dieDead p.blk.die.val then .uncorrectable (List.range 33) else o

section

variable {s : State} {b : BenchId} {p : PhysPage}

/-- The checks of PAGE_READ, then its count and its step. -/
theorem doPageRead_eq (r : Reader) (o : ReadOutcome) : doPageRead b p r o s =
    if !s.nandOk b || (s.flash[b].blk p.blk).state == .erasing || (s.flash[b].blk p.blk).state == .suspended ||
        decide (p.row ≥ (s.flash[b].blk p.blk).rows) || s.flash[b].readStops p then s
    else readStep (readCounted s b p r) b p r (s.flash[b].ident p) (dieOutcome s.flash[b] p o) := by
  unfold doPageRead
  congr 1

theorem readBlocked_iff : (!s.nandOk b || (s.flash[b].blk p.blk).state == .erasing ||
      (s.flash[b].blk p.blk).state == .suspended || decide (p.row ≥ (s.flash[b].blk p.blk).rows) ||
      s.flash[b].readStops p) = true ↔ ReadBlocked s b p := by
  simp only [ReadBlocked, Bool.or_eq_true, Bool.not_eq_true', beq_iff_eq, decide_eq_true_eq, or_assoc, ge_iff_le]

theorem doPageRead_of_blocked (h : ReadBlocked s b p) (r : Reader) (o : ReadOutcome) : doPageRead b p r o s = s :=
  (doPageRead_eq r o).trans (if_pos (readBlocked_iff.mpr h))

theorem doPageRead_of_dead (hd : s.flash[b].dieDead p.blk.die.val = true) (r : Reader) (o : ReadOutcome) :
    doPageRead b p r o s = doPageRead b p r (.uncorrectable (List.range 33)) s := by
  simp only [doPageRead_eq, dieOutcome, hd, if_true]

theorem doPageRead_of_free (h : ¬ReadBlocked s b p) (hd : s.flash[b].dieDead p.blk.die.val = false) (r : Reader)
    (o : ReadOutcome) : doPageRead b p r o s = readStep (readCounted s b p r) b p r (s.flash[b].ident p) o := by
  rw [doPageRead_eq, if_neg (readBlocked_iff.not.mpr h), dieOutcome, if_neg (Bool.eq_false_iff.mp hd)]

end

/-! ### Patrol (R288) -/

/-- A page is due for patrol: programmed, no filler, not read in this pass, on a Bench whose media are free. -/
def PatrolDue (s : State) (b : BenchId) (p : PhysPage) : Prop :=
  s.flash[b].patrolEn = true ∧ ((s.flash[b].blk p.blk).state = .open ∨ (s.flash[b].blk p.blk).state = .full) ∧
    p.row < (s.flash[b].blk p.blk).next ∧ s.mediaFree b = true ∧ s.flash[b].fillerAt p = none ∧
    p ∉ (s.flash[b].patrolPass s.clockUs).patrolSeen

/-! A new pass changes when it began and which pages it has read. -/

section

variable (f : Flash) (now : Nat)

@[simp] theorem patrolPass_patrolEn : (f.patrolPass now).patrolEn = f.patrolEn := by
  unfold Flash.patrolPass
  split_ifs <;> rfl

@[simp] theorem patrolPass_patrolPages : (f.patrolPass now).patrolPages = f.patrolPages := by
  unfold Flash.patrolPass
  split_ifs <;> rfl

@[simp] theorem patrolPass_blk (i : BlockId) : (f.patrolPass now).blk i = f.blk i := by
  unfold Flash.patrolPass
  split_ifs <;> rfl

@[simp] theorem patrolPass_fillerAt (p : PhysPage) : (f.patrolPass now).fillerAt p = f.fillerAt p := by
  unfold Flash.patrolPass
  split_ifs <;> rfl

end

section

variable {s : State} {b : BenchId} {p : PhysPage}

theorem patrolDue_iff : ((s.flash[b].patrolPass s.clockUs).patrolEn &&
      (((s.flash[b].patrolPass s.clockUs).blk p.blk).state == .open ||
        ((s.flash[b].patrolPass s.clockUs).blk p.blk).state == .full) &&
      decide (p.row < ((s.flash[b].patrolPass s.clockUs).blk p.blk).next) && s.mediaFree b &&
      ((s.flash[b].patrolPass s.clockUs).fillerAt p).isNone &&
      !(s.flash[b].patrolPass s.clockUs).patrolSeen.contains p) = true ↔ PatrolDue s b p := by
  simp only [PatrolDue, patrolPass_patrolEn, patrolPass_blk, patrolPass_fillerAt, Bool.and_eq_true, Bool.or_eq_true,
    beq_iff_eq, decide_eq_true_eq, Option.isNone_iff_eq_none, Bool.not_eq_true', ← Bool.not_eq_true,
    List.contains_iff_mem, and_assoc]

theorem doPatrolRead_of_due (h : PatrolDue s b p) : doPatrolRead b p s = s.modFlash b fun _ =>
    { s.flash[b].patrolPass s.clockUs with
      patrolPages := (s.flash[b].patrolPages + 1) % 2 ^ 64
      patrolSeen := p :: (s.flash[b].patrolPass s.clockUs).patrolSeen } := by
  refine (if_pos (patrolDue_iff.mpr h)).trans ?_
  rw [patrolPass_patrolPages]

theorem doPatrolRead_of_not_due (h : ¬PatrolDue s b p) : doPatrolRead b p s = s :=
  if_neg (patrolDue_iff.not.mpr h)

end

/-! ### ZQ calibration and DQ training (R273) -/

/-- A die may be calibrated or trained: it has power, no C0 window is open, and it has not failed. -/
def TrainingMay (s : State) (b : BenchId) (d : Fin 8) : Prop :=
  s.nandPowered b = true ∧ s.inC0Window b = false ∧ d ∉ s.flash[b].failedDies

/-- One more training of a die has failed. -/
def trainingFailed (s : State) (b : BenchId) (d : Fin 8) : State :=
  s.modFlash b fun f => { f with trainFails := f.trainFails.set d (f.trainFails[d] + 1) }

section

variable {s : State} {b : BenchId} {d : Fin 8}

theorem trainingMay_iff :
    (s.nandPowered b && !s.inC0Window b && !s.flash[b].failedDies.contains d) = true ↔ TrainingMay s b d := by
  simp only [TrainingMay, Bool.and_eq_true, Bool.not_eq_true', ← Bool.not_eq_true, List.contains_iff_mem, and_assoc]

theorem trainingStops_iff :
    (!s.nandPowered b || s.inC0Window b || s.flash[b].failedDies.contains d) = true ↔ ¬TrainingMay s b d := by
  rw [← trainingMay_iff]
  simp only [Bool.and_eq_true, Bool.or_eq_true, Bool.not_eq_true', ← Bool.not_eq_true, not_and_or, not_not, or_assoc]

theorem doZqCalibration_of_may (h : TrainingMay s b d) :
    doZqCalibration b d s = s.modFlash b fun f => { f with lastZq := f.lastZq.set d s.clockUs } :=
  if_pos (trainingMay_iff.mpr h)

theorem doZqCalibration_of_not (h : ¬TrainingMay s b d) : doZqCalibration b d s = s := if_neg (trainingMay_iff.not.mpr h)

theorem doDqTraining_of_not (h : ¬TrainingMay s b d) (pass : Bool) : doDqTraining b d pass s = s :=
  if_pos (trainingStops_iff.mpr h)

theorem doDqTraining_of_pass (h : TrainingMay s b d) : doDqTraining b d true s = s.modFlash b fun f =>
    { f with lastDq := f.lastDq.set d s.clockUs, trainFails := f.trainFails.set d 0 } :=
  (if_neg fun hs => trainingStops_iff.mp hs h).trans (if_pos rfl)

/-- The third failure in a row declares the die failed. -/
theorem doDqTraining_of_fail (h : TrainingMay s b d) : doDqTraining b d false s =
    if s.flash[b].trainFails[d] < 2 then trainingFailed s b d else (trainingFailed s b d).failDie b d := by
  have hcount : (trainingFailed s b d).flash[b].trainFails[d] = s.flash[b].trainFails[d] + 1 := by
    rw [trainingFailed, modFlash_get]
    exact Vector.getElem_set_self ..
  have hthird : (trainingFailed s b d).flash[b].trainFails[d] ≥ 3 ↔ ¬s.flash[b].trainFails[d] < 2 := by omega
  calc doDqTraining b d false s
    _ = if (trainingFailed s b d).flash[b].trainFails[d] ≥ 3 then (trainingFailed s b d).failDie b d
        else trainingFailed s b d := (if_neg fun hs => trainingStops_iff.mp hs h).trans (if_neg Bool.false_ne_true)
    _ = _ := by simp only [hthird, ite_not]

end

/-- Settles O48: a read by what stands in its way, its die and its step, a patrol read and the trainings by the conditions
under which they run. -/
theorem pagesAreReadAndTrained : Obligations.PagesAreReadAndTrained := by
  intro s b p r g n cws d
  have step (hb : ¬ReadBlocked s b p) (hd : s.flash[b].dieDead p.blk.die.val = false) (o : ReadOutcome) :=
    next_eq (doPageRead_of_free hb hd r o)
  refine ⟨fun hb o => next_eq (doPageRead_of_blocked hb r o), fun hd o => next_eq (doPageRead_of_dead hd r o),
    fun hb hd => ⟨step hb hd .step1, step hb hd (.retry n), step hb hd (.soft g), step hb hd (.uncorrectable cws)⟩,
    ⟨fun hen hk hrow hfree hfill hseen => next_eq (doPatrolRead_of_due ⟨hen, hk, hrow, hfree, hfill, hseen⟩),
      fun h => next_eq (doPatrolRead_of_not_due ?_)⟩,
    fun hp hw hd => ⟨next_eq (doZqCalibration_of_may ⟨hp, hw, hd⟩), next_eq (doDqTraining_of_pass ⟨hp, hw, hd⟩),
      next_eq (doDqTraining_of_fail ⟨hp, hw, hd⟩)⟩,
    fun h => ?_⟩
  -- a page that is not due for patrol
  · rintro ⟨hen, -, hrow, hfree, hfill, hseen⟩
    obtain h | h | h | h | h := h
    · exact Bool.false_ne_true (h.symm.trans hen)
    · exact Nat.not_le.mpr hrow h
    · exact Bool.false_ne_true (h.symm.trans hfree)
    · exact h hfill
    · exact hseen h
  -- a die that may not be trained
  · have hnot : ¬TrainingMay s b d := by
      rintro ⟨hp, hw, hd⟩
      obtain h | h | h := h
      · exact Bool.false_ne_true (h.symm.trans hp)
      · exact Bool.false_ne_true (hw.symm.trans h)
      · exact hd h
    exact ⟨next_eq (doZqCalibration_of_not hnot), fun pass => next_eq (doDqTraining_of_not hnot pass)⟩

end Sys2Proof.Proofs

/-! PROOFS. The movements of pages between blocks, with what they leave dirty, and the brown-outs of a NAND supply (R280,
R281, R287, R288, R291). -/

namespace Sys2Proof.Proofs

open Sys2Proof Sys2Proof.Machine Sys2Proof.Laws

/-! ### The form and the role of a block -/

theorem blk_id (f : Flash) (i : BlockId) : (f.blk i).id = i := by
  unfold Flash.blk
  split
  · next k hk => exact beq_iff_eq.mp (List.find?_some hk :)
  · split_ifs <;> rfl

/-- The block set is what its place names; every other place keeps its block. -/
theorem find?_setBlk (f : Flash) (k : Block) (i : BlockId) : (f.setBlk k).blocks.find? (fun x => x.id == i) =
    if k.id = i then some k else f.blocks.find? fun x => x.id == i := by
  rw [Flash.setBlk, List.find?_append, List.find?_filter, List.find?_singleton]
  split_ifs with hk h h
  · have hnone : f.blocks.find? (fun x => decide (x.id != k.id ∧ (x.id == i) = true)) = none := by
      simp [h]
    rw [hnone, Option.none_or]
  · exact absurd (beq_iff_eq.mp hk) h
  · exact absurd (beq_iff_eq.mpr h) hk
  · have hother (x : Block) : decide (x.id != k.id ∧ (x.id == i) = true) = (x.id == i) := by
      by_cases hx : x.id = i
      · simp [hx, Ne.symm h]
      · simp [hx]
    simp only [hother, Option.or_none]

theorem blk_setBlk (f : Flash) (k : Block) (i : BlockId) : (f.setBlk k).blk i = if k.id = i then k else f.blk i := by
  unfold Flash.blk
  rw [find?_setBlk]
  by_cases h : k.id = i
  · rw [if_pos h, if_pos h]
  · rw [if_neg h, if_neg h]
    rfl

/-- Whether a block is in single-bit form, and its role. -/
def formOf (f : Flash) (i : BlockId) : Bool × Nat := ((f.blk i).slc, (f.blk i).role)

theorem formOf_setBlk {f : Flash} {k : Block} (hslc : k.slc = (f.blk k.id).slc) (hrole : k.role = (f.blk k.id).role) :
    formOf (f.setBlk k) = formOf f := by
  funext i
  unfold formOf
  rw [blk_setBlk]
  split_ifs with h
  · rw [hslc, hrole, h]
  · rfl

theorem formOf_fillBlock (epoch : Nat) (f : Flash) (i : BlockId) : formOf (f.fillBlock epoch i) = formOf f := by
  unfold Flash.fillBlock
  extract_lets k n x
  split_ifs
  · rfl
  · have hid : k.id = i := blk_id f i
    exact formOf_setBlk (f := { f with fillers := x :: f.fillers })
      (k := { k with state := .full, next := k.rows, reads := 0 })
      (congrArg (fun j => (f.blk j).slc) hid.symm) (congrArg (fun j => (f.blk j).role) hid.symm)

theorem formOf_closeStripe (f : Flash) (epoch : Nat) (t : Stripe) : formOf (f.closeStripe epoch t) = formOf f := by
  unfold Flash.closeStripe
  split_ifs
  · rfl
  · exact List.foldlRecOn (motive := fun g : Flash => formOf g = formOf f) t.blocks (Flash.fillBlock epoch) rfl
      fun g hg i _ => (formOf_fillBlock epoch g i).trans hg

theorem formOf_fitExtent (f : Flash) (epoch : Nat) (xs : List PageIdent) : formOf (f.fitExtent epoch xs) = formOf f := by
  unfold Flash.fitExtent
  extract_lets at_
  split
  · split_ifs
    · exact formOf_closeStripe ..
    · rfl
  · rfl

theorem inRole_of_formOf {f g : Flash} (h : formOf g = formOf f) (role : Nat) : g.inRole role = f.inRole role := by
  funext x
  obtain ⟨hslc, hrole⟩ := Prod.mk.inj (congrFun h x.page.blk)
  simp only [Flash.inRole, hslc, hrole]

/-- Closing the open stripe for an extent leaves the single-form pages what they were. -/
theorem single_fitExtent (f : Flash) (epoch : Nat) (xs : List PageIdent) (l : Lst) (st : Nat) :
    (f.fitExtent epoch xs).single l st = f.single l st := by
  funext x
  simp only [Flash.single, inRole_of_formOf (formOf_fitExtent f epoch xs)]

section

variable {s : State} {b : BenchId}

/-! ### Fold and consolidation (R280) -/

/-- The media of a Bench take a movement; without one they stay. -/
def movedOrStays (s : State) (b : BenchId) : Option Flash → State
  | some h => s.moveTo b h
  | none => s

/-- A page of an object that is staged. -/
def staged (f : Flash) (x : PageIdent) : Bool := x.kind == 0 && f.inRole roleStaging x

theorem doFold_of_kept (h : s.mediaFree b = false) : doFold b s = s := by
  simp only [doFold, h, Bool.not_false, if_true]
  split <;> rfl

theorem doFold_of_none (h : ∀ x ∈ s.flash[b].idents, staged s.flash[b] x = false) : doFold b s = s := by
  have hnone : s.flash[b].idents.reverse.find? (staged s.flash[b]) = none := by simpa using h
  unfold staged at hnone
  simp only [doFold, hnone]

/-- The object whose page has waited longest goes, with all its staged pages. -/
theorem doFold_of_some {x : PageIdent} (hfree : s.mediaFree b = true)
    (hx : s.flash[b].idents.reverse.find? (staged s.flash[b]) = some x) :
    doFold b s = movedOrStays s b (s.flash[b].moveQlc false s.search.epoch fun y =>
      y.kind == 0 && y.content == x.content && s.flash[b].inRole roleStaging y) := by
  unfold staged at hx
  simp only [doFold, hx, hfree, Bool.not_true, Bool.false_eq_true, if_false]
  rfl

variable {list : Nat} {st : Fin 5}

theorem doConsolidation_of_kept (h : s.mediaFree b = false) : doConsolidation b list st s = s := by
  simp only [doConsolidation, h, Bool.not_false, Bool.or_true, if_true]
  split <;> rfl

theorem doConsolidation_of_none (h : s.lst list = none) : doConsolidation b list st s = s := by
  simp only [doConsolidation, h]

/-- The Bench once its open stripe has room for the single-form pages of a stream. -/
def fitted (s : State) (b : BenchId) (l : Lst) (st : Fin 5) : Flash :=
  s.flash[b].fitExtent s.search.epoch (s.flash[b].idents.filter (s.flash[b].single l st.val))

theorem doConsolidation_of_many {l : Lst} (hfree : s.mediaFree b = true) (hl : s.lst list = some l) (hb : l.bench = b)
    (hn : 32 ≤ (s.flash[b].idents.filter (s.flash[b].single l st.val)).length) : doConsolidation b list st s =
      movedOrStays s b ((fitted s b l st).moveQlc false s.search.epoch (s.flash[b].single l st.val)) := by
  have hsome : ((s.flash[b].idents.filter (s.flash[b].single l st.val)).length == 0) = false :=
    beq_false_of_ne (by omega)
  simp only [doConsolidation, hl, hb, hfree, hsome, ge_iff_le, hn, single_fitExtent, bne_self_eq_false, decide_true,
    Bool.true_or, Bool.not_true, Bool.or_self, Bool.false_eq_true, if_false]
  rfl

/-! ### Garbage collection and wear levelling (R281, R287) -/

theorem doGarbageCollection_of_kept (h : s.mediaFree b = false) : doGarbageCollection b s = s := by
  simp only [doGarbageCollection, h, Bool.not_false, Bool.or_true, if_true]
  split <;> rfl

theorem doGarbageCollection_of_nothing (h : 64 ≤ s.flash[b].minFree ∨ s.flash[b].victim = none) :
    doGarbageCollection b s = s := by
  unfold doGarbageCollection
  obtain h | h := h
  · simp only [ge_iff_le, h, decide_true, Bool.true_or, if_true]
    split <;> rfl
  · simp only [h]

/-- The victim's entry leaves the stripe table with its pages; where they find no place, all stays. -/
def collectedOrStays (s : State) (b : BenchId) (t : Stripe) : Option Flash → State
  | some h => (s.moveTo b { h with stripes := h.stripes.filter fun u => u.num != t.num }).storeTables b
  | none => s

theorem doGarbageCollection_of_victim {t : Stripe} (hfree : s.mediaFree b = true) (hmin : s.flash[b].minFree < 64)
    (ht : s.flash[b].victim = some t) : doGarbageCollection b s =
      collectedOrStays s b t (s.flash[b].moveQlc true s.search.epoch fun x => t.blocks.contains x.page.blk) := by
  simp only [doGarbageCollection, ht, hfree, ge_iff_le, Nat.not_le.mpr hmin, decide_false, Bool.not_true, Bool.or_self,
    Bool.false_eq_true, if_false]
  rfl

variable {d : Fin 8}

theorem doWearLevelMove_of_kept (h : s.mediaFree b = false) : doWearLevelMove b d s = s := by
  simp only [doWearLevelMove, h, Bool.not_false, Bool.or_true, if_true]
  split <;> rfl

theorem doWearLevelMove_of_even (h : s.flash[b].mostPe d ≤ s.flash[b].leastPe d + 200) : doWearLevelMove b d s = s := by
  simp only [doWearLevelMove, h, decide_true, Bool.true_or, if_true]
  split <;> rfl

theorem doWearLevelMove_of_uneven {k : Block} (hfree : s.mediaFree b = true)
    (h : s.flash[b].leastPe d + 200 < s.flash[b].mostPe d)
    (hk : s.flash[b].blocks.find? (fun k => k.id.die == d && k.erases == s.flash[b].leastPe d && k.state == .full &&
      !(s.flash[b].validIn k.id).isEmpty) = some k) : doWearLevelMove b d s =
        let v := s.flash[b].vacate false s.search.epoch k.id []
        if v.2 = [] then s.moveTo b (v.1.unstripe s.search.epoch k.id) else s := by
  simp only [doWearLevelMove, hk, hfree, Nat.not_le.mpr h, decide_false, Bool.not_true, Bool.or_self,
    Bool.false_eq_true, if_false, List.isEmpty_iff]

/-! ### Refresh (R288) -/

variable {i : BlockId}

theorem doBlockRefresh_of_kept (h : s.mediaFree b = false) : doBlockRefresh b i s = s := by
  simp only [doBlockRefresh, h, Bool.not_false, Bool.or_true, if_true]

theorem doBlockRefresh_of_not_due (h : (s.flash[b].blk i).due = false) : doBlockRefresh b i s = s := by
  simp only [doBlockRefresh, h, Bool.not_false, Bool.true_or, if_true]

/-- The last row of the block is programmed and its stripe gives it up before its pages move. -/
theorem doBlockRefresh_of_due (hfree : s.mediaFree b = true) (hdue : (s.flash[b].blk i).due = true)
    (hk : (s.flash[b].blk i).state = .open ∨ (s.flash[b].blk i).state = .full) : doBlockRefresh b i s =
      let v := ((s.flash[b].fillBlock s.search.epoch i).unstripe s.search.epoch i).vacate true s.search.epoch i []
      if v.2 = [] then
        s.moveTo b (({ v.1 with refreshes := satAdd 32 v.1.refreshes 1 } : Flash).modBlk i fun k =>
          { k with worn := false, reads := 0 })
      else s := by
  have hstate : ((s.flash[b].blk i).state == .open || (s.flash[b].blk i).state == .full) = true := by simpa using hk
  simp only [doBlockRefresh, hdue, hstate, hfree, Bool.not_true, Bool.or_self, Bool.false_eq_true, if_false,
    List.isEmpty_iff]

end

/-! ### What pages that moved leave dirty (R174, R270) -/

/-- The maps of the pages that a Bench holds no more. -/
def mapsLeft (f g : Flash) : List (Nat × Nat) :=
  ((f.idents.filter fun x => !g.idents.contains x).filterMap PageIdent.mapOf).eraseDups

/-- Maps of a Quarter become dirty, one after another. -/
def mapsNoted (s : State) (q : QuarterId) (maps : List (Nat × Nat)) : State :=
  maps.foldl (fun t m => (t.dirtyThrough q m.1 m.2).1) s

/-- Pages of a Bench have moved, their maps not yet noted: the stripe table is dirty where a stripe came or went. -/
def stripesNoted (s : State) (b : BenchId) (g : Flash) : State :=
  if s.flash[b].stripes.map Stripe.blocks = g.stripes.map Stripe.blocks then s.modFlash b fun _ => g
  else ((s.modFlash b fun _ => g).dirtyThrough (quarterOfBench b) (stripeGranule b) 1).1

theorem moveTo_eq (s : State) (b : BenchId) (g : Flash) :
    s.moveTo b g = mapsNoted (stripesNoted s b g) (quarterOfBench b) (mapsLeft s.flash[b] g) := by
  unfold stripesNoted
  simp only [State.moveTo, beq_iff_eq]
  rfl

theorem mapsLeft_of_same {f g : Flash} (h : g.idents = f.idents) : mapsLeft f g = [] := by
  have hnone : (f.idents.filter fun x => !g.idents.contains x) = [] := by simp [h]
  rw [mapsLeft, hnone, List.filterMap_nil, List.eraseDups_nil]

theorem moveTo_of_same {s : State} {b : BenchId} {g : Flash} (hi : g.idents = s.flash[b].idents)
    (hs : g.stripes = s.flash[b].stripes) : s.moveTo b g = s.modFlash b fun _ => g := by
  rw [moveTo_eq, mapsLeft_of_same hi, stripesNoted, hs, if_pos rfl]
  rfl

/-- What is noted while HOLDUP_OK is asserted: the media and the power stay, and what is dirty stays dirty. -/
def OnlyDirties (s t : State) : Prop := t.flash = s.flash ∧ t.power = s.power ∧ s.mem.dirty ⊆ t.mem.dirty

theorem OnlyDirties.refl (s : State) : OnlyDirties s s := ⟨rfl, rfl, List.Subset.refl _⟩

theorem OnlyDirties.trans {s t u : State} (h : OnlyDirties s t) (g : OnlyDirties t u) : OnlyDirties s u := by
  obtain ⟨hflash, hpower, hdirty⟩ := h
  obtain ⟨gflash, gpower, gdirty⟩ := g
  exact ⟨gflash.trans hflash, gpower.trans hpower, List.Subset.trans hdirty gdirty⟩

theorem dirtyWrite_onlyDirties (s : State) (q : QuarterId) (g cls : Nat) : OnlyDirties s (s.dirtyWrite q g cls).1 := by
  have hf := dirtyWrite_frame s q g cls
  refine ⟨hf .flash (by decide), power_of_frame hf, ?_⟩
  unfold State.dirtyWrite
  split_ifs
  · exact List.Subset.refl _
  · exact List.subset_append_left _ _
  · exact List.Subset.refl _

theorem dirtyThrough_onlyDirties {s : State} (hold : s.power.holdupOk = true) (q : QuarterId) (g cls : Nat) :
    OnlyDirties s (s.dirtyThrough q g cls).1 := by
  unfold State.dirtyThrough
  extract_lets known
  split_ifs with hroom hlow
  · exact dirtyWrite_onlyDirties s q g cls
  · simp [hold] at hlow
  · exact .refl s
  · exact dirtyWrite_onlyDirties s q g cls

theorem mapsNoted_onlyDirties {s : State} (hold : s.power.holdupOk = true) (q : QuarterId) (maps : List (Nat × Nat)) :
    OnlyDirties s (mapsNoted s q maps) :=
  List.foldlRecOn (motive := OnlyDirties s) maps _ (.refl s) fun _ ht m _ =>
    ht.trans (dirtyThrough_onlyDirties ((congrArg Power.holdupOk ht.2.1).trans hold) q m.1 m.2)

theorem stripesNoted_onlyDirties {s : State} (hold : s.power.holdupOk = true) (b : BenchId) (g : Flash) :
    OnlyDirties (s.modFlash b fun _ => g) (stripesNoted s b g) := by
  unfold stripesNoted
  split_ifs
  · exact .refl _
  · exact dirtyThrough_onlyDirties (s := s.modFlash b fun _ => g) hold _ _ _

theorem moveTo_flash {s : State} (hold : s.power.holdupOk = true) (b : BenchId) (g : Flash) :
    (s.moveTo b g).flash[b] = g := by
  have hs := stripesNoted_onlyDirties hold b g
  have hm := mapsNoted_onlyDirties ((congrArg Power.holdupOk hs.2.1).trans hold) (quarterOfBench b) (mapsLeft s.flash[b] g)
  obtain ⟨hflash, -⟩ := hs.trans hm
  rw [moveTo_eq, hflash, modFlash_get]

/-- Below the limit a granule is dirty after its write, as it was before or anew. -/
theorem dirtyThrough_dirty {s : State} {q : QuarterId} (hold : s.power.holdupOk = true)
    (hroom : s.dirtyCount q < s.dirtyLimit) (g cls : Nat) :
    ∃ x ∈ (s.dirtyThrough q g cls).1.mem.dirty, x.quarter = q ∧ x.granule = g := by
  have hwrite : s.dirtyThrough q g cls = s.dirtyWrite q g cls := by
    simp only [State.dirtyThrough, hroom, decide_true, Bool.or_true, if_true]
  rw [hwrite, State.dirtyWrite]
  split_ifs with hknown
  · rw [hold, Bool.true_and] at hknown
    simpa only [List.any_eq_true, Bool.and_eq_true, beq_iff_eq] using hknown
  · exact ⟨{ quarter := q, granule := g, cls := cls, mirror := g }, by simp, rfl, rfl⟩

theorem moveTo_dirty {s : State} {b : BenchId} {g : Flash} (hold : s.power.holdupOk = true)
    (hroom : s.dirtyCount (quarterOfBench b) < s.dirtyLimit)
    (hstripes : s.flash[b].stripes.map Stripe.blocks ≠ g.stripes.map Stripe.blocks) :
    ∃ x ∈ (s.moveTo b g).mem.dirty, x.quarter = quarterOfBench b ∧ x.granule = stripeGranule b := by
  obtain ⟨-, hpower, -⟩ := stripesNoted_onlyDirties hold b g
  obtain ⟨-, -, hkept⟩ :=
    mapsNoted_onlyDirties ((congrArg Power.holdupOk hpower).trans hold) (quarterOfBench b) (mapsLeft s.flash[b] g)
  obtain ⟨x, hx, hnamed⟩ : ∃ x ∈ (stripesNoted s b g).mem.dirty,
      x.quarter = quarterOfBench b ∧ x.granule = stripeGranule b := by
    rw [stripesNoted, if_neg hstripes]
    exact dirtyThrough_dirty (s := s.modFlash b fun _ => g) hold hroom _ _
  exact ⟨x, moveTo_eq s b g ▸ hkept hx, hnamed⟩

/-! ### NAND brown-out (R291) -/

theorem mem_benchesOf_iff {b : BenchId} {g : DieId} : b ∈ benchesOf g ↔ dieOfBench b = g :=
  ⟨fun h => by simpa [benchesOf, dieOfBench, Fin.ext_iff] using h, mem_benchesOf⟩

/-- A Bench flags the brown-out and records it. -/
def browned (s : State) (b : BenchId) : State :=
  (s.modFlash b fun f => { f with brownout := true }).mediaRecord b .degraded 0x13 0 0 none 0

theorem browned_power (s : State) (b : BenchId) : (browned s b).power = s.power :=
  mediaRecord_frame (s.modFlash b fun f => { f with brownout := true }) b .degraded 0x13 0 0 none 0 .power (by decide)

theorem browned_flash (s : State) (b : BenchId) :
    (browned s b).flash = (s.modFlash b fun f => { f with brownout := true }).flash :=
  mediaRecord_frame _ _ _ _ _ _ _ _ .flash (by decide)

theorem foldl_browned_power (bs : List BenchId) (s : State) : (bs.foldl browned s).power = s.power :=
  List.foldlRecOn (motive := fun t : State => t.power = s.power) bs browned rfl fun _ ht b _ =>
    (browned_power _ b).trans ht

/-- The Benches of a list are flagged, the others are as they were. -/
theorem foldl_browned_flash (bs : List BenchId) (s : State) (c : BenchId) :
    (bs.foldl browned s).flash[c] = if c ∈ bs then { s.flash[c] with brownout := true } else s.flash[c] := by
  induction bs generalizing s with
  | nil => rfl
  | cons b bs ih =>
    rw [List.foldl_cons, ih, browned_flash]
    by_cases hb : b = c
    · subst hb
      simp only [modFlash_get, List.mem_cons_self, if_true, ite_self]
    · rw [modFlash_get_of_ne s _ hb]
      simp only [List.mem_cons, Ne.symm hb, false_or]

theorem nandFalls_eq (s : State) (r : Rail) (g : DieId) :
    s.nandFalls r g = (benchesOf g).foldl browned (s.modPower fun p => { p with rails := insertNew p.rails r }) := rfl

theorem nandFalls_power (s : State) (r : Rail) (g : DieId) :
    (s.nandFalls r g).power = { s.power with rails := insertNew s.power.rails r } := by
  rw [nandFalls_eq, foldl_browned_power, modPower_power]

theorem nandFalls_flash (s : State) (r : Rail) (g : DieId) (c : BenchId) : (s.nandFalls r g).flash[c] =
    if dieOfBench c = g then { s.flash[c] with brownout := true } else s.flash[c] := by
  rw [nandFalls_eq, foldl_browned_flash]
  simp only [mem_benchesOf_iff, modPower_flash]

theorem mem_insertNew {α : Type} [BEq α] [LawfulBEq α] (l : List α) (x : α) : x ∈ insertNew l x := by
  unfold insertNew
  split_ifs with h
  · exact List.contains_iff_mem.mp h
  · exact List.mem_append_right _ (List.mem_singleton_self x)

/-- A Bench whose VCC rail is low issues no NAND command. -/
theorem nandOk_of_low {s : State} {b : BenchId} (h : Rail.nandVcc (dieOfBench b) ∈ s.power.rails) : s.nandOk b = false := by
  have hlow : s.nandLow b = true := Bool.or_eq_true_iff.mpr (.inl (List.contains_iff_mem.mpr h))
  simp only [State.nandOk, State.nandPowered, hlow, Bool.not_true, Bool.and_false, Bool.false_and]

theorem execNandBrownout_of_low {s : State} {g : DieId} (h : Rail.nandVcc g ∈ s.power.rails) :
    execNandBrownout g s = .next s := next_eq (if_pos (List.contains_iff_mem.mpr h))

theorem execNandBrownout_of_good {s : State} {g : DieId} (h : Rail.nandVcc g ∉ s.power.rails) :
    execNandBrownout g s = .next (s.nandFalls (.nandVcc g) g) := next_eq (if_neg fun hc => h (List.contains_iff_mem.mp hc))

theorem nandSupplyLow_iff {s : State} {g : DieId} :
    (!(s.power.rails.contains (.nandVcc g) || s.power.rails.contains (.nandVccq g))) = true ↔
      ¬(Rail.nandVcc g ∈ s.power.rails ∨ Rail.nandVccq g ∈ s.power.rails) := by
  simp only [Bool.not_eq_true', ← Bool.not_eq_true, Bool.or_eq_true, List.contains_iff_mem]

theorem doNandSupplyRestored_of_good {s : State} {g : DieId} (bad : List (BenchId × BlockId))
    (h : ¬(Rail.nandVcc g ∈ s.power.rails ∨ Rail.nandVccq g ∈ s.power.rails)) : doNandSupplyRestored g bad s = s :=
  if_pos (nandSupplyLow_iff.mpr h)

/-- Without a word line that fails, every channel of the die is retrained and its last lines are read back. -/
theorem doNandSupplyRestored_of_low {s : State} {g : DieId}
    (h : Rail.nandVcc g ∈ s.power.rails ∨ Rail.nandVccq g ∈ s.power.rails) : doNandSupplyRestored g [] s =
      ((benchesOf g).foldl (fun (t : State) b => t.modFlash b fun f => (f.retrain s.clockUs).readBack)
        (s.modPower fun p => { p with rails := p.rails.filter fun r => r != .nandVcc g && r != .nandVccq g })).resumeGets
          fun b => dieOfBench b == g := by
  have hlow := fun hc => nandSupplyLow_iff.mp hc h
  simp only [doNandSupplyRestored, if_neg hlow, List.foldl_nil, modPower_clockUs]

/-- Settles O50: each movement by what it moves and by the condition that starts it, what is dirty by the stripes that came
or went, and a brown-out by the rails. -/
theorem mediaMovesAndBrownOuts : Obligations.MediaMovesAndBrownOuts := by
  intro s b d i list st g
  refine ⟨fun hkept => ⟨next_eq (doFold_of_kept hkept), next_eq (doConsolidation_of_kept hkept),
      next_eq (doGarbageCollection_of_kept hkept), next_eq (doWearLevelMove_of_kept hkept),
      next_eq (doBlockRefresh_of_kept hkept)⟩,
    fun hfree => ⟨fun hx => next_eq (doFold_of_none fun x hm => ?_), fun x hx => next_eq (doFold_of_some hfree hx),
      fun hl => next_eq (doConsolidation_of_none hl), fun l h hl hb hn hmove => ?_,
      fun h => next_eq (doGarbageCollection_of_nothing h),
      fun t hmin ht => next_eq (doGarbageCollection_of_victim hfree hmin ht),
      fun h => next_eq (doWearLevelMove_of_even h), fun k h hk => next_eq (doWearLevelMove_of_uneven hfree h hk),
      fun h => next_eq (doBlockRefresh_of_not_due h), fun hdue hk => next_eq (doBlockRefresh_of_due hfree hdue hk)⟩,
    fun hold h => moveTo_flash hold b h, fun h hi hs => moveTo_of_same hi hs,
    fun h hold hroom hstripes => moveTo_dirty hold hroom hstripes,
    fun hlow => execNandBrownout_of_low hlow,
    fun hgood => ⟨s.nandFalls (.nandVcc g) g, execNandBrownout_of_good hgood, nandFalls_power s _ g,
      fun c hc => ⟨(nandFalls_flash s _ g c).trans (if_pos hc), ?_⟩,
      fun c hc => (nandFalls_flash s _ g c).trans (if_neg hc)⟩,
    fun hvcc hvccq => next_eq (doNandSupplyRestored_of_good [] (not_or.mpr ⟨hvcc, hvccq⟩)),
    fun hlow => next_eq (doNandSupplyRestored_of_low hlow)⟩
  -- no page is staged
  · exact Bool.eq_false_iff.mpr fun hs => hx x hm
      (by simpa only [staged, Bool.and_eq_true, beq_iff_eq] using hs)
  -- the consolidation finds its place
  · refine next_eq ((doConsolidation_of_many hfree hl hb hn).trans ?_)
    have hfound : (fitted s b l st).moveQlc false s.search.epoch (s.flash[b].single l st.val) = some h := hmove
    rw [hfound, movedOrStays]
  -- the rail of the Bench is low now
  · refine nandOk_of_low ?_
    rw [nandFalls_power, hc]
    exact mem_insertNew _ _

end Sys2Proof.Proofs

/-! PROOFS. The Pewter array (R295 to R310): its words and sectors, the reads that wait for it, the operations that end in it and
those that start, and the command sequence. -/

namespace Sys2Proof.Proofs

open Sys2Proof Sys2Proof.Machine Sys2Proof.Laws

/-! ### Words and sectors (R295, R297) -/

theorem any_putWord (w : PwtWord) (x : Nat) (l : List PwtWord) :
    (putWord w l).any (fun v => v.addr == x) = (w.addr == x || l.any fun v => v.addr == x) := by
  induction l with
  | nil => rfl
  | cons v l ih =>
    unfold putWord
    split_ifs with hlt heq
    · rfl
    · simp [← beq_iff_eq.mp heq]
    · simp only [List.any_cons, ih, Bool.or_left_comm]

@[simp] theorem programmed_program (p : Pewter) (a : Nat) (d : BitVec 128) (torn : Bool) (x : Nat) :
    (p.program a d torn).programmed x = (a == x || p.programmed x) :=
  any_putWord _ x p.words

theorem programmed_foldl_program {ι : Type} (l : List ι) (a : ι → Nat) (d : ι → BitVec 128) (torn : ι → Bool) (p : Pewter)
    (x : Nat) : (l.foldl (fun p i => p.program (a i) (d i) (torn i)) p).programmed x =
      (l.any (fun i => a i == x) || p.programmed x) := by
  induction l generalizing p with
  | nil => rfl
  | cons i l ih => simp only [List.foldl_cons, ih, programmed_program, List.any_cons, Bool.or_left_comm, Bool.or_assoc]

theorem programmed_programTargets (p : Pewter) (o : PwtOp) (torn : Nat → Bool) (x : Nat) :
    (p.programTargets o torn).programmed x = true ↔ x ∈ o.targets ∨ p.programmed x = true := by
  refine (Bool.eq_iff_iff.mp (programmed_foldl_program (List.range o.targets.length) (fun i => o.targets.getD i 0) _ torn p
    x)).trans ?_
  rw [Bool.or_eq_true, List.any_eq_true, List.mem_iff_getElem]
  refine or_congr_left ⟨?_, ?_⟩
  · rintro ⟨i, hi, hx⟩
    have hlt := List.mem_range.mp hi
    exact ⟨i, hlt, by simpa [hlt] using hx⟩
  · rintro ⟨i, hi, rfl⟩
    exact ⟨i, List.mem_range.mpr hi, by simp [hi]⟩

/-- An erase takes the words of its sector away and no other. -/
theorem programmed_eraseSector {p : Pewter} {a x : Nat} (hx : x < (pwtSector a).1 ∨ (pwtSector a).1 + (pwtSector a).2 ≤ x) :
    (p.eraseSector a).programmed x = p.programmed x := by
  have hout : ∀ w : PwtWord, w.addr = x →
      (!((pwtSector a).1 ≤ w.addr && w.addr < (pwtSector a).1 + (pwtSector a).2)) = true := by
    rintro w rfl
    simp only [Bool.not_eq_true', Bool.and_eq_false_iff, decide_eq_false_iff_not]
    omega
  simp only [Pewter.eraseSector, Pewter.programmed, List.any_filter]
  congr 1
  funext w
  by_cases hw : w.addr = x
  · rw [hout w hw, Bool.true_and]
  · rw [beq_false_of_ne hw, Bool.and_false]

theorem pwtSector_le (a : Nat) : (pwtSector a).1 ≤ a := by
  unfold pwtSector
  split_ifs <;> exact Nat.sub_le ..

/-- The sector of a bank address ends below the vault (Table 12-1). -/
theorem pwtSector_end_of_bank {a : Nat} (h : a < pwtVaultBase) : (pwtSector a).1 + (pwtSector a).2 ≤ pwtVaultBase := by
  unfold pwtSector
  unfold pwtVaultBase at h ⊢
  split_ifs <;> simp only <;> omega

/-- The sector of an option address begins no lower than the option area (Table 12-1). -/
theorem pwtOptBase_le_pwtSector {a : Nat} (h : pwtOptBase ≤ a) : pwtOptBase ≤ (pwtSector a).1 := by
  unfold pwtSector pwtVaultBase
  unfold pwtOptBase at h ⊢
  split_ifs <;> simp only <;> omega

/-! ### What waited for the array (R296, R310) -/

/-- What is armed, suspended or being written, with the RESULT, the aborts and the brown-out. -/
def heldOf (p : Pewter) : Option PwtOp × Option PwtOp × Option PwtOp × Nat × Nat × Bool :=
  (p.op, p.susp, p.cmd, p.result, p.aborts, p.brownout)

/-- What reads and writes of firmware leave of the array: the operations, and the words outside the banks; in a brown-out they
erase no word at all. -/
structure Undisturbed (p q : Pewter) : Prop where
  held : heldOf q = heldOf p
  words : ∀ x, p.brownout = true ∨ pwtVaultBase ≤ x → p.programmed x = true → q.programmed x = true

namespace Undisturbed

variable {p q r : Pewter}

theorem refl (p : Pewter) : Undisturbed p p := ⟨rfl, fun _ _ h => h⟩

theorem op_eq (h : Undisturbed p q) : q.op = p.op := congrArg (fun v => v.1) h.held

theorem susp_eq (h : Undisturbed p q) : q.susp = p.susp := congrArg (fun v => v.2.1) h.held

theorem cmd_eq (h : Undisturbed p q) : q.cmd = p.cmd := congrArg (fun v => v.2.2.1) h.held

theorem result_eq (h : Undisturbed p q) : q.result = p.result := congrArg (fun v => v.2.2.2.1) h.held

theorem aborts_eq (h : Undisturbed p q) : q.aborts = p.aborts := congrArg (fun v => v.2.2.2.2.1) h.held

theorem brownout_eq (h : Undisturbed p q) : q.brownout = p.brownout := congrArg (fun v => v.2.2.2.2.2) h.held

theorem trans (h : Undisturbed p q) (g : Undisturbed q r) : Undisturbed p r :=
  ⟨g.held.trans h.held, fun x hx hp => g.words x (h.brownout_eq ▸ hx) (h.words x hx hp)⟩

theorem of_frame {w : List Laws.Part} {s t : State} (h : Frame w s t) (hw : Laws.Part.pewter ∉ w := by decide) :
    Undisturbed s.pewter t.pewter :=
  pewter_of_frame h hw ▸ refl _

theorem of_words (hh : heldOf q = heldOf p) (hw : q.words = p.words) : Undisturbed p q :=
  ⟨hh, fun x _ hx => by rwa [Pewter.programmed, hw]⟩

theorem program (p : Pewter) (a : Nat) (d : BitVec 128) (torn : Bool) : Undisturbed p (p.program a d torn) :=
  ⟨rfl, fun x _ hx => by rw [programmed_program, hx, Bool.or_true]⟩

theorem foldl {α : Type} {f : Pewter → α → Pewter} (l : List α)
    (hf : ∀ q, Undisturbed p q → ∀ x ∈ l, Undisturbed q (f q x)) : Undisturbed p (l.foldl f p) :=
  List.foldlRecOn (motive := Undisturbed p) l f (refl p) fun q h x hx => h.trans (hf q h x hx)

theorem ite {c : Prop} [Decidable c] {a b : State} (ha : Undisturbed p a.pewter) (hb : Undisturbed p b.pewter) :
    Undisturbed p (if c then a else b).pewter := by
  split <;> assumption

theorem programBank (p : Pewter) (one : Bool) (off : Nat) (bs : List Byte) : Undisturbed p (p.programBank one off bs) := by
  refine foldl _ fun q _ i _ => ?_
  extract_lets d
  split_ifs
  · exact refl q
  · exact program ..

/-- Bank sectors are erased where no brown-out is. -/
theorem eraseSector {a : Nat} (hp : p.brownout = false) (ha : (pwtSector a).1 + (pwtSector a).2 ≤ pwtVaultBase) :
    Undisturbed p (p.eraseSector a) :=
  ⟨rfl, fun x hx h => (programmed_eraseSector (.inr (ha.trans (hx.resolve_left (by simp [hp]))))).trans h⟩

end Undisturbed

theorem programVault_undisturbed (s : State) (w d : Nat) : Undisturbed s.pewter (s.programVault w d).pewter :=
  have h := Undisturbed.program s.pewter (pwtVaultBase + 8 * w) (BitVec.ofNat 128 d) (!Config.vaultVerifies w)
  ⟨h.held, h.words⟩

theorem waitRead_undisturbed (s : State) (r : PwtRead) : Undisturbed s.pewter (s.waitRead r).pewter :=
  .of_words rfl rfl

theorem reserveBatch_undisturbed (fuel : Nat) (s : State) : Undisturbed s.pewter (s.reserveBatch fuel).pewter := by
  induction fuel generalizing s with
  | zero => exact .refl _
  | succ fuel ih =>
    have hw (w : Nat) : Undisturbed s.pewter (s.programVault w 0).leavesCheck.pewter :=
      (programVault_undisturbed s w 0).trans (.of_frame (leavesCheck_frame _))
    unfold State.reserveBatch
    extract_lets w t
    split_ifs
    · exact .refl _
    · exact hw w
    · exact (hw w).trans (ih t)

theorem sign_undisturbed (s : State) (msg : List Byte) : Undisturbed s.pewter (s.sign msg).2.pewter := by
  unfold State.sign
  extract_lets t
  have ht : Undisturbed s.pewter t.pewter := by
    unfold t
    split_ifs
    · exact .refl _
    · exact reserveBatch_undisturbed ..
  split_ifs <;> exact ht

theorem quotaSign_undisturbed (s : State) (msg : List Byte) : Undisturbed s.pewter (s.quotaSign msg).2.pewter := by
  have hs := sign_undisturbed s msg
  unfold State.quotaSign
  split_ifs
  · exact .refl _
  · dsimp only
    split <;> exact hs

theorem spdmSigned_undisturbed (s : State) (p : SpdmPort) (code : Byte) (content : List Byte) :
    Undisturbed s.pewter (s.spdmSigned p code content).pewter := by
  have hs := quotaSign_undisturbed s (Config.spdmMessage content)
  unfold State.spdmSigned
  split
  · next t ht =>
    rw [ht] at hs
    exact hs
  · next h t ht =>
    rw [ht] at hs
    exact hs

theorem doSpdmMeasurements_undisturbed (p : SpdmPort) (index : Byte) (sign : Bool) (nonce : List Byte) (s : State) :
    Undisturbed s.pewter (doSpdmMeasurements p index sign nonce s).pewter := by
  have hf : Undisturbed s.pewter (s.freshBytes 4).2.pewter := .of_frame (freshBytes_frame s 4)
  unfold doSpdmMeasurements
  split
  · exact .refl _
  split
  · exact waitRead_undisturbed ..
  split
  · exact .refl _
  split
  · exact .refl _
  split
  · exact .refl _
  dsimp only
  split
  · exact hf.trans (spdmSigned_undisturbed ..)
  · exact hf

theorem doHallmarkRoots_undisturbed (e : Sqe) (s : State) : Undisturbed s.pewter (doHallmarkRoots e s).pewter := by
  unfold doHallmarkRoots
  split_ifs
  · exact .of_frame (refuse_frame _ _ _)
  · exact waitRead_undisturbed ..
  · exact .of_frame (success_frame _ _ _ _ _)

theorem doArrayRead_undisturbed (a : Nat) (fetch size8 : Bool) (s : State) :
    Undisturbed s.pewter (doArrayRead a fetch size8 s).pewter := by
  unfold doArrayRead
  extract_lets p n t
  split_ifs
  · exact .refl _
  · exact waitRead_undisturbed ..
  · exact .of_words rfl rfl
  · exact .of_words rfl rfl
  · exact Undisturbed.of_frame (t := s.fresh.2) (fresh_frame s)
  · exact .refl _

theorem doFirmwareCommit_undisturbed (e : Sqe) (s : State) : Undisturbed s.pewter (doFirmwareCommit e s).pewter := by
  have hp := Undisturbed.programBank s.pewter (!s.pewter.activeBank) 0 s.fw.header
  unfold doFirmwareCommit
  extract_lets v ca one h whole old t
  split_ifs
  · exact .of_frame (refuse_frame _ _ _)
  · exact .of_frame (nvmeInvalidField_frame _ _)
  · exact waitRead_undisturbed ..
  · exact hp.trans (.of_frame (success_frame t _ _ _ _))
  · exact hp.trans (.of_frame (activationNeedsReset_frame t _))
  · exact (Undisturbed.of_frame (reportSecurity_frame _ _ _ _ _ _)).trans (.of_frame (imageInvalid_frame _ _))

/-- A piece that lies in its bank touches sectors that end below the vault. -/
theorem pwtSector_end_of_bankSectors {one : Bool} {off n a : Nat} (hin : off + n ≤ bankSize)
    (ha : a ∈ bankSectors one off n) : (pwtSector a).1 + (pwtSector a).2 ≤ pwtVaultBase := by
  obtain ⟨i, hi, rfl⟩ := List.mem_map.mp (List.mem_eraseDups.mp ha)
  have hlt : bankBase one + off + 4096 * i < pwtVaultBase := by
    have := List.mem_range.mp hi
    unfold bankSize at hin
    unfold bankBase pwtVaultBase
    split_ifs <;> omega
  exact pwtSector_end_of_bank ((pwtSector_le _).trans_lt hlt)

theorem doFirmwareDownload_undisturbed (e : Sqe) (piece : List Byte) (s : State) :
    Undisturbed s.pewter (doFirmwareDownload e piece s).pewter := by
  unfold doFirmwareDownload
  extract_lets n off got one bs done new p q old fw
  refine .ite (.of_frame (refuse_frame _ _ _)) (.ite (.of_frame (nvmeInvalidField_frame _ _)) ?_)
  split
  · exact .of_frame (nvmeInvalidField_frame _ _)
  next hbad =>
  split
  · exact waitRead_undisturbed ..
  next hwait =>
  have hin : off + n ≤ bankSize := by
    simp only [pieceBad, Bool.or_eq_true, decide_eq_true_eq, not_or] at hbad
    omega
  have hup : s.pewter.brownout = false := by
    simp only [Pewter.writeWaits, Bool.or_eq_true, not_or, Bool.not_eq_true] at hwait
    exact hwait.2
  have hp : Undisturbed s.pewter p := .foldl _ fun r hr a ha =>
    .eraseSector (hr.brownout_eq.trans hup) (pwtSector_end_of_bankSectors hin (List.mem_filter.mp ha).1)
  have hq : Undisturbed s.pewter q := by
    unfold q
    split_ifs <;> exact hp.trans (.programBank ..)
  exact hq.trans (.of_frame (success_frame { s with pewter := q, fw := fw } _ _ _ _))

theorem serveRead_undisturbed (s : State) : ∀ r : PwtRead, Undisturbed s.pewter (s.serveRead r).pewter
  | .roots e => .ite (doHallmarkRoots_undisturbed e s) (.refl _)
  | .commit e => .ite (doFirmwareCommit_undisturbed e s) (.refl _)
  | .download e piece => .ite (doFirmwareDownload_undisturbed e piece s) (.refl _)
  | .measure .mctp i sign n => .ite (doSpdmMeasurements_undisturbed .mctp i sign n s) (.refl _)
  | .measure (.doe c) i sign n => .ite (doSpdmMeasurements_undisturbed (.doe c) i sign n s) (.refl _)
  | .array a fetch size8 => doArrayRead_undisturbed a fetch size8 s

theorem resumeReads_undisturbed (s : State) : Undisturbed s.pewter s.resumeReads.pewter :=
  List.foldlRecOn (motive := fun t : State => Undisturbed s.pewter t.pewter) s.pewter.waiting State.serveRead
    ⟨rfl, fun _ _ h => h⟩ fun t h r _ => h.trans (serveRead_undisturbed t r)


/-! ### Security events and lockouts (R298, R299, R305) -/

/-- The array with an event latched: PWT_SEC keeps the first, and each awaits the event log. -/
def withEvent (p : Pewter) (kind word : Nat) : Pewter :=
  { p with
    secEvent := true
    secKind := if p.secEvent then p.secKind else kind
    secWord := if p.secEvent then p.secWord else word
    secQueue := p.secQueue ++ [(kind, word)] }

theorem secLatch_pewter (s : State) (kind word : Nat) : (s.secLatch kind word).pewter = withEvent s.pewter kind word := by
  refine (pewter_of_frame (reportGeneral_frame _ _ _ _ _ _ _ _ _)).trans ?_
  unfold withEvent
  split_ifs with h
  · simp only [← h]
  · rfl

/-- The array in a lockout that begins. -/
def lockedOut (s : State) (result : Nat) : Pewter :=
  { s.pewter with
    seq := .lockout, cmd := none, result := result, lockouts := satAdd 8 s.pewter.lockouts 1, lockoutAt := s.clockUs }

/-- The sixteenth lockout latches an event of kind 2. -/
theorem pwtLockout_pewter (s : State) (result : Nat) : (s.pwtLockout result).pewter =
    if satAdd 8 s.pewter.lockouts 1 = 16 then withEvent (lockedOut s result) 2 0 else lockedOut s result := by
  simp only [State.pwtLockout, apply_ite State.pewter, secLatch_pewter, beq_iff_eq]
  rfl

/-- The array at a write of the sequence, whose clock it keeps. -/
def atWrite (s : State) : State := { s with pewter := { s.pewter with lastWriteUs := s.clockUs } }

/-! ### Vault words stay programmed (R297, R303, R304) -/

/-- An erase lies in its area: one of a sector in a bank, one of the option area there. -/
def EraseInItsArea (o : PwtOp) : Prop := (o.opcode = 2 → o.addr < pwtVaultBase) ∧ (o.opcode = 6 → pwtOptBase ≤ o.addr)

/-- Every erase that pulses, running or suspended, lies in its area, and the command being written pulses not yet. -/
def ErasesInTheirAreas (p : Pewter) : Prop :=
  (∀ o, p.op = some o ∨ p.susp = some o → o.pulsing = true → EraseInItsArea o) ∧ ∀ o, p.cmd = some o → o.pulsing = false

/-- From a state whose erases lie in their areas: they still do, and no vault word has lost its program. -/
structure KeepsVault (p q : Pewter) : Prop where
  erases : ErasesInTheirAreas p → ErasesInTheirAreas q
  words : ErasesInTheirAreas p →
    ∀ x, pwtVaultBase ≤ x → x < pwtOptBase → p.programmed x = true → q.programmed x = true

namespace KeepsVault

variable {p q r : Pewter}

theorem refl (p : Pewter) : KeepsVault p p := ⟨id, fun _ _ _ _ h => h⟩

theorem trans (h : KeepsVault p q) (g : KeepsVault q r) : KeepsVault p r :=
  ⟨fun hp => g.erases (h.erases hp), fun hp x hv ho hx => g.words (h.erases hp) x hv ho (h.words hp x hv ho hx)⟩

theorem ite {c : Prop} [Decidable c] {a b : State} (ha : KeepsVault p a.pewter) (hb : KeepsVault p b.pewter) :
    KeepsVault p (if c then a else b).pewter := by
  split <;> assumption

/-- An array whose operations come from where they were, with its command gone. -/
theorem of_ops (hwords : ∀ x, pwtVaultBase ≤ x → p.programmed x = true → q.programmed x = true)
    (hop : ∀ o, q.op = some o → p.op = some o ∨ p.susp = some o)
    (hsusp : ∀ o, q.susp = some o → p.op = some o ∨ p.susp = some o) (hcmd : q.cmd = none ∨ q.cmd = p.cmd) :
    KeepsVault p q := by
  refine ⟨fun hp => ⟨fun o ho => hp.1 o (ho.elim (hop o) (hsusp o)), fun o ho => ?_⟩, fun _ x hv _ => hwords x hv⟩
  rcases hcmd with hnone | hsame
  · simp [hnone] at ho
  · exact hp.2 o (hsame ▸ ho)

theorem of_undisturbed (h : Undisturbed p q) : KeepsVault p q :=
  of_ops (fun x hx => h.words x (.inr hx)) (fun _ ho => .inl (h.op_eq ▸ ho)) (fun _ ho => .inr (h.susp_eq ▸ ho))
    (.inr h.cmd_eq)

/-- An operation that does not pulse, or an erase in its area, comes to its place; the command is gone. -/
theorem of_op {o : PwtOp} (hwords : q.words = p.words) (hop : q.op = some o) (hsusp : q.susp = p.susp)
    (hcmd : q.cmd = none ∨ q.cmd = p.cmd) (ho : ErasesInTheirAreas p → o.pulsing = true → EraseInItsArea o) :
    KeepsVault p q := by
  refine ⟨fun hp => ⟨fun v hv => ?_, fun v hv => ?_⟩, fun _ x _ _ hx => by rwa [Pewter.programmed, hwords]⟩
  · rcases hv with hv | hv
    · exact Option.some.inj (hop.symm.trans hv) ▸ ho hp
    · exact hp.1 v (.inr (hsusp ▸ hv))
  · rcases hcmd with hnone | hsame
    · simp [hnone] at hv
    · exact hp.2 v (hsame ▸ hv)

/-- A command that does not pulse is being written. -/
theorem of_cmd {o : PwtOp} (hwords : q.words = p.words) (hop : q.op = p.op) (hsusp : q.susp = p.susp)
    (hcmd : q.cmd = some o) (ho : ErasesInTheirAreas p → o.pulsing = false) : KeepsVault p q :=
  ⟨fun hp => ⟨fun v hv => hp.1 v (hop ▸ hsusp ▸ hv), fun v hv => Option.some.inj (hcmd.symm.trans hv) ▸ ho hp⟩,
    fun _ x _ _ hx => by rwa [Pewter.programmed, hwords]⟩

end KeepsVault

section

variable (s : State)

theorem pwtEnd_keepsVault (result : Nat) : KeepsVault s.pewter (s.pwtEnd result).pewter :=
  .of_ops (fun _ _ h => h) nofun (fun _ => .inr) (.inr rfl)

theorem pwtRefuse_keepsVault (result : Nat) : KeepsVault s.pewter (s.pwtRefuse result).pewter :=
  .of_ops (fun _ _ h => h) (fun _ => .inl) (fun _ => .inr) (.inl rfl)

theorem secLatch_keepsVault (kind word : Nat) : KeepsVault s.pewter (s.secLatch kind word).pewter := by
  rw [secLatch_pewter]
  exact .of_undisturbed (.of_words rfl rfl)

theorem pwtLockout_keepsVault (result : Nat) : KeepsVault s.pewter (s.pwtLockout result).pewter := by
  rw [pwtLockout_pewter]
  split_ifs <;> exact .of_ops (fun _ _ h => h) (fun _ => .inl) (fun _ => .inr) (.inl rfl)

theorem pwtSeq_keepsVault (q : SeqState) : KeepsVault s.pewter (s.pwtSeq q).pewter :=
  .of_undisturbed (.of_words rfl rfl)

theorem pwtSelfBank_keepsVault : KeepsVault s.pewter s.pwtSelfBank.pewter :=
  .of_ops (fun _ _ h => h) nofun (fun _ => .inr) (.inr rfl)

theorem pwtAgain_keepsVault : KeepsVault s.pewter s.pwtAgain.pewter :=
  .of_ops (fun _ _ h => h) nofun (fun _ => .inr) (.inr rfl)

theorem resumeReads_keepsVault : KeepsVault s.pewter s.resumeReads.pewter :=
  .of_undisturbed (resumeReads_undisturbed s)

theorem pwtPulse_keepsVault {o : PwtOp} (ho : EraseInItsArea o) : KeepsVault s.pewter (s.pwtPulse o).pewter :=
  .of_op rfl rfl rfl (.inr rfl) fun _ _ => ho

/-- The operation armed is the command that was written, which does not pulse. -/
theorem pwtArm_keepsVault {c o : PwtOp} (hc : s.pewter.cmd = some c) (ho : o.pulsing = c.pulsing) :
    KeepsVault s.pewter (s.pwtArm o).pewter :=
  .of_op rfl rfl rfl (.inl rfl) fun hp hpulse => absurd ((ho ▸ hpulse).symm.trans (hp.2 c hc)) (by decide)

/-! #### The sequence -/

theorem atWrite_keepsVault : KeepsVault s.pewter (atWrite s).pewter := .of_undisturbed (.of_words rfl rfl)

theorem pwtWrite_keepsVault {k : State → State} (hk : ∀ t, KeepsVault t.pewter (k t).pewter) :
    KeepsVault s.pewter (s.pwtWrite k).pewter :=
  .ite (.refl _) (.ite (pwtLockout_keepsVault s 5) (.ite (pwtRefuse_keepsVault s 11)
    ((atWrite_keepsVault s).trans (hk (atWrite s)))))

theorem doPwtUnlock_keepsVault (key : Word16) : KeepsVault s.pewter (doPwtUnlock key s).pewter := by
  refine pwtWrite_keepsVault s fun t => ?_
  split
  · exact .ite (pwtSeq_keepsVault t _) (pwtLockout_keepsVault t 4)
  · exact .ite (pwtSeq_keepsVault t _) (pwtLockout_keepsVault t 4)
  · exact .ite (pwtSeq_keepsVault t _) (pwtLockout_keepsVault t 4)
  all_goals exact pwtLockout_keepsVault t 4

theorem doPwtAddr_keepsVault (a : BitVec 26) (bank : Option Bool) : KeepsVault s.pewter (doPwtAddr a bank s).pewter := by
  refine pwtWrite_keepsVault s fun t => ?_
  split
  · next c _ hc =>
    exact .ite (.of_op rfl rfl rfl (.inl rfl) fun hp hpulse => absurd (hpulse.symm.trans (hp.2 c hc)) (by decide))
      (.of_cmd rfl rfl rfl rfl fun hp => hp.2 c hc)
  · exact pwtLockout_keepsVault t 4

theorem doPwtData_keepsVault (d : Word64) (bank : Option Bool) : KeepsVault s.pewter (doPwtData d bank s).pewter := by
  refine pwtWrite_keepsVault s fun t => ?_
  split
  · next c _ hc =>
    exact .ite (pwtArm_keepsVault t hc rfl) (.of_cmd rfl rfl rfl rfl fun hp => hp.2 c hc)
  · exact pwtLockout_keepsVault t 4

theorem doEraseSuspend_keepsVault : KeepsVault s.pewter (doEraseSuspend s).pewter := by
  refine .ite (.refl _) ?_
  split
  · exact .ite (.of_undisturbed (.of_words rfl rfl)) (pwtRefuse_keepsVault s 7)
  · exact pwtRefuse_keepsVault s 7

theorem doEraseResume_keepsVault : KeepsVault s.pewter (doEraseResume s).pewter := by
  refine .ite (.refl _) (.ite (pwtRefuse_keepsVault s 11) ?_)
  split
  · next o ho => exact .of_ops (fun _ _ h => h) (fun v hv => .inr (ho.trans hv)) nofun (.inl rfl)
  · exact pwtRefuse_keepsVault s 7

theorem doPwtCmd_keepsVault (opcode len : Nat) : KeepsVault s.pewter (doPwtCmd opcode len s).pewter :=
  .ite (doEraseSuspend_keepsVault s) (.ite (doEraseResume_keepsVault s) (pwtWrite_keepsVault s fun t =>
    .ite (pwtRefuse_keepsVault t 7) (.ite (.of_cmd rfl rfl rfl rfl fun _ => rfl) (pwtLockout_keepsVault t 4))))

theorem doEraseSuspendComplete_keepsVault : KeepsVault s.pewter (doEraseSuspendComplete s).pewter :=
  .ite (.of_ops (fun _ _ h => h) nofun (fun _ => .inl) (.inr rfl)) (.refl _)

end

/-! #### The operations -/

section

variable {s : State} {o : PwtOp}

theorem pwtStart_keepsVault {n : Nat} {k : PwtOp → State} (hk : ∀ o, o.opcode = n → KeepsVault s.pewter (k o).pewter) :
    KeepsVault s.pewter (s.pwtStart n k).pewter := by
  unfold State.pwtStart
  split
  · split
    · next h =>
      exact .ite (pwtEnd_keepsVault s 8) (hk _ (beq_iff_eq.mp (Bool.and_eq_true_iff.mp h).1))
    · exact .refl _
  · exact .refl _

theorem eraseInItsArea_of_program (h2 : o.opcode ≠ 2) (h6 : o.opcode ≠ 6) : EraseInItsArea o :=
  ⟨fun h => absurd h h2, fun h => absurd h h6⟩

theorem doPageProgram_keepsVault (s : State) : KeepsVault s.pewter (doPageProgram s).pewter :=
  pwtStart_keepsVault fun o ho =>
    .ite (pwtEnd_keepsVault s 6) (.ite (pwtEnd_keepsVault s 12) (.ite (pwtSelfBank_keepsVault s) (.ite (pwtAgain_keepsVault s)
      (pwtPulse_keepsVault s (eraseInItsArea_of_program (by omega) (by omega))))))

/-- The pulses of a sector erase begin at a bank address alone. -/
theorem doSectorErase_keepsVault (s : State) : KeepsVault s.pewter (doSectorErase s).pewter := by
  refine pwtStart_keepsVault fun o ho => ?_
  split
  · exact pwtEnd_keepsVault s 6
  next hbank =>
  have ha : o.addr < pwtVaultBase := by
    simp only [Bool.or_eq_true, decide_eq_true_eq, not_or] at hbank
    exact Nat.lt_of_not_le hbank.2
  exact .ite (pwtEnd_keepsVault s 11) (.ite (pwtSelfBank_keepsVault s)
    (pwtPulse_keepsVault s ⟨fun _ => ha, fun h => absurd (ho.symm.trans h) (by decide)⟩))

theorem doVaultProgram_keepsVault (s : State) : KeepsVault s.pewter (doVaultProgram s).pewter :=
  pwtStart_keepsVault fun o ho =>
    .ite (pwtEnd_keepsVault s 6) (.ite ((secLatch_keepsVault s 1 _).trans (pwtEnd_keepsVault _ 2))
      (.ite (pwtPulse_keepsVault s (eraseInItsArea_of_program (by omega) (by omega))) (pwtEnd_keepsVault s 6)))

theorem doVaultZeroise_keepsVault (s : State) : KeepsVault s.pewter (doVaultZeroise s).pewter :=
  pwtStart_keepsVault fun o ho =>
    .ite (pwtEnd_keepsVault s 6) (.ite (pwtEnd_keepsVault s 10)
      (pwtPulse_keepsVault s (eraseInItsArea_of_program (by omega) (by omega))))

theorem doOptProgram_keepsVault (s : State) : KeepsVault s.pewter (doOptProgram s).pewter := by
  refine pwtStart_keepsVault fun o ho => ?_
  have hpulse := pwtPulse_keepsVault s (eraseInItsArea_of_program (o := o) (by omega) (by omega))
  extract_lets off i
  exact .ite (pwtEnd_keepsVault s 6) (.ite (pwtEnd_keepsVault s 12) (.ite (.ite (pwtAgain_keepsVault s) hpulse)
    (.ite (.ite hpulse (.ite (pwtEnd_keepsVault s 6) (pwtEnd_keepsVault s 10)))
      (.ite hpulse (pwtEnd_keepsVault s 10)))))

/-- The pulses of an option erase begin in the option area alone. -/
theorem doOptErase_keepsVault (s : State) : KeepsVault s.pewter (doOptErase s).pewter := by
  refine pwtStart_keepsVault fun o ho => ?_
  split
  · exact pwtEnd_keepsVault s 6
  next harea =>
  have ha : pwtOptBase ≤ o.addr := by
    simp only [Bool.or_eq_true, decide_eq_true_eq, not_or] at harea
    exact Nat.le_of_not_lt harea.1.2
  exact .ite (pwtEnd_keepsVault s 10) (.ite (pwtEnd_keepsVault s 11)
    (pwtPulse_keepsVault s ⟨fun h => absurd (ho.symm.trans h) (by decide), fun _ => ha⟩))

/-! ### The end of an operation (R301, R304) -/

theorem programTargets_undisturbed (p : Pewter) (o : PwtOp) (torn : Nat → Bool) : Undisturbed p (p.programTargets o torn) :=
  have h : Undisturbed p _ := .foldl (List.range o.targets.length) fun q _ i _ =>
    .program q (o.targets.getD i 0) (if o.opcode == 4 then 0 else o.dataOf i) (torn i)
  ⟨h.held, h.words⟩

theorem doPwtOperationEnd_of_none (failed : List Nat) (h : s.pewter.op = none) : doPwtOperationEnd failed s = s := by
  unfold doPwtOperationEnd
  rw [h]

theorem doPwtOperationEnd_of_idle (failed : List Nat) (h : s.pewter.op = some o)
    (hidle : o.pulsing = false ∨ s.pewter.suspending = true) : doPwtOperationEnd failed s = s := by
  unfold doPwtOperationEnd
  rw [h]
  exact if_pos (by simpa using hidle)

section

variable (failed : List Nat) (h : s.pewter.op = some o) (hpulse : o.pulsing = true) (hrun : s.pewter.suspending = false)

include h hpulse hrun

theorem doPwtOperationEnd_of_sectorErase (ho : o.opcode = 2) :
    doPwtOperationEnd failed s = ({ s with pewter := s.pewter.eraseSector o.addr } : State).pwtEnd 1 := by
  unfold doPwtOperationEnd
  simp [h, hpulse, hrun, ho]

theorem doPwtOperationEnd_of_optErase (ho : o.opcode = 6) :
    doPwtOperationEnd failed s = ({ s with pewter := (s.pewter.eraseSector o.addr).recount } : State).pwtEnd 1 := by
  unfold doPwtOperationEnd
  simp [h, hpulse, hrun, ho]

/-- A program leaves its targets programmed, verified or not. -/
theorem doPwtOperationEnd_pewter_of_program (h2 : o.opcode ≠ 2) (h6 : o.opcode ≠ 6) :
    (doPwtOperationEnd failed s).pewter =
      (({ s with pewter := s.pewter.programTargets o fun i => failed.contains i } : State).pwtEnd
        (if failed = [] ∨ o.opcode = 4 then 1 else 9)).pewter := by
  unfold doPwtOperationEnd
  simp only [h, hpulse, hrun, beq_false_of_ne h2, beq_false_of_ne h6, Bool.not_true, Bool.or_self, if_false,
    Bool.false_eq_true, Bool.or_eq_true, List.isEmpty_iff, beq_iff_eq]
  by_cases hok : failed = [] ∨ o.opcode = 4
  · rw [if_pos hok, if_pos hok]
  · rw [if_neg hok, if_neg hok]
    split_ifs
    · exact pewter_of_frame (reportGeneral_frame _ _ _ _ _ _ _ _ _)
    · rfl

end

/-- An erase in its area takes no vault word away. -/
theorem programmed_eraseSector_of_vault {p : Pewter} {x : Nat} (hop : o.opcode = 2 ∨ o.opcode = 6) (ho : EraseInItsArea o)
    (hv : pwtVaultBase ≤ x) (hx : x < pwtOptBase) : (p.eraseSector o.addr).programmed x = p.programmed x :=
  programmed_eraseSector (hop.elim (fun h => .inr ((pwtSector_end_of_bank (ho.1 h)).trans hv))
    fun h => .inl (hx.trans_le (pwtOptBase_le_pwtSector (ho.2 h))))

/-- The end of a pulsing erase, with no word gone but those of its sector. -/
theorem eraseEnd_keepsVault {p : Pewter} (h : s.pewter.op = some o) (hpulse : o.pulsing = true)
    (hop : o.opcode = 2 ∨ o.opcode = 6) (hwords : p.words = (s.pewter.eraseSector o.addr).words)
    (hheld : heldOf p = heldOf s.pewter) : KeepsVault s.pewter (({ s with pewter := p } : State).pwtEnd 1).pewter where
  erases hs :=
    have hsusp : p.susp = s.pewter.susp := congrArg (fun v => v.2.1) hheld
    have hcmd : p.cmd = s.pewter.cmd := congrArg (fun v => v.2.2.1) hheld
    ⟨fun v hv => hs.1 v (.inr (hsusp ▸ hv.resolve_left nofun)), fun v hv => hs.2 v (hcmd ▸ hv)⟩
  words hs x hv hx hx' := by
    have hsector := programmed_eraseSector_of_vault (p := s.pewter) hop (hs.1 o (.inl h) hpulse) hv hx
    rw [Pewter.programmed, ← hwords] at hsector
    exact hsector.trans hx'

theorem doPwtOperationEnd_keepsVault (failed : List Nat) (s : State) :
    KeepsVault s.pewter (doPwtOperationEnd failed s).pewter := by
  cases h : s.pewter.op with
  | none =>
    rw [doPwtOperationEnd_of_none failed h]
    exact .refl _
  | some o =>
    by_cases hidle : o.pulsing = false ∨ s.pewter.suspending = true
    · rw [doPwtOperationEnd_of_idle failed h hidle]
      exact .refl _
    obtain ⟨hpulse, hrun⟩ : o.pulsing = true ∧ s.pewter.suspending = false := by simpa using hidle
    by_cases h2 : o.opcode = 2
    · rw [doPwtOperationEnd_of_sectorErase failed h hpulse hrun h2]
      exact eraseEnd_keepsVault h hpulse (.inl h2) rfl rfl
    by_cases h6 : o.opcode = 6
    · rw [doPwtOperationEnd_of_optErase failed h hpulse hrun h6]
      exact eraseEnd_keepsVault h hpulse (.inr h6) rfl rfl
    rw [doPwtOperationEnd_pewter_of_program failed h hpulse hrun h2 h6]
    exact (KeepsVault.of_undisturbed (programTargets_undisturbed s.pewter o fun i => failed.contains i)).trans
      (pwtEnd_keepsVault { s with pewter := _ } _)

/-! ### A brown-out (R303) -/

theorem cut_undisturbed (p : Pewter) (o : PwtOp) : Undisturbed p (p.cut o) := by
  unfold Pewter.cut
  split_ifs
  · exact .refl p
  · exact .of_words rfl rfl
  · exact programTargets_undisturbed ..

theorem programmed_cut_of_program {p : Pewter} (hpulse : o.pulsing = true) (h2 : o.opcode ≠ 2) (h6 : o.opcode ≠ 6)
    {a : Nat} (ha : a ∈ o.targets) : (p.cut o).programmed a = true := by
  simp only [Pewter.cut, hpulse, beq_false_of_ne h2, beq_false_of_ne h6, Bool.not_true, Bool.or_self, if_false,
    Bool.false_eq_true, programmed_programTargets]
  exact .inl ha

/-- The supply has fallen below the threshold. -/
def supplyLow (s : State) : State := { s with pewter := { s.pewter with brownout := true } }

/-- An operation cut short: it counts as aborted and ends with BROWNOUT. -/
def cutShort (s : State) (o : PwtOp) : State :=
  ({ s with pewter := { s.pewter.cut o with aborts := satAdd 8 (s.pewter.cut o).aborts 1 } } : State).pwtEnd 8

/-- The operation in progress is cut short, where one pulses. -/
def pulsesCut (s : State) : State :=
  match s.pewter.op with
  | some o => if o.pulsing then cutShort s o else s
  | none => s

/-- A suspended erase is cut short. -/
def suspendedCut (s : State) : State :=
  match s.pewter.susp with
  | some o => { cutShort s o with pewter := { (cutShort s o).pewter with susp := none } }
  | none => s

theorem doPewterBrownout_eq (s : State) : doPewterBrownout s = suspendedCut (pulsesCut (supplyLow s)) := rfl

theorem cutShort_keepsVault (s : State) (o : PwtOp) : KeepsVault s.pewter (cutShort s o).pewter :=
  have h := cut_undisturbed s.pewter o
  .of_ops (fun x hx => h.words x (.inr hx)) nofun (fun _ hv => .inr (h.susp_eq ▸ hv)) (.inr h.cmd_eq)

theorem pulsesCut_keepsVault (s : State) : KeepsVault s.pewter (pulsesCut s).pewter := by
  unfold pulsesCut
  split
  · exact .ite (cutShort_keepsVault s _) (.refl _)
  · exact .refl _

theorem suspendedCut_keepsVault (s : State) : KeepsVault s.pewter (suspendedCut s).pewter := by
  unfold suspendedCut
  split
  · exact (cutShort_keepsVault s _).trans (.of_ops (fun _ _ h => h) (fun _ => .inl) nofun (.inr rfl))
  · exact .refl _

theorem doPewterBrownout_keepsVault (s : State) : KeepsVault s.pewter (doPewterBrownout s).pewter :=
  have hlow : KeepsVault s.pewter (supplyLow s).pewter := .of_ops (fun _ _ h => h) (fun _ => .inl) (fun _ => .inr) (.inr rfl)
  (hlow.trans (pulsesCut_keepsVault _)).trans (suspendedCut_keepsVault _)

theorem cutShort_brownout (s : State) (o : PwtOp) : (cutShort s o).pewter.brownout = s.pewter.brownout :=
  (cut_undisturbed s.pewter o).brownout_eq

theorem doPewterBrownout_brownout (s : State) : (doPewterBrownout s).pewter.brownout = true := by
  have hcut : (pulsesCut (supplyLow s)).pewter.brownout = true := by
    unfold pulsesCut
    split
    · split_ifs
      · exact cutShort_brownout ..
      · rfl
    · rfl
  rw [doPewterBrownout_eq]
  unfold suspendedCut
  split
  · exact (cutShort_brownout ..).trans hcut
  · exact hcut

theorem doPewterBrownout_susp (s : State) : (doPewterBrownout s).pewter.susp = none := by
  rw [doPewterBrownout_eq]
  unfold suspendedCut
  split
  · rfl
  · assumption

/-- With no erase suspended, all that a brown-out does is to cut the pulses short. -/
theorem doPewterBrownout_of_pulsing (h : s.pewter.op = some o) (hpulse : o.pulsing = true) (hs : s.pewter.susp = none) :
    doPewterBrownout s = cutShort (supplyLow s) o := by
  have hcut : pulsesCut (supplyLow s) = cutShort (supplyLow s) o := by
    unfold pulsesCut
    rw [show (supplyLow s).pewter.op = some o from h]
    exact if_pos hpulse
  have hsusp : (cutShort (supplyLow s) o).pewter.susp = none := (cut_undisturbed (supplyLow s).pewter o).susp_eq.trans hs
  rw [doPewterBrownout_eq, hcut]
  unfold suspendedCut
  rw [hsusp]

/-! ### The event log (R305) -/

theorem doSecurityEventLogProgram_keepsVault (s : State) : KeepsVault s.pewter (doSecurityEventLogProgram s).pewter := by
  unfold doSecurityEventLogProgram
  split
  · exact .refl _
  extract_lets p old d q
  refine .ite (.refl _) (.ite (.of_undisturbed (.of_words rfl rfl)) ?_)
  have h := Undisturbed.program p (pwtVaultBase + 8 * (6688 + p.secLogged)) d false
  exact .of_undisturbed ⟨h.held, h.words⟩

/-! ### The Pewter rows -/

/-- A command answers a next state whose erases lie in their areas and whose vault words are programmed as before. -/
def KeepsVaultIn (s : State) (c : Instr) : Prop := ∃ t, exec c s = .next t ∧ KeepsVault s.pewter t.pewter

theorem pewterRows_keepVault (s : State) (key : Word16) (a : BitVec 26) (d : Word64) (bank : Option Bool) (code : Byte)
    (len : BitVec 6) (failed : List Nat) : ∀ c ∈ ([.pwtUnlockWrite key, .pwtAddrWrite a bank, .pwtDataWrite d bank,
      .pwtBadCmd code len, .pageProgram, .sectorErase, .vaultProgram, .vaultZeroise, .optProgram, .optErase, .eraseSuspend,
      .eraseSuspendComplete, .eraseResume, .pwtOperationEnd failed, .pwtSequenceTimeout, .pwtLockoutExpiry, .pewterBrownout,
      .securityEventLogProgram] : List Instr), KeepsVaultIn s c := by
  simp only [List.forall_mem_cons, List.not_mem_nil, false_implies, implies_true, and_true]
  exact ⟨⟨_, rfl, doPwtUnlock_keepsVault s key⟩, ⟨_, rfl, doPwtAddr_keepsVault s a bank⟩,
    ⟨_, rfl, doPwtData_keepsVault s d bank⟩, ⟨_, rfl, doPwtCmd_keepsVault s code.toNat len.toNat⟩,
    ⟨_, rfl, doPageProgram_keepsVault s⟩, ⟨_, rfl, doSectorErase_keepsVault s⟩, ⟨_, rfl, doVaultProgram_keepsVault s⟩,
    ⟨_, rfl, doVaultZeroise_keepsVault s⟩, ⟨_, rfl, doOptProgram_keepsVault s⟩, ⟨_, rfl, doOptErase_keepsVault s⟩,
    ⟨_, rfl, doEraseSuspend_keepsVault s⟩,
    ⟨_, rfl, (doEraseSuspendComplete_keepsVault s).trans (resumeReads_keepsVault _)⟩,
    ⟨_, rfl, doEraseResume_keepsVault s⟩,
    ⟨_, rfl, (doPwtOperationEnd_keepsVault failed s).trans (resumeReads_keepsVault _)⟩,
    ⟨_, rfl, .ite (pwtLockout_keepsVault s 5) (.refl _)⟩,
    ⟨_, rfl, .ite ((pwtSeq_keepsVault s .idle).trans (resumeReads_keepsVault _)) (.refl _)⟩,
    ⟨_, rfl, (doPewterBrownout_keepsVault s).trans (resumeReads_keepsVault _)⟩,
    ⟨_, rfl, doSecurityEventLogProgram_keepsVault s⟩⟩

end

/-- Settles O57: the end of an operation by what runs, a brown-out by what it cuts, and the vault words row by row. -/
theorem noPewterRowUnprogramsAVaultWord : Obligations.NoPewterRowUnprogramsAVaultWord := by
  intro s p sound
  refine ⟨fun failed => ⟨fun h => next_eq (congrArg _ (doPwtOperationEnd_of_none failed h)), fun o h =>
      ⟨fun hidle => next_eq (congrArg _ (doPwtOperationEnd_of_idle failed h hidle)), fun hpulse hrun =>
        ⟨fun ho => next_eq (congrArg _ (doPwtOperationEnd_of_sectorErase failed h hpulse hrun ho)), fun h2 h6 =>
          ⟨doPwtOperationEnd failed s, rfl, ?_⟩⟩⟩⟩,
    ⟨(doPewterBrownout s).resumeReads, rfl, ?_⟩, fun hs key a d bank code len failed c hc => ?_⟩
  -- the end of a program
  · rw [doPwtOperationEnd_pewter_of_program failed h hpulse hrun h2 h6]
    exact ⟨fun a ha => (programmed_programTargets ..).mpr (.inl ha), rfl, rfl, rfl⟩
  -- a brown-out, and the reads that go on after it
  · have hr := resumeReads_undisturbed (doPewterBrownout s)
    have hb := doPewterBrownout_brownout s
    refine ⟨hr.brownout_eq.trans hb, hr.susp_eq.trans (doPewterBrownout_susp s), fun o h hpulse hsusp => ?_⟩
    rw [doPewterBrownout_of_pulsing h hpulse hsusp] at hr hb ⊢
    have hc := cut_undisturbed (supplyLow s).pewter o
    exact ⟨hr.op_eq, hr.result_eq, hr.aborts_eq.trans (congrArg (satAdd 8 · 1) hc.aborts_eq),
      fun h2 h6 a ha => hr.words a (.inl hb) (programmed_cut_of_program hpulse h2 h6 ha)⟩
  -- a row of the table
  · obtain ⟨t, ht, hk⟩ := pewterRows_keepVault s key a d bank code len failed c hc
    exact ⟨t, ht, hk.erases hs, hk.words hs⟩

/-! ### Operations that start (R301 to R307, Table 12-3) -/

section

variable {s : State} {o : PwtOp} {n : Nat} {k : PwtOp → State}

theorem pwtStart_of_other (h : s.pewter.op = some o) (hn : o.opcode ≠ n) : s.pwtStart n k = s := by
  simp [State.pwtStart, h, hn]

theorem pwtStart_of_brownout (h : s.pewter.op = some o) (hidle : o.pulsing = false) (hn : o.opcode = n)
    (hb : s.pewter.brownout = true) : s.pwtStart n k = s.pwtEnd 8 := by
  simp [State.pwtStart, h, hidle, hn, hb]

theorem pwtStart_of_armed (h : s.pewter.op = some o) (hidle : o.pulsing = false) (hb : s.pewter.brownout = false)
    (hn : o.opcode = n) : s.pwtStart n k = k o := by
  simp [State.pwtStart, h, hidle, hn, hb]

theorem susp_any_iff (p : Pewter) (a : Nat) : (p.susp.any fun u => pwtSector u.addr == pwtSector a) = true ↔
    ∃ u, p.susp = some u ∧ pwtSector u.addr = pwtSector a := by
  simp [Option.any_eq_true]

theorem not_susp_any_iff (p : Pewter) (a : Nat) : (p.susp.any fun u => pwtSector u.addr == pwtSector a) ≠ true ↔
    ∀ u, p.susp = some u → pwtSector u.addr ≠ pwtSector a := by
  rw [Ne, susp_any_iff]
  push Not
  rfl

/-- A program of whole words in one page of a bank. -/
abbrev InOnePage (o : PwtOp) : Prop :=
  2 ≤ o.len ∧ o.len ≤ 32 ∧ o.len % 2 = 0 ∧ o.addr % 16 = 0 ∧ o.addr < pwtVaultBase ∧ o.addr % 256 + 8 * o.len ≤ 256

/-- One word of the vault. -/
abbrev IsVaultWord (o : PwtOp) : Prop := o.len = 1 ∧ pwtVaultBase ≤ o.addr ∧ o.addr < pwtOptBase ∧ o.addr % 8 = 0

/-- The words of the vault that a program may name: the next of an ordered region, and any of the key regions (R304). -/
abbrev MayProgram (p : Pewter) (w : Nat) : Prop :=
  w = p.leafBatches ∧ w < 4096 ∨ w = 4096 + p.rollback ∧ w < 4608 ∨ 4608 ≤ w ∧ w < 6688

/-- A word of the key regions (R306). -/
abbrev IsKeyWord (o : PwtOp) : Prop :=
  o.len = 0 ∧ pwtVaultBase ≤ o.addr ∧ o.addr % 8 = 0 ∧ 4608 ≤ vaultWord o.addr ∧ vaultWord o.addr < 6688

/-- One word of the option area. -/
abbrev IsOptWord (o : PwtOp) : Prop := o.len = 2 ∧ pwtOptBase ≤ o.addr ∧ o.addr < pwtOptEnd ∧ o.addr % 16 = 0

/-- Two chains that test a condition and its negation, and go on alike. -/
theorem ite_eq_ite_of_not {b c : Prop} [Decidable b] [Decidable c] {x y y' : State} (hbc : b ↔ ¬c) (hy : c → y = y') :
    (if b then x else y) = if c then y' else x := by
  by_cases hc : c
  · rw [if_neg fun hb => hbc.mp hb hc, if_pos hc, hy hc]
  · rw [if_pos (hbc.mpr hc), if_neg hc]

variable (h : s.pewter.op = some o) (hidle : o.pulsing = false) (hb : s.pewter.brownout = false)

include h hidle hb

theorem doPageProgram_of_armed (ho : o.opcode = 1) : doPageProgram s =
    if InOnePage o then
      if s.pewter.susp.any fun u => pwtSector u.addr == pwtSector o.addr then s.pwtEnd 12
      else if o.fetchBank = some (pwtBank o.addr) then s.pwtSelfBank
      else if o.targets.any s.pewter.programmed then s.pwtAgain
      else s.pwtPulse o
    else s.pwtEnd 6 := by
  refine (pwtStart_of_armed h hidle hb ho).trans (ite_eq_ite_of_not ?_ fun _ => by simp only [beq_iff_eq])
  simp only [Bool.or_eq_true, decide_eq_true_eq, beq_iff_eq, bne_iff_ne]
  omega

theorem doSectorErase_of_armed (ho : o.opcode = 2) : doSectorErase s =
    if o.len = 0 ∧ o.addr < pwtVaultBase then
      if s.pewter.susp = none then if o.fetchBank = some (pwtBank o.addr) then s.pwtSelfBank else s.pwtPulse o
      else s.pwtEnd 11
    else s.pwtEnd 6 := by
  refine (pwtStart_of_armed h hidle hb ho).trans (ite_eq_ite_of_not ?_ fun _ => ite_eq_ite_of_not
    Option.isSome_iff_ne_none fun _ => by simp only [beq_iff_eq])
  simp only [Bool.or_eq_true, decide_eq_true_eq, bne_iff_ne]
  omega

theorem doVaultProgram_of_armed (ho : o.opcode = 3) : doVaultProgram s =
    if IsVaultWord o then
      if s.pewter.programmed o.addr then (s.secLatch 1 (vaultWord o.addr)).pwtEnd 2
      else if MayProgram s.pewter (vaultWord o.addr) then s.pwtPulse o
      else s.pwtEnd 6
    else s.pwtEnd 6 := by
  refine (pwtStart_of_armed h hidle hb ho).trans (ite_eq_ite_of_not ?_ fun _ => ?_)
  · simp only [Bool.or_eq_true, decide_eq_true_eq, bne_iff_ne]
    omega
  · refine if_congr Iff.rfl rfl (if_congr ?_ rfl rfl)
    simp only [Bool.or_eq_true, Bool.and_eq_true, decide_eq_true_eq, beq_iff_eq]
    omega

theorem doVaultZeroise_of_armed (ho : o.opcode = 4) : doVaultZeroise s =
    if IsKeyWord o then if s.pewter.meltPermit then s.pwtPulse o else s.pwtEnd 10 else s.pwtEnd 6 := by
  refine (pwtStart_of_armed h hidle hb ho).trans (ite_eq_ite_of_not ?_ fun _ => ?_)
  · simp only [Bool.or_eq_true, decide_eq_true_eq, bne_iff_ne]
    omega
  · cases s.pewter.meltPermit <;> rfl

theorem doOptProgram_of_armed (ho : o.opcode = 5) : doOptProgram s =
    if IsOptWord o then
      if s.pewter.susp.any fun u => pwtSector u.addr == pwtSector o.addr then s.pwtEnd 12
      else if s.pewter.lcState = 0 then if s.pewter.programmed o.addr then s.pwtAgain else s.pwtPulse o
      else if 0x10 ≤ o.addr - pwtOptBase ∧ o.addr - pwtOptBase < 0x50 then
        if (o.addr - pwtOptBase - 0x10) / 16 = s.pewter.lcState then s.pwtPulse o
        else if s.pewter.lcState < (o.addr - pwtOptBase - 0x10) / 16 then s.pwtEnd 6 else s.pwtEnd 10
      else if s.pewter.freeIngotSlot (o.addr - pwtOptBase) then s.pwtPulse o
      else s.pwtEnd 10
    else s.pwtEnd 6 := by
  refine (pwtStart_of_armed h hidle hb ho).trans (ite_eq_ite_of_not ?_ fun _ => ?_)
  · simp only [Bool.or_eq_true, decide_eq_true_eq, bne_iff_ne]
    omega
  · simp only [beq_iff_eq, Bool.and_eq_true, decide_eq_true_eq, gt_iff_lt]

theorem doOptErase_of_armed (ho : o.opcode = 6) : doOptErase s =
    if o.len = 0 ∧ pwtOptBase ≤ o.addr ∧ o.addr < pwtOptEnd then
      if s.pewter.lcState = 0 then if s.pewter.susp = none then s.pwtPulse o else s.pwtEnd 11 else s.pwtEnd 10
    else s.pwtEnd 6 := by
  refine (pwtStart_of_armed h hidle hb ho).trans (ite_eq_ite_of_not ?_ fun _ => ite_eq_ite_of_not bne_iff_ne
    fun _ => ite_eq_ite_of_not Option.isSome_iff_ne_none fun _ => rfl)
  simp only [Bool.or_eq_true, decide_eq_true_eq, bne_iff_ne]
  omega

end

/-- Settles O56: without its operation, or in a brown-out, every row alike; then each row by its own conditions. -/
theorem pewterOperationsPulseOrAreRefused : Obligations.PewterOperationsPulseOrAreRefused := by
  intro s o h hidle p rows w off self page vault opt
  refine ⟨?_, fun hb => ⟨fun ho => ?_, fun ho => ?_, fun ho => ?_, fun ho => ?_, fun ho => ?_, fun ho => ?_⟩⟩
  · simp only [rows, List.forall_mem_cons, List.not_mem_nil, false_implies, implies_true, and_true]
    have hrow (n : Nat) (k : PwtOp → State) : (o.opcode ≠ n → (.next (s.pwtStart n k) : Out) = .next s) ∧
        (o.opcode = n → p.brownout = true → (.next (s.pwtStart n k) : Out) = .next (s.pwtEnd 8)) :=
      ⟨fun hn => next_eq (pwtStart_of_other h hn), fun hn hb => next_eq (pwtStart_of_brownout h hidle hn hb)⟩
    exact ⟨hrow 1 _, hrow 2 _, hrow 3 _, hrow 4 _, hrow 5 _, hrow 6 _⟩
  -- PAGE_PROGRAM
  · have heq := doPageProgram_of_armed h hidle hb ho
    refine ⟨fun hp => next_eq (heq.trans (if_neg hp)),
      fun hp hs => next_eq ((heq.trans (if_pos hp)).trans (if_pos ((susp_any_iff ..).mpr hs))), fun hp hs => ?_⟩
    replace heq := (heq.trans (if_pos hp)).trans (if_neg ((not_susp_any_iff ..).mpr hs))
    refine ⟨fun hself => next_eq (heq.trans (if_pos hself)), fun hself ht => ?_, fun hself ht => ?_⟩
    · exact next_eq ((heq.trans (if_neg hself)).trans (if_pos (List.any_eq_true.mpr ht)))
    · exact next_eq ((heq.trans (if_neg hself)).trans (if_neg fun hany => by
        obtain ⟨a, ha, hpa⟩ := List.any_eq_true.mp hany
        exact absurd (hpa.symm.trans (ht a ha)) (by decide)))
  -- SECTOR_ERASE
  · have heq := doSectorErase_of_armed h hidle hb ho
    refine ⟨fun hr => next_eq (heq.trans (if_neg (by omega))), fun hl ha => ?_⟩
    replace heq := heq.trans (if_pos ⟨hl, ha⟩)
    exact ⟨fun hs => next_eq (heq.trans (if_neg hs)),
      fun hs hself => next_eq ((heq.trans (if_pos hs)).trans (if_pos hself)),
      fun hs hself => next_eq ((heq.trans (if_pos hs)).trans (if_neg hself))⟩
  -- VAULT_PROGRAM
  · have heq := doVaultProgram_of_armed h hidle hb ho
    exact ⟨fun hv => next_eq (heq.trans (if_neg hv)),
      fun hv hp => next_eq ((heq.trans (if_pos hv)).trans (if_pos hp)),
      fun hv hp => next_eq ((heq.trans (if_pos hv)).trans (if_neg (Bool.eq_false_iff.mp hp)))⟩
  -- VAULT_ZEROISE
  · have heq := doVaultZeroise_of_armed h hidle hb ho
    exact ⟨fun hk => next_eq (heq.trans (if_neg hk)), fun hk => next_eq (heq.trans (if_pos hk))⟩
  -- OPT_PROGRAM
  · have heq := doOptProgram_of_armed h hidle hb ho
    refine ⟨fun hp => next_eq (heq.trans (if_neg hp)),
      fun hp hs => next_eq ((heq.trans (if_pos hp)).trans (if_pos ((susp_any_iff ..).mpr hs))), fun hp hs => ?_⟩
    replace heq := (heq.trans (if_pos hp)).trans (if_neg ((not_susp_any_iff ..).mpr hs))
    refine ⟨fun hraw => next_eq (heq.trans (if_pos hraw)), fun hraw hlo hhi => ?_, fun hraw hout => ?_⟩
    · exact next_eq ((heq.trans (if_neg hraw)).trans (if_pos ⟨hlo, hhi⟩))
    · exact next_eq ((heq.trans (if_neg hraw)).trans (if_neg (by omega)))
  -- OPT_ERASE
  · have heq := doOptErase_of_armed h hidle hb ho
    exact ⟨fun ha => next_eq (heq.trans (if_neg ha)), fun ha hlc => next_eq ((heq.trans (if_pos ha)).trans (if_neg hlc)),
      fun ha hlc => next_eq ((heq.trans (if_pos ha)).trans (if_pos hlc))⟩

/-! ### The command sequence (R298 to R300) -/

section

variable {s : State} {k : State → State}

theorem pwtWrite_of_lockout (h : s.pewter.seq = .lockout) : s.pwtWrite k = s := if_pos (beq_iff_eq.mpr h)

theorem pwtWrite_of_gap (h : s.pewter.seq ≠ .lockout) (hgap : s.pwtGap = true) : s.pwtWrite k = s.pwtLockout 5 := by
  simp [State.pwtWrite, h, hgap]

theorem pwtWrite_of_busy (h : s.pewter.seq ≠ .lockout) (hgap : s.pwtGap = false) (hop : s.pewter.op ≠ none) :
    s.pwtWrite k = s.pwtRefuse 11 := by
  simp [State.pwtWrite, h, hgap, Option.isSome_iff_ne_none, hop]

theorem pwtWrite_of_free (h : s.pewter.seq ≠ .lockout) (hgap : s.pwtGap = false) (hop : s.pewter.op = none) :
    s.pwtWrite k = k (atWrite s) := by
  simp [State.pwtWrite, h, hgap, hop, atWrite]

theorem doPwtCmd_of_lockout (opcode len : Nat) (h : s.pewter.seq = .lockout) : doPwtCmd opcode len s = s := by
  unfold doPwtCmd
  split
  · exact if_pos (beq_iff_eq.mpr h)
  split
  · exact if_pos (beq_iff_eq.mpr h)
  · exact pwtWrite_of_lockout h

/-- What a write to PWT_CMD that is no suspend and no resume does where the sequencer takes it. -/
def writtenCmd (opcode len : Nat) (s : State) : State :=
  if opcode == 0 || opcode > 6 then s.pwtRefuse 7
  else if s.pewter.seq == .unlocked then
    { s with pewter := { s.pewter with
        seq := .cmdSet
        cmd := some { opcode := opcode, len := len, addr := 0, data := [], fetchBank := none, pulsing := false } } }
  else s.pwtLockout 4

theorem doPwtCmd_of_plain {code : Byte} (len : Nat) (h : code ≠ 8 ∧ code ≠ 9) (s : State) :
    doPwtCmd code.toNat len s = s.pwtWrite (writtenCmd code.toNat len) :=
  (if_neg fun h8 => h.1 (BitVec.eq_of_toNat_eq (beq_iff_eq.mp h8))).trans
    (if_neg fun h9 => h.2 (BitVec.eq_of_toNat_eq (beq_iff_eq.mp h9)))

/-! #### The writes that the sequencer takes -/

section

variable (hgap : s.pwtGap = false) (hop : s.pewter.op = none)

include hgap hop

theorem doPwtUnlock_of_idle (key : Word16) (h : s.pewter.seq = .idle) :
    doPwtUnlock key s = if key = 0x5A17 then (atWrite s).pwtSeq .key1 else (atWrite s).pwtLockout 4 := by
  refine (pwtWrite_of_free (by simp [h]) hgap hop).trans ?_
  simp only [show (atWrite s).pewter.seq = .idle from h, beq_iff_eq]

theorem doPwtUnlock_of_key1 (key : Word16) (h : s.pewter.seq = .key1) :
    doPwtUnlock key s = if key = 0xC3E8 then (atWrite s).pwtSeq .unlocked else (atWrite s).pwtLockout 4 := by
  refine (pwtWrite_of_free (by simp [h]) hgap hop).trans ?_
  simp only [show (atWrite s).pewter.seq = .key1 from h, beq_iff_eq]

theorem doPwtCmd_of_unlocked {code : Byte} (len : Nat) (h : s.pewter.seq = .unlocked) (hlo : 1 ≤ code.toNat)
    (hhi : code.toNat ≤ 6) : doPwtCmd code.toNat len s = { s with pewter := { s.pewter with
      lastWriteUs := s.clockUs, seq := .cmdSet
      cmd := some { opcode := code.toNat, len := len, addr := 0, data := [], fetchBank := none, pulsing := false } } } := by
  have hplain : code ≠ 8 ∧ code ≠ 9 := by
    constructor <;> rintro rfl <;> exact absurd hhi (by decide)
  refine (doPwtCmd_of_plain len hplain s).trans ((pwtWrite_of_free (by simp [h]) hgap hop).trans ?_)
  refine (if_neg ?_).trans (if_pos (beq_iff_eq.mpr h))
  simp only [Bool.or_eq_true, beq_iff_eq, decide_eq_true_eq]
  omega

theorem doPwtCmd_of_reserved {code : Byte} (len : Nat) (h : s.pewter.seq ≠ .lockout) (hplain : code ≠ 8 ∧ code ≠ 9)
    (hcode : code = 0 ∨ 6 < code.toNat) : doPwtCmd code.toNat len s = (atWrite s).pwtRefuse 7 := by
  refine (doPwtCmd_of_plain len hplain s).trans ((pwtWrite_of_free h hgap hop).trans (if_pos ?_))
  rcases hcode with rfl | hcode
  · rfl
  · simp [hcode]

theorem doPwtAddr_of_cmdSet (a : BitVec 26) (bank : Option Bool) {c : PwtOp} (h : s.pewter.seq = .cmdSet)
    (hc : s.pewter.cmd = some c) : doPwtAddr a bank s =
      if pwtDataWrites c.opcode c.len = 0 then
        { s with pewter := { s.pewter with
            lastWriteUs := s.clockUs, addr := a.toNat, op := some { c with addr := a.toNat, fetchBank := bank }, cmd := none
            seq := .busy } }
      else
        { s with pewter := { s.pewter with
            lastWriteUs := s.clockUs, addr := a.toNat, cmd := some { c with addr := a.toNat, fetchBank := bank }
            seq := .data } } := by
  refine (pwtWrite_of_free (by simp [h]) hgap hop).trans ?_
  simp only [show (atWrite s).pewter.seq = .cmdSet from h, show (atWrite s).pewter.cmd = some c from hc, beq_iff_eq]
  rfl

theorem doPwtData_of_data (d : Word64) (bank : Option Bool) {c : PwtOp} (h : s.pewter.seq = .data)
    (hc : s.pewter.cmd = some c) : doPwtData d bank s =
      if pwtDataWrites c.opcode c.len ≤ c.data.length + 1 then
        { s with pewter := { s.pewter with
            lastWriteUs := s.clockUs, op := some { c with data := c.data ++ [d], fetchBank := bank }, cmd := none
            seq := .busy } }
      else
        { s with pewter := { s.pewter with
            lastWriteUs := s.clockUs, cmd := some { c with data := c.data ++ [d], fetchBank := bank } } } := by
  refine (pwtWrite_of_free (by simp [h]) hgap hop).trans ?_
  simp only [show (atWrite s).pewter.seq = .data from h, show (atWrite s).pewter.cmd = some c from hc, ge_iff_le,
    List.length_append, List.length_singleton, h]
  rfl

end

/-! #### Lockouts, suspension and what waits -/

theorem pwtLockout_seq (s : State) (n : Nat) : (s.pwtLockout n).pewter.seq = .lockout := by
  rw [pwtLockout_pewter]
  split_ifs <;> rfl

theorem pwtLockout_result (s : State) (n : Nat) : (s.pwtLockout n).pewter.result = n := by
  rw [pwtLockout_pewter]
  split_ifs <;> rfl

theorem pwtLockout_sixteenth (n : Nat) (h : s.pewter.lockouts = 15) :
    (s.pwtLockout n).pewter = withEvent (lockedOut s n) 2 0 := by
  rw [pwtLockout_pewter, h]
  rfl

theorem lockoutExpires_iff : (s.pewter.seq == .lockout && decide (s.pewter.lockouts < 16) &&
    decide (s.pewter.lockoutAt + 100000 ≤ s.clockUs)) = true ↔
      s.pewter.seq = .lockout ∧ s.pewter.lockouts < 16 ∧ s.pewter.lockoutAt + 100000 ≤ s.clockUs := by
  simp only [Bool.and_eq_true, beq_iff_eq, decide_eq_true_eq, and_assoc]

section

variable {o : PwtOp} (hlock : s.pewter.seq ≠ .lockout)

include hlock

theorem doEraseSuspend_of_op (h : s.pewter.op = some o) : doEraseSuspend s =
    if o.pulsing = true ∧ (o.opcode = 2 ∨ o.opcode = 6) then { s with pewter := { s.pewter with suspending := true } }
    else s.pwtRefuse 7 := by
  refine (if_neg (by simp [hlock])).trans ?_
  simp only [h, Bool.and_eq_true, Bool.or_eq_true, beq_iff_eq]

theorem doEraseSuspend_of_none (h : s.pewter.op = none) : doEraseSuspend s = s.pwtRefuse 7 := by
  refine (if_neg (by simp [hlock])).trans ?_
  simp only [h]

theorem doEraseResume_of_op (h : s.pewter.op ≠ none) : doEraseResume s = s.pwtRefuse 11 :=
  (if_neg (by simp [hlock])).trans (if_pos (Option.isSome_iff_ne_none.mpr h))

theorem doEraseResume_of_none (h : s.pewter.op = none) (hs : s.pewter.susp = none) : doEraseResume s = s.pwtRefuse 7 := by
  refine (if_neg (by simp [hlock])).trans ((if_neg (by simp [h])).trans ?_)
  simp only [hs]

theorem doEraseResume_of_susp (h : s.pewter.op = none) (hs : s.pewter.susp = some o) : doEraseResume s =
    { s with pewter := { s.pewter with op := some o, susp := none, seq := .busy, cmd := none } } := by
  refine (if_neg (by simp [hlock])).trans ((if_neg (by simp [h])).trans ?_)
  simp only [hs]

end

theorem resumeReads_of_none_waiting (h : s.pewter.waiting = []) : s.resumeReads = s := by
  rw [State.resumeReads, h, List.foldl_nil, ← h]

end

/-- Settles O55: a write by the state of the sequencer that meets it; then lockouts, suspension and the reads that wait. -/
theorem pewterSequencesUnlockTheArray : Obligations.PewterSequencesUnlockTheArray := by
  intro s key a d bank code len p w plain
  refine ⟨fun h => ?_, fun h hgap => ?_, fun hgap => next_eq (if_neg (by simp [hgap])), fun h hgap hop => ?_,
    fun hgap hop => ⟨fun h => ?_, fun h => ?_, fun h hlo hhi => ?_, fun h hplain hcode => ?_, fun c h hc => ?_,
      fun c h hc => ?_⟩,
    fun n => ⟨pwtLockout_seq s n, pwtLockout_result s n, fun h hev => ?_⟩, fun h hn ht => ?_, fun h => ?_, rfl, rfl,
    fun hlock => ⟨fun o h hpulse ho => ?_, fun o h hno => ?_, fun h => ?_, fun h => next_eq (doEraseResume_of_op hlock h)⟩,
    fun h => ?_, fun h => ?_, resumeReads_of_none_waiting⟩
  -- in a lockout
  · exact ⟨next_eq (pwtWrite_of_lockout h), next_eq (pwtWrite_of_lockout h), next_eq (pwtWrite_of_lockout h),
      next_eq (doPwtCmd_of_lockout _ _ h)⟩
  -- after a gap
  · exact ⟨next_eq (pwtWrite_of_gap h hgap), next_eq (pwtWrite_of_gap h hgap), next_eq (pwtWrite_of_gap h hgap),
      next_eq (if_pos hgap), fun hplain => next_eq ((doPwtCmd_of_plain _ hplain s).trans (pwtWrite_of_gap h hgap))⟩
  -- while an operation runs
  · exact ⟨next_eq (pwtWrite_of_busy h hgap hop), next_eq (pwtWrite_of_busy h hgap hop),
      next_eq (pwtWrite_of_busy h hgap hop),
      fun hplain => next_eq ((doPwtCmd_of_plain _ hplain s).trans (pwtWrite_of_busy h hgap hop))⟩
  -- the first key
  · refine ⟨next_eq ((doPwtUnlock_of_idle hgap hop _ h).trans (if_pos rfl)), fun hkey => ⟨(atWrite s).pwtLockout 4,
      next_eq ((doPwtUnlock_of_idle hgap hop _ h).trans (if_neg hkey)), pwtLockout_seq .., pwtLockout_result ..⟩⟩
  -- the second key
  · exact next_eq ((doPwtUnlock_of_key1 hgap hop _ h).trans (if_pos rfl))
  -- the command
  · exact next_eq (doPwtCmd_of_unlocked hgap hop _ h hlo hhi)
  · exact next_eq (doPwtCmd_of_reserved hgap hop _ h hplain hcode)
  -- the address
  · have heq := doPwtAddr_of_cmdSet hgap hop a bank h hc
    exact ⟨fun hn => next_eq (heq.trans (if_pos hn)), fun hn => next_eq (heq.trans (if_neg hn))⟩
  -- data
  · have heq := doPwtData_of_data hgap hop d bank h hc
    exact ⟨fun hn => next_eq (heq.trans (if_neg (Nat.not_le.mpr hn))), fun hn => next_eq (heq.trans (if_pos hn))⟩
  -- the sixteenth lockout
  · rw [pwtLockout_sixteenth n h]
    exact ⟨rfl, if_neg (Bool.eq_false_iff.mp hev)⟩
  -- a lockout ends, or goes on
  · exact next_eq (if_pos (lockoutExpires_iff.mpr ⟨h, hn, ht⟩))
  · refine next_eq (if_neg fun hx => ?_)
    obtain ⟨hseq, hn, ht⟩ := lockoutExpires_iff.mp hx
    exact h.elim (· hseq) fun h => h.elim (Nat.not_le.mpr hn) (Nat.not_lt.mpr ht)
  -- ERASE_SUSPEND
  · exact next_eq ((doEraseSuspend_of_op hlock h).trans (if_pos ⟨hpulse, ho⟩))
  · exact next_eq ((doEraseSuspend_of_op hlock h).trans (if_neg hno))
  -- ERASE_RESUME
  · exact ⟨next_eq (doEraseSuspend_of_none hlock h), fun hs => next_eq (doEraseResume_of_none hlock h hs),
      fun o hs => next_eq (doEraseResume_of_susp hlock h hs)⟩
  -- the erase stops
  · exact next_eq (congrArg State.resumeReads (if_pos h))
  · exact next_eq (congrArg State.resumeReads (if_neg (Bool.eq_false_iff.mp h)))

end Sys2Proof.Proofs

/-! PROOFS. A step (00_scope.md), and the record rings (R328 to R332): the acknowledgment of slots, reports that wait, and the writer
of a ring. -/

namespace Sys2Proof.Proofs

-- One declaration after another, as in the laws: each waiting thread counts against the check's memory.
set_option Elab.async false

open Sys2Proof Sys2Proof.Machine Sys2Proof.Laws

/-! ### A step -/

/-- Settles O1: the definition of a step, by what waits in the queue. -/
theorem aStepRunsTheFrontCommand : Obligations.AStepRunsTheFrontCommand := by
  refine ⟨fun s c rest h => ?_, fun s h => ?_⟩
  · simp only [step, h]
  · simp only [step, h]

/-! ### Acknowledgment (R332) -/

theorem doRingAck_of_inside {s : State} {r : Fin 37} {v : Word32}
    (h : (v - s.errors.rings[r].ack).toNat ≤ (s.errors.rings[r].head - s.errors.rings[r].ack).toNat) :
    doRingAck r v s = s.modRing r fun g => { g with ack := v, recs := g.recs.drop (v - g.ack).toNat } := if_pos h

theorem doRingAck_of_outside {s : State} {r : Fin 37} {v : Word32}
    (h : (s.errors.rings[r].head - s.errors.rings[r].ack).toNat < (v - s.errors.rings[r].ack).toNat) :
    doRingAck r v s = { s with errors := { s.errors with cfgBusy := true } } := if_neg (Nat.not_le.mpr h)

/-- Settles O19: a value inside the ring or one outside it. -/
theorem acknowledgementsMoveWithinTheRing : Obligations.AcknowledgementsMoveWithinTheRing :=
  fun _ _ _ => ⟨fun h => next_eq (doRingAck_of_inside h), fun h => next_eq (doRingAck_of_outside h)⟩

/-! ### A state that differs in some parts -/

/-- Two states that hold the same in every part are one. -/
theorem eq_of_same {s t : State} (h : ∀ p, Same s t p) : t = s := by
  cases s
  cases t
  simp only [State.mk.injEq]
  exact ⟨h .power, h .ctrls, h .mold, h .grid, h .sched, h .engines, h .mem, h .cache, h .ingots, h .search, h .benches,
    h .flash, h .links, h .pewter, h .errors, h .burnish, h .sec, h .fw, h .bmc, h .dev, h .out, h .clockUs, h .free,
    h .pending⟩

/-- The state s with the parts named taken from t. -/
def patched (w : List Laws.Part) (t s : State) : State where
  power := if Laws.Part.power ∈ w then t.power else s.power
  ctrls := if Laws.Part.ctrls ∈ w then t.ctrls else s.ctrls
  mold := if Laws.Part.mold ∈ w then t.mold else s.mold
  grid := if Laws.Part.grid ∈ w then t.grid else s.grid
  sched := if Laws.Part.sched ∈ w then t.sched else s.sched
  engines := if Laws.Part.engines ∈ w then t.engines else s.engines
  mem := if Laws.Part.mem ∈ w then t.mem else s.mem
  cache := if Laws.Part.cache ∈ w then t.cache else s.cache
  ingots := if Laws.Part.ingots ∈ w then t.ingots else s.ingots
  search := if Laws.Part.search ∈ w then t.search else s.search
  benches := if Laws.Part.benches ∈ w then t.benches else s.benches
  flash := if Laws.Part.flash ∈ w then t.flash else s.flash
  links := if Laws.Part.links ∈ w then t.links else s.links
  pewter := if Laws.Part.pewter ∈ w then t.pewter else s.pewter
  errors := if Laws.Part.errors ∈ w then t.errors else s.errors
  burnish := if Laws.Part.burnish ∈ w then t.burnish else s.burnish
  sec := if Laws.Part.sec ∈ w then t.sec else s.sec
  fw := if Laws.Part.fw ∈ w then t.fw else s.fw
  bmc := if Laws.Part.bmc ∈ w then t.bmc else s.bmc
  dev := if Laws.Part.dev ∈ w then t.dev else s.dev
  out := if Laws.Part.out ∈ w then t.out else s.out
  clockUs := if Laws.Part.clockUs ∈ w then t.clockUs else s.clockUs
  free := if Laws.Part.free ∈ w then t.free else s.free
  pending := if Laws.Part.pending ∈ w then t.pending else s.pending

/-- A state in the frame of another is the other with the parts named changed. -/
theorem eq_of_frame {w : List Laws.Part} {s t : State} (h : Frame w s t) : t = patched w t s :=
  eq_of_same fun p => by
    by_cases hp : p ∈ w
    · cases p <;> exact (if_pos hp).symm
    · have hs := h p hp
      cases p <;> exact Eq.trans hs (if_neg hp).symm

/-! ### Reports that wait (R329, R331) -/

section

variable {s : State} {src : Source} {r : Report}

theorem execErrorReport_of_other (h20 : r.kind ≠ 0x20) (h21 : r.kind ≠ 0x21) :
    execErrorReport src r s = .next (s.report src r) := by
  have hm : s.memoryError r = s :=
    if_neg fun h => ((Bool.or_eq_true _ _).mp h).elim (h20 ∘ beq_iff_eq.mp) (h21 ∘ beq_iff_eq.mp)
  have hp : s.poisonedRead r = s := if_neg fun h => h21 (beq_iff_eq.mp ((Bool.and_eq_true _ _).mp h).1)
  rw [execErrorReport, hm, hp]

theorem report_of_room (h : (s.errors.queue.filter fun p => p.1 == src).length < 4) : s.report src r =
    { s with errors := { s.errors with queue := s.errors.queue ++ [(src, s.clockUs, r)] } } := if_neg (Nat.not_le.mpr h)

theorem report_of_full (h : 4 ≤ (s.errors.queue.filter fun p => p.1 == src).length) :
    s.report src r = s.ringLost (ringOf src) := if_pos h

/-- A report is lost: the count of its ring, and the event where it is enabled. -/
theorem ringLost_eq (s : State) (r : Fin 37) : s.ringLost r =
    let t := s.modRing r fun g => { g with lostCount := min (g.lostCount + 1) 65535, lost := true }
    if s.errors.irqEn then t.signal else t := rfl

theorem ringLost_errors (s : State) (r : Fin 37) : (s.ringLost r).errors = (s.modRing r fun g =>
    { g with lostCount := min (g.lostCount + 1) 65535, lost := true }).errors := by
  rw [ringLost_eq]
  split
  · exact errors_of_frame (signal_frame _)
  · rfl

theorem ringLost_of_quiet {r : Fin 37} (h : s.errors.irqEn = false) : s.ringLost r = s.modRing r fun g =>
    { g with lostCount := min (g.lostCount + 1) 65535, lost := true } :=
  (ringLost_eq s r).trans (if_neg (Bool.eq_false_iff.mp h))

end

/-! ### The writer of a ring (R328 to R331) -/

section

variable {s : State} {r : Fin 37} {p : Source × Nat × Report}

/-- The reports that wait for a ring. -/
def waitingFor (s : State) (r : Fin 37) : List (Source × Nat × Report) := s.errors.queue.filter fun p => ringOf p.1 == r

theorem mem_waitingFor : p ∈ waitingFor s r ↔ p ∈ s.errors.queue ∧ ringOf p.1 = r := by
  rw [waitingFor, List.mem_filter, beq_iff_eq]

theorem find_failed_waitingFor (s : State) (r : Fin 37) : (waitingFor s r).find? (fun p => p.2.2.sev == .failed) =
    s.errors.queue.find? fun p => ringOf p.1 == r && p.2.2.sev == .failed := by
  simp only [waitingFor, List.find?_filter, Bool.decide_and, Bool.decide_eq_true]

theorem nextReport_of_failed {x : Source × Nat × Report}
    (h : (waitingFor s r).find? (fun p => p.2.2.sev == .failed) = some x) : s.nextReport r = some x := by
  rw [waitingFor] at h
  simp only [State.nextReport, h]

/-- The report taken is one of those that wait. -/
theorem nextReport_mem (h : s.nextReport r = some p) : p ∈ waitingFor s r := by
  cases hf : (waitingFor s r).find? (fun p => p.2.2.sev == .failed) with
  | some x =>
    rw [nextReport_of_failed hf, Option.some.injEq] at h
    exact h ▸ List.mem_of_find?_eq_some hf
  | none =>
    rw [waitingFor] at hf
    simp only [State.nextReport, hf] at h
    split at h
    · cases h
    · have hc := List.mem_of_find?_eq_some h
      split at hc
      · split at hc
        · exact hc
        · exact List.mem_of_mem_filter hc
      · exact hc

theorem nextReport_of_nothing (h : waitingFor s r = []) : s.nextReport r = none :=
  Option.eq_none_iff_forall_ne_some.mpr fun p hp => by
    have hm := nextReport_mem hp
    rw [h] at hm
    cases hm

theorem doRecordWrite_of_none (h : s.nextReport r = none) : doRecordWrite r s = s := by
  simp only [doRecordWrite, h]

/-- The state once the writer has taken a report. -/
def reportTaken (s : State) (r : Fin 37) (p : Source × Nat × Report) : State :=
  { s with errors := { s.errors with
      queue := removeFirst s.errors.queue p, served := assocSet s.errors.served r.val p.1 } }

theorem doRecordWrite_of_some (h : s.nextReport r = some p) :
    doRecordWrite r s = (reportTaken s r p).writeRecord r p.1 p.2.1 p.2.2 := by
  simp only [doRecordWrite, h, reportTaken]

/-- The record that a report becomes in a slot of its own. -/
def newRecord (g : Ring) (p : Source × Nat × Report) : RingRec :=
  { index := g.head.toNat, sev := p.2.2.sev, escalated := false, repeats := 0, source := p.1,
    uptimeMs := min (p.2.1 / 1000) (2 ^ 32 - 1), kind := p.2.2.kind, granule := p.2.2.granule, body := p.2.2.body }

theorem recordSignals_errors (s : State) (r : Fin 37) (sev : Severity) : (s.recordSignals r sev).errors = s.errors :=
  errors_of_frame (recordSignals_frame s r sev)

theorem modRing_ring (s : State) (r : Fin 37) (f : Ring → Ring) : (s.modRing r f).errors.rings[r] = f s.errors.rings[r] :=
  set_get ..

variable (hnew : ∀ x ∈ s.errors.rings[r].recs, matchesRec p.1 p.2.2 x = false)

include hnew

theorem writeRecord_of_new : s.writeRecord r p.1 p.2.1 p.2.2 =
    if ringSize r ≤ (s.errors.rings[r].head - s.errors.rings[r].ack).toNat then s.ringLost r
    else (s.modRing r fun g => 
      { g with head := g.head + 1, recs := g.recs ++ [newRecord s.errors.rings[r] p] }).recordSignals r p.2.2.sev := by
  have hnone : s.errors.rings[r].recs.reverse.find? (matchesRec p.1 p.2.2) = none :=
    List.find?_eq_none.mpr fun x hx => Bool.eq_false_iff.mp (hnew x (List.mem_reverse.mp hx))
  simp only [State.writeRecord, hnone]
  rfl

theorem writeRecord_ring_of_room (h : (s.errors.rings[r].head - s.errors.rings[r].ack).toNat < ringSize r) :
    (s.writeRecord r p.1 p.2.1 p.2.2).errors.rings[r] = { s.errors.rings[r] with
      head := s.errors.rings[r].head + 1, recs := s.errors.rings[r].recs ++ [newRecord s.errors.rings[r] p] } := by
  rw [writeRecord_of_new hnew, if_neg (Nat.not_le.mpr h), recordSignals_errors, modRing_ring]

theorem writeRecord_ring_of_full (h : ringSize r ≤ (s.errors.rings[r].head - s.errors.rings[r].ack).toNat) :
    (s.writeRecord r p.1 p.2.1 p.2.2).errors.rings[r] = { s.errors.rings[r] with
      lostCount := min (s.errors.rings[r].lostCount + 1) 65535, lost := true } := by
  rw [writeRecord_of_new hnew, if_pos h, ringLost_errors, modRing_ring]

end

/-- Settles O20: a report by the room of its source; the writer's choice, then its record by the room of the ring. -/
theorem errorReportsAreQueuedAndWritten : Obligations.ErrorReportsAreQueuedAndWritten := by
  refine ⟨fun s src r h20 h21 => ⟨fun hroom => ?_, fun hfull => ?_⟩,
    fun s r => ⟨fun p hp hr hf => ?_, fun p h => mem_waitingFor.mp (nextReport_mem h), fun h => ?_, fun p h hnew => ?_⟩⟩
  -- a report
  · exact (execErrorReport_of_other h20 h21).trans (next_eq (report_of_room hroom))
  · refine ⟨s.ringLost (ringOf src), (execErrorReport_of_other h20 h21).trans (next_eq (report_of_full hfull)),
      ringLost_errors s _, ?_, fun hq => ?_⟩
    · exact eq_of_frame (ringLost_frame s (ringOf src))
    · rw [ringLost_of_quiet hq]
      exact ⟨rfl, rfl⟩
  -- the oldest Failed report first
  · have hsome : ((waitingFor s r).find? fun p => p.2.2.sev == .failed).isSome = true :=
      List.find?_isSome.mpr ⟨p, mem_waitingFor.mpr ⟨hp, hr⟩, beq_iff_eq.mpr hf⟩
    obtain ⟨x, hx⟩ := Option.isSome_iff_exists.mp hsome
    rw [nextReport_of_failed hx, ← hx, find_failed_waitingFor]
  -- nothing waits
  · refine next_eq (doRecordWrite_of_none (nextReport_of_nothing ?_))
    exact List.filter_eq_nil_iff.mpr fun p hp => by simpa using h p hp
  -- the record, in a slot of its own or lost
  · have hring : (reportTaken s r p).errors.rings = s.errors.rings := rfl
    refine ⟨_, next_eq (doRecordWrite_of_some h), fun hroom => ?_, fun hfull => ?_⟩
    · rw [writeRecord_ring_of_room (s := reportTaken s r p) hnew hroom]
      exact ⟨rfl, rfl, _, rfl, rfl, rfl, rfl, rfl, rfl, rfl⟩
    · rw [writeRecord_ring_of_full (s := reportTaken s r p) hnew hfull]
      exact ⟨rfl, rfl, rfl⟩

end Sys2Proof.Proofs

/-! PROOFS. Burnishes (R322 to R325) and Quenches (R91, R390). -/

namespace Sys2Proof.Proofs

-- One declaration after another, as in the laws: each waiting thread counts against the check's memory.
set_option Elab.async false

open Sys2Proof Sys2Proof.Machine Sys2Proof.Laws

/-! ### A Burnish begins (R322) -/

section

variable {s : State} {e : Sqe}

theorem doBurnish_of_bad_range (h : burnRange e = none) : doBurnish e s = s.refuse e.key scInvalidField := by
  simp only [doBurnish, h]

variable {x : Nat × Nat × Nat × Nat} (hx : burnRange e = some x)

include hx

theorem doBurnish_of_no_slot (h : s.freeBurnSlot = none) : doBurnish e s =
    ({ s with burnish := { s.burnish with cfgBusy := true } } : State).refuse e.key scCfgBusy := by
  simp only [doBurnish, hx, h]

theorem doBurnish_of_slot {i : Fin 4} (h : s.freeBurnSlot = some i) : doBurnish e s =
    { s with burnish := { s.burnish with slots := s.burnish.slots.set i (some
        { sqe := e, space := x.1, unit := x.2.1, offset := x.2.2.1, length := x.2.2.2, progress := 0,
          startUs := s.clockUs }) } } := by
  simp only [doBurnish, hx, h]

end

/-! ### A Burnish ends (R323 to R325) -/

section

variable {s : State} (f : BurnishFindings)

theorem doBurnishComplete_of_empty_slot {i : Fin 4} (h : s.burnish.slots[i] = none) :
    doBurnishComplete (.slot i) f s = s := by
  simp only [doBurnishComplete, h]

/-- The host's Burnish of a slot is done: its findings take effect, the slot is free, and the summary goes to the host. -/
def slotDone (s : State) (i : Fin 4) (b : BurnSlot) (g : BurnishFindings) : State :=
  let w := s.burnEffects g
  ({ w with burnish := { w.burnish with slots := w.burnish.slots.set i none } } : State).success b.sqe.key 0 0
    (s.burnSummary false b.space b.unit b.offset b.length b.startUs g)

theorem doBurnishComplete_of_slot {i : Fin 4} {b : BurnSlot} (h : s.burnish.slots[i] = some b) :
    doBurnishComplete (.slot i) f s = if s.burnHeld b.space b.unit then s
      else slotDone s i b (s.burnFound b.space b.unit b.offset b.length f) := by
  simp only [doBurnishComplete, h, slotDone]

theorem doBurnishComplete_of_no_auto {u : Nat}
    (h : s.burnish.autos.find? (fun p => p.1 == u) = none ∨ burnUnit u = none) :
    doBurnishComplete (.auto u) f s = s := by
  rcases h with h | h
  · simp only [doBurnishComplete, h]
  · cases hp : s.burnish.autos.find? (fun p => p.1 == u) <;> simp only [doBurnishComplete, hp, h]

/-- An automatic Burnish that began at a time is done: its findings take effect, and its record is reported. -/
def autoDone (s : State) (u startUs : Nat) (x : Nat × Nat × Nat × Nat × Source) (g : BurnishFindings) : State :=
  let w := s.burnEffects g
  ({ w with burnish := { w.burnish with autos := w.burnish.autos.filter fun q => q.1 != u } } : State).report x.2.2.2.2
    { sev := if g.ueFound == 0 then .informational else .degraded, kind := 0x23, granule := none,
      body := ((s.burnSummary true x.1 x.2.1 x.2.2.1 x.2.2.2.1 startUs g).take 48).drop 1 }

theorem doBurnishComplete_of_auto {u : Nat} {p : Nat × Nat} {x : Nat × Nat × Nat × Nat × Source}
    (hp : s.burnish.autos.find? (fun p => p.1 == u) = some p) (hx : burnUnit u = some x) :
    doBurnishComplete (.auto u) f s = if s.burnHeld x.1 x.2.1 then s
      else autoDone s u p.2 x (s.burnFound x.1 x.2.1 x.2.2.1 x.2.2.2.1 f) := by
  simp only [doBurnishComplete, hp, hx, autoDone]

end

/-! ### Windows and automatic Burnishes (R325) -/

section

variable {s : State}

theorem windowStarts_iff : (s.gridRuns && s.grid.stroke % 1000 == 0) = true ↔
    s.gridRuns = true ∧ s.grid.stroke % 1000 = 0 := by
  rw [Bool.and_eq_true, beq_iff_eq]

theorem doAutoBurnishStart_of_no_mold (u : Nat) (h : s.mold.mold = none) : doAutoBurnishStart u s = s := by
  simp only [doAutoBurnishStart, State.theMold, h]

/-- The conditions of an automatic Burnish of a unit. -/
def autoStarts (s : State) (m : Mold) (u : Nat) : Prop :=
  s.burnish.autoEn = true ∧ s.gridRuns = true ∧ m.ceBurnish ≠ 0 ∧ u ∈ s.errors.burnDue ∧ (burnUnit u).isSome = true

variable {m : Mold} {u : Nat} (hm : s.mold.mold = some m)

include hm

theorem doAutoBurnishStart_of_not (h : ¬autoStarts s m u) : doAutoBurnishStart u s = s := by
  simp only [doAutoBurnishStart, State.theMold, hm]
  refine if_neg fun hx => h ?_
  simpa only [autoStarts, Bool.and_eq_true, bne_iff_ne, List.contains_iff_mem, and_assoc] using hx

theorem doAutoBurnishStart_of_due (h : autoStarts s m u) : doAutoBurnishStart u s =
    let v : State := { s with errors := { s.errors with burnDue := s.errors.burnDue.filter fun x => x != u } }
    if s.burnish.autos.any fun p => p.1 == u then v
    else { v with burnish := { s.burnish with autos := s.burnish.autos ++ [(u, s.clockUs)] } } := by
  simp only [doAutoBurnishStart, State.theMold, hm]
  refine if_pos ?_
  simpa only [autoStarts, Bool.and_eq_true, bne_iff_ne, List.contains_iff_mem, and_assoc] using h

end

/-! ### Quenches (R91, R390) -/

section

variable {s : State}

theorem takeQuench_of_none {v : Nat} (h : s.quenchTargets v = []) : s.takeQuench v =
    { s with sched := { s.sched with quenchMiss := min (s.sched.quenchMiss + 1) (2 ^ 32 - 1) } } := by
  simp only [State.takeQuench, h]
  rfl

theorem takeQuench_of_one {v : Nat} {k : Key} (h : s.quenchTargets v = [k]) :
    s.takeQuench v = s.modJob k fun j => { j with quenching := true } := by
  simp only [State.takeQuench, h]
  rfl

theorem doQuench_of_no_mold {e : Sqe} (h : s.mold.mold = none) : doQuench e s = s.refuse e.key scInvalidField :=
  if_pos (Option.isNone_iff_eq_none.mpr h)

theorem doQuench_of_mold {e : Sqe} (h : s.mold.mold ≠ none) : doQuench e s =
    (s.takeQuench e.cdw10.toNat).success e.key (s.quenchTargets e.cdw10.toNat).length 0 [] :=
  if_neg (h ∘ Option.isNone_iff_eq_none.mp)

theorem doJobQuenchStop_of_no_job {k : Key} (h : s.job k = none) : doJobQuenchStop k s = s := by
  simp only [doJobQuenchStop, h]

end

/-- Settles O21: each row by the condition it tests; a Quench by the jobs it names. -/
theorem burnishesAndQuenches : Obligations.BurnishesAndQuenches := by
  refine ⟨fun s e f u => ⟨fun h => next_eq (doBurnish_of_bad_range h), fun x hx h => next_eq (doBurnish_of_no_slot hx h),
    fun x i hx h => next_eq (doBurnish_of_slot hx h), fun i h => next_eq (doBurnishComplete_of_empty_slot f h),
    fun i b h => ⟨fun hb => ?_, fun hb => ?_⟩, fun p x hp hx => ⟨fun hb => ?_, fun hb => ?_⟩,
    fun h => next_eq (doBurnishComplete_of_no_auto f h), fun h => next_eq (if_pos (windowStarts_iff.mpr h)),
    fun h => next_eq (if_neg (h ∘ windowStarts_iff.mp)), fun m hm hen hg hc hd hu => ⟨fun h => ?_, fun h => ?_⟩,
    fun m hm h => next_eq (doAutoBurnishStart_of_not hm ?_), fun h => next_eq (doAutoBurnishStart_of_no_mold u h)⟩,
    fun s e v k => ⟨fun h => next_eq (takeQuench_of_none h), fun h => next_eq (takeQuench_of_one h),
      fun h => next_eq (doQuench_of_no_mold h), fun hm h => next_eq ?_, fun hm h => next_eq ?_,
      fun h => next_eq (doJobQuenchStop_of_no_job h)⟩⟩
  -- the end of a host's Burnish
  · exact next_eq ((doBurnishComplete_of_slot f h).trans (if_pos hb))
  · exact next_eq ((doBurnishComplete_of_slot f h).trans (if_neg (Bool.eq_false_iff.mp hb)))
  -- the end of an automatic one
  · exact next_eq ((doBurnishComplete_of_auto f hp hx).trans (if_pos hb))
  · exact next_eq ((doBurnishComplete_of_auto f hp hx).trans (if_neg (Bool.eq_false_iff.mp hb)))
  -- an automatic one starts, unless one runs
  · refine next_eq ((doAutoBurnishStart_of_due hm ⟨hen, hg, hc, hd, hu⟩).trans (if_neg fun hany => ?_))
    obtain ⟨p, hp, hpu⟩ := List.any_eq_true.mp hany
    exact h p hp (beq_iff_eq.mp hpu)
  · refine next_eq ((doAutoBurnishStart_of_due hm ⟨hen, hg, hc, hd, hu⟩).trans (if_pos ?_))
    obtain ⟨p, hp, hpu⟩ := h
    exact List.any_eq_true.mpr ⟨p, hp, beq_iff_eq.mpr hpu⟩
  · rintro ⟨hen, hg, hc, hd, -⟩
    rcases h with h | h | h | h
    · exact Bool.eq_false_iff.mp h hen
    · exact Bool.eq_false_iff.mp h hg
    · exact hc h
    · exact h hd
  -- QUENCH
  · rw [doQuench_of_mold hm, takeQuench_of_none h, h]
    rfl
  · rw [doQuench_of_mold hm, takeQuench_of_one h, h]
    rfl

end Sys2Proof.Proofs

/-! PROOFS. The management port (R390, R413 to R415, Table 16-10). -/

namespace Sys2Proof.Proofs

-- One declaration after another, as in the laws: each waiting thread counts against the check's memory.
set_option Elab.async false

open Sys2Proof Sys2Proof.Machine Sys2Proof.Laws

/-! ### A port that is silent, and one that answers -/

theorem atBmc_of_silent {s : State} (h : s.bmc.answers = false) (k : State → State) : s.atBmc k = s :=
  if_neg (Bool.eq_false_iff.mp h)

theorem atBmc_of_answering {s : State} (h : s.bmc.answers = true) (k : State → State) : s.atBmc k = k s := if_pos h

/-- Every row of the port is an `atBmc`. -/
theorem bmcRows_of_silent {s : State} (h : s.bmc.answers = false) (a : BitVec 7) (eid x y op : Byte) (id off len : Word16)
    (d : Word32) (e : Sqe) (clear : Bool) : ∀ c ∈ ([.i3cSetdasa a, .i3cEntdaa a, .setEndpointId eid,
      .miReadDataStructure x y, .miSubsystemHealthPoll clear, .miControllerHealthPoll id, .miConfigurationGet x,
      .miConfigurationSet x id, .miVpdRead off len, .miVpdWrite, .miAdminCommand e, .telemetry, .miQuench d,
      .miUnsupportedCommand op] : List Instr), exec c s = .next s := by
  have hrow (k : State → State) : (.next (s.atBmc k) : Out) = .next s := next_eq (atBmc_of_silent h k)
  simp only [List.forall_mem_cons, List.not_mem_nil, false_implies, implies_true, and_true]
  exact ⟨hrow _, hrow _, hrow _, hrow _, hrow _, hrow _, hrow _, hrow _, hrow _, hrow _, hrow _, hrow _, hrow _, hrow _⟩

theorem length_telemetry (s : State) : s.telemetry.length = 128 := by
  simp only [State.telemetry, List.length_flatMap, le_bytes_length]
  rfl

section

variable {s : State} (h : s.bmc.answers = true)

include h

/-! ### Addresses (R413, R414) -/

theorem execI3cEntdaa_of_address (a : BitVec 7) (hd : s.bmc.dynAddr ≠ none) : execI3cEntdaa a s = .next s := by
  obtain ⟨d, hd⟩ := Option.ne_none_iff_exists'.mp hd
  refine next_eq ((atBmc_of_answering h _).trans ?_)
  rw [State.modBmc, hd, Option.getD_some, ← hd]

theorem execI3cEntdaa_of_none (a : BitVec 7) (hd : s.bmc.dynAddr = none) :
    execI3cEntdaa a s = .next { s with bmc := { s.bmc with dynAddr := some a } } := by
  refine next_eq ((atBmc_of_answering h _).trans ?_)
  rw [State.modBmc, hd, Option.getD_none]

/-! ### Structures, polls and configuration (R414, Table 16-10) -/

theorem doMiReadDataStructure_of_present {x y : Byte} {bs : List Byte} (hb : s.miStructure x.toNat y.toNat = some bs) :
    doMiReadDataStructure x y s = s.miOk bs := by
  rw [doMiReadDataStructure, atBmc_of_answering h]
  simp only [hb]

theorem doMiReadDataStructure_of_absent {x y : Byte} (hb : s.miStructure x.toNat y.toNat = none) :
    doMiReadDataStructure x y s = s.miBad := by
  rw [doMiReadDataStructure, atBmc_of_answering h]
  simp only [hb]

theorem doMiControllerHealthPoll_of_ctrl {id : Word16} {c : Ctrl} (hc : id.toNat = c.val) :
    doMiControllerHealthPoll id s = if s.present c then s.miOk (s.controllerHealth c) else s.miBad := by
  have hid : id.toNat < 2 := hc ▸ c.isLt
  obtain rfl : (⟨id.toNat, hid⟩ : Ctrl) = c := Fin.ext hc
  exact (atBmc_of_answering h _).trans (dif_pos hid)

theorem doMiControllerHealthPoll_of_other {id : Word16} (hc : 2 ≤ id.toNat) :
    doMiControllerHealthPoll id s = s.miBad :=
  (atBmc_of_answering h _).trans (dif_neg (Nat.not_lt.mpr hc))

theorem doMiConfigurationGet_of_other {x : Byte} (hx : x ≠ mtuConfig) : doMiConfigurationGet x s = s.miBad :=
  (atBmc_of_answering h _).trans (if_neg (hx ∘ beq_iff_eq.mp))

theorem doMiConfigurationSet_eq (x : Byte) (size : Word16) : doMiConfigurationSet x size s =
    if x = mtuConfig ∧ 64 ≤ size.toNat ∧ size.toNat ≤ 256 then
      ({ s with bmc := { s.bmc with mtu := size.toNat } } : State).emit (.mi miSuccess [])
    else s.miBad := by
  rw [doMiConfigurationSet, atBmc_of_answering h]
  simp only [Bool.and_eq_true, beq_iff_eq, decide_eq_true_eq, and_assoc, State.modBmc]

/-! ### Admin commands and QUENCH (R390, R415) -/

section

variable {e : Sqe}

theorem doMiAdminCommand_of_identify {p : List Byte} (ho : e.opcode = 0x06)
    (hp : s.identifyPage e.key.ctrl.val (bits e.cdw10.toNat 7 0) = some p) :
    doMiAdminCommand e s = s.miCompletion 0 0 false 0 p := by
  rw [doMiAdminCommand, atBmc_of_answering h, ho]
  refine (if_pos rfl).trans ?_
  simp only [hp]

theorem doMiAdminCommand_of_logPage (ho : e.opcode = 0x02) : doMiAdminCommand e s = s.miLogPage e := by
  rw [doMiAdminCommand, atBmc_of_answering h, ho]
  exact (if_neg (by decide)).trans (if_pos rfl)

theorem doMiAdminCommand_of_feature {x : Nat × List Byte} (ho : e.opcode = 0x0A)
    (hx : s.feature e.key.ctrl (bits e.cdw10.toNat 7 0) e.cdw11.toNat = some x) :
    doMiAdminCommand e s = s.miCompletion 0 0 false x.1 x.2 := by
  rw [doMiAdminCommand, atBmc_of_answering h, ho]
  refine (if_neg (by decide)).trans ((if_neg (by decide)).trans ((if_pos rfl).trans ?_))
  simp only [hx]

theorem doMiAdminCommand_of_other (h6 : e.opcode ≠ 0x06) (h2 : e.opcode ≠ 0x02) (hA : e.opcode ≠ 0x0A) :
    doMiAdminCommand e s = s.emit (.mi miInvalidOpcode []) := by
  rw [doMiAdminCommand, atBmc_of_answering h]
  exact (if_neg (h6 ∘ beq_iff_eq.mp)).trans ((if_neg (h2 ∘ beq_iff_eq.mp)).trans (if_neg (hA ∘ beq_iff_eq.mp)))

end

theorem doMiQuench_of_blank (d : Word32) (hm : s.theMold = none) : doMiQuench d s = s.miBad :=
  (atBmc_of_answering h _).trans (if_pos (Option.isNone_iff_eq_none.mpr hm))

theorem doMiQuench_of_mold (d : Word32) (hm : s.theMold ≠ none) : doMiQuench d s =
    (s.takeQuench d.toNat).emit (.mi miSuccess [BitVec.ofNat 32 (s.quenchTargets d.toNat).length]) :=
  (atBmc_of_answering h _).trans (if_neg (hm ∘ Option.isNone_iff_eq_none.mp))

end

/-- Settles O60: a silent port drops every row; one that answers takes each row by its fields. -/
theorem theManagementPortAnswers : Obligations.TheManagementPortAnswers := by
  intro s a eid x y op id off len d e clear ok bad unknown
  refine ⟨rfl, fun h => bmcRows_of_silent h a eid x y op id off len d e clear, fun h => ?_⟩
  have hrow (k : State → State) : (.next (s.atBmc k) : Out) = .next (k s) := next_eq (atBmc_of_answering h k)
  have hset := doMiConfigurationSet_eq h
  exact ⟨hrow _, execI3cEntdaa_of_none h a, execI3cEntdaa_of_address h a, hrow _,
    fun bs hb => next_eq (doMiReadDataStructure_of_present h hb), fun hb => next_eq (doMiReadDataStructure_of_absent h hb),
    hrow _, fun c hc => (next_eq (doMiControllerHealthPoll_of_ctrl h hc)).trans (apply_ite _ _ _ _),
    fun hc => next_eq (doMiControllerHealthPoll_of_other h hc), hrow _,
    fun hx => ⟨next_eq (doMiConfigurationGet_of_other h hx), next_eq ((hset x id).trans (if_neg fun hy => hx hy.1))⟩,
    fun hlo hhi => next_eq ((hset _ id).trans (if_pos ⟨rfl, hlo, hhi⟩)),
    fun hid => next_eq ((hset _ id).trans (if_neg (by omega))),
    fun hl => (hrow _).trans (next_eq (if_pos hl)), fun hl => (hrow _).trans (next_eq (if_neg (Nat.not_le.mpr hl))),
    hrow _, hrow _, fun h6 h2 hA => next_eq (doMiAdminCommand_of_other h h6 h2 hA),
    fun p ho hp => next_eq (doMiAdminCommand_of_identify h ho hp),
    fun ho => next_eq (doMiAdminCommand_of_logPage h ho),
    fun v bs ho hx => next_eq (doMiAdminCommand_of_feature h ho hx), hrow _, length_telemetry s,
    fun hm => next_eq (doMiQuench_of_blank h d hm), fun hm => next_eq (doMiQuench_of_mold h d hm)⟩

end Sys2Proof.Proofs

/-! PROOFS. Collection keys (R346 to R348): what a session's message does with the keys held, with a grid and without one. -/

namespace Sys2Proof.Proofs

-- One declaration after another, as in the laws: each waiting thread counts against the check's memory.
set_option Elab.async false

open Sys2Proof Sys2Proof.Machine Sys2Proof.Laws

theorem sec_of_frame {w : List Laws.Part} {s t : State} (h : Frame w s t) (hw : Laws.Part.sec ∉ w := by decide) :
    t.sec = s.sec := h .sec hw

theorem gridRuns_of_frame {w : List Laws.Part} {s t : State} (h : Frame w s t) (hw : Laws.Part.grid ∉ w := by decide) :
    t.gridRuns = s.gridRuns := congrArg (fun g : Grid => ({ s with grid := g } : State).gridRuns) (h .grid hw)

/-! ### Messages within a session (R352) -/

theorem takeInbox_of_empty {s : State} (h : s.sec.inbox = []) (type : Byte) : s.takeInbox type = s := by
  simp only [State.takeInbox, h]

/-- A record has been heard. -/
def heard (s : State) : State := { s with sec := { s.sec with lastRecordUs := s.clockUs } }

theorem inner_of_established {s : State} (h : s.sec.session = .established) (hi : s.sec.inbox = []) (type : Byte)
    (k : State → State) : s.inner type k = k (heard s) := by
  rw [State.inner, takeInbox_of_empty hi]
  exact if_neg (by simp [h])

theorem inner_of_not_established {s : State} (h : s.sec.session ≠ .established) (hi : s.sec.inbox = []) (type : Byte)
    (k : State → State) : s.inner type k = s := by
  rw [State.inner, takeInbox_of_empty hi]
  exact if_pos (bne_iff_ne.mpr h)

/-- A record takes a message number and a sequence number. -/
theorem sendRecord_sec (s : State) (inner : List Byte) :
    ∃ m n, (s.sendRecord inner).sec = { s.sec with msgId := m, seqOut := n } := by
  unfold State.sendRecord
  split
  · exact ⟨_, _, rfl⟩
  · exact ⟨_, _, rfl⟩

/-- The keys held, the key events that wait, and the mismatches counted. -/
def keyParts (s : State) : List (Word64 × BitVec 256) × List KeyEvent × Nat :=
  (s.sec.keys, s.sec.keyEvents, s.sec.kcvMismatches)

theorem keyParts_sendKeyAck (s : State) (result : Nat) (label : Word64) :
    keyParts (s.sendKeyAck result label) = keyParts s := by
  obtain ⟨m, n, h⟩ := sendRecord_sec s (le 1 0x13 ++ le 1 result ++ le 6 0 ++ le 8 label.toNat)
  rw [keyParts, State.sendKeyAck, h]
  rfl

theorem keyParts_of_frame {w : List Laws.Part} {s t : State} (h : Frame w s t) (hw : Laws.Part.sec ∉ w := by decide) :
    keyParts t = keyParts s := congrArg (fun c : Security => (c.keys, c.keyEvents, c.kcvMismatches)) (h .sec hw)

/-! ### Key events (R346) -/

theorem keyEvent_of_grid {s : State} (h : s.gridRuns = true) (e : KeyEvent) : s.keyEvent e =
    { s with sec := { s.sec with keyEvents := s.sec.keyEvents ++ [e] } } := if_pos h

theorem keyEvent_of_no_grid {s : State} (h : s.gridRuns = false) (e : KeyEvent) : s.keyEvent e =
    ({ s with sec := { s.sec with keyEvents := s.sec.keyEvents ++ [e] } } : State).applyKeys :=
  if_neg (Bool.eq_false_iff.mp h)

/-- What the loss of keys sets off leaves the keys themselves alone. -/
theorem applyKeys_sec (s : State) : s.applyKeys.sec =
    { s.sec with keys := s.sec.keyEvents.foldl applyKeyEvent s.sec.keys, keyEvents := [] } := by
  unfold State.applyKeys
  extract_lets before keys _ u lost gone
  exact (sec_of_frame (keysArrived_frame _)).trans
    (sec_of_frame (Frame.foldl gone (Frame.refl u) fun t i => keyGone_frame t i))

theorem keyParts_keyEvent_of_grid {s : State} (h : s.gridRuns = true) (e : KeyEvent) :
    keyParts (s.keyEvent e) = (s.sec.keys, s.sec.keyEvents ++ [e], s.sec.kcvMismatches) := by
  rw [keyEvent_of_grid h]
  rfl

theorem keyParts_keyEvent_of_no_grid {s : State} (h : s.gridRuns = false) (hev : s.sec.keyEvents = []) (e : KeyEvent) :
    keyParts (s.keyEvent e) = (applyKeyEvent s.sec.keys e, [], s.sec.kcvMismatches) := by
  rw [keyEvent_of_no_grid h, keyParts, applyKeys_sec, hev]
  rfl

theorem mem_assocSet_iff {α β : Type} [BEq α] [LawfulBEq α] (l : List (α × β)) (k a : α) (v b : β) :
    (a, b) ∈ assocSet l k v ↔ (a, b) ∈ l ∧ a ≠ k ∨ a = k ∧ b = v := by
  simp [assocSet]

theorem mem_revoke_iff (keys : List (Word64 × BitVec 256)) (label l : Word64) (k : BitVec 256) :
    (l, k) ∈ applyKeyEvent keys (.revoke label) ↔ (l, k) ∈ keys ∧ l ≠ label ∧ label ≠ 0xFFFFFFFFFFFFFFFF := by
  simp [applyKeyEvent, allLabels, and_comm]

/-! ### KEY_DELIVER and KEY_REVOKE (R347, R348) -/

section

variable {s : State} {label : Word64} {key : BitVec 256} (h : s.sec.session = .established) (hi : s.sec.inbox = [])

include h hi

theorem doKeyRevoke_of_established : doKeyRevoke label s =
    ((heard s).reportSecurity .informational 0x33 0 label 0).keyEvent (.revoke label) := inner_of_established h hi ..

variable (hlc : s.lcSession = true) (hroom : s.labelsHeld label < 4096)

include hlc hroom

theorem doKeyDeliver_of_mismatch (hk : s.kcvBad label key = true) : ∃ u : State,
    doKeyDeliver label key s = u.sendKeyAck 2 label ∧
      keyParts u = (s.sec.keys, s.sec.keyEvents, satAdd 32 s.sec.kcvMismatches 1) := by
  refine ⟨_, (inner_of_established h hi ..).trans ((if_neg ?_).trans ((if_neg ?_).trans (if_pos hk))), ?_⟩
  · simp [show (heard s).lcSession = true from hlc]
  · exact Nat.not_le.mpr hroom
  · exact keyParts_of_frame (reportSecurity_frame _ _ _ _ _ _)

theorem doKeyDeliver_of_match (hk : s.kcvBad label key = false) : doKeyDeliver label key s =
    (((heard s).setKcv label key).keyEvent (.deliver label key)).sendKeyAck 0 label := by
  refine (inner_of_established h hi ..).trans ((if_neg ?_).trans ((if_neg ?_).trans (if_neg ?_)))
  · simp [show (heard s).lcSession = true from hlc]
  · exact Nat.not_le.mpr hroom
  · exact Bool.eq_false_iff.mp hk

theorem keyParts_deliver_of_grid (hk : s.kcvBad label key = false) (hg : s.gridRuns = true) :
    keyParts (doKeyDeliver label key s) =
      (s.sec.keys, s.sec.keyEvents ++ [.deliver label key], s.sec.kcvMismatches) := by
  have hf := setKcv_frame (heard s) label key
  rw [doKeyDeliver_of_match h hi hlc hroom hk, keyParts_sendKeyAck,
    keyParts_keyEvent_of_grid ((gridRuns_of_frame hf).trans hg), sec_of_frame hf]
  rfl

theorem keyParts_deliver_of_no_grid (hk : s.kcvBad label key = false) (hg : s.gridRuns = false)
    (hev : s.sec.keyEvents = []) : keyParts (doKeyDeliver label key s) =
      (assocSet s.sec.keys label key, [], s.sec.kcvMismatches) := by
  have hf := setKcv_frame (heard s) label key
  have hsec := sec_of_frame hf
  rw [doKeyDeliver_of_match h hi hlc hroom hk, keyParts_sendKeyAck, keyParts_keyEvent_of_no_grid
    ((gridRuns_of_frame hf).trans hg) (hsec ▸ hev), hsec]
  rfl

end

/-- Settles O14: the message by its KCV and the room for labels; its event by the grid. -/
theorem keysTakeEffectAtTheBoundary : Obligations.KeysTakeEffectAtTheBoundary := by
  intro s label key h hlc hi
  refine ⟨fun hroom hk => ?_, fun hroom hk hg => ?_, fun hroom hk hg hev => ?_, fun hg => ?_, fun hg hev => ?_⟩
  -- a key that disagrees
  · obtain ⟨u, hu, hparts⟩ := doKeyDeliver_of_mismatch (key := key) h hi hlc hroom hk
    refine ⟨_, next_eq hu, ?_⟩
    simpa [keyParts] using (keyParts_sendKeyAck u 2 label).trans hparts
  -- a delivery with a grid
  · have hparts := keyParts_deliver_of_grid h hi hlc hroom hk hg
    simp only [keyParts, Prod.mk.injEq] at hparts
    obtain ⟨hkeys, hevents, -⟩ := hparts
    exact ⟨_, rfl, hkeys, hevents⟩
  -- a delivery without one
  · have hparts := keyParts_deliver_of_no_grid h hi hlc hroom hk hg hev
    simp only [keyParts, Prod.mk.injEq] at hparts
    obtain ⟨hkeys, hevents, -⟩ := hparts
    refine ⟨_, rfl, ?_, hevents, fun k hne => ?_, fun l k hne => ?_⟩
    · rw [hkeys]
      exact mem_assocSet ..
    · rw [hkeys, mem_assocSet_iff]
      simp [hne]
    · rw [hkeys, mem_assocSet_iff]
      simp [hne]
  -- a revocation with a grid, and without one
  · have hf := reportSecurity_frame (heard s) .informational 0x33 0 label 0
    have hparts := keyParts_keyEvent_of_grid ((gridRuns_of_frame hf).trans hg) (.revoke label)
    rw [sec_of_frame hf, keyParts, Prod.mk.injEq, Prod.mk.injEq] at hparts
    obtain ⟨hkeys, hevents, -⟩ := hparts
    exact ⟨_, next_eq (doKeyRevoke_of_established h hi), hkeys, hevents⟩
  · have hf := reportSecurity_frame (heard s) .informational 0x33 0 label 0
    have hsec := sec_of_frame hf
    have hparts := keyParts_keyEvent_of_no_grid ((gridRuns_of_frame hf).trans hg) (hsec ▸ hev) (.revoke label)
    rw [hsec, keyParts, Prod.mk.injEq, Prod.mk.injEq] at hparts
    obtain ⟨hkeys, hevents, -⟩ := hparts
    refine ⟨_, next_eq (doKeyRevoke_of_established h hi), hevents, fun l k => ?_⟩
    rw [hkeys]
    exact mem_revoke_iff ..

end Sys2Proof.Proofs

/-! PROOFS. The Hallmark functions (R357, R360) and the transitions of the life-cycle (R365, R367). -/

namespace Sys2Proof.Proofs

-- One declaration after another, as in the laws: each waiting thread counts against the check's memory.
set_option Elab.async false

open Sys2Proof Sys2Proof.Machine Sys2Proof.Laws

/-! ### HALLMARK_GET (R310, R357, R360) -/

section

variable {s : State} {e : Sqe}

theorem hallmarkFieldsOk_iff {fn len : Nat} : hallmarkFieldsOk e fn len = true ↔ e.cdw10.toNat = fn ∧ len ≤ e.cdw11.toNat := by
  rw [hallmarkFieldsOk, Bool.and_eq_true, beq_iff_eq, decide_eq_true_eq]

theorem not_hallmarkFieldsOk {fn len : Nat} (h : ¬(e.cdw10.toNat = fn ∧ len ≤ e.cdw11.toNat)) :
    (!hallmarkFieldsOk e fn len) = true := by
  rw [Bool.not_eq_true', ← Bool.not_eq_true, hallmarkFieldsOk_iff]
  exact h

theorem doHallmarkStatus_of_bad_fields (h : ¬(e.cdw10.toNat = 0 ∧ 128 ≤ e.cdw11.toNat)) :
    doHallmarkStatus e s = s.refuse e.key scInvalidField := if_neg (h ∘ hallmarkFieldsOk_iff.mp)

theorem doHallmarkStatus_of_fields (h : e.cdw10.toNat = 0 ∧ 128 ≤ e.cdw11.toNat) :
    doHallmarkStatus e s = s.success e.key 0 0 s.statusBytes := if_pos (hallmarkFieldsOk_iff.mpr h)

theorem doHallmarkRoots_of_bad_fields (h : ¬(e.cdw10.toNat = 1 ∧ 1344 ≤ e.cdw11.toNat)) :
    doHallmarkRoots e s = s.refuse e.key scInvalidField := if_pos (not_hallmarkFieldsOk h)

theorem doHallmarkRoots_of_fields (h : e.cdw10.toNat = 1 ∧ 1344 ≤ e.cdw11.toNat) : doHallmarkRoots e s =
    if s.pewter.readWaits .vault then s.waitRead (.roots e) else s.success e.key 0 0 (s.pewter.optBytes 0x80 1344) :=
  if_neg (by rw [hallmarkFieldsOk_iff.mpr h]; decide)

theorem doHallmarkAttest_of_bad_fields (h : ¬(e.cdw10.toNat = 2 ∧ 3052 ≤ e.cdw11.toNat)) :
    doHallmarkAttest e s = s.refuse e.key scInvalidField := if_pos (not_hallmarkFieldsOk h)

theorem doHallmarkAttest_of_fields (h : e.cdw10.toNat = 2 ∧ 3052 ≤ e.cdw11.toNat) : doHallmarkAttest e s =
    if s.pewter.lcState = 0 then s.refuse e.key scLifecycleDenied
    else if s.sec.rebuilt = true then s.makeAttest e
    else { s with sec := { s.sec with waiting := s.sec.waiting ++ [.attest e] } } := by
  refine (if_neg (by rw [hallmarkFieldsOk_iff.mpr h]; decide)).trans ?_
  simp only [beq_iff_eq, State.lc]

end

/-! ### LIFECYCLE (R365, R367) -/

section

variable {s : State} {e : Sqe} {target confirm : Nat}

/-- What a request that is admitted meets, by its target. -/
theorem transition_eq_some {t : Nat} (h : s.transition target confirm = some t) : t = target ∧
    (t = 1 ∧ s.pewter.lcState = 0 ∧ confirm = 0x5354524B ∧ s.sec.strikeFailed = false ∨
      t = 2 ∧ s.pewter.lcState = 1 ∧ confirm = 0x494E5356 ∨
      t = 3 ∧ s.pewter.lcState = 2 ∧ confirm = 0x52455452 ∨
      t = 4 ∧ s.pewter.lcState < 4 ∧ confirm = 0x4D454C54) := by
  unfold State.transition at h
  extract_lets p struck ok at h
  obtain ⟨hok, ht⟩ := Option.ite_none_right_eq_some.mp h
  obtain rfl := Option.some.inj ht
  refine ⟨rfl, ?_⟩
  unfold ok at hok
  split at hok
  next h1 =>
    simp only [Bool.and_eq_true, beq_iff_eq, State.lc, struck, Bool.not_eq_true'] at h1 hok
    exact .inl ⟨h1, hok.1.1, hok.1.2, hok.2.2⟩
  split at hok
  next h2 =>
    simp only [Bool.and_eq_true, beq_iff_eq, State.lc] at h2 hok
    exact .inr (.inl ⟨h2, hok.1⟩)
  split at hok
  next h3 =>
    simp only [Bool.and_eq_true, beq_iff_eq, State.lc] at h3 hok
    exact .inr (.inr (.inl ⟨h3, hok⟩))
  split at hok
  next h4 =>
    simp only [Bool.and_eq_true, beq_iff_eq, State.lc] at h4 hok
    exact .inr (.inr (.inr ⟨h4, of_decide_eq_true hok.1, hok.2⟩))
  · cases hok

theorem transition_to_melted (hlc : s.pewter.lcState < 4) : s.transition 4 0x4D454C54 = some 4 := by
  simp [State.transition, State.lc, hlc]

theorem doLifecycle_of_denied (h : s.transition e.cdw10.toNat e.cdw11.toNat = none) : doLifecycle e s =
    (s.reportSecurity .degraded 0x35 0xFF 0 0).refuse e.key scLifecycleDenied := by
  simp only [doLifecycle, h]

theorem doLifecycle_of_admitted {t : Nat} (h : s.transition e.cdw10.toNat e.cdw11.toNat = some t) :
    doLifecycle e s = (s.runTransition e.key t).success e.key 0 0 [] := by
  simp only [doLifecycle, h]

end

/-- Settles O12: each function by its fields and what it waits for; LIFECYCLE by the table's conditions. -/
theorem hallmarkAndLifecycleRequests : Obligations.HallmarkAndLifecycleRequests := by
  refine ⟨fun s e => ?_, fun s e => ?_⟩
  · intro fit
    have hroots (h : fit 1 1344) := doHallmarkRoots_of_fields (s := s) h
    have hattest (h : fit 2 3052) := doHallmarkAttest_of_fields (s := s) h
    exact ⟨fun h => next_eq (doHallmarkStatus_of_fields h), fun h => next_eq (doHallmarkStatus_of_bad_fields h),
      fun h hw => next_eq ((hroots h).trans (if_neg (Bool.eq_false_iff.mp hw))),
      fun h hw => next_eq ((hroots h).trans (if_pos hw)), fun h => next_eq (doHallmarkRoots_of_bad_fields h),
      fun h hlc => next_eq ((hattest h).trans (if_pos hlc)),
      fun h hlc hr => next_eq ((hattest h).trans ((if_neg hlc).trans (if_neg (Bool.eq_false_iff.mp hr)))),
      fun h hlc hr => next_eq ((hattest h).trans ((if_neg hlc).trans (if_pos hr))),
      fun h => next_eq (doHallmarkAttest_of_bad_fields h), rfl⟩
  · intro target confirm
    refine ⟨fun h => next_eq (doLifecycle_of_denied h), fun t h => ⟨next_eq (doLifecycle_of_admitted h), ?_⟩,
      fun hlc hc ht => ?_⟩
    · obtain ⟨ht, hcases⟩ := transition_eq_some h
      refine ⟨ht, ?_⟩
      rcases hcases with ⟨rfl, hmet⟩ | ⟨rfl, hmet⟩ | ⟨rfl, hmet⟩ | ⟨rfl, hmet⟩
      · exact ⟨fun _ => hmet, nofun, nofun, nofun, by decide⟩
      · exact ⟨nofun, fun _ => hmet, nofun, nofun, by decide⟩
      · exact ⟨nofun, nofun, fun _ => hmet, nofun, by decide⟩
      · exact ⟨nofun, nofun, nofun, fun _ => hmet, by decide⟩
    · rw [hc, ht]
      exact transition_to_melted (by omega)

end Sys2Proof.Proofs

/-! PROOFS. The Custodian session (R350, R352 to R354, R357): how it opens, closes and times out, and its messages. -/

namespace Sys2Proof.Proofs

-- One declaration after another, as in the laws: each waiting thread counts against the check's memory.
set_option Elab.async false

open Sys2Proof Sys2Proof.Machine Sys2Proof.Laws

/-! ### SESSION_INIT (R352, R357) -/

/-- The conditions of a SESSION_INIT. -/
def mayInit (s : State) : Prop := s.sec.session = .none ∧ s.lcSession = true ∧ s.sec.backingOff = false ∧
  s.sec.rebuilt = true ∧ s.leafLeft = true

theorem mayInit_iff {s : State} : (s.sec.session == .none && s.lcSession && !s.sec.backingOff && s.sec.rebuilt &&
    s.leafLeft) = true ↔ mayInit s := by
  simp only [mayInit, Bool.and_eq_true, beq_iff_eq, Bool.not_eq_true', and_assoc]

theorem doSessionInit_of_not {s : State} (h : ¬mayInit s) : doSessionInit s = s := if_neg (h ∘ mayInit_iff.mp)

theorem doSessionInit_of_built {s t : State} (h : mayInit s) (ht : s.buildInit = some t) : doSessionInit s = t := by
  refine (if_pos (mayInit_iff.mpr h)).trans ?_
  simp only [ht]

/-- The Hallmark of a message by the next leaf. -/
def leafHallmark (s : State) (msg : List Byte) : List Byte :=
  let t := s.sec.nextLeaf / 1048576
  le 1 1 ++ le 1 t ++ le 2 0 ++ le 4 s.sec.nextLeaf ++
    Config.xmssSign (s.pewter.vaultBytes (4608 + 8 * t) 8) (s.sec.nextLeaf % 1048576) msg

/-- What a signature with the open batch leaves of the security state. -/
def leafUsed (c : Security) : Security :=
  { c with nextLeaf := c.nextLeaf + 1, batchOpen := (c.nextLeaf + 1) % 1024 != 0, hallmarks := (c.hallmarks + 1) % 2 ^ 32 }

theorem sign_of_open {s : State} (h : s.sec.batchOpen = true) (msg : List Byte) :
    s.sign msg = (some (leafHallmark s msg), { s with sec := leafUsed s.sec }) := by
  simp only [State.sign, h, if_true, Bool.not_true, Bool.false_eq_true, if_false]
  rfl

theorem buildInit_of_open {s : State} (h : s.sec.batchOpen = true) : ∃ seed body, s.buildInit = some (({ s with
    free := s.free + 12
    sec := { leafUsed s.sec with
      session := .initSent, kemSeed := seed, initBody := body, initUs := s.clockUs } } : State).sendMessage 0x01 body) := by
  have hsign (msg : List Byte) := sign_of_open (s := { s with free := s.free + 8 + 4 }) h msg
  simp only [State.buildInit, State.freshBytes, State.freshN, hsign]
  exact ⟨_, _, rfl⟩

/-! ### A session is lost (R354) -/

theorem doSessionReject_of_initSent {s : State} (h : s.sec.session = .initSent) (hi : s.sec.inbox = []) (r : Word32) :
    doSessionReject r s = s.sessionLost.reportSecurity .degraded 0x32 (r.toNat % 256) 0 0 := by
  rw [doSessionReject, takeInbox_of_empty hi]
  exact if_neg (by simp [h])

theorem doSessionReject_of_other {s : State} (h : s.sec.session ≠ .initSent) (hi : s.sec.inbox = []) (r : Word32) :
    doSessionReject r s = s.tagFail := by
  rw [doSessionReject, takeInbox_of_empty hi]
  exact if_pos (bne_iff_ne.mpr h)

/-- The conditions that a timer of the session tests: its state, and the time since a moment. -/
theorem timer_iff {x y : SessionState} {now due : Nat} :
    (x == y && decide (now ≥ due)) = true ↔ x = y ∧ due ≤ now := by
  rw [Bool.and_eq_true, beq_iff_eq, decide_eq_true_eq]

/-! ### SESSION_ACCEPT (R352, R353) -/

theorem sendKeyRequests_of_none_missing {s : State} (h : s.missingLabels = []) : s.sendKeyRequests = s := by
  simp only [State.sendKeyRequests, h]
  rfl

/-- The session that an accepted body establishes. -/
def established (s : State) (body : List Byte) : State :=
  let ks := sessionKeys (Config.kemDecaps s.sec.kemSeed (fieldBytes body 40 1568)) s.sec.initBody body
  { s with sec := { s.sec with
      session := .established, keyOut := ks.1, keyIn := ks.2, seqOut := 0, seqIn := 0, discards := 0, backoffS := 10,
      backingOff := false, kemSeed := [], initBody := [], lastRecordUs := s.clockUs,
      sessions := (s.sec.sessions + 1) % 2 ^ 16 } }

theorem doSessionAccept_of_initSent {s : State} (h : s.sec.session = .initSent) (hi : s.sec.inbox = [])
    (body : List Byte) : doSessionAccept body s = (established s body).sendKeyRequests := by
  rw [doSessionAccept, takeInbox_of_empty hi]
  exact if_neg (by simp [h])

theorem doSessionAccept_of_other {s : State} (h : s.sec.session ≠ .initSent) (hi : s.sec.inbox = [])
    (body : List Byte) : doSessionAccept body s = s.tagFail := by
  rw [doSessionAccept, takeInbox_of_empty hi]
  exact if_pos (bne_iff_ne.mpr h)

theorem sendRecord_of_not_established {s : State} (h : s.sec.session ≠ .established) (inner : List Byte) :
    s.sendRecord inner = s := if_pos (bne_iff_ne.mpr h)

/-- Settles O13: each message and timer by the state of the session that meets it. -/
theorem custodianSessionsActOnTheirMessages : Obligations.CustodianSessionsActOnTheirMessages := by
  refine ⟨fun s body r => ⟨fun h => next_eq (doSessionInit_of_not ?_), fun h => ⟨fun ht => ?_, fun ht => ?_, fun hi => ?_⟩,
    fun h hi => ⟨next_eq (if_neg fun hx => h (timer_iff.mp hx).1), next_eq (doSessionAccept_of_other h hi body),
      next_eq (doSessionReject_of_other h hi r)⟩, fun h ht => ?_, fun h => ?_, fun h => next_eq (if_pos h),
    fun h => next_eq (if_neg (Nat.not_le.mpr h))⟩,
    fun s body reason label key => ⟨fun h hlc hb hr ho => ?_, fun h hi hl => ?_, fun h hi => ?_, fun h ht => ?_,
      fun h hi => ?_⟩⟩
  -- SESSION_INIT refused
  · rintro ⟨hnone, hlc, hb, hr, hleaf⟩
    simp [hnone, hlc, hb, hr, hleaf] at h
  -- in INIT_SENT
  · exact next_eq (if_pos (timer_iff.mpr ⟨h, ht⟩))
  · exact next_eq (if_neg fun hx => Nat.not_le.mpr ht (timer_iff.mp hx).2)
  · exact ⟨_, next_eq (doSessionReject_of_initSent h hi r), rfl⟩
  -- the time-out
  · exact ⟨_, next_eq (if_pos (timer_iff.mpr ⟨h, ht⟩)), rfl, rfl, rfl, rfl, rfl, rfl, rfl⟩
  · refine next_eq (if_neg fun hx => ?_)
    obtain ⟨hs, ht⟩ := timer_iff.mp hx
    exact h.elim (· hs) (Nat.not_lt.mpr ht)
  -- SESSION_INIT
  · have hleaf : s.leafLeft = true := by simp [State.leafLeft, ho]
    obtain ⟨seed, body, ht⟩ := buildInit_of_open ho
    exact ⟨_, next_eq (doSessionInit_of_built ⟨h, hlc, hb, hr, hleaf⟩ ht), rfl, rfl, rfl, rfl, rfl, rfl⟩
  -- SESSION_ACCEPT
  · exact next_eq ((doSessionAccept_of_initSent h hi body).trans (sendKeyRequests_of_none_missing hl))
  -- the messages of an established session
  · exact ⟨next_eq (inner_of_established h hi ..), next_eq (inner_of_established h hi ..), _,
      next_eq (inner_of_established h hi ..), rfl, rfl, rfl, rfl⟩
  · exact next_eq (if_pos ht)
  -- and of any other
  · have hrow (type : Byte) (k : State → State) : (.next (s.inner type k) : Out) = .next s :=
      next_eq (inner_of_not_established h hi type k)
    refine ⟨hrow _ _, hrow _ _, hrow _ _, hrow _ _, hrow _ _, next_eq ?_⟩
    rw [sendRecord_of_not_established h]
    exact ite_self _

end Sys2Proof.Proofs

/-! PROOFS. Custodian frames (R349, R416), debug tokens (R369), and the log of security events (R305). -/

namespace Sys2Proof.Proofs

-- One declaration after another, as in the laws: each waiting thread counts against the check's memory.
set_option Elab.async false

open Sys2Proof Sys2Proof.Machine Sys2Proof.Laws

/-! ### Frames (R349, R416) -/

section

variable {s : State} {f : CustFrame}

theorem doCustodianFrame_of_dropped (h : f.fcsOk = false ∨ f.etherType ≠ 0x88B5 ∨ s.fw.mcHeld = true) :
    doCustodianFrame f s = s := by
  refine if_pos ?_
  simp only [Bool.or_eq_true, Bool.not_eq_true', bne_iff_ne, or_assoc]
  exact h

variable (hfcs : f.fcsOk = true) (hether : f.etherType = 0x88B5) (hheld : s.fw.mcHeld = false)

include hfcs hether hheld

theorem not_dropped : ¬(!f.fcsOk || f.etherType != 0x88B5 || s.fw.mcHeld) = true := by
  rw [hfcs, hether, hheld]
  decide

theorem doCustodianFrame_of_bad_header (h : f.magic ≠ 0x5543 ∨ f.version ≠ 1 ∨ f.len < 8 ∨ 16384 < f.len) :
    doCustodianFrame f s = { s with sec := { s.sec with peer := f.source } } := by
  refine (if_neg (not_dropped hfcs hether hheld)).trans (if_pos ?_)
  simp only [Bool.or_eq_true, bne_iff_ne, decide_eq_true_eq, or_assoc]
  exact h

theorem doCustodianFrame_of_first (hmagic : f.magic = 0x5543) (hversion : f.version = 1) (hlo : 8 ≤ f.len)
    (hhi : f.len ≤ 16384) (hr : s.sec.reassembly = none) (hl : f.last = false) : doCustodianFrame f s =
      { s with sec := { s.sec with
          peer := f.source
          reassembly := some { msgId := f.msgId, length := f.len, frags := [(f.off, f.bytes)], sawLast := false,
                               startUs := s.clockUs } } } := by
  refine (if_neg (not_dropped hfcs hether hheld)).trans ((if_neg ?_).trans ?_)
  · simp only [hmagic, hversion, bne_self_eq_false, Bool.false_or, Bool.or_eq_true, decide_eq_true_eq]
    omega
  · simp only [hr, hl]
    rfl

end

/-! ### Debug tokens (R369) -/

section

variable {s : State} (tok : List Byte)

theorem tokenShut_iff : (s.lc != 3 || decide (s.sec.rejected ≥ 3)) = true ↔ s.pewter.lcState ≠ 3 ∨ 3 ≤ s.sec.rejected := by
  rw [Bool.or_eq_true, bne_iff_ne, decide_eq_true_eq, State.lc]

theorem doDbgToken_of_shut (h : s.pewter.lcState ≠ 3 ∨ 3 ≤ s.sec.rejected) : doDbgToken tok s = s.emit (.debug false) :=
  if_pos (tokenShut_iff.mpr h)

theorem doDbgToken_of_open (hlc : s.pewter.lcState = 3) (hr : s.sec.rejected < 3) : doDbgToken tok s =
    if s.tokenOk tok then
      (({ s with sec := { s.sec with unlocked := true } } : State).reportSecurity .degraded 0x36 1 0 0).emit (.debug true)
    else
      (({ s with
          free := s.free + 4
          sec := { s.sec with rejected := s.sec.rejected + 1, challenge := s.fresh256.1 } } : State).reportSecurity
            .degraded 0x36 0 0 0).emit (.debug false) :=
  if_neg fun h => (tokenShut_iff.mp h).elim (· hlc) (Nat.not_le.mpr hr)

end

/-! ### The log of security events (R305) -/

section

variable {s : State}

theorem logHeld_iff : (s.pewter.seq != .idle || s.pewter.op.isSome || s.pewter.brownout) = true ↔
    s.pewter.seq ≠ .idle ∨ s.pewter.op.isSome = true ∨ s.pewter.brownout = true := by
  rw [Bool.or_eq_true, Bool.or_eq_true, bne_iff_ne, or_assoc]

theorem doSecurityEventLogProgram_of_none (h : s.pewter.secQueue = []) : doSecurityEventLogProgram s = s := by
  simp only [doSecurityEventLogProgram, h]

theorem doSecurityEventLogProgram_of_held (h : s.pewter.seq ≠ .idle ∨ s.pewter.op.isSome = true ∨ s.pewter.brownout = true) :
    doSecurityEventLogProgram s = s := by
  unfold doSecurityEventLogProgram
  split
  · rfl
  · exact if_pos (logHeld_iff.mpr h)

variable {k w : Nat} {rest : List (Nat × Nat)} (hq : s.pewter.secQueue = (k, w) :: rest) (hseq : s.pewter.seq = .idle)
  (hop : s.pewter.op = none) (hb : s.pewter.brownout = false)

include hq hseq hop hb

theorem doSecurityEventLogProgram_of_free : doSecurityEventLogProgram s =
    if 1504 ≤ s.pewter.secLogged then { s with pewter := { s.pewter with secQueue := rest } }
    else { s with pewter := { ({ s.pewter with secQueue := rest } : Pewter).program
      (pwtVaultBase + 8 * (6688 + s.pewter.secLogged))
      (BitVec.ofNat 128 (k + 2 ^ 8 * w + 2 ^ 32 * (s.strokeNow % 2 ^ 32))) false with
        secLogged := s.pewter.secLogged + 1 } } := by
  simp only [doSecurityEventLogProgram, hq]
  exact if_neg fun h => by simp [hseq, hop, hb] at h

theorem doSecurityEventLogProgram_of_full (h : 1504 ≤ s.pewter.secLogged) : doSecurityEventLogProgram s =
    { s with pewter := { s.pewter with secQueue := rest } } :=
  (doSecurityEventLogProgram_of_free hq hseq hop hb).trans (if_pos h)

theorem doSecurityEventLogProgram_of_room (h : s.pewter.secLogged < 1504) : ∃ p : Pewter,
    doSecurityEventLogProgram s = { s with pewter := { s.pewter with
      words := p.words, secQueue := rest, secLogged := s.pewter.secLogged + 1 } } ∧
      p.programmed (pwtVaultBase + 8 * (6688 + s.pewter.secLogged)) = true := by
  refine ⟨_, (doSecurityEventLogProgram_of_free hq hseq hop hb).trans (if_neg (Nat.not_le.mpr h)), ?_⟩
  rw [programmed_program, beq_self_eq_true, Bool.true_or]

end

/-- Settles O15: a frame by its header, a token by the life-cycle and its count, an event by the array and the log's room. -/
theorem custodianFramesAndDebugTokens : Obligations.CustodianFramesAndDebugTokens := by
  refine ⟨fun s f => ⟨fun h => next_eq (doCustodianFrame_of_dropped h), fun hfcs hether hheld =>
      ⟨fun h => next_eq (doCustodianFrame_of_bad_header hfcs hether hheld h), fun hmagic hversion hlo hhi hr hl =>
        next_eq (doCustodianFrame_of_first hfcs hether hheld hmagic hversion hlo hhi hr hl)⟩,
      fun r hr ht => ?_, fun r hr ht => ?_, fun hr => ?_⟩,
    fun s tok => ⟨fun h => next_eq (doDbgToken_of_shut tok h), fun hlc hr => next_eq (doDbgToken_of_open tok hlc hr),
      fun h => next_eq (h.elim doSecurityEventLogProgram_of_none doSecurityEventLogProgram_of_held),
      fun k w rest hq hseq hop hb => ⟨fun h => next_eq (doSecurityEventLogProgram_of_full hq hseq hop hb h),
        fun h => ?_⟩⟩⟩
  -- the reassembly's time
  · exact next_eq (by simp only [hr, if_pos ht])
  · exact next_eq (by simp only [hr, if_neg (Nat.not_le.mpr ht)])
  · exact next_eq (by simp only [hr])
  -- a word of the log
  · obtain ⟨p, hp, hprog⟩ := doSecurityEventLogProgram_of_room hq hseq hop hb h
    exact ⟨_, next_eq hp, rfl, rfl, hprog, rfl⟩

end Sys2Proof.Proofs

/-! PROOFS. The host port: MSI-X masks (R432), controllers (R29, R373, R381, R384, R395), doorbells and fetching (R378, R388,
R393), and host reads that fail (R34, R376). -/

namespace Sys2Proof.Proofs

-- One declaration after another, as in the laws: each waiting thread counts against the check's memory.
set_option Elab.async false

open Sys2Proof Sys2Proof.Machine Sys2Proof.Laws

/-! ### Updates of a controller -/

theorem modCtrl_modCtrl (s : State) (c : Ctrl) (f g : Controller → Controller) :
    (s.modCtrl c f).modCtrl c g = s.modCtrl c fun x => g (f x) := by
  rw [State.modCtrl, modCtrl_get]
  simp only [State.modCtrl, Vector.set_set]

/-! ### MSI-X (R432) -/

theorem foldl_emit {α : Type} (o : α → Output) (l : List α) (s : State) :
    l.foldl (fun s x => s.emit (o x)) s = { s with out := s.out ++ l.map o } := by
  induction l generalizing s with
  | nil => simp
  | cons x l ih => rw [List.foldl_cons, ih, State.emit, List.map_cons, List.append_assoc, List.singleton_append]

theorem msixFlush_of_disabled {s : State} {c : Ctrl} (h : s.ctrls[c].msixEnable = false) : s.msixFlush c = s :=
  if_pos (by rw [h]; rfl)

theorem msixFlush_of_open {s : State} {c : Ctrl} (h : s.ctrls[c].msixEnable = true) (hm : s.ctrls[c].msixMask = false) :
    s.msixFlush c = { s.modCtrl c fun f => { f with pba := f.pba.filter fun v => !f.unmasked.contains v } with
      out := s.out ++ (s.ctrls[c].pba.filter s.ctrls[c].unmasked.contains).map fun v => Output.msix c v } := by
  refine (if_neg (by rw [h, hm]; decide)).trans ?_
  rw [foldl_emit]
  rfl

/-- After an update that leaves the vectors enabled and the function unmasked, what is pending and open is sent. -/
theorem msixFlush_modCtrl {s : State} {c : Ctrl} {f : Controller → Controller} (h : (f s.ctrls[c]).msixEnable = true)
    (hm : (f s.ctrls[c]).msixMask = false) : (s.modCtrl c f).msixFlush c =
      { s with
        ctrls := s.ctrls.set c { f s.ctrls[c] with
          pba := (f s.ctrls[c]).pba.filter fun v => !(f s.ctrls[c]).unmasked.contains v }
        out := s.out ++ ((f s.ctrls[c]).pba.filter (f s.ctrls[c]).unmasked.contains).map fun v => Output.msix c v } := by
  rw [← modCtrl_get s c f] at h hm
  rw [msixFlush_of_open h hm, modCtrl_modCtrl, modCtrl_get]
  rfl

/-- Settles O8: the update of the mask, then what is sent by the enable and the function mask. -/
theorem unmaskedVectorsAreSentOnce : Obligations.UnmaskedVectorsAreSentOnce :=
  fun s _ _ => ⟨fun h hm => next_eq (msixFlush_modCtrl h hm),
    fun h => next_eq (msixFlush_of_disabled (by rwa [modCtrl_get])),
    fun h => next_eq (msixFlush_modCtrl (s := s) (f := fun f => { f with msixMask := false }) h rfl)⟩

/-! ### Controllers (R29, R373, R381, R384, R395) -/

section

variable {s : State} {c : Ctrl}

section

variable (css : BitVec 3) (sq cq : BitVec 4)

theorem doControllerEnable_of_not (h : s.present c = false ∨ s.ctrls[c].en = true) :
    doControllerEnable c css sq cq s = s :=
  if_pos (by simpa only [Bool.or_eq_true, Bool.not_eq_true'] using h)

theorem doControllerEnable_of_present (hp : s.present c = true) (he : s.ctrls[c].en = false) :
    doControllerEnable c css sq cq s = s.modCtrl c fun f =>
      let g : Controller := { f with en := true, css := css, iosqes := sq, iocqes := cq }
      if css != 0 || sq != 6 || cq != 4 then { g with cfs := true }
      else { g with
        sqs := [{ id := 0, size := bits f.aqa.toNat 11 0 + 1, cqid := 0, head := 0, tail := 0 }]
        cqs := [{ id := 0, size := bits f.aqa.toNat 27 16 + 1, vector := 0, ien := true, head := 0, tail := 0,
                  posted := [], waiting := [] }] } :=
  if_neg (by rw [hp, he]; decide)

theorem doControllerEnable_of_unsupported (hp : s.present c = true) (he : s.ctrls[c].en = false)
    (h : ¬(css = 0 ∧ sq = 6 ∧ cq = 4)) : doControllerEnable c css sq cq s = s.modCtrl c fun f =>
      { f with en := true, css := css, iosqes := sq, iocqes := cq, cfs := true } := by
  have hbad : (css != 0 || sq != 6 || cq != 4) = true := by
    simp only [Bool.or_eq_true, bne_iff_ne, or_assoc]
    tauto
  rw [doControllerEnable_of_present css sq cq hp he]
  simp only [hbad, if_true]

end

theorem controllerReady_iff : (s.ctrls[c].en && !s.ctrls[c].cfs && s.power.phase == .running) = true ↔
    s.ctrls[c].en = true ∧ s.ctrls[c].cfs = false ∧ s.power.phase = .running := by
  simp only [Bool.and_eq_true, Bool.not_eq_true', beq_iff_eq, and_assoc]

theorem doControllerShutdown_of_not {shn : BitVec 2} (h : s.present c = false ∨ shn = 0) :
    doControllerShutdown c shn s = s :=
  if_pos (by simpa only [Bool.or_eq_true, Bool.not_eq_true', beq_iff_eq] using h)

theorem doControllerShutdown_of_present {shn : BitVec 2} (hp : s.present c = true) (h : shn ≠ 0) :
    doControllerShutdown c shn s =
      let t := ((s.quenchController c).finishObjects c).modCtrl c fun f => { f with shn := shn, shst := 2 }
      if t.allShut then t.writeBackAll else t :=
  if_neg (by rw [hp, beq_false_of_ne h]; decide)

theorem doPerstBDeassert_of_split (h : s.power.split = true) : doPerstBDeassert s =
    let u : State := { s with power := { s.power with perstB := false } }
    if s.power.phase = .running then u.modCtrl 1 fun f => { f with linkUp := true } else u := by
  simp only [doPerstBDeassert, State.modPower, h, Bool.true_and, beq_iff_eq]

end

/-- Settles O5: enable, ready and shutdown by their conditions; each reset by what it keeps of its controller. -/
theorem controllersAreEnabledResetAndShutDown : Obligations.ControllersAreEnabledResetAndShutDown := by
  refine ⟨fun s c css sq cq => ⟨fun h => next_eq (doControllerEnable_of_not css sq cq h),
      fun hp he => next_eq (doControllerEnable_of_present 0 6 4 hp he),
      fun hp he h => next_eq (doControllerEnable_of_unsupported css sq cq hp he h),
      fun h => next_eq (if_pos (controllerReady_iff.mpr h)), fun h => next_eq (if_neg (h ∘ controllerReady_iff.mp))⟩,
    fun s c shn => ⟨fun h => next_eq (doControllerShutdown_of_not h),
      fun hp h => next_eq (doControllerShutdown_of_present hp h), rfl, rfl, fun h => ⟨next_eq ?_, next_eq ?_⟩,
      fun h => ⟨next_eq (if_pos h), next_eq (doPerstBDeassert_of_split h)⟩⟩⟩
  · exact if_neg (Bool.eq_false_iff.mp h)
  · exact if_neg (by simp [State.modPower, h])

/-! ### Doorbells and fetching (R378, R388, R389, R393) -/

section

variable {s : State} {c : Ctrl} {q : Nat}

theorem wakeForIo_of_operational (h : s.power.state < 3) : s.wakeForIo = s := if_neg (Nat.not_le.mpr h)

theorem slotsFull_of_free (h : q = 0 ∨ s.isC0Queue c q = true ∨ s.unreserved c < 49151) : s.slotsFull c q = false := by
  simp only [State.slotsFull, Bool.and_eq_false_iff, bne_eq_false_iff_eq, Bool.not_eq_false', decide_eq_false_iff_not,
    ge_iff_le, Nat.not_le, or_assoc]
  exact h

/-- The slots depend on the entries in flight and the Mold alone. -/
theorem slotsFull_modCtrl {f : Controller → Controller} (hf : ∀ x, (f x).inflight = x.inflight) :
    (s.modCtrl c f).slotsFull c q = s.slotsFull c q := by
  have hin : (s.modCtrl c f).unreserved c = s.unreserved c := by
    simp only [State.unreserved, modCtrl_get, hf]
    rfl
  rw [State.slotsFull, hin]
  rfl

theorem doSqDoorbell_of_unknown (v : Nat) (h : s.ctrls[c].sqs.find? (fun x => x.id == q) = none) :
    doSqDoorbell c q v s = s := by
  simp only [doSqDoorbell, h]

variable {x : SubQueue} (hx : s.ctrls[c].sqs.find? (fun x => x.id == q) = some x)

section

include hx

theorem doSqDoorbell_of_bad_tail {v : Nat} (hv : x.size ≤ v) : doSqDoorbell c q v s = s := by
  simp only [doSqDoorbell, hx]
  exact if_pos hv

theorem doSqDoorbell_of_tail {v : Nat} (hv : v < x.size)
    (hfree : q = 0 ∨ s.isC0Queue c q = true ∨ s.unreserved c < 49151) (hp : s.power.state < 3) :
    doSqDoorbell c q v s = s.modCtrl c fun f =>
      { f with sqs := updWhere f.sqs (fun x => x.id == q) fun x => { x with tail := v } } := by
  simp only [doSqDoorbell, hx, ge_iff_le, Nat.not_le.mpr hv, slotsFull_modCtrl, implies_true, slotsFull_of_free hfree,
    Bool.false_eq_true, if_false]
  exact ite_eq_left_iff.mpr fun _ => wakeForIo_of_operational hp

end

section

variable {e : Sqe}

theorem doFetched_of_waiting (hq : e.key.sqid ≠ 0) (hw : s.ioWaits = true)
    (hx : (s.ctrls[e.key.ctrl].sqs.find? (fun x => x.id == e.key.sqid)).isSome = true) : doFetched e s = s.wakeForIo := by
  obtain ⟨x, hx⟩ := Option.isSome_iff_exists.mp hx
  simp only [doFetched, hx]
  exact if_pos (by rw [bne_iff_ne.mpr hq, hw]; decide)

/-- An entry is fetched: the head of its queue advances, it is in flight, and the turn is its queue's. -/
def entryFetched (s : State) (e : Sqe) : State :=
  s.modCtrl e.key.ctrl fun f =>
    { f with
      sqs := updWhere f.sqs (fun x => x.id == e.key.sqid) fun x => { x with head := (x.head + 1) % x.size }
      inflight := f.inflight ++ [e], turn := if e.key.sqid = 0 then f.turn else e.key.sqid }

/-- No entry has to wait for a slot, the first boundary or an exit from PS3 or PS4. -/
def mayFetch (s : State) (c : Ctrl) (q : Nat) : Prop :=
  q = 0 ∨ (s.isC0Queue c q = true ∨ s.unreserved c < 49151) ∧ s.ioHeld c < 65535 ∧ s.ioWaits = false

theorem doFetched_of_free (hx : s.ctrls[e.key.ctrl].sqs.find? (fun x => x.id == e.key.sqid) = some x)
    (hne : x.head ≠ x.tail) (hshn : s.ctrls[e.key.ctrl].shn = 0) (hmay : mayFetch s e.key.ctrl e.key.sqid)
    (hop : opcodeOk e = true) : doFetched e s = entryFetched s e := by
  have hslots : s.slotsFull e.key.ctrl e.key.sqid = false :=
    slotsFull_of_free (hmay.imp_right And.left)
  have hwaits : (e.key.sqid != 0 && s.ioWaits) = false := by
    rcases hmay with h | ⟨-, -, h⟩
    · simp [h]
    · simp [h]
  have hheld : (e.key.sqid != 0 && decide (s.ioHeld e.key.ctrl ≥ 65535)) = false := by
    rcases hmay with h | ⟨-, h, -⟩
    · simp [h]
    · simp [Nat.not_le.mpr h]
  simp only [doFetched, hx, hwaits, hslots, hheld, hshn, hop, beq_false_of_ne hne, bne_self_eq_false, Bool.or_self,
    Bool.false_eq_true, if_false, if_true, beq_iff_eq]
  rfl

end

section

omit hx

theorem doCqDoorbell_of_idle {v : Nat} {x : CompQueue} (hx : s.ctrls[c].cqs.find? (fun x => x.id == q) = some x)
    (hv : v < x.size) (hw : x.waiting = []) : doCqDoorbell c q v s = s.modCtrl c fun f =>
      { f with cqs := updWhere f.cqs (fun x => x.id == q) fun x => { x with head := v } } := by
  simp only [doCqDoorbell, hx, hw]
  exact if_neg (Nat.not_le.mpr hv)

theorem doSlotsFreed_of_paused {n : Nat} (hn : nextPaused s.ctrls[c].paused s.ctrls[c].turn = some n)
    (h : s.unreserved c < 49151) : doSlotsFreed c s = s.modCtrl c fun f =>
      { f with paused := f.paused.filter fun x => x != n, turn := n } := by
  simp only [doSlotsFreed, hn]
  exact if_neg (Nat.not_le.mpr h)

theorem doSlotsFreed_of_none_paused (h : s.ctrls[c].paused = []) : doSlotsFreed c s = s := by
  simp only [doSlotsFreed, h]
  rfl

end

end

/-! ### Host reads that fail (R34, R376) -/

section

variable {s : State} {k : Key} (fin : State → State)

theorem holdsCommand_iff : (s.ctrls[k.ctrl].inflight.any fun e => e.key == k) = true ↔
    ∃ e ∈ s.ctrls[k.ctrl].inflight, e.key = k := by
  simp only [List.any_eq_true, beq_iff_eq]

theorem hostReadFailed_of_unknown (h : ∀ e ∈ s.ctrls[k.ctrl].inflight, e.key ≠ k) : s.hostReadFailed k fin = s :=
  if_neg fun hx => by
    obtain ⟨e, he, hk⟩ := holdsCommand_iff.mp hx
    exact h e he hk

theorem hostReadFailed_of_held (h : ∃ e ∈ s.ctrls[k.ctrl].inflight, e.key = k) (hl : s.mold.loading = none) :
    s.hostReadFailed k fin = fin { s.modCtrl k.ctrl fun f => { f with aerLogged := f.aerLogged + 1 } with
      search := { s.search with puts := s.search.puts.filter fun p => p.key != k } } := by
  refine (if_pos (holdsCommand_iff.mpr h)).trans ?_
  simp only [modCtrl_mold, hl, modCtrl_search]

end

/-- Settles O7: a doorbell by its queue and value, an entry by what lets it be fetched, a failed read by its command. -/
theorem doorbellsFetchAndFailedReads : Obligations.DoorbellsFetchAndFailedReads := by
  refine ⟨fun s c q v => ⟨fun x hx hv hfree hp => next_eq (doSqDoorbell_of_tail hx hv hfree hp),
      fun h => next_eq (doSqDoorbell_of_unknown v h), fun x hx hv => next_eq (doSqDoorbell_of_bad_tail hx hv), ?_, ?_,
      fun x hx hv hw => next_eq (doCqDoorbell_of_idle hx hv hw), fun n hn h => next_eq (doSlotsFreed_of_paused hn h),
      fun h => next_eq (doSlotsFreed_of_none_paused h)⟩,
    fun s k => ⟨fun h => ⟨next_eq (hostReadFailed_of_unknown _ h), next_eq (hostReadFailed_of_unknown _ h)⟩,
      fun h hl => ⟨next_eq (hostReadFailed_of_held _ h hl), next_eq (hostReadFailed_of_held _ h hl)⟩⟩⟩
  · rintro e x rfl rfl hx hne hshn hmay hop
    exact next_eq (doFetched_of_free hx hne hshn hmay hop)
  · rintro e rfl rfl hq hw hx
    exact next_eq (doFetched_of_waiting hq hw hx)

end Sys2Proof.Proofs

/-! PROOFS. PTM and IDE_KM (R375, R377), SPDM (R357, R361, R372, R413), features (R381, Table 15-7), Identify (R380) and log pages
(R425, R426). -/

namespace Sys2Proof.Proofs

-- One declaration after another, as in the laws: each waiting thread counts against the check's memory.
set_option Elab.async false

open Sys2Proof Sys2Proof.Machine Sys2Proof.Laws

/-! ### PTM (R375) -/

section

variable {s : State}

/-- PTM is enabled and the link of controller 0 is up. -/
def ptmUp (s : State) : Prop := s.ctrls[(0 : Ctrl)].ptmEnable = true ∧ s.ctrls[(0 : Ctrl)].linkUp = true

theorem ptmDue_iff : s.ptmDue = true ↔
    ∀ t, s.grid.ptmIssueUs = some t → t + (if s.grid.lock = .acquiring then 1000 else 10000) ≤ s.clockUs := by
  unfold State.ptmDue State.ptmEvery
  split
  next t ht => simp only [ht, Option.some.injEq, forall_eq', beq_iff_eq, decide_eq_true_eq]
  next hnone => simp [hnone]

theorem ptmIssues_iff : (s.ctrls[(0 : Ctrl)].ptmEnable && s.ctrls[(0 : Ctrl)].linkUp && s.ptmDue) = true ↔
    ptmUp s ∧ s.ptmDue = true := by
  simp only [ptmUp, Bool.and_eq_true]

theorem doPtmComplete_of_down (h : ¬ptmUp s) (m d : Nat) : doPtmComplete m d s = s := by
  refine if_pos ?_
  rw [ptmUp, not_and_or, Bool.not_eq_true, Bool.not_eq_true] at h
  simp only [Bool.or_eq_true, Bool.not_eq_true', or_assoc]
  exact .inr h

theorem doPtmComplete_of_out (h : ptmUp s) (ho : s.grid.ptmOut = true) (m d : Nat) : doPtmComplete m d s =
    if 10000 < d then { s with grid := { s.grid with ptmOut := false } }
    else { s with grid := { s.grid with ptmOut := false, ptmTime := m + d, ptmLastUs := some s.clockUs } } := by
  refine if_neg ?_
  rw [ho, h.1, h.2]
  decide

end

/-! ### SPDM (R357, R361) -/

section

variable {s : State} {p : SpdmPort}

/-- Requests of a port reach the responder. -/
def reaches (s : State) (p : SpdmPort) : Bool :=
  match p with
  | .mctp => s.bmc.answers
  | .doe c => s.present c

theorem atPort_of_unreached (h : reaches s p = false) (k : State → State) : s.atPort p k = s := by
  cases p <;> exact if_neg (Bool.eq_false_iff.mp h)

theorem atPort_of_reached (h : reaches s p = true) (k : State → State) : s.atPort p k = k s := by
  cases p <;> exact if_pos h

theorem doSpdmChallenge_of_no_algs (h : (s.conn p).algs = false) (slot : Byte) (nonce : List Byte) :
    doSpdmChallenge p slot nonce s = s.emit (.spdm p 0x7F [0x04]) := if_pos (by rw [h]; rfl)

theorem doSpdmChallenge_of_unbuilt (h : (s.conn p).algs = true) (hlc : s.pewter.lcState ≠ 0) (hr : s.sec.rebuilt = false)
    (nonce : List Byte) : doSpdmChallenge p 0xFF nonce s =
      { s with
        free := s.free + 4
        sec := { s.sec with waiting := s.sec.waiting ++
          [.challenge p (le 1 0xFF ++ nonce ++ ([0, 1, 2, 3].flatMap fun i => le 8 (Config.freeWord (s.free + i)).toNat))] } } := by
  have hslot : ((0xFF : Byte) != 0xFF || s.lc == 0) = false := by
    rw [bne_self_eq_false, Bool.false_or, State.lc, beq_false_of_ne hlc]
  refine (if_neg (by rw [h]; decide)).trans ((if_neg (Bool.eq_false_iff.mp hslot)).trans ?_)
  exact if_neg (Bool.eq_false_iff.mp hr)

theorem doSpdmMeasurements_of_no_algs (h : (s.conn p).algs = false) (index : Byte) (sign : Bool) (nonce : List Byte) :
    doSpdmMeasurements p index sign nonce s = s.emit (.spdm p 0x7F [0x04]) := if_pos (by rw [h]; rfl)

section

variable (h : (s.conn p).algs = true) {index : Byte} (nonce : List Byte)

include h

theorem doSpdmMeasurements_of_held (sign : Bool) (hi : index = 5 ∨ index = 255) (hw : s.pewter.readWaits .vault = true) :
    doSpdmMeasurements p index sign nonce s = s.waitRead (.measure p index sign nonce) := by
  refine (if_neg (by rw [h]; decide)).trans (if_pos ?_)
  rw [hw, Bool.and_true, Bool.or_eq_true, beq_iff_eq, beq_iff_eq]
  exact hi

theorem doSpdmMeasurements_of_unsigned (hi : (index ≠ 5 ∧ index ≠ 255) ∨ s.pewter.readWaits .vault = false) {b : List Byte}
    (hb : s.measurementBlocks index.toNat = some b) : doSpdmMeasurements p index false nonce s = s.emit (.spdm p 0x60 b) := by
  refine (if_neg (by rw [h]; decide)).trans ((if_neg ?_).trans ?_)
  · rw [Bool.and_eq_true, Bool.or_eq_true, beq_iff_eq, beq_iff_eq]
    rintro ⟨h5, hw⟩
    exact hi.elim (fun hne => h5.elim hne.1 hne.2) (Bool.eq_false_iff.mp · hw)
  · simp only [hb]
    rfl

end

end

/-- Settles O9: PTM by its link and its interval; SPDM by the port and the step its connection has reached. -/
theorem ptmIdeAndSpdmDialogs : Obligations.PtmIdeAndSpdmDialogs := by
  refine ⟨fun s c sel key port m d => ⟨⟨fun hup hdue => ?_, fun hdue => ?_⟩, fun hup => ⟨?_, ?_⟩,
    fun hup ho => ⟨fun hd => ?_, fun hd => ?_⟩, rfl, rfl, rfl, rfl⟩, fun s p code index slot sign nonce => ?_⟩
  -- PTM
  · exact next_eq (if_pos (ptmIssues_iff.mpr ⟨hup, ptmDue_iff.mpr hdue⟩))
  · exact next_eq (if_neg fun h => hdue (ptmDue_iff.mp (ptmIssues_iff.mp h).2))
  · exact next_eq (if_neg fun h => hup (ptmIssues_iff.mp h).1)
  · exact next_eq (doPtmComplete_of_down hup m d)
  · exact next_eq ((doPtmComplete_of_out hup ho m d).trans (if_neg (Nat.not_lt.mpr hd)))
  · exact next_eq ((doPtmComplete_of_out hup ho m d).trans (if_pos hd))
  -- SPDM
  · intro here
    have hhere : here = reaches s p := by cases p <;> rfl
    rw [hhere]
    refine ⟨fun h => ?_, fun h => ?_⟩
    · have hrow (k : State → State) : (.next (s.atPort p k) : Out) = .next s := next_eq (atPort_of_unreached h k)
      exact ⟨hrow _, hrow _, hrow _, hrow _, hrow _, hrow _⟩
    · have hrow {k : State → State} {t : State} (hk : k s = t) : (.next (s.atPort p k) : Out) = .next t :=
        next_eq ((atPort_of_reached h k).trans hk)
      exact ⟨hrow rfl, hrow rfl, fun hv => hrow (if_pos hv), fun hv => hrow (if_neg (Bool.eq_false_iff.mp hv)),
        fun hc => hrow (if_pos hc), fun hc => hrow (if_neg (Bool.eq_false_iff.mp hc)),
        fun ha => ⟨hrow (doSpdmChallenge_of_no_algs ha slot nonce),
          hrow (doSpdmMeasurements_of_no_algs ha index sign nonce)⟩,
        fun ha hi hw => hrow (doSpdmMeasurements_of_held ha nonce sign hi hw),
        fun ha hi b hb => hrow (doSpdmMeasurements_of_unsigned ha nonce hi hb),
        fun ha hlc hr => hrow (doSpdmChallenge_of_unbuilt ha hlc hr nonce)⟩

/-! ### Features (R381, Table 15-7) -/

section

variable {s : State} {e : Sqe}

theorem doSetFeatures_of_power (d : List Byte) (h : bits e.cdw10.toNat 7 0 = 0x02) : doSetFeatures e d s =
    if bits e.cdw11.toNat 4 0 ≤ 4 then
      ((s.modCtrl e.key.ctrl fun f => { f with pmState := bits e.cdw11.toNat 4 0 }).followRequest).success e.key 0 0 []
    else s.nvme e.key 0 0x02 true := by
  simp only [doSetFeatures, h]
  rfl

theorem doSetFeatures_of_queues (d : List Byte) (h : bits e.cdw10.toNat 7 0 = 0x07)
    (hlo : bits e.cdw11.toNat 15 0 ≠ 65535) (hhi : bits e.cdw11.toNat 31 16 ≠ 65535) : doSetFeatures e d s =
      let n := min (bits e.cdw11.toNat 15 0) 1023 + 65536 * min (bits e.cdw11.toNat 31 16) 1023
      (s.modCtrl e.key.ctrl fun f => { f with numQueues := BitVec.ofNat 32 n }).success e.key n 0 [] := by
  simp only [doSetFeatures, h]
  exact if_neg (by rw [beq_false_of_ne hlo, beq_false_of_ne hhi]; decide)

theorem doSetFeatures_of_vector (d : List Byte) (h : bits e.cdw10.toNat 7 0 = 0x09)
    (hv : bits e.cdw11.toNat 15 0 ≤ 2047) : doSetFeatures e d s =
      (s.modCtrl e.key.ctrl fun f =>
        { f with vectorConfig := assocSet f.vectorConfig (bits e.cdw11.toNat 15 0) (bit e.cdw11.toNat 16) }).success
          e.key 0 0 [] := by
  simp only [doSetFeatures, h]
  exact if_neg (Nat.not_lt.mpr hv)

/-- What a feature that only stores its value does to its controller. -/
def storedFeature (s : State) (e : Sqe) (d : List Byte) : Nat → Option (Controller → Controller)
  | 0x08 => some fun f => { f with coalescing := e.cdw11 }
  | 0x0B => some fun f => { f with asyncConfig := e.cdw11 }
  | 0x0C => some fun f => { f with apstEnable := bit e.cdw11.toNat 0, apstTable := apstEntries d }
  | 0x0E => some fun f => { f with timestamp := BitVec.ofNat 64 (field d 0 6), timestampAt := s.clockUs }
  | _ => none

theorem doSetFeatures_of_stored {d : List Byte} {n : Nat} {f : Controller → Controller}
    (h : bits e.cdw10.toNat 7 0 = n) (hf : storedFeature s e d n = some f) :
    doSetFeatures e d s = (s.modCtrl e.key.ctrl f).success e.key 0 0 [] := by
  unfold storedFeature at hf
  split at hf
  case h_5 => cases hf
  all_goals
    obtain rfl := Option.some.inj hf
    simp only [doSetFeatures, h]

theorem doSetFeatures_of_unlisted (d : List Byte)
    (h : bits e.cdw10.toNat 7 0 ∉ [0x02, 0x07, 0x08, 0x09, 0x0B, 0x0C, 0x0E]) :
    doSetFeatures e d s = s.nvme e.key 0 0x02 true := by
  unfold doSetFeatures
  extract_lets c k v set
  split
  case h_8 => rfl
  all_goals next heq => exact absurd (by rw [heq]; decide) h

theorem feature_of_unlisted {c : Ctrl} {n v : Nat} (h : n ∉ [0x01, 0x02, 0x07, 0x08, 0x09, 0x0B, 0x0C, 0x0E]) :
    s.feature c n v = none := by
  unfold State.feature
  split
  case h_9 => rfl
  all_goals exact absurd (by decide) h

theorem doGetFeatures_of_some {x : Nat × List Byte}
    (h : s.feature e.key.ctrl (bits e.cdw10.toNat 7 0) e.cdw11.toNat = some x) :
    doGetFeatures e s = s.success e.key x.1 0 x.2 := by
  simp only [doGetFeatures, h]

theorem doGetFeatures_of_none (h : s.feature e.key.ctrl (bits e.cdw10.toNat 7 0) e.cdw11.toNat = none) :
    doGetFeatures e s = s.nvme e.key 0 0x02 true := by
  simp only [doGetFeatures, h]
  rfl

/-! ### Identify and log pages (R380, R425, R426) -/

theorem identifyPage_of_unlisted {c n : Nat} (h : n ∉ [0x01, 0x02, 0xC0]) : s.identifyPage c n = none := by
  unfold State.identifyPage
  split
  case h_4 => rfl
  all_goals exact absurd (by decide) h

theorem doIdentify_of_some {p : List Byte} (h : s.identifyPage e.key.ctrl.val (bits e.cdw10.toNat 7 0) = some p) :
    doIdentify e s = s.success e.key 0 0 p := by
  simp only [doIdentify, h]

theorem doIdentify_of_none (h : s.identifyPage e.key.ctrl.val (bits e.cdw10.toNat 7 0) = none) :
    doIdentify e s = s.nvme e.key 0 0x02 true := by
  simp only [doIdentify, h]
  rfl

/-- The answer of the page that an entry names. -/
def namedPage (s : State) (e : Sqe) : LogAnswer := s.logPage (bits e.cdw10.toNat 7 0) (bits e.cdw11.toNat 31 16)

variable (poison : Option Nat)

theorem doGetLogPage_of_bad_offset (h : (e.cdw12.toNat + 2 ^ 32 * e.cdw13.toNat) % 4 ≠ 0) :
    doGetLogPage e poison s = s.nvme e.key 0 0x02 true := if_pos (bne_iff_ne.mpr h)

theorem doGetLogPage_of_invalid (hp : namedPage s e = .invalid) :
    doGetLogPage e poison s = s.nvme e.key 0 0x02 true := by
  rw [namedPage] at hp
  simp only [doGetLogPage, hp]
  exact ite_self _

variable (h : (e.cdw12.toNat + 2 ^ 32 * e.cdw13.toNat) % 4 = 0)

include h

theorem doGetLogPage_of_busy (hp : namedPage s e = .busy) : doGetLogPage e poison s = s.refuse e.key scCfgBusy := by
  rw [namedPage] at hp
  simp only [doGetLogPage, hp]
  exact if_neg (by rw [h]; decide)

theorem doGetLogPage_of_page {p : List Byte} (hp : namedPage s e = .page p) : doGetLogPage e poison s =
    (if bit e.cdw10.toNat 15 then s
      else s.modCtrl e.key.ctrl fun f => { f with
        aerSent := f.aerSent.filter fun ev => !eventRead (bits e.cdw10.toNat 7 0) (bits e.cdw11.toNat 31 16) ev }).sendData e.key 0 0
      (padTo (4 * (bits e.cdw10.toNat 31 16 + 65536 * bits e.cdw11.toNat 15 0 + 1))
        (p.drop (e.cdw12.toNat + 2 ^ 32 * e.cdw13.toNat))) poison := by
  rw [namedPage] at hp
  simp only [doGetLogPage, hp]
  exact if_neg (by rw [h]; decide)

end

/-- Settles O10: a feature by its identifier, a page by what answers for it. -/
theorem featuresAndPagesAreRead : Obligations.FeaturesAndPagesAreRead := by
  refine ⟨fun s e d => ?_, fun s e poison => ?_⟩
  · intro c fid v
    exact ⟨fun h hv => next_eq ((doSetFeatures_of_power d h).trans (if_pos hv)),
      fun h hv => next_eq ((doSetFeatures_of_power d h).trans (if_neg (Nat.not_le.mpr hv))),
      fun h hlo hhi => next_eq (doSetFeatures_of_queues d h hlo hhi), fun h => next_eq (doSetFeatures_of_stored h rfl),
      fun h hv => next_eq (doSetFeatures_of_vector d h hv), fun h => next_eq (doSetFeatures_of_stored h rfl),
      fun h => next_eq (doSetFeatures_of_stored h rfl), fun h => next_eq (doSetFeatures_of_stored h rfl),
      fun h => next_eq (doSetFeatures_of_unlisted d h), fun x h => next_eq (doGetFeatures_of_some h),
      fun h => next_eq (doGetFeatures_of_none (feature_of_unlisted h))⟩
  · intro lid lsi n off
    refine ⟨fun p h => next_eq (doIdentify_of_some h), fun h => next_eq (doIdentify_of_none (identifyPage_of_unlisted h)),
      fun p h hp hrae => next_eq ?_, fun p h hp hrae => next_eq ?_, fun h => next_eq ?_,
      fun h hp => next_eq (doGetLogPage_of_busy poison h hp)⟩
    · rw [doGetLogPage_of_page poison h hp, if_pos hrae]
    · rw [doGetLogPage_of_page poison h hp, if_neg (Bool.eq_false_iff.mp hrae)]
    · by_cases hoff : off % 4 = 0
      · exact doGetLogPage_of_invalid poison (h.resolve_left (not_not_intro hoff))
      · exact doGetLogPage_of_bad_offset poison hoff

end Sys2Proof.Proofs

/-! PROOFS. The admin queues, Abort and event requests (R383, R426, Table 15-7), and firmware images (R310, R362, R363, R382). -/

namespace Sys2Proof.Proofs

-- One declaration after another, as in the laws: each waiting thread counts against the check's memory.
set_option Elab.async false

open Sys2Proof Sys2Proof.Machine Sys2Proof.Laws

/-! ### Queues are made and removed (R383) -/

section

variable {s : State} {e : Sqe}

theorem any_id_iff {α : Type} {l : List α} {id : α → Nat} {q : Nat} :
    (l.any fun x => id x == q) = true ↔ ∃ x ∈ l, id x = q := by
  simp only [List.any_eq_true, beq_iff_eq]

theorem not_any_id {α : Type} {l : List α} {id : α → Nat} {q : Nat} (h : ∀ x ∈ l, id x ≠ q) :
    (l.any fun x => id x == q) = false :=
  Bool.eq_false_iff.mpr fun hx => by
    obtain ⟨x, hm, hid⟩ := any_id_iff.mp hx
    exact h x hm hid

section

variable (hlo : 1 ≤ bits e.cdw10.toNat 15 0) (hhi : bits e.cdw10.toNat 15 0 ≤ 1024)
  (hn : 2 ≤ bits e.cdw10.toNat 31 16 + 1) (hpc : bit e.cdw11.toNat 0 = true)

include hlo hhi hn hpc

theorem doCreateIoCq_of_new (hnew : ∀ x ∈ s.ctrls[e.key.ctrl].cqs, x.id ≠ bits e.cdw10.toNat 15 0)
    (hv : bits e.cdw11.toNat 31 16 ≤ 2047) : doCreateIoCq e s = (s.modCtrl e.key.ctrl fun f =>
      { f with cqs := f.cqs ++ [{ id := bits e.cdw10.toNat 15 0, size := bits e.cdw10.toNat 31 16 + 1,
                                  vector := bits e.cdw11.toNat 31 16, ien := bit e.cdw11.toNat 1, head := 0, tail := 0,
                                  posted := [], waiting := [] }] }).success e.key 0 0 [] := by
  have hq : (bits e.cdw10.toNat 15 0 == 0) = false := beq_false_of_ne (by omega)
  refine (if_neg ?_).trans ((if_neg (by omega)).trans ((if_neg (by omega)).trans (if_neg ?_)))
  · rw [not_any_id hnew, hq]
    simpa using hhi
  · rw [hpc]
    decide

theorem doCreateIoSq_of_new (hnew : ∀ x ∈ s.ctrls[e.key.ctrl].sqs, x.id ≠ bits e.cdw10.toNat 15 0)
    (hw : bits e.cdw11.toNat 31 16 ≠ 0) (hcq : ∃ x ∈ s.ctrls[e.key.ctrl].cqs, x.id = bits e.cdw11.toNat 31 16) :
    doCreateIoSq e s = (s.modCtrl e.key.ctrl fun f =>
      { f with sqs := f.sqs ++ [{ id := bits e.cdw10.toNat 15 0, size := bits e.cdw10.toNat 31 16 + 1,
                                  cqid := bits e.cdw11.toNat 31 16, head := 0, tail := 0 }] }).success e.key 0 0 [] := by
  have hq : (bits e.cdw10.toNat 15 0 == 0) = false := beq_false_of_ne (by omega)
  refine (if_neg ?_).trans ((if_neg (by omega)).trans ((if_neg ?_).trans (if_neg ?_)))
  · rw [not_any_id hnew, hq]
    simpa using hhi
  · rw [any_id_iff.mpr hcq, beq_false_of_ne hw]
    decide
  · rw [hpc]
    decide

end

theorem doDeleteIoSq_of_present (hq : bits e.cdw10.toNat 15 0 ≠ 0)
    (hx : ∃ x ∈ s.ctrls[e.key.ctrl].sqs, x.id = bits e.cdw10.toNat 15 0) : doDeleteIoSq e s =
      (s.modCtrl e.key.ctrl fun f =>
        { f with
          sqs := f.sqs.filter fun x => x.id != bits e.cdw10.toNat 15 0
          inflight := f.inflight.filter fun x => x.key.sqid != bits e.cdw10.toNat 15 0
          paused := f.paused.filter fun x => x != bits e.cdw10.toNat 15 0 }).success e.key 0 0 [] := by
  refine if_neg ?_
  rw [any_id_iff.mpr hx, beq_false_of_ne hq]
  decide

theorem doDeleteIoCq_of_unused (hq : bits e.cdw10.toNat 15 0 ≠ 0)
    (hx : ∃ x ∈ s.ctrls[e.key.ctrl].cqs, x.id = bits e.cdw10.toNat 15 0)
    (hfree : ∀ x ∈ s.ctrls[e.key.ctrl].sqs, x.cqid ≠ bits e.cdw10.toNat 15 0) : doDeleteIoCq e s =
      (s.modCtrl e.key.ctrl fun f =>
        { f with cqs := f.cqs.filter fun x => x.id != bits e.cdw10.toNat 15 0 }).success e.key 0 0 [] := by
  refine (if_neg ?_).trans (if_neg (Bool.eq_false_iff.mp (not_any_id hfree)))
  rw [any_id_iff.mpr hx, beq_false_of_ne hq]
  decide

theorem doAer_of_none_queued (h : s.ctrls[e.key.ctrl].aerQueued = []) (hn : s.ctrls[e.key.ctrl].aers.length < 8) :
    doAer e s = s.modCtrl e.key.ctrl fun f => { f with aers := f.aers ++ [e.key] } := by
  simp only [doAer, h]
  exact if_neg (Nat.not_le.mpr hn)

theorem doAer_of_queued {ev : Nat} {rest : List Nat} (h : s.ctrls[e.key.ctrl].aerQueued = ev :: rest) : doAer e s =
    (s.modCtrl e.key.ctrl fun f => { f with aerQueued := rest, aerSent := f.aerSent ++ [ev] }).success e.key ev 0 [] := by
  simp only [doAer, h]

end

/-! ### Firmware Image Download (R310, R382) -/

section

variable {s : State} {e : Sqe}

theorem doFirmwareDownload_of_melted (piece : List Byte) (h : s.pewter.lcState = 4) :
    doFirmwareDownload e piece s = s.refuse e.key scLifecycleDenied := if_pos (beq_iff_eq.mpr h)

theorem seq_foldl {α : Type} {f : Pewter → α → Pewter} (hf : ∀ p x, (f p x).seq = p.seq) (l : List α) (p : Pewter) :
    (l.foldl f p).seq = p.seq :=
  List.foldlRecOn (motive := fun q => q.seq = p.seq) l f rfl fun q hq x _ => (hf q x).trans hq

theorem seq_programBank (p : Pewter) (one : Bool) (off : Nat) (bs : List Byte) :
    (p.programBank one off bs).seq = p.seq := by
  refine seq_foldl (fun q i => ?_) _ p
  extract_lets d
  split
  · rfl
  · rfl

/-- Bytes of the piece that an entry brings, and its place in the image. -/
def pieceLen (e : Sqe) : Nat := 4 * (e.cdw10.toNat + 1)

def pieceOff (e : Sqe) : Nat := 4 * e.cdw11.toNat

/-- The pieces received that the piece of an entry joins. -/
def piecesBefore (s : State) (e : Sqe) : List (Nat × Nat) := if pieceOff e = 0 then [] else s.fw.pieces

/-- Sectors of the bank that the piece is the first to touch. -/
def sectorsTouched (s : State) (e : Sqe) : List Nat :=
  (bankSectors (!s.pewter.activeBank) (pieceOff e) (pieceLen e)).filter fun b =>
    !(if pieceOff e = 0 then [] else s.fw.erased).contains b

/-- The array once the piece is in the bank: its sectors erased, and its bytes programmed but for those of the header. -/
def bankWritten (s : State) (e : Sqe) (piece : List Byte) : Pewter :=
  let p := (sectorsTouched s e).foldl Pewter.eraseSector s.pewter
  let bs := padTo (pieceLen e) piece
  if pieceOff e = 0 then p.programBank (!s.pewter.activeBank) 64 (bs.drop 64)
  else p.programBank (!s.pewter.activeBank) (pieceOff e) bs

theorem bankWritten_seq (s : State) (e : Sqe) (piece : List Byte) : (bankWritten s e piece).seq = s.pewter.seq := by
  have herase := seq_foldl (fun _ _ => rfl) (sectorsTouched s e) s.pewter (f := Pewter.eraseSector)
  unfold bankWritten
  extract_lets p bs
  split
  · exact (seq_programBank ..).trans herase
  · exact (seq_programBank ..).trans herase

/-- The piece is received. -/
def pieceTaken (s : State) (e : Sqe) (piece : List Byte) : State :=
  { s with
    pewter := bankWritten s e piece
    fw := { s.fw with
      header := if pieceOff e = 0 then (padTo (pieceLen e) piece).take 64 else s.fw.header
      pieces := piecesBefore s e ++ [(pieceOff e, pieceLen e)]
      erased := (if pieceOff e = 0 then [] else s.fw.erased) ++ sectorsTouched s e } }

theorem doFirmwareDownload_of_good (piece : List Byte) (hlc : s.pewter.lcState ≠ 4) (hn : pieceLen e % 4096 = 0)
    (ho : pieceOff e % 4096 = 0) (hg : pieceBad (piecesBefore s e) (pieceOff e) (pieceLen e) = false) :
    doFirmwareDownload e piece s = if s.pewter.writeWaits then s.waitRead (.download e piece)
      else (pieceTaken s e piece).success e.key 0 0 [] := by
  refine (if_neg (hlc ∘ beq_iff_eq.mp)).trans ((if_neg ?_).trans ((if_neg ?_).trans ?_))
  · rw [Bool.or_eq_true, bne_iff_ne, bne_iff_ne]
    exact fun h => h.elim (· hn) (· ho)
  · rw [piecesBefore, pieceOff, pieceLen] at hg
    simpa only [beq_iff_eq, Bool.not_eq_true] using hg
  · simp only [beq_iff_eq]
    rfl

/-! ### Firmware Commit (R310, R362, R363) -/

theorem doFirmwareCommit_of_melted (h : s.pewter.lcState = 4) : doFirmwareCommit e s = s.refuse e.key scLifecycleDenied :=
  if_pos (beq_iff_eq.mpr h)

/-- What is received is the whole image and its signature, and it verifies. -/
def imageWhole (s : State) : Bool :=
  decide (field s.fw.header 16 4 + 2820 ≤ received s.fw.pieces s.fw.pieces.length 0) &&
    s.imageValid s.fw.header (s.pewter.bankBytes !s.pewter.activeBank)

/-- The image is committed: its header programmed, and the pieces forgotten. -/
def imageCommitted (s : State) : State :=
  { s with
    pewter := s.pewter.programBank (!s.pewter.activeBank) 0 s.fw.header
    fw := { s.fw with header := [], pieces := [], erased := [] } }

theorem doFirmwareCommit_of_action (hlc : s.pewter.lcState ≠ 4) (hca : bits e.cdw10.toNat 5 3 ≤ 1)
    (hbp : bits e.cdw10.toNat 2 0 ≤ 1) : doFirmwareCommit e s =
      if s.pewter.readWaits (.bank !s.pewter.activeBank) = true ∨ s.pewter.writeWaits = true then s.waitRead (.commit e)
      else if imageWhole s then
        if bits e.cdw10.toNat 5 3 = 0 then (imageCommitted s).success e.key 0 0 []
        else (imageCommitted s).nvme e.key 1 0x0B true
      else (s.reportSecurity .degraded 0x38 0 0 (field s.fw.header 8 2)).nvme e.key 1 0x07 true := by
  refine (if_neg (hlc ∘ beq_iff_eq.mp)).trans ((if_neg ?_).trans ?_)
  · simp only [Bool.or_eq_true, decide_eq_true_eq]
    omega
  · simp only [Bool.or_eq_true, beq_iff_eq]
    rfl

end

/-- Settles O11: a queue by its fields, a piece and a commit by what lets them through. -/
theorem adminQueuesAndFirmware : Obligations.AdminQueuesAndFirmware := by
  refine ⟨fun s e => ?_, fun s e piece => ?_⟩
  · intro f q n w
    exact ⟨fun ⟨hlo, hhi, hn, hpc⟩ => ⟨fun hnew hv => next_eq (doCreateIoCq_of_new hlo hhi hn hpc hnew hv),
        fun hnew hw hcq => next_eq (doCreateIoSq_of_new hlo hhi hn hpc hnew hw hcq)⟩,
      fun hq hx => next_eq (doDeleteIoSq_of_present hq hx),
      fun hq hx hfree => next_eq (doDeleteIoCq_of_unused hq hx hfree), fun h => next_eq (if_neg (Nat.not_le.mpr h)),
      fun h => next_eq (if_pos h), fun h hn => next_eq (doAer_of_none_queued h hn),
      fun ev rest h => next_eq (doAer_of_queued h)⟩
  · intro n off got ca
    refine ⟨fun h => ⟨next_eq (doFirmwareDownload_of_melted piece h), next_eq (doFirmwareCommit_of_melted h)⟩,
      fun hlc hn ho hg hw => next_eq ((doFirmwareDownload_of_good piece hlc hn ho hg).trans (if_pos hw)),
      fun hlc hn ho hg hw => ⟨pieceTaken s e piece, next_eq ((doFirmwareDownload_of_good piece hlc hn ho hg).trans
        (if_neg (Bool.eq_false_iff.mp hw))), rfl, rfl, rfl, bankWritten_seq s e piece, rfl⟩,
      fun hlc hca hbp => ⟨fun hw => next_eq ((doFirmwareCommit_of_action hlc hca hbp).trans (if_pos hw)),
        fun hr hw => next_eq ((doFirmwareCommit_of_action hlc hca hbp).trans (if_neg ?_))⟩⟩
    rw [hr, hw]
    decide

end Sys2Proof.Proofs

/-! PROOFS. Caps and the brake (R402, R407, R415, R418), sensors and their trip (R400, R408 to R411), and the hold-up bank (R399,
R434). -/

namespace Sys2Proof.Proofs

-- One declaration after another, as in the laws: each waiting thread counts against the check's memory.
set_option Elab.async false

open Sys2Proof Sys2Proof.Machine Sys2Proof.Laws

/-! ### Caps and the brake (R402, R407, R415, R418) -/

theorem wattsOk_iff {w : Nat} : wattsOk w = true ↔ 350 ≤ w ∧ w ≤ 1800 := by
  rw [wattsOk, Bool.and_eq_true, decide_eq_true_eq, decide_eq_true_eq]

/-- PWR_CTRL's fields, each stored where it is in range. -/
theorem doPwrCtrl_eq (v : Word32) (s : State) : doPwrCtrl v s =
    let h := bits v.toNat 10 0
    let b := bits v.toNat 26 16
    ({ s with power := { s.power with
        hostCap := if 350 ≤ h ∧ h ≤ 1800 then h else s.power.hostCap
        brakeW := if 350 ≤ b ∧ b ≤ 1800 then b else s.power.brakeW
        thermIrq := bit v.toNat 27, brakeIrq := bit v.toNat 28, holdupIrq := bit v.toNat 29
        cfgBusy := if (350 ≤ h ∧ h ≤ 1800) ∧ (350 ≤ b ∧ b ≤ 1800) then s.power.cfgBusy else true } } : State).capFall := by
  have hbusy (busy : Bool) (h b : Nat) : (busy || !wattsOk h || !wattsOk b) =
      if (350 ≤ h ∧ h ≤ 1800) ∧ (350 ≤ b ∧ b ≤ 1800) then busy else true := by
    simp only [← wattsOk_iff]
    cases wattsOk h <;> cases wattsOk b <;> simp
  simp only [doPwrCtrl, State.modPower, hbusy, wattsOk_iff]

section

variable {s : State} {dw0 : Word32}

/-- The cap that POWER_CAP names is 0 or in range. -/
theorem capNamed_iff {w : Nat} : (w == 0 || wattsOk w) = true ↔ w = 0 ∨ (350 ≤ w ∧ w ≤ 1800) := by
  rw [Bool.or_eq_true, beq_iff_eq, wattsOk_iff]

theorem doPowerCap_of_silent (h : s.bmc.answers = false) : doPowerCap dw0 s = s := if_pos (by rw [h]; rfl)

theorem doPowerCap_of_bad (h : s.bmc.answers = true) (hbad : bits dw0.toNat 30 11 ≠ 0 ∨
    ¬(bits dw0.toNat 10 0 = 0 ∨ (350 ≤ bits dw0.toNat 10 0 ∧ bits dw0.toNat 10 0 ≤ 1800))) :
    doPowerCap dw0 s = s.emit (.mi miInvalidParameter []) := by
  refine (if_neg (by rw [h]; decide)).trans (if_pos ?_)
  rw [Bool.or_eq_true, bne_iff_ne, Bool.not_eq_true', ← Bool.not_eq_true, capNamed_iff]
  exact hbad

/-- POWER_CAP's answer, once the cap it sets is in force. -/
theorem doPowerCap_of_good (h : s.bmc.answers = true) (hr : bits dw0.toNat 30 11 = 0)
    (hw : bits dw0.toNat 10 0 = 0 ∨ (350 ≤ bits dw0.toNat 10 0 ∧ bits dw0.toNat 10 0 ≤ 1800)) :
    doPowerCap dw0 s =
      let t := if bit dw0.toNat 31 then
        ({ s with power := { s.power with bmcCap := bits dw0.toNat 10 0 } } : State).capFall else s
      t.emit (.mi miSuccess [t.capAnswer]) := by
  refine (if_neg (by rw [h]; decide)).trans (if_neg ?_)
  rw [hr, capNamed_iff.mpr hw]
  decide

theorem allocate_brakeIrq (s : State) : s.allocate.power.brakeIrq = s.power.brakeIrq := by
  unfold State.allocate
  extract_lets
  split
  · rfl
  · rfl

theorem capFall_brakeIrq (s : State) : s.capFall.power.brakeIrq = s.power.brakeIrq := by
  unfold State.capFall
  split
  split
  · rw [power_of_frame (evalC0_frame _ _), allocate_brakeIrq]
    rfl
  split
  · rfl
  · rfl

theorem doBrakeAssert_of_low (h : s.power.brake = true) : doBrakeAssert s = s := if_pos h

theorem doBrakeAssert_of_quiet (h : s.power.brake = false) (hq : s.power.brakeIrq = false) : doBrakeAssert s =
    (({ s with power := { s.power with
      brake := true, brakeSeen := true, brakes := satAdd 8 s.power.brakes 1 } } : State).capFall.evalC0 false) := by
  refine (if_neg (Bool.eq_false_iff.mp h)).trans (if_neg ?_)
  rw [power_of_frame (evalC0_frame _ _), capFall_brakeIrq]
  exact Bool.eq_false_iff.mp hq

end

/-! ### Sensors and rails (R400, R408 to R411) -/

section

variable {s : State}

/-- The module has no power, or a trip has taken it. -/
theorem unpowered_iff : (s.power.phase == .off || s.power.phase == .tripped) = true ↔
    s.power.phase = .off ∨ s.power.phase = .tripped := by
  rw [Bool.or_eq_true, beq_iff_eq, beq_iff_eq]

theorem doThermalSensorRead_of_unpowered (h : s.power.phase = .off ∨ s.power.phase = .tripped) (r : SensorReadings) :
    doThermalSensorRead r s = s := if_pos (unpowered_iff.mpr h)

theorem doRailBrownout_of_unpowered (h : s.power.phase = .off ∨ s.power.phase = .tripped) (r : Rail) :
    doRailBrownout r s = s := if_pos (unpowered_iff.mpr h)

theorem trip_parts (s : State) (row x : Nat) : (s.trip row x).power.phase = .tripped ∧ (s.trip row x).power.tripped = true ∧
    (s.trip row x).bmc.answers = false ∧ (s.trip row x).ctrls = State.reset.ctrls ∧ (s.trip row x).sched = Sched.reset := by
  refine ⟨rfl, ?_, rfl, rfl, rfl⟩
  unfold State.trip
  extract_lets armed told written
  have hpower : (written.railsOff true).power = armed.power :=
    (power_of_frame (railsOff_frame written true)).trans ((power_of_frame (doRecordWrite_frame 0 told)).trans
      (power_of_frame (reportGeneral_frame armed _ _ _ _ _ _ _ _)))
  rw [modPower_power, hpower]
  rfl

theorem emergencyEnds_iff : (s.power.emergency && decide (s.clockUs ≥ s.power.lastHotUs + 1000000)) = true ↔
    s.power.emergency = true ∧ s.power.lastHotUs + 1000000 ≤ s.clockUs := by
  rw [Bool.and_eq_true, decide_eq_true_eq]

variable (hoff : s.power.phase ≠ .off) (htrip : s.power.phase ≠ .tripped)

include hoff htrip

theorem not_unpowered : ¬(s.power.phase == .off || s.power.phase == .tripped) = true := by
  rw [unpowered_iff]
  exact fun h => h.elim hoff htrip

theorem doThermalSensorRead_of_untripped {r : SensorReadings}
    (h : tripOf r (s.withSmart fun s => s.readSensors r).power.flowLowSince
      (s.withSmart fun s => s.readSensors r).clockUs = none) :
    doThermalSensorRead r s = s.withSmart fun s => s.readSensors r := by
  refine (if_neg (not_unpowered hoff htrip)).trans ?_
  simp only [h]

theorem doThermalSensorRead_of_trip {r : SensorReadings} {y : Nat × Nat}
    (h : tripOf r (s.withSmart fun s => s.readSensors r).power.flowLowSince
      (s.withSmart fun s => s.readSensors r).clockUs = some y) :
    doThermalSensorRead r s = (s.withSmart fun s => s.readSensors r).trip y.1 y.2 := by
  refine (if_neg (not_unpowered hoff htrip)).trans ?_
  simp only [h]

theorem doRailBrownout_of_pewter : doRailBrownout .pewter s = (doPewterBrownout s).resumeReads :=
  if_neg (not_unpowered hoff htrip)

theorem doRailBrownout_of_low_nand {g : DieId} (h : s.power.rails.contains (.nandVcc g) = true) :
    doRailBrownout (.nandVcc g) s = s := (if_neg (not_unpowered hoff htrip)).trans (if_pos h)

/-- The loss of a channel die's rail is the loss of power, once its Failed record is written. -/
theorem doRailBrownout_of_die (d : DieId) : ∃ (u : State) (committed : Bool),
    doRailBrownout (.channelDie d) s = u.powerOff committed false := by
  rw [doRailBrownout, if_neg (not_unpowered hoff htrip)]
  exact ⟨_, _, rfl⟩

end

/-! ### The hold-up bank (R399, R434) -/

/-- Joules usable at the voltage measured. -/
def usableNow (p : Power) : Nat :=
  if p.bankV ≤ 350 then 0 else match p.capUf with
    | some c => usableAt c p.bankV
    | none => 0

/-- USABLE_J and HOLDUP_OK as the bank's measurements have them. -/
def bankUpdated (p : Power) : Power :=
  { p with
    usableJ := min (usableNow p) 1023, holdupOk := p.inputGood && decide (90 ≤ usableNow p) && !p.holdupLow }

theorem holdupUpdate_power (s : State) : s.holdupUpdate.power = bankUpdated s.power := by
  unfold State.holdupUpdate
  extract_lets p u ok t
  have ht : t.power = bankUpdated s.power := rfl
  split
  · exact (power_of_frame (signal_frame t)).trans ht
  · exact ht

theorem withSmart_power (s : State) (f : State → State) : (s.withSmart f).power = (f s).power :=
  power_of_frame (smartCheck_frame (f s) s.criticalWarning)

theorem withSmart_holdupUpdate_power (s : State) (f : State → State) :
    (s.withSmart fun s => (f s).holdupUpdate).power = bankUpdated (f s).power :=
  (withSmart_power s _).trans (holdupUpdate_power _)

theorem doHoldupChange_power (v : Nat) (s : State) :
    (doHoldupChange v s).power = bankUpdated { s.power with bankV := min v 1023 } :=
  (withSmart_power s _).trans (holdupUpdate_power _)

/-- A function of the measured joules, case by case. -/
theorem apply_measured {α : Type} (g : Nat → α) (low : Prop) [Decidable low] (o : Option Nat) (f : Nat → Nat) :
    g (if low then 0 else match o with | some c => f c | none => 0) =
      if low then g 0 else match o with | some c => g (f c) | none => g 0 := by
  cases o <;> exact apply_ite g _ _ _

/-- USABLE_J by the capacitance measured. -/
theorem bankUpdated_usableJ (p : Power) : (bankUpdated p).usableJ =
    if p.bankV ≤ 350 then 0 else match p.capUf with
      | some c => min (usableAt c p.bankV) 1023
      | none => 0 :=
  apply_measured (min · 1023) (p.bankV ≤ 350) p.capUf (usableAt · p.bankV)

/-- HOLDUP_OK by the capacitance measured. -/
theorem bankUpdated_holdupOk (p : Power) : (bankUpdated p).holdupOk = (p.inputGood && !p.holdupLow &&
    if p.bankV ≤ 350 then false else match p.capUf with
      | some c => decide (90 ≤ usableAt c p.bankV)
      | none => false) :=
  (Bool.and_right_comm _ _ _).trans (congrArg (p.inputGood && !p.holdupLow && ·)
    (apply_measured (fun u : Nat => decide (90 ≤ u)) (p.bankV ≤ 350) p.capUf (usableAt · p.bankV)))

/-- The capacitance is measured; a check that fails is marked, and the first to fail in a power cycle writes its record. -/
def capacitanceMeasured (uf : Nat) (s : State) : State :=
  let t : State := { s with power := { s.power with capUf := some uf } }
  if usableAt uf 800 < 90 && !s.power.holdupLow then
    (t.modPower fun p => { p with holdupLow := true }).reportGeneral .powerManager .degraded 0x51 0 0
      (usableAt uf 800) none 0
  else t

theorem doCapacitanceCheck_eq (uf : Nat) (s : State) : doCapacitanceCheck uf s =
    s.withSmart fun s => (capacitanceMeasured uf s).holdupUpdate := rfl

theorem capacitanceMeasured_power (uf : Nat) (s : State) : (capacitanceMeasured uf s).power =
    { s.power with capUf := some uf, holdupLow := s.power.holdupLow || decide (usableAt uf 800 < 90) } := by
  unfold capacitanceMeasured
  extract_lets t
  split
  next h =>
    obtain ⟨hlow, -⟩ := (Bool.and_eq_true _ _).mp h
    rw [power_of_frame (reportGeneral_frame _ _ _ _ _ _ _ _ _), hlow, Bool.or_true]
    rfl
  next h =>
    have hlow : (s.power.holdupLow || decide (usableAt uf 800 < 90)) = s.power.holdupLow := by
      rw [Bool.and_eq_true, Bool.not_eq_true', not_and_or, Bool.not_eq_false] at h
      rcases h with h | h
      · rw [Bool.not_eq_true _ |>.mp h, Bool.or_false]
      · rw [h, Bool.true_or]
    rw [hlow]

theorem doCapacitanceCheck_power (uf : Nat) (s : State) :
    (doCapacitanceCheck uf s).power = bankUpdated (capacitanceMeasured uf s).power :=
  (congrArg State.power (doCapacitanceCheck_eq uf s)).trans
    (withSmart_holdupUpdate_power s (capacitanceMeasured uf))

/-- Settles O27: caps and pins by their fields, sensors and rails by the phase of the module, the bank by what is measured. -/
theorem capsSensorsAndRails : Obligations.CapsSensorsAndRails := by
  refine ⟨fun s v dw0 o => ?_, fun s r v uf => ⟨fun hoff htrip => ?_, fun h => ?_, fun h ht => ?_, fun h => ?_, ?_, ?_,
    fun hoff htrip => ?_⟩⟩
  -- caps and the brake
  · intro h b w
    refine ⟨next_eq (doPwrCtrl_eq v s), fun hb => next_eq (doPowerCap_of_silent hb), fun hb hr hw hset => next_eq ?_,
      fun hb hr hw hset => next_eq ?_, fun hb hbad => next_eq (doPowerCap_of_bad hb hbad),
      fun hb => next_eq (doBrakeAssert_of_low hb), fun hb hq => next_eq (doBrakeAssert_of_quiet hb hq), rfl,
      fun hg => next_eq (if_neg (Bool.eq_false_iff.mp hg))⟩
    · rw [doPowerCap_of_good hb hr hw, hset]
      rfl
    · rw [doPowerCap_of_good hb hr hw, hset]
      rfl
  -- a reading of the sensors
  · refine ⟨fun hnone => next_eq (doThermalSensorRead_of_untripped hoff htrip hnone), fun row x hsome =>
      ⟨_, next_eq (doThermalSensorRead_of_trip hoff htrip hsome), trip_parts ..⟩⟩
  · exact ⟨next_eq (doThermalSensorRead_of_unpowered h r), fun rail => next_eq (doRailBrownout_of_unpowered h rail)⟩
  -- the end of an emergency
  · exact next_eq (if_pos (emergencyEnds_iff.mpr ⟨h, ht⟩))
  · refine next_eq (if_neg fun hx => ?_)
    obtain ⟨hem, ht⟩ := emergencyEnds_iff.mp hx
    exact h.elim (fun hno => Bool.eq_false_iff.mp hno hem) (Nat.not_lt.mpr ht)
  -- the voltage of the bank
  · have hp := doHoldupChange_power v s
    have hf : Frame [.power, .ctrls, .sched, .out] s (doHoldupChange v s) := (Frame.refl s).step (doHoldupChange_frame v s)
    refine ⟨_, rfl, congrArg Power.bankV hp, ?_, ?_, eq_of_frame hf⟩
    · rw [hp]
      exact bankUpdated_usableJ _
    · rw [hp]
      exact bankUpdated_holdupOk _
  -- the capacitance of the bank
  · have hp := doCapacitanceCheck_power uf s
    rw [capacitanceMeasured_power] at hp
    refine ⟨_, rfl, congrArg Power.capUf hp, ?_, fun hok => ?_⟩
    · rw [hp]
      exact Bool.or_eq_true_iff.trans (or_congr_right decide_eq_true_iff)
    · rw [hp, bankUpdated_holdupOk, Bool.and_eq_true, Bool.and_eq_true, Bool.not_eq_true'] at hok
      obtain ⟨⟨hgood, hlow⟩, -⟩ := hok
      rw [hp]
      exact ⟨hgood, hlow⟩
  -- rails
  · refine ⟨next_eq (doRailBrownout_of_pewter hoff htrip), fun g hg => next_eq (doRailBrownout_of_low_nand hoff htrip hg),
      fun d => ?_⟩
    obtain ⟨u, committed, hd⟩ := doRailBrownout_of_die hoff htrip d
    obtain ⟨hpower, -, hctrls, -⟩ := powerOff_resets (s := u) (committed := committed) (overV := false)
    exact ⟨_, next_eq hd, by rw [hpower]; rfl, hctrls⟩

end Sys2Proof.Proofs
